-- ==== Sys2Proof/Word.lean ====
section
/-! DEFINITION. The word types of the LMZ8192 and their plainest arithmetic. -/

namespace Sys2Proof

/-- A register or payload word. -/
abbrev W32 := BitVec 32
/-- A byte of a buffer, an image or a wire. -/
abbrev Byte := BitVec 8
/-- A media time, or any 64-bit quantity of the command protocol. -/
abbrev W64 := BitVec 64
/-- A sample in Q1.23 (R48, R229). -/
abbrev Sample := BitVec 24
/-- A wide accumulator of the brick datapath (R229). -/
abbrev Wide := BitVec 56

/-- Bits `[lo + n − 1 : lo]` of a word, as a number. -/
def bits (w : W32) (lo n : Nat) : Nat := (w.toNat >>> lo) % 2 ^ n

/-- Bit `i` of a word. -/
def bit (w : W32) (i : Nat) : Bool := w.getLsbD i

/-- `w` with bits `[lo + n − 1 : lo]` replaced by the low `n` bits of `v`. -/
def setBits (w : W32) (lo n v : Nat) : W32 :=
  let mask : W32 := BitVec.ofNat 32 ((2 ^ n - 1) <<< lo)
  (w &&& ~~~mask) ||| (BitVec.ofNat 32 ((v % 2 ^ n) <<< lo))

/-- The signed value of an `n`-bit field. -/
def signed (n v : Nat) : Int :=
  if v % 2 ^ n < 2 ^ (n - 1) then (v % 2 ^ n : Nat) else ((v % 2 ^ n : Nat) : Int) - 2 ^ n

/-- The two's-complement `n`-bit code of an integer. -/
def unsigned (n : Nat) (i : Int) : Nat := (i % (2 ^ n : Nat)).toNat

/-- Limit an integer to a range. -/
def clampI (lo hi i : Int) : Int := if i < lo then lo else if hi < i then hi else i

/-- A Boolean as a bit. -/
def b2n (b : Bool) : Nat := if b then 1 else 0

/-- A counter of `n` bits that saturates at its largest value (R511). -/
def satInc (n v k : Nat) : Nat := min (2 ^ n - 1) (v + k)

/-- The four bytes of a word, byte 0 first (R267). -/
def wordBytes (w : W32) : List Byte :=
  [w.extractLsb' 0 8, w.extractLsb' 8 8, w.extractLsb' 16 8, w.extractLsb' 24 8]

/-- The word whose little-endian bytes are given. -/
def ofBytes (b0 b1 b2 b3 : Byte) : W32 := b3 ++ b2 ++ b1 ++ b0

/-- A number as a word, modulo 2³². -/
abbrev w32 (n : Nat) : W32 := BitVec.ofNat 32 n

/-- Low and high words of a 64-bit number, low word first. -/
def lo32 (n : Nat) : W32 := w32 n
def hi32 (n : Nat) : W32 := w32 (n >>> 32)

end Sys2Proof
end

