-- ==== Sys2Proof/Syntax.lean ====
section
/-! DEFINITION. The commands and events that the block takes, one constructor per row of the command table. -/

namespace Sys2Proof

/-- A command of the Kaette Command Protocol as it lies in a channel when the Mason pair takes it
(R274: the 16-byte header, then the payload words). -/
structure Kcp where
  /-- Channel 0–3 MB0–MB3, 4 VC2, 5 framed KCP on UART[1] (R261, R282). -/
  chan : Fin 6
  /-- SEQ (R274, R278). -/
  seq : BitVec 16
  /-- LEN as the header carries it, in bytes (R274). -/
  len : BitVec 12
  /-- STRICT (R274). -/
  strict : Bool
  /-- NOTIFY (R274). -/
  notify : Bool
  /-- Some reserved bit of the header is set (R276 step 3). -/
  rsvd : Bool
  /-- AT, the media time; 0 means immediately (R16, R274). -/
  time : W64
  /-- The transport check under R272 or R284 passed (R276 step 1). -/
  crcOk : Bool
  /-- The payload words, as many as arrived. -/
  payload : List W32
  deriving DecidableEq, Repr

/-- The two paths on which a register is read (R9, R534). -/
inductive ReadPath where
  /-- the host SPI -/
  | spi
  /-- an agent of the MCLK domain -/
  | mclk
  deriving DecidableEq, Repr

/-- The wake sources of R491, with the code SYS_WAKE.SRC gives them. -/
inductive WakeSource where
  | contact | uart | hostCs | timer | pps | squall
  deriving DecidableEq, Repr

/-- An agent of the slab space: an owner code of R431 and, for an audio port, its OWNER_SUB. -/
structure Agent where
  code : Fin 16
  sub : Fin 16
  deriving DecidableEq, Repr

/-- The forms of a handover request: a write of SLAB[n]_HANDOVER by an agent (R433), and the command SLAB.HANDOVER, which the Mason
pair carries out as that write (R305, R306) (DEDUCED, notes/assumptions/75.md). -/
inductive HandoverForm where
  | register (slab : Fin 32) (writer : Agent) (newOwner : Fin 16) (newSub : Fin 16)
  | command (k : Kcp)
  deriving DecidableEq, Repr

/-- What a move of the kernel datapath does (R233). -/
inductive MoveOp where
  | none | load | store
  deriving DecidableEq, Repr

/-- One move field of an instruction word (R233). -/
structure Move where
  ptr : Fin 8
  op : MoveOp
  reg : Fin 16
  upd : Fin 4
  deriving DecidableEq, Repr

/-- The mortar types of a JOIN word (R100). -/
inductive JoinKind where
  | butt | xfade | psj | gap
  deriving DecidableEq, Repr

/-- The actions of a TONE word (R102). -/
inductive ToneAction where
  | start | release | cut
  deriving DecidableEq, Repr

/-- The kinds of a SYNC word (R103). -/
inductive SyncKind where
  | grid | contact | after | at
  deriving DecidableEq, Repr

/-- The check points of a zone's pilot (R389). -/
inductive PilotPoint where
  | internal | roleA | roleB
  deriving DecidableEq, Repr

/-- What ends a march-test window visit (R438). -/
inductive MarchOutcome where
  | pass
  /-- the owner touched the borrowed window -/
  | aborted
  /-- a march element failed at a word of the slab -/
  | failed (word : Nat)
  deriving DecidableEq, Repr

/-- What a checked read of bank memory finds (R441). -/
inductive EccError where
  | none | corrected | uncorrectable
  deriving DecidableEq, Repr

/-- What the SECDED check of a slab word finds: the column 0–71 of a single-bit error (R429, R436). -/
inductive WordError where
  | none | single (column : Fin 72) | uncorrectable
  deriving DecidableEq, Repr

/-- What the boot NOR's discovery reads (R443): `valid` is a valid SFDP. -/
structure NorPart where
  valid : Bool
  jedec : BitVec 24
  sfdpRev : Byte
  sizeMib : Nat
  quad : Bool
  addr4 : Bool
  deriving DecidableEq, Repr

/-- One copy of a NOR region as it lies in the flash (R444, R445). -/
structure NorCopy where
  /-- Its signature checks. -/
  valid : Bool
  seq : Nat
  /-- Firmware: the version word of SYS.GET_CAPS word 7. -/
  version : W32
  /-- The image bytes. -/
  bytes : List Byte
  deriving DecidableEq, Repr

/-- The content of the boot NOR (R444): the part, and both copies of regions 1 to 3. -/
structure NorImage where
  part : NorPart
  fwA : NorCopy
  fwB : NorCopy
  vaultA : NorCopy
  vaultB : NorCopy
  cfgA : NorCopy
  cfgB : NorCopy
  deriving DecidableEq, Repr

/-- What the release of reset finds outside the device: the levels latched from CT[0]–CT[3] (R463), and the
flash contents when the part on the board is not the one the state already holds. -/
structure BootEnv where
  straps : BitVec 4
  flash : Option NorImage
  deriving DecidableEq, Repr

/-- The head that every course-link message shares (R333): the origin's course, its twin role and its SEQ. -/
structure MsgHead where
  course : Fin 8
  roleB : Bool
  seq : BitVec 16
  deriving DecidableEq, Repr

/-- A course-link frame as one port receives it (R331). -/
structure CourseFrame where
  course : Fin 8
  roleB : Bool
  marker : Bool
  active : Bool
  keystone : Bool
  fault : Bool
  hops : Nat
  mt : W64
  /-- The masked send channels, each with its S samples. -/
  channels : List (Nat × List Sample)
  crcOk : Bool
  deriving DecidableEq, Repr

/-- The changes a TIME message carries (R333, R40, R41, R158). -/
inductive TimeChange where
  | jump (blocks : Nat) (block : Nat)
  | rate (code : Fin 4) (block : Nat)
  | runAhead (ra : Nat) (block : Nat)
  | epoch (mt : W64) (block : Nat)
  | offset (p : Nat)
  deriving DecidableEq, Repr

/-- SQUALL and SQUALL_END (R333, R345). -/
inductive SquallMsg where
  | start (block : Nat)
  | stop (mt : W64)
  deriving DecidableEq, Repr

/-- What a Dew step measured in a zone (R404, R408). -/
structure DewMeasure where
  /-- Nothing to act on: the step records SKIPPED. -/
  skipped : Bool
  flag : Bool
  margin : Nat
  weakBin : Nat
  headroom : Nat
  ohms : Nat
  trimErr : Nat
  deriving DecidableEq, Repr
/-- The commands and events of the block: one constructor per row of the command table, in its order.
`R<n>` names the rule of the specification that the row cites. -/
inductive Instr where
  /-- R481: A monitored rail falls below its POR level for 2 µs or more, or rails rise out of order, and the device enters RESET. -/
  | powerOnReset
  /-- R486: RESET_N held low for at least 1 µs resets the device; shorter pulses under 100 ns are ignored. -/
  | pinReset (lowNs : Nat)
  /-- R484: Release of reset moves the device from RESET into BOOT, where the boot ROM discovers the NOR and loads firmware. -/
  | resetRelease (env : BootEnv)
  /-- R45: BOOT completes, HOST_STATUS.READY rises, media time starts counting from 0 unless retained, and the device enters IDLE. -/
  | readyRise (bootMs : Nat) (goldenFailed : List Nat)
  /-- R417: The 50 ms Mason watchdog expires and the device performs a WDOG reset. -/
  | watchdogExpiry
  /-- R417: RESET_DELAY ms after a RESET reaction, the supervisor performs a SAFE reset. -/
  | resetDelayExpiry
  /-- R375: An analogue rail falls past 3.8 V in magnitude; every AOUT switch opens within 1 µs and enabled channels go to RAIL_OFF. -/
  | analogueRailLow
  /-- R375: After both analogue rails have been good for 10 ms, RAIL_OFF channels restart as at enable. -/
  | analogueRailRestore
  /-- R489: After the last POST frame of Lull entry, records are written and every domain except always-on powers off. -/
  | lullPowerDown
  /-- R491: A registered wake source brings the device from Lull back through the wake steps to its prior state or RUN. -/
  | lullWake (source : WakeSource) (lclk : Nat) (wakeMs : Nat) (tcmOk : Bool) (bankOk : Bool)
  /-- R266: A host SPI write transaction is applied in address order if its CRC, framing, length and addresses are valid, otherwise discarded with LAST_WR_ERR. -/
  | spiWriteTransaction (wire : List Byte) (extraBits : Nat)
  /-- R268: A host SPI read transaction returns aligned words with a CRC-8 and has no side effect except the MT_LO latch. -/
  | spiReadTransaction (addr : BitVec 24) (words : Nat)
  /-- R9: A write to a register field without a row of its own behaves according to its access code. -/
  | registerWrite (addr : Nat) (value : W32)
  /-- R9: A read of an RC field by an MCLK-domain agent returns the value and clears it. -/
  | registerReadClear (addr : Nat)
  /-- R534: A read of an MT_LO register latches bits [63:32] into the companion _HI latch of the reading path. -/
  | mtLoRead (path : ReadPath) (addr : Nat)
  /-- R279: Writing MB[m]_CTRL.SEQ_RESET clears the mailbox's LAST and cache, after any pending response. -/
  | seqReset (m : Fin 4)
  /-- R283: Writing n to EVQ_ACK advances RD by min(n, USED), consuming event records. -/
  | evqAck (n : Nat)
  /-- R266: Writing 1 to HOST_SPI_ERR.CNT_CLR clears the discarded-write counter. -/
  | spiErrCntClr
  /-- R44: Setting TIME_EPOCH_CTRL.ARM arms a load of TIME_EPOCH at the next block tick or PPS edge. -/
  | epochArm
  /-- R433: A write of SLAB[n]_HANDOVER requests an owner change, which is dropped or accepted and starts draining. -/
  | slabHandover (form : HandoverForm)
  /-- R433: Within 64 MCLK cycles of an accepted handover, OWNER takes the new code and held accesses proceed. -/
  | handoverDrainDone (slab : Fin 32)
  /-- R430: A 32-bit write through the normal view replaces half a 64-bit slab word by read-modify-write. -/
  | slabNormalWrite (slab : Fin 32) (agent : Agent) (half : Fin 131072) (data : W32)
  /-- R430: A write through the set alias atomically sets the bits that are 1 in its data. -/
  | slabSetAliasWrite (slab : Fin 32) (agent : Agent) (half : Fin 131072) (data : W32)
  /-- R430: A write through the clear alias atomically clears the bits that are 1 in its data. -/
  | slabClearAliasWrite (slab : Fin 32) (agent : Agent) (half : Fin 131072) (data : W32)
  /-- R469: A write to UART[n]_TXD queues one character behind the transmit shifter, ignored while TXD_FULL. -/
  | uartTxdWrite (n : Fin 2) (ch : Byte)
  /-- R468: A read of UART[n]_RXD returns the held character and clears VALID, sending XON if an XOFF was sent. -/
  | uartRxdRead (n : Fin 2)
  /-- R450: A write to TIM[n]_CMP[c] sets the compare value and arms the channel without causing a match. -/
  | timCmpWrite (n : Fin 16) (c : Fin 4) (value : W32)
  /-- R452: A write to TIM[n]_PERIOD is shadowed until the next reset, or applied at once with PERIOD_IMM or on a stopped timer. -/
  | timPeriodWrite (n : Fin 16) (value : W32)
  /-- R294: Returns the 8 capability words fixed at manufacture. -/
  | sysGetCaps (k : Kcp)
  /-- R293: Returns power state, reset kind, CONFIG_VALID, SAFE_FAULT_N, uptime and unread protected records. -/
  | sysGetStatus (k : Kcp)
  /-- R295: Performs a SOFT reset of the device or a BLOCK reset of one target block. -/
  | sysReset (k : Kcp)
  /-- R296: Moves the device between IDLE, RUN and LULL, aborting jobs and making outputs inert or live as the target requires. -/
  | sysSetState (k : Kcp)
  /-- R297: Captures the configuration image and returns its length, SHA-256 digest and TAG. -/
  | sysConfigBuild (k : Kcp)
  /-- R297: Checks the signature and writes the held configuration image to the NOR. -/
  | sysConfigCommit (k : Kcp)
  /-- R297: Clears the configuration region of the NOR. -/
  | sysConfigErase (k : Kcp)
  /-- R445: An erase, write and read-back of the copy not in use completes and the HEADER record switches copies. -/
  | norRegionUpdateDone (region : Fin 4) (ok : Bool)
  /-- R293: Returns its payload unchanged. -/
  | sysEcho (k : Kcp)
  /-- R298: Returns the lock mask, key slots, debug and fault state, NONCE and record count. -/
  | safeGetStatus (k : Kcp)
  /-- R298: Returns up to 31 fault records from the log. -/
  | safeGetFaults (k : Kcp)
  /-- R418: Releases protected records and clears every LATCHED bit whose ACTIVE bit is 0. -/
  | safeAckFaults (k : Kcp)
  /-- R302: Sets the safety lock mask over opcode groups, on MB0 only. -/
  | safeSetLock (k : Kcp)
  /-- R299: Writes a public key into an eFuse key slot once. -/
  | safeProvision (k : Kcp)
  /-- R300: Leaves FAULT for IDLE if the causing condition is no longer detected. -/
  | safeRecover (k : Kcp)
  /-- R427: Injects a fault of a given mechanism code, to which the device reacts as to a real one. -/
  | safeInject (k : Kcp)
  /-- R301: Opens a staging of a firmware or vault image from VC1 or the mailbox. -/
  | safeUpdate (k : Kcp)
  /-- R301: Writes up to 1,016 bytes into the open SAFE.UPDATE staging. -/
  | safeUpdateWrite (k : Kcp)
  /-- R301: When the last byte of an update image arrives, the device checks its signature, writes the region and reads it back. -/
  | safeUpdateImageComplete (norOk : Bool)
  /-- R302: Unlocks debug access with a signature over device ID and NONCE until the next reset. -/
  | safeDebugUnlock (k : Kcp)
  /-- R304: Requests a Strike at the command's sample under the routing-change column of R16. -/
  | snapStrike (k : Kcp)
  /-- R502: Sets the Strike source enables, timer source and media-time match, re-arming the match. -/
  | snapSetSources (k : Kcp)
  /-- R508: Reads part of a snapshot set of a held Strike. -/
  | snapRead (k : Kcp)
  /-- R303: Returns sequence, source, MT and COMPLETE of the 4 newest Strikes. -/
  | snapGetStatus (k : Kcp)
  /-- R305: Returns owner images and error counts of the 32 slabs. -/
  | slabGetStatus (k : Kcp)
  /-- R306: Reads bytes from a slab owned by NONE, MASON, HOST_DMA or VAULT. -/
  | slabRead (k : Kcp)
  /-- R306: Writes bytes to a slab owned by HOST_DMA, through a normal, set or clear view. -/
  | slabWrite (k : Kcp)
  /-- R439: Replaces one column of a slab owned by NONE with a field-repair spare column. -/
  | slabRepair (k : Kcp)
  /-- R438: Runs one scrub or march pass on one slab using every free port-B cycle. -/
  | slabScrub (k : Kcp)
  /-- R438: A commanded scrub or march pass on a slab completes. -/
  | slabScrubPassDone (slab : Fin 32) (march : Bool) (corrected : Nat) (uncorrected : Nat)
  /-- R47: Returns MT, C, L, P, RA, the selected reference, mode and TIME_FLAGS. -/
  | timeGet (k : Kcp)
  /-- R44: Schedules a load of a given MT at a block tick or PPS edge, cancelling any pending load. -/
  | timeSetEpoch (k : Kcp)
  /-- R41: Schedules a change of operating rate at block A. -/
  | timeSetRate (k : Kcp)
  /-- R47: Writes the reference configurations, REVERT and FORCE_REF, effective at the next block tick. -/
  | timeSetRefs (k : Kcp)
  /-- R47: Returns state, offset, frequency error and counters of all four references. -/
  | timeGetRefs (k : Kcp)
  /-- R158: Sets the run-ahead depth, effective as a routing change and moving by one block per tick. -/
  | timeSetRa (k : Kcp)
  /-- R308: A VC2 time message carrying the MT of a stream-port frame serves as an edge of reference 2. -/
  | timeMessage (mt : W64) (frame : W32) (crcOk : Bool)
  /-- R31: An edge or marker of a reference arrives and is checked against ±1 % of its expected period. -/
  | refEdge (n : Fin 4) (period : Nat) (offset : Int)
  /-- R31: No edge within 2 expected periods makes the reference LOST and, if selected, enters holdover. -/
  | refEdgeTimeout (n : Fin 4)
  /-- R30: A reference completes QUAL_MS without a glitch, qualifies and may be selected at the next block tick. -/
  | refQualified (n : Fin 4)
  /-- R37: A slewed phase step completes and TIME_STATUS.SLEWING clears. -/
  | slewDone
  /-- R32: A PPS_IN edge is checked against one second and may load an epoch with WHEN = 1. -/
  | ppsEdge (good : Bool) (offset : Int)
  /-- R32: PPS missing or glitched for 2 consecutive seconds sets PPS_LOST while frequency lock holds. -/
  | ppsLoss
  /-- R26: At every sample whose MT is a multiple of the block length, every unit hands its block on and advances. -/
  | blockTick
  /-- R41: At block A all outputs ramp to zero, and at its end upper-slot voices stop on a change to double rate. -/
  | rateChangeStart
  /-- R41: The MPLL locks after a family change or after wake, and outputs restart after rendering RA blocks. -/
  | mpllRelockDone (us : Nat)
  /-- R137: A job that has waited MAX_WAIT blocks in READY ends ABORTED with reason TIMEOUT. -/
  | maxWaitExpiry (record : Nat)
  /-- R207: After every 64 gap blocks a zone sets a new ambient estimate and target gain. -/
  | ambientEstimate (zone : Nat)
  /-- R219: At the tick after a destination fails, its fallback starts carrying the zone output. -/
  | fallbackSwitch (zone : Nat) (roleB : Bool)
  /-- R220: With FB_AUTO, after 15,000 good blocks the zone restores its failed destination. -/
  | fallbackAutoRestore (zone : Nat) (roleB : Bool)
  /-- R223: A draining zone's FIR and delay have emptied and it stops as for CUT. -/
  | zoneDrainDone (zone : Nat)
  /-- R129: A prefetch CRC check of an unverified tile completes and marks it good or BAD. -/
  | tileCrcCheckDone (bank : Nat) (tile : Nat)
  /-- R164: A queued rollback restores a checkpoint, re-renders silently, compares, and re-stages blocks e to F. -/
  | rollbackRerender (src : Nat)
  /-- R253: A call reaching its cycle budget without DONE is cut and its block handled as late. -/
  | kernelBudgetExpiry (src : Nat) (pc : Nat)
  /-- R241: An illegal instruction word ends the call before it executes and the block is handled as late. -/
  | illegalWord (src : Nat) (pc : Nat)
  /-- R235: Kernel operation that does nothing for 1 cycle. -/
  | nop (m1 : Move) (m2 : Move)
  /-- R235: Kernel operation WD := ±(CI × SI). -/
  | mul (wd : Fin 4) (ci : Fin 4) (si : Fin 4) (neg : Bool) (m1 : Move) (m2 : Move)
  /-- R235: Kernel operation WD := WD ± CI × SI. -/
  | mad (wd : Fin 4) (ci : Fin 4) (si : Fin 4) (neg : Bool) (m1 : Move) (m2 : Move)
  /-- R235: Kernel operation Wi := ±(Ci × Si) for i = 0-3. -/
  | mul4 (neg : Bool) (m1 : Move) (m2 : Move)
  /-- R235: Kernel operation Wi := Wi ± Ci × Si for i = 0-3. -/
  | mad4 (neg : Bool) (m1 : Move) (m2 : Move)
  /-- R235: Kernel operation accumulating C0 × Si into Wi and shifting the S delay chain. -/
  | fir4 (neg : Bool) (m1 : Move) (m2 : Move)
  /-- R235: Kernel operation clearing W0-W3. -/
  | zero4 (m1 : Move) (m2 : Move)
  /-- R235: Kernel operation WD := WD + WS. -/
  | addw (wd : Fin 4) (ws : Fin 4) (os : Fin 8) (m1 : Move) (m2 : Move)
  /-- R235: Kernel operation WD := WD − WS. -/
  | subw (wd : Fin 4) (ws : Fin 4) (os : Fin 8) (m1 : Move) (m2 : Move)
  /-- R235: Kernel operation WD := −WD. -/
  | negw (wd : Fin 4) (ws : Fin 4) (os : Fin 8) (m1 : Move) (m2 : Move)
  /-- R235: Kernel operation WD := |WD|. -/
  | absw (wd : Fin 4) (ws : Fin 4) (os : Fin 8) (m1 : Move) (m2 : Move)
  /-- R235: Kernel operation WD := 0. -/
  | zeroW (wd : Fin 4) (ws : Fin 4) (os : Fin 8) (m1 : Move) (m2 : Move)
  /-- R235: Kernel operation loading an operand register into WD as a sample. -/
  | wld (wd : Fin 4) (ws : Fin 4) (os : Fin 8) (m1 : Move) (m2 : Move)
  /-- R237: Kernel operation storing WD into an operand register, rounded and clamped. -/
  | wst (wd : Fin 4) (ws : Fin 4) (os : Fin 8) (m1 : Move) (m2 : Move)
  /-- R235: Kernel operation rounding WD below its sample field under CFG.CHOP. -/
  | rndw (wd : Fin 4) (ws : Fin 4) (os : Fin 8) (m1 : Move) (m2 : Move)
  /-- R235: Kernel operation shifting WD arithmetically by IMM13. -/
  | shw (wd : Fin 4) (imm : BitVec 13) (m1 : Move) (m2 : Move)
  /-- R235: Kernel operation adding IMM13 to WD at bit 0. -/
  | addwi (wd : Fin 4) (imm : BitVec 13) (m1 : Move) (m2 : Move)
  /-- R235: Kernel operation OD := OD and OS. -/
  | andOp (od : Fin 8) (os : Fin 8) (imm : BitVec 6) (m1 : Move) (m2 : Move)
  /-- R235: Kernel operation OD := OD or OS. -/
  | orOp (od : Fin 8) (os : Fin 8) (imm : BitVec 6) (m1 : Move) (m2 : Move)
  /-- R235: Kernel operation OD := OD xor OS. -/
  | xorOp (od : Fin 8) (os : Fin 8) (imm : BitVec 6) (m1 : Move) (m2 : Move)
  /-- R235: Kernel operation shifting OD logically by IMM6. -/
  | lsh (od : Fin 8) (os : Fin 8) (imm : BitVec 6) (m1 : Move) (m2 : Move)
  /-- R235: Kernel operation copying one address register to another. -/
  | amov (ad : Fin 32) (as : Fin 32) (m1 : Move) (m2 : Move)
  /-- R242: Kernel operation updating a pointer by an immediate under the window rules. -/
  | padd (pt : Fin 8) (imm : BitVec 13) (m1 : Move) (m2 : Move)
  /-- R231: Kernel operation setting CFG.SATW and CFG.CHOP. -/
  | setcfg (imm : BitVec 10) (m1 : Move) (m2 : Move)
  /-- R235: Kernel operation reading FLAGS into an operand register. -/
  | rdfl (od : Fin 8) (os : Fin 8) (imm : BitVec 6) (m1 : Move) (m2 : Move)
  /-- R235: Kernel operation clearing selected FLAGS bits. -/
  | clrfl (imm : BitVec 10) (m1 : Move) (m2 : Move)
  /-- R235: Kernel long-immediate load of an operand register. -/
  | ldo (od : Fin 8) (imm : BitVec 24)
  /-- R235: Kernel long-immediate load of an address register. -/
  | lda (ad : Fin 32) (imm : BitVec 24)
  /-- R240: Kernel unconditional branch to TARGET. -/
  | jmp (target : BitVec 13) (m1 : Move) (m2 : Move)
  /-- R235: Kernel branch if Wn equals 0. -/
  | jeq (wn : Fin 4) (target : BitVec 13) (m1 : Move) (m2 : Move)
  /-- R235: Kernel branch if Wn is not 0. -/
  | jne (wn : Fin 4) (target : BitVec 13) (m1 : Move) (m2 : Move)
  /-- R235: Kernel branch if Wn is below 0. -/
  | jlt (wn : Fin 4) (target : BitVec 13) (m1 : Move) (m2 : Move)
  /-- R235: Kernel branch if Wn is at least 0. -/
  | jge (wn : Fin 4) (target : BitVec 13) (m1 : Move) (m2 : Move)
  /-- R235: Kernel branch if Wn is at most 0. -/
  | jle (wn : Fin 4) (target : BitVec 13) (m1 : Move) (m2 : Move)
  /-- R235: Kernel branch if Wn is above 0. -/
  | jgt (wn : Fin 4) (target : BitVec 13) (m1 : Move) (m2 : Move)
  /-- R239: Kernel operation decrementing a pointer's ADDR and branching while it is not 0. -/
  | cntb (pt : Fin 8) (target : BitVec 13) (m1 : Move) (m2 : Move)
  /-- R238: Kernel operation repeating the next instruction COUNT times. -/
  | rpn (count : BitVec 12) (m1 : Move) (m2 : Move)
  /-- R238: Kernel operation repeating the next instruction by a pointer's ADDR. -/
  | rpni (pt : Fin 8) (m1 : Move) (m2 : Move)
  /-- R235: Kernel operation pushing the return address and branching. -/
  | jsr (target : BitVec 13) (m1 : Move) (m2 : Move)
  /-- R235: Kernel operation returning from a subroutine. -/
  | ret (m1 : Move) (m2 : Move)
  /-- R235: Kernel operation ending the call. -/
  | doneOp (m1 : Move) (m2 : Move)
  /-- R106: Script operation stopping the sequencer and starting release where it takes effect. -/
  | endOp (src : Nat)
  /-- R95: Script operation resolving a tile reference and playing the tile with its trim and join. -/
  | tileOp (src : Nat) (trim : BitVec 8) (ref : W32)
  /-- R101: Script operation inserting DUR of silence. -/
  | gap (src : Nat) (dur : Fin 16777216)
  /-- R100: Script operation setting a one-shot or persistent mortar join. -/
  | joinOp (src : Nat) (kind : JoinKind) (persist : Bool) (equalPower : Bool) (periods : Fin 4) (len : Fin 65536)
  /-- R99: Script operation setting the pitch scale for following tiles. -/
  | pitch (src : Nat) (scale : Fin 65536)
  /-- R99: Script operation setting the tempo scale for following tiles. -/
  | tempo (src : Nat) (scale : Fin 65536)
  /-- R99: Script operation setting the script level for following tiles. -/
  | levelOp (src : Nat) (code : BitVec 16)
  /-- R102: Script operation starting, releasing or cutting a companion voice. -/
  | tone (src : Nat) (voice : Fin 64) (action : ToneAction) (dur : Fin 65536)
  /-- R103: Script operation stopping the sequencer until its grid, contact, elapsed or MT condition holds. -/
  | sync (src : Nat) (kind : SyncKind) (level : Bool) (contact : Fin 16) (value : Fin 65536) (mt : W64)
  /-- R103: A waiting SYNC's condition holds or times out, and the sequencer continues. -/
  | syncSatisfied (src : Nat) (timeout : Bool)
  /-- R105: Script operation repeating its body by count or until release. -/
  | loopOp (src : Nat) (count : Fin 256) (back : Fin 65536)
  /-- R104: Script operation setting the language bank and TBASE. -/
  | lang (src : Nat) (bank : Fin 256) (tbase : Fin 65536)
  /-- R540: At a tile's decision point the sequencer reads the following words up to the next TILE, GAP, SYNC or END. -/
  | tileDecisionPoint (src : Nat)
  /-- R540: At a tile's boundary instant the words read at its decision point execute and the join is made. -/
  | tileBoundary (src : Nat)
  /-- R16: An accepted timestamped command takes effect at its media time. -/
  | commandApply
  /-- R81: Applies 1 to 254 parameter edit records to a voice at AT by their classes. -/
  | voiceSetParam (k : Kcp)
  /-- R78: Returns the 128 parameter halfwords in force at C + 2. -/
  | voiceGetParams (k : Kcp)
  /-- R68: Starts release of a voice at AT. -/
  | voiceRelease (k : Kcp)
  /-- R78: Ends a voice at the mix with the 32-sample declick. -/
  | voiceStop (k : Kcp)
  /-- R86: Returns level records of the 128 slots of one logical brick. -/
  | voiceGetLevels (k : Kcp)
  /-- R87: Returns a voice's state, job, preset, flags and class. -/
  | voiceGetStatus (k : Kcp)
  /-- R123: Opens a load or replacement of a bank image and allocates bank memory. -/
  | bankLoad (k : Kcp)
  /-- R123: Writes bytes into an open mailbox bank load. -/
  | bankWrite (k : Kcp)
  /-- R123: When all image bytes have arrived the device checks the image in order and makes it resident or fails it. -/
  | bankImageComplete (bank : Nat)
  /-- R127: Unloads a bank, refusing or stopping bound voices according to FORCE and their classes. -/
  | bankUnload (k : Kcp)
  /-- R123: Checks every tile CRC of the resident image and marks tiles BAD or good. -/
  | bankVerify (k : Kcp)
  /-- R123: A bank verification completes with a count of BAD tiles. -/
  | bankVerifyDone (bank : Nat)
  /-- R123: Returns a bank's state, header fields, bindings, BAD count and memory held. -/
  | bankGetInfo (k : Kcp)
  /-- R123: Returns the state of banks 0-255. -/
  | bankList (k : Kcp)
  /-- R133: Accepts a job descriptor and puts the job in a delay list or ready list. -/
  | jobSubmit (k : Kcp)
  /-- R154: Ends a pending job at once or stops a running job at the mix. -/
  | jobAbort (k : Kcp)
  /-- R154: Releases every voice of a job at AT. -/
  | jobRelease (k : Kcp)
  /-- R311: Returns a job's state, class, voices, slip and late blocks. -/
  | jobGetStatus (k : Kcp)
  /-- R311: Returns handles and states of up to 120 jobs with continuation. -/
  | jobList (k : Kcp)
  /-- R155: Returns dispatcher observability values. -/
  | jobGetStats (k : Kcp)
  /-- R154: Writes the steal policy, HW_RESERVE and arbitration settings. -/
  | jobSetPolicy (k : Kcp)
  /-- R116: Inserts script words into a running voice at a boundary or by cut at AT. -/
  | jobScriptEdit (k : Kcp)
  /-- R148: Triggers Squall; on MB0 the doorbell reaches the dispatcher in hardware. -/
  | jobSquall (k : Kcp)
  /-- R150: Releases the Squall job at AT as a content edit. -/
  | jobSquallEnd (k : Kcp)
  /-- R152: Stores a descriptor in a trigger slot bound to a contact or timer event. -/
  | jobArm (k : Kcp)
  /-- R152: Clears a trigger slot. -/
  | jobDisarm (k : Kcp)
  /-- R148: Arms Squall by writing its configuration, sequence and reference registers. -/
  | jobSetSquall (k : Kcp)
  /-- R197: Applies or stages tap records at the command's AT. -/
  | mixSetTaps (k : Kcp)
  /-- R199: Sets every tap of a source, bus or the matrix to off at AT. -/
  | mixClear (k : Kcp)
  /-- R182: Returns up to 120 crosspoints with gains and ramp state. -/
  | mixGetTaps (k : Kcp)
  /-- R182: Returns 1,008 bytes of the presence bitmap. -/
  | mixGetBitmap (k : Kcp)
  /-- R198: Returns a free set number for staged tap records. -/
  | mixOpenSet (k : Kcp)
  /-- R198: Applies every record of a set at its AT after a capacity check. -/
  | mixCommitSet (k : Kcp)
  /-- R198: Discards an open set. -/
  | mixCancelSet (k : Kcp)
  /-- R195: Sets class and live mode of input and generator sources. -/
  | mixSetClass (k : Kcp)
  /-- R196: Sets frequency, colour and level of an internal sine or noise generator. -/
  | mixSetGen (k : Kcp)
  /-- R180: Sets up to four destinations of an auxiliary bus. -/
  | mixRouteAux (k : Kcp)
  /-- R189: Returns bus clip counters, clearing them with CLEAR. -/
  | mixGetClip (k : Kcp)
  /-- R201: Returns tap use, peak, refusals, lane load and MIX_MAP_CRC. -/
  | mixGetStats (k : Kcp)
  /-- R223: Enables a zone at AT or disables it by CUT or DRAIN. -/
  | zoneEnable (k : Kcp)
  /-- R204: Rewrites a zone's input bus positions with crossfades. -/
  | zoneSetInputs (k : Kcp)
  /-- R205: Writes a zone's duck depth and ramp. -/
  | zoneSetGate (k : Kcp)
  /-- R206: Sets a zone's ambient-adaptive gain parameters. -/
  | zoneSetAmbient (k : Kcp)
  /-- R208: Writes biquad sections, crossfading from old to new. -/
  | zoneSetEq (k : Kcp)
  /-- R209: Writes FIR coefficients into a zone's staging buffer. -/
  | zoneLoadFir (k : Kcp)
  /-- R209: Applies the first N staged FIR taps at AT, deferred past full blocks. -/
  | zoneSetFir (k : Kcp)
  /-- R211: Sets compressor and limiter parameters. -/
  | zoneSetDyn (k : Kcp)
  /-- R212: Sets a zone's delay with a read-position crossfade. -/
  | zoneSetDelay (k : Kcp)
  /-- R214: Sets a zone's output gain with a ramp. -/
  | zoneSetGain (k : Kcp)
  /-- R216: Sets a zone's pilot level, bin and enable. -/
  | zoneSetPilot (k : Kcp)
  /-- R217: Fills a zone's four destination slots with roles. -/
  | zoneSetOutputs (k : Kcp)
  /-- R220: Returns a zone from its fallback to its restored destination at AT. -/
  | zoneRestore (k : Kcp)
  /-- R221: Sets a zone group's members, group bus, send bus and site name. -/
  | zoneSetGroup (k : Kcp)
  /-- R315: Returns every setting of a zone or group. -/
  | zoneGetConfig (k : Kcp)
  /-- R315: Returns status and destination failures for up to 64 zones. -/
  | zoneGetStatus (k : Kcp)
  /-- R256: Opens a staging of a customer kernel image. -/
  | kernelStage (k : Kcp)
  /-- R256: Writes bytes into the open kernel staging. -/
  | kernelWrite (k : Kcp)
  /-- R256: When the last byte arrives the staged kernel image is checked in order. -/
  | kernelImageComplete
  /-- R257: Closes named bricks and schedules the staged kernel for them. -/
  | kernelLoad (k : Kcp)
  /-- R257: Closes named bricks and schedules the standard kernel for them. -/
  | kernelRestoreStd (k : Kcp)
  /-- R257: At a tick at or after AT with no active voice, a closed brick loads its new kernel over one block period. -/
  | kernelBrickLoad (brick : Nat)
  /-- R256: Withdraws a pending kernel load and reopens its bricks. -/
  | kernelCancel (k : Kcp)
  /-- R316: Returns per-brick kernel IDs and states and the staged header. -/
  | kernelGetInfo (k : Kcp)
  /-- R351: Writes an audio port's configuration. -/
  | portConfig (k : Kcp)
  /-- R358: Starts an audio port at AT with PRE silent frames. -/
  | portStart (k : Kcp)
  /-- R359: Stops an audio port at AT with POST silent frames. -/
  | portStop (k : Kcp)
  /-- R366: Puts stopped ports into an aligned group sharing the leader's clocks. -/
  | portSetGroup (k : Kcp)
  /-- R365: Sets or stages a port's buffer length. -/
  | portSetLength (k : Kcp)
  /-- R317: Returns every register of an audio port. -/
  | portGetStatus (k : Kcp)
  /-- R356: At each frame boundary an output port sends the frame tagged with the due media time, a resync or a zero frame. -/
  | aportFrameBoundary (n : Fin 8) (bitClocks : Nat)
  /-- R357: A captured input frame is tagged and written, or dropped on overrun or repeated tag. -/
  | aportInputFrame (n : Fin 8) (slots : List W32) (bitClocks : Nat)
  /-- R358: After PRE frames a starting port begins data and becomes RUNNING. -/
  | aportDataStart (n : Fin 8)
  /-- R359: After POST frames a stopping port halts its clocks and becomes STOPPED. -/
  | aportStopDone (n : Fin 8)
  /-- R361: A slave port with no FS for 2 frame periods declares CLK_LOST and fails its destinations. -/
  | aportFsTimeout (n : Fin 8)
  /-- R362: After 4 error-free frames a lost port discards its buffer and rejoins by tag. -/
  | aportClockBack (n : Fin 8)
  /-- R363: Every 4,096 frames a port measures its frame rate and reports a change beyond THR. -/
  | aportRateMeasure (n : Fin 8) (aclkCycles : Nat)
  /-- R371: Writes an analogue channel's mode, load check, DC code and slew settings at AT. -/
  | anaConfig (k : Kcp)
  /-- R376: Enables a channel at AT, closing its switch in RUN; with EN = 0 starts a mute ramp. -/
  | anaEnable (k : Kcp)
  /-- R378: Changes a channel's current range through a muted sequence. -/
  | anaSetRange (k : Kcp)
  /-- R385: Trims the segments of disabled channels one at a time. -/
  | anaTrim (k : Kcp)
  /-- R387: Returns the four ANA registers of each named channel. -/
  | anaGetStatus (k : Kcp)
  /-- R372: At each converter update the channel takes a queue code, applying the slew limiter. -/
  | anaUpdate (n : Fin 64) (outside : Bool)
  /-- R376: Four updates after the switch closes, the channel becomes IDLE or starts carrying. -/
  | anaSettleDone (n : Fin 64)
  /-- R377: A mute ramp reaches zero code and the switch opens or the range changes. -/
  | anaMuteRampDone (n : Fin 64)
  /-- R381: After 64 updates outside ±2.7 V, COMPL is set and the channel's destinations fail. -/
  | anaComplianceDetect (n : Fin 64)
  /-- R381: After 1,920 updates within the window, COMPL_NOW clears. -/
  | anaComplianceClear (n : Fin 64)
  /-- R382: At the end of a 10 ms window an idle channel classifies its load and updates LOAD after 3 agreeing windows. -/
  | anaLoadWindow (n : Fin 64) (ohms : Nat)
  /-- R384: A channel's trim completes and its new values take effect together. -/
  | anaTrimChannelDone (n : Fin 64) (errors : List Int)
  /-- R447: Writes a timer's configuration. -/
  | timConfig (k : Kcp)
  /-- R446: Starts the timers in a mask at AT. -/
  | timStart (k : Kcp)
  /-- R446: Stops the timers in a mask at AT. -/
  | timStop (k : Kcp)
  /-- R450: Writes a compare value and interval, arming the channel. -/
  | timSetCmp (k : Kcp)
  /-- R317: Returns every register of a timer. -/
  | timGet (k : Kcp)
  /-- R446: A counted clock increments the counter, wrapping with a period event and evaluating compare matches. -/
  | timerClock (n : Fin 16)
  /-- R449: In the MCLK cycle after a source event, a linked timer gates, resets, starts, stops or clocks. -/
  | timerLinkAction (n : Fin 16)
  /-- R455: A timer output pulse ends after PULSE µs. -/
  | timerPulseEnd (n : Fin 16)
  /-- R464: Writes a UART's configuration. -/
  | uartConfig (k : Kcp)
  /-- R469: Enables a UART or stops it, discarding its buffers. -/
  | uartEnable (k : Kcp)
  /-- R469: Places bytes in the UART send buffer. -/
  | uartSend (k : Kcp)
  /-- R468: Empties the UART receive ring. -/
  | uartRecv (k : Kcp)
  /-- R478: Enables or disables framed KCP on UART[1]. -/
  | uartSetFramed (k : Kcp)
  /-- R317: Returns every register of a UART. -/
  | uartGetStatus (k : Kcp)
  /-- R467: At the stop-bit sample a character with its flags moves into RXD and the Squall matcher and flow control see it. -/
  | uartCharReceived (n : Fin 2) (ch : Byte) (fe : Bool) (pe : Bool) (brk : Bool) (idleChars : Nat)
  /-- R471: RXD full for XOFF_BT bit times makes the device send XOFF_CHAR. -/
  | xoffGenerate (n : Fin 2)
  /-- R469: The transmit shifter finishes a character and takes the next from TXD. -/
  | uartCharSent (n : Fin 2)
  /-- R473: DE_TAIL ticks after the last stop bit, UART1_DE drops. -/
  | deRelease
  /-- R475: A line still at 0 one character time after the start edge marks the character BRK. -/
  | uartBreakDetect (n : Fin 2)
  /-- R476: A line at 0 for 2 s sets LINE_STUCK and raises the CONTACT mechanism. -/
  | uartLineStuckDetect (n : Fin 2)
  /-- R477: A start edge in Lull wakes the device and starts the oscillator. -/
  | uartWakeEdge (n : Fin 2)
  /-- R285: A complete framed KCP frame is unescaped and checked, carrying one command. -/
  | uartKcpFrame (wire : List Byte) (damaged : Bool)
  /-- R286: More than 10 character times between frame bytes discards the frame. -/
  | uartFrameGapTimeout
  /-- R459: Writes a contact's thresholds and drive. -/
  | contactConfig (k : Kcp)
  /-- R462: Sets contact output levels at AT. -/
  | contactSetOut (k : Kcp)
  /-- R317: Returns every CONTACT register. -/
  | contactGet (k : Kcp)
  /-- R458: In each 40 µs sense window the contacts are read, classified and debounced. -/
  | contactSenseWindow (codes : List Byte)
  /-- R409: Sets monitor returns, lags and calibrations of a zone, or SUPV_CTRL. -/
  | supvSetPilot (k : Kcp)
  /-- R394: Enables or disables a zone-to-microphone path. -/
  | supvSetPath (k : Kcp)
  /-- R399: Takes baselines of named paths when their confidence reaches 128. -/
  | supvBaseline (k : Kcp)
  /-- R399: After 120 s the baseline pass ends with converged and unconverged counts. -/
  | baselineTimeout
  /-- R398: Returns metrics of up to 128 paths. -/
  | supvGetPaths (k : Kcp)
  /-- R402: Sets the Dew window schedule, groups and steps, ending a running window. -/
  | supvSetDew (k : Kcp)
  /-- R408: Returns a zone's Dew record. -/
  | supvGetDew (k : Kcp)
  /-- R390: At the end of a 4,096-sample window each pilot check point is classed present, missing or neither. -/
  | pilotWindowEnd (zone : Nat) (point : PilotPoint) (level : Int)
  /-- R395: Every 1,024-sample hop each enabled path adapts its impulse response if excited. -/
  | avuHop (path : Nat) (refLevel : Int) (confidence : Nat) (energy : Int) (delay : Nat) (inverted : Bool) (tilt : Int)
  /-- R400: A path more than 6 dB below baseline for 60 s of excited time is declared in fault. -/
  | avuPathFault (path : Nat)
  /-- R400: A path within 3 dB of baseline for 60 s of excited time clears its fault. -/
  | avuPathOk (path : Nat)
  /-- R400: A bulk-delay or polarity change persisting 60 s of excited time is reported. -/
  | avuPathChange (path : Nat)
  /-- R403: At a Dew window start, zones of the selected groups are selected and begin their steps. -/
  | dewWindowOpen
  /-- R404: A zone completes a Dew step, records its result and begins the next. -/
  | dewStepDone (zone : Nat) (m : DewMeasure)
  /-- R406: After the hold tail without classes 0-7, the interrupted Dew step restarts. -/
  | dewRestart (zone : Nat)
  /-- R407: At the window's end every running zone stops and unfinished steps record INCOMPLETE. -/
  | dewWindowClose
  /-- R500: Returns the weathering monitor's margin plan. -/
  | ageGetPlan (k : Kcp)
  /-- R500: Returns ageing log records. -/
  | ageGetLog (k : Kcp)
  /-- R500: Writes AGE_CTRL and AGE_LIMITS. -/
  | ageSetLimits (k : Kcp)
  /-- R500: Returns the latest sensor readings. -/
  | ageGetSensors (k : Kcp)
  /-- R496: At each hour's end the monitor may take one plan step and appends an ageing record. -/
  | ageHour
  /-- R497: RELEASE_S × 10 s after closure, class 3-15 jobs on closed slots end NO_CAPACITY. -/
  | derateRelease
  /-- R497: At the first tick with every closed slot empty, ECLK changes to the new frequency. -/
  | eclkChange
  /-- R495: 2 ms after a write the monitor reads READ_VOUT and STATUS_WORD and judges the write. -/
  | avsReadback (ack : Bool) (voutMv : Nat) (status : BitVec 16)
  /-- R494: Every second the path-delay ring sensors are read. -/
  | ringSensorRead (slacks : List Nat)
  /-- R494: Every millisecond the thermal diodes are read. -/
  | thermalRead (temps : List Int)
  /-- R494: Every 60 s the SRAM canaries are read. -/
  | canaryRead (failed : List Bool)
  /-- R341: Sets course number, keystone and cascade enable. -/
  | courseConfig (k : Kcp)
  /-- R317: Returns every CRSE register. -/
  | courseGetStatus (k : Kcp)
  /-- R339: Sets the cascade presentation offset P on the keystone. -/
  | courseSetOffset (k : Kcp)
  /-- R344: Maps a site name to local groups per course. -/
  | courseMapGroup (k : Kcp)
  /-- R346: Sets twin mode and role. -/
  | courseSetTwin (k : Kcp)
  /-- R330: Once per frame period a device sends its own frame and forwards other origins' frames on both ports. -/
  | courseFrameSend
  /-- R332: A course-link frame is taken from the first valid copy per origin and its samples and messages delivered. -/
  | courseFrameReceived (port : Fin 2) (frame : CourseFrame)
  /-- R333: A STATUS message updates a course's power state, variant, twin state and hop latencies. -/
  | courseMsgStatus (h : MsgHead) (pstate : Nat) (variant : Nat) (twin : Nat) (eastNs : Nat) (westNs : Nat)
  /-- R334: A TOPO message reports down ports and the ring state. -/
  | courseMsgTopo (h : MsgHead) (down : Nat) (ring : Nat)
  /-- R40: A TIME message applies a jump, rate change or RA change at its block on every course. -/
  | courseMsgTime (h : MsgHead) (change : TimeChange)
  /-- R345: A SQUALL or SQUALL_END message starts or releases the course's Squall job. -/
  | courseMsgSquall (h : MsgHead) (squall : SquallMsg)
  /-- R343: A SITE_JOB message makes each course with the site name insert a local job. -/
  | courseMsgSiteJob (h : MsgHead) (handle : W32) (startBlock : Nat) (site : Nat) (descriptor : List W32)
  /-- R343: A SITE_CMD message aborts or releases a site job's parts at the same block. -/
  | courseMsgSiteCmd (h : MsgHead) (handle : W32) (release : Bool) (mt : W64)
  /-- R344: A GROUP_MAP message sets site names of local groups. -/
  | courseMsgGroupMap (h : MsgHead) (site : Nat) (groups : List Nat)
  /-- R503: A STRIKE message schedules a site Strike at its sample. -/
  | courseMsgStrike (h : MsgHead) (seq : Nat) (sample : W64)
  /-- R347: A SIG message from the twin partner is compared with the device's own zone signatures. -/
  | courseMsgSig (h : MsgHead) (block : W32) (sigs : List W32)
  /-- R343: A PART_DONE message ends one course's part of a site job. -/
  | courseMsgPartDone (h : MsgHead) (handle : W32) (reason : Nat)
  /-- R178: A MIGRATE message excludes migrated blocks from the twin comparison. -/
  | courseMsgMigrate (h : MsgHead) (m : Nat) (brick : Nat)
  /-- R334: A course port with no valid frame for 1 ms, lost alignment or 8 CRC failures goes DOWN and the ring wraps. -/
  | coursePortDown (port : Fin 2)
  /-- R334: After 100 ms of valid frames a DOWN port returns to UP and the ring closes. -/
  | coursePortUp (port : Fin 2)
  /-- R342: No ACTIVE keystone frame for 50 ms makes the lowest live course promote itself. -/
  | keystoneLost
  /-- R347: The twin self-check completes, sending a failing device to FAULT or logging a divergence. -/
  | twinCheckDone (failed : Bool)
  /-- R348: The standby takes over when its partner's frames carry FAULT or stop for 5 ms. -/
  | twinTakeoverStart
  /-- R317: Writes the stream port's configuration. -/
  | streamConfig (k : Kcp)
  /-- R327: Starts training of the stream link. -/
  | streamTrain (k : Kcp)
  /-- R327: Training completes with the link UP, DEGRADED or failed. -/
  | streamTrainingDone (result : Nat) (lanes : Byte) (us : Nat) (grants : List Nat)
  /-- R317: Returns every STRM register. -/
  | streamGetStatus (k : Kcp)
  /-- R325: Sets input and output channel counts for VC0 from the next block tick. -/
  | streamMap (k : Kcp)
  /-- R321: A flit is received, CRC-checked, its credits taken and its payload delivered to its channel. -/
  | streamFlitReceived (payload : List Byte) (control : BitVec 16) (crcOk : Bool)
  /-- R326: A received VC0 audio frame is placed by media time or discarded as late. -/
  | streamAudioFrameRx (mt : W64) (n : Nat) (s : Nat) (words : List W32)
  /-- R326: Once per block the device sends an output audio frame, or drops it for lack of credit. -/
  | streamAudioFrameTx
  /-- R328: A lane with 16 idle-pattern errors in 1 ms or excess skew fails and the link retrains degraded. -/
  | streamLaneFail (lane : Fin 8) (trained : Bool)
  /-- R329: A forwarded clock absent for 2 µs takes the link DOWN. -/
  | streamClockAbsent
  /-- R502: A rising STRIKE_IN edge after 100 ns low registers a Strike trigger. -/
  | strikeInEdge (lowNs : Nat)
  /-- R505: At the Strike instant every block latches its registers into the snapshot store. -/
  | strikeLatch
  /-- R507: The snapshot sets complete and COMPLETE is set. -/
  | strikeComplete (partialCopy : Bool)
  /-- R414: A mechanism detects a fault, latches, asserts SAFE_FAULT_N, buffers a record and runs its reaction. -/
  | safetyDetection (code : Fin 24) (inst : Nat) (loc : W32) (expected : W32) (observed : W32)
  /-- R423: The Mason pair writes a buffered fault record to the NOR log and posts SAFE_FAULT. -/
  | faultLogWrite
  /-- R421: SAFE_ALIVE toggles every 500 µs if the firmware heartbeat is current, or every 500 ms in Lull. -/
  | safeAliveToggle (heartbeat : Bool)
  /-- R424: Every 10 s while unavailable the device retrains the bank-memory interface. -/
  | bankRetrain (ok : Bool)
  /-- R424: After 3 s without an uncorrectable event bank memory is available again. -/
  | bankAvailable
  /-- R132: An uncorrectable vault slab word is restored from NOR and its tiles re-checked. -/
  | vaultWordRestore (slab : Fin 32) (word : Nat)
  /-- R437: The scrubber reads a slab word on port B and writes back a corrected value if unchanged. -/
  | scrubWord (slab : Fin 32) (word : Nat) (error : WordError) (changed : Bool)
  /-- R437: A scrub pass not complete after 24 h sets SCRUB_STARVED and raises LATENT. -/
  | scrubStarved
  /-- R438: The march test borrows a 4 KiB window, runs march elements and restores it. -/
  | marchWindow (slab : Fin 32) (window : Fin 128) (outcome : MarchOutcome)
  /-- R438: A window untested for 24 h sets TEST_STARVED and raises LATENT. -/
  | testStarved
  /-- R441: The patrol or a reader reads a bank-memory word, correcting or reporting ECC errors. -/
  | bankPatrolRead (page : Nat) (error : EccError)
  /-- R36: The MPLL loses lock, MPLL_LOCK clears, TIME_FLAGS.MPLL_UNLOCK is set and a LOCKED mode falls back to ACQUIRE. -/
  | mpllLossOfLock
  /-- R334: One lane of a course-link port loses 8b/10b alignment and the port continues on the other lane in state ONE_LANE. -/
  | courseLaneAlignmentLoss (port : Fin 2) (lane : Fin 2)
  /-- R467: A start bit that reads 1 at its count-8 sample is discarded, counted in FALSE_CNT, and the receiver waits for the next falling edge. -/
  | uartFalseStart (n : Fin 2)
  /-- R476: The receive line returns to 1 and stays there, arming the receiver after enable or a break, clearing LINE_STUCK's ACTIVE bit, and rearming wake in Lull after 1 ms. -/
  | uartLineReturnToIdle (n : Fin 2)
  /-- R148: A partial match of DISP_SQUALL_SEQ fails when the next byte does not follow within 1 character time, and any withheld XOFF goes out at once. -/
  | squallSequenceTimeout
  /-- R427: One second after SAFE.INJECT of a path fault, its ACTIVE bit clears. -/
  | injectedFaultHoldExpiry (code : Fin 24)
  /-- R439: A column repair finishes rewriting the slab through the spare and blowing and verifying the eFuse, and reports SLAB_REPAIR_DONE. -/
  | fieldRepairComplete (slab : Fin 32) (ok : Bool)
  /-- R297: The erase of the NOR configuration region completes and SYS_CONFIG_DONE is posted. -/
  | configEraseDone (ok : Bool)
  deriving DecidableEq, Repr

end Sys2Proof
end

