-- ==== Sys2Proof/Decode.lean ====
section
/-! DEFINITION. The command that a word of the command table spells. -/

namespace Sys2Proof

/-- The command table gives no row any bits: a command reaches the block with its operands from a channel, a pin or a
unit, and no word spells one (DESIGN CHOICE, notes/assumptions/6.md). -/
def decodeTableWord (_nbits _w : Nat) : Option Instr := none

end Sys2Proof
end

