-- ==== Sys2Proof/Config.lean ====
section
/-! DEFINITION. What the specification leaves to a firmware release, a table it does not print, or nobody: opaque
constants, so that nothing can be proved of their values, and the constants of the kernel datapath and the operating rates. -/

namespace Sys2Proof.Config

/-- A free value: a number on which the specification says nothing, drawn by the model's own counter. -/
opaque freeValue : Nat → Nat

/-- Whether the standard kernel's release rounds a quotient up, by the place in the voice at which it arises (R537; DESIGN CHOICE,
notes/assumptions/194.md). -/
opaque roundsUp : Nat → Int → Int → Bool

/-- The pseudo-random generator that R77 seeds, which R537 leaves to the release: the value of a state, in 2^−23, and the state behind it. -/
opaque randomValue : Nat → Int
opaque randomNext : Nat → Nat

/-- What residual correction adds to OSC B's wave (R63, R537): the wave, its phase and its advance in 2^−48 of a cycle, and its duty in
2^−32; the result in 2^−46. -/
opaque oscResidual : Nat → Int → Int → Int → Int

/-- The pink-noise filter (R64, R537): what it keeps, and a white value; what it keeps then, and the pink one. -/
opaque pinkFilter : List Int → Int → List Int × Int

/-- A section of a state-variable filter (R66, R537): its mode, its cutoff over the internal rate and its Q in 2^−60, the level of its
oscillation in 2^−60 of full scale where it oscillates by itself, and otherwise 0; what it keeps, and an input in 2^−46; what it keeps
then, and the output. -/
opaque svf : Nat → Int → Int → Int → List Int → Int → List Int × Int

/-- The decimation filter of a release at an internal rate: its coefficients in 2^−23 (R49, R537). -/
opaque decimation : Nat → List Int

/-- What the gain table of R184 adds to an amplitude in 2^−60; the model keeps it within the error that the rule allows. -/
opaque gainError : Int → Int

/-- The compressor's knee of R211: its width in 2^−60 dB, and the level above the threshold; what is reduced at an infinite ratio, which
the model keeps between the corner and its chord. -/
opaque kneeCurve : Int → Int → Int

/-- The limiter's recovery in a sample (R211): the release in ms, the samples per second and the gain, in 2^−60; the model keeps the gain
from falling and at most at unity. -/
opaque limRecover : Nat → Nat → Int → Int

/-- A noise generator's sample in 2^−23, which the model keeps within full scale: seed, colour, index since the seed (R64, R196). -/
opaque noise : Nat → Nat → Nat → Int

/-- A zone's ambient estimate, in steps of 0.5 dB below full scale, as voices read it before the first one (R76; DESIGN CHOICE,
notes/assumptions/196.md). -/
opaque ambientUnset : Nat → Nat

/-- The probe of R396: seed, the band levels' block, and the sample's media time; and its peak amplitude in 2^−60 between two updates of
its bands, within which the model keeps it. -/
opaque probe : Nat → Nat → Nat → Int
opaque probePeak : Nat → Nat → Nat

/-- The analogue interpolation filter of R370 at a sampling rate and a factor: its coefficients in 2^−23. -/
opaque interpolation : Nat → Nat → List Int

/-- By how much a segment's current is off, in 1/4 code step: channel, segment, block (R369, R384; notes/assumptions/208.md). -/
opaque segmentError : Nat → Nat → Nat → Int

/-- By how much the ladder's current is off, in 1/4 code step: channel, ladder code, block (R369, R384; notes/assumptions/208.md). -/
opaque ladderError : Nat → Nat → Nat → Int

/-- The SHA-256 digest of a byte string, as a number (R255, R293). -/
opaque sha256 : List Byte → Nat

/-- ECDSA P-256 verification: key words, digest, signature words (R255, R297, R301, R302). -/
opaque ecdsaOk : List W32 → Nat → List W32 → Bool

/-- The key with which Voruc signs firmware images (R301). -/
opaque vorucKey : List W32

/-- The golden signature that a physical brick computes at a block (R260): brick, rate family, block. -/
opaque goldenSig : Nat → Nat → Nat → Nat

/-- The golden signature fixed at manufacture for a rate family (R260). -/
opaque goldenValue : Nat → Nat

/-- The nonce that follows one (R302; DESIGN CHOICE, notes/assumptions/172.md). -/
opaque nonceAfter : Nat → Nat

/-- The 8-byte device ID in the fuses, as two words (R302). -/
opaque deviceId : Nat → Nat

/-- The device's estimate, in blocks, of when an entry frees (R153): an argument per refusal. -/
opaque retryHint : Nat → Nat

/-- Load of the Mason pair and of the mix lanes at a block (R155, R201): not derivable from the rules. -/
opaque masonLoad : Nat → Nat
opaque laneLoad : Nat → Nat

/-! The operating rates (R25). -/

/-- Samples per second of a rate code. -/
def rateHz : Nat → Nat
  | 0 => 48000 | 1 => 96000 | 2 => 44100 | _ => 88200

/-- The code names a double-rate rate. -/
def double (code : Nat) : Bool := code % 2 = 1

/-- The block length of a rate code (R25). -/
def blockLen (code : Nat) : Nat := if double code then 64 else 32

/-- Usable slots per brick of a rate code (R25). -/
def slotsAt (code : Nat) : Nat := if double code then 64 else 128

/-- The single-rate member of a rate code's family (R51, R215). -/
def singleHz (code : Nat) : Nat := if code < 2 then 48000 else 44100

/-- A call's budget in ECLK cycles (R252). -/
def callBudget (code : Nat) : Nat := if double code then 5800 else 2900

/-- ECLK cycles of a block period at 800 MHz (R168). -/
def periodCycles (code : Nat) : Nat := if code < 2 then 533333 else 580499

end Sys2Proof.Config
end

