-- ==== Sys2Proof/Machine/Arith.lean ====
section
/-! DEFINITION. Fixed-point arithmetic for the laws that the specification states in decibels, semitones, turns and exponentials:
numbers in units of 2^−60, by series whose error lies below 2^−50, and the roundings that go with them (DESIGN CHOICE,
notes/assumptions/193.md). -/

namespace Sys2Proof.Machine

namespace Fx

/-- One. -/
def unit : Int := 2 ^ 60
/-- The natural logarithms of 2 and 10, and π. -/
def ln2 : Int := 799144290325165979
def ln10 : Int := 2654699869899991814
def pi : Int := 3622009729038561421

def mul (a b : Int) : Int := a * b / unit
def div (a b : Int) : Int := a * unit / b
/-- A fraction. -/
def ratio (n d : Int) : Int := n * unit / d

/-- Terms of a power series from a term on, each being the one before times x over k. -/
def expTerms (x : Int) : Nat → Nat → Int → Int
  | 0, _, t => t
  | f + 1, k, t => t + expTerms x f (k + 1) (mul t x / k)

/-- e^x. -/
def exp (x : Int) : Int :=
  let n := x / ln2
  let y := expTerms (x % ln2) 28 1 unit
  if 0 ≤ n then y * 2 ^ n.toNat else y / 2 ^ (-n).toNat

/-- Terms of the sine's series: each is the one before times −x² over k (k + 1). -/
def sinTerms (x2 : Int) : Nat → Nat → Int → Int
  | 0, _, t => t
  | f + 1, k, t => t + sinTerms x2 f (k + 2) (-(mul t x2) / (k * (k + 1) : Nat))

/-- sin(2π · n ÷ d), and cos(2π · n ÷ d). -/
def sinTurn (n d : Nat) : Int :=
  let a := 2 * pi * (n % d : Nat) / d
  sinTerms (mul a a) 24 2 a
def cosTurn (n d : Nat) : Int := sinTurn (4 * n + d) (4 * d)

/-- √x of a number that is not negative. -/
def sqrt (x : Int) : Int := (x.toNat * 2 ^ 60).sqrt

/-- Terms of I0 at a number with x² ÷ 4 given. -/
def besselTerms (y : Int) : Nat → Nat → Int → Int
  | 0, _, t => t
  | f + 1, k, t => t + besselTerms y f (k + 1) (mul t y / (k * k : Nat))

/-- The zeroth-order modified Bessel function of the first kind. -/
def i0 (x : Int) : Int := besselTerms (mul x x / 4) 48 1 unit

/-- sin(πu) ÷ (πu), 1 at 0. -/
def sinc (u : Int) : Int := if u = 0 then unit else div (sinTurn u.natAbs (2 * 2 ^ 60)) (mul pi u.natAbs)

/-- 2^(n ÷ d). -/
def pow2 (n : Int) (d : Nat) : Int := exp (n * ln2 / d)
/-- The linear value of a level of n ÷ d decibels: 10^(n ÷ 20d). -/
def gain (n : Int) (d : Nat) : Int := exp (n * ln10 / (20 * d : Nat))

/-- Binary digits of log2 of a number from 1 up to 2. -/
def logDigits : Nat → Int → Int → Int
  | 0, _, _ => 0
  | f + 1, x, w =>
    let y := mul x x
    if 2 * unit ≤ y then w + logDigits f (y / 2) (w / 2) else logDigits f y (w / 2)

/-- log2 x of a number above 0. -/
def log2 (x : Int) : Int :=
  let k := x.toNat.log2
  (k - 60) * unit + logDigits 50 (if k ≤ 60 then x * 2 ^ (60 - k) else x / 2 ^ (k - 60)) (unit / 2)

end Fx

/-- The greatest number of a range, its lower end included, for which a monotone test holds. -/
def greatest (p : Int → Bool) : Nat → Int → Int → Int
  | 0, lo, _ => lo
  | f + 1, lo, hi =>
    let m := (lo + hi + 1) / 2
    if hi ≤ lo then lo else if p m then greatest p f m hi else greatest p f lo (m - 1)

/-- 10·log10 of a ratio of powers, in 1/128 dB, rounded to nearest and limited to −15,360 to `top` (R84). -/
def powerCode (top : Int) (n d : Nat) : Int :=
  greatest (fun k => decide (Fx.exp ((2 * k - 1) * Fx.ln10 / 2560) * d ≤ n * Fx.unit)) 20 (-15360) top

/-- A number of 2^−n rounded convergently to an integer. -/
def nearest (num den : Int) : Int :=
  let q := num / den
  let r := 2 * (num % den)
  if r < den then q else if den < r then q + 1 else if q % 2 = 0 then q else q + 1

/-- A quotient where the specification states no rounding: a whole number stays, any other goes to one of its two neighbours, which of
them R537 leaves to the standard kernel's release, and no rule says of the generators (DESIGN CHOICE, notes/assumptions/194.md). -/
def quant (place : Nat) (n d : Int) : Int := if d ∣ n then n / d else n / d + b2n (Config.roundsUp place n d)

/-- A value between limits that the specification gives, free between them. -/
def within_ (lo hi x : Int) : Int := clampI lo hi x

/-- The gain of a symmetric filter at a frequency in Hz, in 2^−23. -/
def firGain (h : List Int) (rate f : Nat) : Int :=
  (h.zipIdx.map fun c => c.1 * Fx.cosTurn (f * (2 * (c.2 : Int) - (h.length - 1 : Nat)).natAbs) (2 * rate)).sum / Fx.unit

end Sys2Proof.Machine
end

