-- ==== Sys2Proof/Machine/State.lean ====
section
/-! DEFINITION. The state of the block as plain data, what it is right after reset, and the reasons a step can stop.
Every register of the specification's register map lives in ONE store, `State.regs`, under its byte address;
what the specification gives the device beside its registers has a field of its own. -/

namespace Sys2Proof.Machine

/-- A fault: no command of this block ends in one, so the type has no constructor that a meaning raises.
`unreachable` is raised by nobody; safe. -/
inductive Fault where
  /-- Raised by nobody: the specification gives this block no stop of its own; safe. -/
  | unreachable
  deriving DecidableEq, Repr

/-- A refusal: the command has no meaning in the model. -/
inductive Refusal where
  /-- Raised by the dispatch for a command that is not modelled yet; safe (nothing is claimed of it). -/
  | notModelled (mnemonic : String)
  deriving DecidableEq, Repr

/-- The variants of R2. -/
inductive Variant where
  | lmz8192 | lmz4096 | lmz2048e
  deriving DecidableEq, Repr

/-- The power states of R483. -/
inductive Power where
  | off | reset | boot | idle | run | lull | fault
  deriving DecidableEq, Repr

/-- The reset kinds of R486. -/
inductive ResetKind where
  | por | pin | wdog | safe | soft
  deriving DecidableEq, Repr

/-- A sparse store of words by key: keys rising, no entry equal to what its key reads as when unlisted. -/
abbrev Store := List (Nat × W32)
/-- A sparse store of bytes that reads 0 where nothing is listed. -/
abbrev Bytes := List Host.Cell

/-- A response recorded in a channel's duplicate cache (R278). -/
structure Cached where
  seq : BitVec 16
  opcode : BitVec 16
  status : Nat
  flags : W32
  mt : Nat
  payload : List W32
  deriving DecidableEq, Repr

/-- A response as the device sends it on a channel (R275). -/
structure Response where
  chan : Nat
  status : Nat
  seq : BitVec 16
  notApplied : Bool
  eventFollows : Bool
  cached : Bool
  mt : Nat
  payload : List W32
  deriving DecidableEq, Repr

/-- The command channels (R261–R286) beyond their registers. -/
structure HostSt where
  /-- Per channel, the recorded commands of R278, newest first: one on a mailbox and UART[1], eight on VC2. -/
  caches : List (Nat × Cached)
  /-- Mailboxes whose SEQ_RESET waits for the pending response (R279). -/
  seqReset : List Nat
  /-- Doorbells accepted and not yet taken: mailbox, check word and CHK_EN (R271, R272). -/
  rung : List (Nat × Nat × Bool)
  /-- Status byte flags of the last write transaction (R264). -/
  lastWrOk : Bool
  lastWrErr : Bool
  /-- The words and the CRC byte that the last read transaction shifted out (R268). -/
  readWords : List W32
  readCrc : Byte
  /-- The status byte that the device shifted out last (R264). -/
  statusByte : Byte
  /-- The newest response posted. -/
  response : Option Response
  /-- Frames of UART[1] that found a command in progress: their BUSY answers follow its response (R286). -/
  uartBusy : List (BitVec 16)
  /-- Commands that wait for READY to rise, in order of arrival, with their opcodes (R263, R289). -/
  waiting : List (Nat × Kcp)
  deriving DecidableEq, Repr

/-- A pending epoch load (R44, R535). `byCommand` is false for a load armed through the register. -/
structure EpochLoad where
  value : Nat
  onPps : Bool
  applyAt : Nat
  byCommand : Bool
  deriving DecidableEq, Repr

/-- A jump decided and not yet made (R37, R38): its blocks, the block whose tick makes it, and, where this device measured
it, the step and the reference. -/
structure Jump where
  blocks : Nat
  at_ : Nat
  step : Int
  ref : Option Nat
  deriving DecidableEq, Repr

/-- A rate change in progress (R41): its target code, block A, and the step reached. -/
structure RateChange where
  code : Nat
  oldCode : Nat
  blockA : Nat
  ramped : Bool
  rebased : Bool
  relock : Bool
  /-- Blocks muted so far, and blocks still to render before the outputs restart. -/
  muted : Nat
  renderLeft : Nat
  deriving DecidableEq, Repr

/-- Media time and the references (R24–R47) beyond their registers. -/
structure TimeSt where
  /-- MT of the sample at the last block tick (R24, R26). -/
  mt : Nat
  /-- MT counts: READY has risen (R45). -/
  counting : Bool
  everLocked : Bool
  /-- A phase measurement is due at the next edge of the selected reference: after a selection or an epoch load (R36, R536). -/
  measureDue : Bool
  /-- No phase has been measured since the reference was selected (R36). -/
  acquiring : Bool
  epoch : Option EpochLoad
  jump : Option Jump
  rate : Option RateChange
  /-- The run-ahead depth asked for and the block from which it holds (R158). -/
  raTarget : Nat
  raFrom : Nat
  /-- Periods of the latest bad edges per reference, newest first (R33). -/
  badPeriods : List (Nat × List Nat)
  /-- Edges seen per reference since it was enabled or lost, and the sum of the latest 256 periods. -/
  edgeSums : List (Nat × Nat × Nat)
  /-- Samples since the last glitch, per reference that qualifies (R30). -/
  qualRun : List (Nat × Nat)
  /-- The offset kept from a step behind (R37), in 1/256 sample. -/
  keptOff : Int
  /-- The stream-port frame that the last time message named (R308). -/
  msgFrame : Option Nat
  /-- Consecutive missing or glitched PPS edges (R32). -/
  ppsBad : Nat
  /-- TIME.SET_REFS images waiting for the next block tick (R47). -/
  refsPending : Option (List W32)
  /-- ppm offset, 1/1,024, last measured against a reference (R34). -/
  lockedOffset : Int
  /-- Commands moved at the last jump (R39). -/
  moved : Nat
  /-- The bricks' row offset J (R156, R167, R536). -/
  rowJ : Nat
  /-- MT stored at Lull entry (R492). -/
  lullMt : Nat
  deriving DecidableEq, Repr

/-- The states of a job record (R533). -/
inductive JobState where
  | free | pending | ready | allocating | running | releasing | done | aborted | stolen
  deriving DecidableEq, Repr

/-- A job descriptor (R133). -/
structure Descr where
  cls : Nat
  dest : Nat
  noSteal : Bool
  inline : Bool
  vault : Bool
  site : Bool
  notifyStart : Bool
  nVoices : Nat
  nComp : Nat
  maxWait : Nat
  group : Nat
  tapGain : Int
  tapRamp : Nat
  script : W32
  presets : List W32
  overrides : List W32
  words : List W32
  deriving DecidableEq, Repr

/-- A job record that is not FREE (R533, R137). -/
structure Job where
  record : Nat
  gen : Nat
  state : JobState
  descr : Descr
  /-- AT of the job (after R16), and its start block. -/
  startAt : Nat
  /-- The start time by which the job is served: AT, also where a jump has moved the start itself (R39, R140). -/
  sortAt : Nat
  /-- The block of AT as the command gave it: start slip counts from here (R141). -/
  wantBlock : Nat
  order : Nat
  /-- The block at which the job entered READY. -/
  readyAt : Nat
  hardware : Bool
  /-- Its start was moved under R39. -/
  skipped : Bool
  /-- Voice sources by voice index; empty before placement. -/
  voices : List Nat
  slip : Nat
  late : Nat
  firstMt : Option Nat
  reason : Nat
  tapsFullPosted : Bool
  started : Bool
  /-- JOB_DONE is posted; FREE at the next tick. -/
  reported : Bool
  /-- The keystone's handle of the site job this job is a part of (R343). -/
  siteHandle : Option W32
  /-- Courses whose part still runs, on the keystone's own record (R343). -/
  siteParts : List Nat
  /-- A release accepted before the job was placed (R83, R154). -/
  releaseAt : Option Nat
  deriving DecidableEq, Repr

/-- How a content edit changes a voice (R68, R76, R80, R116). -/
inductive EditKind where
  | param (id : Nat) (value : BitVec 16)
  | release
  | script (cut : Bool) (words : List W32)
  | contact (n : Nat) (active : Bool)
  | ambient (code : Nat)
  /-- A tile that stops for an uncorrectable error while it plays (R130). -/
  | tileStop (bank tile : Nat)
  /-- Voice 0 releases a companion, or cuts it (R102, R138). -/
  | tone (cut : Bool)
  deriving DecidableEq, Repr

/-- A content edit accepted for a voice (R82). -/
structure Edit where
  /-- The sample at which it applies. -/
  mt : Nat
  order : Nat
  kind : EditKind
  /-- AT, which orders edits that a jump has moved to one sample (R39, R82). -/
  due : Nat
  /-- Samples of its smoothing, and of its dip (R81): one block of the rate at which it applies. -/
  span : Nat
  deriving DecidableEq, Repr

/-! The standard voice between blocks (R48–R77): positions and phases, with the values that persist. Signals are in units of 2^−46, as
a wide register holds them (R229); phases in 2^−48 of a cycle. -/

/-- The stages of an envelope (R69). -/
inductive EnvStage where
  | delay | attack | hold | decay | sustain | release | done
  deriving DecidableEq, Repr

/-- An envelope (R69): its stage, the sample at which the stage began, its length in samples, its curve, and the value at which a release
began. -/
structure EnvSt where
  stage : EnvStage
  since : Nat
  len : Nat
  curve : Int
  start : Int
  deriving DecidableEq, Repr

/-- An LFO (R70, R71): its shape and phase, the random values that it leaves and moves towards, and the ramp of its latest edge: the
sample at which it began and the value it leaves. -/
structure LfoSt where
  shape : Nat
  phase : Nat
  leaves : Int
  reaches : Int
  edge : Option (Nat × Int)
  rng : Nat
  deriving DecidableEq, Repr

/-- The elements of a standard voice (R48–R75). -/
structure Synth where
  /-- The sample up to which envelopes and LFOs have run; none before the first. -/
  ran : Option Nat
  env : List EnvSt
  lfo : List LfoSt
  /-- The LFOs' rates in force since the last breakpoint, in codes of 2^−16, and the pitch that the PITCH source reads (R74). -/
  rates : List Int
  pitch : Int
  random : Int
  noise : Nat
  pink : List Int
  /-- OSC A: its mode and source in force, the internal sample at which it began to read them, whether it reads, and its read
  position in 2^−32 source samples (R59–R61). -/
  mode : Nat
  src : Nat
  began : Nat
  reading : Bool
  pos : Nat
  /-- OSC B's phase. -/
  phaseB : Nat
  /-- What the sections of the filters keep. -/
  f1 : List (List Int)
  f2 : List (List Int)
  /-- The decimation filter's inputs and outputs, newest first. -/
  decIn : List Int
  decOut : List Int
  deriving DecidableEq, Repr

/-! The tile sequencer (R94–R117, R540). Instants of tiles are in samples of the internal rate, two to an output sample. -/

/-- What a voice's tile sequencer is doing (R99–R106, R540). -/
inductive SeqPhase where
  /-- No script runs. -/
  | idle
  /-- Executing operations at a sample. -/
  | running
  /-- A tile sounds: its reference, its first output sample and its boundary instant. -/
  | tile (ref : W32) (starts ends : Nat)
  | gap (ends : Nat)
  | sync (kind : SyncKind) (level : Bool) (contact value mt : Nat) (since : Nat)
  | ended
  deriving DecidableEq, Repr

/-- The curve of a fade: none, linear, or equal-power (R108–R110). -/
inductive FadeCurve where
  | none_ | linear | equalPower
  deriving DecidableEq, Repr

/-- A fade of a tile (R108–R110): its curve, its first sample and its length, at the internal rate. -/
structure Fade where
  curve : FadeCurve
  start : Nat
  len : Nat
  deriving DecidableEq, Repr

/-- A pitch-synchronous join (R112), at the internal rate: the number of periods, their length, the place of the incoming tile's first
mark, and the shift that brings its fundamental to the outgoing one's, as a frequency ratio in 2^−60. -/
structure Psj where
  periods : Nat
  ta : Nat
  mb : Nat
  shift : Int
  deriving DecidableEq, Repr

/-- A tile as the sequencer started it (R94, R95, R99): the values fixed at its start, its place, and how far it has been played. -/
structure TilePlay where
  bank : Nat
  tile : Nat
  gen : Nat
  full : Bool
  bad : Bool
  trim : Int
  pitch : Nat
  tempo : Nat
  /-- LEVEL of this tile, and the level that it moves from (R99). -/
  level : Int
  levelFrom : Int
  /-- Its first sounding sample, its nominal start and its nominal end, at the internal rate. -/
  first : Nat
  nominal : Nat
  ends : Nat
  /-- How the tile enters, and, once it is known, how it leaves and the sample behind its last one. -/
  join : Option JoinKind
  enter : Fade
  leave : Option Fade
  last : Nat
  /-- A fade that ends it early: a cut's, or that of an error (R116, R130). -/
  stopFade : Option Fade
  /-- The pitch-synchronous joins by which it enters and leaves. -/
  psjIn : Option Psj
  psjOut : Option Psj
  /-- A SAMPLE tile's read position in 2^−32 source samples. -/
  pos : Nat
  /-- A SPEECH tile's output marks, newest first: the internal sample, the index of the source mark, and half the length of its
  grain; and the frames of its unvoiced material: the internal sample at the middle of each, and the source sample there. -/
  marks : List (Nat × Nat × Nat)
  frames : List (Nat × Int)
  deriving DecidableEq, Repr

/-- Inserted words while they run (R116): the words, the index of the next one, and their loop counters. -/
structure Inserted where
  words : List W32
  at_ : Nat
  loops : List (Nat × Nat)
  deriving DecidableEq, Repr

/-- Where a sequencer reads, and the values that its operations set (R97, R99, R100, R104, R105). -/
structure Cursor where
  /-- Index of the next word of the script. -/
  word : Nat
  /-- Active loop counters by word index (R105). -/
  loops : List (Nat × Nat)
  /-- Inserted words that run, the newest first (R116). -/
  inserted : List Inserted
  bank : Nat
  tbase : Nat
  pitch : Nat
  tempo : Nat
  level : Int
  defaultJoin : W32
  oneShot : Option W32
  deriving DecidableEq, Repr

/-- What a sequencer has read at a tile's decision point (R540): the operations with the index of each and their words, where it
stands behind them, the insertions whose words were read, and the tile that comes next, planned. -/
structure ReadAhead where
  ops : List (Nat × List W32)
  cur : Cursor
  taken : List Nat
  next : Option TilePlay
  deriving DecidableEq, Repr

/-- The tile sequencer of a voice (R97–R107). -/
structure Seq where
  phase : SeqPhase
  cur : Cursor
  /-- The sample the sequencer has reached. -/
  now : Nat
  /-- Tiles placed, newest first. -/
  played : List TilePlay
  /-- The next tile is the incoming half of a cut's crossfade (R116). -/
  cutIn : Bool
  read : Option ReadAhead
  /-- Operations that took media time, newest first: the sample each started at, and the cursor behind it. -/
  hist : List (Nat × Cursor)
  /-- Insertions that have been taken, by order of acceptance, with the block in which their words executed. -/
  insDone : List (Nat × Nat)
  deriving DecidableEq, Repr

/-- What a voice carries from block to block, and a checkpoint holds (R161–R164). -/
structure VoiceDyn where
  /-- MT of its first sample. -/
  startMt : Nat
  /-- A companion that has been started; always true of another voice (R102). -/
  sounding : Bool
  releaseAt : Option Nat
  /-- The sample of a TONE's CUT (R102). -/
  cutAt : Option Nat
  /-- The block at whose end the voice ends (R68). -/
  endBlock : Option Nat
  /-- Banks bound and the image generation of each (R125). -/
  bound : List (Nat × Nat)
  /-- RMS of the previous rendered block in 1/128 dBFS (R85). -/
  level : Int
  synth : Synth
  seq : Seq
  deriving DecidableEq, Repr

/-- A staged block in a voice's part of the staging ring (R156): whether it is valid (R164), its samples, its cycles, and whether a
stage of it clipped. -/
structure Staged where
  block : Nat
  valid : Bool
  samples : List Sample
  cycles : Nat
  clip : Bool
  deriving DecidableEq, Repr

/-- A checkpoint of a voice: its entry in the slot's ring, its tag, what it holds, and the 64 words of a customer kernel's voice
state (R161, R162). -/
structure Ckpt where
  entry : Nat
  block : Nat
  valid : Bool
  dyn : VoiceDyn
  words : List W32
  deriving DecidableEq, Repr

/-- Why and when a voice stops at the mix (R18, R143, R151). -/
structure VoiceStop where
  /-- The sample at which the declick starts. -/
  mt : Nat
  reason : Nat
  deriving DecidableEq, Repr

/-- A voice in a slot (R78–R87, R156–R176). -/
structure Voice extends VoiceDyn where
  /-- Logical source number: logical brick × 128 + slot (R6). -/
  src : Nat
  record : Nat
  index : Nat
  cls : Nat
  preset : W32
  companion : Bool
  /-- The 128 halfwords in force at the start: preset and overrides (R55, R56). -/
  params : List (BitVec 16)
  edits : List Edit
  stop : Option VoiceStop
  /-- The sticky flags of R87. -/
  flags : BitVec 8
  clipNow : Bool
  /-- Committed levels of R84 and R85 in 1/128 dBFS. -/
  peak : Int
  rms : Int
  rms16 : Int
  /-- Sums of squares of the last 16 committed blocks, newest first. -/
  rmsHist : List Int
  lastSample : Sample
  /-- The previous block at the mix was late (R171). -/
  wasLate : Bool
  /-- The next block to render in sequence. -/
  next : Nat
  staged : List Staged
  ckpts : List Ckpt
  /-- A queued rollback, from its block e (R164), and the order of acceptance of the first edit that queued it. -/
  rollback : Option Nat
  rollOrder : Nat
  /-- The block period in which a rollback of the voice was last counted (R160). -/
  rollPeriod : Option Nat
  /-- A re-render in progress: the first block that is staged again; the blocks before it render silently (R164, R176). -/
  redo : Option Nat
  /-- The spans for which a companion has sounded, newest first: its first block, and its last one where it has ended (R102). -/
  lives : List (Nat × Option Nat)
  /-- The script words the voice plays, and the bank they are from. -/
  script : List W32
  scriptBank : Nat
  /-- Blocks of the migration gap, from M + 1 (R176). -/
  gapFrom : Option Nat
  deriving DecidableEq, Repr

/-- The dispatcher (R133–R155) beyond its registers. -/
structure DispSt where
  jobs : List Job
  /-- Generations of records that are not at their first value, 1 (R136). -/
  gens : List (Nat × Nat)
  /-- The ready lists by class, heads first (R140). -/
  ready : List (Nat × List Nat)
  voices : List Voice
  /-- Waits of the jobs placed in the last 4,096 blocks: class, block, wait (R155). -/
  waits : List (Nat × Nat × Nat)
  /-- Descriptors armed in the trigger slots (R152), and the last job of each slot. -/
  trigs : List (Nat × Descr)
  trigJobs : List (Nat × Nat)
  /-- The Squall job's record, and the cause of its end (R149, R150, R319). -/
  squall : Option Nat
  squallSource : Nat
  squallEnd : Nat
  /-- A Squall trigger latched in BOOT or LULL (R485): its source. -/
  squallLatched : Option Nat
  /-- The answer that the Mason pair gives to the JOB.SQUALL whose doorbell on MB0 has triggered (R148). -/
  squallMb : Option W32
  /-- Script insertion records in use (R117): brick, voice, the order of acceptance of the edit that holds it, and the block of
  its AT. -/
  insertions : List (Nat × Nat × Nat × Nat)
  /-- Kernel cycles of the last 16 committed blocks by logical brick, newest first (R142, R174). -/
  cycles : List (Nat × List Nat)
  /-- Reserve cycles used and reserve cycles there were in the last 16 block periods, by logical brick, the running period first
  (R168). -/
  reserve : List (Nat × List (Nat × Nat))
  /-- The external source values of R76: changes of a contact's class and of a zone's ambient estimate, with the sample at which
  each applies, newest first. -/
  contactLog : List (Nat × Nat × Nat)
  ambientLog : List (Nat × Nat × Nat)
  deriving DecidableEq, Repr

/-- One ramp of a gain from a media time (R185, R186): from an amplitude in 2^−60 of unity to a gain in 1/128 dB. -/
structure Leg where
  src : Int
  dst : Int
  start : Nat
  /-- The ramp code: 0 for 32 samples linear, n for n blocks, and 256 for one block linear (R216). -/
  code : Nat
  deriving DecidableEq, Repr

/-- A gain (R185): the ramp it follows now, and the ramps that it followed at samples that some unit has still to handle, newest first. -/
structure Ramp extends Leg where
  past : List Leg
  deriving DecidableEq, Repr

/-- A tap in force (R182–R194). -/
structure Tap where
  src : Nat
  bus : Nat
  ramp : Ramp
  deleting : Bool
  /-- The job whose voice the tap belongs to, and whether the job itself set it. -/
  job : Option Nat
  hardware : Bool
  duck : Ramp
  muted : Bool
  deriving DecidableEq, Repr

/-- A record of MIX.SET_TAPS (R197). -/
structure TapRec where
  vrel : Bool
  src : Nat
  bus : Nat
  gain : Int
  ramp : Nat
  /-- The job handle that its command names, or 0. -/
  job : W32
  deriving DecidableEq, Repr

/-- A tap change accepted and not yet applied (R186, R191). -/
structure TapPend where
  mt : Nat
  order : Nat
  entry : TapRec
  /-- The record addressed its voice by index (R194). -/
  byIndex : Bool
  deriving DecidableEq, Repr

/-- The class setting of a source (R195). -/
structure SrcClass where
  src : Nat
  cls : Nat
  mode : Nat
  contact : Nat
  thresh : Int
  deriving DecidableEq, Repr

/-- An internal generator (R196). -/
structure Gen where
  src : Nat
  param : Nat
  /-- The media time that seeds the noise, the level, the sample of the last change, and what changes of frequency have added to a sine's
  phase, in 1/100 of a cycle over the rate in hertz. -/
  seed : Nat
  level : Ramp
  setMt : Nat
  shift : Nat
  /-- Parameters, seeds, phase shifts and samples of the changes before, newest first. -/
  past : List (Nat × Nat × Nat × Nat)
  deriving DecidableEq, Repr

/-- A mix block of one source or bus (R179): block number and samples. -/
structure Audio where
  chan : Nat
  block : Nat
  samples : List Sample
  deriving DecidableEq, Repr

/-- The mix matrix (R179–R201) beyond its registers. -/
structure MixSt where
  taps : List Tap
  pend : List TapPend
  /-- Crosspoints whose tap has been deleted and whose entry stays taken for an accepted change: source, bus, job record (R191). -/
  kept : List (Nat × Nat × Option Nat)
  /-- Open sets: number and staged records (R198). -/
  sets : List (Nat × List TapRec)
  classes : List SrcClass
  gens : List Gen
  /-- Auxiliary routes: bus and its destination words (R180). -/
  aux : List (Nat × List W32)
  clipCounts : List (Nat × Nat)
  /-- Per bus, the classes live within the hold tail: class and the last block it was live (R146). -/
  live : List (Nat × Nat × Nat)
  /-- Input samples received and not yet consumed, by mix source. -/
  inputs : List Audio
  /-- The bus outputs of the block mixed last. -/
  buses : List Audio
  /-- Auxiliary-bus samples on their way, by destination (R181), and routes that a ROUTE_AUX replaces within the running block:
  bus, the sample of the change, and the destinations before it. -/
  auxOuts : List Audio
  auxOld : List (Nat × Nat × List W32)
  /-- The taps of course-send buses as the send pass applies them, each with the local ramp it follows, and the samples at which
  the send pass stops voices: voice key and media time (R337). -/
  send : List (Tap × Ramp)
  sendStops : List (Nat × Nat)
  /-- TAPS_FULL was posted and the total has not fallen below 95 % (R192). -/
  fullPosted : Bool
  deriving DecidableEq, Repr

/-- The coefficients and state of one biquad section (R208). -/
structure Biquad where
  b0 : Int
  b1 : Int
  b2 : Int
  a1 : Int
  a2 : Int
  x1 : Int
  x2 : Int
  y1 : Int
  y2 : Int
  deriving DecidableEq, Repr

/-- Ambient-adaptive gain of a zone (R206, R207). -/
structure Ambient where
  mic : Nat
  cal : Int
  gapThresh : Int
  hang : Nat
  ref : Int
  slope : Nat
  max : Nat
  quiet : Nat
  gapBlocks : Nat
  power : Nat
  estimate : Option Int
  /-- The gain in force in 1/10,000 dB. -/
  gain : Nat
  deriving DecidableEq, Repr

/-- Dynamics of a zone (R211). -/
structure Dyn where
  thresh : Int
  ratio : Nat
  knee : Nat
  attack : Nat
  release : Nat
  makeup : Int
  ceiling : Int
  limRelease : Nat
  /-- The level that the detector follows, in 2^−60 dB; the limiter's gain, and the share of the bypass, in 2^−60 of unity. -/
  level : Int
  limGain : Int
  bypass : Int
  deriving DecidableEq, Repr

/-- The settings of a zone that a command changes at a sample with no ramp or crossfade of their own (R205, R206, R211, R216): the gate's
duck depth and ramp, the enables of stages 3, 6 and 9, the dynamics, and the pilot's bin and level. -/
structure ZoneSet where
  depth : Nat
  ramp : Nat
  ambEn : Bool
  dynEn : Bool
  evacBypass : Bool
  dyn : Dyn
  pilotEn : Bool
  pilotBin : Nat
  pilotLevel : Int
  deriving DecidableEq, Repr

/-- A zone (R202–R224) beyond its registers. -/
structure Zone where
  n : Nat
  inputs : List Nat
  /-- Positions a group took: group and position (R221). -/
  groupPos : List (Nat × Nat)
  /-- What crossfades leave behind, oldest first, each with the sample at which the next crossfade starts: inputs, sections, FIR
  coefficients and delays (R204, R210, R212). -/
  oldInputs : List (List Nat × Nat)
  ducks : List Ramp
  ambient : Ambient
  biquads : List Biquad
  oldEq : List (List Biquad × Nat)
  firStage : List (Nat × Int)
  fir : List Int
  oldFir : List (List Int × Nat)
  firHist : List Int
  dyn : Dyn
  delay : Nat
  oldDelay : List (Nat × Nat)
  line : List Int
  gain : Ramp
  pilotLevel : Int
  pilotOn : Ramp
  probeOn : Bool
  /-- Settings that changed at a sample of a block that the zone has still to handle: the sample, and what was in force before it, in
  order of media time. -/
  olds : List (Nat × ZoneSet)
  /-- A BLOCK reset returns the zone to its reset values once the samples before it have been handled (R295). -/
  resetDue : Bool
  dests : List W32
  /-- The output ramp of each slot, and destinations that ramp out (R218–R220). -/
  ramps : List Ramp
  leaving : List (W32 × Ramp)
  /-- Failed destinations: role and cause (R219). -/
  failed : List (Nat × Nat)
  /-- Consecutive good blocks of a failed path, by role (R220). -/
  good : List (Nat × Nat)
  /-- Running since a ZONE.ENABLE: the output ramp from 0 at enable and to 0 at disable. -/
  fade : Ramp
  draining : Bool
  /-- The input class of the block last processed. -/
  hold : Option Nat
  out : List Int
  /-- The ring of blocks on the way to the outputs, newest first (R11), and the pilot in those of a fallback sweep (R404). -/
  sent : List Audio
  pilots : List Audio
  deriving DecidableEq, Repr

/-- A zone group (R221, R222). -/
structure Group where
  n : Nat
  members : BitVec 256
  bus : Nat
  send : Nat
  site : Nat
  deriving DecidableEq, Repr

/-- The states of a bank (R122). -/
inductive BankState where
  | empty | loading | verifying | resident | replacing | vault | vaultBad | unloading
  deriving DecidableEq, Repr

/-- A bank image in memory (R119–R129). -/
structure Image where
  gen : Nat
  len : Nat
  bytes : Bytes
  /-- Tiles marked BAD, and tiles whose VERIFIED mark is clear. -/
  bad : List Nat
  unverified : List Nat
  /-- 4 KiB pages of the image that hold an uncorrectable word (R129). -/
  damaged : List Nat
  deriving DecidableEq, Repr

/-- A load in progress (R123). -/
structure Load where
  len : Nat
  force : Bool
  mailbox : Bool
  bytes : Bytes
  /-- The ranges written so far by mailbox writes: first byte and byte past the last, rising and apart. -/
  runs : List (Nat × Nat)
  /-- VC1: bytes delivered, the end of the transfer seen, and a flit lost (R322). -/
  received : Nat
  ended : Bool
  broken : Bool
  deriving DecidableEq, Repr

/-- A bank that is not EMPTY (R122–R129). -/
structure Bank where
  n : Nat
  state : BankState
  image : Option Image
  load : Option Load
  /-- Images a takeover has replaced and that voices still bind (R126). -/
  old : List Image
  /-- An accepted unload empties the bank from this block (R127, R128). -/
  emptyFrom : Option Nat
  /-- A replacement that passed its checks takes over at the next tick (R126). -/
  ready : Option (Image × Bool)
  /-- BANK.VERIFY runs. -/
  checking : Bool
  deriving DecidableEq, Repr

/-- Banks (R122–R132) and the VC1 transfer. -/
structure BankSt where
  banks : List Bank
  nextGen : Nat
  /-- Who uses VC1: 0 nobody, 1 a bank, 2 a kernel staging, 3 SAFE.UPDATE (R310). -/
  vc1 : Nat
  vc1Bank : Nat
  /-- Loads abandoned by a reset, to be reported after SYS_READY (R539). -/
  abandoned : List Nat
  available : Bool
  /-- Uncorrectable events in the second that runs (R424). -/
  uncorrThisSecond : Nat
  /-- The interface's last training succeeded (R424). -/
  trained : Bool
  /-- The bytes of the NOR's copy that the vault's mirror was loaded from (R131, R132). -/
  vaultCopy : List Byte
  deriving DecidableEq, Repr

/-- A customer kernel's image (R255). -/
structure KImage where
  bytes : Bytes
  len : Nat
  deriving DecidableEq, Repr

/-- A pending KERNEL.LOAD or RESTORE_STD (R257). -/
structure KPend where
  bricks : List Nat
  /-- Bricks that have not loaded yet, and of these the ones that load in the running block period. -/
  left : List Nat
  loading : List Nat
  /-- The image to load; none is the standard kernel. -/
  image : Option KImage
  block : Nat
  deriving DecidableEq, Repr

/-- Kernel staging and loading (R255–R258). -/
structure KernelSt where
  staging : Option Load
  staged : Option KImage
  /-- The result of the last check; 0xFF none (R316). -/
  result : Nat
  pend : List KPend
  /-- The customer image a logical brick runs, where it is not the standard kernel. -/
  images : List (Nat × KImage)
  /-- Cuts reported: 0 illegal or 1 overrun, brick and block, newest first (R241, R253). -/
  cuts : List (Nat × Nat × Nat)
  /-- Physical bricks whose golden voice mismatched in the last block, and runs again (R260). -/
  misses : List Nat
  deriving DecidableEq, Repr

/-- The kernel datapath (R226–R254): the call in progress and its registers, and the memory that kernels reach. -/
structure Datapath where
  /-- A call is in progress, of the voice of a job in a slot, rendering a block. -/
  active : Bool
  src : Nat
  record : Nat
  block : Nat
  /-- C0–C3 and S0–S3 by operand code, and W0–W3 (R228). -/
  o : List Sample
  w : List Wide
  pt : List (BitVec 24)
  st : List (BitVec 18)
  wlo : List (BitVec 18)
  whi : List (BitVec 18)
  /-- The address registers as the next instruction's moves see them (R244). -/
  ptM : List (BitVec 24)
  stM : List (BitVec 18)
  wloM : List (BitVec 18)
  whiM : List (BitVec 18)
  cfg : W32
  flags : W32
  pc : Nat
  /-- Return addresses, newest first. -/
  stack : List Nat
  /-- How often the next instruction runs: none outside a repeat (R238). -/
  rep : Option Nat
  /-- Cycles counted, and the budget (R252). -/
  cycles : Nat
  /-- The memory of all bricks but their tables: words by logical brick × 2^18 + word address. -/
  mem : Store
  deriving DecidableEq, Repr

/-- An audio port (R350–R366) beyond its registers. -/
structure PortSt where
  n : Nat
  /-- Tags of the frames in the buffer by index: index and media time (R355). -/
  tags : List (Nat × Nat)
  /-- Frame boundaries since the last block tick. -/
  sub : Nat
  startAt : Nat
  stopAt : Option Nat
  preLeft : Nat
  postLeft : Nat
  fsSeen : Bool
  goodFrames : Nat
  /-- Rejoining by tag: after clock loss (false) or a length change (true), and the zero frames so far (R362, R365). -/
  rejoin : Option (Bool × Nat)
  /-- A rate measurement has been made since the start (R363). -/
  measured : Bool
  /-- RD still wraps at the old length (R365). -/
  oldLen : Option Nat
  lastTag : Option Nat
  /-- The frame sent last, channel by channel. -/
  sent : List W32
  /-- A port that Lull stopped and that restarts after it (R360). -/
  resume : Bool
  deriving DecidableEq, Repr

/-- What a mute ramp leads to (R373). -/
inductive AnaAfter where
  | open | range (r : Nat) | stay
  deriving DecidableEq, Repr

/-- An analogue channel (R368–R386) beyond its registers. -/
structure AnaSt where
  n : Nat
  code : Int
  queue : List Int
  sinceTick : Nat
  /-- A mute ramp in progress and what follows it. -/
  muting : Option AnaAfter
  fastMute : Bool
  settle : Nat
  emptyRun : Nat
  outRun : Nat
  inRun : Nat
  loadRun : Nat
  loadClass : Nat
  /-- Updates since the ramp-in began (R373). -/
  rampIn : Nat
  /-- The code holds at zero until the next block boundary at which there is something to carry (R376, R378, R380). -/
  waits : Bool
  /-- A range change that follows the running one (R379). -/
  nextRange : Option Nat
  /-- The samples before the block in hand, newest first, as the interpolator keeps them (R370). -/
  past : List Int
  /-- Updates for which the test current has risen (R382). -/
  test : Nat
  /-- Updates since the compliance step of the Dew test began on the channel, and those left of its current's ramp-out (R404, R406). -/
  bench : Option Nat
  benchOut : Nat
  trims : List Int
  /-- Largest segment drift seen, in 1/4 code step (R498). -/
  drift : Nat
  deriving DecidableEq, Repr

/-- ANA.TRIM in progress (R384, R385). -/
structure TrimRun where
  left : List Nat
  done : List Nat
  limited : List Nat
  aborted : Nat
  deriving DecidableEq, Repr

/-- A timer (R446–R457) beyond its registers. -/
structure TimerSt where
  n : Nat
  prescale : Nat
  /-- The PERIOD in force while a shadowed one waits (R452). -/
  period : W32
  /-- RESET_SELF acts at the next counted clock (R451). -/
  resetNext : Bool
  skipNext : Bool
  /-- Link actions that wait for the next MCLK cycle, in order: 1 RESET, 2 START, 3 STOP, 4 CLOCK (R449, R451). -/
  due : List Nat
  pulse : Bool
  /-- Events since the last TIM_EVENT and how many (R456). -/
  events : BitVec 5
  count : Nat
  lastBlock : Option Nat
  /-- A run interrupted by Lull (R457). -/
  resume : Bool
  deriving DecidableEq, Repr

/-- A UART (R464–R478) beyond its registers. -/
structure UartSt where
  n : Nat
  sendBuf : List Byte
  ring : List Byte
  ringErr : Bool
  txd : Option Byte
  shifter : Option Byte
  /-- A generated XON or XOFF waiting for a character boundary (R471). -/
  flowOut : List Byte
  xoffSent : Bool
  xoffDue : Bool
  /-- Bytes of the Squall sequence matched (R148). -/
  matched : Nat
  armed : Bool
  breakSeen : Bool
  lastRxBlock : Option Nat
  deHigh : Bool
  wakeArmed : Bool
  /-- The line has been at 0 for 2 s and has not returned (R476). -/
  stuck : Bool
  deriving DecidableEq, Repr

/-- A contact (R458–R463) beyond its registers. -/
structure ContactSt where
  n : Nat
  lastEventFrame : Option Nat
  /-- Transitions not yet reported, and the class before the newest of them (R461). -/
  merged : Nat
  old : Nat
  deriving DecidableEq, Repr

/-- Monitor returns of a zone (R389, R390, R409). -/
structure Returns where
  zone : Nat
  retA : Nat
  lagA : Nat
  retB : Nat
  lagB : Nat
  calA : Int
  calB : Int
  deriving DecidableEq, Repr

/-- The run of windows at one check point (R391). -/
structure PilotRun where
  zone : Nat
  point : PilotPoint
  missing : Nat
  present : Nat
  fault : Bool
  level : Int
  deriving DecidableEq, Repr

/-- A zone-to-microphone path (R394–R400). Durations are in hops of 1,024 samples. -/
structure Path where
  n : Nat
  en : Bool
  zone : Nat
  input : Nat
  energy : Int
  delay : Nat
  inverted : Bool
  tilt : Int
  confidence : Nat
  /-- Energy, delay, polarity and tilt taken as the baseline. -/
  baseline : Option (Int × Nat × Bool × Int)
  lowRun : Nat
  goodRun : Nat
  changeRun : Nat
  fault : Bool
  wantBaseline : Bool
  deriving DecidableEq, Repr

/-- A zone's Dew record (R408) and its progress through the steps of R404. -/
structure DewZone where
  zone : Nat
  selected : Bool
  /-- Steps 0–5 stand for 1a, 1b, 2, 3, 4, 5; 6 is finished. -/
  step : Nat
  held : Bool
  /-- The first sample of a pilot sweep (R404). -/
  since : Nat
  /-- Media time at which the last window ended for this zone. -/
  endMt : Nat
  /-- Results of the six steps as R408 codes them. -/
  res : List Nat
  aborts : Nat
  margin : Nat
  weakBin : Nat
  headroom : Nat
  ohms : Nat
  trimErr : Nat
  tested : Nat
  rebased : Nat
  flagged : Nat
  worstPath : Nat
  worstDe : Int
  deriving DecidableEq, Repr

/-- Silent supervision (R389–R410) beyond its registers. -/
structure SupvSt where
  returns : List Returns
  pilots : List PilotRun
  paths : List Path
  dewSteps : Nat
  dewGroups : W64
  dewStart : Nat
  dew : List DewZone
  baselining : Bool
  baselined : Nat
  /-- Pilot windows that end up to this media time do not count (R393). -/
  pilotFrom : Nat
  deriving DecidableEq, Repr

/-- An ageing record's words (R499). -/
abbrev AgeRec := List W32

/-- The weathering monitor (R494–R500) beyond its registers. -/
structure AgeSt where
  log : List AgeRec
  fresh : Nat
  /-- Ring and temperature sums over the hour, with counts. -/
  slackSum : Nat
  slackN : Nat
  tjSum : Int
  tjN : Nat
  tjMax : Int
  canaryRuns : List (Nat × Nat)
  canaryFails : Nat
  repairDue : List Nat
  trimDue : List Nat
  /-- The slot count per brick that a planned clock step closes to (R497). -/
  closing : Option Nat
  avsBusy : Bool
  /-- A failed write is retried at the next hour (R495). -/
  avsHold : Bool
  resetsHour : Nat
  /-- Seconds since the last reset. -/
  sinceReset : Nat
  lullMinutes : Nat
  /-- The column that each repair that is due was called for (R498): slab and column. -/
  repairCols : List (Nat × Nat)
  deriving DecidableEq, Repr

/-- The stream port (R320–R329) beyond its registers. -/
structure StreamSt where
  mapPending : Option (Nat × Nat)
  /-- The VC2 message being received: its bytes, whether a message is open, and whether a payload flit was lost (R284). -/
  vc2 : List Byte
  vc2Open : Bool
  vc2Bad : Bool
  /-- Flits that failed their CRC since the last block tick (R329). -/
  crcRun : Nat
  /-- Credits that the far end granted at training, per channel (R323, R327). -/
  grants : List Nat
  /-- Output samples on their way to the pins: channel, block and samples (R326). -/
  outs : List Audio
  /-- The output audio frame sent last: its header words and its data words (R325). -/
  sent : List W32
  /-- The link was UP when Lull was entered (R491). -/
  wasUp : Bool
  deriving DecidableEq, Repr

/-- A course-link frame as this device sends it (R330, R331): its messages carry SEQ, type and body words. -/
structure SentFrame where
  origin : Nat
  marker : Bool
  active : Bool
  keystone : Bool
  fault : Bool
  hops : Nat
  mt : Nat
  channels : List (Nat × List Sample)
  messages : List (Nat × Nat × List W32)
  deriving DecidableEq, Repr

/-- Another device of the ring, as its frames and messages show it (R330–R348). `origin` is the course number, plus 8 for twin
role B. -/
structure Peer where
  origin : Nat
  /-- MT(now) when its latest frame arrived. -/
  heard : Nat
  /-- Hops to it by the EAST and by the WEST port. -/
  east : Option Nat
  west : Option Nat
  active : Bool
  fault : Bool
  /-- Its STATUS and TOPO messages: hop latencies in ns, twin state, and ports DOWN. -/
  hopEast : Nat
  hopWest : Nat
  twin : Nat
  down : Nat
  deriving DecidableEq, Repr

/-- The course link (R330–R348) beyond its registers. -/
structure CourseSt where
  /-- Messages that wait for a frame: type and body words. Those sent once and due again: SEQ, type and body (R333). -/
  outbox : List (Nat × List W32)
  again : List (Nat × Nat × List W32)
  /-- SEQ of the next message, and the messages acted on: origin and SEQ, newest first (R333). -/
  seq : Nat
  seen : List (Nat × Nat)
  /-- Frames taken, and frames of which a copy failed its CRC: origin and MT (R332). -/
  taken : List (Nat × Nat)
  damaged : List (Nat × Nat)
  peers : List Peer
  /-- The origin whose copy of a send channel is taken (R332). -/
  carried : List (Nat × Nat)
  /-- Frames of its own sent in the running block period, the newest one, and frames to forward and forwarded last, each with
  the port it leaves by (R330). -/
  frame : Nat
  sent : Option SentFrame
  forward : List (Nat × CourseFrame)
  forwarded : List (Nat × CourseFrame)
  /-- Blocks of the course-send channels that the frames carry: channel, block label and samples (R336, R337). -/
  sends : List Audio
  /-- The keystone has been lost and no other is known yet (R342). -/
  keyLost : Bool
  /-- Site name to the local group of each course (R344). -/
  siteNames : List (Nat × List Nat)
  /-- Twins (R346–R348): this device is the active one, the sample from which its outputs ramp in after a takeover or a rate
  change (R41), signatures by block, the first differing block, and zones excluded by block (R178). -/
  active : Bool
  rampFrom : Option Nat
  partnerSigs : List (Nat × List W32)
  ownSigs : List (Nat × List W32)
  mismatchBlock : Option Nat
  excluded : List (Nat × List Nat)
  deriving DecidableEq, Repr

/-- A Strike held in the store (R507–R509): the register image latched at its instant. -/
structure Strike where
  seq : Nat
  sources : Nat
  mt : Nat
  originCourse : Nat
  originSeq : Nat
  site : Bool
  late : Bool
  complete : Bool
  partialCopy : Bool
  commit : Nat
  pstate : Nat
  image : Store
  levels : List (Nat × Int × Int)
  sigs : List W32
  window : List W64
  /-- Per set code, the lag or copy duration in MCLK cycles, and NO_CLOCK (R505, R509). -/
  lags : List (Nat × Nat × Bool)
  deriving DecidableEq, Repr

/-- A Strike triggered and not yet latched (R502, R504). -/
structure StrikePend where
  mt : Nat
  seq : Nat
  sources : Nat
  originCourse : Nat
  originSeq : Nat
  site : Bool
  late : Bool
  deriving DecidableEq, Repr

/-- Strike snapshots (R502–R509) beyond their registers. -/
structure StrikeSt where
  held : List Strike
  pend : List StrikePend
  matchArmed : Bool
  matchMt : Nat
  /-- The sequence number given last (R507). -/
  lastSeq : Nat
  deriving DecidableEq, Repr

/-- A fault record (R422). -/
abbrev FaultRec := List W32

/-- Functional safety (R411–R427) beyond its registers. -/
structure SafeSt where
  /-- The supervisor's buffer of up to 8 records, oldest first (R414). -/
  buffer : List FaultRec
  /-- The log in the boot NOR: index and record; which are protected. -/
  log : List (Nat × FaultRec)
  prot : List Nat
  /-- Records since POR already protected: the first 64 are. -/
  sincePor : Nat
  nextIndex : Nat
  /-- Suppressed detections by code and instance (R423). -/
  repeats : List (Nat × Nat × Nat)
  /-- Codes and instances with a record in the running second. -/
  thisSecond : List (Nat × Nat)
  /-- The code whose RESET reaction waits for RESET_DELAY (R417). -/
  resetDue : Option Nat
  /-- Injected path faults held ACTIVE (R427). -/
  injectHold : List Nat
  keys : List (Nat × List W32)
  nonce : Nat
  alive : Bool
  /-- Faults recorded in Lull whose reaction runs at wake (R419). -/
  lullFaults : List (Nat × Nat)
  /-- An open SAFE.UPDATE staging: region (R301). -/
  update : Option (Nat × Load)
  /-- Bricks declared failed and kept out of service (R415): physical numbers. -/
  failedBricks : List Nat
  /-- The condition of a MUTE is still detected (R300). -/
  muteCode : Option Nat
  deriving DecidableEq, Repr

/-- Slabs (R429–R439) beyond their registers: words by slab × 65,536 + word, 0 where unlisted. -/
structure SlabSt where
  words : List (Nat × W64)
  /-- Uncorrectable words. -/
  bad : List Nat
  /-- Handovers that drain: slab, new owner, new sub. -/
  draining : List (Nat × Nat × Nat)
  /-- SLAB.HANDOVER commands whose response follows HANDOVER_DONE (R306): slab and command. -/
  answers : List (Nat × Kcp)
  /-- Accesses by a new owner held while a handover drains, oldest first. -/
  held : List (Nat × Nat × W32 × Nat)
  /-- Slabs with a commanded pass: slab and whether it is the march test (R438). -/
  passes : List (Nat × Bool)
  /-- Field repairs in progress: slab and column (R439). -/
  repairs : List (Nat × Nat)
  /-- Slabs whose violation event has been posted in the running second (R432). -/
  violThisSecond : List Nat
  retry : List (Nat × Nat)
  /-- Corrections by slab and column since reset (R437). -/
  columns : List (Nat × Nat × Nat)
  /-- Hours counted, and the hour at which the march test last covered each window: slab × 128 + window (R438, MEMIF_SCRUB). -/
  hours : Nat
  tested : List (Nat × Nat)
  /-- The page that the patrol of bank memory read last (R441). -/
  patrolled : Nat
  deriving DecidableEq, Repr

/-- The configuration image held by SYS.CONFIG_BUILD (R297): the setting it captured. -/
structure CfgImage where
  tag : Nat
  autoArm : Bool
  bytes : List Byte
  deriving DecidableEq, Repr

/-- The boot NOR (R443–R445) and configuration images. -/
structure NorSt where
  flash : NorImage
  held : Option CfgImage
  nextTag : Nat
  /-- The region whose update is being written, and the copy to come (R445). -/
  writing : Option (Nat × NorCopy)
  erasing : Bool
  deriving DecidableEq, Repr

/-- What the supply monitors see of the analogue rails (R375). -/
structure Pins where
  analogueGood : Bool
  deriving DecidableEq, Repr

/-- An accepted timestamped command whose effect waits for its media time (R16): its opcode and payload. -/
structure Timed where
  mt : Nat
  order : Nat
  opcode : Nat
  payload : List W32
  chan : Nat
  seq : BitVec 16
  status : Nat
  notify : Bool
  deriving DecidableEq, Repr

/-- The state of the block. -/
structure State where
  variant : Variant
  power : Power
  /-- The state that Lull was entered from (R484). -/
  lullFrom : Power
  /-- A Lull entry has passed its first step and waits for the power-down (R489). -/
  lullEntry : Bool
  resetKind : ResetKind
  /-- Every register of the host block and the register window, by byte address. -/
  regs : Store
  /-- The MT_HI latches of the two read paths, by the address of the _LO register (R534). -/
  latchSpi : List (Nat × W32)
  latchMclk : List (Nat × W32)
  time : TimeSt
  host : HostSt
  disp : DispSt
  mix : MixSt
  zones : List Zone
  groups : List Group
  banks : BankSt
  kernel : KernelSt
  dp : Datapath
  ports : List PortSt
  ana : List AnaSt
  anaTrim : Option TrimRun
  timers : List TimerSt
  uarts : List UartSt
  contacts : List ContactSt
  supv : SupvSt
  age : AgeSt
  stream : StreamSt
  course : CourseSt
  strike : StrikeSt
  safe : SafeSt
  slabs : SlabSt
  nor : NorSt
  pins : Pins
  /-- Accepted effects that wait for their media time. -/
  timed : List Timed
  /-- The order of acceptance (R262). -/
  order : Nat
  /-- The model's own field: counts the free values drawn. -/
  free : Nat
  /-- The commands that wait, first in first out. -/
  pending : List Instr
  deriving DecidableEq, Repr

/-! What each unit holds before anything has configured it. -/

/-- A flash that holds nothing (the boot NOR is outside the device; DESIGN CHOICE, notes/assumptions/4.md). -/
def norCopyBlank : NorCopy := ⟨false, 0, 0, []⟩
def norImageBlank : NorImage :=
  ⟨⟨false, 0, 0, 0, false, false⟩, norCopyBlank, norCopyBlank, norCopyBlank, norCopyBlank, norCopyBlank,
    norCopyBlank⟩

/-- A ramp with nothing before it. -/
def Ramp.of (src dst : Int) (start code : Nat) : Ramp := ⟨⟨src, dst, start, code⟩, []⟩

/-- The mute end of a gain, −120.00 dB in 1/128 dB (R183). -/
def muteCode : Int := -15360

/-- No ramp: 0 dB, or mute, since the beginning. -/
def Ramp.unity : Ramp := .of (2 ^ 60) 0 0 0
def Ramp.silent : Ramp := .of 0 muteCode 0 0

/-- A section at pass-through: b0 = 1.0 in Q3.21 (R208). -/
def Biquad.pass : Biquad := ⟨2 ^ 21, 0, 0, 0, 0, 0, 0, 0, 0⟩

/-- A zone with its enable-time defaults (R204, R206, R208, R209, R211, R212, R214, R216, R223). -/
def Zone.init (n : Nat) : Zone where
  n := n
  inputs := [n, 0x3FF, 0x3FF, 0x3FF]
  groupPos := []
  oldInputs := []
  ducks := [.unity, .unity, .unity, .unity]
  ambient := ⟨0, 0, -6400, 150, -5120, 8, 24, 0, 0, 0, none, 0⟩
  biquads := List.replicate 16 Biquad.pass
  oldEq := []
  firStage := []
  fir := []
  oldFir := []
  firHist := []
  dyn := ⟨-2560, 16, 12, 50, 300, 0, 0, 50, -120 * 2 ^ 60, 2 ^ 60, 0⟩
  delay := 0
  oldDelay := []
  line := []
  gain := .unity
  pilotLevel := -3328
  pilotOn := .silent
  probeOn := false
  olds := []
  resetDue := false
  dests := [0, 0, 0, 0]
  ramps := [.unity, .unity, .silent, .silent]
  leaving := []
  failed := []
  good := []
  fade := .silent
  draining := false
  hold := none
  out := []
  sent := []
  pilots := []

/-- A zone group with no members, no buses and its own number as site name (R221, R222). -/
def Group.init (n : Nat) : Group := ⟨n, 0, 0x3FF, 0x3FF, n⟩

/-- A bank that is EMPTY (R122). -/
def Bank.init (n : Nat) : Bank := ⟨n, .empty, none, none, [], none, none, false⟩

/-- A STOPPED port with nothing in its buffer. -/
def PortSt.init (n : Nat) : PortSt :=
  ⟨n, [], 0, 0, none, 0, 0, false, 0, none, false, none, none, [], false⟩

/-- An INERT channel. -/
def AnaSt.init (n : Nat) : AnaSt := ⟨n, 0, [], 0, none, false, 0, 0, 0, 0, 0, 0, 0, false, none, [], 0, none, 0, [], 0⟩

/-- A stopped timer. -/
def TimerSt.init (n : Nat) : TimerSt :=
  ⟨n, 0, 0xFFFFFFFF, false, false, [], false, 0, 0, none, false⟩

/-- A disabled UART. -/
def UartSt.init (n : Nat) : UartSt :=
  ⟨n, [], [], false, none, none, [], false, false, 0, false, false, none, false, true, false⟩

/-- A contact that has reported nothing. -/
def ContactSt.init (n : Nat) : ContactSt := ⟨n, none, 0, 0⟩

/-- No monitor returns (R409: 0x3FFF none). -/
def Returns.init (z : Nat) : Returns := ⟨z, 0x3FFF, 0, 0x3FFF, 0, 0, 0⟩

/-- A check point that has seen no window. -/
def PilotRun.init (z : Nat) (p : PilotPoint) : PilotRun := ⟨z, p, 0, 0, false, 0⟩

/-- A path never set. -/
def Path.init (n : Nat) : Path := ⟨n, false, 0, 0, 0, 0, false, 0, 0, none, 0, 0, 0, false, false⟩

/-- A Dew record of a zone no window has visited (R408). -/
def DewZone.init (z : Nat) : DewZone :=
  ⟨z, false, 0, false, 0, 0, [0, 0, 0, 0, 0, 0], 0, 0xFF, 0, 0xFFFF, 0, 0, 0, 0, 0, 0xFFFF, 0⟩

/-- The dispatcher with no job. -/
def DispSt.init : DispSt := ⟨[], [], [], [], [], [], [], none, 0, 0, none, none, [], [], [], [], []⟩

/-- The mix matrix with no tap. -/
def MixSt.init : MixSt := ⟨[], [], [], [], [], [], [], [], [], [], [], [], [], [], [], false⟩

/-- The datapath between calls (R228) (DESIGN CHOICE, notes/assumptions/185.md). -/
def Datapath.init : Datapath where
  active := false
  src := 0
  record := 0
  block := 0
  o := List.replicate 8 0
  w := List.replicate 4 0
  pt := List.replicate 8 0
  st := List.replicate 8 0
  wlo := List.replicate 8 0
  whi := List.replicate 8 0
  ptM := List.replicate 8 0
  stM := List.replicate 8 0
  wloM := List.replicate 8 0
  whiM := List.replicate 8 0
  cfg := 0x200
  flags := 0
  pc := 0
  stack := []
  rep := none
  cycles := 0
  mem := []

/-- Media time at 0, not counting (R45), with RA 6 (R15). -/
def TimeSt.init : TimeSt where
  mt := 0
  counting := false
  everLocked := false
  measureDue := false
  acquiring := false
  epoch := none
  jump := none
  rate := none
  raTarget := 6
  raFrom := 0
  badPeriods := []
  edgeSums := []
  qualRun := []
  keptOff := 0
  msgFrame := none
  ppsBad := 0
  refsPending := none
  lockedOffset := 0
  moved := 0
  rowJ := 0
  lullMt := 0

/-- The channels with nothing recorded (R278). -/
def HostSt.init : HostSt := ⟨[], [], [], false, false, [], 0, 0, none, [], []⟩

/-- No bank, bank memory available. -/
def BankSt.init : BankSt := ⟨[], 1, 0, 0, [], true, 0, true, []⟩

/-- The standard kernel everywhere. -/
def KernelSt.init : KernelSt := ⟨none, none, 0xFF, [], [], [], []⟩

def SupvSt.init : SupvSt := ⟨[], [], [], 0, 0, 0, [], false, 0, 0⟩
def AgeSt.init : AgeSt := ⟨[], 0, 0, 0, 0, 0, 0, [], 0, [], [], none, false, false, 0, 0, 0, []⟩
def StreamSt.init : StreamSt := ⟨none, [], false, false, 0, [], [], [], false⟩
def CourseSt.init : CourseSt :=
  ⟨[], [], 0, [], [], [], [], [], 0, none, [], [], [], false, [], true, none, [], [], none, []⟩
def StrikeSt.init : StrikeSt := ⟨[], [], false, 0, 0⟩
def SafeSt.init : SafeSt := ⟨[], [], [], 0, 0, [], [], none, [], [], 0, false, [], none, [], none⟩
def SlabSt.init : SlabSt := ⟨[], [], [], [], [], [], [], [], [], [], 0, [], 0⟩
def NorSt.init : NorSt := ⟨norImageBlank, none, 1, none, false⟩

/-- The state right after reset: the device in RESET with POR asserted (R481, R483), an LMZ8192 (the variant is fixed at
manufacture, DESIGN CHOICE, notes/assumptions/1.md), every register at its reset value, nothing queued (DESIGN CHOICE, notes/assumptions/184.md). -/
def State.reset : State where
  variant := .lmz8192
  power := .reset
  lullFrom := .idle
  lullEntry := false
  resetKind := .por
  regs := []
  latchSpi := []
  latchMclk := []
  time := .init
  host := .init
  disp := .init
  mix := .init
  zones := []
  groups := []
  banks := .init
  kernel := .init
  dp := .init
  ports := []
  ana := []
  anaTrim := none
  timers := []
  uarts := []
  contacts := []
  supv := .init
  age := .init
  stream := .init
  course := .init
  strike := .init
  safe := .init
  slabs := .init
  nor := .init
  pins := ⟨true⟩
  timed := []
  order := 0
  free := 0
  pending := []

end Sys2Proof.Machine
end

