-- ==== Sys2Proof/Machine/Regs.lean ====
section
/-! DEFINITION. The register map (R510 and the register tables of every chapter): the byte address of each register, the
place of each field, what each register reads at reset, and which of its bits each access code of R9 covers. -/

namespace Sys2Proof.Machine

/-- A field of a register: byte address, lowest bit, width. -/
structure Fld where
  addr : Nat
  lo : Nat
  width : Nat
  deriving DecidableEq, Repr

/-- One row of a register table: `count` instances `stride` bytes apart, each `sub` times `subStride` bytes apart, its
reset value, and the bits that are RW, RWL, W1C, W1S, RC and WO (R9). -/
structure RegRow where
  base : Nat
  count : Nat
  stride : Nat
  sub : Nat
  subStride : Nat
  reset : Nat
  rw : Nat
  rwl : Nat
  w1c : Nat
  w1s : Nat
  rc : Nat
  wo : Nat
  deriving DecidableEq, Repr

namespace R

/-- TIME_CTRL. -/
def TIME_CTRL : Nat := 0x11000
/-- TIME_STATUS. -/
def TIME_STATUS : Nat := 0x11004
/-- TIME_RATE. -/
def TIME_RATE : Nat := 0x11008
/-- TIME_MT_LO. -/
def TIME_MT_LO : Nat := 0x1100c
/-- TIME_MT_HI. -/
def TIME_MT_HI : Nat := 0x11010
/-- TIME_BLOCK. -/
def TIME_BLOCK : Nat := 0x11014
/-- TIME_COMMIT. -/
def TIME_COMMIT : Nat := 0x11018
/-- TIME_PIPE. -/
def TIME_PIPE : Nat := 0x1101c
/-- TIME_EPOCH_LO. -/
def TIME_EPOCH_LO : Nat := 0x11020
/-- TIME_EPOCH_HI. -/
def TIME_EPOCH_HI : Nat := 0x11024
/-- TIME_EPOCH_CTRL. -/
def TIME_EPOCH_CTRL : Nat := 0x11028
/-- TIME_HOLDOVER. -/
def TIME_HOLDOVER : Nat := 0x1102c
/-- TIME_STEP_LAST. -/
def TIME_STEP_LAST : Nat := 0x11030
/-- TIME_FLAGS. -/
def TIME_FLAGS : Nat := 0x11034
/-- TIME_FREQ. -/
def TIME_FREQ : Nat := 0x11038
/-- TIME_MPLL. -/
def TIME_MPLL : Nat := 0x1103c
/-- TIME_REF[n]_CFG. -/
def TIME_REF_CFG (n : Nat) : Nat := 0x11100 + n * 0x20
/-- TIME_REF[n]_STAT. -/
def TIME_REF_STAT (n : Nat) : Nat := 0x11104 + n * 0x20
/-- TIME_REF[n]_PERIOD. -/
def TIME_REF_PERIOD (n : Nat) : Nat := 0x11108 + n * 0x20
/-- TIME_REF[n]_OFFSET. -/
def TIME_REF_OFFSET (n : Nat) : Nat := 0x1110c + n * 0x20
/-- TIME_REF[n]_FERR. -/
def TIME_REF_FERR (n : Nat) : Nat := 0x11110 + n * 0x20
/-- TIME_REF[n]_COUNT. -/
def TIME_REF_COUNT (n : Nat) : Nat := 0x11114 + n * 0x20
/-- TIME_REF[n]_QUAL_LEFT. -/
def TIME_REF_QUAL_LEFT (n : Nat) : Nat := 0x11118 + n * 0x20
/-- TIME_REF[n]_LAST_CHANGE. -/
def TIME_REF_LAST_CHANGE (n : Nat) : Nat := 0x1111c + n * 0x20
/-- DISP_CTRL. -/
def DISP_CTRL : Nat := 0x12000
/-- DISP_STATUS. -/
def DISP_STATUS : Nat := 0x12004
/-- DISP_STEAL_POLICY. -/
def DISP_STEAL_POLICY : Nat := 0x12008
/-- DISP_ARB. -/
def DISP_ARB : Nat := 0x1200c
/-- DISP_SQUALL_CFG. -/
def DISP_SQUALL_CFG : Nat := 0x12010
/-- DISP_SQUALL_SEQ. -/
def DISP_SQUALL_SEQ : Nat := 0x12014
/-- DISP_SQUALL_SCRIPT. -/
def DISP_SQUALL_SCRIPT : Nat := 0x12018
/-- DISP_SQUALL_PRESET. -/
def DISP_SQUALL_PRESET : Nat := 0x1201c
/-- DISP_SQUALL_COMP. -/
def DISP_SQUALL_COMP : Nat := 0x12020
/-- DISP_RECORDS. -/
def DISP_RECORDS : Nat := 0x12024
/-- DISP_LISTS. -/
def DISP_LISTS : Nat := 0x12028
/-- DISP_MASON_LOAD. -/
def DISP_MASON_LOAD : Nat := 0x1202c
/-- DISP_STEAL_CNT. -/
def DISP_STEAL_CNT : Nat := 0x12030
/-- DISP_ROLLBACK_CNT. -/
def DISP_ROLLBACK_CNT : Nat := 0x12034
/-- DISP_LATE_CNT. -/
def DISP_LATE_CNT : Nat := 0x12038
/-- DISP_MIGRATE_CNT. -/
def DISP_MIGRATE_CNT : Nat := 0x1203c
/-- DISP_CLASS[k]_Q. -/
def DISP_CLASS_Q (n : Nat) : Nat := 0x12080 + n * 0x8
/-- DISP_CLASS[k]_WAIT. -/
def DISP_CLASS_WAIT (n : Nat) : Nat := 0x12084 + n * 0x8
/-- DISP_TRIG[t]_CFG. -/
def DISP_TRIG_CFG (n : Nat) : Nat := 0x12100 + n * 0x8
/-- DISP_TRIG[t]_STAT. -/
def DISP_TRIG_STAT (n : Nat) : Nat := 0x12104 + n * 0x8
/-- MIX_CTRL. -/
def MIX_CTRL : Nat := 0x30000
/-- MIX_STATUS. -/
def MIX_STATUS : Nat := 0x30004
/-- MIX_TAPS_USED. -/
def MIX_TAPS_USED : Nat := 0x30008
/-- MIX_TAPS_LIMIT. -/
def MIX_TAPS_LIMIT : Nat := 0x3000c
/-- MIX_TAPS_PEAK. -/
def MIX_TAPS_PEAK : Nat := 0x30010
/-- MIX_SETS. -/
def MIX_SETS : Nat := 0x30014
/-- MIX_DISCARD_CNT. -/
def MIX_DISCARD_CNT : Nat := 0x30018
/-- MIX_NORES_CNT. -/
def MIX_NORES_CNT : Nat := 0x3001c
/-- MIX_LANE_LOAD. -/
def MIX_LANE_LOAD : Nat := 0x30020
/-- MIX_LAST_APPLY_LO. -/
def MIX_LAST_APPLY_LO : Nat := 0x30024
/-- MIX_LAST_APPLY_HI. -/
def MIX_LAST_APPLY_HI : Nat := 0x30028
/-- MIX_CLIP_TOTAL. -/
def MIX_CLIP_TOTAL : Nat := 0x3002c
/-- MIX_SRC_LIMIT. -/
def MIX_SRC_LIMIT : Nat := 0x30030
/-- MIX_ECC. -/
def MIX_ECC : Nat := 0x30034
/-- MIX_MAP_CRC. -/
def MIX_MAP_CRC : Nat := 0x30038
/-- MIX_CHANGE_CNT. -/
def MIX_CHANGE_CNT : Nat := 0x3003c
/-- MIX_CLIP[k]. -/
def MIX_CLIP (n : Nat) : Nat := 0x30040 + n * 0x4
/-- MIX_LIVE[k]. -/
def MIX_LIVE (n : Nat) : Nat := 0x30080 + n * 0x4
/-- ZONE[n]_CTRL. -/
def ZONE_CTRL (n : Nat) : Nat := 0x34000 + n * 0x10
/-- ZONE[n]_GATE. -/
def ZONE_GATE (n : Nat) : Nat := 0x34004 + n * 0x10
/-- ZONE[n]_STATUS. -/
def ZONE_STATUS (n : Nat) : Nat := 0x34008 + n * 0x10
/-- BRICK[n]_MAP. -/
def BRICK_MAP (n : Nat) : Nat := 0x20000 + n * 0x100
/-- BRICK[n]_LOAD. -/
def BRICK_LOAD (n : Nat) : Nat := 0x20004 + n * 0x100
/-- BRICK[n]_VOICES. -/
def BRICK_VOICES (n : Nat) : Nat := 0x20008 + n * 0x100
/-- BRICK[n]_KERNEL. -/
def BRICK_KERNEL (n : Nat) : Nat := 0x2000c + n * 0x100
/-- BRICK[n]_KSTAT. -/
def BRICK_KSTAT (n : Nat) : Nat := 0x20010 + n * 0x100
/-- BRICK[n]_OVR. -/
def BRICK_OVR (n : Nat) : Nat := 0x20014 + n * 0x100
/-- BRICK[n]_GOLDEN. -/
def BRICK_GOLDEN (n : Nat) : Nat := 0x20018 + n * 0x100
/-- BRICK[n]_ECC. -/
def BRICK_ECC (n : Nat) : Nat := 0x2001c + n * 0x100
/-- HOST_ID. -/
def HOST_ID : Nat := 0x00000
/-- HOST_STATUS. -/
def HOST_STATUS : Nat := 0x00004
/-- HOST_IRQ_STAT. -/
def HOST_IRQ_STAT : Nat := 0x00008
/-- HOST_IRQ_EN. -/
def HOST_IRQ_EN : Nat := 0x0000c
/-- HOST_SPI_ERR. -/
def HOST_SPI_ERR : Nat := 0x00010
/-- HOST_CMD_CNT. -/
def HOST_CMD_CNT : Nat := 0x00014
/-- KCP_VC2. -/
def KCP_VC2 : Nat := 0x00018
/-- KCP_UART. -/
def KCP_UART : Nat := 0x0001c
/-- MB[m]_DOORBELL. -/
def MB_DOORBELL (n : Nat) : Nat := 0x00020 + n * 0x10
/-- MB[m]_STAT. -/
def MB_STAT (n : Nat) : Nat := 0x00024 + n * 0x10
/-- MB[m]_SEQ. -/
def MB_SEQ (n : Nat) : Nat := 0x00028 + n * 0x10
/-- MB[m]_CTRL. -/
def MB_CTRL (n : Nat) : Nat := 0x0002c + n * 0x10
/-- EVQ_STATUS. -/
def EVQ_STATUS : Nat := 0x00060
/-- EVQ_ACK. -/
def EVQ_ACK : Nat := 0x00064
/-- EVQ_LOST_TOTAL. -/
def EVQ_LOST_TOTAL : Nat := 0x00068
/-- EVQ_CTRL. -/
def EVQ_CTRL : Nat := 0x0006c
/-- HOST_MT_LO. -/
def HOST_MT_LO : Nat := 0x00070
/-- HOST_MT_HI. -/
def HOST_MT_HI : Nat := 0x00074
/-- HOST_COMMIT. -/
def HOST_COMMIT : Nat := 0x00078
/-- HOST_SCRATCH. -/
def HOST_SCRATCH : Nat := 0x0007c
/-- STRM_CTRL. -/
def STRM_CTRL : Nat := 0x4a000
/-- STRM_STATUS. -/
def STRM_STATUS : Nat := 0x4a004
/-- STRM_RX_FRAME. -/
def STRM_RX_FRAME : Nat := 0x4a008
/-- STRM_TX_FRAME. -/
def STRM_TX_FRAME : Nat := 0x4a00c
/-- STRM_ERR. -/
def STRM_ERR : Nat := 0x4a010
/-- STRM_AUDIO. -/
def STRM_AUDIO : Nat := 0x4a014
/-- STRM_MAP. -/
def STRM_MAP : Nat := 0x4a018
/-- STRM_TRAIN. -/
def STRM_TRAIN : Nat := 0x4a01c
/-- STRM_VC[v]_CFG. -/
def STRM_VC_CFG (n : Nat) : Nat := 0x4a040 + n * 0x10
/-- STRM_VC[v]_CREDIT. -/
def STRM_VC_CREDIT (n : Nat) : Nat := 0x4a044 + n * 0x10
/-- STRM_VC[v]_TXCNT. -/
def STRM_VC_TXCNT (n : Nat) : Nat := 0x4a048 + n * 0x10
/-- STRM_VC[v]_RXCNT. -/
def STRM_VC_RXCNT (n : Nat) : Nat := 0x4a04c + n * 0x10
/-- STRM_LANE[l]_RX. -/
def STRM_LANE_RX (n : Nat) : Nat := 0x4a100 + n * 0x8
/-- STRM_LANE[l]_TX. -/
def STRM_LANE_TX (n : Nat) : Nat := 0x4a104 + n * 0x8
/-- CRSE_CTRL. -/
def CRSE_CTRL : Nat := 0x4b000
/-- CRSE_STATUS. -/
def CRSE_STATUS : Nat := 0x4b004
/-- CRSE_TOPO. -/
def CRSE_TOPO : Nat := 0x4b008
/-- CRSE_LAT. -/
def CRSE_LAT : Nat := 0x4b00c
/-- CRSE_TWIN. -/
def CRSE_TWIN : Nat := 0x4b010
/-- CRSE_TWIN_CNT. -/
def CRSE_TWIN_CNT : Nat := 0x4b014
/-- CRSE_MSG_CNT. -/
def CRSE_MSG_CNT : Nat := 0x4b018
/-- CRSE_AUDIO_LOSS. -/
def CRSE_AUDIO_LOSS : Nat := 0x4b01c
/-- CRSE_PORT[p]_STAT. -/
def CRSE_PORT_STAT (n : Nat) : Nat := 0x4b040 + n * 0x20
/-- CRSE_PORT[p]_ERR. -/
def CRSE_PORT_ERR (n : Nat) : Nat := 0x4b044 + n * 0x20
/-- CRSE_PORT[p]_HOP. -/
def CRSE_PORT_HOP (n : Nat) : Nat := 0x4b048 + n * 0x20
/-- CRSE_PORT[p]_FRAMES. -/
def CRSE_PORT_FRAMES (n : Nat) : Nat := 0x4b04c + n * 0x20
/-- CRSE_COURSE[k]_STAT. -/
def CRSE_COURSE_STAT (n : Nat) : Nat := 0x4b100 + n * 0x10
/-- CRSE_COURSE[k]_LAT. -/
def CRSE_COURSE_LAT (n : Nat) : Nat := 0x4b104 + n * 0x10
/-- CRSE_COURSE[k]_FRAMES. -/
def CRSE_COURSE_FRAMES (n : Nat) : Nat := 0x4b108 + n * 0x10
/-- CRSE_COURSE[k]_LAST. -/
def CRSE_COURSE_LAST (n : Nat) : Nat := 0x4b10c + n * 0x10
/-- APORT[n]_CTRL. -/
def APORT_CTRL (n : Nat) : Nat := 0x44000 + n * 0x80
/-- APORT[n]_FRAME. -/
def APORT_FRAME (n : Nat) : Nat := 0x44004 + n * 0x80
/-- APORT[n]_BUF. -/
def APORT_BUF (n : Nat) : Nat := 0x44008 + n * 0x80
/-- APORT[n]_LENGTH. -/
def APORT_LENGTH (n : Nat) : Nat := 0x4400c + n * 0x80
/-- APORT[n]_EDGES. -/
def APORT_EDGES (n : Nat) : Nat := 0x44010 + n * 0x80
/-- APORT[n]_STATUS. -/
def APORT_STATUS (n : Nat) : Nat := 0x44014 + n * 0x80
/-- APORT[n]_WR. -/
def APORT_WR (n : Nat) : Nat := 0x44018 + n * 0x80
/-- APORT[n]_RD. -/
def APORT_RD (n : Nat) : Nat := 0x4401c + n * 0x80
/-- APORT[n]_MT_LO. -/
def APORT_MT_LO (n : Nat) : Nat := 0x44020 + n * 0x80
/-- APORT[n]_MT_HI. -/
def APORT_MT_HI (n : Nat) : Nat := 0x44024 + n * 0x80
/-- APORT[n]_RATE. -/
def APORT_RATE (n : Nat) : Nat := 0x44028 + n * 0x80
/-- APORT[n]_RATE_CFG. -/
def APORT_RATE_CFG (n : Nat) : Nat := 0x4402c + n * 0x80
/-- APORT[n]_RATE_REF. -/
def APORT_RATE_REF (n : Nat) : Nat := 0x44030 + n * 0x80
/-- APORT[n]_XRUN. -/
def APORT_XRUN (n : Nat) : Nat := 0x44034 + n * 0x80
/-- APORT[n]_RESYNC. -/
def APORT_RESYNC (n : Nat) : Nat := 0x44038 + n * 0x80
/-- APORT[n]_GROUP. -/
def APORT_GROUP (n : Nat) : Nat := 0x4403c + n * 0x80
/-- ANA[n]_CTRL. -/
def ANA_CTRL (n : Nat) : Nat := 0x45000 + n * 0x10
/-- ANA[n]_SLEW. -/
def ANA_SLEW (n : Nat) : Nat := 0x45004 + n * 0x10
/-- ANA[n]_STATUS. -/
def ANA_STATUS (n : Nat) : Nat := 0x45008 + n * 0x10
/-- ANA[n]_COUNT. -/
def ANA_COUNT (n : Nat) : Nat := 0x4500c + n * 0x10
/-- SUPV_CTRL. -/
def SUPV_CTRL : Nat := 0x47000
/-- SUPV_STATUS. -/
def SUPV_STATUS : Nat := 0x47004
/-- SUPV_AVU_STATUS. -/
def SUPV_AVU_STATUS : Nat := 0x47008
/-- SUPV_COUNT. -/
def SUPV_COUNT : Nat := 0x4700c
/-- SUPV_DEW_CTRL. -/
def SUPV_DEW_CTRL : Nat := 0x47010
/-- SUPV_DEW_STATUS. -/
def SUPV_DEW_STATUS : Nat := 0x47014
/-- SUPV_DEW_NEXT_LO. -/
def SUPV_DEW_NEXT_LO : Nat := 0x47018
/-- SUPV_DEW_NEXT_HI. -/
def SUPV_DEW_NEXT_HI : Nat := 0x4701c
/-- SUPV_PILOT_FAULT[k]. -/
def SUPV_PILOT_FAULT (n : Nat) : Nat := 0x47020 + n * 0x4
/-- SUPV_PATH_FAULT[k]. -/
def SUPV_PATH_FAULT (n : Nat) : Nat := 0x47040 + n * 0x4
/-- SAFE_CTRL. -/
def SAFE_CTRL : Nat := 0x46000
/-- SAFE_STATUS. -/
def SAFE_STATUS : Nat := 0x46004
/-- SAFE_LOCK. -/
def SAFE_LOCK : Nat := 0x46008
/-- SAFE_LATCHED. -/
def SAFE_LATCHED : Nat := 0x4600c
/-- SAFE_ACTIVE. -/
def SAFE_ACTIVE : Nat := 0x46010
/-- SAFE_LOG. -/
def SAFE_LOG : Nat := 0x46014
/-- SAFE_FAULT_CNT. -/
def SAFE_FAULT_CNT : Nat := 0x46018
/-- SAFE_LAST. -/
def SAFE_LAST : Nat := 0x4601c
/-- SAFE_LAST_MT_LO. -/
def SAFE_LAST_MT_LO : Nat := 0x46020
/-- SAFE_LAST_MT_HI. -/
def SAFE_LAST_MT_HI : Nat := 0x46024
/-- SAFE_DEGRADE. -/
def SAFE_DEGRADE : Nat := 0x46028
/-- SAFE_BANKMEM. -/
def SAFE_BANKMEM : Nat := 0x4602c
/-- SAFE_WDOG. -/
def SAFE_WDOG : Nat := 0x46030
/-- SAFE_CLKMON. -/
def SAFE_CLKMON : Nat := 0x46034
/-- SAFE_ALIVE_STAT. -/
def SAFE_ALIVE_STAT : Nat := 0x46038
/-- SAFE_INJECT. -/
def SAFE_INJECT : Nat := 0x4603c
/-- SAFE_MECH[k]_CFG. -/
def SAFE_MECH_CFG (n : Nat) : Nat := 0x46080 + n * 0x8
/-- SAFE_MECH[k]_STAT. -/
def SAFE_MECH_STAT (n : Nat) : Nat := 0x46084 + n * 0x8
/-- SLAB[n]_OWNER. -/
def SLAB_OWNER (n : Nat) : Nat := 0x40000 + n * 0x40
/-- SLAB[n]_HANDOVER. -/
def SLAB_HANDOVER (n : Nat) : Nat := 0x40004 + n * 0x40
/-- SLAB[n]_STATUS. -/
def SLAB_STATUS (n : Nat) : Nat := 0x40008 + n * 0x40
/-- SLAB[n]_ECC. -/
def SLAB_ECC (n : Nat) : Nat := 0x4000c + n * 0x40
/-- SLAB[n]_VIOL. -/
def SLAB_VIOL (n : Nat) : Nat := 0x40010 + n * 0x40
/-- SLAB[n]_REPAIR. -/
def SLAB_REPAIR (n : Nat) : Nat := 0x40014 + n * 0x40
/-- MEMIF_CTRL. -/
def MEMIF_CTRL : Nat := 0x4c000
/-- MEMIF_STATUS. -/
def MEMIF_STATUS : Nat := 0x4c004
/-- MEMIF_BANK_SIZE. -/
def MEMIF_BANK_SIZE : Nat := 0x4c008
/-- MEMIF_BANK_ECC. -/
def MEMIF_BANK_ECC : Nat := 0x4c00c
/-- MEMIF_BANK_ERR_PAGE. -/
def MEMIF_BANK_ERR_PAGE : Nat := 0x4c010
/-- MEMIF_SCRUB. -/
def MEMIF_SCRUB : Nat := 0x4c014
/-- MEMIF_NOR_ID. -/
def MEMIF_NOR_ID : Nat := 0x4c018
/-- MEMIF_NOR_CFG. -/
def MEMIF_NOR_CFG : Nat := 0x4c01c
/-- MEMIF_REGION[r]_BASE. -/
def MEMIF_REGION_BASE (n : Nat) : Nat := 0x4c040 + n * 0x10
/-- MEMIF_REGION[r]_SIZE. -/
def MEMIF_REGION_SIZE (n : Nat) : Nat := 0x4c044 + n * 0x10
/-- MEMIF_REGION[r]_STAT. -/
def MEMIF_REGION_STAT (n : Nat) : Nat := 0x4c048 + n * 0x10
/-- TIM[n]_CTRL. -/
def TIM_CTRL (n : Nat) : Nat := 0x41000 + n * 0x40
/-- TIM[n]_CLK. -/
def TIM_CLK (n : Nat) : Nat := 0x41004 + n * 0x40
/-- TIM[n]_GATE. -/
def TIM_GATE (n : Nat) : Nat := 0x41008 + n * 0x40
/-- TIM[n]_LINK. -/
def TIM_LINK (n : Nat) : Nat := 0x4100c + n * 0x40
/-- TIM[n]_PERIOD. -/
def TIM_PERIOD (n : Nat) : Nat := 0x41010 + n * 0x40
/-- TIM[n]_COUNT. -/
def TIM_COUNT (n : Nat) : Nat := 0x41014 + n * 0x40
/-- TIM[n]_STATUS. -/
def TIM_STATUS (n : Nat) : Nat := 0x41018 + n * 0x40
/-- TIM[n]_OUT. -/
def TIM_OUT (n : Nat) : Nat := 0x4101c + n * 0x40
/-- TIM[n]_CMP[c]. -/
def TIM_CMP (n c : Nat) : Nat := 0x41020 + n * 0x40 + c * 0x8
/-- TIM[n]_INTERVAL[c]. -/
def TIM_INTERVAL (n c : Nat) : Nat := 0x41024 + n * 0x40 + c * 0x8
/-- CONTACT_CTRL. -/
def CONTACT_CTRL : Nat := 0x43000
/-- CONTACT_STATE. -/
def CONTACT_STATE : Nat := 0x43004
/-- CONTACT_EVT. -/
def CONTACT_EVT : Nat := 0x43008
/-- CONTACT_OUT. -/
def CONTACT_OUT : Nat := 0x4300c
/-- CONTACT_STRAP. -/
def CONTACT_STRAP : Nat := 0x43010
/-- CONTACT_FRAMES. -/
def CONTACT_FRAMES : Nat := 0x43014
/-- CONTACT_LAST. -/
def CONTACT_LAST : Nat := 0x43018
/-- CONTACT_CHG_CNT. -/
def CONTACT_CHG_CNT : Nat := 0x4301c
/-- CT[n]_THRESH. -/
def CT_THRESH (n : Nat) : Nat := 0x43080 + n * 0x8
/-- CT[n]_STAT. -/
def CT_STAT (n : Nat) : Nat := 0x43084 + n * 0x8
/-- UART[n]_CTRL. -/
def UART_CTRL (n : Nat) : Nat := 0x42000 + n * 0x40
/-- UART[n]_BAUD. -/
def UART_BAUD (n : Nat) : Nat := 0x42004 + n * 0x40
/-- UART[n]_FLOW. -/
def UART_FLOW (n : Nat) : Nat := 0x42008 + n * 0x40
/-- UART[n]_DE. -/
def UART_DE (n : Nat) : Nat := 0x4200c + n * 0x40
/-- UART[n]_RXD. -/
def UART_RXD (n : Nat) : Nat := 0x42010 + n * 0x40
/-- UART[n]_TXD. -/
def UART_TXD (n : Nat) : Nat := 0x42014 + n * 0x40
/-- UART[n]_STATUS. -/
def UART_STATUS (n : Nat) : Nat := 0x42018 + n * 0x40
/-- UART[n]_ERRCNT. -/
def UART_ERRCNT (n : Nat) : Nat := 0x4201c + n * 0x40
/-- UART[n]_LINECNT. -/
def UART_LINECNT (n : Nat) : Nat := 0x42020 + n * 0x40
/-- UART[n]_RX_CNT. -/
def UART_RX_CNT (n : Nat) : Nat := 0x42024 + n * 0x40
/-- UART[n]_TX_CNT. -/
def UART_TX_CNT (n : Nat) : Nat := 0x42028 + n * 0x40
/-- UART[n]_FLOWCNT. -/
def UART_FLOWCNT (n : Nat) : Nat := 0x4202c + n * 0x40
/-- AGE_CTRL. -/
def AGE_CTRL : Nat := 0x48000
/-- AGE_STATUS. -/
def AGE_STATUS : Nat := 0x48004
/-- AGE_PLAN. -/
def AGE_PLAN : Nat := 0x48008
/-- AGE_VDD. -/
def AGE_VDD : Nat := 0x4800c
/-- AGE_PMBUS. -/
def AGE_PMBUS : Nat := 0x48010
/-- AGE_LIMITS. -/
def AGE_LIMITS : Nat := 0x48014
/-- AGE_LOG. -/
def AGE_LOG : Nat := 0x48018
/-- AGE_HOURS. -/
def AGE_HOURS : Nat := 0x4801c
/-- AGE_THERM[k]. -/
def AGE_THERM (n : Nat) : Nat := 0x48020 + n * 0x4
/-- AGE_RING[k]. -/
def AGE_RING (n : Nat) : Nat := 0x48080 + n * 0x4
/-- SYS_ID. -/
def SYS_ID : Nat := 0x10000
/-- SYS_STATE. -/
def SYS_STATE : Nat := 0x10004
/-- SYS_LULL. -/
def SYS_LULL : Nat := 0x10008
/-- SYS_UPTIME. -/
def SYS_UPTIME : Nat := 0x1000c
/-- SYS_DEVID_LO. -/
def SYS_DEVID_LO : Nat := 0x10010
/-- SYS_DEVID_HI. -/
def SYS_DEVID_HI : Nat := 0x10014
/-- SYS_FW. -/
def SYS_FW : Nat := 0x10018
/-- SYS_BOOT. -/
def SYS_BOOT : Nat := 0x1001c
/-- SYS_WAKE. -/
def SYS_WAKE : Nat := 0x10020
/-- SYS_LULL_CNT. -/
def SYS_LULL_CNT : Nat := 0x10024
/-- SYS_LULL_SECS. -/
def SYS_LULL_SECS : Nat := 0x10028
/-- SYS_FAULT_CNT. -/
def SYS_FAULT_CNT : Nat := 0x1002c
/-- SYS_RUN_SECS. -/
def SYS_RUN_SECS : Nat := 0x10030
/-- SYS_CAPS[k]. -/
def SYS_CAPS (n : Nat) : Nat := 0x10040 + n * 0x4
/-- SYS_RESETS[k], k = 1–5. -/
def SYS_RESETS (n : Nat) : Nat := 0x1005C + n * 0x4
/-- SYS_CMD_CNT[c]. -/
def SYS_CMD_CNT (n : Nat) : Nat := 0x10080 + n * 0x4
/-- STRK_CTRL. -/
def STRK_CTRL : Nat := 0x49000
/-- STRK_MATCH_LO. -/
def STRK_MATCH_LO : Nat := 0x49004
/-- STRK_MATCH_HI. -/
def STRK_MATCH_HI : Nat := 0x49008
/-- STRK_SLAB. -/
def STRK_SLAB : Nat := 0x4900c
/-- STRK_STATUS. -/
def STRK_STATUS : Nat := 0x49010
/-- STRK_COUNT. -/
def STRK_COUNT : Nat := 0x49014
/-- STRK_TOTAL. -/
def STRK_TOTAL : Nat := 0x49018
/-- STRK_IN. -/
def STRK_IN : Nat := 0x4901c
/-- STRK_HELD[h]_ID. -/
def STRK_HELD_ID (n : Nat) : Nat := 0x49040 + n * 0x10
/-- STRK_HELD[h]_MT_LO. -/
def STRK_HELD_MT_LO (n : Nat) : Nat := 0x49044 + n * 0x10
/-- STRK_HELD[h]_MT_HI. -/
def STRK_HELD_MT_HI (n : Nat) : Nat := 0x49048 + n * 0x10
/-- STRK_HELD[h]_ORIGIN. -/
def STRK_HELD_ORIGIN (n : Nat) : Nat := 0x4904c + n * 0x10

end R

namespace F

/-- TIME_CTRL.REVERT (RW): 1: change to a better qualified reference under R30 -/
def TIME_CTRL_REVERT : Fld := ⟨R.TIME_CTRL, 8, 1⟩
/-- TIME_CTRL.FORCE_REF (RW): 0x0 automatic; 0x1–0x4 force reference n = value − 1; 0x5–0xF act as 0x0 -/
def TIME_CTRL_FORCE_REF : Fld := ⟨R.TIME_CTRL, 0, 4⟩
/-- TIME_STATUS.SRC (RO): Selected reference n -/
def TIME_STATUS_SRC : Fld := ⟨R.TIME_STATUS, 24, 4⟩
/-- TIME_STATUS.MODE (RO): 0x0 FREERUN, 0x1 ACQUIRE, 0x2 LOCKED, 0x3 HOLDOVER, under R36 -/
def TIME_STATUS_MODE : Fld := ⟨R.TIME_STATUS, 20, 4⟩
/-- TIME_STATUS.SLEWING (RO): Slew under R37 in progress -/
def TIME_STATUS_SLEWING : Fld := ⟨R.TIME_STATUS, 19, 1⟩
/-- TIME_STATUS.JUMP_PEND (RO): A jump takes effect at the next block tick -/
def TIME_STATUS_JUMP_PEND : Fld := ⟨R.TIME_STATUS, 18, 1⟩
/-- TIME_STATUS.MPLL_LOCK (RO): MPLL locked -/
def TIME_STATUS_MPLL_LOCK : Fld := ⟨R.TIME_STATUS, 17, 1⟩
/-- TIME_STATUS.RATE_CHANGING (RO): Steps 1–5 of R41 in progress -/
def TIME_STATUS_RATE_CHANGING : Fld := ⟨R.TIME_STATUS, 16, 1⟩
/-- TIME_RATE.BLOCK_LEN (RO): Block length in samples -/
def TIME_RATE_BLOCK_LEN : Fld := ⟨R.TIME_RATE, 8, 8⟩
/-- TIME_RATE.RATE (RO): Rate code from R25 -/
def TIME_RATE_RATE : Fld := ⟨R.TIME_RATE, 0, 2⟩
/-- TIME_MT_LO.MT_LO (RO): MT(now) bits [31:0]. A read latches MT_HI from the same sample. -/
def TIME_MT_LO_MT_LO : Fld := ⟨R.TIME_MT_LO, 0, 32⟩
/-- TIME_MT_HI.MT_HI (RO): MT bits [63:32] latched by the last MT_LO read -/
def TIME_MT_HI_MT_HI : Fld := ⟨R.TIME_MT_HI, 0, 32⟩
/-- TIME_BLOCK.BLOCK (RO): block(now) under R27 -/
def TIME_BLOCK_BLOCK : Fld := ⟨R.TIME_BLOCK, 0, 32⟩
/-- TIME_COMMIT.COMMIT (RO): Commit block C, low 32 bits -/
def TIME_COMMIT_COMMIT : Fld := ⟨R.TIME_COMMIT, 0, 32⟩
/-- TIME_PIPE.RA (RO): Run-ahead depth in blocks -/
def TIME_PIPE_RA : Fld := ⟨R.TIME_PIPE, 16, 8⟩
/-- TIME_PIPE.P (RO): Presentation offset in blocks -/
def TIME_PIPE_P : Fld := ⟨R.TIME_PIPE, 8, 8⟩
/-- TIME_PIPE.L (RO): Output latency in blocks, 3 + P -/
def TIME_PIPE_L : Fld := ⟨R.TIME_PIPE, 0, 8⟩
/-- TIME_EPOCH_LO.EPOCH_LO (RW): MT to load, bits [31:0] -/
def TIME_EPOCH_LO_EPOCH_LO : Fld := ⟨R.TIME_EPOCH_LO, 0, 32⟩
/-- TIME_EPOCH_HI.EPOCH_HI (RW): MT to load, bits [63:32] -/
def TIME_EPOCH_HI_EPOCH_HI : Fld := ⟨R.TIME_EPOCH_HI, 0, 32⟩
/-- TIME_EPOCH_CTRL.ARM (W1S): Load at the instant given by WHEN; the device clears ARM when loaded -/
def TIME_EPOCH_CTRL_ARM : Fld := ⟨R.TIME_EPOCH_CTRL, 31, 1⟩
/-- TIME_EPOCH_CTRL.WHEN (RW): 0 next block tick; 1 next PPS_IN edge -/
def TIME_EPOCH_CTRL_WHEN : Fld := ⟨R.TIME_EPOCH_CTRL, 0, 1⟩
/-- TIME_HOLDOVER.SECONDS (RO): Seconds in the current or last holdover; saturates -/
def TIME_HOLDOVER_SECONDS : Fld := ⟨R.TIME_HOLDOVER, 0, 32⟩
/-- TIME_STEP_LAST.STEP (RO): Last step above 2 samples, s32 in 1/256 sample, positive when the reference is ahead; satu -/
def TIME_STEP_LAST_STEP : Fld := ⟨R.TIME_STEP_LAST, 0, 32⟩
/-- TIME_FLAGS.MPLL_UNLOCK (W1C): The MPLL lost lock -/
def TIME_FLAGS_MPLL_UNLOCK : Fld := ⟨R.TIME_FLAGS, 7, 1⟩
/-- TIME_FLAGS.SKIPPED (W1C): A command moved under R39 -/
def TIME_FLAGS_SKIPPED : Fld := ⟨R.TIME_FLAGS, 6, 1⟩
/-- TIME_FLAGS.PPS_LOST (W1C): R32 -/
def TIME_FLAGS_PPS_LOST : Fld := ⟨R.TIME_FLAGS, 5, 1⟩
/-- TIME_FLAGS.BEHIND (W1C): Step behind by more than one block -/
def TIME_FLAGS_BEHIND : Fld := ⟨R.TIME_FLAGS, 4, 1⟩
/-- TIME_FLAGS.JUMPED (W1C): MT jumped -/
def TIME_FLAGS_JUMPED : Fld := ⟨R.TIME_FLAGS, 3, 1⟩
/-- TIME_FLAGS.RATE_MISMATCH (W1C): R33 -/
def TIME_FLAGS_RATE_MISMATCH : Fld := ⟨R.TIME_FLAGS, 2, 1⟩
/-- TIME_FLAGS.STEP (W1C): Step above 2 samples -/
def TIME_FLAGS_STEP : Fld := ⟨R.TIME_FLAGS, 1, 1⟩
/-- TIME_FLAGS.LOST (W1C): Selected reference lost -/
def TIME_FLAGS_LOST : Fld := ⟨R.TIME_FLAGS, 0, 1⟩
/-- TIME_FREQ.CORR (RO): Applied ACLK correction against the nominal TCXO, s32 in 1/1,024 ppm -/
def TIME_FREQ_CORR : Fld := ⟨R.TIME_FREQ, 0, 32⟩
/-- TIME_MPLL.RELOCK_CNT (RO): MPLL relocks since reset, 16-bit, saturating -/
def TIME_MPLL_RELOCK_CNT : Fld := ⟨R.TIME_MPLL, 16, 16⟩
/-- TIME_MPLL.LAST_LOCK_US (RO): Duration of the last relock in µs -/
def TIME_MPLL_LAST_LOCK_US : Fld := ⟨R.TIME_MPLL, 0, 16⟩
/-- TIME_REF[n]_CFG.EN (RW): Enable. EN of n = 3 cannot be cleared. -/
def TIME_REF_CFG_EN (n : Nat) : Fld := ⟨R.TIME_REF_CFG n, 31, 1⟩
/-- TIME_REF[n]_CFG.RANK (RW): 0 best -/
def TIME_REF_CFG_RANK (n : Nat) : Fld := ⟨R.TIME_REF_CFG n, 24, 4⟩
/-- TIME_REF[n]_CFG.MODE (RW): n = 1: 0x0 word clock, 0x1 10 MHz with PPS_IN; others ignore -/
def TIME_REF_CFG_MODE (n : Nat) : Fld := ⟨R.TIME_REF_CFG n, 20, 4⟩
/-- TIME_REF[n]_CFG.DIV_EXP (RW): k under R28; values above the maximum act as the maximum -/
def TIME_REF_CFG_DIV_EXP (n : Nat) : Fld := ⟨R.TIME_REF_CFG n, 16, 4⟩
/-- TIME_REF[n]_CFG.QUAL_MS (RW): Qualification time in ms, 100–60,000 -/
def TIME_REF_CFG_QUAL_MS (n : Nat) : Fld := ⟨R.TIME_REF_CFG n, 0, 16⟩
/-- TIME_REF[n]_STAT.BAD_RUN (RO): Consecutive bad edges, 0–8 -/
def TIME_REF_STAT_BAD_RUN (n : Nat) : Fld := ⟨R.TIME_REF_STAT n, 8, 8⟩
/-- TIME_REF[n]_STAT.STATE (RO): R29 -/
def TIME_REF_STAT_STATE (n : Nat) : Fld := ⟨R.TIME_REF_STAT n, 0, 4⟩
/-- TIME_REF[n]_PERIOD.PERIOD (RO): Mean edge period over 256 edges in 1/16 ns, saturating; for n = 2 the message interval in  -/
def TIME_REF_PERIOD_PERIOD (n : Nat) : Fld := ⟨R.TIME_REF_PERIOD n, 0, 32⟩
/-- TIME_REF[n]_OFFSET.OFFSET (RO): Phase against MT, s32 in 1/256 sample, positive ahead; saturates -/
def TIME_REF_OFFSET_OFFSET (n : Nat) : Fld := ⟨R.TIME_REF_OFFSET n, 0, 32⟩
/-- TIME_REF[n]_FERR.FERR (RO): Frequency against the TCXO, s32 in 1/1,024 ppm -/
def TIME_REF_FERR_FERR (n : Nat) : Fld := ⟨R.TIME_REF_FERR n, 0, 32⟩
/-- TIME_REF[n]_COUNT.LOSS_CNT (RC): Transitions to LOST or MISMATCH, 16-bit, saturating -/
def TIME_REF_COUNT_LOSS_CNT (n : Nat) : Fld := ⟨R.TIME_REF_COUNT n, 16, 16⟩
/-- TIME_REF[n]_COUNT.GLITCH_CNT (RC): Ignored edges, 16-bit, saturating -/
def TIME_REF_COUNT_GLITCH_CNT (n : Nat) : Fld := ⟨R.TIME_REF_COUNT n, 0, 16⟩
/-- TIME_REF[n]_QUAL_LEFT.QUAL_LEFT (RO): ms left in qualification; 0 when not QUALIFYING -/
def TIME_REF_QUAL_LEFT_QUAL_LEFT (n : Nat) : Fld := ⟨R.TIME_REF_QUAL_LEFT n, 0, 16⟩
/-- TIME_REF[n]_LAST_CHANGE.BLOCK (RO): block(now) at the last change of STATE -/
def TIME_REF_LAST_CHANGE_BLOCK (n : Nat) : Fld := ⟨R.TIME_REF_LAST_CHANGE n, 0, 32⟩
/-- DISP_CTRL.HW_RESERVE (RW): Free slots kept for hardware-triggered jobs, 0–64; values above 64 act as 64 -/
def DISP_CTRL_HW_RESERVE : Fld := ⟨R.DISP_CTRL, 0, 7⟩
/-- DISP_STATUS.TAPS_FULL (W1C): A placement waited for taps -/
def DISP_STATUS_TAPS_FULL : Fld := ⟨R.DISP_STATUS, 4, 1⟩
/-- DISP_STATUS.RECORDS_FULL (W1C): JOB.SUBMIT found no host record -/
def DISP_STATUS_RECORDS_FULL : Fld := ⟨R.DISP_STATUS, 3, 1⟩
/-- DISP_STATUS.SQUALL_ACTIVE (RO): Copy of DISP_SQUALL_CFG.ACTIVE -/
def DISP_STATUS_SQUALL_ACTIVE : Fld := ⟨R.DISP_STATUS, 2, 1⟩
/-- DISP_STATUS.STORM (RO): A brick's rollback reserve was exhausted in the last block -/
def DISP_STATUS_STORM : Fld := ⟨R.DISP_STATUS, 1, 1⟩
/-- DISP_STATUS.DERATED (RO): A derated voice count is in force -/
def DISP_STATUS_DERATED : Fld := ⟨R.DISP_STATUS, 0, 1⟩
/-- DISP_STEAL_POLICY.INV2 (RW): Reverse KEY2 -/
def DISP_STEAL_POLICY_INV2 : Fld := ⟨R.DISP_STEAL_POLICY, 10, 1⟩
/-- DISP_STEAL_POLICY.KEY2 (RW): 0x0 CLASS, 0x1 AGE, 0x2 LEVEL, 0x3 NONE -/
def DISP_STEAL_POLICY_KEY2 : Fld := ⟨R.DISP_STEAL_POLICY, 8, 2⟩
/-- DISP_STEAL_POLICY.INV1 (RW): Reverse KEY1 -/
def DISP_STEAL_POLICY_INV1 : Fld := ⟨R.DISP_STEAL_POLICY, 6, 1⟩
/-- DISP_STEAL_POLICY.KEY1 (RW): As KEY2 -/
def DISP_STEAL_POLICY_KEY1 : Fld := ⟨R.DISP_STEAL_POLICY, 4, 2⟩
/-- DISP_STEAL_POLICY.INV0 (RW): Reverse KEY0 -/
def DISP_STEAL_POLICY_INV0 : Fld := ⟨R.DISP_STEAL_POLICY, 2, 1⟩
/-- DISP_STEAL_POLICY.KEY0 (RW): As KEY2 -/
def DISP_STEAL_POLICY_KEY0 : Fld := ⟨R.DISP_STEAL_POLICY, 0, 2⟩
/-- DISP_ARB.AUX_DUCK_RAMP (RW): Duck ramp on auxiliary buses in blocks, 1–255; 0 acts as 1 -/
def DISP_ARB_AUX_DUCK_RAMP : Fld := ⟨R.DISP_ARB, 20, 8⟩
/-- DISP_ARB.AUX_DUCK_DEPTH (RW): Depth in dB below 0 dB, 0–60; 0xFF mute; 61–254 act as 60 -/
def DISP_ARB_AUX_DUCK_DEPTH : Fld := ⟨R.DISP_ARB, 12, 8⟩
/-- DISP_ARB.HOLD_TAIL (RW): Hold tail in blocks, 0–4,095 -/
def DISP_ARB_HOLD_TAIL : Fld := ⟨R.DISP_ARB, 0, 12⟩
/-- DISP_SQUALL_CFG.ARMED (RW): Squall triggers are acted on -/
def DISP_SQUALL_CFG_ARMED : Fld := ⟨R.DISP_SQUALL_CFG, 31, 1⟩
/-- DISP_SQUALL_CFG.ACTIVE (RO): A Squall job is RUNNING or RELEASING -/
def DISP_SQUALL_CFG_ACTIVE : Fld := ⟨R.DISP_SQUALL_CFG, 30, 1⟩
/-- DISP_SQUALL_CFG.LATCH (RW): 1: the contact's return does not end Squall -/
def DISP_SQUALL_CFG_LATCH : Fld := ⟨R.DISP_SQUALL_CFG, 29, 1⟩
/-- DISP_SQUALL_CFG.EN_COURSE (RW): Course-link trigger -/
def DISP_SQUALL_CFG_EN_COURSE : Fld := ⟨R.DISP_SQUALL_CFG, 27, 1⟩
/-- DISP_SQUALL_CFG.EN_MB0 (RW): MB0 trigger -/
def DISP_SQUALL_CFG_EN_MB0 : Fld := ⟨R.DISP_SQUALL_CFG, 26, 1⟩
/-- DISP_SQUALL_CFG.EN_UART (RW): Panel UART trigger -/
def DISP_SQUALL_CFG_EN_UART : Fld := ⟨R.DISP_SQUALL_CFG, 25, 1⟩
/-- DISP_SQUALL_CFG.EN_CONTACT (RW): Contact trigger -/
def DISP_SQUALL_CFG_EN_CONTACT : Fld := ⟨R.DISP_SQUALL_CFG, 24, 1⟩
/-- DISP_SQUALL_CFG.CONTACT (RW): Contact n -/
def DISP_SQUALL_CFG_CONTACT : Fld := ⟨R.DISP_SQUALL_CFG, 20, 4⟩
/-- DISP_SQUALL_CFG.RETRIG (RC): Ignored triggers, 8-bit, saturating -/
def DISP_SQUALL_CFG_RETRIG : Fld := ⟨R.DISP_SQUALL_CFG, 8, 8⟩
/-- DISP_SQUALL_CFG.GROUP (RW): Squall zone group -/
def DISP_SQUALL_CFG_GROUP : Fld := ⟨R.DISP_SQUALL_CFG, 0, 6⟩
/-- DISP_SQUALL_SEQ.BYTE3 (RW): Fourth byte -/
def DISP_SQUALL_SEQ_BYTE3 : Fld := ⟨R.DISP_SQUALL_SEQ, 24, 8⟩
/-- DISP_SQUALL_SEQ.BYTE2 (RW): Third byte -/
def DISP_SQUALL_SEQ_BYTE2 : Fld := ⟨R.DISP_SQUALL_SEQ, 16, 8⟩
/-- DISP_SQUALL_SEQ.BYTE1 (RW): Second byte -/
def DISP_SQUALL_SEQ_BYTE1 : Fld := ⟨R.DISP_SQUALL_SEQ, 8, 8⟩
/-- DISP_SQUALL_SEQ.BYTE0 (RW): First byte -/
def DISP_SQUALL_SEQ_BYTE0 : Fld := ⟨R.DISP_SQUALL_SEQ, 0, 8⟩
/-- DISP_SQUALL_SCRIPT.SCRIPT (RW): Script reference under R96; bank 255 -/
def DISP_SQUALL_SCRIPT_SCRIPT : Fld := ⟨R.DISP_SQUALL_SCRIPT, 0, 32⟩
/-- DISP_SQUALL_PRESET.PRESET (RW): Voice 0 preset reference under R54; bank 255 -/
def DISP_SQUALL_PRESET_PRESET : Fld := ⟨R.DISP_SQUALL_PRESET, 0, 32⟩
/-- DISP_SQUALL_COMP.PRESET (RW): Companion preset reference; 0 for none -/
def DISP_SQUALL_COMP_PRESET : Fld := ⟨R.DISP_SQUALL_COMP, 0, 32⟩
/-- DISP_RECORDS.HOST_FREE (RO): Free host records -/
def DISP_RECORDS_HOST_FREE : Fld := ⟨R.DISP_RECORDS, 16, 16⟩
/-- DISP_RECORDS.HW_FREE (RO): Free reserved records -/
def DISP_RECORDS_HW_FREE : Fld := ⟨R.DISP_RECORDS, 0, 7⟩
/-- DISP_LISTS.DELAY_USED (RO): Delay-list entries in use, 0–8,192 -/
def DISP_LISTS_DELAY_USED : Fld := ⟨R.DISP_LISTS, 0, 14⟩
/-- DISP_MASON_LOAD.LOAD_MAX (RC): Highest LOAD over the last 4,096 blocks -/
def DISP_MASON_LOAD_LOAD_MAX : Fld := ⟨R.DISP_MASON_LOAD, 8, 8⟩
/-- DISP_MASON_LOAD.LOAD (RO): Share of MCLK cycles over the last 16 blocks in which the Mason pair executed firmware of  -/
def DISP_MASON_LOAD_LOAD : Fld := ⟨R.DISP_MASON_LOAD, 0, 8⟩
/-- DISP_STEAL_CNT.COUNT (RO): Stolen voices; wraps -/
def DISP_STEAL_CNT_COUNT : Fld := ⟨R.DISP_STEAL_CNT, 0, 32⟩
/-- DISP_ROLLBACK_CNT.COUNT (RO): Voice rollbacks; wraps -/
def DISP_ROLLBACK_CNT_COUNT : Fld := ⟨R.DISP_ROLLBACK_CNT, 0, 32⟩
/-- DISP_LATE_CNT.COUNT (RO): Late voice blocks; wraps -/
def DISP_LATE_CNT_COUNT : Fld := ⟨R.DISP_LATE_CNT, 0, 32⟩
/-- DISP_MIGRATE_CNT.COUNT (RO): Migrated voices; wraps -/
def DISP_MIGRATE_CNT_COUNT : Fld := ⟨R.DISP_MIGRATE_CNT, 0, 32⟩
/-- DISP_CLASS[k]_Q.MAX_WAIT (RC): Longest wait in blocks, saturating -/
def DISP_CLASS_Q_MAX_WAIT (n : Nat) : Fld := ⟨R.DISP_CLASS_Q n, 16, 16⟩
/-- DISP_CLASS[k]_Q.DEPTH (RO): Jobs in the ready list, 0–1,024 -/
def DISP_CLASS_Q_DEPTH (n : Nat) : Fld := ⟨R.DISP_CLASS_Q n, 0, 11⟩
/-- DISP_CLASS[k]_WAIT.PLACED (RO): Jobs placed in the last 4,096 blocks, saturating -/
def DISP_CLASS_WAIT_PLACED (n : Nat) : Fld := ⟨R.DISP_CLASS_WAIT n, 16, 16⟩
/-- DISP_CLASS[k]_WAIT.MEAN_WAIT (RO): Mean wait in blocks, unsigned 8.8 -/
def DISP_CLASS_WAIT_MEAN_WAIT (n : Nat) : Fld := ⟨R.DISP_CLASS_WAIT n, 0, 16⟩
/-- DISP_TRIG[t]_CFG.ARMED (RW): Slot armed by JOB.ARM -/
def DISP_TRIG_CFG_ARMED (n : Nat) : Fld := ⟨R.DISP_TRIG_CFG n, 31, 1⟩
/-- DISP_TRIG[t]_CFG.SRC (RW): 0x0 contact, 0x1 timer; 0x2–0x7 act as disarmed -/
def DISP_TRIG_CFG_SRC (n : Nat) : Fld := ⟨R.DISP_TRIG_CFG n, 28, 3⟩
/-- DISP_TRIG[t]_CFG.N (RW): Contact or timer number -/
def DISP_TRIG_CFG_N (n : Nat) : Fld := ⟨R.DISP_TRIG_CFG n, 24, 4⟩
/-- DISP_TRIG[t]_CFG.EVENT (RW): Contact: 0x0 to ACTIVE, 0x1 to NORMAL. Timer: 0x0 overflow, 0x1–0x4 compare 0–3. Others ac -/
def DISP_TRIG_CFG_EVENT (n : Nat) : Fld := ⟨R.DISP_TRIG_CFG n, 21, 3⟩
/-- DISP_TRIG[t]_STAT.FIRE_CNT (RC): Firings, including ignored ones, saturating -/
def DISP_TRIG_STAT_FIRE_CNT (n : Nat) : Fld := ⟨R.DISP_TRIG_STAT n, 16, 16⟩
/-- DISP_TRIG[t]_STAT.RECORD (RO): Record of the last inserted job; 0xFFFF none -/
def DISP_TRIG_STAT_RECORD (n : Nat) : Fld := ⟨R.DISP_TRIG_STAT n, 0, 16⟩
/-- MIX_CTRL.CLIP_EVT (RW): Post MIX_CLIP events under R189 -/
def MIX_CTRL_CLIP_EVT : Fld := ⟨R.MIX_CTRL, 0, 1⟩
/-- MIX_STATUS.TAP_ECC (W1C): R200 -/
def MIX_STATUS_TAP_ECC : Fld := ⟨R.MIX_STATUS, 4, 1⟩
/-- MIX_STATUS.DISCARD (W1C): A record was discarded under R194 -/
def MIX_STATUS_DISCARD : Fld := ⟨R.MIX_STATUS, 3, 1⟩
/-- MIX_STATUS.SRC_LIMIT (W1C): A command met the per-source limit -/
def MIX_STATUS_SRC_LIMIT : Fld := ⟨R.MIX_STATUS, 2, 1⟩
/-- MIX_STATUS.TAPS_FULL (W1C): A command or placement met the host entries -/
def MIX_STATUS_TAPS_FULL : Fld := ⟨R.MIX_STATUS, 1, 1⟩
/-- MIX_STATUS.CLIP_ANY (RO): Any MIX_CLIP bit set -/
def MIX_STATUS_CLIP_ANY : Fld := ⟨R.MIX_STATUS, 0, 1⟩
/-- MIX_TAPS_USED.USED (RO): Entries taken under R191 -/
def MIX_TAPS_USED_USED : Fld := ⟨R.MIX_TAPS_USED, 0, 18⟩
/-- MIX_TAPS_LIMIT.HW_RESERVE (RO): Entries reserved for hardware-triggered jobs -/
def MIX_TAPS_LIMIT_HW_RESERVE : Fld := ⟨R.MIX_TAPS_LIMIT, 18, 11⟩
/-- MIX_TAPS_LIMIT.LIMIT (RO): Entries at the current rate under R190 -/
def MIX_TAPS_LIMIT_LIMIT : Fld := ⟨R.MIX_TAPS_LIMIT, 0, 18⟩
/-- MIX_TAPS_PEAK.PEAK (RC): Highest USED since the last read -/
def MIX_TAPS_PEAK_PEAK : Fld := ⟨R.MIX_TAPS_PEAK, 0, 18⟩
/-- MIX_SETS.OPEN (RO): Bit i − 1 set while set i is open -/
def MIX_SETS_OPEN : Fld := ⟨R.MIX_SETS, 16, 4⟩
/-- MIX_SETS.STAGED (RO): Staged records in all sets, 0–16,384 -/
def MIX_SETS_STAGED : Fld := ⟨R.MIX_SETS, 0, 15⟩
/-- MIX_DISCARD_CNT.COUNT (RO): Discarded records; wraps -/
def MIX_DISCARD_CNT_COUNT : Fld := ⟨R.MIX_DISCARD_CNT, 0, 32⟩
/-- MIX_NORES_CNT.SRC_CNT (RC): Commands refused at the per-source limit, saturating -/
def MIX_NORES_CNT_SRC_CNT : Fld := ⟨R.MIX_NORES_CNT, 16, 16⟩
/-- MIX_NORES_CNT.CAP_CNT (RC): Commands refused at the device limit, saturating -/
def MIX_NORES_CNT_CAP_CNT : Fld := ⟨R.MIX_NORES_CNT, 0, 16⟩
/-- MIX_LANE_LOAD.LOAD_MAX (RC): Highest LOAD over the last 4,096 blocks -/
def MIX_LANE_LOAD_LOAD_MAX : Fld := ⟨R.MIX_LANE_LOAD, 8, 8⟩
/-- MIX_LANE_LOAD.LOAD (RO): Lane cycles used over the last 16 blocks, 0–255 for 0–100 % -/
def MIX_LANE_LOAD_LOAD : Fld := ⟨R.MIX_LANE_LOAD, 0, 8⟩
/-- MIX_LAST_APPLY_LO.MT_LO (RO): MT of the last applied tap change, bits [31:0]. A read latches MT_HI. -/
def MIX_LAST_APPLY_LO_MT_LO : Fld := ⟨R.MIX_LAST_APPLY_LO, 0, 32⟩
/-- MIX_LAST_APPLY_HI.MT_HI (RO): Bits [63:32], latched by the last MT_LO read -/
def MIX_LAST_APPLY_HI_MT_HI : Fld := ⟨R.MIX_LAST_APPLY_HI, 0, 32⟩
/-- MIX_CLIP_TOTAL.BUSES (RO): Buses with their MIX_CLIP bit set, 0–512 -/
def MIX_CLIP_TOTAL_BUSES : Fld := ⟨R.MIX_CLIP_TOTAL, 0, 10⟩
/-- MIX_SRC_LIMIT.VREL (RO): 1: SOURCE holds a voice index of the refused command's job under R192 -/
def MIX_SRC_LIMIT_VREL : Fld := ⟨R.MIX_SRC_LIMIT, 14, 1⟩
/-- MIX_SRC_LIMIT.SOURCE (RO): Last source refused under R192; 0x3FFF none -/
def MIX_SRC_LIMIT_SOURCE : Fld := ⟨R.MIX_SRC_LIMIT, 0, 14⟩
/-- MIX_ECC.UNCORR_CNT (RC): Uncorrectable words, saturating -/
def MIX_ECC_UNCORR_CNT : Fld := ⟨R.MIX_ECC, 16, 16⟩
/-- MIX_ECC.CORR_CNT (RC): Corrected words, saturating -/
def MIX_ECC_CORR_CNT : Fld := ⟨R.MIX_ECC, 0, 16⟩
/-- MIX_MAP_CRC.CRC (RO): R200 -/
def MIX_MAP_CRC_CRC : Fld := ⟨R.MIX_MAP_CRC, 0, 32⟩
/-- MIX_CHANGE_CNT.COUNT (RO): Applied tap changes; wraps -/
def MIX_CHANGE_CNT_COUNT : Fld := ⟨R.MIX_CHANGE_CNT, 0, 32⟩
/-- MIX_CLIP[k].CLIP (W1C): Bit j: bus 32k + j clipped under R189 -/
def MIX_CLIP_CLIP (n : Nat) : Fld := ⟨R.MIX_CLIP n, 0, 32⟩
/-- MIX_LIVE[k].LIVE (RO): Bit j: bus 32k + j has a bus class under R146 in block C -/
def MIX_LIVE_LIVE (n : Nat) : Fld := ⟨R.MIX_LIVE n, 0, 32⟩
/-- ZONE[n]_CTRL.EN (RW): Zone enabled under R223 -/
def ZONE_CTRL_EN (n : Nat) : Fld := ⟨R.ZONE_CTRL n, 31, 1⟩
/-- ZONE[n]_CTRL.FB_AUTO (RW): R220 -/
def ZONE_CTRL_FB_AUTO (n : Nat) : Fld := ⟨R.ZONE_CTRL n, 26, 1⟩
/-- ZONE[n]_CTRL.FB_ON_PILOT (RW): PILOT_FAULT fails a destination under R219 -/
def ZONE_CTRL_FB_ON_PILOT (n : Nat) : Fld := ⟨R.ZONE_CTRL n, 25, 1⟩
/-- ZONE[n]_CTRL.DYN_EVAC_BYPASS (RW): R211 -/
def ZONE_CTRL_DYN_EVAC_BYPASS (n : Nat) : Fld := ⟨R.ZONE_CTRL n, 24, 1⟩
/-- ZONE[n]_CTRL.PILOT_EN (RW): Pilot injected -/
def ZONE_CTRL_PILOT_EN (n : Nat) : Fld := ⟨R.ZONE_CTRL n, 23, 1⟩
/-- ZONE[n]_CTRL.AMB_EN (RW): Ambient-adaptive gain active -/
def ZONE_CTRL_AMB_EN (n : Nat) : Fld := ⟨R.ZONE_CTRL n, 22, 1⟩
/-- ZONE[n]_CTRL.DYN_EN (RW): Compressor and limiter active -/
def ZONE_CTRL_DYN_EN (n : Nat) : Fld := ⟨R.ZONE_CTRL n, 21, 1⟩
/-- ZONE[n]_CTRL.PILOT_BIN (RW): Bin offset under R215 -/
def ZONE_CTRL_PILOT_BIN (n : Nat) : Fld := ⟨R.ZONE_CTRL n, 8, 8⟩
/-- ZONE[n]_GATE.DUCK_RAMP (RW): Duck ramp in blocks, 1–255; 0 acts as 1 -/
def ZONE_GATE_DUCK_RAMP (n : Nat) : Fld := ⟨R.ZONE_GATE n, 16, 8⟩
/-- ZONE[n]_GATE.DUCK_DEPTH (RW): Depth in dB below 0 dB, 0–60; 0xFF mute; 61–254 act as 60 -/
def ZONE_GATE_DUCK_DEPTH (n : Nat) : Fld := ⟨R.ZONE_GATE n, 0, 8⟩
/-- ZONE[n]_STATUS.HOLD_CLASS (RO): Hold class under R146; valid when HOLD_VALID = 1 -/
def ZONE_STATUS_HOLD_CLASS (n : Nat) : Fld := ⟨R.ZONE_STATUS n, 28, 4⟩
/-- ZONE[n]_STATUS.HOLD_VALID (RO): The zone has a hold class -/
def ZONE_STATUS_HOLD_VALID (n : Nat) : Fld := ⟨R.ZONE_STATUS n, 27, 1⟩
/-- ZONE[n]_STATUS.FB_B (RO): FALLBACK_B carrying under R219 -/
def ZONE_STATUS_FB_B (n : Nat) : Fld := ⟨R.ZONE_STATUS n, 26, 1⟩
/-- ZONE[n]_STATUS.FB_A (RO): FALLBACK_A carrying under R219 -/
def ZONE_STATUS_FB_A (n : Nat) : Fld := ⟨R.ZONE_STATUS n, 25, 1⟩
/-- ZONE[n]_STATUS.DRAINING (RO): DRAIN in progress under R223 -/
def ZONE_STATUS_DRAINING (n : Nat) : Fld := ⟨R.ZONE_STATUS n, 24, 1⟩
/-- ZONE[n]_STATUS.DELAY_DEGRADED (RO): Delay clamped to 1,024 samples under R213 -/
def ZONE_STATUS_DELAY_DEGRADED (n : Nat) : Fld := ⟨R.ZONE_STATUS n, 23, 1⟩
/-- ZONE[n]_STATUS.DELAY_ECC (W1C): R213 -/
def ZONE_STATUS_DELAY_ECC (n : Nat) : Fld := ⟨R.ZONE_STATUS n, 22, 1⟩
/-- ZONE[n]_STATUS.CLIP (W1C): A stage saturated under R203 -/
def ZONE_STATUS_CLIP (n : Nat) : Fld := ⟨R.ZONE_STATUS n, 21, 1⟩
/-- ZONE[n]_STATUS.LIMITING (RO): Limiter reducing gain -/
def ZONE_STATUS_LIMITING (n : Nat) : Fld := ⟨R.ZONE_STATUS n, 20, 1⟩
/-- ZONE[n]_STATUS.AMB_GAIN (RO): Ambient gain in force, 0.125 dB, 0–144 -/
def ZONE_STATUS_AMB_GAIN (n : Nat) : Fld := ⟨R.ZONE_STATUS n, 12, 8⟩
/-- ZONE[n]_STATUS.AMB_EST (RO): Ambient estimate in 0.5 dB below 0 dBFS, 0–240; 0xFF none -/
def ZONE_STATUS_AMB_EST (n : Nat) : Fld := ⟨R.ZONE_STATUS n, 4, 8⟩
/-- BRICK[n]_MAP.IN_SERVICE (RO): The brick hosts a logical brick -/
def BRICK_MAP_IN_SERVICE (n : Nat) : Fld := ⟨R.BRICK_MAP n, 31, 1⟩
/-- BRICK[n]_MAP.SPARE (RO): The brick is a spare not in use -/
def BRICK_MAP_SPARE (n : Nat) : Fld := ⟨R.BRICK_MAP n, 30, 1⟩
/-- BRICK[n]_MAP.FAILED (RO): The brick was declared failed -/
def BRICK_MAP_FAILED (n : Nat) : Fld := ⟨R.BRICK_MAP n, 29, 1⟩
/-- BRICK[n]_MAP.CLOSED (RO): Closed to placement under R257 -/
def BRICK_MAP_CLOSED (n : Nat) : Fld := ⟨R.BRICK_MAP n, 28, 1⟩
/-- BRICK[n]_MAP.LOGICAL (RO): Logical brick hosted, 0–63; 0x7F none. Values 0x40–0x7E do not occur. -/
def BRICK_MAP_LOGICAL (n : Nat) : Fld := ⟨R.BRICK_MAP n, 0, 7⟩
/-- BRICK[n]_LOAD.LOAD_MAX (RC): Highest LOAD over the last 4,096 blocks -/
def BRICK_LOAD_LOAD_MAX (n : Nat) : Fld := ⟨R.BRICK_LOAD n, 16, 8⟩
/-- BRICK[n]_LOAD.RESERVE_USE (RO): Reserve cycles used over the last 16 blocks, 0–255 for 0–100 % -/
def BRICK_LOAD_RESERVE_USE (n : Nat) : Fld := ⟨R.BRICK_LOAD n, 8, 8⟩
/-- BRICK[n]_LOAD.LOAD (RO): Load under R142 and R174 -/
def BRICK_LOAD_LOAD (n : Nat) : Fld := ⟨R.BRICK_LOAD n, 0, 8⟩
/-- BRICK[n]_VOICES.USABLE (RO): Slots usable under R141 at the current rate and derating -/
def BRICK_VOICES_USABLE (n : Nat) : Fld := ⟨R.BRICK_VOICES n, 16, 8⟩
/-- BRICK[n]_VOICES.ACTIVE (RO): Active voices, 0–128 -/
def BRICK_VOICES_ACTIVE (n : Nat) : Fld := ⟨R.BRICK_VOICES n, 0, 8⟩
/-- BRICK[n]_KERNEL.STD (RO): The standard kernel is loaded -/
def BRICK_KERNEL_STD (n : Nat) : Fld := ⟨R.BRICK_KERNEL n, 31, 1⟩
/-- BRICK[n]_KERNEL.PRESET_VER (RO): Preset version accepted -/
def BRICK_KERNEL_PRESET_VER (n : Nat) : Fld := ⟨R.BRICK_KERNEL n, 16, 8⟩
/-- BRICK[n]_KERNEL.KID (RO): Kernel ID from BUILD_ID; 0 for the standard kernel -/
def BRICK_KERNEL_KID (n : Nat) : Fld := ⟨R.BRICK_KERNEL n, 0, 16⟩
/-- BRICK[n]_KSTAT.ROLLBACK_MISMATCH (W1C): R165 -/
def BRICK_KSTAT_ROLLBACK_MISMATCH (n : Nat) : Fld := ⟨R.BRICK_KSTAT n, 11, 1⟩
/-- BRICK[n]_KSTAT.GOLDEN_MISS (W1C): R260 -/
def BRICK_KSTAT_GOLDEN_MISS (n : Nat) : Fld := ⟨R.BRICK_KSTAT n, 10, 1⟩
/-- BRICK[n]_KSTAT.EDIT_SPILL (W1C): R246 -/
def BRICK_KSTAT_EDIT_SPILL (n : Nat) : Fld := ⟨R.BRICK_KSTAT n, 9, 1⟩
/-- BRICK[n]_KSTAT.CKPT_WRITE (W1C): R163 -/
def BRICK_KSTAT_CKPT_WRITE (n : Nat) : Fld := ⟨R.BRICK_KSTAT n, 8, 1⟩
/-- BRICK[n]_KSTAT.OVERRUN (W1C): R253 -/
def BRICK_KSTAT_OVERRUN (n : Nat) : Fld := ⟨R.BRICK_KSTAT n, 7, 1⟩
/-- BRICK[n]_KSTAT.ILLEGAL (W1C): R241 -/
def BRICK_KSTAT_ILLEGAL (n : Nat) : Fld := ⟨R.BRICK_KSTAT n, 6, 1⟩
/-- BRICK[n]_KSTAT.FLAGS (W1C): OR of the FLAGS bits of R231 over all calls -/
def BRICK_KSTAT_FLAGS (n : Nat) : Fld := ⟨R.BRICK_KSTAT n, 0, 6⟩
/-- BRICK[n]_OVR.OVR_CNT (RC): Overrun cuts, 16-bit, saturating -/
def BRICK_OVR_OVR_CNT (n : Nat) : Fld := ⟨R.BRICK_OVR n, 16, 16⟩
/-- BRICK[n]_OVR.LAST_PC (RO): PM address of the last cut or illegal word -/
def BRICK_OVR_LAST_PC (n : Nat) : Fld := ⟨R.BRICK_OVR n, 0, 13⟩
/-- BRICK[n]_GOLDEN.SIG (RO): Signature of the last golden-voice run -/
def BRICK_GOLDEN_SIG (n : Nat) : Fld := ⟨R.BRICK_GOLDEN n, 0, 32⟩
/-- BRICK[n]_ECC.UNCORR (RC): Uncorrectable words in PM, XM, YM and the staging ring, saturating -/
def BRICK_ECC_UNCORR (n : Nat) : Fld := ⟨R.BRICK_ECC n, 16, 16⟩
/-- BRICK[n]_ECC.CORR (RC): Corrected words, saturating -/
def BRICK_ECC_CORR (n : Nat) : Fld := ⟨R.BRICK_ECC n, 0, 16⟩
/-- HOST_ID.PART (RO): Part code -/
def HOST_ID_PART : Fld := ⟨R.HOST_ID, 16, 16⟩
/-- HOST_ID.STEP (RO): Silicon stepping -/
def HOST_ID_STEP : Fld := ⟨R.HOST_ID, 8, 8⟩
/-- HOST_ID.KCP_VER (RO): Protocol version -/
def HOST_ID_KCP_VER : Fld := ⟨R.HOST_ID, 0, 8⟩
/-- HOST_STATUS.PSTATE (RO): 0x1 BOOT, 0x2 IDLE, 0x3 RUN, 0x4 LULL, 0x5 FAULT -/
def HOST_STATUS_PSTATE : Fld := ⟨R.HOST_STATUS, 28, 4⟩
/-- HOST_STATUS.RESET_KIND (RO): Last reset: 0x0 POR, 0x1 PIN, 0x2 WDOG, 0x3 SAFE, 0x4 SOFT -/
def HOST_STATUS_RESET_KIND : Fld := ⟨R.HOST_STATUS, 24, 4⟩
/-- HOST_STATUS.READY (RO): Commands are taken -/
def HOST_STATUS_READY : Fld := ⟨R.HOST_STATUS, 0, 1⟩
/-- HOST_IRQ_STAT.READY_EVT (W1C): READY rose -/
def HOST_IRQ_STAT_READY_EVT : Fld := ⟨R.HOST_IRQ_STAT, 7, 1⟩
/-- HOST_IRQ_STAT.SPI_ERR (W1C): A HOST_SPI_ERR flag was set -/
def HOST_IRQ_STAT_SPI_ERR : Fld := ⟨R.HOST_IRQ_STAT, 6, 1⟩
/-- HOST_IRQ_STAT.EVQ_OVF (W1C): R283 -/
def HOST_IRQ_STAT_EVQ_OVF : Fld := ⟨R.HOST_IRQ_STAT, 5, 1⟩
/-- HOST_IRQ_STAT.EVQ (RO): EVQ_STATUS.USED > 0 -/
def HOST_IRQ_STAT_EVQ : Fld := ⟨R.HOST_IRQ_STAT, 4, 1⟩
/-- HOST_IRQ_STAT.MB_DONE (W1C): Bit m: MB[m] entered DONE; also cleared by its doorbell -/
def HOST_IRQ_STAT_MB_DONE : Fld := ⟨R.HOST_IRQ_STAT, 0, 4⟩
/-- HOST_IRQ_EN.EN (RW): HOST_IRQ_N is low while any HOST_IRQ_STAT bit with its EN bit set is 1 -/
def HOST_IRQ_EN_EN : Fld := ⟨R.HOST_IRQ_EN, 0, 8⟩
/-- HOST_SPI_ERR.ERR_CNT (RO): Discarded write transactions, saturating -/
def HOST_SPI_ERR_ERR_CNT : Fld := ⟨R.HOST_SPI_ERR, 16, 16⟩
/-- HOST_SPI_ERR.CNT_CLR (WO): Writing 1 clears ERR_CNT -/
def HOST_SPI_ERR_CNT_CLR : Fld := ⟨R.HOST_SPI_ERR, 15, 1⟩
/-- HOST_SPI_ERR.MB_BUSY (W1C): R271 -/
def HOST_SPI_ERR_MB_BUSY : Fld := ⟨R.HOST_SPI_ERR, 5, 1⟩
/-- HOST_SPI_ERR.FRAME (W1C): Length or HOST_CS_N timing under R266 -/
def HOST_SPI_ERR_FRAME : Fld := ⟨R.HOST_SPI_ERR, 4, 1⟩
/-- HOST_SPI_ERR.RANGE (W1C): Unaligned or non-writable address -/
def HOST_SPI_ERR_RANGE : Fld := ⟨R.HOST_SPI_ERR, 3, 1⟩
/-- HOST_SPI_ERR.CMD (W1C): Unknown command byte -/
def HOST_SPI_ERR_CMD : Fld := ⟨R.HOST_SPI_ERR, 2, 1⟩
/-- HOST_SPI_ERR.CRC (W1C): CRC mismatch -/
def HOST_SPI_ERR_CRC : Fld := ⟨R.HOST_SPI_ERR, 1, 1⟩
/-- HOST_CMD_CNT.COUNT (RO): Commands taken on all channels; wraps -/
def HOST_CMD_CNT_COUNT : Fld := ⟨R.HOST_CMD_CNT, 0, 32⟩
/-- KCP_VC2.DROP_CNT (RO): Messages dropped under R284, saturating -/
def KCP_VC2_DROP_CNT : Fld := ⟨R.KCP_VC2, 16, 16⟩
/-- KCP_VC2.INFLIGHT (RO): VC2 commands in flight, 0–8 -/
def KCP_VC2_INFLIGHT : Fld := ⟨R.KCP_VC2, 0, 4⟩
/-- KCP_UART.DROP_CNT (RO): Frames dropped under R286, saturating -/
def KCP_UART_DROP_CNT : Fld := ⟨R.KCP_UART, 16, 16⟩
/-- KCP_UART.ACTIVE (RO): Framed KCP enabled on UART[1] -/
def KCP_UART_ACTIVE : Fld := ⟨R.KCP_UART, 0, 1⟩
/-- MB[m]_DOORBELL.CHECK (WO): CRC-16 under R272 -/
def MB_DOORBELL_CHECK (n : Nat) : Fld := ⟨R.MB_DOORBELL n, 16, 16⟩
/-- MB[m]_DOORBELL.CHK_EN (WO): Check CHECK -/
def MB_DOORBELL_CHK_EN (n : Nat) : Fld := ⟨R.MB_DOORBELL n, 1, 1⟩
/-- MB[m]_DOORBELL.RING (WO): Submit the buffer's command -/
def MB_DOORBELL_RING (n : Nat) : Fld := ⟨R.MB_DOORBELL n, 0, 1⟩
/-- MB[m]_STAT.LAST_STATUS (RO): Status of the last response, under R532 -/
def MB_STAT_LAST_STATUS (n : Nat) : Fld := ⟨R.MB_STAT n, 16, 16⟩
/-- MB[m]_STAT.STATE (RO): R271 -/
def MB_STAT_STATE (n : Nat) : Fld := ⟨R.MB_STAT n, 0, 2⟩
/-- MB[m]_SEQ.LAST_VALID (RO): LAST holds a recorded SEQ -/
def MB_SEQ_LAST_VALID (n : Nat) : Fld := ⟨R.MB_SEQ n, 16, 1⟩
/-- MB[m]_SEQ.LAST (RO): R278 -/
def MB_SEQ_LAST (n : Nat) : Fld := ⟨R.MB_SEQ n, 0, 16⟩
/-- MB[m]_CTRL.SEQ_RESET (W1S): Clears LAST_VALID and the cache under R279; the device clears the bit when done -/
def MB_CTRL_SEQ_RESET (n : Nat) : Fld := ⟨R.MB_CTRL n, 0, 1⟩
/-- EVQ_STATUS.USED (RO): Records waiting, 0–256 -/
def EVQ_STATUS_USED : Fld := ⟨R.EVQ_STATUS, 16, 9⟩
/-- EVQ_STATUS.WR (RO): Next record written -/
def EVQ_STATUS_WR : Fld := ⟨R.EVQ_STATUS, 8, 8⟩
/-- EVQ_STATUS.RD (RO): Oldest record -/
def EVQ_STATUS_RD : Fld := ⟨R.EVQ_STATUS, 0, 8⟩
/-- EVQ_ACK.COUNT (WO): Records consumed under R283 -/
def EVQ_ACK_COUNT : Fld := ⟨R.EVQ_ACK, 0, 9⟩
/-- EVQ_LOST_TOTAL.COUNT (RO): Records lost to overflow; wraps -/
def EVQ_LOST_TOTAL_COUNT : Fld := ⟨R.EVQ_LOST_TOTAL, 0, 32⟩
/-- EVQ_CTRL.VC3_COPY (RW): Copy records to VC3 under R283 -/
def EVQ_CTRL_VC3_COPY : Fld := ⟨R.EVQ_CTRL, 0, 1⟩
/-- HOST_MT_LO.MT_LO (RO): MT(now) bits [31:0]; a read latches HOST_MT_HI -/
def HOST_MT_LO_MT_LO : Fld := ⟨R.HOST_MT_LO, 0, 32⟩
/-- HOST_MT_HI.MT_HI (RO): Bits [63:32] latched by the last MT_LO read -/
def HOST_MT_HI_MT_HI : Fld := ⟨R.HOST_MT_HI, 0, 32⟩
/-- HOST_COMMIT.COMMIT (RO): Commit block C, low 32 bits -/
def HOST_COMMIT_COMMIT : Fld := ⟨R.HOST_COMMIT, 0, 32⟩
/-- HOST_SCRATCH.DATA (RW): For host use; kept through every reset except POR and PIN -/
def HOST_SCRATCH_DATA : Fld := ⟨R.HOST_SCRATCH, 0, 32⟩
/-- STRM_CTRL.RATE (RWL): 0x0 50 MHz, 0x1 100 MHz, 0x2 200 MHz; 0x3 acts as 0x2 -/
def STRM_CTRL_RATE : Fld := ⟨R.STRM_CTRL, 8, 2⟩
/-- STRM_CTRL.AUTO_RETRAIN (RW): R328 -/
def STRM_CTRL_AUTO_RETRAIN : Fld := ⟨R.STRM_CTRL, 1, 1⟩
/-- STRM_CTRL.EN (RW): Port enabled -/
def STRM_CTRL_EN : Fld := ⟨R.STRM_CTRL, 0, 1⟩
/-- STRM_STATUS.STATE (RO): 0x0 OFF, 0x1 TRAINING, 0x2 UP, 0x3 DEGRADED, 0x4 DOWN -/
def STRM_STATUS_STATE : Fld := ⟨R.STRM_STATUS, 28, 4⟩
/-- STRM_STATUS.LANES (RO): Bit l: lane l in use -/
def STRM_STATUS_LANES : Fld := ⟨R.STRM_STATUS, 12, 8⟩
/-- STRM_STATUS.FAILED (RO): Bit l: lane l failed -/
def STRM_STATUS_FAILED : Fld := ⟨R.STRM_STATUS, 4, 8⟩
/-- STRM_STATUS.DOWN_EVT (W1C): The link went DOWN -/
def STRM_STATUS_DOWN_EVT : Fld := ⟨R.STRM_STATUS, 3, 1⟩
/-- STRM_STATUS.DEGRADE_EVT (W1C): The link became DEGRADED -/
def STRM_STATUS_DEGRADE_EVT : Fld := ⟨R.STRM_STATUS, 2, 1⟩
/-- STRM_STATUS.CRC_EVT (W1C): A flit failed its CRC -/
def STRM_STATUS_CRC_EVT : Fld := ⟨R.STRM_STATUS, 1, 1⟩
/-- STRM_RX_FRAME.COUNT (RO): Audio header flits received, under R308 and R326; wraps -/
def STRM_RX_FRAME_COUNT : Fld := ⟨R.STRM_RX_FRAME, 0, 32⟩
/-- STRM_TX_FRAME.COUNT (RO): Audio header flits sent; wraps -/
def STRM_TX_FRAME_COUNT : Fld := ⟨R.STRM_TX_FRAME, 0, 32⟩
/-- STRM_ERR.CRC_CNT (RC): Flits failing CRC, saturating -/
def STRM_ERR_CRC_CNT : Fld := ⟨R.STRM_ERR, 16, 16⟩
/-- STRM_ERR.DISCARD_CNT (RC): Flits of undefined TYPE, saturating -/
def STRM_ERR_DISCARD_CNT : Fld := ⟨R.STRM_ERR, 0, 16⟩
/-- STRM_AUDIO.LATE_CNT (RC): Input frames discarded under R326, saturating -/
def STRM_AUDIO_LATE_CNT : Fld := ⟨R.STRM_AUDIO, 16, 16⟩
/-- STRM_AUDIO.DROP_CNT (RC): Output frames dropped under R324, saturating -/
def STRM_AUDIO_DROP_CNT : Fld := ⟨R.STRM_AUDIO, 0, 16⟩
/-- STRM_MAP.N_OUT (RO): Output channels in force -/
def STRM_MAP_N_OUT : Fld := ⟨R.STRM_MAP, 16, 11⟩
/-- STRM_MAP.N_IN (RO): Input channels in force -/
def STRM_MAP_N_IN : Fld := ⟨R.STRM_MAP, 0, 11⟩
/-- STRM_TRAIN.TRAIN_US (RO): Duration of the last training in µs, saturating -/
def STRM_TRAIN_TRAIN_US : Fld := ⟨R.STRM_TRAIN, 16, 16⟩
/-- STRM_TRAIN.RETRAIN_CNT (RC): Automatic retrains, saturating -/
def STRM_TRAIN_RETRAIN_CNT : Fld := ⟨R.STRM_TRAIN, 8, 8⟩
/-- STRM_TRAIN.RESULT (RO): 0x00 OK, 0x01 NO_CLOCK, 0x02 BIT_ALIGN, 0x03 SKEW, 0x04 FLIT_ALIGN, 0x05 PARAMS -/
def STRM_TRAIN_RESULT : Fld := ⟨R.STRM_TRAIN, 0, 8⟩
/-- STRM_VC[v]_CFG.GRANT (RWL): Credits granted at training, 1–255; 0 acts as 1 -/
def STRM_VC_CFG_GRANT (n : Nat) : Fld := ⟨R.STRM_VC_CFG n, 0, 8⟩
/-- STRM_VC[v]_CREDIT.TX_AVAIL (RO): Credits held for sending -/
def STRM_VC_CREDIT_TX_AVAIL (n : Nat) : Fld := ⟨R.STRM_VC_CREDIT n, 16, 8⟩
/-- STRM_VC[v]_CREDIT.RX_OWED (RO): Credits not yet returned -/
def STRM_VC_CREDIT_RX_OWED (n : Nat) : Fld := ⟨R.STRM_VC_CREDIT n, 0, 8⟩
/-- STRM_VC[v]_TXCNT.COUNT (RO): Flits sent; wraps -/
def STRM_VC_TXCNT_COUNT (n : Nat) : Fld := ⟨R.STRM_VC_TXCNT n, 0, 32⟩
/-- STRM_VC[v]_RXCNT.COUNT (RO): Flits received; wraps -/
def STRM_VC_RXCNT_COUNT (n : Nat) : Fld := ⟨R.STRM_VC_RXCNT n, 0, 32⟩
/-- STRM_LANE[l]_RX.ERR_CNT (RC): Idle-pattern errors, saturating -/
def STRM_LANE_RX_ERR_CNT (n : Nat) : Fld := ⟨R.STRM_LANE_RX n, 16, 16⟩
/-- STRM_LANE[l]_RX.SKEW (RO): Deskew applied, s4 in UI -/
def STRM_LANE_RX_SKEW (n : Nat) : Fld := ⟨R.STRM_LANE_RX n, 4, 4⟩
/-- STRM_LANE[l]_RX.FAILED (RO): Failed under R327 or R328 -/
def STRM_LANE_RX_FAILED (n : Nat) : Fld := ⟨R.STRM_LANE_RX n, 1, 1⟩
/-- STRM_LANE[l]_RX.IN_USE (RO): Lane in use -/
def STRM_LANE_RX_IN_USE (n : Nat) : Fld := ⟨R.STRM_LANE_RX n, 0, 1⟩
/-- STRM_LANE[l]_TX.FAR_ERR (RO): Errors on this transmit lane reported by the far end at training, saturating -/
def STRM_LANE_TX_FAR_ERR (n : Nat) : Fld := ⟨R.STRM_LANE_TX n, 16, 16⟩
/-- STRM_LANE[l]_TX.FAR_FAILED (RO): The far end failed this lane -/
def STRM_LANE_TX_FAR_FAILED (n : Nat) : Fld := ⟨R.STRM_LANE_TX n, 1, 1⟩
/-- STRM_LANE[l]_TX.IN_USE (RO): Lane in use -/
def STRM_LANE_TX_IN_USE (n : Nat) : Fld := ⟨R.STRM_LANE_TX n, 0, 1⟩
/-- CRSE_CTRL.SQUALL_UP (RW): R345 -/
def CRSE_CTRL_SQUALL_UP : Fld := ⟨R.CRSE_CTRL, 15, 1⟩
/-- CRSE_CTRL.TWIN_ROLE (RWL): 0 A, 1 B -/
def CRSE_CTRL_TWIN_ROLE : Fld := ⟨R.CRSE_CTRL, 11, 1⟩
/-- CRSE_CTRL.TWIN_EN (RWL): Twin mode -/
def CRSE_CTRL_TWIN_EN : Fld := ⟨R.CRSE_CTRL, 10, 1⟩
/-- CRSE_CTRL.CASCADE_EN (RW): Course link enabled; the block is disabled while 0 -/
def CRSE_CTRL_CASCADE_EN : Fld := ⟨R.CRSE_CTRL, 9, 1⟩
/-- CRSE_CTRL.KEYSTONE (RWL): Configured keystone -/
def CRSE_CTRL_KEYSTONE : Fld := ⟨R.CRSE_CTRL, 8, 1⟩
/-- CRSE_CTRL.COURSE (RWL): Course number -/
def CRSE_CTRL_COURSE : Fld := ⟨R.CRSE_CTRL, 0, 3⟩
/-- CRSE_STATUS.RING (RO): 0x0 OFF, 0x1 FORMING, 0x2 RING, 0x3 CHAIN, 0x4 ISOLATED -/
def CRSE_STATUS_RING : Fld := ⟨R.CRSE_STATUS, 28, 4⟩
/-- CRSE_STATUS.KEY_COURSE (RO): Course of the keystone in force -/
def CRSE_STATUS_KEY_COURSE : Fld := ⟨R.CRSE_STATUS, 25, 3⟩
/-- CRSE_STATUS.IS_KEYSTONE (RO): This device is the keystone -/
def CRSE_STATUS_IS_KEYSTONE : Fld := ⟨R.CRSE_STATUS, 24, 1⟩
/-- CRSE_STATUS.LIVE (RO): Bit k: course k live -/
def CRSE_STATUS_LIVE : Fld := ⟨R.CRSE_STATUS, 16, 8⟩
/-- CRSE_STATUS.P_MIN (RO): R338 -/
def CRSE_STATUS_P_MIN : Fld := ⟨R.CRSE_STATUS, 8, 8⟩
/-- CRSE_STATUS.CONFLICT (W1C): R341 -/
def CRSE_STATUS_CONFLICT : Fld := ⟨R.CRSE_STATUS, 7, 1⟩
/-- CRSE_STATUS.CHAN_CONFLICT (W1C): R332 -/
def CRSE_STATUS_CHAN_CONFLICT : Fld := ⟨R.CRSE_STATUS, 6, 1⟩
/-- CRSE_STATUS.PROMOTED (RO): Keystone by promotion under R342 -/
def CRSE_STATUS_PROMOTED : Fld := ⟨R.CRSE_STATUS, 5, 1⟩
/-- CRSE_STATUS.P_SHORT (W1C): R339 -/
def CRSE_STATUS_P_SHORT : Fld := ⟨R.CRSE_STATUS, 4, 1⟩
/-- CRSE_STATUS.WRAP_EVT (W1C): The ring wrapped under R334 -/
def CRSE_STATUS_WRAP_EVT : Fld := ⟨R.CRSE_STATUS, 3, 1⟩
/-- CRSE_TOPO.DEVICES (RO): Devices in the ring -/
def CRSE_TOPO_DEVICES : Fld := ⟨R.CRSE_TOPO, 24, 8⟩
/-- CRSE_TOPO.HOPS_MAX (RO): Device count − 1 -/
def CRSE_TOPO_HOPS_MAX : Fld := ⟨R.CRSE_TOPO, 16, 8⟩
/-- CRSE_TOPO.EAST_NB (RO): Neighbour: [7] valid, [3] twin role, [2:0] course -/
def CRSE_TOPO_EAST_NB : Fld := ⟨R.CRSE_TOPO, 8, 8⟩
/-- CRSE_TOPO.WEST_NB (RO): As EAST_NB -/
def CRSE_TOPO_WEST_NB : Fld := ⟨R.CRSE_TOPO, 0, 8⟩
/-- CRSE_LAT.LAMBDA_NS (RO): λmax under R338, in ns -/
def CRSE_LAT_LAMBDA_NS : Fld := ⟨R.CRSE_LAT, 0, 32⟩
/-- CRSE_TWIN.STATE (RO): 0x0 OFF, 0x1 ACTIVE, 0x2 STANDBY, 0x3 STANDBY_NOT_READY, 0x4 CHECKING, 0x5 FAULT -/
def CRSE_TWIN_STATE : Fld := ⟨R.CRSE_TWIN, 28, 4⟩
/-- CRSE_TWIN.PARTNER_SEEN (RO): A partner frame arrived within 5 ms -/
def CRSE_TWIN_PARTNER_SEEN : Fld := ⟨R.CRSE_TWIN, 27, 1⟩
/-- CRSE_TWIN.DIVERGED (W1C): R347 -/
def CRSE_TWIN_DIVERGED : Fld := ⟨R.CRSE_TWIN, 26, 1⟩
/-- CRSE_TWIN.MATCH_RUN (RO): Consecutive matched blocks, saturating -/
def CRSE_TWIN_MATCH_RUN : Fld := ⟨R.CRSE_TWIN, 0, 16⟩
/-- CRSE_TWIN_CNT.DIVERGE_CNT (RC): TWIN_DIVERGE outcomes, saturating -/
def CRSE_TWIN_CNT_DIVERGE_CNT : Fld := ⟨R.CRSE_TWIN_CNT, 16, 16⟩
/-- CRSE_TWIN_CNT.MISMATCH_CNT (RC): Mismatched blocks, saturating -/
def CRSE_TWIN_CNT_MISMATCH_CNT : Fld := ⟨R.CRSE_TWIN_CNT, 0, 16⟩
/-- CRSE_MSG_CNT.SENT (RO): Messages originated; wraps -/
def CRSE_MSG_CNT_SENT : Fld := ⟨R.CRSE_MSG_CNT, 0, 32⟩
/-- CRSE_AUDIO_LOSS.LOST (RC): Frames with no valid copy under R332, saturating -/
def CRSE_AUDIO_LOSS_LOST : Fld := ⟨R.CRSE_AUDIO_LOSS, 16, 16⟩
/-- CRSE_AUDIO_LOSS.ONE_BAD (RC): Frames taken from the second copy, saturating -/
def CRSE_AUDIO_LOSS_ONE_BAD : Fld := ⟨R.CRSE_AUDIO_LOSS, 0, 16⟩
/-- CRSE_PORT[p]_STAT.STATE (RO): 0x0 OFF, 0x1 TRAINING, 0x2 UP, 0x3 ONE_LANE, 0x4 DOWN -/
def CRSE_PORT_STAT_STATE (n : Nat) : Fld := ⟨R.CRSE_PORT_STAT n, 28, 4⟩
/-- CRSE_PORT[p]_STAT.LANES (RO): Bit i: lane i aligned -/
def CRSE_PORT_STAT_LANES (n : Nat) : Fld := ⟨R.CRSE_PORT_STAT n, 0, 2⟩
/-- CRSE_PORT[p]_ERR.CRC_CNT (RC): Frames failing CRC, saturating -/
def CRSE_PORT_ERR_CRC_CNT (n : Nat) : Fld := ⟨R.CRSE_PORT_ERR n, 16, 16⟩
/-- CRSE_PORT[p]_ERR.CODE_CNT (RC): 8b/10b code violations, saturating -/
def CRSE_PORT_ERR_CODE_CNT (n : Nat) : Fld := ⟨R.CRSE_PORT_ERR n, 0, 16⟩
/-- CRSE_PORT[p]_HOP.HOP_NS (RO): Measured latency to the neighbour on this port, in ns -/
def CRSE_PORT_HOP_HOP_NS (n : Nat) : Fld := ⟨R.CRSE_PORT_HOP n, 0, 32⟩
/-- CRSE_PORT[p]_FRAMES.COUNT (RO): Valid frames received; wraps -/
def CRSE_PORT_FRAMES_COUNT (n : Nat) : Fld := ⟨R.CRSE_PORT_FRAMES n, 0, 32⟩
/-- CRSE_COURSE[k]_STAT.LIVE (RO): A frame of course k arrived within 50 ms -/
def CRSE_COURSE_STAT_LIVE (n : Nat) : Fld := ⟨R.CRSE_COURSE_STAT n, 31, 1⟩
/-- CRSE_COURSE[k]_STAT.TWIN_SEEN (RO): Both roles of course k seen -/
def CRSE_COURSE_STAT_TWIN_SEEN (n : Nat) : Fld := ⟨R.CRSE_COURSE_STAT n, 30, 1⟩
/-- CRSE_COURSE[k]_STAT.PSTATE (RO): Power state of the active device, in the HOST_STATUS codes -/
def CRSE_COURSE_STAT_PSTATE (n : Nat) : Fld := ⟨R.CRSE_COURSE_STAT n, 24, 4⟩
/-- CRSE_COURSE[k]_STAT.VARIANT (RO): 0x01 LMZ8192, 0x02 LMZ4096 -/
def CRSE_COURSE_STAT_VARIANT (n : Nat) : Fld := ⟨R.CRSE_COURSE_STAT n, 16, 8⟩
/-- CRSE_COURSE[k]_LAT.NS (RO): Latency from the keystone to course k under R340, in ns -/
def CRSE_COURSE_LAT_NS (n : Nat) : Fld := ⟨R.CRSE_COURSE_LAT n, 0, 32⟩
/-- CRSE_COURSE[k]_FRAMES.COUNT (RO): Frames taken from course k; wraps -/
def CRSE_COURSE_FRAMES_COUNT (n : Nat) : Fld := ⟨R.CRSE_COURSE_FRAMES n, 0, 32⟩
/-- CRSE_COURSE[k]_LAST.BLOCK (RO): Block number of the last frame taken from course k -/
def CRSE_COURSE_LAST_BLOCK (n : Nat) : Fld := ⟨R.CRSE_COURSE_LAST n, 0, 32⟩
/-- APORT[n]_CTRL.PINS (RWL): 0 SD0 only; 1 SD0 and SD1 -/
def APORT_CTRL_PINS (n : Nat) : Fld := ⟨R.APORT_CTRL n, 5, 1⟩
/-- APORT[n]_CTRL.MASTER (RWL): 1 clock master under R351 -/
def APORT_CTRL_MASTER (n : Nat) : Fld := ⟨R.APORT_CTRL n, 4, 1⟩
/-- APORT[n]_CTRL.DIR (RWL): 0 output; 1 input -/
def APORT_CTRL_DIR (n : Nat) : Fld := ⟨R.APORT_CTRL n, 3, 1⟩
/-- APORT[n]_CTRL.FORMAT (RWL): R350 -/
def APORT_CTRL_FORMAT (n : Nat) : Fld := ⟨R.APORT_CTRL n, 0, 2⟩
/-- APORT[n]_FRAME.FRAME_BITS (RWL): 0x0 32, 0x1 64, 0x2 128, 0x3 256, 0x4 512 bit clocks; 0x5–0x7 undefined -/
def APORT_FRAME_FRAME_BITS (n : Nat) : Fld := ⟨R.APORT_FRAME n, 16, 3⟩
/-- APORT[n]_FRAME.WIDTH (RWL): 0x0 16, 0x1 24, 0x2 32 bits; 0x3 undefined -/
def APORT_FRAME_WIDTH (n : Nat) : Fld := ⟨R.APORT_FRAME n, 12, 2⟩
/-- APORT[n]_FRAME.SLOTS (RWL): TDM slots per pin, 2–32; ignored in I²S and left-justified format -/
def APORT_FRAME_SLOTS (n : Nat) : Fld := ⟨R.APORT_FRAME n, 6, 6⟩
/-- APORT[n]_FRAME.FS_WIDTH (RWL): TDM: 0 one BCLK; 1 one slot -/
def APORT_FRAME_FS_WIDTH (n : Nat) : Fld := ⟨R.APORT_FRAME n, 3, 1⟩
/-- APORT[n]_FRAME.FS_DELAY (RWL): TDM: 1 data 1 BCLK after FS -/
def APORT_FRAME_FS_DELAY (n : Nat) : Fld := ⟨R.APORT_FRAME n, 2, 1⟩
/-- APORT[n]_FRAME.FS_INV (RWL): Invert FS -/
def APORT_FRAME_FS_INV (n : Nat) : Fld := ⟨R.APORT_FRAME n, 1, 1⟩
/-- APORT[n]_FRAME.BCLK_FALL (RWL): Swap BCLK edges under R350 -/
def APORT_FRAME_BCLK_FALL (n : Nat) : Fld := ⟨R.APORT_FRAME n, 0, 1⟩
/-- APORT[n]_BUF.SLAB (RWL): Buffer slab -/
def APORT_BUF_SLAB (n : Nat) : Fld := ⟨R.APORT_BUF n, 16, 5⟩
/-- APORT[n]_BUF.BASE (RWL): Buffer start in 8-byte units -/
def APORT_BUF_BASE (n : Nat) : Fld := ⟨R.APORT_BUF n, 0, 16⟩
/-- APORT[n]_LENGTH.STAGED (RO): Length staged under R365; 0 none -/
def APORT_LENGTH_STAGED (n : Nat) : Fld := ⟨R.APORT_LENGTH n, 16, 16⟩
/-- APORT[n]_LENGTH.LENGTH (RWL): Length in force, in frames -/
def APORT_LENGTH_LENGTH (n : Nat) : Fld := ⟨R.APORT_LENGTH n, 0, 16⟩
/-- APORT[n]_EDGES.PRE (RW): Silent-start frames; used at the next start -/
def APORT_EDGES_PRE (n : Nat) : Fld := ⟨R.APORT_EDGES n, 8, 8⟩
/-- APORT[n]_EDGES.POST (RW): Silent-stop frames; used at the next stop -/
def APORT_EDGES_POST (n : Nat) : Fld := ⟨R.APORT_EDGES n, 0, 8⟩
/-- APORT[n]_STATUS.STATE (RO): 0x0 STOPPED, 0x1 STARTING, 0x2 RUNNING, 0x3 STOPPING, 0x4 CLK_LOST -/
def APORT_STATUS_STATE (n : Nat) : Fld := ⟨R.APORT_STATUS n, 28, 4⟩
/-- APORT[n]_STATUS.LEN_PEND (RO): R365 -/
def APORT_STATUS_LEN_PEND (n : Nat) : Fld := ⟨R.APORT_STATUS n, 8, 1⟩
/-- APORT[n]_STATUS.UNUSED_DEST (W1C): R353 -/
def APORT_STATUS_UNUSED_DEST (n : Nat) : Fld := ⟨R.APORT_STATUS n, 7, 1⟩
/-- APORT[n]_STATUS.FRAME_ERR (W1C): R361 -/
def APORT_STATUS_FRAME_ERR (n : Nat) : Fld := ⟨R.APORT_STATUS n, 6, 1⟩
/-- APORT[n]_STATUS.RATE_CHG (W1C): R363 -/
def APORT_STATUS_RATE_CHG (n : Nat) : Fld := ⟨R.APORT_STATUS n, 5, 1⟩
/-- APORT[n]_STATUS.RESYNC (W1C): R356, R357, R362, R365 -/
def APORT_STATUS_RESYNC (n : Nat) : Fld := ⟨R.APORT_STATUS n, 4, 1⟩
/-- APORT[n]_STATUS.CLK_LOST_EVT (W1C): R361 -/
def APORT_STATUS_CLK_LOST_EVT (n : Nat) : Fld := ⟨R.APORT_STATUS n, 3, 1⟩
/-- APORT[n]_STATUS.OVERRUN (W1C): R357 -/
def APORT_STATUS_OVERRUN (n : Nat) : Fld := ⟨R.APORT_STATUS n, 2, 1⟩
/-- APORT[n]_STATUS.UNDERRUN (W1C): R356 -/
def APORT_STATUS_UNDERRUN (n : Nat) : Fld := ⟨R.APORT_STATUS n, 1, 1⟩
/-- APORT[n]_WR.WR (RO): Next frame index written -/
def APORT_WR_WR (n : Nat) : Fld := ⟨R.APORT_WR n, 0, 16⟩
/-- APORT[n]_RD.RD (RO): Output: next frame sent. Input: oldest frame not consumed. -/
def APORT_RD_RD (n : Nat) : Fld := ⟨R.APORT_RD n, 0, 16⟩
/-- APORT[n]_MT_LO.MT_LO (RO): Tag of the frame at RD, bits [31:0]; a read latches MT_HI -/
def APORT_MT_LO_MT_LO (n : Nat) : Fld := ⟨R.APORT_MT_LO n, 0, 32⟩
/-- APORT[n]_MT_HI.MT_HI (RO): Bits [63:32] latched by the last MT_LO read -/
def APORT_MT_HI_MT_HI (n : Nat) : Fld := ⟨R.APORT_MT_HI n, 0, 32⟩
/-- APORT[n]_RATE.RATE (RO): Frame rate in 1/64 Hz under R363; 0 before the first measurement -/
def APORT_RATE_RATE (n : Nat) : Fld := ⟨R.APORT_RATE n, 0, 24⟩
/-- APORT[n]_RATE_CFG.THR (RW): RATE_CHG threshold in ppm; 0 disables -/
def APORT_RATE_CFG_THR (n : Nat) : Fld := ⟨R.APORT_RATE_CFG n, 0, 8⟩
/-- APORT[n]_RATE_REF.REF (RO): Reference rate under R363 -/
def APORT_RATE_REF_REF (n : Nat) : Fld := ⟨R.APORT_RATE_REF n, 0, 24⟩
/-- APORT[n]_XRUN.UNDER_CNT (RC): Zero frames sent in underrun, saturating -/
def APORT_XRUN_UNDER_CNT (n : Nat) : Fld := ⟨R.APORT_XRUN n, 16, 16⟩
/-- APORT[n]_XRUN.OVER_CNT (RC): Input frames dropped in overrun, saturating -/
def APORT_XRUN_OVER_CNT (n : Nat) : Fld := ⟨R.APORT_XRUN n, 0, 16⟩
/-- APORT[n]_RESYNC.LAST (RO): Frames in the last RESYNC, saturating -/
def APORT_RESYNC_LAST (n : Nat) : Fld := ⟨R.APORT_RESYNC n, 16, 16⟩
/-- APORT[n]_RESYNC.CNT (RC): RESYNC occurrences, saturating -/
def APORT_RESYNC_CNT (n : Nat) : Fld := ⟨R.APORT_RESYNC n, 0, 16⟩
/-- APORT[n]_GROUP.FRAME_ERR_CNT (RC): Frame errors, saturating -/
def APORT_GROUP_FRAME_ERR_CNT (n : Nat) : Fld := ⟨R.APORT_GROUP n, 16, 16⟩
/-- APORT[n]_GROUP.LEADER (RO): Leader of its group under R366 -/
def APORT_GROUP_LEADER (n : Nat) : Fld := ⟨R.APORT_GROUP n, 4, 1⟩
/-- APORT[n]_GROUP.IN_GROUP (RO): Member of a group -/
def APORT_GROUP_IN_GROUP (n : Nat) : Fld := ⟨R.APORT_GROUP n, 3, 1⟩
/-- APORT[n]_GROUP.GROUP (RO): Group number -/
def APORT_GROUP_GROUP (n : Nat) : Fld := ⟨R.APORT_GROUP n, 0, 3⟩
/-- ANA[n]_CTRL.EN (RO): Enabled, set by ANA.ENABLE -/
def ANA_CTRL_EN (n : Nat) : Fld := ⟨R.ANA_CTRL n, 31, 1⟩
/-- ANA[n]_CTRL.RANGE (RO): 0 H, 1 L; set by ANA.SET_RANGE -/
def ANA_CTRL_RANGE (n : Nat) : Fld := ⟨R.ANA_CTRL n, 30, 1⟩
/-- ANA[n]_CTRL.MODE (RW): R371 -/
def ANA_CTRL_MODE (n : Nat) : Fld := ⟨R.ANA_CTRL n, 28, 2⟩
/-- ANA[n]_CTRL.LOADCHK_EN (RW): Idle load check under R382 -/
def ANA_CTRL_LOADCHK_EN (n : Nat) : Fld := ⟨R.ANA_CTRL n, 27, 1⟩
/-- ANA[n]_CTRL.DC_CODE (RW): Code in DC mode, s18 -/
def ANA_CTRL_DC_CODE (n : Nat) : Fld := ⟨R.ANA_CTRL n, 0, 18⟩
/-- ANA[n]_SLEW.SLEW_DIV (RW): A slew tick every SLEW_DIV + 1 updates, 0–16,383 -/
def ANA_SLEW_SLEW_DIV (n : Nat) : Fld := ⟨R.ANA_SLEW n, 18, 14⟩
/-- ANA[n]_SLEW.SLEW_STEP (RW): Largest code change per slew tick; 0 turns the limiter off -/
def ANA_SLEW_SLEW_STEP (n : Nat) : Fld := ⟨R.ANA_SLEW n, 0, 18⟩
/-- ANA[n]_STATUS.STATE (RO): R374 -/
def ANA_STATUS_STATE (n : Nat) : Fld := ⟨R.ANA_STATUS n, 28, 4⟩
/-- ANA[n]_STATUS.LOAD (RO): 0x0 UNKNOWN, 0x1 OK, 0x2 OPEN, 0x3 SHORT -/
def ANA_STATUS_LOAD (n : Nat) : Fld := ⟨R.ANA_STATUS n, 26, 2⟩
/-- ANA[n]_STATUS.COMPL_NOW (RO): Pin outside ±2.7 V under R381 -/
def ANA_STATUS_COMPL_NOW (n : Nat) : Fld := ⟨R.ANA_STATUS n, 25, 1⟩
/-- ANA[n]_STATUS.SLEWING (RO): R372 -/
def ANA_STATUS_SLEWING (n : Nat) : Fld := ⟨R.ANA_STATUS n, 24, 1⟩
/-- ANA[n]_STATUS.RAIL_LOW (RO): R375 -/
def ANA_STATUS_RAIL_LOW (n : Nat) : Fld := ⟨R.ANA_STATUS n, 23, 1⟩
/-- ANA[n]_STATUS.TRIM_LIMIT (W1C): R384 -/
def ANA_STATUS_TRIM_LIMIT (n : Nat) : Fld := ⟨R.ANA_STATUS n, 19, 1⟩
/-- ANA[n]_STATUS.LOAD_EVT (W1C): LOAD changed -/
def ANA_STATUS_LOAD_EVT (n : Nat) : Fld := ⟨R.ANA_STATUS n, 18, 1⟩
/-- ANA[n]_STATUS.UNDERRUN (W1C): R380 -/
def ANA_STATUS_UNDERRUN (n : Nat) : Fld := ⟨R.ANA_STATUS n, 17, 1⟩
/-- ANA[n]_STATUS.COMPL (W1C): R381 -/
def ANA_STATUS_COMPL (n : Nat) : Fld := ⟨R.ANA_STATUS n, 16, 1⟩
/-- ANA[n]_STATUS.LOAD_OHMS (RO): Last window's load in Ω, saturating at 4,095; valid when LOAD ≠ UNKNOWN -/
def ANA_STATUS_LOAD_OHMS (n : Nat) : Fld := ⟨R.ANA_STATUS n, 0, 12⟩
/-- ANA[n]_COUNT.UNDER_CNT (RC): Queue underruns, saturating -/
def ANA_COUNT_UNDER_CNT (n : Nat) : Fld := ⟨R.ANA_COUNT n, 16, 16⟩
/-- ANA[n]_COUNT.COMPL_CNT (RC): Compliance detections, saturating -/
def ANA_COUNT_COMPL_CNT (n : Nat) : Fld := ⟨R.ANA_COUNT n, 0, 16⟩
/-- SUPV_CTRL.PILOT_CHK (RW): Pilot checks under R389 -/
def SUPV_CTRL_PILOT_CHK : Fld := ⟨R.SUPV_CTRL, 31, 1⟩
/-- SUPV_CTRL.AVU_EN (RW): Acoustic verification runs -/
def SUPV_CTRL_AVU_EN : Fld := ⟨R.SUPV_CTRL, 30, 1⟩
/-- SUPV_CTRL.PROBE_EN (RW): Probes injected under R396 -/
def SUPV_CTRL_PROBE_EN : Fld := ⟨R.SUPV_CTRL, 29, 1⟩
/-- SUPV_CTRL.REBASE (RW): Dew step 5 re-baselines under R404 -/
def SUPV_CTRL_REBASE : Fld := ⟨R.SUPV_CTRL, 28, 1⟩
/-- SUPV_CTRL.PROBE_MAX (RW): Probe cap in dB below 0 dBFS -/
def SUPV_CTRL_PROBE_MAX : Fld := ⟨R.SUPV_CTRL, 16, 8⟩
/-- SUPV_CTRL.MARGIN (RW): Pilot margin in 0.5 dB -/
def SUPV_CTRL_MARGIN : Fld := ⟨R.SUPV_CTRL, 8, 8⟩
/-- SUPV_STATUS.DEW_ACTIVE (RO): A Dew window is running -/
def SUPV_STATUS_DEW_ACTIVE : Fld := ⟨R.SUPV_STATUS, 3, 1⟩
/-- SUPV_STATUS.PATH_ANY (RO): Any SUPV_PATH_FAULT bit set -/
def SUPV_STATUS_PATH_ANY : Fld := ⟨R.SUPV_STATUS, 2, 1⟩
/-- SUPV_STATUS.PILOT_ANY (RO): Any SUPV_PILOT_FAULT bit set -/
def SUPV_STATUS_PILOT_ANY : Fld := ⟨R.SUPV_STATUS, 1, 1⟩
/-- SUPV_STATUS.INTERNAL (RO): An internal-point fault under R392 -/
def SUPV_STATUS_INTERNAL : Fld := ⟨R.SUPV_STATUS, 0, 1⟩
/-- SUPV_AVU_STATUS.PATHS_EN (RO): Enabled paths, 0–1,024 -/
def SUPV_AVU_STATUS_PATHS_EN : Fld := ⟨R.SUPV_AVU_STATUS, 16, 11⟩
/-- SUPV_AVU_STATUS.PATHS_FAULT (RO): Paths in fault, 0–1,024 -/
def SUPV_AVU_STATUS_PATHS_FAULT : Fld := ⟨R.SUPV_AVU_STATUS, 0, 11⟩
/-- SUPV_COUNT.PILOT_CNT (RC): PILOT_FAULT declarations, saturating -/
def SUPV_COUNT_PILOT_CNT : Fld := ⟨R.SUPV_COUNT, 16, 16⟩
/-- SUPV_COUNT.PATH_CNT (RC): AVU_PATH_FAULT declarations, saturating -/
def SUPV_COUNT_PATH_CNT : Fld := ⟨R.SUPV_COUNT, 0, 16⟩
/-- SUPV_DEW_CTRL.EN (RO): Dew test scheduled, set by SUPV.SET_DEW -/
def SUPV_DEW_CTRL_EN : Fld := ⟨R.SUPV_DEW_CTRL, 31, 1⟩
/-- SUPV_DEW_CTRL.DURATION (RO): Window length in minutes -/
def SUPV_DEW_CTRL_DURATION : Fld := ⟨R.SUPV_DEW_CTRL, 16, 11⟩
/-- SUPV_DEW_CTRL.PERIOD (RO): Repeat in minutes; 0 once -/
def SUPV_DEW_CTRL_PERIOD : Fld := ⟨R.SUPV_DEW_CTRL, 0, 16⟩
/-- SUPV_DEW_STATUS.STATE (RO): 0x0 OFF, 0x1 WAITING, 0x2 RUNNING -/
def SUPV_DEW_STATUS_STATE : Fld := ⟨R.SUPV_DEW_STATUS, 28, 4⟩
/-- SUPV_DEW_STATUS.DONE (RO): Zones that have finished step 5 or been skipped, in this or the last window -/
def SUPV_DEW_STATUS_DONE : Fld := ⟨R.SUPV_DEW_STATUS, 16, 9⟩
/-- SUPV_DEW_STATUS.SELECTED (RO): Zones selected under R403 -/
def SUPV_DEW_STATUS_SELECTED : Fld := ⟨R.SUPV_DEW_STATUS, 0, 9⟩
/-- SUPV_DEW_NEXT_LO.MT_LO (RO): Start of the next window under R402, bits [31:0]; a read latches MT_HI -/
def SUPV_DEW_NEXT_LO_MT_LO : Fld := ⟨R.SUPV_DEW_NEXT_LO, 0, 32⟩
/-- SUPV_DEW_NEXT_HI.MT_HI (RO): Bits [63:32], latched by the last MT_LO read -/
def SUPV_DEW_NEXT_HI_MT_HI : Fld := ⟨R.SUPV_DEW_NEXT_HI, 0, 32⟩
/-- SUPV_PILOT_FAULT[k].FAULT (RO): Bit j: zone 32k + j has a PILOT_FAULT at any point under R391 -/
def SUPV_PILOT_FAULT_FAULT (n : Nat) : Fld := ⟨R.SUPV_PILOT_FAULT n, 0, 32⟩
/-- SUPV_PATH_FAULT[k].FAULT (RO): Bit j: path 32k + j is in AVU_PATH_FAULT under R400 -/
def SUPV_PATH_FAULT_FAULT (n : Nat) : Fld := ⟨R.SUPV_PATH_FAULT n, 0, 32⟩
/-- SAFE_CTRL.RESET_DELAY (RW): Milliseconds in FAULT before a RESET reaction, 10–255; below 10 acts as 10 -/
def SAFE_CTRL_RESET_DELAY : Fld := ⟨R.SAFE_CTRL, 0, 8⟩
/-- SAFE_STATUS.FAULT_STATE (RO): Device in FAULT -/
def SAFE_STATUS_FAULT_STATE : Fld := ⟨R.SAFE_STATUS, 31, 1⟩
/-- SAFE_STATUS.PIN_ASSERTED (RO): SAFE_FAULT_N low -/
def SAFE_STATUS_PIN_ASSERTED : Fld := ⟨R.SAFE_STATUS, 30, 1⟩
/-- SAFE_STATUS.ALIVE_RUN (RO): SAFE_ALIVE toggling under R421 -/
def SAFE_STATUS_ALIVE_RUN : Fld := ⟨R.SAFE_STATUS, 29, 1⟩
/-- SAFE_STATUS.DEBUG_UNLOCKED (RO): SAFE.DEBUG_UNLOCK in force -/
def SAFE_STATUS_DEBUG_UNLOCKED : Fld := ⟨R.SAFE_STATUS, 28, 1⟩
/-- SAFE_STATUS.LATCHED_CNT (RO): Mechanisms latched -/
def SAFE_STATUS_LATCHED_CNT : Fld := ⟨R.SAFE_STATUS, 8, 8⟩
/-- SAFE_STATUS.CAUSE (RO): Code that caused FAULT; 0xFF none -/
def SAFE_STATUS_CAUSE : Fld := ⟨R.SAFE_STATUS, 0, 8⟩
/-- SAFE_LOCK.LOCK (RO): Bit g: opcode group g locked, set by SAFE.SET_LOCK -/
def SAFE_LOCK_LOCK : Fld := ⟨R.SAFE_LOCK, 1, 20⟩
/-- SAFE_LATCHED.LATCHED (RO): Bit k: SAFE_MECH[k]_STAT.LATCHED -/
def SAFE_LATCHED_LATCHED : Fld := ⟨R.SAFE_LATCHED, 0, 24⟩
/-- SAFE_ACTIVE.ACTIVE (RO): Bit k: SAFE_MECH[k]_STAT.ACTIVE -/
def SAFE_ACTIVE_ACTIVE : Fld := ⟨R.SAFE_ACTIVE, 0, 24⟩
/-- SAFE_LOG.PROTECTED (RO): Unreleased protected records, 0–64 -/
def SAFE_LOG_PROTECTED : Fld := ⟨R.SAFE_LOG, 16, 7⟩
/-- SAFE_LOG.EMPTY (RO): No record in the log -/
def SAFE_LOG_EMPTY : Fld := ⟨R.SAFE_LOG, 12, 1⟩
/-- SAFE_LOG.NEWEST (RO): Index of the newest record -/
def SAFE_LOG_NEWEST : Fld := ⟨R.SAFE_LOG, 0, 12⟩
/-- SAFE_FAULT_CNT.COUNT (RO): Records since POR; wraps -/
def SAFE_FAULT_CNT_COUNT : Fld := ⟨R.SAFE_FAULT_CNT, 0, 32⟩
/-- SAFE_LAST.INSTANCE (RO): Instance of the last record -/
def SAFE_LAST_INSTANCE : Fld := ⟨R.SAFE_LAST, 16, 16⟩
/-- SAFE_LAST.REACT (RO): Reaction of the last record -/
def SAFE_LAST_REACT : Fld := ⟨R.SAFE_LAST, 8, 2⟩
/-- SAFE_LAST.CODE (RO): Code of the last record; 0xFF none -/
def SAFE_LAST_CODE : Fld := ⟨R.SAFE_LAST, 0, 8⟩
/-- SAFE_LAST_MT_LO.MT_LO (RO): MT of the last record, bits [31:0]; a read latches MT_HI -/
def SAFE_LAST_MT_LO_MT_LO : Fld := ⟨R.SAFE_LAST_MT_LO, 0, 32⟩
/-- SAFE_LAST_MT_HI.MT_HI (RO): Bits [63:32], latched by the last MT_LO read -/
def SAFE_LAST_MT_HI_MT_HI : Fld := ⟨R.SAFE_LAST_MT_HI, 0, 32⟩
/-- SAFE_DEGRADE.RELEASED (RC): Jobs ended NO_CAPACITY, saturating -/
def SAFE_DEGRADE_RELEASED : Fld := ⟨R.SAFE_DEGRADE, 16, 8⟩
/-- SAFE_DEGRADE.FAILED (RO): Bricks declared failed since the last reset -/
def SAFE_DEGRADE_FAILED : Fld := ⟨R.SAFE_DEGRADE, 8, 8⟩
/-- SAFE_DEGRADE.SPARES_LEFT (RO): Unused spares -/
def SAFE_DEGRADE_SPARES_LEFT : Fld := ⟨R.SAFE_DEGRADE, 0, 2⟩
/-- SAFE_BANKMEM.UNAVAILABLE (RO): R424 -/
def SAFE_BANKMEM_UNAVAILABLE : Fld := ⟨R.SAFE_BANKMEM, 31, 1⟩
/-- SAFE_BANKMEM.RETRAIN_CNT (RC): Retraining attempts, saturating -/
def SAFE_BANKMEM_RETRAIN_CNT : Fld := ⟨R.SAFE_BANKMEM, 8, 8⟩
/-- SAFE_BANKMEM.THRESH (RW): Uncorrectable events per second, 1–255; 0 acts as 1 -/
def SAFE_BANKMEM_THRESH : Fld := ⟨R.SAFE_BANKMEM, 0, 8⟩
/-- SAFE_WDOG.EXPIRY_CNT (RO): Watchdog expiries, kept under R417, saturating -/
def SAFE_WDOG_EXPIRY_CNT : Fld := ⟨R.SAFE_WDOG, 16, 16⟩
/-- SAFE_WDOG.TIMEOUT (RO): Watchdog period in ms -/
def SAFE_WDOG_TIMEOUT : Fld := ⟨R.SAFE_WDOG, 0, 16⟩
/-- SAFE_CLKMON.FAILED (W1C): Bits 0–8: ECLK, MCLK, ACLK, DCLK, SPCLK, KLCLK, HCLK, BCLK, LCLK failed -/
def SAFE_CLKMON_FAILED : Fld := ⟨R.SAFE_CLKMON, 0, 9⟩
/-- SAFE_ALIVE_STAT.FROZEN (RO): Frozen under R421 -/
def SAFE_ALIVE_STAT_FROZEN : Fld := ⟨R.SAFE_ALIVE_STAT, 31, 1⟩
/-- SAFE_ALIVE_STAT.HALF_PERIODS (RO): Toggles since reset; wraps -/
def SAFE_ALIVE_STAT_HALF_PERIODS : Fld := ⟨R.SAFE_ALIVE_STAT, 0, 16⟩
/-- SAFE_INJECT.INSTANCE (RO): Instance of the last injection -/
def SAFE_INJECT_INSTANCE : Fld := ⟨R.SAFE_INJECT, 16, 16⟩
/-- SAFE_INJECT.CODE (RO): Code of the last injection; 0xFF none -/
def SAFE_INJECT_CODE : Fld := ⟨R.SAFE_INJECT, 0, 8⟩
/-- SAFE_MECH[k]_CFG.REACT (RO): Default reaction: 0x0 REPORT, 0x1 DEGRADE, 0x2 MUTE, 0x3 RESET -/
def SAFE_MECH_CFG_REACT (n : Nat) : Fld := ⟨R.SAFE_MECH_CFG n, 4, 2⟩
/-- SAFE_MECH[k]_CFG.ESCALATE (RW): React with MUTE under R415; reads 0 and ignores writes where REACT = RESET -/
def SAFE_MECH_CFG_ESCALATE (n : Nat) : Fld := ⟨R.SAFE_MECH_CFG n, 1, 1⟩
/-- SAFE_MECH[k]_CFG.PIN_EN (RW for k = 0x11–0x14): Latched fault holds SAFE_FAULT_N under R420 -/
def SAFE_MECH_CFG_PIN_EN (n : Nat) : Fld := ⟨R.SAFE_MECH_CFG n, 0, 1⟩
/-- SAFE_MECH[k]_STAT.ACTIVE (RO): R418 -/
def SAFE_MECH_STAT_ACTIVE (n : Nat) : Fld := ⟨R.SAFE_MECH_STAT n, 31, 1⟩
/-- SAFE_MECH[k]_STAT.LATCHED (RO): Set at detection; cleared under R416 or R418 -/
def SAFE_MECH_STAT_LATCHED (n : Nat) : Fld := ⟨R.SAFE_MECH_STAT n, 30, 1⟩
/-- SAFE_MECH[k]_STAT.COUNT (RC): Detections, including suppressed ones, saturating -/
def SAFE_MECH_STAT_COUNT (n : Nat) : Fld := ⟨R.SAFE_MECH_STAT n, 0, 16⟩
/-- SLAB[n]_OWNER.OWNER_SUB (RO): Port number for APORT; 0 otherwise -/
def SLAB_OWNER_OWNER_SUB (n : Nat) : Fld := ⟨R.SLAB_OWNER n, 4, 4⟩
/-- SLAB[n]_OWNER.OWNER (RO): Owner code under R431 -/
def SLAB_OWNER_OWNER (n : Nat) : Fld := ⟨R.SLAB_OWNER n, 0, 4⟩
/-- SLAB[n]_HANDOVER.NEW_SUB (WO): OWNER_SUB requested -/
def SLAB_HANDOVER_NEW_SUB (n : Nat) : Fld := ⟨R.SLAB_HANDOVER n, 4, 4⟩
/-- SLAB[n]_HANDOVER.NEW_OWNER (WO): Owner requested under R433 -/
def SLAB_HANDOVER_NEW_OWNER (n : Nat) : Fld := ⟨R.SLAB_HANDOVER n, 0, 4⟩
/-- SLAB[n]_STATUS.TEST_FAIL (W1C): March failure under R438 -/
def SLAB_STATUS_TEST_FAIL (n : Nat) : Fld := ⟨R.SLAB_STATUS n, 5, 1⟩
/-- SLAB[n]_STATUS.UNCORR (W1C): Uncorrectable word under R436 -/
def SLAB_STATUS_UNCORR (n : Nat) : Fld := ⟨R.SLAB_STATUS n, 4, 1⟩
/-- SLAB[n]_STATUS.OWN_VIOL (W1C): R432 -/
def SLAB_STATUS_OWN_VIOL (n : Nat) : Fld := ⟨R.SLAB_STATUS n, 3, 1⟩
/-- SLAB[n]_STATUS.HO_REJECT (W1C): Handover dropped under R433 -/
def SLAB_STATUS_HO_REJECT (n : Nat) : Fld := ⟨R.SLAB_STATUS n, 2, 1⟩
/-- SLAB[n]_STATUS.DRAINING (RO): Handover draining -/
def SLAB_STATUS_DRAINING (n : Nat) : Fld := ⟨R.SLAB_STATUS n, 1, 1⟩
/-- SLAB[n]_STATUS.HANDOVER_DONE (RO): No handover pending -/
def SLAB_STATUS_HANDOVER_DONE (n : Nat) : Fld := ⟨R.SLAB_STATUS n, 0, 1⟩
/-- SLAB[n]_ECC.UNCORR_CNT (RC): Uncorrectable words read, saturating -/
def SLAB_ECC_UNCORR_CNT (n : Nat) : Fld := ⟨R.SLAB_ECC n, 16, 16⟩
/-- SLAB[n]_ECC.CORR_CNT (RC): Corrected reads and scrubs, saturating -/
def SLAB_ECC_CORR_CNT (n : Nat) : Fld := ⟨R.SLAB_ECC n, 0, 16⟩
/-- SLAB[n]_VIOL.AGENT (RO): Owner code of the violating agent -/
def SLAB_VIOL_AGENT (n : Nat) : Fld := ⟨R.SLAB_VIOL n, 28, 4⟩
/-- SLAB[n]_VIOL.WRITE (RO): 1 write; 0 read -/
def SLAB_VIOL_WRITE (n : Nat) : Fld := ⟨R.SLAB_VIOL n, 27, 1⟩
/-- SLAB[n]_VIOL.VIOL_CNT (RC): Violations, saturating -/
def SLAB_VIOL_VIOL_CNT (n : Nat) : Fld := ⟨R.SLAB_VIOL n, 16, 8⟩
/-- SLAB[n]_VIOL.WORD (RO): 64-bit word offset of the first violation -/
def SLAB_VIOL_WORD (n : Nat) : Fld := ⟨R.SLAB_VIOL n, 0, 16⟩
/-- SLAB[n]_REPAIR.COL_B (RO): Second field-repaired column; 0xFF none -/
def SLAB_REPAIR_COL_B (n : Nat) : Fld := ⟨R.SLAB_REPAIR n, 24, 8⟩
/-- SLAB[n]_REPAIR.COL_A (RO): First field-repaired column; 0xFF none -/
def SLAB_REPAIR_COL_A (n : Nat) : Fld := ⟨R.SLAB_REPAIR n, 16, 8⟩
/-- SLAB[n]_REPAIR.WORST_COL (RO): Column with most corrections since reset; 0xFF none -/
def SLAB_REPAIR_WORST_COL (n : Nat) : Fld := ⟨R.SLAB_REPAIR n, 8, 8⟩
/-- SLAB[n]_REPAIR.WORST_CNT (RO): Its corrections, saturating -/
def SLAB_REPAIR_WORST_CNT (n : Nat) : Fld := ⟨R.SLAB_REPAIR n, 0, 8⟩
/-- MEMIF_CTRL.BANK_SCRUB_EN (RW): Bank-memory patrol under R441 -/
def MEMIF_CTRL_BANK_SCRUB_EN : Fld := ⟨R.MEMIF_CTRL, 2, 1⟩
/-- MEMIF_CTRL.MARCH_EN (RW): Transparent march test under R438 -/
def MEMIF_CTRL_MARCH_EN : Fld := ⟨R.MEMIF_CTRL, 1, 1⟩
/-- MEMIF_CTRL.SCRUB_EN (RW): Slab scrubber under R437 -/
def MEMIF_CTRL_SCRUB_EN : Fld := ⟨R.MEMIF_CTRL, 0, 1⟩
/-- MEMIF_STATUS.BANK_STATE (RO): 0x0 OFF, 0x1 TRAINING, 0x2 UP, 0x3 SELF_REFRESH, 0x4 UNAVAILABLE -/
def MEMIF_STATUS_BANK_STATE : Fld := ⟨R.MEMIF_STATUS, 28, 4⟩
/-- MEMIF_STATUS.NOR_STATE (RO): 0x0 DISCOVERING, 0x1 READY, 0x2 BUSY, 0x3 FAILED -/
def MEMIF_STATUS_NOR_STATE : Fld := ⟨R.MEMIF_STATUS, 24, 4⟩
/-- MEMIF_STATUS.TEST_STARVED (W1C): R438 -/
def MEMIF_STATUS_TEST_STARVED : Fld := ⟨R.MEMIF_STATUS, 3, 1⟩
/-- MEMIF_STATUS.SCRUB_STARVED (W1C): R437 -/
def MEMIF_STATUS_SCRUB_STARVED : Fld := ⟨R.MEMIF_STATUS, 2, 1⟩
/-- MEMIF_STATUS.NOR_ERR (W1C): A NOR write or read-back failed -/
def MEMIF_STATUS_NOR_ERR : Fld := ⟨R.MEMIF_STATUS, 1, 1⟩
/-- MEMIF_STATUS.BANK_UNCORR (W1C): R441 -/
def MEMIF_STATUS_BANK_UNCORR : Fld := ⟨R.MEMIF_STATUS, 0, 1⟩
/-- MEMIF_BANK_SIZE.USABLE_MIB (RO): Usable capacity under R440 -/
def MEMIF_BANK_SIZE_USABLE_MIB : Fld := ⟨R.MEMIF_BANK_SIZE, 16, 16⟩
/-- MEMIF_BANK_SIZE.DELAY_MIB (RO): Zone-delay region -/
def MEMIF_BANK_SIZE_DELAY_MIB : Fld := ⟨R.MEMIF_BANK_SIZE, 0, 16⟩
/-- MEMIF_BANK_ECC.UNCORR_CNT (RC): Uncorrectable words, saturating -/
def MEMIF_BANK_ECC_UNCORR_CNT : Fld := ⟨R.MEMIF_BANK_ECC, 16, 16⟩
/-- MEMIF_BANK_ECC.CORR_CNT (RC): Corrected words, saturating -/
def MEMIF_BANK_ECC_CORR_CNT : Fld := ⟨R.MEMIF_BANK_ECC, 0, 16⟩
/-- MEMIF_BANK_ERR_PAGE.VALID (RO): PAGE holds a page -/
def MEMIF_BANK_ERR_PAGE_VALID : Fld := ⟨R.MEMIF_BANK_ERR_PAGE, 31, 1⟩
/-- MEMIF_BANK_ERR_PAGE.PAGE (RO): 4 KiB page of the last uncorrectable word -/
def MEMIF_BANK_ERR_PAGE_PAGE : Fld := ⟨R.MEMIF_BANK_ERR_PAGE, 0, 20⟩
/-- MEMIF_SCRUB.SLAB_HOURS (RO): Hours into the current slab scrub pass, saturating -/
def MEMIF_SCRUB_SLAB_HOURS : Fld := ⟨R.MEMIF_SCRUB, 24, 8⟩
/-- MEMIF_SCRUB.MARCH_HOURS (RO): Hours since the oldest window was tested, saturating -/
def MEMIF_SCRUB_MARCH_HOURS : Fld := ⟨R.MEMIF_SCRUB, 16, 8⟩
/-- MEMIF_SCRUB.BANK_HOURS (RO): Hours into the current bank patrol, saturating -/
def MEMIF_SCRUB_BANK_HOURS : Fld := ⟨R.MEMIF_SCRUB, 8, 8⟩
/-- MEMIF_SCRUB.RETRY_WIN (RO): March windows awaiting retry, saturating -/
def MEMIF_SCRUB_RETRY_WIN : Fld := ⟨R.MEMIF_SCRUB, 0, 8⟩
/-- MEMIF_NOR_ID.JEDEC_ID (RO): Manufacturer and device ID from 0x9F -/
def MEMIF_NOR_ID_JEDEC_ID : Fld := ⟨R.MEMIF_NOR_ID, 0, 24⟩
/-- MEMIF_NOR_CFG.SIZE_MIB (RO): Density, 32–256 -/
def MEMIF_NOR_CFG_SIZE_MIB : Fld := ⟨R.MEMIF_NOR_CFG, 16, 16⟩
/-- MEMIF_NOR_CFG.SFDP_REV (RO): SFDP major in [15:12], minor in [11:8] -/
def MEMIF_NOR_CFG_SFDP_REV : Fld := ⟨R.MEMIF_NOR_CFG, 8, 8⟩
/-- MEMIF_NOR_CFG.SLOW (RW): NOR_SCK at 50 MHz under R443 -/
def MEMIF_NOR_CFG_SLOW : Fld := ⟨R.MEMIF_NOR_CFG, 4, 1⟩
/-- MEMIF_NOR_CFG.QUAD (RO): 1-4-4 read in use -/
def MEMIF_NOR_CFG_QUAD : Fld := ⟨R.MEMIF_NOR_CFG, 3, 1⟩
/-- MEMIF_NOR_CFG.ADDR4 (RO): 4-byte addressing in use -/
def MEMIF_NOR_CFG_ADDR4 : Fld := ⟨R.MEMIF_NOR_CFG, 2, 1⟩
/-- MEMIF_REGION[r]_BASE.OFFSET (RO): Byte offset of copy A -/
def MEMIF_REGION_BASE_OFFSET (n : Nat) : Fld := ⟨R.MEMIF_REGION_BASE n, 0, 32⟩
/-- MEMIF_REGION[r]_SIZE.COPIES (RO): 1 or 2 -/
def MEMIF_REGION_SIZE_COPIES (n : Nat) : Fld := ⟨R.MEMIF_REGION_SIZE n, 24, 8⟩
/-- MEMIF_REGION[r]_SIZE.KIB (RO): Size per copy in KiB -/
def MEMIF_REGION_SIZE_KIB (n : Nat) : Fld := ⟨R.MEMIF_REGION_SIZE n, 0, 24⟩
/-- MEMIF_REGION[r]_STAT.VALID_A (RO): Copy A valid under R445 -/
def MEMIF_REGION_STAT_VALID_A (n : Nat) : Fld := ⟨R.MEMIF_REGION_STAT n, 31, 1⟩
/-- MEMIF_REGION[r]_STAT.VALID_B (RO): Copy B valid -/
def MEMIF_REGION_STAT_VALID_B (n : Nat) : Fld := ⟨R.MEMIF_REGION_STAT n, 30, 1⟩
/-- MEMIF_REGION[r]_STAT.ACTIVE (RO): Copy in use: 0 A, 1 B -/
def MEMIF_REGION_STAT_ACTIVE (n : Nat) : Fld := ⟨R.MEMIF_REGION_STAT n, 29, 1⟩
/-- MEMIF_REGION[r]_STAT.WRITING (RO): An update or log write is in progress -/
def MEMIF_REGION_STAT_WRITING (n : Nat) : Fld := ⟨R.MEMIF_REGION_STAT n, 28, 1⟩
/-- MEMIF_REGION[r]_STAT.ERASE_CNT (RO): Highest sector erase count in the region, saturating -/
def MEMIF_REGION_STAT_ERASE_CNT (n : Nat) : Fld := ⟨R.MEMIF_REGION_STAT n, 0, 16⟩
/-- TIM[n]_CTRL.RUN (RO): Running under R446 and R449 -/
def TIM_CTRL_RUN (n : Nat) : Fld := ⟨R.TIM_CTRL n, 31, 1⟩
/-- TIM[n]_CTRL.LULL_RUN (RWL): R457 -/
def TIM_CTRL_LULL_RUN (n : Nat) : Fld := ⟨R.TIM_CTRL n, 30, 1⟩
/-- TIM[n]_CTRL.WAKE (RWL): Events wake from Lull -/
def TIM_CTRL_WAKE (n : Nat) : Fld := ⟨R.TIM_CTRL n, 29, 1⟩
/-- TIM[n]_CTRL.EVT_EN (RW): Post TIM_EVENT under R456 -/
def TIM_CTRL_EVT_EN (n : Nat) : Fld := ⟨R.TIM_CTRL n, 28, 1⟩
/-- TIM[n]_CTRL.TGT (RWL): Linked timer for ACT codes 0x2 and 0x4 -/
def TIM_CTRL_TGT (n : Nat) : Fld := ⟨R.TIM_CTRL n, 24, 4⟩
/-- TIM[n]_CTRL.ACT (RWL): ACT of channel c at [10 + 3c : 8 + 3c], under R451 -/
def TIM_CTRL_ACT (n : Nat) : Fld := ⟨R.TIM_CTRL n, 8, 12⟩
/-- TIM[n]_CTRL.PERIOD_IMM (RW): R452 -/
def TIM_CTRL_PERIOD_IMM (n : Nat) : Fld := ⟨R.TIM_CTRL n, 0, 1⟩
/-- TIM[n]_CLK.PRESCALE (RWL): Count every PRESCALE + 1 clocks -/
def TIM_CLK_PRESCALE (n : Nat) : Fld := ⟨R.TIM_CLK n, 16, 16⟩
/-- TIM[n]_CLK.TIN_EDGE (RWL): 0x0 rising, 0x1 falling, 0x2 both; 0x3 acts as 0x0 -/
def TIM_CLK_TIN_EDGE (n : Nat) : Fld := ⟨R.TIM_CLK n, 6, 2⟩
/-- TIM[n]_CLK.TIN (RWL): TIN pin for SRC 0x3 -/
def TIM_CLK_TIN (n : Nat) : Fld := ⟨R.TIM_CLK n, 4, 2⟩
/-- TIM[n]_CLK.SRC (RWL): R447 -/
def TIM_CLK_SRC (n : Nat) : Fld := ⟨R.TIM_CLK n, 0, 3⟩
/-- TIM[n]_GATE.EN (RWL): Gate under R448 -/
def TIM_GATE_EN (n : Nat) : Fld := ⟨R.TIM_GATE n, 31, 1⟩
/-- TIM[n]_GATE.LEVEL (RWL): Count while the gate signal is this level -/
def TIM_GATE_LEVEL (n : Nat) : Fld := ⟨R.TIM_GATE n, 30, 1⟩
/-- TIM[n]_GATE.KIND (RWL): 0x0 contact ACTIVE, 0x1 TIN pin, 0x2 timer output; 0x3 undefined -/
def TIM_GATE_KIND (n : Nat) : Fld := ⟨R.TIM_GATE n, 28, 2⟩
/-- TIM[n]_GATE.INDEX (RWL): Contact, pin or timer -/
def TIM_GATE_INDEX (n : Nat) : Fld := ⟨R.TIM_GATE n, 16, 4⟩
/-- TIM[n]_LINK.EN (RWL): R449 -/
def TIM_LINK_EN (n : Nat) : Fld := ⟨R.TIM_LINK n, 31, 1⟩
/-- TIM[n]_LINK.ACTION (RWL): 0x0 GATE, 0x1 RESET, 0x2 START, 0x3 STOP, 0x4 CLOCK; others undefined -/
def TIM_LINK_ACTION (n : Nat) : Fld := ⟨R.TIM_LINK n, 24, 3⟩
/-- TIM[n]_LINK.SRC (RWL): Source timer -/
def TIM_LINK_SRC (n : Nat) : Fld := ⟨R.TIM_LINK n, 16, 4⟩
/-- TIM[n]_LINK.EVENT (RWL): 0x0 overflow, 0x1–0x4 compare 0–3; others undefined -/
def TIM_LINK_EVENT (n : Nat) : Fld := ⟨R.TIM_LINK n, 0, 3⟩
/-- TIM[n]_PERIOD.PERIOD (RW): Last value written; in force unless PPEND = 1 -/
def TIM_PERIOD_PERIOD (n : Nat) : Fld := ⟨R.TIM_PERIOD n, 0, 32⟩
/-- TIM[n]_COUNT.COUNT (RWL): Counter; a write never matches -/
def TIM_COUNT_COUNT (n : Nat) : Fld := ⟨R.TIM_COUNT n, 0, 32⟩
/-- TIM[n]_STATUS.ARMED (RO): Bit c: channel c armed under R450 and R451 -/
def TIM_STATUS_ARMED (n : Nat) : Fld := ⟨R.TIM_STATUS n, 16, 4⟩
/-- TIM[n]_STATUS.CMP_UNREACH (RO): Bit c: CMP[c] above the PERIOD in force -/
def TIM_STATUS_CMP_UNREACH (n : Nat) : Fld := ⟨R.TIM_STATUS n, 12, 4⟩
/-- TIM[n]_STATUS.PPEND (RO): Shadowed PERIOD pending -/
def TIM_STATUS_PPEND (n : Nat) : Fld := ⟨R.TIM_STATUS n, 11, 1⟩
/-- TIM[n]_STATUS.GATED (RO): Gate closed -/
def TIM_STATUS_GATED (n : Nat) : Fld := ⟨R.TIM_STATUS n, 10, 1⟩
/-- TIM[n]_STATUS.PSKIP (W1C): R452 -/
def TIM_STATUS_PSKIP (n : Nat) : Fld := ⟨R.TIM_STATUS n, 9, 1⟩
/-- TIM[n]_STATUS.CMP_HIT (W1C): Bit c: channel c matched -/
def TIM_STATUS_CMP_HIT (n : Nat) : Fld := ⟨R.TIM_STATUS n, 4, 4⟩
/-- TIM[n]_STATUS.OVF (W1C): Period event -/
def TIM_STATUS_OVF (n : Nat) : Fld := ⟨R.TIM_STATUS n, 0, 1⟩
/-- TIM[n]_OUT.EN (RWL): Drive TOUT[PIN] -/
def TIM_OUT_EN (n : Nat) : Fld := ⟨R.TIM_OUT n, 31, 1⟩
/-- TIM[n]_OUT.MODE (RWL): 0 TOGGLE, 1 PULSE -/
def TIM_OUT_MODE (n : Nat) : Fld := ⟨R.TIM_OUT n, 30, 1⟩
/-- TIM[n]_OUT.LEVEL (RO): Output level under R455 -/
def TIM_OUT_LEVEL (n : Nat) : Fld := ⟨R.TIM_OUT n, 29, 1⟩
/-- TIM[n]_OUT.INIT (RWL): Level at start -/
def TIM_OUT_INIT (n : Nat) : Fld := ⟨R.TIM_OUT n, 28, 1⟩
/-- TIM[n]_OUT.PIN (RWL): TOUT pin -/
def TIM_OUT_PIN (n : Nat) : Fld := ⟨R.TIM_OUT n, 24, 2⟩
/-- TIM[n]_OUT.PULSE (RWL): Pulse width in µs; 0 acts as 1 -/
def TIM_OUT_PULSE (n : Nat) : Fld := ⟨R.TIM_OUT n, 16, 8⟩
/-- TIM[n]_OUT.EVENTS (RWL): Bit 0 overflow; bit c + 1 compare c -/
def TIM_OUT_EVENTS (n : Nat) : Fld := ⟨R.TIM_OUT n, 0, 5⟩
/-- TIM[n]_CMP[c].CMP (RW): Compare value; a write arms the channel -/
def TIM_CMP_CMP (n c : Nat) : Fld := ⟨R.TIM_CMP n c, 0, 32⟩
/-- TIM[n]_INTERVAL[c].INTERVAL (RW): Added under R451 -/
def TIM_INTERVAL_INTERVAL (n c : Nat) : Fld := ⟨R.TIM_INTERVAL n c, 0, 32⟩
/-- CONTACT_CTRL.WAKE_EN (RW): Bit n: a new class of CT[n] wakes from Lull -/
def CONTACT_CTRL_WAKE_EN : Fld := ⟨R.CONTACT_CTRL, 16, 16⟩
/-- CONTACT_CTRL.SENSE_EN (RW): Bit n: CT[n] senses under R458 -/
def CONTACT_CTRL_SENSE_EN : Fld := ⟨R.CONTACT_CTRL, 0, 16⟩
/-- CONTACT_STATE.CLASS (RO): CT[n] at [2n + 1 : 2n]: 0x0 NORMAL, 0x1 ACTIVE, 0x2 OPEN, 0x3 SHORT -/
def CONTACT_STATE_CLASS : Fld := ⟨R.CONTACT_STATE, 0, 32⟩
/-- CONTACT_EVT.FAULT (W1C): Bit n: CT[n] took OPEN or SHORT -/
def CONTACT_EVT_FAULT : Fld := ⟨R.CONTACT_EVT, 16, 16⟩
/-- CONTACT_EVT.CHANGE (W1C): Bit n: CT[n] took a new class -/
def CONTACT_EVT_CHANGE : Fld := ⟨R.CONTACT_EVT, 0, 16⟩
/-- CONTACT_OUT.LULL_OUT (RW): Bit n: keep the level in Lull -/
def CONTACT_OUT_LULL_OUT : Fld := ⟨R.CONTACT_OUT, 16, 16⟩
/-- CONTACT_OUT.LEVEL (RO): Bit n: driven at 3.3 V; set by CONTACT.SET_OUT -/
def CONTACT_OUT_LEVEL : Fld := ⟨R.CONTACT_OUT, 0, 16⟩
/-- CONTACT_STRAP.STRAP_MISMATCH (RO): Image not restored under R463 -/
def CONTACT_STRAP_STRAP_MISMATCH : Fld := ⟨R.CONTACT_STRAP, 4, 1⟩
/-- CONTACT_STRAP.SAFE_BOOT (RO): CT[3] -/
def CONTACT_STRAP_SAFE_BOOT : Fld := ⟨R.CONTACT_STRAP, 3, 1⟩
/-- CONTACT_STRAP.COURSE_HINT (RO): CT[2] -/
def CONTACT_STRAP_COURSE_HINT : Fld := ⟨R.CONTACT_STRAP, 2, 1⟩
/-- CONTACT_STRAP.SPI_MODE (RO): CT[1] -/
def CONTACT_STRAP_SPI_MODE : Fld := ⟨R.CONTACT_STRAP, 1, 1⟩
/-- CONTACT_STRAP.BOOT_SRC (RO): CT[0] -/
def CONTACT_STRAP_BOOT_SRC : Fld := ⟨R.CONTACT_STRAP, 0, 1⟩
/-- CONTACT_FRAMES.COUNT (RO): Sense windows since reset; wraps -/
def CONTACT_FRAMES_COUNT : Fld := ⟨R.CONTACT_FRAMES, 0, 32⟩
/-- CONTACT_LAST.CONTACT (RO): Contact of the last new class -/
def CONTACT_LAST_CONTACT : Fld := ⟨R.CONTACT_LAST, 4, 4⟩
/-- CONTACT_LAST.OLD (RO): Its previous class -/
def CONTACT_LAST_OLD : Fld := ⟨R.CONTACT_LAST, 2, 2⟩
/-- CONTACT_LAST.NEW (RO): Its new class -/
def CONTACT_LAST_NEW : Fld := ⟨R.CONTACT_LAST, 0, 2⟩
/-- CONTACT_CHG_CNT.COUNT (RO): New classes taken on all contacts; wraps -/
def CONTACT_CHG_CNT_COUNT : Fld := ⟨R.CONTACT_CHG_CNT, 0, 32⟩
/-- CT[n]_THRESH.TH_OPEN (RW): R459 -/
def CT_THRESH_TH_OPEN (n : Nat) : Fld := ⟨R.CT_THRESH n, 24, 8⟩
/-- CT[n]_THRESH.TH_NORM (RW): R459 -/
def CT_THRESH_TH_NORM (n : Nat) : Fld := ⟨R.CT_THRESH n, 16, 8⟩
/-- CT[n]_THRESH.TH_ACT (RW): R459 -/
def CT_THRESH_TH_ACT (n : Nat) : Fld := ⟨R.CT_THRESH n, 8, 8⟩
/-- CT[n]_THRESH.TH_SHORT (RW): R459 -/
def CT_THRESH_TH_SHORT (n : Nat) : Fld := ⟨R.CT_THRESH n, 0, 8⟩
/-- CT[n]_STAT.FAULT_CNT (RC): OPEN or SHORT taken, saturating -/
def CT_STAT_FAULT_CNT (n : Nat) : Fld := ⟨R.CT_STAT n, 16, 16⟩
/-- CT[n]_STAT.RUN (RO): Consecutive readings of the candidate class, 0–2 -/
def CT_STAT_RUN (n : Nat) : Fld := ⟨R.CT_STAT n, 12, 2⟩
/-- CT[n]_STAT.CANDIDATE (RO): Class being confirmed under R460 -/
def CT_STAT_CANDIDATE (n : Nat) : Fld := ⟨R.CT_STAT n, 10, 2⟩
/-- CT[n]_STAT.CODE (RO): Last reading -/
def CT_STAT_CODE (n : Nat) : Fld := ⟨R.CT_STAT n, 0, 8⟩
/-- UART[n]_CTRL.EN (RW): Port enabled under R469 -/
def UART_CTRL_EN (n : Nat) : Fld := ⟨R.UART_CTRL n, 31, 1⟩
/-- UART[n]_CTRL.FRAMED (RWL): UART[1]: framed KCP under R478 -/
def UART_CTRL_FRAMED (n : Nat) : Fld := ⟨R.UART_CTRL n, 30, 1⟩
/-- UART[n]_CTRL.WAKE_EN (RWL): R477 -/
def UART_CTRL_WAKE_EN (n : Nat) : Fld := ⟨R.UART_CTRL n, 29, 1⟩
/-- UART[n]_CTRL.IR_EN (RWL): UART[0]: IrDA under R472 -/
def UART_CTRL_IR_EN (n : Nat) : Fld := ⟨R.UART_CTRL n, 28, 1⟩
/-- UART[n]_CTRL.IR_PULSE (RWL): 0 3/16 bit; 1 fixed 1.63 µs -/
def UART_CTRL_IR_PULSE (n : Nat) : Fld := ⟨R.UART_CTRL n, 27, 1⟩
/-- UART[n]_CTRL.FLOW_TX (RWL): R470 -/
def UART_CTRL_FLOW_TX (n : Nat) : Fld := ⟨R.UART_CTRL n, 26, 1⟩
/-- UART[n]_CTRL.FLOW_RX (RWL): R471 -/
def UART_CTRL_FLOW_RX (n : Nat) : Fld := ⟨R.UART_CTRL n, 25, 1⟩
/-- UART[n]_CTRL.DE_EN (RWL): UART[1]: R473 -/
def UART_CTRL_DE_EN (n : Nat) : Fld := ⟨R.UART_CTRL n, 24, 1⟩
/-- UART[n]_CTRL.ECHO_SUPP (RWL): R473 -/
def UART_CTRL_ECHO_SUPP (n : Nat) : Fld := ⟨R.UART_CTRL n, 23, 1⟩
/-- UART[n]_CTRL.STOP2 (RWL): 2 stop bits -/
def UART_CTRL_STOP2 (n : Nat) : Fld := ⟨R.UART_CTRL n, 3, 1⟩
/-- UART[n]_CTRL.PARITY (RWL): 0x0 none, 0x1 even, 0x2 odd; 0x3 undefined -/
def UART_CTRL_PARITY (n : Nat) : Fld := ⟨R.UART_CTRL n, 1, 2⟩
/-- UART[n]_CTRL.DATA8 (RWL): 1 8 data bits; 0 7 -/
def UART_CTRL_DATA8 (n : Nat) : Fld := ⟨R.UART_CTRL n, 0, 1⟩
/-- UART[n]_BAUD.DIV (RWL): R466; 52–40,000 -/
def UART_BAUD_DIV (n : Nat) : Fld := ⟨R.UART_BAUD n, 0, 16⟩
/-- UART[n]_FLOW.XOFF_BT (RWL): R471 -/
def UART_FLOW_XOFF_BT (n : Nat) : Fld := ⟨R.UART_FLOW n, 16, 8⟩
/-- UART[n]_FLOW.XOFF_CHAR (RWL): XOFF character -/
def UART_FLOW_XOFF_CHAR (n : Nat) : Fld := ⟨R.UART_FLOW n, 8, 8⟩
/-- UART[n]_FLOW.XON_CHAR (RWL): XON character -/
def UART_FLOW_XON_CHAR (n : Nat) : Fld := ⟨R.UART_FLOW n, 0, 8⟩
/-- UART[n]_DE.DE_LEAD (RWL): Ticks before the start bit -/
def UART_DE_DE_LEAD (n : Nat) : Fld := ⟨R.UART_DE n, 8, 8⟩
/-- UART[n]_DE.DE_TAIL (RWL): Ticks after the last stop bit -/
def UART_DE_DE_TAIL (n : Nat) : Fld := ⟨R.UART_DE n, 0, 8⟩
/-- UART[n]_RXD.VALID (RC): A character is held -/
def UART_RXD_VALID (n : Nat) : Fld := ⟨R.UART_RXD n, 15, 1⟩
/-- UART[n]_RXD.BRK (RO): R475 -/
def UART_RXD_BRK (n : Nat) : Fld := ⟨R.UART_RXD n, 10, 1⟩
/-- UART[n]_RXD.PE (RO): Parity error -/
def UART_RXD_PE (n : Nat) : Fld := ⟨R.UART_RXD n, 9, 1⟩
/-- UART[n]_RXD.FE (RO): Framing error -/
def UART_RXD_FE (n : Nat) : Fld := ⟨R.UART_RXD n, 8, 1⟩
/-- UART[n]_RXD.CHAR (RO): Character -/
def UART_RXD_CHAR (n : Nat) : Fld := ⟨R.UART_RXD n, 0, 8⟩
/-- UART[n]_TXD.CHAR (WO): Character to send under R469 -/
def UART_TXD_CHAR (n : Nat) : Fld := ⟨R.UART_TXD n, 0, 8⟩
/-- UART[n]_STATUS.LINE_LOW (RO): Receive line at 0 -/
def UART_STATUS_LINE_LOW (n : Nat) : Fld := ⟨R.UART_STATUS n, 11, 1⟩
/-- UART[n]_STATUS.TX_BUSY (RO): Shifter sending -/
def UART_STATUS_TX_BUSY (n : Nat) : Fld := ⟨R.UART_STATUS n, 10, 1⟩
/-- UART[n]_STATUS.TXD_FULL (RO): TXD holds a character -/
def UART_STATUS_TXD_FULL (n : Nat) : Fld := ⟨R.UART_STATUS n, 9, 1⟩
/-- UART[n]_STATUS.TX_PAUSED (RO): R470 -/
def UART_STATUS_TX_PAUSED (n : Nat) : Fld := ⟨R.UART_STATUS n, 8, 1⟩
/-- UART[n]_STATUS.WAKE_LOST (W1C): R477 -/
def UART_STATUS_WAKE_LOST (n : Nat) : Fld := ⟨R.UART_STATUS n, 7, 1⟩
/-- UART[n]_STATUS.LINE_STUCK (W1C): R476 -/
def UART_STATUS_LINE_STUCK (n : Nat) : Fld := ⟨R.UART_STATUS n, 6, 1⟩
/-- UART[n]_STATUS.BRK (W1C): R475 -/
def UART_STATUS_BRK (n : Nat) : Fld := ⟨R.UART_STATUS n, 5, 1⟩
/-- UART[n]_STATUS.FALSE_START (W1C): R467 -/
def UART_STATUS_FALSE_START (n : Nat) : Fld := ⟨R.UART_STATUS n, 4, 1⟩
/-- UART[n]_STATUS.PE (W1C): A character had PE -/
def UART_STATUS_PE (n : Nat) : Fld := ⟨R.UART_STATUS n, 3, 1⟩
/-- UART[n]_STATUS.FE (W1C): A character had FE -/
def UART_STATUS_FE (n : Nat) : Fld := ⟨R.UART_STATUS n, 2, 1⟩
/-- UART[n]_STATUS.OVR (W1C): R468 -/
def UART_STATUS_OVR (n : Nat) : Fld := ⟨R.UART_STATUS n, 1, 1⟩
/-- UART[n]_ERRCNT.OVR_CNT (RC): Overruns, saturating -/
def UART_ERRCNT_OVR_CNT (n : Nat) : Fld := ⟨R.UART_ERRCNT n, 16, 16⟩
/-- UART[n]_ERRCNT.FE_CNT (RC): Framing errors, saturating -/
def UART_ERRCNT_FE_CNT (n : Nat) : Fld := ⟨R.UART_ERRCNT n, 0, 16⟩
/-- UART[n]_LINECNT.FALSE_CNT (RC): False starts, saturating -/
def UART_LINECNT_FALSE_CNT (n : Nat) : Fld := ⟨R.UART_LINECNT n, 24, 8⟩
/-- UART[n]_LINECNT.BRK_CNT (RC): Breaks, saturating -/
def UART_LINECNT_BRK_CNT (n : Nat) : Fld := ⟨R.UART_LINECNT n, 16, 8⟩
/-- UART[n]_LINECNT.PE_CNT (RC): Parity errors, saturating -/
def UART_LINECNT_PE_CNT (n : Nat) : Fld := ⟨R.UART_LINECNT n, 0, 16⟩
/-- UART[n]_RX_CNT.COUNT (RO): Characters received; wraps -/
def UART_RX_CNT_COUNT (n : Nat) : Fld := ⟨R.UART_RX_CNT n, 0, 32⟩
/-- UART[n]_TX_CNT.COUNT (RO): Characters sent, including flow control; wraps -/
def UART_TX_CNT_COUNT (n : Nat) : Fld := ⟨R.UART_TX_CNT n, 0, 32⟩
/-- UART[n]_FLOWCNT.XOFF_RX_CNT (RC): XOFF characters received, saturating -/
def UART_FLOWCNT_XOFF_RX_CNT (n : Nat) : Fld := ⟨R.UART_FLOWCNT n, 16, 16⟩
/-- UART[n]_FLOWCNT.XOFF_TX_CNT (RC): XOFF characters sent, saturating -/
def UART_FLOWCNT_XOFF_TX_CNT (n : Nat) : Fld := ⟨R.UART_FLOWCNT n, 0, 16⟩
/-- AGE_CTRL.EN (RW): Monitor runs under R494 -/
def AGE_CTRL_EN : Fld := ⟨R.AGE_CTRL, 31, 1⟩
/-- AGE_CTRL.AVS_EN (RW): Voltage steps over PMBus under R495 -/
def AGE_CTRL_AVS_EN : Fld := ⟨R.AGE_CTRL, 30, 1⟩
/-- AGE_CTRL.REPAIR_EN (RW): Column repair under R498 -/
def AGE_CTRL_REPAIR_EN : Fld := ⟨R.AGE_CTRL, 29, 1⟩
/-- AGE_CTRL.TRIM_EN (RW): Re-trim under R498 -/
def AGE_CTRL_TRIM_EN : Fld := ⟨R.AGE_CTRL, 28, 1⟩
/-- AGE_CTRL.DERATE_MIN (RW): Minimum ECLK steps, 0–4; above 4 acts as 4 -/
def AGE_CTRL_DERATE_MIN : Fld := ⟨R.AGE_CTRL, 24, 4⟩
/-- AGE_CTRL.PMB_ADDR (RW): 7-bit PMBus address of the VDD_CORE regulator -/
def AGE_CTRL_PMB_ADDR : Fld := ⟨R.AGE_CTRL, 8, 7⟩
/-- AGE_CTRL.VOUT_EXP (RW): ULINEAR16 exponent, s5; reset −12 -/
def AGE_CTRL_VOUT_EXP : Fld := ⟨R.AGE_CTRL, 0, 5⟩
/-- AGE_STATUS.PLAN_STATE (RO): 0x0 NOMINAL, 0x1 VOLTAGE, 0x2 DERATE_PENDING, 0x3 DERATED, 0x4 EXHAUSTED -/
def AGE_STATUS_PLAN_STATE : Fld := ⟨R.AGE_STATUS, 28, 4⟩
/-- AGE_STATUS.CANARY_FAIL (RO): Canaries failing at the last read, 0–32 -/
def AGE_STATUS_CANARY_FAIL : Fld := ⟨R.AGE_STATUS, 8, 8⟩
/-- AGE_STATUS.AVS_ERR (W1C): R495 -/
def AGE_STATUS_AVS_ERR : Fld := ⟨R.AGE_STATUS, 7, 1⟩
/-- AGE_STATUS.CANARY (W1C): A canary failed -/
def AGE_STATUS_CANARY : Fld := ⟨R.AGE_STATUS, 6, 1⟩
/-- AGE_STATUS.REPAIR_DUE (RO): R498 -/
def AGE_STATUS_REPAIR_DUE : Fld := ⟨R.AGE_STATUS, 5, 1⟩
/-- AGE_STATUS.TRIM_DUE (RO): R498 -/
def AGE_STATUS_TRIM_DUE : Fld := ⟨R.AGE_STATUS, 4, 1⟩
/-- AGE_STATUS.DERATED_EVT (W1C): A clock step was planned -/
def AGE_STATUS_DERATED_EVT : Fld := ⟨R.AGE_STATUS, 3, 1⟩
/-- AGE_STATUS.VSTEP_EVT (W1C): A voltage step was taken -/
def AGE_STATUS_VSTEP_EVT : Fld := ⟨R.AGE_STATUS, 2, 1⟩
/-- AGE_PLAN.ECLK_MHZ (RO): ECLK in force -/
def AGE_PLAN_ECLK_MHZ : Fld := ⟨R.AGE_PLAN, 16, 16⟩
/-- AGE_PLAN.ECLK_STEPS (RO): Clock steps taken, 0–4 -/
def AGE_PLAN_ECLK_STEPS : Fld := ⟨R.AGE_PLAN, 8, 8⟩
/-- AGE_PLAN.VDD_STEPS (RO): Voltage steps taken, 0–12 -/
def AGE_PLAN_VDD_STEPS : Fld := ⟨R.AGE_PLAN, 0, 8⟩
/-- AGE_VDD.TARGET_MV (RO): VDD_CORE target in force -/
def AGE_VDD_TARGET_MV : Fld := ⟨R.AGE_VDD, 16, 12⟩
/-- AGE_VDD.INITIAL_MV (RO): Target set at manufacture -/
def AGE_VDD_INITIAL_MV : Fld := ⟨R.AGE_VDD, 0, 12⟩
/-- AGE_PMBUS.STATUS_WORD (RO): Last STATUS_WORD read -/
def AGE_PMBUS_STATUS_WORD : Fld := ⟨R.AGE_PMBUS, 16, 16⟩
/-- AGE_PMBUS.VOUT_MV (RO): Last READ_VOUT in mV -/
def AGE_PMBUS_VOUT_MV : Fld := ⟨R.AGE_PMBUS, 0, 12⟩
/-- AGE_LIMITS.MARGIN_LOW (RW): Slack in ps below which a step is taken under R496 -/
def AGE_LIMITS_MARGIN_LOW : Fld := ⟨R.AGE_LIMITS, 24, 8⟩
/-- AGE_LIMITS.COL_LIMIT (RW): Corrections per 24 h that call for a repair -/
def AGE_LIMITS_COL_LIMIT : Fld := ⟨R.AGE_LIMITS, 16, 8⟩
/-- AGE_LIMITS.TRIM_LSB (RW): Segment drift in LSB at 18 bits that calls for a trim -/
def AGE_LIMITS_TRIM_LSB : Fld := ⟨R.AGE_LIMITS, 8, 8⟩
/-- AGE_LIMITS.RELEASE_S (RW): Wait before release under R497, in 10 s units -/
def AGE_LIMITS_RELEASE_S : Fld := ⟨R.AGE_LIMITS, 0, 8⟩
/-- AGE_LOG.WRAPPED (RO): The log has overwritten records -/
def AGE_LOG_WRAPPED : Fld := ⟨R.AGE_LOG, 31, 1⟩
/-- AGE_LOG.NEXT (RO): Index of the next record written, 0–131,071 -/
def AGE_LOG_NEXT : Fld := ⟨R.AGE_LOG, 0, 17⟩
/-- AGE_HOURS.HOURS (RO): Power-on hours since manufacture, Lull included -/
def AGE_HOURS_HOURS : Fld := ⟨R.AGE_HOURS, 0, 32⟩
/-- AGE_THERM[k].TJ_ODD (RO): Diode 2k + 1, s16 in 1/16 °C -/
def AGE_THERM_TJ_ODD (n : Nat) : Fld := ⟨R.AGE_THERM n, 16, 16⟩
/-- AGE_THERM[k].TJ_EVEN (RO): Diode 2k, s16 in 1/16 °C -/
def AGE_THERM_TJ_EVEN (n : Nat) : Fld := ⟨R.AGE_THERM n, 0, 16⟩
/-- AGE_RING[k].SLACK_MIN (RO): Lowest slack this hour, in ps, saturating -/
def AGE_RING_SLACK_MIN (n : Nat) : Fld := ⟨R.AGE_RING n, 16, 16⟩
/-- AGE_RING[k].SLACK (RO): Slack at the last read, in ps, saturating -/
def AGE_RING_SLACK (n : Nat) : Fld := ⟨R.AGE_RING n, 0, 16⟩
/-- SYS_ID.ID (RO): Copy of HOST_ID -/
def SYS_ID_ID : Fld := ⟨R.SYS_ID, 0, 32⟩
/-- SYS_STATE.PSTATE (RO): HOST_STATUS codes -/
def SYS_STATE_PSTATE : Fld := ⟨R.SYS_STATE, 28, 4⟩
/-- SYS_STATE.RESET_KIND (RO): Last reset, HOST_STATUS codes -/
def SYS_STATE_RESET_KIND : Fld := ⟨R.SYS_STATE, 24, 4⟩
/-- SYS_STATE.CONFIG_VALID (RO): A valid configuration image is stored under R488 -/
def SYS_STATE_CONFIG_VALID : Fld := ⟨R.SYS_STATE, 0, 1⟩
/-- SYS_LULL.PPS_WAKE (RW): PPS_IN edges wake from Lull under R491; always-on configuration -/
def SYS_LULL_PPS_WAKE : Fld := ⟨R.SYS_LULL, 0, 1⟩
/-- SYS_UPTIME.SECONDS (RO): Seconds since POR, from LCLK; saturates -/
def SYS_UPTIME_SECONDS : Fld := ⟨R.SYS_UPTIME, 0, 32⟩
/-- SYS_DEVID_LO.DEVID (RO): Bytes 0–3 and 4–7 of the 8-byte device ID used by SAFE.DEBUG_UNLOCK -/
def SYS_DEVID_LO_DEVID : Fld := ⟨R.SYS_DEVID_LO, 0, 32⟩
/-- SYS_DEVID_HI.DEVID (RO): Bytes 0–3 and 4–7 of the 8-byte device ID used by SAFE.DEBUG_UNLOCK -/
def SYS_DEVID_HI_DEVID : Fld := ⟨R.SYS_DEVID_HI, 0, 32⟩
/-- SYS_FW.FW_VERSION (RO): As SYS.GET_CAPS word 7, from READY on -/
def SYS_FW_FW_VERSION : Fld := ⟨R.SYS_FW, 0, 32⟩
/-- SYS_BOOT.COPY_B (RO): Firmware copy B booted under R445 -/
def SYS_BOOT_COPY_B : Fld := ⟨R.SYS_BOOT, 31, 1⟩
/-- SYS_BOOT.BOOT_MS (RO): Release of reset to READY in the last boot, in ms -/
def SYS_BOOT_BOOT_MS : Fld := ⟨R.SYS_BOOT, 0, 16⟩
/-- SYS_WAKE.SRC (RO): Last wake: 0x0 none, 0x1 contact, 0x2 UART, 0x3 HOST_CS_N, 0x4 timer, 0x5 PPS_IN, 0x6 Squa -/
def SYS_WAKE_SRC : Fld := ⟨R.SYS_WAKE, 28, 4⟩
/-- SYS_WAKE.WAKE_MS (RO): Registration to READY, in ms -/
def SYS_WAKE_WAKE_MS : Fld := ⟨R.SYS_WAKE, 0, 16⟩
/-- SYS_LULL_CNT.COUNT (RO): Lull entries; seconds in Lull; FAULT entries; seconds in RUN. Counts wrap; seconds saturat -/
def SYS_LULL_CNT_COUNT : Fld := ⟨R.SYS_LULL_CNT, 0, 32⟩
/-- SYS_LULL_SECS.COUNT (RO): Lull entries; seconds in Lull; FAULT entries; seconds in RUN. Counts wrap; seconds saturat -/
def SYS_LULL_SECS_COUNT : Fld := ⟨R.SYS_LULL_SECS, 0, 32⟩
/-- SYS_FAULT_CNT.COUNT (RO): Lull entries; seconds in Lull; FAULT entries; seconds in RUN. Counts wrap; seconds saturat -/
def SYS_FAULT_CNT_COUNT : Fld := ⟨R.SYS_FAULT_CNT, 0, 32⟩
/-- SYS_RUN_SECS.COUNT (RO): Lull entries; seconds in Lull; FAULT entries; seconds in RUN. Counts wrap; seconds saturat -/
def SYS_RUN_SECS_COUNT : Fld := ⟨R.SYS_RUN_SECS, 0, 32⟩
/-- SYS_CAPS[k].CAPS (RO): Word k of the SYS.GET_CAPS response -/
def SYS_CAPS_CAPS (n : Nat) : Fld := ⟨R.SYS_CAPS n, 0, 32⟩
/-- SYS_RESETS[k].COUNT (RO): Resets of kind k, in the HOST_STATUS codes 0x1–0x4, with k = 5 for BLOCK; wraps -/
def SYS_RESETS_COUNT (n : Nat) : Fld := ⟨R.SYS_RESETS n, 0, 32⟩
/-- SYS_CMD_CNT[c].COUNT (RO): Commands taken on channel c, numbered as in CMD_DONE; wraps -/
def SYS_CMD_CNT_COUNT (n : Nat) : Fld := ⟨R.SYS_CMD_CNT n, 0, 32⟩
/-- STRK_CTRL.EVENT (RO): Timer event, as SNAP.SET_SOURCES w1 [6:4] -/
def STRK_CTRL_EVENT : Fld := ⟨R.STRK_CTRL, 12, 3⟩
/-- STRK_CTRL.TIMER (RO): Timer source -/
def STRK_CTRL_TIMER : Fld := ⟨R.STRK_CTRL, 8, 4⟩
/-- STRK_CTRL.EN (RO): Source enables under R502, set by SNAP.SET_SOURCES -/
def STRK_CTRL_EN : Fld := ⟨R.STRK_CTRL, 0, 5⟩
/-- STRK_MATCH_LO.MT (RO): Match MT bits [31:0] and [63:32] -/
def STRK_MATCH_LO_MT : Fld := ⟨R.STRK_MATCH_LO, 0, 32⟩
/-- STRK_MATCH_HI.MT (RO): Match MT bits [31:0] and [63:32] -/
def STRK_MATCH_HI_MT : Fld := ⟨R.STRK_MATCH_HI, 0, 32⟩
/-- STRK_SLAB.EN (RW): Copy a slab window under R506 -/
def STRK_SLAB_EN : Fld := ⟨R.STRK_SLAB, 31, 1⟩
/-- STRK_SLAB.SLAB (RW): Slab -/
def STRK_SLAB_SLAB : Fld := ⟨R.STRK_SLAB, 8, 5⟩
/-- STRK_SLAB.WINDOW (RW): 4 KiB window, 0–127 -/
def STRK_SLAB_WINDOW : Fld := ⟨R.STRK_SLAB, 0, 7⟩
/-- STRK_STATUS.MATCH_PAST (W1C): R502 -/
def STRK_STATUS_MATCH_PAST : Fld := ⟨R.STRK_STATUS, 18, 1⟩
/-- STRK_STATUS.LATE (W1C): A site Strike latched late under R503 -/
def STRK_STATUS_LATE : Fld := ⟨R.STRK_STATUS, 17, 1⟩
/-- STRK_STATUS.BUSY (RO): A set is being written -/
def STRK_STATUS_BUSY : Fld := ⟨R.STRK_STATUS, 16, 1⟩
/-- STRK_STATUS.SEQ (RO): Sequence number of the newest Strike -/
def STRK_STATUS_SEQ : Fld := ⟨R.STRK_STATUS, 0, 16⟩
/-- STRK_COUNT.MERGED (RC): Triggers merged under R504, saturating -/
def STRK_COUNT_MERGED : Fld := ⟨R.STRK_COUNT, 16, 16⟩
/-- STRK_COUNT.DROPPED (RC): Sets abandoned under R507, saturating -/
def STRK_COUNT_DROPPED : Fld := ⟨R.STRK_COUNT, 0, 16⟩
/-- STRK_TOTAL.COUNT (RO): Strikes since reset; wraps -/
def STRK_TOTAL_COUNT : Fld := ⟨R.STRK_TOTAL, 0, 32⟩
/-- STRK_IN.LEVEL (RO): STRIKE_IN now -/
def STRK_IN_LEVEL : Fld := ⟨R.STRK_IN, 31, 1⟩
/-- STRK_IN.EDGES (RO): Rising edges registered; wraps -/
def STRK_IN_EDGES : Fld := ⟨R.STRK_IN, 0, 16⟩
/-- STRK_HELD[h]_ID.HDR (RO): Word 0 of the Strike header under R509 -/
def STRK_HELD_ID_HDR (n : Nat) : Fld := ⟨R.STRK_HELD_ID n, 0, 32⟩
/-- STRK_HELD[h]_MT_LO.MT (RO): S bits [31:0] and [63:32] -/
def STRK_HELD_MT_LO_MT (n : Nat) : Fld := ⟨R.STRK_HELD_MT_LO n, 0, 32⟩
/-- STRK_HELD[h]_MT_HI.MT (RO): S bits [31:0] and [63:32] -/
def STRK_HELD_MT_HI_MT (n : Nat) : Fld := ⟨R.STRK_HELD_MT_HI n, 0, 32⟩
/-- STRK_HELD[h]_ORIGIN.OSEQ (RO): The origin's sequence number -/
def STRK_HELD_ORIGIN_OSEQ (n : Nat) : Fld := ⟨R.STRK_HELD_ORIGIN n, 0, 16⟩

end F

/-- The rows of the TIME block. -/
def rowsTime : List RegRow := [
  ⟨0x11000, 1, 0x4, 1, 0x4, 0x00000100, 0x10f, 0x0, 0x0, 0x0, 0x0, 0x0⟩,
  ⟨0x11004, 1, 0x4, 1, 0x4, 0x03000000, 0x0, 0x0, 0x0, 0x0, 0x0, 0x0⟩,
  ⟨0x11008, 1, 0x4, 1, 0x4, 0x00002000, 0x0, 0x0, 0x0, 0x0, 0x0, 0x0⟩,
  ⟨0x1100c, 1, 0x4, 1, 0x4, 0x00000000, 0x0, 0x0, 0x0, 0x0, 0x0, 0x0⟩,
  ⟨0x11010, 1, 0x4, 1, 0x4, 0x00000000, 0x0, 0x0, 0x0, 0x0, 0x0, 0x0⟩,
  ⟨0x11014, 1, 0x4, 1, 0x4, 0x00000000, 0x0, 0x0, 0x0, 0x0, 0x0, 0x0⟩,
  ⟨0x11018, 1, 0x4, 1, 0x4, 0x00000003, 0x0, 0x0, 0x0, 0x0, 0x0, 0x0⟩,
  ⟨0x1101c, 1, 0x4, 1, 0x4, 0x00060003, 0x0, 0x0, 0x0, 0x0, 0x0, 0x0⟩,
  ⟨0x11020, 1, 0x4, 1, 0x4, 0x00000000, 0xffffffff, 0x0, 0x0, 0x0, 0x0, 0x0⟩,
  ⟨0x11024, 1, 0x4, 1, 0x4, 0x00000000, 0xffffffff, 0x0, 0x0, 0x0, 0x0, 0x0⟩,
  ⟨0x11028, 1, 0x4, 1, 0x4, 0x00000000, 0x1, 0x0, 0x0, 0x80000000, 0x0, 0x0⟩,
  ⟨0x1102c, 1, 0x4, 1, 0x4, 0x00000000, 0x0, 0x0, 0x0, 0x0, 0x0, 0x0⟩,
  ⟨0x11030, 1, 0x4, 1, 0x4, 0x00000000, 0x0, 0x0, 0x0, 0x0, 0x0, 0x0⟩,
  ⟨0x11034, 1, 0x4, 1, 0x4, 0x00000000, 0x0, 0x0, 0xff, 0x0, 0x0, 0x0⟩,
  ⟨0x11038, 1, 0x4, 1, 0x4, 0x00000000, 0x0, 0x0, 0x0, 0x0, 0x0, 0x0⟩,
  ⟨0x1103c, 1, 0x4, 1, 0x4, 0x00000000, 0x0, 0x0, 0x0, 0x0, 0x0, 0x0⟩,
  ⟨0x11100, 4, 0x20, 1, 0x4, 0x000003e8, 0x8fffffff, 0x0, 0x0, 0x0, 0x0, 0x0⟩,
  ⟨0x11104, 4, 0x20, 1, 0x4, 0x00000000, 0x0, 0x0, 0x0, 0x0, 0x0, 0x0⟩,
  ⟨0x11108, 4, 0x20, 1, 0x4, 0x00000000, 0x0, 0x0, 0x0, 0x0, 0x0, 0x0⟩,
  ⟨0x1110c, 4, 0x20, 1, 0x4, 0x00000000, 0x0, 0x0, 0x0, 0x0, 0x0, 0x0⟩,
  ⟨0x11110, 4, 0x20, 1, 0x4, 0x00000000, 0x0, 0x0, 0x0, 0x0, 0x0, 0x0⟩,
  ⟨0x11114, 4, 0x20, 1, 0x4, 0x00000000, 0x0, 0x0, 0x0, 0x0, 0xffffffff, 0x0⟩,
  ⟨0x11118, 4, 0x20, 1, 0x4, 0x00000000, 0x0, 0x0, 0x0, 0x0, 0x0, 0x0⟩,
  ⟨0x1111c, 4, 0x20, 1, 0x4, 0x00000000, 0x0, 0x0, 0x0, 0x0, 0x0, 0x0⟩]

/-- The rows of the DISP block. -/
def rowsDisp : List RegRow := [
  ⟨0x12000, 1, 0x4, 1, 0x4, 0x00000008, 0x7f, 0x0, 0x0, 0x0, 0x0, 0x0⟩,
  ⟨0x12004, 1, 0x4, 1, 0x4, 0x00000000, 0x0, 0x0, 0x18, 0x0, 0x0, 0x0⟩,
  ⟨0x12008, 1, 0x4, 1, 0x4, 0x00000210, 0x777, 0x0, 0x0, 0x0, 0x0, 0x0⟩,
  ⟨0x1200c, 1, 0x4, 1, 0x4, 0x00f142ee, 0xfffffff, 0x0, 0x0, 0x0, 0x0, 0x0⟩,
  ⟨0x12010, 1, 0x4, 1, 0x4, 0x20000000, 0xaff0003f, 0x0, 0x0, 0x0, 0xff00, 0x0⟩,
  ⟨0x12014, 1, 0x4, 1, 0x4, 0xba451616, 0xffffffff, 0x0, 0x0, 0x0, 0x0, 0x0⟩,
  ⟨0x12018, 1, 0x4, 1, 0x4, 0xff000000, 0xffffffff, 0x0, 0x0, 0x0, 0x0, 0x0⟩,
  ⟨0x1201c, 1, 0x4, 1, 0x4, 0xff000000, 0xffffffff, 0x0, 0x0, 0x0, 0x0, 0x0⟩,
  ⟨0x12020, 1, 0x4, 1, 0x4, 0x00000000, 0xffffffff, 0x0, 0x0, 0x0, 0x0, 0x0⟩,
  ⟨0x12024, 1, 0x4, 1, 0x4, 0x2fc00040, 0x0, 0x0, 0x0, 0x0, 0x0, 0x0⟩,
  ⟨0x12028, 1, 0x4, 1, 0x4, 0x00000000, 0x0, 0x0, 0x0, 0x0, 0x0, 0x0⟩,
  ⟨0x1202c, 1, 0x4, 1, 0x4, 0x00000000, 0x0, 0x0, 0x0, 0x0, 0xff00, 0x0⟩,
  ⟨0x12030, 1, 0x4, 1, 0x4, 0x00000000, 0x0, 0x0, 0x0, 0x0, 0x0, 0x0⟩,
  ⟨0x12034, 1, 0x4, 1, 0x4, 0x00000000, 0x0, 0x0, 0x0, 0x0, 0x0, 0x0⟩,
  ⟨0x12038, 1, 0x4, 1, 0x4, 0x00000000, 0x0, 0x0, 0x0, 0x0, 0x0, 0x0⟩,
  ⟨0x1203c, 1, 0x4, 1, 0x4, 0x00000000, 0x0, 0x0, 0x0, 0x0, 0x0, 0x0⟩,
  ⟨0x12080, 16, 0x8, 1, 0x4, 0x00000000, 0x0, 0x0, 0x0, 0x0, 0xffff0000, 0x0⟩,
  ⟨0x12084, 16, 0x8, 1, 0x4, 0x00000000, 0x0, 0x0, 0x0, 0x0, 0x0, 0x0⟩,
  ⟨0x12100, 8, 0x8, 1, 0x4, 0x00000000, 0xffe00000, 0x0, 0x0, 0x0, 0x0, 0x0⟩,
  ⟨0x12104, 8, 0x8, 1, 0x4, 0x0000ffff, 0x0, 0x0, 0x0, 0x0, 0xffff0000, 0x0⟩]

/-- The rows of the MIX block. -/
def rowsMix : List RegRow := [
  ⟨0x30000, 1, 0x4, 1, 0x4, 0x00000001, 0x1, 0x0, 0x0, 0x0, 0x0, 0x0⟩,
  ⟨0x30004, 1, 0x4, 1, 0x4, 0x00000000, 0x0, 0x0, 0x1e, 0x0, 0x0, 0x0⟩,
  ⟨0x30008, 1, 0x4, 1, 0x4, 0x00000000, 0x0, 0x0, 0x0, 0x0, 0x0, 0x0⟩,
  ⟨0x3000c, 1, 0x4, 1, 0x4, 0x10030000, 0x0, 0x0, 0x0, 0x0, 0x0, 0x0⟩,
  ⟨0x30010, 1, 0x4, 1, 0x4, 0x00000000, 0x0, 0x0, 0x0, 0x0, 0x3ffff, 0x0⟩,
  ⟨0x30014, 1, 0x4, 1, 0x4, 0x00000000, 0x0, 0x0, 0x0, 0x0, 0x0, 0x0⟩,
  ⟨0x30018, 1, 0x4, 1, 0x4, 0x00000000, 0x0, 0x0, 0x0, 0x0, 0x0, 0x0⟩,
  ⟨0x3001c, 1, 0x4, 1, 0x4, 0x00000000, 0x0, 0x0, 0x0, 0x0, 0xffffffff, 0x0⟩,
  ⟨0x30020, 1, 0x4, 1, 0x4, 0x00000000, 0x0, 0x0, 0x0, 0x0, 0xff00, 0x0⟩,
  ⟨0x30024, 1, 0x4, 1, 0x4, 0x00000000, 0x0, 0x0, 0x0, 0x0, 0x0, 0x0⟩,
  ⟨0x30028, 1, 0x4, 1, 0x4, 0x00000000, 0x0, 0x0, 0x0, 0x0, 0x0, 0x0⟩,
  ⟨0x3002c, 1, 0x4, 1, 0x4, 0x00000000, 0x0, 0x0, 0x0, 0x0, 0x0, 0x0⟩,
  ⟨0x30030, 1, 0x4, 1, 0x4, 0x00003fff, 0x0, 0x0, 0x0, 0x0, 0x0, 0x0⟩,
  ⟨0x30034, 1, 0x4, 1, 0x4, 0x00000000, 0x0, 0x0, 0x0, 0x0, 0xffffffff, 0x0⟩,
  ⟨0x30038, 1, 0x4, 1, 0x4, 0x00000000, 0x0, 0x0, 0x0, 0x0, 0x0, 0x0⟩,
  ⟨0x3003c, 1, 0x4, 1, 0x4, 0x00000000, 0x0, 0x0, 0x0, 0x0, 0x0, 0x0⟩,
  ⟨0x30040, 16, 0x4, 1, 0x4, 0x00000000, 0x0, 0x0, 0xffffffff, 0x0, 0x0, 0x0⟩,
  ⟨0x30080, 16, 0x4, 1, 0x4, 0x00000000, 0x0, 0x0, 0x0, 0x0, 0x0, 0x0⟩]

/-- The rows of the ZONE block. -/
def rowsZone : List RegRow := [
  ⟨0x34000, 256, 0x10, 1, 0x4, 0x00000000, 0x87e0ff00, 0x0, 0x0, 0x0, 0x0, 0x0⟩,
  ⟨0x34004, 256, 0x10, 1, 0x4, 0x000f0014, 0xff00ff, 0x0, 0x0, 0x0, 0x0, 0x0⟩,
  ⟨0x34008, 256, 0x10, 1, 0x4, 0x00000ff0, 0x0, 0x0, 0x600000, 0x0, 0x0, 0x0⟩]

/-- The rows of the BRICK block. -/
def rowsBrick : List RegRow := [
  ⟨0x20000, 66, 0x100, 1, 0x4, 0x80000000, 0x0, 0x0, 0x0, 0x0, 0x0, 0x0⟩,
  ⟨0x20004, 66, 0x100, 1, 0x4, 0x00000000, 0x0, 0x0, 0x0, 0x0, 0xff0000, 0x0⟩,
  ⟨0x20008, 66, 0x100, 1, 0x4, 0x00800000, 0x0, 0x0, 0x0, 0x0, 0x0, 0x0⟩,
  ⟨0x2000c, 66, 0x100, 1, 0x4, 0x80010000, 0x0, 0x0, 0x0, 0x0, 0x0, 0x0⟩,
  ⟨0x20010, 66, 0x100, 1, 0x4, 0x00000000, 0x0, 0x0, 0xfff, 0x0, 0x0, 0x0⟩,
  ⟨0x20014, 66, 0x100, 1, 0x4, 0x00000000, 0x0, 0x0, 0x0, 0x0, 0xffff0000, 0x0⟩,
  ⟨0x20018, 66, 0x100, 1, 0x4, 0x00000000, 0x0, 0x0, 0x0, 0x0, 0x0, 0x0⟩,
  ⟨0x2001c, 66, 0x100, 1, 0x4, 0x00000000, 0x0, 0x0, 0x0, 0x0, 0xffffffff, 0x0⟩]

/-- The rows of the HOST block. -/
def rowsHost : List RegRow := [
  ⟨0x00000, 1, 0x4, 1, 0x4, 0x81920101, 0x0, 0x0, 0x0, 0x0, 0x0, 0x0⟩,
  ⟨0x00004, 1, 0x4, 1, 0x4, 0x10000000, 0x0, 0x0, 0x0, 0x0, 0x0, 0x0⟩,
  ⟨0x00008, 1, 0x4, 1, 0x4, 0x00000000, 0x0, 0x0, 0xef, 0x0, 0x0, 0x0⟩,
  ⟨0x0000c, 1, 0x4, 1, 0x4, 0x00000000, 0xff, 0x0, 0x0, 0x0, 0x0, 0x0⟩,
  ⟨0x00010, 1, 0x4, 1, 0x4, 0x00000000, 0x0, 0x0, 0x3e, 0x0, 0x0, 0x8000⟩,
  ⟨0x00014, 1, 0x4, 1, 0x4, 0x00000000, 0x0, 0x0, 0x0, 0x0, 0x0, 0x0⟩,
  ⟨0x00018, 1, 0x4, 1, 0x4, 0x00000000, 0x0, 0x0, 0x0, 0x0, 0x0, 0x0⟩,
  ⟨0x0001c, 1, 0x4, 1, 0x4, 0x00000000, 0x0, 0x0, 0x0, 0x0, 0x0, 0x0⟩,
  ⟨0x00020, 4, 0x10, 1, 0x4, 0x00000000, 0x0, 0x0, 0x0, 0x0, 0x0, 0xffff0003⟩,
  ⟨0x00024, 4, 0x10, 1, 0x4, 0x00000000, 0x0, 0x0, 0x0, 0x0, 0x0, 0x0⟩,
  ⟨0x00028, 4, 0x10, 1, 0x4, 0x00000000, 0x0, 0x0, 0x0, 0x0, 0x0, 0x0⟩,
  ⟨0x0002c, 4, 0x10, 1, 0x4, 0x00000000, 0x0, 0x0, 0x0, 0x1, 0x0, 0x0⟩,
  ⟨0x00060, 1, 0x4, 1, 0x4, 0x00000000, 0x0, 0x0, 0x0, 0x0, 0x0, 0x0⟩,
  ⟨0x00064, 1, 0x4, 1, 0x4, 0x00000000, 0x0, 0x0, 0x0, 0x0, 0x0, 0x1ff⟩,
  ⟨0x00068, 1, 0x4, 1, 0x4, 0x00000000, 0x0, 0x0, 0x0, 0x0, 0x0, 0x0⟩,
  ⟨0x0006c, 1, 0x4, 1, 0x4, 0x00000000, 0x1, 0x0, 0x0, 0x0, 0x0, 0x0⟩,
  ⟨0x00070, 1, 0x4, 1, 0x4, 0x00000000, 0x0, 0x0, 0x0, 0x0, 0x0, 0x0⟩,
  ⟨0x00074, 1, 0x4, 1, 0x4, 0x00000000, 0x0, 0x0, 0x0, 0x0, 0x0, 0x0⟩,
  ⟨0x00078, 1, 0x4, 1, 0x4, 0x00000003, 0x0, 0x0, 0x0, 0x0, 0x0, 0x0⟩,
  ⟨0x0007c, 1, 0x4, 1, 0x4, 0x00000000, 0xffffffff, 0x0, 0x0, 0x0, 0x0, 0x0⟩]

/-- The rows of the STRM block. -/
def rowsStrm : List RegRow := [
  ⟨0x4a000, 1, 0x4, 1, 0x4, 0x00000202, 0x3, 0x300, 0x0, 0x0, 0x0, 0x0⟩,
  ⟨0x4a004, 1, 0x4, 1, 0x4, 0x00000000, 0x0, 0x0, 0xe, 0x0, 0x0, 0x0⟩,
  ⟨0x4a008, 1, 0x4, 1, 0x4, 0x00000000, 0x0, 0x0, 0x0, 0x0, 0x0, 0x0⟩,
  ⟨0x4a00c, 1, 0x4, 1, 0x4, 0x00000000, 0x0, 0x0, 0x0, 0x0, 0x0, 0x0⟩,
  ⟨0x4a010, 1, 0x4, 1, 0x4, 0x00000000, 0x0, 0x0, 0x0, 0x0, 0xffffffff, 0x0⟩,
  ⟨0x4a014, 1, 0x4, 1, 0x4, 0x00000000, 0x0, 0x0, 0x0, 0x0, 0xffffffff, 0x0⟩,
  ⟨0x4a018, 1, 0x4, 1, 0x4, 0x00000000, 0x0, 0x0, 0x0, 0x0, 0x0, 0x0⟩,
  ⟨0x4a01c, 1, 0x4, 1, 0x4, 0x00000000, 0x0, 0x0, 0x0, 0x0, 0xff00, 0x0⟩,
  ⟨0x4a040, 4, 0x10, 1, 0x4, 0x00000040, 0x0, 0xff, 0x0, 0x0, 0x0, 0x0⟩,
  ⟨0x4a044, 4, 0x10, 1, 0x4, 0x00000000, 0x0, 0x0, 0x0, 0x0, 0x0, 0x0⟩,
  ⟨0x4a048, 4, 0x10, 1, 0x4, 0x00000000, 0x0, 0x0, 0x0, 0x0, 0x0, 0x0⟩,
  ⟨0x4a04c, 4, 0x10, 1, 0x4, 0x00000000, 0x0, 0x0, 0x0, 0x0, 0x0, 0x0⟩,
  ⟨0x4a100, 8, 0x8, 1, 0x4, 0x00000000, 0x0, 0x0, 0x0, 0x0, 0xffff0000, 0x0⟩,
  ⟨0x4a104, 8, 0x8, 1, 0x4, 0x00000000, 0x0, 0x0, 0x0, 0x0, 0x0, 0x0⟩]

/-- The rows of the CRSE block. -/
def rowsCrse : List RegRow := [
  ⟨0x4b000, 1, 0x4, 1, 0x4, 0x00000000, 0x8200, 0xd07, 0x0, 0x0, 0x0, 0x0⟩,
  ⟨0x4b004, 1, 0x4, 1, 0x4, 0x00000000, 0x0, 0x0, 0xd8, 0x0, 0x0, 0x0⟩,
  ⟨0x4b008, 1, 0x4, 1, 0x4, 0x00000000, 0x0, 0x0, 0x0, 0x0, 0x0, 0x0⟩,
  ⟨0x4b00c, 1, 0x4, 1, 0x4, 0x00000000, 0x0, 0x0, 0x0, 0x0, 0x0, 0x0⟩,
  ⟨0x4b010, 1, 0x4, 1, 0x4, 0x00000000, 0x0, 0x0, 0x4000000, 0x0, 0x0, 0x0⟩,
  ⟨0x4b014, 1, 0x4, 1, 0x4, 0x00000000, 0x0, 0x0, 0x0, 0x0, 0xffffffff, 0x0⟩,
  ⟨0x4b018, 1, 0x4, 1, 0x4, 0x00000000, 0x0, 0x0, 0x0, 0x0, 0x0, 0x0⟩,
  ⟨0x4b01c, 1, 0x4, 1, 0x4, 0x00000000, 0x0, 0x0, 0x0, 0x0, 0xffffffff, 0x0⟩,
  ⟨0x4b040, 2, 0x20, 1, 0x4, 0x00000000, 0x0, 0x0, 0x0, 0x0, 0x0, 0x0⟩,
  ⟨0x4b044, 2, 0x20, 1, 0x4, 0x00000000, 0x0, 0x0, 0x0, 0x0, 0xffffffff, 0x0⟩,
  ⟨0x4b048, 2, 0x20, 1, 0x4, 0x00000000, 0x0, 0x0, 0x0, 0x0, 0x0, 0x0⟩,
  ⟨0x4b04c, 2, 0x20, 1, 0x4, 0x00000000, 0x0, 0x0, 0x0, 0x0, 0x0, 0x0⟩,
  ⟨0x4b100, 8, 0x10, 1, 0x4, 0x00000000, 0x0, 0x0, 0x0, 0x0, 0x0, 0x0⟩,
  ⟨0x4b104, 8, 0x10, 1, 0x4, 0x00000000, 0x0, 0x0, 0x0, 0x0, 0x0, 0x0⟩,
  ⟨0x4b108, 8, 0x10, 1, 0x4, 0x00000000, 0x0, 0x0, 0x0, 0x0, 0x0, 0x0⟩,
  ⟨0x4b10c, 8, 0x10, 1, 0x4, 0x00000000, 0x0, 0x0, 0x0, 0x0, 0x0, 0x0⟩]

/-- The rows of the APORT block. -/
def rowsAport : List RegRow := [
  ⟨0x44000, 8, 0x80, 1, 0x4, 0x00000000, 0x0, 0x3b, 0x0, 0x0, 0x0, 0x0⟩,
  ⟨0x44004, 8, 0x80, 1, 0x4, 0x00011080, 0x0, 0x73fcf, 0x0, 0x0, 0x0, 0x0⟩,
  ⟨0x44008, 8, 0x80, 1, 0x4, 0x00000000, 0x0, 0x1fffff, 0x0, 0x0, 0x0, 0x0⟩,
  ⟨0x4400c, 8, 0x80, 1, 0x4, 0x00000400, 0x0, 0xffff, 0x0, 0x0, 0x0, 0x0⟩,
  ⟨0x44010, 8, 0x80, 1, 0x4, 0x00002020, 0xffff, 0x0, 0x0, 0x0, 0x0, 0x0⟩,
  ⟨0x44014, 8, 0x80, 1, 0x4, 0x00000000, 0x0, 0x0, 0xfe, 0x0, 0x0, 0x0⟩,
  ⟨0x44018, 8, 0x80, 1, 0x4, 0x00000000, 0x0, 0x0, 0x0, 0x0, 0x0, 0x0⟩,
  ⟨0x4401c, 8, 0x80, 1, 0x4, 0x00000000, 0x0, 0x0, 0x0, 0x0, 0x0, 0x0⟩,
  ⟨0x44020, 8, 0x80, 1, 0x4, 0x00000000, 0x0, 0x0, 0x0, 0x0, 0x0, 0x0⟩,
  ⟨0x44024, 8, 0x80, 1, 0x4, 0x00000000, 0x0, 0x0, 0x0, 0x0, 0x0, 0x0⟩,
  ⟨0x44028, 8, 0x80, 1, 0x4, 0x00000000, 0x0, 0x0, 0x0, 0x0, 0x0, 0x0⟩,
  ⟨0x4402c, 8, 0x80, 1, 0x4, 0x0000000a, 0xff, 0x0, 0x0, 0x0, 0x0, 0x0⟩,
  ⟨0x44030, 8, 0x80, 1, 0x4, 0x00000000, 0x0, 0x0, 0x0, 0x0, 0x0, 0x0⟩,
  ⟨0x44034, 8, 0x80, 1, 0x4, 0x00000000, 0x0, 0x0, 0x0, 0x0, 0xffffffff, 0x0⟩,
  ⟨0x44038, 8, 0x80, 1, 0x4, 0x00000000, 0x0, 0x0, 0x0, 0x0, 0xffff, 0x0⟩,
  ⟨0x4403c, 8, 0x80, 1, 0x4, 0x00000000, 0x0, 0x0, 0x0, 0x0, 0xffff0000, 0x0⟩]

/-- The rows of the ANA block. -/
def rowsAna : List RegRow := [
  ⟨0x45000, 64, 0x10, 1, 0x4, 0x08000000, 0x3803ffff, 0x0, 0x0, 0x0, 0x0, 0x0⟩,
  ⟨0x45004, 64, 0x10, 1, 0x4, 0x00000000, 0xffffffff, 0x0, 0x0, 0x0, 0x0, 0x0⟩,
  ⟨0x45008, 64, 0x10, 1, 0x4, 0x00000000, 0x0, 0x0, 0xf0000, 0x0, 0x0, 0x0⟩,
  ⟨0x4500c, 64, 0x10, 1, 0x4, 0x00000000, 0x0, 0x0, 0x0, 0x0, 0xffffffff, 0x0⟩]

/-- The rows of the SUPV block. -/
def rowsSupv : List RegRow := [
  ⟨0x47000, 1, 0x4, 1, 0x4, 0xb0461400, 0xf0ffff00, 0x0, 0x0, 0x0, 0x0, 0x0⟩,
  ⟨0x47004, 1, 0x4, 1, 0x4, 0x00000000, 0x0, 0x0, 0x0, 0x0, 0x0, 0x0⟩,
  ⟨0x47008, 1, 0x4, 1, 0x4, 0x00000000, 0x0, 0x0, 0x0, 0x0, 0x0, 0x0⟩,
  ⟨0x4700c, 1, 0x4, 1, 0x4, 0x00000000, 0x0, 0x0, 0x0, 0x0, 0xffffffff, 0x0⟩,
  ⟨0x47010, 1, 0x4, 1, 0x4, 0x005a05a0, 0x0, 0x0, 0x0, 0x0, 0x0, 0x0⟩,
  ⟨0x47014, 1, 0x4, 1, 0x4, 0x00000000, 0x0, 0x0, 0x0, 0x0, 0x0, 0x0⟩,
  ⟨0x47018, 1, 0x4, 1, 0x4, 0x00000000, 0x0, 0x0, 0x0, 0x0, 0x0, 0x0⟩,
  ⟨0x4701c, 1, 0x4, 1, 0x4, 0x00000000, 0x0, 0x0, 0x0, 0x0, 0x0, 0x0⟩,
  ⟨0x47020, 8, 0x4, 1, 0x4, 0x00000000, 0x0, 0x0, 0x0, 0x0, 0x0, 0x0⟩,
  ⟨0x47040, 32, 0x4, 1, 0x4, 0x00000000, 0x0, 0x0, 0x0, 0x0, 0x0, 0x0⟩]

/-- The rows of the SAFE block. -/
def rowsSafe : List RegRow := [
  ⟨0x46000, 1, 0x4, 1, 0x4, 0x00000064, 0xff, 0x0, 0x0, 0x0, 0x0, 0x0⟩,
  ⟨0x46004, 1, 0x4, 1, 0x4, 0x000000ff, 0x0, 0x0, 0x0, 0x0, 0x0, 0x0⟩,
  ⟨0x46008, 1, 0x4, 1, 0x4, 0x00000000, 0x0, 0x0, 0x0, 0x0, 0x0, 0x0⟩,
  ⟨0x4600c, 1, 0x4, 1, 0x4, 0x00000000, 0x0, 0x0, 0x0, 0x0, 0x0, 0x0⟩,
  ⟨0x46010, 1, 0x4, 1, 0x4, 0x00000000, 0x0, 0x0, 0x0, 0x0, 0x0, 0x0⟩,
  ⟨0x46014, 1, 0x4, 1, 0x4, 0x00001000, 0x0, 0x0, 0x0, 0x0, 0x0, 0x0⟩,
  ⟨0x46018, 1, 0x4, 1, 0x4, 0x00000000, 0x0, 0x0, 0x0, 0x0, 0x0, 0x0⟩,
  ⟨0x4601c, 1, 0x4, 1, 0x4, 0x000000ff, 0x0, 0x0, 0x0, 0x0, 0x0, 0x0⟩,
  ⟨0x46020, 1, 0x4, 1, 0x4, 0x00000000, 0x0, 0x0, 0x0, 0x0, 0x0, 0x0⟩,
  ⟨0x46024, 1, 0x4, 1, 0x4, 0x00000000, 0x0, 0x0, 0x0, 0x0, 0x0, 0x0⟩,
  ⟨0x46028, 1, 0x4, 1, 0x4, 0x00000002, 0x0, 0x0, 0x0, 0x0, 0xff0000, 0x0⟩,
  ⟨0x4602c, 1, 0x4, 1, 0x4, 0x00000010, 0xff, 0x0, 0x0, 0x0, 0xff00, 0x0⟩,
  ⟨0x46030, 1, 0x4, 1, 0x4, 0x00000032, 0x0, 0x0, 0x0, 0x0, 0x0, 0x0⟩,
  ⟨0x46034, 1, 0x4, 1, 0x4, 0x00000000, 0x0, 0x0, 0x1ff, 0x0, 0x0, 0x0⟩,
  ⟨0x46038, 1, 0x4, 1, 0x4, 0x00000000, 0x0, 0x0, 0x0, 0x0, 0x0, 0x0⟩,
  ⟨0x4603c, 1, 0x4, 1, 0x4, 0x000000ff, 0x0, 0x0, 0x0, 0x0, 0x0, 0x0⟩,
  ⟨0x46080, 24, 0x8, 1, 0x4, 0x00000001, 0x2, 0x0, 0x0, 0x0, 0x0, 0x0⟩,
  ⟨0x46084, 24, 0x8, 1, 0x4, 0x00000000, 0x0, 0x0, 0x0, 0x0, 0xffff, 0x0⟩]

/-- The rows of the SLAB block. -/
def rowsSlab : List RegRow := [
  ⟨0x40000, 32, 0x40, 1, 0x4, 0x00000000, 0x0, 0x0, 0x0, 0x0, 0x0, 0x0⟩,
  ⟨0x40004, 32, 0x40, 1, 0x4, 0x00000000, 0x0, 0x0, 0x0, 0x0, 0x0, 0xff⟩,
  ⟨0x40008, 32, 0x40, 1, 0x4, 0x00000001, 0x0, 0x0, 0x3c, 0x0, 0x0, 0x0⟩,
  ⟨0x4000c, 32, 0x40, 1, 0x4, 0x00000000, 0x0, 0x0, 0x0, 0x0, 0xffffffff, 0x0⟩,
  ⟨0x40010, 32, 0x40, 1, 0x4, 0x00000000, 0x0, 0x0, 0x0, 0x0, 0xff0000, 0x0⟩,
  ⟨0x40014, 32, 0x40, 1, 0x4, 0x00000000, 0x0, 0x0, 0x0, 0x0, 0x0, 0x0⟩]

/-- The rows of the MEMIF block. -/
def rowsMemif : List RegRow := [
  ⟨0x4c000, 1, 0x4, 1, 0x4, 0x00000007, 0x7, 0x0, 0x0, 0x0, 0x0, 0x0⟩,
  ⟨0x4c004, 1, 0x4, 1, 0x4, 0x00000000, 0x0, 0x0, 0xf, 0x0, 0x0, 0x0⟩,
  ⟨0x4c008, 1, 0x4, 1, 0x4, 0x0e0000c0, 0x0, 0x0, 0x0, 0x0, 0x0, 0x0⟩,
  ⟨0x4c00c, 1, 0x4, 1, 0x4, 0x00000000, 0x0, 0x0, 0x0, 0x0, 0xffffffff, 0x0⟩,
  ⟨0x4c010, 1, 0x4, 1, 0x4, 0x00000000, 0x0, 0x0, 0x0, 0x0, 0x0, 0x0⟩,
  ⟨0x4c014, 1, 0x4, 1, 0x4, 0x00000000, 0x0, 0x0, 0x0, 0x0, 0x0, 0x0⟩,
  ⟨0x4c018, 1, 0x4, 1, 0x4, 0x00000000, 0x0, 0x0, 0x0, 0x0, 0x0, 0x0⟩,
  ⟨0x4c01c, 1, 0x4, 1, 0x4, 0x00000000, 0x10, 0x0, 0x0, 0x0, 0x0, 0x0⟩,
  ⟨0x4c040, 8, 0x10, 1, 0x4, 0x00000000, 0x0, 0x0, 0x0, 0x0, 0x0, 0x0⟩,
  ⟨0x4c044, 8, 0x10, 1, 0x4, 0x00000000, 0x0, 0x0, 0x0, 0x0, 0x0, 0x0⟩,
  ⟨0x4c048, 8, 0x10, 1, 0x4, 0x00000000, 0x0, 0x0, 0x0, 0x0, 0x0, 0x0⟩]

/-- The rows of the TIM block. -/
def rowsTim : List RegRow := [
  ⟨0x41000, 16, 0x40, 1, 0x4, 0x00000000, 0x10000001, 0x6f0fff00, 0x0, 0x0, 0x0, 0x0⟩,
  ⟨0x41004, 16, 0x40, 1, 0x4, 0x00000000, 0x0, 0xffff00f7, 0x0, 0x0, 0x0, 0x0⟩,
  ⟨0x41008, 16, 0x40, 1, 0x4, 0x00000000, 0x0, 0xf00f0000, 0x0, 0x0, 0x0, 0x0⟩,
  ⟨0x4100c, 16, 0x40, 1, 0x4, 0x00000000, 0x0, 0x870f0007, 0x0, 0x0, 0x0, 0x0⟩,
  ⟨0x41010, 16, 0x40, 1, 0x4, 0xffffffff, 0xffffffff, 0x0, 0x0, 0x0, 0x0, 0x0⟩,
  ⟨0x41014, 16, 0x40, 1, 0x4, 0x00000000, 0x0, 0xffffffff, 0x0, 0x0, 0x0, 0x0⟩,
  ⟨0x41018, 16, 0x40, 1, 0x4, 0x00000000, 0x0, 0x0, 0x2f1, 0x0, 0x0, 0x0⟩,
  ⟨0x4101c, 16, 0x40, 1, 0x4, 0x00000000, 0x0, 0xd3ff001f, 0x0, 0x0, 0x0, 0x0⟩,
  ⟨0x41020, 16, 0x40, 4, 0x8, 0xffffffff, 0xffffffff, 0x0, 0x0, 0x0, 0x0, 0x0⟩,
  ⟨0x41024, 16, 0x40, 4, 0x8, 0x00000000, 0xffffffff, 0x0, 0x0, 0x0, 0x0, 0x0⟩]

/-- The rows of the CONTACT block. -/
def rowsContact : List RegRow := [
  ⟨0x43000, 1, 0x4, 1, 0x4, 0x0000ffff, 0xffffffff, 0x0, 0x0, 0x0, 0x0, 0x0⟩,
  ⟨0x43004, 1, 0x4, 1, 0x4, 0x00000000, 0x0, 0x0, 0x0, 0x0, 0x0, 0x0⟩,
  ⟨0x43008, 1, 0x4, 1, 0x4, 0x00000000, 0x0, 0x0, 0xffffffff, 0x0, 0x0, 0x0⟩,
  ⟨0x4300c, 1, 0x4, 1, 0x4, 0x00000000, 0xffff0000, 0x0, 0x0, 0x0, 0x0, 0x0⟩,
  ⟨0x43010, 1, 0x4, 1, 0x4, 0x00000000, 0x0, 0x0, 0x0, 0x0, 0x0, 0x0⟩,
  ⟨0x43014, 1, 0x4, 1, 0x4, 0x00000000, 0x0, 0x0, 0x0, 0x0, 0x0, 0x0⟩,
  ⟨0x43018, 1, 0x4, 1, 0x4, 0x00000000, 0x0, 0x0, 0x0, 0x0, 0x0, 0x0⟩,
  ⟨0x4301c, 1, 0x4, 1, 0x4, 0x00000000, 0x0, 0x0, 0x0, 0x0, 0x0, 0x0⟩,
  ⟨0x43080, 16, 0x8, 1, 0x4, 0xe18c781e, 0xffffffff, 0x0, 0x0, 0x0, 0x0, 0x0⟩,
  ⟨0x43084, 16, 0x8, 1, 0x4, 0x00000000, 0x0, 0x0, 0x0, 0x0, 0xffff0000, 0x0⟩]

/-- The rows of the UART block. -/
def rowsUart : List RegRow := [
  ⟨0x42000, 2, 0x40, 1, 0x4, 0x00000001, 0x80000000, 0x7f80000f, 0x0, 0x0, 0x0, 0x0⟩,
  ⟨0x42004, 2, 0x40, 1, 0x4, 0x000001a1, 0x0, 0xffff, 0x0, 0x0, 0x0, 0x0⟩,
  ⟨0x42008, 2, 0x40, 1, 0x4, 0x000a1311, 0x0, 0xffffff, 0x0, 0x0, 0x0, 0x0⟩,
  ⟨0x4200c, 2, 0x40, 1, 0x4, 0x00001010, 0x0, 0xffff, 0x0, 0x0, 0x0, 0x0⟩,
  ⟨0x42010, 2, 0x40, 1, 0x4, 0x00000000, 0x0, 0x0, 0x0, 0x0, 0x8000, 0x0⟩,
  ⟨0x42014, 2, 0x40, 1, 0x4, 0x00000000, 0x0, 0x0, 0x0, 0x0, 0x0, 0xff⟩,
  ⟨0x42018, 2, 0x40, 1, 0x4, 0x00000000, 0x0, 0x0, 0xfe, 0x0, 0x0, 0x0⟩,
  ⟨0x4201c, 2, 0x40, 1, 0x4, 0x00000000, 0x0, 0x0, 0x0, 0x0, 0xffffffff, 0x0⟩,
  ⟨0x42020, 2, 0x40, 1, 0x4, 0x00000000, 0x0, 0x0, 0x0, 0x0, 0xffffffff, 0x0⟩,
  ⟨0x42024, 2, 0x40, 1, 0x4, 0x00000000, 0x0, 0x0, 0x0, 0x0, 0x0, 0x0⟩,
  ⟨0x42028, 2, 0x40, 1, 0x4, 0x00000000, 0x0, 0x0, 0x0, 0x0, 0x0, 0x0⟩,
  ⟨0x4202c, 2, 0x40, 1, 0x4, 0x00000000, 0x0, 0x0, 0x0, 0x0, 0xffffffff, 0x0⟩]

/-- The rows of the AGE block. -/
def rowsAge : List RegRow := [
  ⟨0x48000, 1, 0x4, 1, 0x4, 0xf0004014, 0xff007f1f, 0x0, 0x0, 0x0, 0x0, 0x0⟩,
  ⟨0x48004, 1, 0x4, 1, 0x4, 0x00000000, 0x0, 0x0, 0xcc, 0x0, 0x0, 0x0⟩,
  ⟨0x48008, 1, 0x4, 1, 0x4, 0x03200000, 0x0, 0x0, 0x0, 0x0, 0x0, 0x0⟩,
  ⟨0x4800c, 1, 0x4, 1, 0x4, 0x00000000, 0x0, 0x0, 0x0, 0x0, 0x0, 0x0⟩,
  ⟨0x48010, 1, 0x4, 1, 0x4, 0x00000000, 0x0, 0x0, 0x0, 0x0, 0x0, 0x0⟩,
  ⟨0x48014, 1, 0x4, 1, 0x4, 0x1e10023c, 0xffffffff, 0x0, 0x0, 0x0, 0x0, 0x0⟩,
  ⟨0x48018, 1, 0x4, 1, 0x4, 0x00000000, 0x0, 0x0, 0x0, 0x0, 0x0, 0x0⟩,
  ⟨0x4801c, 1, 0x4, 1, 0x4, 0x00000000, 0x0, 0x0, 0x0, 0x0, 0x0, 0x0⟩,
  ⟨0x48020, 8, 0x4, 1, 0x4, 0x00000000, 0x0, 0x0, 0x0, 0x0, 0x0, 0x0⟩,
  ⟨0x48080, 32, 0x4, 1, 0x4, 0x00000000, 0x0, 0x0, 0x0, 0x0, 0x0, 0x0⟩]

/-- The rows of the SYS block. -/
def rowsSys : List RegRow := [
  ⟨0x10000, 1, 0x4, 1, 0x4, 0x00000000, 0x0, 0x0, 0x0, 0x0, 0x0, 0x0⟩,
  ⟨0x10004, 1, 0x4, 1, 0x4, 0x10000000, 0x0, 0x0, 0x0, 0x0, 0x0, 0x0⟩,
  ⟨0x10008, 1, 0x4, 1, 0x4, 0x00000000, 0x1, 0x0, 0x0, 0x0, 0x0, 0x0⟩,
  ⟨0x1000c, 1, 0x4, 1, 0x4, 0x00000000, 0x0, 0x0, 0x0, 0x0, 0x0, 0x0⟩,
  ⟨0x10010, 1, 0x4, 1, 0x4, 0x00000000, 0x0, 0x0, 0x0, 0x0, 0x0, 0x0⟩,
  ⟨0x10014, 1, 0x4, 1, 0x4, 0x00000000, 0x0, 0x0, 0x0, 0x0, 0x0, 0x0⟩,
  ⟨0x10018, 1, 0x4, 1, 0x4, 0x00000000, 0x0, 0x0, 0x0, 0x0, 0x0, 0x0⟩,
  ⟨0x1001c, 1, 0x4, 1, 0x4, 0x00000000, 0x0, 0x0, 0x0, 0x0, 0x0, 0x0⟩,
  ⟨0x10020, 1, 0x4, 1, 0x4, 0x00000000, 0x0, 0x0, 0x0, 0x0, 0x0, 0x0⟩,
  ⟨0x10024, 1, 0x4, 1, 0x4, 0x00000000, 0x0, 0x0, 0x0, 0x0, 0x0, 0x0⟩,
  ⟨0x10028, 1, 0x4, 1, 0x4, 0x00000000, 0x0, 0x0, 0x0, 0x0, 0x0, 0x0⟩,
  ⟨0x1002c, 1, 0x4, 1, 0x4, 0x00000000, 0x0, 0x0, 0x0, 0x0, 0x0, 0x0⟩,
  ⟨0x10030, 1, 0x4, 1, 0x4, 0x00000000, 0x0, 0x0, 0x0, 0x0, 0x0, 0x0⟩,
  ⟨0x10040, 8, 0x4, 1, 0x4, 0x00000000, 0x0, 0x0, 0x0, 0x0, 0x0, 0x0⟩,
  ⟨0x10060, 5, 0x4, 1, 0x4, 0x00000000, 0x0, 0x0, 0x0, 0x0, 0x0, 0x0⟩,
  ⟨0x10080, 6, 0x4, 1, 0x4, 0x00000000, 0x0, 0x0, 0x0, 0x0, 0x0, 0x0⟩]

/-- The rows of the STRK block. -/
def rowsStrk : List RegRow := [
  ⟨0x49000, 1, 0x4, 1, 0x4, 0x00000000, 0x0, 0x0, 0x0, 0x0, 0x0, 0x0⟩,
  ⟨0x49004, 1, 0x4, 1, 0x4, 0x00000000, 0x0, 0x0, 0x0, 0x0, 0x0, 0x0⟩,
  ⟨0x49008, 1, 0x4, 1, 0x4, 0x00000000, 0x0, 0x0, 0x0, 0x0, 0x0, 0x0⟩,
  ⟨0x4900c, 1, 0x4, 1, 0x4, 0x00000000, 0x80001f7f, 0x0, 0x0, 0x0, 0x0, 0x0⟩,
  ⟨0x49010, 1, 0x4, 1, 0x4, 0x00000000, 0x0, 0x0, 0x60000, 0x0, 0x0, 0x0⟩,
  ⟨0x49014, 1, 0x4, 1, 0x4, 0x00000000, 0x0, 0x0, 0x0, 0x0, 0xffffffff, 0x0⟩,
  ⟨0x49018, 1, 0x4, 1, 0x4, 0x00000000, 0x0, 0x0, 0x0, 0x0, 0x0, 0x0⟩,
  ⟨0x4901c, 1, 0x4, 1, 0x4, 0x00000000, 0x0, 0x0, 0x0, 0x0, 0x0, 0x0⟩,
  ⟨0x49040, 4, 0x10, 1, 0x4, 0x00000000, 0x0, 0x0, 0x0, 0x0, 0x0, 0x0⟩,
  ⟨0x49044, 4, 0x10, 1, 0x4, 0x00000000, 0x0, 0x0, 0x0, 0x0, 0x0, 0x0⟩,
  ⟨0x49048, 4, 0x10, 1, 0x4, 0x00000000, 0x0, 0x0, 0x0, 0x0, 0x0, 0x0⟩,
  ⟨0x4904c, 4, 0x10, 1, 0x4, 0x00000000, 0x0, 0x0, 0x0, 0x0, 0x0, 0x0⟩]

/-- The block of rows that an address belongs to (R510). -/
def rowsOf (a : Nat) : List RegRow :=
  if a < 0x00080 then rowsHost
  else if 0x10000 ≤ a ∧ a < 0x11000 then rowsSys
  else if 0x11000 ≤ a ∧ a < 0x12000 then rowsTime
  else if 0x12000 ≤ a ∧ a < 0x13000 then rowsDisp
  else if 0x20000 ≤ a ∧ a < 0x30000 then rowsBrick
  else if 0x30000 ≤ a ∧ a < 0x31000 then rowsMix
  else if 0x34000 ≤ a ∧ a < 0x40000 then rowsZone
  else if 0x40000 ≤ a ∧ a < 0x41000 then rowsSlab
  else if 0x41000 ≤ a ∧ a < 0x42000 then rowsTim
  else if 0x42000 ≤ a ∧ a < 0x43000 then rowsUart
  else if 0x43000 ≤ a ∧ a < 0x44000 then rowsContact
  else if 0x44000 ≤ a ∧ a < 0x45000 then rowsAport
  else if 0x45000 ≤ a ∧ a < 0x46000 then rowsAna
  else if 0x46000 ≤ a ∧ a < 0x47000 then rowsSafe
  else if 0x47000 ≤ a ∧ a < 0x48000 then rowsSupv
  else if 0x48000 ≤ a ∧ a < 0x49000 then rowsAge
  else if 0x49000 ≤ a ∧ a < 0x4a000 then rowsStrk
  else if 0x4a000 ≤ a ∧ a < 0x4b000 then rowsStrm
  else if 0x4b000 ≤ a ∧ a < 0x4c000 then rowsCrse
  else if 0x4c000 ≤ a ∧ a < 0x4d000 then rowsMemif
  else []

/-- The instance of a row at an address: its two indexes. -/
def RegRow.at? (r : RegRow) (a : Nat) : Option (Nat × Nat) :=
  if a < r.base then none
  else
    let d := a - r.base
    let n := d / r.stride
    let e := d % r.stride
    if r.sub = 1 then if n < r.count ∧ e = 0 then some (n, 0) else none
    else if n < r.count ∧ e % r.subStride = 0 ∧ e / r.subStride < r.sub then some (n, e / r.subStride) else none

/-- The register row at a byte address, with its indexes; none where no register lies (R268, R510). -/
def regRow (a : Nat) : Option (RegRow × Nat × Nat) :=
  (rowsOf a).findSome? fun r => (r.at? a).map fun p => (r, p.1, p.2)

/-- Active bricks, spares, zones, groups, analogue channels, monitor inputs, paths, usable bank MiB and zone-delay MiB
of a variant (R2, R440). -/
def Variant.bricks : Variant → Nat | .lmz8192 => 64 | .lmz4096 => 32 | .lmz2048e => 16
def Variant.spares : Variant → Nat | .lmz8192 => 2 | .lmz4096 => 1 | .lmz2048e => 1
def Variant.zones : Variant → Nat | .lmz8192 => 256 | .lmz4096 => 128 | .lmz2048e => 64
def Variant.groups : Variant → Nat | .lmz8192 => 64 | .lmz4096 => 32 | .lmz2048e => 16
def Variant.channels : Variant → Nat | .lmz8192 => 64 | .lmz4096 => 32 | .lmz2048e => 0
def Variant.monitors : Variant → Nat | .lmz8192 => 64 | .lmz4096 => 32 | .lmz2048e => 0
def Variant.paths : Variant → Nat | .lmz8192 => 1024 | .lmz4096 => 512 | .lmz2048e => 0
def Variant.usableMib : Variant → Nat | .lmz8192 => 3584 | .lmz4096 => 3584 | .lmz2048e => 1792
def Variant.delayMib : Variant → Nat | .lmz8192 => 192 | .lmz4096 => 96 | .lmz2048e => 48
/-- The course link is fitted (R2, R8). -/
def Variant.hasCourse : Variant → Bool | .lmz2048e => false | _ => true
/-- HOST_ID (R294). -/
def Variant.hostId : Variant → Nat
  | .lmz8192 => 0x81920101 | .lmz4096 => 0x40960101 | .lmz2048e => 0x20480101

/-- The default reaction of a safety mechanism by its code (R412): 0 REPORT, 1 DEGRADE, 2 MUTE, 3 RESET.
CLOCK and SUPPLY and BRICK_ECC, whose reaction depends on the instance, show REPORT, REPORT and DEGRADE. -/
def mechReact (k : Nat) : Nat :=
  if k ≤ 2 then 3
  else if k = 0x04 ∨ k = 0x06 ∨ k = 0x0A ∨ k = 0x0B then 1
  else if k = 0x0C ∨ k = 0x0D ∨ k = 0x0E then 2
  else 0

/-- Word k of the SYS.GET_CAPS response as manufactured, with the discovered NOR size and the firmware version still 0
(R294). -/
def capsWord (v : Variant) (k : Nat) : Nat :=
  match k with
  | 0 => v.hostId
  | 1 => v.bricks * 2 ^ 24 + v.spares * 2 ^ 16 + v.bricks * 128
  | 2 => v.zones * 2 ^ 16 + v.groups * 2 ^ 8 + v.channels
  | 3 => v.paths * 2 ^ 16 + v.monitors * 2 ^ 8 + (if v.hasCourse then 7 else 0)
  | 4 => v.usableMib * 2 ^ 16
  | 5 => 196608
  | 6 => 12224 * 2 ^ 16 + 64
  | _ => 0

/-- Base and size words of a NOR region (R444). -/
def norBase : Nat → Nat
  | 1 => 0x0010000 | 2 => 0x0810000 | 3 => 0x0C10000 | 4 => 0x0C90000 | 5 => 0x1000000 | _ => 0
def norSize : Nat → Nat
  | 0 => 0x01000040 | 1 => 0x02001000 | 2 => 0x02000800 | 3 => 0x02000100 | 4 => 0x01000100
  | 5 => 0x01004000 | _ => 0

/-- Reset values that differ by instance or by variant, by the address of the register; none where the register's table
gives one value (PRESUMED, notes/assumptions/27.md for AGE_VDD). -/
def resetSpecial (v : Variant) (a n : Nat) : Option Nat :=
  if a = R.HOST_ID ∨ a = R.SYS_ID then some v.hostId
  else if a = R.TIME_REF_CFG n then
    some (if n = 0 then 0x000003E8 else if n = 1 then 0x010003E8 else if n = 2 then 0x020203E8 else 0x830003E8)
  else if a = R.TIME_REF_STAT n then some (if n = 3 then 3 else 0)
  else if a = R.ZONE_CTRL n then some (n * 0x100)
  else if a = R.BRICK_MAP n then some (if n < v.bricks then 0x80000000 + n else 0x4000007F)
  else if a = R.BRICK_VOICES n then some (if n < v.bricks then 0x00800000 else 0)
  else if a = R.STRM_VC_CFG n then
    some (if n = 0 then 0x40 else if n = 1 then 0x80 else if n = 2 then 0x20 else 0x10)
  else if a = R.SAFE_DEGRADE then some v.spares
  else if a = R.SAFE_MECH_CFG n then some (1 + mechReact n * 0x10)
  else if a = R.SLAB_OWNER n then some (if n < 28 then 0 else 9)
  else if a = R.SLAB_REPAIR n then some 0xFFFFFF00
  else if a = R.MEMIF_BANK_SIZE then some (v.usableMib * 2 ^ 16 + v.delayMib)
  else if a = R.MEMIF_REGION_BASE n then some (norBase n)
  else if a = R.MEMIF_REGION_SIZE n then some (norSize n)
  else if a = R.AGE_VDD then some 0x02D002D0
  else if a = R.SYS_CAPS n then some (capsWord v n)
  else none

/-- What a word of the host block or the register window reads at reset. Mailbox buffers and event records, for which
the specification gives none, read 0 (DESIGN CHOICE, notes/assumptions/3.md). -/
def regReset (v : Variant) (a : Nat) : W32 :=
  match regRow a with
  | none => 0
  | some (r, n, _) => w32 ((resetSpecial v a n).getD r.reset)

/-- The unit of a register is fitted (R2, R4, R6). -/
def regPresent (v : Variant) (a : Nat) : Bool :=
  if 0x20000 ≤ a ∧ a < 0x30000 then (a - 0x20000) / 0x100 < v.bricks + v.spares
  else if 0x34000 ≤ a ∧ a < 0x40000 then (a - 0x34000) / 0x10 < v.zones
  else if 0x45000 ≤ a ∧ a < 0x46000 then (a - 0x45000) / 0x10 < v.channels
  else if 0x4b000 ≤ a ∧ a < 0x4c000 then v.hasCourse
  else if 0x11100 ≤ a ∧ a < 0x11120 then v.hasCourse
  else true

end Sys2Proof.Machine
end

