-- ==== Sys2Proof/Machine/Ops.lean ====
section
/-! DEFINITION. The named operations over the state: sparse stores, registers and their fields, media time, the event queue,
free values. Everything above them reads and writes the state through these. -/

namespace Sys2Proof.Machine

/-! Sparse lists by key. -/

/-- The entry of a key. -/
def kget {α : Type} (l : List (Nat × α)) (k : Nat) : Option α := (l.find? fun p => p.1 = k).map Prod.snd

/-- The list without a key. -/
def kdel {α : Type} (l : List (Nat × α)) (k : Nat) : List (Nat × α) := l.filter fun p => p.1 ≠ k

/-- Insert before the first larger key. -/
def kins {α : Type} (k : Nat) (v : α) : List (Nat × α) → List (Nat × α)
  | [] => [(k, v)]
  | p :: l => if k < p.1 then (k, v) :: p :: l else p :: kins k v l

/-- The list with a key set to a value. -/
def kput {α : Type} (l : List (Nat × α)) (k : Nat) (v : α) : List (Nat × α) := kins k v (kdel l k)

/-- Set a key of a store whose unlisted entries read `dflt`: an entry equal to it is not listed. -/
def storePut {α : Type} [DecidableEq α] (dflt : α) (l : List (Nat × α)) (k : Nat) (v : α) : List (Nat × α) :=
  if v = dflt then kdel l k else kput l k v

/-- Replace or add a record by its number, keeping the numbers rising. -/
def upsert {α : Type} (num : α → Nat) (x : α) (l : List α) : List α :=
  let rest := l.filter fun y => num y ≠ num x
  rest.filter (fun y => num y < num x) ++ x :: rest.filter (fun y => ¬ num y < num x)

/-- The record of a number. -/
def pick {α : Type} (num : α → Nat) (n : Nat) (l : List α) : Option α := l.find? fun y => num y = n

/-- Insert an element before the first that it may precede, and sort by insertion: equal elements keep their order. -/
def isert {α : Type} (le : α → α → Bool) (a : α) : List α → List α
  | [] => [a]
  | b :: l => if le a b then a :: b :: l else b :: isert le a l
def isort {α : Type} (le : α → α → Bool) : List α → List α
  | [] => []
  | a :: l => isert le a (isort le l)

/-! Registers. -/

/-- The stored word of a register, a mailbox buffer or an event record. -/
def State.rd (s : State) (a : Nat) : W32 := (kget s.regs a).getD (regReset s.variant a)

/-- Store a word. -/
def State.wr (s : State) (a : Nat) (v : W32) : State :=
  { s with regs := storePut (regReset s.variant a) s.regs a v }

/-- A field's value. -/
def State.get (s : State) (f : Fld) : Nat := bits (s.rd f.addr) f.lo f.width

/-- Store a field. -/
def State.put (s : State) (f : Fld) (v : Nat) : State := s.wr f.addr (setBits (s.rd f.addr) f.lo f.width v)

/-- A one-bit field as a Boolean, and storing one. -/
def State.flag (s : State) (f : Fld) : Bool := s.get f ≠ 0
def State.set (s : State) (f : Fld) (b : Bool := true) : State := s.put f (b2n b)

/-- A counter that wraps, and one that saturates (R511). -/
def State.bump (s : State) (f : Fld) (k : Nat := 1) : State := s.put f (s.get f + k)
def State.bumpSat (s : State) (f : Fld) (k : Nat := 1) : State := s.put f (satInc f.width (s.get f) k)

/-- Store a 64-bit number in two registers, low word first; read it. -/
def State.wr64 (s : State) (lo hi : Nat) (v : Nat) : State := (s.wr lo (lo32 v)).wr hi (hi32 v)
def State.rd64 (s : State) (lo hi : Nat) : Nat := (s.rd lo).toNat + (s.rd hi).toNat * 2 ^ 32

/-- Return every register of an address range to its reset value. -/
def State.clearRegs (s : State) (lo hi : Nat) : State :=
  { s with regs := s.regs.filter fun p => ¬ (lo ≤ p.1 ∧ p.1 < hi) }

/-! Free values: what the specification leaves open (DESIGN CHOICE, notes/assumptions/2.md). -/

/-- Draw a free value and count it. -/
def State.draw (s : State) : Nat × State := (Config.freeValue s.free, { s with free := s.free + 1 })

/-- Draw n free words. -/
def State.drawWords (s : State) : Nat → List W32 × State
  | 0 => ([], s)
  | n + 1 =>
    let (x, s) := s.draw
    let (l, s) := s.drawWords n
    (w32 x :: l, s)

/-! Media time and the timing points (R14, R15, R24–R27). -/

/-- The operating rate's code, its block length and its sample rate. -/
def State.rate (s : State) : Nat := s.get F.TIME_RATE_RATE
def State.bl (s : State) : Nat := Config.blockLen s.rate
def State.hz (s : State) : Nat := Config.rateHz s.rate

/-- The block of a media time. -/
def State.blockOf (s : State) (mt : Nat) : Nat := mt / s.bl

/-- block(now), the pins' block (R14). -/
def State.blockNow (s : State) : Nat := s.blockOf s.time.mt

/-- The presentation offset P, the output latency L and the run-ahead depth RA (R15). -/
def State.pOff (s : State) : Nat := s.get F.TIME_PIPE_P
def State.latency (s : State) : Nat := 3 + s.pOff
def State.ra (s : State) : Nat := s.get F.TIME_PIPE_RA

/-- The commit block C and the render front F (R15). -/
def State.commit (s : State) : Nat := s.blockNow + s.latency
def State.front (s : State) : Nat := s.commit + s.ra

/-- The first sample of a block. -/
def State.startOf (s : State) (b : Nat) : Nat := b * s.bl

/-- The first sample of C + 2, where AT = 0 and late commands apply (R16). -/
def State.soonest (s : State) : Nat := s.startOf (s.commit + 2)

/-! Power states (R483). -/

/-- The PSTATE code of HOST_STATUS. -/
def Power.code : Power → Nat
  | .off => 0 | .reset => 0 | .boot => 1 | .idle => 2 | .run => 3 | .lull => 4 | .fault => 5

/-- The code of a reset kind (R486). -/
def ResetKind.code : ResetKind → Nat
  | .por => 0 | .pin => 1 | .wdog => 2 | .safe => 3 | .soft => 4

/-- Enter a power state; HOST_STATUS and SYS_STATE show it. -/
def State.setPower (s : State) (p : Power) : State :=
  ((({ s with power := p }).put F.HOST_STATUS_PSTATE p.code).put F.SYS_STATE_PSTATE p.code)

/-- HOST_STATUS.READY: commands are taken (R263). -/
def State.ready (s : State) : Bool := s.flag F.HOST_STATUS_READY

/-- The power states in which the media clock, the dispatcher and the mix run (R482, R483). -/
def State.running (s : State) : Bool :=
  match s.power with
  | .idle => true | .run => true | .fault => true | _ => false

/-- Outputs are inert in every state but RUN (R483). -/
def State.live (s : State) : Bool := s.power = .run

/-! The event queue (R281–R283). -/

/-- The eight words of an event record: type, source, media time, data. -/
def eventWords (ty src mt : Nat) (data : List W32) : List W32 :=
  [w32 (ty * 65536 + src % 65536), lo32 mt, hi32 mt] ++ (data ++ [0, 0, 0, 0, 0]).take 5

/-- Store words from an address on. -/
def State.wrList (s : State) (a : Nat) : List W32 → State
  | [] => s
  | w :: ws => (s.wr a w).wrList (a + 4) ws

/-- The words from an address on. -/
def State.rdList (s : State) (a : Nat) : Nat → List W32
  | 0 => []
  | n + 1 => s.rd a :: s.rdList (a + 4) n

/-- The address of event record r (R270). -/
def evtAddr (r : Nat) : Nat := 0x2000 + 32 * (r % 256)

/-- Event types of the queue itself (R282). -/
def evOverflow : Nat := 0x0000

/-- Make room in a full queue (R283 steps 1 and 2). -/
def State.evqOverflow (s : State) : State :=
  let rdx := s.get F.EVQ_STATUS_RD
  let isOvf := bits (s.rd (evtAddr rdx)) 16 16 = evOverflow
  let n := if isOvf then (s.rd (evtAddr rdx + 12)).toNat else 1
  let lost := evtAddr (rdx + 1)
  let mt := (s.rd (lost + 4)).toNat + (s.rd (lost + 8)).toNat * 2 ^ 32
  let cnt := min (n + 1) (2 ^ 32 - 1)
  let s := s.wrList lost (eventWords evOverflow 0xFFFF mt [w32 cnt])
  let s := s.put F.EVQ_STATUS_RD ((rdx + 1) % 256)
  let s := s.bump F.EVQ_LOST_TOTAL_COUNT (if isOvf then 1 else 2)
  s.set F.HOST_IRQ_STAT_EVQ_OVF

/-- Spend one credit of a stream channel if it holds one (R324). -/
def State.spend (s : State) (v n : Nat) : Option State :=
  let have_ := s.get (F.STRM_VC_CREDIT_TX_AVAIL v)
  if n ≤ have_ then
    some ((s.put (F.STRM_VC_CREDIT_TX_AVAIL v) (have_ - n)).bump (F.STRM_VC_TXCNT_COUNT v) n)
  else none

/-- The stream link carries flits: UP or DEGRADED (R327, R328). -/
def State.strmUp (s : State) : Bool :=
  s.get F.STRM_STATUS_STATE = 2 ∨ s.get F.STRM_STATUS_STATE = 3

/-- Copy an event record to VC3 as two flits, or drop the copy for want of credit (R283). -/
def State.vc3Copy (s : State) : State :=
  if s.flag F.EVQ_CTRL_VC3_COPY ∧ s.strmUp then (s.spend 3 2).getD s else s

/-- Post an event with a media time (R281, R283). -/
def State.postAt (s : State) (ty src mt : Nat) (data : List W32) : State :=
  let used := s.get F.EVQ_STATUS_USED
  let s := if used = 256 then s.evqOverflow else s
  let wrx := s.get F.EVQ_STATUS_WR
  let s := s.wrList (evtAddr wrx) (eventWords ty src mt data)
  let s := s.put F.EVQ_STATUS_WR ((wrx + 1) % 256)
  let s := if used = 256 then s else s.put F.EVQ_STATUS_USED (used + 1)
  s.vc3Copy

/-- Post an event that has no media time of its own: MT(now) when posted (R281). -/
def State.post (s : State) (ty src : Nat) (data : List W32 := []) : State := s.postAt ty src s.time.mt data

/-! Records of the units. -/

def State.zone (s : State) (n : Nat) : Zone := (pick Zone.n n s.zones).getD (.init n)
def State.setZone (s : State) (z : Zone) : State := { s with zones := upsert Zone.n z s.zones }
def State.group (s : State) (n : Nat) : Group := (pick Group.n n s.groups).getD (.init n)
def State.setGroup (s : State) (g : Group) : State := { s with groups := upsert Group.n g s.groups }
def State.port (s : State) (n : Nat) : PortSt := (pick PortSt.n n s.ports).getD (.init n)
def State.setPort (s : State) (p : PortSt) : State := { s with ports := upsert PortSt.n p s.ports }
def State.chan (s : State) (n : Nat) : AnaSt := (pick AnaSt.n n s.ana).getD (.init n)
def State.setChan (s : State) (c : AnaSt) : State := { s with ana := upsert AnaSt.n c s.ana }
def State.timer (s : State) (n : Nat) : TimerSt := (pick TimerSt.n n s.timers).getD (.init n)
def State.setTimer (s : State) (t : TimerSt) : State := { s with timers := upsert TimerSt.n t s.timers }
def State.uart (s : State) (n : Nat) : UartSt := (pick UartSt.n n s.uarts).getD (.init n)
def State.setUart (s : State) (u : UartSt) : State := { s with uarts := upsert UartSt.n u s.uarts }
/-- DESIGN CHOICE, notes/assumptions/183.md. -/
def State.contact (s : State) (n : Nat) : ContactSt := (pick ContactSt.n n s.contacts).getD (.init n)
def State.setContact (s : State) (c : ContactSt) : State := { s with contacts := upsert ContactSt.n c s.contacts }
def State.bank (s : State) (n : Nat) : Bank := (pick Bank.n n s.banks.banks).getD (.init n)
def State.setBank (s : State) (b : Bank) : State :=
  { s with banks := { s.banks with banks :=
      if b.state = .empty then s.banks.banks.filter (fun x => x.n ≠ b.n) else upsert Bank.n b s.banks.banks } }
def State.path (s : State) (n : Nat) : Path := (pick Path.n n s.supv.paths).getD (.init n)
def State.setPath (s : State) (p : Path) : State :=
  { s with supv := { s.supv with paths := upsert Path.n p s.supv.paths } }
def State.returns (s : State) (z : Nat) : Returns := (pick Returns.zone z s.supv.returns).getD (.init z)
def State.setReturns (s : State) (r : Returns) : State :=
  { s with supv := { s.supv with returns := upsert Returns.zone r s.supv.returns } }
def State.dewZone (s : State) (z : Nat) : DewZone := (pick DewZone.zone z s.supv.dew).getD (.init z)
def State.setDewZone (s : State) (d : DewZone) : State :=
  { s with supv := { s.supv with dew := upsert DewZone.zone d s.supv.dew } }
def State.job? (s : State) (r : Nat) : Option Job := pick Job.record r s.disp.jobs
def State.setJob (s : State) (j : Job) : State := { s with disp := { s.disp with jobs := upsert Job.record j s.disp.jobs } }
/-- A voice's place in the list of voices: a slot may hold a stolen voice up to its last block and, from the next one,
the voice that took it (R145). -/
def Voice.key (v : Voice) : Nat := v.src * 16384 + v.record
/-- The occupant of a slot: the voice that is not being stopped where there is one. -/
def State.voice? (s : State) (src : Nat) : Option Voice :=
  let here := s.disp.voices.filter fun v => v.src = src
  (here.find? fun v => v.stop.isNone).orElse fun _ => here.head?
/-- A voice of a job. -/
def State.voiceIn (s : State) (src record : Nat) : Option Voice :=
  s.disp.voices.find? fun v => v.src = src ∧ v.record = record
/-- The voices of a job, by voice index. -/
def State.voicesOf (s : State) (record : Nat) : List Voice := s.disp.voices.filter fun v => v.record = record
def State.setVoice (s : State) (v : Voice) : State :=
  { s with disp := { s.disp with voices := upsert Voice.key v s.disp.voices } }
def State.delVoice (s : State) (src record : Nat) : State :=
  { s with disp := { s.disp with voices := s.disp.voices.filter fun v => ¬ (v.src = src ∧ v.record = record) } }

/-- Apply an operation to the state once per element. -/
def forEach {α : Type} (l : List α) (s : State) (f : α → State → State) : State := l.foldl (fun s a => f a s) s

/-- This device's course number (R331); 0 without a course link. -/
def State.courseNo (s : State) : Nat := s.get F.CRSE_CTRL_COURSE

/-- A voice handle: course, logical brick, slot (R136). -/
def State.handleOf (s : State) (src : Nat) : Nat := s.courseNo * 8192 + src

/-- A job handle: generation and record (R136). -/
def Job.handle (j : Job) : W32 := w32 (j.gen * 65536 + j.record)

/-- The bytes of a sparse byte store from an offset on. -/
def bytesAt (b : Bytes) (off : Nat) : Nat → List Byte
  | 0 => []
  | n + 1 => (kget b off).getD 0 :: bytesAt b (off + 1) n

/-- Write bytes into a sparse byte store. -/
def bytesPut (b : Bytes) (off : Nat) : List Byte → Bytes
  | [] => b
  | x :: xs => bytesPut (storePut 0 b off x) (off + 1) xs

/-- Add a range to a list of rising ranges that do not touch, joining what meets. -/
def addRun : Nat → Nat → List (Nat × Nat) → List (Nat × Nat)
  | lo, hi, [] => [(lo, hi)]
  | lo, hi, (a, b) :: l =>
    if hi < a then (lo, hi) :: (a, b) :: l
    else if b < lo then (a, b) :: addRun lo hi l
    else addRun (min a lo) (max b hi) l

/-- A load of so many bytes that has received nothing (R123, R256, R301). -/
def Load.opened (len : Nat) (force mailbox : Bool) : Load := ⟨len, force, mailbox, [], [], 0, false, false⟩

/-- Bytes written at an offset of a mailbox load. -/
def Load.write (l : Load) (off : Nat) (bs : List Byte) : Load :=
  if bs = [] then l else { l with bytes := bytesPut l.bytes off bs, runs := addRun off (off + bs.length) l.runs }

/-- A flit of a VC1 transfer: 16 bytes, of which the last flit's may pass the image's end; a lost flit, or the last one, ends
the transfer (R322, R323). -/
def Load.flit (l : Load) (bs : List Byte) (eom ok : Bool) : Load :=
  if l.ended then l
  else if ok then
    { l with
      bytes := bytesPut l.bytes l.received (bs.take (l.len - l.received)), received := l.received + 16, ended := eom }
  else { l with ended := true, broken := true }

/-- Every byte has arrived, or the transfer has ended. -/
def Load.complete (l : Load) : Bool := if l.mailbox then l.runs = [(0, l.len)] else l.ended

/-- The transfer delivered more or fewer bytes than the image has, or lost a flit (R123, R256, R301, R322). -/
def Load.badLength (l : Load) : Bool := ¬ l.mailbox ∧ (l.broken ∨ l.received ≠ (l.len + 15) / 16 * 16)

/-- A little-endian word of a byte store. -/
def byteWord (b : Bytes) (off : Nat) : W32 :=
  ofBytes ((kget b off).getD 0) ((kget b (off + 1)).getD 0) ((kget b (off + 2)).getD 0) ((kget b (off + 3)).getD 0)

/-- The bytes of a list of words, each little-endian. -/
def bytesOfWords (ws : List W32) : List Byte := ws.flatMap wordBytes

/-- Words from bytes, the last word padded with zeros. -/
def wordsOfBytes : List Byte → List W32
  | [] => []
  | [a] => [ofBytes a 0 0 0]
  | [a, b] => [ofBytes a b 0 0]
  | [a, b, c] => [ofBytes a b c 0]
  | a :: b :: c :: d :: r => ofBytes a b c d :: wordsOfBytes r

/-! Check codes. -/

/-- One bit of a CRC register that shifts right (R118). -/
def crc32Bit (c : BitVec 32) : BitVec 32 := if c.getLsbD 0 then (c >>> 1) ^^^ 0xEDB88320#32 else c >>> 1

/-- `n` applications. -/
def iter {α : Type} (f : α → α) : Nat → α → α
  | 0, a => a
  | n + 1, a => iter f n (f a)

/-- The CRC-32 of R118: reflected 0x04C1_1DB7, initial and final 0xFFFF_FFFF. -/
def crc32 (bs : List Byte) : W32 :=
  (bs.foldl (fun c b => iter crc32Bit 8 (c ^^^ b.setWidth 32)) 0xFFFFFFFF#32) ^^^ 0xFFFFFFFF#32

/-- The CRC-16 of R273: 0x1021, initial 0xFFFF, most significant bit first. -/
def crc16 (bs : List Byte) : BitVec 16 :=
  bs.foldl (fun c b => iter (fun c => if c.getLsbD 15 then (c <<< 1) ^^^ 0x1021#16 else c <<< 1) 8
    (c ^^^ (BitVec.setWidth 16 b <<< (8 : Nat)))) 0xFFFF#16

/-- The CRC-8 of R265: 0x2F, initial 0xFF, most significant bit first. -/
def crc8 (bs : List Byte) : Byte :=
  bs.foldl (fun c b => iter (fun c => if c.getLsbD 7 then (c <<< 1) ^^^ 0x2F#8 else c <<< 1) 8 (c ^^^ b)) 0xFF#8

/-! Fixed-point arithmetic (R184, R188, R203). -/

/-- Divide by 2ⁿ, rounding to nearest with ties to even. -/
def roundEven (n : Nat) (i : Int) : Int :=
  let q := i / (2 ^ n : Nat)
  let r := i % (2 ^ n : Nat)
  let h : Int := (2 ^ n : Nat) / 2
  if r < h ∨ n = 0 then q else if h < r then q + 1 else if q % 2 = 0 then q else q + 1

/-- Saturate to the Q1.23 range. -/
def sat24 (i : Int) : Int := clampI (-8388608) 8388607 i

/-- A sample's signed value, and the sample of a value. -/
def sVal (x : Sample) : Int := x.toInt
def sOf (i : Int) : Sample := BitVec.ofInt 24 i

/-- Samples of silence. -/
def silence (n : Nat) : List Sample := List.replicate n 0

end Sys2Proof.Machine
end

