-- ==== Sys2Proof/Machine/Flags.lean ====
section
/-! DEFINITION. Registers and fields that show a value whose home is elsewhere in the state, what a register read returns,
and what a register write of each access code does (R4, R9, R10, R534). -/

namespace Sys2Proof.Machine

/-! Values that registers show and that are computed from the rest of the state. -/

/-- Host or reserved job records in use (R134, R136). -/
def State.recordsUsed (s : State) (hw : Bool) : Nat :=
  (s.disp.jobs.filter fun j => decide (12224 ≤ j.record) = hw).length

/-- Delay-list entries in use: PENDING jobs (R137). -/
def State.delayUsed (s : State) : Nat := (s.disp.jobs.filter fun j => j.state = .pending).length

/-- The ready list of a class, head first (R140). -/
def State.readyOf (s : State) (c : Nat) : List Nat := (kget s.disp.ready c).getD []

/-- Active voices of a logical brick. -/
def State.voicesOn (s : State) (b : Nat) : Nat := (s.disp.voices.filter fun v => v.src / 128 = b).length

/-- A Squall job is RUNNING or RELEASING (R150). -/
def State.squallActive (s : State) : Bool :=
  match s.disp.squall with
  | none => false
  | some r => match s.job? r with
    | some j => j.state = .running ∨ j.state = .releasing
    | none => false

/-- The job whose voice a tap record concerns: none for a source that is no voice (R194). -/
def TapRec.owner (e : TapRec) : Option Nat := if e.src < 8192 then some (bits e.job 0 16) else none

/-- The crosspoint of a record that names a source: source, bus and owning job. -/
def TapRec.key (e : TapRec) : Nat × Nat × Option Nat := (e.src, e.bus, e.owner)

/-- Entries taken: taps in force, pending tap changes that may create one, other than records addressed by the index
of a voice that is not placed, and entries kept for a pending change: source, bus and owning job (R191) (DEDUCED, notes/assumptions/82.md). -/
def State.entryKeys (s : State) : List (Nat × Nat × Option Nat) :=
  ((s.mix.taps.map fun t => (t.src, t.bus, t.job)) ++
    ((s.mix.pend.filter fun p => ¬ p.entry.vrel ∧ p.entry.gain ≠ -32768).map fun p => p.entry.key) ++ s.mix.kept).dedup

/-- Entries taken for voices that are not placed yet: job, voice index and bus (R191, R194). -/
def State.vrelKeys (s : State) : List (Nat × Nat × Nat) :=
  ((s.mix.pend.filter fun p => p.entry.vrel ∧ p.entry.gain ≠ -32768).map fun p =>
    (p.entry.job.toNat, p.entry.src, p.entry.bus)).dedup

/-- Tap entries taken (R191). -/
def State.tapsUsed (s : State) : Nat := s.entryKeys.length + s.vrelKeys.length

/-- The MIX_CLIP bit of a bus, and the number set (R189). -/
def State.clipBit (s : State) (b : Nat) : Bool := bit (s.rd (R.MIX_CLIP (b / 32))) (b % 32)
def State.clipBuses (s : State) : Nat := ((List.range 512).filter fun b => s.clipBit b).length

/-- The mechanisms latched and active, one bit each (R414, R418). -/
def State.latchedMask (s : State) : Nat :=
  (List.range 24).foldl (fun m k => m + b2n (s.flag (F.SAFE_MECH_STAT_LATCHED k)) * 2 ^ k) 0
def State.activeMask (s : State) : Nat :=
  (List.range 24).foldl (fun m k => m + b2n (s.flag (F.SAFE_MECH_STAT_ACTIVE k)) * 2 ^ k) 0
def State.latchedCount (s : State) : Nat :=
  ((List.range 24).filter fun k => s.flag (F.SAFE_MECH_STAT_LATCHED k)).length

/-- SAFE_FAULT_N is low: from POR or PIN until READY rises, during every reset, in FAULT, and while a mechanism whose PIN_EN
is set is latched (R420); and in a BOOT that has failed (R443). -/
def State.faultPin (s : State) : Bool :=
  s.power = .fault ∨ s.power = .reset ∨
    (s.power = .boot ∧ (s.resetKind = .por ∨ s.resetKind = .pin ∨ s.get F.MEMIF_STATUS_NOR_STATE = 3)) ∨
    (List.range 24).any fun k => s.flag (F.SAFE_MECH_STAT_LATCHED k) ∧ s.flag (F.SAFE_MECH_CFG_PIN_EN k)

/-- HOST_IRQ_N is low (HOST_IRQ_EN). -/
def State.irq (s : State) : Bool :=
  bits (s.rd R.HOST_IRQ_STAT) 0 8 &&& s.get F.HOST_IRQ_EN_EN ≠ 0 ∨
    (s.get F.EVQ_STATUS_USED > 0 ∧ bit (s.rd R.HOST_IRQ_EN) 4)

/-- The class of a contact, and whether it is ACTIVE (R459, R461). -/
def State.contactClass (s : State) (n : Nat) : Nat := bits (s.rd R.CONTACT_STATE) (2 * n) 2
def State.contactActive (s : State) (n : Nat) : Bool := s.contactClass n = 1

/-- A zone's hold class, if it has one (R146, ZONE[n]_STATUS). -/
def State.holdClass (s : State) (z : Nat) : Option Nat :=
  if s.flag (F.ZONE_STATUS_HOLD_VALID z) then some (s.get (F.ZONE_STATUS_HOLD_CLASS z)) else none

/-- A stored word with the fields of a register that show values from elsewhere put in place (DESIGN CHOICE, notes/assumptions/28.md; DEDUCED, notes/assumptions/182.md). -/
def State.derived (s : State) (a : Nat) (w : W32) : W32 :=
  if a = R.TIME_MT_LO ∨ a = R.HOST_MT_LO then lo32 s.time.mt
  else if a = R.TIME_BLOCK then lo32 s.blockNow
  else if a = R.TIME_COMMIT ∨ a = R.HOST_COMMIT then lo32 s.commit
  else if a = R.HOST_IRQ_STAT then setBits w 4 1 (b2n (s.get F.EVQ_STATUS_USED > 0))
  else if a = R.DISP_STATUS then setBits w 2 1 (b2n s.squallActive)
  else if a = R.DISP_SQUALL_CFG then setBits w 30 1 (b2n s.squallActive)
  else if a = R.DISP_RECORDS then w32 ((12224 - s.recordsUsed false) * 65536 + (64 - s.recordsUsed true))
  else if a = R.DISP_LISTS then w32 s.delayUsed
  else if R.DISP_CLASS_Q 0 ≤ a ∧ a < R.DISP_TRIG_CFG 0 ∧ a % 8 = 0 then
    setBits w 0 11 (s.readyOf ((a - R.DISP_CLASS_Q 0) / 8)).length
  else if a = R.MIX_STATUS then setBits w 0 1 (b2n (s.clipBuses > 0))
  else if a = R.MIX_TAPS_USED then w32 s.tapsUsed
  else if a = R.MIX_SETS then
    w32 ((s.mix.sets.foldl (fun m p => m + 2 ^ (p.1 - 1)) 0) * 65536 + (s.mix.sets.map fun p => p.2.length).sum)
  else if a = R.MIX_CLIP_TOTAL then w32 s.clipBuses
  else if R.BRICK_MAP 0 ≤ a ∧ a < R.MIX_CTRL ∧ a % 256 = 8 then
    let n := (a - R.BRICK_MAP 0) / 256
    setBits w (F.BRICK_VOICES_ACTIVE n).lo (F.BRICK_VOICES_ACTIVE n).width
      (if s.flag (F.BRICK_MAP_IN_SERVICE n) then s.voicesOn (s.get (F.BRICK_MAP_LOGICAL n)) else 0)
  else if a = R.SAFE_LATCHED then w32 s.latchedMask
  else if a = R.SAFE_ACTIVE then w32 s.activeMask
  else if a = R.SAFE_STATUS then
    let w := setBits w F.SAFE_STATUS_FAULT_STATE.lo 1 (b2n (s.power = .fault))
    let w := setBits w F.SAFE_STATUS_PIN_ASSERTED.lo 1 (b2n s.faultPin)
    setBits w F.SAFE_STATUS_LATCHED_CNT.lo F.SAFE_STATUS_LATCHED_CNT.width s.latchedCount
  else if a = R.SUPV_STATUS then
    let w := setBits w F.SUPV_STATUS_PATH_ANY.lo 1 (b2n (s.supv.paths.any fun p => p.fault))
    setBits w F.SUPV_STATUS_PILOT_ANY.lo 1 (b2n (s.supv.pilots.any fun p => p.fault))
  else if a = R.SUPV_AVU_STATUS then
    let en := (s.supv.paths.filter fun p => p.en).length
    let bad := (s.supv.paths.filter fun p => p.fault).length
    setBits (setBits w F.SUPV_AVU_STATUS_PATHS_EN.lo F.SUPV_AVU_STATUS_PATHS_EN.width en)
      F.SUPV_AVU_STATUS_PATHS_FAULT.lo F.SUPV_AVU_STATUS_PATHS_FAULT.width bad
  else if a = R.SYS_CAPS 4 then setBits w 0 16 (s.get F.MEMIF_NOR_CFG_SIZE_MIB)
  else if a = R.SYS_CAPS 7 then s.rd R.SYS_FW
  else if a = R.SYS_DEVID_LO then lo32 (Config.deviceId 0)
  else if a = R.SYS_DEVID_HI then lo32 (Config.deviceId 1)
  else w

/-- What a register holds, as a read returns it: 0 for an absent unit (R4) and where no register lies (R268), 0 in WO and
reserved bits (R9, R10), and otherwise the value in force. RC fields are not cleared (DEDUCED, notes/assumptions/187.md). -/
def State.view (s : State) (a : Nat) : W32 :=
  if ¬ regPresent s.variant a then 0 else s.derived a (s.rd a)

/-- Clear the RC fields of a register, as a read by an MCLK-domain agent does (R9). -/
def State.clearRc (s : State) (a : Nat) : State :=
  match regRow a with
  | none => s
  | some (r, _, _) => if r.rc = 0 then s else s.wr a (s.rd a &&& ~~~ w32 r.rc)

/-- The block of a register is disabled, so that its RWL fields are writable (R9): a port that is STOPPED, a timer that is
stopped, a UART, the stream port or the course link with its enable bit 0. -/
def State.rwlOpen (s : State) (a : Nat) : Bool :=
  if 0x44000 ≤ a ∧ a < 0x45000 then s.get (F.APORT_STATUS_STATE ((a - 0x44000) / 0x80)) = 0
  else if 0x41000 ≤ a ∧ a < 0x42000 then ¬ s.flag (F.TIM_CTRL_RUN ((a - 0x41000) / 0x40))
  else if 0x42000 ≤ a ∧ a < 0x43000 then ¬ s.flag (F.UART_CTRL_EN ((a - 0x42000) / 0x40))
  else if 0x4a000 ≤ a ∧ a < 0x4b000 then ¬ s.flag F.STRM_CTRL_EN
  else if 0x4b000 ≤ a ∧ a < 0x4c000 then ¬ s.flag F.CRSE_CTRL_CASCADE_EN
  else true

/-- The writable bits of a register: those of its row, but for SAFE_MECH[k]_CFG, whose ESCALATE ignores writes where the
reaction is RESET and whose PIN_EN is writable for codes 0x11–0x14 alone (R415, R420). -/
def rwAt (a : Nat) (r : RegRow) (n : Nat) : Nat :=
  if a = R.SAFE_MECH_CFG n then (if mechReact n = 3 then 0 else 2) + (if 0x11 ≤ n ∧ n ≤ 0x14 then 1 else 0) else r.rw

/-- The effect of writing a word to a register that has no row of its own: RW bits take the value, RWL bits only while the
block is disabled, W1C bits that are written 1 clear, W1S bits that are written 1 set, every other bit is unchanged; an
absent unit ignores the write (R4, R9, R10). -/
def State.regWrite (s : State) (a : Nat) (v : W32) : State :=
  if ¬ regPresent s.variant a then s else
  match regRow a with
  | none => s
  | some (r, n, _) =>
    let old := s.rd a
    let open_ : W32 := w32 (rwAt a r n + if s.rwlOpen a then r.rwl else 0)
    let new := (old &&& ~~~ open_) ||| (v &&& open_)
    let new := new &&& ~~~ (v &&& w32 r.w1c)
    s.wr a (new ||| (v &&& w32 r.w1s))

end Sys2Proof.Machine
end

