-- ==== Sys2Proof/Machine/Operands.lean ====
section
/-! DEFINITION. The forms in which a command carries its operands: payload words and fields, byte strings, handles,
register images (R267, R274, R288, R317), and the parts of a slab address. -/

namespace Sys2Proof

/-- Payload word n, 0 where none arrived. -/
def Kcp.w (k : Kcp) (n : Nat) : W32 := k.payload.getD n 0
/-- A field of payload word n. -/
def Kcp.f (k : Kcp) (n lo width : Nat) : Nat := bits (k.w n) lo width
/-- A bit of payload word n. -/
def Kcp.bit (k : Kcp) (n i : Nat) : Bool := Sys2Proof.bit (k.w n) i
/-- Payload word n as a number. -/
def Kcp.n (k : Kcp) (n : Nat) : Nat := (k.w n).toNat
/-- A signed 16-bit field. -/
def Kcp.s16 (k : Kcp) (n lo : Nat) : Int := signed 16 (k.f n lo 16)
/-- Two payload words as a 64-bit number, low word first. -/
def Kcp.n64 (k : Kcp) (n : Nat) : Nat := k.n n + k.n (n + 1) * 2 ^ 32
/-- N payload bytes from a word on (R267). -/
def Kcp.bytes (k : Kcp) (word count : Nat) : List Byte := ((k.payload.drop word).flatMap wordBytes).take count
/-- The length of the payload in words. -/
def Kcp.words (k : Kcp) : Nat := k.len.toNat / 4

/-- Words that N bytes fill, the last one padded (R310). -/
def wordsFor (n : Nat) : Nat := (n + 3) / 4

namespace Machine

/-- The BAD_ARG offset of a header field (R277). -/
def hdrOff : Nat := 0xFFFFFFFF

/-- The byte offset of the first check that fails (R277). -/
def firstBad : List (Bool × Nat) → Option Nat
  | [] => none
  | (ok, off) :: rest => if ok then firstBad rest else some off

/-- A payload of exactly n words (R288). -/
def lenIs (k : Kcp) (n : Nat) : Bool × Nat := (decide (k.len.toNat = 4 * n), hdrOff)

/-- A word holds no bit outside a mask: a reserved field of a payload that is not 0 is out of range (R276 step 7, R288;
DEDUCED, notes/assumptions/10.md). -/
def within (w : W32) (mask : Nat) : Bool := w &&& ~~~ w32 mask = 0

/-- The lowest bit from which every bit up to b lies outside a mask: where the reserved field that holds bit b begins. -/
def fieldStart (mask : Nat) : Nat → Nat
  | 0 => 0
  | b + 1 => if Nat.testBit mask b then b + 1 else fieldStart mask b

/-- Payload word n holds no bit outside a mask; the offset of the first reserved field that does (R277). -/
def resv (k : Kcp) (n mask : Nat) : Bool × Nat :=
  let b := ((List.range 32).find? fun i => k.bit n i ∧ ¬ Nat.testBit mask i).getD 0
  (within (k.w n) mask, 4 * n + fieldStart mask b / 8)

/-- A check of the field of word n that begins at bit lo (R277). -/
def fld (n lo : Nat) (ok : Bool) : Bool × Nat := (ok, 4 * n + lo / 8)

/-- Registers of a list of addresses as words, as a command reads them, RC fields not cleared (R317). -/
def State.image (s : State) (addrs : List Nat) : List W32 := addrs.map s.view

/-- Write a register image: the RW bits of each register, and its RWL bits while its block is disabled, take the word's
bits; every other bit keeps its value (R9, R288). -/
def State.writeImage (s : State) : List Nat → List W32 → State
  | a :: as, w :: ws =>
    let m := match regRow a with
      | none => (0 : W32)
      | some (r, n, _) => w32 (rwAt a r n + if s.rwlOpen a then r.rwl else 0)
    (s.wr a ((s.rd a &&& ~~~ m) ||| (w &&& m))).writeImage as ws
  | _, _ => s

/-- Addresses of n registers from a base on, a stride apart. -/
def addrs (base n stride : Nat) : List Nat := (List.range n).map fun i => base + i * stride

/-- The bits of a mask, as numbers below n. -/
def maskBits (m n : Nat) : List Nat := (List.range n).filter fun i => Nat.testBit m i

/-- The job that a handle names, if its record holds a job of that generation (R136). -/
def State.jobOf (s : State) (h : W32) : Option Job :=
  match s.job? (bits h 0 16) with
  | none => none
  | some j => if j.gen = bits h 16 16 then some j else none

/-- The voice that a voice handle names on this course, if it belongs to a job (R136, R309). -/
def State.voiceOf (s : State) (h : Nat) (j : Job) : Option Voice :=
  if h / 8192 ≠ s.courseNo then none else s.voiceIn (h % 8192) j.record

end Machine

end Sys2Proof
end

