-- ==== Sys2Proof/Machine/Kcp.lean ====
section
/-! DEFINITION. The mechanics every command of the Kaette Command Protocol shares (R261–R292): the checks in their order,
classification under R16, the response and where it lands, the duplicate cache, and the completion event. -/

namespace Sys2Proof.Machine

/-! The statuses of R532. -/
namespace St
def ok : Nat := 0x0000
def accepted : Nat := 0x0001
def late : Nat := 0x0002
def busy : Nat := 0x0010
def noResource : Nat := 0x0011
def crcError : Nat := 0x0020
def duplicate : Nat := 0x0021
def badArg : Nat := 0x0022
def badOpcode : Nat := 0x0023
def unsupported : Nat := 0x0024
def denied : Nat := 0x0025
def state : Nat := 0x0026
def notOwner : Nat := 0x0027
end St

/-- The kinds of command of R280. -/
inductive Kind where
  | imm | deferred | bulk | job
  deriving DecidableEq, Repr

/-- How a command's AT is treated (R16): not at all, as an edit that changes rendered content, as a job start, or as a stop,
routing, tap or zone change. -/
inductive AtRule where
  | none | content | start | routing
  deriving DecidableEq, Repr

/-- The channels a command is accepted on (R290): any, MB0, or MB0 and framed KCP on UART[1]. -/
inductive ChanRule where
  | any | mb0 | mb0u
  deriving DecidableEq, Repr

/-- What a command answers when every check has passed: the state, the response payload, and the status and media time
where they differ from those of its kind. `later` says that the effect waits for its own media time although the command takes
no AT, so that CMD_DONE waits with it. -/
structure Answer where
  state : State
  payload : List W32 := []
  status : Option Nat := none
  mt : Option Nat := none
  later : Bool := false

/-- A state and a response payload as an answer. -/
def ans (s : State) (payload : List W32 := []) : Answer := { state := s, payload := payload }

/-- A command of the catalogue: what each check of R276 asks of it and what it does.
`reads` marks an immediate read, which the safety lock does not cover (R290). `at_` commands leave their effect to their
media time; `act` is what happens at acceptance, given the media time at which the command applies. -/
structure Cmd where
  opcode : Nat
  kind : Kind := .imm
  at_ : AtRule := .none
  idle : Bool := true
  run : Bool := true
  fault : Bool := false
  chan : ChanRule := .any
  reads : Bool := false
  absent : Kcp → State → Bool := fun _ _ => false
  denied : Kcp → State → Bool := fun _ _ => false
  arg : Kcp → State → Option Nat := fun _ _ => .none
  refuse : Kcp → State → Option Nat := fun _ _ => .none
  busy : Kcp → State → Bool := fun _ _ => false
  act : Kcp → Nat → State → Answer := fun _ _ s => { state := s }
  /-- What a refusal with a status leaves behind. -/
  refused : Kcp → Nat → State → State := fun _ _ s => s
  /-- What follows once the response is posted. -/
  after : Kcp → State → State := fun _ s => s

/-- The signed difference of two sequence numbers (R278). -/
def seqDiff (a b : BitVec 16) : Int := (a - b).toInt

/-- The commands recorded on a channel, newest first (R278). -/
def State.cacheOf (s : State) (c : Nat) : List Cached := (s.host.caches.filter fun p => p.1 = c).map Prod.snd

/-- The recorded command that answers a sequence number and opcode (R278). -/
def State.cachedAnswer (s : State) (c : Nat) (seq : BitVec 16) (op : Nat) : Option Cached :=
  (s.cacheOf c).find? fun r => r.seq = seq ∧ r.opcode.toNat = op

/-- The sequence number is neither new nor answered from the cache (R278). -/
def State.isDuplicate (s : State) (c : Nat) (seq : BitVec 16) : Bool :=
  match s.cacheOf c with
  | [] => false
  | r :: _ => seqDiff seq r.seq ≤ 0

/-- Record a command in its channel's cache: one entry, or eight on VC2 (R278). LAST of a mailbox shows in its SEQ register. -/
def State.record (s : State) (c : Nat) (r : Cached) : State :=
  let keep := (s.cacheOf c).take (if c = 4 then 7 else 0)
  let others := s.host.caches.filter fun p => p.1 ≠ c
  let s := { s with host := { s.host with caches := (c, r) :: (keep.map fun x => (c, x)) ++ others } }
  if c < 4 then (s.put (F.MB_SEQ_LAST c) r.seq.toNat).set (F.MB_SEQ_LAST_VALID c) else s

/-- A channel's opening reset of its sequence space (R279). -/
def State.clearSeq (s : State) (m : Nat) : State :=
  let s := { s with host := { s.host with
    caches := s.host.caches.filter (fun p => p.1 ≠ m), seqReset := s.host.seqReset.filter (fun x => x ≠ m) } }
  if m < 4 then (((s.put (F.MB_SEQ_LAST m) 0).set (F.MB_SEQ_LAST_VALID m) false).set (F.MB_CTRL_SEQ_RESET m) false)
  else s

/-- The byte address of a mailbox buffer (R270). -/
def mbBuf (m : Nat) : Nat := 0x100 + m * 0x500

/-- The four header words of a response (R275). -/
def respHeader (r : Response) : List W32 :=
  [w32 (r.status * 65536 + r.seq.toNat),
   w32 (r.payload.length * 4 * 2 ^ 20 + b2n r.notApplied * 2 ^ 14 + b2n r.eventFollows * 2 ^ 13 + b2n r.cached * 2 ^ 12),
   lo32 r.mt, hi32 r.mt]

/-! The transmitter of a UART, which carries the response frames of UART[1] (R285, R469–R471). -/

/-- The port is enabled. -/
def State.uartOn (s : State) (n : Nat) : Bool := s.flag (F.UART_CTRL_EN n)

/-- The firmware of the Mason pair runs. -/
def State.firmware (s : State) : Bool := s.ready ∧ s.running

/-- UART[1] carries framed KCP (R478). -/
def State.framed (s : State) (n : Nat) : Bool := n = 1 ∧ s.flag (F.UART_CTRL_FRAMED 1)

/-- The firmware feeds TXD from the send buffer (R469). -/
def State.uartFeed (s : State) (n : Nat) : State :=
  let u := s.uart n
  match u.txd, u.sendBuf with
  | none, b :: r => if s.firmware then (s.setUart { u with txd := some b, sendBuf := r }).set (F.UART_STATUS_TXD_FULL n) else s
  | _, _ => s

/-- An idle shifter takes the next character: a generated flow-control character ahead of TXD, and TXD unless the
transmitter is paused (R469–R471); UART1_DE goes high (R473). -/
def State.uartKick (s : State) (n : Nat) : State :=
  let s := s.uartFeed n
  let u := s.uart n
  if u.shifter.isSome ∨ ¬ s.uartOn n then s
  else
    let de : Bool := n = 1 ∧ s.flag (F.UART_CTRL_DE_EN 1)
    match u.flowOut with
    | c :: r =>
      let s := s.setUart { u with shifter := some c, flowOut := r, deHigh := u.deHigh || de }
      s.set (F.UART_STATUS_TX_BUSY n)
    | [] =>
      match u.txd with
      | some c =>
        if s.flag (F.UART_STATUS_TX_PAUSED n) then s
        else
          let s := s.setUart { u with shifter := some c, txd := none, deHigh := u.deHigh || de }
          ((s.set (F.UART_STATUS_TX_BUSY n)).set (F.UART_STATUS_TXD_FULL n) false).uartFeed n
      | none => s

/-- A body byte as a frame carries it (R285). -/
def escaped (b : Byte) : List Byte := if b = 0x10 ∨ b = 0x11 ∨ b = 0x13 then [0x10, b ^^^ 0x20] else [b]

/-- The frame that carries words on UART[1]: header, payload and CRC-16, low byte first, escaped between its marks (R285). -/
def frameOf (ws : List W32) : List Byte :=
  let bs := bytesOfWords ws
  let crc := crc16 bs
  [0x10, 0x02] ++ (bs ++ [crc.extractLsb' 0 8, crc.extractLsb' 8 8]).flatMap escaped ++ [0x10, 0x03]

/-- The answer to a frame that found a command in progress or a response waiting (R286). -/
def uartBusyFor (seq : BitVec 16) : Response := ⟨5, St.busy, seq, false, false, false, 0, [1]⟩

/-- A frame goes to the transmitter of UART[1], behind what waits there (R285, R469). -/
def State.sendFrame (s : State) (r : Response) : State :=
  if s.framed 1 ∧ s.uartOn 1 then
    (s.setUart { s.uart 1 with sendBuf := (s.uart 1).sendBuf ++ frameOf (respHeader r ++ r.payload) }).uartKick 1
  else s

/-- Post a response on its channel: into the mailbox buffer, with DONE and MB_DONE (R271); as flits on VC2, which take
credits (R284, R324); or as a frame on UART[1], with the BUSY answers that waited behind it (R285, R286). A sequence reset that waited acts afterwards (R279) (DESIGN CHOICE, notes/assumptions/188.md). -/
def State.respond (s : State) (r : Response) : State :=
  let s := { s with host := { s.host with
    response := some r, rung := if r.chan = 4 then s.host.rung.eraseP (fun x => x.1 = 4) else s.host.rung.filter (fun x => x.1 ≠ r.chan) } }
  let s :=
    if r.chan < 4 then
      let s := s.wrList (mbBuf r.chan) (respHeader r ++ r.payload)
      let s := (s.put (F.MB_STAT_STATE r.chan) 2).put (F.MB_STAT_LAST_STATUS r.chan) r.status
      s.wr R.HOST_IRQ_STAT (s.rd R.HOST_IRQ_STAT ||| w32 (2 ^ r.chan))
    else if r.chan = 4 then
      let s := s.put F.KCP_VC2_INFLIGHT (s.get F.KCP_VC2_INFLIGHT - 1)
      (s.spend 2 (1 + (r.payload.length + 3) / 4)).getD s
    else
      let s := s.sendFrame r
      let late := s.host.uartBusy
      forEach late { s with host := { s.host with uartBusy := [] } } fun q s => s.sendFrame (uartBusyFor q)
  if s.host.seqReset.contains r.chan then s.clearSeq r.chan else s

/-- The response of R275 to a refused command, or to a late one under STRICT. -/
def refusal (k : Kcp) (status : Nat) (payload : List W32) (mt : Nat) (notApplied : Bool) : Response :=
  ⟨k.chan, status, k.seq, notApplied, false, false, mt, payload⟩

/-- The status of a command is recorded (R278). -/
def recorded (status : Nat) : Bool := status ≠ St.busy ∧ status ≠ St.crcError ∧ status ≠ St.duplicate

/-- Record a response in the duplicate cache, if its status is recorded, and post it. -/
def State.reply (s : State) (op : Nat) (r : Response) : State :=
  let flags : W32 := w32 (b2n r.notApplied * 2 ^ 14 + b2n r.eventFollows * 2 ^ 13)
  let s := if recorded r.status then
    s.record r.chan ⟨r.seq, BitVec.ofNat 16 op, r.status, flags, r.mt, r.payload⟩ else s
  s.respond r

/-- Post CMD_DONE for a command whose effect has been applied (R274, R282, R318). -/
def State.cmdDone (s : State) (op chan : Nat) (seq : BitVec 16) (status mt : Nat) : State :=
  s.postAt 0x0001 chan mt [w32 (op * 65536 + seq.toNat), w32 status]

/-- AT names block C + 1 or earlier (R16); AT = 0 is not late. -/
def State.isLate (s : State) (at_ : Nat) : Bool := at_ ≠ 0 ∧ s.blockOf at_ ≤ s.commit + 1

/-- The sample at which a timestamped command applies (R16). -/
def State.applyAt (s : State) (at_ : Nat) : Nat := if at_ = 0 ∨ s.isLate at_ then s.soonest else at_

/-- The power state executes the command (R289). -/
def Cmd.stateOk (c : Cmd) (s : State) : Bool :=
  match s.power with
  | .idle => c.idle | .run => c.run | .fault => c.fault | _ => false

/-- The channels that a rule admits (R290). -/
def ChanRule.admits : ChanRule → Nat → Bool
  | .any, _ => true
  | .mb0, c => c = 0
  | .mb0u, c => c = 0 ∨ c = 5

/-- The channel may send the command, and no safety lock stops it (R290, R302). -/
def Cmd.permitted (c : Cmd) (k : Kcp) (s : State) : Bool :=
  c.chan.admits k.chan ∧
    (k.chan.val = 0 ∨ (c.kind = .imm ∧ c.reads) ∨ ¬ bit (s.rd R.SAFE_LOCK) (c.opcode / 256))

/-- The header fails step 3 of R276. -/
def badHeader (k : Kcp) : Bool := k.len.toNat > 1024 ∨ k.len.toNat % 4 ≠ 0 ∨ k.rsvd

/-- The first failing check of R276 steps 3 and 5 to 9: the status and the response payload of R277 (DEDUCED, notes/assumptions/33.md; DESIGN CHOICE, notes/assumptions/173.md). -/
def Cmd.check (c : Cmd) (k : Kcp) (s : State) : Option (Nat × List W32) :=
  if badHeader k then some (St.badArg, [w32 hdrOff])
  else if c.absent k s then some (St.unsupported, [])
  else if ¬ c.permitted k s ∨ c.denied k s then some (St.denied, [])
  else match c.arg k s with
    | some off => some (St.badArg, [w32 off])
    | none =>
      if ¬ c.stateOk s then some (St.state, [])
      else match c.refuse k s with
        | some st => some (st, [])
        | none => if c.busy k s then some (St.busy, [w32 (clampI 1 1500 (Config.retryHint s.free)).toNat]) else none

/-- The status that an accepted command answers (R16, R280). -/
def Cmd.okStatus (c : Cmd) (k : Kcp) (s : State) : Nat :=
  if c.at_ ≠ .none ∧ s.isLate k.time.toNat then St.late
  else if c.kind = .imm then St.ok else St.accepted

/-- The media time that an accepted command's response carries (R275). -/
def Cmd.okMt (c : Cmd) (k : Kcp) (s : State) : Nat :=
  if c.at_ = .none then s.time.mt else s.applyAt k.time.toNat

/-- STRICT refuses the command as late (R274). -/
def Cmd.strictLate (c : Cmd) (k : Kcp) (s : State) : Bool :=
  k.strict ∧ c.at_ ≠ .none ∧ s.isLate k.time.toNat

/-- Run a command whose checks have passed (R276 step 10) (DEDUCED, notes/assumptions/83.md). -/
def Cmd.accept (c : Cmd) (k : Kcp) (s : State) : State :=
  let st := c.okStatus k s
  let mt := c.okMt k s
  let a := c.act k mt s
  let st := a.status.getD st
  let mt := a.mt.getD mt
  let s := a.state
  let s := if c.at_ = .none then s else
    { s with timed := s.timed ++ [⟨mt, s.order, c.opcode, k.payload, k.chan, k.seq, st, k.notify⟩], order := s.order + 1 }
  let s := s.reply c.opcode ⟨k.chan, st, k.seq, false, (c.kind = .deferred ∨ c.kind = .bulk) ∧ (st = St.accepted ∨ st = St.late), false, mt,
    a.payload⟩
  let s := if c.at_ = .none ∧ k.notify ∧ st < 0x10 ∧ ¬ a.later then s.cmdDone c.opcode k.chan k.seq st mt else s
  c.after k s

/-- Count a command as taken (HOST_CMD_CNT, SYS_CMD_CNT). -/
def State.countTaken (s : State) (chan : Nat) : State :=
  (s.bump F.HOST_CMD_CNT_COUNT).bump (F.SYS_CMD_CNT_COUNT chan)

/-- Steps 1 and 2 of R276 for a command of an opcode, and what follows when they pass. -/
def State.screened (s : State) (k : Kcp) (op : Nat) (next : State → State) : State :=
  let s := s.countTaken k.chan
  if ¬ k.crcOk then s.reply op (refusal k St.crcError [] 0 false)
  else match s.cachedAnswer k.chan k.seq op with
    | some r => s.respond ⟨k.chan, r.status, k.seq, bit r.flags 14, bit r.flags 13, true, r.mt, r.payload⟩
    | none => if s.isDuplicate k.chan k.seq then s.reply op (refusal k St.duplicate [] 0 false) else next s

/-- The Mason pair takes a command and checks it in the order of R276, answering at the first failure. -/
def Cmd.take (c : Cmd) (k : Kcp) (s : State) : State :=
  s.screened k c.opcode fun s =>
    match c.check k s with
    | some (st, p) => (c.refused k st s).reply c.opcode (refusal k st p 0 false)
    | none =>
      if c.strictLate k s then s.reply c.opcode (refusal k St.late [] s.soonest true)
      else c.accept k s

/-- The Mason pair takes commands: READY is 1 (R263), and no RESET reaction has frozen the pair (R417). -/
def State.taking (s : State) : Bool := s.ready ∧ s.safe.resetDue.isNone

/-- Commands wait for READY: in BOOT, in Lull and while waking from it (R263, R289) (DEDUCED, notes/assumptions/24.md). -/
def State.waits (s : State) : Bool := ¬ s.ready ∧ s.power ≠ .off ∧ s.power ≠ .reset

/-- A command that arrives while READY is 0 waits behind those that arrived before it. -/
def State.hold (s : State) (op : Nat) (k : Kcp) : State :=
  if s.waits then { s with host := { s.host with waiting := s.host.waiting ++ [(op, k)] } } else s

/-- A command of the protocol, taken from its channel, or left to wait (DESIGN CHOICE, notes/assumptions/25.md). -/
def kcpExec (c : Cmd) (k : Kcp) (s : State) : State := if s.taking then c.take k s else s.hold c.opcode k

/-! Commands of an opcode that the catalogue does not list (R276 step 4, R287): they have no row, so the row that delivers one also
takes it (DEDUCED, notes/assumptions/21.md). -/

/-- The opcodes of the catalogue in each group 0x01 to 0x14. -/
def opcodesOf : Nat → List Nat
  | 0x01 => upTo 1 8 | 0x02 => upTo 1 6 | 0x03 => upTo 1 6
  | 0x04 => upTo 1 7 ++ 0x10 :: upTo 0x20 0x24
  | 0x05 => upTo 1 12 | 0x06 => upTo 1 16 | 0x07 => upTo 1 6 | 0x08 => upTo 1 5 | 0x09 => upTo 1 5
  | 0x0A => upTo 1 6 | 0x0B => upTo 1 3 | 0x0C => upTo 1 10 | 0x0D => upTo 1 6 | 0x0E => upTo 1 4
  | 0x0F => upTo 1 4 | 0x10 => upTo 1 5 | 0x11 => upTo 1 4 | 0x12 => upTo 1 6 | 0x13 => upTo 1 6
  | 0x14 => upTo 1 6 | _ => []
where
  upTo (a b : Nat) : List Nat := (List.range (b + 1 - a)).map fun i => a + i

/-- The catalogue lists an opcode. -/
def knownOpcode (op : Nat) : Bool := (opcodesOf (op / 256)).contains (op % 256)

/-- The command that header and payload words spell (R274). -/
def wordsKcp (chan : Fin 6) (crcOk : Bool) (ws : List W32) : Kcp :=
  let w0 := ws.getD 0 0
  let w1 := ws.getD 1 0
  let len := bits w1 20 12
  ⟨chan, w0.extractLsb' 0 16, w1.extractLsb' 20 12, bit w1 13, bit w1 12, decide (w1 &&& 0x000FCFFF#32 ≠ 0),
    ws.getD 3 0 ++ ws.getD 2 0, crcOk, (ws.drop 4).take ((len + 3) / 4)⟩

/-- A command whose opcode the catalogue does not list (R276 steps 1 to 4). -/
def State.takeUnknown (s : State) (op : Nat) (k : Kcp) : State :=
  if ¬ s.taking then s.hold op k
  else s.screened k op fun s =>
    s.reply op (if badHeader k then refusal k St.badArg [w32 hdrOff] 0 false else refusal k St.badOpcode [] 0 false)

/-- A delivered message whose opcode the catalogue does not list is taken and answered. -/
def State.screenOpcode (s : State) (chan : Fin 6) (crcOk : Bool) (ws : List W32) : State :=
  let op := bits (ws.getD 0 0) 16 16
  if knownOpcode op then s else s.takeUnknown op (wordsKcp chan crcOk ws)

end Sys2Proof.Machine
end

