-- ==== Sys2Proof/Machine/Taps.lean ====
section
/-! DEFINITION. Gains, ramps and the tap table (R182–R194): how a tap change applies, what it costs, and when an entry is
freed. -/

namespace Sys2Proof.Machine

/-- A gain limited to +24.00 dB, mute at −120.00 dB and below (R183). -/
def clampGain (g : Int) : Int := if g ≤ muteCode then muteCode else if 3072 < g then 3072 else g

/-- The amplitude of a gain, in 2^−60 of unity. -/
def ampOf (g : Int) : Int := if g ≤ muteCode then 0 else Fx.gain g 128

/-- The coefficient of an amplitude (R184), in 2^−60 of unity: through the gain table, whose error is at most 0.001 dB; 0.00 dB passes
unchanged (DESIGN CHOICE, notes/assumptions/31.md). -/
def tableOf (a : Int) : Int :=
  if a ≤ 0 then 0 else if a = Fx.unit then a
  else within_ (a - a * 115122 / 10 ^ 9) (a + a * 115135 / 10 ^ 9) (a + Config.gainError a)

/-- The coefficient of a gain at rest. -/
def coefOf (g : Int) : Int := tableOf (ampOf g)

/-- The length of a ramp in samples (R185, R216). -/
def rampLen (bl code : Nat) : Nat := if code = 0 then 32 else if code = 256 then bl else code * bl

/-- A ramp is over at a media time. -/
def Leg.over (r : Leg) (bl mt : Nat) : Bool := r.src = ampOf r.dst ∨ r.start + rampLen bl r.code ≤ mt

/-- From one amplitude to another in so many steps of equal decibels (R185). -/
def dbPath (a c : Int) (k n : Nat) : Int :=
  Fx.exp (Fx.mul (((n - k : Nat) * Fx.log2 a + k * Fx.log2 c) / n) Fx.ln2)

/-- A ramp at a sample (R185): linear in amplitude, or linear in decibels between its ends, with 32 samples of linear amplitude at a
mute end, where the path ends 60 dB below the other. The sample at which it starts has the gain before it (DESIGN CHOICE,
notes/assumptions/106.md). What converts an amplitude is given. -/
def Leg.along (t : Int → Int) (r : Leg) (bl mt : Nat) : Int :=
  let n := rampLen bl r.code
  let k := mt - r.start
  let a := r.src
  let c := ampOf r.dst
  if r.over bl mt then t c
  else if n ≤ 32 ∨ r.code = 256 then t a + (t c - t a) * k / n
  else
    let lo := if a = 0 then 32 else 0
    let hi := if c = 0 then 32 else 0
    let a' := if a = 0 then c / 1000 else a
    let c' := if c = 0 then a / 1000 else c
    if k < lo then t a' * k / 32
    else if n - hi ≤ k then t c' * (n - k : Nat) / 32
    else t (dbPath a' c' (k - lo) (n - lo - hi))

/-- The amplitude that a ramp has reached, and its coefficient (R184, R186). -/
def Leg.amp (r : Leg) (bl mt : Nat) : Int := r.along id bl mt
def Leg.coef (r : Leg) (bl mt : Nat) : Int := r.along tableOf bl mt

/-- The gain that a ramp has reached, in 1/128 dB (R182). -/
def Leg.gain (r : Leg) (bl mt : Nat) : Int :=
  if r.over bl mt then r.dst else powerCode 3072 ((r.amp bl mt).toNat ^ 2) (2 ^ 120)

/-- The ramp that a gain follows at a media time. -/
def Ramp.leg (r : Ramp) (mt : Nat) : Leg :=
  if r.start ≤ mt then r.toLeg else (r.past.find? fun l => l.start ≤ mt).getD (r.past.getLast?.getD r.toLeg)
def Ramp.gain (r : Ramp) (bl mt : Nat) : Int := (r.leg mt).gain bl mt
def Ramp.amp (r : Ramp) (bl mt : Nat) : Int := (r.leg mt).amp bl mt
def Ramp.coef (r : Ramp) (bl mt : Nat) : Int := (r.leg mt).coef bl mt
/-- The newest ramp of a gain is over. -/
def Ramp.over (r : Ramp) (bl mt : Nat) : Bool := r.toLeg.over bl mt

/-- Of ramps, newest first, that gave way at a sample: those that a unit may still need. Every unit handles a block at most 16
blocks after it has been mixed. -/
def keepLegs (mt : Nat) : Nat → List Leg → List Leg
  | _, [] => []
  | till, l :: ls => if till + 1024 ≤ mt then [] else l :: keepLegs mt l.start ls

/-- A ramp that starts at a media time from the gain then reached (R186). -/
def Ramp.to (r : Ramp) (bl mt : Nat) (g : Int) (code : Nat) : Ramp :=
  ⟨⟨r.amp bl mt, g, mt, code⟩, keepLegs mt mt (r.toLeg :: r.past)⟩

/-- A gain that changes at once at a media time. -/
def Ramp.step (r : Ramp) (mt : Nat) (g : Int) : Ramp := ⟨⟨ampOf g, g, mt, 0⟩, keepLegs mt mt (r.toLeg :: r.past)⟩

/-- Blocks of a ramp that are left, as MIX.GET_TAPS reports them (R182). -/
def Ramp.blocksLeft (r : Ramp) (bl mt : Nat) : Nat :=
  if r.over bl mt then 0 else (r.start + rampLen bl r.code - mt + bl - 1) / bl

/-- A tap's coefficient at a sample: its gain, and the duck's gain added in decibels; a sum at or below −120.00 dB is mute (R187). -/
def Tap.coef (t : Tap) (bl mt : Nat) : Int :=
  let r := t.ramp.leg mt
  let d := t.duck.leg mt
  if t.muted ∨ mt < r.start ∧ r.src = 0 then 0
  else if d.dst = 0 ∧ d.over bl mt then r.coef bl mt
  else if r.over bl mt ∧ d.over bl mt then if r.dst ≤ muteCode ∨ d.dst ≤ muteCode then 0 else coefOf (r.dst + d.dst)
  else
    let p := Fx.mul (r.amp bl mt) (d.amp bl mt)
    if p ≤ Fx.unit / 10 ^ 6 then 0 else tableOf p

/-- The tap at a crosspoint, of a job's voice or of a source that is no voice. -/
def State.tap? (s : State) (src bus : Nat) (job : Option Nat) : Option Tap :=
  s.mix.taps.find? fun t => t.src = src ∧ t.bus = bus ∧ t.job = job

def State.setTaps (s : State) (l : List Tap) : State := { s with mix := { s.mix with taps := l } }
def State.setPend (s : State) (l : List TapPend) : State := { s with mix := { s.mix with pend := l } }

/-- Insert or replace a tap, crosspoints rising. -/
def putTap (t : Tap) (l : List Tap) : List Tap :=
  let rest := l.filter fun x => ¬ (x.src = t.src ∧ x.bus = t.bus ∧ x.job = t.job)
  rest.filter (fun x => x.src * 512 + x.bus ≤ t.src * 512 + t.bus) ++
    t :: rest.filter (fun x => t.src * 512 + t.bus < x.src * 512 + x.bus)

/-- Record an applied tap change (MIX_LAST_APPLY, MIX_CHANGE_CNT). -/
def State.tapApplied (s : State) (mt : Nat) : State :=
  (s.wr64 R.MIX_LAST_APPLY_LO R.MIX_LAST_APPLY_HI mt).bump F.MIX_CHANGE_CNT_COUNT

/-- Apply a tap gain at a crosspoint at a sample (R183, R185, R186): an off record ramps the tap to mute and deletes it, or
has no effect where there is none; any other gain ramps the tap, or a new one, from the gain reached: mute where the tap's word was
lost, which the change writes anew (R200; DESIGN CHOICE, notes/assumptions/206.md). -/
def State.tapSet (s : State) (src bus : Nat) (job : Option Nat) (hw : Bool) (g : Int) (code mt : Nat) : State :=
  match s.tap? src bus job with
  | some t =>
    let r0 := if t.muted then { t.ramp with toLeg := ⟨0, muteCode, 0, 0⟩ } else t.ramp
    let r := r0.to s.bl mt (if g = -32768 then muteCode else clampGain g) code
    (s.setTaps (putTap { t with ramp := r, deleting := g = -32768, muted := false } s.mix.taps)).tapApplied mt
  | none =>
    if g = -32768 then s
    else (s.setTaps (putTap ⟨src, bus, .of 0 (clampGain g) mt code, false, job, hw, .unity, false⟩
      s.mix.taps)).tapApplied mt

/-- Discard a record whose slot does not hold a voice of its job (R194). -/
def State.tapDiscard (s : State) (e : TapRec) (mt : Nat) : State :=
  ((s.bump F.MIX_DISCARD_CNT_COUNT).set F.MIX_STATUS_DISCARD).postAt 0x0502 0xFFFF mt [w32 (e.src * 512 + e.bus), e.job]

/-- An entry kept for a crosspoint is freed, or becomes that of the tap which the change re-creates (R191). -/
def State.unkeep (s : State) (key : Nat × Nat × Option Nat) : State :=
  { s with mix := { s.mix with kept := s.mix.kept.filter fun x => x ≠ key } }

/-- Apply one accepted record at its sample (R186, R194). -/
def State.applyRec (s : State) (mt : Nat) (e : TapRec) : State :=
  let s := s.unkeep e.key
  if e.src < 8192 then
    match s.jobOf e.job with
    | some j => if (s.voiceIn e.src j.record).isSome then s.tapSet e.src e.bus (some j.record) false e.gain e.ramp mt
        else s.tapDiscard e mt
    | none => s.tapDiscard e mt
  else s.tapSet e.src e.bus none false e.gain e.ramp mt

/-- The accepted tap changes that are due up to a sample and a place in the order of acceptance, in that order (R186). -/
def State.dueTaps (s : State) (mt order : Nat) : List TapPend :=
  isort (fun a b => a.mt < b.mt ∨ a.mt = b.mt ∧ a.order ≤ b.order)
    (s.mix.pend.filter fun p => ¬ p.entry.vrel ∧ (p.mt < mt ∨ p.mt = mt ∧ p.order ≤ order))

/-- Apply every tap change that is due; one that a jump has passed acts at the block after it (R39). -/
def State.flushTaps (s : State) (mt order : Nat) : State :=
  let due := s.dueTaps mt order
  let s := s.setPend (s.mix.pend.filter fun p => ¬ (¬ p.entry.vrel ∧ (p.mt < mt ∨ p.mt = mt ∧ p.order ≤ order)))
  forEach due s fun p s => s.applyRec (max p.mt (s.startOf s.commit)) p.entry

/-- Host tap entries at the rate in force: the table's limit less the reserve of hardware-triggered jobs (R190). -/
def State.hostEntries (s : State) : Nat := s.get F.MIX_TAPS_LIMIT_LIMIT - s.get F.MIX_TAPS_LIMIT_HW_RESERVE

/-- Entries taken by taps other than those of hardware-triggered jobs. -/
def State.hostUsed (s : State) : Nat := s.tapsUsed - (s.mix.taps.filter fun t => t.hardware).length

/-- Entries of a source, and of a voice index of a job that is not placed (R190, R192). -/
def State.srcUsed (s : State) (src : Nat) : Nat := (s.entryKeys.filter fun k => k.1 = src).length
def State.vrelUsed (s : State) (job : W32) (v : Nat) : Nat :=
  (s.vrelKeys.filter fun k => k.1 = job.toNat ∧ k.2.1 = v).length

/-- Note the entries in use: the peak, and the TAPS_FULL event at the host entries, posted again only after the total has
fallen below 95 % of them (R192). -/
def State.tapsNote (s : State) (job : W32) : State :=
  let u := s.tapsUsed
  let s := if s.get F.MIX_TAPS_PEAK_PEAK < u then s.put F.MIX_TAPS_PEAK_PEAK u else s
  if s.mix.fullPosted then
    if u * 100 < s.hostEntries * 95 then { s with mix := { s.mix with fullPosted := false } } else s
  else if s.hostEntries ≤ u then
    { s.post 0x0503 0xFFFF [w32 u, job] with mix := { s.mix with fullPosted := true } }
  else s

/-- Free the entries of taps whose deletion has completed by the end of a block; one with an accepted change of its crosspoint
still pending stays taken (R191). -/
def State.tapsFree (s : State) (b : Nat) : State :=
  let e := s.startOf (b + 1)
  let gone := s.mix.taps.filter fun t => t.deleting ∧ t.ramp.over s.bl e
  let awaited := (gone.map fun t => (t.src, t.bus, t.job)).filter fun x =>
    s.mix.pend.any fun p => ¬ p.entry.vrel ∧ p.entry.key = x
  { s with mix := { s.mix with
    kept := s.mix.kept ++ awaited,
    taps := s.mix.taps.filter fun t => ¬ (t.deleting ∧ t.ramp.over s.bl e) } }.tapsNote 0

/-- Remove every tap of a voice that ends, and the pending records that addressed it by index (R194). -/
def State.dropTaps (s : State) (src record : Nat) : State :=
  { s with mix := { s.mix with
    taps := s.mix.taps.filter fun t => ¬ (t.src = src ∧ t.job = some record),
    pend := s.mix.pend.filter fun p =>
      ¬ (p.byIndex ∧ ¬ p.entry.vrel ∧ p.entry.src = src ∧ p.entry.owner = some record),
    kept := s.mix.kept.filter fun x => ¬ (x.1 = src ∧ x.2.2 = some record) } }.tapsNote 0

/-- Free the entries of records that address voices of a job by index (R194). -/
def State.dropVrel (s : State) (job : W32) : State :=
  s.setPend (s.mix.pend.filter fun p => ¬ (p.entry.vrel ∧ p.entry.job = job))

/-- Attach the records that address a voice by index to the voice just placed (R194): they act from the later of their AT
and the voice's first sample. -/
def State.bindVrel (s : State) (job : W32) (v src startMt : Nat) : State :=
  s.setPend (s.mix.pend.map fun p =>
    if p.entry.vrel ∧ p.entry.job = job ∧ p.entry.src = v then
      { p with mt := max p.mt startMt, entry := { p.entry with vrel := false, src := src } } else p)

/-- The class of a source that is no voice (R195). -/
def State.srcClass (s : State) (src : Nat) : SrcClass :=
  (pick SrcClass.src src s.mix.classes).getD ⟨src, 15, 0, 0, 0⟩

end Sys2Proof.Machine
end

