-- ==== Sys2Proof/Machine/Images.lean ====
section
/-! DEFINITION. Bank images (R88–R98, R107, R118–R125): reading an image, the vault's mirror, the checks of R123, presets and
scripts, and which banks may be bound. -/

namespace Sys2Proof.Machine

/-! Reading bytes of an image by a function, so that a bank's image and the vault's mirror read alike. -/

/-- A byte string by offset. -/
abbrev Bytes.get (b : Bytes) (i : Nat) : Byte := (kget b i).getD 0

/-- A byte of the slab mirror of the vault, slabs 28–31 (R131, R429) (DEDUCED, notes/assumptions/147.md). -/
def State.vaultByte (s : State) (i : Nat) : Byte :=
  ((kget s.slabs.words (28 * 65536 + i / 8)).getD 0).extractLsb' (8 * (i % 8)) 8

/-- The bytes of the mirror as an image, to its own length. -/
def State.vaultBytes (s : State) : Bytes :=
  let len := (ofBytes (s.vaultByte 8) (s.vaultByte 9) (s.vaultByte 10) (s.vaultByte 11)).toNat
  bytesPut [] 0 ((List.range (min len 2097152)).map s.vaultByte)

/-- The bytes of the playable image of a bank (R95, R122, R125). -/
def State.imageOf (s : State) (n : Nat) : Option Bytes :=
  if n = 255 then if (s.bank 255).state = .vault then some s.vaultBytes else none
  else (s.bank n).image.map Image.bytes

/-- The bank may be bound: resident, playable while a replacement arrives, or the vault (R122, R127). -/
def State.bindable (s : State) (n : Nat) : Bool :=
  match (s.bank n).state with
  | .resident => true | .replacing => true | .vault => n = 255 | _ => false

/-- The generation of the image that a bank's next binding takes; the vault's is 0. -/
def State.imageGen (s : State) (n : Nat) : Nat := ((s.bank n).image.map Image.gen).getD 0

/-! The header of R119. -/
def hw (b : Bytes) (off : Nat) : Nat := (byteWord b off).toNat
def imgLen (b : Bytes) : Nat := hw b 0x08
def nTiles (b : Bytes) : Nat := hw b 0x0C
def dirOff (b : Bytes) : Nat := hw b 0x10
def nPresets (b : Bytes) : Nat := hw b 0x14
def presetOff (b : Bytes) : Nat := hw b 0x18
def nScripts (b : Bytes) : Nat := hw b 0x1C
def sdirOff (b : Bytes) : Nat := hw b 0x20

/-- A directory entry (R120). -/
structure TileEntry where
  dataOff : Nat
  kind : Nat
  format : Nat
  rate : Nat
  nsamp : Nat
  head : Nat
  tail : Nat
  pmOff : Nat
  deriving DecidableEq, Repr

/-- Entry n of the tile directory. A WAVETABLE tile's pitch-mark offset is ignored (R92). -/
def tileEntry (b : Bytes) (n : Nat) : TileEntry :=
  let o := dirOff b + 16 * n
  let w0 := byteWord b o
  let w1 := byteWord b (o + 4)
  let w2 := byteWord b (o + 8)
  ⟨bits w0 4 28 * 16, bits w0 2 2, bits w0 0 2, bits w1 28 4, bits w1 0 28, bits w2 16 16, bits w2 0 16,
    if bits w0 2 2 = 2 then 0 else hw b (o + 12)⟩

/-- Bytes of sample data of a tile (R120). -/
def TileEntry.dataLen (e : TileEntry) : Nat :=
  match e.format with | 0 => 2 * e.nsamp | 1 => 3 * e.nsamp | _ => 132 * ((e.nsamp + 255) / 256)

/-- Source samples per second of a rate code (R89). -/
def tileHz : Nat → Nat
  | 0 => 8000 | 1 => 11025 | 2 => 16000 | 3 => 22050 | 4 => 24000 | 5 => 32000 | 6 => 44100 | _ => 48000

/-- The nominal length in source samples (R91). -/
def TileEntry.nominal (e : TileEntry) : Nat := e.nsamp - e.head - e.tail

/-- The bytes of a pitch-mark table (R93). -/
def pmLen (b : Bytes) (e : TileEntry) : Nat := if e.pmOff = 0 then 0 else 4 + 4 * hw b e.pmOff

/-- A tile's CRC as it reads: over its directory entry, its sample data and its pitch-mark table (R120). -/
def tileCrc (b : Bytes) (n : Nat) : W32 :=
  let e := tileEntry b n
  crc32 (bytesAt b (dirOff b + 16 * n) 16 ++ bytesAt b e.dataOff e.dataLen ++ bytesAt b e.pmOff (pmLen b e))

/-- A tile's CRC agrees (R120). -/
def tileCrcOk (b : Bytes) (n : Nat) : Bool :=
  let e := tileEntry b n
  tileCrc b n = byteWord b (e.dataOff + e.dataLen)

/-- A directory entry is well formed (R123). -/
def entryOk (e : TileEntry) : Bool :=
  if 3 ≤ e.kind ∨ 3 ≤ e.format then false
  else if e.kind = 2 then e.format < 2 ∧ 1 ≤ e.head ∧ e.head ≤ 256 ∧ e.tail = 0 ∧ e.nsamp = e.head * 11 * 2048
  else e.rate < 8 ∧ e.head + e.tail < e.nsamp

/-- The sample data, the CRC and the pitch-mark table of an entry lie within the image (R119, R123); a reserved FORMAT gives the data
no length. -/
def entryInside (b : Bytes) (e : TileEntry) : Bool :=
  (if e.format = 3 then e.dataOff else e.dataOff + e.dataLen + 4) ≤ imgLen b ∧ e.pmOff + pmLen b e ≤ imgLen b

/-- Marks of a table in order: ascending positions; regions open with type 0b01 and close with 0b10; successive marks in a
region lie between 1 ms and 20 ms apart (R93). -/
def marksOk (hz nsamp : Nat) : List W32 → Option Nat → Bool → Bool
  | [], _, opened => ¬ opened
  | m :: ms, prev, opened =>
    let pos := bits m 0 28
    let ty := bits m 30 2
    let asc := match prev with | none => true | some p => decide (p < pos)
    let gap := match prev with | none => true | some p => decide (hz ≤ (pos - p) * 1000 ∧ (pos - p) * 1000 ≤ 20 * hz)
    let ok := decide (bits m 28 2 = 0 ∧ pos < nsamp) && asc &&
      (match ty with | 0 => opened && gap | 1 => !opened | 2 => opened | _ => false)
    ok && marksOk hz nsamp ms (some pos) (ty ≠ 2)

/-- A tile's pitch-mark table is well formed (R93). -/
def tileMarksOk (b : Bytes) (n : Nat) : Bool :=
  let e := tileEntry b n
  if e.pmOff = 0 then true
  else marksOk (tileHz e.rate) e.nsamp (wordsOfBytes (bytesAt b (e.pmOff + 4) (4 * hw b e.pmOff))) none false

/-! Scripts (R97, R98, R107). -/

/-- Words an operation takes, 0 for an undefined one. -/
def opWords (w : W32) : Nat :=
  match bits w 24 8 with
  | 0x00 => 1 | 0x01 => 2 | 0x02 => 1 | 0x03 => 1 | 0x04 => 1 | 0x05 => 1 | 0x06 => 1 | 0x07 => 1
  | 0x08 => if bits w 22 2 = 3 then 3 else 1
  | 0x09 => 1 | 0x0A => 1 | _ => 0

/-- The codes of an operation word are defined and its reserved fields 0 (R98–R104, R107). -/
def opOk (w : W32) (arg : W32) : Bool :=
  match bits w 24 8 with
  | 0x00 => bits w 0 24 = 0
  | 0x01 => bits w 0 16 = 0 ∧ bits arg 2 2 = 0
  | 0x02 => true
  | 0x03 => bits w 20 4 ≤ 3
  | 0x04 => bits w 16 8 = 0
  | 0x05 => bits w 16 8 = 0
  | 0x06 => bits w 16 8 = 0
  | 0x07 => bits w 16 2 ≤ 2
  | 0x08 => bits w 20 1 = 0 ∧ (bits w 22 2 ≠ 0 ∨ bits w 0 16 ≠ 0)
  | 0x09 => true
  | 0x0A => true
  | _ => false

/-- The operations of a script from an index on, as index and word; none where a word cannot be read as one. The fuel is
the number of words. -/
def opsFrom : Nat → Nat → List W32 → Option (List (Nat × W32))
  | _, _, [] => some []
  | 0, _, _ => none
  | fuel + 1, i, w :: ws =>
    let n := opWords w
    if n = 0 ∨ ws.length + 1 < n ∨ ¬ opOk w (ws.headD 0) then none
    else (opsFrom fuel (i + n) (ws.drop (n - 1))).map fun l => (i, w) :: l

/-- The loops of a list of operations: target and index. -/
def loopsOf (l : List (Nat × W32)) : List (Nat × Nat) :=
  (l.filter fun p => bits p.2 24 8 = 0x09).map fun p => (p.1 - bits p.2 0 16, p.1)

/-- Loop bodies: targets are operation words before the loop and not before `first`; bodies nest properly, at most 4 deep,
and each holds a TILE, a GAP or a SYNC (R107). -/
def loopsOk (first : Nat) (l : List (Nat × W32)) : Bool :=
  let loops := loopsOf l
  (l.all fun p => bits p.2 24 8 ≠ 0x09 ∨
    (bits p.2 0 16 ≥ 1 ∧ first + bits p.2 0 16 ≤ p.1 ∧ l.any fun q => q.1 = p.1 - bits p.2 0 16)) ∧
  (loops.all fun x => l.any fun q => x.1 ≤ q.1 ∧ q.1 < x.2 ∧
    (bits q.2 24 8 = 0x01 ∨ bits q.2 24 8 = 0x02 ∨ bits q.2 24 8 = 0x08)) ∧
  (loops.all fun x => loops.all fun y => x.2 ≤ y.1 ∨ y.2 ≤ x.1 ∨ (x.1 ≤ y.1 ∧ y.2 ≤ x.2) ∨ (y.1 ≤ x.1 ∧ x.2 ≤ y.2)) ∧
  (loops.all fun x => (loops.filter fun y => y.1 ≤ x.1 ∧ x.2 ≤ y.2).length ≤ 4)

/-- Script words pass validation: word 0 a JOIN and the last word END, for a whole script (R97, R107). -/
def scriptOk (ws : List W32) : Bool :=
  match ws with
  | [] => false
  | w0 :: rest =>
    decide (bits w0 24 8 = 0x03 ∧ opOk w0 0 ∧ ws.length ≤ 65535) &&
    match opsFrom rest.length 1 rest with
    | none => false
    | some l => loopsOk 1 l && (l.getLast?.any fun p => bits p.2 24 8 = 0)

/-- Inserted words pass validation: no END is needed, and loop targets lie within them (R116). -/
def insertOk (ws : List W32) : Bool :=
  match opsFrom ws.length 0 ws with
  | none => false
  | some l => loopsOk 0 l

/-- The words of script n of an image (R121). -/
def scriptWords (b : Bytes) (n : Nat) : List W32 :=
  wordsOfBytes (bytesAt b (hw b (sdirOff b + 8 * n)) (4 * hw b (sdirOff b + 8 * n + 4)))

/-- The script a reference names in a resident bank (R96). -/
def State.scriptOf (s : State) (vault : Bool) (ref : W32) : Option (List W32) :=
  let n := if vault then 255 else bits ref 24 8
  if ¬ s.bindable n then none
  else match s.imageOf n with
    | none => none
    | some b => if bits ref 8 16 < nScripts b then some (scriptWords b (bits ref 8 16)) else none

/-- The 128 halfwords of the preset a reference names in a resident bank (R54, R55). -/
def State.presetOf (s : State) (vault : Bool) (ref : W32) : Option (List (BitVec 16)) :=
  let n := if vault then 255 else bits ref 24 8
  if ¬ s.bindable n then none
  else match s.imageOf n with
    | none => none
    | some b =>
      if bits ref 8 16 < nPresets b then
        some ((List.range 128).map fun i =>
          let o := presetOff b + 256 * bits ref 8 16 + 2 * i
          b.get (o + 1) ++ b.get o)
      else none

/-- The first number below n that fails a test. -/
def firstFail (ok : Nat → Bool) : Nat → Nat → Option Nat
  | _, 0 => none
  | i, n + 1 => if ok i then firstFail ok (i + 1) n else some i

/-- Every offset and count of the header, of the script directory and of the tile directory lies within the image (R119, R121,
R123). -/
def layoutOk (b : Bytes) : Bool :=
  let len := imgLen b
  1 ≤ nTiles b ∧ nTiles b ≤ 1048576 ∧ nPresets b ≤ 65536 ∧ nScripts b ≤ 65536 ∧
  dirOff b % 16 = 0 ∧ presetOff b % 4 = 0 ∧ sdirOff b % 4 = 0 ∧
  dirOff b + 16 * nTiles b ≤ len ∧ presetOff b + 256 * nPresets b ≤ len ∧ sdirOff b + 8 * nScripts b ≤ len ∧
  ((List.range (nScripts b)).all fun n =>
    let o := hw b (sdirOff b + 8 * n)
    let l := hw b (sdirOff b + 8 * n + 4)
    2 ≤ l ∧ l ≤ 65535 ∧ o % 4 = 0 ∧ o + 4 * l ≤ len) ∧
  (List.range (nTiles b)).all fun n => entryInside b (tileEntry b n)

/-- META_CRC over the tile directory, the preset area, the script directory and every script (R119). -/
def metaCrc (b : Bytes) : W32 :=
  crc32 (bytesAt b (dirOff b) (16 * nTiles b) ++ bytesAt b (presetOff b) (256 * nPresets b) ++
    bytesAt b (sdirOff b) (8 * nScripts b) ++
    (List.range (nScripts b)).flatMap fun n => bytesAt b (hw b (sdirOff b + 8 * n)) (4 * hw b (sdirOff b + 8 * n + 4)))

/-- The checks of R123 in order: the result code and the first failing tile or script, up to the checks of tiles. -/
def checkHead (b : Bytes) (len : Nat) : Nat × Nat :=
  if byteWord b 0 ≠ 0x425A4D4C ∨ b.get 5 ≠ 0x01 then (0x01, 0)
  else if crc32 (bytesAt b 0 0xFC) ≠ byteWord b 0xFC then (0x02, 0)
  else if imgLen b ≠ len ∨ ¬ layoutOk b then (0x03, 0)
  else if metaCrc b ≠ byteWord b 0xF8 then (0x04, 0)
  else match firstFail (fun n => entryOk (tileEntry b n)) 0 (nTiles b) with
    | some n => (0x03, n)
    | none => (0, 0)

/-- The whole check of a bank image (R123). -/
def checkImage (b : Bytes) (len : Nat) : Nat × Nat :=
  match checkHead b len with
  | (0, _) =>
    match firstFail (tileMarksOk b) 0 (nTiles b) with
    | some n => (0x05, n)
    | none =>
      match firstFail (fun n => scriptOk (scriptWords b n)) 0 (nScripts b) with
      | some n => (0x06, n)
      | none =>
        match firstFail (tileCrcOk b) 0 (nTiles b) with
        | some n => (0x07, n)
        | none => (0x00, 0)
  | r => r

/-! Decoded tile samples (R88, R90). -/

/-- The IMA ADPCM step sizes; the specification names the table and does not print it (PRESUMED, notes/assumptions/20.md). -/
def imaSteps : List Nat :=
  [7, 8, 9, 10, 11, 12, 13, 14, 16, 17, 19, 21, 23, 25, 28, 31, 34, 37, 41, 45, 50, 55, 60, 66, 73, 80, 88, 97, 107, 118, 130,
   143, 157, 173, 190, 209, 230, 253, 279, 307, 337, 371, 408, 449, 494, 544, 598, 658, 724, 796, 876, 963, 1060, 1166, 1282,
   1411, 1552] ++
  [1707, 1878, 2066, 2272, 2499, 2749, 3024, 3327, 3660, 4026, 4428, 4871, 5358, 5894, 6484, 7132, 7845, 8630, 9493, 10442,
   11487, 12635, 13899, 15289, 16818, 18500, 20350, 22385, 24623, 27086, 29794, 32767]

/-- One IMA ADPCM code on a predictor and a step index (PRESUMED, notes/assumptions/20.md). -/
def imaStep (p : Int × Nat) (code : Nat) : Int × Nat :=
  let st := imaSteps.getD p.2 7
  let d := st / 8 + (if code % 2 = 1 then st / 4 else 0) + (if code / 2 % 2 = 1 then st / 2 else 0) +
    (if code / 4 % 2 = 1 then st else 0)
  let v : Int := if code / 8 % 2 = 1 then p.1 - d else p.1 + d
  let adj : Int := if code % 8 < 4 then -1 else 2 * (code % 8 - 3 : Nat)
  (clampI (-32768) 32767 v, (clampI 0 88 ((p.2 : Int) + adj)).toNat)

/-- Sample i of an ADPCM block at a byte offset (R90). -/
def adpcmSample (b : Bytes) (off i : Nat) : Int :=
  let w := byteWord b off
  let start : Int × Nat := (signed 16 (bits w 0 16), min 88 (bits w 16 8))
  ((List.range (i + 1)).foldl (fun p k =>
    let byte := (b.get (off + 4 + k / 2)).toNat
    imaStep p (if k % 2 = 0 then byte % 16 else byte / 16)) start).1

/-- Sample i of a tile in the 24-bit format of R229; 0 outside the tile. -/
def tileSample (b : Bytes) (e : TileEntry) (i : Int) : Int :=
  if i < 0 ∨ (e.nsamp : Int) ≤ i then 0
  else
    let k := i.toNat
    match e.format with
    | 0 => signed 16 (bits (byteWord b (e.dataOff + 2 * k)) 0 16) * 256
    | 1 => signed 24 (bits (byteWord b (e.dataOff + 3 * k)) 0 24)
    | _ => adpcmSample b (e.dataOff + 132 * (k / 256)) (k % 256) * 256

end Sys2Proof.Machine
end

