-- ==== Sys2Proof/Machine/Interp.lean ====
section
/-! DEFINITION. The interpolator of OSC A (R60, R89), which is the same in every release of the standard kernel, and gains and
fades. -/

namespace Sys2Proof.Machine

/-- The prototype g(t) of R60 at t = n ÷ 64. -/
def interpG (n : Int) : Int :=
  let t := Fx.ratio n 64
  let w := Fx.sqrt (Fx.unit - Fx.mul (t / 4) (t / 4))
  Fx.div (Fx.mul (Fx.mul (Fx.unit * 9 / 10) (Fx.sinc (t * 9 / 10))) (Fx.i0 (7 * w))) (Fx.i0 (7 * Fx.unit))

/-- The largest of a list of numbers, the earliest of equals, with its place. -/
def largest : List Int → Nat → Nat × Int → Nat × Int
  | [], _, m => m
  | x :: xs, i, m => largest xs (i + 1) (if m.2 < x then (i, x) else m)

/-- Coefficients whose sum is one: what rounding has left is added to the largest of them (R60). -/
def normalise (c : List Int) : List Int :=
  let k := (largest c.tail 1 (0, c.headD 0)).1
  c.set k (c.getD k 0 + (2 ^ 23 - c.sum))

/-- The eight coefficients of a phase, in Q1.23 (R60). -/
def interpRow (p : Nat) : List Int :=
  normalise ((List.range 8).map fun k => nearest (interpG (64 * ((k : Int) - 3) - p) * 2 ^ 23) Fx.unit)

/-- The sample that OSC A reads at a position in 2^−32 source samples (R60): eight taps on the source samples around it, rounded
convergently, and whether the store limits it. -/
def interpAt (src : Int → Int) (pos : Int) : Int × Bool :=
  let i := pos / 2 ^ 32
  let y := roundEven 23 (((interpRow (pos % 2 ^ 32 / 2 ^ 26).toNat).zipIdx.map fun c => c.1 * src (i - 3 + (c.2 : Nat))).sum)
  (sat24 y, decide (sat24 y ≠ y))

/-! Levels and fades. -/

/-- The linear value, as a Q23 operand of the standard kernel, of a level in 2^−16 of 1/128 dB; the mute end is 0 (R57). -/
def levelGain (place : Nat) (code : Int) : Int :=
  if code ≤ -15360 * 65536 then 0 else quant place (Fx.gain code (128 * 65536)) (2 ^ 37)

/-- The product of a signal or an operand and a Q23 operand. -/
def timesQ (place : Nat) (x g : Int) : Int := quant place (x * g) (2 ^ 23)

/-- How far a fade has gone at an internal sample, as a fraction: before it 0, behind it 1. -/
def Fade.at_ (f : Fade) (t : Nat) : Nat × Nat := if t < f.start then (0, 1) else if f.start + f.len ≤ t then (1, 1) else (t - f.start, f.len)

/-- The gain of a fade in, as a Q23 operand: x, or sin(πx ÷ 2) (R108, R110). -/
def Fade.rise (f : Fade) (t : Nat) : Int :=
  let (n, d) := f.at_ t
  match f.curve with
  | .none_ => 2 ^ 23
  | .linear => quant 20 (n * 2 ^ 23) d
  | .equalPower => quant 21 (Fx.sinTurn n (4 * d)) (2 ^ 37)

/-- The gain of a fade out: 1 − x, or cos(πx ÷ 2). -/
def Fade.fall (f : Fade) (t : Nat) : Int :=
  let (n, d) := f.at_ t
  match f.curve with
  | .none_ => 2 ^ 23
  | .linear => quant 22 ((d - n) * 2 ^ 23) d
  | .equalPower => quant 23 (Fx.cosTurn n (4 * d)) (2 ^ 37)

end Sys2Proof.Machine
end

