-- ==== Sys2Proof/Machine/Voices.lean ====
section
/-! DEFINITION. Voices (R54–R87, R156–R175): parameters and their ranges, edits, release and its end, rollback, rendering a
block, and levels. -/

namespace Sys2Proof.Machine

/-- Little-endian bytes of a number. -/
def leBytes (n count : Nat) : List Byte := (List.range count).map fun i => BitVec.ofNat 8 (n / 256 ^ i)

/-- Divide, rounding to nearest. -/
def divNear (a b : Nat) : Nat := if b = 0 then 0 else (2 * a + b) / (2 * b)

/-! Parameters (R57, R58). -/

/-- How a parameter's halfword is read: a reserved ID; a code with a largest value; a field mask; an unsigned or a signed
range. -/
inductive ParamForm where
  | reserved
  | code (max : Nat)
  | mask (m : Nat)
  | range (lo hi : Nat)
  | signed (lo hi : Int)
  | lfo
  | route
  | curves
  deriving DecidableEq, Repr

/-- The form of parameter ID n (R57). -/
def paramForm (n : Nat) : ParamForm :=
  if 0x38 ≤ n ∧ n < 0x50 then
    match (n - 0x38) % 8 with
    | 4 => .range 0 32768 | 6 => .curves | 7 => .mask 0x0001 | _ => .range 0 60000
  else if 0x50 ≤ n ∧ n < 0x60 then
    match (n - 0x50) % 8 with
    | 0 => .lfo | 1 => .range 0 54426 | 2 => .range 0 65535 | 3 => .range 0 60000 | 4 => .range 655 64881
    | 5 => .range 0 65535 | 6 => .range 0 65535 | _ => .reserved
  else if 0x60 ≤ n ∧ n < 0x80 then if n % 2 = 0 then .range 0 65535 else .route
  else match n with
    | 0x01 => .mask 0x0003 | 0x02 => .mask 0xFFF3 | 0x03 => .range 0 65535 | 0x04 => .code 3 | 0x05 => .code 1
    | 0x06 => .range 0 65535 | 0x07 => .range 0 65535 | 0x08 => .range 0 65280 | 0x09 => .code 1
    | 0x10 => .code 4 | 0x11 => .range 0 65535 | 0x12 => .range 1311 64225 | 0x13 => .range 0 65535 | 0x14 => .code 1
    | 0x18 => .signed (-15360) 1536 | 0x19 => .signed (-15360) 1536 | 0x1A => .signed (-15360) 1536
    | 0x1B => .signed (-15360) 1536
    | 0x20 => .code 4 | 0x21 => .code 1 | 0x22 => .range 0 30615 | 0x23 => .range 0 65535
    | 0x28 => .code 4 | 0x29 => .code 1 | 0x2A => .range 0 30615 | 0x2B => .range 0 65535
    | 0x30 => .signed (-15360) 1536 | 0x31 => .code 3 | 0x32 => .range 0 65535
    | _ => .reserved

/-- A modulation source or destination code is defined (R74, R75). -/
def srcDefined (c : Nat) : Bool := c ≤ 5 ∨ (8 ≤ c ∧ c ≤ 0x0D) ∨ (0x10 ≤ c ∧ c ≤ 0x20)
def dstDefined (c : Nat) : Bool :=
  c ≤ 6 ∨ (8 ≤ c ∧ c ≤ 0x0B) ∨ (0x10 ≤ c ∧ c ≤ 0x14) ∨ c = 0x18 ∨ c = 0x19 ∨ c = 0x20 ∨ c = 0x21

/-- An edit of parameter n with value v is well formed (R58). -/
def paramOk (n v : Nat) : Bool :=
  match paramForm n with
  | .reserved => false
  | .code m => v ≤ m
  | .mask m => v &&& m = v
  | .range _ _ => true
  | .signed _ _ => true
  | .lfo => v % 8 ≤ 6 ∧ v / 8 % 4096 = 0
  | .route => srcDefined (v / 512) ∧ dstDefined (v / 8 % 64)
  | .curves => v &&& 0x0FFF = v

/-- A curve code of an envelope in its range of −7 to +7: −8 acts as −7 (R57, R69). -/
def curveClamp (c : Nat) : Nat := if c = 8 then 9 else c

/-- The three curve codes of ENVn_CURVES in their range. -/
def curvesClamp (v : Nat) : Nat := curveClamp (v / 256 % 16) * 256 + curveClamp (v / 16 % 16) * 16 + curveClamp (v % 16)

/-- The limits of an LFO's locked period at a rate: 0.01 Hz to 100 Hz in samples of the single-rate member (R51, R57, R71). -/
def mtpClamp (rate x : Nat) : Nat := max (Config.singleHz rate / 100) (min (Config.singleHz rate * 100) x)

/-- Halfwords with each LFO's locked period, which two of them make up, in its range. -/
def mtpIn (rate : Nat) (l : List (BitVec 16)) : List (BitVec 16) :=
  [0x55, 0x5D].foldl (fun l n =>
    let x := mtpClamp rate ((l.getD n 0).toNat + (l.getD (n + 1) 0).toNat * 65536)
    (l.set n (BitVec.ofNat 16 x)).set (n + 1) (BitVec.ofNat 16 (x / 65536))) l

/-- How an edit of a parameter takes effect (R57, R81). -/
inductive ParamClass where
  | continuous | latched | discrete
  deriving DecidableEq, Repr

/-- The class of parameter ID n (R57). -/
def paramClass (n : Nat) : ParamClass :=
  if 0x38 ≤ n ∧ n < 0x50 then
    match (n - 0x38) % 8 with | 4 => .continuous | 7 => .discrete | _ => .latched
  else if 0x50 ≤ n ∧ n < 0x60 then
    match (n - 0x50) % 8 with | 1 => .continuous | 4 => .continuous | 2 => .latched | 3 => .latched | _ => .discrete
  else if 0x60 ≤ n ∧ n < 0x80 then if n % 2 = 0 then .continuous else .discrete
  else if [0x05, 0x07, 0x32].contains n then .latched
  else if [0x01, 0x02, 0x03, 0x04, 0x09, 0x10, 0x14, 0x20, 0x21, 0x28, 0x29, 0x31].contains n then .discrete
  else .continuous

/-- A parameter's code as a number: pitches, levels and depths are signed (R57). -/
def paramCode (n v : Nat) : Int :=
  if n = 0x06 ∨ n = 0x11 ∨ (0x18 ≤ n ∧ n ≤ 0x1B) ∨ n = 0x30 ∨ (0x60 ≤ n ∧ n % 2 = 0) then signed 16 v else v

/-- The value a parameter takes: clamped to its range (R58). -/
def paramClamp (n v : Nat) : Nat :=
  match paramForm n with
  | .range lo hi => max lo (min hi v)
  | .signed lo hi => unsigned 16 (clampI lo hi (signed 16 v))
  | .curves => curvesClamp v
  | _ => v

/-- What a preset's halfword starts with: an undefined code as 0, a reserved bit ignored, a value clamped (R58). -/
def presetValue (n v : Nat) : Nat :=
  match paramForm n with
  | .reserved => v
  | .code m => if v ≤ m then v else 0
  | .mask m => v &&& m
  | .curves => curvesClamp v
  | .lfo => (if v % 8 ≤ 6 then v % 8 else 0) + v / 32768 * 32768
  | .route => (if srcDefined (v / 512) then v / 512 else 0) * 512 + (if dstDefined (v / 8 % 64) then v / 8 % 64 else 0) * 8
      + v % 8
  | _ => paramClamp n v

/-- A preset's halfword sets PRESET_CODE (R58): an undefined code, a reserved bit, or a value in a reserved ID. -/
def presetCode (n v : Nat) : Bool :=
  if n = 0 then v % 256 ≠ 0
  else match paramForm n with
    | .reserved => v ≠ 0
    | _ => ¬ paramOk n v

/-! Parameters at a media time (R78–R83). -/

/-- An edit comes before another: in order of the sample at which it acts, then of AT, where a jump has moved edits to one sample, then
of arrival (R39, R82). -/
def Edit.before (a b : Edit) : Bool :=
  a.mt < b.mt ∨ (a.mt = b.mt ∧ (a.due < b.due ∨ (a.due = b.due ∧ a.order ≤ b.order)))

/-- An edit of a voice as it is accepted. -/
def State.newEdit (s : State) (mt : Nat) (k : EditKind) : Edit := ⟨mt, s.order, k, mt, s.bl⟩

/-- The edits of a voice in order. -/
def Voice.sorted (v : Voice) : List Edit := isort Edit.before v.edits

/-- The halfwords after the edits that pass a test, in order. -/
def Voice.applied (v : Voice) (ok : Edit → Bool) : List (BitVec 16) :=
  (v.sorted.filter ok).foldl (fun l e => match e.kind with | .param id x => l.set id x | _ => l) v.params

/-- The 128 halfwords stored at a media time: preset and overrides, then every accepted edit at or before it, in order (R78,
R82). -/
def Voice.paramsAt (v : Voice) (mt : Nat) : List (BitVec 16) := v.applied fun e => e.mt ≤ mt

/-- The halfwords of class D in force at a media time: an edit's value applies half a block after its AT, or with the voice's first
sample where its AT lies before that (R81, R83). -/
def Voice.discreteAt (v : Voice) (mt : Nat) : List (BitVec 16) :=
  v.applied fun e => e.mt + e.span / 2 ≤ mt ∨ (e.mt < v.startMt ∧ v.startMt ≤ mt)

/-- One halfword as an element of the voice reads it at a media time: a discrete one in force, another one as stored (R81). -/
def Voice.param (v : Voice) (id mt : Nat) : Nat :=
  (((if paramClass id = .discrete then v.discreteAt mt else v.paramsAt mt)).getD id 0).toNat

/-- A linear move from one value to another over so many samples from a sample on. -/
def moveAt (place : Nat) (a b : Int) (start span mt : Nat) : Int :=
  if start + span ≤ mt then b else a + quant place ((b - a) * (mt - start : Nat)) span

/-- A continuous parameter at a media time, in 2^−16 of its code (R81–R83): each edit moves it linearly over its span from the value
reached at its AT; one before the voice's first sample acts with it. -/
def Voice.smooth (v : Voice) (id mt : Nat) : Int :=
  let first := paramCode id ((v.paramsAt (v.startMt - 1)).getD id 0).toNat * 65536
  let l := (v.sorted.filter fun e => v.startMt ≤ e.mt ∧ e.mt ≤ mt).filterMap fun e => match e.kind with
    | .param n x => if n = id then some (e, paramCode id x.toNat * 65536) else none
    | _ => none
  let m := l.foldl (fun (m : Int × Int × Nat × Nat) x => (moveAt 30 m.1 m.2.1 m.2.2.1 m.2.2.2 x.1.mt, x.2, x.1.mt, x.1.span))
    (first, first, 0, 1)
  moveAt 30 m.1 m.2.1 m.2.2.1 m.2.2.2 mt

/-- A dip of the voice's output (R81, R82): the level at which it began, the samples at which it begins, reaches 0 and returns from 0,
and its half. -/
structure Dip where
  level : Int
  start : Nat
  zero : Nat
  back : Nat
  half : Nat
  deriving DecidableEq, Repr

/-- The level of a dip at a sample, as a Q23 operand. -/
def Dip.at_ (d : Dip) (mt : Nat) : Int :=
  if mt < d.zero then quant 31 (d.level * (d.zero - mt : Nat)) (d.zero - d.start : Nat)
  else if mt < d.back then 0
  else if d.back + d.half ≤ mt then 2 ^ 23
  else quant 31 (2 ^ 23 * (mt - d.back : Nat)) d.half

/-- A discrete edit on a dip: one that falls before the output returns holds it at 0 longer; one that falls while the output returns
takes it back to 0 from the level reached (R82; DEDUCED, notes/assumptions/195.md). -/
def Dip.extend (d : Dip) (mt half : Nat) : Dip :=
  if mt < d.back then { d with back := mt + half, half := half } else ⟨d.at_ mt, mt, mt + half, mt + half, half⟩

/-- The level of the voice's output at a media time under the dips of its discrete edits (R81). -/
def Voice.dipAt (v : Voice) (mt : Nat) : Int :=
  ((v.sorted.filter fun e => v.startMt ≤ e.mt ∧ e.mt ≤ mt).foldl (fun (d : Option Dip) e => match e.kind with
    | .param id _ =>
      if paramClass id ≠ .discrete then d
      else some (match d with | some d => d.extend e.mt (e.span / 2) | none => ⟨2 ^ 23, e.mt, e.mt + e.span / 2, e.mt + e.span / 2, e.span / 2⟩)
    | _ => d) none).elim (2 ^ 23) fun d => d.at_ mt

/-- The phase offset of a locked LFO at a media time, in 2^−32 of a cycle (R71): an edit of PHASE slews it over one block, the shorter
way round, and forward where both are as long. -/
def Voice.phaseAt (v : Voice) (id mt : Nat) : Int :=
  let first : Int := ((v.paramsAt (v.startMt - 1)).getD id 0).toNat * 65536
  let l := (v.sorted.filter fun e => v.startMt ≤ e.mt ∧ e.mt ≤ mt).filterMap fun e => match e.kind with
    | .param n x => if n = id then some (e, x.toNat * 65536) else none
    | _ => none
  let m := l.foldl (fun (m : Int × Int × Nat × Nat) x =>
      let now := moveAt 32 m.1 m.2.1 m.2.2.1 m.2.2.2 x.1.mt
      let d := ((x.2 : Int) - now) % 2 ^ 32
      (now, now + (if d ≤ 2 ^ 31 then d else d - 2 ^ 32), x.1.mt, x.1.span))
    (first, first, 0, 1)
  moveAt 32 m.1 m.2.1 m.2.2.1 m.2.2.2 mt

/-- The voice renders a preset of a customer kernel (R250, R259). -/
def Voice.custom (v : Voice) : Bool := (v.params.getD 0 0).toNat / 256 ≠ 1

/-- The voice is in SCRIPT mode at a media time (R59). -/
def Voice.scripted (v : Voice) (mt : Nat) : Bool := ¬ v.custom ∧ v.param 0x04 mt = 1

/-- The physical brick that hosts a logical brick (BRICK[n]_MAP). -/
def State.physOf (s : State) (b : Nat) : Option Nat :=
  (List.range (s.variant.bricks + s.variant.spares)).find? fun n =>
    s.flag (F.BRICK_MAP_IN_SERVICE n) ∧ s.get (F.BRICK_MAP_LOGICAL n) = b

/-- Some sample of a block at which the voice sounds passes a test. -/
def State.anySample (s : State) (v : Voice) (b : Nat) (ok : Nat → Bool) : Bool :=
  (List.range s.bl).any fun i => v.startMt ≤ s.startOf b + i ∧ ok (s.startOf b + i)

/-- A voice has a modulation route to one of some destinations at a media time (R72, R75). -/
def Voice.modulates (v : Voice) (dsts : List Nat) (mt : Nat) : Bool :=
  (List.range 16).any fun r =>
    let m := v.param (0x61 + 2 * r) mt
    m / 512 ≠ 0 ∧ dsts.contains (m / 8 % 64)

/-- The noise generator runs (R64): its level is above mute, or a route modulates it. -/
def Voice.noiseRuns (v : Voice) (mt : Nat) : Bool := -15360 * 65536 < v.smooth 0x1A mt ∨ v.modulates [0x0A] mt

/-- The cycles a standard-voice call executes (R538): the counts of the elements that are active at any sample of the block, doubled in
the double-rate family. -/
def State.voiceCycles (s : State) (v : Voice) (b : Nat) : Nat :=
  let any := s.anySample v b
  let code := fun (id : Nat) (ok : Nat → Bool) => any fun t => ok (v.param id t)
  let psj := v.seq.played.any fun t => t.psjIn.any fun j =>
    2 * s.startOf b < j.mb ∧ j.mb < 2 * s.startOf (b + 1) + j.periods * j.ta
  let osca :=
    if code 0x04 (fun m => m = 1) ∧ psj then 520
    else if code 0x04 (fun m => m = 1 ∨ m = 2) then 300
    else if code 0x04 (fun m => m = 3) then 260 else 0
  let filt := fun m sl =>
    if ¬ code m (fun x => x ≠ 0) then 0 else if any (fun t => v.param m t ≠ 0 ∧ v.param sl t = 1) then 440 else 220
  let n := 220 + osca + (if code 0x10 (fun w => w ≠ 0) then 180 else 0) + (if any v.noiseRuns then 90 else 0) + 90 +
    filt 0x20 0x21 + filt 0x28 0x29 + 50 + 520 + 300
  if Config.double s.rate then 2 * n else n

/-- A voice has a modulation route from a source at a media time, or an accepted edit gives it one later (R74, R76). -/
def Voice.routes (v : Voice) (source mt : Nat) : Bool :=
  ((List.range 16).any fun r => v.param (0x61 + 2 * r) mt / 512 = source) ||
    v.edits.any fun e => match e.kind with
      | .param id x => decide (mt < e.mt ∧ 0x61 ≤ id ∧ id % 2 = 1 ∧ x.toNat / 512 = source)
      | _ => false

/-- A voice's script waits somewhere for a contact (R103). -/
def Voice.syncsOn (v : Voice) (n : Nat) : Bool :=
  (v.script ++ v.edits.flatMap fun e => match e.kind with | .script _ ws => ws | _ => []).any fun w =>
    bits w 24 8 = 0x08 ∧ bits w 22 2 = 1 ∧ bits w 16 4 = n

/-! External sources (R76). -/

/-- The voices that see a change of an external source, a contact's number or 16 for AMBIENT (R76, R103, R249): of the standard kernel,
those with a route from it and those whose scripts wait for the contact; of a customer kernel, those of a brick whose image declares
it. -/
def State.sees (s : State) (v : Voice) (k : Nat) : Bool :=
  if v.custom then (kget s.kernel.images (v.src / 128)).any fun i => bit (byteWord i.bytes 0x20) k
  else v.routes (if k = 16 then 0x20 else 0x10 + k) s.soonest ∨ (k < 16 ∧ v.syncsOn k)

/-- The class of a contact as the voices know it at a sample (R76, R103). -/
def State.contactSeen (s : State) (n mt : Nat) : Nat :=
  ((s.disp.contactLog.find? fun c => c.1 ≤ mt ∧ c.2.1 = n).map fun c => c.2.2).getD (s.contactClass n)

/-- The estimate of a zone as the voices know it at a sample, in steps of 0.5 dB below full scale. Before a zone's first estimate it is
a free value (DESIGN CHOICE, notes/assumptions/196.md). -/
def State.ambientSeen (s : State) (z mt : Nat) : Nat :=
  ((s.disp.ambientLog.find? fun c => c.1 ≤ mt ∧ c.2.1 = z).map fun c => c.2.2).getD (Config.ambientUnset z)

/-- Add a change to a log, newest first, with what is older than any sample that may still be rendered, but for each key's latest. -/
def logAdd (old : Nat) (c : Nat × Nat × Nat) (l : List (Nat × Nat × Nat)) : List (Nat × Nat × Nat) :=
  let l := isort (fun a b => decide (b.1 ≤ a.1)) (c :: l)
  l.zipIdx.filterMap fun x =>
    if old ≤ x.1.1 ∨ ¬ (l.take x.2).any (fun y => y.1 ≤ old ∧ y.2.1 = x.1.2.1) then some x.1 else none

/-- A contact's class changes for the voices at a sample; the first change of a contact notes what it was before. -/
def State.noteContact (s : State) (mt n old cls : Nat) : State :=
  let l := s.disp.contactLog
  let l := if l.any fun c => c.2.1 = n then l else l ++ [(0, n, old)]
  { s with disp := { s.disp with contactLog := logAdd (mt - 64 * s.bl) (mt, n, cls) l } }

/-- A zone's estimate changes for the voices at a sample. -/
def State.noteAmbient (s : State) (mt z code : Nat) : State :=
  { s with disp := { s.disp with ambientLog := logAdd (mt - 64 * s.bl) (mt, z, code) s.disp.ambientLog } }

/-- The first zone of a voice in a block: the one that the lowest-numbered zone bus among its taps feeds, with the tap changes accepted
for that block applied (R76, R180). A zone bus feeds the zone of its number, unless that zone takes other buses. -/
def State.firstZone (s : State) (v : Voice) (b : Nat) : Option Nat :=
  let s := s.flushTaps (s.startOf (b + 1) - 1) s.order
  let bus := ((s.mix.taps.filter fun t => t.src = v.src ∧ t.job = some v.record ∧ t.bus < 256).map Tap.bus).foldl
    (fun m b => match m with | none => some b | some x => some (min x b)) none
  bus.bind fun k => if (s.zone k).inputs.contains k then some k else (s.zones.find? fun z => z.inputs.contains k).map Zone.n

/-! Levels (R84, R85). -/

/-- The sum of squares of a block's samples. -/
def energy (xs : List Sample) : Nat := (xs.map fun x => (sVal x).natAbs ^ 2).sum

/-- PEAK and RMS of a block in 1/128 dBFS, −15,360 for digital silence. -/
def peakOf (xs : List Sample) : Int := powerCode 0 (((xs.map fun x => (sVal x).natAbs).foldl max 0) ^ 2) (2 ^ 46)
def rmsOf (xs : List Sample) : Int := powerCode 0 (energy xs) (2 ^ 46 * xs.length)

/-- Commit a block's levels to a voice's record: PEAK, RMS, and RMS16 as the mean power of the last 16 committed blocks; the blocks
that a voice lacks of 16 count as silence (DESIGN CHOICE, notes/assumptions/197.md). -/
def Voice.commitLevels (v : Voice) (xs : List Sample) (clip : Bool) : Voice :=
  let hist := ((energy xs : Int) :: v.rmsHist).take 16
  { v with
    peak := peakOf xs, rms := rmsOf xs, rmsHist := hist, clipNow := clip,
    rms16 := powerCode 0 (hist.map Int.toNat).sum (2 ^ 46 * (16 * xs.length)) }

/-- Set a sticky flag of R87. -/
def Voice.setFlag (v : Voice) (i : Nat) : Voice := { v with flags := v.flags ||| BitVec.ofNat 8 (2 ^ i) }

/-! Release and end (R68, R102, R138). -/

/-- The voice is released at a media time, unless it was released before (R68). -/
def VoiceDyn.release (d : VoiceDyn) (mt : Nat) : VoiceDyn :=
  let mt := max mt d.startMt
  { d with releaseAt := some (match d.releaseAt with | some r => min r mt | none => mt) }
def Voice.release (v : Voice) (mt : Nat) : Voice := { v with toVoiceDyn := v.toVoiceDyn.release mt }

/-- Release has started at or before a sample. -/
def VoiceDyn.releasedBy (d : VoiceDyn) (mt : Nat) : Bool := d.releaseAt.any fun r => r ≤ mt

/-- What the edits before a media time say of a voice's end: releases, and a companion's cut. Those that lie before a companion's start
are of its life before (R83, R102) (DEDUCED, notes/assumptions/142.md). -/
def Voice.endsBy (v : Voice) (hi : Nat) : Voice :=
  v.edits.foldl (fun v e =>
    if hi ≤ e.mt ∨ (v.companion ∧ e.mt < v.startMt) then v
    else match e.kind with
      | .release => v.release e.mt
      | .tone false => v.release e.mt
      | .tone true => { v with cutAt := some (match v.cutAt with | some c => min c e.mt | none => e.mt) }
      | _ => v) v

/-- The last block in which a voice sounds, where its end is fixed: by its release, or by a stop (R18, R68). -/
def State.lastBlock (s : State) (v : Voice) : Option Nat :=
  match v.endBlock, v.stop with
  | some e, some t => some (min e (s.blockOf (t.mt + 31)))
  | some e, none => some e
  | none, some t => some (s.blockOf (t.mt + 31))
  | none, none => none

/-- The voice is heard in a block that has been rendered (R68, R102): a companion in its lives, another voice from its start to its end. -/
def State.liveIn (s : State) (v : Voice) (b : Nat) : Bool :=
  if v.companion then v.lives.any fun l => l.1 ≤ b ∧ l.2.all fun e => b ≤ e
  else s.blockOf v.startMt ≤ b ∧ v.endBlock.all fun e => b ≤ e

/-- A companion that does not sound (R102): what it has bound is free again (R125). -/
def VoiceDyn.hush (d : VoiceDyn) : VoiceDyn :=
  { d with sounding := false, releaseAt := none, cutAt := none, endBlock := none, bound := [] }
def Voice.hush (v : Voice) : Voice := { v with toVoiceDyn := v.toVoiceDyn.hush, rollback := none, redo := none }

/-! A brick's memory and its checkpoints (R161, R162). -/

/-- A word of a logical brick's XM, prefetch buffers or staging ring. -/
def State.kmem (s : State) (b a : Nat) : W32 := (kget s.dp.mem (b * 262144 + a)).getD 0
def State.setKmem (s : State) (b a : Nat) (v : W32) : State :=
  { s with dp := { s.dp with mem := storePut 0 s.dp.mem (b * 262144 + a) v } }

/-- Write words from an address of a brick's memory. -/
def State.putKmem (s : State) (b a : Nat) : List W32 → State
  | [] => s
  | w :: ws => (s.setKmem b a w).putKmem b (a + 1) ws

/-- The address of a checkpoint's first word, and of its tag, in XM (R161). -/
def ckptAddr (slot entry : Nat) : Nat := 0x2000 + 64 * (5 * slot + entry)
def tagAddr (slot entry : Nat) : Nat := 0xC000 + 2 * (5 * slot + entry)

/-- The word at an address of XM belongs to a checkpoint of a slot or to its tag (R161). -/
def Ckpt.holds (c : Ckpt) (slot a : Nat) : Bool :=
  (ckptAddr slot c.entry ≤ a ∧ a < ckptAddr slot c.entry + 64) ∨ (tagAddr slot c.entry ≤ a ∧ a < tagAddr slot c.entry + 2)

/-- The newest valid checkpoint at or before a block (R164). -/
def Voice.ckptFor (v : Voice) (e : Nat) : Option Ckpt :=
  (v.ckpts.filter fun c => c.valid ∧ c.block ≤ e).foldl
    (fun (m : Option Ckpt) c => match m with | some x => if x.block < c.block then some c else m | none => some c) none

/-! Rollback (R159, R160, R164 step 1). -/

/-- The block that a voice's rendering has not begun: the one after that of a call in progress. -/
def State.reached (s : State) (v : Voice) : Nat :=
  if s.dp.active ∧ s.dp.src = v.src ∧ s.dp.record = v.record then s.dp.block + 1 else v.next

/-- Mark a voice's staged blocks from block e on as invalid, and drop the VALID of the checkpoints after it. -/
def Voice.invalidate (v : Voice) (e : Nat) : Voice :=
  { v with
    staged := v.staged.map fun (t : Staged) => { t with valid := t.valid && decide (t.block < e) },
    ckpts := v.ckpts.map fun (c : Ckpt) => { c with valid := c.valid && decide (c.block ≤ e) } }

/-- Queue the rollback of a voice from block e, or from its start where that is later (DEDUCED, notes/assumptions/81.md). What has not
been rendered needs none; a re-render in progress that has not reached e goes on, and stages from e on (R160). One voice counts one
rollback in a block period. -/
def State.rollVoice (s : State) (v : Voice) (e : Nat) (count : Bool := true) : State :=
  let e := max e (s.blockOf v.startMt)
  if e < s.reached v then
    let first := match v.rollback with | some x => min x e | none => e
    let new : Bool := count ∧ v.rollPeriod ≠ some s.commit
    let s := s.setVoice { v.invalidate e with
      rollback := some first, rollOrder := if v.rollback.isSome then v.rollOrder else s.order,
      rollPeriod := if count then some s.commit else v.rollPeriod }
    if new then s.bump F.DISP_ROLLBACK_CNT_COUNT else s
  else if v.redo.any fun r => e < r then s.setVoice { v.invalidate e with redo := some e }
  else s

/-- Roll a companion back with voice 0 from block e (R159): what voice 0 did to it from there on is taken back, since its rendering does
it again. A companion that does not sound in block e then rests (DEDUCED, notes/assumptions/80.md). -/
def State.rollCompanion (s : State) (w : Voice) (e : Nat) (count : Bool) : State :=
  let keep := fun (x : Edit) => match x.kind with | .tone _ => decide (x.mt < s.startOf e) | _ => true
  let w := { w with edits := w.edits.filter keep, lives := w.lives.filter fun l => l.1 < e }
  let rest := s.setVoice { w.hush.invalidate e with next := min w.next e }
  match w.lives with
  | [] => rest
  | (f, last) :: l =>
    if last.any fun x => x < e then rest
    else
      let start := if s.blockOf w.startMt = f then w.startMt else s.startOf f
      (s.setVoice w).rollVoice { w with lives := (f, none) :: l, startMt := start } e count

/-- Roll back a voice from a media time, and with voice 0 every companion of its job (R159). -/
def State.rollFrom (s : State) (v : Voice) (mt : Nat) (count : Bool := true) : State :=
  let e := s.blockOf mt
  if s.front < e then s
  else
    let s := match s.voiceIn v.src v.record with | some v => s.rollVoice v e count | none => s
    if v.index ≠ 0 ∨ s.reached v ≤ e then s
    else forEach ((s.voicesOf v.record).filter fun w => w.companion) s fun w s => s.rollCompanion w e count

/-- Accept a content edit for a voice at a media time (R82, R159); one behind a stop of the voice is discarded (R145, R160). -/
def State.editVoice (s : State) (src record mt : Nat) (k : EditKind) : State :=
  match s.voiceIn src record with
  | none => s
  | some v =>
    if v.stop.any fun t => s.blockOf t.mt < s.blockOf mt then s
    else (s.setVoice { v with edits := v.edits ++ [s.newEdit mt k] }).rollFrom v mt

/-- What voice 0 does to a companion at a media time (R102, R138). It is no edit of a command, and a companion that has to render again
for it counts no rollback (DEDUCED, notes/assumptions/79.md). -/
def State.toneEdit (s : State) (w : Voice) (mt : Nat) (cut : Bool) : State :=
  let w := { w with edits := w.edits ++ [s.newEdit mt (.tone cut)] }
  let s := s.setVoice w
  if s.front < s.blockOf mt then s else s.rollVoice w (s.blockOf mt) false

/-- Every companion is released at the first sample of the block after voice 0's last one, as soon as that block is fixed (R138)
(DEDUCED, notes/assumptions/78.md). -/
def State.followEnd (s : State) (v : Voice) : State :=
  match (if v.index = 0 then s.lastBlock v else none) with
  | none => s
  | some e =>
    let m := s.startOf (e + 1)
    forEach ((s.voicesOf v.record).filter fun w => w.companion ∧ ¬ w.edits.any fun x => x.kind = .tone false ∧ x.mt = m) s
      fun w s => s.toneEdit w m false

/-- Free script insertion records of a brick: 64 less those held (R117). -/
def State.insertionsUsed (s : State) (b : Nat) : Nat := (s.disp.insertions.filter fun i => i.1 = b).length

end Sys2Proof.Machine
end

