-- ==== Sys2Proof/Machine/Jobs.lean ====
section
/-! DEFINITION. The life of a job record (R133–R139, R151, R533): what its descriptor says, how it ends, what its end posts,
and how its record becomes free again. -/

namespace Sys2Proof.Machine

/-! The course link, as jobs use it. -/

/-- The standby of a twin pair (R346, R383). -/
def State.standby (s : State) : Bool := s.flag F.CRSE_CTRL_TWIN_EN ∧ ¬ s.course.active

/-- A course-link message queued for the next frame: its type and body words (R333). The standby of a twin pair leaves the
keystone's messages to its partner (DESIGN CHOICE, notes/assumptions/70.md). -/
def State.courseSend (s : State) (ty : Nat) (body : List W32) : State :=
  if 3 ≤ ty ∧ ty ≤ 7 ∧ s.standby then s
  else { s with course := { s.course with outbox := s.course.outbox ++ [(ty, body)] } }

/-- This device is a course of a cascade (R341). -/
def State.cascade (s : State) : Bool := s.variant.hasCourse ∧ s.flag F.CRSE_CTRL_CASCADE_EN
/-- This device masters its cascade, or stands alone. -/
def State.isKeystone (s : State) : Bool := ¬ s.cascade ∨ s.flag F.CRSE_STATUS_IS_KEYSTONE

/-- A course port carries frames: it is UP or ONE_LANE (R334). -/
def State.portUp (s : State) (p : Nat) : Bool :=
  s.get (F.CRSE_PORT_STAT_STATE p) = 2 ∨ s.get (F.CRSE_PORT_STAT_STATE p) = 3

/-! The states of a twin (CRSE_TWIN.STATE). -/
namespace Twin
def off : Nat := 0
def active : Nat := 1
def standby : Nat := 2
def notReady : Nat := 3
def checking : Nat := 4
def fault : Nat := 5
end Twin

/-- The course link as a new CRSE_CTRL leaves it (R341, R346): a course of a cascade trains its ports and forms the ring; A of a
twin pair starts ACTIVE and B STANDBY. -/
def State.courseInit (s : State) : State :=
  let on := s.cascade
  let key : Bool := on ∧ s.flag F.CRSE_CTRL_KEYSTONE
  let twin := s.flag F.CRSE_CTRL_TWIN_EN
  let roleB := s.flag F.CRSE_CTRL_TWIN_ROLE
  let s := { s with course := { CourseSt.init with siteNames := s.course.siteNames, active := !(twin && roleB), seq := s.course.seq } }
  let s := forEach [0, 1] s fun p s =>
    ((s.put (F.CRSE_PORT_STAT_STATE p) (b2n on)).put (F.CRSE_PORT_STAT_LANES p) 0).put (F.CRSE_PORT_HOP_HOP_NS p) 0
  let s := forEach (List.range 8) s fun k s => (s.wr (R.CRSE_COURSE_STAT k) 0).wr (R.CRSE_COURSE_LAT k) 0
  let s := ((s.put F.CRSE_STATUS_RING (b2n on)).set F.CRSE_STATUS_IS_KEYSTONE key).set F.CRSE_STATUS_PROMOTED false
  let s := (s.put F.CRSE_STATUS_KEY_COURSE (if key then s.courseNo else 0)).put F.CRSE_STATUS_P_MIN 0
  let s := s.put F.CRSE_STATUS_LIVE (if on then 2 ^ s.courseNo else 0)
  let s := (s.wr R.CRSE_LAT 0).put F.CRSE_TWIN_STATE (if twin then (if roleB then Twin.standby else Twin.active) else Twin.off)
  let s := ((s.put F.CRSE_TWIN_MATCH_RUN 0).set F.CRSE_TWIN_PARTNER_SEEN false).wr R.CRSE_TOPO 0
  if on then (s.put F.CRSE_TOPO_DEVICES 1) else s

/-! Descriptors (R133). -/

/-- The descriptor that a list of payload words spells. -/
def descrOf (ws : List W32) : Descr :=
  let w := fun n => ws.getD n 0
  let f := fun n lo k => bits (w n) lo k
  let nv := f 0 8 8
  let cnt := ws.getD (4 + nv) 0
  let nOvr := bits cnt 16 16
  let nScr := bits cnt 0 16
  { cls := f 0 28 4, dest := f 0 26 2, noSteal := f 0 16 1 = 1, inline := f 0 17 1 = 1, vault := f 0 18 1 = 1,
    site := f 0 19 1 = 1, notifyStart := f 0 20 1 = 1, nVoices := nv, nComp := f 0 0 8, maxWait := f 1 16 16,
    group := f 1 0 6, tapGain := signed 16 (f 2 16 16), tapRamp := f 2 8 8, script := w 3,
    presets := (ws.drop 4).take nv, overrides := (ws.drop (5 + nv)).take nOvr,
    words := (ws.drop (5 + nv + nOvr)).take nScr }

/-- The zones of a group on this course (R221). -/
def Group.zones (g : Group) : List Nat := (List.range 256).filter fun z => g.members.getLsbD z

/-- The group has a bus of its own, or a course-send bus (R221, R222; 0x3FF is none). -/
def hasBus (b : Nat) : Bool := b ≠ 0x3FF

/-- The buses that every voice of a job with destination GROUP is tapped to (R135). -/
def State.jobBuses (s : State) (d : Descr) : List Nat :=
  if d.dest ≠ 0 then []
  else
    let g := s.group d.group
    (if hasBus g.bus then [g.bus] else g.zones) ++ (if hasBus g.send then [g.send] else [])

/-- The words a descriptor should have by its counts. -/
def descrLen (ws : List W32) : Nat :=
  let nv := bits (ws.getD 0 0) 8 8
  let cnt := ws.getD (4 + nv) 0
  5 + nv + bits cnt 16 16 + bits cnt 0 16

/-- An override record is well formed for the preset it changes: under R58 for a standard preset, and any ID from 0x01 to 0x7F
for a resident preset of a customer kernel (R249). -/
def State.overrideOk (s : State) (d : Descr) (o : W32) : Bool :=
  let id := bits o 24 8
  let custom := match s.presetOf d.vault (d.presets.getD (bits o 16 8) 0) with
    | some p => decide ((p.getD 0 0).toNat / 256 ≠ 1)
    | none => false
  if custom then 1 ≤ id ∧ id < 0x80 else paramOk id (bits o 0 16)

/-- A descriptor is well formed and in range (R133, R135, R6), `off` words into its payload of `n` words: the offset of the
first offending field. -/
def State.descrBad (s : State) (ws : List W32) (off n : Nat) (armed : Bool) : Option Nat :=
  let d := descrOf ws
  let at_ := fun i => 4 * (off + i)
  let inl : List W32 := d.words
  firstBad [
    (off + descrLen ws = n ∧ n ≤ 256, hdrOff),
    (d.nComp < d.nVoices, at_ 0),
    (1 ≤ d.nVoices ∧ d.nVoices ≤ 64, at_ 0 + 1),
    (¬ (armed ∧ d.inline), at_ 0 + 2),
    (within (ws.getD 0 0) 0xFC1FFFFF, at_ 0 + 2),
    (d.dest ≤ 1, at_ 0 + 3),
    (d.group < s.variant.groups, at_ 1),
    (within (ws.getD 1 0) 0xFFFF003F, at_ 1),
    (within (ws.getD 2 0) 0xFFFFFF00, at_ 2),
    (d.inline ∨ bits d.script 0 8 = 0, at_ 3),
    (d.presets.all fun p => bits p 0 8 = 0, at_ 4),
    (d.inline ∨ bits (ws.getD (4 + d.nVoices) 0) 0 16 = 0, at_ (4 + d.nVoices)),
    (bits (ws.getD (4 + d.nVoices) 0) 16 16 ≤ 240, at_ (4 + d.nVoices) + 2),
    (d.overrides.all fun o => bits o 16 8 < d.nVoices ∧ s.overrideOk d o, at_ (5 + d.nVoices)),
    (¬ d.inline ∨ scriptOk inl, at_ (5 + d.nVoices + d.overrides.length)),
    ((s.jobBuses d).length ≤ 32, at_ 1)]

/-! Records. -/

/-- The generation of a record (R136): 1 at first, so that no handle of a first job is 0, which names no job (R197;
DEDUCED, notes/assumptions/74.md). -/
def State.genOf (s : State) (r : Nat) : Nat := (kget s.disp.gens r).getD 1

/-- The lowest free host record, or reserved record (R136). -/
def State.freeRecord (s : State) (hw : Bool) : Option Nat :=
  let (lo, n) := if hw then (12224, 64) else (0, 12224)
  (firstFail (fun r => (s.job? (lo + r)).isSome) 0 n).map fun r => lo + r

/-- Take a record off every ready list. -/
def State.dropReady (s : State) (r : Nat) : State :=
  { s with disp := { s.disp with ready := s.disp.ready.map fun p => (p.1, p.2.filter fun x => x ≠ r) } }

/-- A record returns to FREE: its job is gone and its generation counts (R136, R137). -/
def State.release (s : State) (r : Nat) : State :=
  let s := s.dropReady r
  { s with disp := { s.disp with
    jobs := s.disp.jobs.filter (fun j => j.record ≠ r),
    gens := storePut 1 s.disp.gens r ((s.genOf r + 1) % 65536),
    squall := if s.disp.squall = some r then none else s.disp.squall,
    trigJobs := s.disp.trigJobs.filter fun t => t.2 ≠ r } }

/-- Remove a job's voices with their taps. -/
def State.dropVoices (s : State) (r : Nat) : State :=
  let s := forEach (s.voicesOf r) s fun v s => s.dropTaps v.src r
  { s with disp := { s.disp with voices := s.disp.voices.filter fun v => v.record ≠ r } }

/-- SQUALL_END when the Squall job leaves RUNNING and RELEASING (R150, R319). -/
def State.squallOver (s : State) (j : Job) (cause : Nat) : State :=
  if s.disp.squall = some j.record then
    let s := s.post 0x0404 j.record [j.handle, w32 cause, w32 (s.get F.DISP_SQUALL_CFG_RETRIG)]
    { s with disp := { s.disp with squall := none, squallEnd := 2 } }
  else s

/-- JOB_DONE, and the state that a job ends in until the next tick frees its record (R137, R139, R318). -/
def State.finishOwn (s : State) (j : Job) (st : JobState) (reason mt : Nat) : State :=
  let s := s.dropVoices j.record
  let s := s.dropVrel j.handle
  let s := s.dropReady j.record
  let s := s.squallOver j (if st = .done then s.disp.squallEnd else 3)
  let first := j.firstMt.getD 0
  let s := s.postAt 0x0401 j.record mt [j.handle, w32 (min j.late 16777215 * 256 + reason), lo32 first, hi32 first,
    w32 (min j.slip 65535)]
  s.setJob { j with state := st, reason := reason, reported := true, voices := [], siteParts := [] }

/-- A course's part of a site job has ended (R343): the keystone's job keeps the first reason other than COMPLETE, takes what its
own course's part played, and ends with the last part. -/
def State.partDone (s : State) (h : W32) (course reason : Nat) (part : Option Job) : State :=
  match s.job? (bits h 0 16) with
  | none => s
  | some m =>
    if m.gen ≠ bits h 16 16 ∨ ¬ m.siteParts.contains course then s
    else
      let left := m.siteParts.filter fun c => c ≠ course
      let m := { m with siteParts := left, reason := if m.reason = 0 then reason else m.reason }
      let m := match part with
        | some p => { m with firstMt := p.firstMt, late := p.late, slip := m.slip + p.slip }
        | none => m
      if left = [] then s.finishOwn m (if m.reason = 0 then .done else .aborted) m.reason s.time.mt else s.setJob m

/-- A job ends; a part of a site job reports to the keystone (R343) (DEDUCED, notes/assumptions/93.md). -/
def State.finish (s : State) (j : Job) (st : JobState) (reason mt : Nat) : State :=
  let s := s.finishOwn j st reason mt
  match j.siteHandle with
  | none => s
  | some h =>
    if s.isKeystone then s.partDone h s.courseNo reason (some j) else s.courseSend 0xA [h, w32 s.courseNo, w32 reason]

/-- Free a job at once, with no JOB_DONE (R137). -/
def State.wipeJob (s : State) (j : Job) : State := ((s.dropVoices j.record).dropVrel j.handle).release j.record

/-- Free every job at once: entry to FAULT, or a reset that clears voices and jobs (R137, R411, R487). -/
def State.wipeJobs (s : State) : State := forEach s.disp.jobs s fun j s => s.wipeJob j

/-- Free the records whose JOB_DONE has been posted (R137). -/
def State.freeReported (s : State) : State :=
  forEach (s.disp.jobs.filter fun j => j.reported) s fun j s => s.release j.record

/-- A voice that keeps its job from ending: a companion only while it is still to be heard (R138). -/
def State.counts (s : State) (v : Voice) : Bool := ¬ v.companion ∨ v.lives.any fun l => l.2.all fun e => s.commit < e

/-- When the last voice of a job has ended, the job ends with its reason: a stop's, a steal's, or complete (R137, R139). -/
def State.checkJobEnd (s : State) (r mt : Nat) : State :=
  match s.job? r with
  | none => s
  | some j =>
    if j.reported ∨ (s.voicesOf r).any s.counts then s
    else if j.reason = 0 then s.finish j .done (if j.skipped then 1 else 0) mt
    else s.finish j (if j.reason = 3 then .stolen else .aborted) j.reason mt

/-- A voice ends at the end of block b (R68, R138): a companion keeps its slot and falls silent; another voice frees its
slot and taps. -/
def State.endVoice (s : State) (v : Voice) (b : Nat) : State :=
  let s := if v.companion ∧ v.stop.isNone then s.setVoice { v with lives := v.lives.filter fun l => l.2.all fun e => b < e } else (s.dropTaps v.src v.record).delVoice v.src v.record
  s.checkJobEnd v.record (s.startOf (b + 1))

/-- Stop one voice at the mix from a media time, keeping an earlier stop (R18, R145); the end of voice 0 releases its companions (R138). -/
def State.stopVoice (s : State) (v : Voice) (mt reason : Nat) : State :=
  if v.stop.any fun t => t.mt ≤ mt then s
  else
    let v := { v with stop := some ⟨mt, reason⟩ }
    (s.setVoice v).followEnd v

/-- The earliest stop of a job's voices. -/
def State.jobStop (s : State) (r : Nat) : Option Nat :=
  ((s.voicesOf r).filterMap fun v => v.stop.map VoiceStop.mt).foldl
    (fun m x => match m with | none => some x | some y => some (min x y)) none

/-- Stop a whole job (R137, R145, R151, R154): a job that is not placed ends at once; a placed one stops at the mix. Where a
host stop and a steal fall on one block the job ends ABORTED; otherwise the earlier one decides the reason. -/
def State.stopJob (s : State) (j : Job) (mt reason : Nat) : State :=
  match j.state with
  | .running | .releasing =>
    let keep := match s.jobStop j.record with
      | none => false
      | some t => j.reason ≠ 0 ∧ (s.blockOf t < s.blockOf mt ∨ (s.blockOf t = s.blockOf mt ∧ reason ≠ 2))
    let s := if keep then s else s.setJob { j with reason := reason }
    forEach (s.voicesOf j.record) s fun v s => s.stopVoice v mt reason
  | .pending | .ready | .allocating => s.finish j .aborted reason s.time.mt
  | _ => s

/-- A running job that is not stopped has a voice of class 0–2, or any running job has (R295, R296). -/
def State.urgent (s : State) : Bool :=
  s.disp.jobs.any fun j => j.descr.cls ≤ 2 ∧ (j.state = .running ∨ j.state = .releasing)

end Sys2Proof.Machine
end

