-- ==== Sys2Proof/Machine/Place.lean ====
section
/-! DEFINITION. The dispatcher (R137–R152): inserting a job, moving it to its ready list, placing it on bricks, stealing, and
the Squall and trigger jobs that reach it in hardware. -/

namespace Sys2Proof.Machine

/-! Slots and bricks (R141). -/

/-- A brick as placement sees it: logical number, load, the preset version it accepts and its free slots. -/
structure Room where
  brick : Nat
  load : Nat
  version : Nat
  free : List Nat
  deriving DecidableEq, Repr

/-- The usable free slots of every open brick, the slots of the records in `gone` counted as free (R141, R143). -/
def State.rooms (s : State) (gone : List Nat) : List Room :=
  (List.range s.variant.bricks).filterMap fun b =>
    match s.physOf b with
    | none => none
    | some p =>
      if s.flag (F.BRICK_MAP_CLOSED p) then none
      else
        let busy := (s.disp.voices.filter fun v => v.src / 128 = b ∧ ¬ gone.contains v.record).map fun v => v.src % 128
        some ⟨b, s.get (F.BRICK_LOAD_LOAD p), s.get (F.BRICK_KERNEL_PRESET_VER p),
          (List.range (s.get (F.BRICK_VOICES_USABLE p))).filter fun i => ¬ busy.contains i⟩

/-- The least-loaded brick that has the slots and accepts the preset versions, ties to the lower number (R141). -/
def bestRoom (need : Nat) (vers : List Nat) (l : List Room) : Option Room :=
  (l.filter fun r => need ≤ r.free.length ∧ vers.all fun v => v = r.version).foldl
    (fun best r => match best with
      | none => some r
      | some x => if r.load < x.load then some r else some x) none

/-- Take slots of a brick, each voice placed counting as 2 load units (R141). -/
def takeRoom (b n : Nat) (l : List Room) : List Room :=
  l.map fun r => if r.brick = b then { r with load := r.load + 2 * n, free := r.free.drop n } else r

/-- Slots for the voices above the companions, one by one (R141). -/
def fitRest : List Nat → List Room → Option (List Nat)
  | [], _ => some []
  | v :: vs, l =>
    match bestRoom 1 [v] l with
    | none => none
    | some r => (fitRest vs (takeRoom r.brick 1 l)).map fun t => (r.brick * 128 + r.free.headD 0) :: t

/-- Slots for a job by the preset versions of its voices: voice 0 and its companions on one brick, the others each on the
least-loaded brick (R141). -/
def fitSlots (nComp : Nat) (vers : List Nat) (l : List Room) : Option (List Nat) :=
  match bestRoom (1 + nComp) (vers.take (1 + nComp)) l with
  | none => none
  | some r =>
    let first := (r.free.take (1 + nComp)).map fun i => r.brick * 128 + i
    (fitRest (vers.drop (1 + nComp)) (takeRoom r.brick (1 + nComp) l)).map fun t => first ++ t

/-- Free slots kept for hardware-triggered jobs (DISP_CTRL.HW_RESERVE). -/
def State.hwReserve (s : State) : Nat := min 64 (s.get F.DISP_CTRL_HW_RESERVE)

/-- The slots a job takes with the records in `gone` counted as gone, if it fits (R141). -/
def State.fits (s : State) (hw : Bool) (d : Descr) (vers : List Nat) (gone : List Nat) : Option (List Nat) :=
  let l := s.rooms gone
  let free := (l.map fun r => r.free.length).sum
  if ¬ hw ∧ free < d.nVoices + s.hwReserve then none else fitSlots d.nComp vers l

/-- The mix accepts a job's taps, the entries of the records in `gone` counted as free (R135, R141, R145, R190). -/
def State.tapsFit (s : State) (j : Job) (gone : List Nat) : Bool :=
  let n := (s.jobBuses j.descr).length
  let mine := fun (o : Option Nat) => o.any fun r => gone.contains r
  let freed := (s.entryKeys.filter fun k => mine k.2.2).length
  let host := freed - (s.mix.taps.filter fun t => t.hardware ∧ mine t.job).length
  let room := if j.hardware then s.tapsUsed + n * j.descr.nVoices ≤ s.get F.MIX_TAPS_LIMIT_LIMIT + freed
    else s.hostUsed + n * j.descr.nVoices ≤ s.hostEntries + host
  room ∧ (List.range j.descr.nVoices).all fun v => s.vrelUsed j.handle v + n ≤ 32

/-! Stealing (R143–R145). -/

/-- A job's level: the highest RMS16 of its voices (R144). -/
def State.jobLevel (s : State) (j : Job) : Int := (s.voicesOf j.record).foldl (fun m v => max m v.rms16) (-15360)

/-- A key of the steal policy as a number that ranks lower first. -/
def State.stealKey (s : State) (k : Nat) (inv : Bool) (j : Job) : Int :=
  let x : Int := match k with
    | 0 => - (j.descr.cls : Int)
    | 1 => ((j.firstMt.getD (2 ^ 63) : Nat) : Int)
    | 2 => s.jobLevel j
    | _ => 0
  if inv then -x else x

/-- The ranking of candidates: the three keys, then the record number (R144). -/
def State.stealBefore (s : State) (a b : Job) : Bool :=
  let k := fun f i => s.stealKey (s.get f) (s.flag i)
  let a0 := k F.DISP_STEAL_POLICY_KEY0 F.DISP_STEAL_POLICY_INV0 a
  let b0 := k F.DISP_STEAL_POLICY_KEY0 F.DISP_STEAL_POLICY_INV0 b
  let a1 := k F.DISP_STEAL_POLICY_KEY1 F.DISP_STEAL_POLICY_INV1 a
  let b1 := k F.DISP_STEAL_POLICY_KEY1 F.DISP_STEAL_POLICY_INV1 b
  let a2 := k F.DISP_STEAL_POLICY_KEY2 F.DISP_STEAL_POLICY_INV2 a
  let b2 := k F.DISP_STEAL_POLICY_KEY2 F.DISP_STEAL_POLICY_INV2 b
  a0 < b0 ∨ (a0 = b0 ∧ (a1 < b1 ∨ (a1 = b1 ∧ (a2 < b2 ∨ (a2 = b2 ∧ a.record ≤ b.record)))))

/-- A stop of a job has been accepted for a block up to b: at the mix, or a JOB.ABORT of it, of the site job that it is a part of, or a
SYS.SET_STATE to IDLE or LULL, that waits for its media time (R143, R296, R343). -/
def State.stopAccepted (s : State) (j : Job) (b : Nat) : Bool :=
  (j.reason ≠ 0 ∧ (s.jobStop j.record).any fun x => s.blockOf x ≤ b) ||
    s.timed.any fun t => s.blockOf t.mt ≤ b ∧
      ((t.opcode = 0x0402 ∧ (t.payload.headD 0 = j.handle ∨ j.siteHandle = some (t.payload.headD 0))) ∨
        (t.opcode = 0x0104 ∧ (bits (t.payload.headD 0) 0 4 = 2 ∨ bits (t.payload.headD 0) 0 4 = 4)))

/-- The candidates for a placing job, ranked (R143). -/
def State.candidates (s : State) (j : Job) (t : Nat) : List Job :=
  isort s.stealBefore (s.disp.jobs.filter fun v =>
    (v.state = .running ∨ v.state = .releasing) ∧ j.descr.cls < v.descr.cls ∧ v.descr.cls ≠ 0 ∧
    (¬ v.descr.noSteal ∨ (j.hardware ∧ j.descr.cls = 0 ∧ 3 ≤ v.descr.cls)) ∧
    v.siteParts = [] ∧ ¬ s.stopAccepted v (t + 1))

/-- The shortest prefix of the ranking, at least one long, after which placement succeeds: the victims and the slots. -/
def State.victims (s : State) (j : Job) (vers : List Nat) : List Nat → List Job → Option (List Nat × List Nat)
  | _, [] => none
  | done, v :: vs =>
    let gone := done ++ [v.record]
    match s.fits j.hardware j.descr vers gone with
    | some l => if s.tapsFit j gone then some (gone, l) else s.victims j vers gone vs
    | none => s.victims j vers gone vs

/-! Binding a job to its slots. -/

/-- The overrides of voice v applied to a preset's halfwords (R56). -/
def applyOverrides (d : Descr) (v : Nat) (p : List (BitVec 16)) : List (BitVec 16) :=
  (d.overrides.filter fun o => bits o 16 8 = v).foldl
    (fun l o => l.set (bits o 24 8) (BitVec.ofNat 16 (paramClamp (bits o 24 8) (bits o 0 16)))) p

/-- The 128 halfwords that a preset starts with (R58). -/
def presetStart (p : List (BitVec 16)) : List (BitVec 16) :=
  p.zipIdx.map fun x => BitVec.ofNat 16 (presetValue x.2 x.1.toNat)

/-- Overrides of voice v on a customer kernel's preset: unclamped, and none of IDs 0x7C–0x7F (R249, R250). -/
def rawOverrides (d : Descr) (v : Nat) (p : List (BitVec 16)) : List (BitVec 16) :=
  (d.overrides.filter fun o => bits o 16 8 = v ∧ bits o 24 8 < 0x7C).foldl
    (fun l o => l.set (bits o 24 8) (BitVec.ofNat 16 (bits o 0 16))) p

/-- The starting halfwords of voice v of a job. -/
def State.startParams (s : State) (d : Descr) (v : Nat) : Option (List (BitVec 16)) :=
  (s.presetOf d.vault (d.presets.getD v 0)).map fun p =>
    if (p.getD 0 0).toNat / 256 = 1 then applyOverrides d v (presetStart p) else rawOverrides d v p

/-- The script that a job plays: inline, named, or none (R96). -/
def State.jobScript (s : State) (d : Descr) : Option (List W32) :=
  if d.inline then some d.words else if d.script = 0 then none else s.scriptOf d.vault d.script

/-- Some voice of the job starts in SCRIPT mode (R96). -/
def State.startsScripted (s : State) (d : Descr) : Bool :=
  (List.range d.nVoices).any fun v =>
    let p := (s.startParams d v).getD []
    (p.getD 0 0).toNat / 256 = 1 ∧ p.getD 4 0 = 1

/-- The preset versions that the bricks in service accept, closed ones among them (R137, R259). -/
def State.versions (s : State) : List Nat :=
  (List.range s.variant.bricks).filterMap fun b => (s.physOf b).map fun p => s.get (F.BRICK_KERNEL_PRESET_VER p)

/-- What makes a job end in ALLOCATING: the reason (R137, R139). A preset number that its bank does not have is as a bank that is not
resident (DESIGN CHOICE, notes/assumptions/205.md). -/
def State.allocFail (s : State) (j : Job) : Option Nat :=
  let d := j.descr
  if d.vault ∧ (s.bank 255).state ≠ .vault then some 0x09
  else if (List.range d.nVoices).any fun v => (s.presetOf d.vault (d.presets.getD v 0)).isNone then some 0x05
  else if (List.range d.nVoices).any fun v =>
      ¬ s.versions.contains ((((s.presetOf d.vault (d.presets.getD v 0)).getD []).getD 0 0).toNat / 256) then some 0x05
  else if s.startsScripted d ∧ ¬ d.inline ∧ d.script ≠ 0 ∧ (s.jobScript d).isNone then some 0x06
  else none

/-- A sequencer at the start of a script in a bank (R97); one that runs executes its first word at that sample. -/
def Seq.start (bank : Nat) (join : W32) (mt : Nat) (runs : Bool) : Seq :=
  ⟨if runs then .running else .idle, ⟨1, [], [], bank, 0, 4096, 4096, 0, join, none⟩, mt, [], false, none, [], []⟩

/-- The elements of a standard voice before its first sample. -/
def Synth.init : Synth := ⟨none, [], [], [], 0, 0, 0, [], 0, 0, 0, false, 0, 0, [], [], [], []⟩

/-- The bank that an item named by a reference of a job lies in (R132). -/
def Descr.bankOf (d : Descr) (w : W32) : Nat := if d.vault then 255 else bits w 24 8

/-- The bank of a job's script: for an inline one that of voice 0's preset (R97). -/
def Descr.scriptBank (d : Descr) : Nat := d.bankOf (if d.inline then d.presets.getD 0 0 else d.script)

/-- The banks a voice binds at its start: its preset's, and its script's if it starts in SCRIPT mode (R125). -/
def State.startBound (s : State) (d : Descr) (preset : W32) (scripted : Bool) : List (Nat × Nat) :=
  let l := d.bankOf preset :: (if scripted ∧ ¬ d.inline ∧ d.script ≠ 0 then [d.bankOf d.script] else [])
  (l.filter fun n => s.bindable n).dedup.map fun n => (n, s.imageGen n)

/-- A voice's state at its first sample, or, of a companion that has not started, before it (R56, R97, R102). -/
def State.startDyn (s : State) (v : Voice) (mt : Nat) (sounding : Bool) : VoiceDyn :=
  let runs : Bool := { v with startMt := mt }.scripted mt
  let bound := ((s.job? v.record).map fun j => s.startBound j.descr v.preset runs).getD []
  { startMt := mt, sounding := sounding, releaseAt := none, cutAt := none, endBlock := none, bound := bound, level := -15360,
    synth := Synth.init, seq := Seq.start v.scriptBank (v.script.headD 0) mt runs }

/-- A voice as it is placed. -/
def State.newVoice (s : State) (j : Job) (v src start : Nat) : Voice :=
  let d := j.descr
  let preset := d.presets.getD v 0
  let raw := (s.presetOf d.vault preset).getD []
  let p := (s.startParams d v).getD []
  let comp : Bool := 1 ≤ v ∧ v ≤ d.nComp
  let w : Voice :=
    { startMt := start, sounding := false, releaseAt := none, cutAt := none, endBlock := none, bound := [], level := -15360,
      synth := Synth.init, seq := Seq.start 0 0 start false,
      src := src, record := j.record, index := v, cls := d.cls, preset := preset, companion := comp, params := p, edits := [],
      stop := none,
      flags := if (p.getD 0 0).toNat / 256 = 1 ∧ (raw.zipIdx.any fun x => presetCode x.2 x.1.toNat) then 0x08 else 0,
      clipNow := false, peak := -15360, rms := -15360, rms16 := -15360, rmsHist := [], lastSample := 0, wasLate := false,
      next := s.blockOf start, staged := [], ckpts := [], rollback := none, rollOrder := 0, rollPeriod := none, redo := none,
      lives := [], script := (s.jobScript d).getD [], scriptBank := d.scriptBank, gapFrom := none }
  { w with toVoiceDyn := s.startDyn w start (¬ comp) }

/-- The jobs of a class placed in the last 4,096 blocks, and their mean wait (R155). -/
def State.waitNote (s : State) (c : Nat) : State :=
  let mine := s.disp.waits.filter fun w => w.1 = c
  let s := s.put (F.DISP_CLASS_WAIT_PLACED c) (min 65535 mine.length)
  s.put (F.DISP_CLASS_WAIT_MEAN_WAIT c) (min 65535 (((mine.map fun w => w.2.2).sum * 256) / max 1 mine.length))

/-- At a tick, placements that lie 4,096 blocks back leave the mean (R155). -/
def State.waitTick (s : State) : State :=
  let old := (s.disp.waits.filter fun w => w.2.1 + 4096 ≤ s.commit).map fun w => w.1
  let s : State := { s with disp := { s.disp with waits := s.disp.waits.filter fun w => s.commit < w.2.1 + 4096 } }
  forEach old.dedup s fun c s => s.waitNote c

/-- Place a job's voices in their slots for start block b, with their taps (R135, R141, R194). -/
def State.bind (s : State) (j : Job) (b : Nat) (slots : List Nat) : State :=
  let start := if b = s.blockOf j.startAt then j.startAt else s.startOf b
  let wait := s.commit - j.readyAt
  let c := j.descr.cls
  let j := { j with state := .running, voices := slots, slip := j.slip + (b - j.wantBlock) }
  let s := (s.dropReady j.record).setJob j
  let s := forEach slots.zipIdx s fun x s =>
    let s := s.setVoice (s.newVoice j x.2 x.1 start)
    let s := match j.releaseAt with | some r => s.editVoice x.1 j.record r .release | none => s
    let s := s.bindVrel j.handle x.2 x.1 start
    forEach (s.jobBuses j.descr) s fun bus s =>
      s.setTaps (putTap ⟨x.1, bus, .of 0 (clampGain j.descr.tapGain) (s.startOf b) j.descr.tapRamp, false,
        some j.record, j.hardware, .unity, false⟩ s.mix.taps)
  let s := s.tapsNote j.handle
  let s : State := { s with disp := { s.disp with waits := (c, s.commit, wait) :: s.disp.waits } }
  (s.waitNote c).put (F.DISP_CLASS_Q_MAX_WAIT c) (max (s.get (F.DISP_CLASS_Q_MAX_WAIT c)) (min 65535 wait))

/-- A destination word of an auxiliary bus names a course-link send channel (R180, R217). -/
def destType (w : W32) : Nat := bits w 28 4

/-- Some job's voices tap a bus that goes to the course link (R337). -/
def State.tapsSend (s : State) (records : List Nat) : Bool :=
  s.mix.taps.any fun t => t.job.any (fun r => records.contains r) ∧
    s.mix.aux.any fun a => a.1 = t.bus ∧ a.2.any fun w => destType w = 4

/-- Note that a placement waits for taps (R153). -/
def State.waitTaps (s : State) (j : Job) : State :=
  let s := (s.set F.DISP_STATUS_TAPS_FULL).set F.MIX_STATUS_TAPS_FULL
  if j.tapsFullPosted then s
  else (s.post 0x0503 0xFFFF [w32 s.tapsUsed, j.handle]).setJob { j with tapsFullPosted := true }

/-- Steal whole jobs at block T, counting each voice (R145). -/
def State.stealAll (s : State) (gone : List Nat) (t : Nat) : State :=
  forEach gone s fun r s => match s.job? r with
    | some j => (s.bump F.DISP_STEAL_CNT_COUNT (s.voicesOf r).length).stopJob j (s.startOf t) 0x03
    | none => s

/-- The victims of a job that starts at block b, and its slots; a steal of voices that tap a course-send bus starts later, and ranks its
candidates for that block (R141, R143, R337). -/
def State.stealFor (s : State) (j : Job) (vers : List Nat) (b : Nat) : Option (Nat × List Nat × List Nat) :=
  match s.victims j vers [] (s.candidates j (b - 1)) with
  | none => none
  | some (gone, l) =>
    let late := max b (s.commit + s.pOff + 2)
    if ¬ s.tapsSend gone ∨ late = b then some (b, gone, l)
    else (s.victims j vers [] (s.candidates j (late - 1))).map fun x => (late, x.1, x.2)

/-- Place a READY job, stealing where free slots do not do (R137, R141, R143): the job runs, ends ABORTED in ALLOCATING, or
stays READY, for want of taps where slots would do (R153); the answer says whether the next job of its list is to be tried. -/
def State.place (s : State) (r : Nat) : State × Bool :=
  match s.job? r with
  | none => (s.dropReady r, true)
  | some j =>
    match s.allocFail j with
    | some reason => (s.finish j .aborted reason s.time.mt, true)
    | none =>
      let d := j.descr
      let vers := (List.range d.nVoices).map fun v =>
        (((s.presetOf d.vault (d.presets.getD v 0)).getD []).getD 0 0).toNat / 256
      let b := max (s.blockOf j.startAt) (s.commit + 2)
      match (s.fits j.hardware d vers []).filter fun _ => s.tapsFit j [] with
      | some l => (s.bind j b l, true)
      | none => match s.stealFor j vers b with
        | some (b, gone, l) => ((s.stealAll gone (b - 1)).bind j b l, true)
        | none =>
          let all := (s.candidates j (b - 1)).map Job.record
          (if (s.fits j.hardware d vers all).isSome then s.waitTaps j else s, false)

/-- Serve one ready list from its head until it is empty or its head fails placement (R140). The fuel is its length. -/
def State.serveClass (c : Nat) : Nat → State → State
  | 0, s => s
  | n + 1, s =>
    match s.readyOf c with
    | [] => s
    | r :: _ =>
      let (s, more) := s.place r
      if more then State.serveClass c n (s.dropReady r) else s

/-- Serve the ready lists from class 0 to class 15 (R140). -/
def State.serve (s : State) : State :=
  forEach (List.range 16) s fun c s => s.serveClass c (s.readyOf c).length

/-- Put a job at the tail of its class's ready list. -/
def State.toReady (s : State) (j : Job) : State :=
  let s := s.setJob { j with state := .ready, readyAt := s.commit }
  let l := s.readyOf j.descr.cls ++ [j.record]
  { s with disp := { s.disp with ready := kput s.disp.ready j.descr.cls l } }

/-- The dispatcher at a block tick (R140): due jobs move to their ready lists while there is room, in the order of start time
and acceptance; then the lists are served. -/
def State.dispatch (s : State) : State :=
  let due := isort (fun a b => a.sortAt < b.sortAt ∨ a.sortAt = b.sortAt ∧ a.order ≤ b.order)
    (s.disp.jobs.filter fun j => j.state = .pending ∧ s.blockOf j.startAt ≤ s.front + 1)
  let s := forEach due s fun j s => if (s.readyOf j.descr.cls).length < 1024 then s.toReady j else s
  s.serve

/-- Insert a job in a record (R137): PENDING for a later start, else READY and placed at once. -/
def State.insertJob (s : State) (r : Nat) (d : Descr) (startAt want : Nat) (hw : Bool) (site : Option W32) : State :=
  let j : Job := {
    record := r, gen := s.genOf r, state := .pending, descr := d, startAt := startAt, sortAt := startAt, wantBlock := want,
    order := s.order, readyAt := s.commit, hardware := hw, skipped := false, voices := [], slip := 0, late := 0,
    firstMt := none, reason := 0, tapsFullPosted := false, started := false, reported := false, siteHandle := site,
    siteParts := [], releaseAt := none }
  let s := { s with order := s.order + 1 }
  if s.front + 1 < s.blockOf startAt then s.setJob j
  else (s.toReady j).serveClass d.cls (s.readyOf d.cls).length.succ

/-! Hardware triggers (R148–R152). -/

/-- The descriptor of the Squall job (R149). -/
def State.squallDescr (s : State) : Descr :=
  let comp := s.rd R.DISP_SQUALL_COMP
  let n := if comp = 0 then 1 else 2
  { cls := 0, dest := 0, noSteal := true, inline := false, vault := true, site := false, notifyStart := false,
    nVoices := n, nComp := n - 1, maxWait := 0, group := s.get F.DISP_SQUALL_CFG_GROUP, tapGain := 0, tapRamp := 0,
    script := s.rd R.DISP_SQUALL_SCRIPT,
    presets := s.rd R.DISP_SQUALL_PRESET :: (if comp = 0 then [] else [comp]), overrides := [], words := [] }

/-- Insert the Squall job from a reserved record, and post SQUALL_START (R149, R319). -/
def State.squallInsert (s : State) (source contact startBlock : Nat) : State :=
  match s.freeRecord true with
  | none => s
  | some r =>
    let s := { s with disp := { s.disp with squall := some r, squallSource := source, squallEnd := 2 } }
    let h := w32 (s.genOf r * 65536 + r)
    let s := s.post 0x0403 r [h, w32 (source + contact * 16), w32 startBlock]
    s.insertJob r s.squallDescr (s.startOf startBlock) startBlock true none

/-- A job holds the Squall record: it is RUNNING or RELEASING, or is being placed (R150). -/
def State.squallHeld (s : State) : Bool :=
  s.disp.squall.any fun r => (s.job? r).any fun j => ¬ j.reported

/-- The source of a Squall trigger is enabled and Squall is armed (R148). -/
def State.squallEnabled (s : State) (source : Nat) : Bool :=
  s.flag F.DISP_SQUALL_CFG_ARMED &&
    match source with
    | 0 => s.flag F.DISP_SQUALL_CFG_EN_CONTACT
    | 1 => s.flag F.DISP_SQUALL_CFG_EN_UART
    | 3 => s.flag F.DISP_SQUALL_CFG_EN_COURSE
    | _ => s.flag F.DISP_SQUALL_CFG_EN_MB0

/-- Enter RUN with effect from a sample, outputs leaving their inert state there (R296, R485). -/
def State.runFrom (s : State) (mt : Nat) : State :=
  { s with timed := s.timed ++ [⟨mt, s.order, 0x0104, [3], 0, 0, 0, false⟩], order := s.order + 1 }

/-- A Squall trigger reaches the dispatcher (R148–R150, R345, R485). In BOOT and LULL one from a contact or the UART is
latched; in FAULT it is counted. Otherwise it inserts the job at C + 2, on a cascade's keystone at C + 2 + P, sent round the
ring, and from IDLE the device enters RUN at that block; while Squall is ACTIVE it is ignored and counted (DEDUCED, notes/assumptions/92.md). -/
def State.squallTrigger (s : State) (source contact : Nat) : State :=
  let act := fun (s : State) =>
    if ¬ s.squallEnabled source then s
    else if s.squallHeld then s.bumpSat F.DISP_SQUALL_CFG_RETRIG
    else
      let key := s.cascade ∧ s.isKeystone
      let b := s.commit + 2 + if key then s.pOff else 0
      let s := if (key ∧ ¬ s.standby) ∨ (s.cascade ∧ s.flag F.CRSE_CTRL_SQUALL_UP) then s.courseSend 0x4 [w32 b] else s
      let s := if s.power = .idle then s.runFrom (s.startOf b) else s
      s.squallInsert source contact b
  match s.power with
  | .boot | .lull =>
    if source ≤ 1 ∧ s.disp.squallLatched.isNone then
      { s with disp := { s.disp with squallLatched := some (source + contact * 16) } }
    else s
  | .run | .idle => act s
  | .fault => if s.squallEnabled source then s.bumpSat F.DISP_SQUALL_CFG_RETRIG else s
  | _ => s

/-- A trigger by JOB.SQUALL and the handle that its response carries: the inserted job's, or 0 for a retrigger (R148, R150,
R311). -/
def State.squallCommand (s : State) (source : Nat) : State × W32 :=
  let held := s.squallHeld
  let s := s.squallTrigger source 0
  (s, if held then 0 else ((s.disp.squall.bind s.job?).map Job.handle).getD 0)

/-- A doorbell on MB0 whose word 0 holds JOB.SQUALL triggers without the Mason pair (R148). -/
def State.squallBell (s : State) : State :=
  let (s, h) := s.squallCommand 2
  { s with disp := { s.disp with squallMb := some h } }

/-- Release the Squall job at a media time (R150). -/
def State.squallRelease (s : State) (mt cause : Nat) : State :=
  match s.disp.squall with
  | none => s
  | some r =>
    let s := { s with disp := { s.disp with squallEnd := cause } }
    forEach (s.voicesOf r) s fun v s => s.editVoice v.src r mt .release

/-- The media time at which a site job starts or is commanded: no earlier than C + 2 + P (R343, R345). -/
def State.siteMt (s : State) (mt : Nat) : Nat := max mt (s.startOf (s.commit + 2 + s.pOff))

/-- The end of Squall at a media time, and the sample at which it acts: the keystone's ends every course's job (R150, R345). -/
def State.squallStop (s : State) (mt cause : Nat) : State × Nat :=
  let key := s.cascade ∧ s.isKeystone
  let mt := if key then s.siteMt mt else mt
  let s := if key then s.courseSend 0x4 [lo32 mt, hi32 mt] else s
  (s.squallRelease mt cause, mt)

/-- A trigger slot's source fires (R152): the stored job is inserted from a reserved record at C + 2, unless the slot's
previous job has not reached FREE; each firing counts. -/
def State.trigFire (s : State) (t : Nat) : State :=
  let s := s.bumpSat (F.DISP_TRIG_STAT_FIRE_CNT t)
  let busy := (kget s.disp.trigJobs t).any fun r => (s.job? r).isSome
  match kget s.disp.trigs t with
  | none => s
  | some d =>
    if busy ∨ s.power ≠ .run then s
    else match s.freeRecord true with
      | none => s
      | some r =>
        let s := (s.put (F.DISP_TRIG_STAT_RECORD t) r)
        let s := { s with disp := { s.disp with trigJobs := kput s.disp.trigJobs t r } }
        s.insertJob r d (s.startOf (s.commit + 2)) (s.commit + 2) true none

/-- Fire every armed trigger slot bound to a source: kind 0 a contact's transition, 1 a timer's event (R152). -/
def State.trigAll (s : State) (kind n event : Nat) : State :=
  forEach (List.range 8) s fun t s =>
    if s.flag (F.DISP_TRIG_CFG_ARMED t) ∧ s.get (F.DISP_TRIG_CFG_SRC t) = kind ∧ s.get (F.DISP_TRIG_CFG_N t) = n ∧
      s.get (F.DISP_TRIG_CFG_EVENT t) = event then s.trigFire t else s

end Sys2Proof.Machine
end

