-- ==== Sys2Proof/Machine/Outputs.lean ====
section
/-! DEFINITION. What switches the outputs as a whole (R359, R360, R373–R377, R411, R483): mute ramps, ports that stop and
start, contact and timer pins, and the failure of a zone's destinations (R219). -/

namespace Sys2Proof.Machine

/-! Analogue channels (R374–R377). -/

/-! Codes of ANA[n]_STATUS.STATE. -/
namespace Ana
def inert : Nat := 0
def settling : Nat := 1
def idle : Nat := 2
def active : Nat := 3
def ramping : Nat := 4
def trim : Nat := 5
def railOff : Nat := 6
end Ana

def State.anaState (s : State) (n : Nat) : Nat := s.get (F.ANA_STATUS_STATE n)
def State.setAna (s : State) (n st : Nat) : State := s.put (F.ANA_STATUS_STATE n) st

/-- The switch of a channel is closed: it settles, idles, carries or ramps (R374). -/
def State.anaClosed (s : State) (n : Nat) : Bool := 1 ≤ s.anaState n ∧ s.anaState n ≤ 4

/-- Begin a mute ramp that leads to an open switch, to another range, or back to carrying (R373, R377, R378). -/
def State.anaMute (s : State) (n : Nat) (after : AnaAfter) (fast : Bool) : State :=
  if s.anaClosed n then
    let c := s.chan n
    (s.setChan { c with muting := some after, fastMute := fast, rampIn := 0, settle := 0, waits := false }).setAna n Ana.ramping
  else s

/-- Open a channel's switch at once with the code at zero (R375, R377). -/
def State.anaOpen (s : State) (n st : Nat) : State :=
  let c := s.chan n
  ((s.setChan { c with
    code := 0, queue := [], muting := none, fastMute := false, settle := 0, rampIn := 0, waits := false,
    nextRange := none, test := 0, bench := none, benchOut := 0 }).setAna n st).put (F.ANA_STATUS_SLEWING n) 0

/-- An enabled channel of a device that is live closes its switch and settles for 4 updates, with the rails good and
unless the device is the standby of a twin (R376, R383). -/
def State.anaStart (s : State) (n : Nat) : State :=
  if ¬ s.flag (F.ANA_CTRL_EN n) then s
  else if ¬ s.pins.analogueGood then (s.setAna n Ana.railOff).set (F.ANA_STATUS_RAIL_LOW n)
  else
    let c := s.chan n
    (s.setChan { c with
      code := 0, queue := [], settle := 4, emptyRun := 0, outRun := 0, inRun := 0, loadRun := 0, rampIn := 0,
      muting := none, waits := false }).setAna n Ana.settling

/-- Every channel the variant has. -/
def State.channels (s : State) : List Nat := List.range s.variant.channels

/-- A trim in progress gives up a channel (R385): its measurements are discarded and it counts as aborted. -/
def State.trimAbort (s : State) (n : Nat) : State :=
  match s.anaTrim with
  | none => s
  | some t =>
    if t.left.contains n then
      { s with anaTrim := some { t with left := t.left.filter (fun x => x ≠ n), aborted := t.aborted + 1 } }
    else s

/-! Audio ports (R358–R360). -/

namespace Port
def stopped : Nat := 0
def starting : Nat := 1
def running : Nat := 2
def stopping : Nat := 3
def clkLost : Nat := 4
end Port

def State.portState (s : State) (n : Nat) : Nat := s.get (F.APORT_STATUS_STATE n)
def State.setPortState (s : State) (n st : Nat) : State := s.put (F.APORT_STATUS_STATE n) st

/-- A port discards its buffer and its tags (R362, R364). -/
def PortSt.flush (p : PortSt) : PortSt := { p with tags := [], lastTag := none, oldLen := none }

/-- A port stops at a media time and sends or discards POST frames from there (R359), or none (R411, R360) (DEDUCED, notes/assumptions/58.md). -/
def State.portStopAt (s : State) (n mt : Nat) (post : Bool) : State :=
  if s.portState n = Port.stopped then s
  else
    let p := s.port n
    let post : Bool := post ∧ s.portState n ≠ Port.clkLost
    s.setPort { p with stopAt := some mt, postLeft := if post then s.get (F.APORT_EDGES_POST n) else 0 }

/-- A port stops at once: its pins become inputs. What an input port captured before still reaches the mix by its tag (R355, R359;
DEDUCED, notes/assumptions/58.md). -/
def State.portHalt (s : State) (n : Nat) : State :=
  let p := s.port n
  let q := if s.flag (F.APORT_CTRL_DIR n) ∧ s.portState n ≠ Port.clkLost then p else p.flush
  (s.setPort { q with stopAt := none, preLeft := 0, postLeft := 0, fsSeen := false, goodFrames := 0 }).setPortState n
    Port.stopped

/-- A port starts towards a media time (R358). -/
def State.portStartAt (s : State) (n mt : Nat) : State :=
  if s.portState n ≠ Port.stopped then s
  else
    let p := s.port n
    let pre := s.get (F.APORT_EDGES_PRE n)
    (s.setPort { p.flush with
      startAt := mt, stopAt := none, preLeft := pre, fsSeen := false, goodFrames := 0,
      rejoin := none, measured := false, resume := false }).setPortState n Port.starting

/-! Outputs of the whole device. -/

/-- Contact output drive off (R411). -/
def State.contactsOff (s : State) : State := s.put F.CONTACT_OUT_LEVEL 0

/-- A TOUT pin is high: a timer with EN = 1 drives it high, and the device is not in RESET or FAULT (R411, R455). -/
def State.tout (s : State) (p : Nat) : Bool :=
  s.power ≠ .reset ∧ s.power ≠ .fault ∧ (List.range 16).any fun n =>
    s.flag (F.TIM_OUT_EN n) ∧ s.get (F.TIM_OUT_PIN n) = p ∧ s.flag (F.TIM_OUT_LEVEL n)

/-- Leave RUN: analogue channels ramp to zero and open; their configuration stays (R377). -/
def State.outputsInert (s : State) (fast : Bool) : State :=
  forEach s.channels s fun n s =>
    if s.anaState n = Ana.trim ∨ s.anaState n = Ana.railOff then s else s.anaMute n .open fast

/-- Enter RUN: enabled channels start (R376). -/
def State.outputsLive (s : State) : State :=
  if s.standby then s else forEach s.channels s fun n s => if s.anaState n = Ana.inert then s.anaStart n else s

/-- Set the power state and post SYS_STATE with the old and the new one (R296, R318). -/
def State.changePower (s : State) (p : Power) : State :=
  let old := s.power.code
  (s.setPower p).post 0x0102 0xFFFF [w32 (p.code + old * 16)]

/-! Destinations (R180, R217, R219). -/

def destIndex (w : W32) : Nat := bits w 0 16
def destRole (w : W32) : Nat := bits w 24 4

/-- The slot of a zone with a role that holds a destination of some type. -/
def Zone.slotOf (z : Zone) (role : Nat) : Option Nat :=
  (List.range 4).find? fun i => destType (z.dests.getD i 0) ≠ 0 ∧ destRole (z.dests.getD i 0) = role

/-- The A (role 0) or B (role 1) destination of a zone fails for a cause: noted until the next block tick (R219). -/
def State.failRole (s : State) (zone role cause : Nat) : State :=
  let z := s.zone zone
  if (kget z.failed role).isSome ∨ (z.slotOf role).isNone then s
  else s.setZone { z with failed := kput z.failed role cause, good := kput z.good role 0 }

/-- Every zone destination that a test picks fails (R219). -/
def State.failDests (s : State) (test : W32 → Bool) (cause : Nat) : State :=
  forEach s.zones s fun z s =>
    forEach [0, 1] s fun role s =>
      match z.slotOf role with
      | some i => if test (z.dests.getD i 0) then s.failRole z.n role cause else s
      | none => s

/-- Every destination of a type whose index a test picks fails. -/
def State.failType (s : State) (ty : Nat) (idx : Nat → Bool) (cause : Nat) : State :=
  s.failDests (fun w => destType w = ty ∧ idx (destIndex w)) cause

/-- A destination of a zone carries its output now: A and B while not failed, a fallback while its partner is failed and
switched, a copy always (R217). -/
def State.carries (s : State) (z : Zone) (i : Nat) : Bool :=
  let w := z.dests.getD i 0
  if destType w = 0 then false
  else match destRole w with
    | 0 => (kget z.failed 0).isNone
    | 1 => (kget z.failed 1).isNone
    | 2 => s.flag (F.ZONE_STATUS_FB_A z.n)
    | 3 => s.flag (F.ZONE_STATUS_FB_B z.n)
    | _ => true

/-! The pilot sweeps of the Dew test (R404). -/

/-- The Dew window is open (R403). -/
def State.dewOpen (s : State) : Bool := s.flag F.SUPV_STATUS_DEW_ACTIVE

/-- The Dew step that a zone runs. -/
def State.dewStepOf (s : State) (z : Nat) : Option Nat :=
  let d := s.dewZone z
  if s.dewOpen ∧ d.selected ∧ ¬ d.held ∧ d.step < 6 then some d.step else none

/-- The roles whose fallback is an enabled channel that does not carry (R404 step 1b). -/
def State.sweptRoles (s : State) (z : Nat) : List Nat :=
  let zn := s.zone z
  [0, 1].filter fun r => (zn.slotOf (r + 2)).any fun i =>
    let w := zn.dests.getD i 0
    decide (destType w = 3) && s.flag (F.ANA_CTRL_EN (destIndex w)) && ! s.carries zn i

/-- Samples of the two windows that a sweep stays at a bin. -/
def State.sweepLen (s : State) : Nat := 2 * 4096 * (s.hz / Config.singleHz s.rate)

/-- The pilot bin of a zone at a sample (R404): its own, or that of a sweep; step 1b sweeps the one role and then the other
(DESIGN CHOICE, notes/assumptions/209.md). -/
def State.sweepBin (s : State) (z bin mt : Nat) : Nat :=
  let d := s.dewZone z
  let i := (mt - d.since) / s.sweepLen
  let last := match s.dewStepOf z with
    | some 0 => 32
    | some 1 => 32 * (s.sweptRoles z).length
    | _ => 0
  if d.since ≤ mt ∧ i < last then (bin + 8 * (i % 32)) % 256 else bin

/-- The role whose pilot is on its fallback at a sample (R404 step 1b). -/
def State.sweptRole (s : State) (z mt : Nat) : Option Nat :=
  let d := s.dewZone z
  if s.dewStepOf z = some 1 ∧ d.since ≤ mt then (s.sweptRoles z)[(mt - d.since) / (32 * s.sweepLen)]? else none

/-- The zone that carries to an analogue channel, or sends its pilot alone to it (R371, R404). -/
def State.zoneOnChan (s : State) (n : Nat) : Option Nat :=
  (s.zones.find? fun z => (List.range 4).any fun i =>
    destType (z.dests.getD i 0) = 3 ∧ destIndex (z.dests.getD i 0) = n ∧
      (s.carries z i ∨ (s.sweptRole z.n s.time.mt).any fun r => decide (destRole (z.dests.getD i 0) = r + 2))).map Zone.n

end Sys2Proof.Machine
end

