-- ==== Sys2Proof/Machine/Raise.lean ====
section
/-! DEFINITION. A detection by a safety mechanism (R412–R424): what it latches and records, the reaction that follows, the
entry to FAULT, and the failure of a brick and of bank memory. -/

namespace Sys2Proof.Machine

/-! The mechanism codes of R412 and the reactions of R422. -/
namespace Mech
def lockstep : Nat := 0x00
def watchdog : Nat := 0x01
def tcmEcc : Nat := 0x02
def slabEcc : Nat := 0x03
def brickEcc : Nat := 0x04
def bankEcc : Nat := 0x05
def bankUnavail : Nat := 0x06
def tapEcc : Nat := 0x07
def clock : Nat := 0x08
def timeRef : Nat := 0x09
def golden : Nat := 0x0A
def rollback : Nat := 0x0B
def zoneTest : Nat := 0x0C
def mixTest : Nat := 0x0D
def intPilot : Nat := 0x0E
def twin : Nat := 0x0F
def link : Nat := 0x10
def analogue : Nat := 0x11
def pilot : Nat := 0x12
def acoustic : Nat := 0x13
def contact : Nat := 0x14
def vault : Nat := 0x15
def latent : Nat := 0x16
def supply : Nat := 0x17
end Mech

namespace React
def report : Nat := 0
def degrade : Nat := 1
def mute : Nat := 2
def reset : Nat := 3
end React

/-- A diode reads above 110 °C, in 1/16 °C (R412, R494). -/
def State.tooHot (s : State) : Bool :=
  (List.range 8).any fun k => signed 16 (s.get (F.AGE_THERM_TJ_ODD k)) > 1760 ∨ signed 16 (s.get (F.AGE_THERM_TJ_EVEN k)) > 1760

/-- The reaction of a mechanism before escalation (R412): the register's default but for CLOCK, which depends on the domain
in the order of SAFE_CLKMON; BRICK_ECC, on the memory, which the address alone does not tell (a free choice,
DESIGN CHOICE, notes/assumptions/7.md); and SUPPLY above 110 °C (DESIGN CHOICE, notes/assumptions/176.md). -/
def State.baseReact (s : State) (code inst : Nat) : Nat × State :=
  if code = Mech.clock then
    (if inst = 1 then React.reset else if inst = 0 ∨ inst = 2 then React.mute else if inst = 3 then React.degrade
      else React.report, s)
  else if code = Mech.brickEcc then
    let (x, s) := s.draw
    (if x % 2 = 0 then React.degrade else React.report, s)
  else if code = Mech.supply ∧ s.tooHot then (React.mute, s)
  else (s.get (F.SAFE_MECH_CFG_REACT code), s)

/-- ESCALATE makes MUTE of REPORT and DEGRADE (R415). -/
def State.escalated (s : State) (code react : Nat) : Nat :=
  if s.flag (F.SAFE_MECH_CFG_ESCALATE code) ∧ react ≤ React.degrade then React.mute else react

/-- The condition behind a mechanism persists, so that ACTIVE stays set (R418): pilot, load, contact and acoustic faults,
bank memory unavailable, temperature above 110 °C. -/
def State.persists (s : State) (code : Nat) : Bool :=
  code = Mech.intPilot ∨ code = Mech.pilot ∨ code = Mech.analogue ∨ code = Mech.contact ∨ code = Mech.acoustic ∨
    code = Mech.bankUnavail ∨ (code = Mech.supply ∧ s.tooHot)

/-- The words of a fault record (R422). -/
def State.faultRecord (s : State) (code inst react : Nat) (injected : Bool) (repeats : Nat) (loc exp obs : W32) : FaultRec :=
  let prot := s.safe.sincePor < 64
  [w32 (inst % 65536 * 65536 + s.power.code * 4096 + react * 1024 + b2n injected * 512 + b2n prot * 256 + code),
   lo32 s.time.mt, hi32 s.time.mt, s.rd R.SYS_UPTIME,
   w32 (min repeats 65535 * 65536 + (s.get F.SAFE_FAULT_CNT_COUNT + 1) % 65536), loc, exp, obs]

/-- Put a record in the supervisor's buffer of 8 (R414 step 3), unless one of this code and instance was made in the running
second (R423) (DEDUCED, notes/assumptions/41.md). -/
def State.bufferRecord (s : State) (code inst react : Nat) (injected : Bool) (loc exp obs : W32) : State :=
  if s.safe.thisSecond.contains (code, inst) then
    let n := ((s.safe.repeats.find? fun x => x.1 = code ∧ x.2.1 = inst).map fun x => x.2.2).getD 0
    { s with safe := { s.safe with
      repeats := (code, inst, n + 1) :: s.safe.repeats.filter (fun x => ¬ (x.1 = code ∧ x.2.1 = inst)) } }
  else
    let n := ((s.safe.repeats.find? fun x => x.1 = code ∧ x.2.1 = inst).map fun x => x.2.2).getD 0
    let r := s.faultRecord code inst react injected n loc exp obs
    let s := { s with safe := { s.safe with
      buffer := if s.safe.buffer.length < 8 then s.safe.buffer ++ [r] else s.safe.buffer,
      repeats := s.safe.repeats.filter (fun x => ¬ (x.1 = code ∧ x.2.1 = inst)),
      thisSecond := (code, inst) :: s.safe.thisSecond,
      sincePor := s.safe.sincePor + 1 } }
    let s := (((s.bump F.SAFE_FAULT_CNT_COUNT).put F.SAFE_LAST_INSTANCE inst).put F.SAFE_LAST_REACT react).put
      F.SAFE_LAST_CODE code
    s.wr64 R.SAFE_LAST_MT_LO R.SAFE_LAST_MT_HI s.time.mt

/-- SAFE_ALIVE freezes (R421). -/
def State.freezeAlive (s : State) : State := (s.set F.SAFE_ALIVE_STAT_FROZEN).set F.SAFE_STATUS_ALIVE_RUN false

/-- Enter FAULT (R411): jobs are discarded without JOB_DONE, channels ramp out, ports stop at their next frame boundary with
no POST frames, contact drive and TOUT go low, SAFE_ALIVE freezes. -/
def State.enterFault (s : State) (code : Nat) : State :=
  let s := (s.put F.SAFE_STATUS_CAUSE code).bump F.SYS_FAULT_CNT_COUNT
  let s := (s.setPower .fault).freezeAlive
  let s := s.wipeJobs
  let s := (s.outputsInert true).contactsOff
  let s := forEach (List.range 8) s fun n s => s.portStopAt n s.time.mt false
  { s with safe := { s.safe with muteCode := some code } }

/-! Bricks (R151, R176, R415). -/

/-- Give surviving voices of a failed brick free slots elsewhere, voices of one job together: the old and the new source of
each, for the jobs that fit (DEDUCED, notes/assumptions/8.md; DEDUCED, notes/assumptions/104.md). -/
def reseat (vers : Nat → Nat) : List (List Nat) → List Room → List (Nat × Nat)
  | [], _ => []
  | vs :: rest, l =>
    match bestRoom vs.length (vs.map vers) l with
    | none => reseat vers rest l
    | some r => (vs.zip (r.free.map fun i => r.brick * 128 + i)) ++ reseat vers rest (takeRoom r.brick vs.length l)

/-- The voices on a logical brick by job, without the jobs in `gone`. -/
def State.byJob (s : State) (b : Nat) (gone : List Nat) : List (List Nat) :=
  let vs := s.disp.voices.filter fun v => v.src / 128 = b ∧ ¬ gone.contains v.record
  ((vs.map Voice.record).dedup).map fun r => (vs.filter fun v => v.record = r).map Voice.src

/-- The preset version that a voice's slot needs. -/
def State.verOf (s : State) (src : Nat) : Nat :=
  ((s.voice? src).map fun v => (v.params.getD 0 0).toNat / 256).getD 0

/-- Jobs to release, in the order of R144 and never of class 0, until the voices that survive on brick b fit elsewhere
(R151). -/
def State.releaseFor (s : State) (b : Nat) : List Nat → List Job → List Nat
  | gone, [] => gone
  | gone, j :: js =>
    let groups := s.byJob b gone
    if (reseat s.verOf groups (s.rooms gone)).length = (groups.map List.length).sum then gone
    else s.releaseFor b (gone ++ [j.record]) js

/-- A voice of a brick that fails at M goes on at a source: its newest valid checkpoint at or before min(F, M + 7) is taken, it renders
silently up to M + 6, and is staged from M + 7 on; one that has not begun renders from its start (R176) (DEDUCED,
notes/assumptions/98.md). -/
def State.migrate (s : State) (v : Voice) (src m : Nat) : State :=
  let s := s.delVoice v.src v.record
  let w := { v with src := src, gapFrom := some (m + 1), staged := [], rollback := none, redo := some (m + 7) }
  match v.ckptFor (min s.front (m + 7)) with
  | some k =>
    let s := if v.custom then s.putKmem (src / 128) (64 * (src % 128)) k.words else s
    s.setVoice { w with toVoiceDyn := k.dyn, next := k.block, ckpts := [{ k with entry := 0 }] }
  | none => s.setVoice { w with ckpts := [] }

/-- Move a voice to another source, its taps and tap records with it. -/
def State.moveVoice (s : State) (old new m : Nat) : State :=
  match s.voice? old with
  | none => s
  | some v =>
    let s := s.migrate v new m
    let s := match s.job? v.record with
      | some j => s.setJob { j with voices := j.voices.map fun x => if x = old then new else x }
      | none => s
    let s : State := { s with disp := { s.disp with insertions := s.disp.insertions.map fun (i : Nat × Nat × Nat × Nat) =>
      if i.2.1 = old then (new / 128, new, i.2.2) else i } }
    let s := s.setTaps (s.mix.taps.map fun t => if t.src = old ∧ t.job = some v.record then { t with src := new } else t)
    s.setPend (s.mix.pend.map fun p =>
      if p.entry.src = old ∧ ¬ p.entry.vrel ∧ p.entry.owner = some v.record then
        { p with entry := { p.entry with src := new } } else p)

/-- The lowest unused spare (R176). -/
def State.spare? (s : State) : Option Nat :=
  (List.range (s.variant.bricks + s.variant.spares)).find? fun n =>
    s.flag (F.BRICK_MAP_SPARE n) ∧ ¬ s.flag (F.BRICK_MAP_FAILED n) ∧ ¬ s.flag (F.BRICK_MAP_IN_SERVICE n) ∧
      ¬ s.safe.failedBricks.contains n

/-- A spare takes over a logical brick: its map entry, slots and kernel. -/
def State.takeOver (s : State) (b p q : Nat) : State :=
  let s := ((s.set (F.BRICK_MAP_IN_SERVICE q)).put (F.BRICK_MAP_LOGICAL q) b).set (F.BRICK_MAP_CLOSED q)
    (s.flag (F.BRICK_MAP_CLOSED p))
  let s := (s.wr (R.BRICK_KERNEL q) (s.rd (R.BRICK_KERNEL p))).wr (R.BRICK_VOICES q) (s.rd (R.BRICK_VOICES p))
  s.put F.SAFE_DEGRADE_SPARES_LEFT (s.get F.SAFE_DEGRADE_SPARES_LEFT - 1)

/-- The voices of a brick migrate at M to the spare that takes its number. -/
def State.migrateVoices (s : State) (b m : Nat) : State :=
  forEach (s.disp.voices.filter fun v => v.src / 128 = b) s fun v s => s.migrate v v.src m

/-- Blocks M + 1 to M + 6 of the zones that a brick's voices feed are left out of the twin comparison (R178). -/
def State.excludeTwin (s : State) (b m : Nat) : State :=
  let buses := (s.mix.taps.filter fun t => t.src / 128 = b).map Tap.bus
  let hit := (s.zones.filter fun z => z.inputs.any fun i => buses.contains i).map Zone.n
  { s with course := { s.course with
    excluded := s.course.excluded ++ (List.range 6).map fun i => (m + 1 + i, hit) } }

/-- A physical brick is declared failed (R176, R178, R415): its logical brick migrates to a spare, or jobs are released. -/
def State.brickFail (s : State) (b : Nat) : State :=
  match s.physOf b with
  | none => s
  | some p =>
    let m := s.commit
    let s := ((s.set (F.BRICK_MAP_FAILED p)).set (F.BRICK_MAP_IN_SERVICE p) false).bumpSat F.SAFE_DEGRADE_FAILED
    let s := { s with safe := { s.safe with failedBricks := p :: s.safe.failedBricks } }
    match s.spare? with
    | some q =>
      let n := s.voicesOn b
      let s := (s.takeOver b p q).migrateVoices b m
      let s := if s.flag F.CRSE_CTRL_TWIN_EN then (s.excludeTwin b m).courseSend 0xB [w32 m, w32 b] else s
      { s with
        timed := s.timed ++ [⟨s.startOf (m + 7), s.order, 0xF176, [w32 b, w32 (p + q * 256), w32 m, w32 n], 0, 0, 0, false⟩],
        order := s.order + 1 }
    | none =>
      let cands := isort s.stealBefore (s.disp.jobs.filter fun j =>
        (j.state = .running ∨ j.state = .releasing) ∧ j.descr.cls ≠ 0)
      let gone := s.releaseFor b [] cands
      let s := s.bumpSat F.SAFE_DEGRADE_RELEASED gone.length
      let moves := reseat s.verOf (s.byJob b gone) (s.rooms gone)
      let s := forEach gone s fun r s => match s.job? r with
        | some j => s.stopJob j (s.startOf (m + 1)) 0x0A
        | none => s
      forEach moves s fun x s => s.moveVoice x.1 x.2 m

/-! Bank memory (R424). -/

/-- Every tile of an image loses VERIFIED. -/
def Image.unverify (i : Image) : Image := { i with unverified := List.range (nTiles i.bytes) }

/-- Bank memory becomes unavailable: tiles lose VERIFIED, delays are clamped (R129, R213, R424). -/
def State.bankLost (s : State) : State :=
  let s := (s.set F.SAFE_BANKMEM_UNAVAILABLE).put F.MEMIF_STATUS_BANK_STATE 4
  let s := { s with banks := { s.banks with
    available := false,
    banks := s.banks.banks.map fun (b : Bank) => { b with image := b.image.map Image.unverify, old := b.old.map Image.unverify } } }
  forEach s.zones s fun z s => if 1024 < z.delay then s.set (F.ZONE_STATUS_DELAY_DEGRADED z.n) else s

/-! Detection. -/

/-- The reaction of a detection (R415–R417). In FAULT only RESET acts further; in Lull the reaction waits for the wake
(R419). Bank memory is unavailable whatever the reaction (R424). -/
def State.reactTo (s : State) (code inst react : Nat) : State :=
  match s.power with
  | .lull => { s with safe := { s.safe with lullFaults := s.safe.lullFaults ++ [(code, inst)] } }
  | .idle | .run | .fault | .boot =>
    let s := if code = Mech.bankUnavail ∨ (code = Mech.clock ∧ inst = 3) then s.bankLost else s
    let s := if 2 ≤ react ∧ (s.power = .idle ∨ s.power = .run) then s.enterFault code else s
    if react = React.reset then
      let s := s.freezeAlive
      { s with safe := { s.safe with resetDue := some (s.safe.resetDue.getD code) } }
    else if react = React.degrade ∧ s.power ≠ .fault then
      if code = Mech.golden ∨ code = Mech.rollback ∨ code = Mech.brickEcc then s.brickFail inst else s
    else s
  | _ => s

/-- A detection with a given reaction (R414): steps 1 to 3 and 5; step 4 is FAULT_LOG_WRITE. -/
def State.raiseWith (s : State) (code inst : Nat) (loc exp obs : W32) (react : Nat) (injected : Bool) : State :=
  let active : Bool := s.flag (F.SAFE_MECH_STAT_ACTIVE code) ∨
    (if injected then 0x11 ≤ code ∧ code ≤ 0x14 else s.persists code)
  let s := ((s.set (F.SAFE_MECH_STAT_LATCHED code)).set (F.SAFE_MECH_STAT_ACTIVE code) active).bumpSat
    (F.SAFE_MECH_STAT_COUNT code)
  let s := s.bufferRecord code inst react injected loc exp obs
  let s := if code = Mech.clock then s.put F.SAFE_CLKMON_FAILED (s.get F.SAFE_CLKMON_FAILED ||| 2 ^ inst) else s
  s.reactTo code inst react

/-- A word of a brick fails SECDED outside its PM and tables: in XM, a checkpoint or its tag loses VALID (R161, R166). Which memory holds
the word is a free choice (DESIGN CHOICE, notes/assumptions/7.md). -/
def State.ckptLost (s : State) (b a : Nat) : State :=
  let (x, s) := s.draw
  if a < 0x2000 ∨ 0xC500 ≤ a ∨ x % 2 = 1 then s
  else { s with disp := { s.disp with voices := s.disp.voices.map fun (v : Voice) =>
    if v.src / 128 ≠ b then v
    else { v with ckpts := v.ckpts.map fun (c : Ckpt) => if c.holds (v.src % 128) a then { c with valid := false } else c } } }

/-- An uncorrectable word of the tap, class and generator tables mutes the taps that it holds from the next block and counts (R200).
Which taps it holds, or none, is a free choice (DESIGN CHOICE, notes/assumptions/206.md). -/
def State.tapLost (s : State) : State :=
  let (x, s) := s.draw
  let taps := s.mix.taps.zipIdx.map fun (t, i) => if x / 2 ^ i % 2 = 1 then { t with muted := true } else t
  ({ s with mix := { s.mix with taps := taps } }.set F.MIX_STATUS_TAP_ECC).bumpSat F.MIX_ECC_UNCORR_CNT

/-- A detection (R414) with the mechanism's reaction. -/
def State.raise (s : State) (code inst : Nat) (loc exp obs : W32) (injected : Bool := false) : State :=
  let (r, s) := s.baseReact code inst
  let s := if code = Mech.brickEcc ∧ r = React.report ∧ ¬ injected then s.ckptLost inst loc.toNat else s
  let s := if code = Mech.tapEcc ∧ ¬ injected then s.tapLost else s
  s.raiseWith code inst loc exp obs (s.escalated code r) injected

/-- A mechanism's condition ends: ACTIVE clears (R418). -/
def State.unraise (s : State) (code : Nat) : State := s.set (F.SAFE_MECH_STAT_ACTIVE code) false

/-- Clear every LATCHED bit whose ACTIVE bit is 0, posting SAFE_CLEAR for each (R414, R416, R418). -/
def State.clearLatched (s : State) : State :=
  forEach (List.range 24) s fun k s =>
    if s.flag (F.SAFE_MECH_STAT_LATCHED k) ∧ ¬ s.flag (F.SAFE_MECH_STAT_ACTIVE k) then
      (s.set (F.SAFE_MECH_STAT_LATCHED k) false).post 0x0C03 0xFFFF [w32 k]
    else s

end Sys2Proof.Machine
end

