-- ==== Sys2Proof/Machine/Records.lean ====
section
/-! DEFINITION. What the device writes down: the fault log (R423), ageing records (R497–R499), Strikes that wait for their
sample (R502–R504), and the settings that a configuration image holds (R297, R488). -/

namespace Sys2Proof.Machine

/-! Strike triggers (R502–R504). -/

/-! Bits of SOURCES (R509). -/
namespace Src
def strikeIn : Nat := 0
def safety : Nat := 1
def timer : Nat := 2
def mtMatch : Nat := 3
def course : Nat := 4
def snap : Nat := 5
end Src

/-- A source of Strikes is enabled (R502). -/
def State.strikeOn (s : State) (src : Nat) : Bool := src = Src.snap ∨ Nat.testBit (s.get F.STRK_CTRL_EN) src

/-- Add a pending Strike, which takes the next sequence number at its registration (R507; DESIGN CHOICE, notes/assumptions/16.md); a trigger
that gives the sample of another merges into it (R504). -/
def State.strikeAdd (s : State) (p : StrikePend) : State :=
  match s.strike.pend.find? fun q => q.mt = p.mt with
  | some q =>
    let q' := { q with sources := q.sources ||| p.sources }
    let s := s.bumpSat F.STRK_COUNT_MERGED
    { s with strike := { s.strike with pend := s.strike.pend.map fun x => if x.mt = p.mt then q' else x } }
  | none =>
    let n := (s.strike.lastSeq + 1) % 65536
    let p := { p with seq := n }
    let l := s.strike.pend
    { s with strike := { s.strike with
      lastSeq := n, pend := l.filter (fun x => x.mt < p.mt) ++ p :: l.filter (fun x => p.mt < x.mt) } }

/-- A local trigger registers for a sample (R502, R503): on a cascade with the course-link source enabled it becomes a site
Strike and is sent round the ring with its sequence number. -/
def State.strikeTrigger (s : State) (src mt : Nat) : State :=
  if ¬ s.running ∨ ¬ s.strikeOn src then s
  else
    let site : Bool := s.cascade ∧ s.strikeOn Src.course
    let mt := if site then max mt (s.startOf (s.blockNow + s.pOff + 1)) else mt
    let seq := match s.strike.pend.find? fun q => q.mt = mt with
      | some q => q.seq
      | none => (s.strike.lastSeq + 1) % 65536
    let s := if site then s.courseSend 0x8 [w32 seq, lo32 mt, hi32 mt] else s
    s.strikeAdd ⟨mt, seq, 2 ^ src, s.courseNo, seq, site, false⟩

/-! The fault log (R414 step 4, R417, R423). -/

/-- The first index from n on that no unreleased protected record holds; the fuel is the size of the ring. -/
def freeIndex (prot : List Nat) : Nat → Nat → Nat
  | n, 0 => n % 4096
  | n, k + 1 => if prot.contains (n % 4096) then freeIndex prot (n + 1) k else n % 4096

/-- A sector of a NOR region is erased: the region's highest count may rise by one (MEMIF_REGION[r]_STAT.ERASE_CNT; which sector
is worn most is a free choice, DESIGN CHOICE, notes/assumptions/73.md). -/
def State.noteErase (s : State) (r : Nat) : State :=
  let (x, s) := s.draw
  s.bumpSat (F.MEMIF_REGION_STAT_ERASE_CNT r) (x % 2)

/-- Write one record to the log. -/
def State.logRecord (s : State) (r : FaultRec) : State :=
  let i := freeIndex s.safe.prot s.safe.nextIndex 4096
  let prot := if bit (r.getD 0 0) 8 then s.safe.prot ++ [i] else s.safe.prot
  let s := if i % 128 = 0 then s.noteErase 4 else s
  let s := { s with safe := { s.safe with
    log := kput s.safe.log i r, prot := prot, nextIndex := (i + 1) % 4096 } }
  ((s.put F.SAFE_LOG_PROTECTED prot.length).set F.SAFE_LOG_EMPTY false).put F.SAFE_LOG_NEWEST i

/-- Take the oldest buffered record to the log, post SAFE_FAULT and fire a Strike from the safety source, except for a
reaction of RESET (R414, R502). -/
def State.logOne (s : State) : State :=
  match s.safe.buffer with
  | [] => s
  | r :: rest =>
    let s := ({ s with safe := { s.safe with buffer := rest } }).logRecord r
    let s := s.post 0x0C02 (bits (r.getD 0 0) 16 16) [r.getD 0 0]
    if bits (r.getD 0 0) 10 2 = React.reset then s else s.strikeTrigger Src.safety (s.time.mt + 1)

/-- Take every buffered record to the log. -/
def State.logAll (s : State) : State := iter State.logOne s.safe.buffer.length s

/-! Capacity under the ageing plan (R497) and ageing records (R499). -/

/-- Usable slots per brick at an ECLK in MHz and a rate code. -/
def slotsFor (mhz code : Nat) : Nat :=
  let perBlock := mhz * 1000000 * Config.blockLen code / Config.rateHz code
  min (Config.slotsAt code) ((perBlock - 162133) / (if Config.double code then 5800 else 2900))

/-- The ECLK that the clock steps taken lead to, in MHz (R496, R497). -/
def State.plannedMhz (s : State) : Nat := 800 - 25 * s.get F.AGE_PLAN_ECLK_STEPS

/-- Usable voices of the device under the plan. -/
def State.usableVoices (s : State) : Nat := slotsFor s.plannedMhz s.rate * s.variant.bricks

/-- The lowest slack of this hour over the ring sensors. -/
def State.slackMin (s : State) : Nat := (List.range 32).foldl (fun m k => min m (s.get (F.AGE_RING_SLACK_MIN k))) 65535

/-- The slab and column with the most corrections in this hour. -/
def State.worstColumn (s : State) : Nat × Nat × Nat :=
  s.slabs.columns.foldl (fun m c => if m.2.2 < c.2.2 then c else m) (0, 0, 0)

/-- The channel of the largest segment drift. -/
def State.worstDrift (s : State) : Nat × Nat :=
  s.ana.foldl (fun m c => if m.2 < c.drift then (c.n, c.drift) else m) (0, 0)

/-- An ageing record of what the monitor holds now, with the droop events counted and the mean current read over the hour. -/
def State.ageRecord (s : State) (droops iout : Nat) : AgeRec :=
  let a := s.age
  let seq := match a.log with | [] => 0 | r :: _ => (r.getD 0 0).toNat + 1
  let hw := fun (x y : Nat) => w32 (min x 65535 * 65536 + min y 65535)
  let (slab, col, cnt) := s.worstColumn
  let (ch, drift) := s.worstDrift
  let ws : List W32 := [w32 seq, s.rd R.AGE_HOURS,
    w32 (unsigned 16 (if a.tjN = 0 then 0 else a.tjSum / a.tjN) * 65536 + unsigned 16 a.tjMax),
    hw (if a.slackN = 0 then 0 else a.slackSum / a.slackN) s.slackMin,
    hw (s.get F.AGE_PMBUS_VOUT_MV) (s.get F.AGE_VDD_TARGET_MV),
    hw (s.get F.AGE_PLAN_ECLK_MHZ) iout,
    w32 (s.usableVoices * 65536 + s.get F.AGE_PLAN_ECLK_STEPS * 256 + s.get F.AGE_PLAN_VDD_STEPS),
    w32 (min droops 4294967295),
    hw ((List.range 32).map fun n => s.get (F.SLAB_ECC_CORR_CNT n)).sum a.canaryFails,
    w32 (min cnt 65535 * 65536 + col * 256 + slab),
    hw (s.get F.MEMIF_BANK_ECC_UNCORR_CNT) (s.get F.MEMIF_BANK_ECC_CORR_CNT),
    w32 (ch * 256 + min drift 255), hw a.resetsHour a.lullMinutes, 0, 0]
  ws ++ [crc32 (bytesOfWords ws)]

/-- Append an ageing record to the log, newest first (R499). The droop monitors' count and the mean current have no row of
their own: they are free values (DESIGN CHOICE, notes/assumptions/14.md). -/
def State.ageAppend (s : State) : State :=
  let (droops, s) := s.draw
  let (iout, s) := s.draw
  let r := s.ageRecord droops iout
  let next := s.get F.AGE_LOG_NEXT
  let s := { s with age := { s.age with log := (r :: s.age.log).take 131072 } }
  let s := if next % 64 = 0 then s.noteErase 5 else s
  let s := if next + 1 = 131072 then s.set F.AGE_LOG_WRAPPED else s
  s.put F.AGE_LOG_NEXT ((next + 1) % 131072)

/-- Set the usable slots of every brick in service (R141, R497). -/
def State.setUsable (s : State) (n : Nat) : State :=
  forEach (List.range (s.variant.bricks + s.variant.spares)) s fun b s =>
    if s.flag (F.BRICK_MAP_IN_SERVICE b) then s.put (F.BRICK_VOICES_USABLE b) n else s

/-! Settings (R297, R487, R488). -/

/-- What a configuration image holds (R297). -/
structure Settings where
  autoArm : Bool
  /-- The course number the image names (R463). -/
  course : Nat
  regs : Store
  zones : List Zone
  groups : List Group
  taps : List Tap
  classes : List SrcClass
  gens : List Gen
  aux : List (Nat × List W32)
  trigs : List (Nat × Descr)
  returns : List Returns
  /-- Path number, enable, zone and input (R409). -/
  paths : List (Nat × Bool × Nat × Nat)
  /-- The Dew window: steps, groups, start (R402). -/
  dew : Nat × W64 × Nat
  siteNames : List (Nat × List Nat)
  deriving DecidableEq, Repr, Inhabited

end Sys2Proof.Machine

namespace Sys2Proof.Config

/-- How settings lie in a configuration image, and what an image's bytes hold: R297 names the contents and no rule lays them
out (DESIGN CHOICE, notes/assumptions/9.md). -/
opaque encodeSettings : Machine.Settings → List Byte
opaque decodeSettings : List Byte → Machine.Settings

end Sys2Proof.Config

namespace Sys2Proof.Machine

/-- A register whose value is part of the settings: every register with writable fields above SYS, those that a command
alone writes, the safety lock, and the owners of slabs 0–27 (R434) (DEDUCED, notes/assumptions/186.md). -/
def settingReg (a : Nat) : Bool :=
  let writable := match regRow a with
    | none => false
    | some (r, _, _) => r.rw + r.rwl ≠ 0
  (writable && decide (0x11000 ≤ a) && !decide (0x40000 ≤ a ∧ a < 0x41000)) ||
  decide (a = R.TIME_RATE ∨ a = R.SAFE_LOCK ∨ a = R.CRSE_CTRL ∨ a = R.STRM_CTRL ∨ a = R.STRM_MAP) ||
  (List.range 24).any (fun n => a = R.SAFE_MECH_CFG n) || (List.range 28).any (fun n => a = R.SLAB_OWNER n) ||
  (List.range 64).any (fun n => a = R.ANA_CTRL n) || (List.range 8).any (fun n => a = R.APORT_GROUP n)

/-- Where a ramp ends, as a gain that does not move. -/
def Ramp.settled (r : Ramp) : Ramp := .of (ampOf r.dst) r.dst 0 0

/-- The settings of a zone, without what runs in it. -/
def Zone.settled (z : Zone) : Zone :=
  { Zone.init z.n with
    inputs := z.inputs, groupPos := z.groupPos,
    ambient := { z.ambient with quiet := 0, gapBlocks := 0, power := 0, estimate := none, gain := 0 },
    biquads := z.biquads.map fun (b : Biquad) => { b with x1 := 0, x2 := 0, y1 := 0, y2 := 0 },
    firStage := z.firStage, fir := z.fir, dyn := { z.dyn with level := -120 * 2 ^ 60, limGain := 2 ^ 60, bypass := 0 },
    delay := z.delay, gain := z.gain.settled, pilotLevel := z.pilotLevel, pilotOn := z.pilotOn.settled, dests := z.dests,
    ramps := z.dests.map fun d => if destRole d = 2 ∨ destRole d = 3 then .silent else .unity, fade := z.fade.settled }

/-- The settings in force. -/
def State.settings (s : State) (autoArm : Bool) : Settings where
  autoArm := autoArm
  course := s.courseNo
  regs := s.regs.filter fun p => settingReg p.1
  zones := s.zones.map Zone.settled
  groups := s.groups
  taps := (s.mix.taps.filter fun t => 8192 ≤ t.src ∧ ¬ t.deleting).map fun (t : Tap) =>
    { t with ramp := t.ramp.settled, duck := .unity, muted := false }
  classes := s.mix.classes
  gens := s.mix.gens.map fun (g : Gen) => { g with level := g.level.settled, setMt := 0, shift := 0, past := [] }
  aux := s.mix.aux
  trigs := s.disp.trigs
  returns := s.supv.returns
  paths := s.supv.paths.map fun p => (p.n, p.en, p.zone, p.input)
  dew := (s.supv.dewSteps, s.supv.dewGroups, s.supv.dewStart)
  siteNames := s.course.siteNames

/-- Restore settings: registers and records (R488); contact outputs stay off and timers stopped, and Squall is armed as the
image gives. -/
def State.restore (s : State) (c : Settings) : State :=
  let s := forEach (c.regs.filter fun p => settingReg p.1) s fun p s => s.wr p.1 p.2
  let s := s.put F.CONTACT_OUT_LEVEL 0
  let s := forEach (List.range 16) s fun n s => s.set (F.TIM_CTRL_RUN n) false
  let s := s.set F.DISP_SQUALL_CFG_ARMED (c.autoArm && s.flag F.DISP_SQUALL_CFG_ARMED)
  { s with
    zones := c.zones, groups := c.groups,
    mix := { s.mix with taps := c.taps, classes := c.classes, gens := c.gens, aux := c.aux },
    disp := { s.disp with trigs := c.trigs },
    supv := { s.supv with
      returns := c.returns, dewSteps := c.dew.1, dewGroups := c.dew.2.1, dewStart := c.dew.2.2,
      paths := c.paths.foldl (fun l (x : Nat × Bool × Nat × Nat) =>
        upsert Path.n { (pick Path.n x.1 l).getD (.init x.1) with en := x.2.1, zone := x.2.2.1, input := x.2.2.2 } l)
        s.supv.paths },
    course := { s.course with siteNames := c.siteNames } }.courseInit

end Sys2Proof.Machine
end

