-- ==== Sys2Proof/Machine/Slab.lean ====
section
/-! DEFINITION. The slabs (R429–R439): ownership and handover, the three views, error correction, scrub and march test,
column repair, and the SLAB commands (R305, R306). -/

namespace Sys2Proof.Machine

/-- The slab an address list numbers: slab × 65,536 + word. -/
abbrev slabKey (slab word : Nat) : Nat := slab * 65536 + word

/-- DESIGN CHOICE, notes/assumptions/29.md. -/
def State.slabWord (s : State) (key : Nat) : W64 := (kget s.slabs.words key).getD 0
def State.setSlabWord (s : State) (key : Nat) (v : W64) : State :=
  { s with slabs := { s.slabs with words := storePut 0 s.slabs.words key v } }

/-- The agent owns the slab (R431): by code and, for an audio port, its number; TEST only while debug is unlocked. -/
def State.owns (s : State) (slab : Nat) (g : Agent) : Bool :=
  g.code.val = s.get (F.SLAB_OWNER_OWNER slab) ∧ (g.code.val ≠ 4 ∨ g.sub.val = s.get (F.SLAB_OWNER_OWNER_SUB slab)) ∧
    (g.code.val ≠ 8 ∨ s.flag F.SAFE_STATUS_DEBUG_UNLOCKED) ∧ g.code.val ≠ 0

/-- A non-owner access is recorded, and reported at most once per slab per second (R432). -/
def State.ownViol (s : State) (slab : Nat) (agent : Nat) (write : Bool) (word : Nat) : State :=
  let s :=
    if s.flag (F.SLAB_STATUS_OWN_VIOL slab) then s
    else ((s.put (F.SLAB_VIOL_AGENT slab) agent).set (F.SLAB_VIOL_WRITE slab) write).put (F.SLAB_VIOL_WORD slab) word
  let s := (s.set (F.SLAB_STATUS_OWN_VIOL slab)).bumpSat (F.SLAB_VIOL_VIOL_CNT slab)
  if s.slabs.violThisSecond.contains slab then s
  else
    let s := s.post 0x1203 slab [s.rd (R.SLAB_VIOL slab)]
    { s with slabs := { s.slabs with violThisSecond := slab :: s.slabs.violThisSecond } }

/-- An uncorrectable word is met (R436): SLAB_ECC names the slab and the word; in a vault slab the tiles that overlap it are
marked BAD (R132). -/
def State.slabUncorr (s : State) (slab word : Nat) : State :=
  let s := (s.set (F.SLAB_STATUS_UNCORR slab)).bumpSat (F.SLAB_ECC_UNCORR_CNT slab)
  s.raise Mech.slabEcc slab (w32 word) 0 0

/-- Half of a word, half 0 the low one, with the data merged in: mode 0 replaces it, 1 sets bits, 2 clears bits (R430) (DEDUCED, notes/assumptions/43.md). -/
def mergeHalf (w : W64) (high : Bool) (mode : Nat) (d : W32) : W64 :=
  let old := if high then w.extractLsb' 32 32 else w.extractLsb' 0 32
  let new := match mode with | 0 => d | 1 => old ||| d | _ => old &&& ~~~ d
  if high then new ++ w.extractLsb' 0 32 else w.extractLsb' 32 32 ++ new

/-- An owner's 32-bit write: a read-modify-write, abandoned where the word is uncorrectable (R430, R436). -/
def State.slabPut (s : State) (slab half mode : Nat) (d : W32) : State :=
  let key := slabKey slab (half / 2)
  if s.slabs.bad.contains key then s.slabUncorr slab (half / 2)
  else s.setSlabWord key (mergeHalf (s.slabWord key) (half % 2 = 1) mode d)

/-- A 32-bit write on port A through one of the views (R430, R432, R433): the owner's lands, a new owner's waits while the
handover drains, any other is refused. -/
def State.slabAccess (s : State) (slab : Nat) (g : Agent) (half mode : Nat) (d : W32) : State :=
  match s.slabs.draining.find? fun x => x.1 = slab with
  | some (_, code, sub) =>
    if g.code.val = code ∧ (code ≠ 4 ∨ g.sub.val = sub) then
      { s with slabs := { s.slabs with held := s.slabs.held ++ [(slab * 131072 + half, mode, d, g.code.val)] } }
    else s.ownViol slab g.code.val true (half / 2)
  | none =>
    if s.owns slab g ∧ g.code.val ≠ 9 then s.slabPut slab half mode d
    else s.ownViol slab g.code.val true (half / 2)

/-- A handover request (R433). -/
def State.handover (s : State) (slab : Nat) (writer : Agent) (newOwner newSub : Nat) : State :=
  let owner := s.get (F.SLAB_OWNER_OWNER slab)
  let draining := s.slabs.draining.any fun x => x.1 = slab
  let sub := if newOwner = 4 then newSub else 0
  if ¬ (s.owns slab writer ∨ writer.code.val = 1) then s.ownViol slab writer.code.val true 0
  else if 9 ≤ newOwner ∨ owner = 9 ∨ draining then s.set (F.SLAB_STATUS_HO_REJECT slab)
  else if newOwner = owner ∧ sub = s.get (F.SLAB_OWNER_OWNER_SUB slab) then s.set (F.SLAB_STATUS_HANDOVER_DONE slab)
  else
    let s := (s.set (F.SLAB_STATUS_HANDOVER_DONE slab) false).set (F.SLAB_STATUS_DRAINING slab)
    { s with slabs := { s.slabs with draining := s.slabs.draining ++ [(slab, newOwner, sub)] } }

/-- The column that a repair of a slab replaces (R439, R498): the one with the most corrections, or, where none has been counted since
the reset, the one that the repair was called for; 0xFF none. -/
def State.repairCol (s : State) (n : Nat) : Nat :=
  if s.get (F.SLAB_REPAIR_WORST_COL n) = 0xFF then (kget s.age.repairCols n).getD 0xFF else s.get (F.SLAB_REPAIR_WORST_COL n)

/-- The repairs that are due begin on slabs owned by NONE that have a field-repair column left (R498), once a column is known (DESIGN
CHOICE, notes/assumptions/207.md). In a boot that reloads the vault mirror, its slabs are repaired before that. -/
def State.startRepairs (s : State) : State :=
  forEach s.age.repairDue s fun n s =>
    let free : Bool := s.get (F.SLAB_OWNER_OWNER n) = 0 ∨
      (28 ≤ n ∧ s.power = .boot ∧ s.resetKind ≠ .wdog ∧ s.resetKind ≠ .soft)
    if free ∧ s.flag F.AGE_CTRL_REPAIR_EN ∧ ¬ (s.slabs.repairs.any fun x => x.1 = n) ∧
        s.get (F.SLAB_REPAIR_COL_B n) = 0xFF ∧ s.repairCol n ≤ 71 then
      { s with slabs := { s.slabs with repairs := s.slabs.repairs ++ [(n, s.repairCol n)] } }
    else s

/-- The response of SLAB.HANDOVER, and its CMD_DONE (R274, R306). -/
def State.answerHandover (s : State) (k : Kcp) : State :=
  let mt := s.time.mt
  let s := s.reply 0x1201 ⟨k.chan, St.ok, k.seq, false, false, false, mt, []⟩
  if k.notify then s.cmdDone 0x1201 k.chan k.seq St.ok mt else s

/-- The responses that wait for a slab's HANDOVER_DONE (R306). -/
def State.answerHandovers (s : State) (slab : Nat) : State :=
  let due := s.slabs.answers.filter fun x => x.1 = slab
  forEach due { s with slabs := { s.slabs with answers := s.slabs.answers.filter fun x => x.1 ≠ slab } } fun x s =>
    s.answerHandover x.2

/-- The owner of a slab is a unit that is enabled and uses the slab (R306): a port whose buffer lies in it, and of the owners whose
registers name no slab any that is enabled, where the bricks are enabled while a voice sounds (DEDUCED, notes/assumptions/22.md). -/
def State.slabInUse (s : State) (slab : Nat) : Bool :=
  let sub := s.get (F.SLAB_OWNER_OWNER_SUB slab)
  match s.get (F.SLAB_OWNER_OWNER slab) with
  | 3 => s.flag F.STRM_CTRL_EN
  | 4 => s.get (F.APORT_STATUS_STATE sub) ≠ 0 ∧ s.get (F.APORT_BUF_SLAB sub) = slab
  | 5 => s.flag F.SUPV_CTRL_AVU_EN
  | 6 => s.disp.voices.any fun v => v.sounding
  | 7 => s.zones.any fun z => s.flag (F.ZONE_CTRL_EN z.n)
  | _ => false

/-- An accepted handover has drained: the owner changes, and the held accesses proceed in their order of issue (R433). -/
def State.drained (s : State) (slab : Nat) : State :=
  match s.slabs.draining.find? fun x => x.1 = slab with
  | none => s
  | some (_, code, sub) =>
    let s := ((s.put (F.SLAB_OWNER_OWNER slab) code).put (F.SLAB_OWNER_OWNER_SUB slab) sub).set
      (F.SLAB_STATUS_DRAINING slab) false
    let s := s.set (F.SLAB_STATUS_HANDOVER_DONE slab)
    let mine := s.slabs.held.filter fun h => h.1 / 131072 = slab
    let s := { s with slabs := { s.slabs with
      draining := s.slabs.draining.filter (fun x => x.1 ≠ slab),
      held := s.slabs.held.filter (fun h => h.1 / 131072 ≠ slab) } }
    ((forEach mine s fun h s => s.slabPut slab (h.1 % 131072) h.2.1 h.2.2.1).answerHandovers slab).startRepairs

/-- A repair is called for (R498), on a slab that has a field-repair column left. -/
def State.repairCall (s : State) (slab : Nat) : State :=
  if s.age.repairDue.contains slab ∨ s.get (F.SLAB_REPAIR_COL_B slab) ≠ 0xFF then s
  else
    let col := s.get (F.SLAB_REPAIR_WORST_COL slab)
    let s := { s with age := { s.age with
      repairDue := s.age.repairDue ++ [slab], repairCols := if col = 0xFF then s.age.repairCols else kput s.age.repairCols slab col } }
    let s := (s.set F.AGE_STATUS_REPAIR_DUE).post 0x0E05 0xFFFF [w32 (slab + s.get (F.SLAB_REPAIR_WORST_COL slab) * 256)]
    s.startRepairs

/-- More corrections of a column in 24 h than COL_LIMIT call for a repair, while the monitor runs and may repair (R494, R498). -/
def State.wantRepair (s : State) (slab n : Nat) : State :=
  if s.get F.AGE_LIMITS_COL_LIMIT < n ∧ s.flag F.AGE_CTRL_EN ∧ s.flag F.AGE_CTRL_REPAIR_EN then s.repairCall slab else s

/-- A correction counts toward its column (R437), and toward the slab's repair (R498). -/
def State.countColumn (s : State) (slab col : Nat) : State :=
  let n := ((s.slabs.columns.find? fun c => c.1 = slab ∧ c.2.1 = col).map fun c => c.2.2).getD 0 + 1
  let s := { s with slabs := { s.slabs with
    columns := (slab, col, n) :: s.slabs.columns.filter (fun c => ¬ (c.1 = slab ∧ c.2.1 = col)) } }
  let s := if s.get (F.SLAB_REPAIR_WORST_COL slab) = 0xFF ∨ s.get (F.SLAB_REPAIR_WORST_CNT slab) < n then
      (s.put (F.SLAB_REPAIR_WORST_COL slab) col).put (F.SLAB_REPAIR_WORST_CNT slab) (min 255 n)
    else s
  s.wantRepair slab n

/-- The tiles of the vault whose data, directory entry or marks overlap a slab word (R132). -/
def State.vaultTiles (s : State) (key : Nat) : List Nat :=
  let b := s.vaultBytes
  let lo := (key - 28 * 65536) * 8
  let hits := fun off len => decide (off < lo + 8 ∧ lo < off + len)
  (List.range (nTiles b)).filter fun n =>
    let e := tileEntry b n
    hits (dirOff b + 16 * n) 16 || hits e.dataOff (e.dataLen + 4) || (e.pmOff ≠ 0 && hits e.pmOff (pmLen b e))

/-- Mark tiles of a bank's image BAD or good. -/
def State.markBad (s : State) (bank : Nat) (tiles : List Nat) (isBad : Bool) : State :=
  let b := s.bank bank
  let f := fun (i : Image) =>
    let rest := i.bad.filter fun t => ¬ tiles.contains t
    { i with bad := if isBad then rest ++ tiles else rest }
  s.setBank { b with image := b.image.map f }

/-! Meanings. -/

/-- The checks of SLAB.HANDOVER (R305, R306). -/
def cmdSlabHandover : Cmd where
  opcode := 0x1201
  denied := fun k s => s.get (F.SLAB_OWNER_OWNER (k.f 0 0 5)) = 9 ∨ k.f 0 8 4 = 9
  arg := fun k _ => firstBad [lenIs k 1, resv k 0 0xFF1F, fld 0 8 (k.f 0 8 4 ≤ 9)]
  refuse := fun k s => if s.slabInUse (k.f 0 0 5) then some St.state else none

/-- SLAB.HANDOVER: the Mason pair writes SLAB[n]_HANDOVER, and its response follows HANDOVER_DONE (R306). -/
def State.commandHandover (s : State) (k : Kcp) : State :=
  s.screened k 0x1201 fun s =>
    match cmdSlabHandover.check k s with
    | some (st, p) => s.reply 0x1201 (refusal k st p 0 false)
    | none =>
      let n := k.f 0 0 5
      let s := s.handover n ⟨1, 0⟩ (k.f 0 8 4) (k.f 0 12 4)
      if s.flag (F.SLAB_STATUS_HANDOVER_DONE n) then s.answerHandover k
      else { s with slabs := { s.slabs with answers := s.slabs.answers ++ [(n, k)] } }

/-- SLAB.HANDOVER is taken, or waits (R263). -/
def State.takeHandover (s : State) (k : Kcp) : State := if s.taking then s.commandHandover k else s.hold 0x1201 k

/-- SLAB_HANDOVER (R433), and its command form (R306). -/
def execSlabHandover (form : HandoverForm) (s : State) : Host.Outcome State Fault Refusal :=
  .next (
    match form with
    | .register slab writer newOwner newSub => s.handover slab writer newOwner newSub
    | .command k => s.takeHandover k)

/-- HANDOVER_DRAIN_DONE (R433) (DESIGN CHOICE, notes/assumptions/26.md). -/
def execHandoverDrainDone (slab : Fin 32) (s : State) : Host.Outcome State Fault Refusal := .next (s.drained slab)

/-- SLAB_NORMAL_WRITE (R430). -/
def execSlabNormalWrite (slab : Fin 32) (agent : Agent) (half : Fin 131072) (data : W32) (s : State) :
    Host.Outcome State Fault Refusal := .next (s.slabAccess slab agent half 0 data)

/-- SLAB_SET_ALIAS_WRITE (R430). -/
def execSlabSetAliasWrite (slab : Fin 32) (agent : Agent) (half : Fin 131072) (data : W32) (s : State) :
    Host.Outcome State Fault Refusal := .next (s.slabAccess slab agent half 1 data)

/-- SLAB_CLEAR_ALIAS_WRITE (R430). -/
def execSlabClearAliasWrite (slab : Fin 32) (agent : Agent) (half : Fin 131072) (data : W32) (s : State) :
    Host.Outcome State Fault Refusal := .next (s.slabAccess slab agent half 2 data)

/-- SLAB.GET_STATUS (R305). -/
def cmdSlabGetStatus : Cmd where
  opcode := 0x1202
  fault := true
  reads := true
  arg := fun k _ => firstBad [lenIs k 0]
  act := fun _ _ s => ans s ((List.range 32).flatMap fun n => [s.view (R.SLAB_OWNER n), s.view (R.SLAB_ECC n)])
def execSlabGetStatus (k : Kcp) (s : State) : Host.Outcome State Fault Refusal := .next (kcpExec cmdSlabGetStatus k s)

/-- Bytes of a slab from an offset, and writing words of one. -/
def State.slabBytes (s : State) (slab off n : Nat) : List Byte :=
  (List.range n).map fun i =>
    let key := slabKey slab ((off + i) / 8)
    if s.slabs.bad.contains key then 0 else (s.slabWord key).extractLsb' (8 * ((off + i) % 8)) 8

/-- SLAB.READ (R305, R306); an uncorrectable word reads zero and is reported (R436). -/
def cmdSlabRead : Cmd where
  opcode := 0x1203
  fault := true
  reads := true
  arg := fun k _ => firstBad [lenIs k 3, resv k 0 0x1F, fld 1 0 (k.n 1 % 8 = 0),
    fld 1 0 (k.n 1 + k.f 2 0 10 ≤ 524288), fld 2 0 (k.f 2 0 10 % 8 = 0 ∧ 8 ≤ k.f 2 0 10 ∧ k.f 2 0 10 ≤ 1008),
    resv k 2 0x3FF]
  refuse := fun k s => if [0, 1, 2, 9].contains (s.get (F.SLAB_OWNER_OWNER (k.n 0))) then none else some St.notOwner
  act := fun k _ s =>
    let hit := (List.range (k.n 2 / 8)).filter fun i => s.slabs.bad.contains (slabKey (k.n 0) (k.n 1 / 8 + i))
    ans (forEach hit s fun i s => s.slabUncorr (k.n 0) (k.n 1 / 8 + i))
      (wordsOfBytes (s.slabBytes (k.n 0) (k.n 1) (k.n 2)))
def execSlabRead (k : Kcp) (s : State) : Host.Outcome State Fault Refusal := .next (kcpExec cmdSlabRead k s)

/-- A full 64-bit write stores fresh check bits (R436); an alias write to an uncorrectable word is abandoned. -/
def State.slabWrite64 (s : State) (slab word mode : Nat) (d : W64) : State :=
  let key := slabKey slab word
  if mode = 0 then
    let s := s.setSlabWord key d
    { s with slabs := { s.slabs with bad := s.slabs.bad.filter fun x => x ≠ key } }
  else if s.slabs.bad.contains key then s.slabUncorr slab word
  else s.setSlabWord key (if mode = 1 then s.slabWord key ||| d else s.slabWord key &&& ~~~ d)

/-- SLAB.WRITE (R305, R306). -/
def cmdSlabWrite : Cmd where
  opcode := 0x1204
  arg := fun k _ => firstBad [(4 ≤ k.words ∧ k.words % 2 = 0 ∧ k.words ≤ 256, hdrOff), resv k 0 0x31F,
    fld 0 8 (k.f 0 8 2 ≤ 2), fld 1 0 (k.n 1 % 8 = 0 ∧ k.n 1 + 4 * (k.words - 2) ≤ 524288)]
  refuse := fun k s => if s.get (F.SLAB_OWNER_OWNER (k.f 0 0 5)) = 2 then none else some St.notOwner
  act := fun k _ s => ans (forEach (List.range ((k.words - 2) / 2)) s fun i s =>
    s.slabWrite64 (k.f 0 0 5) (k.n 1 / 8 + i) (k.f 0 8 2) (k.w (3 + 2 * i) ++ k.w (2 + 2 * i)))
def execSlabWrite (k : Kcp) (s : State) : Host.Outcome State Fault Refusal := .next (kcpExec cmdSlabWrite k s)

/-- SLAB.REPAIR (R306, R439). -/
def cmdSlabRepair : Cmd where
  opcode := 0x1205
  kind := .bulk
  run := false
  arg := fun k _ => firstBad [lenIs k 1, resv k 0 0xFF1F, fld 0 8 (k.f 0 8 8 ≤ 71)]
  refuse := fun k s =>
    if s.get (F.SLAB_OWNER_OWNER (k.f 0 0 5)) ≠ 0 ∨ s.slabs.repairs.any (fun x => x.1 = k.f 0 0 5) then some St.state
    else if s.get (F.SLAB_REPAIR_COL_B (k.f 0 0 5)) ≠ 0xFF then some St.noResource else none
  act := fun k _ s => ans { s with slabs := { s.slabs with repairs := s.slabs.repairs ++ [(k.f 0 0 5, k.f 0 8 8)] } }
def execSlabRepair (k : Kcp) (s : State) : Host.Outcome State Fault Refusal := .next (kcpExec cmdSlabRepair k s)

/-- SLAB.SCRUB (R306, R438). -/
def cmdSlabScrub : Cmd where
  opcode := 0x1206
  kind := .bulk
  arg := fun k _ => firstBad [lenIs k 1, resv k 0 0x11F]
  refuse := fun k s => if s.slabs.passes.contains (k.f 0 0 5, k.bit 0 8) then some St.state else none
  act := fun k _ s => ans { s with slabs := { s.slabs with passes := s.slabs.passes ++ [(k.f 0 0 5, k.bit 0 8)] } }
def execSlabScrub (k : Kcp) (s : State) : Host.Outcome State Fault Refusal := .next (kcpExec cmdSlabScrub k s)

/-- SLAB_SCRUB_PASS_DONE (R438): a commanded pass that runs completes. -/
def execSlabScrubPassDone (slab : Fin 32) (march : Bool) (corrected uncorrected : Nat) (s : State) :
    Host.Outcome State Fault Refusal :=
  .next (
    if s.slabs.passes.contains (slab.val, march) then
      ({ s with slabs := { s.slabs with passes := s.slabs.passes.filter fun x => x ≠ (slab.val, march) } }).post
        0x1202 slab [w32 corrected, w32 uncorrected]
    else s)

/-- FIELD_REPAIR_COMPLETE (R439): the spare column is used, and where the blow fails the column stays unrepaired (DEDUCED, notes/assumptions/44.md). -/
def execFieldRepairComplete (slab : Fin 32) (ok : Bool) (s : State) : Host.Outcome State Fault Refusal :=
  .next (
    match s.slabs.repairs.find? fun x => x.1 = slab.val with
    | none => s
    | some (_, col) =>
      let s := { s with slabs := { s.slabs with repairs := s.slabs.repairs.filter fun x => x.1 ≠ slab.val } }
      let s := if s.get (F.SLAB_REPAIR_COL_A slab) = 0xFF then s.put (F.SLAB_REPAIR_COL_A slab) col
        else s.put (F.SLAB_REPAIR_COL_B slab) col
      let s := s.post 0x1201 slab [if ok then 0 else 1, w32 col]
      if s.age.repairDue.contains slab.val then
        let due := s.age.repairDue.filter fun n => n ≠ slab.val
        let s := { s with age := { s.age with repairDue := due, repairCols := kdel s.age.repairCols slab } }
        let s := s.set F.AGE_STATUS_REPAIR_DUE (due ≠ [])
        if ok then s.post 0x0E05 0xFFFF [w32 (slab.val + col * 256 + 65536)] else s
      else s)

/-- The timed pass of the scrubber has read its last word (R437): its hours begin again. -/
def State.scrubPass (s : State) (slab word : Nat) : State :=
  if slab = 31 ∧ word = 65535 ∧ s.flag F.MEMIF_CTRL_SCRUB_EN then s.put F.MEMIF_SCRUB_SLAB_HOURS 0 else s

/-- Hours since the oldest window of the march test was tested, where one never tested counts from the start (MEMIF_SCRUB). -/
def State.marchHours (s : State) : Nat :=
  s.slabs.hours - if s.slabs.tested.length < 4096 then 0 else (s.slabs.tested.map Prod.snd).foldl min s.slabs.hours

/-- An hour has passed for the background tests of the memories (R437, R438, R441). -/
def State.scrubHour (s : State) : State :=
  let s := { s with slabs := { s.slabs with hours := s.slabs.hours + 1 } }
  let s := if s.flag F.MEMIF_CTRL_SCRUB_EN then s.bumpSat F.MEMIF_SCRUB_SLAB_HOURS else s
  let s := if s.flag F.MEMIF_CTRL_BANK_SCRUB_EN then s.bumpSat F.MEMIF_SCRUB_BANK_HOURS else s
  s.put F.MEMIF_SCRUB_MARCH_HOURS (min 255 s.marchHours)

/-- SCRUB_WORD (R437): a correctable word is written back unless port A has changed it; an uncorrectable one is reported. -/
def execScrubWord (slab : Fin 32) (word : Nat) (error : WordError) (changed : Bool) (s : State) :
    Host.Outcome State Fault Refusal :=
  .next (
    if ¬ s.flag F.MEMIF_CTRL_SCRUB_EN ∧ ¬ s.slabs.passes.contains (slab.val, false) then s
    else
      let s := s.scrubPass slab word
      match error with
      | .none => s
      | .single col => if changed then s else (s.bumpSat (F.SLAB_ECC_CORR_CNT slab)).countColumn slab col
      | .uncorrectable =>
        let key := slabKey slab word
        let s := { s with slabs := { s.slabs with bad := if s.slabs.bad.contains key then s.slabs.bad else key :: s.slabs.bad } }
        let s := s.slabUncorr slab word
        if s.get (F.SLAB_OWNER_OWNER slab) = 9 then s.markBad 255 (s.vaultTiles key) true else s)

/-- SCRUB_STARVED (R437). -/
def execScrubStarved (s : State) : Host.Outcome State Fault Refusal :=
  .next ((s.set F.MEMIF_STATUS_SCRUB_STARVED).raise Mech.latent 0xFFFF 0 0 0)

/-- MARCH_WINDOW (R438): a window visit passes, is aborted by its owner and waits for a retry, or fails. -/
def execMarchWindow (slab : Fin 32) (window : Fin 128) (outcome : MarchOutcome) (s : State) :
    Host.Outcome State Fault Refusal :=
  .next (
    if ¬ s.flag F.MEMIF_CTRL_MARCH_EN ∧ ¬ s.slabs.passes.contains (slab.val, true) then s
    else
      let clear := fun (s : State) =>
        let r := s.slabs.retry.filter fun x => x ≠ (slab.val, window.val)
        ({ s with slabs := { s.slabs with retry := r } }).put F.MEMIF_SCRUB_RETRY_WIN (min 255 r.length)
      let done := fun (s : State) =>
        let s := { s with slabs := { s.slabs with tested := kput s.slabs.tested (slab.val * 128 + window.val) s.slabs.hours } }
        s.put F.MEMIF_SCRUB_MARCH_HOURS (min 255 s.marchHours)
      match outcome with
      | .pass => done (clear s)
      | .aborted =>
        let r := (clear s).slabs.retry ++ [(slab.val, window.val)]
        ({ s with slabs := { s.slabs with retry := r } }).put F.MEMIF_SCRUB_RETRY_WIN (min 255 r.length)
      | .failed word =>
        ((done (clear s)).set (F.SLAB_STATUS_TEST_FAIL slab)).raise Mech.latent slab (w32 (slab.val * 65536 + word)) 0 0)

/-- TEST_STARVED (R438). -/
def execTestStarved (s : State) : Host.Outcome State Fault Refusal :=
  .next ((s.set F.MEMIF_STATUS_TEST_STARVED).raise Mech.latent 0xFFFF 0 0 0)

/-- VAULT_WORD_RESTORE (R132): the word is restored from the NOR's copy that the mirror was loaded from, and the tiles that overlap it are checked
again. -/
def execVaultWordRestore (slab : Fin 32) (word : Nat) (s : State) : Host.Outcome State Fault Refusal :=
  .next (
    let key := slabKey slab word
    if s.get (F.SLAB_OWNER_OWNER slab) ≠ 9 ∨ slab.val < 28 then s
    else
      let bs := (s.banks.vaultCopy.drop ((key - 28 * 65536) * 8)).take 8
      let w : W64 := BitVec.ofNat 64 ((bs.zipIdx.map fun x => x.1.toNat * 256 ^ x.2).sum)
      let s := s.setSlabWord key w
      let s := { s with slabs := { s.slabs with bad := s.slabs.bad.filter fun x => x ≠ key } }
      let tiles := s.vaultTiles key
      let b := s.vaultBytes
      let good := tiles.filter fun n => tileCrcOk b n ∧ tileMarksOk b n
      let bad := tiles.filter fun n => ¬ (tileCrcOk b n ∧ tileMarksOk b n)
      let s := (s.markBad 255 good false).markBad 255 bad true
      forEach bad s fun n s => s.post 0x0202 255 [w32 n, 3, 0xFFFF])

end Sys2Proof.Machine
end

