-- ==== Sys2Proof/Machine/Power.lean ====
section
/-! DEFINITION. Power states and resets (R480–R492): what a reset keeps (R434, R487, R539), the release of reset and the
boot, READY, the analogue rails, and the last step of Lull entry and the wake. -/

namespace Sys2Proof.Machine

/-! What a reset keeps (R487). -/

/-- A reset kind that keeps the always-on items: WDOG, SAFE and SOFT. -/
def ResetKind.warm : ResetKind → Bool
  | .wdog => true | .safe => true | .soft => true | _ => false

/-- Timers whose configuration is kept: LULL_RUN = 1. -/
def State.lullTimers (s : State) : List Nat := (List.range 16).filter fun n => s.flag (F.TIM_CTRL_LULL_RUN n)

/-- The stored word that a register holds after a reset of a kind, if the reset keeps any of it (DEDUCED, notes/assumptions/39.md). -/
def State.keptWord (s : State) (k : ResetKind) (a w : Nat) : Option Nat :=
  let sys := 0x10000 ≤ a ∧ a < 0x11000
  let repair := (List.range 32).any fun n => a = R.SLAB_REPAIR n
  let stat := (List.range 24).any fun n => a = R.SAFE_MECH_STAT n
  if a = R.AGE_VDD ∨ a = R.AGE_LOG ∨ a = R.SAFE_LOG then some w
  else if repair then some (w / 65536 * 65536 + 0xFF00)
  else if k = .por then none
  else if sys ∧ a ≠ R.SYS_LULL then some w
  else if a = R.SAFE_FAULT_CNT then some w
  else if ¬ k.warm then none
  else if a = R.SYS_LULL ∨ a = R.HOST_SCRATCH then some w
  else if 0x42000 ≤ a ∧ a < 0x43000 then some w
  else if a = R.CONTACT_OUT then some (w / 65536 * 65536)
  else if 0x43000 ≤ a ∧ a < 0x44000 then some w
  else if 0x41000 ≤ a ∧ a < 0x42000 ∧ s.lullTimers.contains ((a - 0x41000) / 0x40) then some w
  else if stat then some (if w / 2 ^ 30 % 2 = 1 then 2 ^ 30 else 0)
  else if a = R.SAFE_WDOG then some w
  else if a = R.SAFE_LOCK ∧ k ≠ .safe then some w
  else if 0x4C000 ≤ a ∧ a < 0x4D000 ∧ k ≠ .safe then some w
  else none

/-- Banks after a reset (R487, R539): kept through WDOG and SOFT, loads in progress abandoned. -/
def BankSt.afterReset (b : BankSt) (k : ResetKind) : BankSt :=
  if k = .wdog ∨ k = .soft then
    let busy := b.banks.filter fun x => x.state = .loading ∨ x.state = .verifying ∨ x.state = .replacing
    let keep := b.banks.filterMap fun x => match x.state with
      | .resident => some { x with old := [], emptyFrom := none, load := none, ready := none, checking := false }
      | .replacing => some { x with state := .resident, old := [], emptyFrom := none, load := none, ready := none, checking := false }
      | .vault => some { x with checking := false }
      | .vaultBad => some { x with checking := false }
      | _ => none
    { BankSt.init with
      banks := keep, nextGen := b.nextGen, abandoned := busy.map Bank.n, available := b.available,
      trained := b.trained }
  else { BankSt.init with nextGen := b.nextGen }

/-- Slabs after a reset (R434): contents are zeroed by POR and PIN; owners are the reset values of their registers. -/
def SlabSt.afterReset (b : SlabSt) (k : ResetKind) : SlabSt :=
  if k.warm then { SlabSt.init with words := b.words, bad := b.bad }
  else { SlabSt.init with words := [], bad := [] }

/-- The safety unit after a reset (R417, R423, R487). -/
def SafeSt.afterReset (b : SafeSt) (k : ResetKind) : SafeSt :=
  let keep := { SafeSt.init with
    log := b.log, prot := b.prot, nextIndex := b.nextIndex, keys := b.keys, nonce := b.nonce,
    alive := b.alive }
  if k.warm then { keep with buffer := b.buffer, sincePor := b.sincePor, repeats := b.repeats, thisSecond := b.thisSecond }
  else if k = .pin then { keep with sincePor := b.sincePor }
  else { keep with alive := false }

/-- Baselines, estimates and Dew records are kept as slab contents are (R399, R408, R487). -/
def SupvSt.afterReset (v : SupvSt) : SupvSt :=
  { SupvSt.init with
    paths := v.paths.map fun p => { Path.init p.n with
      energy := p.energy, delay := p.delay, inverted := p.inverted, tilt := p.tilt, confidence := p.confidence,
      baseline := p.baseline },
    dew := v.dew.map fun d => { d with selected := false, held := false, step := 6 } }

/-- Media time after a reset: retained by SOFT if it was locked (R45). -/
def State.timeAfter (s : State) (k : ResetKind) : TimeSt :=
  if k = .soft ∧ s.get F.TIME_STATUS_MODE = 2 then { TimeSt.init with mt := s.time.mt } else TimeSt.init

/-- Work that a WDOG or SOFT reset abandons and that is reported after SYS_READY (R256, R301, R539): a bank by its number, an
update as 256 + region, a kernel staging or load as 512, a configuration image being written or erased as 768 (DEDUCED, notes/assumptions/174.md). -/
def State.abandoned (s : State) (k : ResetKind) : List Nat :=
  if k = .wdog ∨ k = .soft then
    (s.banks.afterReset k).abandoned ++ (s.safe.update.map fun u => 256 + u.1).toList ++
      (s.kernel.staging.map fun _ => 512).toList ++ (s.kernel.pend.map fun _ => 512) ++
      (if s.nor.writing.isSome ∨ s.nor.erasing then [768] else [])
  else []

/-- The registers that a reset keeps (R487). -/
def State.resetRegs (s : State) (k : ResetKind) : Store :=
  s.regs.filterMap fun p => match s.keptWord k p.1 p.2.toNat with
    | some w => if w32 w = regReset s.variant p.1 then none else some (p.1, w32 w)
    | none => none

/-- What a reset leaves of the state: everything that no row of the retention table keeps is as at State.reset (R487). The generations of
the job records count the jobs that it clears (R137), but for a power-on reset (DEDUCED, notes/assumptions/74.md). -/
def State.afterReset (s : State) (k : ResetKind) : State :=
  let warmKept := fun {α : Type} (l : List α) => if k.warm then l else []
  { State.reset with
    variant := s.variant, resetKind := k, regs := s.resetRegs k,
    disp := { State.reset.disp with gens := if k = .por then [] else s.wipeJobs.disp.gens }, time := s.timeAfter k,
    banks := { s.banks.afterReset k with abandoned := s.abandoned k }, slabs := s.slabs.afterReset k, safe := s.safe.afterReset k,
    nor := { NorSt.init with flash := s.nor.flash, nextTag := s.nor.nextTag },
    age := { AgeSt.init with
      log := s.age.log, repairDue := s.age.repairDue, repairCols := s.age.repairCols, trimDue := s.age.trimDue, resetsHour := s.age.resetsHour + 1 },
    supv := if k.warm then s.supv.afterReset else SupvSt.init,
    ana := s.ana.map fun c => { AnaSt.init c.n with trims := c.trims },
    contacts := warmKept s.contacts,
    uarts := warmKept (s.uarts.map fun u => { UartSt.init u.n with armed := u.armed, wakeArmed := u.wakeArmed, stuck := u.stuck }),
    timers := warmKept (s.timers.filter fun t => s.lullTimers.contains t.n),
    pins := s.pins, free := s.free, order := s.order, pending := s.pending }

/-- Enter RESET with a kind (R484, R486, R487). -/
def State.resetTo (s : State) (k : ResetKind) : State :=
  let n := (s.afterReset k).setPower .reset
  let n := (n.put F.HOST_STATUS_RESET_KIND k.code).put F.SYS_STATE_RESET_KIND k.code
  if k = .por then n else n.bump (F.SYS_RESETS_COUNT k.code)

/-! Keys and signatures (R299). -/

/-- The key in force: that of the highest written slot. -/
def State.keyInForce (s : State) : Option (List W32) :=
  (s.safe.keys.foldl (fun m k => match m with
    | none => some k
    | some x => if x.1 < k.1 then some k else some x) none).map Prod.snd

/-- An image carries, in its last 64 bytes, a signature that checks under a key (R255; for updates DESIGN CHOICE, notes/assumptions/17.md). -/
def signedBy (key : List W32) (bs : List Byte) : Bool :=
  let n := bs.length - 64
  Config.ecdsaOk key (Config.sha256 (bs.take n)) (wordsOfBytes (bs.drop n))

/-! The boot. -/

/-- The copy of a region in use: the valid one with the higher sequence number (R445). -/
def pickCopy (a b : NorCopy) : Option (Bool × NorCopy) :=
  if a.valid ∧ (¬ b.valid ∨ b.seq ≤ a.seq) then some (false, a) else if b.valid then some (true, b) else none

/-- The NOR part is usable (R443). -/
def norUsable (p : NorPart) : Bool := p.valid ∧ 32 ≤ p.sizeMib ∧ (p.sizeMib ≤ 16 ∨ p.addr4)

/-- Show the two copies of a region (MEMIF_REGION[r]_STAT). -/
def State.showRegion (s : State) (r : Nat) (a b : NorCopy) : State :=
  ((s.set (F.MEMIF_REGION_STAT_VALID_A r) a.valid).set (F.MEMIF_REGION_STAT_VALID_B r) b.valid).set
    (F.MEMIF_REGION_STAT_ACTIVE r) ((pickCopy a b).any Prod.fst)

/-- Words of a byte string, 8 bytes each, from a slab key on. -/
def putVault : Nat → List Byte → List (Nat × W64)
  | key, a :: b :: c :: d :: e :: f :: g :: h :: rest =>
    let w : W64 := h ++ g ++ f ++ e ++ d ++ c ++ b ++ a
    if w = 0 then putVault (key + 1) rest else (key, w) :: putVault (key + 1) rest
  | key, rest =>
    let w : W64 := BitVec.ofNat 64 ((rest.zipIdx.map fun x => x.1.toNat * 256 ^ x.2).sum)
    if w = 0 then [] else [(key, w)]

/-- VAULT_TILE_BAD (R131): a fault record with the slab in which the tile's data begins, where it lies in the mirror, and its CRC as
the image has it and as it reads. R423 holds the records of one slab to one a second. -/
def State.vaultTileBad (s : State) (img : Bytes) (n : Nat) : State :=
  let e := tileEntry img n
  s.raise Mech.vault (28 + e.dataOff / 524288) (w32 e.dataOff) (byteWord img (e.dataOff + e.dataLen)) (tileCrc img n)

/-- Copy the vault into slabs 28–31 and check it (R131). -/
def State.loadVault (s : State) : State :=
  let low := s.slabs.words.filter fun p => p.1 < 28 * 65536
  let bytes := match pickCopy s.nor.flash.vaultA s.nor.flash.vaultB with
    | some (_, c) => c.bytes.take 2097152
    | none => []
  let s := { s with slabs := { s.slabs with
    words := low ++ putVault (28 * 65536) bytes, bad := s.slabs.bad.filter (fun k => k < 28 * 65536) } }
  let s := forEach [28, 29, 30, 31] s fun n s => s.put (F.SLAB_OWNER_OWNER n) 9
  let s : State := { s with banks := { s.banks with vaultCopy := bytes } }
  let img := s.vaultBytes
  let ok := bytes ≠ [] ∧ imgLen img ≤ 2097152 ∧ (checkHead img (imgLen img)).1 = 0 ∧
    (List.range (nScripts img)).all fun n => scriptOk (scriptWords img n)
  let bank : Bank := { Bank.init 255 with state := if ok then .vault else .vaultBad }
  if ¬ ok then (s.setBank bank).raise Mech.vault 0xFFFF 0 0 0
  else
    let bad := (List.range (nTiles img)).filter fun n => ¬ tileCrcOk img n ∨ ¬ tileMarksOk img n
    let s := s.setBank { bank with image := some ⟨0, imgLen img, [], bad, [], []⟩ }
    forEach bad s fun n s => s.vaultTileBad img n

/-- The plan of the newest ageing record (R498, R499), and the usable slots that follow from it (R497). -/
def State.restorePlan (s : State) : State :=
  match s.age.log with
  | [] => s
  | r :: _ =>
    let w := fun n => r.getD n 0
    let s := (s.wr R.AGE_HOURS (w 1)).put F.AGE_VDD_TARGET_MV (bits (w 4) 0 16)
    let s := ((s.put F.AGE_PLAN_ECLK_MHZ (bits (w 5) 16 16)).put F.AGE_PLAN_ECLK_STEPS (bits (w 6) 8 8)).put
      F.AGE_PLAN_VDD_STEPS (bits (w 6) 0 8)
    let st := if 0 < bits (w 6) 8 8 then 3 else if 0 < bits (w 6) 0 8 then 1 else 0
    s.put F.AGE_STATUS_PLAN_STATE st

/-- Restore the configuration image whose AUTO_ARM is 1, under the conditions of R488 and R463. -/
def State.restoreImage (s : State) : State :=
  match pickCopy s.nor.flash.cfgA s.nor.flash.cfgB with
  | none => s
  | some (_, c) =>
    let s := s.set F.SYS_STATE_CONFIG_VALID
    let img := Config.decodeSettings (c.bytes.take (c.bytes.length - 64))
    if ¬ img.autoArm ∨ s.flag F.CONTACT_STRAP_SAFE_BOOT ∨ ¬ s.keyInForce.any (fun key => signedBy key c.bytes) then s
    else if (img.course ≠ 0) ≠ s.flag F.CONTACT_STRAP_COURSE_HINT then s.set F.CONTACT_STRAP_STRAP_MISMATCH
    else s.restore img

/-- The straps latched when a POR or PIN reset ends (R463). -/
def State.latchStraps (s : State) (v : BitVec 4) : State :=
  (((s.set F.CONTACT_STRAP_BOOT_SRC (v.getLsbD 0)).set F.CONTACT_STRAP_SPI_MODE (v.getLsbD 1)).set
    F.CONTACT_STRAP_COURSE_HINT (v.getLsbD 2)).set F.CONTACT_STRAP_SAFE_BOOT (v.getLsbD 3)

/-- Discover the NOR (R443): its identity, and the failure of a part that cannot boot. -/
def State.discover (s : State) : State :=
  let f := s.nor.flash
  let p := f.part
  let s := s.put F.MEMIF_NOR_ID_JEDEC_ID p.jedec.toNat
  let s := ((((s.put F.MEMIF_NOR_CFG_SIZE_MIB p.sizeMib).put F.MEMIF_NOR_CFG_SFDP_REV p.sfdpRev.toNat).set
    F.MEMIF_NOR_CFG_QUAD p.quad).set F.MEMIF_NOR_CFG_ADDR4 p.addr4)
  let s := ((s.showRegion 1 f.fwA f.fwB).showRegion 2 f.vaultA f.vaultB).showRegion 3 f.cfgA f.cfgB
  s.put F.MEMIF_STATUS_NOR_STATE (if norUsable p ∧ (f.fwA.valid ∨ f.fwB.valid) then 1 else 3)

/-- Copy B of the firmware boots: the higher sequence number, or the other valid copy where BOOT_SRC is strapped to 1 (R445,
R463). -/
def State.bootsB (s : State) : Bool :=
  let f := s.nor.flash
  let b := (pickCopy f.fwA f.fwB).any Prod.fst
  if s.flag F.CONTACT_STRAP_BOOT_SRC ∧ f.fwA.valid ∧ f.fwB.valid then ¬ b else b

/-- The firmware cannot boot: the device stays in BOOT (R443). -/
def State.bootFailed (s : State) : Bool := s.get F.MEMIF_STATUS_NOR_STATE = 3

/-- Reset is released and the boot ROM runs (R131, R443, R463, R484, R488, R498) (DESIGN CHOICE, notes/assumptions/40.md). -/
def State.boot (s : State) (env : BootEnv) : State :=
  let k := s.resetKind
  let s := match env.flash with
    | some f => { s with nor := { s.nor with flash := f } }
    | none => s
  let s := if k = .por ∨ k = .pin then s.latchStraps env.straps else s
  let s := s.setPower .boot
  let s := { s with safe := { s.safe with nonce := Config.nonceAfter s.safe.nonce } }
  let s := if k = .wdog ∨ k = .soft then s else s.discover
  if s.bootFailed then s.freezeAlive
  else
    let s := s.put F.MEMIF_STATUS_BANK_STATE 2
    let s := if k = .wdog then s else s.set F.SYS_BOOT_COPY_B s.bootsB
    let s := s.startRepairs
    let s := if k = .wdog ∨ k = .soft then s else s.loadVault
    let s := s.restorePlan.restoreImage
    { s with age := { s.age with avsBusy := s.flag F.AGE_CTRL_AVS_EN } }

/-- RESET_RELEASE (R484) (DESIGN CHOICE, notes/assumptions/30.md). -/
def execResetRelease (env : BootEnv) (s : State) : Host.Outcome State Fault Refusal :=
  .next (if s.power = .reset then s.boot env else s)

/-! READY. -/

/-- A physical brick whose golden voice fails at a reset stays out of service, and a spare takes its logical brick (R415). -/
def State.goldenAtReset (s : State) (p : Nat) : State :=
  let b := s.get (F.BRICK_MAP_LOGICAL p)
  let was := s.flag (F.BRICK_MAP_IN_SERVICE p)
  let s := (s.set (F.BRICK_MAP_FAILED p)).set (F.BRICK_MAP_IN_SERVICE p) false
  let s := { s with safe := { s.safe with failedBricks := p :: s.safe.failedBricks } }
  let s := s.set (F.BRICK_KSTAT_GOLDEN_MISS p)
  if was then
    match s.spare? with
    | some q => s.takeOver b p q
    | none => s.bumpSat F.SAFE_DEGRADE_FAILED
  else s.put F.SAFE_DEGRADE_SPARES_LEFT (s.get F.SAFE_DEGRADE_SPARES_LEFT - 1)

/-- A Squall trigger latched in BOOT or Lull acts, or a contact that is ACTIVE when its source becomes armed (R485). -/
def State.bootSquall (s : State) : State :=
  let latched := s.disp.squallLatched
  let s := { s with disp := { s.disp with squallLatched := none } }
  match latched with
  | some x => s.squallTrigger (x % 16) (x / 16)
  | none =>
    let c := s.get F.DISP_SQUALL_CFG_CONTACT
    if s.squallEnabled 0 ∧ s.contactActive c then s.squallTrigger 0 c else s

/-- SAFE_ALIVE may toggle: no LOCKSTEP, WATCHDOG or MCLK fault is latched (R421). -/
def State.aliveOk (s : State) : Bool :=
  ¬ s.flag (F.SAFE_MECH_STAT_LATCHED Mech.lockstep) ∧ ¬ s.flag (F.SAFE_MECH_STAT_LATCHED Mech.watchdog) ∧
    ¬ Nat.testBit (s.get F.SAFE_CLKMON_FAILED) 1

/-- READY rises (R45, R263, R282, R415, R417, R485, R539). -/
def State.becomeReady (s : State) (bootMs : Nat) (goldenFailed : List Nat) : State :=
  let s := forEach (goldenFailed.filter fun p => p < s.variant.bricks + s.variant.spares) s fun p s => s.goldenAtReset p
  let s := s.setUsable (slotsFor s.plannedMhz s.rate)
  let fw := if s.flag F.SYS_BOOT_COPY_B then s.nor.flash.fwB else s.nor.flash.fwA
  let s := (s.wr R.SYS_FW fw.version).put F.SYS_BOOT_BOOT_MS (min 65535 bootMs)
  let s := (s.set F.HOST_STATUS_READY).set F.HOST_IRQ_STAT_READY_EVT
  let s := (s.setPower .idle).set F.TIME_STATUS_MPLL_LOCK
  let s := { s with time := { s.time with counting := true } }
  let s := s.set F.SAFE_ALIVE_STAT_FROZEN (¬ s.aliveOk)
  let s := s.set F.SAFE_STATUS_ALIVE_RUN s.aliveOk
  let s := s.post 0x0101 0xFFFF [w32 s.resetKind.code]
  let s := s.logAll
  let s := forEach s.banks.abandoned s fun b s =>
    if b < 256 then s.post 0x0201 b [0x09, 0] else if b < 512 then s.post 0x0C01 (b - 256) [0x05]
    else if b < 768 then s.post 0x1301 0xFFFF [0x05] else s.post 0x0103 0xFFFF [0x05]
  let s := { s with banks := { s.banks with abandoned := [] } }
  s.bootSquall

/-! Resets. -/

/-- POWER_ON_RESET (R481). -/
def execPowerOnReset (s : State) : Host.Outcome State Fault Refusal := .next (s.resetTo .por)

/-- PIN_RESET (R486): a pulse of 1 µs or more resets, one shorter than 100 ns is ignored, and between them the rule is silent
(a free choice, DESIGN CHOICE, notes/assumptions/11.md); in a POR that is asserted the low pin only extends it. -/
def execPinReset (lowNs : Nat) (s : State) : Host.Outcome State Fault Refusal :=
  let (x, t) := s.draw
  let s := if 100 ≤ lowNs ∧ lowNs < 1000 then t else s
  let acts : Bool := 1000 ≤ lowNs ∨ (100 ≤ lowNs ∧ x % 2 = 1)
  .next (if ¬ acts ∨ (s.power = .reset ∧ s.resetKind = .por) then s else s.resetTo .pin)

/-- WATCHDOG_EXPIRY (R417): the detection is recorded and the device performs a WDOG reset (DEDUCED, notes/assumptions/38.md; DEDUCED, notes/assumptions/45.md). -/
def execWatchdogExpiry (s : State) : Host.Outcome State Fault Refusal :=
  .next (if s.power = .off ∨ s.power = .reset then s
    else ((s.raise Mech.watchdog 0xFFFF 0 0 0).bumpSat F.SAFE_WDOG_EXPIRY_CNT).resetTo .wdog)

/-- RESET_DELAY_EXPIRY (R417): a RESET reaction that waits ends in a SAFE reset, or in a WDOG reset after a watchdog expiry. -/
def execResetDelayExpiry (s : State) : Host.Outcome State Fault Refusal :=
  .next (match s.safe.resetDue with
    | none => s
    | some code => s.resetTo (if code = Mech.watchdog then .wdog else .safe))

/-! Analogue rails (R375). -/

/-- ANALOGUE_RAIL_LOW (R375): every switch opens, enabled channels go to RAIL_OFF, and one event is posted. -/
def execAnalogueRailLow (s : State) : Host.Outcome State Fault Refusal :=
  .next (
    if ¬ s.pins.analogueGood then s
    else
      let s := { s with pins := { s.pins with analogueGood := false } }
      let s := forEach s.channels s fun n s =>
        let s := s.trimAbort n
        let s := s.anaOpen n (if s.flag (F.ANA_CTRL_EN n) then Ana.railOff else Ana.inert)
        if s.flag (F.ANA_CTRL_EN n) then s.set (F.ANA_STATUS_RAIL_LOW n) else s
      if s.running ∧ s.channels ≠ [] then s.post 0x0805 0xFFFF [1] else s)

/-- ANALOGUE_RAIL_RESTORE (R375): each RAIL_OFF channel starts again as at enable, and a second event is posted. -/
def execAnalogueRailRestore (s : State) : Host.Outcome State Fault Refusal :=
  .next (
    if s.pins.analogueGood then s
    else
      let s := { s with pins := { s.pins with analogueGood := true } }
      let s := forEach s.channels s fun n s =>
        let s := s.set (F.ANA_STATUS_RAIL_LOW n) false
        if s.anaState n = Ana.railOff then
          if s.live ∧ ¬ s.standby then s.anaStart n else s.setAna n Ana.inert
        else s
      if s.running ∧ s.channels ≠ [] then s.post 0x0805 0xFFFF [0] else s)

/-! Lull (R489–R492). -/

/-- LULL_POWER_DOWN (R489 steps 2 and 3): records are written, SYS_STATE is posted, links stop, and every domain but the
always-on one powers off. -/
def execLullPowerDown (s : State) : Host.Outcome State Fault Refusal :=
  .next (
    if ¬ s.lullEntry then s
    else
      let s := s.logAll.ageAppend
      let s := { s with lullEntry := false }
      let s := s.changePower .lull
      let s := forEach (List.range 8) s fun n s => if s.portState n = Port.stopped then s else s.portHalt n
      let s := forEach s.channels s fun n s => if s.anaClosed n then s.anaOpen n Ana.inert else s
      let s := { s with stream := { s.stream with wasUp := s.strmUp, vc2 := [], vc2Open := false } }
      let s := s.put F.STRM_STATUS_STATE 0
      let s := forEach [0, 1] s fun p s => if s.cascade then s.put (F.CRSE_PORT_STAT_STATE p) 0 else s
      let s := s.put F.MEMIF_STATUS_BANK_STATE 3
      let s := (s.set F.HOST_STATUS_READY false).set F.TIME_STATUS_MPLL_LOCK false
      let s := s.put F.CONTACT_OUT_LEVEL (s.get F.CONTACT_OUT_LEVEL &&& s.get F.CONTACT_OUT_LULL_OUT)
      let s := forEach (List.range 16) s fun n s =>
        if s.flag (F.TIM_CTRL_RUN n) ∧ ¬ s.flag (F.TIM_CTRL_LULL_RUN n) then
          (s.set (F.TIM_CTRL_RUN n) false).setTimer { s.timer n with resume := true }
        else s
      let s := s.bump F.SYS_LULL_CNT_COUNT
      { s with time := { s.time with lullMt := s.time.mt, counting := false } })

/-- The code of a wake source in SYS_WAKE.SRC. -/
def wakeCode : WakeSource → Nat
  | .contact => 1 | .uart => 2 | .hostCs => 3 | .timer => 4 | .pps => 5 | .squall => 6

/-- Media time after Lull (R492): the stored time plus the elapsed 32.768 kHz cycles at the sample rate, rounded down to a
block. -/
def State.wakeMt (s : State) (lclk : Nat) : Nat :=
  let t := s.time.lullMt + lclk * s.hz / 32768
  t / s.bl * s.bl

/-- Outputs, ports and timers return to what they did before Lull (R360, R376, R457, R491 step 8). -/
def State.afterLull (s : State) : State :=
  let s := forEach (List.range 8) s fun n s =>
    if (s.port n).resume then s.portStartAt n (s.startOf (s.blockNow + 1)) else s
  forEach (List.range 16) s fun n s =>
    if (s.timer n).resume then (s.set (F.TIM_CTRL_RUN n)).setTimer { s.timer n with resume := false } else s

/-- The end of the second pilot window that begins from now on (R390, R393). -/
def State.pilotHold (s : State) : Nat :=
  let w := 4096 * (s.hz / Config.singleHz s.rate)
  ((s.time.mt + w - 1) / w + 2) * w

/-- The references after a stay in Lull (R34, R45, R492): none is followed until it qualifies again, and HOLDOVER starts anew. -/
def State.wakeRefs (s : State) : State :=
  let s := forEach [0, 1, 2] s fun n s =>
    if s.get (F.TIME_REF_STAT_STATE n) = 0 then s
    else
      let s := (s.put (F.TIME_REF_STAT_STATE n) 1).put (F.TIME_REF_LAST_CHANGE_BLOCK n) s.blockNow
      let s := s.put (F.TIME_REF_QUAL_LEFT_QUAL_LEFT n) (s.get (F.TIME_REF_CFG_QUAL_MS n))
      { s with time := { s.time with qualRun := kput s.time.qualRun n 0 } }
  let s := (s.put (F.TIME_REF_STAT_STATE 3) 3).put F.TIME_STATUS_SRC 3
  let s := (s.put F.TIME_HOLDOVER_SECONDS 0).set F.TIME_STATUS_SLEWING false
  let s := (s.set F.TIME_STATUS_JUMP_PEND false).put F.TIME_STATUS_MODE 3
  { s with time := { s.time with
    measureDue := false, acquiring := false, keptOff := 0, edgeSums := [], badPeriods := [], msgFrame := none, jump := none, ppsBad := 0 } }

/-- Step 5 of a wake: media time resumes, in HOLDOVER (R491, R492). An entry into Lull that was cut short before the power-down left
media time counting and its references as they are. -/
def State.wakeTime (s : State) (lclk : Nat) : State :=
  let mt := if s.time.counting then s.time.mt else s.wakeMt lclk
  let slept : Bool := ¬ s.time.counting
  let s := { s with lullEntry := false, time := { s.time with mt := mt, counting := true } }
  let s := if slept then s.wakeRefs else s
  let s := { s with supv := { s.supv with pilotFrom := s.pilotHold }, disp := { s.disp with voices := [], cycles := [] } }
  s.set F.TIME_STATUS_MPLL_LOCK

/-- The counters and logs that a stay in Lull moves on. -/
def State.wakeCounts (s : State) (src : WakeSource) (lclk wakeMs : Nat) : State :=
  let s := (s.put F.SYS_WAKE_SRC (wakeCode src)).put F.SYS_WAKE_WAKE_MS (min 65535 wakeMs)
  let s := s.put F.SYS_LULL_SECS_COUNT (satInc 32 (s.get F.SYS_LULL_SECS_COUNT) (lclk / 32768))
  let s := s.put F.SYS_UPTIME_SECONDS (satInc 32 (s.get F.SYS_UPTIME_SECONDS) (lclk / 32768))
  let s := s.wr R.AGE_HOURS (w32 ((s.rd R.AGE_HOURS).toNat + lclk / 32768 / 3600))
  { s with age := { s.age with lullMinutes := s.age.lullMinutes + lclk / 32768 / 60 } }

/-- Bank memory and the links after Lull (R442, R491). -/
def State.wakeLinks (s : State) : State :=
  let s := s.put F.MEMIF_STATUS_BANK_STATE 2
  let s := if s.stream.wasUp then s.put F.STRM_STATUS_STATE 1 else s
  forEach [0, 1] s fun p s => if s.cascade then s.put (F.CRSE_PORT_STAT_STATE p) 4 else s

/-- Bank memory that did not keep its contents is unavailable, and the reactions to faults recorded in Lull run (R419). -/
def State.wakeFaults (s : State) (bankOk : Bool) : State :=
  let faults := s.safe.lullFaults
  let s := { s with safe := { s.safe with lullFaults := [] } }
  let s := if bankOk then s else
    { s with banks := { s.banks with banks := s.banks.banks.filter fun b => b.n = 255 } }.raise Mech.bankUnavail 0xFFFF 0 0 0
  forEach faults s fun f s =>
    let (r, s) := s.baseReact f.1 f.2
    s.reactTo f.1 f.2 (s.escalated f.1 r)

/-- A wake's steps 5 to 8 (R419, R491, R492). -/
def State.wake (s : State) (src : WakeSource) (lclk wakeMs : Nat) (bankOk : Bool) : State :=
  let target : Power := if src = .squall ∨ s.lullFrom = .run then .run else .idle
  let s := ((s.wakeTime lclk).wakeCounts src lclk wakeMs).wakeLinks
  let s := (s.setPower target).wakeFaults bankOk
  let s := (s.set F.HOST_STATUS_READY).set F.HOST_IRQ_STAT_READY_EVT
  let s := s.post 0x0102 0xFFFF [w32 (s.power.code + 4 * 16)]
  let s := s.logAll
  let s := if s.power = .run then (s.outputsLive).afterLull else if s.power = .idle then s.afterLull else s
  s.bootSquall

end Sys2Proof.Machine
end

