-- ==== Sys2Proof/Machine/RegAccess.lean ====
section
/-! DEFINITION. Access to the host block and the register window (R9, R264–R273, R279, R283, R534): host SPI transactions,
writes and reads by agents of the MCLK domain, doorbells, and the registers whose write or read is a row of its own. -/

namespace Sys2Proof.Machine

/-! Reads (R268, R534). -/

/-- The register whose read latches the word after it (R534): its name ends in MT_LO, or its one field is MT_LO
(DEDUCED, notes/assumptions/12.md). -/
def latching (a : Nat) : Bool :=
  decide (a = R.TIME_MT_LO ∨ a = R.HOST_MT_LO ∨ a = R.SAFE_LAST_MT_LO ∨ a = R.MIX_LAST_APPLY_LO ∨ a = R.SUPV_DEW_NEXT_LO) ||
    (List.range 8).any (fun n => a = R.APORT_MT_LO n) || (List.range 4).any (fun n => a = R.STRK_HELD_MT_LO n)

/-- Bits [63:32] of the value whose low word a latching register shows. -/
def State.highOf (s : State) (a : Nat) : W32 :=
  if a = R.TIME_MT_LO ∨ a = R.HOST_MT_LO then hi32 s.time.mt else s.rd (a + 4)

/-- The latch of a path for the register after a latching one; 0 before the first read. -/
def State.latchOf (s : State) (p : ReadPath) (a : Nat) : W32 :=
  match p with
  | .spi => (kget s.latchSpi a).getD 0
  | .mclk => (kget s.latchMclk a).getD 0

/-- A read of a latching register sets the latch of its path (R534). -/
def State.latch (s : State) (p : ReadPath) (a : Nat) : State :=
  if ¬ latching a ∨ ¬ regPresent s.variant a then s
  else match p with
    | .spi => { s with latchSpi := storePut 0 s.latchSpi a (s.highOf a) }
    | .mclk => { s with latchMclk := storePut 0 s.latchMclk a (s.highOf a) }

/-- The word that a read on a path returns. -/
def State.readWord (s : State) (p : ReadPath) (a : Nat) : W32 :=
  if 4 ≤ a ∧ latching (a - 4) then s.latchOf p (a - 4) else s.view a

/-! Writes of the host block. -/

/-- A mailbox buffer holds the address; the mailbox (R270). -/
def bufferOf (a : Nat) : Option Nat := (List.range 4).find? fun m => mbBuf m ≤ a ∧ a < mbBuf m + 1040

/-- The mailbox whose doorbell an address is. -/
def doorbellOf (a : Nat) : Option Nat := (List.range 4).find? fun m => a = R.MB_DOORBELL m

/-- Set a flag of HOST_SPI_ERR, and with it the interrupt flag. -/
def State.spiErr (s : State) (f : Fld) : State := (s.set f).set F.HOST_IRQ_STAT_SPI_ERR

/-- A doorbell (R271): RING in IDLE or DONE makes the mailbox BUSY and clears its MB_DONE bit; in BUSY it is ignored. One on MB0 for
JOB.SQUALL triggers (R148). A command whose opcode the catalogue does not list is answered (R272, R276, R287). -/
def State.ring (s : State) (m : Nat) (v : W32) : State :=
  if ¬ bit v 0 then s
  else if s.get (F.MB_STAT_STATE m) = 1 then s.spiErr F.HOST_SPI_ERR_MB_BUSY
  else
    let s := s.put (F.MB_STAT_STATE m) 1
    let s := s.wr R.HOST_IRQ_STAT (s.rd R.HOST_IRQ_STAT &&& ~~~ w32 (2 ^ m))
    let s : State := { s with host := { s.host with rung := s.host.rung ++ [(m, bits v 16 16, bit v 1)] } }
    if m = 0 ∧ bits (s.rd (mbBuf 0)) 16 16 = 0x0420 then s.squallBell
    else
      let ws := s.rdList (mbBuf m) 260
      let len := min 1024 (bits (ws.getD 1 0) 20 12)
      let ok := ¬ bit v 1 ∨ crc16 (((ws.flatMap wordBytes).take (16 + len))) = v.extractLsb' 16 16
      s.screenOpcode (Fin.ofNat 6 m) ok ws

/-- SEQ_RESET (R279): at once, or after the response of a BUSY mailbox. -/
def State.askSeqReset (s : State) (m : Nat) : State :=
  if s.get (F.MB_STAT_STATE m) = 1 then
    let s := s.set (F.MB_CTRL_SEQ_RESET m)
    { s with host := { s.host with seqReset := m :: s.host.seqReset.filter fun x => x ≠ m } }
  else s.clearSeq m

/-- EVQ_ACK (R283): RD advances by the smaller of n and USED. -/
def State.ack (s : State) (n : Nat) : State :=
  let k := min n (s.get F.EVQ_STATUS_USED)
  (s.put F.EVQ_STATUS_RD ((s.get F.EVQ_STATUS_RD + k) % 256)).put F.EVQ_STATUS_USED (s.get F.EVQ_STATUS_USED - k)

/-- HOST_SPI_ERR.CNT_CLR. -/
def State.clearErrCnt (s : State) : State := s.put F.HOST_SPI_ERR_ERR_CNT 0

/-- The effect of a word written to an address of the host block (R9, R270). -/
def State.hostWrite (s : State) (a : Nat) (v : W32) : State :=
  match bufferOf a with
  | some _ => s.wr a v
  | none =>
    match doorbellOf a with
    | some m => s.ring m v
    | none =>
      match (List.range 4).find? fun m => a = R.MB_CTRL m with
      | some m => if bit v 0 then s.askSeqReset m else s
      | none =>
        if a = R.EVQ_ACK then s.ack (bits v 0 9)
        else if a = R.HOST_SPI_ERR then
          let s := s.regWrite a v
          if bit v 15 then s.clearErrCnt else s
        else s.regWrite a v

/-! Host SPI transactions (R264–R269). -/

/-- The words of the data bytes of a transaction, most significant byte first (R267). -/
def wireWords : List Byte → List W32
  | a :: b :: c :: d :: r => (a ++ b ++ c ++ d) :: wireWords r
  | _ => []

/-- The data bytes of words on the wire. -/
def wordsWire (ws : List W32) : List Byte := ws.flatMap fun w => (wordBytes w).reverse

/-- Discard a write transaction with its cause (R266). -/
def State.discardWrite (s : State) (f : Option Fld) : State :=
  let s := match f with
    | some f => s.spiErr f
    | none => s
  let s := s.bumpSat F.HOST_SPI_ERR_ERR_CNT
  { s with host := { s.host with lastWrOk := false, lastWrErr := true } }

/-- A write transaction whose command byte has been recognised: the address and data bytes, the CRC byte last. -/
def State.spiWrite (s : State) (rest : List Byte) (extraBits : Nat) : State :=
  let addr := (rest.take 3).foldl (fun n b => n * 256 + b.toNat) 0
  let body := rest.drop 3
  let data := body.dropLast
  let words := wireWords data
  let targets := (List.range words.length).map fun i => addr + 4 * i
  if rest.length < 3 ∨ extraBits ≠ 0 ∨ body.length % 4 ≠ 1 ∨ words.length < 1 ∨ 264 < words.length then
    s.discardWrite (some F.HOST_SPI_ERR_FRAME)
  else if crc8 (0x02 :: rest.dropLast) ≠ body.getLastD 0 then s.discardWrite (some F.HOST_SPI_ERR_CRC)
  else if addr % 4 ≠ 0 ∨ ¬ targets.all (fun a => a < 0x80 ∨ (bufferOf a).isSome) then
    s.discardWrite (some F.HOST_SPI_ERR_RANGE)
  else if targets.any fun a => (bufferOf a).any fun m => s.get (F.MB_STAT_STATE m) = 1 then
    s.discardWrite (some F.HOST_SPI_ERR_MB_BUSY)
  else
    let s := forEach (targets.zip words) s fun x s => s.hostWrite x.1 x.2
    { s with host := { s.host with lastWrOk := true, lastWrErr := false } }

/-- The status byte that the device shifts out during the command byte (R264). -/
def State.spiStatus (s : State) : Byte :=
  BitVec.ofNat 8 (b2n s.ready * 128 + b2n s.irq * 64 + b2n s.host.lastWrOk * 32 + b2n s.host.lastWrErr * 16)
def State.shiftStatus (s : State) : State := { s with host := { s.host with statusByte := s.spiStatus } }

/-- SPI_WRITE_TRANSACTION (R264, R266, R269): the bytes of a transaction on the wire, and the bits after the last whole byte. -/
def execSpiWriteTransaction (wire : List Byte) (extraBits : Nat) (s : State) : Host.Outcome State Fault Refusal :=
  .next (
    match wire with
    | [] => s
    | c :: rest =>
      let s := s.shiftStatus
      if c = 0x0B then s
      else if c ≠ 0x02 then s.spiErr F.HOST_SPI_ERR_CMD
      else if ¬ s.ready then s.discardWrite none
      else s.spiWrite rest extraBits)

/-- Read words from an aligned address on, latching as each is read (R268, R534). -/
def State.readWords (s : State) (a : Nat) : Nat → List W32 × State
  | 0 => ([], s)
  | n + 1 =>
    let s' := s.latch .spi a
    let w := s'.readWord .spi a
    let (ws, t) := s'.readWords ((a + 4) % 2 ^ 24) n
    (w :: ws, t)

/-- SPI_READ_TRANSACTION (R265, R268, R269): the words and the CRC byte that the device shifts out. -/
def execSpiReadTransaction (addr : BitVec 24) (words : Nat) (s : State) : Host.Outcome State Fault Refusal :=
  let s := s.shiftStatus
  let (ws, s) := if s.ready then s.readWords (addr.toNat / 4 * 4) words else (List.replicate words 0, s)
  let head : List Byte := [0x0B, addr.extractLsb' 16 8, addr.extractLsb' 8 8, addr.extractLsb' 0 8]
  .next { s with host := { s.host with readWords := ws, readCrc := crc8 (head ++ wordsWire ws) } }

/-! The register window, by agents of the MCLK domain (R9, R510). -/

/-- Registers whose every write is a row of its own (R433, R450, R452, R469). -/
def ownRow (a : Nat) : Bool :=
  (List.range 32).any (fun n => a = R.SLAB_HANDOVER n) ||
    (List.range 16).any (fun n => a = R.TIM_PERIOD n || (List.range 4).any fun c => a = R.TIM_CMP n c) ||
    (List.range 2).any fun n => a = R.UART_TXD n

/-- REGISTER_WRITE (R9): the fields without a row of their own take the effect of their access codes (DESIGN CHOICE, notes/assumptions/180.md). -/
def execRegisterWrite (addr : Nat) (value : W32) (s : State) : Host.Outcome State Fault Refusal :=
  .next (
    if ownRow addr then s
    else if addr = R.TIME_EPOCH_CTRL then s.regWrite addr (setBits value 31 1 0)
    else if addr < 0x10000 then s.hostWrite addr value
    else s.regWrite addr value)

/-- REGISTER_READ_CLEAR (R9): the RC fields of the register clear as their values are returned. -/
def execRegisterReadClear (addr : Nat) (s : State) : Host.Outcome State Fault Refusal :=
  .next (if regPresent s.variant addr then s.clearRc addr else s)

/-- MT_LO_READ (R534). -/
def execMtLoRead (path : ReadPath) (addr : Nat) (s : State) : Host.Outcome State Fault Refusal :=
  .next (s.latch path addr)

/-- SEQ_RESET (R279). -/
def execSeqReset (m : Fin 4) (s : State) : Host.Outcome State Fault Refusal := .next (s.askSeqReset m)

/-- EVQ_ACK (R283). -/
def execEvqAck (n : Nat) (s : State) : Host.Outcome State Fault Refusal := .next (s.ack n)

/-- SPI_ERR_CNT_CLR (R266). -/
def execSpiErrCntClr (s : State) : Host.Outcome State Fault Refusal := .next s.clearErrCnt

end Sys2Proof.Machine
end

