-- ==== Sys2Proof/Machine/Uart.lean ====
section
/-! DEFINITION. The UARTs (R464–R479): receiving, sending, flow control, breaks and stuck lines, Lull, framed KCP (R285,
R286), the Squall sequence (R148), and the UART commands. -/

namespace Sys2Proof.Machine

/-- The sequence byte i of DISP_SQUALL_SEQ (R148). -/
def State.squallByte (s : State) (i : Nat) : Byte := (s.rd R.DISP_SQUALL_SEQ).extractLsb' (8 * i) 8

/-- Queue a generated XOFF (R471). -/
def State.sendXoff (s : State) (n : Nat) : State :=
  let u := s.uart n
  let s := s.setUart { u with
    flowOut := u.flowOut ++ [BitVec.ofNat 8 (s.get (F.UART_FLOW_XOFF_CHAR n))], xoffSent := true,
    xoffDue := false }
  (s.bumpSat (F.UART_FLOWCNT_XOFF_TX_CNT n)).uartKick n

/-- The match of the Squall sequence is complete or has failed: an XOFF still due goes out at once (R471). -/
def State.matchOver (s : State) : State :=
  let u := s.uart 1
  let s := s.setUart { u with matched := 0 }
  if u.xoffDue then s.sendXoff 1 else s

/-- The matcher of UART[1] sees a character (R148): byte 0 after at least 2 character times of idle line, each later byte
within 1 character time. -/
def State.squallMatch (s : State) (ch : Byte) (bad : Bool) (idle : Nat) : State :=
  let u := s.uart 1
  let opens : Bool := ¬ bad ∧ 2 ≤ idle ∧ ch = s.squallByte 0
  if u.matched = 0 then if opens then s.setUart { u with matched := 1 } else s
  else if ¬ bad ∧ idle = 0 ∧ ch = s.squallByte u.matched then
    if u.matched = 3 then (s.matchOver).squallTrigger 1 0
    else s.setUart { u with matched := u.matched + 1 }
  else
    let s := s.matchOver
    if opens then s.setUart { s.uart 1 with matched := 1 } else s

/-- The receiver ignores the line: while DE is high, or while the IrDA transmitter sends (R473). -/
def State.echoed (s : State) (n : Nat) : Bool :=
  s.flag (F.UART_CTRL_ECHO_SUPP n) ∧
    ((n = 1 ∧ (s.uart 1).deHigh) ∨ (n = 0 ∧ s.flag (F.UART_CTRL_IR_EN 0) ∧ (s.uart 0).shifter.isSome))

/-- A character with its flags moves into RXD (R467, R468). -/
def State.storeChar (s : State) (n : Nat) (ch : Byte) (fe pe brk : Bool) : State :=
  let was := s.flag (F.UART_RXD_VALID n)
  let s := if was then (s.set (F.UART_STATUS_OVR n)).bumpSat (F.UART_ERRCNT_OVR_CNT n) else s
  let s := if fe then (s.set (F.UART_STATUS_FE n)).bumpSat (F.UART_ERRCNT_FE_CNT n) else s
  let s := if pe then (s.set (F.UART_STATUS_PE n)).bumpSat (F.UART_LINECNT_PE_CNT n) else s
  let s := s.wr (R.UART_RXD n)
    (w32 (2 ^ 15 + b2n brk * 1024 + b2n pe * 512 + b2n fe * 256 + ch.toNat))
  s.bump (F.UART_RX_CNT_COUNT n)

/-- UART_CHAR_RECEIVED (R148, R467, R468, R470): what the shifter delivers at the stop-bit sample (DEDUCED, notes/assumptions/178.md). -/
def execUartCharReceived (n : Fin 2) (ch : Byte) (fe : Bool) (pe : Bool) (brk : Bool) (idleChars : Nat) (s : State) :
    Host.Outcome State Fault Refusal :=
  .next (
    if ¬ s.uartOn n ∨ ¬ (s.uart n).armed ∨ s.echoed n then s
    else
      let ch := if s.flag (F.UART_CTRL_DATA8 n) then ch else ch &&& 0x7F
      let s := if n.val = 1 then s.squallMatch ch (fe || pe) idleChars else s
      let good : Bool := s.flag (F.UART_CTRL_FLOW_TX n) ∧ ¬ fe ∧ ¬ pe
      if good ∧ ch.toNat = s.get (F.UART_FLOW_XOFF_CHAR n) then
        (s.set (F.UART_STATUS_TX_PAUSED n)).bumpSat (F.UART_FLOWCNT_XOFF_RX_CNT n)
      else if good ∧ ch.toNat = s.get (F.UART_FLOW_XON_CHAR n) then
        (s.set (F.UART_STATUS_TX_PAUSED n) false).uartKick n
      else s.storeChar n ch fe pe brk)

/-- SQUALL_SEQUENCE_TIMEOUT (R148): the next byte has not followed within 1 character time. -/
def execSquallSequenceTimeout (s : State) : Host.Outcome State Fault Refusal :=
  .next (if (s.uart 1).matched = 0 then s else s.matchOver)

/-- The firmware moves a character into the receive ring; one that finds the ring full is dropped (R468). -/
def State.ringPush (s : State) (n : Nat) (ch : Byte) (bad : Bool) : State :=
  let u := s.uart n
  if 1024 ≤ u.ring.length then s.setUart { u with ringErr := true }
  else
    let s := s.setUart { u with ring := u.ring ++ [ch], ringErr := u.ringErr || bad }
    if u.ring = [] ∧ u.lastRxBlock ≠ some s.blockNow then
      (s.post 0x0A01 n [1]).setUart { s.uart n with lastRxBlock := some s.blockNow }
    else s

/-- UART_RXD_READ (R468, R471): VALID clears, the firmware takes the character to its ring or, with framed KCP, to the framer,
and an XON follows an XOFF that was sent. -/
def execUartRxdRead (n : Fin 2) (s : State) : Host.Outcome State Fault Refusal :=
  .next (
    let had := s.flag (F.UART_RXD_VALID n)
    let w := s.rd (R.UART_RXD n)
    let s := s.set (F.UART_RXD_VALID n) false
    let s := if had ∧ s.firmware ∧ ¬ s.framed n then s.ringPush n (w.extractLsb' 0 8) (bits w 8 3 ≠ 0) else s
    let u := s.uart n
    let s := s.setUart { u with xoffDue := false }
    if u.xoffSent ∧ s.uartOn n then
      let u := s.uart n
      (s.setUart { u with xoffSent := false, flowOut := u.flowOut ++ [BitVec.ofNat 8 (s.get (F.UART_FLOW_XON_CHAR n))] }).uartKick n
    else s)

/-- UART_TXD_WRITE (R469): ignored while TXD_FULL. -/
def execUartTxdWrite (n : Fin 2) (ch : Byte) (s : State) : Host.Outcome State Fault Refusal :=
  .next (
    if s.flag (F.UART_STATUS_TXD_FULL n) ∨ ¬ s.uartOn n then s
    else
      let c := if s.flag (F.UART_CTRL_DATA8 n) then ch else ch &&& 0x7F
      ((s.setUart { s.uart n with txd := some c }).set (F.UART_STATUS_TXD_FULL n)).uartKick n)

/-- UART_CHAR_SENT (R469): the shifter finishes a character and takes the next. -/
def execUartCharSent (n : Fin 2) (s : State) : Host.Outcome State Fault Refusal :=
  .next (
    let u := s.uart n
    if u.shifter.isNone then s
    else
      let s := (s.setUart { u with shifter := none }).set (F.UART_STATUS_TX_BUSY n) false
      (s.bump (F.UART_TX_CNT_COUNT n)).uartKick n)

/-- XOFF_GENERATE (R471): withheld on UART[1] while a partial match of the Squall sequence is held. -/
def execXoffGenerate (n : Fin 2) (s : State) : Host.Outcome State Fault Refusal :=
  .next (
    let u := s.uart n
    if ¬ s.uartOn n ∨ ¬ s.flag (F.UART_CTRL_FLOW_RX n) ∨ ¬ s.flag (F.UART_RXD_VALID n) ∨ u.xoffSent then s
    else if n.val = 1 ∧ u.matched ≠ 0 then s.setUart { u with xoffDue := true }
    else s.sendXoff n)

/-- DE_RELEASE (R473): UART1_DE drops after the last character queued. -/
def execDeRelease (s : State) : Host.Outcome State Fault Refusal :=
  .next (
    let u := s.uart 1
    let waits : Bool := u.txd.isSome ∧ ¬ s.flag (F.UART_STATUS_TX_PAUSED 1)
    if u.shifter.isSome ∨ u.flowOut ≠ [] ∨ waits then s else s.setUart { u with deHigh := false })

/-- UART_BREAK_DETECT (R475): the stored character is marked BRK; nothing more is accepted until the line returns to 1. -/
def execUartBreakDetect (n : Fin 2) (s : State) : Host.Outcome State Fault Refusal :=
  .next (
    if ¬ s.uartOn n ∨ (s.uart n).breakSeen then s
    else
      let s := ((s.set (F.UART_RXD_BRK n)).set (F.UART_STATUS_BRK n)).bumpSat (F.UART_LINECNT_BRK_CNT n)
      let s := s.set (F.UART_STATUS_LINE_LOW n)
      let s := s.setUart { s.uart n with armed := false, breakSeen := true, wakeArmed := false }
      s.post 0x0A02 n [lo32 s.blockNow])

/-- The CONTACT mechanism's condition persists somewhere: a contact OPEN or SHORT (R418, R461). -/
def State.contactFault (s : State) : Bool := (List.range 16).any fun n => 2 ≤ s.contactClass n

/-- CONTACT clears once no contact is open or short and no line is stuck at 0 (R418, R461, R476). -/
def State.contactClear (s : State) : State :=
  if s.contactFault ∨ (s.uart 0).stuck ∨ (s.uart 1).stuck then s else s.unraise Mech.contact

/-- UART_LINE_STUCK_DETECT (R476). -/
def execUartLineStuckDetect (n : Fin 2) (s : State) : Host.Outcome State Fault Refusal :=
  .next (
    if ¬ s.uartOn n ∨ (s.uart n).stuck then s
    else
      let s := ((s.set (F.UART_STATUS_LINE_STUCK n)).set (F.UART_STATUS_LINE_LOW n)).post 0x0A03 n [lo32 s.blockNow]
      (s.setUart { s.uart n with stuck := true }).raise Mech.contact (0x10 + n.val) 0 0 0)

/-- UART_FALSE_START (R467). -/
def execUartFalseStart (n : Fin 2) (s : State) : Host.Outcome State Fault Refusal :=
  .next (if s.uartOn n then (s.set (F.UART_STATUS_FALSE_START n)).bumpSat (F.UART_LINECNT_FALSE_CNT n) else s)

/-- UART_LINE_RETURN_TO_IDLE (R469, R475, R476): the receiver is armed again, and wake too. -/
def execUartLineReturnToIdle (n : Fin 2) (s : State) : Host.Outcome State Fault Refusal :=
  .next (
    let s := s.set (F.UART_STATUS_LINE_LOW n) false
    (s.setUart { s.uart n with armed := s.uartOn n, breakSeen := false, wakeArmed := true, stuck := false }).contactClear)

/-- Bits per second of a port (R466). -/
def State.uartDiv (s : State) (n : Nat) : Nat := s.get (F.UART_BAUD_DIV n)

/-- UART_WAKE_EDGE (R477): the edge wakes the device, which follows as LULL_WAKE; above 115,200 baud the waking character is
lost. -/
def execUartWakeEdge (n : Fin 2) (s : State) : Host.Outcome State Fault Refusal :=
  .next (
    let u := s.uart n
    if s.power ≠ .lull ∨ ¬ s.uartOn n ∨ ¬ s.flag (F.UART_CTRL_WAKE_EN n) ∨ ¬ u.wakeArmed then s
    else
      let s := s.setUart { u with wakeArmed := false }
      if s.uartDiv n < 417 then s.set (F.UART_STATUS_WAKE_LOST n) else s)

/-! Framed KCP (R285, R286). -/

/-- The body of a frame with its escapes undone; none where 0x10 is followed by a byte that no frame holds. -/
def unescape : List Byte → Option (List Byte)
  | [] => some []
  | b :: r =>
    if b ≠ 0x10 then (unescape r).map fun l => b :: l
    else match r with
      | c :: r => if c = 0x30 ∨ c = 0x31 ∨ c = 0x33 then (unescape r).map fun l => (c ^^^ 0x20) :: l else none
      | [] => none

/-- The body after the last start of a frame, up to the end mark; a start inside a frame abandons what came before (R286). The
flag says that the byte before was 0x10. -/
def lastBody : Bool → List Byte → List Byte → Option (List Byte)
  | _, _, [] => none
  | true, acc, b :: r =>
    if b = 0x02 then lastBody false [] r
    else if b = 0x03 then some acc.reverse
    else lastBody false (b :: 0x10 :: acc) r
  | false, acc, b :: r => if b = 0x10 then lastBody true acc r else lastBody false (b :: acc) r

/-- The body of the frame: what follows 0x10 0x02 (R285). -/
def frameBody : List Byte → Option (List Byte)
  | [] => none
  | b :: r => if b = 0x10 ∧ r.head? = some 0x02 then lastBody false [] (r.drop 1) else frameBody r

/-- UART_KCP_FRAME (R285, R286): a good frame's command waits for the Mason pair, and one that comes while a command is in
progress is answered BUSY; a damaged one is counted (DEDUCED, notes/assumptions/179.md). -/
def execUartKcpFrame (wire : List Byte) (damaged : Bool) (s : State) : Host.Outcome State Fault Refusal :=
  .next (
    if ¬ s.framed 1 ∨ ¬ s.uartOn 1 then s
    else
      let drop := s.bumpSat F.KCP_UART_DROP_CNT
      match (frameBody wire).bind unescape with
      | none => drop
      | some body =>
        let len := bits ((wordsOfBytes body).getD 1 0) 20 12
        let seq : BitVec 16 := ((wordsOfBytes body).getD 0 0).extractLsb' 0 16
        if damaged ∨ body.length ≠ 16 + len + 2 then drop
        else if s.host.rung.any fun x => x.1 = 5 then
          { s with host := { s.host with uartBusy := s.host.uartBusy ++ [seq] } }
        else if (s.uart 1).sendBuf ≠ [] then s.respond (uartBusyFor seq)
        else
          let crc := crc16 (body.take (16 + len))
          let s : State := { s with host := { s.host with rung := s.host.rung ++ [(5, crc.toNat, true)] } }
          s.screenOpcode 5 (crc = body.getD (17 + len) 0 ++ body.getD (16 + len) 0) (wordsOfBytes (body.take (16 + len))))

/-- UART_FRAME_GAP_TIMEOUT (R286): an open frame is discarded and counted. -/
def execUartFrameGapTimeout (s : State) : Host.Outcome State Fault Refusal :=
  .next (if s.framed 1 ∧ s.uartOn 1 then s.bumpSat F.KCP_UART_DROP_CNT else s)

/-! Commands. -/

/-- The writable registers of a port, in offset order (R317). -/
def uartImage (n : Nat) : List Nat := [R.UART_CTRL n, R.UART_BAUD n, R.UART_FLOW n, R.UART_DE n]

/-- Every register of a port (R317). -/
def uartRegs (n : Nat) : List Nat := addrs (R.UART_CTRL n) 12 4

/-- UART.CONFIG (R464–R473): an image of the writable registers; EN and FRAMED have commands of their own. -/
def cmdUartConfig : Cmd where
  opcode := 0x0A01
  arg := fun k _ =>
    let n := k.f 0 0 1
    let c := fun i => k.bit 1 i
    let div := k.f 2 0 16
    firstBad [lenIs k 5, resv k 0 1, fld 1 0 (k.f 1 1 2 ≤ 2),
      fld 1 23 (¬ (n = 0 ∧ c 24)), fld 1 24 (¬ (n = 0 ∧ c 30)), fld 1 27 (¬ (n = 1 ∧ (c 28 ∨ c 27))),
      fld 1 28 (¬ (c 28 ∧ div < 417)), fld 2 0 (52 ≤ div ∧ div ≤ 40000)]
  refuse := fun k s => if s.uartOn (k.f 0 0 1) then some St.state else none
  act := fun k _ s =>
    let n := k.f 0 0 1
    let en := s.flag (F.UART_CTRL_EN n)
    let fr := s.flag (F.UART_CTRL_FRAMED n)
    let s := s.writeImage (uartImage n) (k.payload.drop 1)
    ans ((s.set (F.UART_CTRL_EN n) en).set (F.UART_CTRL_FRAMED n) fr)
def execUartConfig (k : Kcp) (s : State) : Host.Outcome State Fault Refusal := .next (kcpExec cmdUartConfig k s)

/-- Enable or disable a port (R469). -/
def State.uartEnable (s : State) (n : Nat) (en : Bool) : State :=
  let u := s.uart n
  if en then
    if s.uartOn n then s else (s.set (F.UART_CTRL_EN n)).setUart { u with armed := ¬ s.flag (F.UART_STATUS_LINE_LOW n) }
  else
    let s := (s.set (F.UART_CTRL_EN n) false).set (F.UART_STATUS_TXD_FULL n) false
    let s := s.set (F.UART_STATUS_TX_PAUSED n) false
    s.setUart { UartSt.init n with shifter := u.shifter, deHigh := u.deHigh, wakeArmed := u.wakeArmed, stuck := u.stuck }

/-- UART.ENABLE (R469). -/
def cmdUartEnable : Cmd where
  opcode := 0x0A02
  arg := fun k _ => firstBad [lenIs k 1, resv k 0 0x101]
  act := fun k _ s => ans (s.uartEnable (k.f 0 0 1) (k.bit 0 8))
def execUartEnable (k : Kcp) (s : State) : Host.Outcome State Fault Refusal := .next (kcpExec cmdUartEnable k s)

/-- UART.SEND (R469, R478). -/
def cmdUartSend : Cmd where
  opcode := 0x0A03
  arg := fun k _ => firstBad [(k.len.toNat = 4 + 4 * wordsFor (k.f 0 8 10), hdrOff), resv k 0 0x3FF01,
    fld 0 8 (1 ≤ k.f 0 8 10 ∧ k.f 0 8 10 ≤ 1016)]
  refuse := fun k s => if s.framed (k.f 0 0 1) then some St.state else none
  busy := fun k s => (s.uart (k.f 0 0 1)).sendBuf ≠ []
  act := fun k _ s =>
    let n := k.f 0 0 1
    ans ((s.setUart { s.uart n with sendBuf := k.bytes 1 (k.f 0 8 10) }).uartKick n)
def execUartSend (k : Kcp) (s : State) : Host.Outcome State Fault Refusal := .next (kcpExec cmdUartSend k s)

/-- UART.RECV (R468, R478): the bytes of the ring, as many as a response holds. -/
def cmdUartRecv : Cmd where
  opcode := 0x0A04
  arg := fun k _ => firstBad [lenIs k 1, resv k 0 1]
  act := fun k _ s =>
    let n := k.f 0 0 1
    let u := s.uart n
    let bs := if s.framed n then [] else u.ring.take 1020
    ans (s.setUart { u with ring := u.ring.drop bs.length, ringErr := false })
      (w32 (bs.length + b2n u.ringErr * 65536) :: wordsOfBytes bs)
def execUartRecv (k : Kcp) (s : State) : Host.Outcome State Fault Refusal := .next (kcpExec cmdUartRecv k s)

/-- UART.SET_FRAMED (R478). -/
def cmdUartSetFramed : Cmd where
  opcode := 0x0A05
  arg := fun k _ => firstBad [lenIs k 1, resv k 0 1]
  act := fun k _ s => ans ((s.set (F.UART_CTRL_FRAMED 1) (k.bit 0 0)).set F.KCP_UART_ACTIVE (k.bit 0 0))
def execUartSetFramed (k : Kcp) (s : State) : Host.Outcome State Fault Refusal := .next (kcpExec cmdUartSetFramed k s)

/-- UART.GET_STATUS (R317). -/
def cmdUartGetStatus : Cmd where
  opcode := 0x0A06
  fault := true
  reads := true
  arg := fun k _ => firstBad [lenIs k 1, resv k 0 1]
  act := fun k _ s => ans s (s.image (uartRegs (k.f 0 0 1)))
def execUartGetStatus (k : Kcp) (s : State) : Host.Outcome State Fault Refusal := .next (kcpExec cmdUartGetStatus k s)

end Sys2Proof.Machine
end

