-- ==== Sys2Proof/Machine/Timer.lean ====
section
/-! DEFINITION. The event timers (R446–R457): counting, gates and links, compare channels, outputs, and the TIM commands. -/

namespace Sys2Proof.Machine

/-- The PERIOD in force: the register's, unless a shadowed value waits (R452). -/
def State.timPeriod (s : State) (n : Nat) : Nat :=
  if s.flag (F.TIM_STATUS_PPEND n) then (s.timer n).period.toNat else s.get (F.TIM_PERIOD_PERIOD n)

def State.timRun (s : State) (n : Nat) : Bool := s.flag (F.TIM_CTRL_RUN n)

/-- CMP_UNREACH shows the channels whose CMP lies above the PERIOD in force (R450). -/
def State.timReach (s : State) (n : Nat) : State :=
  s.put (F.TIM_STATUS_CMP_UNREACH n) (((List.range 4).map fun c =>
    if s.timPeriod n < s.get (F.TIM_CMP_CMP n c) then 2 ^ c else 0).sum)

/-- Arm or disarm a channel. -/
def State.timArm (s : State) (n c : Nat) (on : Bool) : State :=
  let m := s.get (F.TIM_STATUS_ARMED n)
  s.put (F.TIM_STATUS_ARMED n) (if on then m ||| 2 ^ c else if Nat.testBit m c then m - 2 ^ c else m)

/-- Load 0: a reset, at which a shadowed PERIOD takes effect (R446, R452). -/
def State.timLoad0 (s : State) (n : Nat) : State :=
  ((s.put (F.TIM_COUNT_COUNT n) 0).set (F.TIM_STATUS_PPEND n) false).timReach n

/-- A timer starts: its output level is INIT; a running timer is unchanged (R446, R455). -/
def State.timStart (s : State) (n : Nat) : State :=
  if s.timRun n then s
  else
    let s := (s.set (F.TIM_CTRL_RUN n)).put (F.TIM_OUT_LEVEL n) (s.get (F.TIM_OUT_INIT n))
    s.setTimer { s.timer n with pulse := false }

/-- A timer stops; the count freezes and the output holds its level (R446, R455). -/
def State.timStop (s : State) (n : Nat) : State := s.set (F.TIM_CTRL_RUN n) false

/-- An action waits on a timer for the next MCLK cycle (R449, R451). -/
def State.timDue (s : State) (n a : Nat) : State :=
  let t := s.timer n
  s.setTimer { t with due := t.due ++ [a] }

/-- The output reacts to an event that OUT.EVENTS selects (R455) (DEDUCED, notes/assumptions/52.md). -/
def State.timOutput (s : State) (n e : Nat) : State :=
  if ¬ Nat.testBit (s.get (F.TIM_OUT_EVENTS n)) e then s
  else if s.flag (F.TIM_OUT_MODE n) then (s.set (F.TIM_OUT_LEVEL n)).setTimer { s.timer n with pulse := true }
  else s.set (F.TIM_OUT_LEVEL n) (¬ s.flag (F.TIM_OUT_LEVEL n))

/-- Post the TIM_EVENT of what has happened since the last one, at most once per block (R456) (DEDUCED, notes/assumptions/47.md). -/
def State.timPost (s : State) (n : Nat) : State :=
  let t := s.timer n
  if t.count = 0 ∨ t.lastBlock = some s.blockNow ∨ ¬ s.running ∨ ¬ s.flag (F.TIM_CTRL_EVT_EN n) then s
  else
    let s := s.post 0x0901 n [w32 (min t.count 65535 * 65536 + t.events.toNat), s.rd (R.TIM_COUNT n)]
    s.setTimer { t with events := 0, count := 0, lastBlock := some s.blockNow }

/-- An event of a timer: 0 overflow, c + 1 compare c (R449, R450, R456, R502): its status flag, the output, the timers linked
to it, the trigger slots, the Strike source, and its part of TIM_EVENT. -/
def State.timEvent (s : State) (n e : Nat) : State :=
  let s := if e = 0 then s.set (F.TIM_STATUS_OVF n)
    else s.put (F.TIM_STATUS_CMP_HIT n) (s.get (F.TIM_STATUS_CMP_HIT n) ||| 2 ^ (e - 1))
  let s := s.timOutput n e
  let s := forEach (List.range 16) s fun m s =>
    if s.flag (F.TIM_LINK_EN m) ∧ s.get (F.TIM_LINK_SRC m) = n ∧ s.get (F.TIM_LINK_EVENT m) = e ∧
        s.get (F.TIM_LINK_ACTION m) ≠ 0 then s.timDue m (s.get (F.TIM_LINK_ACTION m)) else s
  let s := s.trigAll 1 n e
  let s := if s.get F.STRK_CTRL_TIMER = n ∧ s.get F.STRK_CTRL_EVENT = e then s.strikeTrigger Src.timer (s.time.mt + 1) else s
  let t := s.timer n
  if s.flag (F.TIM_CTRL_EVT_EN n) then
    (s.setTimer { t with events := t.events ||| BitVec.ofNat 5 (2 ^ e), count := t.count + 1 }).timPost n
  else s

/-- The ACT code of a channel (R451); undefined codes act as NONE. -/
def State.timAct (s : State) (n c : Nat) : Nat :=
  let a := s.get (F.TIM_CTRL_ACT n) / 8 ^ c % 8
  if 5 ≤ a then 0 else a

/-- ADD_INTERVAL (R451). -/
def State.timAdd (s : State) (n c : Nat) : State :=
  let i := s.get (F.TIM_INTERVAL_INTERVAL n c)
  let s := s.put (F.TIM_CMP_CMP n c) ((s.get (F.TIM_CMP_CMP n c) + i) % (s.timPeriod n + 1))
  if i = 0 then s.timArm n c false else s.timReach n

/-- A channel's match: its event, then its action (R450, R451). -/
def State.timMatch (s : State) (n c : Nat) : State :=
  let a := s.timAct n c
  let s := s.timEvent n (c + 1)
  let tgt := s.get (F.TIM_CTRL_TGT n)
  match a with
  | 1 => s.setTimer { s.timer n with resetNext := true }
  | 2 => s.timDue tgt 2
  | 3 => s.timAdd n c
  | 4 => (s.timAdd n c).timDue tgt 1
  | _ => s

/-- The armed channels whose CMP equals a count. -/
def State.timHits (s : State) (n count : Nat) : List Nat :=
  (List.range 4).filter fun c => Nat.testBit (s.get (F.TIM_STATUS_ARMED n)) c ∧ s.get (F.TIM_CMP_CMP n c) = count

/-- One counted clock (R446, R450–R453): a wrap, a load of 0 that RESET_SELF or a lowered PERIOD asks for, or an increment;
then the matches in channel order. -/
def State.timCount (s : State) (n : Nat) : State :=
  let t := s.timer n
  let count := s.get (F.TIM_COUNT_COUNT n)
  let wrap : Bool := count = s.timPeriod n
  let s := s.setTimer { t with resetNext := false, skipNext := false }
  if wrap then
    let s := if t.skipNext then s.set (F.TIM_STATUS_PSKIP n) else s
    let s := (s.timLoad0 n).timEvent n 0
    if t.skipNext then s else forEach (s.timHits n 0) s fun c s => s.timMatch n c
  else if t.skipNext then ((s.timLoad0 n).set (F.TIM_STATUS_PSKIP n)).timEvent n 0
  else if t.resetNext then s.timLoad0 n
  else
    let v := (count + 1) % 2 ^ 32
    let s := s.put (F.TIM_COUNT_COUNT n) v
    forEach (s.timHits n v) s fun c s => s.timMatch n c

/-- The gate of a timer lets a clock through (R448): a contact's ACTIVE class, the level of a TIN pin, which no command
carries and which is a free value, or another timer's output level; and under a GATE link the source timer runs (R449) (DESIGN CHOICE, notes/assumptions/49.md). -/
def State.timGate (s : State) (n : Nat) : Bool × State :=
  let i := s.get (F.TIM_GATE_INDEX n)
  let (x, t) := s.draw
  let kind := s.get (F.TIM_GATE_KIND n)
  let level : Bool := match kind with
    | 0 => s.contactActive i
    | 1 => decide (x % 2 = 1)
    | _ => s.flag (F.TIM_OUT_LEVEL i)
  let en := s.flag (F.TIM_GATE_EN n)
  let s' := if en ∧ kind = 1 then t else s
  let gate := ¬ en ∨ level = s.flag (F.TIM_GATE_LEVEL n)
  let link := ¬ (s.flag (F.TIM_LINK_EN n) ∧ s.get (F.TIM_LINK_ACTION n) = 0) ∨ s.timRun (s.get (F.TIM_LINK_SRC n))
  (gate ∧ link, s')

/-- Clocks of a running timer that pass its gate: every (PRESCALE + 1)th is counted (R447, R448). The answer is how many
of `k` clocks are counted (DEDUCED, notes/assumptions/50.md). -/
def State.timPrescale (s : State) (n k : Nat) : Nat × State :=
  let (ok, s) := s.timGate n
  let s := s.set (F.TIM_STATUS_GATED n) (¬ ok)
  if ¬ ok then (0, s)
  else
    let d := s.get (F.TIM_CLK_PRESCALE n) + 1
    let t := s.timer n
    let tot := t.prescale + k
    (tot / d, s.setTimer { t with prescale := tot % d })

/-- One clock of a timer's source. -/
def State.timClock (s : State) (n : Nat) : State :=
  if ¬ s.timRun n then s
  else
    let (k, s) := s.timPrescale n 1
    iter (fun s => s.timCount n) k s

/-- The timer is clocked by its link's source alone (R447). -/
def State.timLinked (s : State) (n : Nat) : Bool := s.flag (F.TIM_LINK_EN n) ∧ s.get (F.TIM_LINK_ACTION n) = 4

/-- The skipped ticks of a jump (R454): the count advances by all of them at once; a channel whose value it passes matches
once, and the period event occurs at most once. The jump tick itself is a clock of its own. -/
def State.timJump (s : State) (n ticks : Nat) : State :=
  if ¬ s.timRun n ∨ s.timLinked n then s
  else
    let (k, s) := s.timPrescale n ticks
    if k ≤ 1 then iter (fun s => s.timCount n) k s
    else
      let p := s.timPeriod n + 1
      let old := s.get (F.TIM_COUNT_COUNT n)
      let passed := (List.range 4).filter fun c =>
        let v := s.get (F.TIM_CMP_CMP n c)
        Nat.testBit (s.get (F.TIM_STATUS_ARMED n)) c ∧ v < p ∧ (v + p - 1 - old % p) % p + 1 ≤ k
      let s := if p ≤ old + k then (s.timLoad0 n).timEvent n 0 else s
      let s := s.put (F.TIM_COUNT_COUNT n) ((old + k) % p)
      forEach passed s fun c s => s.timMatch n c

/-- Perform the actions that wait on a timer, in order (R449). -/
def State.timLink (s : State) (n a : Nat) : State :=
  match a with
  | 1 => s.timLoad0 n
  | 2 => s.timStart n
  | 3 => s.timStop n
  | 4 => s.timClock n
  | _ => s

/-- A write of a compare value (R450). -/
def State.timCmpWrite (s : State) (n c v : Nat) : State :=
  ((s.put (F.TIM_CMP_CMP n c) v).timArm n c true).timReach n

/-- A write of PERIOD (R452): shadowed while the timer runs with PERIOD_IMM = 0, and at once otherwise (DEDUCED, notes/assumptions/51.md). -/
def State.timPeriodWrite (s : State) (n v : Nat) : State :=
  if s.timRun n ∧ ¬ s.flag (F.TIM_CTRL_PERIOD_IMM n) then
    let s := s.setTimer { s.timer n with period := w32 (s.timPeriod n) }
    (s.put (F.TIM_PERIOD_PERIOD n) v).set (F.TIM_STATUS_PPEND n)
  else
    let s := ((s.put (F.TIM_PERIOD_PERIOD n) v).set (F.TIM_STATUS_PPEND n) false).timReach n
    if v % 2 ^ 32 ≤ s.get (F.TIM_COUNT_COUNT n) then s.setTimer { s.timer n with skipNext := true }
    else s.setTimer { s.timer n with skipNext := false }

/-! Meanings. -/

/-- TIM_CMP_WRITE (R450). -/
def execTimCmpWrite (n : Fin 16) (c : Fin 4) (value : W32) (s : State) : Host.Outcome State Fault Refusal :=
  .next (s.timCmpWrite n c value.toNat)

/-- TIM_PERIOD_WRITE (R452). -/
def execTimPeriodWrite (n : Fin 16) (value : W32) (s : State) : Host.Outcome State Fault Refusal :=
  .next (s.timPeriodWrite n value.toNat)

/-- TIMER_CLOCK (R446): one clock of the timer's selected source. Sample and block ticks do not come in Lull (R457), and a
timer clocked by a link ignores its source (R447) (DESIGN CHOICE, notes/assumptions/46.md). -/
def execTimerClock (n : Fin 16) (s : State) : Host.Outcome State Fault Refusal :=
  .next (
    let src := s.get (F.TIM_CLK_SRC n)
    if s.timLinked n ∨ (¬ s.time.counting ∧ (src = 1 ∨ src = 2)) ∨ 4 ≤ src then s else s.timClock n)

/-- TIMER_LINK_ACTION (R449, R451). -/
def execTimerLinkAction (n : Fin 16) (s : State) : Host.Outcome State Fault Refusal :=
  .next (
    let acts := (s.timer n).due
    let s := s.setTimer { s.timer n with due := [] }
    forEach acts s fun a s => s.timLink n a)

/-- TIMER_PULSE_END (R455). -/
def execTimerPulseEnd (n : Fin 16) (s : State) : Host.Outcome State Fault Refusal :=
  .next (
    let t := s.timer n
    if t.pulse then (s.setTimer { t with pulse := false }).set (F.TIM_OUT_LEVEL n) false else s)

/-! Commands. -/

/-- The writable registers of a timer in offset order, PERIOD and the compare channels apart (R317). -/
def timHead (n : Nat) : List Nat := [R.TIM_CTRL n, R.TIM_CLK n, R.TIM_GATE n, R.TIM_LINK n]

/-- Every register of a timer (R317). -/
def timRegs (n : Nat) : List Nat := addrs (R.TIM_CTRL n) 16 4

/-- TIM.CONFIG (R447, R455): an image of the writable registers. -/
def cmdTimConfig : Cmd where
  opcode := 0x0901
  arg := fun k _ => firstBad [lenIs k 16, resv k 0 0xF, fld 2 0 (k.f 2 0 3 ≤ 3), fld 3 28 (k.f 3 28 2 ≠ 3),
    fld 4 0 (k.f 4 0 3 ≤ 4), fld 4 24 (k.f 4 24 3 ≤ 4)]
  refuse := fun k s =>
    if k.bit 7 31 ∧ (List.range 16).any (fun m =>
        decide (m ≠ k.n 0) && s.flag (F.TIM_OUT_EN m) && decide (s.get (F.TIM_OUT_PIN m) = k.f 7 24 2)) then some St.state
    else none
  act := fun k _ s =>
    let n := k.n 0
    let s := s.writeImage (timHead n) ((k.payload.drop 1).take 4)
    let s := s.writeImage [R.TIM_COUNT n, R.TIM_OUT n] ((k.payload.drop 6).take 2)
    let s := s.timPeriodWrite n (k.n 5)
    ans (forEach (List.range 4) s fun c s =>
      (s.wr (R.TIM_INTERVAL n c) (k.w (9 + 2 * c))).timCmpWrite n c (k.n (8 + 2 * c)))
/-- DEDUCED, notes/assumptions/48.md. -/
def execTimConfig (k : Kcp) (s : State) : Host.Outcome State Fault Refusal := .next (kcpExec cmdTimConfig k s)

/-- TIM.START (R446): the timers of the mask start at AT. -/
def cmdTimStart : Cmd where
  opcode := 0x0902
  at_ := .routing
  arg := fun k _ => firstBad [lenIs k 1, resv k 0 0xFFFF]
def execTimStart (k : Kcp) (s : State) : Host.Outcome State Fault Refusal := .next (kcpExec cmdTimStart k s)

/-- TIM.STOP (R446): the timers of the mask stop at AT. -/
def cmdTimStop : Cmd where
  opcode := 0x0903
  at_ := .routing
  arg := fun k _ => firstBad [lenIs k 1, resv k 0 0xFFFF]
def execTimStop (k : Kcp) (s : State) : Host.Outcome State Fault Refusal := .next (kcpExec cmdTimStop k s)

/-- What TIM.START and TIM.STOP do at their media time. -/
def State.atTimStart (s : State) (p : List W32) : State :=
  forEach (maskBits (p.getD 0 0).toNat 16) s fun n s => s.timStart n
def State.atTimStop (s : State) (p : List W32) : State :=
  forEach (maskBits (p.getD 0 0).toNat 16) s fun n s => s.timStop n

/-- TIM.SET_CMP (R450). -/
def cmdTimSetCmp : Cmd where
  opcode := 0x0904
  arg := fun k _ => firstBad [lenIs k 3, resv k 0 0x30F]
  act := fun k _ s => ans ((s.wr (R.TIM_INTERVAL (k.f 0 0 4) (k.f 0 8 2)) (k.w 2)).timCmpWrite (k.f 0 0 4) (k.f 0 8 2) (k.n 1))
def execTimSetCmp (k : Kcp) (s : State) : Host.Outcome State Fault Refusal := .next (kcpExec cmdTimSetCmp k s)

/-- TIM.GET (R317). -/
def cmdTimGet : Cmd where
  opcode := 0x0905
  fault := true
  reads := true
  arg := fun k _ => firstBad [lenIs k 1, resv k 0 0xF]
  act := fun k _ s => ans s (s.image (timRegs (k.n 0)))
def execTimGet (k : Kcp) (s : State) : Host.Outcome State Fault Refusal := .next (kcpExec cmdTimGet k s)

end Sys2Proof.Machine
end

