-- ==== Sys2Proof/Machine/Contact.lean ====
section
/-! DEFINITION. The supervised contacts (R458–R463): the sense window, classification and debounce, what a new class sets off,
and the CONTACT commands. -/

namespace Sys2Proof.Machine

/-! The classes of CONTACT_STATE. -/
namespace Ct
def normal : Nat := 0
def active : Nat := 1
def open_ : Nat := 2
def short : Nat := 3
end Ct

/-- The class of a reading against a contact's thresholds (R459). -/
def State.ctClassify (s : State) (n code : Nat) : Nat :=
  if code ≤ s.get (F.CT_THRESH_TH_SHORT n) then Ct.short
  else if code ≤ s.get (F.CT_THRESH_TH_ACT n) then Ct.active
  else if code < s.get (F.CT_THRESH_TH_NORM n) then s.contactClass n
  else if code ≤ s.get (F.CT_THRESH_TH_OPEN n) then Ct.normal
  else Ct.open_

/-- Store a contact's class. -/
def State.setContactClass (s : State) (n c : Nat) : State := s.wr R.CONTACT_STATE (setBits (s.rd R.CONTACT_STATE) (2 * n) 2 c)

/-- Post CONTACT_CHANGE for what is not reported yet, at most once per contact in 10 frames (R461). -/
def State.ctPost (s : State) (n : Nat) : State :=
  let c := s.contact n
  let frame := s.get F.CONTACT_FRAMES_COUNT
  let soon : Bool := c.lastEventFrame.any fun f => (frame + 2 ^ 32 - f) % 2 ^ 32 < 10
  if c.merged = 0 ∨ soon ∨ ¬ s.running then s
  else
    let s := s.post 0x0B01 n [w32 (min c.merged 65535 * 65536 + c.old * 4 + s.contactClass n)]
    s.setContact { c with merged := 0, lastEventFrame := some frame }

/-- Voices see a contact's new class from C + 2 (R76, R103). -/
def State.ctEdits (s : State) (n old : Nat) : State :=
  let s := s.noteContact s.soonest n old (s.contactClass n)
  forEach (s.disp.voices.filter fun v => s.sees v n) s fun v s =>
    s.editVoice v.src v.record s.soonest (.contact n (s.contactActive n))

/-- A contact takes a new class (R148, R150, R152, R460, R461) (DEDUCED, notes/assumptions/53.md). -/
def State.ctTake (s : State) (n new : Nat) : State :=
  let old := s.contactClass n
  let fault : Bool := 2 ≤ new
  let s := (s.setContactClass n new).bump F.CONTACT_CHG_CNT_COUNT
  let s := ((s.put F.CONTACT_LAST_CONTACT n).put F.CONTACT_LAST_OLD old).put F.CONTACT_LAST_NEW new
  let s := s.put F.CONTACT_EVT_CHANGE (s.get F.CONTACT_EVT_CHANGE ||| 2 ^ n)
  let s := if fault then
      ((s.put F.CONTACT_EVT_FAULT (s.get F.CONTACT_EVT_FAULT ||| 2 ^ n)).bumpSat (F.CT_STAT_FAULT_CNT n)).raise
        Mech.contact n 0 0 0
    else s.contactClear
  let s := s.ctEdits n old
  let mine : Bool := s.get F.DISP_SQUALL_CFG_CONTACT = n
  let s := if new = Ct.active then
      let s := s.trigAll 0 n 0
      if mine then s.squallTrigger 0 n else s
    else if new = Ct.normal then
      let s := s.trigAll 0 n 1
      if mine ∧ ¬ s.flag F.DISP_SQUALL_CFG_LATCH ∧ s.disp.squallSource = 0 then (s.squallStop s.soonest 1).1 else s
    else s
  let c := s.contact n
  s.setContact { c with merged := c.merged + 1, old := old }

/-- One reading of a contact (R459, R460): a class that differs from the one held must be read three times in a row (DEDUCED, notes/assumptions/62.md). -/
def State.ctRead (s : State) (n code : Nat) : State :=
  if ¬ Nat.testBit (s.get F.CONTACT_CTRL_SENSE_EN) n then
    let was := s.contactClass n
    let s := (s.setContactClass n Ct.normal).put (F.CT_STAT_RUN n) 0
    if 2 ≤ was then s.contactClear else s
  else
    let s := s.put (F.CT_STAT_CODE n) code
    let c := s.ctClassify n code
    let run := s.get (F.CT_STAT_RUN n)
    if c = s.contactClass n then s.put (F.CT_STAT_RUN n) 0
    else if run ≠ 0 ∧ s.get (F.CT_STAT_CANDIDATE n) = c then
      if run = 2 then (s.put (F.CT_STAT_RUN n) 0).ctTake n c else s.put (F.CT_STAT_RUN n) (run + 1)
    else (s.put (F.CT_STAT_CANDIDATE n) c).put (F.CT_STAT_RUN n) 1

/-- CONTACT_SENSE_WINDOW (R458): the readings of the 16 contacts in one window (DESIGN CHOICE, notes/assumptions/54.md). -/
def execContactSenseWindow (codes : List Byte) (s : State) : Host.Outcome State Fault Refusal :=
  .next (
    if s.power = .off ∨ s.power = .reset then s
    else
      let s := s.bump F.CONTACT_FRAMES_COUNT
      forEach (List.range 16) s fun n s => (s.ctRead n (codes.getD n 0).toNat).ctPost n)

/-! Commands. -/

/-- CONTACT.CONFIG (R459, R463): w0 [3:0] the contact, [8] SENSE_EN, [9] WAKE_EN, [10] LULL_OUT; w1 the image of CT[n]_THRESH
(DEDUCED, notes/assumptions/13.md). -/
def cmdContactConfig : Cmd where
  opcode := 0x0B01
  arg := fun k _ => firstBad [lenIs k 2, resv k 0 0x70F,
    fld 1 0 (k.f 1 0 8 < k.f 1 8 8 ∧ k.f 1 8 8 < k.f 1 16 8 ∧ k.f 1 16 8 < k.f 1 24 8)]
  refuse := fun k s => if k.bit 0 8 ∧ k.f 0 0 4 < 4 ∧ bit (s.rd R.CONTACT_STRAP) (k.f 0 0 4) then some St.state else none
  act := fun k _ s =>
    let n := k.f 0 0 4
    let s := s.wr (R.CT_THRESH n) (k.w 1)
    let s := s.wr R.CONTACT_CTRL (setBits (setBits (s.rd R.CONTACT_CTRL) n 1 (k.f 0 8 1)) (16 + n) 1 (k.f 0 9 1))
    ans (s.wr R.CONTACT_OUT (setBits (s.rd R.CONTACT_OUT) (16 + n) 1 (k.f 0 10 1)))
def execContactConfig (k : Kcp) (s : State) : Host.Outcome State Fault Refusal := .next (kcpExec cmdContactConfig k s)

/-- CONTACT.SET_OUT (R462). -/
def cmdContactSetOut : Cmd where
  opcode := 0x0B02
  at_ := .routing
  arg := fun k _ => firstBad [lenIs k 2, resv k 0 0xFFFF, resv k 1 0xFFFF]
def execContactSetOut (k : Kcp) (s : State) : Host.Outcome State Fault Refusal := .next (kcpExec cmdContactSetOut k s)

/-- What CONTACT.SET_OUT does at its media time; outputs stay off in FAULT (R411, R462). -/
def State.atContactOut (s : State) (p : List W32) : State :=
  let m := p.getD 0 0
  if s.power = .fault then s
  else s.put F.CONTACT_OUT_LEVEL ((w32 (s.get F.CONTACT_OUT_LEVEL) &&& ~~~ m) ||| (p.getD 1 0 &&& m)).toNat

/-- CONTACT.GET (R317). -/
def cmdContactGet : Cmd where
  opcode := 0x0B03
  fault := true
  reads := true
  arg := fun k _ => firstBad [lenIs k 0]
  act := fun _ _ s => ans s (s.image (addrs R.CONTACT_CTRL 8 4 ++ addrs (R.CT_THRESH 0) 32 4))
def execContactGet (k : Kcp) (s : State) : Host.Outcome State Fault Refusal := .next (kcpExec cmdContactGet k s)

end Sys2Proof.Machine
end

