-- ==== Sys2Proof/Machine/Port.lean ====
section
/-! DEFINITION. The serial audio ports (R350–R367): formats, the buffer in a slab and its media-time tags, frames out and in,
clock loss, rate measurement, length changes, groups, and the PORT commands. -/

namespace Sys2Proof.Machine

/-! Configuration (R350, R351). -/

/-- Slots per pin of a port, its channels, and the bits of a slot and of a frame. -/
def slotsPerPin (ctrl frame : W32) : Nat := if bits ctrl 0 2 = 2 then bits frame 6 6 else 2
def portChannels (ctrl frame : W32) : Nat := slotsPerPin ctrl frame * (bits ctrl 5 1 + 1)
def widthBits (frame : W32) : Nat := match bits frame 12 2 with | 0 => 16 | 1 => 24 | _ => 32
def frameBits (frame : W32) : Nat := 32 * 2 ^ bits frame 16 3

def State.portCh (s : State) (n : Nat) : Nat := portChannels (s.rd (R.APORT_CTRL n)) (s.rd (R.APORT_FRAME n))
def State.portIn (s : State) (n : Nat) : Bool := s.flag (F.APORT_CTRL_DIR n)
def State.portMaster (s : State) (n : Nat) : Bool := s.flag (F.APORT_CTRL_MASTER n)

/-- Ports of a group, and the port whose clocks a port uses (R366). -/
def State.groupPorts (s : State) (g : Nat) : List Nat :=
  (List.range 8).filter fun n => s.flag (F.APORT_GROUP_IN_GROUP n) ∧ s.get (F.APORT_GROUP_GROUP n) = g
def State.portLeader (s : State) (n : Nat) : Nat :=
  if s.flag (F.APORT_GROUP_IN_GROUP n) then (s.groupPorts (s.get (F.APORT_GROUP_GROUP n))).headD n else n

/-- Two pins of one port in a configuration that breaks no limit (R350, R351): the checks of PORT.CONFIG on the CTRL and
FRAME words, with their payload positions. -/
def portLimits (k : Kcp) (double : Bool) : List (Bool × Nat) :=
  let ctrl := k.w 1
  let frame := k.w 2
  let tdm : Bool := bits ctrl 0 2 = 2
  let s := slotsPerPin ctrl frame
  let need := if tdm then s * widthBits frame else 2 * widthBits frame
  [fld 1 0 (bits ctrl 0 2 ≠ 3),
   fld 2 6 (¬ tdm ∨ (2 ≤ bits frame 6 6 ∧ bits frame 6 6 ≤ 32)),
   fld 2 6 (portChannels ctrl frame ≤ 32),
   fld 2 12 (bits frame 12 2 ≠ 3),
   fld 2 16 (bits frame 16 3 ≤ 4 ∧ need ≤ frameBits frame ∧ (¬ double ∨ frameBits frame ≤ 256))]

/-- A buffer length fits (R354): a multiple of 64 frames from 1,024 to 16,384 that stays inside the slab. -/
def State.lengthOk (s : State) (n len : Nat) : Bool :=
  len % 64 = 0 ∧ 1024 ≤ len ∧ len ≤ 16384 ∧ s.get (F.APORT_BUF_BASE n) * 8 + len * s.portCh n * 4 ≤ 524288

/-! The buffer (R354, R355). -/

/-- A sample as a frame's word: the store format, bits [31:8]. -/
def sampleWord (x : Sample) : W32 := x ++ (0 : BitVec 8)
def wordSample (w : W32) : Sample := w.extractLsb' 8 24

/-- The half-word address of channel c of frame i in the port's slab. -/
def State.frameHalf (s : State) (n i c : Nat) : Nat := s.get (F.APORT_BUF_BASE n) * 2 + i * s.portCh n + c

/-- The transfer engine of a port as an agent of the slab space (R354). -/
def portAgent (n : Nat) : Agent := ⟨4, Fin.ofNat 16 n⟩

/-- Write a frame's words at an index. -/
def State.writeFrame (s : State) (n i : Nat) (ws : List W32) : State :=
  forEach ws.zipIdx s fun x s => s.slabAccess (s.get (F.APORT_BUF_SLAB n)) (portAgent n) (s.frameHalf n i x.2) 0 x.1

/-- Read a frame's words at an index. -/
def State.readFrame (s : State) (n i : Nat) : List W32 :=
  (List.range (s.portCh n)).map fun c =>
    let h := s.frameHalf n i c
    let w := s.slabWord (slabKey (s.get (F.APORT_BUF_SLAB n)) (h / 2))
    if h % 2 = 1 then w.extractLsb' 32 32 else w.extractLsb' 0 32

/-- The sample of a channel that a port holds for a media time (R179, R353, R355, R361), in a slab that is still its own (R354). -/
def State.portSample (s : State) (n c mt : Nat) : Sample :=
  if ¬ s.portIn n ∨ s.portCh n ≤ c ∨ s.portState n = Port.clkLost ∨ ¬ s.owns (s.get (F.APORT_BUF_SLAB n)) (portAgent n) then 0
  else match (s.port n).tags.find? fun t => t.2 = mt with
    | some t => wordSample ((s.readFrame n t.1).getD c 0)
    | none => 0

/-- The tag of the frame at RD is what MT_LO and MT_HI show. -/
def State.showTag (s : State) (n : Nat) : State :=
  s.wr64 (R.APORT_MT_LO n) (R.APORT_MT_HI n) ((kget (s.port n).tags (s.get (F.APORT_RD_RD n))).getD 0)

/-- A RESYNC (R356, R357, R362, R365): its flag, its count, and the event (DEDUCED, notes/assumptions/57.md). -/
def State.portResync (s : State) (n count : Nat) (lenChange : Bool) : State :=
  let s := ((s.set (F.APORT_STATUS_RESYNC n)).put (F.APORT_RESYNC_LAST n) (min 65535 count)).bumpSat (F.APORT_RESYNC_CNT n)
  s.post 0x0703 n [w32 (min 65535 count + b2n lenChange * 65536)]

/-- WR moves on; where it wraps with a length staged, the length changes (R365). -/
def State.advanceWr (s : State) (n : Nat) : State :=
  let wrx := s.get (F.APORT_WR_WR n) + 1
  if wrx < s.get (F.APORT_LENGTH_LENGTH n) then s.put (F.APORT_WR_WR n) wrx
  else
    let s := s.put (F.APORT_WR_WR n) 0
    if ¬ s.flag (F.APORT_STATUS_LEN_PEND n) ∨ s.get (F.APORT_LENGTH_STAGED n) = 0 then s
    else
      let new := s.get (F.APORT_LENGTH_STAGED n)
      let old := s.get (F.APORT_LENGTH_LENGTH n)
      let rdx := s.get (F.APORT_RD_RD n)
      let s := (s.put (F.APORT_LENGTH_LENGTH n) new).put (F.APORT_LENGTH_STAGED n) 0
      let p := s.port n
      if new ≤ rdx then
        let lost := p.tags.filter fun t => rdx ≤ t.1
        let s := (s.put (F.APORT_RD_RD n) 0).setPort { p with
          tags := p.tags.filter (fun t => t.1 < rdx ∧ t.1 < new), rejoin := some (true, 0) }
        if s.portIn n then
          ((s.setPort { s.port n with rejoin := none }).set (F.APORT_STATUS_LEN_PEND n) false).portResync n lost.length true
        else s.showTag n
      else if rdx = 0 then s.set (F.APORT_STATUS_LEN_PEND n) false
      else s.setPort { p with oldLen := some old }

/-- The index after one, and whether it ends the old length's last pass (R365). -/
def State.nextRd (s : State) (n i : Nat) : Nat :=
  if i + 1 < ((s.port n).oldLen.getD (s.get (F.APORT_LENGTH_LENGTH n))) then i + 1 else 0

/-- RD passes the frame at an index: its tag goes. -/
def State.passRd (s : State) (n : Nat) : State :=
  let i := s.get (F.APORT_RD_RD n)
  let j := s.nextRd n i
  let p := s.port n
  let done : Bool := p.oldLen.isSome ∧ j = 0
  let s := (s.setPort { p with tags := kdel p.tags i, oldLen := if done then none else p.oldLen }).put (F.APORT_RD_RD n) j
  let s := if done then s.set (F.APORT_STATUS_LEN_PEND n) false else s
  s.showTag n

/-- The port moves data: it is STARTING, RUNNING or STOPPING. -/
def State.portMoves (s : State) (n : Nat) : Bool := 1 ≤ s.portState n ∧ s.portState n ≤ 3

/-- RD passes, without a RESYNC, the frames tagged before a media time (R356–R358): those of a port whose data has not begun. -/
def State.portSkip (s : State) (n m : Nat) : State :=
  iter (fun s => s.passRd n) ((s.port n).tags.filter fun t => t.2 < m).length s

/-- The output transport writes the frames of a block (R355): `src c` gives channel c's samples. A port whose clock is lost
gets nothing (R361). -/
def State.portWriteOut (s : State) (n block : Nat) (src : Nat → List Sample) : State :=
  if s.portIn n ∨ ¬ s.portMoves n then s
  else
    let rows := (List.range (s.portCh n)).map src
    let s := if s.portState n = Port.starting then s.portSkip n s.time.mt else s
    forEach (List.range s.bl) s fun i s =>
      let w := s.get (F.APORT_WR_WR n)
      let s := s.writeFrame n w (rows.map fun r => sampleWord (r.getD i 0))
      let p := s.port n
      ((s.setPort { p with tags := kput p.tags w (s.startOf block + i) }).showTag n).advanceWr n

/-- The mix has consumed a block of an input port: RD passes every frame tagged before the end of it (R357). -/
def State.portConsume (s : State) (n block : Nat) : State :=
  if ¬ s.portIn n ∨ s.portState n = Port.clkLost then s else s.portSkip n (s.startOf (block + 1))

/-! Frames. -/

/-- The media time that a port's pins present at its next frame boundary (DEDUCED, notes/assumptions/59.md). -/
def State.portNow (s : State) (n : Nat) : Nat := s.time.mt + min (s.port n).sub (s.bl - 1)

/-- The slot word of a sample on the pins, and the sample of a slot word (R352). -/
def toSlot (width : Nat) (x : Sample) : W32 :=
  if width = 16 then w32 (unsigned 16 (clampI (-32768) 32767 (roundEven 8 (sVal x))))
  else if width = 24 then x.setWidth 32
  else sampleWord x
/-- DEDUCED, notes/assumptions/60.md. -/
def fromSlot (width : Nat) (w : W32) : Sample :=
  if width = 16 then w.extractLsb' 0 16 ++ (0 : BitVec 8) else if width = 24 then w.extractLsb' 0 24 else wordSample w

/-- The bit clock, from the frame sync on, at which a slot of a pin begins (R350). -/
def State.slotStart (s : State) (n slot : Nat) : Nat :=
  let frame := s.rd (R.APORT_FRAME n)
  match s.get (F.APORT_CTRL_FORMAT n) with
  | 0 => slot * (frameBits frame / 2) + 1
  | 1 => slot * (frameBits frame / 2)
  | _ => slot * widthBits frame + s.get (F.APORT_FRAME_FS_DELAY n)

/-- The bits of a slot that go out in so many bit clocks: the others are not sent (R361). -/
def State.cutSlot (s : State) (n clocks slot : Nat) (w : W32) : W32 :=
  let width := widthBits (s.rd (R.APORT_FRAME n))
  let gone := width - min width (clocks - s.slotStart n slot)
  (w >>> gone) <<< gone

/-- A frame leaves the pins, as far as the bit clocks of a frame that is too short carry it (R352, R361). -/
def State.portPins (s : State) (n clocks : Nat) (ws : List W32) : State :=
  let frame := s.rd (R.APORT_FRAME n)
  let per := slotsPerPin (s.rd (R.APORT_CTRL n)) frame
  let slots := ws.map fun w => toSlot (widthBits frame) (wordSample w)
  let out := if s.portMaster (s.portLeader n) then slots else slots.zipIdx.map fun x => s.cutSlot n clocks (x.2 % per) x.1
  s.setPort { s.port n with sent := out }

/-- A zero frame, counted while the port rejoins. -/
def State.zeroFrame (s : State) (n clocks : Nat) : State :=
  let p := s.port n
  (s.setPort { p with rejoin := p.rejoin.map fun r => (r.1, r.2 + 1) }).portPins n clocks (List.replicate (s.portCh n) 0)

/-- A data frame leaves: a port that was rejoining has rejoined (R362, R365). -/
def State.dataFrame (s : State) (n clocks i : Nat) : State :=
  let s := s.portPins n clocks (s.readFrame n i)
  match (s.port n).rejoin with
  | none => s
  | some (lenChange, z) =>
    let s := s.setPort { s.port n with rejoin := none }
    if lenChange then (s.set (F.APORT_STATUS_LEN_PEND n) false).portResync n z true
    else (s.portResync n z false).post 0x0702 n [w32 z]

/-- An output port sends the frame due at a media time (R356). -/
def State.portSend (s : State) (n clocks m : Nat) : State :=
  let i := s.get (F.APORT_RD_RD n)
  let under := ((s.set (F.APORT_STATUS_UNDERRUN n)).bumpSat (F.APORT_XRUN_UNDER_CNT n)).zeroFrame n clocks
  match kget (s.port n).tags i with
  | none => under
  | some t =>
    if t = m then (s.dataFrame n clocks i).passRd n
    else if m < t then under
    else
      let skipped := ((s.port n).tags.filter fun x => x.2 < m).length
      let s := iter (fun s => s.passRd n) skipped s
      let j := s.get (F.APORT_RD_RD n)
      let s := if kget (s.port n).tags j = some m then (s.dataFrame n clocks j).passRd n else s.zeroFrame n clocks
      s.portResync n skipped false

/-- A slave frame whose bit-clock count is wrong (R361). -/
def State.frameBad (s : State) (n bitClocks : Nat) : Bool :=
  ¬ s.portMaster (s.portLeader n) ∧ bitClocks ≠ frameBits (s.rd (R.APORT_FRAME n))

/-- Note a frame boundary: the frame count, frame errors, and the run of good frames of a port whose clock was lost. -/
def State.frameNote (s : State) (n : Nat) (bad : Bool) : State :=
  let s := if bad then (s.set (F.APORT_STATUS_FRAME_ERR n)).bumpSat (F.APORT_GROUP_FRAME_ERR_CNT n) else s
  let p := s.port n
  s.setPort { p with
    sub := p.sub + 1, fsSeen := true,
    goodFrames := if s.portState n = Port.clkLost then (if bad then 0 else p.goodFrames + 1) else 0 }

/-- A stop has been reached at a media time. -/
def PortSt.stopping (p : PortSt) (m : Nat) : Bool := p.stopAt.any fun t => t ≤ m

/-- A frame outside the data: a silent-start frame, or a silent-stop one (R358, R359). -/
def State.edgeFrame (s : State) (n : Nat) (stopping : Bool) : State :=
  let p := s.port n
  if stopping then
    (s.setPort { p with postLeft := p.postLeft - 1 }).setPortState n Port.stopping
  else s.setPort { p with preLeft := p.preLeft - 1 }

/-- APORT_FRAME_BOUNDARY (R356, R358, R359, R361): an output port sends the frame due. A master's clocks do not run earlier
than PRE frames before its start. -/
def execAportFrameBoundary (n : Fin 8) (bitClocks : Nat) (s : State) : Host.Outcome State Fault Refusal :=
  .next (
    let st := s.portState n
    let m := s.portNow n
    if s.portIn n ∨ st = Port.stopped then s
    else
      let bad := s.frameBad n bitClocks
      let p := s.port n
      let s := s.frameNote n bad
      if st = Port.clkLost then s
      else if p.stopping m then (s.edgeFrame n true).zeroFrame n bitClocks
      else if st = Port.starting then
        if s.portMaster n ∧ m + s.get (F.APORT_EDGES_PRE n) < p.startAt then s else ((s.edgeFrame n false).zeroFrame n bitClocks).portSkip n (m + 1)
      else s.portSend n bitClocks m)

/-- APORT_INPUT_FRAME (R352, R355, R357): a captured frame is tagged and written, or dropped. -/
def execAportInputFrame (n : Fin 8) (slots : List W32) (bitClocks : Nat) (s : State) : Host.Outcome State Fault Refusal :=
  .next (
    let st := s.portState n
    let m := s.portNow n
    if ¬ s.portIn n ∨ st = Port.stopped then s
    else
      let bad := s.frameBad n bitClocks
      let p := s.port n
      let s := s.frameNote n bad
      if st = Port.clkLost then s
      else if p.stopping m then s.edgeFrame n true
      else if st = Port.starting then s.edgeFrame n false
      else if bad then s
      else
        let tag := m + (s.latency + 2) * s.bl
        let s := if p.rejoin.isSome then (s.setPort { s.port n with rejoin := none }).post 0x0702 n [0] else s
        if p.lastTag = some tag then s.portResync n 1 false
        else
          let gap := match p.lastTag with | some t => tag - t - 1 | none => 0
          let s := s.setPort { s.port n with lastTag := some tag }
          let s := if gap = 0 then s else s.portResync n gap false
          let w := s.get (F.APORT_WR_WR n)
          if (kget (s.port n).tags w).isSome then
            (s.set (F.APORT_STATUS_OVERRUN n)).bumpSat (F.APORT_XRUN_OVER_CNT n)
          else
            let width := widthBits (s.rd (R.APORT_FRAME n))
            let ws := (List.range (s.portCh n)).map fun c => sampleWord (fromSlot width (slots.getD c 0))
            let s := s.writeFrame n w ws
            let p := s.port n
            ((s.setPort { p with tags := kput p.tags w tag }).showTag n).advanceWr n)

/-- APORT_DATA_START (R358): the first data frame of a STARTING port. -/
def execAportDataStart (n : Fin 8) (s : State) : Host.Outcome State Fault Refusal :=
  .next (
    let p := s.port n
    let ready : Bool := if s.portMaster n then true else p.fsSeen ∧ p.preLeft = 0
    if s.portState n = Port.starting ∧ p.startAt ≤ s.portNow n ∧ ready ∧ ¬ p.stopping (s.portNow n) then
      (s.setPortState n Port.running).portSkip n (if s.portIn n then 0 else s.portNow n)
    else s)

/-- APORT_STOP_DONE (R359): the silent-stop frames are over. -/
def execAportStopDone (n : Fin 8) (s : State) : Host.Outcome State Fault Refusal :=
  .next (
    let p := s.port n
    if s.portState n ≠ Port.stopped ∧ p.postLeft = 0 ∧ p.stopping (s.portNow n) then s.portHalt n else s)

/-- A port loses its clock (R361). -/
def State.portLost (s : State) (n : Nat) : State :=
  if ¬ s.portMoves n then s
  else
    let s := (s.setPortState n Port.clkLost).set (F.APORT_STATUS_CLK_LOST_EVT n)
    let s := s.setPort { s.port n with goodFrames := 0 }
    let s := s.post 0x0701 n [lo32 s.blockNow]
    if s.portIn n then s else s.failType 2 (fun i => i / 32 = n) 2

/-- APORT_FS_TIMEOUT (R361, R366): a slave leader's loss is every member's. -/
def execAportFsTimeout (n : Fin 8) (s : State) : Host.Outcome State Fault Refusal :=
  .next (
    if s.portMaster n ∨ s.portState n = Port.stopped ∨ s.portLeader n ≠ n then s
    else if s.flag (F.APORT_GROUP_IN_GROUP n) then
      forEach (s.groupPorts (s.get (F.APORT_GROUP_GROUP n))) s fun m s => s.portLost m
    else s.portLost n)

/-- APORT_CLOCK_BACK (R362): four good frames; the buffer is discarded and the port rejoins by tag. -/
def execAportClockBack (n : Fin 8) (s : State) : Host.Outcome State Fault Refusal :=
  .next (
    let p := s.port n
    if s.portState n ≠ Port.clkLost ∨ p.goodFrames < 4 then s
    else
      let s := s.setPort { p.flush with rejoin := some (false, 0), goodFrames := 0 }
      let s := (s.put (F.APORT_RD_RD n) 0).put (F.APORT_WR_WR n) 0
      (s.showTag n).setPortState n (if p.startAt ≤ s.portNow n then Port.running else Port.starting))

/-- Every port that is not STOPPED discards its buffer and rejoins by tag, at the rebase of a rate change (R364). -/
def State.portsRebase (s : State) : State :=
  forEach (List.range 8) s fun n s =>
    let s := s.setPort { (s.port n).flush with sub := 0 }
    if s.portState n = Port.stopped then s
    else
      ((s.put (F.APORT_RD_RD n) 0).put (F.APORT_WR_WR n) 0).showTag n

/-- The nominal ACLK in Hz: 512 cycles a frame in the single-rate family, 256 in the double-rate one (R351, R363). -/
def aclkHz (code : Nat) : Nat := 512 * Config.singleHz code

/-- APORT_RATE_MEASURE (R363): 4,096 frames in a number of ACLK cycles. -/
def execAportRateMeasure (n : Fin 8) (aclkCycles : Nat) (s : State) : Host.Outcome State Fault Refusal :=
  .next (
    if s.portState n = Port.stopped ∨ aclkCycles = 0 then s
    else
      let r := 4096 * 64 * aclkHz s.rate / aclkCycles
      let p := s.port n
      let s := s.put (F.APORT_RATE_RATE n) r
      let s := s.setPort { p with measured := true }
      if ¬ p.measured then s.put (F.APORT_RATE_REF_REF n) r
      else
        let ref := s.get (F.APORT_RATE_REF_REF n)
        let thr := s.get (F.APORT_RATE_CFG_THR n)
        if thr ≠ 0 ∧ ref * thr < ((r : Int) - ref).natAbs * 1000000 then
          ((s.set (F.APORT_STATUS_RATE_CHG n)).post 0x0704 n [w32 r, w32 ref]).put (F.APORT_RATE_REF_REF n) r
        else s)

/-! Commands. -/

/-- The writable registers of a port in offset order, and all of them (R317). -/
def portImage (n : Nat) : List Nat :=
  [R.APORT_CTRL n, R.APORT_FRAME n, R.APORT_BUF n, R.APORT_LENGTH n, R.APORT_EDGES n, R.APORT_RATE_CFG n]
def portRegs (n : Nat) : List Nat := addrs (R.APORT_CTRL n) 16 4

/-- PORT.CONFIG (R351): the port must be STOPPED. -/
def cmdPortConfig : Cmd where
  opcode := 0x0701
  arg := fun k s => firstBad ([lenIs k 7, resv k 0 7] ++ portLimits k (Config.double s.rate))
  refuse := fun k s => if s.portState (k.n 0) ≠ Port.stopped then some St.state else none
  act := fun k _ s => ans ((s.setPort (s.port (k.n 0)).flush).writeImage (portImage (k.n 0)) (k.payload.drop 1))
def execPortConfig (k : Kcp) (s : State) : Host.Outcome State Fault Refusal := .next (kcpExec cmdPortConfig k s)

/-- PORT.START (R354, R358): the port leaves STOPPED at acceptance and its data begins at AT. -/
def cmdPortStart : Cmd where
  opcode := 0x0702
  at_ := .routing
  arg := fun k s => firstBad [lenIs k 1, resv k 0 7,
    (s.lengthOk (k.f 0 0 3) (s.get (F.APORT_LENGTH_LENGTH (k.f 0 0 3))), 0)]
  refuse := fun k s =>
    if s.portState (k.n 0) ≠ Port.stopped then some St.state
    else if s.owns (s.get (F.APORT_BUF_SLAB (k.n 0))) (portAgent (k.n 0)) then none else some St.notOwner
  act := fun k mt s =>
    let n := k.n 0
    let s := (s.put (F.APORT_WR_WR n) 0).put (F.APORT_RD_RD n) 0
    ans (s.portStartAt n mt)
def execPortStart (k : Kcp) (s : State) : Host.Outcome State Fault Refusal := .next (kcpExec cmdPortStart k s)

/-- PORT.STOP (R359): the last data frame is the one before AT. -/
def cmdPortStop : Cmd where
  opcode := 0x0703
  at_ := .routing
  arg := fun k _ => firstBad [lenIs k 1, resv k 0 7]
  act := fun k mt s => ans (s.portStopAt (k.n 0) mt true)
def execPortStop (k : Kcp) (s : State) : Host.Outcome State Fault Refusal := .next (kcpExec cmdPortStop k s)

/-- A port's group fields. -/
def State.setGroupOf (s : State) (n : Nat) (member leader : Bool) (g : Nat) : State :=
  ((s.set (F.APORT_GROUP_IN_GROUP n) member).set (F.APORT_GROUP_LEADER n) leader).put (F.APORT_GROUP_GROUP n) g

/-- The lowest member of each group is its leader (R366). -/
def State.leaders (s : State) : State :=
  forEach (List.range 8) s fun n s =>
    s.set (F.APORT_GROUP_LEADER n) (s.flag (F.APORT_GROUP_IN_GROUP n) && decide (s.portLeader n = n))

/-- PORT.SET_GROUP (R366). -/
def cmdPortSetGroup : Cmd where
  opcode := 0x0704
  arg := fun k s =>
    let ms := maskBits (k.f 0 0 8) 8
    let same := fun (f : Nat → Nat) => ms.all fun n => f n = f (ms.headD 0)
    firstBad [lenIs k 1, resv k 0 0x7FF,
      fld 0 0 (same (fun n => s.get (F.APORT_CTRL_MASTER n)) && same fun n => s.get (F.APORT_FRAME_FRAME_BITS n))]
  refuse := fun k s =>
    if (maskBits (k.f 0 0 8) 8).any fun n => s.portState n ≠ Port.stopped then some St.state else none
  act := fun k _ s =>
    let g := k.f 0 8 3
    let ms := maskBits (k.f 0 0 8) 8
    let s := forEach (s.groupPorts g) s fun n s => s.setGroupOf n false false 0
    let s := forEach ms s fun n s => s.setGroupOf n true false g
    ans s.leaders
def execPortSetGroup (k : Kcp) (s : State) : Host.Outcome State Fault Refusal := .next (kcpExec cmdPortSetGroup k s)

/-- PORT.SET_LENGTH (R354, R365). -/
def cmdPortSetLength : Cmd where
  opcode := 0x0705
  arg := fun k s => firstBad [lenIs k 2, resv k 0 7, fld 1 0 (s.lengthOk (k.f 0 0 3) (k.n 1))]
  act := fun k _ s =>
    let n := k.n 0
    if s.portState n = Port.stopped then ans (s.put (F.APORT_LENGTH_LENGTH n) (k.n 1))
    else ans ((s.put (F.APORT_LENGTH_STAGED n) (k.n 1)).set (F.APORT_STATUS_LEN_PEND n))
def execPortSetLength (k : Kcp) (s : State) : Host.Outcome State Fault Refusal := .next (kcpExec cmdPortSetLength k s)

/-- PORT.GET_STATUS (R317). -/
def cmdPortGetStatus : Cmd where
  opcode := 0x0706
  fault := true
  reads := true
  arg := fun k _ => firstBad [lenIs k 1, resv k 0 7]
  act := fun k _ s => ans s (s.image (portRegs (k.n 0)))
def execPortGetStatus (k : Kcp) (s : State) : Host.Outcome State Fault Refusal := .next (kcpExec cmdPortGetStatus k s)

end Sys2Proof.Machine
end

