-- ==== Sys2Proof/Machine/Ana.lean ====
section
/-! DEFINITION. The analogue current outputs (R368–R388): the code queue, slew limiter and ramps, range changes, underrun,
compliance, the idle load check, segment trim, and the ANA commands. -/

namespace Sys2Proof.Machine

/-- The channel is in DC mode (R371). -/
def State.anaDc (s : State) (n : Nat) : Bool := s.get (F.ANA_CTRL_MODE n) = 1

/-! The converter (R368, R369). -/

/-- The offset-binary value of a code (R369). -/
def anaOffset (code : Int) : Nat := (code + 131072).toNat

/-- The thermometer segments that are on, and what the ladder gets (R369). -/
def anaSegments (code : Int) : Nat := anaOffset code / 4096
def anaLadder (code : Int) : Nat := anaOffset code % 4096

/-- What the converter puts out, in 1/4 code step (R369, R384): the segments that are on, each of 4,096 code steps with its error and less
its trim, the ladder, and the fixed source of −I_FS (notes/assumptions/208.md). -/
def State.anaSteps (s : State) (n : Nat) : Int :=
  let c := s.chan n
  let seg := fun (i : Nat) => 4 * 4096 + Config.segmentError n i s.blockNow - c.trims.getD i 0
  ((List.range (anaSegments c.code)).map seg).sum + 4 * anaLadder c.code + Config.ladderError n (anaLadder c.code) s.blockNow - 4 * 131072

/-- I_FS of the range in force, in pA (R368). -/
def State.anaScale (s : State) (n : Nat) : Int := if s.get (F.ANA_CTRL_RANGE n) = 0 then 4000000000 else 1000000000

/-- Updates in 10 ms: 1,920 at 192 kHz (R381, R382). -/
def State.updates10 (s : State) : Nat := 128 * s.hz / (100 * s.bl)

/-- A raised cosine that has risen for k of n updates, in 2^−60. -/
def raised (k n : Nat) : Int := (Fx.unit - Fx.cosTurn (min k n) (2 * n)) / 2

/-- The test current in pA: +100 µA behind a raised cosine of 10 ms (R382). -/
def State.anaTest (s : State) (n : Nat) : Int :=
  nearest (100000000 * raised (s.chan n).test s.updates10) Fx.unit

/-- The compliance step's current in pA (R404 step 2, R406): six levels, each reached and left in 1 s and held for 200 ms (DESIGN CHOICE,
notes/assumptions/209.md). -/
def State.anaBench (s : State) (n : Nat) : Int :=
  let c := s.chan n
  let w := s.updates10
  match c.bench with
  | none => 0
  | some t =>
    let a := [25, -25, 50, -50, 100, -100].getD (t / (220 * w)) 0
    let r := t % (220 * w)
    let x := if r < 120 * w then raised r (100 * w) else raised (220 * w - r) (100 * w)
    let out := if c.benchOut = 0 then Fx.unit else raised c.benchOut w
    nearest (s.anaScale n * a * Fx.mul x out) (100 * Fx.unit)

/-- The switch is closed now: a range change opens it for 4 updates (R374, R378). -/
def State.anaDrives (s : State) (n : Nat) : Bool :=
  s.anaClosed n && ! (decide (s.anaState n = Ana.ramping) && (s.chan n).muting.isNone && decide ((s.chan n).settle ≠ 0))

/-- The current that a channel drives into its pin, in pA; with its switch open it drives none (R368, R369, R374, R382, R404). -/
def State.anaCurrent (s : State) (n : Nat) : Int :=
  if s.anaDrives n then nearest (s.anaSteps n * s.anaScale n) (4 * 131072) + s.anaTest n + s.anaBench n else 0

/-- The code a channel moves to in one update under the slew limiter (R372): from a code towards a target, with the updates
since the last slew tick; the new code and the new count. -/
def State.slew (s : State) (n : Nat) (code target : Int) (since : Nat) : Int × Nat :=
  let step : Int := s.get (F.ANA_SLEW_SLEW_STEP n)
  if step = 0 then (target, 0)
  else if since < s.get (F.ANA_SLEW_SLEW_DIV n) then (code, since + 1)
  else (code + clampI (-step) step (target - code), 0)

/-- The limiter sets the rate of a mute ramp: it is on and permits at most 1,024 code steps per update (R373). -/
def State.slewMutes (s : State) (n : Nat) : Bool :=
  let step := s.get (F.ANA_SLEW_SLEW_STEP n)
  step ≠ 0 ∧ step ≤ 1024 * (s.get (F.ANA_SLEW_SLEW_DIV n) + 1)

/-- One update of a mute ramp (R373). -/
def State.muteStep (s : State) (c : AnaSt) : AnaSt :=
  if ¬ c.fastMute ∧ s.slewMutes c.n then
    let (v, k) := s.slew c.n c.code 0 c.sinceTick
    { c with code := v, sinceTick := k }
  else { c with code := c.code + clampI (-1024) 1024 (0 - c.code) }

/-- A target under the ramp-in, a gain from 0 to 1 over 128 updates (R373, R378). -/
def rampInCode (k : Nat) (target : Int) : Int := if 128 ≤ k then target else roundEven 7 (target * k)

/-- An update of a channel that carries (R371, R372, R380). -/
def State.carryStep (s : State) (n : Nat) : State :=
  let c := s.chan n
  let limited : Bool := s.anaDc n ∧ s.get (F.ANA_SLEW_SLEW_STEP n) ≠ 0
  let drive := fun (s : State) (c : AnaSt) (target : Int) =>
    let c := if limited then { c with rampIn := 128 } else c
    let (v, k) := s.slew n c.code (rampInCode (c.rampIn + 1) target) c.sinceTick
    let c := { c with code := v, sinceTick := k, rampIn := min 128 (c.rampIn + 1), emptyRun := 0 }
    (s.setChan c).set (F.ANA_STATUS_SLEWING n) (s.get (F.ANA_SLEW_SLEW_STEP n) ≠ 0 ∧ v ≠ rampInCode c.rampIn target)
  if c.waits then s.setChan { c with queue := c.queue.drop 1 }
  else if s.anaDc n then drive s { c with queue := c.queue.drop 1 } (signed 18 (s.get (F.ANA_CTRL_DC_CODE n)))
  else match c.queue with
    | q :: rest => drive s { c with queue := rest } q
    | [] =>
      let s := s.setChan { c with emptyRun := c.emptyRun + 1 }
      if c.emptyRun = 0 then
        ((s.set (F.ANA_STATUS_UNDERRUN n)).bumpSat (F.ANA_COUNT_UNDER_CNT n)).post 0x0803 n [lo32 s.blockNow]
      else if 4 ≤ c.emptyRun then (s.setChan { s.chan n with emptyRun := 0 }).anaMute n .stay false
      else s

/-- The compliance step's current at an update: it ramps out where the step stops or the channel leaves IDLE (R404, R406). -/
def AnaSt.benchStep (c : AnaSt) (idle : Bool) (w : Nat) : AnaSt :=
  match c.bench with
  | none => c
  | some t =>
    if c.benchOut = 1 then { c with bench := none, benchOut := 0 }
    else if c.benchOut ≠ 0 then { c with benchOut := c.benchOut - 1 }
    else if idle then { c with bench := some (t + 1) }
    else { c with benchOut := w }

/-- The test currents at an update: that of the load check rises while an idle channel checks its load, and falls otherwise (R382, R404). -/
def State.testStep (s : State) (n : Nat) : State :=
  let c := s.chan n
  let idle : Bool := s.anaState n = Ana.idle
  let on : Bool := idle && s.flag (F.ANA_CTRL_LOADCHK_EN n) && c.bench.isNone
  s.setChan (AnaSt.benchStep { c with test := if on then min (c.test + 1) s.updates10 else c.test - 1 } idle s.updates10)

/-- ANA_UPDATE (R372, R381): one converter update; `outside` says that the pin voltage lies beyond ±2.7 V (DEDUCED, notes/assumptions/56.md). -/
def execAnaUpdate (n : Fin 64) (outside : Bool) (s : State) : Host.Outcome State Fault Refusal :=
  .next (
    let st := s.anaState n
    if ¬ s.anaClosed n then s
    else
      let c := s.chan n
      let outside := outside && s.anaDrives n
      let c := { c with outRun := if outside then c.outRun + 1 else 0, inRun := if outside then 0 else c.inRun + 1 }
      let s := (s.setChan c).testStep n
      let c := s.chan n
      if st = Ana.settling then s.setChan { c with settle := c.settle - 1, queue := c.queue.drop 1 }
      else if st = Ana.ramping then
        match c.muting with
        | some _ => s.setChan (s.muteStep { c with queue := c.queue.drop 1 })
        | none => s.setChan { c with settle := c.settle - 1, queue := c.queue.drop 1 }
      else if st = Ana.active then s.carryStep n
      else s)

/-- A zone output is carried to the channel (R217, R374). -/
def State.anaCarried (s : State) (n : Nat) : Bool := (s.zoneOnChan n).isSome

/-- What a channel does at the end of settling or of a sequence: it idles, or carries from the next block boundary (R374,
R376). -/
def State.anaEnter (s : State) (n : Nat) : State :=
  if s.anaDc n ∨ s.anaCarried n then (s.setChan { s.chan n with waits := true, code := 0 }).setAna n Ana.active
  else (s.setChan { s.chan n with waits := false, code := 0 }).setAna n Ana.idle

/-- ANA_SETTLE_DONE (R376 step 2). -/
def execAnaSettleDone (n : Fin 64) (s : State) : Host.Outcome State Fault Refusal :=
  .next (
    let c := s.chan n
    if s.anaState n = Ana.settling ∧ c.settle = 0 then
      (s.setChan { c with rampIn := if s.anaDc n then 128 else 0 }).anaEnter n
    else s)

/-- ANA_MUTE_RAMP_DONE (R373, R377–R380): the code is at zero. -/
def execAnaMuteRampDone (n : Fin 64) (s : State) : Host.Outcome State Fault Refusal :=
  .next (
    let c := s.chan n
    if s.anaState n ≠ Ana.ramping ∨ c.code ≠ 0 then s
    else match c.muting with
      | none => s
      | some .open => s.anaOpen n Ana.inert
      | some (.range r) =>
        let s := s.put (F.ANA_CTRL_RANGE n) r
        s.setChan { c with muting := none, settle := 4, waits := true, rampIn := 0, loadRun := 0 }
      | some .stay => s.setChan { c with muting := none, settle := 0, waits := true, rampIn := 0 })

/-! Interpolation (R370). -/

/-- A symmetric filter meets R370 at a sampling rate and a factor, at every whole number of Hz: the ripple of the passband, and the
images of the passband, 100 dB below it. -/
def interpolates (h : List Int) (hz f : Nat) : Bool :=
  let top := 47 * (if hz % 44100 = 0 then 44100 else 48000) / 100
  h = h.reverse ∧ h.length % 2 = 1 ∧ h.length ≤ 513 ∧
  ((List.range (top + 1)).all fun x =>
    (firGain h (hz * f) x).natAbs * 1000000 ≤ 2 ^ 23 * f * 1005773 ∧
    2 ^ 23 * f * 994260 ≤ (firGain h (hz * f) x).natAbs * 1000000) ∧
  (List.range (hz * f / 2 + 1)).all fun x =>
    ((List.range (f + 1)).all fun m => m = 0 ∨ top < ((x : Int) - (m * hz : Nat)).natAbs) ∨
    (firGain h (hz * f) x).natAbs * 100000 ≤ 2 ^ 23 * f * 994260 / 1000000

/-- A filter that meets R370 (DESIGN CHOICE, notes/assumptions/55.md). -/
def kaiserUp (f : Nat) : List Int :=
  let n := 60 * f
  (List.range (2 * n + 1)).map fun k =>
    let d : Int := (k : Int) - n
    let w := Fx.div (Fx.i0 (Fx.mul (Fx.ratio 21 2) (Fx.sqrt (Fx.unit - Fx.ratio (d * d) (n * n : Nat))))) (Fx.i0 (Fx.ratio 21 2))
    nearest (Fx.mul (Fx.sinc (Fx.ratio d f)) w * 2 ^ 23) Fx.unit

/-- The interpolation filter: the release's, which meets R370 (DESIGN CHOICE, notes/assumptions/55.md). -/
def upTaps (hz f : Nat) : List Int :=
  let h := Config.interpolation hz f
  if interpolates h hz f then h else kaiserUp f

/-- The interpolated value at an update of a block: `past` are the samples before it, newest first, and `xs` its own with those that
follow. The filter is centred on the update, which compensates its delay (R12, R370). -/
def interpolated (h past xs : List Int) (f u : Nat) : Int :=
  let half := (h.length - 1) / 2
  (h.zipIdx.map fun c =>
    let at_ : Int := (u + half : Nat) - (c.2 : Int)
    if at_ % f ≠ 0 then 0
    else if 0 ≤ at_ then c.1 * xs.getD (at_ / f).toNat 0 else c.1 * past.getD ((-at_) / f - 1).toNat 0).sum

/-- The 128 codes of a block of a zone's output, each rounded convergently to 18 bits (R370). -/
def State.anaCodes (s : State) (past xs : List Int) : List Int :=
  let f := 128 / s.bl
  let h := upTaps s.hz f
  (List.range 128).map fun u => clampI (-131072) 131071 (roundEven 29 (interpolated h past xs f u))

/-- A block boundary at a channel (R374, R376, R378, R380, R383): `xs` is the block of zone output carried to it, if one is, and `later`
the two that follow (DEDUCED, notes/assumptions/55.md). -/
def State.anaTick (s : State) (n : Nat) (xs : Option (List Int)) (later : List Int) : State :=
  let st := s.anaState n
  let s := match xs with
    | some xs =>
      let c := s.chan n
      let past := (xs.reverse ++ c.past).take 128
      if st = Ana.active ∨ st = Ana.idle ∨ st = Ana.ramping then
        s.setChan { c with queue := c.queue ++ s.anaCodes c.past (xs ++ later), past := past }
      else s.setChan { c with past := past }
    | none => s.setChan { s.chan n with past := [] }
  let c := s.chan n
  let has : Bool := xs.isSome
  if st = Ana.ramping ∧ c.muting = none ∧ c.settle = 0 then
    match c.nextRange with
    | some r =>
      let s := s.setChan { c with nextRange := none }
      if s.get (F.ANA_CTRL_RANGE n) = r then s else s.anaMute n (.range r) false
    | none =>
      if s.anaDc n ∨ has then (s.setChan { c with waits := false }).setAna n Ana.active
      else if s.anaCarried n then s
      else (s.setChan { c with waits := false, queue := [] }).setAna n Ana.idle
  else if st = Ana.active ∧ c.waits then
    if s.anaDc n ∨ has then s.setChan { c with waits := false } else s
  else if st = Ana.idle ∧ ¬ s.anaDc n ∧ has then
    (s.setChan { c with waits := false, rampIn := 0, loadRun := 0 }).setAna n Ana.active
  else if st = Ana.active ∧ ¬ s.anaDc n ∧ ¬ s.anaCarried n then
    (s.setChan { c with code := 0, queue := [], emptyRun := 0, loadRun := 0 }).setAna n Ana.idle
  else s

/-- The ANALOGUE mechanism's condition: a channel outside its window, or a load OPEN or SHORT (R381, R382, R418). -/
def State.anaFault (s : State) : Bool :=
  s.channels.any fun n => s.flag (F.ANA_STATUS_COMPL_NOW n) ∨ 2 ≤ s.get (F.ANA_STATUS_LOAD n)
def State.anaClear (s : State) : State := if s.anaFault then s else s.unraise Mech.analogue

/-- ANA_COMPLIANCE_DETECT (R381, R219). -/
def execAnaComplianceDetect (n : Fin 64) (s : State) : Host.Outcome State Fault Refusal :=
  .next (
    if ¬ s.anaClosed n ∨ (s.chan n).outRun < 64 ∨ s.flag (F.ANA_STATUS_COMPL_NOW n) then s
    else
      let s := ((s.set (F.ANA_STATUS_COMPL n)).set (F.ANA_STATUS_COMPL_NOW n)).bumpSat (F.ANA_COUNT_COMPL_CNT n)
      let s := s.post 0x0801 n [lo32 s.blockNow]
      (s.failType 3 (fun i => i = n) 4).raise Mech.analogue n 0 0 0)

/-- ANA_COMPLIANCE_CLEAR (R381). -/
def execAnaComplianceClear (n : Fin 64) (s : State) : Host.Outcome State Fault Refusal :=
  .next (
    if s.flag (F.ANA_STATUS_COMPL_NOW n) ∧ 1920 ≤ (s.chan n).inRun then
      (s.set (F.ANA_STATUS_COMPL_NOW n) false).anaClear
    else s)

/-- The class of a load in a range (R382): 1 OK, 2 OPEN, 3 SHORT. -/
def loadClass (range ohms : Nat) : Nat :=
  if ohms < 100 then 3 else if ohms ≤ (if range = 0 then 600 else 2400) then 1 else 2

/-- ANA_LOAD_WINDOW (R382): one 10 ms window of an idle channel, with the resistance measured. -/
def execAnaLoadWindow (n : Fin 64) (ohms : Nat) (s : State) : Host.Outcome State Fault Refusal :=
  .next (
    if s.anaState n ≠ Ana.idle ∨ ¬ s.flag (F.ANA_CTRL_LOADCHK_EN n) then s
    else
      let c := s.chan n
      let cls := loadClass (s.get (F.ANA_CTRL_RANGE n)) ohms
      let run := if cls = c.loadClass then c.loadRun + 1 else 1
      let s := s.setChan { c with loadClass := cls, loadRun := run }
      if run < 3 ∨ cls = s.get (F.ANA_STATUS_LOAD n) then s
      else
        let s := ((s.put (F.ANA_STATUS_LOAD n) cls).put (F.ANA_STATUS_LOAD_OHMS n) (min 4095 ohms)).set (F.ANA_STATUS_LOAD_EVT n)
        let s := s.post 0x0802 n [w32 cls, w32 (min 4095 ohms)]
        if 2 ≤ cls then s.raise Mech.analogue n 0 0 0 else s.anaClear)

/-! Trim (R384, R385). -/

/-- The next channel of a trim opens its switch, or the trim ends with its event. -/
def State.trimNext (s : State) : State :=
  match s.anaTrim with
  | none => s
  | some t =>
    match t.left with
    | n :: _ => s.setAna n Ana.trim
    | [] =>
      let m := fun (l : List Nat) => l.foldl (fun x n => x + 2 ^ n) 0
      ({ s with anaTrim := none }).post 0x0804 0xFFFF
        [lo32 (m t.done), hi32 (m t.done), lo32 (m t.limited), hi32 (m t.limited), w32 (min 64 t.aborted)]

/-- A channel's trim is given up; its switch closes at once at zero code where the channel is enabled (R385). -/
def State.trimGiveUp (s : State) (n : Nat) : State :=
  let was : Bool := s.anaState n = Ana.trim
  let s := s.trimAbort n
  if ¬ was then s
  else
    let s := if s.flag (F.ANA_CTRL_EN n) ∧ s.live ∧ ¬ s.standby then
        (s.setChan { s.chan n with settle := 0, code := 0, rampIn := if s.anaDc n then 128 else 0 }).anaEnter n
      else s.setAna n Ana.inert
    s.trimNext

/-- ANA_TRIM_CHANNEL_DONE (R384, R498): the segment errors measured, in 1/4 code step. -/
def execAnaTrimChannelDone (n : Fin 64) (errors : List Int) (s : State) : Host.Outcome State Fault Refusal :=
  .next (
    match s.anaTrim with
    | none => s
    | some t =>
      if t.left.head? ≠ some n.val then s
      else
        let limited : Bool := errors.any fun e => e < -128 ∨ 127 < e
        let c := s.chan n
        let new := errors.map (clampI (-128) 127)
        let drift := (new.zipIdx.map fun x => (x.1 - c.trims.getD x.2 0).natAbs).foldl max 0
        let s := s.setChan { c with trims := new, drift := drift }
        let s := if limited then s.set (F.ANA_STATUS_TRIM_LIMIT n) else s
        let t' : TrimRun := ⟨t.left.drop 1, t.done ++ [n.val], if limited then t.limited ++ [n.val] else t.limited, t.aborted⟩
        let s : State := { s with anaTrim := some t' }
        let due := s.age.trimDue.filter fun x => x ≠ n.val
        let s := if s.age.trimDue.contains n.val then
            State.set ({ s with age := { s.age with trimDue := due } }) F.AGE_STATUS_TRIM_DUE (due ≠ []) else s
        let s := if s.flag (F.ANA_CTRL_EN n) ∧ s.live ∧ ¬ s.standby then s.anaStart n else s.setAna n Ana.inert
        s.trimNext)

/-! Commands. -/

/-- The variant has no analogue outputs (R5, R292). -/
def noChan (_ : Kcp) (s : State) : Bool := s.variant.channels = 0

/-- The channel in word 0 is one that the variant has (R6). -/
def chanOk (k : Kcp) (s : State) : Bool × Nat := fld 0 0 (k.f 0 0 6 < s.variant.channels)

/-- ANA.CONFIG (R371). -/
def cmdAnaConfig : Cmd where
  opcode := 0x0801
  at_ := .routing
  absent := noChan
  arg := fun k s => firstBad [lenIs k 3, chanOk k s, resv k 0 0x3F, fld 1 28 (k.f 1 28 2 ≤ 1)]
def execAnaConfig (k : Kcp) (s : State) : Host.Outcome State Fault Refusal := .next (kcpExec cmdAnaConfig k s)

/-- What ANA.CONFIG does at its media time (R371, R373, R382). -/
def State.atAnaConfig (s : State) (p : List W32) : State :=
  let n := bits (p.getD 0 0) 0 6
  let wasDc := s.anaDc n
  let s := s.writeImage [R.ANA_CTRL n, R.ANA_SLEW n] (p.drop 1)
  let s := if s.flag (F.ANA_CTRL_LOADCHK_EN n) then s
    else ((s.put (F.ANA_STATUS_LOAD n) 0).setChan { s.chan n with loadRun := 0 }).anaClear
  let st := s.anaState n
  if wasDc ∧ ¬ s.anaDc n ∧ st = Ana.active then s.anaMute n .stay false
  else if ¬ wasDc ∧ s.anaDc n ∧ (st = Ana.idle ∨ st = Ana.active) then
    (s.setChan { s.chan n with queue := [], rampIn := 128, waits := false, emptyRun := 0 }).setAna n Ana.active
  else s

/-- ANA.ENABLE (R376, R377). -/
def cmdAnaEnable : Cmd where
  opcode := 0x0802
  at_ := .routing
  absent := noChan
  arg := fun k s => firstBad [lenIs k 1, chanOk k s, resv k 0 0x13F]
def execAnaEnable (k : Kcp) (s : State) : Host.Outcome State Fault Refusal := .next (kcpExec cmdAnaEnable k s)

/-- What ANA.ENABLE does at its media time (R376, R377, R379, R385). -/
def State.atAnaEnable (s : State) (p : List W32) : State :=
  let n := bits (p.getD 0 0) 0 6
  let en := bit (p.getD 0 0) 8
  let was := s.flag (F.ANA_CTRL_EN n)
  let st := s.anaState n
  let s := s.set (F.ANA_CTRL_EN n) en
  if en then
    if was then s
    else if st = Ana.trim then s.trimGiveUp n
    else if s.live ∧ ¬ s.standby ∧ st = Ana.inert then s.anaStart n
    else if s.live ∧ ¬ s.standby ∧ st = Ana.ramping ∧ (s.chan n).muting = some .open then
      s.setChan { s.chan n with muting := some .stay }
    else s
  else if st = Ana.railOff then (s.setAna n Ana.inert).set (F.ANA_STATUS_RAIL_LOW n) false
  else if st = Ana.ramping ∧ (s.chan n).muting = none then s.anaOpen n Ana.inert
  else s.anaMute n .open false

/-- ANA.SET_RANGE (R378, R379). -/
def cmdAnaSetRange : Cmd where
  opcode := 0x0803
  at_ := .routing
  absent := noChan
  arg := fun k s => firstBad [lenIs k 1, chanOk k s, resv k 0 0x13F]
def execAnaSetRange (k : Kcp) (s : State) : Host.Outcome State Fault Refusal := .next (kcpExec cmdAnaSetRange k s)

/-- What ANA.SET_RANGE does at its media time. -/
def State.atAnaRange (s : State) (p : List W32) : State :=
  let n := bits (p.getD 0 0) 0 6
  let r := bits (p.getD 0 0) 8 1
  let c := s.chan n
  if ¬ s.anaClosed n then s.put (F.ANA_CTRL_RANGE n) r
  else match c.muting with
    | some (.range _) => s.setChan { c with muting := some (.range r) }
    | some .open => s.put (F.ANA_CTRL_RANGE n) r
    | m =>
      if s.anaState n = Ana.ramping ∧ m = none then s.setChan { c with nextRange := some r }
      else if s.get (F.ANA_CTRL_RANGE n) = r then s
      else s.anaMute n (.range r) false

/-- The channels of a 64-bit mask. -/
def maskOf (k : Kcp) (w : Nat) : List Nat := maskBits (k.n64 w) 64

/-- ANA.TRIM (R385). -/
def cmdAnaTrim : Cmd where
  opcode := 0x0804
  kind := .bulk
  absent := noChan
  arg := fun k s => firstBad [lenIs k 2, fld 0 0 ((maskOf k 0).all fun n => n < s.variant.channels ∨ 32 ≤ n),
    fld 1 0 ((maskOf k 0).all fun n => n < s.variant.channels)]
  refuse := fun k s =>
    if s.anaTrim.isSome then some St.state
    else if (maskOf k 0).any (fun n =>
        s.flag (F.ANA_CTRL_EN n) && ! (s.dewOpen && decide (s.anaState n = Ana.idle))) then some St.state
    else none
  act := fun k _ s => ans { s with anaTrim := some ⟨maskOf k 0, [], [], 0⟩ }
  after := fun _ s => s.trimNext
def execAnaTrim (k : Kcp) (s : State) : Host.Outcome State Fault Refusal := .next (kcpExec cmdAnaTrim k s)

/-- ANA.GET_STATUS (R387). -/
def cmdAnaGetStatus : Cmd where
  opcode := 0x0805
  fault := true
  reads := true
  absent := noChan
  arg := fun k s => firstBad [lenIs k 1, chanOk k s, resv k 0 0x7F3F,
    fld 0 8 (1 ≤ k.f 0 8 7 ∧ k.f 0 0 6 + k.f 0 8 7 ≤ s.variant.channels)]
  act := fun k _ s => ans s (s.image (addrs (R.ANA_CTRL (k.f 0 0 6)) (4 * k.f 0 8 7) 4))
def execAnaGetStatus (k : Kcp) (s : State) : Host.Outcome State Fault Refusal := .next (kcpExec cmdAnaGetStatus k s)

end Sys2Proof.Machine
end

