-- ==== Sys2Proof/Machine/Supv.lean ====
section
/-! DEFINITION. Silent supervision (R389–R410): pilot checks, acoustic verification of paths, the Dew test, and the SUPV
commands. -/

namespace Sys2Proof.Machine

/-! The pilot check (R389–R393). -/

/-- The code of a check point in PILOT_FAULT (R410). -/
def pointCode : PilotPoint → Nat
  | .internal => 0 | .roleA => 1 | .roleB => 2

def State.pilotRun (s : State) (z : Nat) (p : PilotPoint) : PilotRun :=
  (s.supv.pilots.find? fun r => r.zone = z ∧ r.point = p).getD (.init z p)
def State.setPilotRun (s : State) (r : PilotRun) : State :=
  { s with supv := { s.supv with
    pilots := upsert (fun x => x.zone * 4 + pointCode x.point) r s.supv.pilots } }

/-- The role of a check point. -/
def pointRole : PilotPoint → Option Nat
  | .internal => none | .roleA => some 0 | .roleB => some 1

/-- The role under test in step 1b (R393, R404). -/
def State.underTest (s : State) (z : Nat) (p : PilotPoint) : Bool :=
  decide (s.dewStepOf z = some 1) && (pointRole p).any fun r => (s.sweptRoles z).contains r

/-- The samples by which a check point's windows are delayed (R390). -/
def State.pilotLag (s : State) (z : Nat) (p : PilotPoint) : Nat :=
  (match p with | .internal => 0 | .roleA => (s.returns z).lagA | .roleB => (s.returns z).lagB) * (s.hz / Config.singleHz s.rate)

/-- A window counts at a check point (R389, R393). -/
def State.windowCounts (s : State) (z : Nat) (p : PilotPoint) : Bool :=
  let zn := s.zone z
  let r := s.returns z
  s.flag F.SUPV_CTRL_PILOT_CHK ∧ s.flag (F.ZONE_CTRL_EN z) ∧ s.flag (F.ZONE_CTRL_PILOT_EN z) ∧ ¬ zn.draining ∧
    s.power ≠ .lull ∧ zn.pilotOn.over s.bl (s.time.mt - 4096 * (s.hz / Config.singleHz s.rate) - s.pilotLag z p) ∧
    s.time.rate.isNone ∧ s.supv.pilotFrom < s.time.mt ∧ ¬ s.underTest z p ∧
    (p = .internal ∨ (¬ s.standby ∧ (if p = .roleA then r.retA else r.retB) ≠ 0x3FFF))

/-- The lowest level of a present window, in 1/128 dB (R390). -/
def State.pilotFloor (s : State) (z : Nat) (p : PilotPoint) : Int :=
  let r := s.returns z
  let cal := match p with | .internal => 0 | .roleA => r.calA | .roleB => r.calB
  (s.zone z).pilotLevel + cal - 64 * (s.get F.SUPV_CTRL_MARGIN : Int)

/-- A zone's bit in SUPV_PILOT_FAULT and the INTERNAL flag follow its check points (R391, R392). -/
def State.pilotShow (s : State) (z : Nat) : State :=
  let any := s.supv.pilots.any fun r => r.zone = z ∧ r.fault
  let a := R.SUPV_PILOT_FAULT (z / 32)
  let s := s.wr a (setBits (s.rd a) (z % 32) 1 (b2n any))
  s.set F.SUPV_STATUS_INTERNAL (s.supv.pilots.any fun r => r.point = .internal ∧ r.fault)

/-- A check point is declared in fault (R391, R392). -/
def State.pilotDeclare (s : State) (z : Nat) (p : PilotPoint) (level : Int) : State :=
  let s := (s.pilotShow z).bumpSat F.SUPV_COUNT_PILOT_CNT
  let s := s.post 0x0D01 z [w32 (pointCode p), w32 (unsigned 16 level)]
  match p with
  | .internal => s.raise Mech.intPilot z 0 0 0
  | .roleA => (if s.flag (F.ZONE_CTRL_FB_ON_PILOT z) then s.failRole z 0 5 else s).raise Mech.pilot z 1 0 0
  | .roleB => (if s.flag (F.ZONE_CTRL_FB_ON_PILOT z) then s.failRole z 1 5 else s).raise Mech.pilot z 2 0 0

/-- A check point's fault clears (R391, R418). -/
def State.pilotClear (s : State) (z : Nat) (p : PilotPoint) : State :=
  let s := (s.pilotShow z).post 0x0D02 z [w32 (pointCode p)]
  let s := if s.supv.pilots.any (fun r => decide (r.point = .internal) && r.fault) then s else s.unraise Mech.intPilot
  if s.supv.pilots.any (fun r => decide (r.point ≠ .internal) && r.fault) then s else s.unraise Mech.pilot

/-- PILOT_WINDOW_END (R390, R391): a window at a check point, with the level measured in 1/128 dBFS. -/
def execPilotWindowEnd (zone : Nat) (point : PilotPoint) (level : Int) (s : State) : Host.Outcome State Fault Refusal :=
  .next (
    if s.variant.zones ≤ zone ∨ ¬ s.running ∨ ¬ s.windowCounts zone point then s
    else
      let r := { s.pilotRun zone point with level := level }
      if s.pilotFloor zone point ≤ level then
        let r := { r with present := r.present + 1, missing := 0 }
        if r.fault ∧ 8 ≤ r.present then (s.setPilotRun { r with fault := false }).pilotClear zone point
        else s.setPilotRun r
      else
        let r := { r with missing := r.missing + 1, present := 0 }
        if ¬ r.fault ∧ 4 ≤ r.missing then (s.setPilotRun { r with fault := true }).pilotDeclare zone point level
        else s.setPilotRun r)

/-! Acoustic verification (R394–R400). -/

/-- Samples of MT′ in a millisecond. -/
def State.msPrime (s : State) : Nat := Config.singleHz s.rate / 1000

/-- A number of hops covers 60 s of excited time. -/
def State.minuteOfHops (s : State) (n : Nat) : Bool := 60 * Config.singleHz s.rate ≤ n * 1024

/-- A path's metrics against its baseline (R398): energy and tilt; the delay's shift; the polarity. -/
def Path.relEnergy (p : Path) : Int := match p.baseline with | some b => p.energy - b.1 | none => p.energy
def Path.relTilt (p : Path) : Int := match p.baseline with | some b => p.tilt - b.2.2.2 | none => p.tilt
def Path.shift (p : Path) : Nat := match p.baseline with | some b => ((p.delay : Int) - b.2.1).natAbs | none => 0
def Path.flipped (p : Path) : Bool := match p.baseline with | some b => p.inverted ≠ b.2.2.1 | none => p.inverted

/-- The estimate becomes the baseline (R399). -/
def Path.rebase (p : Path) : Path :=
  { p with
    baseline := some (p.energy, p.delay, p.inverted, p.tilt), wantBaseline := false, lowRun := 0, changeRun := 0 }

/-- An auxiliary bus is routed to a monitor input (R394). -/
def State.avuRouted (s : State) (input : Nat) : Bool :=
  s.mix.aux.any fun a => a.2.any fun w => destType w = 5 ∧ destIndex w = input

/-- The path is estimated (R394). -/
def State.avuRuns (s : State) (p : Path) : Bool :=
  s.flag F.SUPV_CTRL_AVU_EN ∧ p.en ∧ s.flag (F.ZONE_CTRL_EN p.zone) ∧ s.avuRouted p.input ∧ s.power ≠ .lull

/-- The baseline pass ends and reports (R399). -/
def State.baselineEnd (s : State) : State :=
  let left := (s.supv.paths.filter fun p => p.wantBaseline).length
  let s := s.post 0x0D06 0xFFFF [w32 s.supv.baselined, w32 left]
  { s with supv := { s.supv with
    baselining := false, baselined := 0,
    paths := s.supv.paths.map fun p => { p with wantBaseline := false } } }

/-- The pass is over once every named path has its baseline. -/
def State.baselineCheck (s : State) : State :=
  if s.supv.baselining ∧ ¬ s.supv.paths.any (fun p => p.wantBaseline) then s.baselineEnd else s

/-- AVU_HOP (R395, R399, R400): a hop of one path, with the reference level in 1/128 dBFS and the estimate that the unit
reports. -/
def execAvuHop (path : Nat) (refLevel : Int) (confidence : Nat) (energy : Int) (delay : Nat) (inverted : Bool) (tilt : Int)
    (s : State) : Host.Outcome State Fault Refusal :=
  .next (
    let p := s.path path
    if s.variant.paths ≤ path ∨ ¬ s.avuRuns p ∨ ¬ s.running then s
    else
      let excited : Bool := -8960 < refLevel
      let p := { p with confidence := min 255 confidence }
      let p := if excited then { p with energy := energy, delay := delay, inverted := inverted, tilt := tilt } else p
      let e := p.relEnergy
      let has := p.baseline.isSome
      let low : Bool := has ∧ e < -768 ∧ 64 ≤ p.confidence
      let good : Bool := has ∧ -384 ≤ e ∧ e ≤ 384
      let moved : Bool := has ∧ (s.msPrime < p.shift ∨ p.flipped)
      let p := if excited then
          { p with
            lowRun := if low then p.lowRun + 1 else 0, goodRun := if good then p.goodRun + 1 else 0,
            changeRun := if moved then p.changeRun + 1 else 0 }
        else p
      if p.wantBaseline ∧ 128 ≤ p.confidence then
        let s := s.setPath p.rebase
        ({ s with supv := { s.supv with baselined := s.supv.baselined + 1 } }).baselineCheck
      else s.setPath p)

/-- A path's bit in SUPV_PATH_FAULT. -/
def State.pathShow (s : State) (n : Nat) (on : Bool) : State :=
  let a := R.SUPV_PATH_FAULT (n / 32)
  s.wr a (setBits (s.rd a) (n % 32) 1 (b2n on))

/-- AVU_PATH_FAULT (R400). -/
def execAvuPathFault (path : Nat) (s : State) : Host.Outcome State Fault Refusal :=
  .next (
    let p := s.path path
    if p.fault ∨ ¬ s.minuteOfHops p.lowRun ∨ ¬ p.en then s
    else
      let s := ((s.setPath { p with fault := true, goodRun := 0 }).pathShow path true).bumpSat F.SUPV_COUNT_PATH_CNT
      let s := s.post 0x0D03 path [w32 (unsigned 16 p.relEnergy), w32 (p.zone + p.input * 256)]
      s.raise Mech.acoustic path 0 0 0)

/-- AVU_PATH_OK (R400). -/
def execAvuPathOk (path : Nat) (s : State) : Host.Outcome State Fault Refusal :=
  .next (
    let p := s.path path
    if ¬ p.fault ∨ ¬ s.minuteOfHops p.goodRun then s
    else
      let s := (s.setPath { p with fault := false, lowRun := 0 }).pathShow path false
      let s := s.post 0x0D04 path [w32 (unsigned 16 p.relEnergy), w32 (p.zone + p.input * 256)]
      if s.supv.paths.any fun p => p.fault then s else s.unraise Mech.acoustic)

/-- AVU_PATH_CHANGE (R400): no fault, reported once for each minute that it persists. -/
def execAvuPathChange (path : Nat) (s : State) : Host.Outcome State Fault Refusal :=
  .next (
    let p := s.path path
    if ¬ s.minuteOfHops p.changeRun ∨ ¬ p.en then s
    else (s.setPath { p with changeRun := 0 }).post 0x0D05 path
      [w32 (b2n (decide (s.msPrime < p.shift)) + 2 * b2n p.flipped), w32 p.delay])

/-- BASELINE_TIMEOUT (R399): 120 s are over. -/
def execBaselineTimeout (s : State) : Host.Outcome State Fault Refusal :=
  .next (if s.supv.baselining then s.baselineEnd else s)

/-! The Dew test (R402–R408). -/

/-- The enable bit of each step: 1a and 1b share one (R409). -/
def dewBit (step : Nat) : Nat := step - 1

/-- The fallback channels of a zone (R404). -/
def State.fallbacks (s : State) (z : Nat) : List Nat :=
  let zn := s.zone z
  ([2, 3].filterMap fun r => zn.slotOf r).filterMap fun i =>
    let w := zn.dests.getD i 0
    if destType w = 3 then some (destIndex w) else none

/-- The enabled paths of a zone. -/
def State.pathsOf (s : State) (z : Nat) : List Path := s.supv.paths.filter fun p => p.zone = z ∧ p.en

/-- A step is enabled and its precondition holds (R404, R405, R409). -/
def State.dewEnabled (s : State) (d : DewZone) (step : Nat) : Bool :=
  Nat.testBit s.supv.dewSteps (dewBit step) ∧
    (step < 4 ∨ 0 < s.variant.paths) ∧
    (step ≠ 5 ∨ d.res.getD 4 0 = 1 ∨ d.res.getD 4 0 = 2)

/-- Pass over steps that are not enabled, recording SKIPPED; the fuel is the number of steps. -/
def State.dewSkip (s : State) : Nat → DewZone → DewZone
  | 0, d => d
  | n + 1, d =>
    if d.step < 6 ∧ ¬ s.dewEnabled d d.step then
      s.dewSkip n { d with res := d.res.set d.step 3, step := d.step + 1 }
    else d

/-- A zone begins a step: a sweep starts with a window (DESIGN CHOICE, notes/assumptions/209.md), step 3 queues the trim of its idle fallback channels, one at a time across the device in ascending
order (R403, R404). -/
def State.dewBegin (s : State) (d : DewZone) : State :=
  let d := s.dewSkip 6 d
  let s := s.setDewZone d
  if d.step = 6 then s.bump F.SUPV_DEW_STATUS_DONE
  else if d.step ≤ 1 then
    let n := 4096 * (s.hz / Config.singleHz s.rate)
    s.setDewZone { d with since := (s.startOf s.commit + n - 1) / n * n }
  else if d.step = 2 ∧ ¬ d.held then
    forEach ((s.fallbacks d.zone).filter fun n => s.anaState n = Ana.idle) s fun n s =>
      s.setChan { s.chan n with bench := some 0, benchOut := 0 }
  else if d.step = 3 ∧ ¬ d.held then
    let cs := (s.fallbacks d.zone).filter fun n => s.anaState n = Ana.idle
    if cs = [] then s
    else match s.anaTrim with
      | none => ({ s with anaTrim := some ⟨isort (fun a b => a ≤ b) cs, [], [], 0⟩ }).trimNext
      | some t =>
        { s with anaTrim := some { t with
            left := match t.left with
              | [] => isort (fun a b => a ≤ b) cs
              | x :: r => x :: isort (fun a b => a ≤ b) (r ++ cs) } }
  else s

/-- A zone's test stops for sound in the zone (R406). -/
def State.dewStop (s : State) (z : Nat) (count : Bool) : State :=
  let d := s.dewZone z
  let s := s.setDewZone { d with held := true, aborts := if count then min 255 (d.aborts + 1) else d.aborts }
  let s := forEach (s.fallbacks z) s fun n s =>
    let c := s.chan n
    if c.bench.isSome ∧ c.benchOut = 0 then s.setChan { c with benchOut := s.updates10 } else s
  if d.step = 3 then forEach (s.fallbacks z) s fun n s => s.trimGiveUp n else s

/-- Zones under test whose hold class has become 0 to 7 stop (R406), at a block tick. -/
def State.dewYield (s : State) : State :=
  if ¬ s.dewOpen then s
  else forEach s.supv.dew s fun d s =>
    if d.selected ∧ d.step < 6 ∧ ¬ d.held ∧ (s.holdClass d.zone).any (fun c => c ≤ 7) then s.dewStop d.zone true else s

/-- Samples of MT in a number of minutes (R402). -/
def State.minutes (s : State) (m : Nat) : Nat := m * 60 * s.hz

/-- The schedule after a window: the next one, or none (R402). -/
def State.dewAdvance (s : State) : State :=
  let next := s.rd64 R.SUPV_DEW_NEXT_LO R.SUPV_DEW_NEXT_HI
  let per := s.get F.SUPV_DEW_CTRL_PERIOD
  if per = 0 then (s.set F.SUPV_DEW_CTRL_EN false).put F.SUPV_DEW_STATUS_STATE 0
  else (s.wr64 R.SUPV_DEW_NEXT_LO R.SUPV_DEW_NEXT_HI (next + s.minutes per)).put F.SUPV_DEW_STATUS_STATE
    (b2n (s.flag F.SUPV_DEW_CTRL_EN))

/-- The window ends (R407): zones that still run stop, their unfinished steps record INCOMPLETE, and DEW_DONE follows. -/
def State.dewClose (s : State) : State :=
  if ¬ s.dewOpen then s
  else
    let s := forEach s.supv.dew s fun d s => if d.selected ∧ d.step < 6 ∧ ¬ d.held then s.dewStop d.zone false else s
    let fin := fun (d : DewZone) =>
      if ¬ d.selected then d
      else { d with
        held := false, step := 6, endMt := s.time.mt
        res := d.res.zipIdx.map fun x => if d.step ≤ x.2 then 4 else x.1 }
    let s := { s with supv := { s.supv with dew := s.supv.dew.map fin } }
    let sel := s.supv.dew.filter fun d => d.selected
    let cnt := fun (p : Nat → Bool) (all : Bool) =>
      (sel.filter fun (d : DewZone) => if all then d.res.all p else d.res.any p).length
    let s := s.set F.SUPV_STATUS_DEW_ACTIVE false
    let s := s.dewAdvance
    s.post 0x0D08 0xFFFF [w32 (cnt (fun r => r = 1 ∨ r = 3) true), w32 (cnt (fun r => r = 2) false),
      w32 (cnt (fun r => r = 4) false)]

/-- The zones of the selected groups that are enabled (R403). -/
def State.dewZones (s : State) (any : Bool) : List Nat :=
  (List.range s.variant.zones).filter fun z =>
    (any ∨ s.flag (F.ZONE_CTRL_EN z)) ∧
      (List.range s.variant.groups).any fun g => s.supv.dewGroups.getLsbD g ∧ (s.group g).members.getLsbD z

/-- DEW_WINDOW_OPEN (R402, R403): in RUN the window opens; elsewhere it is skipped. -/
def execDewWindowOpen (s : State) : Host.Outcome State Fault Refusal :=
  .next (
    let next := s.rd64 R.SUPV_DEW_NEXT_LO R.SUPV_DEW_NEXT_HI
    if ¬ s.flag F.SUPV_DEW_CTRL_EN ∨ s.dewOpen ∨ s.time.mt < next then s
    else if s.power ≠ .run then
      let s := forEach (s.dewZones true) s fun z s =>
        s.setDewZone { DewZone.init z with endMt := (s.dewZone z).endMt }
      s.dewAdvance
    else
      let zs := s.dewZones false
      let s := { s with supv := { s.supv with dew := s.supv.dew.map fun (d : DewZone) => { d with selected := false } } }
      let s := (s.set F.SUPV_STATUS_DEW_ACTIVE).put F.SUPV_DEW_STATUS_STATE 2
      let s := (s.put F.SUPV_DEW_STATUS_SELECTED zs.length).put F.SUPV_DEW_STATUS_DONE 0
      let s := s.post 0x0D07 0xFFFF [w32 zs.length]
      forEach zs s fun z s =>
        let loud := (s.holdClass z).any fun c => c ≤ 7
        s.dewBegin { DewZone.init z with selected := true, held := loud, endMt := (s.dewZone z).endMt })

/-- Step 5 of a zone (R404): each of its paths against its baseline. -/
def State.dewBaseline (s : State) (d : DewZone) : State × DewZone :=
  let ps := s.pathsOf d.zone
  let near := fun (p : Path) => decide (p.relEnergy.natAbs ≤ 384 ∧ p.shift ≤ s.msPrime) && ! p.flipped
  let bad := ps.filter fun p => p.baseline.isSome ∧ ¬ near p
  let take := fun (p : Path) => p.baseline.isNone ∨ (s.flag F.SUPV_CTRL_REBASE ∧ near p)
  let re := ps.filter fun p => p.baseline.isSome ∧ take p
  let worst := (ps.filter fun p => p.baseline.isSome).foldl
    (fun (w : Option Path) p => match w with
      | none => some p
      | some q => if q.relEnergy.natAbs < p.relEnergy.natAbs then some p else some q) none
  let d := { d with
    tested := min 255 ps.length, rebased := min 255 re.length, flagged := min 255 bad.length,
    worstPath := (worst.map Path.n).getD 0xFFFF, worstDe := (worst.map Path.relEnergy).getD 0,
    res := d.res.set 5 (if ps = [] then 3 else if bad = [] then 1 else 2) }
  (forEach (ps.filter fun p => take p) s fun p s => s.setPath p.rebase, d)

/-- The result of a step that a zone has completed, entered in its record (R404, R408). -/
def State.dewRecord (s : State) (d : DewZone) (m : DewMeasure) : State × DewZone :=
  let r := if m.skipped then 3 else if m.flag then 2 else 1
  let d' := { d with res := d.res.set d.step r }
  if d.step = 5 then s.dewBaseline d
  else if d.step = 4 then
    let ps := s.pathsOf d.zone
    (s, { d with res := d.res.set 4 (if ps = [] then 3 else if ps.all (fun p => decide (128 ≤ p.confidence)) then 1 else 2) })
  else if m.skipped then (s, d')
  else if d.step ≤ 1 then
    (s, if m.margin < d.margin then { d' with margin := m.margin, weakBin := m.weakBin } else d')
  else if d.step = 2 then
    (s, if m.headroom < d.headroom then { d' with headroom := m.headroom, ohms := min 4095 m.ohms } else d')
  else (s, { d' with trimErr := min 255 m.trimErr })

/-- DEW_STEP_DONE (R404). -/
def execDewStepDone (zone : Nat) (m : DewMeasure) (s : State) : Host.Outcome State Fault Refusal :=
  .next (
    let d := s.dewZone zone
    if ¬ s.dewOpen ∨ ¬ d.selected ∨ d.held ∨ 6 ≤ d.step then s
    else
      let (s, d) := s.dewRecord d m
      let s := if d.step = 2 then forEach (s.fallbacks zone) s fun n s => s.setChan { s.chan n with bench := none, benchOut := 0 } else s
      s.dewBegin { d with step := d.step + 1 })

/-- DEW_RESTART (R406): the interrupted step begins again. -/
def execDewRestart (zone : Nat) (s : State) : Host.Outcome State Fault Refusal :=
  .next (
    let d := s.dewZone zone
    if ¬ s.dewOpen ∨ ¬ d.selected ∨ ¬ d.held ∨ 6 ≤ d.step ∨ (s.holdClass zone).any (fun c => c ≤ 7) then s
    else s.dewBegin { d with held := false })

/-- DEW_WINDOW_CLOSE (R407). -/
def execDewWindowClose (s : State) : Host.Outcome State Fault Refusal := .next s.dewClose

/-! Commands. -/

/-- A monitor return: a source from 8,192 to 9,727, or none (R389, R409). -/
def returnOk (n : Nat) : Bool := n = 0x3FFF ∨ (8192 ≤ n ∧ n ≤ 9727)

/-- SUPV.SET_PILOT (R409). -/
def cmdSupvSetPilot : Cmd where
  opcode := 0x0D01
  arg := fun k s =>
    if k.bit 0 8 then firstBad [lenIs k 2, resv k 0 0x1FF]
    else firstBad [lenIs k 6, resv k 0 0x1FF, fld 0 0 (k.f 0 0 8 < s.variant.zones),
      fld 1 0 (returnOk (k.f 1 0 14)), resv k 1 0x3FFF, resv k 2 0x3FFF,
      fld 3 0 (returnOk (k.f 3 0 14)), resv k 3 0x3FFF, resv k 4 0x3FFF]
  act := fun k _ s =>
    if k.bit 0 8 then ans (s.writeImage [R.SUPV_CTRL] [k.w 1])
    else
      let z := k.f 0 0 8
      let s := s.setReturns ⟨z, k.n 1, k.n 2, k.n 3, k.n 4, k.s16 5 0, k.s16 5 16⟩
      ans { s with supv := { s.supv with pilots := s.supv.pilots.map fun r =>
        if r.zone = z ∧ r.point ≠ .internal then { r with missing := 0, present := 0 } else r } }
def execSupvSetPilot (k : Kcp) (s : State) : Host.Outcome State Fault Refusal := .next (kcpExec cmdSupvSetPilot k s)

/-- The acoustic-verification commands do not exist on a variant without the unit (R409). -/
def noAvu (_ : Kcp) (s : State) : Bool := s.variant.paths = 0

/-- SUPV.SET_PATH (R394, R409). -/
def cmdSupvSetPath : Cmd where
  opcode := 0x0D02
  absent := noAvu
  arg := fun k s => firstBad [lenIs k 1, fld 0 0 (k.f 0 0 10 < s.variant.paths), resv k 0 0xBFFF03FF,
    fld 0 16 (k.f 0 16 8 < s.variant.zones), fld 0 24 (k.f 0 24 6 < s.variant.monitors)]
  act := fun k _ s =>
    let p := s.path (k.f 0 0 10)
    if k.bit 0 31 then
      let same : Bool := p.zone = k.f 0 16 8 ∧ p.input = k.f 0 24 6
      let q := { Path.init p.n with en := true, zone := k.f 0 16 8, input := k.f 0 24 6 }
      ans (s.setPath (if same then { p with en := true } else { q with baseline := p.baseline }))
    else
      let s := (s.setPath { p with en := false, fault := false, lowRun := 0, goodRun := 0, changeRun := 0 }).pathShow p.n false
      ans (if s.supv.paths.any fun p => p.fault then s else if p.fault then s.unraise Mech.acoustic else s)
def execSupvSetPath (k : Kcp) (s : State) : Host.Outcome State Fault Refusal := .next (kcpExec cmdSupvSetPath k s)

/-- SUPV.BASELINE (R399) (DEDUCED, notes/assumptions/61.md). -/
def cmdSupvBaseline : Cmd where
  opcode := 0x0D03
  kind := .bulk
  idle := false
  absent := noAvu
  arg := fun k s => firstBad [lenIs k 1, resv k 0 0x07FF03FF, fld 0 0 (k.f 0 0 10 < s.variant.paths),
    fld 0 16 (1 ≤ k.f 0 16 11 ∧ k.f 0 0 10 + k.f 0 16 11 ≤ s.variant.paths)]
  act := fun k _ s =>
    let s := forEach (List.range (k.f 0 16 11)) s fun i s => s.setPath { s.path (k.f 0 0 10 + i) with wantBaseline := true }
    ans { s with supv := { s.supv with baselining := true } }
def execSupvBaseline (k : Kcp) (s : State) : Host.Outcome State Fault Refusal := .next (kcpExec cmdSupvBaseline k s)

/-- The probe of a zone is off (R397). -/
def State.probeOff (s : State) (z : Nat) : Bool :=
  ¬ s.flag F.SUPV_CTRL_PROBE_EN ∨ ¬ s.flag (F.ZONE_CTRL_EN z) ∨ (s.holdClass z).any (fun c => c ≤ 2) ∨ s.power = .lull

/-- The two words of a path (R398, R409). -/
def State.pathWords (s : State) (n : Nat) : List W32 :=
  let p := s.path n
  let e := if p.baseline.isNone then 0x8000 else unsigned 16 p.relEnergy
  [w32 (p.delay % 65536 * 65536 + e),
   w32 (b2n p.en * 2 ^ 28 + b2n (s.probeOff p.zone) * 2 ^ 27 + b2n p.baseline.isNone * 2 ^ 26 + b2n p.fault * 2 ^ 25 +
    b2n p.flipped * 2 ^ 24 + p.confidence * 65536 + unsigned 16 p.relTilt)]

/-- SUPV.GET_PATHS (R398, R409). -/
def cmdSupvGetPaths : Cmd where
  opcode := 0x0D04
  fault := true
  reads := true
  absent := noAvu
  arg := fun k s => firstBad [lenIs k 1, resv k 0 0x07FF03FF, fld 0 0 (k.f 0 0 10 < s.variant.paths),
    fld 0 16 (1 ≤ k.f 0 16 11 ∧ k.f 0 16 11 ≤ 128 ∧ k.f 0 0 10 + k.f 0 16 11 ≤ s.variant.paths)]
  act := fun k _ s => ans s ((List.range (k.f 0 16 11)).flatMap fun i => s.pathWords (k.f 0 0 10 + i))
def execSupvGetPaths (k : Kcp) (s : State) : Host.Outcome State Fault Refusal := .next (kcpExec cmdSupvGetPaths k s)

/-- The first window of a schedule that has not ended (R402). -/
def State.firstWindow (s : State) (start duration period : Nat) : Nat :=
  let len := s.minutes duration
  let per := s.minutes period
  if s.time.mt < start + len ∨ per = 0 then start
  else start + ((s.time.mt - start - len) / per + 1) * per

/-- SUPV.SET_DEW (R6, R402, R407): its groups are those of the variant. -/
def cmdSupvSetDew : Cmd where
  opcode := 0x0D05
  arg := fun k s => firstBad [lenIs k 6, resv k 0 0x1F01, fld 4 0 (k.n 4 < 2 ^ min 32 s.variant.groups),
    fld 5 0 (k.n 5 < 2 ^ (s.variant.groups - 32)),
    fld 1 0 (¬ (k.f 3 0 16 = 0 ∧ k.n64 1 + s.minutes (k.f 3 16 11) ≤ s.time.mt)), resv k 3 0x07FFFFFF,
    fld 3 16 (1 ≤ k.f 3 16 11 ∧ k.f 3 16 11 ≤ 1440)]
  act := fun k _ s =>
    let s := s.dewClose
    let en := k.bit 0 0
    let s := ((s.set F.SUPV_DEW_CTRL_EN en).put F.SUPV_DEW_CTRL_DURATION (k.f 3 16 11)).put F.SUPV_DEW_CTRL_PERIOD (k.f 3 0 16)
    let s := s.wr64 R.SUPV_DEW_NEXT_LO R.SUPV_DEW_NEXT_HI (s.firstWindow (k.n64 1) (k.f 3 16 11) (k.f 3 0 16))
    let s := s.put F.SUPV_DEW_STATUS_STATE (b2n en)
    ans { s with supv := { s.supv with
      dewSteps := k.f 0 8 5, dewGroups := BitVec.ofNat 64 (k.n64 4), dewStart := k.n64 1 } }
def execSupvSetDew (k : Kcp) (s : State) : Host.Outcome State Fault Refusal := .next (kcpExec cmdSupvSetDew k s)

/-- The rank of a result in NOT_RUN < PASS < SKIPPED < INCOMPLETE < FLAG (R408). -/
def dewRank : Nat → Nat
  | 0 => 0 | 1 => 1 | 3 => 2 | 4 => 3 | _ => 4

/-- The words of a Dew record (R408). -/
def DewZone.words (d : DewZone) : List W32 :=
  let r := fun i => d.res.getD i 0
  let worse := if dewRank (r 4) < dewRank (r 5) then r 5 else r 4
  [lo32 d.endMt, hi32 d.endMt,
   w32 (r 0 + r 1 * 16 + r 2 * 256 + r 3 * 4096 + worse * 65536 + min 255 d.aborts * 2 ^ 20),
   w32 (min 255 d.margin + d.weakBin % 256 * 256 + min 65535 d.headroom * 65536),
   w32 (min 4095 d.ohms + min 255 d.trimErr * 4096),
   w32 (d.tested + d.rebased * 256 + d.flagged * 65536),
   w32 (d.worstPath % 65536 + unsigned 16 d.worstDe * 65536), 0]

/-- SUPV.GET_DEW (R408). -/
def cmdSupvGetDew : Cmd where
  opcode := 0x0D06
  fault := true
  reads := true
  arg := fun k s => firstBad [lenIs k 1, resv k 0 0xFF, fld 0 0 (k.n 0 < s.variant.zones)]
  act := fun k _ s => ans s (s.dewZone (k.n 0)).words
def execSupvGetDew (k : Kcp) (s : State) : Host.Outcome State Fault Refusal := .next (kcpExec cmdSupvGetDew k s)

end Sys2Proof.Machine
end

