-- ==== Sys2Proof/Machine/Age.lean ====
section
/-! DEFINITION. The weathering monitor (R494–R501): sensors, the margin plan, and the AGE commands. -/

namespace Sys2Proof.Machine

/-- The monitor runs (R494). -/
def State.ageOn (s : State) : Bool := s.flag F.AGE_CTRL_EN ∧ s.running

/-! The plan (R496, R497). -/

/-- Voltage steps are exhausted (R495, R496). -/
def State.voltageDone (s : State) : Bool :=
  ¬ s.flag F.AGE_CTRL_AVS_EN ∨ s.get F.AGE_VDD_INITIAL_MV + 60 < s.get F.AGE_VDD_TARGET_MV + 5 ∨
    840 < s.get F.AGE_VDD_TARGET_MV + 5

/-- Raise the VDD_CORE target by one step and write it to the regulator (R495, R496 step 1). -/
def State.voltageStep (s : State) : State :=
  let mv := s.get F.AGE_VDD_TARGET_MV + 5
  let s := ((s.put F.AGE_VDD_TARGET_MV mv).bumpSat F.AGE_PLAN_VDD_STEPS).set F.AGE_STATUS_VSTEP_EVT
  let s := if s.get F.AGE_STATUS_PLAN_STATE = 0 then s.put F.AGE_STATUS_PLAN_STATE 1 else s
  let s := s.post 0x0E01 0xFFFF [w32 mv]
  { s with age := { s.age with avsBusy := true } }

/-- Plan a clock step: slots N and above close to placement (R497 steps 1 and 2). -/
def State.clockStep (s : State) : State :=
  let s := s.put F.AGE_PLAN_ECLK_STEPS (s.get F.AGE_PLAN_ECLK_STEPS + 1)
  let n := slotsFor s.plannedMhz s.rate
  let s := (s.setUsable n).put F.AGE_STATUS_PLAN_STATE 2
  let s := (s.set F.DISP_STATUS_DERATED).set F.AGE_STATUS_DERATED_EVT
  let s := s.post 0x0E02 0xFFFF [w32 s.usableVoices, w32 s.plannedMhz]
  { s with age := { s.age with closing := some n } }

/-- The plan is exhausted (R496 step 3). -/
def State.planExhausted (s : State) : State :=
  if s.get F.AGE_STATUS_PLAN_STATE = 4 then s
  else (s.put F.AGE_STATUS_PLAN_STATE 4).post 0x0E03 0xFFFF [w32 s.slackMin]

/-- At most one step of the plan at the end of an hour (R496): none while a clock step is under way or the regulator's write
is held, a forced clock step first (DERATE_MIN), then voltage, clock, exhausted (DEDUCED, notes/assumptions/64.md; DEDUCED, notes/assumptions/65.md). -/
def State.planStep (s : State) : State :=
  if s.age.avsHold ∧ s.flag F.AGE_CTRL_AVS_EN then { s with age := { s.age with avsBusy := true } }
  else if s.age.closing.isSome then s
  else if s.get F.AGE_PLAN_ECLK_STEPS < min 4 (s.get F.AGE_CTRL_DERATE_MIN) then s.clockStep
  else if s.age.slackN = 0 ∨ s.get F.AGE_LIMITS_MARGIN_LOW ≤ s.slackMin then s
  else if ¬ s.voltageDone then s.voltageStep
  else if s.get F.AGE_PLAN_ECLK_STEPS < 4 then s.clockStep
  else s.planExhausted

/-! Re-trim (R494, R498). -/

/-- Channels that are present and disabled. -/
def State.idleChannels (s : State) : List Nat := s.channels.filter fun n => ¬ s.flag (F.ANA_CTRL_EN n)

/-- Every 24 h the drift of each disabled channel is measured; no row carries the reading, so it is a free value
(DESIGN CHOICE, notes/assumptions/14.md). A drift above TRIM_LSB makes the channel due (R498). -/
def State.driftCheck (s : State) : State :=
  let limit := 4 * s.get F.AGE_LIMITS_TRIM_LSB
  let before := s.age.trimDue
  let s := forEach s.idleChannels s fun n s =>
    let (x, s) := s.draw
    let d := x % 256
    let s := s.setChan { s.chan n with drift := d }
    if limit < d ∧ ¬ s.age.trimDue.contains n then
      { s with age := { s.age with trimDue := s.age.trimDue ++ [n] } }
    else s
  if s.age.trimDue = before then s
  else
    let m := s.age.trimDue.foldl (fun x n => x + 2 ^ n) 0
    (s.set F.AGE_STATUS_TRIM_DUE).post 0x0E06 0xFFFF [lo32 m, hi32 m]

/-- The monitor trims the channels that are due and disabled, one trim at a time (R385, R498). -/
def State.trimDueNow (s : State) : State :=
  let l := s.idleChannels.filter fun n => s.age.trimDue.contains n
  if s.anaTrim.isSome ∨ l = [] ∨ ¬ s.flag F.AGE_CTRL_TRIM_EN then s
  else
    let t : TrimRun := ⟨l, [], [], 0⟩
    let s : State := { s with anaTrim := some t }
    s.trimNext

/-- AGE_HOUR (R496, R498, R499): the end of an hour of IDLE, RUN or FAULT (DEDUCED, notes/assumptions/175.md). -/
def execAgeHour (s : State) : Host.Outcome State Fault Refusal :=
  .next (
    if ¬ s.running then s
    else
      let s := s.wr R.AGE_HOURS (w32 ((s.rd R.AGE_HOURS).toNat + 1))
      let s := if s.ageOn then s.planStep else s
      let daily : Bool := (s.rd R.AGE_HOURS).toNat % 24 = 0
      let s := if daily ∧ s.ageOn ∧ s.flag F.AGE_CTRL_TRIM_EN then s.driftCheck else s
      let s := if s.ageOn then s.trimDueNow.startRepairs else s
      let s := s.ageAppend.scrubHour
      let s := { s with age := { s.age with
        slackSum := 0, slackN := 0, tjSum := 0, tjN := 0, tjMax := 0, canaryFails := 0, resetsHour := 0, lullMinutes := 0 } }
      if daily then { s with slabs := { s.slabs with columns := [] } } else s)

/-- Voices that hold a slot of number n or above. -/
def State.voicesAbove (s : State) (n : Nat) : List Voice := s.disp.voices.filter fun v => n ≤ v.src % 128

/-- DERATE_RELEASE (R497 step 3): the jobs of classes 3–15 that still hold closed slots end at the mix. -/
def execDerateRelease (s : State) : Host.Outcome State Fault Refusal :=
  .next (match s.age.closing with
    | none => s
    | some n => forEach ((s.voicesAbove n).map Voice.record).dedup s fun r s => match s.job? r with
      | some j => if 3 ≤ j.descr.cls then s.stopJob j s.soonest 0x0A else s
      | none => s)

/-- ECLK_CHANGE (R497 step 4): with every closed slot empty, ECLK changes to the planned frequency. -/
def execEclkChange (s : State) : Host.Outcome State Fault Refusal :=
  .next (match s.age.closing with
    | none => s
    | some n =>
      if s.voicesAbove n ≠ [] then s
      else
        let s := (s.put F.AGE_PLAN_ECLK_MHZ s.plannedMhz).put F.AGE_STATUS_PLAN_STATE 3
        { s with age := { s.age with closing := none } })

/-- The read-back of a regulator write fails (R495): no acknowledgement, more than 10 mV off the target, or a fault bit of
STATUS_WORD (bits 15, 14, 2 and 1, PRESUMED, notes/assumptions/15.md). -/
def State.avsBad (s : State) (ack : Bool) (voutMv : Nat) (status : BitVec 16) : Bool :=
  let t := s.get F.AGE_VDD_TARGET_MV
  ¬ ack ∨ t + 10 < voutMv ∨ voutMv + 10 < t ∨ status.getLsbD 15 ∨ status.getLsbD 14 ∨ status.getLsbD 2 ∨ status.getLsbD 1

/-- AVS_READBACK (R495): 2 ms after a write. -/
def execAvsReadback (ack : Bool) (voutMv : Nat) (status : BitVec 16) (s : State) : Host.Outcome State Fault Refusal :=
  .next (
    if ¬ s.age.avsBusy then s
    else
      let s := if ack then (s.put F.AGE_PMBUS_STATUS_WORD status.toNat).put F.AGE_PMBUS_VOUT_MV (min 4095 voutMv) else s
      let bad := s.avsBad ack voutMv status
      let s := { s with age := { s.age with avsBusy := false, avsHold := bad } }
      if bad then
        ((s.set F.AGE_STATUS_AVS_ERR).post 0x0E04 0xFFFF [w32 status.toNat, w32 voutMv]).raise Mech.supply 0xFFFF 0 0 0
      else s)

/-! Sensors (R494). -/

/-- A second has passed (SYS_UPTIME, SYS_RUN_SECS): the seconds in holdover are
counted (R34), and what is limited to once per second begins afresh (R423, R424, R432). -/
def State.second (s : State) : State :=
  let s := s.bumpSat F.SYS_UPTIME_SECONDS
  let s := if s.power = .run then s.bumpSat F.SYS_RUN_SECS_COUNT else s
  let s := if s.get F.TIME_STATUS_MODE = 3 then s.bumpSat F.TIME_HOLDOVER_SECONDS else s
  { s with
    age := { s.age with sinceReset := s.age.sinceReset + 1 },
    safe := { s.safe with thisSecond := [] }, slabs := { s.slabs with violThisSecond := [] },
    banks := { s.banks with uncorrThisSecond := 0 } }

/-- RING_SENSOR_READ (R494): once a second, the slack of each ring in ps (DESIGN CHOICE, notes/assumptions/37.md). -/
def execRingSensorRead (slacks : List Nat) (s : State) : Host.Outcome State Fault Refusal :=
  .next (
    if ¬ s.running then s
    else
      let s := s.second
      if ¬ s.ageOn then s
      else
        let first : Bool := s.age.slackN = 0
        let xs := (List.range 32).map fun k => min 65535 (slacks.getD k 65535)
        let s := forEach xs.zipIdx s fun x s =>
          let m := if first then x.1 else min x.1 (s.get (F.AGE_RING_SLACK_MIN x.2))
          (s.put (F.AGE_RING_SLACK x.2) x.1).put (F.AGE_RING_SLACK_MIN x.2) m
        { s with age := { s.age with slackSum := s.age.slackSum + xs.sum, slackN := s.age.slackN + 32 } })

/-- THERMAL_READ (R412, R494): the 16 diodes, in 1/16 °C; SUPPLY is raised on passing 110 °C. -/
def execThermalRead (temps : List Int) (s : State) : Host.Outcome State Fault Refusal :=
  .next (
    if ¬ s.flag F.AGE_CTRL_EN ∨ (¬ s.running ∧ s.power ≠ .lull) then s
    else
      let was := s.tooHot
      let xs := (List.range 16).map fun k => clampI (-32768) 32767 (temps.getD k 0)
      let s := forEach (List.range 8) s fun k s =>
        (s.put (F.AGE_THERM_TJ_EVEN k) (unsigned 16 (xs.getD (2 * k) 0))).put (F.AGE_THERM_TJ_ODD k)
          (unsigned 16 (xs.getD (2 * k + 1) 0))
      let top := xs.foldl max (xs.headD 0)
      let s := { s with age := { s.age with
        tjSum := s.age.tjSum + xs.sum, tjN := s.age.tjN + 16,
        tjMax := if s.age.tjN = 0 then top else max s.age.tjMax top } }
      if s.tooHot ∧ ¬ was then s.raise Mech.supply 0xFFFF 0 0 0
      else if was ∧ ¬ s.tooHot then s.unraise Mech.supply else s)

/-- CANARY_READ (R494, R498): every 60 s; a canary that fails on three consecutive reads calls for a repair. -/
def execCanaryRead (failed : List Bool) (s : State) : Host.Outcome State Fault Refusal :=
  .next (
    if ¬ s.ageOn then s
    else
      let bad := (List.range 32).filter fun n => failed.getD n false
      let runs := bad.map fun n => (n, (kget s.age.canaryRuns n).getD 0 + 1)
      let s := s.put F.AGE_STATUS_CANARY_FAIL bad.length
      let s := if bad = [] then s else s.set F.AGE_STATUS_CANARY
      let s := { s with age := { s.age with
        canaryRuns := runs.map fun x => (x.1, min 3 x.2), canaryFails := s.age.canaryFails + bad.length } }
      if ¬ s.flag F.AGE_CTRL_REPAIR_EN then s
      else forEach (runs.filter fun x => x.2 = 3) s fun x s => s.repairCall x.1)

/-! Commands (R500). -/

/-- A mask of numbers. -/
def setMask (l : List Nat) : Nat := l.foldl (fun m n => m + 2 ^ n) 0

/-- AGE.GET_PLAN. -/
def cmdAgeGetPlan : Cmd where
  opcode := 0x0E01
  fault := true
  reads := true
  arg := fun k _ => firstBad [lenIs k 0]
  act := fun _ _ s =>
    let fam := s.rate / 2 * 2
    ans s ([s.view R.AGE_VDD, s.view R.AGE_PLAN,
      w32 (s.get F.AGE_STATUS_PLAN_STATE * 2 ^ 28 + slotsFor s.plannedMhz (fam + 1) * 256 + slotsFor s.plannedMhz fam),
      w32 s.usableVoices, w32 (setMask s.age.repairDue), lo32 (setMask s.age.trimDue), hi32 (setMask s.age.trimDue),
      s.view R.AGE_HOURS])
def execAgeGetPlan (k : Kcp) (s : State) : Host.Outcome State Fault Refusal := .next (kcpExec cmdAgeGetPlan k s)

/-- N records of the log from an index on; the words of an index never written are free values (DESIGN CHOICE, notes/assumptions/14.md). -/
def State.logFrom (s : State) (first : Nat) : Nat → List W32 × State
  | 0 => ([], s)
  | n + 1 =>
    let d := (s.get F.AGE_LOG_NEXT + 2 * 131072 - 1 - first % 131072) % 131072
    let (r, s) := match s.age.log[d]? with
      | some r => (r, s)
      | none => s.drawWords 16
    let (rest, s) := s.logFrom (first + 1) n
    (r ++ rest, s)

/-- AGE.GET_LOG. -/
def cmdAgeGetLog : Cmd where
  opcode := 0x0E02
  fault := true
  reads := true
  arg := fun k _ => firstBad [lenIs k 2, resv k 0 0x1FFFF, fld 1 0 (1 ≤ k.f 1 0 4), resv k 1 0xF]
  act := fun k _ s =>
    let newest := (s.get F.AGE_LOG_NEXT + 131071) % 131072
    let (ws, s) := s.logFrom (k.n 0) (k.n 1)
    ans s (w32 newest :: ws)
def execAgeGetLog (k : Kcp) (s : State) : Host.Outcome State Fault Refusal := .next (kcpExec cmdAgeGetLog k s)

/-- AGE.SET_LIMITS. -/
def cmdAgeSetLimits : Cmd where
  opcode := 0x0E03
  arg := fun k _ => firstBad [lenIs k 2]
  act := fun k _ s => ans ((s.writeImage [R.AGE_CTRL, R.AGE_LIMITS] k.payload).startRepairs)
def execAgeSetLimits (k : Kcp) (s : State) : Host.Outcome State Fault Refusal := .next (kcpExec cmdAgeSetLimits k s)

/-- AGE.GET_SENSORS. -/
def cmdAgeGetSensors : Cmd where
  opcode := 0x0E04
  fault := true
  reads := true
  arg := fun k _ => firstBad [lenIs k 0]
  act := fun _ _ s => ans s (s.image (addrs (R.AGE_THERM 0) 8 4 ++ addrs (R.AGE_RING 0) 32 4 ++ [R.AGE_STATUS, R.AGE_PMBUS]))
def execAgeGetSensors (k : Kcp) (s : State) : Host.Outcome State Fault Refusal := .next (kcpExec cmdAgeGetSensors k s)

end Sys2Proof.Machine
end

