-- ==== Sys2Proof/Machine/Control.lean ====
section
/-! DEFINITION. The control side of the standard voice (R50, R69–R77): envelopes, LFOs, the modulation matrix, and the breakpoints of a
block. Source values are Q23 operands; destinations are in 2^−16 of their codes; phases in 2^−48 of a cycle. -/

namespace Sys2Proof.Machine

/-- 1.0 as a Q23 operand. -/
def q23 : Int := 2 ^ 23

/-- Samples of a time in 0.5 ms, and in ms (R51, R69). -/
def State.halfMs (s : State) (n : Nat) : Nat := divNear (n * s.hz) 2000

/-! Random values (R77). -/

/-- The seed of a generator of a voice. -/
def Voice.seedOf (v : Voice) (i : Nat) : W32 := crc32 (leBytes v.startMt 8 ++ leBytes v.src 4 ++ leBytes i 4)

/-- The value of a generator's state, uniform in −1 to +1 (R70, R77). -/
def randomOf (rng : Nat) : Int := clampI (-q23) q23 (Config.randomValue rng)

/-! Envelopes (R69). -/

/-- The travelled fraction of a stage with a curve at n of d samples. -/
def travelled (c : Int) (n d : Nat) : Int :=
  if d ≤ n then q23
  else if c = 0 then quant 10 (n * q23) d
  else
    let e := fun (n d : Nat) => (Fx.exp (Fx.unit * 8 * c * n / (10 * d : Nat)) - Fx.unit).natAbs
    quant 10 (e n d * q23) (e 1 1)

/-- The first parameter of an envelope, and of an LFO (R57). -/
def envId (i : Nat) : Nat := 0x38 + 8 * i
def lfoId (i : Nat) : Nat := 0x50 + 8 * i

/-- The parameter that gives a stage's time, and its curve's place in ENVn_CURVES, of the stages that have them. -/
def EnvStage.time : EnvStage → Nat
  | .delay => 0 | .attack => 1 | .hold => 2 | .decay => 3 | _ => 5
def EnvStage.curveAt : EnvStage → Nat
  | .attack => 256 | .decay => 16 | _ => 1

/-- SUSTAIN of an envelope at a sample, smoothed (R69, R81). -/
def Voice.sustain (v : Voice) (i t : Nat) : Int := quant 11 (v.smooth (envId i + 4) t) 256

/-- An envelope's output at a sample of the stage that it is in. -/
def Voice.envAt (v : Voice) (i t : Nat) (e : EnvSt) : Int :=
  let y := travelled e.curve (t - e.since) e.len
  match e.stage with
  | .delay => 0
  | .attack => y
  | .hold => q23
  | .decay => q23 - timesQ 12 (q23 - v.sustain i t) y
  | .sustain => v.sustain i t
  | .release => e.start - timesQ 13 e.start y
  | .done => 0

/-- An envelope enters a stage at a sample: the stage's time and curve are latched there (R69, R81). -/
def State.enterStage (s : State) (v : Voice) (i t : Nat) (stage : EnvStage) (start : Int) : EnvSt :=
  let len := if stage = .sustain ∨ stage = .done then 0 else max 1 (s.halfMs (v.param (envId i + stage.time) t))
  let c := curveClamp (v.param (envId i + 6) t / stage.curveAt % 16)
  ⟨stage, t, len, signed 4 c, start⟩

/-- An envelope at the voice's first sample, and at a later one: release, and the ends of its stages. -/
def State.firstEnv (s : State) (v : Voice) (i : Nat) : EnvSt :=
  s.enterStage v i v.startMt (if v.releaseAt = some v.startMt then .release else .delay) 0
def State.stepEnv (s : State) (v : Voice) (i t : Nat) (e : EnvSt) : EnvSt :=
  if v.releaseAt = some t ∧ e.stage ≠ .release ∧ e.stage ≠ .done then s.enterStage v i t .release (v.envAt i t e)
  else if t < e.since + e.len then e
  else match e.stage with
    | .delay => s.enterStage v i t .attack 0
    | .attack => s.enterStage v i t .hold 0
    | .hold => s.enterStage v i t .decay 0
    | .decay => s.enterStage v i t (if v.param (envId i + 7) t % 2 = 1 ∧ ¬ v.releasedBy t then .delay else .sustain) 0
    | .release => s.enterStage v i t .done 0
    | .sustain => e
    | .done => e

/-! LFOs (R70, R71). -/

/-- A whole cycle. -/
def cycle : Int := 2 ^ 48

/-- The shape of an LFO, and MT_LOCK. -/
def Voice.lfoShape (v : Voice) (i t : Nat) : Nat := v.param (lfoId i) t % 8
def Voice.locked (v : Voice) (i t : Nat) : Bool := v.param (lfoId i) t / 32768 = 1

/-- The phase of a locked LFO at a sample, with its whole cycles (R71). -/
def State.lockedPhase (s : State) (v : Voice) (i t : Nat) : Int :=
  let mtp := mtpClamp s.rate (v.param (lfoId i + 5) t + v.param (lfoId i + 6) t * 65536)
  let half := if Config.double s.rate then 2 else 1
  t * cycle / (mtp * half : Nat) + v.phaseAt (lfoId i + 2) t * 65536

/-- The advance of a free-running LFO in one sample at a rate in 2^−16 of its code (R57, R70). -/
def State.lfoStep (s : State) (rate : Int) : Int := quant 14 (Fx.pow2 rate (4096 * 65536) * cycle) (100 * s.hz * Fx.unit)

/-- SKEW of an LFO at a sample as a phase. -/
def Voice.skew (v : Voice) (i t : Nat) : Int := v.smooth (lfoId i + 4) t * 65536

/-- The value of the ramp of 1 ms that an LFO's latest edge began (R70). -/
def State.edgeAt (s : State) (t : Nat) (l : LfoSt) : Int :=
  match l.edge with
  | none => l.reaches
  | some (t0, x) => moveAt 15 x l.reaches t0 (divNear s.hz 1000) t

/-- An LFO's shape at a phase of at most one cycle (R70). -/
def State.shapeAt (s : State) (v : Voice) (i t : Nat) (l : LfoSt) (p : Int) : Int :=
  let sk := v.skew i t
  match l.shape with
  | 0 => quant 16 (Fx.sinTurn p.toNat (2 ^ 48)) (2 ^ 37)
  | 1 => if p < sk then quant 16 (q23 * (2 * p - sk)) sk else quant 16 (q23 * (cycle + sk - 2 * p)) (cycle - sk)
  | 3 => quant 16 (q23 * (2 * p - cycle)) cycle
  | 4 => quant 16 (q23 * (cycle - 2 * p)) cycle
  | 6 => l.leaves + quant 16 ((l.reaches - l.leaves) * (Fx.unit - Fx.cosTurn p.toNat (2 ^ 49))) (2 * Fx.unit)
  | _ => s.edgeAt t l

/-- The fade-in of an LFO's amplitude after the voice's start (R70). -/
def State.lfoFade (s : State) (v : Voice) (i t : Nat) : Int :=
  let len := s.halfMs (v.param (lfoId i + 3) v.startMt)
  if len ≤ t - v.startMt then q23 else quant 17 (q23 * (t - v.startMt : Nat)) len

/-- An LFO's output after its fade. -/
def State.lfoAt (s : State) (v : Voice) (i t : Nat) (l : LfoSt) (p : Int) : Int :=
  timesQ 18 (s.shapeAt v i t l p) (s.lfoFade v i t)

/-- The values with which an LFO takes up a shape: one random value, or two (R70). -/
def State.takeShape (s : State) (v : Voice) (i t : Nat) (shape : Nat) (p : Int) (rng : Nat) : LfoSt :=
  let l : LfoSt := ⟨shape, p.toNat, 0, 0, none, rng⟩
  match shape with
  | 2 => { l with reaches := if p < v.skew i t then q23 else -q23 }
  | 5 => { l with reaches := randomOf rng, rng := Config.randomNext rng }
  | 6 => { l with leaves := randomOf rng, reaches := randomOf (Config.randomNext rng), rng := Config.randomNext (Config.randomNext rng) }
  | _ => l

/-- An LFO at the voice's first sample. -/
def State.firstLfo (s : State) (v : Voice) (i : Nat) : LfoSt :=
  let t := v.startMt
  let p := if v.locked i t then s.lockedPhase v i t % cycle else (v.param (lfoId i + 2) t * 2 ^ 32 : Nat)
  s.takeShape v i t (v.lfoShape i t) p (v.seedOf (2 + i)).toNat

/-- An LFO at a later sample, its phase there with the cycle that it completes, and whether it has an edge there (R50, R70). -/
def State.stepLfo (s : State) (v : Voice) (i t : Nat) (rate : Int) (l : LfoSt) : LfoSt × Int × Bool :=
  let lk := v.locked i t
  let before := if lk then s.lockedPhase v i (t - 1) else l.phase
  let after := if lk then s.lockedPhase v i t else l.phase + s.lfoStep rate
  let wraps : Bool := after / cycle ≠ before / cycle
  let p := after % cycle
  let whole := if wraps ∧ before ≤ after then cycle else p
  let l' := { l with phase := p.toNat }
  if v.lfoShape i t ≠ l.shape then (s.takeShape v i t (v.lfoShape i t) p l.rng, whole, true)
  else match l.shape with
    | 2 =>
      let x := if p < v.skew i t then q23 else -q23
      if x = l.reaches then (l', whole, false) else ({ l' with reaches := x, edge := some (t, s.edgeAt t l) }, whole, true)
    | 5 =>
      if wraps then ({ l' with reaches := randomOf l.rng, edge := some (t, s.edgeAt t l), rng := Config.randomNext l.rng }, whole, true)
      else (l', whole, false)
    | 6 =>
      if wraps then ({ l' with leaves := l.reaches, reaches := randomOf l.rng, rng := Config.randomNext l.rng }, whole, true)
      else (l', whole, false)
    | 3 => (l', whole, wraps)
    | 4 => (l', whole, wraps)
    | _ => (l', whole, false)

/-! Sources, curves and destinations (R72–R76). -/

/-- What the sources of a voice hold at a sample: envelopes, LFOs with the phase at which each is read, and whether release and what
changed with it are seen, or, left of a breakpoint, not yet. -/
structure Sources where
  env : List EnvSt
  lfo : List (LfoSt × Int)
  left : Bool
  deriving DecidableEq, Repr

/-- The value of a modulation source at a sample, and whether it is unipolar (R74). -/
def State.sourceAt (s : State) (v : Voice) (x : Sources) (code t : Nat) : Int × Bool :=
  let at_ := if x.left then t - 1 else t
  match code with
  | 1 => ((x.env[0]?.map (v.envAt 0 t)).getD 0, true)
  | 2 => ((x.env[1]?.map (v.envAt 1 t)).getD 0, true)
  | 3 => ((x.env[2]?.map (v.envAt 2 t)).getD 0, true)
  | 4 => ((x.lfo[0]?.map fun l => s.lfoAt v 0 t l.1 l.2).getD 0, false)
  | 5 => ((x.lfo[1]?.map fun l => s.lfoAt v 1 t l.1 l.2).getD 0, false)
  | 0x08 => (clampI 0 q23 (quant 24 ((v.level + 12288) * q23) 12288), true)
  | 0x09 => (clampI (-q23) q23 (quant 25 (v.synth.pitch * q23) (48 * 256 * 65536)), false)
  | 0x0A => (v.synth.random, false)
  | 0x0B =>
    let len := divNear (v.param 0x32 v.startMt * s.hz) 100
    (if len ≤ t - v.startMt then q23 else quant 26 (q23 * (t - v.startMt : Nat)) len, true)
  | 0x0C => (if v.releasedBy at_ then 0 else q23, true)
  | 0x0D => (q23, true)
  | 0x20 =>
    (match s.firstZone v (s.blockOf at_) with
      | none => 0
      | some z => clampI 0 q23 (quant 27 (q23 * (160 - (s.ambientSeen z at_ % 241 : Nat))) 160), true)
  | c => (if 0x10 ≤ c ∧ c < 0x20 ∧ s.contactSeen (c - 0x10) at_ = 1 then q23 else 0, true)

/-- A curve on a source value, as a fraction (R73). -/
def curveOf (code : Nat) (x : Int) (uni : Bool) : Int × Int :=
  match code with
  | 0 => (x, q23)
  | 1 => (x * x.natAbs, q23 ^ 2)
  | 2 => (x ^ 3, q23 ^ 3)
  | 3 => ((if x < 0 then -1 else 1) * Fx.sqrt (x.natAbs * 2 ^ 37 : Nat), Fx.unit)
  | 4 => if uni then (x, q23) else (x + q23, 2 * q23)
  | 5 => if uni then (q23 - x, q23) else (q23 - x, 2 * q23)
  | 6 => if uni then (2 * x - q23, q23) else (x, q23)
  | _ => (nearest (48 * x) q23, 48)

/-- A destination of the matrix: the parameter that is its base, the codes of R75 that reach it, its full scale and its range, in
codes. AMP_LIN has no parameter: its base is 1.0. -/
structure Target where
  id : Nat
  dsts : List Nat
  full : Int
  lo : Int
  hi : Int
  deriving DecidableEq, Repr

/-- The place of AMP_LIN among the targets. -/
def linId : Nat := 0x0F

/-- The destinations (R57, R75). -/
def targets : List Target :=
  [⟨0x06, [0x01, 0x04], 12288, -32768, 32767⟩, ⟨0x08, [0x02], 65536, 0, 65280⟩, ⟨0x11, [0x03, 0x04], 12288, -32768, 32767⟩,
   ⟨0x12, [0x05], 32768, 1311, 64225⟩, ⟨0x13, [0x06], 65536, 0, 65535⟩, ⟨0x18, [0x08], 12288, -15360, 1536⟩,
   ⟨0x19, [0x09], 12288, -15360, 1536⟩, ⟨0x1A, [0x0A], 12288, -15360, 1536⟩, ⟨0x1B, [0x0B], 12288, -15360, 1536⟩,
   ⟨0x22, [0x10, 0x14], 30720, 0, 30615⟩, ⟨0x23, [0x11], 65536, 0, 65535⟩, ⟨0x2A, [0x12, 0x14], 30720, 0, 30615⟩,
   ⟨0x2B, [0x13], 65536, 0, 65535⟩, ⟨0x30, [0x18], 12288, -15360, 1536⟩, ⟨linId, [0x19], 65536, 0, 65536⟩,
   ⟨0x51, [0x20], 32768, 0, 54426⟩, ⟨0x59, [0x21], 32768, 0, 54426⟩]

/-- A route's source, destination and curve at a sample; 0 where it contributes nothing (R72). -/
def Voice.routeAt (v : Voice) (r t : Nat) : Nat × Nat × Nat :=
  let m := v.param (0x61 + 2 * r) t
  (m / 512, m / 8 % 64, m % 8)

/-- The base of a destination at a sample. -/
def Voice.baseAt (v : Voice) (id t : Nat) : Int := if id = linId then 65536 * 65536 else v.smooth id t

/-- A destination at a sample: base and contributions, in its range (R72). -/
def State.targetAt (s : State) (v : Voice) (x : Sources) (g : Target) (t : Nat) : Int :=
  let sum := (List.range 16).foldl (fun a r =>
    let (src, dst, c) := v.routeAt r t
    if src = 0 ∨ ¬ g.dsts.contains dst then a
    else
      let (y, uni) := s.sourceAt v x src t
      let (n, d) := curveOf c y uni
      a + quant (64 + r) (v.smooth (0x60 + 2 * r) t * n * g.full) (32768 * d)) (v.baseAt g.id t)
  clampI (g.lo * 65536) (g.hi * 65536) sum

/-! Breakpoints (R50). -/

/-- A breakpoint: its sample, whether it is one for every destination, the LFOs that have an edge there, and the destinations, then the
three envelopes, left and right of it. -/
structure Point where
  t : Nat
  all : Bool
  edges : List Nat
  left : List Int
  right : List Int
  deriving DecidableEq, Repr

/-- The destinations and envelopes at a sample. -/
def State.valuesAt (s : State) (v : Voice) (x : Sources) (t : Nat) : List Int :=
  targets.map (fun g => s.targetAt v x g t) ++ x.env.zipIdx.map fun e => v.envAt e.2 t e.1

/-- Samples of a control period (R50, R51). -/
def State.period (s : State) : Nat := if Config.double s.rate then 16 else 8

/-- What the PITCH source reads (R74): OSC A's pitch, or in SCRIPT mode the prosody scale, in semitones, in 2^−16 of 1/256 semitone. It is
read at a breakpoint for the next ones (DESIGN CHOICE, notes/assumptions/198.md). -/
def Voice.pitchRead (v : Voice) (oscA : Int) (t : Nat) : Int :=
  if ¬ v.scripted t then oscA
  else
    let scale := ((v.seq.played.find? fun x => x.first ≤ 2 * t).map TilePlay.pitch).getD v.seq.cur.pitch
    clampI (-(12 * 256 * 65536)) (12 * 256 * 65536) (oscA + nearest (Fx.log2 (Fx.ratio scale 4096) * (12 * 256 * 65536)) Fx.unit)

/-- One sample of the control side: the voice's elements behind it, and a breakpoint if it is one. The first sample of the voice starts
them; LFOs advance at the rate of the breakpoint before (DESIGN CHOICE, notes/assumptions/198.md). -/
def State.controlAt (s : State) (v : Voice) (t : Nat) : Voice × Option Point :=
  let first : Bool := t = v.startMt
  let env := if first then (List.range 3).map (s.firstEnv v) else v.synth.env.zipIdx.map fun e => s.stepEnv v e.2 t e.1
  let old := v.synth.lfo.zipIdx.map fun l => (l.1, s.stepLfo v l.2 t (v.synth.rates.getD l.2 0) l.1)
  let lfo := if first then (List.range 2).map (s.firstLfo v) else old.map fun l => l.2.1
  let edges := if first then [] else old.zipIdx.filterMap fun l => if l.1.2.2.2 then some l.2 else none
  let all : Bool := first ∨ t % s.period = 0 ∨ v.releaseAt = some t ∨ env.map EnvSt.since ≠ v.synth.env.map EnvSt.since
  let w := { v with synth := { v.synth with env := env, lfo := lfo, ran := some (t + 1) } }
  if ¬ all ∧ edges = [] then (w, none)
  else
    let right := s.valuesAt w ⟨env, lfo.map fun l => (l, l.phase), false⟩ t
    let left := if first then right else s.valuesAt v ⟨v.synth.env, old.map fun l => (l.1, l.2.2.1), true⟩ t
    let w := { w with synth := { w.synth with
      rates := [right.getD 15 0, right.getD 16 0], pitch := w.pitchRead (right.getD 0 0) t } }
    (w, some ⟨t, all, edges, left, right⟩)

/-- The control side of samples of a block, the breakpoints newest first. -/
def State.controlRun (s : State) (v : Voice) (ts : List Nat) : Voice × List Point :=
  ts.foldl (fun (a : Voice × List Point) t =>
    let (w, p) := s.controlAt a.1 t
    (w, p.toList ++ a.2)) (v, [])

/-- A destination's path through a block: its breakpoints with the values left and right of each, oldest first. -/
def State.pathOf (s : State) (v : Voice) (ps : List Point) (g : Target) (i : Nat) : List (Nat × Int × Int) :=
  (ps.filter fun p => p.all ∨ p.edges.any fun l => (List.range 16).any fun r =>
    let (src, dst, _) := v.routeAt r p.t
    src = 4 + l ∧ g.dsts.contains dst).map fun p => (p.t, p.left.getD i 0, p.right.getD i 0)

/-- A value on a path at an internal sample: linear between breakpoints (R50). -/
def onPath (place : Nat) : List (Nat × Int × Int) → Nat → Int
  | [], _ => 0
  | [(_, _, r)], _ => r
  | (t0, _, r) :: (t1, l, r1) :: ps, x =>
    if 2 * t1 ≤ x then onPath place ((t1, l, r1) :: ps) x
    else r + quant place ((l - r) * (x - 2 * t0 : Nat)) (2 * (t1 - t0) : Nat)

/-- The control values of a block: the destinations' paths, and the envelopes'. -/
structure Control where
  paths : List (List (Nat × Int × Int))
  envs : List (List (Nat × Int × Int))
  deriving DecidableEq, Repr

/-- A destination at an internal sample: interpolated where a route reaches it, and otherwise its base, which moves at every internal
sample (R50, R81). -/
def Voice.ctl (v : Voice) (c : Control) (i x : Nat) : Int :=
  let g := targets.getD i ⟨0, [], 0, 0, 0⟩
  if v.modulates g.dsts (x / 2) then onPath (80 + i) (c.paths.getD i []) x
  else (v.baseAt g.id (x / 2) + v.baseAt g.id ((x + 1) / 2)) / 2

/-- The control pass of a block from a sample on (R50): the elements behind the block, and its control values. -/
def State.control (s : State) (v : Voice) (b : Nat) : Voice × Control :=
  let lo := max (s.startOf b) v.startMt
  let hi := s.startOf (b + 1)
  let v := if lo = v.startMt then
      { v with synth := { v.synth with random := randomOf (v.seedOf 0).toNat, noise := (v.seedOf 1).toNat } }
    else v
  let (w, ps) := s.controlRun v ((List.range (hi - lo)).map (lo + ·))
  let ends := ((s.controlAt w hi).2.map fun (p : Point) => { p with all := true }).toList
  let ps := ps.reverse ++ ends
  (w, ⟨targets.zipIdx.map fun g => s.pathOf w ps g.1 g.2,
    (List.range 3).map fun i => (ps.filter Point.all).map fun p => (p.t, p.left.getD (17 + i) 0, p.right.getD (17 + i) 0)⟩)

/-- The block in which a released voice ends, if it is this one: the envelope that AMP_ENV names has reached 0, or the fade of AMP has
completed (R68; DEDUCED, notes/assumptions/34.md). -/
def State.silentIn (s : State) (v : Voice) (b : Nat) : Bool :=
  v.releaseAt.any fun r =>
    let lo := max (s.startOf b) v.startMt
    (List.range (s.startOf (b + 1) - lo)).any fun i =>
      let t := lo + i
      match v.param 0x31 t with
      | 0 => decide (r + s.bl ≤ t)
      | n + 1 => (v.synth.env[n]?.any fun e => (e.stage = .done ∧ e.since ≤ t) ∨ (e.stage = .release ∧ e.since + e.len ≤ t))

end Sys2Proof.Machine
end

