-- ==== Sys2Proof/Machine/Strike.lean ====
section
/-! DEFINITION. Strike snapshots (R502–R509): triggers, the latch, the sets, and the SNAP commands. -/

namespace Sys2Proof.Machine

/-! The sets (R508). -/

/-- The registers of an address range, in offset order. -/
def regsIn (lo hi : Nat) : List Nat := (addrs lo ((hi - lo) / 4) 4).filter fun a => (regRow a).isSome

/-- The address range of a register-image set. -/
def setRange : Nat → Option (Nat × Nat)
  | 0x01 => some (0x10000, 0x10100) | 0x02 => some (0x11000, 0x11200) | 0x03 => some (0x12000, 0x12200)
  | 0x04 => some (0x20000, 0x24200) | 0x06 => some (0x30000, 0x30100) | 0x07 => some (0x34000, 0x35000)
  | 0x09 => some (0x40000, 0x40800) | 0x0A => some (0x41000, 0x41400) | 0x0B => some (0x42000, 0x42080)
  | 0x0C => some (0x43000, 0x43100) | 0x0D => some (0x44000, 0x44400) | 0x0E => some (0x45000, 0x45400)
  | 0x0F => some (0x46000, 0x46400) | 0x10 => some (0x47000, 0x47100) | 0x11 => some (0x48000, 0x48100)
  | 0x12 => some (0x4A000, 0x4A400) | 0x13 => some (0x4B000, 0x4B400) | 0x14 => some (0x4C000, 0x4C100)
  | 0x15 => some (0, 0x80) | _ => none

/-- The codes of the sets. -/
def setCodes : List Nat := List.range 0x17

/-- The length of a set in bytes. -/
def setLen : Nat → Nat
  | 0x00 => 32 | 0x01 => 136 | 0x02 => 200 | 0x03 => 264 | 0x04 => 2120 | 0x05 => 32776 | 0x06 => 200 | 0x07 => 3080
  | 0x08 => 1032 | 0x09 => 776 | 0x0A => 1032 | 0x0B => 104 | 0x0C => 168 | 0x0D => 520 | 0x0E => 1032 | 0x0F => 264
  | 0x10 => 200 | 0x11 => 200 | 0x12 => 168 | 0x13 => 200 | 0x14 => 136 | 0x15 => 136 | 0x16 => 4104 | _ => 0

/-- A set's domain as SAFE_CLKMON numbers it: the audio ports' is BCLK while any runs as a slave; port B's has no number and
reads as MCLK (DESIGN CHOICE, notes/assumptions/16.md). -/
def State.setDomain (s : State) (code : Nat) : Nat :=
  if [0x04, 0x05, 0x06, 0x07, 0x08, 0x10].contains code then 0
  else if [0x02, 0x0E].contains code then 2
  else if code = 0x14 then 3
  else if code = 0x12 then 4
  else if code = 0x13 then 5
  else if [0x0A, 0x0B, 0x0C, 0x0F].contains code then 8
  else if code = 0x0D then
    if (List.range 8).any fun n => ¬ s.flag (F.APORT_CTRL_MASTER n) ∧ s.portState n ≠ Port.stopped then 7 else 2
  else 1

/-- The SIG message's signatures of a block (R346): 0 where none was computed. -/
def State.sigsOf (s : State) (b : Nat) : List W32 := (kget s.course.ownSigs b).getD (List.replicate 256 0)

/-- The windows of the slab that STRK_SLAB names: the key of its first word (R506). -/
def State.strikeWindow (s : State) : Nat := slabKey (s.get F.STRK_SLAB_SLAB) (s.get F.STRK_SLAB_WINDOW * 512)

/-- The words of the slab window as port B reads them now; an uncorrectable word reads 0 (R436). -/
def State.windowWords (s : State) : List W64 :=
  if ¬ s.flag F.STRK_SLAB_EN then []
  else (List.range 512).map fun i =>
    let key := s.strikeWindow + i
    if s.slabs.bad.contains key then 0 else s.slabWord key

/-! The store (R504, R507). -/

/-- Word 0 of a Strike's header (R509). -/
def Strike.hdr (k : Strike) : W32 :=
  w32 (k.seq + k.sources % 64 * 2 ^ 16 + k.originCourse % 8 * 2 ^ 24 + b2n k.site * 2 ^ 27 + b2n k.late * 2 ^ 28 +
    b2n k.complete * 2 ^ 31)

/-- Show the held Strikes (STRK_HELD, STRK_STATUS). -/
def State.strikeShow (s : State) : State :=
  let s := s.set F.STRK_STATUS_BUSY (s.strike.held.any fun k => ¬ k.complete)
  forEach s.strike.held.zipIdx s fun x s =>
    ((s.wr (R.STRK_HELD_ID x.2) x.1.hdr).wr64 (R.STRK_HELD_MT_LO x.2) (R.STRK_HELD_MT_HI x.2) x.1.mt).put
      (F.STRK_HELD_ORIGIN_OSEQ x.2) x.1.originSeq

/-- The lag of every set: 0 in the domains that latch in the instant's cycle; a free value in the others, with NO_CLOCK free
where the domain's clock may be absent (R505; DESIGN CHOICE, notes/assumptions/16.md). -/
def State.strikeLags (s : State) : List (Nat × Nat × Bool) × State :=
  setCodes.foldl (fun acc code =>
    let d := acc.2.setDomain code
    if code ≠ 0x16 ∧ d ≤ 2 then (acc.1 ++ [(code, 0, false)], acc.2)
    else
      let (x, s) := acc.2.draw
      let (y, s) := s.draw
      (acc.1 ++ [(code, x, decide (code ≠ 0x16 ∧ y % 2 = 1))], s)) ([], s)

/-- Latch a pending Strike (R505–R507): every block's registers as they read, the levels, the signatures and the slab window.
A Strike that overwrites a set still being written abandons that set (DEDUCED, notes/assumptions/67.md). -/
def State.latchStrike (s : State) (p : StrikePend) : State :=
  let lost : Bool := (s.strike.held[3]?).any fun k => ¬ k.complete
  let s := if lost then s.bumpSat F.STRK_COUNT_DROPPED else s
  let s := (s.put F.STRK_STATUS_SEQ p.seq).bump F.STRK_TOTAL_COUNT
  let s := if p.late then s.set F.STRK_STATUS_LATE else s
  let (lags, s) := s.strikeLags
  let image := (setCodes.filterMap setRange).flatMap fun r =>
    (regsIn r.1 r.2).filterMap fun a => let w := s.view a; if w = 0 then none else some (a, w)
  let k : Strike := {
    seq := p.seq, sources := p.sources, mt := p.mt, originCourse := p.originCourse, originSeq := p.originSeq,
    site := p.site, late := p.late, complete := false, partialCopy := false, commit := s.commit, pstate := s.power.code,
    image := image, levels := s.disp.voices.map fun v => (v.src, v.peak, v.rms), sigs := s.sigsOf (s.commit - 2),
    window := s.windowWords, lags := lags }
  let s := { s with strike := { s.strike with
    pend := s.strike.pend.filter (fun q => q.mt ≠ p.mt), held := (k :: s.strike.held).take 4 } }
  s.strikeShow

/-- STRIKE_LATCH (R505): the pins present S, the sample of the earliest pending Strike, which lies in the present block. -/
def execStrikeLatch (s : State) : Host.Outcome State Fault Refusal :=
  .next (match s.strike.pend with
    | [] => s
    | p :: _ => if s.running ∧ p.mt < s.time.mt + s.bl then s.latchStrike p else s)

/-- The words of a slab window whose copy has ended: each read between the latch and now, so that a word that changed may be
either; of a copy that was cut some words are missing and read 0 (R506). -/
def settleWindow (cut : Bool) : List W64 → List W64 → State → List W64 × State
  | a :: as, b :: bs, s =>
    let (w, s) := if a = b then (a, s) else let (x, s) := s.draw; (if x % 2 = 0 then a else b, s)
    let (w, s) := if cut then let (x, s) := s.draw; (if x % 2 = 0 then w else 0, s) else (w, s)
    let (rest, s) := settleWindow cut as bs s
    (w :: rest, s)
  | _, _, s => ([], s)

/-- STRIKE_COMPLETE (R507): the oldest set still being written is complete. -/
def execStrikeComplete (partialCopy : Bool) (s : State) : Host.Outcome State Fault Refusal :=
  .next (match s.strike.held.reverse.find? fun k => ¬ k.complete with
    | none => s
    | some k =>
      let (w, s) := settleWindow partialCopy k.window (if s.windowWords = [] then k.window else s.windowWords) s
      let k' := { k with complete := true, partialCopy := partialCopy, window := w }
      let s := { s with strike := { s.strike with held := s.strike.held.map fun (x : Strike) => if x.seq = k.seq then k' else x } }
      s.strikeShow.postAt 0x0F01 k.seq k.mt [w32 (k.sources % 256)])

/-- STRIKE_IN_EDGE (R502): a rising edge of STRIKE_IN after so many nanoseconds low (DEDUCED, notes/assumptions/42.md; DEDUCED, notes/assumptions/66.md). -/
def execStrikeInEdge (lowNs : Nat) (s : State) : Host.Outcome State Fault Refusal :=
  .next (
    let s := s.set F.STRK_IN_LEVEL
    if lowNs < 100 ∨ ¬ s.running then s
    else (s.bump F.STRK_IN_EDGES).strikeTrigger Src.strikeIn (s.time.mt + 1))

/-- The media-time match fires once when the block of its sample is reached, or skipped (R39, R502). -/
def State.strikeMatch (s : State) : State :=
  if s.strike.matchArmed ∧ s.strike.matchMt < s.time.mt + s.bl then
    ({ s with strike := { s.strike with matchArmed := false } }).strikeTrigger Src.mtMatch (max s.strike.matchMt s.time.mt)
  else s

/-! The sets' words (R508, R509). -/

/-- The header words of a set. -/
def Strike.setHead (k : Strike) (s : State) (code : Nat) : List W32 :=
  let (lag, noClk) := (kget k.lags code).getD (0, false)
  [w32 (setLen code + code * 2 ^ 16 + s.setDomain code * 2 ^ 24 + b2n noClk * 2 ^ 28 +
    b2n (code = 0x16 && k.partialCopy) * 2 ^ 29), w32 (min lag (2 ^ 32 - 1))]

/-- The words of a set. -/
def Strike.set (k : Strike) (s : State) (code : Nat) : List W32 :=
  match code with
  | 0x00 => [k.hdr, w32 k.originSeq, lo32 k.mt, hi32 k.mt, w32 k.commit, w32 k.pstate, 0, 0]
  | 0x05 => k.setHead s code ++ (List.range 8192).map fun src =>
      let (p, r) := (kget k.levels src).getD (-15360, -15360)
      w32 (unsigned 16 p + unsigned 16 r * 65536)
  | 0x08 => k.setHead s code ++ k.sigs
  | 0x16 => k.setHead s code ++ (List.range 512).flatMap fun i =>
      let w := k.window.getD i 0
      [w.setWidth 32, (w >>> (32 : Nat)).setWidth 32]
  | _ => match setRange code with
    | some r => k.setHead s code ++ (regsIn r.1 r.2).map fun a => (kget k.image a).getD 0
    | none => []

/-! Commands (R303, R304). -/

/-- SNAP.STRIKE. -/
def cmdSnapStrike : Cmd where
  opcode := 0x0F01
  fault := true
  at_ := .routing
  arg := fun k _ => firstBad [lenIs k 0]
  act := fun _ mt s =>
    let s := s.strikeTrigger Src.snap mt
    let site : Bool := s.cascade ∧ s.strikeOn Src.course
    let mt := if site then max mt (s.startOf (s.blockNow + s.pOff + 1)) else mt
    let seq := ((s.strike.pend.find? fun q => q.mt = mt).map StrikePend.seq).getD s.strike.lastSeq
    { state := s, payload := [w32 seq], mt := some mt }
def execSnapStrike (k : Kcp) (s : State) : Host.Outcome State Fault Refusal := .next (kcpExec cmdSnapStrike k s)

/-- SNAP.SET_SOURCES (R502). -/
def cmdSnapSetSources : Cmd where
  opcode := 0x0F02
  fault := true
  arg := fun k _ => firstBad [lenIs k 4, resv k 0 0x1F, fld 1 4 (k.f 1 4 3 ≤ 4), resv k 1 0x7F]
  act := fun k _ s =>
    let s := ((s.put F.STRK_CTRL_EN (k.f 0 0 5)).put F.STRK_CTRL_TIMER (k.f 1 0 4)).put F.STRK_CTRL_EVENT (k.f 1 4 3)
    let s := s.wr64 R.STRK_MATCH_LO R.STRK_MATCH_HI (k.n64 2)
    let past : Bool := k.n64 2 ≤ s.time.mt
    let s := if past then s.set F.STRK_STATUS_MATCH_PAST else s
    ans ({ s with strike := { s.strike with
      matchArmed := k.bit 0 3 && !past, matchMt := k.n64 2 } }).strikeMatch
def execSnapSetSources (k : Kcp) (s : State) : Host.Outcome State Fault Refusal := .next (kcpExec cmdSnapSetSources k s)

/-- SNAP.READ (R304, R508). -/
def cmdSnapRead : Cmd where
  opcode := 0x0F03
  fault := true
  reads := true
  arg := fun k _ => firstBad [lenIs k 2, fld 0 16 (k.f 0 16 8 < 0x17), resv k 0 0xFFFFFF,
    fld 1 0 (k.n 1 % 4 = 0 ∧ k.n 1 < setLen (k.f 0 16 8))]
  refuse := fun k s => if s.strike.held.any (fun x => x.seq = k.f 0 0 16 ∧ x.complete) then none else some St.state
  act := fun k _ s => match s.strike.held.find? fun x => x.seq = k.f 0 0 16 with
    | none => ans s
    | some x => ans s (w32 (setLen (k.f 0 16 8)) :: ((x.set s (k.f 0 16 8)).drop (k.n 1 / 4)).take 254)
def execSnapRead (k : Kcp) (s : State) : Host.Outcome State Fault Refusal := .next (kcpExec cmdSnapRead k s)

/-- SNAP.GET_STATUS; a place that holds no Strike reads 0. -/
def cmdSnapGetStatus : Cmd where
  opcode := 0x0F04
  fault := true
  reads := true
  arg := fun k _ => firstBad [lenIs k 0]
  act := fun _ _ s => ans s ((List.range 4).flatMap fun h => match s.strike.held[h]? with
    | none => [0, 0, 0, 0]
    | some k => [w32 (k.seq + k.sources * 65536), lo32 k.mt, hi32 k.mt, w32 (b2n k.complete)])
def execSnapGetStatus (k : Kcp) (s : State) : Host.Outcome State Fault Refusal := .next (kcpExec cmdSnapGetStatus k s)

end Sys2Proof.Machine
end

