-- ==== Sys2Proof/Machine/Safe.lean ====
section
/-! DEFINITION. Functional safety (R411–R427) and the SAFE commands (R298–R302): detections from outside the model's own
paths, the log, SAFE_ALIVE, locks, keys, updates and the return from FAULT. -/

namespace Sys2Proof.Config

/-- Whether a firmware image is well formed, and the version word it carries: no rule lays a firmware image out
(DESIGN CHOICE, notes/assumptions/17.md). -/
opaque fwFormatOk : List Byte → Bool
opaque fwVersion : List Byte → W32

end Sys2Proof.Config

namespace Sys2Proof.Machine

/-! Detections (R414). -/

/-- SAFETY_DETECTION (R412, R414): a mechanism detects a fault. An uncorrectable slab word counts in its slab (R436). In OFF and RESET
nothing runs. -/
def execSafetyDetection (code : Fin 24) (inst : Nat) (loc expected observed : W32) (s : State) :
    Host.Outcome State Fault Refusal :=
  .next (
    if s.power = .off ∨ s.power = .reset then s
    else
      let s := if code.val = Mech.slabEcc ∧ inst < 32 then
          (s.set (F.SLAB_STATUS_UNCORR inst)).bumpSat (F.SLAB_ECC_UNCORR_CNT inst)
        else s
      s.raise code (inst % 65536) loc expected observed)

/-- FAULT_LOG_WRITE (R414 step 4, R423): the Mason pair takes a buffered record to the log. -/
def execFaultLogWrite (s : State) : Host.Outcome State Fault Refusal :=
  .next (if s.running ∧ s.safe.resetDue.isNone then s.logOne else s)

/-- SAFE_ALIVE_TOGGLE (R421): the end of a half period; `heartbeat` says that the firmware has written its heartbeat in it. In
Lull the supervisor alone toggles. -/
def execSafeAliveToggle (heartbeat : Bool) (s : State) : Host.Outcome State Fault Refusal :=
  .next (
    let live : Bool := s.power = .lull ∨ ((s.power = .idle ∨ s.power = .run) ∧ heartbeat)
    if s.power ≠ .idle ∧ s.power ≠ .run ∧ s.power ≠ .lull then s
    else if live ∧ s.aliveOk then
      let s := ((s.set F.SAFE_ALIVE_STAT_FROZEN false).set F.SAFE_STATUS_ALIVE_RUN).bump F.SAFE_ALIVE_STAT_HALF_PERIODS
      { s with safe := { s.safe with alive := ¬ s.safe.alive } }
    else s.freezeAlive)

/-! Injection (R302, R427). -/

/-- The condition behind a path mechanism is present (R418). -/
def State.conditionHolds (s : State) (code : Nat) : Bool :=
  if code = Mech.pilot then s.supv.pilots.any fun r => decide (r.point ≠ .internal) && r.fault
  else if code = Mech.analogue then s.anaFault
  else if code = Mech.contact then s.contactFault ∨ s.flag (F.UART_STATUS_LINE_LOW 0) ∨ s.flag (F.UART_STATUS_LINE_LOW 1)
  else if code = Mech.acoustic then s.supv.paths.any fun p => p.fault
  else false

/-- INJECTED_FAULT_HOLD_EXPIRY (R427): ACTIVE of an injected path fault clears 1 s after it, unless a real one holds it. -/
def execInjectedFaultHoldExpiry (code : Fin 24) (s : State) : Host.Outcome State Fault Refusal :=
  .next (
    if ¬ s.safe.injectHold.contains code.val then s
    else
      let s := { s with safe := { s.safe with injectHold := s.safe.injectHold.filter fun c => c ≠ code.val } }
      if s.conditionHolds code then s else s.unraise code)

/-- An instance is in range for a code (R6, R422): the number of the unit the mechanism names, or 0xFFFF where it concerns the
device (DEDUCED, notes/assumptions/18.md). -/
def State.instanceOk (s : State) (code inst : Nat) : Bool :=
  let v := s.variant
  if code = Mech.slabEcc then inst < 32
  else if code = Mech.latent then inst < 32 ∨ inst = 0xFFFF
  else if code = Mech.brickEcc ∨ code = Mech.golden ∨ code = Mech.rollback then inst < v.bricks
  else if code = Mech.clock then inst < 9
  else if code = Mech.timeRef then inst < 4
  else if code = Mech.zoneTest ∨ code = Mech.intPilot ∨ code = Mech.pilot then inst < v.zones
  else if code = Mech.twin then inst < v.zones ∨ inst = 0xFFFF
  else if code = Mech.link then inst < 3
  else if code = Mech.analogue then inst < v.channels
  else if code = Mech.acoustic then inst < v.paths
  else if code = Mech.contact then inst < 16 ∨ inst = 0x11
  else inst = 0xFFFF

/-- What an injected path fault does to the destinations it concerns, as a real one would (R219, R302, R415). -/
def State.injectPath (s : State) (code inst : Nat) : State :=
  if code = Mech.analogue then s.failType 3 (fun i => i = inst) 4
  else if code = Mech.pilot ∧ s.flag (F.ZONE_CTRL_FB_ON_PILOT inst) then (s.failRole inst 0 5).failRole inst 1 5
  else s

/-- SAFE.INJECT (R302, R427). -/
def cmdSafeInject : Cmd where
  opcode := 0x0C07
  chan := .mb0
  denied := fun _ s => s.rd R.SAFE_LOCK ≠ 0
  arg := fun k s => firstBad [lenIs k 1, fld 0 0 (k.f 0 0 8 < 24), resv k 0 0xFFFF00FF,
    fld 0 16 (s.instanceOk (k.f 0 0 8) (k.f 0 16 16))]
  refuse := fun _ s => if s.squallActive then some St.state else none
  act := fun k _ s => ans ((s.put F.SAFE_INJECT_CODE (k.f 0 0 8)).put F.SAFE_INJECT_INSTANCE (k.f 0 16 16))
  after := fun k s =>
    let code := k.f 0 0 8
    let s := if 0x11 ≤ code ∧ code ≤ 0x14 then
        { s with safe := { s.safe with injectHold := code :: s.safe.injectHold.filter fun c => c ≠ code } } else s
    (s.injectPath code (k.f 0 16 16)).raise code (k.f 0 16 16) 0 0 0 true
def execSafeInject (k : Kcp) (s : State) : Host.Outcome State Fault Refusal := .next (kcpExec cmdSafeInject k s)

/-! Status, log and lock (R298, R302, R418). -/

/-- SAFE.GET_STATUS: of the lock mask, the sixteen bits that the response has room for (DEDUCED, notes/assumptions/18.md). -/
def cmdSafeGetStatus : Cmd where
  opcode := 0x0C01
  fault := true
  reads := true
  arg := fun k _ => firstBad [lenIs k 0]
  act := fun _ _ s =>
    let slots := (s.safe.keys.map fun k => 2 ^ k.1).sum
    ans s ([w32 (bits (s.rd R.SAFE_LOCK) 0 16 * 65536 + slots * 16 + b2n (s.flag F.SAFE_STATUS_DEBUG_UNLOCKED) * 2 +
      b2n (s.power = .fault)), lo32 s.safe.nonce, hi32 s.safe.nonce, s.rd R.SAFE_FAULT_CNT])
def execSafeGetStatus (k : Kcp) (s : State) : Host.Outcome State Fault Refusal := .next (kcpExec cmdSafeGetStatus k s)

/-- N records of the fault log from an index on; an index never written reads free words (DESIGN CHOICE, notes/assumptions/14.md). -/
def State.faultsFrom (s : State) (first : Nat) : Nat → List W32 × State
  | 0 => ([], s)
  | n + 1 =>
    let (r, s) := match kget s.safe.log (first % 4096) with
      | some r => (r, s)
      | none => s.drawWords 8
    let (rest, s) := s.faultsFrom (first + 1) n
    (r ++ rest, s)

/-- SAFE.GET_FAULTS. -/
def cmdSafeGetFaults : Cmd where
  opcode := 0x0C02
  fault := true
  reads := true
  arg := fun k _ => firstBad [lenIs k 1, resv k 0 0x1F0FFF, fld 0 16 (1 ≤ k.f 0 16 5)]
  act := fun k _ s =>
    let newest := s.get F.SAFE_LOG_NEWEST
    let (ws, s) := s.faultsFrom (k.f 0 0 12) (k.f 0 16 5)
    ans s (w32 newest :: ws)
def execSafeGetFaults (k : Kcp) (s : State) : Host.Outcome State Fault Refusal := .next (kcpExec cmdSafeGetFaults k s)

/-- SAFE.ACK_FAULTS (R418). -/
def cmdSafeAckFaults : Cmd where
  opcode := 0x0C03
  fault := true
  arg := fun k _ => firstBad [lenIs k 0]
  act := fun _ _ s =>
    let n := s.safe.prot.length
    let s := ({ s with safe := { s.safe with prot := [] } }).put F.SAFE_LOG_PROTECTED 0
    ans s.clearLatched [w32 n]
def execSafeAckFaults (k : Kcp) (s : State) : Host.Outcome State Fault Refusal := .next (kcpExec cmdSafeAckFaults k s)

/-- SAFE.SET_LOCK (R302). -/
def cmdSafeSetLock : Cmd where
  opcode := 0x0C04
  fault := true
  chan := .mb0
  arg := fun k _ => firstBad [lenIs k 1, resv k 0 0x1FFFFE]
  act := fun k _ s => ans (s.wr R.SAFE_LOCK (k.w 0))
def execSafeSetLock (k : Kcp) (s : State) : Host.Outcome State Fault Refusal := .next (kcpExec cmdSafeSetLock k s)

/-- SAFE.PROVISION (R299). -/
def cmdSafeProvision : Cmd where
  opcode := 0x0C05
  run := false
  chan := .mb0
  arg := fun k _ => firstBad [lenIs k 18, resv k 0 0x3, fld 1 0 (k.n 1 = 0x4B455931)]
  refuse := fun k s => if (kget s.safe.keys (k.f 0 0 2)).isSome then some St.state else none
  act := fun k _ s => ans { s with safe := { s.safe with keys := kput s.safe.keys (k.f 0 0 2) (k.payload.drop 2) } }
def execSafeProvision (k : Kcp) (s : State) : Host.Outcome State Fault Refusal := .next (kcpExec cmdSafeProvision k s)

/-- SAFE.DEBUG_UNLOCK (R302): NONCE changes after every one that is judged, whether it unlocks or is DENIED (DESIGN CHOICE, notes/assumptions/172.md). -/
def cmdSafeDebugUnlock : Cmd where
  opcode := 0x0C0A
  run := false
  chan := .mb0
  arg := fun k _ => firstBad [lenIs k 16]
  act := fun k _ s =>
    let text := bytesOfWords [lo32 (Config.deviceId 0), lo32 (Config.deviceId 1), lo32 s.safe.nonce, hi32 s.safe.nonce]
    let ok := s.keyInForce.any fun key => Config.ecdsaOk key (Config.sha256 text) k.payload
    let s := { s with safe := { s.safe with nonce := Config.nonceAfter s.safe.nonce } }
    if ok then ans (s.set F.SAFE_STATUS_DEBUG_UNLOCKED) else { state := s, status := some St.denied }
def execSafeDebugUnlock (k : Kcp) (s : State) : Host.Outcome State Fault Refusal := .next (kcpExec cmdSafeDebugUnlock k s)

/-! The return from FAULT (R300, R416). -/

/-- A register whose configuration a SAFE reset clears under R487 and that the return from FAULT therefore clears. -/
def State.recoverClears (s : State) (a : Nat) : Bool :=
  settingReg a && (decide (0x11000 ≤ a ∧ a < 0x13000) || decide (0x30000 ≤ a ∧ a < 0x35000) ||
    decide (0x44000 ≤ a ∧ a < 0x46000) || decide (a = R.AGE_CTRL ∨ a = R.AGE_LIMITS) ||
    (decide (0x41000 ≤ a ∧ a < 0x42000) && !s.lullTimers.contains ((a - 0x41000) / 0x40)))

/-- Configuration as R487 gives it for a SAFE reset (R300): what the table does not call configuration stays
(DEDUCED, notes/assumptions/19.md). -/
def State.recoverConfig (s : State) : State :=
  let s := { s with
    regs := s.regs.filter fun p => ¬ s.recoverClears p.1 ∧ ¬ (0x34000 ≤ p.1 ∧ p.1 < 0x35000),
    zones := [], groups := [], ports := [], mix := MixSt.init, anaTrim := none,
    ana := s.ana.map fun c => { AnaSt.init c.n with trims := c.trims, drift := c.drift },
    disp := { DispSt.init with gens := s.disp.gens },
    timers := s.timers.filter fun t => s.lullTimers.contains t.n,
    time := { s.time with refsPending := none, rate := none },
    kernel := { s.kernel with pend := [], images := [] } }
  let s := forEach (List.range (s.variant.bricks + s.variant.spares)) s fun n s =>
    (s.wr (R.BRICK_KERNEL n) (regReset s.variant (R.BRICK_KERNEL n))).set (F.BRICK_MAP_CLOSED n) false
  s.setUsable (slotsFor s.plannedMhz s.rate)

/-- The device leaves FAULT for IDLE. -/
def State.recover (s : State) : State :=
  let s := s.recoverConfig.logAll.clearLatched
  let s := s.changePower .idle
  let s := s.put F.SAFE_STATUS_CAUSE 0xFF
  let s := { s with safe := { s.safe with muteCode := none } }
  (s.set F.SAFE_ALIVE_STAT_FROZEN (¬ s.aliveOk)).set F.SAFE_STATUS_ALIVE_RUN s.aliveOk

/-- SAFE.RECOVER (R300, R416). -/
def cmdSafeRecover : Cmd where
  opcode := 0x0C06
  kind := .deferred
  idle := false
  run := false
  fault := true
  chan := .mb0
  arg := fun k _ => firstBad [lenIs k 0]
  refuse := fun _ s =>
    if s.safe.muteCode.any fun c => s.flag (F.SAFE_MECH_STAT_ACTIVE c) then some St.state else none
  after := fun _ s => s.recover
def execSafeRecover (k : Kcp) (s : State) : Host.Outcome State Fault Refusal := .next (kcpExec cmdSafeRecover k s)

/-! Updates (R301, R445). -/

/-- Bytes of a region per copy. -/
def regionBytes (r : Nat) : Nat := if r = 0 then 4194304 else 2097152

/-- SAFE.UPDATE. -/
def cmdSafeUpdate : Cmd where
  opcode := 0x0C08
  kind := .bulk
  chan := .mb0
  arg := fun k _ => firstBad [lenIs k 2, fld 0 0 (k.f 0 0 2 ≤ 1), resv k 0 0x103,
    fld 1 0 (64 ≤ k.n 1 ∧ k.n 1 ≤ regionBytes (k.f 0 0 2))]
  refuse := fun k s =>
    if s.safe.update.isSome ∨ (¬ k.bit 0 8 ∧ s.banks.vc1 ≠ 0) then some St.state else none
  act := fun k _ s =>
    let s := { s with safe := { s.safe with update := some (k.f 0 0 2, Load.opened (k.n 1) false (k.bit 0 8)) } }
    ans (if k.bit 0 8 then s else { s with banks := { s.banks with vc1 := 3 } })
def execSafeUpdate (k : Kcp) (s : State) : Host.Outcome State Fault Refusal := .next (kcpExec cmdSafeUpdate k s)

/-- SAFE.UPDATE_WRITE. -/
def cmdSafeUpdateWrite : Cmd where
  opcode := 0x0C09
  chan := .mb0
  arg := fun k s => firstBad [(3 ≤ k.words, hdrOff), fld 0 0 (1 ≤ k.f 0 0 10 ∧ k.f 0 0 10 ≤ 1016), resv k 0 0x3FF,
    lenIs k (2 + wordsFor (k.f 0 0 10)),
    fld 1 0 (match s.safe.update with
      | some (_, l) => ¬ l.mailbox ∨ k.n 1 + k.f 0 0 10 ≤ l.len
      | none => true)]
  refuse := fun _ s => match s.safe.update with
    | some (_, l) => if l.mailbox ∧ ¬ l.complete then none else some St.state
    | none => some St.state
  act := fun k _ s => match s.safe.update with
    | some (r, l) => ans { s with safe := { s.safe with
        update := some (r, l.write (k.n 1) (k.bytes 2 (k.f 0 0 10))) } }
    | none => ans s
def execSafeUpdateWrite (k : Kcp) (s : State) : Host.Outcome State Fault Refusal := .next (kcpExec cmdSafeUpdateWrite k s)

/-- Install a copy in the place of the one not in use, with a higher sequence number (R445). -/
def install (a b : NorCopy) (bs : List Byte) (version : W32) : NorCopy × NorCopy :=
  let seq := max a.seq b.seq + 1
  let c : NorCopy := ⟨true, seq, version, bs⟩
  if (pickCopy a b).any Prod.fst then (c, b) else if (pickCopy a b).isSome then (a, c) else (c, b)

/-- The copies of the firmware or the vault after an update. -/
def norUpdate (f : NorImage) (r : Nat) (bs : List Byte) : NorImage :=
  if r = 0 then
    let (a, b) := install f.fwA f.fwB bs (Config.fwVersion bs)
    { f with fwA := a, fwB := b }
  else
    let (a, b) := install f.vaultA f.vaultB bs 0
    { f with vaultA := a, vaultB := b }

/-- The result of R301 for an update image, before it is written. -/
def State.updateResult (s : State) (r : Nat) (l : Load) : Nat :=
  let bs := bytesAt l.bytes 0 l.len
  if l.badLength then 0x02
  else if r = 0 then
    if ¬ Config.fwFormatOk bs then 0x01 else if ¬ signedBy Config.vorucKey bs then 0x03 else 0
  else if byteWord l.bytes 0 ≠ 0x425A4D4C ∨ l.bytes.get 5 ≠ 0x01 then 0x01
  else if s.keyInForce.any fun key => signedBy key bs then 0 else 0x03

/-- SAFE_UPDATE_IMAGE_COMPLETE (R301): the last byte has arrived; `norOk` says that the NOR was written and read back. -/
def execSafeUpdateImageComplete (norOk : Bool) (s : State) : Host.Outcome State Fault Refusal :=
  .next (match s.safe.update with
    | none => s
    | some (r, l) =>
      if ¬ l.complete ∨ ¬ s.running then s
      else
        let res := s.updateResult r l
        let s := { s with safe := { s.safe with update := none } }
        let s := if l.mailbox then s else { s with banks := { s.banks with vc1 := 0 } }
        let s := if res ≠ 0 then s
          else if ¬ norOk then s.set F.MEMIF_STATUS_NOR_ERR
          else
            let f := norUpdate s.nor.flash r (bytesAt l.bytes 0 l.len)
            let s : State := { s with nor := { s.nor with flash := f } }
            let s := s.noteErase (r + 1)
            (s.showRegion 1 f.fwA f.fwB).showRegion 2 f.vaultA f.vaultB
        s.post 0x0C01 r [w32 (if res = 0 ∧ ¬ norOk then 0x04 else res)])

end Sys2Proof.Machine
end

