-- ==== Sys2Proof/Machine/Time.lean ====
section
/-! DEFINITION. Media time and the references (R24–R47): edges and what they say of a reference, selection, holdover, phase
steps, the epoch, rate changes up to their rebase, the run-ahead depth, and the TIME commands. -/

namespace Sys2Proof.Machine

/-! The state of a reference (R29). -/
namespace Ref
def off : Nat := 0
def qualifying : Nat := 1
def valid : Nat := 2
def selected : Nat := 3
def lost : Nat := 4
def mismatch : Nat := 5
end Ref

/-! TIME_STATUS.MODE (R36). -/
namespace Mode
def freerun : Nat := 0
def acquire : Nat := 1
def locked : Nat := 2
def holdover : Nat := 3
end Mode

def State.refState (s : State) (n : Nat) : Nat := s.get (F.TIME_REF_STAT_STATE n)

/-- A reference changes state; LAST_CHANGE shows when. -/
def State.refTo (s : State) (n st : Nat) : State :=
  if s.refState n = st then s
  else (s.put (F.TIME_REF_STAT_STATE n) st).put (F.TIME_REF_LAST_CHANGE_BLOCK n) s.blockNow

/-- A qualification starts, or starts again (R30). -/
def State.refRequalify (s : State) (n : Nat) : State :=
  let s := (s.refTo n Ref.qualifying).put (F.TIME_REF_QUAL_LEFT_QUAL_LEFT n) (s.get (F.TIME_REF_CFG_QUAL_MS n))
  { s with time := { s.time with qualRun := kput s.time.qualRun n 0 } }

/-- No qualification runs (QUAL_LEFT). -/
def State.refNoQual (s : State) (n : Nat) : State :=
  { s with time := { s.time with qualRun := kdel s.time.qualRun n } }.put (F.TIME_REF_QUAL_LEFT_QUAL_LEFT n) 0

/-- The expected period of a reference in 1/16 ns, as a fraction (R28). -/
def State.refPeriod (s : State) (n : Nat) : Nat × Nat :=
  let k := s.get (F.TIME_REF_CFG_DIV_EXP n)
  match n with
  | 0 => (s.bl * 16000000000, s.hz)
  | 1 => if s.get (F.TIME_REF_CFG_MODE 1) = 1 then (1600, 1) else (2 ^ min k 10 * 16000000000, s.hz)
  | 2 => (500000000 * 2 ^ min k 5, 1)
  | _ => (0, 1)

/-- A period lies within ±1 % of the expected one (R31). -/
def periodGood (p : Nat) (e : Nat × Nat) : Bool := ((p * e.2 : Nat) - (e.1 : Nat) : Int).natAbs * 100 ≤ e.1

/-- Periods agree with each other within ±1 % (R33). -/
def periodsAgree (l : List Nat) : Bool :=
  let hi := l.foldl max 0
  let lo := l.foldl min hi
  (hi - lo) * 100 ≤ lo

/-- A reference is enabled: by its register, or as the course link of a course that is not the keystone; the keystone does
not use its own course link (R46) (DEDUCED, notes/assumptions/116.md). -/
def State.refEnabled (s : State) (n : Nat) : Bool :=
  if n = 3 then true
  else if n = 0 ∧ s.cascade then ¬ s.isKeystone
  else s.flag (F.TIME_REF_CFG_EN n)

/-! Modes (R34–R36). -/

def State.src (s : State) : Nat := s.get F.TIME_STATUS_SRC
def State.mode (s : State) : Nat := s.get F.TIME_STATUS_MODE

/-- The mode while a reference is SELECTED: LOCKED while the MPLL is locked and no slew runs, once its phase has been measured after
the selection (R36). -/
def State.lockCheck (s : State) : State :=
  if s.src = 3 then s
  else if s.flag F.TIME_STATUS_MPLL_LOCK ∧ ¬ s.flag F.TIME_STATUS_SLEWING ∧ ¬ s.time.acquiring then
    { s.put F.TIME_STATUS_MODE Mode.locked with time := { s.time with everLocked := true } }
  else s.put F.TIME_STATUS_MODE Mode.acquire

/-- No reference is followed (R34, R35): HOLDOVER on the offset last measured, or FREERUN where the device has never locked. -/
def State.toHoldover (s : State) : State :=
  let s := (s.put F.TIME_STATUS_MODE (if s.time.everLocked then Mode.holdover else Mode.freerun)).put F.TIME_STATUS_SRC 3
  let s := (s.set F.TIME_STATUS_SLEWING false).refTo 3 Ref.selected
  let s := s.put F.TIME_FREQ_CORR (if s.time.everLocked then unsigned 32 s.time.lockedOffset else 0)
  { s.put F.TIME_HOLDOVER_SECONDS 0 with time := { s.time with measureDue := false, acquiring := false, keptOff := 0 } }

/-- A reference becomes LOST, or MISMATCH (R31, R33) (DEDUCED, notes/assumptions/120.md). -/
def State.refLose (s : State) (n : Nat) (mis : Bool) : State :=
  let st := if mis then Ref.mismatch else Ref.lost
  if s.refState n = st ∨ s.refState n = Ref.off then s
  else
    let was : Bool := s.refState n = Ref.selected
    let s := ((s.refTo n st).bumpSat (F.TIME_REF_COUNT_LOSS_CNT n)).refNoQual n
    let s := { s with time := { s.time with edgeSums := kdel s.time.edgeSums n } }
    let s := if was then s.toHoldover else s
    let s :=
      if mis then (s.set F.TIME_FLAGS_RATE_MISMATCH).post 0x1403 n [s.rd (R.TIME_REF_PERIOD n)]
      else if was then (s.set F.TIME_FLAGS_LOST).post 0x1401 n [w32 s.mode, s.rd (R.TIME_REF_FERR n)]
      else s
    s.raise Mech.timeRef n 0 0 0

/-! Phase steps (R37). -/

/-- A slew begins. -/
def State.slewPhase (s : State) : State := s.set F.TIME_STATUS_SLEWING

/-- Record a step above 2 samples (TIME_FLAGS.STEP, TIME_STEP_LAST). -/
def State.noteStep (s : State) (x : Int) : State :=
  (s.set F.TIME_FLAGS_STEP).put F.TIME_STEP_LAST_STEP (unsigned 32 (clampI (-2147483648) 2147483647 x))

/-- A signed 32-bit word that saturates. -/
def satWord (x : Int) : W32 := w32 (unsigned 32 (clampI (-2147483648) 2147483647 x))

/-- The body of a TIME message (R333). -/
def timeBody (c : TimeChange) : List W32 :=
  match c with
  | .jump d b => [1, w32 d, w32 b]
  | .rate r b => [2, w32 r.val, w32 b]
  | .runAhead r b => [3, w32 r, w32 b]
  | .epoch m b => [4, lo32 m.toNat, hi32 m.toNat, w32 b]
  | .offset p => [5, w32 p]

/-- This device decides for the whole cascade: it is the keystone's active twin (R40, R341, R346). -/
def State.leads (s : State) : Bool := s.cascade ∧ s.isKeystone ∧ ¬ s.standby

/-- The keystone of a cascade tells every course of a change (R40). -/
def State.tellTime (s : State) (c : TimeChange) : State :=
  if s.leads then s.courseSend 0x3 (timeBody c) else s

/-- The block from which every course of the cascade knows of a change that the keystone decides now (R40, R46). -/
def State.toldBlock (s : State) : Nat := s.blockNow + s.pOff + 1

/-- Resolve a phase step measured against reference n, in 1/256 sample (R37). A jump takes effect at the next block tick, in a
cascade at the tick by which every course knows of it (R40); the keystone's standby twin leaves the decision to the active one
(DEDUCED, notes/assumptions/123.md). -/
def State.phaseStep (s : State) (n : Nat) (x : Int) : State :=
  let one : Int := s.bl * 256
  let a := x.natAbs
  if a ≤ 16 then s
  else if a ≤ 512 then s.slewPhase
  else if a ≤ s.bl * 256 then ((s.noteStep x).slewPhase).post 0x1402 n [satWord x, 0, 0, 0]
  else if x < 0 then
    let s := ((s.noteStep x).set F.TIME_FLAGS_BEHIND).post 0x1402 n [satWord x, 0, 0, 1]
    { s with time := { s.time with keptOff := x } }
  else if s.cascade ∧ s.isKeystone ∧ s.standby then s.noteStep x
  else
    let d := (x / one).toNat
    let b := s.toldBlock
    let s := (s.noteStep x).set F.TIME_STATUS_JUMP_PEND
    let s := { s with time := { s.time with jump := some ⟨d, b, x, some n⟩ } }
    let s := s.tellTime (.jump d b)
    if 16 < x % one then s.slewPhase else s

/-- A phase measured while LOCKED (R37). With an offset kept from a step behind, a reference that stays more than a block behind is
followed at that offset, and a further step of more than a block gives a new one; one that is no longer so far behind is resolved
by its phase, and no offset is kept (DEDUCED, notes/assumptions/123.md). -/
def State.phaseFollow (s : State) (n : Nat) (x : Int) : State :=
  let k := s.time.keptOff
  let one : Int := s.bl * 256
  if k = 0 then s.phaseStep n x
  else if x < -one then s.phaseStep n (if (x - k).natAbs ≤ s.bl * 256 then x - k else x)
  else { s with time := { s.time with keptOff := 0 } }.phaseStep n x

/-- The phase of an edge of the selected reference is measured (R37): once after a selection or an epoch load, and then while
LOCKED. -/
def State.measure (s : State) (n : Nat) (x : Int) : State :=
  let s := s.put (F.TIME_REF_OFFSET_OFFSET n) (satWord x).toNat
  if s.time.jump.isSome then s
  else if s.time.measureDue then
    ({ s with time := { s.time with measureDue := false, acquiring := false } }.phaseStep n x).lockCheck
  else if s.mode = Mode.locked then (s.phaseFollow n x).lockCheck
  else s

/-! Edges (R31–R33). -/

/-- The mean period over 256 edges and the frequency that follows from it (TIME_REF[n]_PERIOD, TIME_REF[n]_FERR); while the
reference is followed, the correction applied (TIME_FREQ) (DEDUCED, notes/assumptions/119.md). -/
def State.edgeMean (s : State) (n p : Nat) : State :=
  let (c, t) := (kget s.time.edgeSums n).getD (0, 0)
  if c + 1 < 256 then { s with time := { s.time with edgeSums := kput s.time.edgeSums n (c + 1, t + p) } }
  else
    let t := t + p
    let s := { s with time := { s.time with edgeSums := kdel s.time.edgeSums n } }
    let s := s.put (F.TIME_REF_PERIOD_PERIOD n) (min (2 ^ 32 - 1) (if n = 2 then t / 256 / 16000 else t / 256))
    let e := s.refPeriod n
    let ferr : Int := ((e.1 * 256 : Nat) - (t * e.2 : Nat) : Int) * 1024000000 / ((t * e.2 : Nat) : Int)
    let s := s.put (F.TIME_REF_FERR_FERR n) (satWord ferr).toNat
    if s.src = n then
      { s with time := { s.time with lockedOffset := ferr } }.put F.TIME_FREQ_CORR (satWord ferr).toNat
    else s

/-- A good edge: BAD_RUN is 0, a reference that was LOST or in MISMATCH qualifies again (R29, R31). -/
def State.goodEdge (s : State) (n p : Nat) : State :=
  let s := (s.put (F.TIME_REF_STAT_BAD_RUN n) 0).edgeMean n p
  let s := { s with time := { s.time with badPeriods := kdel s.time.badPeriods n } }
  if s.refState n = Ref.lost ∨ s.refState n = Ref.mismatch then s.refRequalify n else s

/-- A bad edge (R31, R33). -/
def State.badEdge (s : State) (n p : Nat) : State :=
  let l := (p :: (kget s.time.badPeriods n).getD []).take 8
  let s := { s with time := { s.time with badPeriods := kput s.time.badPeriods n l } }
  let s := s.bumpSat (F.TIME_REF_COUNT_GLITCH_CNT n)
  let s := s.put (F.TIME_REF_STAT_BAD_RUN n) (min 8 (s.get (F.TIME_REF_STAT_BAD_RUN n) + 1))
  let s := if s.refState n = Ref.qualifying then s.refRequalify n else s
  if l.length < 8 then s else s.refLose n (periodsAgree l)

/-- An edge of a reference, whether the period since the one before it is good, that period in 1/16 ns, and its phase against MT
(R28, R31). In 10 MHz mode the phase comes from the second (R32) (DEDUCED, notes/assumptions/115.md). -/
def State.edge (s : State) (n p : Nat) (good : Bool) (x : Int) : State :=
  if n = 3 ∨ s.refState n = Ref.off ∨ ¬ s.running then s
  else if good then
    let s := s.goodEdge n p
    if s.refState n = Ref.selected ∧ ¬ (n = 1 ∧ s.get (F.TIME_REF_CFG_MODE 1) = 1) then s.measure n x else s
  else s.badEdge n p

/-- REF_EDGE (R31). -/
def execRefEdge (n : Fin 4) (period : Nat) (offset : Int) (s : State) : Host.Outcome State Fault Refusal :=
  .next (s.edge n period (periodGood period (s.refPeriod n)) offset)

/-- REF_EDGE_TIMEOUT (R31): no edge within 2 expected periods. -/
def execRefEdgeTimeout (n : Fin 4) (s : State) : Host.Outcome State Fault Refusal :=
  .next (if n = 3 ∨ ¬ s.running then s else s.refLose n false)

/-- REF_QUALIFIED (R30): the reference may be selected at the next block tick. -/
def execRefQualified (n : Fin 4) (s : State) : Host.Outcome State Fault Refusal :=
  .next (if s.refState n = Ref.qualifying ∧ s.running then (s.refTo n Ref.valid).refNoQual n else s)

/-- SLEW_DONE (R37). -/
def execSlewDone (s : State) : Host.Outcome State Fault Refusal :=
  .next (if s.flag F.TIME_STATUS_SLEWING then (s.set F.TIME_STATUS_SLEWING false).lockCheck else s)

/-- The interval between two time messages is known to less than a block, since each names a frame: it is good where an interval
that differs by less than a block from what the frames span is (R28, R31) (DEDUCED, notes/assumptions/118.md). -/
def State.messageGood (s : State) (p : Nat) : Bool :=
  let e := (s.refPeriod 2).1
  periodGood p (s.refPeriod 2) ∨ ((p : Int) - e).natAbs * s.hz < s.bl * 16000000000 + e * s.hz / 100

/-- TIME_MESSAGE (R28, R308): an edge of reference 2. Its interval is the difference of the frames named; the phase within a
block of the frame's start is a free value (DESIGN CHOICE, notes/assumptions/118.md). -/
def execTimeMessage (mt : W64) (frame : W32) (crcOk : Bool) (s : State) : Host.Outcome State Fault Refusal :=
  .next (
    if ¬ crcOk ∨ ¬ s.running then s
    else
      let before := s.time.msgFrame
      let s := { s with time := { s.time with msgFrame := some frame.toNat } }
      match before with
      | none => s
      | some f =>
        let p := (frame.toNat + 2 ^ 32 - f) % 2 ^ 32 * s.bl * 16000000000 / s.hz
        let (u, s) := s.draw
        let ago := ((s.rd R.STRM_RX_FRAME).toNat + 2 ^ 32 - frame.toNat) % 2 ^ 32
        let x : Int := ((mt.toNat : Int) - (s.time.mt : Int) + (ago * s.bl : Nat)) * 256 - (u % (s.bl * 256) : Nat)
        s.edge 2 p (s.messageGood p) x)

/-! Selection at a block tick (R30). -/

/-- The reference that TIME_CTRL.FORCE_REF pins, if it names one. -/
def State.forcedRef (s : State) : Option Nat :=
  let f := s.get F.TIME_CTRL_FORCE_REF
  if 1 ≤ f ∧ f ≤ 4 then some (f - 1) else none

/-- The reference qualifies for selection: it is VALID or SELECTED. -/
def State.refUsable (s : State) (n : Nat) : Bool := s.refState n = Ref.valid ∨ s.refState n = Ref.selected

/-- This course follows a keystone: the course link is its reference (R46). -/
def State.follows (s : State) : Bool := s.cascade ∧ ¬ s.isKeystone

/-- The rank of a reference: that of its register, 0 for the course link of a course that follows it (R30, R46). -/
def State.refRank (s : State) (n : Nat) : Nat := if n = 0 ∧ s.follows then 0 else s.get (F.TIME_REF_CFG_RANK n)

/-- The qualified reference of the lowest rank, ties to the lower number (R30). -/
def State.bestRef (s : State) : Nat :=
  ((List.range 4).filter s.refUsable).foldl
    (fun b n => if s.refRank n < s.refRank b ∨ (s.refRank n = s.refRank b ∧ n < b) then n else b) 3

/-- The reference that the device should follow now (R30): the course link alone on a course that follows a keystone (R46)
(DEDUCED, notes/assumptions/121.md). -/
def State.wantRef (s : State) : Nat :=
  if s.follows then if s.refUsable 0 then 0 else 3
  else match s.forcedRef with
  | some n => if s.refUsable n then n else 3
  | none => if ¬ s.flag F.TIME_CTRL_REVERT ∧ s.src ≠ 3 ∧ s.refState s.src = Ref.selected then s.src else s.bestRef

/-- Follow a reference from this tick (R30, R36). -/
def State.followRef (s : State) (n : Nat) : State :=
  if n = s.src then s
  else
    let s := if s.refState s.src = Ref.selected then s.refTo s.src Ref.valid else s
    if n = 3 then s.toHoldover
    else
      let s := ((s.refTo n Ref.selected).put F.TIME_STATUS_SRC n).set F.TIME_STATUS_SLEWING false
      { s with time := { s.time with measureDue := true, acquiring := true, keptOff := 0 } }.put F.TIME_STATUS_MODE Mode.acquire

/-- The images of TIME.SET_REFS take effect (R47); EN of the TCXO cannot be cleared. -/
def State.takeRefs (s : State) : State :=
  match s.time.refsPending with
  | none => s
  | some ws =>
    let s := s.writeImage [R.TIME_CTRL, R.TIME_REF_CFG 0, R.TIME_REF_CFG 1, R.TIME_REF_CFG 2, R.TIME_REF_CFG 3] ws
    { s with time := { s.time with refsPending := none } }.set (F.TIME_REF_CFG_EN 3)

/-- The references at a block tick (R29, R30): enables, qualification times, selection. -/
def State.refTick (s : State) : State :=
  let s := s.takeRefs
  let s := forEach [0, 1, 2] s fun n s =>
    let on := s.refEnabled n
    let st := s.refState n
    if on ∧ st = Ref.off then s.refRequalify n
    else if ¬ on ∧ st ≠ Ref.off then
      let s := (s.refTo n Ref.off).refNoQual n
      if st = Ref.selected then s.toHoldover else s
    else if st = Ref.qualifying then
      let r := (kget s.time.qualRun n).getD 0 + s.bl
      let s := { s with time := { s.time with qualRun := kput s.time.qualRun n r } }
      s.put (F.TIME_REF_QUAL_LEFT_QUAL_LEFT n) (s.get (F.TIME_REF_CFG_QUAL_MS n) - r * 1000 / s.hz)
    else s
  (s.followRef s.wantRef).lockCheck

/-! The MPLL (R36, R41). -/

/-- MPLL_LOSS_OF_LOCK (R36). -/
def execMpllLossOfLock (s : State) : Host.Outcome State Fault Refusal :=
  .next (
    if s.running ∧ s.flag F.TIME_STATUS_MPLL_LOCK then
      ((s.set F.TIME_STATUS_MPLL_LOCK false).set F.TIME_FLAGS_MPLL_UNLOCK).lockCheck
    else s)

/-- MPLL_RELOCK_DONE (R41): the relock that a rate change waits for is over too. -/
def execMpllRelockDone (us : Nat) (s : State) : Host.Outcome State Fault Refusal :=
  .next (
    if ¬ s.running then s
    else
      let s := ((s.set F.TIME_STATUS_MPLL_LOCK).bumpSat F.TIME_MPLL_RELOCK_CNT).put F.TIME_MPLL_LAST_LOCK_US (min 65535 us)
      let s := { s with time := { s.time with rate := s.time.rate.map fun (r : RateChange) => { r with relock := false } } }
      s.lockCheck)

/-! The epoch (R44, R535, R536). -/

/-- A pending load by command is cancelled: its TIME_EPOCH_SET carries the value not loaded (R535). -/
def State.dropEpoch (s : State) : State :=
  match s.time.epoch with
  | some e => if e.byCommand then s.post 0x1405 0xFFFF [lo32 e.value, hi32 e.value, 1] else s
  | none => s

/-- A change of media time: what becomes of a sample, of a block, and of a length in samples (R38, R41, R536). -/
structure TimeMap where
  m : Nat → Nat
  mb : Nat → Nat
  len : Nat → Nat

/-- A sample of the internal rate. -/
def TimeMap.inner (f : TimeMap) (t : Nat) : Nat := 2 * f.m (t / 2) + t % 2

/-- A length that has begun and of which some is left at a sample: what is left is scaled (R52). -/
def TimeMap.span (f : TimeMap) (start len now : Nat) : Nat :=
  if now ≤ start then f.len len else if start + len ≤ now then len else f.m now + f.len (start + len - now) - f.m start

/-- Fades, tiles and cursors after a change of media time. -/
def Fade.remap (x : Fade) (f : TimeMap) : Fade := { x with start := f.inner x.start, len := f.len x.len }
def Psj.remap (j : Psj) (f : TimeMap) : Psj := { j with ta := f.len j.ta, mb := f.inner j.mb }
def TilePlay.remap (t : TilePlay) (f : TimeMap) : TilePlay :=
  { t with
    first := f.inner t.first, nominal := f.inner t.nominal, ends := f.inner t.ends, enter := t.enter.remap f,
    leave := t.leave.map fun (x : Fade) => x.remap f, last := f.inner t.last,
    stopFade := t.stopFade.map fun (x : Fade) => x.remap f, psjIn := t.psjIn.map fun (j : Psj) => j.remap f,
    psjOut := t.psjOut.map fun (j : Psj) => j.remap f,
    marks := t.marks.map fun (x : Nat × Nat × Nat) => (f.inner x.1, x.2.1, f.len x.2.2),
    frames := t.frames.map fun (x : Nat × Int) => (f.inner x.1, x.2) }

/-- A sequencer after a change of media time. -/
def Seq.remap (q : Seq) (f : TimeMap) : Seq :=
  { q with
    now := f.m q.now,
    phase := match q.phase with
      | .tile r x b => .tile r (f.m x) (f.m b)
      | .gap b => .gap (f.m b)
      | .sync k l c x t since => .sync k l c x (f.m t) (f.m since)
      | p => p,
    hist := q.hist.map fun (h : Nat × Cursor) => (f.m h.1, h.2),
    insDone := q.insDone.map fun (d : Nat × Nat) => (d.1, f.mb d.2),
    played := q.played.map fun (t : TilePlay) => t.remap f,
    read := q.read.map fun (r : ReadAhead) => { r with next := r.next.map fun (t : TilePlay) => t.remap f } }

/-- The elements of a voice after a change of media time: what is left of a stage is scaled (R52). -/
def Synth.remap (x : Synth) (f : TimeMap) : Synth :=
  { x with
    ran := x.ran.map f.m,
    env := x.env.map fun (e : EnvSt) => { e with since := f.m e.since, len := f.span e.since e.len (x.ran.getD 0) },
    lfo := x.lfo.map fun (l : LfoSt) => { l with edge := l.edge.map fun (p : Nat × Int) => (f.m p.1, p.2) },
    began := f.inner x.began }

/-- What a voice carries after a change of media time. -/
def VoiceDyn.remap (d : VoiceDyn) (f : TimeMap) : VoiceDyn :=
  { d with
    startMt := f.m d.startMt, releaseAt := d.releaseAt.map f.m, cutAt := d.cutAt.map f.m, endBlock := d.endBlock.map f.mb,
    synth := d.synth.remap f, seq := d.seq.remap f }

/-- A voice after a change of media time: what its rendering carries by one map, and what is held for it by another (R38, R41, R536). -/
def Voice.remap (v : Voice) (f g : TimeMap) : Voice :=
  { v with
    toVoiceDyn := v.toVoiceDyn.remap f,
    edits := v.edits.map fun (e : Edit) => { e with mt := g.m e.mt, due := g.m e.due },
    stop := v.stop.map fun (x : VoiceStop) => { x with mt := g.m x.mt },
    next := g.mb v.next, staged := v.staged.map fun (t : Staged) => { t with block := g.mb t.block },
    ckpts := v.ckpts.map fun (c : Ckpt) => { c with block := g.mb c.block, dyn := c.dyn.remap f },
    rollback := v.rollback.map g.mb, rollPeriod := v.rollPeriod.map g.mb, redo := v.redo.map g.mb,
    lives := v.lives.map fun (l : Nat × Option Nat) => (g.mb l.1, l.2.map g.mb), gapFrom := v.gapFrom.map g.mb }

/-- A ramp after a change of media time. -/
def Leg.remap (r : Leg) (m : Nat → Nat) : Leg := { r with start := m r.start }
def Ramp.remap (r : Ramp) (m : Nat → Nat) : Ramp := ⟨r.toLeg.remap m, r.past.map fun l => l.remap m⟩

/-- A zone's pending times after a change. -/
def Zone.remap (z : Zone) (m mb : Nat → Nat) : Zone :=
  { z with
    oldInputs := z.oldInputs.map fun (p : List Nat × Nat) => (p.1, m p.2), ducks := z.ducks.map fun (r : Ramp) => r.remap m,
    olds := z.olds.map fun (o : Nat × ZoneSet) => (m o.1, o.2),
    oldEq := z.oldEq.map fun (p : List Biquad × Nat) => (p.1, m p.2),
    oldFir := z.oldFir.map fun (p : List Int × Nat) => (p.1, m p.2),
    oldDelay := z.oldDelay.map fun (p : Nat × Nat) => (p.1, m p.2),
    ramps := z.ramps.map fun (r : Ramp) => r.remap m,
    leaving := z.leaving.map fun (p : W32 × Ramp) => (p.1, p.2.remap m),
    gain := z.gain.remap m, pilotOn := z.pilotOn.remap m, fade := z.fade.remap m,
    sent := z.sent.map (fun (a : Audio) => { a with block := mb a.block }), pilots := z.pilots.map fun (a : Audio) => { a with block := mb a.block } }

/-- The mix matrix's times after a change. -/
def MixSt.remap (x : MixSt) (m mb : Nat → Nat) : MixSt :=
  let au := fun (l : List Audio) => l.map fun (a : Audio) => { a with block := mb a.block }
  { x with
    pend := x.pend.map fun (p : TapPend) => { p with mt := m p.mt },
    taps := x.taps.map fun (t : Tap) => { t with ramp := t.ramp.remap m, duck := t.duck.remap m },
    send := x.send.map fun (t : Tap × Ramp) =>
      ({ t.1 with ramp := t.1.ramp.remap m, duck := t.1.duck.remap m }, t.2.remap m),
    sendStops := x.sendStops.map fun (p : Nat × Nat) => (p.1, m p.2),
    gens := x.gens.map fun (g : Gen) => { g with
      level := g.level.remap m, setMt := m g.setMt, past := g.past.map fun (p : Nat × Nat × Nat × Nat) => (p.1, p.2.1, p.2.2.1, m p.2.2.2) },
    inputs := au x.inputs, buses := au x.buses, auxOuts := au x.auxOuts,
    auxOld := x.auxOld.map fun (p : Nat × Nat × List W32) => (p.1, m p.2.1, p.2.2),
    live := x.live.map fun (l : Nat × Nat × Nat) => (l.1, l.2.1, mb l.2.2) }

/-- Everything that is held in media time after a change of it (R41, R536). -/
def State.remap (s : State) (f : TimeMap) : State :=
  let m := f.m
  let mb := f.mb
  let log := fun (l : List (Nat × Nat × Nat)) => l.map fun (c : Nat × Nat × Nat) => (m c.1, c.2)
  let au := fun (l : List Audio) => l.map fun (a : Audio) => { a with block := mb a.block }
  let s := { s with
    timed := s.timed.map fun (t : Timed) => { t with mt := m t.mt },
    disp := { s.disp with
      jobs := s.disp.jobs.map fun (j : Job) => { j with
        startAt := m j.startAt, sortAt := m j.sortAt, wantBlock := mb j.wantBlock, readyAt := mb j.readyAt, firstMt := j.firstMt.map m,
        releaseAt := j.releaseAt.map m },
      voices := s.disp.voices.map fun (v : Voice) => v.remap f f,
      insertions := s.disp.insertions.map fun (i : Nat × Nat × Nat × Nat) => (i.1, i.2.1, i.2.2.1, mb i.2.2.2),
      contactLog := log s.disp.contactLog, ambientLog := log s.disp.ambientLog,
      waits := s.disp.waits.map fun (w : Nat × Nat × Nat) => (w.1, mb w.2.1, w.2.2) },
    mix := s.mix.remap m mb,
    zones := s.zones.map fun (z : Zone) => z.remap m mb,
    stream := { s.stream with outs := au s.stream.outs },
    course := { s.course with
      sends := au s.course.sends, rampFrom := s.course.rampFrom.map m,
      peers := s.course.peers.map fun (p : Peer) => { p with heard := m p.heard },
      taken := s.course.taken.map fun (p : Nat × Nat) => (p.1, m p.2),
      damaged := s.course.damaged.map fun (p : Nat × Nat) => (p.1, m p.2) },
    strike := { s.strike with
      matchMt := m s.strike.matchMt,
      pend := s.strike.pend.map fun (p : StrikePend) => { p with mt := m p.mt } },
    supv := { s.supv with
      dewStart := m s.supv.dewStart, pilotFrom := m s.supv.pilotFrom,
      dew := s.supv.dew.map fun (x : DewZone) => { x with endMt := m x.endMt } },
    kernel := { s.kernel with pend := s.kernel.pend.map fun (p : KPend) => { p with block := mb p.block } },
    dp := { s.dp with block := mb s.dp.block },
    banks := { s.banks with banks := s.banks.banks.map fun (b : Bank) => { b with emptyFrom := b.emptyFrom.map mb } },
    ports := s.ports.map fun (p : PortSt) => { p with
      tags := p.tags.map fun (x : Nat × Nat) => (x.1, m x.2), startAt := m p.startAt, stopAt := p.stopAt.map m,
      lastTag := p.lastTag.map m } }
  let s := { s with time := { s.time with
    epoch := s.time.epoch.map fun (e : EpochLoad) => { e with applyAt := m e.applyAt },
    jump := s.time.jump.map fun (j : Jump) => { j with at_ := mb j.at_ },
    rate := s.time.rate.map fun (r : RateChange) => { r with blockA := mb r.blockA } } }
  let s := s.wr64 R.STRK_MATCH_LO R.STRK_MATCH_HI (m (s.rd64 R.STRK_MATCH_LO R.STRK_MATCH_HI))
  s.wr64 R.SUPV_DEW_NEXT_LO R.SUPV_DEW_NEXT_HI (m (s.rd64 R.SUPV_DEW_NEXT_LO R.SUPV_DEW_NEXT_HI))

/-- Everything that is held in media time moves by Δ, a multiple of the block length (R536) (DEDUCED, notes/assumptions/99.md). -/
def State.shiftTime (s : State) (d : Int) : State :=
  s.remap ⟨fun x => ((x : Int) + d).toNat, fun b => ((b : Int) + d / (s.bl : Int)).toNat, id⟩

/-- The load (R536): MT takes the value at an instant at which it would have been `mt`, and what is held in media time moves
with it. The next phase measurement is resolved anew (DEDUCED, notes/assumptions/117.md). -/
def State.loadEpoch (s : State) (e : EpochLoad) : State :=
  let d : Int := (e.value : Int) - (s.time.mt : Int)
  let s := s.shiftTime d
  let s := { s with time := { s.time with
    mt := e.value, epoch := none, measureDue := s.src ≠ 3, keptOff := 0,
    rowJ := (((s.time.rowJ : Int) + d / (s.bl : Int)) % 16).toNat } }
  let s := s.set F.TIME_EPOCH_CTRL_ARM false
  s.postAt 0x1405 0xFFFF e.value [lo32 e.value, hi32 e.value, 0]

/-- A load that takes place at a PPS edge (R44): at once on a single device; in a cascade the keystone has every course load, at the
tick by which all of them know, the MT that the epoch has then (DEDUCED, notes/assumptions/191.md). -/
def State.epochAtPps (s : State) (e : EpochLoad) : State :=
  if s.leads then
    let b := s.toldBlock
    let v := e.value + (b - s.blockNow) * s.bl
    let s := { s with time := { s.time with epoch := some ⟨v, false, s.startOf b - 1, e.byCommand⟩ } }
    s.tellTime (.epoch (BitVec.ofNat 64 v) b)
  else s.loadEpoch e

/-- EPOCH_ARM (R44): a load of TIME_EPOCH waits for the next block tick or PPS edge, and in a cascade for the tick by which every course
knows of it; it replaces one that a command left pending (R535). The value is loaded as it stands, in whatever state and on
whatever course the register is written (DESIGN CHOICE, notes/assumptions/192.md). -/
def execEpochArm (s : State) : Host.Outcome State Fault Refusal :=
  .next (
    let v := s.rd64 R.TIME_EPOCH_LO R.TIME_EPOCH_HI
    let s := s.dropEpoch.set F.TIME_EPOCH_CTRL_ARM
    let pps := s.flag F.TIME_EPOCH_CTRL_WHEN
    let b := s.toldBlock
    if s.leads ∧ ¬ pps then
      let s := { s with time := { s.time with epoch := some ⟨v, false, s.startOf b - 1, false⟩ } }
      s.tellTime (.epoch (BitVec.ofNat 64 v) b)
    else { s with time := { s.time with epoch := some ⟨v, pps, s.time.mt, false⟩ } })

/-- PPS_EDGE (R32, R44): a good edge ends a run of bad ones; in 10 MHz mode it measures the phase, and one that returns is a
phase step; the first edge after an armed load's sample loads the epoch. -/
def execPpsEdge (good : Bool) (offset : Int) (s : State) : Host.Outcome State Fault Refusal :=
  .next (
    if ¬ s.running then s
    else
      let back : Bool := 2 ≤ s.time.ppsBad
      let s := { s with time := { s.time with ppsBad := if good then 0 else s.time.ppsBad + 1 } }
      let s := match s.time.epoch with
        | some e => if e.onPps ∧ e.applyAt < s.time.mt + s.bl then s.epochAtPps e else s
        | none => s
      if good ∧ s.src = 1 ∧ s.get (F.TIME_REF_CFG_MODE 1) = 1 then
        if back ∧ s.mode = Mode.locked then
          ((s.put (F.TIME_REF_OFFSET_OFFSET 1) (satWord offset).toNat).phaseStep 1 offset).lockCheck
        else s.measure 1 offset
      else s)

/-- PPS_LOSS (R32): the reference is not lost; the device holds the phase it had. -/
def execPpsLoss (s : State) : Host.Outcome State Fault Refusal :=
  .next (
    if s.running ∧ s.get (F.TIME_REF_CFG_MODE 1) = 1 ∧ s.refUsable 1 then
      { s.set F.TIME_FLAGS_PPS_LOST with time := { s.time with ppsBad := max 2 s.time.ppsBad } }
    else s)

/-! Rate changes up to their rebase (R41, R193, R210, R355). -/

/-- Tap entries in use but for those of voices on slots 64–127 (R193). -/
def State.lowTaps (s : State) : Nat :=
  (s.entryKeys.filter fun k => k.1 ≥ 8192 ∨ k.1 % 128 < 64).length + s.vrelKeys.length

/-- A change to a rate finds no room (R193, R210, R353). -/
def State.rateBlocked (s : State) (code : Nat) : Bool :=
  Config.double code ∧ ¬ Config.double s.rate ∧
    (98304 < s.lowTaps ∨
      (s.zones.any fun z => s.flag (F.ZONE_CTRL_EN z.n) ∧ 512 < z.fir.length) ∨
      (List.range 8).any fun n => s.get (F.APORT_FRAME_FRAME_BITS n) = 4 ∧ s.portState n ≠ Port.stopped)

/-- A rate change starts at block A (R41): RATE_CHANGING is set and outputs ramp to zero over the block; on a change to a double
rate, a job with a voice on slots 64–127 is stopped at the end of block A (R151). The Dew window closes (R407). -/
def State.rateBegin (s : State) : State :=
  match s.time.rate with
  | none => s
  | some r =>
    if r.ramped then s
    else
      let s := s.set F.TIME_STATUS_RATE_CHANGING
      let s := { s with time := { s.time with rate := some { r with ramped := true } } }
      let s := s.dewClose
      if Config.double r.code ∧ ¬ Config.double r.oldCode then
        let hit := ((s.disp.voices.filter fun v => 64 ≤ v.src % 128).map Voice.record).dedup
        forEach hit s fun x s => match s.job? x with
          | some j => s.stopJob j (s.startOf (r.blockA + 1)) 0x08
          | none => s
      else s

/-- RATE_CHANGE_START (R41): block A is the next block at the mix, or has been reached. -/
def execRateChangeStart (s : State) : Host.Outcome State Fault Refusal :=
  .next (
    match s.time.rate with
    | some r => if r.blockA ≤ s.commit + 1 then s.rateBegin else s
    | none => s)

/-- Schedule a rate change at block A. -/
def State.planRate (s : State) (code a : Nat) : State :=
  { s with time := { s.time with rate := some ⟨code, s.rate, a, false, false, false, 0, 0⟩ } }

/-! Commands (R47). -/

/-- TIME.GET. -/
def cmdTimeGet : Cmd where
  opcode := 0x1401
  fault := true
  reads := true
  arg := fun k _ => firstBad [lenIs k 0]
  act := fun _ _ s => ans s [lo32 s.time.mt, hi32 s.time.mt, lo32 s.commit,
    w32 (s.ra * 2 ^ 24 + s.pOff * 2 ^ 16 + s.latency * 256 + s.src * 16 + s.mode), s.rd R.TIME_FLAGS]
def execTimeGet (k : Kcp) (s : State) : Host.Outcome State Fault Refusal := .next (kcpExec cmdTimeGet k s)

/-- TIME.SET_EPOCH (R44, R535). -/
def cmdTimeSetEpoch : Cmd where
  opcode := 0x1402
  kind := .bulk
  at_ := .routing
  run := false
  arg := fun k s => firstBad [lenIs k 3, fld 0 0 (decide (k.n64 0 % s.bl = 0)), resv k 2 1]
  refuse := fun _ s => if s.isKeystone then none else some St.state
  act := fun k mt s =>
    let s := s.dropEpoch
    let s := (s.wr64 R.TIME_EPOCH_LO R.TIME_EPOCH_HI (k.n64 0)).put F.TIME_EPOCH_CTRL_WHEN (k.n 2)
    let s := s.set F.TIME_EPOCH_CTRL_ARM
    let s := { s with time := { s.time with epoch := some ⟨k.n64 0, k.bit 2 0, mt, true⟩ } }
    ans (if k.bit 2 0 then s else s.tellTime (.epoch (BitVec.ofNat 64 (k.n64 0)) (s.blockOf mt + 1)))
def execTimeSetEpoch (k : Kcp) (s : State) : Host.Outcome State Fault Refusal := .next (kcpExec cmdTimeSetEpoch k s)

/-- TIME.SET_RATE (R41) (DEDUCED, notes/assumptions/122.md). -/
def cmdTimeSetRate : Cmd where
  opcode := 0x1403
  kind := .bulk
  at_ := .routing
  arg := fun k _ => firstBad [lenIs k 1, resv k 0 3]
  refuse := fun k s =>
    if ¬ s.isKeystone ∨ s.time.rate.isSome then some St.state
    else if s.rateBlocked (k.n 0) then some St.noResource else none
  act := fun k mt s =>
    let a := s.blockOf mt
    ans ((s.planRate (k.n 0) a).tellTime (.rate (Fin.ofNat 4 (k.n 0)) a))
def execTimeSetRate (k : Kcp) (s : State) : Host.Outcome State Fault Refusal := .next (kcpExec cmdTimeSetRate k s)

/-- TIME.SET_REFS (R47): in effect from the next block tick. -/
def cmdTimeSetRefs : Cmd where
  opcode := 0x1404
  absent := fun k s => ¬ s.variant.hasCourse ∧ k.bit 1 31
  arg := fun k s => firstBad ([lenIs k 5] ++
    ((List.range 4).flatMap fun n => [
      fld (1 + n) 0 (decide (100 ≤ k.f (1 + n) 0 16 ∧ k.f (1 + n) 0 16 ≤ 60000)),
      fld (1 + n) 31 (¬ (decide (n = 0) && k.bit 1 31 && s.cascade && s.isKeystone))]))
  act := fun k _ s => ans { s with time := { s.time with refsPending := some k.payload } }
def execTimeSetRefs (k : Kcp) (s : State) : Host.Outcome State Fault Refusal := .next (kcpExec cmdTimeSetRefs k s)

/-- TIME.GET_REFS (R47). -/
def cmdTimeGetRefs : Cmd where
  opcode := 0x1405
  fault := true
  reads := true
  arg := fun k _ => firstBad [lenIs k 0]
  act := fun _ _ s => ans s ((List.range 4).flatMap fun n => s.image [R.TIME_REF_STAT n, R.TIME_REF_PERIOD n,
    R.TIME_REF_OFFSET n, R.TIME_REF_FERR n, R.TIME_REF_COUNT n, R.TIME_REF_LAST_CHANGE n])
def execTimeGetRefs (k : Kcp) (s : State) : Host.Outcome State Fault Refusal := .next (kcpExec cmdTimeGetRefs k s)

/-- TIME.SET_RA (R15, R158, R336): in force from the block at which a routing change would apply. -/
def cmdTimeSetRa : Cmd where
  opcode := 0x1406
  at_ := .routing
  arg := fun k s => firstBad [lenIs k 1, resv k 0 0xFF,
    fld 0 0 (decide (max 2 (s.pOff + 2) ≤ k.n 0 ∧ k.n 0 ≤ 14))]
  refuse := fun _ s => if s.isKeystone then none else some St.state
  act := fun k mt s => ans (s.tellTime (.runAhead (k.n 0) (s.blockOf mt)))
def execTimeSetRa (k : Kcp) (s : State) : Host.Outcome State Fault Refusal := .next (kcpExec cmdTimeSetRa k s)

/-- TIME.SET_RA takes effect (R158): the depth in force moves towards the new one at each block tick. -/
def State.atSetRa (s : State) (p : List W32) : State :=
  { s with time := { s.time with raTarget := bits (p.getD 0 0) 0 8 } }

/-- A TIME message from the keystone acts on this course (R40, R41, R158, R333, R339). -/
def State.timeChange (s : State) (c : TimeChange) : State :=
  match c with
  | .jump d b => { s.set F.TIME_STATUS_JUMP_PEND with time := { s.time with jump := some ⟨d, b, 0, none⟩ } }
  | .rate r b => s.planRate r.val b
  | .runAhead r b =>
    { s with
      timed := s.timed ++ [⟨s.startOf b, s.order, 0x1406, [w32 r], 0, 0, 0, false⟩], order := s.order + 1 }
  | .epoch m b => { s with time := { s.time with epoch := some ⟨m.toNat, false, s.startOf b - 1, false⟩ } }
  | .offset p => (s.put F.TIME_PIPE_P p).put F.TIME_PIPE_L (3 + p)

end Sys2Proof.Machine
end

