-- ==== Sys2Proof/Machine/Mix.lean ====
section
/-! DEFINITION. The MIX commands (R179–R201): tap records and sets, clears, classes, generators, auxiliary routes, and what
the reading commands answer. -/

namespace Sys2Proof.Machine

/-! Tap records (R191, R192, R194, R197). -/

/-- Record i of a SET_TAPS payload. -/
def Kcp.tapRec (k : Kcp) (i : Nat) : TapRec :=
  ⟨k.bit (2 + 2 * i) 31, k.f (2 + 2 * i) 16 14, k.f (2 + 2 * i) 0 9, k.s16 (3 + 2 * i) 16, k.f (3 + 2 * i) 8 8, k.w 1⟩

/-- The records of a SET_TAPS payload. -/
def Kcp.tapRecs (k : Kcp) : List TapRec := (List.range (k.f 0 0 16)).map (Kcp.tapRec k)

/-- The source number is one that the variant has (R6, R179). -/
def State.sourceOk (s : State) (src : Nat) : Bool := src < s.variant.bricks * 128 ∨ (8192 ≤ src ∧ src < 10240)

/-- The checks of a SET_TAPS payload (R197, R194, R6). -/
def State.tapsBad (s : State) (k : Kcp) : Option Nat :=
  let n := k.f 0 0 16
  firstBad ([fld 0 0 (decide (1 ≤ n ∧ n ≤ 127 ∧ k.len.toNat = 8 + 8 * n)), resv k 0 0xF000FFFF, fld 0 28 (decide (k.f 0 28 4 ≤ 4))] ++
    (List.range n).flatMap fun i =>
      let r := Kcp.tapRec k i
      let w := 2 + 2 * i
      [fld w 0 true, fld w 16 (if r.vrel then decide (r.src < 64) else s.sourceOk r.src),
        fld w 16 (¬ (k.w 1 = 0 ∧ (r.vrel ∨ decide (r.src < 8192)))),
        fld w 16 (match s.jobOf (k.w 1) with
          | some j => ¬ r.vrel ∨ decide (r.src < j.descr.nVoices)
          | none => true),
        resv k w 0xBFFF01FF, resv k (w + 1) 0xFFFFFF00])

/-- A record that addresses a voice by index names its source once the voice has been placed (R194). -/
def State.resolveRec (s : State) (mt : Nat) (r : TapRec) : Nat × TapRec :=
  if ¬ r.vrel then (mt, r)
  else match s.jobOf r.job with
    | some j => match j.voices[r.src]? with
      | some src => (match s.voiceIn src j.record with | some v => max mt v.startMt | none => mt,
          { r with vrel := false, src := src })
      | none => (mt, r)
    | none => (mt, r)

/-- A record still names something that may take it: a job that has ended takes no record by index (R194). -/
def State.recAlive (s : State) (r : TapRec) : Bool := ¬ r.vrel ∨ (s.jobOf r.job).isSome

/-- Accept records for a media time (R186, R191). -/
def State.acceptRecs (s : State) (mt : Nat) (rs : List TapRec) : State :=
  s.setPend (s.mix.pend ++ (rs.filter s.recAlive).map fun r =>
    let x := s.resolveRec mt r
    ⟨x.1, s.order, x.2, r.vrel⟩)

/-- The sources, and the voices by index, that a list of records gives more than 32 entries (R190, R192): in the order of the
records. -/
def State.overSource (s : State) (mt : Nat) (rs : List TapRec) : Option TapRec :=
  let t := s.acceptRecs mt rs
  (rs.filter s.recAlive).find? fun r =>
    let x := (s.resolveRec mt r).2
    if x.vrel then 32 < t.vrelUsed x.job x.src ∧ s.vrelUsed x.job x.src < t.vrelUsed x.job x.src
    else 32 < t.srcUsed x.src ∧ s.srcUsed x.src < t.srcUsed x.src

/-- The records would pass the host entries (R190, R192). -/
def State.overTable (s : State) (mt : Nat) (rs : List TapRec) : Bool :=
  let t := s.acceptRecs mt rs
  s.hostEntries < t.hostUsed ∧ s.hostUsed < t.hostUsed

/-- What a refusal for capacity leaves behind (R192). -/
def State.noteFull (s : State) (mt : Nat) (rs : List TapRec) : State :=
  let s' := if s.overTable mt rs then (s.set F.MIX_STATUS_TAPS_FULL).bumpSat F.MIX_NORES_CNT_CAP_CNT else s
  match s.overSource mt rs with
  | none => s'
  | some r =>
    let x := (s.resolveRec mt r).2
    (((s'.set F.MIX_STATUS_SRC_LIMIT).bumpSat F.MIX_NORES_CNT_SRC_CNT).put F.MIX_SRC_LIMIT_SOURCE x.src).set
      F.MIX_SRC_LIMIT_VREL x.vrel

/-- The records find no room. -/
def State.noRoom (s : State) (mt : Nat) (rs : List TapRec) : Bool := s.overTable mt rs || (s.overSource mt rs).isSome

/-- Room for records asked after the host entries have been reached posts TAPS_FULL (R192). -/
def State.takeRecs (s : State) (mt : Nat) (rs : List TapRec) : State := (s.acceptRecs mt rs).tapsNote 0

/-- MIX.SET_TAPS with SET 0 (R197). -/
def cmdMixSetTaps : Cmd where
  opcode := 0x0501
  at_ := .routing
  arg := fun k s => s.tapsBad k
  refuse := fun k s =>
    if k.w 1 ≠ 0 ∧ (s.jobOf (k.w 1)).isNone then some St.state
    else if s.noRoom (s.applyAt k.time.toNat) (Kcp.tapRecs k) then some St.noResource else none
  refused := fun k st s => if st = St.noResource then s.noteFull (s.applyAt k.time.toNat) (Kcp.tapRecs k) else s
  act := fun k mt s => ans (s.takeRecs mt (Kcp.tapRecs k))

/-- Records staged in all sets (R198). -/
def State.stagedRecs (s : State) : Nat := (s.mix.sets.map fun p => p.2.length).sum

/-- MIX.SET_TAPS that adds to an open set (R198) (DEDUCED, notes/assumptions/124.md). -/
def cmdMixStageTaps : Cmd where
  opcode := 0x0501
  arg := fun k s => s.tapsBad k
  refuse := fun k s =>
    if (kget s.mix.sets (k.f 0 28 4)).isNone ∨ (k.w 1 ≠ 0 ∧ (s.jobOf (k.w 1)).isNone) then some St.state
    else if 16384 < s.stagedRecs + k.f 0 0 16 then some St.noResource else none
  act := fun k _ s =>
    let n := k.f 0 28 4
    let old := (kget s.mix.sets n).getD []
    ans { s with mix := { s.mix with sets := kput s.mix.sets n (old ++ Kcp.tapRecs k) } }
def execMixSetTaps (k : Kcp) (s : State) : Host.Outcome State Fault Refusal :=
  .next (kcpExec (if k.f 0 28 4 = 0 then cmdMixSetTaps else cmdMixStageTaps) k s)

/-- MIX.CLEAR (R199): at AT. -/
def cmdMixClear : Cmd where
  opcode := 0x0502
  at_ := .routing
  arg := fun k s => firstBad [lenIs k 2,
    fld 0 0 (match k.f 0 30 2 with | 0 => s.sourceOk (k.f 0 0 14) | 1 => decide (k.f 0 0 14 < 512) | _ => true),
    resv k 0 0xC0003FFF, fld 0 30 (decide (k.f 0 30 2 ≤ 2)), resv k 1 0xFF]
def execMixClear (k : Kcp) (s : State) : Host.Outcome State Fault Refusal := .next (kcpExec cmdMixClear k s)

/-- Every tap that a clear names goes off at its sample; taps of hardware-triggered jobs are exempt (R199). -/
def State.atMixClear (s : State) (mt : Nat) (p : List W32) : State :=
  let w := p.getD 0 0
  let n := bits w 0 14
  let hit := s.mix.taps.filter fun t => !t.hardware &&
    (match bits w 30 2 with | 0 => decide (t.src = n) | 1 => decide (t.bus = n) | _ => true)
  forEach hit s fun t s => s.tapSet t.src t.bus t.job false (-32768) (bits (p.getD 1 0) 0 8) mt

/-! Reading. -/

/-- The crosspoint of a tap (R182). -/
def Tap.cross (t : Tap) : Nat := t.src * 512 + t.bus

/-- The accepted change that reaches a crosspoint next. -/
def State.nextPend (s : State) (key : Nat × Nat × Option Nat) : Option TapPend :=
  (isort (fun (a b : TapPend) => decide (a.mt < b.mt ∨ a.mt = b.mt ∧ a.order ≤ b.order))
    (s.mix.pend.filter fun p => ¬ p.entry.vrel ∧ p.entry.key = key)).head?

/-- A crosspoint as MIX.GET_TAPS reports it: ramp blocks left, PENDING, and the gain in force with its target. One that holds no tap
yet, whose entry an accepted change has taken, is mute with that change's gain as its target (R182, R191; DEDUCED, notes/assumptions/23.md; DEDUCED, notes/assumptions/125.md). -/
def State.crossWords (s : State) (key : Nat × Nat × Option Nat) : List W32 :=
  let mt := s.startOf s.commit
  let pend := s.nextPend key
  let x := key.1 * 512 + key.2.1
  match s.tap? key.1 key.2.1 key.2.2 with
  | some t =>
    [w32 (min 255 (t.ramp.blocksLeft s.bl mt) * 2 ^ 24 + b2n pend.isSome * 2 ^ 23 + x),
      w32 (unsigned 16 (t.ramp.gain s.bl mt) * 65536 + unsigned 16 (if t.deleting then -32768 else t.ramp.dst))]
  | none =>
    [w32 (b2n pend.isSome * 2 ^ 23 + x),
      w32 (unsigned 16 muteCode * 65536 + unsigned 16 ((pend.map fun p => p.entry.gain).getD muteCode))]

/-- MIX.GET_TAPS (R182). -/
def cmdMixGetTaps : Cmd where
  opcode := 0x0503
  fault := true
  reads := true
  arg := fun k s => firstBad [lenIs k 2,
    fld 0 0 (match k.f 0 30 2 with | 0 => s.sourceOk (k.f 0 0 14) | 1 => decide (k.f 0 0 14 < 512) | _ => true),
    resv k 0 0xC0003FFF, fld 0 30 (decide (k.f 0 30 2 ≤ 1)), fld 1 0 (decide (k.n 1 < 5242880))]
  act := fun k _ s =>
    let n := k.f 0 0 14
    let cross := fun (x : Nat × Nat × Option Nat) => x.1 * 512 + x.2.1
    let all := s.entryKeys.filter fun x => k.n 1 ≤ cross x ∧ (if k.f 0 30 2 = 0 then x.1 = n else x.2.1 = n)
    let all := isort (fun a b => decide (cross a ≤ cross b)) all
    let got := all.take 120
    let next := ((all.drop 120).head?.map fun x => w32 (cross x)).getD 0xFFFFFFFF
    ans s ([w32 got.length, next] ++ got.flatMap s.crossWords)
def execMixGetTaps (k : Kcp) (s : State) : Host.Outcome State Fault Refusal := .next (kcpExec cmdMixGetTaps k s)

/-- Word i of the presence bitmap from a byte offset (R182). -/
def State.bitmapWord (s : State) (off i : Nat) : W32 :=
  let lo := (off + 4 * i) * 8
  w32 (((s.mix.taps.filter fun t => lo ≤ t.cross ∧ t.cross < lo + 32).map Tap.cross).dedup.map fun x => 2 ^ (x - lo)).sum

/-- MIX.GET_BITMAP (R182). -/
def cmdMixGetBitmap : Cmd where
  opcode := 0x0504
  fault := true
  reads := true
  arg := fun k _ => firstBad [lenIs k 1, fld 0 0 (decide (k.n 0 < 655360 ∧ k.n 0 % 8 = 0))]
  act := fun k _ s => ans s ((List.range 252).map fun i => s.bitmapWord (k.n 0) i)
def execMixGetBitmap (k : Kcp) (s : State) : Host.Outcome State Fault Refusal := .next (kcpExec cmdMixGetBitmap k s)

/-- MIX.GET_CLIP (R189). -/
def cmdMixGetClip : Cmd where
  opcode := 0x050B
  fault := true
  reads := true
  arg := fun k _ => firstBad [lenIs k 1, fld 0 0 (decide (k.f 0 0 9 + k.f 0 9 9 ≤ 512)),
    fld 0 9 (decide (1 ≤ k.f 0 9 9 ∧ k.f 0 9 9 ≤ 256)), resv k 0 0x0103FFFF]
  act := fun k _ s =>
    let first := k.f 0 0 9
    let n := k.f 0 9 9
    let c := fun b => if b < first + n then (kget s.mix.clipCounts b).getD 0 else 0
    let words := (List.range ((n + 1) / 2)).map fun i => w32 (c (first + 2 * i + 1) * 65536 + c (first + 2 * i))
    let inside : Nat → Bool := fun b => first ≤ b ∧ b < first + n
    if k.bit 0 24 then
      let s := { s with mix := { s.mix with
        clipCounts := s.mix.clipCounts.filter fun p => ¬ inside p.1 } }
      let s := forEach (List.range n) s fun i s =>
        let b := first + i
        let w := s.rd (R.MIX_CLIP (b / 32))
        if bit w (b % 32) then s.wr (R.MIX_CLIP (b / 32)) (setBits w (b % 32) 1 0) else s
      ans s words
    else ans s words
def execMixGetClip (k : Kcp) (s : State) : Host.Outcome State Fault Refusal := .next (kcpExec cmdMixGetClip k s)

/-- MIX.GET_STATS (R201). -/
def cmdMixGetStats : Cmd where
  opcode := 0x050C
  fault := true
  reads := true
  arg := fun k _ => firstBad [lenIs k 0]
  act := fun _ _ s => ans s (s.image [R.MIX_TAPS_USED, R.MIX_TAPS_PEAK, R.MIX_NORES_CNT, R.MIX_LANE_LOAD, R.MIX_MAP_CRC])
def execMixGetStats (k : Kcp) (s : State) : Host.Outcome State Fault Refusal := .next (kcpExec cmdMixGetStats k s)

/-! Sets (R198). -/

/-- MIX.OPEN_SET. -/
def cmdMixOpenSet : Cmd where
  opcode := 0x0505
  arg := fun k _ => firstBad [lenIs k 0]
  refuse := fun _ s => if ([1, 2, 3, 4].find? fun n => (kget s.mix.sets n).isNone).isNone then some St.noResource else none
  act := fun _ _ s =>
    let n := ([1, 2, 3, 4].find? fun n => (kget s.mix.sets n).isNone).getD 1
    ans { s with mix := { s.mix with sets := kput s.mix.sets n [] } } [w32 n]
def execMixOpenSet (k : Kcp) (s : State) : Host.Outcome State Fault Refusal := .next (kcpExec cmdMixOpenSet k s)

/-- A set number from 1 to 4. -/
def setNo (k : Kcp) : Bool × Nat := fld 0 0 (decide (1 ≤ k.f 0 0 3 ∧ k.f 0 0 3 ≤ 4))

/-- MIX.COMMIT_SET. -/
def cmdMixCommitSet : Cmd where
  opcode := 0x0506
  at_ := .routing
  arg := fun k _ => firstBad [lenIs k 1, setNo k, resv k 0 7]
  refuse := fun k s =>
    match kget s.mix.sets (k.f 0 0 3) with
    | none => some St.state
    | some rs => if s.noRoom (s.applyAt k.time.toNat) rs then some St.noResource else none
  refused := fun k st s =>
    match kget s.mix.sets (k.f 0 0 3) with
    | some rs => if st = St.noResource then s.noteFull (s.applyAt k.time.toNat) rs else s
    | none => s
  act := fun k mt s =>
    let n := k.f 0 0 3
    let s' := s.takeRecs mt ((kget s.mix.sets n).getD [])
    ans { s' with mix := { s'.mix with sets := kdel s'.mix.sets n } }
def execMixCommitSet (k : Kcp) (s : State) : Host.Outcome State Fault Refusal := .next (kcpExec cmdMixCommitSet k s)

/-- MIX.CANCEL_SET. -/
def cmdMixCancelSet : Cmd where
  opcode := 0x0507
  arg := fun k _ => firstBad [lenIs k 1, setNo k, resv k 0 7]
  refuse := fun k s => if (kget s.mix.sets (k.f 0 0 3)).isNone then some St.state else none
  act := fun k _ s => ans { s with mix := { s.mix with sets := kdel s.mix.sets (k.f 0 0 3) } }
def execMixCancelSet (k : Kcp) (s : State) : Host.Outcome State Fault Refusal := .next (kcpExec cmdMixCancelSet k s)

/-! Classes, generators and auxiliary routes (R180, R195, R196). -/

/-- MIX.SET_CLASS. -/
def cmdMixSetClass : Cmd where
  opcode := 0x0508
  at_ := .routing
  arg := fun k _ =>
    let n := k.f 0 0 7
    firstBad ([fld 0 0 (decide (1 ≤ n ∧ n ≤ 127 ∧ k.len.toNat = 4 + 8 * n)), resv k 0 0x7F] ++
      (List.range n).flatMap fun i => [fld (1 + 2 * i) 0 (decide (8192 ≤ k.f (1 + 2 * i) 0 14 ∧ k.f (1 + 2 * i) 0 14 < 10240)),
        resv k (1 + 2 * i) 0x0F3F3FFF, resv k (2 + 2 * i) 0xFFFF])
def execMixSetClass (k : Kcp) (s : State) : Host.Outcome State Fault Refusal := .next (kcpExec cmdMixSetClass k s)

/-- The classes of a SET_CLASS take effect (DEDUCED, notes/assumptions/109.md). -/
def State.atSetClass (s : State) (p : List W32) : State :=
  forEach (List.range (bits (p.getD 0 0) 0 7)) s fun i s =>
    let a := p.getD (1 + 2 * i) 0
    let c : SrcClass := ⟨bits a 0 14, bits a 16 4, bits a 20 2, bits a 24 4, signed 16 (bits (p.getD (2 + 2 * i) 0) 0 16)⟩
    { s with mix := { s.mix with classes := upsert SrcClass.src c s.mix.classes } }

/-- MIX.SET_GEN. -/
def cmdMixSetGen : Cmd where
  opcode := 0x0509
  at_ := .routing
  arg := fun k s => firstBad [lenIs k 3, fld 0 0 (decide (9984 ≤ k.f 0 0 14 ∧ k.f 0 0 14 < 10112)), resv k 0 0x3FFF,
    fld 1 0 (if k.f 0 0 14 < 10048 then decide (100 ≤ k.n 1 ∧ k.n 1 ≤ 45 * s.hz) else decide (k.n 1 ≤ 1)), resv k 2 0xFFFF]
def execMixSetGen (k : Kcp) (s : State) : Host.Outcome State Fault Refusal := .next (kcpExec cmdMixSetGen k s)

/-- The generator of a source, silent before its first SET_GEN (R196). -/
def State.gen (s : State) (src : Nat) : Gen := (pick Gen.src src s.mix.gens).getD ⟨src, 0, 0, .silent, 0, 0, []⟩

/-- What makes the phase of a sine continue where its frequency changes at a sample (R196). -/
def State.genShift (s : State) (g : Gen) (mt f : Nat) : Nat :=
  let n := 100 * s.hz
  if g.param = 0 then 0 else (g.shift + mt * g.param + (n - mt * f % n)) % n

/-- A SET_GEN takes effect at its sample: the level takes a 32-sample ramp, and the phase continues (R196). -/
def State.atSetGen (s : State) (mt : Nat) (p : List W32) : State :=
  let src := bits (p.getD 0 0) 0 14
  let g := s.gen src
  let lev := max muteCode (signed 16 (bits (p.getD 2 0) 0 16))
  let g' : Gen := ⟨src, (p.getD 1 0).toNat, mt, g.level.to s.bl mt lev 0, mt,
    s.genShift g mt (p.getD 1 0).toNat, ((g.param, g.seed, g.shift, g.setMt) :: g.past).take 64⟩
  { s with mix := { s.mix with gens := upsert Gen.src g' s.mix.gens } }

/-- The part of a destination word that says which destination it is: its type and index. -/
def destKey (w : W32) : Nat := destType w * 65536 + destIndex w

/-- Destinations held by auxiliary buses other than one, and by zones other than one: in force, or accepted and waiting for
their media time (R180, R218). -/
def State.destsHeld (s : State) (bus zone : Option Nat) : List Nat :=
  let aux := (s.mix.aux.filter fun a => some a.1 ≠ bus).flatMap Prod.snd
  let zs := (s.zones.filter fun z => some z.n ≠ zone).flatMap Zone.dests
  let wait := (s.timed.filter fun t =>
    (t.opcode = 0x050A ∧ some (bits (t.payload.getD 0 0) 0 9) ≠ bus) ∨
      (t.opcode = 0x060C ∧ some (bits (t.payload.getD 0 0) 0 8) ≠ zone)).flatMap fun t => (t.payload.drop 1).take 4
  (((aux ++ zs) ++ wait).filter fun w => destType w ≠ 0).map destKey

/-- The index of a destination word is one that its type has (R180, R217). -/
def State.destIndexOk (s : State) (w : W32) : Bool :=
  match destType w with
  | 1 => destIndex w < 1024
  | 2 => destIndex w < 256
  | 3 => destIndex w < s.variant.channels
  | 4 => destIndex w < 256
  | 5 => destIndex w < s.variant.monitors
  | _ => true

/-- A destination word names a unit that the variant lacks (R5, R218). -/
def State.destAbsent (s : State) (w : W32) : Bool :=
  match destType w with
  | 3 => s.variant.channels = 0
  | 4 => ¬ s.variant.hasCourse
  | 5 => s.variant.monitors = 0
  | _ => false

/-- MIX.ROUTE_AUX (R180). -/
def cmdMixRouteAux : Cmd where
  opcode := 0x050A
  at_ := .routing
  absent := fun k s => [1, 2, 3, 4].any fun i => s.destAbsent (k.w i) ∧ k.f i 28 4 ≠ 3
  arg := fun k s => firstBad ([lenIs k 5, fld 0 0 (decide (256 ≤ k.f 0 0 9)), resv k 0 0x1FF] ++
    [1, 2, 3, 4].flatMap fun i => [fld i 0 (s.destIndexOk (k.w i)), resv k i 0xFF00FFFF, fld i 24 (decide (k.f i 24 4 = 0)),
      fld i 28 (decide (k.f i 28 4 ≤ 5 ∧ k.f i 28 4 ≠ 3))])
  refuse := fun k s =>
    if [1, 2, 3, 4].any fun i => k.f i 28 4 ≠ 0 ∧ (s.destsHeld (some (k.f 0 0 9)) none).contains (destKey (k.w i)) then
      some St.state else none
def execMixRouteAux (k : Kcp) (s : State) : Host.Outcome State Fault Refusal := .next (kcpExec cmdMixRouteAux k s)

/-- The destinations of an auxiliary bus change at a sample: those before it keep the samples before it. -/
def State.atRouteAux (s : State) (mt : Nat) (p : List W32) : State :=
  let b := bits (p.getD 0 0) 0 9
  let ds := (p.drop 1).take 4
  { s with mix := { s.mix with
    auxOld := s.mix.auxOld ++ [(b, mt, (kget s.mix.aux b).getD [])],
    aux := if ds.all fun w => destType w = 0 then kdel s.mix.aux b else kput s.mix.aux b ds } }

end Sys2Proof.Machine
end

