-- ==== Sys2Proof/Machine/Zone.lean ====
section
/-! DEFINITION. The ZONE commands (R202–R225) with what each does at its media time, fallback and restore, and the end of a
drain. -/

namespace Sys2Proof.Machine

/-- The zone in word 0 is one that the variant has (R6). -/
def zoneOk (k : Kcp) (s : State) : Bool × Nat := fld 0 0 (decide (k.f 0 0 8 < s.variant.zones))

/-- A signed field lies in a range. -/
def inS (k : Kcp) (n lo : Nat) (a b : Int) : Bool × Nat := fld n lo (decide (a ≤ k.s16 n lo ∧ k.s16 n lo ≤ b))
/-- An unsigned field lies in a range. -/
def inU (k : Kcp) (n lo w a b : Nat) : Bool × Nat := fld n lo (decide (a ≤ k.f n lo w ∧ k.f n lo w ≤ b))

/-- A bus field: a bus number, or 0x3FF for none (R204). -/
def busOk (k : Kcp) (n lo : Nat) : Bool × Nat := fld n lo (decide (k.f n lo 10 < 512 ∨ k.f n lo 10 = 0x3FF))

/-- A coefficient in bits [31:8] of a word. -/
def coefWord (w : W32) : Int := signed 24 (bits w 8 24)

/-! Enable (R223). -/

/-- Clear a zone's filter state and delay line (R223, R224). -/
def Zone.clear (z : Zone) : Zone :=
  { z with
    biquads := z.biquads.map fun (b : Biquad) => { b with x1 := 0, x2 := 0, y1 := 0, y2 := 0 },
    firHist := [], line := [], oldInputs := [], oldEq := [], oldFir := [], oldDelay := [],
    dyn := { z.dyn with level := -120 * 2 ^ 60, limGain := 2 ^ 60, bypass := 0 } }

/-- The settings of a zone that change at a sample with no ramp of their own. -/
def State.zoneSet (s : State) (n : Nat) : ZoneSet :=
  let z := s.zone n
  ⟨s.get (F.ZONE_GATE_DUCK_DEPTH n), s.get (F.ZONE_GATE_DUCK_RAMP n), s.flag (F.ZONE_CTRL_AMB_EN n), s.flag (F.ZONE_CTRL_DYN_EN n),
    s.flag (F.ZONE_CTRL_DYN_EVAC_BYPASS n), z.dyn, s.flag (F.ZONE_CTRL_PILOT_EN n), s.get (F.ZONE_CTRL_PILOT_BIN n), z.pilotLevel⟩

/-- A zone with what was in force before a sample noted, for the samples of the block that lie before it (R13, R16). -/
def State.zoneNote (s : State) (n mt : Nat) : Zone :=
  let z := s.zone n
  if mt % s.bl = 0 then z else { z with olds := z.olds ++ [(mt, s.zoneSet n)] }

/-- A zone stops: its output ramps to zero and its pilot stops (R223 CUT) (DEDUCED, notes/assumptions/127.md). -/
def State.zoneCut (s : State) (n mt : Nat) : State :=
  let z := s.zone n
  let s := s.setZone { z with
    fade := z.fade.to s.bl mt muteCode 0, pilotOn := z.pilotOn.to s.bl mt muteCode 256, draining := false }
  (s.set (F.ZONE_CTRL_EN n) false).set (F.ZONE_STATUS_DRAINING n) false

/-- A BLOCK reset of a zone (R295): from its sample on the zone is silent, and its outputs carry what it processed before; its settings
return to their reset values when the block is done. -/
def State.zoneReset (s : State) (n mt : Nat) : State :=
  let z := s.zoneNote n mt
  s.setZone { z with
    fade := z.fade.step mt muteCode, pilotOn := z.pilotOn.step mt muteCode, resetDue := true, dests := [0, 0, 0, 0],
    leaving := z.leaving ++ ((z.dests.zip z.ramps).filter fun x => destType x.1 ≠ 0).map fun x => (x.1, x.2.step mt muteCode) }

/-- ZONE.ENABLE (DEDUCED, notes/assumptions/126.md). -/
def cmdZoneEnable : Cmd where
  opcode := 0x0601
  at_ := .routing
  arg := fun k s => firstBad [lenIs k 1, zoneOk k s, resv k 0 0x3FF]
def execZoneEnable (k : Kcp) (s : State) : Host.Outcome State Fault Refusal := .next (kcpExec cmdZoneEnable k s)

/-- ZONE.ENABLE at its sample. A zone that is enabled already, and one that is disabled already, is unchanged (DEDUCED, notes/assumptions/103.md). -/
def State.atZoneEnable (s : State) (mt : Nat) (p : List W32) : State :=
  let w := p.getD 0 0
  let n := bits w 0 8
  let z := s.zone n
  let on := s.flag (F.ZONE_CTRL_EN n)
  if bit w 8 then
    if on then s
    else
      let pil := if s.flag (F.ZONE_CTRL_PILOT_EN n) then z.pilotOn.to s.bl mt 0 256 else z.pilotOn
      let s := s.setZone { z.clear with fade := z.fade.step mt 0, pilotOn := pil, draining := false }
      (s.set (F.ZONE_CTRL_EN n)).set (F.ZONE_STATUS_DRAINING n) false
  else if ¬ on ∧ ¬ z.draining then s
  else if bit w 9 then
    let s := s.setZone { z with draining := true, oldInputs := z.oldInputs ++ [(z.inputs, mt)] }
    (s.set (F.ZONE_CTRL_EN n) false).set (F.ZONE_STATUS_DRAINING n)
  else s.zoneCut n mt

/-- ZONE_DRAIN_DONE (R223): the FIR and the delay have emptied. -/
def execZoneDrainDone (zone : Nat) (s : State) : Host.Outcome State Fault Refusal :=
  .next (if (s.zone zone).draining then s.zoneCut zone (s.startOf s.commit) else s)

/-! Inputs, gate, ambient (R204–R207). -/

/-- ZONE.SET_INPUTS. -/
def cmdZoneSetInputs : Cmd where
  opcode := 0x0602
  at_ := .routing
  arg := fun k s => firstBad [lenIs k 3, zoneOk k s, resv k 0 0xFF, busOk k 1 0, resv k 1 0x03FF03FF, busOk k 1 16,
    busOk k 2 0, resv k 2 0x03FF03FF, busOk k 2 16]
def execZoneSetInputs (k : Kcp) (s : State) : Host.Outcome State Fault Refusal := .next (kcpExec cmdZoneSetInputs k s)

/-- New inputs at a sample: a position that changes crossfades from the old bus (R204). -/
def Zone.setInputs (z : Zone) (mt : Nat) (l : List Nat) : Zone :=
  if l = z.inputs then z
  else { z with
    inputs := l, oldInputs := z.oldInputs ++ [(z.inputs, mt)],
    groupPos := z.groupPos.filter fun g => l.getD g.2 0x3FF = z.inputs.getD g.2 0x3FF }
def State.atZoneInputs (s : State) (mt : Nat) (p : List W32) : State :=
  let z := s.zone (bits (p.getD 0 0) 0 8)
  let a := p.getD 1 0
  let b := p.getD 2 0
  s.setZone (z.setInputs mt [bits a 0 10, bits a 16 10, bits b 0 10, bits b 16 10])

/-- ZONE.SET_GATE (R205). -/
def cmdZoneSetGate : Cmd where
  opcode := 0x0603
  at_ := .routing
  arg := fun k s => firstBad [lenIs k 2, zoneOk k s, resv k 0 0xFF]
def execZoneSetGate (k : Kcp) (s : State) : Host.Outcome State Fault Refusal := .next (kcpExec cmdZoneSetGate k s)
def State.atZoneGate (s : State) (mt : Nat) (p : List W32) : State :=
  let n := bits (p.getD 0 0) 0 8
  (s.setZone (s.zoneNote n mt)).writeImage [R.ZONE_GATE n] (p.drop 1)

/-- ZONE.SET_AMBIENT (R206). -/
def cmdZoneSetAmbient : Cmd where
  opcode := 0x0604
  at_ := .routing
  arg := fun k s => firstBad [lenIs k 5, zoneOk k s, resv k 0 0x1FF, inU k 1 0 14 8192 9727, resv k 1 0x3FFF,
    inS k 2 0 (-11520) (-2560), inS k 2 16 (-5120) 5120, inU k 3 8 8 0 16, inS k 3 16 (-11520) 0, inU k 4 0 8 0 36, resv k 4 0xFF]
def execZoneSetAmbient (k : Kcp) (s : State) : Host.Outcome State Fault Refusal := .next (kcpExec cmdZoneSetAmbient k s)
def State.atZoneAmbient (s : State) (mt : Nat) (p : List W32) : State :=
  let w := fun i => p.getD i 0
  let n := bits (w 0) 0 8
  let z := s.zoneNote n mt
  let a := { z.ambient with
    mic := bits (w 1) 0 14, cal := signed 16 (bits (w 2) 16 16), gapThresh := signed 16 (bits (w 2) 0 16),
    hang := bits (w 3) 0 8, ref := signed 16 (bits (w 3) 16 16), slope := bits (w 3) 8 8, max := bits (w 4) 0 8 }
  (s.setZone { z with ambient := a }).set (F.ZONE_CTRL_AMB_EN n) (bit (w 0) 8)

/-- The ambient estimate of a zone as ZONE[n]_STATUS codes it: 0.5 dB below full scale (R207). -/
def ambCode (e : Int) : Nat := (clampI 0 240 (-e)).toNat

/-- The AMBIENT source value of the voices whose first zone this is (R74, R76, R207): a content edit at C + 2 (DEDUCED, notes/assumptions/63.md). -/
def State.ambientEdits (s : State) (zone code : Nat) : State :=
  let s := s.noteAmbient s.soonest zone code
  forEach (s.disp.voices.filter fun v => s.sees v 16 ∧ (List.range (s.front - s.commit)).any fun i =>
      s.firstZone v (s.commit + 2 + i) = some zone) s
    fun v s => s.editVoice v.src v.record s.soonest (.ambient code)

/-- AMBIENT_ESTIMATE (R207): 64 gap blocks have been accumulated; the mean power of the microphone in dBFS, plus CAL, in steps
of 0.5 dB. -/
def execAmbientEstimate (zone : Nat) (s : State) : Host.Outcome State Fault Refusal :=
  .next (
    let z := s.zone zone
    if z.ambient.gapBlocks < 64 then s
    else
      let db := powerCode 0 z.ambient.power (64 * s.bl * 2 ^ 46)
      let e := (db + z.ambient.cal) / 64
      let s := s.setZone { z with ambient := { z.ambient with gapBlocks := 0, power := 0, estimate := some e } }
      let s := s.put (F.ZONE_STATUS_AMB_EST zone) (ambCode e)
      s.ambientEdits zone (ambCode e))

/-! Equalisers and FIR (R208–R210). -/

/-- Section group i of a SET_EQ payload is stable (R208). -/
def eqStable (k : Kcp) (i : Nat) : Bool :=
  let a1 := coefWord (k.w (5 + 6 * i))
  let a2 := coefWord (k.w (6 + 6 * i))
  decide (a2.natAbs < 2 ^ 21 ∧ (a1.natAbs : Int) < 2 ^ 21 + a2)

/-- ZONE.SET_EQ. -/
def cmdZoneSetEq : Cmd where
  opcode := 0x0605
  at_ := .routing
  arg := fun k s =>
    let n := k.f 0 8 5
    firstBad ([zoneOk k s, fld 0 8 (decide (1 ≤ n ∧ n ≤ 16 ∧ k.len.toNat = 4 + 24 * n)), resv k 0 0x1FFF] ++
      (List.range n).flatMap fun i => resv k (1 + 6 * i) 0xF ::
        ((List.range 5).map fun c => resv k (2 + 6 * i + c) 0xFFFFFF00) ++ [fld (5 + 6 * i) 8 (eqStable k i)])
def execZoneSetEq (k : Kcp) (s : State) : Host.Outcome State Fault Refusal := .next (kcpExec cmdZoneSetEq k s)

/-- New coefficients in a section; its state is kept for the old filter and begins again in the new one. -/
def biquadOf (ws : List W32) : Biquad :=
  ⟨coefWord (ws.getD 0 0), coefWord (ws.getD 1 0), coefWord (ws.getD 2 0), coefWord (ws.getD 3 0), coefWord (ws.getD 4 0), 0, 0, 0, 0⟩
/-- DEDUCED, notes/assumptions/113.md. -/
def State.atZoneEq (s : State) (mt : Nat) (p : List W32) : State :=
  let w := p.getD 0 0
  let z := s.zone (bits w 0 8)
  let new := (List.range (bits w 8 5)).foldl (fun (l : List Biquad) i =>
    let b := biquadOf (p.drop (2 + 6 * i))
    let k := bits (p.getD (1 + 6 * i) 0) 0 4
    let o := l.getD k Biquad.pass
    l.set k { b with x1 := o.x1, x2 := o.x2, y1 := o.y1, y2 := o.y2 }) z.biquads
  s.setZone { z with biquads := new, oldEq := z.oldEq ++ [(z.biquads, mt)] }

/-- ZONE.LOAD_FIR (R209): into the staging buffer at once. -/
def cmdZoneLoadFir : Cmd where
  opcode := 0x0606
  arg := fun k s =>
    let n := k.f 0 8 8
    firstBad ([zoneOk k s, fld 0 8 (decide (1 ≤ n ∧ n ≤ 248 ∧ k.len.toNat = 4 + 4 * n)),
      fld 0 16 (decide (k.f 0 16 10 + n ≤ 1024)), resv k 0 0x03FFFFFF] ++
      (List.range n).map fun i => resv k (1 + i) 0xFFFFFF00)
  act := fun k _ s =>
    let z := s.zone (k.f 0 0 8)
    let st := (List.range (k.f 0 8 8)).foldl (fun (l : List (Nat × Int)) i =>
      storePut 0 l (k.f 0 16 10 + i) (coefWord (k.w (1 + i)))) z.firStage
    ans (s.setZone { z with firStage := st })
def execZoneLoadFir (k : Kcp) (s : State) : Host.Outcome State Fault Refusal := .next (kcpExec cmdZoneLoadFir k s)

/-- FIR switches accepted for a block: those that wait and those that the zones have taken (R210). -/
def State.firSwitches (s : State) (b : Nat) : Nat :=
  (s.timed.filter fun t => t.opcode = 0x0607 ∧ s.blockOf t.mt = b).length +
    (s.zones.flatMap fun z => z.oldFir.filter fun o => s.blockOf o.2 = b).length

/-- The first block from b on that has room for a FIR switch; no more blocks can be full than there are switches waiting. -/
def State.firBlock (s : State) : Nat → Nat → Nat
  | 0, b => b
  | n + 1, b => if s.firSwitches b < 64 then b else State.firBlock s n (b + 1)

/-- ZONE.SET_FIR (R209, R210). -/
def cmdZoneSetFir : Cmd where
  opcode := 0x0607
  at_ := .routing
  arg := fun k s => firstBad [lenIs k 1, zoneOk k s, inU k 0 16 11 0 (if Config.double s.rate then 512 else 1024),
    resv k 0 0x07FF00FF]
  act := fun _ mt s =>
    let b := s.firBlock s.timed.length (s.blockOf mt)
    if b = s.blockOf mt then ans s else { state := s, mt := some (s.startOf b), status := some St.ok }
def execZoneSetFir (k : Kcp) (s : State) : Host.Outcome State Fault Refusal := .next (kcpExec cmdZoneSetFir k s)
def State.atZoneFir (s : State) (mt : Nat) (p : List W32) : State :=
  let w := p.getD 0 0
  let z := s.zone (bits w 0 8)
  let new := (List.range (bits w 16 11)).map fun i => (kget z.firStage i).getD 0
  s.setZone { z with fir := new, oldFir := z.oldFir ++ [(z.fir, mt)] }

/-! Dynamics, delay, gain, pilot (R211–R216). -/

/-- ZONE.SET_DYN. -/
def cmdZoneSetDyn : Cmd where
  opcode := 0x0608
  at_ := .routing
  arg := fun k s => firstBad [lenIs k 5, zoneOk k s, resv k 0 0x3FF, inU k 1 0 16 16 320, inS k 1 16 (-7680) 0,
    inU k 2 0 16 10 5000, inU k 2 16 16 1 1000, inS k 3 0 (-3840) 0, inS k 3 16 0 3072, inU k 4 0 16 1 1000,
    inU k 4 16 8 0 24, resv k 4 0x00FFFFFF]
def execZoneSetDyn (k : Kcp) (s : State) : Host.Outcome State Fault Refusal := .next (kcpExec cmdZoneSetDyn k s)
/-- Dynamics at a sample (R211): the detector and the limiter go on from what they hold. -/
def State.atZoneDyn (s : State) (mt : Nat) (p : List W32) : State :=
  let w := fun i => p.getD i 0
  let n := bits (w 0) 0 8
  let z := s.zoneNote n mt
  let d : Dyn := ⟨signed 16 (bits (w 1) 16 16), bits (w 1) 0 16, bits (w 4) 16 8, bits (w 2) 16 16, bits (w 2) 0 16,
    signed 16 (bits (w 3) 16 16), signed 16 (bits (w 3) 0 16), bits (w 4) 0 16, z.dyn.level, z.dyn.limGain, z.dyn.bypass⟩
  ((s.setZone { z with dyn := d }).set (F.ZONE_CTRL_DYN_EN n) (bit (w 0) 8)).set (F.ZONE_CTRL_DYN_EVAC_BYPASS n) (bit (w 0) 9)

/-- ZONE.SET_DELAY (R212). -/
def cmdZoneSetDelay : Cmd where
  opcode := 0x0609
  at_ := .routing
  arg := fun k s => firstBad [lenIs k 2, zoneOk k s, resv k 0 0xFF, fld 1 0 (decide (k.n 1 ≤ 2 * s.hz))]
def execZoneSetDelay (k : Kcp) (s : State) : Host.Outcome State Fault Refusal := .next (kcpExec cmdZoneSetDelay k s)
def State.atZoneDelay (s : State) (mt : Nat) (p : List W32) : State :=
  let n := bits (p.getD 0 0) 0 8
  let z := s.zone n
  let d := (p.getD 1 0).toNat
  let s := s.setZone { z with delay := d, oldDelay := z.oldDelay ++ [(z.delay, mt)] }
  s.set (F.ZONE_STATUS_DELAY_DEGRADED n) (1024 < d ∧ s.flag F.SAFE_BANKMEM_UNAVAILABLE)

/-- ZONE.SET_GAIN (R214). -/
def cmdZoneSetGain : Cmd where
  opcode := 0x060A
  at_ := .routing
  arg := fun k s => firstBad [lenIs k 2, zoneOk k s, resv k 0 0xFF, resv k 1 0xFFFF00FF, fld 1 16 (decide (k.f 1 16 16 ≠ 0x8000))]
def execZoneSetGain (k : Kcp) (s : State) : Host.Outcome State Fault Refusal := .next (kcpExec cmdZoneSetGain k s)
def State.atZoneGain (s : State) (mt : Nat) (p : List W32) : State :=
  let z := s.zone (bits (p.getD 0 0) 0 8)
  let w := p.getD 1 0
  s.setZone { z with gain := z.gain.to s.bl mt (clampGain (signed 16 (bits w 16 16))) (bits w 0 8) }

/-- ZONE.SET_PILOT (R215, R216). -/
def cmdZoneSetPilot : Cmd where
  opcode := 0x060B
  at_ := .routing
  arg := fun k s => firstBad [lenIs k 2, zoneOk k s, resv k 0 0x1FF, resv k 1 0xFFFF00FF]
def execZoneSetPilot (k : Kcp) (s : State) : Host.Outcome State Fault Refusal := .next (kcpExec cmdZoneSetPilot k s)
def State.atZonePilot (s : State) (mt : Nat) (p : List W32) : State :=
  let n := bits (p.getD 0 0) 0 8
  let on := bit (p.getD 0 0) 8
  let w := p.getD 1 0
  let z := s.zoneNote n mt
  let goal := if on ∧ s.flag (F.ZONE_CTRL_EN n) then 0 else muteCode
  let r := if z.pilotOn.dst = goal then z.pilotOn else z.pilotOn.to s.bl mt goal 256
  let s := s.setZone { z with pilotLevel := clampI (-5120) (-1536) (signed 16 (bits w 16 16)), pilotOn := r }
  (s.set (F.ZONE_CTRL_PILOT_EN n) on).put (F.ZONE_CTRL_PILOT_BIN n) (bits w 0 8)

/-! Outputs, fallback and restore (R217–R220). -/

/-- A destination carries a role among the four words of a payload. -/
def roleCount (k : Kcp) (role : Nat) : Nat := ([1, 2, 3, 4].filter fun i => k.f i 28 4 ≠ 0 ∧ k.f i 24 4 = role).length

/-- ZONE.SET_OUTPUTS (R217, R218). -/
def cmdZoneSetOutputs : Cmd where
  opcode := 0x060C
  at_ := .routing
  absent := fun k s => [1, 2, 3, 4].any fun i => s.destAbsent (k.w i) ∧ k.f i 28 4 ≠ 5
  arg := fun k s => firstBad ([lenIs k 5, zoneOk k s, resv k 0 0x3FF] ++
    ([1, 2, 3, 4].flatMap fun i => [fld i 0 (s.destIndexOk (k.w i)), resv k i 0xFF00FFFF, fld i 24 (decide (k.f i 24 4 ≤ 4)),
      fld i 28 (decide (k.f i 28 4 ≤ 4)),
      fld i 24 (¬ (decide (k.f i 28 4 ≠ 0 ∧ k.f i 24 4 ≤ 1) && decide (1 < roleCount k (k.f i 24 4)))),
      fld i 28 (¬ decide (k.f i 28 4 ≠ 0 ∧ k.f i 28 4 ≠ 3 ∧ (k.f i 24 4 = 2 ∨ k.f i 24 4 = 3))),
      fld i 24 (¬ (decide (k.f i 28 4 ≠ 0 ∧ (k.f i 24 4 = 2 ∨ k.f i 24 4 = 3)) &&
        decide (roleCount k (k.f i 24 4 - 2) = 0)))]))
  refuse := fun k s =>
    if [1, 2, 3, 4].any fun i => k.f i 28 4 ≠ 0 ∧ (s.destsHeld none (some (k.f 0 0 8))).contains (destKey (k.w i)) then
      some St.state else none
def execZoneSetOutputs (k : Kcp) (s : State) : Host.Outcome State Fault Refusal := .next (kcpExec cmdZoneSetOutputs k s)

/-- New destinations at a sample: what stays keeps its ramp, what is new ramps in, what is removed ramps out (R218). A role
whose destination changes is no longer failed. -/
def State.atZoneOutputs (s : State) (mt : Nat) (p : List W32) : State :=
  let w := p.getD 0 0
  let n := bits w 0 8
  let z := s.zone n
  let new := (p.drop 1).take 4
  let old := z.dests.zip z.ramps
  let ramp := fun (d : W32) => match old.find? fun x => x.1 = d with
    | some x => x.2
    | none => if destRole d = 2 ∨ destRole d = 3 then .silent else .of 0 0 mt 0
  let gone := (old.filter fun x => destType x.1 ≠ 0 ∧ ¬ new.contains x.1).map fun x => (x.1, x.2.to s.bl mt muteCode 0)
  let kept := fun (role : Nat) =>
    ((z.slotOf role).map fun i => z.dests.getD i 0) = ((new.find? fun d => destType d ≠ 0 ∧ destRole d = role))
  let z' := { z with
    dests := new, ramps := new.map ramp, leaving := z.leaving ++ gone,
    failed := z.failed.filter (fun f => kept f.1), good := z.good.filter (fun g => kept g.1) }
  let s := s.setZone z'
  let s := if kept 0 then s else s.set (F.ZONE_STATUS_FB_A n) false
  let s := if kept 1 then s else s.set (F.ZONE_STATUS_FB_B n) false
  (s.set (F.ZONE_CTRL_FB_AUTO n) (bit w 8)).set (F.ZONE_CTRL_FB_ON_PILOT n) (bit w 9)

/-- A destination is declared bad now (R219). -/
def State.destDown (s : State) (w : W32) : Bool :=
  match destType w with
  | 1 => ¬ s.strmUp
  | 2 => s.portState (destIndex w / 32) = Port.clkLost
  | 3 => s.flag (F.ANA_STATUS_COMPL_NOW (destIndex w))
  | 4 => ¬ s.portUp 0 ∧ ¬ s.portUp 1
  | _ => false

/-- The A or B destination of a zone is still failed (R219, R220). -/
def State.roleDown (s : State) (n role : Nat) : Bool :=
  let z := s.zone n
  match z.slotOf role with
  | none => false
  | some i => s.destDown (z.dests.getD i 0) ∨ (s.flag (F.ZONE_CTRL_FB_ON_PILOT n) ∧
      s.supv.pilots.any fun p => p.zone = n ∧ p.fault ∧ p.point = (if role = 0 then .roleA else .roleB))

/-- The flag that shows a fallback carrying. -/
def fbFlag (n role : Nat) : Fld := if role = 0 then F.ZONE_STATUS_FB_A n else F.ZONE_STATUS_FB_B n

/-- FALLBACK_SWITCH (R219): the fallback of a failed destination ramps in; the failed destination receives nothing (DEDUCED, notes/assumptions/177.md). -/
def execFallbackSwitch (zone : Nat) (roleB : Bool) (s : State) : Host.Outcome State Fault Refusal :=
  .next (
    let role := b2n roleB
    let z := s.zone zone
    match kget z.failed role with
    | none => s
    | some cause =>
      match z.slotOf (role + 2) with
      | none => s
      | some f =>
        if s.flag (fbFlag zone role) then s
        else
          let d := s.commit
          let r : Ramp := .of 0 0 (s.startOf (d - 1)) 0
          let s := (s.setZone { z with ramps := z.ramps.set f r }).set (fbFlag zone role)
          s.post 0x0601 zone [w32 (role + (z.slotOf role).getD 0 * 16 + f * 256 + cause * 4096), w32 d])

/-- A zone returns to a restored destination at a sample (R220): the fallback ramps out and the destination ramps in. -/
def State.restoreRole (s : State) (n role mt : Nat) : State :=
  let z := s.zone n
  if (kget z.failed role).isNone then s
  else
    let ramps := match z.slotOf role with
      | some i => z.ramps.set i (.of 0 0 mt 0)
      | none => z.ramps
    let (ramps, leaving) := match z.slotOf (role + 2) with
      | some f => if s.flag (fbFlag n role) then
          (ramps.set f (.silent), z.leaving ++ [(z.dests.getD f 0, (z.ramps.getD f (.unity)).to s.bl mt muteCode 0)])
          else (ramps, z.leaving)
      | none => (ramps, z.leaving)
    let s := s.setZone { z with ramps := ramps, leaving := leaving, failed := kdel z.failed role, good := kdel z.good role }
    s.set (fbFlag n role) false

/-- FALLBACK_AUTO_RESTORE (R220): with FB_AUTO, after 15,000 good blocks. -/
def execFallbackAutoRestore (zone : Nat) (roleB : Bool) (s : State) : Host.Outcome State Fault Refusal :=
  .next (
    let role := b2n roleB
    if s.flag (F.ZONE_CTRL_FB_AUTO zone) ∧ 15000 ≤ (kget (s.zone zone).good role).getD 0 then
      s.restoreRole zone role (s.startOf s.commit)
    else s)

/-- ZONE.RESTORE (R220). -/
def cmdZoneRestore : Cmd where
  opcode := 0x060D
  at_ := .routing
  arg := fun k s => firstBad [lenIs k 1, zoneOk k s, resv k 0 0x1FF]
  refuse := fun k s => if s.roleDown (k.f 0 0 8) (k.f 0 8 1) then some St.state else none
def execZoneRestore (k : Kcp) (s : State) : Host.Outcome State Fault Refusal := .next (kcpExec cmdZoneRestore k s)
def State.atZoneRestore (s : State) (mt : Nat) (p : List W32) : State :=
  s.restoreRole (bits (p.getD 0 0) 0 8) (bits (p.getD 0 0) 8 1) mt

/-! Groups (R221, R222). -/

/-- The members that a SET_GROUP payload names. -/
def groupMask (p : List W32) : BitVec 256 :=
  BitVec.ofNat 256 (((List.range 8).map fun i => (p.getD (3 + i) 0).toNat * 2 ^ (32 * i)).sum)

/-- A zone's inputs once the position that a group took is freed. -/
def Zone.freeGroup (z : Zone) (g : Nat) : List Nat :=
  match kget z.groupPos g with
  | some i => z.inputs.set i 0x3FF
  | none => z.inputs

/-- The lowest free input position. -/
def freePos (l : List Nat) : Option Nat := [0, 1, 2, 3].find? fun i => l.getD i 0 = 0x3FF

/-- A zone that becomes a member of a group with a bus has, or finds, an input position for it (R221). -/
def Zone.takes (z : Zone) (g bus : Nat) : Bool :=
  let l := z.freeGroup g
  ¬ hasBus bus ∨ l.contains bus ∨ (freePos l).isSome

/-- A zone leaves a group, and joins it again with a bus: its inputs and the position the group takes. -/
def Zone.regroup (z : Zone) (mt g bus : Nat) (member : Bool) : Zone :=
  let l := z.freeGroup g
  let z0 := { z with groupPos := kdel z.groupPos g }
  if member ∧ hasBus bus ∧ ¬ l.contains bus then
    match freePos l with
    | some i => { (z0.setInputs mt (l.set i bus)) with groupPos := kput z0.groupPos g i }
    | none => z0.setInputs mt l
  else z0.setInputs mt l

/-- A group takes its members and buses (R221); off the keystone its site name stays as the keystone assigned it (R222). -/
def State.atSetGroup (s : State) (mt : Nat) (p : List W32) : State :=
  let g := bits (p.getD 0 0) 0 6
  let old := s.group g
  let bus := bits (p.getD 1 0) 0 10
  let m := groupMask p
  let hit := (List.range 256).filter fun z => old.members.getLsbD z ∨ m.getLsbD z
  let s := forEach hit s fun z s => s.setZone ((s.zone z).regroup mt g bus (m.getLsbD z))
  s.setGroup ⟨g, m, bus, bits (p.getD 1 0) 16 10, if s.isKeystone then bits (p.getD 2 0) 0 16 else old.site⟩

/-- The zones' inputs and groups as the changes accepted so far leave them at a sample (DEDUCED, notes/assumptions/77.md). -/
def State.zonesAt (s : State) (mt : Nat) : State :=
  let before := fun (a b : Timed) => decide (a.mt < b.mt ∨ a.mt = b.mt ∧ a.order ≤ b.order)
  let due := isort before (s.timed.filter fun t => (t.opcode = 0x0602 ∨ t.opcode = 0x060E) ∧ t.mt ≤ mt)
  forEach due s fun t s => if t.opcode = 0x0602 then s.atZoneInputs t.mt t.payload else s.atSetGroup t.mt t.payload

/-- ZONE.SET_GROUP. -/
def cmdZoneSetGroup : Cmd where
  opcode := 0x060E
  at_ := .routing
  arg := fun k s => firstBad ([lenIs k 11, fld 0 0 (decide (k.f 0 0 6 < s.variant.groups)), resv k 0 0x3F,
    fld 1 0 (decide ((256 ≤ k.f 1 0 10 ∧ k.f 1 0 10 < 512) ∨ k.f 1 0 10 = 0x3FF)), resv k 1 0x03FF03FF,
    fld 1 16 (decide ((256 ≤ k.f 1 16 10 ∧ k.f 1 16 10 < 512) ∨ k.f 1 16 10 = 0x3FF)), resv k 2 0xFFFF] ++
    ((List.range 8).map fun i => fld (3 + i) 0 (decide (s.variant.zones ≤ 32 * i → k.w (3 + i) = 0))))
  refuse := fun k s =>
    if ¬ s.isKeystone ∧ k.n 2 ≠ 0xFFFF then some St.state
    else
      let g := k.f 0 0 6
      let s' := s.zonesAt (s.applyAt k.time.toNat)
      if ((List.range 256).filter fun z => (groupMask k.payload).getLsbD z).all fun z => (s'.zone z).takes g (k.f 1 0 10) then none
      else some St.noResource
def execZoneSetGroup (k : Kcp) (s : State) : Host.Outcome State Fault Refusal := .next (kcpExec cmdZoneSetGroup k s)

/-! Reading (R315). -/

/-- A signed number in a halfword of a word. -/
def half (x : Int) : Nat := unsigned 16 x

/-- The request payloads that would reproduce a zone's settings (R315). -/
def State.zoneConfig (s : State) (n : Nat) : List W32 :=
  let z := s.zone n
  let f := fun (x : Fld) => s.get x
  let i := fun k => z.inputs.getD k 0x3FF
  let c := fun (x : Int) => w32 (unsigned 24 x * 256)
  [w32 (n + f (F.ZONE_CTRL_EN n) * 256),
    w32 n, w32 (i 0 + i 1 * 65536), w32 (i 2 + i 3 * 65536),
    w32 n, s.rd (R.ZONE_GATE n),
    w32 (n + f (F.ZONE_CTRL_AMB_EN n) * 256), w32 z.ambient.mic, w32 (half z.ambient.cal * 65536 + half z.ambient.gapThresh),
    w32 (half z.ambient.ref * 65536 + z.ambient.slope * 256 + z.ambient.hang), w32 z.ambient.max,
    w32 (n + 16 * 256)] ++
  (z.biquads.zipIdx.flatMap fun b => [w32 b.2, c b.1.b0, c b.1.b1, c b.1.b2, c b.1.a1, c b.1.a2]) ++
  [w32 (n + z.fir.length * 65536),
    w32 (n + f (F.ZONE_CTRL_DYN_EN n) * 256 + f (F.ZONE_CTRL_DYN_EVAC_BYPASS n) * 512),
    w32 (half z.dyn.thresh * 65536 + z.dyn.ratio), w32 (z.dyn.attack * 65536 + z.dyn.release),
    w32 (half z.dyn.makeup * 65536 + half z.dyn.ceiling), w32 (z.dyn.knee * 65536 + z.dyn.limRelease),
    w32 n, w32 z.delay, w32 n, w32 (half z.gain.dst * 65536 + z.gain.code),
    w32 (n + f (F.ZONE_CTRL_PILOT_EN n) * 256), w32 (half z.pilotLevel * 65536 + f (F.ZONE_CTRL_PILOT_BIN n)),
    w32 (n + f (F.ZONE_CTRL_FB_AUTO n) * 256 + f (F.ZONE_CTRL_FB_ON_PILOT n) * 512)] ++ z.dests

/-- The SET_GROUP payload of a group (R315). -/
def State.groupConfig (s : State) (n : Nat) : List W32 :=
  let g := s.group n
  [w32 n, w32 (g.bus + g.send * 65536), w32 g.site] ++ (List.range 8).map fun i => w32 (g.members.toNat / 2 ^ (32 * i))

/-- ZONE.GET_CONFIG. -/
def cmdZoneGetConfig : Cmd where
  opcode := 0x060F
  fault := true
  reads := true
  arg := fun k s => firstBad [lenIs k 1,
    fld 0 0 (if k.bit 0 31 then decide (k.f 0 0 6 < s.variant.groups) else decide (k.f 0 0 8 < s.variant.zones)),
    resv k 0 (if k.bit 0 31 then 0x8000003F else 0xFF)]
  act := fun k _ s => ans s (if k.bit 0 31 then s.groupConfig (k.f 0 0 6) else s.zoneConfig (k.f 0 0 8))
def execZoneGetConfig (k : Kcp) (s : State) : Host.Outcome State Fault Refusal := .next (kcpExec cmdZoneGetConfig k s)

/-- The slots of a zone whose destination is failed. -/
def Zone.failedSlots (z : Zone) : Nat :=
  ((List.range 4).map fun i => if destType (z.dests.getD i 0) ≠ 0 ∧ (kget z.failed (destRole (z.dests.getD i 0))).isSome
    then 2 ^ i else 0).sum

/-- ZONE.GET_STATUS. -/
def cmdZoneGetStatus : Cmd where
  opcode := 0x0610
  fault := true
  reads := true
  arg := fun k s => firstBad [lenIs k 1, fld 0 0 (decide (k.f 0 0 8 + k.f 0 8 7 ≤ s.variant.zones)), inU k 0 8 7 1 64,
    resv k 0 0x7FFF]
  act := fun k _ s => ans s ((List.range (k.f 0 8 7)).flatMap fun i =>
    let n := k.f 0 0 8 + i
    [s.view (R.ZONE_STATUS n), w32 (s.zone n).failedSlots])
def execZoneGetStatus (k : Kcp) (s : State) : Host.Outcome State Fault Refusal := .next (kcpExec cmdZoneGetStatus k s)

end Sys2Proof.Machine
end

