-- ==== Sys2Proof/Machine/Tiles.lean ====
section
/-! DEFINITION. Tiles as voices take them from banks (R94, R95, R125, R129, R130): the image of a bank that a voice reads, the check of
a tile that has lost its VERIFIED mark, and BAD tiles. -/

namespace Sys2Proof.Machine

/-! Voices and images (R125). -/

/-- A voice binds some image of a bank. -/
def Voice.binds (v : Voice) (n : Nat) : Bool := v.bound.any fun p => p.1 = n

/-- Voices that bind a bank, and voices that bind one image of it. -/
def State.boundVoices (s : State) (n : Nat) : List Voice := s.disp.voices.filter fun v => v.binds n
def State.boundTo (s : State) (n gen : Nat) : List Voice := s.disp.voices.filter fun v => v.bound.contains (n, gen)

/-- The images of a bank that are in memory: the resident one, and older ones still bound. -/
def Bank.images (b : Bank) : List Image := b.image.toList ++ b.old

/-- The image of a bank that a voice has bound. -/
def State.boundImage (s : State) (v : Voice) (n : Nat) : Option Image :=
  (v.bound.find? fun p => p.1 = n).bind fun p => (s.bank n).images.find? fun i => i.gen = p.2

/-- A voice belongs to a vault job (R132). -/
def State.inVault (s : State) (v : Voice) : Bool := (s.job? v.record).any fun j => j.descr.vault

/-- The bank and tile number that a reference names for a voice, and in SCRIPT mode for its language state (R94, R95). -/
def State.resolve (s : State) (v : Voice) (lang : Option Cursor) (ref : W32) : Nat × Nat :=
  if s.inVault v then (255, bits ref 4 20)
  else match lang.filter fun _ => bit ref 0 with
    | some c => (c.bank, c.tbase * 16 + bits ref 4 20)
    | none => (bits ref 24 8, bits ref 4 20)

/-- The image in which a voice reads a bank's tiles: the one it has bound, or else the resident one; bank memory must be
available (R125, R127, R424). -/
def State.tileImage (s : State) (v : Voice) (n : Nat) : Option (Nat × Bytes × List Nat) :=
  if n = 255 then
    if (s.bank 255).state = .vault then some (0, s.vaultBytes, ((s.bank 255).image.map Image.bad).getD []) else none
  else if ¬ s.banks.available then none
  else (if v.binds n then s.boundImage v n else if s.bindable n then (s.bank n).image else none).map fun i => (i.gen, i.bytes, i.bad)

/-- A voice takes an item of a bank's image (R125). -/
def VoiceDyn.bind (d : VoiceDyn) (n gen : Nat) : VoiceDyn :=
  if d.bound.any fun p => p.1 = n then d else { d with bound := d.bound ++ [(n, gen)] }

/-- A voice plays a tile, in what has been rendered: a tile of its script, or the tile of OSCA_SRC that it reads (R59, R95). -/
def State.playsTile (s : State) (v : Voice) (bank tile : Nat) : Bool :=
  if v.scripted (s.startOf s.commit) then v.seq.played.any fun t =>
    t.bank = bank ∧ t.tile = tile ∧ 2 * s.startOf s.commit < t.last ∧ t.first < 2 * s.startOf (s.front + 1)
  else
    v.synth.reading ∧ v.synth.src / 16 % 2 ^ 20 = tile ∧
      bank = (s.resolve v none (w32 v.synth.src)).1

/-- The handle of a voice that plays a tile, 0xFFFF for none (R319). -/
def State.playerOf (s : State) (bank tile : Nat) : Nat :=
  match s.disp.voices.find? fun v => s.playsTile v bank tile with
  | some v => s.handleOf v.src
  | none => 0xFFFF

/-- TILE_BAD (R319). -/
def State.tileBad (s : State) (bank tile cause : Nat) : State :=
  s.post 0x0202 bank [w32 tile, w32 cause, w32 (s.playerOf bank tile)]

/-! Errors in images (R129, R130). -/

/-- A 4 KiB page of an image overlaps a tile's sample data (R130). -/
def pageData (b : Bytes) (tile page : Nat) : Bool :=
  let e := tileEntry b tile
  decide (e.dataOff < 4096 * page + 4096 ∧ 4096 * page < e.dataOff + e.dataLen)

/-- A 4 KiB page of an image overlaps a tile's directory entry, sample data or pitch-mark table (R129). -/
def pageHits (b : Bytes) (tile page : Nat) : Bool :=
  let e := tileEntry b tile
  let lo := 4096 * page
  let hits := fun off len => decide (off < lo + 4096 ∧ lo < off + len)
  hits (dirOff b + 16 * tile) 16 || pageData b tile page || hits e.pmOff (pmLen b e)

/-- A tile of an image in memory reads good: its CRC agrees and no uncorrectable word lies in it. -/
def Image.tileGood (i : Image) (tile : Nat) : Bool :=
  tileCrcOk i.bytes tile && !(i.damaged.any fun p => pageHits i.bytes tile p)

/-- Change the image of a generation in a bank's memory. -/
def State.mapImage (s : State) (n gen : Nat) (f : Image → Image) : State :=
  let b := s.bank n
  let g := fun (i : Image) => if i.gen = gen then f i else i
  s.setBank { b with image := b.image.map g, old := b.old.map g }

/-- Mark a tile of an image BAD, with a TILE_BAD event (R129, R130). -/
def State.tileMarkBad (s : State) (n gen tile cause : Nat) : State :=
  (s.mapImage n gen fun i => { i with bad := if i.bad.contains tile then i.bad else i.bad ++ [tile] }).tileBad n tile cause

/-- The check of a tile of an image without VERIFIED (R129): good, or BAD from then on. -/
def State.checkTile (s : State) (n gen tile : Nat) : State :=
  match (s.bank n).images.find? fun i => i.gen = gen with
  | none => s
  | some i =>
    if ¬ i.unverified.contains tile ∨ i.bad.contains tile then s
    else if i.tileGood tile then s.mapImage n gen fun i => { i with unverified := i.unverified.filter fun t => t ≠ tile }
    else s.tileMarkBad n gen tile 1

/-- A voice is about to play a tile: of up to 4 MiB it has been checked before its first block is rendered; a larger one plays while
its check runs (R129). -/
def State.beforeTile (s : State) (n gen tile : Nat) : State :=
  match (s.bank n).images.find? fun i => i.gen = gen with
  | none => s
  | some i => if (tileEntry i.bytes tile).dataLen ≤ 4194304 then s.checkTile n gen tile else s

end Sys2Proof.Machine
end

