-- ==== Sys2Proof/Machine/Queue.lean ====
section
/-! DEFINITION. A brick's work in a block period (R17, R162, R168–R170): its cycles, the block F of every voice, the re-render queue and
its order, and checkpoints. -/

namespace Sys2Proof.Machine

/-! Cycles (R168, R254). -/

/-- Cycles that a brick's kernels have in a block period: the guaranteed budget and the reserve. -/
def State.brickCycles (s : State) : Nat := Config.periodCycles s.rate - 69333

/-- The cycles that a brick's queue has used in the running period, and those that it has: what block F leaves of the budget is in the
reserve. -/
def State.share (s : State) (br : Nat) : Nat × Nat := ((kget s.disp.reserve br).getD []).headD (0, s.brickCycles)
def State.setShare (s : State) (br : Nat) (x : Nat × Nat) : State :=
  { s with disp := { s.disp with reserve := kput s.disp.reserve br (x :: ((kget s.disp.reserve br).getD []).drop 1) } }

/-- Cycles that block F of a voice takes, and cycles that the queue takes. -/
def State.spendFront (s : State) (br n : Nat) : State := s.setShare br ((s.share br).1, (s.share br).2 - n)
def State.useReserve (s : State) (br n : Nat) : State := s.setShare br ((s.share br).1 + n, (s.share br).2)

/-- What the queue of a brick still has; a voice block is begun only where it fits (DESIGN CHOICE, notes/assumptions/201.md). -/
def State.reserveLeft (s : State) (br : Nat) : Nat := (s.share br).2 - (s.share br).1

/-! Voices and the queue (R169). -/

/-- A voice renders a block: it sounds, and neither its end nor a stop lies before it (R68, R160). -/
def State.renders (s : State) (v : Voice) (b : Nat) : Bool :=
  v.sounding ∧ (v.endBlock.all fun e => b ≤ e) ∧ v.stop.all fun t => s.startOf b < t.mt + 32

/-- The earliest block not yet rendered that the mix will need of a voice. -/
def Voice.need (v : Voice) : Nat := match v.rollback, v.redo with
  | some e, _ => e
  | none, some r => max r v.next
  | none, none => v.next

/-- A voice is at block F in sequence, and renders it in the first pass of a period (R168). -/
def State.atFront (s : State) (v : Voice) : Bool := v.rollback.isNone ∧ v.redo.isNone ∧ v.next = s.front ∧ s.renders v v.next

/-- A voice is in the queue of its brick: a rollback, a re-render, or blocks up to F that are missing (R17, R169, R176). -/
def State.queued (s : State) (v : Voice) : Bool := v.rollback.isSome ∨ (v.next ≤ s.front ∧ s.renders v v.next)

/-- The order of the queue: class, block, slot (R169). -/
def Voice.sooner (v w : Voice) : Bool :=
  v.cls < w.cls ∨ (v.cls = w.cls ∧ (v.need < w.need ∨ (v.need = w.need ∧ v.src ≤ w.src)))

/-- The first of a list of voices in an order. -/
def firstVoice (before : Voice → Voice → Bool) (l : List Voice) : Option Voice :=
  l.foldl (fun m v => match m with | none => some v | some w => if before v w ∧ v ≠ w then some v else some w) none

/-- The voices of a logical brick. -/
def State.onBrick (s : State) (br : Nat) : List Voice := s.disp.voices.filter fun v => v.src / 128 = br

/-- The voice that block F is due for next, in slot order, and the head of a brick's queue. -/
def State.frontNext (s : State) (br : Nat) : Option Voice := firstVoice (fun v w => v.src ≤ w.src) ((s.onBrick br).filter s.atFront)
def State.queueHead (s : State) (br : Nat) : Option Voice := firstVoice Voice.sooner ((s.onBrick br).filter s.queued)

/-- The depth grows (R158): behind all other work, a voice renders block F + 1. -/
def State.growNext (s : State) (br : Nat) : Option Voice :=
  if s.ra < s.time.raTarget then
    firstVoice Voice.sooner ((s.onBrick br).filter fun v => v.rollback.isNone ∧ v.next = s.front + 1 ∧ s.renders v v.next)
  else none

/-- No active voice lacks a block up to F + 1 (R158). -/
def State.grown (s : State) : Bool := s.disp.voices.all fun v => ¬ (s.renders v v.next ∧ v.next ≤ s.front + 1) ∧ v.rollback.isNone

/-! Checkpoints (R162). -/

/-- The ring entry that a checkpoint of a block takes: one with the same tag, one without VALID, or the oldest. -/
def Voice.ringEntry (v : Voice) (b : Nat) : Nat :=
  let at_ := fun (j : Nat) => v.ckpts.find? fun c => c.entry = j ∧ c.valid
  match (List.range 5).find? fun j => (at_ j).any fun c => c.block = b with
  | some j => j
  | none => match (List.range 5).find? fun j => (at_ j).isNone with
    | some j => j
    | none => (v.ckpts.foldl (fun (m : Nat × Nat) c => if c.block < m.2 then (c.entry, c.block) else m) (0, 2 ^ 64)).1

/-- A checkpoint of a voice before a block, with the words of a customer kernel's voice state. -/
def Voice.checkpoint (v : Voice) (b : Nat) (words : List W32) : Voice :=
  let j := v.ringEntry b
  { v with ckpts := ⟨j, b, true, v.toVoiceDyn, words⟩ :: v.ckpts.filter fun c => c.entry ≠ j }

/-- A checkpoint falls due before a block: at every fourth block by slot, and at the voice's first. -/
def State.ckptDue (s : State) (v : Voice) (b : Nat) : Bool := (b + 128 - v.src % 128) % 4 = 0 ∨ b = s.blockOf v.startMt

/-- ROLLBACK_LOST (R166): the staged blocks play unchanged, and the edits that asked for the rollback apply at F + 1
(DEDUCED, notes/assumptions/96.md). -/
def State.rollbackLost (s : State) (v : Voice) (e : Nat) : State :=
  let first := s.startOf (s.front + 1)
  let mine := fun (x : Edit) => decide (v.rollOrder ≤ x.order ∧ s.startOf e ≤ x.mt)
  let intended := (v.sorted.find? mine).elim (s.startOf e) Edit.mt
  let applied := max intended first
  let h := ((s.job? v.record).map Job.handle).getD 0
  let s := s.post 0x0302 (s.handleOf v.src) [h, lo32 intended, hi32 intended, lo32 applied, hi32 applied]
  s.setVoice { v with
    rollback := none, next := max v.next (s.front + 1), redo := none,
    staged := v.staged.map fun (t : Staged) => if e ≤ t.block then { t with valid := true } else t,
    edits := v.edits.map fun (x : Edit) => if mine x ∧ x.mt < first then { x with mt := first } else x }

/-- Serve a queued rollback (R164 step 2): the newest valid checkpoint at or before e is restored, or the rollback is lost. -/
def State.restoreVoice (s : State) (v : Voice) (e : Nat) : State :=
  match v.ckptFor e with
  | none => s.rollbackLost v e
  | some k => s.setVoice { v with toVoiceDyn := k.dyn, next := k.block, redo := some e, rollback := none }

/-- A voice's block has been rendered: the next one is due, and a re-render that has reached block F, and what it is to stage, is over
(R164 step 5). -/
def State.reachedBlock (s : State) (v : Voice) (b : Nat) : Voice :=
  { v with next := b + 1, redo := v.redo.filter fun r => b < s.front ∨ b + 1 < r }

/-- Stage a block that has been rendered: where it was silent it is compared with the staged copy, which stays (R165); a block that is
past due, or whose row is no longer written, is discarded (R157, R171; DEDUCED, notes/assumptions/94.md; DEDUCED,
notes/assumptions/95.md). -/
def State.stage (s : State) (v : Voice) (t : Staged) : Voice × Bool :=
  let old := v.staged.find? fun x => x.block = t.block ∧ x.valid
  if v.redo.any fun r => t.block < r then (v, old.any fun x => x.samples ≠ t.samples)
  else if t.block ≤ s.commit + 1 then (v, false)
  else ({ v with staged := v.staged.filter (fun x => x.block ≠ t.block) ++ [t] }, false)

/-- ROLLBACK_MISMATCH (R165): a fault of the brick's datapath. -/
def State.mismatch (s : State) (src : Nat) : State :=
  let p := (s.physOf (src / 128)).getD 0
  (s.set (F.BRICK_KSTAT_ROLLBACK_MISMATCH p)).raise Mech.rollback (src / 128) (w32 (src % 128)) 0 0

end Sys2Proof.Machine
end

