-- ==== Sys2Proof/Machine/Call.lean ====
section
/-! DEFINITION. The call of a customer kernel (R226, R227, R245–R253): decoding the prefetched tile, the call block, the start
and the end of a call, and the cut of an illegal word or of the budget. -/

namespace Sys2Proof.Machine

/-! Memory (R161, R226, R227). -/

/-- The customer image a logical brick runs. -/
def State.kimage (s : State) (b : Nat) : Option KImage := kget s.kernel.images b

/-- A word of a kernel image's header, and of its table (R255). -/
def KImage.word (i : KImage) (off : Nat) : W32 := byteWord i.bytes off
def KImage.table (i : KImage) (n : Nat) : W32 :=
  if n < (i.word 0x1C).toNat then i.word ((i.word 0x18).toNat + 4 * n) else 0

/-- The slot of the call, and its logical brick. -/
def Datapath.slot (d : Datapath) : Nat := d.src % 128
def Datapath.brick (d : Datapath) : Nat := d.src / 128

/-- Words of a voice's prefetch buffer, and of its output block (R226). -/
def State.bufLen (s : State) : Nat := if Config.double s.rate then 1024 else 512
def State.bufBase (s : State) (slot : Nat) : Nat := 0x10000 + s.bufLen * slot

/-- The row of a block in the staging ring: the row offset J is 0 after every reset and grows by every jump (R156, R167), and
the labels of the staged blocks move with it, so the row of a label is counted from the state's own J. -/
def State.rowOf (s : State) (block : Nat) : Nat := (block + 16 - s.time.rowJ % 16) % 16

/-- The first word of a slot's output block (R156, R226). -/
def State.outBase (s : State) (slot block : Nat) : Nat := 0x30000 + 4096 * s.rowOf block + s.bl * slot

/-- The call may load from an address with a move: M1 reaches the voice state, the call block and scratch, and the output
block; M2 the prefetch buffer; both the tables (R226, R227). -/
def State.mayLoad (s : State) (d : Datapath) (first : Bool) (a : Nat) : Bool :=
  let table : Bool := 0x20000 ≤ a ∧ a < 0x24000
  let out := s.outBase d.slot d.block
  table || if first then
      decide (64 * d.slot ≤ a ∧ a < 64 * d.slot + 64) || decide (0xC500 ≤ a ∧ a < 0x10000) ||
        decide (out ≤ a ∧ a < out + s.bl)
    else decide (s.bufBase d.slot ≤ a ∧ a < s.bufBase d.slot + s.bufLen)

/-- What a load from an address returns. -/
def State.kload (s : State) (d : Datapath) (a : Nat) : W32 :=
  if 0x20000 ≤ a ∧ a < 0x24000 then ((s.kimage d.brick).map fun i => i.table (a - 0x20000)).getD 0
  else s.kmem d.brick a

/-- A checkpoint word or tag, which a kernel cannot write (R163). -/
def isCkpt (a : Nat) : Bool := 0x2000 ≤ a ∧ a < 0xC500

/-! The call (R245–R251). -/

/-- The physical brick of the call. -/
def State.callPhys (s : State) : Nat := (s.physOf s.dp.brick).getD 0

/-- The edits of a voice with the block in which each reaches the kernel: 252 in a block at most, the others in the next (R82,
R83, R246). -/
def State.edits252 (s : State) (v : Voice) : List (Nat × Edit) :=
  ((isort Edit.before v.edits).foldl (fun (acc : Nat × Nat × List (Nat × Edit)) e =>
    let own := max (s.blockOf e.mt) (s.blockOf v.startMt)
    let (cur, n, l) := acc
    if cur < own ∨ l = [] then (own, 1, (own, e) :: l)
    else if n < 252 then (cur, n + 1, (cur, e) :: l)
    else (cur + 1, 1, (cur + 1, e) :: l)) (0, 0, [])).2.2.reverse

/-- An edit as a record for a customer kernel (R80, R249), if the kernel takes it. -/
def KImage.record (i : KImage) (e : Edit) : Option W32 :=
  let ext := i.word 0x20
  match e.kind with
  | .param id x => some (w32 (id * 2 ^ 24 + x.toNat))
  | .contact n a => if bit ext n then some (w32 ((0x80 + n) * 2 ^ 24 + b2n a)) else none
  | .ambient c => if bit ext 16 then some (w32 (0x90 * 2 ^ 24 + unsigned 16 (-(64 * c : Nat)))) else none
  | _ => none

/-- The edit records of a block: sample offset and record (R246). -/
def State.callEdits (s : State) (v : Voice) (i : KImage) (b : Nat) : List (W32 × W32) :=
  ((s.edits252 v).filter fun x => x.1 = b).filterMap fun x =>
    (i.record x.2).map fun r => (w32 (if s.blockOf x.2.mt = b then x.2.mt % s.bl else 0), r)

/-- The voice state of a slot. -/
def State.voiceState (s : State) (src : Nat) : List W32 :=
  (List.range 64).map fun i => s.kmem (src / 128) (64 * (src % 128) + i)

/-- The prefetcher fills a slot's buffer around PF_POS (R247): the voice takes the tile's image, and a tile that is missing or BAD reads
0 and sets SRC_BAD. -/
def State.prefetch (s : State) (v : Voice) : State :=
  let b := v.src / 128
  let ref := s.kmem b (64 * (v.src % 128) + 62)
  let pos : Nat := bits (s.kmem b (64 * (v.src % 128) + 63)) 0 28
  let half := s.bufLen / 2
  let (bank, tile) := s.resolve v none ref
  let s := match s.tileImage v bank with
    | some (g, _) => if ref = 0 then s else s.beforeTile bank g tile
    | none => s
  let img := (s.tileImage v bank).filter fun i => ref ≠ 0 ∧ tile < nTiles i.2.1 ∧ (tileEntry i.2.1 tile).kind ≠ 2
  let bad : Bool := img.any fun i => i.2.2.contains tile
  let words := (List.range s.bufLen).map fun k =>
    let i : Int := (pos : Int) - half + ((k + s.bufLen - (pos + half) % s.bufLen) % s.bufLen : Nat)
    match img with
    | some x => if bad then (0 : W32) else w32 (unsigned 24 (tileSample x.2.1 (tileEntry x.2.1 tile) i) * 256)
    | none => 0
  let s := s.putKmem b (s.bufBase (v.src % 128)) words
  let v := match img with | some i => { v with toVoiceDyn := v.toVoiceDyn.bind bank i.1 } | none => v
  s.setVoice (if ref ≠ 0 ∧ (bad ∨ img.isNone) then v.setFlag 1 else v)

/-- The next voice block that a customer kernel renders: the bricks in order, on each block F in slot order, then its queue, then the
growth of the depth (R168, R169) (DEDUCED, notes/assumptions/131.md). -/
def State.nextCall (s : State) : Option Voice :=
  (List.range s.variant.bricks).findSome? fun br =>
    if (s.kimage br).isNone then none
    else match s.frontNext br with
      | some v => some v
      | none => if s.reserveLeft br < Config.callBudget s.rate then none else (s.queueHead br).orElse fun _ => s.growNext br

/-- Begin a call (R245, R246, R248, R250): at a voice's first block its state is the preset's words. -/
def State.callBegin (s : State) (v : Voice) : State :=
  match s.kimage (v.src / 128) with
  | none => s
  | some i =>
    let b := v.next
    let br := v.src / 128
    let slot := v.src % 128
    let first : Bool := b = s.blockOf v.startMt
    let v := v.endsBy (s.startOf (b + 1))
    let s := if first then
        s.putKmem br (64 * slot) (((List.range 62).map fun k =>
          w32 ((v.params.getD (2 * k) 0).toNat + (v.params.getD (2 * k + 1) 0).toNat * 65536)) ++ [0, 0])
      else s
    let v := if s.ckptDue v b then v.checkpoint b (s.voiceState v.src) else v
    let s := s.setVoice v
    let s := if first then s.prefetch v else s
    let edits := s.callEdits v i b
    let rel : Bool := v.releaseAt.any fun r => s.blockOf r = b
    let ofs := (v.releaseAt.getD 0) % s.bl
    let mt := s.startOf b
    let head : List W32 := [w32 (b2n first + (if rel then 2 + ofs * 256 else 0)), w32 b, lo32 mt, hi32 mt, v.seedOf 0, w32 v.src, 0,
      w32 edits.length]
    let s := s.putKmem br 0xC500 (head ++ edits.flatMap fun x => [x.1, x.2])
    let s := s.putKmem br (s.outBase slot b) (List.replicate s.bl 0)
    let p := (s.physOf br).getD 0
    let spill : Bool := (s.edits252 v).any fun x => x.1 = b + 1 ∧ s.blockOf x.2.mt ≤ b
    let s := if spill then s.set (F.BRICK_KSTAT_EDIT_SPILL p) else s
    let pos := bits (s.kmem br (64 * slot + 63)) 0 28
    let base := s.bufBase slot
    let d := Datapath.init
    let pts : List (BitVec 24) := [BitVec.ofNat 24 (64 * slot), BitVec.ofNat 24 (s.outBase slot b),
      BitVec.ofNat 24 (base + pos % s.bufLen + 2 * 2 ^ 18 + 2 ^ 21), 0xC500, 0x20000, 0, 0, 0]
    let lo := (d.wlo.set 2 (BitVec.ofNat 18 base))
    let hi := (d.whi.set 2 (BitVec.ofNat 18 (base + s.bufLen)))
    { s with dp := { d with
      active := true, src := v.src, record := v.record, block := b, pt := pts, ptM := pts, wlo := lo, wloM := lo, whi := hi,
      whiM := hi, pc := bits (i.word 0x14) 0 16, mem := s.dp.mem } }

/-- Serve a queued rollback of a customer kernel's voice (R164, R247): its state is restored, its buffer filled from the restored
words, and a re-render through its calls begins. -/
def State.callRestore (s : State) (v : Voice) (e : Nat) : State :=
  let s := match v.ckptFor e with
    | some k => s.putKmem (v.src / 128) (64 * (v.src % 128)) k.words
    | none => s
  let s := s.restoreVoice v e
  match s.voiceIn v.src v.record with
  | some v => if v.redo.isSome then s.prefetch v else s
  | none => s

/-- Begin the next call that is due, if no call is in progress; a rollback that is lost, and a voice that has ended, give way to the
next in the queue. The fuel bounds them. -/
def State.callFrom : Nat → State → State
  | 0, s => s
  | n + 1, s =>
    if s.dp.active then s
    else match s.nextCall with
      | none => s
      | some v =>
        match v.rollback with
        | none => s.callBegin v
        | some e =>
          let s := s.callRestore v e
          match s.voiceIn v.src v.record with
          | some v => if v.redo.isSome ∧ s.renders v v.next then s.callBegin v else s.callFrom n
          | none => s.callFrom n
def State.callNext (s : State) : State := s.callFrom (s.disp.voices.length + 1)

/-- The samples of the call's output block (R229, R248). -/
def State.outBlock (s : State) : List Sample :=
  (List.range s.bl).map fun i => (s.kmem s.dp.brick (s.outBase s.dp.slot s.dp.block + i)).extractLsb' 8 24

/-- A silent call and one that is past due leave their row as it was (R157): the copy that is staged. -/
def State.rowBack (s : State) (v : Voice) (b : Nat) : State :=
  match v.staged.find? fun t => t.block = b ∧ t.valid with
  | some t => s.putKmem (v.src / 128) (s.outBase (v.src % 128) b) (t.samples.map fun x => w32 (unsigned 24 (sVal x) * 256))
  | none => s

/-- End the call (R231, R246, R251, R253): FLAGS goes to KSTAT, RESULT to the voice. A block that completed is staged, or compared with
its staged copy in a silent re-render (R165); one of a voice that rolls back from here or from before is discarded (R160). Block F has
its cycles from the budget, any other from the reserve (R168, R254). The next call begins. -/
def State.callEnd (s : State) (ok : Bool) : State :=
  let d := s.dp
  let p := s.callPhys
  let s := s.put (F.BRICK_KSTAT_FLAGS p) (s.get (F.BRICK_KSTAT_FLAGS p) ||| bits d.flags 0 6)
  let s := { s with dp := { s.dp with active := false } }
  match s.voiceIn d.src d.record with
  | none => s.callNext
  | some v =>
    let s := if v.redo.isNone ∧ d.block = s.front then s.spendFront d.brick d.cycles else s.useReserve d.brick d.cycles
    if v.rollback.any fun e => e ≤ d.block then s.callNext
    else
      let clip : Bool := bit d.flags 0 ∨ bit d.flags 1
      let v := if clip then v.setFlag 2 else v
      let res := s.kmem d.brick 0xC506
      let v := if ok ∧ bit res 1 then v.setFlag 5 else v
      let v := if ok ∧ bit res 0 then { v with endBlock := some d.block } else v
      let xs := s.outBlock
      let (v, differs) := if ok then s.stage v ⟨d.block, true, xs, d.cycles, clip⟩ else (v, false)
      let v := s.reachedBlock { v with level := rmsOf xs } d.block
      let s := (s.setVoice v).prefetch v
      let s := s.rowBack v d.block
      (if differs then s.mismatch d.src else s).callNext

/-- A cut posts its event at most once per brick and block: the brick's last cut is kept with its block. -/
def State.cutPosted (s : State) (kind : Nat) : Bool :=
  s.kernel.cuts.contains (kind, s.dp.brick, s.dp.block)

/-- An illegal word ends the call before it executes (R241). -/
def State.callIllegal (s : State) (pc : Nat) : State :=
  let d := s.dp
  let p := s.callPhys
  let s := (s.set (F.BRICK_KSTAT_ILLEGAL p)).put (F.BRICK_OVR_LAST_PC p) pc
  let s := if s.cutPosted 0 then s else
    { s.post 0x1303 d.brick [w32 d.slot, w32 (pc % 8192), w32 d.block] with
      kernel := { s.kernel with cuts := (0, d.brick, d.block) :: s.kernel.cuts.take 127 } }
  s.callEnd false

/-- The call reaches its budget without DONE (R253). -/
def State.callCut (s : State) (pc : Nat) : State :=
  let d := s.dp
  let p := s.callPhys
  let s := ((s.set (F.BRICK_KSTAT_OVERRUN p)).bumpSat (F.BRICK_OVR_OVR_CNT p)).put (F.BRICK_OVR_LAST_PC p) pc
  let s := if s.cutPosted 1 then s else
    { s.post 0x1302 d.brick [w32 d.slot, w32 (pc % 8192), w32 d.block] with
      kernel := { s.kernel with cuts := (1, d.brick, d.block) :: s.kernel.cuts.take 127 } }
  s.callEnd false

/-- KERNEL_BUDGET_EXPIRY (R253). -/
def execKernelBudgetExpiry (src pc : Nat) (s : State) : Host.Outcome State Fault Refusal :=
  .next (if s.dp.active ∧ s.dp.src = src then s.callCut pc else s)

/-- ILLEGAL_WORD (R241). -/
def execIllegalWord (src pc : Nat) (s : State) : Host.Outcome State Fault Refusal :=
  .next (if s.dp.active ∧ s.dp.src = src then s.callIllegal pc else s)

end Sys2Proof.Machine
end

