-- ==== Sys2Proof/Machine/Kernel.lean ====
section
/-! DEFINITION. The kernel datapath (R228–R244): number formats, addressing, moves, and one meaning per operation of R235. An
instruction acts in the call in progress; between calls there is nothing for it to act on. -/

namespace Sys2Proof.Machine

/-! Flags (R231). -/
namespace Kf
def sat : Nat := 0
def clamp : Nat := 1
def head : Nat := 2
def winf : Nat := 3
def reach : Nat := 4
def rptc : Nat := 5
end Kf

/-- Set a flag bit. -/
def Datapath.flag (d : Datapath) (i : Nat) (on : Bool := true) : Datapath :=
  if on then { d with flags := d.flags ||| w32 (2 ^ i) } else d

/-! Registers (R228, R229). -/

def Datapath.oReg (d : Datapath) (i : Nat) : Sample := d.o.getD i 0
def Datapath.cReg (d : Datapath) (i : Nat) : Int := (d.oReg i).toInt
def Datapath.sig (d : Datapath) (i : Nat) : Int := (d.oReg (4 + i)).toInt
def Datapath.wReg (d : Datapath) (i : Nat) : Int := (d.w.getD i 0).toInt
def Datapath.setO (d : Datapath) (i : Nat) (v : Sample) : Datapath := { d with o := d.o.set i v }

/-- CFG (R231). -/
def Datapath.satw (d : Datapath) : Bool := bit d.cfg 9
def Datapath.chop (d : Datapath) : Bool := bit d.cfg 8

/-- Put an exact result in a wide register (R236, R237): outside 56 bits it saturates, setting SAT, or wraps; HEAD shows a result
outside −1.0 to 1 − 2^−46. -/
def Datapath.setW (d : Datapath) (i : Nat) (x : Int) : Datapath :=
  let out : Bool := x < -(2 ^ 55) ∨ 2 ^ 55 ≤ x
  let v : Wide := BitVec.ofInt 56 (if d.satw then clampI (-(2 ^ 55)) (2 ^ 55 - 1) x else x)
  let d := { d with w := d.w.set i v }
  (d.flag Kf.sat (out ∧ d.satw)).flag Kf.head (v.toInt < -(2 ^ 46) ∨ 2 ^ 46 ≤ v.toInt)

/-- Round a wide value below its sample field (R237): convergently, or by discarding. -/
def Datapath.roundW (d : Datapath) (x : Int) : Int := if d.chop then x / 2 ^ 23 else roundEven 23 x

/-- The sample that a store or WST of a wide register writes, and whether it was clamped (R237). -/
def Datapath.sampleOf (d : Datapath) (i : Nat) : Sample × Bool :=
  let r := d.roundW (d.wReg i)
  (BitVec.ofInt 24 (sat24 r), r ≠ sat24 r)

/-- Address registers by code (R228): pointers whole, the others 18 bits. -/
def Datapath.aReg (d : Datapath) (c : Nat) : Nat :=
  if c < 8 then (d.pt.getD c 0).toNat
  else if c < 16 then (d.st.getD (c - 8) 0).toNat
  else if c < 24 then (d.wlo.getD (c - 16) 0).toNat
  else (d.whi.getD (c - 24) 0).toNat
def Datapath.setA (d : Datapath) (c v : Nat) : Datapath :=
  if c < 8 then { d with pt := d.pt.set c (BitVec.ofNat 24 v) }
  else if c < 16 then { d with st := d.st.set (c - 8) (BitVec.ofNat 18 v) }
  else if c < 24 then { d with wlo := d.wlo.set (c - 16) (BitVec.ofNat 18 v) }
  else { d with whi := d.whi.set (c - 24) (BitVec.ofNat 18 v) }

/-- Fields of a pointer (R228). -/
def ptAddr (p : BitVec 24) : Nat := p.toNat % 2 ^ 18
def ptWin (p : BitVec 24) : Nat := p.toNat / 2 ^ 18 % 8
def ptWen (p : BitVec 24) : Bool := p.getLsbD 21
def ptRev (p : BitVec 24) : Bool := p.getLsbD 22
def ptSet (p : BitVec 24) (a : Nat) : BitVec 24 := BitVec.ofNat 24 (p.toNat / 2 ^ 18 * 2 ^ 18 + a % 2 ^ 18)

/-! Addressing (R242, R243). -/

/-- The update of an address by a step in a window, and whether it sets WINF (R242). -/
def updLinear (p : Nat) (step : Int) (wen : Bool) (lo hi : Nat) : Nat × Bool :=
  let lin := (((p : Int) + step) % 2 ^ 18).toNat
  if ¬ wen then (lin, false)
  else if hi ≤ lo ∨ p < lo ∨ hi ≤ p then (lin, true)
  else (lo + ((((p : Int) - lo) + step) % ((hi : Int) - lo)).toNat, false)

/-- The low k bits of a number in reverse order. -/
def bitRev (k x : Nat) : Nat := ((List.range k).map fun i => (x / 2 ^ i % 2) * 2 ^ (k - 1 - i)).sum

/-- The k for which a length is 2^k, from 2 to 2^17. -/
def log2Len (n : Nat) : Option Nat := ((List.range 18).drop 1).find? fun k => 2 ^ k = n

/-- The update by STn of a pointer with REV = 1 (R243). -/
def updRev (p st : Nat) (wen : Bool) (lo hi : Nat) : Nat × Bool :=
  match log2Len (hi - lo) with
  | none => ((updLinear p (signed 18 st) wen lo hi).1, true)
  | some k =>
    if ¬ wen ∨ lo % 2 ^ k ≠ 0 then ((updLinear p (signed 18 st) wen lo hi).1, true)
    else
      let off := (p + 2 ^ 18 - lo) % 2 ^ 18
      let low := bitRev k ((bitRev k (off % 2 ^ k) + bitRev k (st % 2 ^ k)) % 2 ^ k)
      ((lo + off / 2 ^ k * 2 ^ k + low) % 2 ^ 18, false)

/-! Moves (R230, R233, R234, R244). -/

/-- The word that a store of a register code writes, and whether it clamped. -/
def Datapath.moveOut (d : Datapath) (reg : Nat) : W32 × Bool :=
  if reg < 8 then (w32 ((d.oReg reg).toNat * 256), false)
  else if reg < 12 then
    let x := d.sampleOf (reg - 8)
    (w32 (x.1.toNat * 256), x.2)
  else (w32 ((d.w.getD (reg - 12) 0).toNat % 2 ^ 32), false)

/-- A load into a register code. -/
def Datapath.moveIn (d : Datapath) (reg : Nat) (v : W32) : Datapath :=
  if reg < 8 then d.setO reg (v.extractLsb' 8 24)
  else if reg < 12 then { d with w := d.w.set (reg - 8) (BitVec.ofInt 56 ((v.extractLsb' 8 24).toInt * 2 ^ 23)) }
  else { d with w := d.w.set (reg - 12) (v.setWidth 56) }

/-- The address that a move's pointer update leaves, with the registers as moves see them (R244), and WINF. -/
def Datapath.moveAddr (d : Datapath) (m : Move) : Nat × Bool :=
  let p := d.ptM.getD m.ptr 0
  let lo := (d.wloM.getD (ptWin p) 0).toNat
  let hi := (d.whiM.getD (ptWin p) 0).toNat
  let st := (d.stM.getD m.ptr 0).toNat
  match m.upd.val with
  | 1 => updLinear (ptAddr p) 1 (ptWen p) lo hi
  | 2 => updLinear (ptAddr p) (-1) (ptWen p) lo hi
  | 3 => if ptRev p then updRev (ptAddr p) st (ptWen p) lo hi else updLinear (ptAddr p) (signed 18 st) (ptWen p) lo hi
  | _ => (ptAddr p, false)

/-- A store of the call (R163, R227): outside its reach it is dropped; to a checkpoint word it is dropped and reported. -/
def State.kstore (s : State) (d : Datapath) (first : Bool) (a : Nat) (v : W32) : State :=
  let p := s.callPhys
  if first ∧ isCkpt a then
    (s.set (F.BRICK_KSTAT_CKPT_WRITE p)).post 0x1304 d.brick [w32 d.slot, w32 (d.pc % 8192), w32 a]
  else if s.mayLoad d first a ∧ ¬ (0x20000 ≤ a ∧ a < 0x24000) then s.setKmem d.brick a v
  else { s with dp := s.dp.flag Kf.reach }

/-- One move of an instruction: `before` holds the registers before the instruction, the state's datapath those with the
operation's results and, for M2, M1's. The load lands, the store writes the old value, and the pointer moves on (DEDUCED, notes/assumptions/128.md). -/
def State.kmove (s : State) (before : Datapath) (first : Bool) (m : Move) (loaded : W32) : State :=
  let a := ptAddr (before.ptM.getD m.ptr 0)
  let ok := s.mayLoad before first a
  let s := match m.op with
    | .none => s
    | .load => { s with dp := (s.dp.moveIn m.reg (if ok then loaded else 0)).flag Kf.reach (¬ ok) }
    | .store =>
      let x := before.moveOut m.reg
      let s := s.kstore before first a x.1
      { s with dp := s.dp.flag Kf.clamp x.2 }
  if m.upd = 0 then s
  else
    let u := before.moveAddr m
    let d := s.dp.flag Kf.winf u.2
    { s with dp := { d with pt := d.pt.set m.ptr (ptSet (d.pt.getD m.ptr 0) u.1) } }

/-- The pointers that the next instruction's moves see: those before this instruction, with its moves' updates (R244). -/
def Datapath.nextPtM (d : Datapath) (m : Move) (l : List (BitVec 24)) : List (BitVec 24) :=
  if m.upd = 0 then l else l.set m.ptr (ptSet (l.getD m.ptr 0) (d.moveAddr m).1)

/-- One execution of an instruction (R234): every source is read first; then the operation, M1 and M2 land in that order. -/
def State.kstep (s : State) (m1 m2 : Move) (f : Datapath → Datapath) : State :=
  let d := s.dp
  let v1 := s.kload d (ptAddr (d.ptM.getD m1.ptr 0))
  let v2 := s.kload d (ptAddr (d.ptM.getD m2.ptr 0))
  let s := { s with dp := f { d with pc := (d.pc + 1) % 8192 } }
  let s := (s.kmove d true m1 v1).kmove d false m2 v2
  { s with dp := { s.dp with ptM := d.nextPtM m2 (d.nextPtM m1 d.pt), stM := d.st, wloM := d.wlo, whiM := d.whi } }

/-- The budget of a call (R252) (DEDUCED, notes/assumptions/130.md). -/
def State.callBudget (s : State) : Nat := Config.callBudget s.rate

/-- An instruction of the call in progress (R235, R238, R252): as often as a repeat asks, within the budget. `cost` is what an
execution outside a repeat counts. At the budget the call is cut, and nothing more executes (DEDUCED, notes/assumptions/129.md). -/
def State.kinstr (s : State) (m1 m2 : Move) (cost : Nat) (f : Datapath → Datapath) : State :=
  let d := s.dp
  if ¬ d.active ∨ s.callBudget ≤ d.cycles then s
  else
    match d.rep with
    | none =>
      let s := s.kstep m1 m2 f
      { s with dp := { s.dp with cycles := d.cycles + cost } }
    | some n =>
      let k := min n (s.callBudget - d.cycles)
      let s := iter (fun s => ({ s with dp := { s.dp with pc := d.pc } } : State).kstep m1 m2 f) k s
      { s with dp := { s.dp with pc := (d.pc + 1) % 8192, rep := none, cycles := d.cycles + k } }

/-- No move: a field of zeros. -/
def noMove : Move := ⟨0, .none, 0, 0⟩

/-- A datapath operation with both moves, one cycle. -/
def kop (m1 m2 : Move) (f : Datapath → Datapath) (s : State) : Host.Outcome State Fault Refusal := .next (s.kinstr m1 m2 1 f)

/-! Multiplies (R235, R236). -/

/-- A product with its sign. -/
def signedMul (neg : Bool) (a b : Int) : Int := if neg then -(a * b) else a * b

/-- NOP. -/
def execNop (m1 m2 : Move) (s : State) : Host.Outcome State Fault Refusal := kop m1 m2 id s
/-- MUL: WD := ±(CI × SI). -/
def execMul (wd ci si : Fin 4) (neg : Bool) (m1 m2 : Move) (s : State) : Host.Outcome State Fault Refusal :=
  kop m1 m2 (fun d => d.setW wd (signedMul neg (d.cReg ci) (d.sig si))) s
/-- MAD: WD := WD ± CI × SI. -/
def execMad (wd ci si : Fin 4) (neg : Bool) (m1 m2 : Move) (s : State) : Host.Outcome State Fault Refusal :=
  kop m1 m2 (fun d => d.setW wd (d.wReg wd + signedMul neg (d.cReg ci) (d.sig si))) s
/-- The same operation in all four lanes. -/
def lanes (d : Datapath) (f : Nat → Int) : Datapath := forLanes [0, 1, 2, 3] d
where forLanes : List Nat → Datapath → Datapath
  | [], x => x
  | i :: l, x => forLanes l (x.setW i (f i))
/-- MUL4: Wi := ±(Ci × Si). -/
def execMul4 (neg : Bool) (m1 m2 : Move) (s : State) : Host.Outcome State Fault Refusal :=
  kop m1 m2 (fun d => lanes d fun i => signedMul neg (d.cReg i) (d.sig i)) s
/-- MAD4: Wi := Wi ± Ci × Si. -/
def execMad4 (neg : Bool) (m1 m2 : Move) (s : State) : Host.Outcome State Fault Refusal :=
  kop m1 m2 (fun d => lanes d fun i => d.wReg i + signedMul neg (d.cReg i) (d.sig i)) s
/-- The delay chain of FIR4: S3 := S2, S2 := S1, S1 := S0. -/
def Datapath.shiftS (d : Datapath) : Datapath := ((d.setO 7 (d.oReg 6)).setO 6 (d.oReg 5)).setO 5 (d.oReg 4)
/-- FIR4: Wi := Wi ± C0 × Si; then the chain shifts. -/
def execFir4 (neg : Bool) (m1 m2 : Move) (s : State) : Host.Outcome State Fault Refusal :=
  kop m1 m2 (fun d => (lanes d fun i => d.wReg i + signedMul neg (d.cReg 0) (d.sig i)).shiftS) s
/-- ZERO4: W0–W3 := 0. -/
def execZero4 (m1 m2 : Move) (s : State) : Host.Outcome State Fault Refusal := kop m1 m2 (fun d => lanes d fun _ => 0) s

/-! Wide arithmetic. -/

/-- ADDW: WD := WD + WS. -/
def execAddw (wd ws : Fin 4) (_os : Fin 8) (m1 m2 : Move) (s : State) : Host.Outcome State Fault Refusal :=
  kop m1 m2 (fun d => d.setW wd (d.wReg wd + d.wReg ws)) s
/-- SUBW: WD := WD − WS. -/
def execSubw (wd ws : Fin 4) (_os : Fin 8) (m1 m2 : Move) (s : State) : Host.Outcome State Fault Refusal :=
  kop m1 m2 (fun d => d.setW wd (d.wReg wd - d.wReg ws)) s
/-- NEGW: WD := −WD. -/
def execNegw (wd _ws : Fin 4) (_os : Fin 8) (m1 m2 : Move) (s : State) : Host.Outcome State Fault Refusal :=
  kop m1 m2 (fun d => d.setW wd (-(d.wReg wd))) s
/-- ABSW: WD := |WD|. -/
def execAbsw (wd _ws : Fin 4) (_os : Fin 8) (m1 m2 : Move) (s : State) : Host.Outcome State Fault Refusal :=
  kop m1 m2 (fun d => d.setW wd (d.wReg wd).natAbs) s
/-- ZERO: WD := 0. -/
def execZeroW (wd _ws : Fin 4) (_os : Fin 8) (m1 m2 : Move) (s : State) : Host.Outcome State Fault Refusal :=
  kop m1 m2 (fun d => d.setW wd 0) s
/-- WLD: WD := OS as a sample. -/
def execWld (wd _ws : Fin 4) (os : Fin 8) (m1 m2 : Move) (s : State) : Host.Outcome State Fault Refusal :=
  kop m1 m2 (fun d => d.setW wd ((d.oReg os).toInt * 2 ^ 23)) s
/-- WST: OS := WD rounded and clamped. -/
def execWst (wd _ws : Fin 4) (os : Fin 8) (m1 m2 : Move) (s : State) : Host.Outcome State Fault Refusal :=
  kop m1 m2 (fun d => let x := d.sampleOf wd; (d.setO os x.1).flag Kf.clamp x.2) s
/-- RNDW: WD rounded below its sample field. -/
def execRndw (wd _ws : Fin 4) (_os : Fin 8) (m1 m2 : Move) (s : State) : Host.Outcome State Fault Refusal :=
  kop m1 m2 (fun d => d.setW wd (d.roundW (d.wReg wd) * 2 ^ 23)) s
/-- SHW: WD shifted arithmetically, positive left. -/
def execShw (wd : Fin 4) (imm : BitVec 13) (m1 m2 : Move) (s : State) : Host.Outcome State Fault Refusal :=
  kop m1 m2 (fun d =>
    let n := clampI (-56) 55 imm.toInt
    d.setW wd (if 0 ≤ n then d.wReg wd * 2 ^ n.toNat else d.wReg wd / 2 ^ (-n).toNat)) s
/-- ADDWI: WD := WD + IMM13 at bit 0. -/
def execAddwi (wd : Fin 4) (imm : BitVec 13) (m1 m2 : Move) (s : State) : Host.Outcome State Fault Refusal :=
  kop m1 m2 (fun d => d.setW wd (d.wReg wd + imm.toInt)) s

/-! Logic. -/

/-- AND: OD := OD and OS. -/
def execAndOp (od os : Fin 8) (_imm : BitVec 6) (m1 m2 : Move) (s : State) : Host.Outcome State Fault Refusal :=
  kop m1 m2 (fun d => d.setO od (d.oReg od &&& d.oReg os)) s
/-- OR: OD := OD or OS. -/
def execOrOp (od os : Fin 8) (_imm : BitVec 6) (m1 m2 : Move) (s : State) : Host.Outcome State Fault Refusal :=
  kop m1 m2 (fun d => d.setO od (d.oReg od ||| d.oReg os)) s
/-- XOR: OD := OD xor OS. -/
def execXorOp (od os : Fin 8) (_imm : BitVec 6) (m1 m2 : Move) (s : State) : Host.Outcome State Fault Refusal :=
  kop m1 m2 (fun d => d.setO od (d.oReg od ^^^ d.oReg os)) s
/-- LSH: OD shifted logically by IMM6, positive left. -/
def execLsh (od _os : Fin 8) (imm : BitVec 6) (m1 m2 : Move) (s : State) : Host.Outcome State Fault Refusal :=
  kop m1 m2 (fun d =>
    let n := imm.toInt
    d.setO od (if 0 ≤ n then d.oReg od <<< n.toNat else d.oReg od >>> (-n).toNat)) s

/-! Address registers and control words. -/

/-- AMOV: AD := AS; between a pointer and an 18-bit register ADDR alone moves. -/
def execAmov (ad as : Fin 32) (m1 m2 : Move) (s : State) : Host.Outcome State Fault Refusal :=
  kop m1 m2 (fun d =>
    let v := d.aReg as
    if ad.val < 8 ∧ 8 ≤ as.val then d.setA ad (ptSet (d.pt.getD ad 0) v).toNat else d.setA ad v) s
/-- PADD: PTn updated by IMM13 (R242). -/
def execPadd (pt : Fin 8) (imm : BitVec 13) (m1 m2 : Move) (s : State) : Host.Outcome State Fault Refusal :=
  kop m1 m2 (fun d =>
    let p := d.pt.getD pt 0
    let u := updLinear (ptAddr p) imm.toInt (ptWen p) (d.wlo.getD (ptWin p) 0).toNat (d.whi.getD (ptWin p) 0).toNat
    (d.setA pt (ptSet p u.1).toNat).flag Kf.winf u.2) s
/-- SETCFG: CFG[9:8] := IMM10[9:8]. -/
def execSetcfg (imm : BitVec 10) (m1 m2 : Move) (s : State) : Host.Outcome State Fault Refusal :=
  kop m1 m2 (fun d => { d with cfg := w32 (imm.toNat / 256 * 256) }) s
/-- RDFL: OD := FLAGS[5:0]. -/
def execRdfl (od _os : Fin 8) (_imm : BitVec 6) (m1 m2 : Move) (s : State) : Host.Outcome State Fault Refusal :=
  kop m1 m2 (fun d => d.setO od (BitVec.ofNat 24 (bits d.flags 0 6))) s
/-- CLRFL: FLAGS bits set in IMM10[5:0] := 0. -/
def execClrfl (imm : BitVec 10) (m1 m2 : Move) (s : State) : Host.Outcome State Fault Refusal :=
  kop m1 m2 (fun d => { d with flags := d.flags &&& ~~~ w32 (imm.toNat % 64) }) s

/-! Long immediates and control, which a repeat bars (R238, R241). -/

/-- An instruction that a repeat bars: inside one that repeats it, it is an illegal word; one that a repeat of 0 skips is
skipped. -/
def State.kalone (s : State) (m1 m2 : Move) (cost : Nat) (illegal : Bool) (f : Datapath → Datapath) : State :=
  let d := s.dp
  if ¬ d.active ∨ s.callBudget ≤ d.cycles then s
  else match d.rep with
    | some 0 => { s with dp := { d with pc := (d.pc + 1) % 8192, rep := none } }
    | some _ => s.callIllegal d.pc
    | none => if illegal then s.callIllegal d.pc else s.kinstr m1 m2 cost f

/-- LDO: OD := the immediate. -/
def execLdo (od : Fin 8) (imm : BitVec 24) (s : State) : Host.Outcome State Fault Refusal :=
  .next (s.kalone noMove noMove 1 false fun d => d.setO od imm)
/-- LDA: AD := the immediate, 24 bits for a pointer and 18 for another register. -/
def execLda (ad : Fin 32) (imm : BitVec 24) (s : State) : Host.Outcome State Fault Refusal :=
  .next (s.kalone noMove noMove 1 false fun d => d.setA ad imm.toNat)

/-- A target that no branch may name (R240). -/
def badTarget (t : BitVec 13) : Bool := 0x1E00 ≤ t.toNat

/-- Branch to a target. -/
def Datapath.go (d : Datapath) (t : BitVec 13) : Datapath := { d with pc := t.toNat }

/-- JMP. -/
def execJmp (target : BitVec 13) (m1 m2 : Move) (s : State) : Host.Outcome State Fault Refusal :=
  .next (s.kalone m1 m2 2 (badTarget target) fun d => d.go target)

/-- A conditional branch on a wide register: 2 cycles taken, 1 not. -/
def State.kbranch (s : State) (wn : Nat) (test : Int → Bool) (t : BitVec 13) (m1 m2 : Move) : State :=
  let taken := test (s.dp.wReg wn)
  s.kalone m1 m2 (if taken then 2 else 1) (badTarget t) fun d => if taken then d.go t else d

/-- JEQ. -/
def execJeq (wn : Fin 4) (target : BitVec 13) (m1 m2 : Move) (s : State) : Host.Outcome State Fault Refusal :=
  .next (s.kbranch wn (fun x => x = 0) target m1 m2)
/-- JNE. -/
def execJne (wn : Fin 4) (target : BitVec 13) (m1 m2 : Move) (s : State) : Host.Outcome State Fault Refusal :=
  .next (s.kbranch wn (fun x => x ≠ 0) target m1 m2)
/-- JLT. -/
def execJlt (wn : Fin 4) (target : BitVec 13) (m1 m2 : Move) (s : State) : Host.Outcome State Fault Refusal :=
  .next (s.kbranch wn (fun x => x < 0) target m1 m2)
/-- JGE. -/
def execJge (wn : Fin 4) (target : BitVec 13) (m1 m2 : Move) (s : State) : Host.Outcome State Fault Refusal :=
  .next (s.kbranch wn (fun x => 0 ≤ x) target m1 m2)
/-- JLE. -/
def execJle (wn : Fin 4) (target : BitVec 13) (m1 m2 : Move) (s : State) : Host.Outcome State Fault Refusal :=
  .next (s.kbranch wn (fun x => x ≤ 0) target m1 m2)
/-- JGT. -/
def execJgt (wn : Fin 4) (target : BitVec 13) (m1 m2 : Move) (s : State) : Host.Outcome State Fault Refusal :=
  .next (s.kbranch wn (fun x => 0 < x) target m1 m2)

/-- CNTB (R239): the ADDR of PTn goes down by 1, linearly; it branches unless the result is 0. -/
def execCntb (pt : Fin 8) (target : BitVec 13) (m1 m2 : Move) (s : State) : Host.Outcome State Fault Refusal :=
  .next (
    let p := s.dp.pt.getD pt 0
    let a := (ptAddr p + 2 ^ 18 - 1) % 2 ^ 18
    let taken : Bool := a ≠ 0
    s.kalone m1 m2 (if taken then 2 else 1) (badTarget target) fun d =>
      let d := d.setA pt (ptSet p a).toNat
      if taken then d.go target else d)

/-- RPN (R238): COUNT 0 encodes 4,096. -/
def execRpn (count : BitVec 12) (m1 m2 : Move) (s : State) : Host.Outcome State Fault Refusal :=
  .next (s.kalone m1 m2 1 false fun d => { d with rep := some (if count = 0 then 4096 else count.toNat) })
/-- RPNI (R238): by the ADDR of PTn, at most 4,096. -/
def execRpni (pt : Fin 8) (m1 m2 : Move) (s : State) : Host.Outcome State Fault Refusal :=
  .next (s.kalone m1 m2 1 false fun d =>
    let n := ptAddr (d.pt.getD pt 0)
    { d with rep := some (min n 4096) }.flag Kf.rptc (4096 < n))

/-- JSR: the return stack is 4 deep (R241). -/
def execJsr (target : BitVec 13) (m1 m2 : Move) (s : State) : Host.Outcome State Fault Refusal :=
  .next (s.kalone m1 m2 2 (badTarget target || decide (4 ≤ s.dp.stack.length)) fun d =>
    { d with stack := d.pc :: d.stack }.go target)
/-- RET. -/
def execRet (m1 m2 : Move) (s : State) : Host.Outcome State Fault Refusal :=
  .next (s.kalone m1 m2 2 (s.dp.stack = []) fun d => { d with pc := d.stack.headD 0, stack := d.stack.drop 1 })

/-- DONE: the call ends after its moves (R235, R245), unless the count passed the budget before it. -/
def execDoneOp (m1 m2 : Move) (s : State) : Host.Outcome State Fault Refusal :=
  .next (
    let d := s.dp
    if ¬ d.active ∨ s.callBudget ≤ d.cycles then s
    else match d.rep with
      | some 0 => { s with dp := { d with pc := (d.pc + 1) % 8192, rep := none } }
      | some _ => s.callIllegal d.pc
      | none => (s.kinstr m1 m2 1 id).callEnd true)

end Sys2Proof.Machine
end

