-- ==== Sys2Proof/Machine/KernelMgmt.lean ====
section
/-! DEFINITION. Customer kernels in the field (R255–R259) and the KERNEL commands (R316): staging, checks, loading bricks. -/

namespace Sys2Proof.Machine

def State.setKernel (s : State) (k : KernelSt) : State := { s with kernel := k }

/-! Staging. -/

/-- KERNEL.STAGE: a new staging takes the place of the staged image (DEDUCED, notes/assumptions/68.md). -/
def cmdKernelStage : Cmd where
  opcode := 0x1301
  kind := .bulk
  arg := fun k _ => firstBad [lenIs k 2, fld 0 0 (64 ≤ k.n 0 ∧ k.n 0 ≤ 127104), resv k 1 0x1]
  refuse := fun k s =>
    if s.kernel.staging.isSome ∨ (¬ k.bit 1 0 ∧ s.banks.vc1 ≠ 0) then some St.state else none
  act := fun k _ s =>
    let s := s.setKernel { s.kernel with staging := some (Load.opened (k.n 0) false (k.bit 1 0)), staged := none, result := 0xFF }
    ans (if k.bit 1 0 then s else { s with banks := { s.banks with vc1 := 2 } })
def execKernelStage (k : Kcp) (s : State) : Host.Outcome State Fault Refusal := .next (kcpExec cmdKernelStage k s)

/-- KERNEL.WRITE. -/
def cmdKernelWrite : Cmd where
  opcode := 0x1302
  arg := fun k s => firstBad [(3 ≤ k.words, hdrOff), fld 0 0 (1 ≤ k.f 0 0 10 ∧ k.f 0 0 10 ≤ 1016), resv k 0 0x3FF,
    lenIs k (2 + wordsFor (k.f 0 0 10)),
    fld 1 0 (match s.kernel.staging with
      | some l => ¬ l.mailbox ∨ k.n 1 + k.f 0 0 10 ≤ l.len
      | none => true)]
  refuse := fun _ s => match s.kernel.staging with
    | some l => if l.mailbox ∧ ¬ l.complete then none else some St.state
    | none => some St.state
  act := fun k _ s => match s.kernel.staging with
    | some l => ans (s.setKernel { s.kernel with staging := some (l.write (k.n 1) (k.bytes 2 (k.f 0 0 10))) })
    | none => ans s
def execKernelWrite (k : Kcp) (s : State) : Host.Outcome State Fault Refusal := .next (kcpExec cmdKernelWrite k s)

/-- Every offset, length and reserved field of a kernel image is as R255 gives it; the image's own length is within the limits of
KERNEL.STAGE. -/
def kimageLayoutOk (b : Bytes) : Bool :=
  let len := hw b 0x08
  let code := hw b 0x0C
  let codeLen := hw b 0x10
  let tab := hw b 0x18
  let tabLen := hw b 0x1C
  decide (64 ≤ len ∧ len ≤ 127104) && decide (2 ≤ (b.get 6).toNat) && decide (b.get 7 = 0) && decide (code % 8 = 0) &&
  decide (1 ≤ codeLen ∧ codeLen ≤ 7680) && decide (bits (byteWord b 0x14) 0 16 < codeLen) &&
  decide (bits (byteWord b 0x14) 16 16 = 0) && decide (tab % 4 = 0) && decide (tabLen ≤ 16384) &&
  decide (code + 8 * codeLen + 64 ≤ len) && decide (tab + 4 * tabLen + 64 ≤ len) && decide (bits (byteWord b 0x20) 17 15 = 0) &&
  (List.range 6).all fun i => byteWord b (0x28 + 4 * i) = 0

/-- The checks of R256 on a staging that is complete, in their order. -/
def State.kernelCheck (s : State) (l : Load) : Nat :=
  if byteWord l.bytes 0 ≠ 0x4B5A4D4C ∨ l.bytes.get 5 ≠ 0x01 then 0x01
  else if ¬ kimageLayoutOk l.bytes then 0x02
  else if l.badLength ∨ hw l.bytes 0x08 ≠ l.len then 0x03
  else if s.keyInForce.any fun key => signedBy key (bytesAt l.bytes 0 l.len) then 0x00 else 0x04

/-- KERNEL_IMAGE_COMPLETE (R256): the last byte has arrived. -/
def execKernelImageComplete (s : State) : Host.Outcome State Fault Refusal :=
  .next (match s.kernel.staging with
    | none => s
    | some l =>
      if ¬ l.complete ∨ ¬ s.running then s
      else
        let r := s.kernelCheck l
        let s := s.setKernel { s.kernel with staging := none, staged := some ⟨l.bytes, l.len⟩, result := r }
        let s := if l.mailbox then s else { s with banks := { s.banks with vc1 := 0 } }
        s.post 0x1301 0xFFFF [w32 r])

/-! Loading (R257, R258). -/

/-- The bricks of a mask, and whether it names one that the variant does not have (R6). -/
def kmaskBricks (k : Kcp) : List Nat := maskBits (k.n64 0) 64
def kmaskBad (k : Kcp) (s : State) : Bool × Nat :=
  match (maskBits (k.n64 0) 64).find? fun b => s.variant.bricks ≤ b with
  | some b => (false, b / 32 * 4 + b % 32 / 8)
  | none => (true, 0)

/-- A logical brick runs the standard kernel when every load that pends has been done. -/
def State.stdAfter (s : State) (b : Nat) : Bool :=
  match s.kernel.pend.find? fun p => p.left.contains b with
  | some p => p.image.isNone
  | none => (s.kimage b).isNone

/-- Logical bricks that keep the standard kernel under R258. -/
def Variant.stdFloor : Variant → Nat
  | .lmz8192 => 8 | .lmz4096 => 4 | .lmz2048e => 2

/-- After the load, fewer bricks than the floor run the standard kernel. -/
def State.underFloor (s : State) (bricks : List Nat) : Bool :=
  ((List.range s.variant.bricks).filter fun b => ¬ bricks.contains b ∧ s.stdAfter b).length < s.variant.stdFloor

/-- A load that pends names one of the bricks. -/
def State.kernelPends (s : State) (bricks : List Nat) : Bool :=
  s.kernel.pend.any fun p => p.bricks.any fun b => bricks.contains b

/-- Close logical bricks to placement, or open them. -/
def State.closeBricks (s : State) (bricks : List Nat) (closed : Bool) : State :=
  forEach bricks s fun b s => match s.physOf b with
    | some p => s.set (F.BRICK_MAP_CLOSED p) closed
    | none => s

/-- Accept a load of an image, or of the standard kernel, for its block. -/
def State.kernelPend (s : State) (bricks : List Nat) (image : Option KImage) (block : Nat) : State :=
  let s := s.closeBricks bricks true
  s.setKernel { s.kernel with pend := s.kernel.pend ++ [⟨bricks, bricks, [], image, block⟩] }

/-- A load without a brick is complete when it is accepted (DEDUCED, notes/assumptions/68.md). -/
def State.kernelEmpty (s : State) (bricks : List Nat) : State :=
  if bricks = [] then
    (s.setKernel { s.kernel with pend := s.kernel.pend.filter fun p => p.left ≠ [] }).post 0x1301 0xFFFF [0]
  else s

/-- KERNEL.LOAD. -/
def cmdKernelLoad : Cmd where
  opcode := 0x1303
  kind := .bulk
  at_ := .routing
  denied := fun k s => s.safe.keys = [] ∨ s.underFloor (kmaskBricks k)
  arg := fun k s => firstBad [lenIs k 2, kmaskBad k s]
  refuse := fun k s =>
    if s.kernel.staged.isNone ∨ s.kernel.result ≠ 0 ∨ s.kernelPends (kmaskBricks k) then some St.state else none
  act := fun k mt s => ans (s.kernelPend (kmaskBricks k) s.kernel.staged (s.blockOf mt))
  after := fun k s => s.kernelEmpty (kmaskBricks k)
def execKernelLoad (k : Kcp) (s : State) : Host.Outcome State Fault Refusal := .next (kcpExec cmdKernelLoad k s)

/-- KERNEL.RESTORE_STD: no load can take it below the floor of R258. -/
def cmdKernelRestoreStd : Cmd where
  opcode := 0x1304
  kind := .bulk
  at_ := .routing
  arg := fun k s => firstBad [lenIs k 2, kmaskBad k s]
  refuse := fun k s => if s.kernelPends (kmaskBricks k) then some St.state else none
  act := fun k mt s => ans (s.kernelPend (kmaskBricks k) none (s.blockOf mt))
  after := fun k s => s.kernelEmpty (kmaskBricks k)
def execKernelRestoreStd (k : Kcp) (s : State) : Host.Outcome State Fault Refusal := .next (kcpExec cmdKernelRestoreStd k s)

/-- A pending load may start on a brick: its block has come and no voice is active there (R257). -/
def State.brickReady (s : State) (p : KPend) (b : Nat) : Bool := p.block ≤ s.commit ∧ s.voicesOn b = 0

/-- At a block tick, the bricks that take a new kernel begin to load (R257) (DEDUCED, notes/assumptions/133.md). -/
def State.kernelTick (s : State) : State :=
  s.setKernel { s.kernel with
    pend := s.kernel.pend.map fun (p : KPend) => { p with loading := p.left.filter fun b => s.brickReady p b } }

/-- A brick takes the kernel of a load: its register, and its memory's tables. -/
def State.brickKernel (s : State) (b : Nat) (image : Option KImage) : State :=
  let s := s.setKernel { s.kernel with images := match image with
    | some i => kput s.kernel.images b i
    | none => kdel s.kernel.images b }
  match s.physOf b with
  | none => s
  | some p =>
    let s := s.set (F.BRICK_MAP_CLOSED p) false
    match image with
    | none => s.wr (R.BRICK_KERNEL p) (regReset s.variant (R.BRICK_KERNEL 0))
    | some i => ((s.set (F.BRICK_KERNEL_STD p) false).put (F.BRICK_KERNEL_PRESET_VER p) (i.bytes.get 6).toNat).put
        (F.BRICK_KERNEL_KID p) (bits (i.word 0x24) 0 16)

/-- KERNEL_BRICK_LOAD (R257): a brick that may take its pending kernel has loaded it; after the last one, KERNEL_DONE. -/
def execKernelBrickLoad (brick : Nat) (s : State) : Host.Outcome State Fault Refusal :=
  .next (match s.kernel.pend.find? fun p => p.left.contains brick with
    | none => s
    | some p =>
      if ¬ s.brickReady p brick ∨ ¬ s.running then s
      else
        let p' : KPend := { p with left := p.left.filter (fun b => b ≠ brick), loading := p.loading.filter fun b => b ≠ brick }
        let s := s.setKernel { s.kernel with
          pend := (s.kernel.pend.map fun x => if x.left.contains brick then p' else x).filter fun x => x.left ≠ [] }
        let s := s.brickKernel brick p.image
        if p'.left = [] then s.post 0x1301 0xFFFF [0] else s)

/-- KERNEL.CANCEL: every pending load is withdrawn, its bricks that have not loaded reopen, and it ends ABORTED (DEDUCED, notes/assumptions/132.md). -/
def cmdKernelCancel : Cmd where
  opcode := 0x1305
  arg := fun k _ => firstBad [lenIs k 0]
  refuse := fun _ s => if s.kernel.pend = [] then some St.state else none
  after := fun _ s =>
    let l := s.kernel.pend
    let s := forEach l s fun p s => s.closeBricks p.left false
    let s := s.setKernel { s.kernel with pend := [] }
    forEach l s fun _ s => s.post 0x1301 0xFFFF [5]
def execKernelCancel (k : Kcp) (s : State) : Host.Outcome State Fault Refusal := .next (kcpExec cmdKernelCancel k s)

/-- The word of KERNEL.GET_INFO for a logical brick. -/
def State.kernelInfo (s : State) (b : Nat) : W32 :=
  match s.physOf b with
  | none => 0
  | some p =>
    let st := if s.kernel.pend.any fun x => x.loading.contains b then 2
      else if s.flag (F.BRICK_MAP_CLOSED p) then 1 else 0
    w32 (s.get (F.BRICK_KERNEL_KID p) * 65536 + s.get (F.BRICK_KERNEL_PRESET_VER p) * 256 + st)

/-- KERNEL.GET_INFO (R316). -/
def cmdKernelGetInfo : Cmd where
  opcode := 0x1306
  fault := true
  reads := true
  arg := fun k _ => firstBad [lenIs k 0]
  act := fun _ _ s =>
    let head := match s.kernel.staged with
      | some i => (List.range 16).map fun n => i.word (4 * n)
      | none => List.replicate 16 0
    ans s ((List.range 64).map s.kernelInfo ++ head ++ [w32 s.kernel.result])
def execKernelGetInfo (k : Kcp) (s : State) : Host.Outcome State Fault Refusal := .next (kcpExec cmdKernelGetInfo k s)

end Sys2Proof.Machine
end

