-- ==== Sys2Proof/Machine/Bank.lean ====
section
/-! DEFINITION. Banks and bank memory (R122–R130, R424, R441, R539) and the BANK commands (R310). -/

namespace Sys2Proof.Machine

/-- The state code of R122. -/
def BankState.code : BankState → Nat
  | .empty => 0 | .loading => 1 | .verifying => 2 | .resident => 3 | .replacing => 4 | .vault => 5 | .vaultBad => 6
  | .unloading => 7

/-! Memory (R124). -/

def mib (n : Nat) : Nat := (n + 1048575) / 1048576

/-- MiB that a bank holds: its image, images still bound, and what arrives. -/
def Bank.held (b : Bank) : Nat :=
  (b.image.map fun i => mib i.len).getD 0 + (b.old.map fun i => mib i.len).sum + (b.load.map fun l => mib l.len).getD 0 +
    (b.ready.map fun r => mib r.1.len).getD 0

/-- MiB that banks may hold, and MiB that they hold. -/
def State.bankSpace (s : State) : Nat := s.get F.MEMIF_BANK_SIZE_USABLE_MIB - s.get F.MEMIF_BANK_SIZE_DELAY_MIB
def State.bankHeld (s : State) : Nat := ((s.banks.banks.filter fun b => b.n ≠ 255).map Bank.held).sum

/-! Loads (R123, R126). -/

/-- BANK_DONE (R318) (DEDUCED, notes/assumptions/134.md). -/
def State.bankDone (s : State) (n result detail : Nat) : State := s.post 0x0201 n [w32 result, w32 detail]

/-- A load over VC1 ends: the channel is free. -/
def State.freeVc1 (s : State) (l : Load) : State :=
  if l.mailbox then s else { s with banks := { s.banks with vc1 := 0 } }

/-- The last byte of a load has arrived: a new image is VERIFYING. -/
def State.loadArrived (s : State) (n : Nat) : State :=
  let b := s.bank n
  if (b.load.any Load.complete) ∧ b.state = .loading then s.setBank { b with state := .verifying } else s

/-- Abandon what a bank is loading. -/
def State.abandonLoad (s : State) (n : Nat) : State :=
  let b := s.bank n
  let s := match b.load with | some l => s.freeVc1 l | none => s
  let s := s.setBank { b with
    load := none, ready := none, state := if b.state = .replacing then .resident else .empty }
  s.bankDone n 0x09 0

/-- BANK.LOAD. -/
def cmdBankLoad : Cmd where
  opcode := 0x0201
  kind := .bulk
  denied := fun k _ => k.f 0 0 8 = 255
  arg := fun k _ => firstBad [lenIs k 2, resv k 0 0x7FF, fld 1 0 (256 ≤ k.n 1)]
  refuse := fun k s =>
    let st := (s.bank (k.f 0 0 8)).state
    if ¬ (st = .empty ∨ (k.bit 0 8 ∧ st = .resident)) ∨ ¬ s.banks.available ∨ (¬ k.bit 0 10 ∧ s.banks.vc1 ≠ 0) then some St.state
    else if s.bankSpace < s.bankHeld + mib (k.n 1) then some St.noResource
    else none
  act := fun k _ s =>
    let n := k.f 0 0 8
    let b := s.bank n
    let s := s.setBank { b with
      state := if b.state = .resident then .replacing else .loading, load := some (Load.opened (k.n 1) (k.bit 0 9) (k.bit 0 10)) }
    ans (if k.bit 0 10 then s else { s with banks := { s.banks with vc1 := 1, vc1Bank := n } })
def execBankLoad (k : Kcp) (s : State) : Host.Outcome State Fault Refusal := .next (kcpExec cmdBankLoad k s)

/-- BANK.WRITE. -/
def cmdBankWrite : Cmd where
  opcode := 0x0202
  denied := fun k _ => k.f 0 0 8 = 255
  arg := fun k s => firstBad [(3 ≤ k.words, hdrOff), fld 0 8 (1 ≤ k.f 0 8 10 ∧ k.f 0 8 10 ≤ 1016), resv k 0 0x3FFFF,
    lenIs k (2 + wordsFor (k.f 0 8 10)),
    fld 1 0 (match (s.bank (k.f 0 0 8)).load with
      | some l => ¬ l.mailbox ∨ k.n 1 + k.f 0 8 10 ≤ l.len
      | none => true)]
  refuse := fun k s => match (s.bank (k.f 0 0 8)).load with
    | some l => if l.mailbox ∧ ¬ l.complete then none else some St.state
    | none => some St.state
  act := fun k _ s =>
    let b := s.bank (k.f 0 0 8)
    match b.load with
    | some l =>
      let s := s.setBank { b with load := some (l.write (k.n 1) (k.bytes 2 (k.f 0 8 10))) }
      ans (s.loadArrived b.n)
    | none => ans s
def execBankWrite (k : Kcp) (s : State) : Host.Outcome State Fault Refusal := .next (kcpExec cmdBankWrite k s)

/-- BANK_IMAGE_COMPLETE (R123): all bytes have arrived. A good image is RESIDENT, or a replacement that takes over at the next
tick; a failure leaves a new load EMPTY and the old image of a replacement RESIDENT. -/
def execBankImageComplete (bank : Nat) (s : State) : Host.Outcome State Fault Refusal :=
  .next (
    let b := s.bank bank
    match b.load with
    | none => s
    | some l =>
      if ¬ l.complete ∨ ¬ s.running then s
      else
        let (res, at_) := if l.badLength then (0x08, 0) else checkImage l.bytes l.len
        let s := s.freeVc1 l
        let s :=
          if res = 0 then
            let i : Image := ⟨s.banks.nextGen, l.len, l.bytes, [], [], []⟩
            let s : State := { s with banks := { s.banks with nextGen := s.banks.nextGen + 1 } }
            if b.state = .replacing then s.setBank { b with load := none, ready := some (i, l.force) }
            else s.setBank { b with load := none, image := some i, state := .resident }
          else s.setBank { b with load := none, state := if b.state = .replacing then .resident else .empty }
        s.bankDone bank res at_)

/-- Stop the jobs of voices that bind a bank at the mix at C + 2 (R126, R128, R151). -/
def State.stopBound (s : State) (vs : List Voice) : State :=
  forEach ((vs.map Voice.record).dedup) s fun r s => match s.job? r with
    | some j => s.stopJob j s.soonest 0x07
    | none => s

/-- At a block tick, replacements take over (R126) and unloads complete (R127, R128); images that no voice binds any longer are
freed. -/
def State.banksTick (s : State) : State :=
  forEach s.banks.banks s fun b s =>
    let b := { b with old := b.old.filter fun i => (s.boundTo b.n i.gen) ≠ [] }
    let s := s.setBank b
    if b.emptyFrom.any fun e => e ≤ s.commit then s.setBank (Bank.init b.n)
    else match b.ready with
      | none => s
      | some (i, force) =>
        let gone := match b.image with | some o => if s.boundTo b.n o.gen = [] then [] else [o] | none => []
        let s := s.setBank { b with image := some i, old := gone ++ b.old, ready := none, state := .resident }
        let old := s.disp.voices.filter fun v => 3 ≤ v.cls ∧ b.image.any fun o => v.bound.contains (b.n, o.gen)
        if force then s.stopBound old else s

/-- BANK.UNLOAD (R123, R127, R128) (DEDUCED, notes/assumptions/136.md). -/
def cmdBankUnload : Cmd where
  opcode := 0x0203
  denied := fun k s =>
    let n := k.f 0 0 8
    n = 255 ∨ (k.bit 0 8 ∧ ((s.bank n).state = .resident ∨ (s.bank n).state = .replacing) ∧
      (s.boundVoices n).any fun v => v.cls ≤ 2)
  arg := fun k _ => firstBad [lenIs k 1, resv k 0 0x1FF]
  refuse := fun k s =>
    let n := k.f 0 0 8
    let st := (s.bank n).state
    if (st = .resident ∨ st = .replacing) ∧ ¬ k.bit 0 8 ∧ s.boundVoices n ≠ [] then some St.state else none
  act := fun k _ s =>
    let n := k.f 0 0 8
    match (s.bank n).state with
    | .loading | .verifying => ans (s.abandonLoad n)
    | .resident | .replacing =>
      let s := if (s.bank n).state = .replacing then s.abandonLoad n else s
      let vs := s.boundVoices n
      let e := if vs = [] then s.commit + 1 else s.commit + 3
      ans ((s.setBank { s.bank n with state := .unloading, emptyFrom := some e, checking := false }).stopBound vs)
    | _ => ans s
def execBankUnload (k : Kcp) (s : State) : Host.Outcome State Fault Refusal := .next (kcpExec cmdBankUnload k s)

/-- BANK.VERIFY (DEDUCED, notes/assumptions/135.md). -/
def cmdBankVerify : Cmd where
  opcode := 0x0204
  kind := .bulk
  denied := fun k _ => k.f 0 0 8 = 255
  arg := fun k _ => firstBad [lenIs k 1, resv k 0 0xFF]
  refuse := fun k s =>
    let st := (s.bank (k.f 0 0 8)).state
    if (st = .resident ∨ st = .replacing) ∧ s.banks.available then none else some St.state
  act := fun k _ s => ans (s.setBank { s.bank (k.f 0 0 8) with checking := true })
def execBankVerify (k : Kcp) (s : State) : Host.Outcome State Fault Refusal := .next (kcpExec cmdBankVerify k s)

/-- BANK_VERIFY_DONE (R123): every tile is marked BAD or good. -/
def execBankVerifyDone (bank : Nat) (s : State) : Host.Outcome State Fault Refusal :=
  .next (
    let b := s.bank bank
    match b.image with
    | none => s
    | some i =>
      if ¬ b.checking ∨ ¬ s.running then s
      else
        let bad := (List.range (nTiles i.bytes)).filter fun t => ¬ i.tileGood t
        let s := s.setBank { b with checking := false, image := some { i with bad := bad, unverified := [] } }
        let s := forEach bad s fun t s => s.tileBad bank t 4
        s.bankDone bank 0 bad.length)

/-- BANK.GET_INFO. -/
def cmdBankGetInfo : Cmd where
  opcode := 0x0205
  fault := true
  reads := true
  arg := fun k _ => firstBad [lenIs k 1, resv k 0 0xFF]
  act := fun k _ s =>
    let n := k.f 0 0 8
    let b := s.bank n
    let img : Option Bytes := if n = 255 then (if b.state = .vault then some s.vaultBytes else none) else b.image.map Image.bytes
    let head := match img with
      | some i => [w32 (bits (byteWord i 4) 0 16), w32 (nTiles i), w32 (nPresets i), w32 (nScripts i), byteWord i 0x24] ++
          (List.range 8).map fun x => byteWord i (0x40 + 4 * x)
      | none => List.replicate 13 0
    let old := (s.disp.voices.filter fun v => b.old.any fun i => v.bound.contains (n, i.gen)).length
    let cur := (b.image.map fun i => (s.boundTo n i.gen).length).getD 0
    ans s (w32 b.state.code :: head ++ [w32 old, w32 cur, w32 ((b.image.map fun i => i.bad.length).getD 0),
      w32 (if n = 255 then 0 else b.held)])
def execBankGetInfo (k : Kcp) (s : State) : Host.Outcome State Fault Refusal := .next (kcpExec cmdBankGetInfo k s)

/-- BANK.LIST. -/
def cmdBankList : Cmd where
  opcode := 0x0206
  fault := true
  reads := true
  arg := fun k _ => firstBad [lenIs k 0]
  act := fun _ _ s => ans s (wordsOfBytes ((List.range 256).map fun n => BitVec.ofNat 8 (s.bank n).state.code))
def execBankList (k : Kcp) (s : State) : Host.Outcome State Fault Refusal := .next (kcpExec cmdBankList k s)

/-! Tiles in bank memory (R129, R130, R441). -/

/-- TILE_CRC_CHECK_DONE (R129): the check of a tile without VERIFIED completes, in each image of the bank. A tile that plays meanwhile
plays on (DESIGN CHOICE, notes/assumptions/200.md). -/
def execTileCrcCheckDone (bank : Nat) (tile : Nat) (s : State) : Host.Outcome State Fault Refusal :=
  .next (if s.running then forEach (s.bank bank).images s fun i s => s.checkTile bank i.gen tile else s)

/-- An uncorrectable error in a tile that plays stops it (R130): BAD, SRC_BAD on each voice that plays it from this image, and TILE_BAD.
The last good sample is the last one of the block that the mix takes (DESIGN CHOICE, notes/assumptions/200.md). -/
def State.stopTile (s : State) (bank gen tile : Nat) : State :=
  let vs := s.disp.voices.filter fun v => v.bound.contains (bank, gen) ∧ s.playsTile v bank tile
  if vs = [] then s
  else
    forEach vs (s.tileMarkBad bank gen tile 2) fun v s =>
      (s.setVoice (v.setFlag 1)).editVoice v.src v.record (s.startOf (s.commit + 1)) (.tileStop bank tile)

/-- An error in a page of an image of a bank (R129, R130, R441): VERIFIED clears on every tile that overlaps it; an uncorrectable one
stays in the page, and stops the tiles that play and whose data it hits. -/
def State.pageError (s : State) (bank gen page : Nat) (uncorr : Bool) : State :=
  match (s.bank bank).images.find? fun i => i.gen = gen with
  | none => s
  | some i =>
    let tiles := List.range (nTiles i.bytes)
    let s := s.mapImage bank gen fun i => { i with
      unverified := (i.unverified ++ tiles.filter fun t => pageHits i.bytes t page).dedup,
      damaged := if uncorr then page :: i.damaged else i.damaged }
    if uncorr then forEach (tiles.filter fun t => pageData i.bytes t page) s fun t s => s.stopTile bank gen t else s

/-- The samples a line holds around an error (R213): 1,024 samples from an index read zero, entered and left by ramps of 32. -/
def lineError (line : List Int) (first : Nat) : List Int :=
  line.zipIdx.map fun p =>
    let i := p.2
    if first ≤ i ∧ i < first + 1024 then 0
    else if first ≤ i + 32 ∧ i < first then p.1 * ((first - i - 1 : Nat) : Int) / 32
    else if first + 1024 ≤ i ∧ i < first + 1056 then p.1 * ((i - first - 1024 : Nat) : Int) / 32
    else p.1

/-- What a page of bank memory holds. -/
inductive PageOf where
  | image (bank gen page : Nat)
  | line (zone stretch : Nat)
  deriving DecidableEq, Repr

/-- What pages of bank memory hold: pages of images, and stretches of zones' lines. Where the allocator has put what is not stated
(R124, R440), so that which of them, or none, a page holds is a free choice (DESIGN CHOICE, notes/assumptions/69.md). -/
def State.pageContents (s : State) : List PageOf :=
  (s.banks.banks.filter fun b => b.n ≠ 255).flatMap (fun b => b.images.flatMap fun i =>
    (List.range ((i.len + 4095) / 4096)).map fun p => PageOf.image b.n i.gen p) ++
  (s.zones.filter fun z => 1024 < z.delay).flatMap fun z => (List.range ((z.delay - 1) / 1024)).map fun p => PageOf.line z.n (p + 1)

/-- The patrol has read a page: one that does not follow the page before it begins a new patrol, whose hours count from 0 (R441,
MEMIF_SCRUB; DESIGN CHOICE, notes/assumptions/207.md). -/
def State.patrolled (s : State) (page : Nat) : State :=
  let s := if page < s.slabs.patrolled then s.put F.MEMIF_SCRUB_BANK_HOURS 0 else s
  { s with slabs := { s.slabs with patrolled := page } }

/-- BANK_PATROL_READ (R441): a read of a page of bank memory by the patrol or by a unit. -/
def execBankPatrolRead (page : Nat) (error : EccError) (s : State) : Host.Outcome State Fault Refusal :=
  .next (
    if ¬ s.running ∨ ¬ s.banks.available then s
    else if error = .none then s.patrolled page
    else
      let uncorr : Bool := error = .uncorrectable
      let (x, s) := (s.patrolled page).draw
      let l := s.pageContents
      let hit := l[x % (l.length + 1)]?
      let s := if uncorr then
          (((s.bumpSat F.MEMIF_BANK_ECC_UNCORR_CNT).set F.MEMIF_STATUS_BANK_UNCORR).put F.MEMIF_BANK_ERR_PAGE_PAGE page).set
            F.MEMIF_BANK_ERR_PAGE_VALID
        else s.bumpSat F.MEMIF_BANK_ECC_CORR_CNT
      let s := match hit with
        | some (.image n g p) => s.pageError n g p uncorr
        | some (.line n p) =>
          if uncorr then
            let z := s.zone n
            (s.setZone { z with line := lineError z.line (1024 * p) }).set (F.ZONE_STATUS_DELAY_ECC n)
          else s
        | none => s
      if ¬ uncorr then s
      else
        let n := s.banks.uncorrThisSecond + 1
        let s := { s with banks := { s.banks with uncorrThisSecond := n } }
        let s := s.raise Mech.bankEcc 0xFFFF (w32 page) 0 0
        if max 1 (s.get F.SAFE_BANKMEM_THRESH) < n ∧ s.banks.available then s.raise Mech.bankUnavail 0xFFFF 0 0 0 else s)

/-- BANK_RETRAIN (R424): every 10 s while bank memory is unavailable; a training that fails empties every bank (DEDUCED, notes/assumptions/137.md). -/
def execBankRetrain (ok : Bool) (s : State) : Host.Outcome State Fault Refusal :=
  .next (
    if s.banks.available ∨ ¬ s.running then s
    else
      let s := s.bumpSat F.SAFE_BANKMEM_RETRAIN_CNT
      let s := { s with banks := { s.banks with trained := ok } }
      if ok then s
      else
        let busy := s.banks.banks.filter fun b => b.n ≠ 255 ∧ (b.load.isSome ∨ b.ready.isSome)
        let s := forEach busy s fun b s => s.abandonLoad b.n
        { s with banks := { s.banks with banks := s.banks.banks.filter fun b => b.n = 255 } })

/-- BANK_AVAILABLE (R424): 3 s have passed without an uncorrectable event. -/
def execBankAvailable (s : State) : Host.Outcome State Fault Refusal :=
  .next (
    if s.banks.available ∨ ¬ s.banks.trained ∨ ¬ s.running then s
    else
      let s := { s with banks := { s.banks with available := true } }
      let s := (s.set F.SAFE_BANKMEM_UNAVAILABLE false).put F.MEMIF_STATUS_BANK_STATE 2
      let s := forEach s.zones s fun z s => s.set (F.ZONE_STATUS_DELAY_DEGRADED z.n) false
      ((s.unraise Mech.bankUnavail).set (F.SAFE_MECH_STAT_LATCHED Mech.bankUnavail) false).post 0x0C03 0xFFFF
        [w32 Mech.bankUnavail])

end Sys2Proof.Machine
end

