-- ==== Sys2Proof/Machine/Prosody.lean ====
section
/-! DEFINITION. How the voice sounds a tile of its script (R95, R99, R108–R115): the image it reads, prosody, pitch-synchronous joins,
fades and level. Instants are samples of the internal rate, two to an output sample; positions are in 2^−32 of a source sample; signals in
2^−46. R537 leaves the arithmetic of grains to the release (DESIGN CHOICE, notes/assumptions/199.md). -/

namespace Sys2Proof.Machine

/-! Kinds of tile (R92). -/
namespace Tk
def speech : Nat := 0
def sample : Nat := 1
def wavetable : Nat := 2
end Tk

/-! Tiles and images (R94, R95, R125). -/

/-- A tile as it is read: its image, its directory entry and its pitch marks. -/
structure Tile where
  img : Bytes
  entry : TileEntry
  marks : List W32
  deriving DecidableEq, Repr

/-- A tile of an image. -/
def tileIn (img : Bytes) (n : Nat) : Tile :=
  let e := tileEntry img n
  ⟨img, e, if e.pmOff = 0 then [] else wordsOfBytes (bytesAt img (e.pmOff + 4) (4 * hw img e.pmOff))⟩

/-- The tile that a voice plays. -/
def State.tileOf (s : State) (v : Voice) (t : TilePlay) : Option Tile :=
  (s.tileImage v t.bank).map fun i => tileIn i.2.1 t.tile

/-- Samples a second at the internal rate (R48). -/
def State.hz2 (s : State) : Nat := 2 * s.hz

/-- Milliseconds at the internal rate (R108). -/
def State.ms2 (s : State) (n : Nat) : Nat := divNear (n * s.hz2) 1000

/-- A tile's sample at a position, and whether the store of the interpolator limits it (R60, R89). -/
def Tile.read (x : Tile) (pos : Int) : Int × Bool := interpAt (tileSample x.img x.entry) pos

/-! The timeline of a SPEECH tile (R99, R114). -/

/-- The source position, in 2^−32, at an instant of a tile that plays; and the instant of a source position. -/
def State.sourcePos (s : State) (x : Tile) (t : TilePlay) (at_ : Int) : Int :=
  x.entry.head * 2 ^ 32 + quant 30 ((at_ - t.nominal) * (tileHz x.entry.rate * t.tempo * 2 ^ 32 : Nat)) (s.hz2 * 4096 : Nat)
def State.instantOf (s : State) (x : Tile) (nominal tempo : Nat) (pos : Nat) : Int :=
  nominal + nearest (((pos : Int) - x.entry.head) * (s.hz2 * 4096 : Nat)) (tileHz x.entry.rate * tempo : Nat)

/-- The pitch scale of a tile with OSC A's, limited to 0.5 to 2.0, and whether it was (R59, R115). -/
def scaleOf (pitch : Nat) (osc : Int) : Int × Bool :=
  let x := osc * pitch / 4096
  let y := clampI (Fx.unit / 2) (2 * Fx.unit) x
  (y, decide (y ≠ x))

/-- OSC A's pitch as a scale (R59, R60). -/
def pitchScale (p : Int) : Int := Fx.pow2 p (12 * 256 * 65536)

/-- A voiced region of a pitch-mark table (R93): its marks, by index, and the position of its end. -/
structure Region where
  marks : List (Nat × Nat)
  stop : Nat
  deriving DecidableEq, Repr

/-- The voiced regions of a table. -/
def regionsOf : List (W32 × Nat) → List (Nat × Nat) → List Region
  | [], _ => []
  | (m, i) :: ms, cur =>
    let p := bits m 0 28
    match bits m 30 2 with
    | 1 => regionsOf ms [(i, p)]
    | 0 => regionsOf ms (cur ++ [(i, p)])
    | _ => ⟨cur, p⟩ :: regionsOf ms []
def Tile.regions (x : Tile) : List Region := regionsOf x.marks.zipIdx []

/-- The first position of a region. -/
def Region.open_ (r : Region) : Nat := (r.marks.headD (0, 0)).2

/-- The mark of a list that lies nearest to a position in 2^−32, the earlier of two. -/
def nearMark (l : List (Nat × Nat)) (pos : Int) : Nat × Nat :=
  l.foldl (fun m y => if ((y.2 * 2 ^ 32 : Nat) - pos).natAbs < ((m.2 * 2 ^ 32 : Nat) - pos).natAbs then y else m) (l.headD (0, 0))

/-- The local period at a mark of a region, in source samples: to the next mark, or from the one before. -/
def Region.periodAt (r : Region) (i : Nat) : Nat :=
  let at_ := fun (k : Nat) => (r.marks.find? fun m => m.1 = k).map Prod.snd
  match at_ i, at_ (i + 1), at_ (i - 1) with
  | some p, some n, _ => n - p
  | some p, none, some b => if b < p then p - b else r.stop - p
  | some p, none, none => r.stop - p
  | none, _, _ => 0

/-- A period of source samples at the internal rate, at least one sample. -/
def State.periodOut (s : State) (x : Tile) (n : Nat) : Nat := max 1 (divNear (n * s.hz2) (tileHz x.entry.rate))

/-- A tile's pitch scale at an instant: behind a pitch-synchronous join its shift glides to 0 over 40 ms (R112). -/
def State.tileScale (s : State) (t : TilePlay) (osc : Int) (at_ : Nat) : Int :=
  let y := (scaleOf t.pitch osc).1
  match t.psjIn with
  | none => y
  | some j =>
    let n := at_ - j.mb
    let d := s.ms2 40
    if d ≤ n then y else Fx.mul y (Fx.exp (Fx.mul (Fx.log2 j.shift * (d - n : Nat) / d) Fx.ln2))

/-- The mark after the latest one, if it is due at an instant: one period over the pitch scale behind it within the region, and else the
first of the next region; the first mark of all stands where the tile enters its first region. -/
def State.nextMark (s : State) (x : Tile) (t : TilePlay) (osc : Int) (at_ : Nat) : Option (Nat × Nat × Nat) :=
  let mark := fun (r : Region) (c : Int) (i : Nat) => (c.toNat, i, s.periodOut x (r.periodAt i))
  let due := fun (m : Nat × Nat × Nat) => if m.1 ≤ at_ + m.2.2 then some m else none
  let enter := fun (l : List Region) => match l with
    | [] => none
    | r :: _ =>
      let c := s.instantOf x t.nominal t.tempo r.open_
      if c < t.first then due (mark r t.first (nearMark r.marks (s.sourcePos x t t.first)).1)
      else due (mark r c (r.marks.headD (0, 0)).1)
  match t.marks with
  | [] => enter (x.regions.filter fun r => s.sourcePos x t t.first < (r.stop * 2 ^ 32 : Nat))
  | (c, i, half) :: _ =>
    match x.regions.find? fun r => r.marks.any fun m => m.1 = i with
    | none => none
    | some r =>
      let c' := c + max 1 (half * Fx.unit / s.tileScale t osc at_).toNat
      let pos := s.sourcePos x t c'
      if pos < (r.stop * 2 ^ 32 : Nat) then
        (if c ≤ at_ + half then some (mark r c' (nearMark r.marks pos).1) else none)
      else enter (x.regions.filter fun y => r.open_ < y.open_)

/-- A Hann window at a distance from its middle, with its half length, as a Q23 operand. -/
def hann (d half : Nat) : Int := if half ≤ d then 0 else quant 31 (Fx.unit + Fx.cosTurn d (2 * half)) (2 ^ 38)

/-- What a grain or frame whose middle reads a source sample gives at an instant. -/
def State.grain (s : State) (x : Tile) (at_ mid half : Nat) (pos : Int) : Int :=
  let d := ((at_ : Int) - mid).natAbs
  if half ≤ d then 0
  else hann d half * (x.read (pos * 2 ^ 32 + quant 32 (((at_ : Int) - mid) * (tileHz x.entry.rate * 2 ^ 32 : Nat)) s.hz2)).1

/-- The source position of a mark. -/
def Tile.markPos (x : Tile) (i : Nat) : Nat := bits (x.marks.getD i 0) 0 28

/-- Voiced material: two-period grains about the output marks (R114). -/
def State.voiced (s : State) (x : Tile) (t : TilePlay) (at_ : Nat) : Int :=
  (t.marks.map fun m => s.grain x at_ m.1 m.2.2 (x.markPos m.2.1)).sum

/-! Unvoiced regions: frames of 20 ms at a hop of 10 ms (R114). -/

/-- The source sample in the middle of the next frame: within ±3 ms of its nominal position, where it agrees best with what follows the
frame before, the earliest of equals. -/
def State.bestFrame (s : State) (x : Tile) (t : TilePlay) (mid : Nat) (prev : Int) : Int :=
  let hz := tileHz x.entry.rate
  let hop := hz / 100
  let w := 3 * hz / 1000
  let at_ := s.sourcePos x t mid / 2 ^ 32
  let get := tileSample x.img x.entry
  let corr := (List.range (2 * w + 1)).map fun k =>
    ((List.range hop).map fun j => get (prev + j) * get (at_ + k - w - hop + j)).sum
  at_ - w + (largest corr.tail 1 (0, corr.headD 0)).1

/-- The next frame, if it is due. -/
def State.nextFrame (s : State) (x : Tile) (t : TilePlay) (at_ : Nat) : Option (Nat × Int) :=
  match t.frames with
  | [] => some (t.first, s.sourcePos x t t.first / 2 ^ 32)
  | (c, p) :: _ => if c ≤ at_ then some (c + s.hz2 / 100, s.bestFrame x t (c + s.hz2 / 100) p) else none

/-- Unvoiced material. -/
def State.unvoiced (s : State) (x : Tile) (t : TilePlay) (at_ : Nat) : Int :=
  (t.frames.map fun f => s.grain x at_ f.1 (s.hz2 / 100) f.2).sum

/-- Where the treatment of a tile changes: to voiced, or from it. -/
def State.turns (s : State) (x : Tile) (t : TilePlay) : List (Int × Bool) :=
  x.regions.flatMap fun r => [(s.instantOf x t.nominal t.tempo r.open_, true), (s.instantOf x t.nominal t.tempo r.stop, false)]

/-- The voiced share of a tile at an instant: a change crossfades over 5 ms from where it lies (R114). -/
def State.voicedShare (s : State) (x : Tile) (t : TilePlay) (at_ : Nat) : Int :=
  match ((s.turns x t).filter fun c => decide (c.1 ≤ (at_ : Int))).getLast? with
  | none => 0
  | some (c, on) =>
    let y := quant 33 (q23 * min ((at_ : Int) - c) (s.ms2 5 : Nat)) (s.ms2 5 : Nat)
    if on then y else q23 - y

/-! Pitch-synchronous joins (R112, R113). -/

/-- The places of the grains of a join. -/
def Psj.grains (j : Psj) : List Nat := (List.range (j.periods + 1)).map fun k => j.mb - (j.periods - k) * j.ta

/-- One tile's layer of a join: two-period grains at its places, each from the mark that lies nearest; beyond the marks the last or first
period repeats. -/
def State.psjLayer (s : State) (x : Tile) (t : TilePlay) (j : Psj) (at_ : Nat) : Int :=
  let marks := x.regions.flatMap Region.marks
  (j.grains.map fun (c : Nat) => s.grain x at_ c j.ta ((nearMark marks (s.sourcePos x t c)).2)).sum

/-- An interval of marks as a period at the internal rate, in 2^−16, by a pitch scale. -/
def State.meanPeriod (s : State) (x : Tile) (span n : Nat) (scale : Int) : Nat :=
  (nearest ((span * s.hz2 * 2 ^ 16 : Nat) * Fx.unit) ((n * tileHz x.entry.rate : Nat) * scale)).toNat

/-- The join of a tile A that plays and a tile B with its pitch and tempo, and B's nominal start and first mark; none where it cannot be
formed (R112, R113; DEDUCED, notes/assumptions/140.md). -/
def State.psjPlan (s : State) (a b : Tile) (t : TilePlay) (osc : Int) (pitch tempo periods : Nat) : Option (Psj × Nat × Nat) :=
  let w := s.ms2 10
  let endA := (a.regions.flatMap fun r => r.marks.map fun m => (r, m)).filter fun y =>
    let c := s.instantOf a t.nominal t.tempo y.2.2
    (t.ends : Int) - w ≤ c ∧ c < t.ends
  let startB := (b.regions.flatMap fun r => r.marks.map fun m => (r, m)).find? fun y =>
    let c := s.instantOf b 0 tempo y.2.2
    0 ≤ c ∧ c < w
  match endA.getLast?, startB with
  | some (ra, ma), some (rb, mb) =>
    let before := (ra.marks.filter fun m => m.1 < ma.1).reverse.take 3
    let after := (rb.marks.filter fun m => mb.1 < m.1).take 3
    match before.getLast?, after.getLast? with
    | some fa, some lb =>
      let ta := s.meanPeriod a (ma.2 - fa.2) before.length (scaleOf t.pitch osc).1
      let tb := s.meanPeriod b (lb.2 - mb.2) after.length (scaleOf pitch osc).1
      let k := if periods = 0 then 2 else periods
      let n := max 1 (divNear ta 65536)
      let place := (s.instantOf a t.nominal t.tempo ma.2).toNat + n
      if 2 * ta ^ 4 < tb ^ 4 ∨ 2 * tb ^ 4 < ta ^ 4 ∨ place < t.first + k * n then none
      else some (⟨k, n, place, Fx.ratio tb ta⟩, (place - s.instantOf b 0 tempo mb.2).toNat, mb.1)
    | _, _ => none
  | _, _ => none

/-! A tile at an instant. -/

/-- A tile's script level with TRIM at an instant: LEVEL moves over one block length from the tile's first sample (R99). -/
def State.tileGain (s : State) (t : TilePlay) (at_ : Nat) : Int :=
  let l := moveAt 34 (t.levelFrom * 65536) (t.level * 65536) t.first (2 * s.bl) at_
  if l ≤ -15360 * 65536 then 0 else levelGain 35 (l + t.trim * 32 * 65536)

/-- The fades of a tile at an instant (R108, R110, R116, R130). -/
def TilePlay.fadeAt (t : TilePlay) (at_ : Nat) : Int :=
  let y := timesQ 36 (t.enter.rise at_) ((t.leave.map fun f => f.fall at_).getD q23)
  timesQ 36 y ((t.stopFade.map fun f => f.fall at_).getD q23)

/-- A tile sounds at an instant. -/
def TilePlay.soundsAt (t : TilePlay) (at_ : Nat) : Bool := t.first ≤ at_ ∧ at_ < t.last

/-- What one internal sample of a tile gives: the signal before fades and level, whether it is a sync event of OSC B (R63), and what was
clamped and limited. -/
structure TileOut where
  x : Int
  sync : Bool
  clamped : Bool
  limited : Bool
  deriving DecidableEq, Repr

/-- The step of a SAMPLE tile's read position at the internal rate, in 2^−32 source samples (R60, R115). -/
def State.sampleStep (s : State) (x : Tile) (pitch : Nat) (osc : Int) : Nat :=
  (quant 37 ((tileHz x.entry.rate : Nat) * 2 ^ 32 * (scaleOf pitch osc).1) (s.hz2 * Fx.unit)).toNat

/-- A read position has reached or passed one of a tile's marks of voiced regions since it stood elsewhere; where it begins, it stands
on one (R63). -/
def Tile.passes (x : Tile) (begins : Bool) (was pos : Nat) : Bool :=
  x.regions.any fun r => r.marks.any fun m => let p := m.2 * 2 ^ 32; (begins ∧ p = pos) ∨ (was < p ∧ p ≤ pos)

/-- A SAMPLE tile's instant: the read position advances by its step, which both pitches scale (R59, R115). -/
def State.sampleTile (s : State) (x : Tile) (t : TilePlay) (osc : Int) (at_ : Nat) : TilePlay × TileOut :=
  let begins : Bool := at_ = t.first
  let pos := if begins then t.pos else t.pos + s.sampleStep x t.pitch osc
  let (y, lim) := x.read pos
  ({ t with pos := pos }, ⟨y * q23, x.passes begins t.pos pos, (scaleOf t.pitch osc).2, lim⟩)

/-- A SPEECH tile's instant. -/
def State.speechStep (s : State) (x : Tile) (t : TilePlay) (osc : Int) (at_ : Nat) : TilePlay × TileOut :=
  let t := match s.nextMark x t osc at_ with
    | some m => { t with marks := m :: t.marks.filter fun y => at_ ≤ y.1 + y.2.2 }
    | none => t
  let t := match s.nextFrame x t at_ with | some f => { t with frames := (f :: t.frames).take 3 } | none => t
  let w := s.voicedShare x t at_
  let own := timesQ 38 (s.voiced x t at_) w + timesQ 38 (s.unvoiced x t at_) (q23 - w)
  let layer := (t.psjOut.filter fun j => j.mb - j.periods * j.ta ≤ at_).orElse fun _ => t.psjIn.filter fun j => at_ < j.mb
  let sync : Bool := match layer with
    | some j => t.psjIn.isSome ∧ j.grains.contains at_
    | none => 0 < w ∧ t.marks.any fun m => m.1 = at_
  (t, ⟨(layer.map fun j => s.psjLayer x t j at_).getD own, sync, (scaleOf t.pitch osc).2, false⟩)

/-- A tile of a voice at an instant at which it sounds: silence where it is BAD or its image is gone. -/
def State.tileStep (s : State) (v : Voice) (t : TilePlay) (osc : Int) (at_ : Nat) : TilePlay × TileOut :=
  match s.tileOf v t with
  | none => (t, ⟨0, false, false, false⟩)
  | some x =>
    let (t, o) := if x.entry.kind = Tk.sample then s.sampleTile x t osc at_ else s.speechStep x t osc at_
    (t, if t.bad then { o with x := 0, sync := false } else { o with x := timesQ 39 (timesQ 39 o.x (t.fadeAt at_)) (s.tileGain t at_) })

end Sys2Proof.Machine
end

