-- ==== Sys2Proof/Machine/Script.lean ====
section
/-! DEFINITION. The tile sequencer of a voice (R95–R117, R540): the operations of a script, joins, the decision point and the boundary
instant of a tile, and the edits of a running script. It runs through a block before the block's samples are rendered, from one event to
the next; tiles stand at the internal rate, two samples to an output sample. -/

namespace Sys2Proof.Machine

/-! Lengths at the internal rate (R99, R108, R115) (DEDUCED, notes/assumptions/139.md). -/

/-- Samples of a duration in 0.1 ms at the operating rate, and at the internal one. -/
def State.tenths (s : State) (n : Nat) : Nat := divNear (n * s.hz) 10000
def State.tenths2 (s : State) (n : Nat) : Nat := divNear (n * s.hz2) 10000

/-- The output sample at or after an instant. -/
def outSample (t : Nat) : Nat := (t + 1) / 2

/-- The length of n source samples of a tile under a script's pitch and tempo and OSC A's pitch. -/
def State.zoneLen (s : State) (x : Tile) (n pitch tempo : Nat) (osc : Int) : Nat :=
  if x.entry.kind = Tk.sample then
    (nearest ((n * s.hz2 : Nat) * Fx.unit) ((tileHz x.entry.rate : Nat) * (scaleOf pitch osc).1)).toNat
  else divNear (n * s.hz2 * 4096) (tileHz x.entry.rate * tempo)

/-- The nominal end of a SAMPLE tile whose read position at an instant is `pos`: its steps are known for so many samples, and then
stay. The duration is rounded to the nearest output sample. -/
def sampleEnd (step : Nat → Nat) (nominal stop : Nat) : Nat → Nat → Nat → Nat
  | 0, t, pos =>
    let d := step (t + 1)
    (nominal + 2 * nearest (((t : Int) - nominal) * d + ((stop : Int) - pos)) (2 * d : Nat)).toNat
  | n + 1, t, pos =>
    let d := step (t + 1)
    if stop ≤ pos + d then sampleEnd step nominal stop 0 t pos else sampleEnd step nominal stop n (t + 1) (pos + d)

/-- The source position behind a tile's nominal content. -/
def Tile.stop (x : Tile) : Nat := (x.entry.head + x.entry.nominal) * 2 ^ 32

/-- The nominal end of a tile (R99, R115), `hi` being the instant up to which OSC A's pitch is known. -/
def State.tileEnds (s : State) (x : Tile) (t : TilePlay) (osc : Nat → Int) (lo hi : Nat) : Nat :=
  if x.entry.kind = Tk.sample then
    sampleEnd (fun i => max 1 (s.sampleStep x t.pitch (osc i))) t.nominal x.stop (hi - lo) lo t.pos
  else t.nominal + 2 * divNear (x.entry.nominal * s.hz * 4096) (tileHz x.entry.rate * t.tempo)

/-! Reading words (R97–R107). -/

/-- The words from the next one on, and the index of the next one. -/
def Cursor.ahead (c : Cursor) (script : List W32) : List W32 :=
  match c.inserted with | i :: _ => i.words.drop i.at_ | [] => script.drop c.word
def Cursor.index (c : Cursor) : Nat := match c.inserted with | i :: _ => i.at_ | [] => c.word

/-- Leave inserted words that are at their end. -/
def Cursor.leave (c : Cursor) : Cursor := { c with inserted := c.inserted.filter fun i => i.at_ < i.words.length }

/-- Move past n words. -/
def Cursor.advance (c : Cursor) (n : Nat) : Cursor :=
  match c.inserted with
  | i :: l => { c with inserted := { i with at_ := i.at_ + n } :: l }.leave
  | [] => { c with word := c.word + n }

/-- What a LOOP with counters does (R105): the counters behind it, and whether the body follows. -/
def loopStep (loops : List (Nat × Nat)) (idx count : Nat) (released : Bool) : List (Nat × Nat) × Bool :=
  if count = 0 then
    if released then (kdel loops idx, false) else (kput loops idx 0, true)
  else
    let c := (kget loops idx).getD count
    if 0 < c then (kput loops idx (c - 1), true) else (kdel loops idx, false)

/-- A LOOP read at a sample by which release has started or not. -/
def Cursor.loop (c : Cursor) (w : W32) (released : Bool) : Cursor :=
  let back := bits w 0 16
  let count := bits w 16 8
  match c.inserted with
  | i :: l =>
    let (loops, again) := loopStep i.loops i.at_ count released
    if again then { c with inserted := { i with loops := loops, at_ := i.at_ - back } :: l }
    else { c with inserted := { i with loops := loops } :: l }.advance 1
  | [] =>
    let (loops, again) := loopStep c.loops c.word count released
    if again then { c with loops := loops, word := c.word - back } else { c with loops := loops }.advance 1

/-- The target of a LOOP lies among the words that it may repeat (R107, R116). -/
def Cursor.loopOk (c : Cursor) (back : Nat) : Bool :=
  match c.inserted with
  | i :: _ => 1 ≤ back ∧ back ≤ i.at_
  | [] => 1 ≤ back ∧ back + 1 ≤ c.word

/-- The words of an operation that can be executed, of those that stand there. -/
def Cursor.op (c : Cursor) (ws : List W32) : Option (List W32) :=
  let w := ws.headD 0
  let n := opWords w
  if ws = [] ∨ n = 0 ∨ ws.length < n ∨ ¬ opOk w (ws.getD 1 0) ∨ (bits w 24 8 = 0x09 ∧ ¬ c.loopOk (bits w 0 16)) then none
  else some (ws.take n)

/-- A scale in its range (R99). -/
def clampScale (lo hi x : Nat) : Nat := max lo (min hi x)

/-- A PITCH or TEMPO whose value lies outside its range (R99). -/
def scaleClamps (w : W32) : Bool :=
  (bits w 24 8 = 0x04 ∧ clampScale 2048 8192 (bits w 0 16) ≠ bits w 0 16) ∨
    (bits w 24 8 = 0x05 ∧ clampScale 3277 5120 (bits w 0 16) ≠ bits w 0 16)

/-- What an operation that takes no media time makes of the cursor (R99, R100, R104, R105). A LEVEL outside its range is clamped, with no
flag (DESIGN CHOICE, notes/assumptions/138.md). -/
def Cursor.set (c : Cursor) (ws : List W32) (released : Bool) : Cursor :=
  let w := ws.headD 0
  match bits w 24 8 with
  | 0x03 => (if bit w 19 then { c with defaultJoin := w, oneShot := none } else { c with oneShot := some w }).advance 1
  | 0x04 => { c with pitch := clampScale 2048 8192 (bits w 0 16) }.advance 1
  | 0x05 => { c with tempo := clampScale 3277 5120 (bits w 0 16) }.advance 1
  | 0x06 => { c with level := clampI (-15360) 1536 (signed 16 (bits w 0 16)) }.advance 1
  | 0x09 => c.loop w released
  | 0x0A => { c with bank := bits w 16 8, tbase := bits w 0 16 }.advance 1
  | _ => c.advance ws.length

/-- An operation that takes media time, or END (R98, R540). -/
def ends_ (w : W32) : Bool := bits w 24 8 ≤ 0x02 ∨ bits w 24 8 = 0x08

/-- Read up to and with the next TILE, GAP, SYNC or END (R540): the operations with the index of each, and where the sequencer stands
behind them; none of words that cannot be executed. The fuel bounds the words read. -/
def scriptAhead (script : List W32) (released : Bool) : Nat → Cursor → List (Nat × List W32) → List (Nat × List W32) × Cursor × Bool
  | 0, c, acc => (acc ++ [(c.index, [])], c, false)
  | n + 1, c, acc =>
    match c.op (c.ahead script) with
    | none => (acc ++ [(c.index, (c.ahead script).take 1)], c, false)
    | some ws =>
      let acc := acc ++ [(c.index, ws)]
      if ends_ (ws.headD 0) then (acc, c.set ws released, true) else scriptAhead script released n (c.set ws released) acc

/-! Joins (R100, R108–R113). -/

/-- A join as its word says: its kind, its curve, its periods and its length. -/
def joinKind (w : W32) : JoinKind :=
  match bits w 20 4 with | 0 => .butt | 1 => .xfade | 2 => .psj | _ => .gap
def joinCurve (w : W32) : FadeCurve := if bit w 18 then .equalPower else .linear
def joinLen (w : W32) : Nat := max 10 (min 640 (bits w 0 16))

/-- The largest overlap of at most x for which the incoming tile starts at or after the outgoing one's first sample (R110). Half an odd
length is rounded down (DESIGN CHOICE, notes/assumptions/139.md). -/
def fitOverlap (x : Nat) (a : TilePlay) (tail : Nat) : Nat :=
  (greatest (fun n => decide (a.first + n ≤ a.ends + min (n.toNat / 2) tail)) 20 0 x).toNat

/-- A tile that leaves into silence (R108): it ends at its nominal end, and with FULL at its last sample, with a fade of 2 ms. -/
def State.leaveSilent (s : State) (a : TilePlay) (tail : Nat) : TilePlay :=
  let last := a.ends + if a.full then tail else 0
  { a with leave := some ⟨.linear, last - s.ms2 2, s.ms2 2⟩, last := last }

/-- A tile that enters from silence at an instant (R108): at its nominal start, and with FULL at its first sample. -/
def State.enterSilent (s : State) (t : TilePlay) (at_ head : Nat) : TilePlay :=
  { t with first := at_, nominal := at_ + (if t.full then head else 0), enter := ⟨.linear, at_, s.ms2 2⟩ }

/-- A crossfade of a length in 0.1 ms between two tiles (R110). -/
def State.crossTiles (s : State) (a b : TilePlay) (curve : FadeCurve) (len tail head : Nat) : TilePlay × TilePlay :=
  let x := fitOverlap (s.tenths2 len) a tail
  let last := a.ends + min (x / 2) tail
  ({ a with leave := some ⟨curve, last - x, x⟩, last := last },
    { b with
      first := last - x, nominal := last - x + min (x / 2) head, enter := ⟨curve, last - x, x⟩, join := some .xfade })

/-- The boundary of a tile A that plays and an incoming one B under a join word: both, and whether a pitch-synchronous join fell back
(R109–R113). -/
def State.joinTiles (s : State) (xa xb : Tile) (a b : TilePlay) (w : W32) (osc : Int) (tail head : Nat) :
    TilePlay × TilePlay × Bool :=
  match joinKind w with
  | .butt => ({ a with last := a.ends }, { b with first := a.ends, nominal := a.ends, join := some .butt }, false)
  | .xfade => let (a, b) := s.crossTiles a b (joinCurve w) (joinLen w) tail head; (a, b, false)
  | .gap =>
    (s.leaveSilent a tail, { s.enterSilent b (a.ends + s.tenths2 (bits w 0 16)) head with join := some .gap }, false)
  | .psj =>
    let speech : Bool := xa.entry.kind = Tk.speech ∧ xb.entry.kind = Tk.speech ∧ xa.marks ≠ [] ∧ xb.marks ≠ []
    match if speech then s.psjPlan xa xb a osc b.pitch b.tempo (bits w 16 2) else none with
    | none => let (a, b) := s.crossTiles a b .equalPower 100 tail head; (a, b, true)
    | some (j, nominal, mark) =>
      let f : Fade := ⟨.equalPower, j.mb - j.periods * j.ta, j.periods * j.ta⟩
      let half := s.periodOut xb (((xb.regions.find? fun r => r.marks.any fun m => m.1 = mark).map fun r => r.periodAt mark).getD 1)
      ({ a with leave := some f, last := j.mb, psjOut := some j },
        { b with first := f.start, nominal := nominal, enter := f, join := some .psj, psjIn := some j, marks := [(j.mb, mark, half)] },
        false)

/-! Taking a tile (R94, R95, R99, R125). -/

/-- The tile that a reference names for a voice in SCRIPT mode, with its bank, number and image; a WAVETABLE tile is missing (R95). -/
def State.findTile (s : State) (v : Voice) (c : Cursor) (ref : W32) : Option (Nat × Nat × Nat × Tile) :=
  let (bank, tile) := s.resolve v (some c) ref
  match s.tileImage v bank with
  | none => none
  | some (g, img, _) =>
    if tile < nTiles img ∧ tile < 1048576 ∧ (tileEntry img tile).kind ≠ Tk.wavetable then some (bank, tile, g, tileIn img tile)
    else none

/-- A tile plays as silence (R95): it is marked BAD, unless it became so while this voice was playing it (R130). -/
def State.playsBad (s : State) (v : Voice) (bank tile at_ : Nat) : Bool :=
  ((s.tileImage v bank).any fun i => i.2.2.contains tile) &&
    ¬ v.edits.any fun e => decide (e.kind = .tileStop bank tile ∧ at_ < 2 * e.mt)

/-- A tile before its place is known: what is fixed at its start. -/
def Seq.tilePlay (q : Seq) (c : Cursor) (bank tile gen : Nat) (ref : W32) (trim : Int) (isBad : Bool) : TilePlay :=
  { bank := bank, tile := tile, gen := gen, full := bit ref 1, bad := isBad, trim := trim, pitch := c.pitch, tempo := c.tempo,
    level := c.level, levelFrom := (q.played.head?.map TilePlay.level).getD 0, first := 0, nominal := 0, ends := 0, join := none,
    enter := ⟨.none_, 0, 0⟩, leave := none, last := 2 ^ 64, stopFade := none, psjIn := none, psjOut := none, pos := 0, marks := [],
    frames := [] }

/-- A tile in its place: its read position, and its nominal end. -/
def State.placed (s : State) (x : Tile) (t : TilePlay) (osc : Nat → Int) (hi : Nat) : TilePlay :=
  let lead := (t.nominal - t.first) * s.sampleStep x t.pitch (osc t.first)
  let t := { t with pos := x.entry.head * 2 ^ 32 - lead }
  { t with ends := s.tileEnds x t osc t.first hi }

/-- What a TILE gives (R95, R108–R113): the tile to play, if it is not missing, with the tile that it follows as that now leaves, and
what is known of images and the voice. `prev` is the tile that plays before it; with none it enters from silence at an instant, or as the
incoming half of a cut's crossfade. -/
def State.takeTile (s : State) (src record : Nat) (c : Cursor) (prev : Option TilePlay) (at_ : Nat) (w ref : W32) (osc : Nat → Int)
    (hi : Nat) : State × Option TilePlay × Option TilePlay :=
  match s.voiceIn src record with
  | none => (s, none, prev)
  | some v =>
    let tailOf := fun (a : TilePlay) => (s.tileOf v a).elim 0 fun x => s.zoneLen x x.entry.tail a.pitch a.tempo (osc a.ends)
    let quiet := prev.map fun a => s.leaveSilent a (tailOf a)
    match s.findTile v c ref with
    | none => (s.setVoice (v.setFlag 1), none, quiet)
    | some (bank, tile, gen, x) =>
      let s := s.beforeTile bank gen tile
      let isBad := s.playsBad v bank tile at_
      let v := { v with toVoiceDyn := v.toVoiceDyn.bind bank gen }
      let t := v.seq.tilePlay c bank tile gen ref (signed 8 (bits w 16 8)) isBad
      let head := s.zoneLen x x.entry.head c.pitch c.tempo (osc at_)
      if isBad then
        let at_ := (prev.map TilePlay.ends).getD at_
        (s.setVoice (v.setFlag 1), some (s.placed x { t with first := at_, nominal := at_ } osc hi), quiet)
      else match prev.filter fun a => ¬ a.bad with
        | some a =>
          match s.tileOf v a with
          | none => (s.setVoice v, some (s.placed x (s.enterSilent t a.ends head) osc hi), quiet)
          | some xa =>
            let (a, t, fell) := s.joinTiles xa x a t (c.oneShot.getD c.defaultJoin) (osc a.ends) (tailOf a) head
            (s.setVoice (if fell then v.setFlag 4 else v), some (s.placed x t osc hi), some a)
        | none =>
          let at_ := (prev.map TilePlay.ends).getD at_
          let t := if v.seq.cutIn then { t with first := at_, nominal := at_, enter := ⟨.equalPower, at_, s.ms2 10⟩ }
            else s.enterSilent t at_ head
          (s.setVoice v, some (s.placed x t osc hi), quiet)

/-! Ends and waits (R101–R103, R106). -/

def State.setSeq (s : State) (v : Voice) (q : Seq) : State := s.setVoice { v with seq := q }

/-- A boundary with silence: a pending one-shot JOIN is spent, and no crossfade of a cut waits (R100, R116). -/
def Cursor.silence (c : Cursor) : Cursor := { c with oneShot := none }

/-- Note an operation that takes media time: the sample at which it starts, and where the sequencer stands behind it. -/
def Seq.note (q : Seq) (at_ : Nat) (c : Cursor) : Seq := { q with hist := ((at_, c) :: q.hist).take 8 }

/-- SCRIPT_FAULT (R106, R319). -/
def State.scriptFault (s : State) (v : Voice) (index : Nat) (w : W32) : State :=
  s.post 0x0203 (s.handleOf v.src) [((s.job? v.record).map Job.handle).getD 0, w32 (index % 65536), w]

/-- A cut that waits for a voice: the sample at which it acts (R83, R116). -/
def Voice.cutDue (v : Voice) : Option (Nat × Edit) :=
  (v.sorted.find? fun e => (match e.kind with | .script cut _ => cut | _ => false) &&
    !(v.seq.insDone.any fun d => d.1 = e.order)).map fun e => (max e.mt v.startMt, e)

/-- A cut at a sample (R116): every tile that sounds leaves as the outgoing half of a crossfade of 10 ms, one that has not started is
gone, and the inserted words stand before the word behind the latest operation that has started (DEDUCED, notes/assumptions/141.md). -/
def State.seqCut (s : State) (v : Voice) (at_ : Nat) (e : Edit) : State :=
  let q := v.seq
  let ws := match e.kind with | .script _ ws => ws | _ => []
  let cur := ((q.hist.find? fun h => h.1 ≤ at_).map Prod.snd).getD q.cur
  let started : Bool := (q.read.bind ReadAhead.next).any fun t => t.first ≤ 2 * at_
  let x := 2 * at_
  let leave := fun (t : TilePlay) =>
    if t.last ≤ x then t else { t with stopFade := some ⟨.equalPower, x, s.ms2 10⟩, last := min t.last (x + s.ms2 10) }
  let done := if started then (q.read.map ReadAhead.taken).getD [] else []
  s.setSeq v { q with
    phase := .running, now := at_, cur := { cur with inserted := ⟨ws, 0, []⟩ :: cur.inserted }.leave,
    played := (q.played.filter fun t => t.first ≤ x).map leave, cutIn := true, read := none,
    insDone := q.insDone ++ (e.order :: done).map fun o => (o, s.blockOf at_) }

/-- END, or a word that acts as END, at a sample (R106): the sequencer stops and release starts. A cut that falls on the same sample
comes before it. -/
def State.seqEnd (s : State) (v : Voice) (at_ : Nat) : State :=
  match v.cutDue.filter fun c => c.1 ≤ at_ with
  | some (_, e) => s.seqCut v at_ e
  | none =>
    let q := v.seq
    let v : Voice := { v with seq := { q with phase := .ended, now := at_, read := none, cur := { q.cur with inserted := [] } } }
    s.setVoice (v.release at_)

/-- The condition of a SYNC at a sample (R103). -/
def State.syncHolds (s : State) (v : Voice) (kind : SyncKind) (level : Bool) (contact value mt at_ : Nat) : Bool :=
  match kind with
  | .grid => at_ % (value * s.bl) = 0
  | .contact => s.contactSeen contact at_ = if level then 1 else 0
  | .after => v.startMt + value * s.hz / 100 ≤ at_
  | .at => mt ≤ at_

/-- An operation that takes media time, or END, at a sample, where the cursor stands behind it; a TILE with what its taking gave
(R95, R101, R103, R106). -/
def State.seqTimed (s : State) (src record at_ : Nat) (ws : List W32) (cur : Cursor) (next : Option TilePlay) : State :=
  match s.voiceIn src record with
  | none => s
  | some v =>
    let w := ws.headD 0
    let q := { v.seq with cur := cur, now := at_, read := none }
    let still := { q with cur := cur.silence, cutIn := false }
    match bits w 24 8 with
    | 0x01 =>
      match next with
      | some t => s.setSeq v { still with phase := .tile (ws.getD 1 0) (outSample t.first) (outSample t.ends) }
      | none => s.setSeq v { still with phase := .running }
    | 0x02 => s.setSeq v { still.note at_ still.cur with phase := .gap (at_ + s.tenths (bits w 0 24)) }
    | 0x08 =>
      let kind : SyncKind := match bits w 22 2 with | 0 => .grid | 1 => .contact | 2 => .after | _ => .at
      let mt := (ws.getD 1 0).toNat + (ws.getD 2 0).toNat * 2 ^ 32
      s.setSeq v { still.note at_ still.cur with phase := .sync kind (bit w 21) (bits w 16 4) (bits w 0 16) mt at_ }
    | _ => s.seqEnd { v with seq := q } at_

/-! TONE (R102). -/

/-- The companion of a job with a voice index. -/
def State.companion (s : State) (record index : Nat) : Option Voice :=
  (s.voicesOf record).find? fun w => w.index = index ∧ w.companion

/-- A companion starts at a sample (R56, R83, R102) (DEDUCED, notes/assumptions/35.md; DEDUCED, notes/assumptions/142.md). -/
def State.startCompanion (s : State) (w : Voice) (at_ dur : Nat) : State :=
  let b := s.blockOf at_
  let d := s.startDyn w at_ true
  let d := if dur = 0 then d else d.release (at_ + dur * s.hz / 100)
  s.setVoice { w.invalidate b with
    toVoiceDyn := d, next := b, rollback := none, redo := none, lives := (b, none) :: w.lives }

/-- TONE (R102): on a companion of the same job; another number sets SRC_BAD on voice 0. -/
def State.seqTone (s : State) (record at_ : Nat) (w : W32) : State :=
  match s.companion record (bits w 18 6) with
  | none => match (s.voicesOf record).find? fun w => w.index = 0 with
    | some v => s.setVoice (v.setFlag 1)
    | none => s
  | some c =>
    let heard := s.liveIn c (s.blockOf at_)
    match bits w 16 2 with
    | 0 => if heard then s else s.startCompanion c at_ (bits w 0 16)
    | 1 => if heard then s.toneEdit c at_ false else s
    | _ => if heard then s.toneEdit c at_ true else s

/-- What an operation that takes no media time does beside the cursor at the sample at which it executes (R99, R102). -/
def State.seqAct (s : State) (src record at_ : Nat) (ws : List W32) : State :=
  let w := ws.headD 0
  if bits w 24 8 = 0x07 then s.seqTone record at_ w
  else if scaleClamps w then match s.voiceIn src record with
    | some v => s.setVoice (v.setFlag 0)
    | none => s
  else s

/-! The events of the sequencer (R116, R540). -/

/-- The insertions of BOUNDARY mode that a reading point at a sample takes, in their order (R116). -/
def Voice.dueInserts (v : Voice) (at_ : Nat) : List Edit :=
  v.sorted.filter fun e => decide (e.mt ≤ at_) && (match e.kind with | .script cut _ => !cut | _ => false) &&
    !(v.seq.insDone.any fun d => d.1 = e.order)

/-- The cursor with the words of insertions before its own next words. -/
def Cursor.insert (c : Cursor) (l : List Edit) : Cursor :=
  { c with inserted := (l.filterMap fun (e : Edit) => match e.kind with | .script _ ws => some (⟨ws, 0, []⟩ : Inserted) | _ => none) ++ c.inserted }.leave

/-- Replace the newest tile that a voice plays. -/
def Seq.setTile (q : Seq) (t : TilePlay) : Seq := { q with played := t :: q.played.drop 1 }

/-- A TILE is taken: what plays, and where a cut would resume. -/
def Seq.push (q : Seq) (t : TilePlay) (c : Cursor) : Seq := { q with played := (t :: q.played).take 6 }.note (outSample t.first) c

/-- The decision point of a tile: the later of its first sample and 80 ms before its nominal end (R540). -/
def State.decisionAt (s : State) (starts ends : Nat) : Nat := max starts (ends - divNear (s.hz * 80) 1000)

/-- TILE_DECISION_POINT (R540): the sequencer takes the insertions that are due, reads, and places the next tile. -/
def State.decideAt (s : State) (v : Voice) (at_ : Nat) (osc : Nat → Int) (hi : Nat) : State :=
  let q := v.seq
  let due := v.dueInserts at_
  let (ops, cur, ok) := scriptAhead v.script (v.releasedBy at_) 65536 (q.cur.insert due) []
  let ops := if ok then ops else ops.dropLast ++ [((ops.getLast?.map Prod.fst).getD 0, [0xFFFFFFFF, ((ops.getLast?.map Prod.snd).getD []).headD 0])]
  let ws := (ops.getLast?.map Prod.snd).getD []
  let tile : Bool := bits (ws.headD 0) 24 8 = 0x01
  let (s, next, prev) :=
    if tile then s.takeTile v.src v.record cur q.played.head? (2 * at_) (ws.headD 0) (ws.getD 1 0) osc hi
    else (s, none, q.played.head?.map fun a =>
      s.leaveSilent a ((s.tileOf v a).elim 0 fun x => s.zoneLen x x.entry.tail a.pitch a.tempo (osc a.ends)))
  match s.voiceIn v.src v.record with
  | none => s
  | some v =>
    let q := match prev with | some a => v.seq.setTile a | none => v.seq
    let q := match next with | some t => q.push t { cur with oneShot := none } | none => q
    s.setSeq v { q with read := some ⟨ops, cur, due.map Edit.order, next⟩ }

/-- TILE_BOUNDARY (R540): the words read execute in script order at the boundary instant. -/
def State.boundary (s : State) (v : Voice) (at_ : Nat) : State :=
  match v.seq.read with
  | none => s
  | some r =>
    let q := v.seq
    let s := s.setSeq v { q with insDone := q.insDone ++ r.taken.map fun o => (o, s.blockOf at_) }
    let s := forEach r.ops.dropLast s fun x s => s.seqAct v.src v.record at_ x.2
    let x := r.ops.getLast?.getD (0, [])
    let s := if x.2.headD 0 = 0xFFFFFFFF then s.scriptFault v x.1 (x.2.getD 1 0) else s
    s.seqTimed v.src v.record at_ x.2 r.cur r.next

/-- One operation where the sequencer stands between two operations that take media time (R98–R106). -/
def State.seqOp (s : State) (src record : Nat) (ws : List W32) (osc : Nat → Int) (hi : Nat) : State :=
  match s.voiceIn src record with
  | none => s
  | some v =>
    let q := v.seq
    let at_ := q.now
    match q.cur.op ws with
    | none =>
      if v.script = [] ∧ q.cur.inserted = [] then s.seqEnd v at_ else (s.scriptFault v q.cur.index (ws.headD 0)).seqEnd v at_
    | some ws =>
      let cur := q.cur.set ws (v.releasedBy at_)
      if ¬ ends_ (ws.headD 0) then (s.setSeq v { q with cur := cur }).seqAct src record at_ ws
      else if bits (ws.headD 0) 24 8 ≠ 0x01 then s.seqTimed src record at_ ws cur none
      else
        let (s, next, _) := s.takeTile src record cur none (2 * at_) (ws.headD 0) (ws.getD 1 0) osc hi
        let s := match next, s.voiceIn src record with
          | some t, some v => s.setSeq v (v.seq.push t cur.silence)
          | _, _ => s
        s.seqTimed src record at_ ws cur next

/-- The end of a gap or a wait at a sample: insertions that are due stand before the next words (R116). -/
def State.seqGo (s : State) (v : Voice) (at_ : Nat) : State :=
  let q := v.seq
  let due := v.dueInserts at_
  s.setSeq v { q with
    phase := .running, now := at_, cur := q.cur.insert due,
    insDone := q.insDone ++ due.map fun e => (e.order, s.blockOf at_) }

/-- The sample at which a SYNC that waits is satisfied, or times out (R103), as far as samples from `lo` on are concerned. -/
def State.syncAt (s : State) (v : Voice) (lo : Nat) (timeout : Bool) : Option Nat :=
  match v.seq.phase with
  | .sync kind level n value mt since =>
    let from_ := max since lo
    if timeout then (if kind = .contact ∧ value ≠ 0 then some (since + value * s.hz / 100) else none)
    else match kind with
      | .grid => if value = 0 then none else some ((from_ + value * s.bl - 1) / (value * s.bl) * (value * s.bl))
      | .after => some (max from_ (v.startMt + value * s.hz / 100))
      | .at => some (max from_ mt)
      | .contact =>
        let times := from_ :: ((s.disp.contactLog.filter fun c => c.2.1 = n ∧ from_ < c.1).map Prod.fst).reverse
        times.find? fun t => s.syncHolds v kind level n value mt t
  | _ => none

/-- When the sequencer of a voice has its next event, in a block that begins at `lo`. -/
def State.seqDue (s : State) (v : Voice) (lo : Nat) : Option Nat :=
  match v.seq.phase with
  | .running => some v.seq.now
  | .tile _ starts ends => some (if v.seq.read.isNone then s.decisionAt starts ends else ends)
  | .gap e => some e
  | .sync .. =>
    match s.syncAt v lo false, s.syncAt v lo true with
    | some a, some b => some (min a b)
    | a, b => a.orElse fun _ => b
  | _ => none

/-- One event of a voice's sequencer before the sample `hi`: a cut, or what its phase waits for; none if there is none. A cut comes
behind what happens at the same sample, but for END. -/
def State.seqStep (s : State) (src record : Nat) (osc : Nat → Int) (lo hi : Nat) : Option State :=
  match s.voiceIn src record with
  | none => none
  | some v =>
    match s.seqDue v lo with
    | none => none
    | some t =>
      match v.cutDue.filter fun c => c.1 < t ∧ c.1 < hi with
      | some (m, e) => some (s.seqCut v m e)
      | none =>
        if hi ≤ t then none
        else some (match v.seq.phase with
          | .running => s.seqOp src record (v.seq.cur.ahead v.script) osc (2 * hi)
          | .tile .. => if v.seq.read.isNone then s.decideAt v t osc (2 * hi) else s.boundary v t
          | _ => s.seqGo v t)

/-- The sequencer of a voice up to the sample `hi`. The fuel bounds its events; one that repeats words without end in no time stays there
(DESIGN CHOICE, notes/assumptions/138.md). -/
def State.seqRun (src record : Nat) (osc : Nat → Int) (lo hi : Nat) : Nat → State → State
  | 0, s => s
  | n + 1, s => match s.seqStep src record osc lo hi with
    | none => s
    | some s => s.seqRun src record osc lo hi n

/-- A SAMPLE tile that plays follows OSC A's pitch (R59, R115): its end moves with what the block's pitch is, and with it the tile that
has been placed behind it, until that one sounds. -/
def State.reproject (s : State) (v : Voice) (osc : Nat → Int) (lo hi : Nat) : Seq :=
  let q := v.seq
  let next := q.read.bind ReadAhead.next
  match (if next.isSome then q.played.drop 1 else q.played).head?, q.phase with
  | some a, .tile ref starts _ =>
    match s.tileOf v a with
    | none => q
    | some x =>
      if x.entry.kind ≠ Tk.sample ∨ next.any (fun t => t.first < lo) ∨ a.ends ≤ lo then q
      else
        let e := s.tileEnds x a osc (max (lo - 1) a.first) hi
        let mv := fun (t : Nat) => t + e - a.ends
        let fade := fun (y : Fade) => { y with start := mv y.start }
        let a' := { a with ends := e, leave := a.leave.map fade, last := if a.last = 2 ^ 64 then a.last else mv a.last }
        let move := fun (t : TilePlay) =>
          { t with first := mv t.first, nominal := mv t.nominal, ends := mv t.ends, enter := fade t.enter }
        let l := match next with | some t => move t :: a' :: q.played.drop 2 | none => a' :: q.played.drop 1
        { q with
          phase := .tile ref starts (outSample e), played := l,
          read := q.read.map fun (r : ReadAhead) => { r with next := r.next.map move },
          hist := match next with
            | some t => q.hist.map fun (h : Nat × Cursor) => if h.1 = outSample t.first then (outSample (mv t.first), h.2) else h
            | none => q.hist }
  | _, _ => q

/-! SCRIPT mode (R59, R96). -/

/-- Enter SCRIPT mode at a sample by an edit (R96): the job's script, if its bank is resident, which the voice binds; otherwise END, and
SRC_BAD (DEDUCED, notes/assumptions/97.md). -/
def State.enterScript (s : State) (v : Voice) (mt : Nat) : Voice :=
  match s.job? v.record with
  | none => v
  | some j =>
    let d := j.descr
    match s.jobScript d with
    | some ws =>
      let bound := if d.inline ∨ v.binds d.scriptBank then v.bound else v.bound ++ [(d.scriptBank, s.imageGen d.scriptBank)]
      { v with
        script := ws, bound := bound,
        seq := { Seq.start d.scriptBank (ws.headD 0) mt true with insDone := v.seq.insDone } }
    | none => ({ v.setFlag 1 with seq := { v.seq with phase := .ended, now := mt } }).release mt

/-- The sequencer of a voice through a block, from `lo` to `hi`: where OSCA_MODE becomes SCRIPT it begins, and where it ceases to be, it
rests. -/
def State.seqBlock (s : State) (src record : Nat) (osc : Nat → Int) (lo hi : Nat) : State :=
  match s.voiceIn src record with
  | none => s
  | some v =>
    let turns := (List.range (hi - lo)).filterMap fun i =>
      if i = 0 ∨ v.scripted (lo + i) ≠ v.scripted (lo + i - 1) then some (lo + i) else none
    let s := s.setSeq v (s.reproject v osc (2 * lo) (2 * hi))
    forEach turns.zipIdx s fun x s =>
      match s.voiceIn src record with
      | none => s
      | some v =>
        let v := if v.scripted x.1 then (if v.seq.phase = .idle then s.enterScript v x.1 else v)
          else { v with seq := { v.seq with phase := .idle, played := [], read := none } }
        (s.setVoice v).seqRun src record osc lo (turns.getD (x.2 + 1) hi) 4096

/-! The rows of the sequencer. -/

/-- OSC A's pitch as it is for a row of the table. -/
def Voice.oscRow (v : Voice) : Nat → Int := fun t => pitchScale (v.smooth 0x06 (t / 2))

/-- The voice in a slot whose sequencer runs. -/
def State.seqVoice (s : State) (src : Nat) : Option Voice := (s.voice? src).filter fun v => v.sounding ∧ v.scripted v.seq.now

/-- A row of the command table for an operation: a sequencer that has reached its next word executes it (DEDUCED,
notes/assumptions/138.md). -/
def State.seqRow (s : State) (src : Nat) (ws : List W32) : State :=
  match s.seqVoice src with
  | none => s
  | some v =>
    let at_ := match v.seq.phase with
      | .running => some v.seq.now
      | .gap e => some e
      | .tile _ _ e => if v.seq.read.isNone then some e else none
      | _ => none
    match at_ with
    | none => s
    | some t => (s.setSeq v { v.seq with phase := .running, now := t }).seqOp src v.record ws v.oscRow (2 * t)

/-- TILE_DECISION_POINT. -/
def State.decideRow (s : State) (src : Nat) : State :=
  match s.seqVoice src with
  | none => s
  | some v => match v.seq.phase with
    | .tile _ starts ends => if v.seq.read.isSome then s else s.decideAt v (s.decisionAt starts ends) v.oscRow (2 * ends)
    | _ => s
def execTileDecisionPoint (src : Nat) (s : State) : Host.Outcome State Fault Refusal := .next (s.decideRow src)

/-- TILE_BOUNDARY. -/
def execTileBoundary (src : Nat) (s : State) : Host.Outcome State Fault Refusal :=
  .next (
    let s := s.decideRow src
    match s.seqVoice src with
    | none => s
    | some v => match v.seq.phase with
      | .tile _ _ ends => s.boundary v ends
      | _ => s)

/-! The operations as commands. -/

/-- END (R106). -/
def execEndOp (src : Nat) (s : State) : Host.Outcome State Fault Refusal := .next (s.seqRow src [0])

/-- TILE (R95). -/
def execTileOp (src : Nat) (trim : BitVec 8) (ref : W32) (s : State) : Host.Outcome State Fault Refusal :=
  .next (s.seqRow src [w32 (0x01000000 + trim.toNat * 65536), ref])

/-- GAP (R101). -/
def execGap (src : Nat) (dur : Fin 16777216) (s : State) : Host.Outcome State Fault Refusal :=
  .next (s.seqRow src [w32 (0x02000000 + dur)])

/-- The code of a join's TYPE (R100). -/
def JoinCode : JoinKind → Nat
  | .butt => 0 | .xfade => 1 | .psj => 2 | .gap => 3

/-- JOIN (R100). -/
def execJoinOp (src : Nat) (kind : JoinKind) (persist equalPower : Bool) (periods : Fin 4) (len : Fin 65536) (s : State) :
    Host.Outcome State Fault Refusal :=
  .next (s.seqRow src [w32 (0x03000000 + JoinCode kind * 2 ^ 20 + b2n persist * 2 ^ 19 + b2n equalPower * 2 ^ 18 +
    periods * 65536 + len)])

/-- PITCH (R99). -/
def execPitch (src : Nat) (scale : Fin 65536) (s : State) : Host.Outcome State Fault Refusal :=
  .next (s.seqRow src [w32 (0x04000000 + scale)])

/-- TEMPO (R99). -/
def execTempo (src : Nat) (scale : Fin 65536) (s : State) : Host.Outcome State Fault Refusal :=
  .next (s.seqRow src [w32 (0x05000000 + scale)])

/-- LEVEL (R99). -/
def execLevelOp (src : Nat) (code : BitVec 16) (s : State) : Host.Outcome State Fault Refusal :=
  .next (s.seqRow src [w32 (0x06000000 + code.toNat)])

/-- The code of a TONE's ACTION (R102). -/
def toneCode : ToneAction → Nat
  | .start => 0 | .release => 1 | .cut => 2

/-- TONE (R102). -/
def execTone (src : Nat) (voice : Fin 64) (action : ToneAction) (dur : Fin 65536) (s : State) :
    Host.Outcome State Fault Refusal :=
  .next (s.seqRow src [w32 (0x07000000 + voice * 2 ^ 18 + toneCode action * 65536 + dur)])

/-- The code of a SYNC's KIND (R103). -/
def syncCode : SyncKind → Nat
  | .grid => 0 | .contact => 1 | .after => 2 | .at => 3

/-- SYNC (R103). -/
def execSync (src : Nat) (kind : SyncKind) (level : Bool) (contact : Fin 16) (value : Fin 65536) (mt : W64) (s : State) :
    Host.Outcome State Fault Refusal :=
  let w := w32 (0x08000000 + syncCode kind * 2 ^ 22 + b2n level * 2 ^ 21 + contact * 65536 + value)
  .next (s.seqRow src (if kind = .at then [w, lo32 mt.toNat, hi32 mt.toNat] else [w]))

/-- SYNC_SATISFIED (R103): the condition of a SYNC that waits holds, or its timeout runs out, and the sequencer continues. -/
def execSyncSatisfied (src : Nat) (timeout : Bool) (s : State) : Host.Outcome State Fault Refusal :=
  .next (match s.voice? src with
    | none => s
    | some v => match s.syncAt v 0 timeout with
      | none => s
      | some at_ => s.seqGo v at_)

/-- LOOP (R105). -/
def execLoopOp (src : Nat) (count : Fin 256) (back : Fin 65536) (s : State) : Host.Outcome State Fault Refusal :=
  .next (s.seqRow src [w32 (0x09000000 + count * 65536 + back)])

/-- LANG (R104). -/
def execLang (src : Nat) (bank : Fin 256) (tbase : Fin 65536) (s : State) : Host.Outcome State Fault Refusal :=
  .next (s.seqRow src [w32 (0x0A000000 + bank * 65536 + tbase)])

/-! Insertion records (R117). -/

/-- An insertion record is still held: the block in which its words executed is not committed; and where they are discarded, the block
of its AT. -/
def State.insertionLive (s : State) (i : Nat × Nat × Nat × Nat) : Bool :=
  match s.disp.voices.find? fun v => v.src = i.2.1 ∧ v.edits.any fun e => e.order = i.2.2.1 with
  | none => s.commit < i.2.2.2
  | some v =>
    match v.seq.insDone.find? fun d => d.1 = i.2.2.1 with
    | some d => s.commit < d.2
    | none => v.seq.phase ≠ .ended ∨ s.commit < i.2.2.2

/-- At a block tick, insertion records are freed. -/
def State.seqTick (s : State) : State :=
  { s with disp := { s.disp with insertions := s.disp.insertions.filter s.insertionLive } }

end Sys2Proof.Machine
end

