-- ==== Sys2Proof/Machine/Synth.lean ====
section
/-! DEFINITION. The audio side of the standard voice (R48, R49, R59–R68): OSC A and B, noise, mixer, filters, AMP and decimation, and the
rendering of a block. Signals are in 2^−46; R537 leaves the arithmetic to the release (DESIGN CHOICE, notes/assumptions/194.md;
DESIGN CHOICE, notes/assumptions/202.md). -/

namespace Sys2Proof.Machine

/-! The targets of control (R72, R75), by their places. -/
namespace Tg
def oscA : Nat := 0
def frame : Nat := 1
def oscB : Nat := 2
def duty : Nat := 3
def fm : Nat := 4
def mixA : Nat := 5
def mixB : Nat := 6
def mixN : Nat := 7
def mixR : Nat := 8
def filter (k : Nat) : Nat := 9 + 2 * k
def amp : Nat := 13
def lin : Nat := 14
end Tg

/-! OSC A (R59–R62, R94). -/

/-- OSC A's own tile in SAMPLE and WAVETABLE mode: bank, number, image, and whether it plays as silence (R62, R95). -/
def State.oscTile (s : State) (v : Voice) (mode : Nat) (ref : W32) : Option (Nat × Nat × Nat × Bool × Tile) :=
  let (bank, tile) := s.resolve v none ref
  match s.tileImage v bank with
  | none => none
  | some (g, img, bad) =>
    if tile < nTiles img ∧ (tileEntry img tile).kind = (if mode = 2 then Tk.sample else Tk.wavetable) then
      some (bank, tile, g, bad.contains tile, tileIn img tile)
    else none

/-- The reference that OSC A reads. -/
def Voice.oscRef (v : Voice) (t : Nat) : Nat := v.param 0x02 t + v.param 0x03 t * 65536

/-- Where reading in SAMPLE mode starts with an OSCA_START, and where it ends (R60, R94). -/
def Tile.from_ (x : Tile) (full : Bool) (start : Nat) : Nat := ((if full then 0 else x.entry.head) + 64 * start) * 2 ^ 32
def Tile.until_ (x : Tile) (full : Bool) : Nat := (if full then x.entry.nsamp else x.entry.head + x.entry.nominal) * 2 ^ 32

/-- OSC A takes its mode and its source at a sample (R60–R62, R125): reading restarts where either has changed, and begins where a source
that was missing is there. Of a voice that does not read, a read position above 0 says that its one-shot has ended. -/
def State.takeSource (s : State) (src record t : Nat) : State :=
  match s.voiceIn src record with
  | none => s
  | some v =>
    let y := v.synth
    let mode := v.param 0x04 t
    let ref := v.oscRef t
    let same : Bool := t ≠ v.startMt ∧ mode = y.mode ∧ ref = y.src
    if same ∧ (y.reading ∨ y.pos ≠ 0) then s
    else
      let y := { y with mode := mode, src := ref, began := 2 * t, reading := false, pos := if mode = 3 ∧ v.synth.mode = 3 then y.pos else 0 }
      if mode ≠ 2 ∧ mode ≠ 3 then s.setVoice { v with synth := y }
      else match s.oscTile v mode (w32 ref) with
        | none => s.setVoice { v.setFlag 1 with synth := y }
        | some (bank, tile, gen, _, x) =>
          let s := s.beforeTile bank gen tile
          let bad : Bool := (s.tileImage v bank).any fun i => i.2.2.contains tile
          let v := if bad then v.setFlag 1 else v
          let y := if mode = 2 then { y with reading := true, pos := x.from_ (bit (w32 ref) 1) (v.param 0x07 t) }
            else { y with reading := true }
          s.setVoice { v with toVoiceDyn := { v.toVoiceDyn.bind bank gen with synth := y } }

/-- What an oscillator gives at an internal sample: its signal, whether it is a sync event, what was clamped or limited, and the end of a
one-shot. -/
structure OscOut where
  x : Int
  sync : Bool
  clamped : Bool
  limited : Bool
  ended : Bool
  deriving DecidableEq, Repr

def OscOut.zero : OscOut := ⟨0, false, false, false, false⟩

/-- The fade of a tile of OSC A's that an error has stopped since it began to read it (R130). -/
def State.stopGain (s : State) (v : Voice) (x : Nat) : Int :=
  match v.sorted.find? fun e => decide (v.synth.began ≤ 2 * e.mt ∧ 2 * e.mt ≤ x) && (match e.kind with
    | .tileStop b n => decide ((b, n) = s.resolve v none (w32 v.synth.src))
    | _ => false) with
  | some e => Fade.fall ⟨.linear, 2 * e.mt, s.ms2 2⟩ x
  | none => q23

/-- SAMPLE mode at an internal sample (R60). -/
def State.oscSample (s : State) (v : Voice) (x : Tile) (bad : Bool) (pitch : Int) (at_ : Nat) : Voice × OscOut :=
  let y := v.synth
  let t := at_ / 2
  let raw := quant 40 ((tileHz x.entry.rate : Nat) * 2 ^ 32 * pitchScale pitch) (s.hz2 * Fx.unit)
  let step := (clampI (2 ^ 16) (2 ^ 34) raw).toNat
  let full := bit (w32 y.src) 1
  let stop := x.until_ full
  let start := x.from_ full (v.param 0x07 t)
  let begins : Bool := at_ = y.began
  let pos := if begins then y.pos else y.pos + step
  let over_ : Bool := stop ≤ pos
  let loops : Bool := v.param 0x05 t = 1 ∧ start < stop ∧ ¬ begins
  let pos' := if over_ ∧ loops then start + (pos - stop) % (stop - start) else pos
  if over_ ∧ ¬ loops then ({ v with synth := { y with reading := false, pos := max 1 pos } }, { OscOut.zero with ended := true })
  else
    let (z, lim) := x.read pos'
    let z := if bad then 0 else timesQ 41 (z * q23) (s.stopGain v at_)
    ({ v with synth := { y with pos := pos' } }, ⟨z, x.passes (begins ∨ over_) y.pos pos', decide ((step : Int) ≠ raw), lim, false⟩)

/-- The frequency of a pitch, in 2^−60 Hz, clamped to 1 Hz to 20 kHz (R61, R63). -/
def oscHz (p : Int) : Int := clampI Fx.unit (20000 * Fx.unit) (440 * pitchScale p)

/-- A sample of one frame and level of a wavetable at a position in 2^−32 of its 2,048 samples (R61, R92). It is read through the
interpolator of R60 round the cycle (DESIGN CHOICE, notes/assumptions/202.md). -/
def Tile.frameAt (x : Tile) (frame level : Nat) (pos : Nat) : Int × Bool :=
  interpAt (fun i => tileSample x.img x.entry (((frame * 11 + level) * 2048 : Nat) + i % 2048)) pos

/-- The bandwidth level of a frequency: the lowest whose harmonics lie below 20 kHz, or 10 (R61). -/
def bandLevel (f : Int) : Nat := ((List.range 11).find? fun m => f * 1024 ≤ 20000 * Fx.unit * 2 ^ m).getD 10

/-- WAVETABLE mode at an internal sample (R61). -/
def State.oscTable (s : State) (v : Voice) (x : Tile) (bad : Bool) (pitch frame : Int) (at_ : Nat) : Voice × OscOut :=
  let y := v.synth
  let f := oscHz pitch
  let inc := (quant 42 (2048 * f * 2 ^ 32) (s.hz2 * Fx.unit)).toNat
  let cycle := 2048 * 2 ^ 32
  let raw := if at_ = y.began then y.pos else y.pos + inc
  let pos := raw % cycle
  let m := bandLevel f
  let p := clampI 0 ((x.entry.head - 1 : Nat) * 2 ^ 24) frame
  let k := (p / 2 ^ 24).toNat
  let a := x.frameAt k m pos
  let b := if v.param 0x09 (at_ / 2) = 1 ∧ p % 2 ^ 24 ≠ 0 then x.frameAt (k + 1) m pos else a
  let z := a.1 * q23 + quant 43 ((b.1 - a.1) * q23 * (p % 2 ^ 24)) (2 ^ 24)
  let z := if bad then 0 else timesQ 44 z (s.stopGain v at_)
  ({ v with synth := { y with pos := pos } }, ⟨z, decide (cycle ≤ raw), false, a.2 || b.2, false⟩)

/-- SCRIPT mode at an internal sample: the tiles that sound (R59, R94–R115). -/
def State.oscScript (s : State) (v : Voice) (pitch : Int) (at_ : Nat) : Voice × OscOut :=
  let l := v.seq.played.map fun t =>
    if t.soundsAt at_ then let r := s.tileStep v t (pitchScale pitch) at_; (r.1, some r.2) else (t, none)
  let outs := l.filterMap Prod.snd
  ({ v with seq := { v.seq with played := l.map Prod.fst } },
    ⟨(outs.map TileOut.x).sum, outs.any TileOut.sync, outs.any TileOut.clamped, outs.any TileOut.limited, false⟩)

/-- OSC A at an internal sample, `tile` being its own tile with whether that plays as silence. -/
def State.oscA (s : State) (v : Voice) (tile : Option (Bool × Tile)) (c : Control) (x : Nat) : Voice × OscOut :=
  let p := v.ctl c Tg.oscA x
  match v.synth.mode, tile with
  | 1, _ => s.oscScript v p x
  | 2, some (bad, y) => if v.synth.reading then s.oscSample v y bad p x else (v, OscOut.zero)
  | 3, some (bad, y) => if v.synth.reading then s.oscTable v y bad p (v.ctl c Tg.frame x) x else (v, OscOut.zero)
  | _, _ => (v, OscOut.zero)

/-! OSC B and noise (R63, R64). -/

/-- The plain wave of OSC B at a phase, in 2^−46 (PRESUMED, notes/assumptions/202.md). -/
def waveAt (wave : Nat) (p duty : Int) : Int :=
  match wave with
  | 1 => (p - 2 ^ 47) / 2
  | 2 => if p < duty * 65536 then 2 ^ 46 else -2 ^ 46
  | 3 => if p < 2 ^ 47 then p - 2 ^ 46 else 3 * 2 ^ 46 - p
  | 4 => quant 45 (Fx.sinTurn p.toNat (2 ^ 48)) (2 ^ 14)
  | _ => 0

/-- OSC B at an internal sample: hard sync, and linear FM through zero by OSC A's output. -/
def State.oscB (s : State) (v : Voice) (c : Control) (a : OscOut) (x : Nat) : Voice × Int :=
  let t := x / 2
  let inc := quant 46 (oscHz (v.ctl c Tg.oscB x) * cycle) (s.hz2 * Fx.unit)
  let inc := inc + quant 47 (inc * v.ctl c Tg.fm x * a.x) (4096 * 65536 * 2 ^ 46)
  let first : Bool := x = 2 * v.startMt
  let p : Int := if first ∨ (a.sync ∧ v.param 0x01 t / 2 % 2 = 1) then 0 else (v.synth.phaseB + inc) % cycle
  let wave := v.param 0x10 t
  let duty := v.ctl c Tg.duty x
  let corr := if 1 ≤ wave ∧ wave ≤ 3 then Config.oscResidual wave p inc duty else 0
  ({ v with synth := { v.synth with phaseB := p.toNat } }, waveAt wave p duty + corr)

/-- Noise at an internal sample: uniform in −1 to 1, which is −4.77 dBFS; it runs only where it is heard. -/
def Voice.noise (v : Voice) (x : Nat) : Voice × Int :=
  let t := x / 2
  if ¬ v.noiseRuns t then (v, 0)
  else
    let w := randomOf v.synth.noise * q23
    let y := { v.synth with noise := Config.randomNext v.synth.noise }
    if v.param 0x14 t = 0 then ({ v with synth := y }, w)
    else
      let (k, z) := Config.pinkFilter y.pink w
      ({ v with synth := { y with pink := k } }, z)

/-! Mixer, filters and AMP (R65–R68). -/

/-- A level target as a gain. -/
def Voice.gainOf (v : Voice) (c : Control) (i x : Nat) : Int := levelGain (100 + i) (v.ctl c i x)

/-- The mixer (R65). -/
def Voice.mixer (v : Voice) (c : Control) (x : Nat) (a b n : Int) : Int :=
  timesQ 48 a (v.gainOf c Tg.mixA x) + timesQ 49 b (v.gainOf c Tg.mixB x) + timesQ 50 n (v.gainOf c Tg.mixN x) +
    timesQ 51 (quant 52 (a * b) (2 ^ 46)) (v.gainOf c Tg.mixR x)

/-- Q of a resonance code in 2^−16, and the level of a filter that oscillates by itself, from −30 to −6 dBFS over the last codes (R66). -/
def resoQ (code : Int) : Int := Fx.exp (2 * Fx.ln10 * code / (57344 * 65536)) / 2
def resoLevel (code : Int) : Int :=
  if code < 57344 * 65536 then 0 else Fx.gain (-30 * 8191 * 65536 + 24 * (code - 57344 * 65536)) (8191 * 65536)

/-- The sections of a filter in cascade. -/
def svfRun (mode : Nat) (g q level : Int) : Nat → List (List Int) → Int → List (List Int) × Int
  | 0, _, x => ([], x)
  | n + 1, l, x =>
    let (k, y) := Config.svf mode g q level (l.headD []) x
    let (ks, z) := svfRun mode g q level n l.tail y
    (k :: ks, z)

/-- Filter k (0 FILT1, 1 FILT2) at an internal sample. -/
def State.filterAt (s : State) (v : Voice) (c : Control) (k x : Nat) (st : List (List Int)) (inp : Int) : List (List Int) × Int :=
  let t := x / 2
  let mode := v.param (0x20 + 8 * k) t
  if mode = 0 then (st, inp)
  else
    let g := Fx.pow2 (v.ctl c (Tg.filter k) x) (3072 * 65536) * 20 / s.hz2
    let r := v.ctl c (Tg.filter k + 1) x
    svfRun mode g (resoQ r) (resoLevel r) (1 + v.param (0x21 + 8 * k) t) st inp

/-- Both filters, in series or in parallel, where each output is at −6.02 dB (R66). -/
def State.filters (s : State) (v : Voice) (c : Control) (x : Nat) (inp : Int) : Voice × Int :=
  let y := v.synth
  let (k1, a) := s.filterAt v c 0 x y.f1 inp
  let par : Bool := v.param 0x01 (x / 2) % 2 = 1
  let (k2, b) := s.filterAt v c 1 x y.f2 (if par then inp else a)
  ({ v with synth := { y with f1 := k1, f2 := k2 } }, if par then quant 53 (a + b) 2 else b)

/-- A linear fade to 0 over one block length from a sample. -/
def State.fadeFrom (s : State) (place : Nat) (r x : Nat) : Int :=
  if x < 2 * r then q23 else quant place (q23 * (2 * s.bl - (x - 2 * r) : Nat)) (2 * s.bl : Nat)

/-- AMP (R67, R68, R102): level, envelope and AMP_LIN; with no envelope, release fades it out, and a cut does so in any case. -/
def State.ampAt (s : State) (v : Voice) (c : Control) (x : Nat) (inp : Int) : Int :=
  let env := match v.param 0x31 (x / 2) with
    | 0 => match v.releaseAt with | some r => s.fadeFrom 54 r x | none => q23
    | n + 1 => onPath (90 + n) (c.envs.getD n []) x
  let cut := match v.cutAt with | some r => s.fadeFrom 55 r x | none => q23
  let y := timesQ 56 (timesQ 57 inp (v.gainOf c Tg.amp x)) env
  timesQ 58 (quant 59 (y * v.ctl c Tg.lin x) (2 ^ 32)) cut

/-! Decimation and the store (R48, R49). -/

/-- Coefficients meet the limits of R49 at an internal rate, at every whole number of Hz: the ripple of the passband, and the attenuation
above it. -/
def decimates (h : List Int) (rate : Nat) : Bool :=
  let k := if rate % 88200 = 0 then 44100 else 48000
  let pass := if k = 48000 then 18240 else 16758
  let stop := if k = 48000 then 19500 else 17916
  h = h.reverse ∧
  ((List.range (pass + 1)).all fun f => f < 20 ∨
    ((firGain h rate f).natAbs * 1000000 ≤ 2 ^ 23 * 1005773 ∧ 2 ^ 23 * 994260 ≤ (firGain h rate f).natAbs * 1000000)) ∧
  (List.range (rate / 2 + 1)).all fun f => f < stop ∨ (firGain h rate f).natAbs * 1000 ≤ 2 ^ 23

/-- A filter that meets them: a sinc between the two edges under a Kaiser window (DESIGN CHOICE, notes/assumptions/203.md). -/
def kaiser (rate : Nat) : List Int :=
  let mid := if rate % 88200 = 0 then 17337 else 18870
  let n := 300 * (rate / (if rate % 88200 = 0 then 88200 else 96000))
  (List.range (2 * n + 1)).map fun k =>
    let d : Int := (k : Int) - n
    let w := Fx.div (Fx.i0 (6 * Fx.sqrt (Fx.unit - Fx.ratio (d * d) (n * n : Nat)))) (Fx.i0 (6 * Fx.unit))
    nearest (2 * mid * Fx.mul (Fx.sinc (Fx.ratio (2 * mid * d) rate)) w * 2 ^ 23) (rate * Fx.unit)

/-- The decimation filter: the release's, which meets R49 (DESIGN CHOICE, notes/assumptions/203.md). -/
def decimTaps (rate : Nat) : List Int :=
  let h := Config.decimation rate
  if decimates h rate then h else kaiser rate

/-- An output sample: two internal ones go through the decimation filter, the dips of discrete edits act on it, and the store limits it;
with whether it did (R48, R65, R81). -/
def State.storeSample (s : State) (v : Voice) (t : Nat) (x0 x1 : Int) : Voice × Sample × Bool :=
  let h := decimTaps s.hz2
  let l := (x1 :: x0 :: v.synth.decIn).take h.length
  let y := quant 60 ((h.zip l).map fun p => p.1 * p.2).sum (2 ^ 23)
  let z := roundEven 23 (timesQ 61 y (v.dipAt t))
  ({ v with synth := { v.synth with decIn := l } }, sOf (sat24 z), decide (sat24 z ≠ z))

/-! A block (R48–R68). -/

/-- What the rendering of a block gives: its samples, newest first, whether a stage of it clipped, and the release that the end of a
one-shot begins. -/
structure Rendered where
  out : List Sample
  clip : Bool
  ended : Option Nat
  deriving DecidableEq, Repr

/-- One internal sample of a voice, up to AMP; with what clipped and what ended. -/
def State.innerSample (s : State) (v : Voice) (tile : Option (Bool × Tile)) (c : Control) (x : Nat) : Voice × Int × OscOut :=
  let (v, a) := s.oscA v tile c x
  let (v, b) := s.oscB v c a x
  let (v, n) := v.noise x
  let (v, y) := s.filters v c x (v.mixer c x a.x b n)
  (if a.clamped then v.setFlag 0 else v, s.ampAt v c x y, a)

/-- One output sample of a voice. -/
def State.outerSample (s : State) (tile : Option (Bool × Tile)) (c : Control) (acc : Voice × Rendered) (t : Nat) : Voice × Rendered :=
  let (v, r) := acc
  let (v, x0, a0) := s.innerSample v tile c (2 * t)
  let (v, x1, a1) := s.innerSample v tile c (2 * t + 1)
  let (v, y, lim) := s.storeSample v t x0 x1
  let ended := if a0.ended then some t else if a1.ended then some (t + 1) else none
  (v, ⟨y :: r.out, r.clip || lim || a0.limited || a1.limited, r.ended.orElse fun _ => ended⟩)

/-- The samples of a stretch of a block in which OSC A's mode and source stay. -/
def State.stretch (s : State) (src record : Nat) (c : Control) (lo hi : Nat) (r : Rendered) : State × Rendered :=
  let s := s.takeSource src record lo
  match s.voiceIn src record with
  | none => (s, r)
  | some v =>
    let tile := (s.oscTile v v.synth.mode (w32 v.synth.src)).map fun x => (x.2.2.2.1, x.2.2.2.2)
    let (v, r) := ((List.range (hi - lo)).map (lo + ·)).foldl (s.outerSample tile c) (v, r)
    (s.setVoice v, r)

/-- One pass over a block of a voice from its first sample in it: control, sequencer, samples. -/
def State.passBlock (s : State) (v : Voice) (b : Nat) : State × Rendered :=
  let lo := max (s.startOf b) v.startMt
  let hi := s.startOf (b + 1)
  let (w, c) := s.control v b
  let s := (s.setVoice w).seqBlock v.src v.record (fun x => pitchScale (w.ctl c Tg.oscA x)) lo hi
  let turns := (List.range (hi - lo)).filterMap fun i =>
    let t := lo + i
    if i = 0 ∨ v.param 0x04 t ≠ v.param 0x04 (t - 1) ∨ v.oscRef t ≠ v.oscRef (t - 1) then some t else none
  turns.zipIdx.foldl (fun (a : State × Rendered) x => a.1.stretch v.src v.record c x.1 (turns.getD (x.2 + 1) hi) a.2)
    (s, ⟨[], false, none⟩)

/-- Render a block of a voice: a pass that finds a release within the block, by END or by the end of a one-shot, is made again with that
release (R60, R68, R106). -/
def State.passes (s : State) (v : Voice) (b : Nat) : Nat → State × Rendered
  | 0 => s.passBlock v b
  | n + 1 =>
    let (s', r) := s.passBlock v b
    match s'.voiceIn v.src v.record with
    | none => (s', r)
    | some w =>
      let w := match r.ended with | some t => w.release t | none => w
      if w.releaseAt = v.releaseAt then (s', r)
      else if w.releaseAt.all fun t => s.startOf (b + 1) ≤ t then (s'.setVoice w, r)
      else s.passes { v with releaseAt := w.releaseAt } b n

/-- The voice ends with a block (R68, R102). -/
def State.endsIn (s : State) (v : Voice) (b : Nat) : Bool :=
  s.silentIn v b || v.cutAt.any fun m => m + s.bl < s.startOf (b + 1)

/-- Render block b of a voice of the standard kernel (R156–R165): its checkpoint, its samples, its levels, and its end. A silent block
leaves nothing but the voice's own state; another is staged, and what voice 0 does reaches its companions (R102, R138). -/
def State.renderBlock (s : State) (v : Voice) : State :=
  let b := v.next
  let v := if s.ckptDue v b then v.checkpoint b [] else v
  let silent : Bool := v.redo.any fun r => b < r
  let v0 := v.endsBy (s.startOf (b + 1))
  let (s', r) := (s.setVoice v0).passes v0 b 3
  match s'.voiceIn v.src v.record with
  | none => s
  | some w =>
    let lead := List.replicate (s.bl - r.out.length) (0 : Sample)
    let xs := lead ++ r.out.reverse
    let w := { w with level := rmsOf xs, endBlock := if s.endsIn w b then some b else w.endBlock }
    let w := if r.clip then w.setFlag 2 else w
    let (w, differs) := s.stage w ⟨b, true, xs, s.voiceCycles w b, r.clip⟩
    let w := s.reachedBlock w b
    let w := if w.companion ∧ w.endBlock = some b then
        { w.hush with lives := match w.lives with | (f, _) :: l => (f, some b) :: l | [] => [] }
      else w
    let s := (if silent then s else s').setVoice w
    let s := if differs then s.mismatch v.src else s
    if silent then s else s.followEnd w

end Sys2Proof.Machine
end

