-- ==== Sys2Proof/Machine/VoiceCmd.lean ====
section
/-! DEFINITION. The VOICE commands (R78–R87, R309). -/

namespace Sys2Proof.Machine

/-- The voice that words 0 and 1 of a VOICE command name: the slot holds a voice of the job (R79). -/
def State.named (s : State) (k : Kcp) : Option (Job × Voice) :=
  match s.jobOf (k.w 0) with
  | none => none
  | some j => (s.voiceOf (k.f 1 0 16) j).map fun v => (j, v)

/-- The voice handle in word 1 names a logical brick of the variant (R6). -/
def brickFld (k : Kcp) (s : State) : Bool × Nat := fld 1 0 (k.f 1 7 6 < s.variant.bricks)

/-- STATE where the slot holds no voice of the job (R79). -/
def unnamed (k : Kcp) (s : State) : Option Nat := if (s.named k).isNone then some St.state else none

/-- An edit record of VOICE.SET_PARAM is well formed for the voice it names (R58, R80, R249). -/
def State.recordOk (s : State) (k : Kcp) (r : W32) : Bool :=
  let id := bits r 24 8
  bits r 16 8 = 0 ∧
    if (s.named k).any fun x => x.2.custom then 1 ≤ id ∧ id < 0x80 else paramOk id (bits r 0 16)

/-- The value that an edit stores: clamped to its range for a standard voice, unchanged for a customer kernel (R58, R249). The period of
an LFO, which two halfwords make up, is clamped where it is read. -/
def Voice.stored (v : Voice) (id x : Nat) : BitVec 16 := BitVec.ofNat 16 (if v.custom then x else paramClamp id x)

/-- VOICE.SET_PARAM (R78, R81). -/
def cmdVoiceSetParam : Cmd where
  opcode := 0x0301
  at_ := .content
  idle := false
  arg := fun k s =>
    let n := k.f 1 24 8
    firstBad ([(decide (3 ≤ k.words), hdrOff), resv k 1 0xFF00FFFF, brickFld k s, fld 1 24 (1 ≤ n ∧ n ≤ 254), lenIs k (2 + n)] ++
      (List.range n).map fun i => fld (2 + i) 0 (s.recordOk k (k.w (2 + i))))
  refuse := unnamed
  act := fun k mt s => match s.named k with
    | none => ans s
    | some (_, v) => ans (forEach (k.payload.drop 2) s fun r s =>
        s.editVoice v.src v.record mt (.param (bits r 24 8) (v.stored (bits r 24 8) (bits r 0 16))))
def execVoiceSetParam (k : Kcp) (s : State) : Host.Outcome State Fault Refusal := .next (kcpExec cmdVoiceSetParam k s)

/-- Halfwords in pairs, the even one in the low half. -/
def pairWords : List (BitVec 16) → List W32
  | a :: b :: l => (b ++ a) :: pairWords l
  | [a] => [a.setWidth 32]
  | [] => []

/-- VOICE.GET_PARAMS (R78). -/
def cmdVoiceGetParams : Cmd where
  opcode := 0x0302
  idle := false
  reads := true
  arg := fun k s => firstBad [lenIs k 2, resv k 1 0xFFFF, brickFld k s]
  refuse := unnamed
  act := fun k _ s => match s.named k with
    | none => ans s
    | some (_, v) =>
      let l := v.paramsAt s.soonest
      ans s (pairWords (if v.custom then l else mtpIn s.rate l))
def execVoiceGetParams (k : Kcp) (s : State) : Host.Outcome State Fault Refusal := .next (kcpExec cmdVoiceGetParams k s)

/-- VOICE.RELEASE. -/
def cmdVoiceRelease : Cmd where
  opcode := 0x0303
  at_ := .content
  idle := false
  arg := fun k s => firstBad [lenIs k 2, resv k 1 0xFFFF, brickFld k s]
  refuse := unnamed
  act := fun k mt s => match s.named k with
    | none => ans s
    | some (_, v) => ans (s.editVoice v.src v.record mt .release)
def execVoiceRelease (k : Kcp) (s : State) : Host.Outcome State Fault Refusal := .next (kcpExec cmdVoiceRelease k s)

/-- VOICE.STOP takes effect (R18, R79): a voice that has ended meanwhile is left. -/
def State.atVoiceStop (s : State) (mt : Nat) (p : List W32) : State :=
  match s.jobOf (p.headD 0) with
  | none => s
  | some j => match s.voiceOf (bits (p.getD 1 0) 0 16) j with
    | none => s
    | some v => s.stopVoice v mt 0

/-- VOICE.STOP (DEDUCED, notes/assumptions/143.md). -/
def cmdVoiceStop : Cmd where
  opcode := 0x0304
  at_ := .routing
  idle := false
  arg := fun k s => firstBad [lenIs k 2, resv k 1 0xFFFF, brickFld k s]
  refuse := unnamed
def execVoiceStop (k : Kcp) (s : State) : Host.Outcome State Fault Refusal := .next (kcpExec cmdVoiceStop k s)

/-- A level as its signed 16-bit code. -/
def levelCode (x : Int) : Nat := unsigned 16 x

/-- A sticky flag of R87. -/
def Voice.flag (v : Voice) (i : Nat) : Bool := v.flags.getLsbD i

/-- The level record of a slot (R86). A slot is ACTIVE as soon as a voice is bound to it, and from then on shows that voice; RELEASED is
judged at the last sample committed (DESIGN CHOICE, notes/assumptions/204.md). -/
def State.levelRecord (s : State) (src : Nat) : List W32 :=
  match s.voice? src with
  | none => [w32 (levelCode (-15360) * 65536 + levelCode (-15360)), w32 (levelCode (-15360))]
  | some v =>
    [w32 (levelCode v.rms * 65536 + levelCode v.peak),
      w32 ((1 + b2n (v.flag 5) * 2 + b2n v.clipNow * 4) * 65536 + levelCode v.rms16)]

/-- VOICE.GET_LEVELS. -/
def cmdVoiceGetLevels : Cmd where
  opcode := 0x0305
  reads := true
  arg := fun k s => firstBad [lenIs k 1, fld 0 0 (k.f 0 0 6 < s.variant.bricks), resv k 0 0x3F]
  act := fun k _ s => { state := s, payload := (List.range 128).flatMap fun i => s.levelRecord (k.n 0 * 128 + i),
                        mt := some (s.startOf s.commit) }
def execVoiceGetLevels (k : Kcp) (s : State) : Host.Outcome State Fault Refusal := .next (kcpExec cmdVoiceGetLevels k s)

/-- VOICE.GET_STATUS (R87): the voice is RELEASING from the commit of the sample at which its release starts (DESIGN CHOICE,
notes/assumptions/204.md). -/
def cmdVoiceGetStatus : Cmd where
  opcode := 0x0306
  reads := true
  arg := fun k s => firstBad [lenIs k 2, resv k 1 0xFFFF, brickFld k s]
  refuse := unnamed
  act := fun k _ s => match s.named k with
    | none => ans s
    | some (j, v) =>
      ans s [w32 ((if v.flag 5 then 2 else 1) * 256 + v.flags.toNat), j.handle, v.preset, w32 v.cls]
def execVoiceGetStatus (k : Kcp) (s : State) : Host.Outcome State Fault Refusal := .next (kcpExec cmdVoiceGetStatus k s)

end Sys2Proof.Machine
end

