-- ==== Sys2Proof/Machine/JobCmd.lean ====
section
/-! DEFINITION. The JOB commands (R133–R155, R311, R312, R343): submission, aborts and releases, reports, script edits, Squall and
trigger slots, and a job whose wait runs out. -/

namespace Sys2Proof.Machine

/-! Site jobs (R343). -/

/-- Courses whose local groups carry a site name, by what this device knows of the map and by its own groups. -/
def State.siteCourses (s : State) (site : Nat) : List Nat :=
  (List.range 8).filter fun c =>
    if c = s.courseNo then (List.range 64).any fun g => (s.group g).site = site
    else ((kget s.course.siteNames site).getD []).getD c 0xFF ≠ 0xFF

/-- The lowest local group that carries a site name. -/
def State.siteGroup (s : State) (site : Nat) : Option Nat := (List.range 64).find? fun g => (s.group g).site = site

/-- Insert this course's part of a site job, or report NO_RECORD. -/
def State.siteInsert (s : State) (h : W32) (block site : Nat) (d : Descr) : State :=
  match s.siteGroup site with
  | none => s
  | some g =>
    match s.freeRecord false with
    | none =>
      if s.isKeystone then s.partDone h s.courseNo 0x0B none else s.courseSend 0xA [h, w32 s.courseNo, 0x0B]
    | some r => s.insertJob r { d with group := g } (s.startOf block) block false (some h)

/-- This course's part of the keystone's job (R343). -/
def State.sitePart (s : State) (h : W32) : Option Job := s.disp.jobs.find? fun j => j.siteHandle = some h ∧ ¬ j.reported

/-- The keystone's own record of a site job. -/
def Job.isMaster (j : Job) : Bool := j.siteParts ≠ []

/-! Submission (R133, R153). -/

/-- The descriptor's start block and the limits that a submission meets (R153). -/
def State.submitFull (s : State) (k : Kcp) : Bool :=
  let d := descrOf k.payload
  let b := s.blockOf (if d.site then s.siteMt (s.applyAt k.time.toNat) else s.applyAt k.time.toNat)
  (s.freeRecord false).isNone ∨
    if s.front + 1 < b then 8192 ≤ s.delayUsed else 1024 ≤ (s.readyOf d.cls).length

/-- JOB.SUBMIT (DEDUCED, notes/assumptions/146.md). -/
def cmdJobSubmit : Cmd where
  opcode := 0x0401
  kind := .job
  at_ := .start
  idle := false
  absent := fun k s => ¬ s.variant.hasCourse ∧ k.bit 0 19
  arg := fun k s => s.descrBad k.payload 0 k.words false
  refuse := fun k s => if (descrOf k.payload).site ∧ ¬ s.isKeystone then some St.state else none
  busy := fun k s => s.submitFull k
  refused := fun _ st s => if st = St.busy ∧ (s.freeRecord false).isNone then s.set F.DISP_STATUS_RECORDS_FULL else s
  act := fun k mt s => match s.freeRecord false with
    | none => ans s
    | some r =>
      let d := descrOf k.payload
      let h := w32 (s.genOf r * 65536 + r)
      let want := if k.time = 0 then s.blockOf mt else s.blockOf k.time.toNat
      if ¬ d.site then ans (s.insertJob r d mt want false none) [h]
      else
        let b := max want (s.commit + 2 + s.pOff)
        let site := (s.group d.group).site
        let parts := s.siteCourses site
        let j : Job := {
          record := r, gen := s.genOf r, state := .running, descr := d, startAt := s.startOf b, sortAt := s.startOf b, wantBlock := want,
          order := s.order, readyAt := s.commit, hardware := false, skipped := false, voices := [], slip := b - want, late := 0,
          firstMt := none, reason := 0, tapsFullPosted := false, started := false, reported := false, siteHandle := none,
          siteParts := parts, releaseAt := none }
        let s := s.setJob j
        let s := if s.cascade then s.courseSend 0x5 ([h, w32 b, w32 site] ++ k.payload) else s
        let s := s.siteInsert h b site d
        let s := if parts = [] then s.finishOwn j .done 0 s.time.mt else s
        { state := s, payload := [h], mt := some (s.startOf b),
          status := if k.time ≠ 0 ∧ b ≠ want then some St.late else none }
def execJobSubmit (k : Kcp) (s : State) : Host.Outcome State Fault Refusal := .next (kcpExec cmdJobSubmit k s)

/-! Aborts and releases (R137, R154). -/

/-- STATE where the handle names no job, or one that has ended. -/
def noJob (k : Kcp) (s : State) : Option Nat :=
  match s.jobOf (k.w 0) with
  | none => some St.state
  | some j => if j.reported then some St.state else none

/-- JOB.ABORT takes effect on a placed job, or on the local part of a site job. -/
def State.atJobAbort (s : State) (mt : Nat) (p : List W32) : State :=
  match s.jobOf (p.headD 0) with
  | none => s
  | some j =>
    if j.isMaster then (match s.sitePart j.handle with
      | some x => s.stopJob x mt 2
      | none => s)
    else if j.reported then s else s.stopJob j mt 2

/-- JOB.ABORT: a job that is not placed ends at once. -/
def cmdJobAbort : Cmd where
  opcode := 0x0402
  at_ := .routing
  idle := false
  denied := fun k s => (s.jobOf (k.w 0)).any fun j => j.descr.cls = 0 ∧ k.chan.val ≠ 0 ∧ k.chan.val ≠ 5
  arg := fun k _ => firstBad [lenIs k 1]
  refuse := noJob
  act := fun k mt s => match s.jobOf (k.w 0) with
    | none => ans s
    | some j =>
      if j.isMaster then
        let mt := s.siteMt mt
        { state := if s.cascade then s.courseSend 0x6 [k.w 0, 0, lo32 mt, hi32 mt] else s, mt := some mt }
      else if j.state = .pending ∨ j.state = .ready then ans (s.finish j .aborted 2 s.time.mt)
      else ans s
def execJobAbort (k : Kcp) (s : State) : Host.Outcome State Fault Refusal := .next (kcpExec cmdJobAbort k s)

/-- Release every voice of a job at a media time (R68, R154); of a job that is not placed, when it starts. -/
def State.releaseJob (s : State) (j : Job) (mt : Nat) : State :=
  match j.state with
  | .running | .releasing =>
    forEach (s.voicesOf j.record) s fun v s => s.editVoice v.src j.record mt .release
  | .pending | .ready | .allocating =>
    s.setJob { j with releaseAt := some (match j.releaseAt with | some r => min r mt | none => mt) }
  | _ => s

/-- JOB.RELEASE (DEDUCED, notes/assumptions/144.md). -/
def cmdJobRelease : Cmd where
  opcode := 0x0403
  at_ := .content
  idle := false
  arg := fun k _ => firstBad [lenIs k 1]
  refuse := noJob
  act := fun k mt s => match s.jobOf (k.w 0) with
    | none => ans s
    | some j =>
      if j.isMaster then
        let mt := s.siteMt mt
        let s := if s.cascade then s.courseSend 0x6 [k.w 0, 1, lo32 mt, hi32 mt] else s
        { state := match s.sitePart j.handle with | some x => s.releaseJob x mt | none => s, mt := some mt }
      else ans (s.releaseJob j mt)
def execJobRelease (k : Kcp) (s : State) : Host.Outcome State Fault Refusal := .next (kcpExec cmdJobRelease k s)

/-- MAX_WAIT_EXPIRY (R137): a job that has waited MAX_WAIT blocks in READY ends TIMEOUT. -/
def execMaxWaitExpiry (record : Nat) (s : State) : Host.Outcome State Fault Refusal :=
  .next (match s.job? record with
    | none => s
    | some j =>
      if s.running ∧ j.state = .ready ∧ j.descr.maxWait ≠ 0 ∧ j.readyAt + j.descr.maxWait ≤ s.commit then
        s.finish j .aborted 4 s.time.mt
      else s)

/-! Reports. -/

/-- The value of a job state (R533). -/
def JobState.code : JobState → Nat
  | .free => 0 | .pending => 1 | .ready => 2 | .allocating => 3 | .running => 4 | .releasing => 5 | .done => 6 | .aborted => 7
  | .stolen => 8

/-- The voice handles of a job in 32 words, 0xFFFF for a voice that is not placed. -/
def State.handleWords (s : State) (j : Job) : List W32 :=
  (List.range 32).map fun i =>
    let h := fun n => match j.voices[n]? with | some src => s.handleOf src % 65536 | none => 0xFFFF
    w32 (h (2 * i + 1) * 65536 + h (2 * i))

/-- JOB.GET_STATUS. -/
def cmdJobGetStatus : Cmd where
  opcode := 0x0404
  fault := true
  reads := true
  arg := fun k _ => firstBad [lenIs k 1]
  refuse := fun k s => if (s.jobOf (k.w 0)).isNone then some St.state else none
  act := fun k _ s => match s.jobOf (k.w 0) with
    | none => ans s
    | some j =>
      let first := j.firstMt.getD 0
      ans s ([w32 (j.state.code + j.descr.cls * 16 + j.descr.nVoices * 256 + j.descr.nComp * 65536), w32 (min j.slip 65535),
        w32 j.late, lo32 first, hi32 first] ++ s.handleWords j)
def execJobGetStatus (k : Kcp) (s : State) : Host.Outcome State Fault Refusal := .next (kcpExec cmdJobGetStatus k s)

/-- JOB.LIST. -/
def cmdJobList : Cmd where
  opcode := 0x0405
  fault := true
  reads := true
  arg := fun k _ => firstBad [lenIs k 2, resv k 0 0x1F, resv k 1 0xFFFF]
  act := fun k _ s =>
    let l := s.disp.jobs.filter fun j => k.f 1 0 16 ≤ j.record ∧ (k.bit 0 4 ∨ j.descr.cls = k.f 0 0 4)
    let now := l.take 120
    let next := ((l.drop 120).head?.map Job.record).getD 0xFFFF
    ans s ([w32 now.length, w32 next] ++ now.flatMap fun j => [j.handle, w32 (j.state.code + j.descr.cls * 16)])
def execJobList (k : Kcp) (s : State) : Host.Outcome State Fault Refusal := .next (kcpExec cmdJobList k s)

/-- JOB.GET_STATS. -/
def cmdJobGetStats : Cmd where
  opcode := 0x0406
  fault := true
  reads := true
  arg := fun k _ => firstBad [lenIs k 0]
  act := fun _ _ s => ans s (s.image ((List.range 16).flatMap (fun c => [R.DISP_CLASS_Q c, R.DISP_CLASS_WAIT c]) ++
    [R.DISP_MASON_LOAD, R.DISP_STEAL_CNT, R.DISP_ROLLBACK_CNT, R.DISP_LATE_CNT, R.DISP_MIGRATE_CNT]))
def execJobGetStats (k : Kcp) (s : State) : Host.Outcome State Fault Refusal := .next (kcpExec cmdJobGetStats k s)

/-- The registers of JOB.SET_POLICY, and its effect at the tick. -/
def policyRegs : List Nat := [R.DISP_STEAL_POLICY, R.DISP_CTRL, R.DISP_ARB]
def State.atSetPolicy (s : State) (p : List W32) : State := s.writeImage policyRegs p

/-- JOB.SET_POLICY (R154): the images take effect at the next tick (DEDUCED, notes/assumptions/145.md). -/
def cmdJobSetPolicy : Cmd where
  opcode := 0x0407
  arg := fun k _ => firstBad [lenIs k 3]
  act := fun k _ s => ans { s with
    timed := s.timed ++ [⟨s.startOf (s.commit + 1), s.order, 0x0407, k.payload, 0, 0, 0, false⟩], order := s.order + 1 }
def execJobSetPolicy (k : Kcp) (s : State) : Host.Outcome State Fault Refusal := .next (kcpExec cmdJobSetPolicy k s)

/-! Script edits (R116, R117). -/

/-- JOB.SCRIPT_EDIT (R116, R117): an edit of the voice, and an insertion record of its brick. -/
def cmdJobScriptEdit : Cmd where
  opcode := 0x0410
  at_ := .content
  idle := false
  arg := fun k s =>
    let n := k.f 1 24 6
    firstBad [(2 ≤ k.words, hdrOff), resv k 1 0x3F03FFFF, brickFld k s, fld 1 16 (k.f 1 16 2 ≤ 1), fld 1 24 (1 ≤ n ∧ n ≤ 32),
      lenIs k (2 + n), fld 2 0 (insertOk (k.payload.drop 2))]
  refuse := fun k s => match s.named k with
    | none => some St.state
    | some (_, v) => if 64 ≤ s.insertionsUsed (v.src / 128) then some St.noResource else none
  act := fun k mt s => match s.named k with
    | none => ans s
    | some (_, v) =>
      let i := (v.src / 128, v.src, s.order, s.blockOf mt)
      let s : State := { s with disp := { s.disp with insertions := s.disp.insertions ++ [i] } }
      ans (s.editVoice v.src v.record mt (.script (k.f 1 16 2 = 1) (k.payload.drop 2)))
def execJobScriptEdit (k : Kcp) (s : State) : Host.Outcome State Fault Refusal := .next (kcpExec cmdJobScriptEdit k s)

/-! Squall and trigger slots (R148–R152, R311, R312). -/

/-- JOB.SQUALL: on MB0 the doorbell has triggered; on another channel the command triggers as it executes. -/
def cmdJobSquall : Cmd where
  opcode := 0x0420
  idle := false
  arg := fun k _ => firstBad [lenIs k 0]
  refuse := fun _ s => if s.flag F.DISP_SQUALL_CFG_ARMED ∧ s.flag F.DISP_SQUALL_CFG_EN_MB0 then none else some St.state
  act := fun k _ s =>
    if k.chan.val = 0 then ans s [s.disp.squallMb.getD 0]
    else
      let (s, h) := s.squallCommand 4
      ans s [h]

/-- The command as it arrives: one on MB0 whose doorbell is not in the state yet rings it first. -/
def State.takeSquall (s : State) (k : Kcp) : State :=
  let s := if k.chan.val = 0 ∧ s.disp.squallMb.isNone then s.squallBell else s
  if ¬ s.taking then s.hold 0x0420 k
  else
    let s := kcpExec cmdJobSquall k s
    if k.chan.val = 0 then { s with disp := { s.disp with squallMb := none } } else s
def execJobSquall (k : Kcp) (s : State) : Host.Outcome State Fault Refusal := .next (s.takeSquall k)

/-- JOB.SQUALL_END: a content edit (R150); the keystone's ends every course's job at the same sample (R345). -/
def cmdJobSquallEnd : Cmd where
  opcode := 0x0421
  at_ := .content
  idle := false
  chan := .mb0u
  arg := fun k _ => firstBad [lenIs k 0]
  refuse := fun _ s => if s.squallActive then none else some St.state
  act := fun _ mt s =>
    let (s, mt) := s.squallStop mt 0
    { state := s, mt := some mt }
def execJobSquallEnd (k : Kcp) (s : State) : Host.Outcome State Fault Refusal := .next (kcpExec cmdJobSquallEnd k s)

/-- JOB.ARM. -/
def cmdJobArm : Cmd where
  opcode := 0x0422
  arg := fun k s => (firstBad [(1 ≤ k.words, hdrOff), resv k 0 0x7F707]).orElse fun _ =>
    s.descrBad (k.payload.drop 1) 1 k.words true
  act := fun k _ s =>
    let t := k.f 0 0 3
    let s : State := { s with disp := { s.disp with trigs := kput s.disp.trigs t (descrOf (k.payload.drop 1)) } }
    ans ((((s.put (F.DISP_TRIG_CFG_SRC t) (k.f 0 8 3)).put (F.DISP_TRIG_CFG_N t) (k.f 0 12 4)).put
      (F.DISP_TRIG_CFG_EVENT t) (k.f 0 16 3)).set (F.DISP_TRIG_CFG_ARMED t))
def execJobArm (k : Kcp) (s : State) : Host.Outcome State Fault Refusal := .next (kcpExec cmdJobArm k s)

/-- JOB.DISARM. -/
def cmdJobDisarm : Cmd where
  opcode := 0x0423
  arg := fun k _ => firstBad [lenIs k 1, resv k 0 0x7]
  act := fun k _ s =>
    let t := k.f 0 0 3
    let s : State := { s with disp := { s.disp with trigs := kdel s.disp.trigs t } }
    ans (s.set (F.DISP_TRIG_CFG_ARMED t) false)
def execJobDisarm (k : Kcp) (s : State) : Host.Outcome State Fault Refusal := .next (kcpExec cmdJobDisarm k s)

/-- JOB.SET_SQUALL. -/
def cmdJobSetSquall : Cmd where
  opcode := 0x0424
  arg := fun k s => firstBad [lenIs k 5, fld 0 0 (hasBus (s.group (k.f 0 0 6)).bus),
    fld 2 24 (k.f 2 24 8 = 255), fld 3 24 (k.f 3 24 8 = 255), fld 4 24 (k.n 4 = 0 ∨ k.f 4 24 8 = 255)]
  refuse := fun _ s => if (s.bank 255).state = .vault then none else some St.state
  act := fun k _ s => ans (s.writeImage
    [R.DISP_SQUALL_CFG, R.DISP_SQUALL_SEQ, R.DISP_SQUALL_SCRIPT, R.DISP_SQUALL_PRESET, R.DISP_SQUALL_COMP] k.payload)
def execJobSetSquall (k : Kcp) (s : State) : Host.Outcome State Fault Refusal := .next (kcpExec cmdJobSetSquall k s)

end Sys2Proof.Machine
end

