-- ==== Sys2Proof/Machine/Course.lean ====
section
/-! DEFINITION. The course link (R330–R349): frames out and in, the ring and its latencies, messages, the keystone, site-wide
jobs and Squall, twins, and the COURSE commands. -/

namespace Sys2Proof.Machine

/-! Ports and the ring (R334, R338). -/

/-- The states of a course port (CRSE_PORT[p]_STAT.STATE). -/
abbrev cpOff : Nat := 0
abbrev cpTraining : Nat := 1
abbrev cpUp : Nat := 2
abbrev cpOneLane : Nat := 3
abbrev cpDown : Nat := 4

def State.cport (s : State) (p : Nat) : Nat := s.get (F.CRSE_PORT_STAT_STATE p)

/-- The states of the ring (CRSE_STATUS.RING). -/
abbrev ringOff : Nat := 0
abbrev ringForming : Nat := 1
abbrev ringRing : Nat := 2
abbrev ringChain : Nat := 3
abbrev ringIsolated : Nat := 4

/-- DEDUCED, notes/assumptions/149.md. -/
def State.ringState (s : State) : Nat := s.get F.CRSE_STATUS_RING
def State.setCourse (s : State) (c : CourseSt) : State := { s with course := c }
def State.peer? (s : State) (o : Nat) : Option Peer := pick Peer.origin o s.course.peers
def State.setPeer (s : State) (p : Peer) : State := s.setCourse { s.course with peers := upsert Peer.origin p s.course.peers }

/-- The state of the ring by this device's ports and what the others report (R334). -/
def State.ringNow (s : State) : Nat :=
  if ¬ s.cascade then ringOff
  else if s.cport 0 ≤ cpTraining ∨ s.cport 1 ≤ cpTraining then ringForming
  else if s.cport 0 = cpDown ∧ s.cport 1 = cpDown then ringIsolated
  else if s.cport 0 = cpDown ∨ s.cport 1 = cpDown ∨ s.course.peers.any (fun p => p.down ≠ 0) then ringChain
  else ringRing

/-- Ports of this device that are DOWN, as TOPO carries them. -/
def State.downMask (s : State) : Nat := b2n (s.cport 0 = cpDown) + 2 * b2n (s.cport 1 = cpDown)

/-- RING follows; a ring that opens posts RING_WRAP (R334). -/
def State.ringUpdate (s : State) : State :=
  let old := s.ringState
  let new := s.ringNow
  let s := s.put F.CRSE_STATUS_RING new
  if (new = ringChain ∧ old = ringRing) ∨ (new = ringIsolated ∧ (old = ringRing ∨ old = ringChain)) then
    (s.set F.CRSE_STATUS_WRAP_EVT).post 0x1002 0xFFFF [w32 new]
  else s

/-- The number of devices in the ring. -/
def State.devices (s : State) : Nat := s.course.peers.length + 1

/-- Show the ring (CRSE_TOPO): its devices, and the neighbour on each port. -/
def State.showTopo (s : State) : State :=
  let nb := fun (f : Peer → Option Nat) => match s.course.peers.find? fun p => f p = some 1 with
    | some p => 0x80 + p.origin
    | none => 0
  let s := (s.put F.CRSE_TOPO_DEVICES s.devices).put F.CRSE_TOPO_HOPS_MAX (s.devices - 1)
  (s.put F.CRSE_TOPO_EAST_NB (nb Peer.east)).put F.CRSE_TOPO_WEST_NB (nb Peer.west)

/-- A device's place in the ring, counted eastwards from this one. -/
def State.place_ (s : State) (p : Peer) : Nat := match p.east, p.west with
  | some d, _ => d
  | none, some d => s.devices - d
  | none, none => 0

/-- The latency of the hop east, or west, of each place of the ring. -/
def State.hopList (s : State) (east : Bool) : List Nat :=
  (List.range s.devices).map fun i =>
    if i = 0 then s.get (F.CRSE_PORT_HOP_HOP_NS (if east then 0 else 1))
    else match s.course.peers.find? fun p => s.place_ p = i with
      | some p => if east then p.hopEast else p.hopWest
      | none => 0

/-- λ of a direction: the sum of all hop latencies less the smallest (R338). -/
def hopSum (l : List Nat) : Nat := l.sum - l.foldl min (l.headD 0)

/-- P_MIN for a latency in ns (R338). -/
def State.pMinFor (s : State) (ns : Nat) : Nat :=
  let bp := s.bl * 1000000000
  (bp + 4 * ns * s.hz + 4 * bp - 1) / (4 * bp)

/-- The latency from place a of the ring eastwards to place b. -/
def eastWay (hops : List Nat) (a b : Nat) : Nat :=
  let n := hops.length
  ((List.range ((b + n - a) % n)).map fun i => hops.getD ((a + i) % n) 0).sum

/-- The ring's latencies once it has formed (R338–R340): each course's latency from the keystone by the shorter way, and on the
keystone λmax, P_MIN and, where the ring has outgrown P, P_SHORT (DEDUCED, notes/assumptions/150.md; DEDUCED, notes/assumptions/151.md). -/
def State.measureRing (s : State) : State :=
  if s.ringState < ringRing then s
  else
    let east := s.hopList true
    let west := s.hopList false
    let key := if s.flag F.CRSE_STATUS_IS_KEYSTONE then 0
      else ((s.course.peers.find? fun p => p.origin % 8 = s.get F.CRSE_STATUS_KEY_COURSE).map s.place_).getD 0
    let lat := fun (i : Nat) => min (eastWay east key i) ((List.range ((key + s.devices - i) % s.devices)).map fun j =>
      west.getD ((key + s.devices - j) % s.devices) 0).sum
    let s := s.put (F.CRSE_COURSE_LAT_NS s.courseNo) (lat 0)
    let s := forEach s.course.peers s fun p s => s.put (F.CRSE_COURSE_LAT_NS (p.origin % 8)) (lat (s.place_ p))
    if ¬ s.flag F.CRSE_STATUS_IS_KEYSTONE then s
    else
      let l := max (hopSum east) (hopSum west)
      let m := s.pMinFor l
      let s := (s.put F.CRSE_LAT_LAMBDA_NS l).put F.CRSE_STATUS_P_MIN m
      if s.pOff ≠ 0 ∧ s.pOff < m then s.set F.CRSE_STATUS_P_SHORT else s

/-- A port changes state, and PORT_STATE says so (R349). -/
def State.setCport (s : State) (p st lanes : Nat) : State :=
  if s.cport p = st then s.put (F.CRSE_PORT_STAT_LANES p) lanes
  else ((s.put (F.CRSE_PORT_STAT_STATE p) st).put (F.CRSE_PORT_STAT_LANES p) lanes).post 0x1001 p [w32 st]

/-- Tell the ring what ports are DOWN (R334). -/
def State.sendTopo (s : State) : State := s.courseSend 0x2 [w32 s.downMask, w32 s.ringNow]

/-- A port goes DOWN (R219, R334) (DEDUCED, notes/assumptions/158.md). -/
def State.cportDown (s : State) (p : Nat) : State :=
  let s := (s.setCport p cpDown 0).ringUpdate.sendTopo
  if ¬ s.portUp 0 ∧ ¬ s.portUp 1 then s.failType 4 (fun _ => true) 3 else s

/-- COURSE_PORT_DOWN (R334). -/
def execCoursePortDown (port : Fin 2) (s : State) : Host.Outcome State Fault Refusal :=
  .next (if s.cascade ∧ s.running ∧ cpTraining ≤ s.cport port ∧ s.cport port ≤ cpOneLane then s.cportDown port else s)

/-- COURSE_PORT_UP (R334): the ring closes. -/
def execCoursePortUp (port : Fin 2) (s : State) : Host.Outcome State Fault Refusal :=
  .next (if s.cascade ∧ s.running ∧ s.cport port = cpDown then (s.setCport port cpUp 3).ringUpdate.sendTopo.measureRing else s)

/-- COURSE_LANE_ALIGNMENT_LOSS (R334): the port continues on its other lane; without one it is DOWN. -/
def execCourseLaneAlignmentLoss (port : Fin 2) (lane : Fin 2) (s : State) : Host.Outcome State Fault Refusal :=
  .next (
    if ¬ s.cascade ∨ ¬ s.running then s
    else
      let left := s.get (F.CRSE_PORT_STAT_LANES port) &&& (3 - 2 ^ lane.val)
      if s.cport port = cpUp ∧ left ≠ 0 then s.setCport port cpOneLane left
      else if s.portUp port ∧ left = 0 then s.cportDown port
      else s)

/-! Own frames (R330, R331, R333, R335, R346). -/

/-- The samples of a frame in the family (R331), and the frames of a block. -/
def State.frameLen (s : State) : Nat := if Config.double s.rate then 8 else 4

/-- This device's origin number. -/
def State.origin (s : State) : Nat := s.courseNo + (if s.flag F.CRSE_CTRL_TWIN_EN ∧ s.flag F.CRSE_CTRL_TWIN_ROLE then 8 else 0)

/-- It sends course-send channels and MARKER frames: it is not in FAULT or CONFLICT, and not a standby twin (R335, R341, R346). -/
def State.sendsAudio (s : State) : Bool := s.power ≠ .fault ∧ ¬ s.standby ∧ ¬ s.flag F.CRSE_STATUS_CONFLICT

/-- The bytes a message takes in a frame (R333). -/
def msgBytes (body : List W32) : Nat := 6 + 4 * body.length

/-- The messages that fit in so many bytes, in order, each with its SEQ, and those that wait. -/
def packMessages : Nat → Nat → List (Nat × List W32) → List (Nat × Nat × List W32) × List (Nat × List W32)
  | _, _, [] => ([], [])
  | room, seq, (ty, body) :: l =>
    if room < msgBytes body then ([], (ty, body) :: l)
    else
      let (a, b) := packMessages (room - msgBytes body) ((seq + 1) % 65536) l
      ((seq, ty, body) :: a, b)

/-- The channels of the frame that begins at a media time: each masked send channel's samples. -/
def State.frameChannels (s : State) (mt : Nat) : List (Nat × List Sample) :=
  (s.course.sends.filter fun a => a.block = s.blockOf mt).map fun a =>
    (a.chan, (a.samples.drop (mt - s.startOf a.block)).take s.frameLen)

/-- The code of the variant in a STATUS message (CRSE_COURSE[k]_STAT). -/
def Variant.code : Variant → Nat
  | .lmz8192 => 1 | .lmz4096 => 2 | .lmz2048e => 0

/-- The STATUS message of this device (R333). -/
def State.statusBody (s : State) : List W32 :=
  [w32 s.power.code, w32 s.variant.code, w32 (s.get F.CRSE_TWIN_STATE), w32 (s.get (F.CRSE_PORT_HOP_HOP_NS 0)),
    w32 (s.get (F.CRSE_PORT_HOP_HOP_NS 1))]

/-- COURSE_FRAME_SEND (R330): the device's own frame leaves by both ports, and the frames that arrived in the frame period
before are forwarded. Each block period carries the block C + P of the send channels. A STATUS message goes with the first
frame of every 64th block (DESIGN CHOICE, notes/assumptions/70.md). -/
def execCourseFrameSend (s : State) : Host.Outcome State Fault Refusal :=
  .next (
    if ¬ s.cascade ∨ ¬ s.running then s
    else
      let i := s.course.frame
      let s := if i = 0 ∧ s.blockNow % 64 = 0 then s.courseSend 0x1 s.statusBody else s
      let mt := s.startOf (s.commit + s.pOff) + i * s.frameLen
      let again := (s.course.again.map fun m => msgBytes m.2.2).sum
      let (new, wait) := packMessages (4096 - again) s.course.seq s.course.outbox
      let f : SentFrame := {
        origin := s.origin, marker := i = 0 && s.sendsAudio, active := !s.standby && decide (s.power ≠ .fault),
        keystone := s.flag F.CRSE_STATUS_IS_KEYSTONE, fault := s.power = .fault, hops := s.devices - 1, mt := mt,
        channels := if s.sendsAudio then s.frameChannels mt else [], messages := s.course.again ++ new }
      let s := s.bump F.CRSE_MSG_CNT_SENT new.length
      s.setCourse { s.course with
        outbox := wait, again := new, seq := (s.course.seq + new.length) % 65536, frame := i + 1, sent := some f,
        forward := [], forwarded := s.course.forward })

/-! Frames in (R330, R332, R341, R342). -/

/-- Place samples in the input block of a mix source from an offset on; what the block did not hold reads zero (R179). -/
def placeAudio (bl : Nat) (chan block off : Nat) (xs : List Sample) (l : List Audio) : List Audio :=
  let old := ((l.find? fun a => a.chan = chan ∧ a.block = block).map Audio.samples).getD (silence bl)
  let new := old.take off ++ xs ++ old.drop (off + xs.length)
  ⟨chan, block, new.take bl⟩ :: l.filter fun a => ¬ (a.chan = chan ∧ a.block = block)

/-- Samples of a mix source that begin at a media time, placed block by block; a block already consumed takes none. -/
def State.placeInput (s : State) (chan : Nat) : Nat → Nat → List Sample → State
  | 0, _, _ => s
  | n + 1, mt, xs =>
    if xs = [] then s
    else
      let b := s.blockOf mt
      let off := mt - s.startOf b
      let here := xs.take (s.bl - off)
      let s := if b ≤ s.commit then s
        else { s with mix := { s.mix with inputs := placeAudio s.bl chan b off here s.mix.inputs } }
      s.placeInput chan n (s.startOf (b + 1)) (xs.drop (s.bl - off))

/-- A device of the ring has been heard: its distance by the port, where a frame that has come n hops has lost n − 1 of HOPS. -/
def State.hear (s : State) (port : Nat) (f : CourseFrame) (o : Nat) : State :=
  let old := s.peer? o
  let p := old.getD ⟨o, 0, none, none, false, false, 0, 0, 0, 0⟩
  let s := s.setPeer p
  let d := s.devices - f.hops
  let far := fun (x : Option Nat) => some (match x with | some y => min y d | none => d)
  let p := { p with heard := s.time.mt, active := f.active, fault := f.fault }
  let p := if d = 0 then p else if port = 0 then { p with east := far p.east } else { p with west := far p.west }
  (s.setPeer p).showTopo

/-- Whose copy of a send channel is taken (R332): the lower course's, with CHAN_CONFLICT where two courses carry it. -/
def State.claim (s : State) (chan o : Nat) : Bool × State :=
  match kget s.course.carried chan with
  | none => (true, s.setCourse { s.course with carried := kput s.course.carried chan o })
  | some q =>
    if q % 8 = o % 8 then (true, s.setCourse { s.course with carried := kput s.course.carried chan o })
    else
      let s := s.set F.CRSE_STATUS_CHAN_CONFLICT
      if o % 8 < q % 8 then (true, s.setCourse { s.course with carried := kput s.course.carried chan o }) else (false, s)

/-- A frame that carries KEYSTONE (R341, R342): a follower learns its keystone; of two keystones the lower course keeps the
role, and one that joins a ring with a keystone follows. -/
def State.keystoneFrame (s : State) (c : Nat) : State :=
  if s.flag F.CRSE_STATUS_IS_KEYSTONE then
    if c < s.courseNo ∨ s.ringState = ringForming then
      let s := (s.set F.CRSE_STATUS_IS_KEYSTONE false).set F.CRSE_STATUS_PROMOTED false
      (s.put F.CRSE_STATUS_KEY_COURSE c).post 0x1003 c [0]
    else s
  else if s.get F.CRSE_STATUS_KEY_COURSE ≠ c then
    let lost := s.course.keyLost
    let known : Bool := s.ringState ≠ ringForming
    let s := (s.put F.CRSE_STATUS_KEY_COURSE c).setCourse { s.course with keyLost := false }
    let s := if s.refState 0 = Ref.off then s else s.refRequalify 0
    if known then s.post 0x1003 c [w32 (b2n lost)] else s
  else s.setCourse { s.course with keyLost := false }

/-- A frame is taken: the first copy with a valid CRC (R332). Its samples go to their mix sources. -/
def State.takeFrame (s : State) (f : CourseFrame) (o : Nat) : State :=
  let key := (o, f.mt.toNat)
  let s := if s.course.damaged.contains key then s.bumpSat F.CRSE_AUDIO_LOSS_ONE_BAD else s
  let c := o % 8
  let s := (s.bump (F.CRSE_COURSE_FRAMES_COUNT c)).wr (R.CRSE_COURSE_LAST c) (lo32 (s.blockOf f.mt.toNat))
  let s := (s.set (F.CRSE_COURSE_STAT_LIVE c)).put F.CRSE_STATUS_LIVE (s.get F.CRSE_STATUS_LIVE ||| 2 ^ c)
  let s := if (s.peer? (c + 8)).isSome ∧ (s.peer? c).isSome then s.set (F.CRSE_COURSE_STAT_TWIN_SEEN c) else s
  let s := s.setCourse { s.course with
    taken := (key :: s.course.taken).filter (fun x => s.time.mt < x.2 + 16 * s.bl),
    damaged := s.course.damaged.filter (fun x => x ≠ key ∧ s.time.mt < x.2 + 16 * s.bl),
    carried := s.course.carried.filter fun x => x.2 ≠ o ∨ f.channels.any fun ch => ch.1 = x.1 }
  let s := if f.keystone ∧ f.active ∧ c ≠ s.courseNo then s.keystoneFrame c else s
  if c = s.courseNo then s
  else forEach f.channels s fun ch s =>
    let (mine, s) := s.claim ch.1 o
    if mine ∧ ch.1 < 256 then s.placeInput (9472 + ch.1) 2 f.mt.toNat ch.2 else s

/-- COURSE_FRAME_RECEIVED (R330, R332, R334, R341, R346) (DEDUCED, notes/assumptions/148.md; DEDUCED, notes/assumptions/155.md). -/
def execCourseFrameReceived (port : Fin 2) (f : CourseFrame) (s : State) : Host.Outcome State Fault Refusal :=
  .next (
    if ¬ s.cascade ∨ ¬ s.running ∨ s.cport port = cpOff then s
    else
      let o := f.course.val + 8 * b2n f.roleB
      if ¬ f.crcOk then
        let s := s.bumpSat (F.CRSE_PORT_ERR_CRC_CNT port)
        let s := s.setCourse { s.course with damaged := (o, f.mt.toNat) :: s.course.damaged }
        s.raise Mech.link port 0 0 0
      else
        let s := s.bump (F.CRSE_PORT_FRAMES_COUNT port)
        let s := if s.cport port = cpTraining then (s.setCport port cpUp 3).ringUpdate else s
        let partner : Bool := f.course.val = s.courseNo ∧ s.flag F.CRSE_CTRL_TWIN_EN ∧ o ≠ s.origin
        if o = s.origin ∧ f.hops = 0 ∧ s.course.peers ≠ [] then s
        else if f.course.val = s.courseNo ∧ ¬ partner then
          let s := s.set F.CRSE_STATUS_CONFLICT
          let key := (o, f.mt.toNat)
          if o = s.origin ∨ f.hops = 0 ∨ s.course.taken.contains key then s
          else s.setCourse { s.course with
            taken := key :: s.course.taken, forward := s.course.forward ++ [(1 - port.val, { f with hops := f.hops - 1 })] }
        else
          let s := s.hear port f o
          let s := if partner then s.set F.CRSE_TWIN_PARTNER_SEEN else s
          if s.course.taken.contains (o, f.mt.toNat) then s
          else
            let s := s.takeFrame f o
            if f.hops = 0 then s
            else s.setCourse { s.course with forward := s.course.forward ++ [(1 - port.val, { f with hops := f.hops - 1 })] })

/-- The 50 ms and 5 ms after which a device counts as silent (R342, R348), in samples. -/
def State.silent (s : State) (heard ms : Nat) : Bool := ms * s.hz < 1000 * (s.time.mt - heard)

/-- What a block tick finds of the other devices: LIVE and PARTNER_SEEN follow the latest frames (R342, R348). -/
def State.courseTick (s : State) : State :=
  if ¬ s.cascade then s
  else
    let s := s.setCourse { s.course with frame := 0 }
    let gone := s.course.peers.filter fun p => s.silent p.heard 50
    let s := s.setCourse { s.course with
      peers := s.course.peers.filter (fun p => ¬ s.silent p.heard 50),
      carried := s.course.carried.filter fun x => ¬ gone.any fun p => p.origin = x.2 }
    let s := forEach gone s fun p s =>
      let c := p.origin % 8
      let s := s.set (F.CRSE_COURSE_STAT_TWIN_SEEN c) false
      if c = s.courseNo ∨ s.course.peers.any (fun q => q.origin % 8 = c) then s
      else (s.set (F.CRSE_COURSE_STAT_LIVE c) false).put F.CRSE_STATUS_LIVE (s.get F.CRSE_STATUS_LIVE &&& (255 - 2 ^ c))
    let s := if gone = [] then s else s.showTopo.ringUpdate
    s.set F.CRSE_TWIN_PARTNER_SEEN (s.course.peers.any fun p =>
      p.origin % 8 = s.courseNo ∧ ¬ s.silent p.heard 5)

/-! The gaps that lost frames leave (R332). -/

/-- A frame of an origin has been taken. -/
def State.frameTaken (s : State) (o mt : Nat) : Bool := s.course.taken.contains (o, mt)

/-- The samples of a course-link input channel in a block: where frames are missing they are zero, and the 32 samples on either
side that lie in the block ramp linearly (R332; DEDUCED, notes/assumptions/71.md). -/
def State.courseInput (s : State) (chan block : Nat) (xs : List Sample) : List Sample :=
  match kget s.course.carried chan with
  | none => xs
  | some o =>
    let n := s.frameLen
    let missing := fun (mt : Nat) => ¬ s.frameTaken o (mt / n * n)
    let t0 := s.startOf block
    if (List.range (s.bl / n)).all fun i => s.frameTaken o (t0 + i * n) then
      if missing (t0 - 1) then
        xs.zipIdx.map fun x => if x.2 < 32 then sOf (sVal x.1 * (x.2 + 1 : Nat) / 33) else x.1
      else xs
    else
      xs.zipIdx.map fun x =>
        let mt := t0 + x.2
        if missing mt then 0
        else
          let before := (List.range 32).find? fun d => missing (mt - 1 - d)
          let after_ := (List.range 32).find? fun d => mt + 1 + d < t0 + s.bl ∧ missing (mt + 1 + d)
          let g := min (before.getD 32) (after_.getD 32)
          if g = 32 then x.1 else sOf (sVal x.1 * (g + 1 : Nat) / 33)

/-- Frames of a block that no valid copy delivered, of the courses that carry a channel. -/
def State.countLost (s : State) (block : Nat) : State :=
  let os := (s.course.carried.map Prod.snd).dedup
  let n := s.frameLen
  let lost := (os.map fun o =>
    ((List.range (s.bl / n)).filter fun i => ¬ s.frameTaken o (s.startOf block + i * n)).length).sum
  if lost = 0 then s else s.bumpSat F.CRSE_AUDIO_LOSS_LOST lost

/-! Messages (R333). -/

/-- A message is acted on: the first copy of its origin and SEQ, from another device of the cascade (R333). -/
def State.message (s : State) (h : MsgHead) (f : State → State) : State :=
  let o := h.course.val + 8 * b2n h.roleB
  let key := (o, h.seq.toNat)
  if ¬ s.cascade ∨ ¬ s.running ∨ o = s.origin ∨ s.course.seen.contains key then s
  else f (s.setCourse { s.course with seen := (key :: s.course.seen).take 512 })

/-- The message comes from the active twin of the keystone course, and this device is its standby (R346). -/
def State.fromLeader (s : State) (h : MsgHead) : Bool :=
  s.flag F.CRSE_STATUS_IS_KEYSTONE ∧ s.standby ∧ h.course.val = s.courseNo ∧ h.course.val + 8 * b2n h.roleB ≠ s.origin

/-- The message comes from the keystone in force, which is another course. -/
def State.fromKeystone (s : State) (h : MsgHead) : Bool :=
  ¬ s.flag F.CRSE_STATUS_IS_KEYSTONE ∧ s.get F.CRSE_STATUS_KEY_COURSE = h.course.val

/-- COURSE_MSG_STATUS (R333, R338): the neighbour's measure of a shared hop is this device's too. -/
def execCourseMsgStatus (h : MsgHead) (pstate variant twin eastNs westNs : Nat) (s : State) :
    Host.Outcome State Fault Refusal :=
  .next (s.message h fun s =>
    let o := h.course.val + 8 * b2n h.roleB
    match s.peer? o with
    | none => s
    | some p =>
      let s := s.setPeer { p with hopEast := eastNs, hopWest := westNs, twin := twin }
      let s := if p.east = some 1 then s.put (F.CRSE_PORT_HOP_HOP_NS 0) westNs else s
      let s := if p.west = some 1 then s.put (F.CRSE_PORT_HOP_HOP_NS 1) eastNs else s
      let s := s.put (F.CRSE_COURSE_STAT_VARIANT h.course) variant
      let s := if twin ≤ 1 then s.put (F.CRSE_COURSE_STAT_PSTATE h.course) pstate else s
      s.measureRing)

/-- COURSE_MSG_TOPO (R334). -/
def execCourseMsgTopo (h : MsgHead) (down _ring : Nat) (s : State) : Host.Outcome State Fault Refusal :=
  .next (s.message h fun s =>
    match s.peer? (h.course.val + 8 * b2n h.roleB) with
    | none => s
    | some p => (s.setPeer { p with down := down }).ringUpdate.measureRing)

/-- COURSE_MSG_TIME (R40, R41, R158, R339). The keystone's standby twin takes the active one's changes as every course does. -/
def execCourseMsgTime (h : MsgHead) (change : TimeChange) (s : State) : Host.Outcome State Fault Refusal :=
  .next (s.message h fun s => if s.fromKeystone h ∨ s.fromLeader h then s.timeChange change else s)

/-- COURSE_MSG_SQUALL (R149, R150, R345): the keystone's start and end act on this course and on the keystone's standby twin; on
the keystone another course's trigger acts as its own. -/
def execCourseMsgSquall (h : MsgHead) (squall : SquallMsg) (s : State) : Host.Outcome State Fault Refusal :=
  .next (s.message h fun s =>
    if s.fromKeystone h ∨ s.fromLeader h then
      match squall with
      | .stop mt => s.squallRelease (max mt.toNat s.soonest) 0
      | .start b =>
        if ¬ s.squallEnabled 3 then s
        else if s.squallHeld ∨ s.power = .fault then s.bumpSat F.DISP_SQUALL_CFG_RETRIG
        else
          let b := max b (s.commit + 2)
          (if s.power = .idle then s.runFrom (s.startOf b) else s).squallInsert 3 0 b
    else match squall with
      | .start _ => if s.flag F.CRSE_STATUS_IS_KEYSTONE then s.squallTrigger 3 0 else s
      | .stop _ => s)

/-- COURSE_MSG_SITE_JOB (R343): a course that cannot take jobs ends its part as one with no record (DEDUCED, notes/assumptions/154.md). -/
def execCourseMsgSiteJob (h : MsgHead) (handle : W32) (startBlock site : Nat) (descriptor : List W32) (s : State) :
    Host.Outcome State Fault Refusal :=
  .next (s.message h fun s =>
    if ¬ s.fromKeystone h ∨ (s.siteGroup site).isNone then s
    else if s.power ≠ .run then s.courseSend 0xA [handle, w32 s.courseNo, 0x0B]
    else s.siteInsert handle (max startBlock (s.commit + 2)) site (descrOf descriptor))

/-- COURSE_MSG_SITE_CMD (R343): the part of this course is aborted or released at the sample. -/
def execCourseMsgSiteCmd (h : MsgHead) (handle : W32) (release : Bool) (mt : W64) (s : State) :
    Host.Outcome State Fault Refusal :=
  .next (s.message h fun s =>
    if ¬ s.fromKeystone h then s
    else match s.sitePart handle with
      | none => s
      | some j =>
        let at_ := max mt.toNat s.soonest
        if release then s.releaseJob j at_
        else if j.state = .pending ∨ j.state = .ready then s.finish j .aborted 2 s.time.mt
        else { s with
          timed := s.timed ++ [⟨at_, s.order, 0x0402, [j.handle], 0, 0, 0, false⟩], order := s.order + 1 })

/-- Site names as a map gives them (R344): the group it names on this course carries the name, and no other does. -/
def State.mapSite (s : State) (site : Nat) (groups : List Nat) : State :=
  let mine := groups.getD s.courseNo 0xFF
  let s := forEach (List.range 64) s fun g s =>
    let x := s.group g
    if g = mine then s.setGroup { x with site := site }
    else if x.site = site then s.setGroup { x with site := 0xFFFF } else s
  let other := s.course.siteNames.map fun (p : Nat × List Nat) =>
    (p.1, (p.2.zip groups).map fun x => if x.1 = x.2 then 0xFF else x.1)
  s.setCourse { s.course with siteNames := kput other site groups }

/-- COURSE_MSG_GROUP_MAP (R222, R344). -/
def execCourseMsgGroupMap (h : MsgHead) (site : Nat) (groups : List Nat) (s : State) : Host.Outcome State Fault Refusal :=
  .next (s.message h fun s => if s.fromKeystone h then s.mapSite site groups else s)

/-- COURSE_MSG_STRIKE (R503): the site Strike latches at its sample, or late at the next one. -/
def execCourseMsgStrike (h : MsgHead) (seq : Nat) (sample : W64) (s : State) : Host.Outcome State Fault Refusal :=
  .next (s.message h fun s =>
    if ¬ s.strikeOn Src.course then s
    else
      let late : Bool := sample.toNat ≤ s.time.mt
      s.strikeAdd ⟨if late then s.time.mt + 1 else sample.toNat, 0, 2 ^ Src.course, h.course, seq, true, late⟩)

/-- COURSE_MSG_PART_DONE (R343). -/
def execCourseMsgPartDone (h : MsgHead) (handle : W32) (reason : Nat) (s : State) : Host.Outcome State Fault Refusal :=
  .next (s.message h fun s =>
    if s.flag F.CRSE_STATUS_IS_KEYSTONE then s.partDone handle h.course reason none else s)

/-! Twins (R178, R346–R348). -/

/-- This message comes from the twin partner. -/
def State.fromPartner (s : State) (h : MsgHead) : Bool :=
  h.course.val = s.courseNo ∧ s.flag F.CRSE_CTRL_TWIN_EN ∧ h.roleB ≠ s.flag F.CRSE_CTRL_TWIN_ROLE

/-- COURSE_MSG_MIGRATE (R178). -/
def execCourseMsgMigrate (h : MsgHead) (m brick : Nat) (s : State) : Host.Outcome State Fault Refusal :=
  .next (s.message h fun s => if s.fromPartner h then s.excludeTwin brick m else s)

/-- Zones whose signatures of a block differ, but for the zones left out (R178, R347). -/
def State.differing (s : State) (block : Nat) (mine theirs : List W32) : Nat :=
  let out := (s.course.excluded.filter fun e => e.1 = block).flatMap Prod.snd
  ((List.range 256).filter fun z => ¬ out.contains z ∧ mine.getD z 0 ≠ theirs.getD z 0).length

/-- Both twins' signatures of a block are known: count a match, or a mismatch, of which a second among the next two blocks
starts the check (R347). -/
def State.compareSigs (s : State) (block : Nat) (mine theirs : List W32) : State :=
  let n := s.differing block mine theirs
  if n = 0 then
    let s := s.bumpSat F.CRSE_TWIN_MATCH_RUN
    if s.get F.CRSE_TWIN_STATE = Twin.notReady ∧ 15000 ≤ s.get F.CRSE_TWIN_MATCH_RUN then s.put F.CRSE_TWIN_STATE Twin.standby
    else s
  else
    let s := (s.put F.CRSE_TWIN_MATCH_RUN 0).bumpSat F.CRSE_TWIN_CNT_MISMATCH_CNT
    let s := s.post 0x1004 s.courseNo [w32 block, w32 n]
    let s := s.raise Mech.twin 0xFFFF (w32 block) 0 0
    match s.course.mismatchBlock with
    | some f =>
      if s.get F.CRSE_TWIN_STATE = Twin.checking then s
      else if f < block ∧ block ≤ f + 2 then s.put F.CRSE_TWIN_STATE Twin.checking
      else s.setCourse { s.course with mismatchBlock := some block }
    | none => s.setCourse { s.course with mismatchBlock := some block }

/-- Compare every block whose signatures both twins have given, oldest first. -/
def State.compareAll (s : State) : State :=
  let both := s.course.partnerSigs.filter fun p => (kget s.course.ownSigs p.1).isSome
  let s := s.setCourse { s.course with partnerSigs := s.course.partnerSigs.filter fun p => (kget s.course.ownSigs p.1).isNone }
  forEach both s fun p s => s.compareSigs p.1 ((kget s.course.ownSigs p.1).getD []) p.2

/-- COURSE_MSG_SIG (R347). -/
def execCourseMsgSig (h : MsgHead) (block : W32) (sigs : List W32) (s : State) : Host.Outcome State Fault Refusal :=
  .next (s.message h fun s =>
    if ¬ s.fromPartner h ∨ s.get F.CRSE_TWIN_STATE = Twin.fault then s
    else (s.setCourse { s.course with
      partnerSigs := (kput s.course.partnerSigs block.toNat sigs).filter fun p => p.1 ≤ block.toNat + 16 ∧ block.toNat ≤ p.1 + 16
      }).compareAll)

/-- TWIN_CHECK_DONE (R347): a device that fails enters FAULT; otherwise, unless the partner has failed, the twins diverge (DEDUCED, notes/assumptions/157.md). -/
def execTwinCheckDone (failed : Bool) (s : State) : Host.Outcome State Fault Refusal :=
  .next (
    if s.get F.CRSE_TWIN_STATE ≠ Twin.checking ∨ ¬ s.running then s
    else
      let first := s.course.mismatchBlock.getD 0
      let s := s.setCourse { s.course with mismatchBlock := none }
      if failed then (s.put F.CRSE_TWIN_STATE Twin.fault).raiseWith Mech.twin 0xFFFF (w32 first) 0 0 React.mute false
      else if s.course.peers.any fun p => p.origin % 8 = s.courseNo ∧ p.fault then
        s.put F.CRSE_TWIN_STATE (if s.course.active then Twin.active else Twin.standby)
      else
        let s := s.put F.CRSE_TWIN_STATE (if s.course.active then Twin.active else Twin.notReady)
        ((s.set F.CRSE_TWIN_DIVERGED).bumpSat F.CRSE_TWIN_CNT_DIVERGE_CNT).post 0x1005 s.courseNo [w32 first])

/-- TWIN_TAKEOVER_START (R348): from the next block tick the standby is ACTIVE and its outputs ramp in over 32 samples (DEDUCED, notes/assumptions/156.md). -/
def execTwinTakeoverStart (s : State) : Host.Outcome State Fault Refusal :=
  .next (
    if ¬ s.standby ∨ ¬ s.cascade ∨ s.power = .fault ∨ ¬ s.running then s
    else
      let b := s.blockNow + 1
      let s := s.setCourse { s.course with active := true, rampFrom := some (s.startOf b), mismatchBlock := none }
      let s := s.put F.CRSE_TWIN_STATE Twin.active
      let s := if s.power = .run then s.outputsLive else s
      s.postAt 0x1006 s.courseNo (s.startOf b) [w32 b])

/-! The keystone (R342). -/

/-- KEYSTONE_LOST (R342): the other courses are in holdover, and the live course of the lowest number promotes itself. -/
def execKeystoneLost (s : State) : Host.Outcome State Fault Refusal :=
  .next (
    if ¬ s.cascade ∨ ¬ s.running ∨ s.flag F.CRSE_STATUS_IS_KEYSTONE then s
    else
      let k := s.get F.CRSE_STATUS_KEY_COURSE
      let s := s.setCourse { s.course with keyLost := true, peers := s.course.peers.filter fun p => p.origin % 8 ≠ k }
      let s := (s.set (F.CRSE_COURSE_STAT_LIVE k) false).put F.CRSE_STATUS_LIVE (s.get F.CRSE_STATUS_LIVE &&& (255 - 2 ^ k))
      let s := s.refLose 0 false
      if s.standby ∨ s.course.peers.any (fun p => p.origin % 8 < s.courseNo) then s
      else
        let s := (s.set F.CRSE_STATUS_PROMOTED).set F.CRSE_STATUS_IS_KEYSTONE
        let s := (s.put F.CRSE_STATUS_KEY_COURSE s.courseNo).setCourse { s.course with keyLost := false }
        s.post 0x1003 s.courseNo [1])

/-! Commands (R317, R339, R341, R344, R346). -/

/-- The registers of the course link. -/
def crseRegs : List Nat := regsIn 0x4B000 0x4B400

/-- COURSE.CONFIG. -/
def cmdCourseConfig : Cmd where
  opcode := 0x1001
  run := false
  absent := fun _ s => ¬ s.variant.hasCourse
  arg := fun k _ => firstBad [lenIs k 1, resv k 0 0x307]
  act := fun k _ s =>
    let s := ((s.put F.CRSE_CTRL_COURSE (k.f 0 0 3)).set F.CRSE_CTRL_KEYSTONE (k.bit 0 8)).set F.CRSE_CTRL_CASCADE_EN (k.bit 0 9)
    let s := s.courseInit
    ans (if k.bit 0 9 then s else (s.put F.TIME_PIPE_P 0).put F.TIME_PIPE_L 3)
def execCourseConfig (k : Kcp) (s : State) : Host.Outcome State Fault Refusal := .next (kcpExec cmdCourseConfig k s)

/-- COURSE.GET_STATUS. -/
def cmdCourseGetStatus : Cmd where
  opcode := 0x1002
  fault := true
  reads := true
  absent := fun _ s => ¬ s.variant.hasCourse
  arg := fun k _ => firstBad [lenIs k 0]
  act := fun _ _ s => ans s (s.image crseRegs)
def execCourseGetStatus (k : Kcp) (s : State) : Host.Outcome State Fault Refusal := .next (kcpExec cmdCourseGetStatus k s)

/-- COURSE.SET_OFFSET: P, which the keystone distributes. -/
def cmdCourseSetOffset : Cmd where
  opcode := 0x1003
  run := false
  absent := fun _ s => ¬ s.variant.hasCourse
  arg := fun k s => firstBad [lenIs k 1,
    fld 0 0 (s.get F.CRSE_STATUS_P_MIN ≤ k.f 0 0 8 ∧ k.f 0 0 8 ≤ 8 ∧ k.f 0 0 8 + 2 ≤ s.ra), resv k 0 0xFF]
  refuse := fun _ s => if ¬ s.cascade ∨ ¬ s.isKeystone ∨ s.ringState < ringRing then some St.state else none
  act := fun k _ s => ans ((s.timeChange (.offset (k.f 0 0 8))).tellTime (.offset (k.f 0 0 8)))
def execCourseSetOffset (k : Kcp) (s : State) : Host.Outcome State Fault Refusal := .next (kcpExec cmdCourseSetOffset k s)

/-- The local groups of a MAP_GROUP payload, by course. -/
def Kcp.siteGroups (k : Kcp) : List Nat := (List.range 8).map fun c => k.f (1 + c / 4) (8 * (c % 4)) 8

/-- COURSE.MAP_GROUP (R6, R344): the groups of every course are judged by this device's range (DEDUCED, notes/assumptions/153.md). -/
def cmdCourseMapGroup : Cmd where
  opcode := 0x1004
  absent := fun _ s => ¬ s.variant.hasCourse
  arg := fun k s => firstBad ([lenIs k 3, fld 0 0 (decide (k.f 0 0 16 ≠ 0xFFFF)), resv k 0 0xFFFF] ++ (List.range 8).map fun c =>
    fld (1 + c / 4) (8 * (c % 4)) (decide (k.f (1 + c / 4) (8 * (c % 4)) 8 < s.variant.groups ∨ k.f (1 + c / 4) (8 * (c % 4)) 8 = 0xFF)))
  refuse := fun _ s => if s.isKeystone then none else some St.state
  act := fun k _ s =>
    let s := s.mapSite (k.f 0 0 16) (Kcp.siteGroups k)
    ans (if s.cascade then s.courseSend 0x7 k.payload else s)
def execCourseMapGroup (k : Kcp) (s : State) : Host.Outcome State Fault Refusal := .next (kcpExec cmdCourseMapGroup k s)

/-- COURSE.SET_TWIN (DEDUCED, notes/assumptions/152.md). -/
def cmdCourseSetTwin : Cmd where
  opcode := 0x1005
  run := false
  absent := fun _ s => ¬ s.variant.hasCourse
  arg := fun k _ => firstBad [lenIs k 1, resv k 0 0x3]
  act := fun k _ s => ans ((s.set F.CRSE_CTRL_TWIN_EN (k.bit 0 0)).set F.CRSE_CTRL_TWIN_ROLE (k.bit 0 1)).courseInit
def execCourseSetTwin (k : Kcp) (s : State) : Host.Outcome State Fault Refusal := .next (kcpExec cmdCourseSetTwin k s)

end Sys2Proof.Machine
end

