-- ==== Sys2Proof/Machine/Stream.lean ====
section
/-! DEFINITION. The stream port (R320–R329, R349): training, flits and credits, audio frames, lane and clock loss, and the
STREAM commands. -/

namespace Sys2Proof.Machine

def State.setStream (s : State) (x : StreamSt) : State := { s with stream := x }
def State.strm (s : State) : Nat := s.get F.STRM_STATUS_STATE

/-- The states of the link (STRM_STATUS.STATE). -/
abbrev lkOff : Nat := 0
abbrev lkTraining : Nat := 1
abbrev lkUp : Nat := 2
abbrev lkDegraded : Nat := 3
abbrev lkDown : Nat := 4

/-! The link (R327–R329). -/

/-- Every credit count at zero. -/
def State.noCredits (s : State) : State := forEach (List.range 4) s fun v s => s.wr (R.STRM_VC_CREDIT v) 0

/-- Lanes in use, and lanes failed. -/
def State.setLanes (s : State) (lanes failed : Nat) : State :=
  let s := (s.put F.STRM_STATUS_LANES lanes).put F.STRM_STATUS_FAILED failed
  forEach (List.range 8) s fun l s =>
    ((s.set (F.STRM_LANE_RX_IN_USE l) (Nat.testBit lanes l)).set (F.STRM_LANE_RX_FAILED l) (Nat.testBit failed l)).set
      (F.STRM_LANE_TX_IN_USE l) (Nat.testBit lanes l)

/-- The transfer that uses VC1 has lost a flit, or its end (R322, R323). -/
def State.vc1Flit (s : State) (bs : List Byte) (eom ok : Bool) : State :=
  match s.banks.vc1 with
  | 1 =>
    let b := s.bank s.banks.vc1Bank
    (s.setBank { b with load := b.load.map fun (l : Load) => l.flit bs eom ok }).loadArrived s.banks.vc1Bank
  | 2 => s.setKernel { s.kernel with staging := s.kernel.staging.map fun (l : Load) => l.flit bs eom ok }
  | 3 => { s with safe := { s.safe with update := s.safe.update.map fun (u : Nat × Load) => (u.1, u.2.flit bs eom ok) } }
  | _ => s

/-- The load that uses VC1. -/
def State.vc1Load (s : State) : Option Load :=
  match s.banks.vc1 with
  | 1 => (s.bank s.banks.vc1Bank).load
  | 2 => s.kernel.staging
  | 3 => s.safe.update.map Prod.snd
  | _ => none

/-- Training resets every credit count, and what is in flight is lost (R327): a transfer under way loses flits. -/
def State.loseFlight (s : State) : State :=
  let s := s.noCredits.setStream { s.stream with vc2 := [], vc2Open := false, vc2Bad := false, crcRun := 0 }
  if s.vc1Load.any fun l => 0 < l.received then s.vc1Flit [] false false else s

/-- The link is DOWN (R219, R329). -/
def State.strmDown (s : State) (cause : Nat) : State :=
  let s := ((s.put F.STRM_STATUS_STATE lkDown).put F.STRM_STATUS_LANES 0).set F.STRM_STATUS_DOWN_EVT
  let s := s.noCredits.setStream { s.stream with vc2 := [], vc2Open := false, vc2Bad := false, crcRun := 0 }
  let s := s.post 0x1103 0xFFFF [w32 cause]
  s.failType 1 (fun _ => true) 1

/-- The far end's grants become this end's credits (R323, R327). -/
def State.takeGrants (s : State) : State :=
  forEach (List.range 4) s fun v s => s.put (F.STRM_VC_CREDIT_TX_AVAIL v) (min 255 (s.stream.grants.getD v 0))

/-- Training starts (DEDUCED, notes/assumptions/163.md). -/
def State.trainStart (s : State) : State := (s.loseFlight.put F.STRM_STATUS_STATE lkTraining).setLanes 0 (s.get F.STRM_STATUS_FAILED)

/-- The link comes up on a set of lanes (R327, R328): all 8, or 4. -/
def State.strmOn (s : State) (lanes : Nat) : State :=
  let s := s.setLanes lanes (255 - lanes)
  let s := s.takeGrants
  if lanes = 0xFF then s.put F.STRM_STATUS_STATE lkUp
  else (s.put F.STRM_STATUS_STATE lkDegraded).set F.STRM_STATUS_DEGRADE_EVT

/-- STREAM_TRAINING_DONE (R327, R349): a training that degrades the link names one of its failed lanes (DESIGN CHOICE, notes/assumptions/162.md). -/
def execStreamTrainingDone (result : Nat) (lanes : Byte) (us : Nat) (grants : List Nat) (s : State) :
    Host.Outcome State Fault Refusal :=
  .next (
    let ls := lanes.toNat
    let good : Bool := result = 0 ∧ (ls = 0xFF ∨ ls = 0x0F ∨ ls = 0xF0)
    if s.strm ≠ lkTraining ∨ 5 < result ∨ (result = 0 ∧ ¬ good) then s
    else
      let s := (s.put F.STRM_TRAIN_RESULT result).put F.STRM_TRAIN_TRAIN_US (min 65535 us)
      if ¬ good then (s.post 0x1101 0xFFFF [w32 result, 0]).strmDown 4
      else
        let s := (s.setStream { s.stream with grants := grants }).strmOn ls
        let s := s.post 0x1101 0xFFFF [0, w32 ls]
        if ls = 0xFF then s
        else
          let (u, s) := s.draw
          s.post 0x1102 (u % 4 + if ls = 0x0F then 4 else 0))

/-- STREAM_LANE_FAIL (R328): `trained` tells whether the retrain on the other half succeeded. -/
def execStreamLaneFail (lane : Fin 8) (trained : Bool) (s : State) : Host.Outcome State Fault Refusal :=
  .next (
    if ¬ s.strmUp ∨ ¬ Nat.testBit (s.get F.STRM_STATUS_LANES) lane then s
    else
      let up : Bool := s.strm = lkUp
      let failed := s.get F.STRM_STATUS_FAILED ||| 2 ^ lane.val
      let s := (s.set (F.STRM_LANE_RX_FAILED lane)).put F.STRM_STATUS_FAILED failed
      if ¬ up ∨ ¬ s.flag F.STRM_CTRL_AUTO_RETRAIN then s.strmDown 3
      else
        let s := s.trainStart.bumpSat F.STRM_TRAIN_RETRAIN_CNT
        let (u, s) := s.draw
        let s := s.put F.STRM_TRAIN_TRAIN_US u
        if ¬ trained then
          let (r, s) := s.draw
          (s.put F.STRM_TRAIN_RESULT (1 + r % 5)).strmDown 4
        else
          let s := (s.put F.STRM_TRAIN_RESULT 0).strmOn (if lane.val < 4 then 0xF0 else 0x0F)
          (s.put F.STRM_STATUS_FAILED failed).post 0x1102 lane)

/-- STREAM_CLOCK_ABSENT (R329): during training it is training that fails. -/
def execStreamClockAbsent (s : State) : Host.Outcome State Fault Refusal :=
  .next (
    if s.strm = lkTraining then ((s.put F.STRM_TRAIN_RESULT 1).post 0x1101 0xFFFF [1, 0]).strmDown 1
    else if s.strmUp then s.strmDown 1
    else s)

/-! Audio (R325, R326). -/

/-- The channel limit each way: by the lanes in use, the clock and the family. A link that is not up counts all 8 lanes. -/
def State.strmLimit (s : State) : Nat :=
  let lanes := if s.strm = lkDegraded then 4 else 8
  let mhz := match s.get F.STRM_CTRL_RATE with | 0 => 50 | 1 => 100 | _ => 200
  1024 * lanes / 8 * mhz / 200 / (if Config.double s.rate then 2 else 1)

/-- STREAM_AUDIO_FRAME_RX (R325, R326): every sample goes to its media time; a frame for a block already consumed, or more
than 16 blocks beyond C, is discarded whole. -/
def execStreamAudioFrameRx (mt : W64) (n : Nat) (len : Nat) (words : List W32) (s : State) : Host.Outcome State Fault Refusal :=
  .next (
    if ¬ s.strmUp ∨ ¬ s.running then s
    else
      let s := s.bump F.STRM_RX_FRAME_COUNT
      let b := s.blockOf mt.toNat
      if b ≤ s.commit ∨ s.commit + 16 < b then s.bumpSat F.STRM_AUDIO_LATE_CNT
      else
        let chans := min (min n (s.get F.STRM_MAP_N_IN)) s.strmLimit
        forEach (List.range chans) s fun c s =>
          s.placeInput (8192 + c) 2 mt.toNat ((List.range len).map fun i => wordSample (words.getD (i * n + c) 0)))

/-- The flits of an audio frame of n channels. -/
def audioFlits (bl n : Nat) : Nat := 1 + (bl * n + 3) / 4

/-- STREAM_AUDIO_FRAME_TX (R324–R326): the frame of the block that the pins present. A frame goes when VC0 holds a credit for
each of its flits, or every credit the far end has granted where they are fewer (DEDUCED, notes/assumptions/72.md). -/
def execStreamAudioFrameTx (s : State) : Host.Outcome State Fault Refusal :=
  .next (
    let n := min (s.get F.STRM_MAP_N_OUT) s.strmLimit
    if ¬ s.strmUp ∨ ¬ s.running ∨ n = 0 then s
    else
      let flits := audioFlits s.bl n
      let have_ := s.get (F.STRM_VC_CREDIT_TX_AVAIL 0)
      let need := min flits (s.stream.grants.getD 0 0)
      if have_ < need ∨ have_ = 0 then s.bumpSat F.STRM_AUDIO_DROP_CNT
      else
        let b := s.blockNow
        let s := (s.put (F.STRM_VC_CREDIT_TX_AVAIL 0) (have_ - min flits have_)).bump (F.STRM_VC_TXCNT_COUNT 0) flits
        let s := s.bump F.STRM_TX_FRAME_COUNT
        let chan := fun (c : Nat) => ((s.stream.outs.find? fun a => a.chan = c ∧ a.block = b).map Audio.samples).getD []
        let rows := (List.range n).map chan
        let data := (List.range s.bl).flatMap fun i => rows.map fun r => sampleWord (r.getD i 0)
        s.setStream { s.stream with
          sent := [lo32 (s.startOf b), hi32 (s.startOf b), w32 (n + s.bl * 65536), 0] ++ data })

/-! Flits (R321–R324, R284). -/

/-- Credits of VC2 are withheld: 8 commands are in flight, or fewer than 256 host records are free (R153, R284). -/
def State.vc2Held (s : State) : Bool := 8 ≤ s.get F.KCP_VC2_INFLIGHT ∨ 12224 < s.recordsUsed false + 256

/-- Return the credits that are owed and not withheld (DEDUCED, notes/assumptions/161.md). -/
def State.returnCredits (s : State) : State := if s.vc2Held then s else s.put (F.STRM_VC_CREDIT_RX_OWED 2) 0

/-- A credit of VC2 is owed for a flit taken, or discarded (R322, R324). -/
def State.owe2 (s : State) : State := s.put (F.STRM_VC_CREDIT_RX_OWED 2) (min 255 (s.get (F.STRM_VC_CREDIT_RX_OWED 2) + 1))

/-- Bit i of a flit's payload, the most significant of byte 0 first. -/
def flitBit (payload : List Byte) (i : Nat) : Bool := (payload.getD (i / 8) 0).getLsbD (7 - i % 8)

/-- Lanes that show an error in an idle flit: lane l carries bits 20l to 20l + 19 (R321). -/
def badLanes (payload : List Byte) : List Nat :=
  let idle : List Byte := List.replicate 16 0xA5
  (List.range 7).filter fun l => (List.range 20).any fun i =>
    decide (20 * l + i < 128) && (flitBit payload (20 * l + i) != flitBit idle (20 * l + i))

/-- OPCODE of a time message (R308). -/
def timeOpcode : Nat := 0x1480

/-- A VC2 message is complete: a command waits for the Mason pair; a time message is no command (R284, R308). -/
def State.vc2Done (s : State) : State :=
  let bs := s.stream.vc2
  let bad := s.stream.vc2Bad
  let s := s.setStream { s.stream with vc2 := [], vc2Open := false, vc2Bad := false }
  if bits ((wordsOfBytes bs).getD 0 0) 16 16 = timeOpcode then s
  else
    let s := s.put F.KCP_VC2_INFLIGHT (min 8 (s.get F.KCP_VC2_INFLIGHT + 1))
    let s : State := { s with host := { s.host with rung := s.host.rung ++ [(4, (crc16 bs).toNat, true)] } }
    s.screenOpcode 4 (!bad) (wordsOfBytes bs)

/-- A flit of VC2 (R284): the header flit opens a message, and a message whose header flit was lost is dropped. -/
def State.vc2Flit (s : State) (payload : List Byte) (som eom ok : Bool) : State :=
  if som then
    if ¬ ok then
      (s.setStream { s.stream with vc2 := [], vc2Open := false, vc2Bad := false }).bumpSat F.KCP_VC2_DROP_CNT
    else
      let s := s.setStream { s.stream with vc2 := payload, vc2Open := true, vc2Bad := false }
      if eom then s.vc2Done else s
  else if ¬ s.stream.vc2Open then s
  else
    let s := s.setStream { s.stream with vc2 := s.stream.vc2 ++ payload, vc2Bad := s.stream.vc2Bad || !ok }
    if eom then s.vc2Done else s

/-- A flit whose CRC fails (R322, R329): it is counted, its channel loses it, and 64 in a row of blocks take the link DOWN (DEDUCED, notes/assumptions/160.md). -/
def State.badFlit (s : State) (payload : List Byte) (vc ty : Nat) (som eom : Bool) : State :=
  let s := (s.bumpSat F.STRM_ERR_CRC_CNT).set F.STRM_STATUS_CRC_EVT
  let s := s.raise Mech.link 2 0 0 0
  let lanes := if ty = 1 then badLanes payload else []
  let s := s.setStream { s.stream with crcRun := s.stream.crcRun + b2n (lanes = []) }
  let s := forEach lanes s fun l s => s.bumpSat (F.STRM_LANE_RX_ERR_CNT l)
  let s := if ty ≠ 0 then s else match vc with
    | 1 => s.vc1Flit payload eom false
    | 2 => (s.owe2.vc2Flit payload som eom false).returnCredits
    | _ => s
  if 64 ≤ s.stream.crcRun ∧ lanes = [] then s.strmDown 2 else s

/-- STREAM_FLIT_RECEIVED (R321–R324): audio flits are delivered as whole frames by STREAM_AUDIO_FRAME_RX, and the command that
a VC2 message carries by its own row. -/
def execStreamFlitReceived (payload : List Byte) (control : BitVec 16) (crcOk : Bool) (s : State) :
    Host.Outcome State Fault Refusal :=
  .next (
    let c := control.toNat
    let vc := c / 2 ^ 14
    let som := Nat.testBit c 13
    let eom := Nat.testBit c 12
    let ty := c % 16
    if ¬ s.strmUp then s
    else if ¬ crcOk then s.badFlit payload vc ty som eom
    else if 3 ≤ ty then s.bumpSat F.STRM_ERR_DISCARD_CNT
    else if ty = 2 then s
    else
      let cv := c / 2 ^ 10 % 4
      let grant := min 255 (max (s.stream.grants.getD cv 0) (s.get (F.STRM_VC_CREDIT_TX_AVAIL cv)))
      let s := s.put (F.STRM_VC_CREDIT_TX_AVAIL cv) (min grant (s.get (F.STRM_VC_CREDIT_TX_AVAIL cv) + c / 2 ^ 4 % 64))
      if ty = 1 then s
      else
        let s := s.bump (F.STRM_VC_RXCNT_COUNT vc)
        match vc with
        | 1 => s.vc1Flit payload eom true
        | 2 => (s.owe2.vc2Flit payload som eom true).returnCredits
        | _ => s)

/-- What a block tick does to the port: the map that waits, the credits withheld, the run of CRC failures (R325, R329). -/
def State.streamTick (s : State) : State :=
  let s := match s.stream.mapPending with
    | some (i, o) => (s.put F.STRM_MAP_N_IN i).put F.STRM_MAP_N_OUT o
    | none => s
  (s.setStream { s.stream with mapPending := none, crcRun := 0 }).returnCredits

/-! Commands (R317, R325, R327). -/

/-- The writable registers of the port, and all of them. -/
def strmImage : List Nat := R.STRM_CTRL :: (List.range 4).map R.STRM_VC_CFG
def strmRegs : List Nat := regsIn 0x4A000 0x4A400

/-- STREAM.CONFIG: a port that is disabled has no link (DEDUCED, notes/assumptions/164.md). -/
def cmdStreamConfig : Cmd where
  opcode := 0x1101
  run := false
  arg := fun k _ => firstBad [lenIs k 5]
  act := fun k _ s =>
    let s := s.writeImage strmImage k.payload
    ans (if s.flag F.STRM_CTRL_EN ∨ s.strm = lkOff then s
      else
        let s := (s.loseFlight.put F.STRM_STATUS_STATE lkOff).setLanes 0 0
        s.failType 1 (fun _ => true) 1)
def execStreamConfig (k : Kcp) (s : State) : Host.Outcome State Fault Refusal := .next (kcpExec cmdStreamConfig k s)

/-- STREAM.TRAIN: not on the channel that the training would break (DEDUCED, notes/assumptions/159.md). -/
def cmdStreamTrain : Cmd where
  opcode := 0x1102
  kind := .bulk
  denied := fun k _ => k.chan.val = 4
  arg := fun k _ => firstBad [lenIs k 0]
  refuse := fun _ s => if s.flag F.STRM_CTRL_EN then none else some St.state
  act := fun _ _ s => ans s.trainStart
def execStreamTrain (k : Kcp) (s : State) : Host.Outcome State Fault Refusal := .next (kcpExec cmdStreamTrain k s)

/-- STREAM.GET_STATUS. -/
def cmdStreamGetStatus : Cmd where
  opcode := 0x1103
  fault := true
  reads := true
  arg := fun k _ => firstBad [lenIs k 0]
  act := fun _ _ s => ans s (s.image strmRegs)
def execStreamGetStatus (k : Kcp) (s : State) : Host.Outcome State Fault Refusal := .next (kcpExec cmdStreamGetStatus k s)

/-- STREAM.MAP: in force from the next block tick. -/
def cmdStreamMap : Cmd where
  opcode := 0x1104
  arg := fun k s => firstBad [lenIs k 1, fld 0 0 (k.f 0 0 11 ≤ s.strmLimit), resv k 0 0x07FF07FF, fld 0 16 (k.f 0 16 11 ≤ s.strmLimit)]
  act := fun k _ s => ans (s.setStream { s.stream with mapPending := some (k.f 0 0 11, k.f 0 16 11) })
def execStreamMap (k : Kcp) (s : State) : Host.Outcome State Fault Refusal := .next (kcpExec cmdStreamMap k s)

end Sys2Proof.Machine
end

