-- ==== Sys2Proof/Machine/Sys.lean ====
section
/-! DEFINITION. The SYS commands (R293–R297): capabilities and status, resets of the device and of one block, the power states,
and the configuration image with its commit and erase (R445). -/

namespace Sys2Proof.Machine

/-! Reads. -/

/-- SYS.GET_CAPS (R294). -/
def cmdSysGetCaps : Cmd where
  opcode := 0x0101
  fault := true
  reads := true
  arg := fun k _ => firstBad [lenIs k 0]
  act := fun _ _ s => ans s (s.image (addrs (R.SYS_CAPS 0) 8 4))
def execSysGetCaps (k : Kcp) (s : State) : Host.Outcome State Fault Refusal := .next (kcpExec cmdSysGetCaps k s)

/-- SYS.GET_STATUS. -/
def cmdSysGetStatus : Cmd where
  opcode := 0x0102
  fault := true
  reads := true
  arg := fun k _ => firstBad [lenIs k 0]
  act := fun _ _ s => ans s [
    w32 (s.power.code * 2 ^ 28 + s.resetKind.code * 2 ^ 24 + b2n (s.flag F.SYS_STATE_CONFIG_VALID) * 2 + b2n s.faultPin),
    w32 s.age.sinceReset, w32 s.safe.prot.length]
def execSysGetStatus (k : Kcp) (s : State) : Host.Outcome State Fault Refusal := .next (kcpExec cmdSysGetStatus k s)

/-- SYS.ECHO. -/
def cmdSysEcho : Cmd where
  opcode := 0x0108
  fault := true
  act := fun k _ s => ans s (k.payload.take k.words)
def execSysEcho (k : Kcp) (s : State) : Host.Outcome State Fault Refusal := .next (kcpExec cmdSysEcho k s)

/-! SYS.RESET (R295). -/

/-- A SOFT reset follows the response. The newest response stays on record; the channels themselves are reset. -/
def State.softReset (s : State) : State :=
  let n := s.resetTo .soft
  { n with host := { n.host with response := s.host.response } }

/-- SYS.RESET of kind SOFT, and of a kind that is neither SOFT nor BLOCK. -/
def cmdSoftReset : Cmd where
  opcode := 0x0103
  fault := true
  denied := fun k s => s.squallActive ∧ k.chan ≠ 0
  arg := fun k _ => firstBad [lenIs k 1, fld 0 28 (k.f 0 28 4 = 0), resv k 0 0xFF01FFFF, (k.time = 0, hdrOff)]
  after := fun _ s => s.softReset

/-- The instances of a target of a BLOCK reset. -/
def State.targets (s : State) (target : Nat) : Nat :=
  match target with
  | 1 => s.variant.zones | 2 => 8 | 3 => s.variant.channels | 4 => 16 | 5 => 2 | 6 => 1 | 7 => 1
  | 8 => s.variant.bricks | 9 => 1 | _ => 0

/-- Jobs with a voice on a logical brick. -/
def State.jobsOn (s : State) (b : Nat) : List Job :=
  s.disp.jobs.filter fun j => (s.voicesOf j.record).any fun v => v.src / 128 = b

/-- SYS.RESET of kind BLOCK (R292, R295): a TARGET that the variant lacks is UNSUPPORTED (DESIGN CHOICE, notes/assumptions/166.md). -/
def cmdBlockReset : Cmd where
  opcode := 0x0103
  at_ := .routing
  fault := true
  absent := fun k s => (k.f 0 24 4 = 3 ∧ s.variant.channels = 0) ∨ (k.f 0 24 4 = 7 ∧ ¬ s.variant.hasCourse)
  denied := fun k s =>
    match k.f 0 24 4 with
    | 5 => k.f 0 0 16 = 1 ∧ k.chan.val = 5
    | 6 => k.chan.val = 4
    | 8 => (s.jobsOn (k.f 0 0 16)).any fun j => j.descr.cls ≤ 2
    | 9 => s.disp.jobs.any fun j => j.descr.cls ≤ 2 ∧ j.state = .running
    | _ => false
  arg := fun k s => firstBad [lenIs k 1, fld 0 24 (decide (1 ≤ k.f 0 24 4 ∧ k.f 0 24 4 ≤ 9)), resv k 0 0xFF01FFFF,
    fld 0 0 (decide (k.f 0 0 16 < s.targets (k.f 0 24 4)))]

/-- SYS.RESET (R295). -/
def execSysReset (k : Kcp) (s : State) : Host.Outcome State Fault Refusal :=
  .next (kcpExec (if k.f 0 28 4 = 1 then cmdBlockReset else cmdSoftReset) k s)

/-- The contents of slabs of an owner return to zero. -/
def State.zeroSlabs (s : State) (owner sub : Nat) : State :=
  let own := fun (n : Nat) => n < 32 ∧ s.get (F.SLAB_OWNER_OWNER n) = owner ∧
    (owner ≠ 4 ∨ s.get (F.SLAB_OWNER_OWNER_SUB n) = sub)
  { s with slabs := { s.slabs with
    words := s.slabs.words.filter (fun p => ¬ own (p.1 / 65536)), bad := s.slabs.bad.filter fun x => ¬ own (x / 65536) } }

/-- The owner code of the slabs that a target holds. -/
def slabOwnerOf (target : Nat) : Option Nat :=
  match target with
  | 1 => some 7 | 2 => some 4 | 6 => some 3 | 8 => some 6 | _ => none

/-- A channel's configuration returns to its reset values; its output is muted as by ANA.ENABLE with EN = 0 (R377). -/
def State.resetChan (s : State) (n : Nat) : State :=
  (s.atAnaEnable [w32 n]).clearRegs (R.ANA_CTRL n) (R.ANA_STATUS n)

/-- The course link returns to its reset values: the device leaves its cascade, and P with it. -/
def State.resetCourse (s : State) : State :=
  let s := (s.clearRegs 0x4B000 0x4C000).courseInit
  let s : State := { s with course := { s.course with siteNames := [] } }
  (s.put F.TIME_PIPE_P 0).put F.TIME_PIPE_L 3

/-- The stream port returns to its reset values; what it carried is lost (R219). -/
def State.resetStream (s : State) : State :=
  let s := s.loseFlight
  let s := (s.clearRegs 0x4A000 0x4B000).setStream .init
  s.failType 1 (fun _ => true) 1

/-- The mix matrix returns to its reset values, apart from the taps of hardware-triggered jobs. -/
def State.resetMix (s : State) : State :=
  let s := s.setTaps (s.mix.taps.filter fun t => t.hardware)
  let s := s.setPend []
  { s with mix := { s.mix with sets := [], classes := [], gens := [], aux := [], kept := [] } }.tapsNote 0

/-- A logical brick loses its voices with their whole jobs (R151), and runs the standard kernel. -/
def State.resetBrick (s : State) (b mt : Nat) : State :=
  let s := forEach (s.jobsOn b) s fun j s => s.stopJob j mt 2
  let s := match s.physOf b with
    | some p => s.wr (R.BRICK_KSTAT p) 0
    | none => s
  s.brickKernel b none

/-- A BLOCK reset at its media time (R295, R487): what the retention table keeps through one stays (DEDUCED, notes/assumptions/166.md). -/
def State.atBlockReset (s : State) (mt : Nat) (p : List W32) : State :=
  let w := p.getD 0 0
  let n := bits w 0 16
  let target := bits w 24 4
  let s := s.bump (F.SYS_RESETS_COUNT 5)
  let s := match slabOwnerOf target with
    | some o => if bit w 16 then s else s.zeroSlabs o n
    | none => s
  match target with
  | 1 => (s.zoneReset n mt).clearRegs (R.ZONE_CTRL n) (R.ZONE_CTRL n + 16)
  | 2 =>
    let s := (s.portHalt n).clearRegs (R.APORT_CTRL n) (R.APORT_CTRL n + 128)
    { s with ports := s.ports.filter fun x => x.n ≠ n }.leaders
  | 3 => s.resetChan n
  | 4 =>
    if s.flag (F.TIM_CTRL_LULL_RUN n) then s
    else
      let s := s.clearRegs (R.TIM_CTRL n) (R.TIM_CTRL n + 64)
      { s with timers := s.timers.filter fun t => t.n ≠ n }
  | 5 => s.setUart { UartSt.init n with armed := (s.uart n).armed, wakeArmed := (s.uart n).wakeArmed, stuck := (s.uart n).stuck }
  | 6 => s.resetStream
  | 7 => s.resetCourse
  | 8 => s.resetBrick n mt
  | _ => s.resetMix

/-! SYS.SET_STATE (R296, R489). -/

/-- The power state that a TARGET names. -/
def targetPower (t : Nat) : Option Power :=
  match t with
  | 2 => some .idle | 3 => some .run | 4 => some .lull | _ => none

/-- SYS.SET_STATE: the change is an accepted effect at the first sample of C + 2; a target equal to the present state answers OK
and does nothing (DEDUCED, notes/assumptions/91.md; DEDUCED, notes/assumptions/167.md). -/
def cmdSysSetState : Cmd where
  opcode := 0x0104
  kind := .deferred
  denied := fun k s => k.chan.val ≠ 0 ∧ s.urgent ∧
    ((k.f 0 0 4 = 2 ∧ s.power = .run) ∨ k.f 0 0 4 = 4)
  arg := fun k _ => firstBad [lenIs k 1, fld 0 0 (targetPower (k.f 0 0 4)).isSome, resv k 0 0xF]
  refuse := fun k s => if k.f 0 0 4 = 4 ∧ s.squallActive then some St.state else none
  act := fun k _ s =>
    if targetPower (k.f 0 0 4) = some s.power then { state := s, status := some St.ok }
    else
      let t : Timed := ⟨s.soonest, s.order, 0x0104, [k.w 0], k.chan.val, k.seq, St.accepted, k.notify⟩
      { state := { s with timed := s.timed ++ [t], order := s.order + 1 }, later := true, mt := some s.soonest }
def execSysSetState (k : Kcp) (s : State) : Host.Outcome State Fault Refusal := .next (kcpExec cmdSysSetState k s)

/-- Every job ends ABORTED at the mix at a media time (R296, R489). -/
def State.abortAll (s : State) (mt : Nat) : State := forEach s.disp.jobs s fun j s => s.stopJob j mt 2

/-- Lull entry at its block (R489 step 1): jobs end, analogue channels ramp to zero, and ports stop at the next block boundary
with their POST frames, to start again after the wake (DESIGN CHOICE, notes/assumptions/181.md). -/
def State.lullBegin (s : State) (mt : Nat) : State :=
  let s := s.abortAll mt
  let s := s.outputsInert false
  let s := forEach (List.range 8) s fun n s =>
    if s.portState n = Port.stopped then s
    else
      let s := s.portStopAt n (s.startOf (s.blockNow + 1)) true
      s.setPort { s.port n with resume := true }
  { s with lullFrom := s.power, lullEntry := true }

/-- A change of power state at its media time (R296, R485, R489); one that another change has overtaken does nothing. -/
def State.atSetState (s : State) (mt : Nat) (p : List W32) : State :=
  match targetPower (bits (p.getD 0 0) 0 4), s.power with
  | some .run, .idle => (s.changePower .run).outputsLive
  | some .idle, .run => ((s.abortAll mt).outputsInert false).changePower .idle
  | some .lull, .idle => s.lullBegin mt
  | some .lull, .run => s.lullBegin mt
  | _, _ => s

/-! The configuration image (R297). -/

/-- The words of a SHA-256 digest, byte 0 first. -/
def digestWords (sha : Nat) : List W32 :=
  wordsOfBytes ((List.range 32).map fun i => BitVec.ofNat 8 (sha / 256 ^ (31 - i)))

/-- SYS.CONFIG_BUILD (DEDUCED, notes/assumptions/165.md). -/
def cmdSysConfigBuild : Cmd where
  opcode := 0x0105
  arg := fun k _ => firstBad [lenIs k 1, resv k 0 1]
  act := fun k _ s =>
    let bs := Config.encodeSettings (s.settings (k.bit 0 0))
    let tag := s.nor.nextTag
    let s := { s with nor := { s.nor with held := some ⟨tag, k.bit 0 0, bs⟩, nextTag := (tag + 1) % 65536 } }
    ans s ([w32 bs.length] ++ digestWords (Config.sha256 bs) ++ [w32 tag])
def execSysConfigBuild (k : Kcp) (s : State) : Host.Outcome State Fault Refusal := .next (kcpExec cmdSysConfigBuild k s)

/-- The signature of a commit checks against the key in force, over the digest of the held image (R297, R299). -/
def State.commitSigned (s : State) (k : Kcp) : Bool :=
  match s.nor.held, s.keyInForce with
  | some c, some key => Config.ecdsaOk key (Config.sha256 c.bytes) ((k.payload.drop 1).take 16)
  | _, _ => false

/-- SYS.CONFIG_COMMIT: the image is written with its signature behind it. DENIED with no key, STATE for a tag that is not the held image's or while the region is being written. A
signature that does not check ends it at once (DEDUCED, notes/assumptions/168.md). -/
def cmdSysConfigCommit : Cmd where
  opcode := 0x0106
  kind := .bulk
  denied := fun _ s => s.safe.keys = []
  arg := fun k _ => firstBad [lenIs k 17, resv k 0 0xFFFF]
  refuse := fun k s =>
    if (s.nor.held.any fun c => c.tag = k.f 0 0 16) ∧ s.nor.writing.isNone ∧ ¬ s.nor.erasing then none else some St.state
  act := fun k _ s =>
    if ¬ s.commitSigned k then ans s
    else match s.nor.held with
      | none => ans s
      | some c =>
        let bs := c.bytes ++ bytesOfWords ((k.payload.drop 1).take 16)
        let s : State := { s with nor := { s.nor with writing := some (3, ⟨true, 0, 0, bs⟩) } }
        ans ((s.set (F.MEMIF_REGION_STAT_WRITING 3)).put F.MEMIF_STATUS_NOR_STATE 2)
  after := fun k s => if s.commitSigned k then s else s.post 0x0103 0xFFFF [0x03]
def execSysConfigCommit (k : Kcp) (s : State) : Host.Outcome State Fault Refusal := .next (kcpExec cmdSysConfigCommit k s)

/-- SYS.CONFIG_ERASE. -/
def cmdSysConfigErase : Cmd where
  opcode := 0x0107
  kind := .bulk
  arg := fun k _ => firstBad [lenIs k 0]
  refuse := fun _ s => if s.nor.writing.isNone ∧ ¬ s.nor.erasing then none else some St.state
  act := fun _ _ s =>
    let s : State := { s with nor := { s.nor with erasing := true } }
    ans ((s.set (F.MEMIF_REGION_STAT_WRITING 3)).put F.MEMIF_STATUS_NOR_STATE 2)
def execSysConfigErase (k : Kcp) (s : State) : Host.Outcome State Fault Refusal := .next (kcpExec cmdSysConfigErase k s)

/-- The end of a configuration write or erase: the region shows what it holds, and SYS_CONFIG_DONE reports (R301, R318). -/
def State.configDone (s : State) (ok : Bool) : State :=
  let f := s.nor.flash
  let s := ((s.set (F.MEMIF_REGION_STAT_WRITING 3) false).put F.MEMIF_STATUS_NOR_STATE 1).showRegion 3 f.cfgA f.cfgB
  let s := s.set F.SYS_STATE_CONFIG_VALID (f.cfgA.valid ∨ f.cfgB.valid)
  let s := if ok then s else s.set F.MEMIF_STATUS_NOR_ERR
  s.post 0x0103 0xFFFF [if ok then 0 else 0x04]

/-- NOR_REGION_UPDATE_DONE (R445): the copy not in use has been erased, written and read back, and the HEADER record has
switched copies, or the update has failed and the old copy stays in use. -/
def execNorRegionUpdateDone (region : Fin 4) (ok : Bool) (s : State) : Host.Outcome State Fault Refusal :=
  .next (match s.nor.writing with
    | none => s
    | some (r, c) =>
      if r ≠ region.val then s
      else
        let s := s.noteErase 3
        let s : State := { s with nor := { s.nor with writing := none } }
        let (a, b) := install s.nor.flash.cfgA s.nor.flash.cfgB c.bytes 0
        let s : State := if ok then { s with nor := { s.nor with flash := { s.nor.flash with cfgA := a, cfgB := b } } } else s
        s.configDone ok)

/-- CONFIG_ERASE_DONE (R297): the configuration region is clear, or the NOR failed and the image stays. -/
def execConfigEraseDone (ok : Bool) (s : State) : Host.Outcome State Fault Refusal :=
  .next (
    if ¬ s.nor.erasing then s
    else
      let s := s.noteErase 3
      let s : State := { s with nor := { s.nor with erasing := false } }
      let s : State := if ok then
        { s with nor := { s.nor with flash := { s.nor.flash with cfgA := norCopyBlank, cfgB := norCopyBlank } } } else s
      s.configDone ok)

end Sys2Proof.Machine
end

