-- ==== Sys2Proof/Machine/Audio.lean ====
section
/-! DEFINITION. The sample path of one block: what a source gives the mix (R171, R179, R196), the tap sums of the buses (R184,
R188), live classes and ducking (R146, R147), and the stages of a zone (R202–R216). -/

namespace Sys2Proof.Machine

/-! Arithmetic. -/

/-- A sample times a coefficient in 2^−60 of unity. -/
def scale (x c : Int) : Int := roundEven 60 (x * c)

/-- A linear ramp from 0 to unity over so many samples from a media time, and one from unity to 0 (DESIGN CHOICE,
notes/assumptions/106.md). -/
def rise (start len mt : Nat) : Int := if start + len ≤ mt then Fx.unit else Fx.unit * (mt - start : Nat) / len
def fall (start len mt : Nat) : Int := Fx.unit - rise start len mt

/-- A linear crossfade over so many samples from a media time. -/
def crossfade (start len mt : Nat) (old new : Int) : Int :=
  let w := rise start len mt
  roundEven 60 (old * (Fx.unit - w) + new * w)

/-- The media times of a block's samples. -/
def State.times (s : State) (b : Nat) : List Nat := (List.range s.bl).map fun i => s.startOf b + i

/-- Samples of a list with the media times of a block. -/
def State.timed_ (s : State) (b : Nat) (xs : List Int) : List (Int × Nat) := xs.zip (s.times b)

/-- The samples of a channel's block in a list of audio. -/
def audioAt (l : List Audio) (chan block : Nat) : Option (List Sample) :=
  (l.find? fun a => a.chan = chan ∧ a.block = block).map Audio.samples

/-- Samples as numbers. -/
def nums (xs : List Sample) : List Int := xs.map sVal
/-- Silence for a block. -/
def State.quiet (s : State) : List Int := List.replicate s.bl 0

/-- Round and saturate a stage's results; whether any of them saturated (R203). -/
def saturate (n : Nat) (xs : List Int) : List Int × Bool :=
  let ys := xs.map (roundEven n)
  (ys.map sat24, ys.any fun y => sat24 y ≠ y)

/-! Voices at the mix (R68, R145, R171). -/

/-- The voice is due at the mix in a block: it has started, has not ended, and has not been stopped before. -/
def State.sounds (s : State) (v : Voice) (b : Nat) : Bool :=
  s.liveIn v b ∧ v.stop.all fun t => s.startOf b < t.mt + 32

/-- The block lies in the silent gap of a migration (R176). -/
def Voice.inGap (v : Voice) (b : Nat) : Bool := v.gapFrom.any fun g => g ≤ b ∧ b < g + 6

/-- The staged copy of a block that the mix may take. -/
def Voice.stagedAt (v : Voice) (b : Nat) : Option Staged := v.staged.find? fun t => t.block = b ∧ t.valid ∧ ¬ v.inGap b

/-- A voice's samples for a block (R145, R171): the staged ones, ramped in after a late block; for a late block the last committed
sample ramped to 0; a stop's declick on either (DESIGN CHOICE, notes/assumptions/170.md). -/
def State.voiceAt (s : State) (v : Voice) (b : Nat) (last : Int) (wasLate : Bool) (stop : Option Nat) : List Int :=
  let t0 := s.startOf b
  let xs := match v.stagedAt b with
    | some t => (s.timed_ b (nums t.samples)).map fun x => if wasLate then scale x.1 (rise t0 32 x.2) else x.1
    | none => (s.times b).map fun mt => scale last (fall t0 32 mt)
  match stop with
  | none => xs
  | some t => (s.timed_ b xs).map fun x => scale x.1 (fall t 32 x.2)

/-- A voice's samples as block b mixes it. -/
def State.voiceMix (s : State) (v : Voice) (b : Nat) : List Int :=
  if s.sounds v b then s.voiceAt v b (sVal v.lastSample) v.wasLate (v.stop.map VoiceStop.mt) else s.quiet

/-! Generators, pilots and probes (R196, R215, R216, R396). -/

/-- A sine at a phase of n ÷ d cycles and an amplitude in 2^−60, as a sample. -/
def sineSample (place n d : Nat) (a : Int) : Int := sat24 (quant place (Fx.mul a (Fx.sinTurn n d)) (2 ^ 37))

/-- A sine or noise generator's samples (R196). The level ramps; before the sample of a change it has the parameter and
seed from before (DEDUCED, notes/assumptions/108.md). -/
def State.genBlock (s : State) (src b : Nat) : List Int :=
  let g := s.gen src
  (s.times b).map fun mt =>
    let now := (g.param, g.seed, g.shift, g.setMt)
    let (p, seed, shift, t) := if g.setMt ≤ mt then now else (g.past.find? fun p => p.2.2.2 ≤ mt).getD (g.past.getLast?.getD now)
    let a := g.level.coef s.bl mt
    if src < 10048 then sineSample 62 (mt * p + shift) (s.hz * 100) a
    else
      let x := Config.noise (crc32 (leBytes (src - 10048) 4 ++ leBytes seed 8)).toNat p (mt - t)
      sat24 (scale (within_ (-8388608) 8388607 x) a)

/-- The settings of a zone as they are, and at a sample of a block that it handles (R16, R202). -/
def State.zoneSetAt (s : State) (z : Zone) (mt : Nat) : ZoneSet :=
  ((z.olds.find? fun o => mt < o.1).map Prod.snd).getD (s.zoneSet z.n)

/-- The pilot of a zone at a media time under its settings, without its ramp (R215, R216, R404). -/
def State.pilotSample (s : State) (z : Nat) (c : ZoneSet) (mt : Nat) : Int :=
  sineSample 63 (mt * (1664 + s.sweepBin z c.pilotBin mt)) (4096 * (s.hz / Config.singleHz s.rate)) (Fx.gain c.pilotLevel 128)

/-- The pilot's samples of a block with its ramp; at a jump of so many blocks it crossfades over the block to the phase of the new media
time (R216). -/
def State.pilotBlock (s : State) (z : Zone) (b jump : Nat) : List Int :=
  (s.times b).map fun mt =>
    let c := s.zoneSetAt z mt
    let new := s.pilotSample z.n c mt
    let x := if jump = 0 then new else crossfade (s.startOf b) s.bl mt (s.pilotSample z.n c (mt - jump * s.bl)) new
    scale x (z.pilotOn.coef s.bl mt)

/-- The seed of a zone's probe (R396). -/
def State.probeSeed (s : State) (n : Nat) : Nat := (crc32 (leBytes s.courseNo 4 ++ leBytes n 4)).toNat

/-- The probe sounds in a block (R396, R397): the zone has an enabled path and nothing holds the probe off; it comes back at an
update block. -/
def State.probeWanted (s : State) (z : Zone) (b : Nat) : Bool :=
  ¬ s.probeOff z.n ∧ (s.supv.paths.any fun p => p.en ∧ p.zone = z.n) ∧ (z.probeOn ∨ b % 64 = 0)

/-- The peak amplitude of a zone's probe in a block, in 2^−60. -/
def State.probeTop (s : State) (n b : Nat) : Int := Config.probePeak (s.probeSeed n) (b / 64)

/-- The probe's samples of a block; it comes and goes with a ramp over one block (R397) (DESIGN CHOICE, notes/assumptions/111.md). -/
def State.probeBlock (s : State) (z : Zone) (b : Nat) (on : Bool) : List Int :=
  if ¬ on ∧ ¬ z.probeOn then s.quiet
  else
    let top := s.probeTop z.n b / 2 ^ 37
    (s.times b).map fun mt =>
      let c := if on ∧ z.probeOn then Fx.unit else if on then rise (s.startOf b) s.bl mt else fall (s.startOf b) s.bl mt
      scale (within_ (-top) top (Config.probe (s.probeSeed z.n) (b / 64) mt)) c

/-! Sources (R179). -/

/-- A source other than a voice, in block b: `rets` holds the zone returns of block C − 2. -/
def State.inputAt (s : State) (rets : List (Nat × List Int)) (src b : Nat) : List Int :=
  if src < 9216 then nums ((audioAt s.mix.inputs src b).getD (silence s.bl))
  else if src < 9472 then (s.times b).map fun mt => sVal (s.portSample ((src - 9216) / 32) (src % 32) mt)
  else if src < 9728 then nums (s.courseInput (src - 9472) b ((audioAt s.mix.inputs src b).getD (silence s.bl)))
  else if src < 9984 then (kget rets (src - 9728)).getD s.quiet
  else if src < 10112 then s.genBlock src b
  else if src < 10176 then s.pilotBlock (s.zone (src - 10112)) b 0
  else s.probeBlock (s.zone (src - 10176)) b (s.zone (src - 10176)).probeOn

/-! Live classes and ducking (R146, R147). -/

/-- The class of a tap's source: its job's for a voice (R195) (DEDUCED, notes/assumptions/110.md). -/
def State.tapClass (s : State) (t : Tap) : Nat :=
  match t.job with
  | some r => ((s.voiceIn t.src r).map Voice.cls).getD 15
  | none => (s.srcClass t.src).cls

/-- The tap's source is active in a block (R146, R195). -/
def State.tapLive (s : State) (rets : List (Nat × List Int)) (t : Tap) (b : Nat) : Bool :=
  match t.job with
  | some r => (s.voiceIn t.src r).any fun v => s.sounds v b
  | none =>
    let c := s.srcClass t.src
    match c.mode with
    | 0 => false
    | 1 => true
    | 2 => c.thresh ≤ peakOf ((s.inputAt rets t.src b).map sOf)
    | _ => s.contactActive c.contact

/-- Note the live taps of a block by bus and class (R146). -/
def State.noteLive (s : State) (rets : List (Nat × List Int)) (b : Nat) : State :=
  let now := ((s.mix.taps.filter fun t => s.tapLive rets t b).map fun t => (t.bus, s.tapClass t)).dedup
  let kept := s.mix.live.filter fun l => ¬ now.contains (l.1, l.2.1) ∧ b ≤ l.2.2 + 4095
  { s with mix := { s.mix with live := (now.map fun p => (p.1, p.2, b)) ++ kept } }

/-- A bus's class in a block: the lowest that is live or held (R146). -/
def State.busClass (s : State) (bus b : Nat) : Option Nat :=
  ((s.mix.live.filter fun l => l.1 = bus ∧ b ≤ l.2.2 + s.get F.DISP_ARB_HOLD_TAIL).map fun l => l.2.1).foldl
    (fun m c => match m with | none => some c | some x => some (min x c)) none

/-- A duck's gain and ramp code as a zone's gate or DISP_ARB states them (R147, R205). -/
def duckGain (depth : Nat) : Int := if depth = 255 then muteCode else -128 * (min depth 60 : Nat)
def duckCode (ramp : Nat) : Nat := max 1 ramp

/-- A duck moves at the first sample of a block where it starts or lifts; one that runs keeps its values (R147, R205). -/
def Ramp.duckTo (r : Ramp) (bl t0 : Nat) (ducked : Bool) (depth ramp : Nat) : Ramp :=
  if ducked then (if r.dst = 0 then r.to bl t0 (duckGain depth) (duckCode ramp) else r)
  else if r.dst = 0 then r else r.to bl t0 0 (duckCode ramp)

/-- A class is ducked under another (R147). -/
def under (c : Option Nat) (low : Option Nat) : Bool :=
  match c, low with
  | some c, some l => l < c
  | _, _ => false

/-- Duck the taps of a block under their buses' classes (R147). -/
def State.duckTaps (s : State) (b : Nat) : State :=
  s.setTaps (s.mix.taps.map fun (t : Tap) =>
    let ducked := under (some (s.tapClass t)) (s.busClass t.bus b)
    let (depth, ramp) := if t.bus < 256 then
        ((s.zoneSetAt (s.zone t.bus) (s.startOf b)).depth, (s.zoneSetAt (s.zone t.bus) (s.startOf b)).ramp)
      else (s.get F.DISP_ARB_AUX_DUCK_DEPTH, s.get F.DISP_ARB_AUX_DUCK_RAMP)
    { t with duck := t.duck.duckTo s.bl (s.startOf b) ducked depth ramp })

/-! Bus sums (R184, R188). -/

/-- The samples that a tap's source gives a block. -/
def State.tapSource (s : State) (rets : List (Nat × List Int)) (t : Tap) (b : Nat) : List Int :=
  match t.job with
  | some r => ((s.voiceIn t.src r).map fun v => s.voiceMix v b).getD s.quiet
  | none => s.inputAt rets t.src b

/-- Add lists of samples. -/
def sumRows (n : Nat) (rows : List (List Int)) : List Int := rows.foldl (fun a r => a.zipWith (· + ·) r) (List.replicate n 0)

/-- A bus in a block and whether it saturates: each product rounded to 2^−32 of full scale, the sum rounded to 24 bits. -/
def State.busSum (s : State) (taps : List Tap) (b : Nat) (src : Tap → List Int) : List Int × Bool :=
  saturate 9 (sumRows s.bl (taps.map fun t => (s.timed_ b (src t)).map fun x => roundEven 51 (x.1 * t.coef s.bl x.2)))

/-! A zone's stages (R202–R216). -/

/-- One biquad section on one sample (R208). -/
def Biquad.step (q : Biquad) (x : Int) : Biquad × Int × Bool :=
  let y := roundEven 21 (q.b0 * x + q.b1 * q.x1 + q.b2 * q.x2 - q.a1 * q.y1 - q.a2 * q.y2)
  ({ q with x1 := x, x2 := q.x1, y1 := sat24 y, y2 := q.y1 }, sat24 y, sat24 y ≠ y)

/-- One section on a block. -/
def Biquad.run (q : Biquad) : List Int → Biquad × List Int × Bool
  | [] => (q, [], false)
  | x :: xs =>
    let (q, y, c) := q.step x
    let (q, ys, d) := Biquad.run q xs
    (q, y :: ys, c || d)

/-- The sections in order. -/
def eqRun : List Biquad → List Int → List Biquad × List Int × Bool
  | [], xs => ([], xs, false)
  | q :: qs, xs =>
    let (q, ys, c) := q.run xs
    let (qs, zs, d) := eqRun qs ys
    (q :: qs, zs, c || d)

/-- A FIR's sum at a sample, newest input first (R209). -/
def dot (c h : List Int) : Int := ((c.zip h).map fun p => p.1 * p.2).sum

/-- A FIR on a block: the outputs, and the inputs it keeps. No coefficient is no filter. -/
def firRun (c : List Int) : List Int → List Int → List Int × List Int × Bool
  | h, [] => ([], h, false)
  | h, x :: xs =>
    let h := (x :: h).take 1024
    let y := if c = [] then x else roundEven 23 (dot c h)
    let (ys, h, d) := firRun c h xs
    (sat24 y :: ys, h, sat24 y ≠ y || d)

/-- A delay line on a block (R212): the outputs at several delays, and the line, newest sample first. -/
def delayRun (ds : List Nat) (keep : Nat) : List Int → List Int → List (List Int) × List Int
  | h, [] => ([], h)
  | h, x :: xs =>
    let h := (x :: h).take keep
    let (ys, h') := delayRun ds keep h xs
    ((ds.map fun d => h.getD d 0) :: ys, h')

/-- A crossfade still runs at the end of a block. -/
def State.fading (s : State) (b start : Nat) : Bool := s.startOf (b + 1) < start + 32

/-- Crossfade two blocks from a start. -/
def State.blend (s : State) (b start : Nat) (old new : List Int) : List Int :=
  ((s.timed_ b old).zip new).map fun x => crossfade start 32 x.1.2 x.1.1 x.2

/-- A block through crossfades from a signal that gives way at a sample. -/
def State.blendOn (s : State) (b : Nat) (old : List Int) (t : Nat) : List (List Int × Nat) → List Int → List Int
  | [], new => s.blend b t old new
  | (x, u) :: r, new => s.blendOn b (s.blend b t old x) u r new

/-- A block through crossfades, in order: what has been left behind, each with the sample at which it gives way to the next; a crossfade
that begins while one runs starts from what that has reached (DEDUCED, notes/assumptions/210.md). -/
def State.blends (s : State) (b : Nat) : List (List Int × Nat) → List Int → List Int
  | [], new => new
  | (x, t) :: r, new => s.blendOn b x t r new

/-- The changes of a setting whose crossfades still run at the end of a block. -/
def State.stillFading {α : Type} (s : State) (b : Nat) (l : List (α × Nat)) : List (α × Nat) := l.filter fun o => s.fading b o.2

/-- What a bus gave a zone in a block. -/
def State.busBlock (s : State) (bus b : Nat) : List Int := ((audioAt s.mix.buses bus b).map nums).getD s.quiet

/-- The lowest class among a zone's input buses (R146). -/
def State.zoneHold (s : State) (z : Zone) (b : Nat) : Option Nat :=
  (z.inputs.filterMap fun i => s.busClass i b).foldl
    (fun m c => match m with | none => some c | some x => some (min x c)) none

/-- Of what an input position has held, what gives way to another bus, or to nothing. -/
def givesWay : List (Nat × Nat) → Option Nat → List (Nat × Nat)
  | [], _ => []
  | [o], now => if some o.1 = now then [] else [o]
  | o :: p :: r, now => if o.1 = p.1 then givesWay (p :: r) now else o :: givesWay (p :: r) now

/-- Stages 1 and 2: the gated sum of the inputs; an input whose bus has changed crossfades, and a zone that drains fades its
inputs (R204, R205, R223). -/
def State.zoneSum (s : State) (z : Zone) (b : Nat) : List Int × Bool :=
  saturate 60 (sumRows s.bl ((List.range 4).map fun p =>
    let new := if z.draining then s.quiet else s.busBlock (z.inputs.getD p 0x3FF) b
    let olds := givesWay (z.oldInputs.map fun o => (o.1.getD p 0x3FF, o.2)) (if z.draining then none else some (z.inputs.getD p 0x3FF))
    let xs := s.blends b (olds.map fun o => (s.busBlock o.1 b, o.2)) new
    (s.timed_ b xs).map fun x => x.1 * (z.ducks.getD p (.unity)).coef s.bl x.2))

/-- The ambient gain of a block in 1/10,000 dB (R207): it moves towards the target by 0.006 dB up or 0.0012 dB down. -/
def Ambient.move (a : Ambient) : Nat :=
  match a.estimate with
  | none => 0
  | some e =>
    let target := (clampI 0 (a.max * 5000 : Nat) ((e * 64 - a.ref) * a.slope * 10000 / 2048)).toNat
    if a.gain < target then min target (a.gain + 60) else Nat.max target (a.gain - 12)

/-- The power of a zone's microphone over a gap block (R207). -/
def State.ambientNote (s : State) (a : Ambient) (b : Nat) (xs : List Int) : Ambient :=
  let quiet := peakOf (xs.map sOf) < a.gapThresh
  let run := if quiet then a.quiet + 1 else 0
  if a.hang < run ∧ 8192 ≤ a.mic ∧ a.gapBlocks < 64 then
    let mic := nums ((audioAt s.mix.inputs a.mic b).getD (silence s.bl))
    { a with quiet := run, gapBlocks := a.gapBlocks + 1, power := a.power + (mic.map fun x => x.natAbs ^ 2).sum }
  else { a with quiet := run }

/-! Dynamics (R211, R216, R396). -/

/-- The level of a sample in 2^−60 dB, −120.00 dB at the lowest (DESIGN CHOICE, notes/assumptions/171.md). -/
def dbOf (x : Int) : Int :=
  if x = 0 then -120 * Fx.unit else Fx.mul (Fx.log2 (x.natAbs * Fx.unit) - 23 * Fx.unit) (Fx.div (20 * Fx.ln2) Fx.ln10)

/-- What is left of a difference after one sample, with a time constant of n ÷ d seconds. -/
def decay (hz n d : Nat) : Int := Fx.exp (-(Fx.unit * d / (n * hz : Nat)))

/-- The compressor's gain at a detected level (R211): nothing is reduced below the knee, all of the law above it. -/
def Dyn.compGain (d : Dyn) (level : Int) : Int :=
  let over_ := level - d.thresh * Fx.unit / 128
  let knee := d.knee * Fx.unit / 2
  let x :=
    if 2 * over_ ≤ -knee then 0
    else if knee ≤ 2 * over_ then over_
    else within_ (max 0 over_) ((2 * over_ + knee) / 4) (Config.kneeCurve knee over_)
  Fx.exp (Fx.mul (d.makeup * Fx.unit / 128 - x * (d.ratio - 16) / d.ratio) (Fx.ln10 / 20))

/-- The compressor and the limiter on one sample: the detector follows the peak with its time constants, an evacuation bypasses the
compressor by a ramp over one block, and the limiter keeps the ceiling (R211). -/
def Dyn.step (d : Dyn) (hz bl : Nat) (evac : Bool) (ceil : Int) (x : Int) : Dyn × Int × Bool :=
  let lv := dbOf x
  let keep := if d.level < lv then decay hz d.attack 10000 else decay hz d.release 1000
  let level := lv + Fx.mul (d.level - lv) keep
  let by_ := clampI 0 Fx.unit (d.bypass + (if evac then Fx.unit / bl else -(Fx.unit / bl)))
  let g := d.compGain level
  let y := x * (g + Fx.mul (Fx.unit - g) by_)
  let need := if y.natAbs ≤ ceil * 2 ^ 23 then Fx.unit else ceil * 2 ^ 23 * Fx.unit / y.natAbs
  let lim := min need (within_ d.limGain Fx.unit (Config.limRecover d.limRelease hz d.limGain))
  let top := ceil * 2 ^ 23 / Fx.unit
  ({ d with level := level, bypass := by_, limGain := lim }, clampI (-top) top (roundEven 120 (y * lim)), decide (lim < Fx.unit))

/-- The ceiling in force (R211, R216, R396): it leaves room for the pilot, and for the probe. -/
def State.ceiling (s : State) (z : Zone) (c : ZoneSet) (b : Nat) (probe : Bool) : Int :=
  let top := Fx.gain c.dyn.ceiling 128
  let top := if c.pilotEn then min top (Fx.unit - Fx.gain c.pilotLevel 128) else top
  if probe then top - s.probeTop z.n b else top

/-- Stage 6 on a block: its samples, what it keeps, and whether the limiter reduces gain. -/
def State.zoneDyn (s : State) (z : Zone) (hold : Option Nat) (b : Nat) (probe : Bool) (xs : List Int) : Dyn × List Int × Bool :=
  let low := hold.any fun c => c ≤ 2
  let r := (s.timed_ b xs).foldl (fun (a : Dyn × List Int × Bool) x =>
    let c := s.zoneSetAt z x.2
    if ¬ c.dynEn then (a.1, x.1 :: a.2.1, a.2.2)
    else
      let d := { c.dyn with level := a.1.level, limGain := a.1.limGain, bypass := a.1.bypass }
      let (d, y, l) := d.step s.hz s.bl (c.evacBypass && low) (s.ceiling z c b probe) x.1
      (d, y :: a.2.1, a.2.2 || l)) (z.dyn, [], false)
  ({ z.dyn with level := r.1.level, limGain := r.1.limGain, bypass := r.1.bypass }, r.2.1.reverse, r.2.2)

/-- The zone processes: it is enabled, it drains, or its output still ramps (R223). -/
def State.zoneRuns (s : State) (z : Zone) (b : Nat) : Bool :=
  s.flag (F.ZONE_CTRL_EN z.n) ∨ z.draining ∨ ¬ z.fade.over s.bl (s.startOf b) ∨ ¬ z.pilotOn.over s.bl (s.startOf b)

/-- The gate's ducks for a block (R147, R205). -/
def State.zoneDucks (s : State) (z : Zone) (hold : Option Nat) (b : Nat) : List Ramp :=
  z.ducks.zipIdx.map fun x =>
    x.1.duckTo s.bl (s.startOf b) (under (s.busClass (z.inputs.getD x.2 0x3FF) b) hold)
      (s.zoneSetAt z (s.startOf b)).depth (s.zoneSetAt z (s.startOf b)).ramp

/-- Blocks on their way to the pins: the newest first, none that the pins have presented (R11). -/
def State.sendZone (s : State) (z : Zone) (b : Nat) (ys : List Int) : List Audio :=
  ⟨z.n, b, ys.map sOf⟩ :: z.sent.filter fun a => s.blockNow ≤ a.block
def State.sendPilot (s : State) (z : Zone) (b : Nat) (ys : List Int) : List Audio :=
  (if s.dewStepOf z.n = some 1 then [⟨z.n, b, ys.map sOf⟩] else []) ++ z.pilots.filter fun a => s.blockNow ≤ a.block

/-- The settings of a zone that has been reset return to their reset values (R295). -/
def Zone.renewed (z : Zone) : Zone :=
  if z.resetDue then { Zone.init z.n with hold := z.hold, out := z.out, sent := z.sent, pilots := z.pilots, leaving := z.leaving } else z

/-- Stages 1 to 9 of a zone that runs. A zone that is enabled in the block processes from the sample of that on (R223) (DEDUCED, notes/assumptions/107.md). -/
def State.zoneStages (s : State) (z : Zone) (b jump : Nat) : State :=
  let n := z.n
  let (x2, c2) := s.zoneSum z b
  let x2 := (s.timed_ b x2).map fun x => if x.2 < z.fade.start ∧ z.fade.coef s.bl x.2 = 0 then 0 else x.1
  let up := z.ambient.move
  let amb := if s.flag (F.ZONE_CTRL_AMB_EN n) then { s.ambientNote z.ambient b x2 with gain := up } else { z.ambient with gain := 0 }
  let (x3, c3) := saturate 60 ((s.timed_ b x2).map fun x =>
    x.1 * if (s.zoneSetAt z x.2).ambEn then Fx.gain up 10000 else Fx.unit)
  let (eq, x4, c4) := eqRun z.biquads x3
  let were := z.oldEq.map fun o => (eqRun o.1 x3, o.2)
  let x4 := s.blends b (were.map fun o => (o.1.2.1, o.2)) x4
  let (x5, hist, c5) := firRun z.fir z.firHist x4
  let x5 := s.blends b (z.oldFir.map fun o => ((firRun o.1 z.firHist x4).1, o.2)) x5
  let probe := s.probeWanted z b
  let (dyn, x6, lim) := s.zoneDyn z z.hold b probe x5
  let (x6, c6) := saturate 0 x6
  let near := fun (d : Nat) => if s.banks.available then d else min d 1024
  let (rows, line) := delayRun ((near z.delay) :: z.oldDelay.map fun o => near o.1) (2 * s.hz + 1) z.line x6
  let tap := fun (i : Nat) => rows.map fun r => r.getD i 0
  let x7 := s.blends b (z.oldDelay.zipIdx.map fun o => (tap (o.2 + 1), o.1.2)) (tap 0)
  let (x8, c8) := saturate 60 ((s.timed_ b x7).map fun x => x.1 * z.gain.coef s.bl x.2)
  let x8 := (s.timed_ b x8).map fun x => scale x.1 (z.fade.coef s.bl x.2)
  let pilot := s.pilotBlock z b jump
  let (x9, c9) := saturate 0 (sumRows s.bl [x8, pilot, s.probeBlock z b probe])
  let s := s.setZone (Zone.renewed { z with
    ambient := amb, biquads := eq, oldEq := s.stillFading b ((were.map fun o => (o.1.1, o.2))), firHist := hist,
    oldFir := s.stillFading b z.oldFir, dyn := dyn, olds := z.olds.filter fun o => s.startOf (b + 1) < o.1,
    line := line, oldDelay := s.stillFading b z.oldDelay, oldInputs := s.stillFading b z.oldInputs,
    probeOn := probe, out := x8, sent := s.sendZone z b x9, pilots := s.sendPilot z b pilot })
  let s := if c2 ∨ c3 ∨ c4 ∨ c5 ∨ c6 ∨ c8 ∨ c9 then s.set (F.ZONE_STATUS_CLIP n) else s
  (s.set (F.ZONE_STATUS_LIMITING n) lim).put (F.ZONE_STATUS_AMB_GAIN n) (amb.gain / 1250)

/-- A zone's block (R202): its hold class is noted whether it is enabled or not; a zone that does not run gives zeros (R223). -/
def State.zoneBlock (s : State) (b jump n : Nat) : State :=
  let z := s.zone n
  let hold := s.zoneHold z b
  let s := if hold = s.holdClass n then s
    else (s.set (F.ZONE_STATUS_HOLD_VALID n) hold.isSome).put (F.ZONE_STATUS_HOLD_CLASS n) (hold.getD 0)
  if s.zoneRuns z b then s.zoneStages { z with hold := hold, ducks := s.zoneDucks z hold b } b jump
  else if (pick Zone.n n s.zones).isNone then s
  else s.setZone (Zone.renewed { z with
    hold := hold, ducks := s.zoneDucks z hold b, out := s.quiet, probeOn := false, line := [],
    oldInputs := s.stillFading b z.oldInputs, oldEq := s.stillFading b z.oldEq, oldFir := s.stillFading b z.oldFir,
    oldDelay := s.stillFading b z.oldDelay,
    olds := z.olds.filter fun o => s.startOf (b + 1) < o.1, sent := s.sendZone z b s.quiet, pilots := s.sendPilot z b s.quiet })

/-- Every zone's block. -/
def State.zoneAll (s : State) (b jump : Nat) : State := forEach (List.range s.variant.zones) s fun n s => s.zoneBlock b jump n

end Sys2Proof.Machine
end

