-- ==== Sys2Proof/Machine/Render.lean ====
section
/-! DEFINITION. What the bricks do in a block period for voices of the standard kernel (R17, R156–R170): block F of every voice, then
the re-render queue, then the growth of the depth; and the rollback procedure. -/

namespace Sys2Proof.Machine

/-- A brick runs the standard kernel. -/
def State.standard (s : State) (br : Nat) : Bool := (s.kimage br).isNone

/-- The cycles of a voice's block that has just been rendered. -/
def State.blockCycles (s : State) (src record b : Nat) : Nat := ((s.voiceIn src record).map fun v => s.voiceCycles v b).getD 0

/-- Block F of every active voice of a brick, in slot order, from the guaranteed budget (R168). -/
def State.serveFront (br : Nat) : Nat → State → State
  | 0, s => s
  | n + 1, s => match s.frontNext br with
    | none => s
    | some v =>
      let b := v.next
      let s := s.renderBlock v
      (s.spendFront br (s.blockCycles v.src v.record b)).serveFront br n

/-- What a brick's reserve serves next: the head of its queue, or the growth of the depth behind it (R169). -/
def State.work (s : State) (br : Nat) : Option Voice := (s.queueHead br).orElse fun _ => s.growNext br

/-- Serve a brick's queue from its reserve, a voice block at a time, until it is empty, the reserve is used, or a goal is reached; what is
left stays at its place (R164, R169). -/
def State.serveQueue (br : Nat) (goal : State → Bool) : Nat → State → State
  | 0, s => s
  | n + 1, s =>
    if goal s then s
    else match s.work br with
      | none => s
      | some v => match v.rollback with
        | some e => (s.restoreVoice v e).serveQueue br goal n
        | none =>
          let b := v.next
          if s.reserveLeft br < s.voiceCycles v b then s
          else
            let s := s.renderBlock v
            (s.useReserve br (s.blockCycles v.src v.record b)).serveQueue br goal n

/-- The steps that the queue of a brick can take in a period at most: a restore for each voice, and voice blocks of 1,180 cycles at
least from the budget and the reserve (R168, R538). -/
def serveFuel : Nat := 128 + 511166 / 1180

/-- Serve the queue of every standard brick with what its reserve has left. -/
def State.serveAll (s : State) : State :=
  forEach (List.range s.variant.bricks) s fun br s => if s.standard br then s.serveQueue br (fun _ => false) serveFuel else s

/-- BRICK_RENDER_PERIOD (R168): on every standard brick, block F of every voice, then its queue. -/
def State.renderPeriod (s : State) : State :=
  (forEach (List.range s.variant.bricks) s fun br s => if s.standard br then s.serveFront br 128 else s).serveAll

/-- Some brick's queue holds work for a block at or before C + 2 (R170). -/
def State.storm (s : State) : Bool := s.disp.voices.any fun v => s.queued v ∧ v.need ≤ s.commit + 2

/-- JOB_STARTED (R319): voice 0 of a job with NOTIFY_START has rendered its first block. -/
def State.noteStart (s : State) (j : Job) : State :=
  if ¬ j.descr.notifyStart ∨ j.started then s
  else match (s.voicesOf j.record).find? fun v => v.index = 0 ∧ s.blockOf v.startMt < v.next with
    | none => s
    | some v => (s.postAt 0x0402 j.record v.startMt [j.handle, w32 (s.handleOf v.src)]).setJob { j with started := true }

/-- JOB_STARTED of every job whose first block has been rendered. -/
def State.noteStarts (s : State) : State := forEach s.disp.jobs s fun j s => s.noteStart j

/-- ROLLBACK_RERENDER (R164, R169): the brick of a source serves its queue up to the end of that voice's work in it; a customer kernel's
calls do so where the brick runs one (DESIGN CHOICE, notes/assumptions/36.md; DESIGN CHOICE, notes/assumptions/84.md). -/
def execRollbackRerender (src : Nat) (s : State) : Host.Outcome State Fault Refusal :=
  let br := src / 128
  .next (if s.standard br then
      s.serveQueue br (fun t => ¬ t.disp.voices.any fun v => v.src = src ∧ t.queued v) serveFuel
    else s.callNext)

end Sys2Proof.Machine
end

