-- ==== Sys2Proof/Machine/Outlet.lean ====
section
/-! DEFINITION. The output transport (R11, R12, R181, R217–R220, R326, R336, R353, R371) and the mix of a block (R171, R172, R179–R189),
with the send pass of a course (R336, R337). -/

namespace Sys2Proof.Machine

/-! What a destination carries. -/

/-- The gain of the device's outputs at a media time of a block (R41, R296, R346, R348, R483): zero unless the device is live, zero
for a standby twin, a ramp to zero over the block in which a rate change starts, and a ramp in after it and after a takeover. -/
def State.outGain (s : State) (b mt : Nat) : Int :=
  if ¬ s.live ∨ s.standby then 0
  else
    let up := match s.course.rampFrom with
      | none => Fx.unit
      | some t => rise t 32 mt
    match s.time.rate with
    | none => up
    | some r =>
      if ¬ r.ramped then up
      else if s.commit = r.blockA ∧ ¬ r.rebased then fall (s.startOf b) s.bl mt
      else 0

/-- A zone's block as it is carried to the destinations of a key, with their ramps (R217–R220); in a fallback sweep the role's pilot goes to
the fallback alone (R404). -/
def State.zoneFeeds (s : State) (z : Zone) (key b : Nat) : List (List Int) :=
  let xs := nums ((audioAt z.sent z.n b).getD (silence s.bl))
  let pilot := nums ((audioAt z.pilots z.n b).getD (silence s.bl))
  let swept := s.sweptRole z.n (s.startOf b)
  let out := fun (r : Ramp) => (s.timed_ b xs).map fun x => scale x.1 (r.coef s.bl x.2)
  let mine := (List.range 4).filter fun i => destKey (z.dests.getD i 0) = key
  let held := mine.filter fun i => s.carries z i
  let less := fun (i : Nat) (ys : List Int) =>
    if swept = some (destRole (z.dests.getD i 0)) then (ys.zip pilot).map fun p => p.1 - p.2 else ys
  let alone := mine.filter fun i => ! s.carries z i && swept.any fun r => decide (destRole (z.dests.getD i 0) = r + 2)
  (held.map fun i => less i (out (z.ramps.getD i (.silent)))) ++ (alone.map fun _ => pilot) ++ (z.leaving.filter fun l => destKey l.1 = key).map fun l => out l.2

/-- What a destination gets of a block, if anything is carried to it: of zones, or of an auxiliary bus. -/
def State.feed (s : State) (key b : Nat) : Option (List Int) :=
  let rows := (s.zones.flatMap fun z => s.zoneFeeds z key b) ++ ((audioAt s.mix.auxOuts key b).map nums).toList
  if rows = [] then none
  else some ((s.timed_ b (sumRows s.bl rows)).map fun x => scale (sat24 x.1) (s.outGain b x.2))

/-- Every destination that zones and auxiliary buses hold, and those that ramp out. -/
def State.destsNow (s : State) : List Nat :=
  ((s.zones.flatMap fun z => (z.dests ++ z.leaving.map Prod.fst).filter (fun w => destType w ≠ 0)).map destKey ++
    s.mix.auxOuts.map Audio.chan).dedup

/-- Destinations of one type, by index. -/
def State.destsOf (s : State) (ty : Nat) : List Nat := (s.destsNow.filter fun k => k / 65536 = ty).map fun k => k % 65536

/-- Samples of a list for a destination. -/
def outSamples (xs : List Int) : List Sample := xs.map sOf

/-! The transport of a block (R11, R326, R336, R353). -/

/-- Stream channels: the block's samples wait for the frame of that block. -/
def State.toStream (s : State) (b : Nat) : State :=
  let new := (s.destsOf 1).filterMap fun c => (s.feed (65536 + c) b).map fun xs => (⟨c, b, outSamples xs⟩ : Audio)
  s.setStream { s.stream with outs := new ++ s.stream.outs.filter fun a => s.blockNow ≤ a.block }

/-- Zone destinations on the course link: block b leaves labelled b + P + 2 (R337). -/
def State.toCourse (s : State) (b : Nat) : State :=
  let new := (s.destsOf 4).filterMap fun c => (s.feed (4 * 65536 + c) b).map fun xs => (⟨c, b + s.pOff + 2, outSamples xs⟩ : Audio)
  s.setCourse { s.course with sends := new ++ s.course.sends.filter fun a => s.commit ≤ a.block }

/-- Audio ports: the frames of the block, and destinations that the port does not have (R353, R355). -/
def State.toPorts (s : State) (b : Nat) : State :=
  let used := s.destsOf 2
  forEach (List.range 8) s fun n s =>
    let mine := used.filter fun i => i / 32 = n
    let s := if mine.any fun i => s.portIn n ∨ s.portCh n ≤ i % 32 then s.set (F.APORT_STATUS_UNUSED_DEST n) else s
    s.portWriteOut n b fun c =>
      if mine.contains (n * 32 + c) then outSamples ((s.feed (2 * 65536 + n * 32 + c) b).getD s.quiet) else silence s.bl

/-- Analogue channels take the block that the pins present (R370, R371). -/
def State.toAna (s : State) : State :=
  forEach s.channels s fun n s =>
    let block := fun (k : Nat) => s.feed (3 * 65536 + n) (s.blockNow + k)
    s.anaTick n (if s.live ∧ ¬ s.standby then block 0 else none) ((block 1).getD s.quiet ++ (block 2).getD s.quiet)

/-- The output transport at a block tick. Destinations that have ramped out leave. -/
def State.transport (s : State) : State :=
  let b := s.commit - 2
  let s := (((s.toStream b).toCourse b).toPorts b).toAna
  let t0 := s.startOf s.blockNow
  { s with zones := s.zones.map fun (z : Zone) => { z with leaving := z.leaving.filter fun l => ¬ l.2.over s.bl t0 } }

/-! The mix of a block (R171, R179, R184–R189). -/

/-- Samples of an auxiliary bus at a destination: those of a bus whose route has changed within the block come from the old route
up to the change (R180). -/
def State.auxRows (s : State) (out : Nat → List Int) (b : Nat) : List (Nat × List Int) :=
  let key := fun (ds : List W32) => (ds.filter fun w => destType w ≠ 0).map destKey
  let changes := fun (bus : Nat) => s.mix.auxOld.filter fun (x : Nat × Nat × List W32) => x.1 = bus
  let buses := (s.mix.aux.map Prod.fst ++ s.mix.auxOld.map fun x => x.1).dedup
  buses.flatMap fun bus =>
    let at_ := fun (mt : Nat) =>
      match (changes bus).find? fun x => mt < x.2.1 with
      | some x => key x.2.2
      | none => key ((kget s.mix.aux bus).getD [])
    let all := ((key ((kget s.mix.aux bus).getD [])) ++ (changes bus).flatMap fun x => key x.2.2).dedup
    all.map fun k => (k, (s.timed_ b (out bus)).map fun x => if (at_ x.2).contains k then x.1 else 0)

/-- Add rows of one destination together as audio. -/
def State.auxAudio (s : State) (rows : List (Nat × List Int)) (b : Nat) : List Audio :=
  ((rows.map Prod.fst).dedup).map fun k =>
    ⟨k, b, (sumRows s.bl ((rows.filter fun r => r.1 = k).map Prod.snd)).map fun x => sOf (sat24 x)⟩

/-- A bus that saturates in a block: its bit, its count, and MIX_CLIP for the first since the bit was cleared (R189). -/
def State.busClips (s : State) (bus b : Nat) : State :=
  let n := min 65535 ((kget s.mix.clipCounts bus).getD 0 + 1)
  let first := ¬ s.clipBit bus
  let s := s.wr (R.MIX_CLIP (bus / 32)) (setBits (s.rd (R.MIX_CLIP (bus / 32))) (bus % 32) 1 1)
  let s := { s with mix := { s.mix with clipCounts := kput s.mix.clipCounts bus n } }
  if first ∧ s.flag F.MIX_CTRL_CLIP_EVT then s.post 0x0501 bus [w32 b, w32 n] else s

/-- MIX_LIVE: the buses that have a class in a block (R146) (DEDUCED, notes/assumptions/102.md). -/
def State.showLive (s : State) (b : Nat) : State :=
  let live := ((s.mix.live.map fun l => l.1).dedup).filter fun bus => (s.busClass bus b).isSome
  forEach (List.range 16) s fun k s =>
    s.wr (R.MIX_LIVE k) (w32 (((live.filter fun x => x / 32 = k).map fun x => 2 ^ (x % 32)).sum))

/-- Sum every bus that has a tap, and route the auxiliary buses. The microphones that zones listen to are kept for their stage. -/
def State.mixBuses (s : State) (rets : List (Nat × List Int)) (b : Nat) : State :=
  let buses := (s.mix.taps.map Tap.bus).dedup
  let sums := buses.map fun bus => (bus, s.busSum (s.mix.taps.filter fun t => t.bus = bus) b fun t => s.tapSource rets t b)
  let out := fun (bus : Nat) => ((kget sums bus).map Prod.fst).getD s.quiet
  let mics := ((s.zones.map fun z => z.ambient.mic).filter fun m => 9216 ≤ m ∧ m < 9728).dedup
  let heard := mics.map fun m => (⟨m, b, (s.inputAt rets m b).map sOf⟩ : Audio)
  let routed := s.auxAudio ((s.auxRows out b).filter fun r => r.1 / 65536 ≠ 4 ∧ r.1 / 65536 ≠ 5) b
  let s := { s with mix := { s.mix with
    buses := sums.map fun x => ⟨x.1, b, x.2.1.map sOf⟩,
    auxOuts := routed ++ s.mix.auxOuts.filter fun a => s.blockNow ≤ a.block,
    auxOld := [], inputs := heard ++ s.mix.inputs.filter fun a => b ≤ a.block } }
  forEach sums s fun x s => if x.2.2 then s.busClips x.1 b else s

/-- A late voice block counts for the device, for the voice and for its job (R171). -/
def State.countLate (s : State) (v : Voice) : State :=
  let s := s.bump F.DISP_LATE_CNT_COUNT
  let s := match s.voiceIn v.src v.record with | some w => s.setVoice (w.setFlag 6) | none => s
  match s.job? v.record with
  | some j => s.setJob { j with late := j.late + 1 }
  | none => s

/-- Commit a voice's block: its levels, its last sample, and whether it came too late (R84, R85, R145, R171). -/
def State.commitVoice (s : State) (v : Voice) (b : Nat) (muted : Bool) : State :=
  if ¬ s.sounds v b then s
  else
    let s := match s.job? v.record with
      | some j => if j.firstMt.isNone ∧ ¬ v.companion then s.setJob { j with firstMt := some (max v.startMt (s.startOf b)) } else s
      | none => s
    let v := if v.releasedBy (s.startOf (b + 1) - 1) then v.setFlag 5 else v
    match v.stagedAt b with
    | some t =>
      let cycles := (kget s.disp.cycles (v.src / 128)).getD []
      let s := { s with disp := { s.disp with cycles := kput s.disp.cycles (v.src / 128) ((cycles.headD 0 + t.cycles) :: cycles.drop 1) } }
      s.setVoice { v.commitLevels t.samples t.clip with lastSample := t.samples.getLastD 0, wasLate := false }
    | none =>
      let s := s.setVoice { v.commitLevels (silence s.bl) false with lastSample := 0, wasLate := true }
      if v.inGap b ∨ muted then s else s.countLate v

/-- A companion that is not heard in a block has a silent level record for it, and keeps its sticky flags (R86, R87, R102). -/
def State.rest (s : State) (v : Voice) : State :=
  if v.companion then s.setVoice { v.commitLevels (silence s.bl) false with lastSample := 0, wasLate := false } else s

/-- LATE_BLOCK: at most one event per brick and committed block (R172). -/
def State.lateEvents (s : State) (b : Nat) : State :=
  let late := s.disp.voices.filter fun v => s.sounds v b ∧ (v.stagedAt b).isNone ∧ ¬ v.inGap b
  forEach ((late.map fun v => v.src / 128).dedup) s fun br s =>
    let l := late.filter fun v => v.src / 128 = br
    s.post 0x0301 br [w32 b, w32 (min 128 l.length + (l.foldl (fun m v => min m v.cls) 15) * 256)]

/-- A new block begins in the histories of the bricks' cycles: of the blocks that the mix takes, and of the block periods' reserves. -/
def State.shiftCycles (s : State) : State :=
  { s with disp := { s.disp with
    cycles := (List.range s.variant.bricks).map fun b => (b, (0 :: (kget s.disp.cycles b).getD []).take 16) } }
def State.shiftReserve (s : State) : State :=
  { s with disp := { s.disp with
    reserve := (List.range s.variant.bricks).map fun b => (b, ((0, s.brickCycles) :: (kget s.disp.reserve b).getD []).take 17) } }

/-- Commit every voice's block, and free the rows of the blocks before it. -/
def State.commitVoices (s : State) (b : Nat) (muted : Bool) : State :=
  let s := if muted then s else s.lateEvents b
  let s := forEach s.disp.voices s fun v s => (if s.sounds v b then s else s.rest v).commitVoice v b muted
  { s with disp := { s.disp with voices := s.disp.voices.map fun (v : Voice) =>
      { v with staged := v.staged.filter fun t => b < t.block } } }

/-! The send pass (R336, R337). -/

/-- Auxiliary buses with a destination on the course link. -/
def State.sendBuses (s : State) : List Nat :=
  ((s.mix.aux.map fun a => (a.1, a.2)) ++ s.mix.auxOld.map fun x => (x.1, x.2.2)).filterMap (fun a =>
    if a.2.any fun w => destType w = 4 then some a.1 else none) |>.dedup

/-- A tap as the send pass applies it from a block on: what is new in the local tap's gain acts at its sample, or at the first of the
block if that has passed. -/
def State.followTap (s : State) (t : Tap) (old : Option (Tap × Ramp)) (t0 : Nat) : Tap × Ramp :=
  match old with
  | none =>
    let r : Ramp := if t.ramp.start < t0 ∧ t.ramp.src = 0 then .of 0 t.ramp.dst t0 t.ramp.code else t.ramp
    ({ t with ramp := r }, t.ramp)
  | some (w, seen) =>
    if t.ramp = seen then ({ t with ramp := w.ramp }, seen)
    else
      let legs := ((t.ramp.toLeg :: t.ramp.past).takeWhile fun l => l ≠ seen.toLeg).reverse
      ({ t with ramp := legs.foldl (fun r l => r.to s.bl (max l.start t0) l.dst l.code) w.ramp }, t.ramp)

/-- A voice's samples in the send pass: what is not staged is silent, after a ramp from the block before it. -/
def State.sendVoice (s : State) (v : Voice) (b : Nat) : List Int × Bool :=
  if ¬ (v.sounding ∧ s.blockOf v.startMt ≤ b ∧ v.endBlock.all fun e => b ≤ e) then (s.quiet, false)
  else
    let stop := kget s.mix.sendStops v.key
    if stop.any fun t => t + 32 ≤ s.startOf b then (s.quiet, false)
    else
      let (last, late) := if s.pOff = 0 then (sVal v.lastSample, v.wasLate)
        else match v.stagedAt (b - 1) with
          | some t => (sVal (t.samples.getLastD 0), false)
          | none => (0, decide (s.blockOf v.startMt < b))
      (s.voiceAt v b last late stop, (v.stagedAt b).isNone ∧ ¬ v.inGap b)

/-- The duck of a tap in the send pass lies P + 1 blocks after the local one. -/
def Tap.sendDuck (t : Tap) (shift : Nat) : Tap :=
  let late := fun (l : Leg) => { l with start := l.start + shift }
  { t with duck := ⟨late t.duck.toLeg, t.duck.past.map late⟩ }

/-- The send pass: auxiliary buses with a course-send destination, for block C + P. `ahead` is the state with every routing change up
to the end of that block applied (DEDUCED, notes/assumptions/101.md). -/
def State.sendPass (s ahead : State) (rets : List (Nat × List Int)) : State :=
  if ¬ s.cascade then s
  else
    let b := s.commit + s.pOff
    let t0 := s.startOf b
    let buses := ahead.sendBuses
    let stops := s.disp.voices.filterMap fun v => v.stop.map fun t =>
      (v.key, ((kget s.mix.sendStops v.key).filter fun x => x ≤ max t.mt t0).getD (max t.mt t0))
    let s := { s with mix := { s.mix with sendStops := stops } }
    let taps := (ahead.mix.taps.filter fun t => buses.contains t.bus).map fun t =>
      s.followTap t (s.mix.send.find? fun x => x.1.src = t.src ∧ x.1.bus = t.bus ∧ x.1.job = t.job) t0
    let source := fun (t : Tap) => match t.job with
      | some r => ((s.voiceIn t.src r).map fun v => (s.sendVoice v b).1).getD s.quiet
      | none => if t.src < 9984 then s.inputAt rets t.src s.commit else ahead.inputAt rets t.src b
    let shift := (s.pOff + 1) * s.bl
    let sums := buses.map fun bus =>
      (bus, (s.busSum ((taps.filter fun t => t.1.bus = bus).map fun t => t.1.sendDuck shift) b source).1)
    let rows := (ahead.auxRows (fun bus => (kget sums bus).getD s.quiet) b).filter fun r => r.1 / 65536 = 4
    let out := (s.auxAudio rows b).map fun (a : Audio) => { a with chan := a.chan % 65536 }
    let late := s.disp.voices.filter fun v => (taps.any fun t => t.1.src = v.src ∧ t.1.job = some v.record) ∧ (s.sendVoice v b).2
    let s := { s with
      mix := { s.mix with send := taps },
      course := { s.course with sends := out ++ s.course.sends.filter fun a => ¬ out.any fun o => o.chan = a.chan ∧ o.block = a.block } }
    forEach late s fun v s => s.countLate v

end Sys2Proof.Machine
end

