-- ==== Sys2Proof/Machine/Jump.lean ====
section
/-! DEFINITION. What a jump (R38, R39) and the rebase of a rate change (R41, R42) do to everything that is held in media time. -/

namespace Sys2Proof.Machine

/-! A jump (R38, R39). -/

/-- Where a media time lies after a jump of d blocks, for a unit whose last block was x: what the unit has handled is relabelled,
what falls in the skipped blocks is due at the first sample of the jump block, and the rest stays (DEDUCED, notes/assumptions/85.md). -/
def jumpMt (bl d x mt : Nat) : Nat :=
  if mt / bl ≤ x then mt + d * bl else if mt / bl ≤ x + d then (x + d + 1) * bl else mt

/-- The same for a block. -/
def jumpBlock (d x b : Nat) : Nat := if b ≤ x then b + d else if b ≤ x + d then x + d + 1 else b

/-- A media time lies in the blocks that a unit skips. -/
def skipped (bl d x mt : Nat) : Bool := x < mt / bl ∧ mt / bl ≤ x + d

/-- A voice at a jump. What it has begun to render keeps its content and is relabelled; what is held for it goes by the last block that it
has rendered, edits that are skipped in the order of their AT; its stop and its gap go by the mix (R38, R39, R167). -/
def State.jumpVoice (s : State) (d c f : Nat) (v : Voice) : Voice :=
  let begun : Bool := s.blockOf v.startMt ≤ f ∧ v.startMt < s.startOf v.next
  let x := if begun then max f (v.next - 1) else f
  let held : TimeMap := ⟨jumpMt s.bl d x, jumpBlock d x, id⟩
  let by_ : TimeMap := ⟨fun t => t + d * s.bl, fun b => b + d, id⟩
  let w := v.remap (if begun then by_ else held) held
  { w with
    edits := v.edits.map fun (e : Edit) => { e with mt := held.m e.mt },
    stop := v.stop.map fun (x : VoiceStop) => { x with mt := jumpMt s.bl d c x.mt },
    redo := v.redo.map by_.mb, gapFrom := v.gapFrom.map (jumpBlock d c) }

/-- A job at a jump (R39): one that has not started rendering and whose start is skipped starts at the jump block. -/
def State.jumpJob (s : State) (d f : Nat) (j : Job) : Job :=
  let begun := (s.voicesOf j.record).any fun v => s.blockOf v.startMt ≤ f
  { j with
    startAt := jumpMt s.bl d f j.startAt,
    sortAt := if skipped s.bl d f j.sortAt then j.sortAt else jumpMt s.bl d f j.sortAt, wantBlock := jumpBlock d f j.wantBlock, readyAt := j.readyAt + d,
    releaseAt := j.releaseAt.map (jumpMt s.bl d f),
    skipped := j.skipped || (skipped s.bl d f j.startAt && !begun && !j.reported) }

/-- The unit that a timed command belongs to acts at the pins (R38). -/
def pinsUnit (op : Nat) : Bool := [0x0702, 0x0703, 0x0801, 0x0802, 0x0803, 0x0902, 0x0903, 0x0B02].contains op

/-- The commands that a jump moves (R39). -/
def State.movedBy (s : State) (d c f : Nat) : Nat :=
  let ts := s.timed.filter fun t => t.opcode < 0xF000 ∧
    skipped s.bl d (if pinsUnit t.opcode then s.blockNow else c) t.mt
  let es := ((s.disp.voices.flatMap Voice.edits).filter fun e => skipped s.bl d f e.mt).map Edit.order
  let js := s.disp.jobs.filter fun j => ¬ j.skipped ∧ (s.jumpJob d f j).skipped
  ts.length + es.dedup.length + js.length

/-- Everything held in media time at a jump of d blocks, before MT itself moves. Commands and matches that wait keep their media
times, and act at the jump block of their unit (R39). -/
def State.jumpTimes (s : State) (d : Nat) : State :=
  let c := s.commit
  let f := s.front
  let by_ := fun (t : Nat) => t + d * s.bl
  let up := fun (b : Nat) => b + d
  let au := fun (l : List Audio) => l.map fun (a : Audio) => { a with block := a.block + d }
  let mC := jumpMt s.bl d c
  let x := s.mix.remap mC up
  { s with
    time := { s.time with rowJ := (s.time.rowJ + d) % 16, moved := s.movedBy d c f },
    disp := { s.disp with
      jobs := s.disp.jobs.map (s.jumpJob d f), voices := s.disp.voices.map (s.jumpVoice d c f),
      insertions := s.disp.insertions.map fun (i : Nat × Nat × Nat × Nat) => (i.1, i.2.1, i.2.2.1, jumpBlock d f i.2.2.2),
      contactLog := s.disp.contactLog.map fun (c : Nat × Nat × Nat) => (jumpMt s.bl d f c.1, c.2),
      ambientLog := s.disp.ambientLog.map fun (c : Nat × Nat × Nat) => (jumpMt s.bl d f c.1, c.2),
      waits := s.disp.waits.map fun (w : Nat × Nat × Nat) => (w.1, w.2.1 + d, w.2.2) },
    mix := { x with pend := s.mix.pend },
    zones := s.zones.map fun (z : Zone) => z.remap mC up,
    stream := { s.stream with outs := au s.stream.outs },
    course := { s.course with
      sends := au s.course.sends, rampFrom := s.course.rampFrom.map by_,
      peers := s.course.peers.map fun (p : Peer) => { p with heard := by_ p.heard },
      taken := s.course.taken.map fun (p : Nat × Nat) => (p.1, by_ p.2),
      damaged := s.course.damaged.map fun (p : Nat × Nat) => (p.1, by_ p.2) },
    supv := { s.supv with
      pilotFrom := by_ s.supv.pilotFrom, dew := s.supv.dew.map fun (z : DewZone) => { z with endMt := by_ z.endMt } },
    dp := { s.dp with block := s.dp.block + d },
    banks := { s.banks with banks := s.banks.banks.map fun (b : Bank) => { b with emptyFrom := b.emptyFrom.map (jumpBlock d c) } },
    timed := s.timed.map fun (t : Timed) => if t.opcode = 0xF176 then { t with mt := by_ t.mt } else t,
    ports := s.ports.map fun (p : PortSt) => { p with
      tags := p.tags.map (fun (x : Nat × Nat) => (x.1, by_ x.2)), lastTag := p.lastTag.map by_ } }

/-- A decided jump is made (R38, R39): MT advances by its blocks beyond the one of this tick. The device that measured the step
posts it with the blocks skipped and the commands moved (DEDUCED, notes/assumptions/100.md). -/
def State.makeJump (s : State) (j : Jump) : State :=
  let s := s.jumpTimes j.blocks
  let s := { s with time := { s.time with mt := s.time.mt + (j.blocks + 1) * s.bl, jump := none } }
  let s := (s.set F.TIME_STATUS_JUMP_PEND false).set F.TIME_FLAGS_JUMPED
  let s := if s.time.moved = 0 then s else s.set F.TIME_FLAGS_SKIPPED
  let s := match j.ref with
    | some n => s.post 0x1402 n [satWord j.step, w32 j.blocks, w32 s.time.moved, 0]
    | none => s
  forEach (List.range 16) s fun n s =>
    match s.get (F.TIM_CLK_SRC n) with
    | 1 => s.timJump n (j.blocks * s.bl)
    | 2 => s.timJump n j.blocks
    | _ => s

/-! The rebase of a rate change (R41, R42). -/

/-- What a voice carries through a rebase: it stands at the first sample of the block that it is to render, and everything keeps its
distance from there, in samples rounded to nearest (R52). -/
def carryMap (oldHz newHz oldBl newBl next : Nat) : TimeMap :=
  let near := fun (n : Nat) => divNear (n * newHz) oldHz
  let s0 := next * oldBl
  let next' := s0 * newHz / oldHz / newBl
  { m := fun t => if s0 ≤ t then next' * newBl + near (t - s0) else next' * newBl - near (s0 - t),
    mb := fun b => if b < next then next' - (next - b) else next' + near ((b - next) * oldBl) / newBl,
    len := near }

/-- A voice at the rebase, with the words of a customer kernel's state: what a queued rollback has dropped is rendered again. -/
def State.settle (s : State) (v : Voice) : Voice × List W32 :=
  match v.rollback.bind v.ckptFor with
  | some k => ({ v with toVoiceDyn := k.dyn, next := k.block, rollback := none, redo := none }, k.words)
  | none => ({ v with rollback := none, redo := none }, s.voiceState v.src)

/-- A voice after the rebase (R41, R52, R167): its staged blocks are gone with the pipeline, every checkpoint has lost VALID, and one is
taken at the block at which rendering restarts (DEDUCED, notes/assumptions/90.md). -/
def State.rebaseVoice (s : State) (oldHz newHz newBl : Nat) (g : TimeMap) (v : Voice) : State :=
  let (w, words) := s.settle v
  let begun : Bool := w.startMt < s.startOf w.next
  let f := if begun then carryMap oldHz newHz s.bl newBl w.next else g
  let u := w.remap f f
  let u := { u with
    edits := w.edits.map fun (e : Edit) =>
      if e.mt < s.startOf w.next then { e with mt := f.m e.mt, due := f.m e.due, span := f.len e.span }
      else { e with mt := g.m e.mt, due := g.m e.due, span := newBl },
    stop := w.stop.map fun (x : VoiceStop) => { x with mt := g.m x.mt },
    gapFrom := w.gapFrom.map g.mb, rollPeriod := none, staged := [], ckpts := [] }
  let s := s.setVoice (if begun then u.checkpoint u.next words else u)
  let s := if v.custom then s.putKmem (v.src / 128) (64 * (v.src % 128)) words else s
  if s.dp.active ∧ s.dp.src = v.src then { s with dp := { s.dp with block := u.next } } else s

/-- A zone after the rebase: its filters are at pass-through, its FIR is removed and its delay keeps its time (R224). -/
def rebaseZone (old new : Nat) (z : Zone) : Zone :=
  { z.clear with
    biquads := List.replicate 16 Biquad.pass, fir := [], delay := divNear (z.delay * new) old,
    sent := [], pilots := [], out := [] }

/-- The jobs that a change to a double rate ends: those with a voice on a slot that the new rate lacks (R41, R151). -/
def State.rateEnds (s : State) (r : RateChange) : State :=
  if ¬ Config.double r.code ∨ Config.double r.oldCode then s
  else
    let hit := ((s.disp.voices.filter fun v => 64 ≤ v.src % 128).map Voice.record).dedup
    forEach hit s fun x s => match s.job? x with
      | some j => s.finish j .aborted (if j.reason = 0 then 8 else j.reason) (s.startOf (s.commit + 1))
      | none => s

/-- The pipeline drains and MT is rebased (R41 steps 2 to 4): the tick after block A (DEDUCED, notes/assumptions/90.md). -/
def State.rebase (s : State) (r : RateChange) : State :=
  let oldHz := Config.rateHz r.oldCode
  let newHz := Config.rateHz r.code
  let oldBl := s.bl
  let newBl := Config.blockLen r.code
  let m := fun (t : Nat) => t * newHz / oldHz
  let g : TimeMap := ⟨m, fun b => m (b * oldBl) / newBl, fun n => divNear (n * newHz) oldHz⟩
  let s := s.rateEnds r
  let mt := (s.time.mt + oldBl) * newHz / oldHz / newBl * newBl
  let t := forEach s.disp.voices s fun v s => s.rebaseVoice oldHz newHz newBl g v
  let s := (s.remap g)
  let s := { s with dp := t.dp, disp := { s.disp with voices := t.disp.voices } }
  let s := (s.put F.TIME_RATE_RATE r.code).put F.TIME_RATE_BLOCK_LEN newBl
  let family : Bool := decide (r.code / 2 ≠ r.oldCode / 2)
  let s := { s with time := { s.time with
    mt := mt, rate := some { r with rebased := true, relock := family, renderLeft := s.ra } } }
  let s := s.put F.MIX_TAPS_LIMIT_LIMIT (if Config.double r.code then 98304 else 196608)
  let s := { s with
    zones := s.zones.map (rebaseZone oldHz newHz),
    mix := { s.mix with buses := [], inputs := [], auxOuts := [], auxOld := [] },
    stream := { s.stream with outs := [] }, course := { s.course with sends := [] } }
  let on := ((List.range s.variant.zones).filter fun n => s.flag (F.ZONE_CTRL_EN n)).length
  let s := s.post 0x0602 0xFFFF [w32 (r.code + r.oldCode * 16), w32 on]
  let s := (s.portsRebase).setUsable (slotsFor s.plannedMhz r.code)
  let s := { s with supv := { s.supv with pilotFrom := s.pilotHold } }
  if family then s.set F.TIME_STATUS_MPLL_LOCK false else s

/-- The outputs are muted after the rebase: bricks render RA blocks ahead once the MPLL is locked (R41 step 5) (DEDUCED, notes/assumptions/105.md). -/
def State.muting (s : State) : Bool := s.time.rate.any fun r => r.rebased

/-- A muted block passes; after the last one the outputs restart from zero (R41 step 5, R42). -/
def State.muteTick (s : State) : State :=
  match s.time.rate with
  | none => s
  | some r =>
    if ¬ r.rebased then s
    else
      let r := { r with muted := r.muted + 1, renderLeft := if r.relock then r.renderLeft else r.renderLeft - 1 }
      if r.renderLeft ≠ 0 ∨ r.relock then { s with time := { s.time with rate := some r } }
      else
        let s := { s with
          time := { s.time with rate := none },
          course := { s.course with rampFrom := some (s.startOf s.commit) } }
        (s.set F.TIME_STATUS_RATE_CHANGING false).post 0x1404 0xFFFF [w32 (r.code + r.oldCode * 16), w32 r.muted]

end Sys2Proof.Machine
end

