-- ==== Sys2Proof/Machine/Tick.lean ====
section
/-! DEFINITION. The block tick (R11, R26, R38, R41, R536) and the application of timestamped commands (R16, R274). -/

namespace Sys2Proof.Machine

/-! Timestamped commands (R16, R39, R274). -/

/-- What an accepted timestamped command does at a media time. An opcode with no line here acted at acceptance or acts through the
records that its acceptance left (DEDUCED, notes/assumptions/87.md). -/
def State.applyTimed (s : State) (t : Timed) (mt : Nat) : State :=
  let p := t.payload
  match t.opcode with
  | 0x0103 => s.atBlockReset mt p
  | 0x0104 => s.atSetState mt p
  | 0x0304 => s.atVoiceStop mt p
  | 0x0402 => s.atJobAbort mt p
  | 0x0407 => s.atSetPolicy p
  | 0x0501 => s.flushTaps t.mt t.order
  | 0x0506 => s.flushTaps t.mt t.order
  | 0x0502 => s.atMixClear mt p
  | 0x0508 => s.atSetClass p
  | 0x0509 => s.atSetGen mt p
  | 0x050A => s.atRouteAux mt p
  | 0x0601 => s.atZoneEnable mt p
  | 0x0602 => s.atZoneInputs mt p
  | 0x0603 => s.atZoneGate mt p
  | 0x0604 => s.atZoneAmbient mt p
  | 0x0605 => s.atZoneEq mt p
  | 0x0607 => s.atZoneFir mt p
  | 0x0608 => s.atZoneDyn mt p
  | 0x0609 => s.atZoneDelay mt p
  | 0x060A => s.atZoneGain mt p
  | 0x060B => s.atZonePilot mt p
  | 0x060C => s.atZoneOutputs mt p
  | 0x060D => s.atZoneRestore mt p
  | 0x060E => s.atSetGroup mt p
  | 0x0801 => s.atAnaConfig p
  | 0x0802 => s.atAnaEnable p
  | 0x0803 => s.atAnaRange p
  | 0x0902 => s.atTimStart p
  | 0x0903 => s.atTimStop p
  | 0x0B02 => s.atContactOut p
  | 0x1406 => s.atSetRa p
  | 0xF176 =>
    (s.post 0x0303 (p.getD 0 0).toNat (p.drop 1)).bump F.DISP_MIGRATE_CNT_COUNT (p.getD 3 0).toNat
  | _ => s

/-- Take a timed command off the list, apply it, and post CMD_DONE where it was asked for. A command that a jump has passed acts at
the first sample of its unit's block. -/
def State.runTimed (s : State) (t : Timed) : State :=
  let mt := if pinsUnit t.opcode then max t.mt (s.startOf s.blockNow) else max t.mt (s.startOf s.commit)
  let s := { s with timed := s.timed.filter fun x => ¬ (x.order = t.order ∧ x.opcode = t.opcode) }
  let s := s.applyTimed t mt
  if t.notify then s.cmdDone t.opcode t.chan t.seq t.status mt else s

/-- One timed command comes before another: in order of media time, then of arrival. -/
def Timed.before (a b : Timed) : Bool := a.mt < b.mt ∨ a.mt = b.mt ∧ a.order ≤ b.order

/-- A timed command is due at a tick: in the block at the mix, or by the sample at the pins. -/
def State.dueTimed (s : State) (t : Timed) : Bool :=
  if pinsUnit t.opcode then t.mt ≤ s.startOf s.blockNow else s.blockOf t.mt ≤ s.commit

/-- Everything that is due at a tick, in order, and then the tap changes of the block (R16, R39, R186). -/
def State.flushTimed (s : State) : State :=
  let due := isort Timed.before (s.timed.filter s.dueTimed)
  let s := forEach due s fun t s => s.runTimed t
  s.flushTaps (s.startOf (s.commit + 1) - 1) s.order

/-- A timed command of a zone (R202). -/
def zoneOpcode (op : Nat) : Bool := op / 256 = 6

/-- COMMAND_APPLY (R16): the earliest accepted command whose media time lies in the block that its unit handles now or is handed
next (DEDUCED, notes/assumptions/86.md). -/
def execCommandApply (s : State) : Host.Outcome State Fault Refusal :=
  .next (
    let near := fun (t : Timed) =>
      if 0xF000 ≤ t.opcode then false
      else if pinsUnit t.opcode then decide (t.mt < s.startOf (s.blockNow + 1))
      else if zoneOpcode t.opcode then decide (s.blockOf t.mt ≤ s.commit)
      else decide (s.blockOf t.mt ≤ s.commit + 1)
    if ¬ s.running then s
    else match isort Timed.before (s.timed.filter near) with
      | [] => s
      | t :: _ => s.runTimed t)

/-! Advancing media time (R38, R41, R44, R536). -/

/-- MT at a tick: a rebase, a jump or one block; then an epoch that is due, and the start of a rate change. The blocks skipped go
with the state. -/
def State.advance (s : State) : State × Nat :=
  let go : State × Nat :=
    match s.time.rate.filter fun r => r.ramped ∧ ¬ r.rebased ∧ r.blockA ≤ s.commit with
    | some r => (s.rebase r, 0)
    | none =>
      match s.time.jump.filter fun j => j.at_ ≤ s.blockNow + 1 with
      | some j => (s.makeJump j, j.blocks)
      | none => ({ s with time := { s.time with mt := s.time.mt + s.bl } }, 0)
  let s := go.1
  let s := match s.time.epoch.filter fun e => ¬ e.onPps ∧ e.applyAt < s.time.mt with
    | some e => s.loadEpoch e
    | none => s
  let s := match s.time.rate with
    | some r => if r.blockA ≤ s.commit then s.rateBegin else s
    | none => s
  (s, go.2)

/-! Twins (R178, R346). -/

/-- A zone's signature of a block (R346): the CRC-32 of its samples after pilot injection. -/
def State.zoneSig (s : State) (b n : Nat) : W32 :=
  if ¬ s.flag (F.ZONE_CTRL_EN n) ∨ ((kget s.course.excluded b).getD []).contains n then 0
  else crc32 (((audioAt (s.zone n).sent n b).getD (silence s.bl)).flatMap fun x => leBytes (unsigned 32 (sVal x)) 4)

/-- The signatures of a block are sent to the twin, kept, and compared with its own. -/
def State.twinSigs (s : State) (b : Nat) : State :=
  if ¬ s.flag F.CRSE_CTRL_TWIN_EN then s
  else
    let sigs := (List.range 256).map (s.zoneSig b)
    let s := s.courseSend 0x9 (w32 b :: sigs)
    let s := s.setCourse { s.course with ownSigs := ((b, sigs) :: s.course.ownSigs).take 16 }
    s.compareAll

/-! Loads (R142, R155, R168, R201). -/

/-- A load register: the load, and its highest over the 4,096 blocks that begin at a multiple of 4,096 (DEDUCED, notes/assumptions/112.md). -/
def State.noteLoad (s : State) (load top : Fld) (x c : Nat) : State :=
  let x := min 255 x
  (s.put load x).put top (max x (if c % 4096 = 0 then 0 else s.get top))

/-- The loads of every brick in service, of the Mason pair and of the mix lanes. -/
def State.loads (s : State) (c : Nat) : State :=
  let period := 16 * (Config.periodCycles s.rate * s.get F.AGE_PLAN_ECLK_MHZ / 800)
  let s := forEach (List.range (s.variant.bricks + s.variant.spares)) s fun p s =>
    if ¬ s.flag (F.BRICK_MAP_IN_SERVICE p) then s
    else
      let b := s.get (F.BRICK_MAP_LOGICAL p)
      let s := s.noteLoad (F.BRICK_LOAD_LOAD p) (F.BRICK_LOAD_LOAD_MAX p) (((kget s.disp.cycles b).getD []).sum * 255 / period) c
      let l := ((kget s.disp.reserve b).getD []).drop 1
      s.put (F.BRICK_LOAD_RESERVE_USE p) (min 255 ((l.map Prod.fst).sum * 255 / max 1 (l.map Prod.snd).sum))
  let s := s.noteLoad F.DISP_MASON_LOAD_LOAD F.DISP_MASON_LOAD_LOAD_MAX (Config.masonLoad c % 256) c
  s.noteLoad F.MIX_LANE_LOAD_LOAD F.MIX_LANE_LOAD_LOAD_MAX (Config.laneLoad c % 256) c

/-- MIX_MAP_CRC at a block that is a multiple of 4,096 (R200). -/
def State.mapCrc (s : State) (c : Nat) : State :=
  if c % 4096 ≠ 0 then s
  else
    let taps := isort (fun a b => decide (a.cross ≤ b.cross)) s.mix.taps
    s.wr R.MIX_MAP_CRC (crc32 (taps.flatMap fun t =>
      leBytes t.cross 4 ++ leBytes (unsigned 16 (if t.deleting then -32768 else t.ramp.dst)) 2))

/-- A physical brick's golden voice mismatches (R260): it runs again in the next block, and a second time in sequence the brick is
declared failed; a spare that fails so leaves the spares (DEDUCED, notes/assumptions/88.md). -/
def State.goldenMiss (s : State) (p c sig : Nat) (again : Bool) : State :=
  let s := s.set (F.BRICK_KSTAT_GOLDEN_MISS p)
  if ¬ again then s.setKernel { s.kernel with misses := p :: s.kernel.misses }
  else
    let spare : Bool := ¬ s.flag (F.BRICK_MAP_IN_SERVICE p)
    let s := if spare then
        (s.set (F.BRICK_MAP_FAILED p)).put F.SAFE_DEGRADE_SPARES_LEFT (s.get F.SAFE_DEGRADE_SPARES_LEFT - 1)
      else s
    s.raise Mech.golden (s.get (F.BRICK_MAP_LOGICAL p)) (w32 c) (w32 (Config.goldenValue (s.rate / 2))) (w32 sig)

/-- The golden voices of a block (R260) (DEDUCED, notes/assumptions/114.md). -/
def State.goldenTick (s : State) (c : Nat) : State :=
  let due := s.kernel.misses
  forEach (List.range (s.variant.bricks + s.variant.spares)) (s.setKernel { s.kernel with misses := [] }) fun p s =>
    if ((c + p) % 64 = 0 ∨ due.contains p) ∧ ¬ s.flag (F.BRICK_MAP_FAILED p) then
      let sig := Config.goldenSig p (s.rate / 2) c
      let s := s.put (F.BRICK_GOLDEN_SIG p) sig
      if sig % 2 ^ 32 = Config.goldenValue (s.rate / 2) % 2 ^ 32 then s else s.goldenMiss p c sig (due.contains p)
    else s

/-! The mix of a block period. -/

/-- The state as the send pass sees the routing: every change up to the end of block C + P applied (R337). -/
def State.ahead (s : State) : State :=
  let b := s.commit + s.pOff
  let due := isort Timed.before (s.timed.filter fun t =>
    [0x0501, 0x0502, 0x0506, 0x0509, 0x050A].contains t.opcode ∧ s.blockOf t.mt ≤ b)
  let s := forEach due s fun t s => s.applyTimed t (max t.mt (s.startOf s.commit))
  s.flushTaps (s.startOf (b + 1) - 1) s.order

/-- Voices whose last block this was (R18, R68). -/
def State.endVoices (s : State) (c : Nat) : State :=
  forEach s.disp.voices s fun v s =>
    match s.voiceIn v.src v.record with
    | none => s
    | some v =>
      if (v.stop.any fun t => s.blockOf (t.mt + 31) ≤ c) ∨ v.endBlock.any (fun e => e ≤ c) then s.endVoice v c else s

/-- The mix consumes block C (R11, R171, R179–R189). -/
def State.mixTick (s : State) (rets : List (Nat × List Int)) : State :=
  let c := s.commit
  let s := s.shiftCycles
  let s := ((s.noteLive rets c).showLive c).duckTaps c
  let muted := s.muting
  let s := if muted then { s with mix := { s.mix with buses := [], auxOuts := [], auxOld := [] } } else s.mixBuses rets c
  let s := if s.cascade then s.sendPass s.ahead rets else s
  let s := s.commitVoices c muted
  let s := s.countLost c
  let s := forEach (List.range 8) s fun n s => s.portConsume n c
  let s := ((s.tapsFree c).mapCrc c).loads c
  let s := s.endVoices c
  s.setCourse { s.course with excluded := s.course.excluded.filter fun e => c ≤ e.1 + 16 }

/-! The tick. -/

/-- RA moves by one towards the depth asked for (R158) (DEDUCED, notes/assumptions/76.md). -/
def State.raTick (s : State) (grown : Bool) : State :=
  let t := s.time.raTarget
  s.put F.TIME_PIPE_RA (if s.ra < t then s.ra + b2n grown else if t < s.ra then s.ra - 1 else t)

/-- A running job whose voice 0 has reached its release is RELEASING (R137). -/
def State.releasingJobs (s : State) : State :=
  forEach s.disp.jobs s fun j s =>
    if j.state = .running ∧ (s.voicesOf j.record).any (fun v => v.index = 0 ∧ v.releaseAt.any fun r => s.blockOf r ≤ s.commit) then
      s.setJob { j with state := .releasing }
    else s

/-- Blocks that a failed destination has been good (R220). -/
def State.countGood (s : State) : State :=
  forEach s.zones s fun z s =>
    if z.failed = [] then s
    else
      let good := z.failed.map fun f => (f.1, if s.roleDown z.n f.1 then 0 else (kget z.good f.1).getD 0 + 1)
      s.setZone { s.zone z.n with good := good }

/-- Events that a unit posts at most once in a block or a window, and matches in media time (R456, R461, R502) (DEDUCED, notes/assumptions/89.md). -/
def State.blockEvents (s : State) : State :=
  let s := forEach (List.range 16) s fun n s => (s.ctPost n).timPost n
  let s := s.strikeMatch
  { s with ports := s.ports.map fun (p : PortSt) => { p with sub := 0 } }

/-- BLOCK_TICK: every unit hands its block on and advances (DESIGN CHOICE, notes/assumptions/32.md; DEDUCED, notes/assumptions/169.md). -/
def State.blockTick (s : State) : State :=
  let rets := s.zones.map fun z => (z.n, z.out)
  let s := s.serveAll
  let grown := s.grown
  let (s, jump) := (s.set F.DISP_STATUS_STORM s.storm).shiftReserve.advance
  let b := s.commit - 1
  let s := ((s.zoneAll b jump).twinSigs b).dewYield
  let s := s.transport
  let s := s.refTick.freeReported
  let s := (s.flushTimed).raTick grown
  let s := s.waitTick.dispatch
  let s := s.banksTick.kernelTick.seqTick.streamTick.courseTick
  let s := s.blockEvents
  let s := s.releasingJobs
  let s := s.renderPeriod.noteStarts
  let s := s.mixTick rets
  let s := s.muteTick
  let s := s.countGood
  let s := s.goldenTick s.commit
  s.callNext

/-- BLOCK_TICK (R26): media time counts from READY on (R45). -/
def execBlockTick (s : State) : Host.Outcome State Fault Refusal :=
  .next (if s.running ∧ s.time.counting then s.blockTick else s)

end Sys2Proof.Machine
end

