-- ==== Sys2Proof/Machine/Waiting.lean ====
section
/-! DEFINITION. READY rises (R45, R263, R491): after a boot and after a wake from Lull, and the commands that waited for it are
taken. -/

namespace Sys2Proof.Machine

/-- The entries of the catalogue (R293–R318), but for JOB.SQUALL and SLAB.HANDOVER, which have a form of their own. -/
def catalogue (k : Kcp) : List Cmd :=
  [cmdSysGetCaps, cmdSysGetStatus, if k.f 0 28 4 = 1 then cmdBlockReset else cmdSoftReset, cmdSysSetState, cmdSysConfigBuild,
   cmdSysConfigCommit, cmdSysConfigErase, cmdSysEcho, cmdSafeGetStatus, cmdSafeGetFaults, cmdSafeAckFaults, cmdSafeSetLock,
   cmdSafeProvision, cmdSafeRecover, cmdSafeInject, cmdSafeUpdate, cmdSafeUpdateWrite, cmdSafeDebugUnlock, cmdSnapStrike,
   cmdSnapSetSources, cmdSnapRead, cmdSnapGetStatus, cmdSlabGetStatus, cmdSlabRead, cmdSlabWrite, cmdSlabRepair, cmdSlabScrub,
   cmdTimeGet, cmdTimeSetEpoch, cmdTimeSetRate, cmdTimeSetRefs, cmdTimeGetRefs, cmdTimeSetRa, cmdVoiceSetParam,
   cmdVoiceGetParams, cmdVoiceRelease, cmdVoiceStop, cmdVoiceGetLevels, cmdVoiceGetStatus, cmdBankLoad, cmdBankWrite,
   cmdBankUnload, cmdBankVerify, cmdBankGetInfo, cmdBankList, cmdJobSubmit, cmdJobAbort, cmdJobRelease, cmdJobGetStatus,
   cmdJobList, cmdJobGetStats, cmdJobSetPolicy, cmdJobScriptEdit, cmdJobSquallEnd, cmdJobArm, cmdJobDisarm, cmdJobSetSquall,
   if k.f 0 28 4 = 0 then cmdMixSetTaps else cmdMixStageTaps, cmdMixClear, cmdMixGetTaps, cmdMixGetBitmap, cmdMixOpenSet,
   cmdMixCommitSet, cmdMixCancelSet, cmdMixSetClass, cmdMixSetGen, cmdMixRouteAux, cmdMixGetClip, cmdMixGetStats,
   cmdZoneEnable, cmdZoneSetInputs, cmdZoneSetGate, cmdZoneSetAmbient, cmdZoneSetEq, cmdZoneLoadFir, cmdZoneSetFir,
   cmdZoneSetDyn, cmdZoneSetDelay, cmdZoneSetGain, cmdZoneSetPilot, cmdZoneSetOutputs, cmdZoneRestore, cmdZoneSetGroup,
   cmdZoneGetConfig, cmdZoneGetStatus, cmdKernelStage, cmdKernelWrite, cmdKernelLoad, cmdKernelRestoreStd, cmdKernelCancel,
   cmdKernelGetInfo, cmdPortConfig, cmdPortStart, cmdPortStop, cmdPortSetGroup, cmdPortSetLength, cmdPortGetStatus,
   cmdAnaConfig, cmdAnaEnable, cmdAnaSetRange, cmdAnaTrim, cmdAnaGetStatus, cmdTimConfig, cmdTimStart, cmdTimStop,
   cmdTimSetCmp, cmdTimGet, cmdUartConfig, cmdUartEnable, cmdUartSend, cmdUartRecv, cmdUartSetFramed, cmdUartGetStatus,
   cmdContactConfig, cmdContactSetOut, cmdContactGet, cmdSupvSetPilot, cmdSupvSetPath, cmdSupvBaseline, cmdSupvGetPaths,
   cmdSupvSetDew, cmdSupvGetDew, cmdAgeGetPlan, cmdAgeGetLog, cmdAgeSetLimits, cmdAgeGetSensors, cmdCourseConfig,
   cmdCourseGetStatus, cmdCourseSetOffset, cmdCourseMapGroup, cmdCourseSetTwin, cmdStreamConfig, cmdStreamTrain,
   cmdStreamGetStatus, cmdStreamMap]

/-- A command that waited is taken by its opcode. -/
def State.takeOp (s : State) (op : Nat) (k : Kcp) : State :=
  if op = 0x0420 then s.takeSquall k
  else if op = 0x1201 then s.takeHandover k
  else match (catalogue k).find? fun c => c.opcode = op with
    | some c => kcpExec c k s
    | none => s.takeUnknown op k

/-- The commands that waited for READY are taken, those of MB0 first and the others in order of arrival (R262, R263, R289); a reset that
one of them makes ends the rest. -/
def State.takeWaiting (s : State) : State :=
  let l := s.host.waiting
  let s : State := { s with host := { s.host with waiting := [] } }
  forEach (l.filter (fun x => x.2.chan = 0) ++ l.filter fun x => x.2.chan ≠ 0) s fun x s => if s.ready then s.takeOp x.1 x.2 else s

/-- READY_RISE (R45, R263). -/
def execReadyRise (bootMs : Nat) (goldenFailed : List Nat) (s : State) : Host.Outcome State Fault Refusal :=
  .next (if s.power = .boot ∧ ¬ s.bootFailed then (s.becomeReady bootMs goldenFailed).takeWaiting else s)

/-- LULL_WAKE (R489, R491): a wake that is registered before Lull entry has completed cancels the rest of it; a TCM whose
CRC fails starts a WDOG reset instead. -/
def execLullWake (source : WakeSource) (lclk : Nat) (wakeMs : Nat) (tcmOk : Bool) (bankOk : Bool) (s : State) :
    Host.Outcome State Fault Refusal :=
  .next (
    if s.power ≠ .lull ∧ ¬ s.lullEntry then s
    else if ¬ tcmOk then s.resetTo .wdog
    else (s.wake source lclk wakeMs bankOk).takeWaiting)

end Sys2Proof.Machine
end

