-- ==== Sys2Proof/Machine/Dispatch.lean ====
section
/-! DEFINITION. The dispatch: one arm per command, each one call of its meaning. -/

namespace Sys2Proof.Machine

/-- The effect of a command on the state. -/
def exec (i : Instr) (s : State) : Host.Outcome State Fault Refusal :=
  match i with
  | .powerOnReset => Sys2Proof.Machine.execPowerOnReset s
  | .pinReset lowNs => Sys2Proof.Machine.execPinReset lowNs s
  | .resetRelease env => Sys2Proof.Machine.execResetRelease env s
  | .readyRise bootMs goldenFailed => Sys2Proof.Machine.execReadyRise bootMs goldenFailed s
  | .watchdogExpiry => Sys2Proof.Machine.execWatchdogExpiry s
  | .resetDelayExpiry => Sys2Proof.Machine.execResetDelayExpiry s
  | .analogueRailLow => Sys2Proof.Machine.execAnalogueRailLow s
  | .analogueRailRestore => Sys2Proof.Machine.execAnalogueRailRestore s
  | .lullPowerDown => Sys2Proof.Machine.execLullPowerDown s
  | .lullWake source lclk wakeMs tcmOk bankOk => Sys2Proof.Machine.execLullWake source lclk wakeMs tcmOk bankOk s
  | .spiWriteTransaction wire extraBits => Sys2Proof.Machine.execSpiWriteTransaction wire extraBits s
  | .spiReadTransaction addr words => Sys2Proof.Machine.execSpiReadTransaction addr words s
  | .registerWrite addr value => Sys2Proof.Machine.execRegisterWrite addr value s
  | .registerReadClear addr => Sys2Proof.Machine.execRegisterReadClear addr s
  | .mtLoRead path addr => Sys2Proof.Machine.execMtLoRead path addr s
  | .seqReset m => Sys2Proof.Machine.execSeqReset m s
  | .evqAck n => Sys2Proof.Machine.execEvqAck n s
  | .spiErrCntClr => Sys2Proof.Machine.execSpiErrCntClr s
  | .epochArm => Sys2Proof.Machine.execEpochArm s
  | .slabHandover form => Sys2Proof.Machine.execSlabHandover form s
  | .handoverDrainDone slab => Sys2Proof.Machine.execHandoverDrainDone slab s
  | .slabNormalWrite slab agent half data => Sys2Proof.Machine.execSlabNormalWrite slab agent half data s
  | .slabSetAliasWrite slab agent half data => Sys2Proof.Machine.execSlabSetAliasWrite slab agent half data s
  | .slabClearAliasWrite slab agent half data => Sys2Proof.Machine.execSlabClearAliasWrite slab agent half data s
  | .uartTxdWrite n ch => Sys2Proof.Machine.execUartTxdWrite n ch s
  | .uartRxdRead n => Sys2Proof.Machine.execUartRxdRead n s
  | .timCmpWrite n c value => Sys2Proof.Machine.execTimCmpWrite n c value s
  | .timPeriodWrite n value => Sys2Proof.Machine.execTimPeriodWrite n value s
  | .sysGetCaps k => Sys2Proof.Machine.execSysGetCaps k s
  | .sysGetStatus k => Sys2Proof.Machine.execSysGetStatus k s
  | .sysReset k => Sys2Proof.Machine.execSysReset k s
  | .sysSetState k => Sys2Proof.Machine.execSysSetState k s
  | .sysConfigBuild k => Sys2Proof.Machine.execSysConfigBuild k s
  | .sysConfigCommit k => Sys2Proof.Machine.execSysConfigCommit k s
  | .sysConfigErase k => Sys2Proof.Machine.execSysConfigErase k s
  | .norRegionUpdateDone region ok => Sys2Proof.Machine.execNorRegionUpdateDone region ok s
  | .sysEcho k => Sys2Proof.Machine.execSysEcho k s
  | .safeGetStatus k => Sys2Proof.Machine.execSafeGetStatus k s
  | .safeGetFaults k => Sys2Proof.Machine.execSafeGetFaults k s
  | .safeAckFaults k => Sys2Proof.Machine.execSafeAckFaults k s
  | .safeSetLock k => Sys2Proof.Machine.execSafeSetLock k s
  | .safeProvision k => Sys2Proof.Machine.execSafeProvision k s
  | .safeRecover k => Sys2Proof.Machine.execSafeRecover k s
  | .safeInject k => Sys2Proof.Machine.execSafeInject k s
  | .safeUpdate k => Sys2Proof.Machine.execSafeUpdate k s
  | .safeUpdateWrite k => Sys2Proof.Machine.execSafeUpdateWrite k s
  | .safeUpdateImageComplete norOk => Sys2Proof.Machine.execSafeUpdateImageComplete norOk s
  | .safeDebugUnlock k => Sys2Proof.Machine.execSafeDebugUnlock k s
  | .snapStrike k => Sys2Proof.Machine.execSnapStrike k s
  | .snapSetSources k => Sys2Proof.Machine.execSnapSetSources k s
  | .snapRead k => Sys2Proof.Machine.execSnapRead k s
  | .snapGetStatus k => Sys2Proof.Machine.execSnapGetStatus k s
  | .slabGetStatus k => Sys2Proof.Machine.execSlabGetStatus k s
  | .slabRead k => Sys2Proof.Machine.execSlabRead k s
  | .slabWrite k => Sys2Proof.Machine.execSlabWrite k s
  | .slabRepair k => Sys2Proof.Machine.execSlabRepair k s
  | .slabScrub k => Sys2Proof.Machine.execSlabScrub k s
  | .slabScrubPassDone slab march corrected uncorrected => Sys2Proof.Machine.execSlabScrubPassDone slab march corrected uncorrected s
  | .timeGet k => Sys2Proof.Machine.execTimeGet k s
  | .timeSetEpoch k => Sys2Proof.Machine.execTimeSetEpoch k s
  | .timeSetRate k => Sys2Proof.Machine.execTimeSetRate k s
  | .timeSetRefs k => Sys2Proof.Machine.execTimeSetRefs k s
  | .timeGetRefs k => Sys2Proof.Machine.execTimeGetRefs k s
  | .timeSetRa k => Sys2Proof.Machine.execTimeSetRa k s
  | .timeMessage mt frame crcOk => Sys2Proof.Machine.execTimeMessage mt frame crcOk s
  | .refEdge n period offset => Sys2Proof.Machine.execRefEdge n period offset s
  | .refEdgeTimeout n => Sys2Proof.Machine.execRefEdgeTimeout n s
  | .refQualified n => Sys2Proof.Machine.execRefQualified n s
  | .slewDone => Sys2Proof.Machine.execSlewDone s
  | .ppsEdge good offset => Sys2Proof.Machine.execPpsEdge good offset s
  | .ppsLoss => Sys2Proof.Machine.execPpsLoss s
  | .blockTick => Sys2Proof.Machine.execBlockTick s
  | .rateChangeStart => Sys2Proof.Machine.execRateChangeStart s
  | .mpllRelockDone us => Sys2Proof.Machine.execMpllRelockDone us s
  | .maxWaitExpiry record => Sys2Proof.Machine.execMaxWaitExpiry record s
  | .ambientEstimate zone => Sys2Proof.Machine.execAmbientEstimate zone s
  | .fallbackSwitch zone roleB => Sys2Proof.Machine.execFallbackSwitch zone roleB s
  | .fallbackAutoRestore zone roleB => Sys2Proof.Machine.execFallbackAutoRestore zone roleB s
  | .zoneDrainDone zone => Sys2Proof.Machine.execZoneDrainDone zone s
  | .tileCrcCheckDone bank tile => Sys2Proof.Machine.execTileCrcCheckDone bank tile s
  | .rollbackRerender src => Sys2Proof.Machine.execRollbackRerender src s
  | .kernelBudgetExpiry src pc => Sys2Proof.Machine.execKernelBudgetExpiry src pc s
  | .illegalWord src pc => Sys2Proof.Machine.execIllegalWord src pc s
  | .nop m1 m2 => Sys2Proof.Machine.execNop m1 m2 s
  | .mul wd ci si neg m1 m2 => Sys2Proof.Machine.execMul wd ci si neg m1 m2 s
  | .mad wd ci si neg m1 m2 => Sys2Proof.Machine.execMad wd ci si neg m1 m2 s
  | .mul4 neg m1 m2 => Sys2Proof.Machine.execMul4 neg m1 m2 s
  | .mad4 neg m1 m2 => Sys2Proof.Machine.execMad4 neg m1 m2 s
  | .fir4 neg m1 m2 => Sys2Proof.Machine.execFir4 neg m1 m2 s
  | .zero4 m1 m2 => Sys2Proof.Machine.execZero4 m1 m2 s
  | .addw wd ws os m1 m2 => Sys2Proof.Machine.execAddw wd ws os m1 m2 s
  | .subw wd ws os m1 m2 => Sys2Proof.Machine.execSubw wd ws os m1 m2 s
  | .negw wd ws os m1 m2 => Sys2Proof.Machine.execNegw wd ws os m1 m2 s
  | .absw wd ws os m1 m2 => Sys2Proof.Machine.execAbsw wd ws os m1 m2 s
  | .zeroW wd ws os m1 m2 => Sys2Proof.Machine.execZeroW wd ws os m1 m2 s
  | .wld wd ws os m1 m2 => Sys2Proof.Machine.execWld wd ws os m1 m2 s
  | .wst wd ws os m1 m2 => Sys2Proof.Machine.execWst wd ws os m1 m2 s
  | .rndw wd ws os m1 m2 => Sys2Proof.Machine.execRndw wd ws os m1 m2 s
  | .shw wd imm m1 m2 => Sys2Proof.Machine.execShw wd imm m1 m2 s
  | .addwi wd imm m1 m2 => Sys2Proof.Machine.execAddwi wd imm m1 m2 s
  | .andOp od os imm m1 m2 => Sys2Proof.Machine.execAndOp od os imm m1 m2 s
  | .orOp od os imm m1 m2 => Sys2Proof.Machine.execOrOp od os imm m1 m2 s
  | .xorOp od os imm m1 m2 => Sys2Proof.Machine.execXorOp od os imm m1 m2 s
  | .lsh od os imm m1 m2 => Sys2Proof.Machine.execLsh od os imm m1 m2 s
  | .amov ad as m1 m2 => Sys2Proof.Machine.execAmov ad as m1 m2 s
  | .padd pt imm m1 m2 => Sys2Proof.Machine.execPadd pt imm m1 m2 s
  | .setcfg imm m1 m2 => Sys2Proof.Machine.execSetcfg imm m1 m2 s
  | .rdfl od os imm m1 m2 => Sys2Proof.Machine.execRdfl od os imm m1 m2 s
  | .clrfl imm m1 m2 => Sys2Proof.Machine.execClrfl imm m1 m2 s
  | .ldo od imm => Sys2Proof.Machine.execLdo od imm s
  | .lda ad imm => Sys2Proof.Machine.execLda ad imm s
  | .jmp target m1 m2 => Sys2Proof.Machine.execJmp target m1 m2 s
  | .jeq wn target m1 m2 => Sys2Proof.Machine.execJeq wn target m1 m2 s
  | .jne wn target m1 m2 => Sys2Proof.Machine.execJne wn target m1 m2 s
  | .jlt wn target m1 m2 => Sys2Proof.Machine.execJlt wn target m1 m2 s
  | .jge wn target m1 m2 => Sys2Proof.Machine.execJge wn target m1 m2 s
  | .jle wn target m1 m2 => Sys2Proof.Machine.execJle wn target m1 m2 s
  | .jgt wn target m1 m2 => Sys2Proof.Machine.execJgt wn target m1 m2 s
  | .cntb pt target m1 m2 => Sys2Proof.Machine.execCntb pt target m1 m2 s
  | .rpn count m1 m2 => Sys2Proof.Machine.execRpn count m1 m2 s
  | .rpni pt m1 m2 => Sys2Proof.Machine.execRpni pt m1 m2 s
  | .jsr target m1 m2 => Sys2Proof.Machine.execJsr target m1 m2 s
  | .ret m1 m2 => Sys2Proof.Machine.execRet m1 m2 s
  | .doneOp m1 m2 => Sys2Proof.Machine.execDoneOp m1 m2 s
  | .endOp src => Sys2Proof.Machine.execEndOp src s
  | .tileOp src trim ref => Sys2Proof.Machine.execTileOp src trim ref s
  | .gap src dur => Sys2Proof.Machine.execGap src dur s
  | .joinOp src kind persist equalPower periods len => Sys2Proof.Machine.execJoinOp src kind persist equalPower periods len s
  | .pitch src scale => Sys2Proof.Machine.execPitch src scale s
  | .tempo src scale => Sys2Proof.Machine.execTempo src scale s
  | .levelOp src code => Sys2Proof.Machine.execLevelOp src code s
  | .tone src voice action dur => Sys2Proof.Machine.execTone src voice action dur s
  | .sync src kind level contact value mt => Sys2Proof.Machine.execSync src kind level contact value mt s
  | .syncSatisfied src timeout => Sys2Proof.Machine.execSyncSatisfied src timeout s
  | .loopOp src count back => Sys2Proof.Machine.execLoopOp src count back s
  | .lang src bank tbase => Sys2Proof.Machine.execLang src bank tbase s
  | .tileDecisionPoint src => Sys2Proof.Machine.execTileDecisionPoint src s
  | .tileBoundary src => Sys2Proof.Machine.execTileBoundary src s
  | .commandApply => Sys2Proof.Machine.execCommandApply s
  | .voiceSetParam k => Sys2Proof.Machine.execVoiceSetParam k s
  | .voiceGetParams k => Sys2Proof.Machine.execVoiceGetParams k s
  | .voiceRelease k => Sys2Proof.Machine.execVoiceRelease k s
  | .voiceStop k => Sys2Proof.Machine.execVoiceStop k s
  | .voiceGetLevels k => Sys2Proof.Machine.execVoiceGetLevels k s
  | .voiceGetStatus k => Sys2Proof.Machine.execVoiceGetStatus k s
  | .bankLoad k => Sys2Proof.Machine.execBankLoad k s
  | .bankWrite k => Sys2Proof.Machine.execBankWrite k s
  | .bankImageComplete bank => Sys2Proof.Machine.execBankImageComplete bank s
  | .bankUnload k => Sys2Proof.Machine.execBankUnload k s
  | .bankVerify k => Sys2Proof.Machine.execBankVerify k s
  | .bankVerifyDone bank => Sys2Proof.Machine.execBankVerifyDone bank s
  | .bankGetInfo k => Sys2Proof.Machine.execBankGetInfo k s
  | .bankList k => Sys2Proof.Machine.execBankList k s
  | .jobSubmit k => Sys2Proof.Machine.execJobSubmit k s
  | .jobAbort k => Sys2Proof.Machine.execJobAbort k s
  | .jobRelease k => Sys2Proof.Machine.execJobRelease k s
  | .jobGetStatus k => Sys2Proof.Machine.execJobGetStatus k s
  | .jobList k => Sys2Proof.Machine.execJobList k s
  | .jobGetStats k => Sys2Proof.Machine.execJobGetStats k s
  | .jobSetPolicy k => Sys2Proof.Machine.execJobSetPolicy k s
  | .jobScriptEdit k => Sys2Proof.Machine.execJobScriptEdit k s
  | .jobSquall k => Sys2Proof.Machine.execJobSquall k s
  | .jobSquallEnd k => Sys2Proof.Machine.execJobSquallEnd k s
  | .jobArm k => Sys2Proof.Machine.execJobArm k s
  | .jobDisarm k => Sys2Proof.Machine.execJobDisarm k s
  | .jobSetSquall k => Sys2Proof.Machine.execJobSetSquall k s
  | .mixSetTaps k => Sys2Proof.Machine.execMixSetTaps k s
  | .mixClear k => Sys2Proof.Machine.execMixClear k s
  | .mixGetTaps k => Sys2Proof.Machine.execMixGetTaps k s
  | .mixGetBitmap k => Sys2Proof.Machine.execMixGetBitmap k s
  | .mixOpenSet k => Sys2Proof.Machine.execMixOpenSet k s
  | .mixCommitSet k => Sys2Proof.Machine.execMixCommitSet k s
  | .mixCancelSet k => Sys2Proof.Machine.execMixCancelSet k s
  | .mixSetClass k => Sys2Proof.Machine.execMixSetClass k s
  | .mixSetGen k => Sys2Proof.Machine.execMixSetGen k s
  | .mixRouteAux k => Sys2Proof.Machine.execMixRouteAux k s
  | .mixGetClip k => Sys2Proof.Machine.execMixGetClip k s
  | .mixGetStats k => Sys2Proof.Machine.execMixGetStats k s
  | .zoneEnable k => Sys2Proof.Machine.execZoneEnable k s
  | .zoneSetInputs k => Sys2Proof.Machine.execZoneSetInputs k s
  | .zoneSetGate k => Sys2Proof.Machine.execZoneSetGate k s
  | .zoneSetAmbient k => Sys2Proof.Machine.execZoneSetAmbient k s
  | .zoneSetEq k => Sys2Proof.Machine.execZoneSetEq k s
  | .zoneLoadFir k => Sys2Proof.Machine.execZoneLoadFir k s
  | .zoneSetFir k => Sys2Proof.Machine.execZoneSetFir k s
  | .zoneSetDyn k => Sys2Proof.Machine.execZoneSetDyn k s
  | .zoneSetDelay k => Sys2Proof.Machine.execZoneSetDelay k s
  | .zoneSetGain k => Sys2Proof.Machine.execZoneSetGain k s
  | .zoneSetPilot k => Sys2Proof.Machine.execZoneSetPilot k s
  | .zoneSetOutputs k => Sys2Proof.Machine.execZoneSetOutputs k s
  | .zoneRestore k => Sys2Proof.Machine.execZoneRestore k s
  | .zoneSetGroup k => Sys2Proof.Machine.execZoneSetGroup k s
  | .zoneGetConfig k => Sys2Proof.Machine.execZoneGetConfig k s
  | .zoneGetStatus k => Sys2Proof.Machine.execZoneGetStatus k s
  | .kernelStage k => Sys2Proof.Machine.execKernelStage k s
  | .kernelWrite k => Sys2Proof.Machine.execKernelWrite k s
  | .kernelImageComplete => Sys2Proof.Machine.execKernelImageComplete s
  | .kernelLoad k => Sys2Proof.Machine.execKernelLoad k s
  | .kernelRestoreStd k => Sys2Proof.Machine.execKernelRestoreStd k s
  | .kernelBrickLoad brick => Sys2Proof.Machine.execKernelBrickLoad brick s
  | .kernelCancel k => Sys2Proof.Machine.execKernelCancel k s
  | .kernelGetInfo k => Sys2Proof.Machine.execKernelGetInfo k s
  | .portConfig k => Sys2Proof.Machine.execPortConfig k s
  | .portStart k => Sys2Proof.Machine.execPortStart k s
  | .portStop k => Sys2Proof.Machine.execPortStop k s
  | .portSetGroup k => Sys2Proof.Machine.execPortSetGroup k s
  | .portSetLength k => Sys2Proof.Machine.execPortSetLength k s
  | .portGetStatus k => Sys2Proof.Machine.execPortGetStatus k s
  | .aportFrameBoundary n bitClocks => Sys2Proof.Machine.execAportFrameBoundary n bitClocks s
  | .aportInputFrame n slots bitClocks => Sys2Proof.Machine.execAportInputFrame n slots bitClocks s
  | .aportDataStart n => Sys2Proof.Machine.execAportDataStart n s
  | .aportStopDone n => Sys2Proof.Machine.execAportStopDone n s
  | .aportFsTimeout n => Sys2Proof.Machine.execAportFsTimeout n s
  | .aportClockBack n => Sys2Proof.Machine.execAportClockBack n s
  | .aportRateMeasure n aclkCycles => Sys2Proof.Machine.execAportRateMeasure n aclkCycles s
  | .anaConfig k => Sys2Proof.Machine.execAnaConfig k s
  | .anaEnable k => Sys2Proof.Machine.execAnaEnable k s
  | .anaSetRange k => Sys2Proof.Machine.execAnaSetRange k s
  | .anaTrim k => Sys2Proof.Machine.execAnaTrim k s
  | .anaGetStatus k => Sys2Proof.Machine.execAnaGetStatus k s
  | .anaUpdate n outside => Sys2Proof.Machine.execAnaUpdate n outside s
  | .anaSettleDone n => Sys2Proof.Machine.execAnaSettleDone n s
  | .anaMuteRampDone n => Sys2Proof.Machine.execAnaMuteRampDone n s
  | .anaComplianceDetect n => Sys2Proof.Machine.execAnaComplianceDetect n s
  | .anaComplianceClear n => Sys2Proof.Machine.execAnaComplianceClear n s
  | .anaLoadWindow n ohms => Sys2Proof.Machine.execAnaLoadWindow n ohms s
  | .anaTrimChannelDone n errors => Sys2Proof.Machine.execAnaTrimChannelDone n errors s
  | .timConfig k => Sys2Proof.Machine.execTimConfig k s
  | .timStart k => Sys2Proof.Machine.execTimStart k s
  | .timStop k => Sys2Proof.Machine.execTimStop k s
  | .timSetCmp k => Sys2Proof.Machine.execTimSetCmp k s
  | .timGet k => Sys2Proof.Machine.execTimGet k s
  | .timerClock n => Sys2Proof.Machine.execTimerClock n s
  | .timerLinkAction n => Sys2Proof.Machine.execTimerLinkAction n s
  | .timerPulseEnd n => Sys2Proof.Machine.execTimerPulseEnd n s
  | .uartConfig k => Sys2Proof.Machine.execUartConfig k s
  | .uartEnable k => Sys2Proof.Machine.execUartEnable k s
  | .uartSend k => Sys2Proof.Machine.execUartSend k s
  | .uartRecv k => Sys2Proof.Machine.execUartRecv k s
  | .uartSetFramed k => Sys2Proof.Machine.execUartSetFramed k s
  | .uartGetStatus k => Sys2Proof.Machine.execUartGetStatus k s
  | .uartCharReceived n ch fe pe brk idleChars => Sys2Proof.Machine.execUartCharReceived n ch fe pe brk idleChars s
  | .xoffGenerate n => Sys2Proof.Machine.execXoffGenerate n s
  | .uartCharSent n => Sys2Proof.Machine.execUartCharSent n s
  | .deRelease => Sys2Proof.Machine.execDeRelease s
  | .uartBreakDetect n => Sys2Proof.Machine.execUartBreakDetect n s
  | .uartLineStuckDetect n => Sys2Proof.Machine.execUartLineStuckDetect n s
  | .uartWakeEdge n => Sys2Proof.Machine.execUartWakeEdge n s
  | .uartKcpFrame wire damaged => Sys2Proof.Machine.execUartKcpFrame wire damaged s
  | .uartFrameGapTimeout => Sys2Proof.Machine.execUartFrameGapTimeout s
  | .contactConfig k => Sys2Proof.Machine.execContactConfig k s
  | .contactSetOut k => Sys2Proof.Machine.execContactSetOut k s
  | .contactGet k => Sys2Proof.Machine.execContactGet k s
  | .contactSenseWindow codes => Sys2Proof.Machine.execContactSenseWindow codes s
  | .supvSetPilot k => Sys2Proof.Machine.execSupvSetPilot k s
  | .supvSetPath k => Sys2Proof.Machine.execSupvSetPath k s
  | .supvBaseline k => Sys2Proof.Machine.execSupvBaseline k s
  | .baselineTimeout => Sys2Proof.Machine.execBaselineTimeout s
  | .supvGetPaths k => Sys2Proof.Machine.execSupvGetPaths k s
  | .supvSetDew k => Sys2Proof.Machine.execSupvSetDew k s
  | .supvGetDew k => Sys2Proof.Machine.execSupvGetDew k s
  | .pilotWindowEnd zone point level => Sys2Proof.Machine.execPilotWindowEnd zone point level s
  | .avuHop path refLevel confidence energy delay inverted tilt => Sys2Proof.Machine.execAvuHop path refLevel confidence energy delay inverted tilt s
  | .avuPathFault path => Sys2Proof.Machine.execAvuPathFault path s
  | .avuPathOk path => Sys2Proof.Machine.execAvuPathOk path s
  | .avuPathChange path => Sys2Proof.Machine.execAvuPathChange path s
  | .dewWindowOpen => Sys2Proof.Machine.execDewWindowOpen s
  | .dewStepDone zone m => Sys2Proof.Machine.execDewStepDone zone m s
  | .dewRestart zone => Sys2Proof.Machine.execDewRestart zone s
  | .dewWindowClose => Sys2Proof.Machine.execDewWindowClose s
  | .ageGetPlan k => Sys2Proof.Machine.execAgeGetPlan k s
  | .ageGetLog k => Sys2Proof.Machine.execAgeGetLog k s
  | .ageSetLimits k => Sys2Proof.Machine.execAgeSetLimits k s
  | .ageGetSensors k => Sys2Proof.Machine.execAgeGetSensors k s
  | .ageHour => Sys2Proof.Machine.execAgeHour s
  | .derateRelease => Sys2Proof.Machine.execDerateRelease s
  | .eclkChange => Sys2Proof.Machine.execEclkChange s
  | .avsReadback ack voutMv status => Sys2Proof.Machine.execAvsReadback ack voutMv status s
  | .ringSensorRead slacks => Sys2Proof.Machine.execRingSensorRead slacks s
  | .thermalRead temps => Sys2Proof.Machine.execThermalRead temps s
  | .canaryRead failed => Sys2Proof.Machine.execCanaryRead failed s
  | .courseConfig k => Sys2Proof.Machine.execCourseConfig k s
  | .courseGetStatus k => Sys2Proof.Machine.execCourseGetStatus k s
  | .courseSetOffset k => Sys2Proof.Machine.execCourseSetOffset k s
  | .courseMapGroup k => Sys2Proof.Machine.execCourseMapGroup k s
  | .courseSetTwin k => Sys2Proof.Machine.execCourseSetTwin k s
  | .courseFrameSend => Sys2Proof.Machine.execCourseFrameSend s
  | .courseFrameReceived port frame => Sys2Proof.Machine.execCourseFrameReceived port frame s
  | .courseMsgStatus h pstate variant twin eastNs westNs => Sys2Proof.Machine.execCourseMsgStatus h pstate variant twin eastNs westNs s
  | .courseMsgTopo h down ring => Sys2Proof.Machine.execCourseMsgTopo h down ring s
  | .courseMsgTime h change => Sys2Proof.Machine.execCourseMsgTime h change s
  | .courseMsgSquall h squall => Sys2Proof.Machine.execCourseMsgSquall h squall s
  | .courseMsgSiteJob h handle startBlock site descriptor => Sys2Proof.Machine.execCourseMsgSiteJob h handle startBlock site descriptor s
  | .courseMsgSiteCmd h handle release mt => Sys2Proof.Machine.execCourseMsgSiteCmd h handle release mt s
  | .courseMsgGroupMap h site groups => Sys2Proof.Machine.execCourseMsgGroupMap h site groups s
  | .courseMsgStrike h seq sample => Sys2Proof.Machine.execCourseMsgStrike h seq sample s
  | .courseMsgSig h block sigs => Sys2Proof.Machine.execCourseMsgSig h block sigs s
  | .courseMsgPartDone h handle reason => Sys2Proof.Machine.execCourseMsgPartDone h handle reason s
  | .courseMsgMigrate h m brick => Sys2Proof.Machine.execCourseMsgMigrate h m brick s
  | .coursePortDown port => Sys2Proof.Machine.execCoursePortDown port s
  | .coursePortUp port => Sys2Proof.Machine.execCoursePortUp port s
  | .keystoneLost => Sys2Proof.Machine.execKeystoneLost s
  | .twinCheckDone failed => Sys2Proof.Machine.execTwinCheckDone failed s
  | .twinTakeoverStart => Sys2Proof.Machine.execTwinTakeoverStart s
  | .streamConfig k => Sys2Proof.Machine.execStreamConfig k s
  | .streamTrain k => Sys2Proof.Machine.execStreamTrain k s
  | .streamTrainingDone result lanes us grants => Sys2Proof.Machine.execStreamTrainingDone result lanes us grants s
  | .streamGetStatus k => Sys2Proof.Machine.execStreamGetStatus k s
  | .streamMap k => Sys2Proof.Machine.execStreamMap k s
  | .streamFlitReceived payload control crcOk => Sys2Proof.Machine.execStreamFlitReceived payload control crcOk s
  | .streamAudioFrameRx mt n len words => Sys2Proof.Machine.execStreamAudioFrameRx mt n len words s
  | .streamAudioFrameTx => Sys2Proof.Machine.execStreamAudioFrameTx s
  | .streamLaneFail lane trained => Sys2Proof.Machine.execStreamLaneFail lane trained s
  | .streamClockAbsent => Sys2Proof.Machine.execStreamClockAbsent s
  | .strikeInEdge lowNs => Sys2Proof.Machine.execStrikeInEdge lowNs s
  | .strikeLatch => Sys2Proof.Machine.execStrikeLatch s
  | .strikeComplete partialCopy => Sys2Proof.Machine.execStrikeComplete partialCopy s
  | .safetyDetection code inst loc expected observed => Sys2Proof.Machine.execSafetyDetection code inst loc expected observed s
  | .faultLogWrite => Sys2Proof.Machine.execFaultLogWrite s
  | .safeAliveToggle heartbeat => Sys2Proof.Machine.execSafeAliveToggle heartbeat s
  | .bankRetrain ok => Sys2Proof.Machine.execBankRetrain ok s
  | .bankAvailable => Sys2Proof.Machine.execBankAvailable s
  | .vaultWordRestore slab word => Sys2Proof.Machine.execVaultWordRestore slab word s
  | .scrubWord slab word error changed => Sys2Proof.Machine.execScrubWord slab word error changed s
  | .scrubStarved => Sys2Proof.Machine.execScrubStarved s
  | .marchWindow slab window outcome => Sys2Proof.Machine.execMarchWindow slab window outcome s
  | .testStarved => Sys2Proof.Machine.execTestStarved s
  | .bankPatrolRead page error => Sys2Proof.Machine.execBankPatrolRead page error s
  | .mpllLossOfLock => Sys2Proof.Machine.execMpllLossOfLock s
  | .courseLaneAlignmentLoss port lane => Sys2Proof.Machine.execCourseLaneAlignmentLoss port lane s
  | .uartFalseStart n => Sys2Proof.Machine.execUartFalseStart n s
  | .uartLineReturnToIdle n => Sys2Proof.Machine.execUartLineReturnToIdle n s
  | .squallSequenceTimeout => Sys2Proof.Machine.execSquallSequenceTimeout s
  | .injectedFaultHoldExpiry code => Sys2Proof.Machine.execInjectedFaultHoldExpiry code s
  | .fieldRepairComplete slab ok => Sys2Proof.Machine.execFieldRepairComplete slab ok s
  | .configEraseDone ok => Sys2Proof.Machine.execConfigEraseDone ok s

end Sys2Proof.Machine
end

