-- ==== Sys2Proof/Machine/Catalogue.lean ====
section
/-! DEFINITION. The rows of the table that are commands of the Kaette Command Protocol (R293–R318), each with its entry of the
catalogue: what R276 asks of it and what it does. -/

namespace Sys2Proof.Machine

/-- The entry of the catalogue and the delivered command of a row that is a command of the protocol. SLAB.HANDOVER, which answers
when its handover is done, has its own form. -/
def commandOf : Instr → Option (Cmd × Kcp)
  | .sysGetCaps k => some (cmdSysGetCaps, k)
  | .sysGetStatus k => some (cmdSysGetStatus, k)
  | .sysReset k => some ((if k.f 0 28 4 = 1 then cmdBlockReset else cmdSoftReset), k)
  | .sysSetState k => some (cmdSysSetState, k)
  | .sysConfigBuild k => some (cmdSysConfigBuild, k)
  | .sysConfigCommit k => some (cmdSysConfigCommit, k)
  | .sysConfigErase k => some (cmdSysConfigErase, k)
  | .sysEcho k => some (cmdSysEcho, k)
  | .safeGetStatus k => some (cmdSafeGetStatus, k)
  | .safeGetFaults k => some (cmdSafeGetFaults, k)
  | .safeAckFaults k => some (cmdSafeAckFaults, k)
  | .safeSetLock k => some (cmdSafeSetLock, k)
  | .safeProvision k => some (cmdSafeProvision, k)
  | .safeRecover k => some (cmdSafeRecover, k)
  | .safeInject k => some (cmdSafeInject, k)
  | .safeUpdate k => some (cmdSafeUpdate, k)
  | .safeUpdateWrite k => some (cmdSafeUpdateWrite, k)
  | .safeDebugUnlock k => some (cmdSafeDebugUnlock, k)
  | .snapStrike k => some (cmdSnapStrike, k)
  | .snapSetSources k => some (cmdSnapSetSources, k)
  | .snapRead k => some (cmdSnapRead, k)
  | .snapGetStatus k => some (cmdSnapGetStatus, k)
  | .slabGetStatus k => some (cmdSlabGetStatus, k)
  | .slabRead k => some (cmdSlabRead, k)
  | .slabWrite k => some (cmdSlabWrite, k)
  | .slabRepair k => some (cmdSlabRepair, k)
  | .slabScrub k => some (cmdSlabScrub, k)
  | .timeGet k => some (cmdTimeGet, k)
  | .timeSetEpoch k => some (cmdTimeSetEpoch, k)
  | .timeSetRate k => some (cmdTimeSetRate, k)
  | .timeSetRefs k => some (cmdTimeSetRefs, k)
  | .timeGetRefs k => some (cmdTimeGetRefs, k)
  | .timeSetRa k => some (cmdTimeSetRa, k)
  | .voiceSetParam k => some (cmdVoiceSetParam, k)
  | .voiceGetParams k => some (cmdVoiceGetParams, k)
  | .voiceRelease k => some (cmdVoiceRelease, k)
  | .voiceStop k => some (cmdVoiceStop, k)
  | .voiceGetLevels k => some (cmdVoiceGetLevels, k)
  | .voiceGetStatus k => some (cmdVoiceGetStatus, k)
  | .bankLoad k => some (cmdBankLoad, k)
  | .bankWrite k => some (cmdBankWrite, k)
  | .bankUnload k => some (cmdBankUnload, k)
  | .bankVerify k => some (cmdBankVerify, k)
  | .bankGetInfo k => some (cmdBankGetInfo, k)
  | .bankList k => some (cmdBankList, k)
  | .jobSubmit k => some (cmdJobSubmit, k)
  | .jobAbort k => some (cmdJobAbort, k)
  | .jobRelease k => some (cmdJobRelease, k)
  | .jobGetStatus k => some (cmdJobGetStatus, k)
  | .jobList k => some (cmdJobList, k)
  | .jobGetStats k => some (cmdJobGetStats, k)
  | .jobSetPolicy k => some (cmdJobSetPolicy, k)
  | .jobScriptEdit k => some (cmdJobScriptEdit, k)
  | .jobSquallEnd k => some (cmdJobSquallEnd, k)
  | .jobArm k => some (cmdJobArm, k)
  | .jobDisarm k => some (cmdJobDisarm, k)
  | .jobSetSquall k => some (cmdJobSetSquall, k)
  | .mixSetTaps k => some ((if k.f 0 28 4 = 0 then cmdMixSetTaps else cmdMixStageTaps), k)
  | .mixClear k => some (cmdMixClear, k)
  | .mixGetTaps k => some (cmdMixGetTaps, k)
  | .mixGetBitmap k => some (cmdMixGetBitmap, k)
  | .mixOpenSet k => some (cmdMixOpenSet, k)
  | .mixCommitSet k => some (cmdMixCommitSet, k)
  | .mixCancelSet k => some (cmdMixCancelSet, k)
  | .mixSetClass k => some (cmdMixSetClass, k)
  | .mixSetGen k => some (cmdMixSetGen, k)
  | .mixRouteAux k => some (cmdMixRouteAux, k)
  | .mixGetClip k => some (cmdMixGetClip, k)
  | .mixGetStats k => some (cmdMixGetStats, k)
  | .zoneEnable k => some (cmdZoneEnable, k)
  | .zoneSetInputs k => some (cmdZoneSetInputs, k)
  | .zoneSetGate k => some (cmdZoneSetGate, k)
  | .zoneSetAmbient k => some (cmdZoneSetAmbient, k)
  | .zoneSetEq k => some (cmdZoneSetEq, k)
  | .zoneLoadFir k => some (cmdZoneLoadFir, k)
  | .zoneSetFir k => some (cmdZoneSetFir, k)
  | .zoneSetDyn k => some (cmdZoneSetDyn, k)
  | .zoneSetDelay k => some (cmdZoneSetDelay, k)
  | .zoneSetGain k => some (cmdZoneSetGain, k)
  | .zoneSetPilot k => some (cmdZoneSetPilot, k)
  | .zoneSetOutputs k => some (cmdZoneSetOutputs, k)
  | .zoneRestore k => some (cmdZoneRestore, k)
  | .zoneSetGroup k => some (cmdZoneSetGroup, k)
  | .zoneGetConfig k => some (cmdZoneGetConfig, k)
  | .zoneGetStatus k => some (cmdZoneGetStatus, k)
  | .kernelStage k => some (cmdKernelStage, k)
  | .kernelWrite k => some (cmdKernelWrite, k)
  | .kernelLoad k => some (cmdKernelLoad, k)
  | .kernelRestoreStd k => some (cmdKernelRestoreStd, k)
  | .kernelCancel k => some (cmdKernelCancel, k)
  | .kernelGetInfo k => some (cmdKernelGetInfo, k)
  | .portConfig k => some (cmdPortConfig, k)
  | .portStart k => some (cmdPortStart, k)
  | .portStop k => some (cmdPortStop, k)
  | .portSetGroup k => some (cmdPortSetGroup, k)
  | .portSetLength k => some (cmdPortSetLength, k)
  | .portGetStatus k => some (cmdPortGetStatus, k)
  | .anaConfig k => some (cmdAnaConfig, k)
  | .anaEnable k => some (cmdAnaEnable, k)
  | .anaSetRange k => some (cmdAnaSetRange, k)
  | .anaTrim k => some (cmdAnaTrim, k)
  | .anaGetStatus k => some (cmdAnaGetStatus, k)
  | .timConfig k => some (cmdTimConfig, k)
  | .timStart k => some (cmdTimStart, k)
  | .timStop k => some (cmdTimStop, k)
  | .timSetCmp k => some (cmdTimSetCmp, k)
  | .timGet k => some (cmdTimGet, k)
  | .uartConfig k => some (cmdUartConfig, k)
  | .uartEnable k => some (cmdUartEnable, k)
  | .uartSend k => some (cmdUartSend, k)
  | .uartRecv k => some (cmdUartRecv, k)
  | .uartSetFramed k => some (cmdUartSetFramed, k)
  | .uartGetStatus k => some (cmdUartGetStatus, k)
  | .contactConfig k => some (cmdContactConfig, k)
  | .contactSetOut k => some (cmdContactSetOut, k)
  | .contactGet k => some (cmdContactGet, k)
  | .supvSetPilot k => some (cmdSupvSetPilot, k)
  | .supvSetPath k => some (cmdSupvSetPath, k)
  | .supvBaseline k => some (cmdSupvBaseline, k)
  | .supvGetPaths k => some (cmdSupvGetPaths, k)
  | .supvSetDew k => some (cmdSupvSetDew, k)
  | .supvGetDew k => some (cmdSupvGetDew, k)
  | .ageGetPlan k => some (cmdAgeGetPlan, k)
  | .ageGetLog k => some (cmdAgeGetLog, k)
  | .ageSetLimits k => some (cmdAgeSetLimits, k)
  | .ageGetSensors k => some (cmdAgeGetSensors, k)
  | .courseConfig k => some (cmdCourseConfig, k)
  | .courseGetStatus k => some (cmdCourseGetStatus, k)
  | .courseSetOffset k => some (cmdCourseSetOffset, k)
  | .courseMapGroup k => some (cmdCourseMapGroup, k)
  | .courseSetTwin k => some (cmdCourseSetTwin, k)
  | .streamConfig k => some (cmdStreamConfig, k)
  | .streamTrain k => some (cmdStreamTrain, k)
  | .streamGetStatus k => some (cmdStreamGetStatus, k)
  | .streamMap k => some (cmdStreamMap, k)
  | _ => none

end Sys2Proof.Machine
end

