-- ==== Sys2Proof/Safety.lean ====
section
/-! DEFINITION. What a safe run of the block is: the memory of the block (the register store, the slabs and the read latches) in
its one canonical form, and what a step may never change. -/

namespace Sys2Proof.Machine

/-- A sparse store is in its one canonical form: keys strictly rising, and no entry equal to what its key reads as when it is
not listed. -/
def storeWf {α : Type} [DecidableEq α] (dflt : Nat → α) : List (Nat × α) → Bool
  | [] => true
  | p :: l => l.all (fun q => decide (p.1 < q.1)) && decide (p.2 ≠ dflt p.1) && storeWf dflt l

/-- The memory of a state is in canonical form: registers (R510), slab words (R429), and the latches of the two read paths
(R534). -/
def Memory.wf (s : State) : Bool :=
  storeWf (regReset s.variant) s.regs && storeWf (fun _ => 0) s.slabs.words &&
    storeWf (fun _ => 0) s.latchSpi && storeWf (fun _ => 0) s.latchMclk

/-- Every key slot that is written in one state is written with the same key in another (R299: a slot is written once). -/
def keysKept (a b : State) : Prop := ∀ n key, kget a.safe.keys n = some key → kget b.safe.keys n = some key

/-- The words that posting an event may write (R281, R283): the records of the queue, its registers, the interrupt register, and
the credit and the count of the virtual channel that copies events. -/
def eventWord (a : Nat) : Bool :=
  decide (0x2000 ≤ a ∧ a < 0x4000) || decide (a = R.EVQ_STATUS) || decide (a = R.EVQ_LOST_TOTAL) ||
    decide (a = R.HOST_IRQ_STAT) || decide (a = R.STRM_VC_CREDIT 3) || decide (a = R.STRM_VC_TXCNT 3)

/-- No bit of the register store outside the named fields differs between two states. -/
def fieldsKept (fs : List Fld) (s t : State) : Prop :=
  ∀ a i, (∀ f ∈ fs, ¬ (f.addr = a ∧ f.lo ≤ i ∧ i < f.lo + f.width)) → (t.rd a).getLsbD i = (s.rd a).getLsbD i

/-- A state that differs from another in its register store only: there each named field holds its named value, and every bit
outside the named fields is as it was. -/
def onlyStores (l : List (Fld × Nat)) (s t : State) : Prop :=
  t = { s with regs := t.regs } ∧ (∀ p ∈ l, t.get p.1 = p.2) ∧ fieldsKept (l.map Prod.fst) s t

end Sys2Proof.Machine
end

