-- ==== Sys2Proof/Certificates/Slice0/Obligations.lean ====
section
/-! DEFINITION. What the model is stated to do, from the numbered rules of the specification: the step, the command protocol, and
the commands and events of each unit. -/

open Sys2Proof Sys2Proof.Machine

/-- What a step is: the command at the front with the queue's rest. That an empty queue idles is the model's choice (DESIGN CHOICE,
notes/assumptions/5.md). -/
def Obligations.StepRunsFrontCommand : Prop :=
  (∀ (s : State) (c : Instr) (q : List Instr), s.pending = c :: q → step s = exec c { s with pending := q }) ∧
  (∀ s : State, s.pending = [] → step s = .next s)

/-- No command stops the block: what the Mason pair refuses it answers with a status (R276, R532), which is a next state. -/
def Obligations.EveryCommandCompletes : Prop :=
  ∀ (c : Instr) (s : State), ∃ t, exec c s = .next t ∧ t.pending = s.pending ∧ t.variant = s.variant

/-- The memory invariant, for every state and every command at the front. -/
def Obligations.StepKeepsMemoryWf : Prop :=
  ∀ s t : State, Memory.wf s = true → step s = .next t → Memory.wf t = true

/-- What reset leaves. -/
def Obligations.ResetState : Prop :=
  Memory.wf State.reset = true ∧ State.reset.power = .reset ∧ State.reset.resetKind = .por ∧
    (∀ a, State.reset.rd a = regReset State.reset.variant a) ∧ State.reset.ready = false ∧
    State.reset.disp.jobs = [] ∧ State.reset.disp.voices = [] ∧ State.reset.mix.taps = [] ∧ State.reset.timed = [] ∧
    State.reset.pending = [] ∧ (∀ k, State.reset.slabWord k = 0)

/-- SAFE.PROVISION writes a key slot once (R299), and no reset clears one (R487). -/
def Obligations.KeySlotsKept : Prop := ∀ s t : State, step s = .next t → keysKept s t

/-- The only commands that may move media time (R24, R26, R44, R45, R492). -/
def Obligations.MediaTimeKept : Prop :=
  ∀ (c : Instr) (s t : State), exec c s = .next t →
    (match c with
      | .powerOnReset => False | .pinReset _ => False | .watchdogExpiry => False | .resetDelayExpiry => False
      | .lullWake .. => False | .readyRise .. => False | .sysReset _ => False | .blockTick => False | .ppsEdge .. => False
      | _ => True) →
    t.time.mt = s.time.mt

/-- Acceptance of a protocol command, in the order of R276 step 10: effect, timed entry, response. SLAB.HANDOVER and JOB.SQUALL
have statements of their own. -/
def Obligations.KcpAccepted : Prop :=
  ∀ (i : Instr) (c : Cmd) (k : Kcp) (s n : State) (a : Answer) (st mt : Nat),
    commandOf i = some (c, k) → s.taking = true → k.crcOk = true → n = s.countTaken k.chan →
    n.cachedAnswer k.chan k.seq c.opcode = none → n.isDuplicate k.chan k.seq = false →
    c.check k n = none → c.strictLate k n = false →
    a = c.act k (c.okMt k n) n → st = a.status.getD (c.okStatus k n) → mt = a.mt.getD (c.okMt k n) →
    ∃ t, exec i s = .next (c.after k t) ∧
      t.host.response = some ⟨k.chan, st, k.seq, false,
        decide ((c.kind = .deferred ∨ c.kind = .bulk) ∧ (st = St.accepted ∨ st = St.late)), false, mt, a.payload⟩ ∧
      (k.chan.val ∉ a.state.host.seqReset → recorded st = true → ∃ f,
        (t.cacheOf k.chan).head? = some ⟨k.seq, BitVec.ofNat 16 c.opcode, st, f, mt, a.payload⟩) ∧
      (if c.at_ = .none then t.timed = a.state.timed ∧ t.order = a.state.order
        else t.timed = a.state.timed ++ [⟨mt, a.state.order, c.opcode, k.payload, k.chan, k.seq, st, k.notify⟩] ∧
          t.order = a.state.order + 1) ∧
      t = { a.state with regs := t.regs, host := t.host, timed := t.timed, order := t.order, uarts := t.uarts } ∧
      (k.chan.val ≠ 5 → t.uarts = a.state.uarts) ∧
      (a.payload.length ≤ 256 → ∀ w, 0x10000 ≤ w → w ≠ R.STRM_VC_CREDIT 2 → w ≠ R.STRM_VC_TXCNT 2 →
        eventWord w = false → (k.chan.val = 5 → w < 0x42000 ∨ 0x43000 ≤ w) → t.rd w = a.state.rd w)

/-- A protocol command that is not executed (R263, R274, R276–R278). -/
def Obligations.KcpRefused : Prop :=
  (∀ (i : Instr) (c : Cmd) (k : Kcp) (s n : State), commandOf i = some (c, k) → n = s.countTaken k.chan →
    exec i s = .next (s.takeOp c.opcode k) ∧
    (s.taking = false → s.waits = false → exec i s = .next s) ∧
    (s.taking = false → s.waits = true →
      exec i s = .next { s with host := { s.host with waiting := s.host.waiting ++ [(c.opcode, k)] } }) ∧
    (s.taking = true → k.crcOk = false →
      exec i s = .next (n.reply c.opcode ⟨k.chan, St.crcError, k.seq, false, false, false, 0, []⟩)) ∧
    (s.taking = true → k.crcOk = true → ∀ r, n.cachedAnswer k.chan k.seq c.opcode = some r →
      exec i s = .next (n.respond ⟨k.chan, r.status, k.seq, bit r.flags 14, bit r.flags 13, true, r.mt, r.payload⟩)) ∧
    (s.taking = true → k.crcOk = true → n.cachedAnswer k.chan k.seq c.opcode = none →
      (n.isDuplicate k.chan k.seq = true →
        exec i s = .next (n.reply c.opcode ⟨k.chan, St.duplicate, k.seq, false, false, false, 0, []⟩)) ∧
      (n.isDuplicate k.chan k.seq = false →
        (∀ st p, c.check k n = some (st, p) →
          exec i s = .next ((c.refused k st n).reply c.opcode ⟨k.chan, st, k.seq, false, false, false, 0, p⟩) ∧
          (p = [] ∨ (st = St.badArg ∧ ∃ off, p = [w32 off]) ∨ (st = St.busy ∧ ∃ h, 1 ≤ h ∧ h ≤ 1500 ∧ p = [w32 h]))) ∧
        (c.check k n = none → c.strictLate k n = true →
          exec i s = .next (n.reply c.opcode ⟨k.chan, St.late, k.seq, true, false, false, n.soonest, []⟩))))) ∧
  (∀ (s : State) (op : Nat) (r : Response),
    s.reply op r =
      { s with regs := (s.reply op r).regs, host := (s.reply op r).host, uarts := (s.reply op r).uarts } ∧
    (r.chan < 5 → (s.reply op r).uarts = s.uarts) ∧
    (s.reply op r).host.response = some r ∧
    (r.chan < 4 → r.chan ∉ s.host.seqReset → r.status < 2 ^ 16 →
      (s.reply op r).get (F.MB_STAT_STATE r.chan) = 2 ∧ (s.reply op r).get (F.MB_STAT_LAST_STATUS r.chan) = r.status) ∧
    (r.payload.length ≤ 256 → ∀ w, 0x10000 ≤ w → w ≠ R.STRM_VC_CREDIT 2 → w ≠ R.STRM_VC_TXCNT 2 →
      (r.chan < 5 ∨ w < 0x42000 ∨ 0x43000 ≤ w) → (s.reply op r).rd w = s.rd w))

/-- R4. The state after a write is the state before it, so no flag is set and no violation is recorded. -/
def Obligations.AbsentUnitRegisters : Prop :=
  ∀ (s : State) (a : Nat), regPresent s.variant a = false →
    (∀ p, s.readWord p a = 0) ∧ (∀ v, exec (.registerWrite a v) s = .next s) ∧
      exec (.registerReadClear a) s = .next s ∧ ∀ p, exec (.mtLoRead p a) s = .next s

/-- R5, for a command that reaches the check (R276 steps 1 to 3 pass). -/
def Obligations.AbsentUnitCommands : Prop :=
  (∀ (i : Instr) (c : Cmd) (k : Kcp) (s n : State), commandOf i = some (c, k) → n = s.countTaken k.chan →
    s.taking = true → k.crcOk = true → n.cachedAnswer k.chan k.seq c.opcode = none → n.isDuplicate k.chan k.seq = false →
    badHeader k = false → c.absent k n = true →
    exec i s = .next ((c.refused k St.unsupported n).reply c.opcode
        ⟨k.chan, St.unsupported, k.seq, false, false, false, 0, []⟩) ∧
      c.refused k St.unsupported n = n) ∧
  (∀ (i : Instr) (c : Cmd) (k : Kcp) (s : State), commandOf i = some (c, k) → s.variant = .lmz2048e →
    c.opcode / 256 = 0x08 ∨ c.opcode / 256 = 0x10 → c.absent k s = true)

/-- SLAB.HANDOVER (R306) and JOB.SQUALL (R148, R311, R312). -/
def Obligations.HandoverAndSquallCommands : Prop :=
  (∀ (k : Kcp) (s n h : State) (slab : Nat), n = s.countTaken k.chan → slab = k.f 0 0 5 →
    h = n.handover slab ⟨1, 0⟩ (k.f 0 8 4) (k.f 0 12 4) → s.taking = true → k.crcOk = true →
    n.cachedAnswer k.chan k.seq 0x1201 = none → n.isDuplicate k.chan k.seq = false →
    (cmdSlabHandover.check k n = none → h.flag (F.SLAB_STATUS_HANDOVER_DONE slab) = false →
      exec (.slabHandover (.command k)) s = .next { h with slabs := { h.slabs with answers := h.slabs.answers ++ [(slab, k)] } }) ∧
    (cmdSlabHandover.check k n = none → h.flag (F.SLAB_STATUS_HANDOVER_DONE slab) = true →
      ∃ t, exec (.slabHandover (.command k)) s = .next (if k.notify then t.cmdDone 0x1201 k.chan k.seq St.ok h.time.mt else t) ∧
        t.host.response = some ⟨k.chan, St.ok, k.seq, false, false, false, h.time.mt, []⟩ ∧
        t = { h with regs := t.regs, host := t.host }) ∧
    (∀ st p, cmdSlabHandover.check k n = some (st, p) →
      exec (.slabHandover (.command k)) s = .next (n.reply 0x1201 ⟨k.chan, st, k.seq, false, false, false, 0, p⟩))) ∧
  (∀ (k : Kcp) (s b n : State) (a : Answer),
    b = (if k.chan.val = 0 ∧ s.disp.squallMb = none then s.squallBell else s) → n = b.countTaken k.chan →
    b.taking = true → k.crcOk = true → n.cachedAnswer k.chan k.seq 0x0420 = none → n.isDuplicate k.chan k.seq = false →
    cmdJobSquall.check k n = none → a = cmdJobSquall.act k n.time.mt n →
    ∃ t, exec (.jobSquall k) s = .next t ∧
      t.host.response = some ⟨k.chan, a.status.getD St.ok, k.seq, false, false, false, a.mt.getD n.time.mt, a.payload⟩ ∧
      (k.chan.val = 0 → t.disp.squallMb = none ∧ a = ans n [n.disp.squallMb.getD 0]) ∧
      (k.chan.val ≠ 0 → a = ans (n.squallCommand 4).1 [(n.squallCommand 4).2] ∧ t.disp = a.state.disp)) ∧
  (∀ (k : Kcp) (s : State), badHeader k = false → cmdJobSquall.permitted k s = true → k.len.toNat = 0 → s.power = .run →
    s.flag F.DISP_SQUALL_CFG_ARMED = false ∨ s.flag F.DISP_SQUALL_CFG_EN_MB0 = false →
    cmdJobSquall.check k s = some (St.state, []))

/-- SEQ_RESET and what resets do to the sequence spaces (R278, R279). -/
def Obligations.SequenceReset : Prop :=
  (∀ (s : State) (m : Fin 4),
    (s.get (F.MB_STAT_STATE m) ≠ 1 → ∃ t, exec (.seqReset m) s = .next t ∧ t.cacheOf m = [] ∧
      (∀ c, c ≠ m.val → t.cacheOf c = s.cacheOf c) ∧
      t.host = { s.host with caches := t.host.caches, seqReset := t.host.seqReset } ∧
      onlyStores [(F.MB_SEQ_LAST m, 0), (F.MB_SEQ_LAST_VALID m, 0), (F.MB_CTRL_SEQ_RESET m, 0)] { s with host := t.host } t) ∧
    (s.get (F.MB_STAT_STATE m) = 1 → ∃ t, exec (.seqReset m) s = .next t ∧ m.val ∈ t.host.seqReset ∧
      t.host = { s.host with seqReset := t.host.seqReset } ∧ onlyStores [(F.MB_CTRL_SEQ_RESET m, 1)] { s with host := t.host } t)) ∧
  (∀ (s : State) (r : Response), r.chan < 4 → r.chan ∈ s.host.seqReset →
    (s.respond r).cacheOf r.chan = [] ∧ (s.respond r).get (F.MB_SEQ_LAST_VALID r.chan) = 0 ∧
      r.chan ∉ (s.respond r).host.seqReset) ∧
  (∀ (s : State) (k : ResetKind), (s.resetTo k).host.caches = [] ∧
    ∀ m, m < 4 → (s.resetTo k).get (F.MB_SEQ_LAST_VALID m) = 0)

/-- UART_TXD_WRITE, UART_CHAR_SENT, DE_RELEASE, and what an idle shifter takes (R469, R471, R473). -/
def Obligations.UartTransmit : Prop :=
  (∀ (s : State) (n : Fin 2) (ch : Byte),
    if s.flag (F.UART_STATUS_TXD_FULL n) = true ∨ s.uartOn n = false then exec (.uartTxdWrite n ch) s = .next s
    else ∃ t, exec (.uartTxdWrite n ch) s = .next (t.uartKick n) ∧
      onlyStores [(F.UART_STATUS_TXD_FULL n, 1)]
        (s.setUart { s.uart n with txd := some (if s.flag (F.UART_CTRL_DATA8 n) then ch else ch &&& 0x7F) }) t) ∧
  (∀ (s : State) (n : Fin 2),
    if (s.uart n).shifter = none then exec (.uartCharSent n) s = .next s
    else ∃ t, exec (.uartCharSent n) s = .next (t.uartKick n) ∧
      onlyStores [(F.UART_STATUS_TX_BUSY n, 0), (F.UART_TX_CNT_COUNT n, (s.get (F.UART_TX_CNT_COUNT n) + 1) % 2 ^ 32)]
        (s.setUart { s.uart n with shifter := none }) t) ∧
  (∀ s : State, exec .deRelease s = .next (
    if (s.uart 1).shifter = none ∧ (s.uart 1).flowOut = [] ∧
        ((s.uart 1).txd = none ∨ s.flag (F.UART_STATUS_TX_PAUSED 1) = true) then
      s.setUart { s.uart 1 with deHigh := false }
    else s)) ∧
  (∀ (s : State) (n : Nat), (s.uart n).txd ≠ none ∨ (s.uart n).sendBuf = [] → s.uartOn n = true →
    (s.uart n).shifter = none →
    (∀ c r, (s.uart n).flowOut = c :: r →
      onlyStores [(F.UART_STATUS_TX_BUSY n, 1)]
        (s.setUart { s.uart n with
          shifter := some c, flowOut := r, deHigh := (s.uart n).deHigh || (decide (n = 1) && s.flag (F.UART_CTRL_DE_EN 1)) })
        (s.uartKick n)) ∧
    (∀ c, (s.uart n).flowOut = [] → (s.uart n).txd = some c → s.flag (F.UART_STATUS_TX_PAUSED n) = false →
      ∃ t, s.uartKick n = t.uartFeed n ∧
        onlyStores [(F.UART_STATUS_TX_BUSY n, 1), (F.UART_STATUS_TXD_FULL n, 0)]
          (s.setUart { s.uart n with
            shifter := some c, txd := none, deHigh := (s.uart n).deHigh || (decide (n = 1) && s.flag (F.UART_CTRL_DE_EN 1)) })
          t) ∧
    ((s.uart n).flowOut = [] → s.flag (F.UART_STATUS_TX_PAUSED n) = true → s.uartKick n = s)) ∧
  (∀ (s : State) (n : Nat) (b : Byte) (r : List Byte), (s.uart n).txd = none → (s.uart n).sendBuf = b :: r → s.firmware = true →
    onlyStores [(F.UART_STATUS_TXD_FULL n, 1)] (s.setUart { s.uart n with txd := some b, sendBuf := r }) (s.uartFeed n))

/-- UART_CHAR_RECEIVED and UART_RXD_READ (R467, R468, R470, R471). -/
def Obligations.UartReceive : Prop :=
  (∀ (s : State) (n : Fin 2) (ch : Byte) (fe pe brk : Bool) (idle : Nat),
    s.uartOn n = false ∨ (s.uart n).armed = false ∨ s.echoed n = true →
      exec (.uartCharReceived n ch fe pe brk idle) s = .next s) ∧
  (∀ (s r : State) (n : Fin 2) (ch c : Byte) (fe pe brk : Bool) (idle : Nat),
    s.uartOn n = true → (s.uart n).armed = true → s.echoed n = false →
    c = (if s.flag (F.UART_CTRL_DATA8 n) then ch else ch &&& 0x7F) →
    r = (if n = 1 then s.squallMatch c (fe || pe) idle else s) →
    if r.flag (F.UART_CTRL_FLOW_TX n) = true ∧ fe = false ∧ pe = false ∧ c.toNat = r.get (F.UART_FLOW_XOFF_CHAR n) then
      ∃ t, exec (.uartCharReceived n ch fe pe brk idle) s = .next t ∧
        onlyStores [(F.UART_STATUS_TX_PAUSED n, 1),
          (F.UART_FLOWCNT_XOFF_RX_CNT n, min 65535 (r.get (F.UART_FLOWCNT_XOFF_RX_CNT n) + 1))] r t
    else if r.flag (F.UART_CTRL_FLOW_TX n) = true ∧ fe = false ∧ pe = false ∧ c.toNat = r.get (F.UART_FLOW_XON_CHAR n) then
      ∃ t, exec (.uartCharReceived n ch fe pe brk idle) s = .next (t.uartKick n) ∧
        onlyStores [(F.UART_STATUS_TX_PAUSED n, 0)] r t
    else
      ∃ t, exec (.uartCharReceived n ch fe pe brk idle) s = .next t ∧
        onlyStores (
          (if r.flag (F.UART_RXD_VALID n) then
            [(F.UART_STATUS_OVR n, 1), (F.UART_ERRCNT_OVR_CNT n, min 65535 (r.get (F.UART_ERRCNT_OVR_CNT n) + 1))] else []) ++
          (if fe then [(F.UART_STATUS_FE n, 1), (F.UART_ERRCNT_FE_CNT n, min 65535 (r.get (F.UART_ERRCNT_FE_CNT n) + 1))]
            else []) ++
          (if pe then [(F.UART_STATUS_PE n, 1), (F.UART_LINECNT_PE_CNT n, min 65535 (r.get (F.UART_LINECNT_PE_CNT n) + 1))]
            else []) ++
          [((⟨R.UART_RXD n, 0, 32⟩ : Fld), 2 ^ 15 + b2n brk * 2 ^ 10 + b2n pe * 2 ^ 9 + b2n fe * 2 ^ 8 + c.toNat),
            (F.UART_RX_CNT_COUNT n, (r.get (F.UART_RX_CNT_COUNT n) + 1) % 2 ^ 32)]) r t) ∧
  (∀ (s : State) (n : Fin 2) (u : UartSt) (takes xon : Bool),
    u = s.uart n → takes = (s.flag (F.UART_RXD_VALID n) && s.firmware && !s.framed n) →
    xon = (u.xoffSent && s.uartOn n) →
    ∃ t, exec (.uartRxdRead n) s = .next (if xon then t.uartKick n else t) ∧
      t.uart n = { u with
        ring := if takes ∧ u.ring.length < 1024 then u.ring ++ [(s.rd (R.UART_RXD n)).extractLsb' 0 8] else u.ring,
        ringErr := if takes then u.ringErr || decide (1024 ≤ u.ring.length) || decide (bits (s.rd (R.UART_RXD n)) 8 3 ≠ 0)
          else u.ringErr,
        lastRxBlock := if takes ∧ u.ring = [] then some s.blockNow else u.lastRxBlock,
        xoffDue := false, xoffSent := u.xoffSent && !s.uartOn n,
        flowOut := if xon then u.flowOut ++ [BitVec.ofNat 8 (s.get (F.UART_FLOW_XON_CHAR n))] else u.flowOut } ∧
      t.flag (F.UART_RXD_VALID n) = false ∧ t = { s with regs := t.regs, uarts := t.uarts } ∧
      (∀ m, m ≠ n.val → t.uart m = s.uart m) ∧
      ∀ a, a ≠ R.UART_RXD n → eventWord a = false → t.rd a = s.rd a)

/-- UART_FALSE_START, XOFF_GENERATE, UART_BREAK_DETECT, UART_LINE_STUCK_DETECT, UART_WAKE_EDGE and UART_LINE_RETURN_TO_IDLE
(R467, R471, R475–R477). -/
def Obligations.UartLine : Prop :=
  (∀ (s : State) (n : Fin 2), s.uartOn n = true →
    (∃ t, exec (.uartFalseStart n) s = .next t ∧
      onlyStores [(F.UART_STATUS_FALSE_START n, 1),
        (F.UART_LINECNT_FALSE_CNT n, min 255 (s.get (F.UART_LINECNT_FALSE_CNT n) + 1))] s t) ∧
    (s.flag (F.UART_CTRL_FLOW_RX n) = true → s.flag (F.UART_RXD_VALID n) = true → (s.uart n).xoffSent = false →
      if n = 1 ∧ (s.uart n).matched ≠ 0 then
        exec (.xoffGenerate n) s = .next (s.setUart { s.uart n with xoffDue := true })
      else ∃ t, exec (.xoffGenerate n) s = .next (t.uartKick n) ∧
        onlyStores [(F.UART_FLOWCNT_XOFF_TX_CNT n, min 65535 (s.get (F.UART_FLOWCNT_XOFF_TX_CNT n) + 1))]
          (s.setUart { s.uart n with
            flowOut := (s.uart n).flowOut ++ [BitVec.ofNat 8 (s.get (F.UART_FLOW_XOFF_CHAR n))],
            xoffSent := true, xoffDue := false }) t) ∧
    ((s.uart n).breakSeen = false →
      ∃ t, exec (.uartBreakDetect n) s = .next (t.post 0x0A02 n [lo32 s.blockNow]) ∧
        onlyStores [(F.UART_RXD_BRK n, 1), (F.UART_STATUS_BRK n, 1),
            (F.UART_LINECNT_BRK_CNT n, min 255 (s.get (F.UART_LINECNT_BRK_CNT n) + 1)), (F.UART_STATUS_LINE_LOW n, 1)]
          (s.setUart { s.uart n with armed := false, breakSeen := true, wakeArmed := false }) t) ∧
    ((s.uart n).stuck = true → exec (.uartLineStuckDetect n) s = .next s) ∧
    ((s.uart n).stuck = false → ∃ t u : State,
      onlyStores [(F.UART_STATUS_LINE_STUCK n, 1), (F.UART_STATUS_LINE_LOW n, 1)] s t ∧
      u = t.post 0x0A03 n [lo32 s.blockNow] ∧
      exec (.uartLineStuckDetect n) s =
        .next ((u.setUart { s.uart n with stuck := true }).raise Mech.contact (0x10 + n) 0 0 0)) ∧
    ((s.uart n).breakSeen = true → exec (.uartBreakDetect n) s = .next s) ∧
    (s.flag (F.UART_CTRL_FLOW_RX n) = false ∨ s.flag (F.UART_RXD_VALID n) = false ∨ (s.uart n).xoffSent = true →
      exec (.xoffGenerate n) s = .next s) ∧
    (s.power ≠ .lull ∨ s.flag (F.UART_CTRL_WAKE_EN n) = false ∨ (s.uart n).wakeArmed = false →
      exec (.uartWakeEdge n) s = .next s) ∧
    (s.power = .lull → s.flag (F.UART_CTRL_WAKE_EN n) = true → (s.uart n).wakeArmed = true →
      ∃ t, exec (.uartWakeEdge n) s = .next t ∧
        onlyStores (if s.get (F.UART_BAUD_DIV n) < 417 then [(F.UART_STATUS_WAKE_LOST n, 1)] else [])
          (s.setUart { s.uart n with wakeArmed := false }) t)) ∧
  (∀ (s : State) (n : Fin 2), s.uartOn n = false →
    exec (.uartFalseStart n) s = .next s ∧ exec (.xoffGenerate n) s = .next s ∧ exec (.uartBreakDetect n) s = .next s ∧
      exec (.uartLineStuckDetect n) s = .next s ∧ exec (.uartWakeEdge n) s = .next s) ∧
  (∀ (s : State) (n : Fin 2), ∃ t,
    onlyStores [(F.UART_STATUS_LINE_LOW n, 0)]
      (s.setUart { s.uart n with armed := s.uartOn n, breakSeen := false, wakeArmed := true, stuck := false }) t ∧
    exec (.uartLineReturnToIdle n) s = .next (
      if (∃ c : Fin 16, 2 ≤ s.contactClass c) ∨ (∃ m : Fin 2, m ≠ n ∧ (s.uart m).stuck = true) then t
      else t.unraise Mech.contact))

/-- UART_KCP_FRAME, UART_FRAME_GAP_TIMEOUT and SQUALL_SEQUENCE_TIMEOUT, and the matcher (R148, R285, R286, R471). -/
def Obligations.UartFramesAndSquall : Prop :=
  (∀ (s : State) (wire : List Byte) (damaged : Bool), s.framed 1 = false ∨ s.uartOn 1 = false →
    exec (.uartKcpFrame wire damaged) s = .next s ∧ exec .uartFrameGapTimeout s = .next s) ∧
  (∀ (s : State) (wire : List Byte) (damaged : Bool), s.framed 1 = true → s.uartOn 1 = true →
    (∃ t, exec .uartFrameGapTimeout s = .next t ∧
      onlyStores [(F.KCP_UART_DROP_CNT, min (2 ^ F.KCP_UART_DROP_CNT.width - 1) (s.get F.KCP_UART_DROP_CNT + 1))]
        s t) ∧
    (((frameBody wire).bind unescape = none ∨
        ∃ body, (frameBody wire).bind unescape = some body ∧
          (damaged = true ∨ body.length ≠ 16 + bits ((wordsOfBytes body).getD 1 0) 20 12 + 2)) →
      ∃ t, exec (.uartKcpFrame wire damaged) s = .next t ∧
        onlyStores [(F.KCP_UART_DROP_CNT, min (2 ^ F.KCP_UART_DROP_CNT.width - 1) (s.get F.KCP_UART_DROP_CNT + 1))]
          s t) ∧
    (∀ (body : List Byte) (len : Nat), (frameBody wire).bind unescape = some body → damaged = false →
      len = bits ((wordsOfBytes body).getD 1 0) 20 12 → body.length = 16 + len + 2 →
      if (s.host.rung.any fun x => x.1 = 5) = true then
        exec (.uartKcpFrame wire damaged) s = .next { s with host := { s.host with
          uartBusy := s.host.uartBusy ++ [((wordsOfBytes body).getD 0 0).extractLsb' 0 16] } }
      else if (s.uart 1).sendBuf ≠ [] then
        exec (.uartKcpFrame wire damaged) s = .next
          (s.respond ⟨5, St.busy, ((wordsOfBytes body).getD 0 0).extractLsb' 0 16, false, false, false, 0, [1]⟩)
      else
        exec (.uartKcpFrame wire damaged) s = .next (
          ({ s with host := { s.host with
            rung := s.host.rung ++ [(5, (crc16 (body.take (16 + len))).toNat, true)] } }).screenOpcode 5
            (crc16 (body.take (16 + len)) = body.getD (17 + len) 0 ++ body.getD (16 + len) 0)
            (wordsOfBytes (body.take (16 + len)))))) ∧
  (∀ (s : State) (r : Response), r.chan = 5 → s.framed 1 = true → s.uartOn 1 = true → s.host.uartBusy = [] →
    (s.uart 1).flowOut = [] →
    ((s.respond r).uart 1).shifter.toList ++ ((s.respond r).uart 1).txd.toList ++ ((s.respond r).uart 1).sendBuf =
      (s.uart 1).shifter.toList ++ (s.uart 1).txd.toList ++ (s.uart 1).sendBuf ++
        ([0x10, 0x02] ++ ((bytesOfWords (respHeader r ++ r.payload)) ++
          [(crc16 (bytesOfWords (respHeader r ++ r.payload))).extractLsb' 0 8,
           (crc16 (bytesOfWords (respHeader r ++ r.payload))).extractLsb' 8 8]).flatMap (fun b =>
            if b = 0x10 ∨ b = 0x11 ∨ b = 0x13 then [0x10, b ^^^ 0x20] else [b]) ++ [0x10, 0x03])) ∧
  (∀ s : State,
    exec .squallSequenceTimeout s = .next (
      if (s.uart 1).matched = 0 then s
      else if (s.uart 1).xoffDue then (s.setUart { s.uart 1 with matched := 0 }).sendXoff 1
      else s.setUart { s.uart 1 with matched := 0 })) ∧
  (∀ (s : State) (c : Byte) (idle : Nat),
    ((s.uart 1).matched = 0 → 2 ≤ idle → c = s.squallByte 0 →
      s.squallMatch c false idle = s.setUart { s.uart 1 with matched := 1 }) ∧
    ((s.uart 1).matched = 0 → (idle < 2 ∨ c ≠ s.squallByte 0) → s.squallMatch c false idle = s) ∧
    (0 < (s.uart 1).matched → (s.uart 1).matched ≠ 3 → c = s.squallByte (s.uart 1).matched →
      s.squallMatch c false 0 = s.setUart { s.uart 1 with matched := (s.uart 1).matched + 1 }) ∧
    ((s.uart 1).matched = 3 → (s.uart 1).xoffDue = false → c = s.squallByte 3 →
      s.squallMatch c false 0 = (s.setUart { s.uart 1 with matched := 0 }).squallTrigger 1 0))

/-- POWER_ON_RESET, PIN_RESET, WATCHDOG_EXPIRY, RESET_DELAY_EXPIRY, and the state that a reset leaves (R45, R434, R484, R486, R487).
That a pulse between 100 ns and 1 µs may do either is the model's choice (DESIGN CHOICE, notes/assumptions/11.md). -/
def Obligations.DeviceResets : Prop :=
  (∀ s : State, exec .powerOnReset s = .next (s.resetTo .por)) ∧
  (∀ (s : State) (ns : Nat),
    (ns < 100 → exec (.pinReset ns) s = .next s) ∧
    (1000 ≤ ns → s.power = .reset → s.resetKind = .por → exec (.pinReset ns) s = .next s) ∧
    (1000 ≤ ns → s.power ≠ .reset ∨ s.resetKind ≠ .por → exec (.pinReset ns) s = .next (s.resetTo .pin)) ∧
    (100 ≤ ns → ns < 1000 → exec (.pinReset ns) s = .next s.draw.2 ∨ exec (.pinReset ns) s = .next (s.draw.2.resetTo .pin))) ∧
  (∀ s : State, s.power ≠ .off → s.power ≠ .reset → ∃ u,
    onlyStores [(F.SAFE_WDOG_EXPIRY_CNT,
        min (2 ^ F.SAFE_WDOG_EXPIRY_CNT.width - 1) ((s.raise Mech.watchdog 0xFFFF 0 0 0).get F.SAFE_WDOG_EXPIRY_CNT + 1))]
      (s.raise Mech.watchdog 0xFFFF 0 0 0) u ∧ exec .watchdogExpiry s = .next (u.resetTo .wdog)) ∧
  (∀ s : State, (∀ code, s.safe.resetDue = some code →
      exec .resetDelayExpiry s = .next (s.resetTo (if code = Mech.watchdog then .wdog else .safe))) ∧
    (s.safe.resetDue = none → exec .resetDelayExpiry s = .next s)) ∧
  (∀ (s t : State) (k : ResetKind), t = s.resetTo k →
    t.power = .reset ∧ t.resetKind = k ∧ t.variant = s.variant ∧ t.pending = s.pending ∧ t.ready = false ∧
      t.get F.HOST_STATUS_PSTATE = 0 ∧ t.get F.HOST_STATUS_RESET_KIND = k.code ∧
      t.disp.jobs = [] ∧ t.disp.voices = [] ∧ t.mix.taps = [] ∧ t.zones = [] ∧ t.timed = [] ∧
      t.safe.keys = s.safe.keys ∧ t.safe.log = s.safe.log ∧ t.nor.flash = s.nor.flash ∧
      t.slabs.words = (if k.warm then s.slabs.words else []) ∧
      t.time.mt = (if k = .soft ∧ s.get F.TIME_STATUS_MODE = 2 then s.time.mt else 0) ∧ t.time.counting = false ∧
      (∀ a, 0x11000 ≤ a → a < 0x40000 → t.rd a = regReset s.variant a) ∧
      (Memory.wf s = true → k ≠ .por →
        t.get (F.SYS_RESETS_COUNT k.code) =
          (s.get (F.SYS_RESETS_COUNT k.code) + 1) % 2 ^ (F.SYS_RESETS_COUNT k.code).width))

/-- RESET_RELEASE and READY_RISE (R45, R443, R445, R463, R484). -/
def Obligations.BootAndReady : Prop :=
  (∀ (s : State) (env : BootEnv), s.power ≠ .reset → exec (.resetRelease env) s = .next s) ∧
  (∀ (s : State) (env : BootEnv) (f : NorImage), s.power = .reset → f = env.flash.getD s.nor.flash → ∃ u : State,
    u.power = .boot ∧ u.nor.flash = f ∧ u.safe.nonce = Config.nonceAfter s.safe.nonce ∧ u.get F.HOST_STATUS_PSTATE = 1 ∧
    (s.resetKind = .por ∨ s.resetKind = .pin →
      u.flag F.CONTACT_STRAP_BOOT_SRC = env.straps.getLsbD 0 ∧ u.flag F.CONTACT_STRAP_SPI_MODE = env.straps.getLsbD 1 ∧
      u.flag F.CONTACT_STRAP_COURSE_HINT = env.straps.getLsbD 2 ∧ u.flag F.CONTACT_STRAP_SAFE_BOOT = env.straps.getLsbD 3) ∧
    (s.resetKind ≠ .wdog → s.resetKind ≠ .soft →
      u.get F.MEMIF_NOR_ID_JEDEC_ID = f.part.jedec.toNat ∧
      u.bootFailed = !(norUsable f.part && (f.fwA.valid || f.fwB.valid))) ∧
    u = { s with regs := u.regs, power := u.power, nor := u.nor, safe := u.safe } ∧
    (u.bootFailed = true → exec (.resetRelease env) s = .next u.freezeAlive) ∧
    (u.bootFailed = false → ∃ v w,
      onlyStores ((F.MEMIF_STATUS_BANK_STATE, 2) ::
        (if s.resetKind = .wdog then [] else [(F.SYS_BOOT_COPY_B, b2n u.bootsB)])) u v ∧
      w = (if s.resetKind = .wdog ∨ s.resetKind = .soft then v.startRepairs
        else v.startRepairs.loadVault).restorePlan.restoreImage ∧
      exec (.resetRelease env) s = .next { w with age := { w.age with avsBusy := w.flag F.AGE_CTRL_AVS_EN } })) ∧
  (∀ (s : State) (ms : Nat) (gold : List Nat), s.power ≠ .boot ∨ s.bootFailed = true → exec (.readyRise ms gold) s = .next s) ∧
  (∀ (s : State) (ms : Nat) (gold : List Nat), s.power = .boot → s.bootFailed = false → ∃ u v : State,
    u.power = .idle ∧ u.ready = true ∧ u.get F.HOST_STATUS_PSTATE = 2 ∧ u.time.mt = s.time.mt ∧ u.time.counting = true ∧
    u.flag F.TIME_STATUS_MPLL_LOCK = true ∧ u.flag F.HOST_IRQ_STAT_READY_EVT = true ∧
    u.get F.SYS_BOOT_BOOT_MS = min 65535 ms ∧ u.variant = s.variant ∧
    v = forEach (u.post 0x0101 0xFFFF [w32 u.resetKind.code]).logAll.banks.abandoned
      (u.post 0x0101 0xFFFF [w32 u.resetKind.code]).logAll (fun b s =>
        if b < 256 then s.post 0x0201 b [0x09, 0] else if b < 512 then s.post 0x0C01 (b - 256) [0x05]
        else if b < 768 then s.post 0x1301 0xFFFF [0x05] else s.post 0x0103 0xFFFF [0x05]) ∧
    exec (.readyRise ms gold) s =
      .next (State.bootSquall { v with banks := { v.banks with abandoned := [] } }).takeWaiting) ∧
  (∀ s : State, s.host.waiting = [] → s.takeWaiting = s)

/-- ANALOGUE_RAIL_LOW and ANALOGUE_RAIL_RESTORE (R375). -/
def Obligations.AnalogueRails : Prop :=
  (∀ s : State, s.pins.analogueGood = false → exec .analogueRailLow s = .next s) ∧
  (∀ s : State, s.pins.analogueGood = true → exec .analogueRailRestore s = .next s) ∧
  (∀ s : State, s.pins.analogueGood = true → ∃ t,
    exec .analogueRailLow s = .next (if s.running = true ∧ s.channels ≠ [] then t.post 0x0805 0xFFFF [1] else t) ∧
    t.pins.analogueGood = false ∧
    (∀ n, n < s.variant.channels →
      t.anaState n = (if s.flag (F.ANA_CTRL_EN n) then Ana.railOff else Ana.inert) ∧ (t.chan n).code = 0 ∧
      (t.chan n).queue = [] ∧ (s.flag (F.ANA_CTRL_EN n) = true → t.flag (F.ANA_STATUS_RAIL_LOW n) = true)) ∧
    t = { s with regs := t.regs, ana := t.ana, anaTrim := t.anaTrim, pins := t.pins } ∧
    ∀ a, a < 0x45000 ∨ 0x46000 ≤ a → t.rd a = s.rd a) ∧
  (∀ s : State, s.pins.analogueGood = false → ∃ t,
    exec .analogueRailRestore s = .next (if s.running = true ∧ s.channels ≠ [] then t.post 0x0805 0xFFFF [0] else t) ∧
    t.pins.analogueGood = true ∧
    (∀ n, n < s.variant.channels → t.flag (F.ANA_STATUS_RAIL_LOW n) = false ∧
      (s.anaState n ≠ Ana.railOff → t.anaState n = s.anaState n) ∧
      (s.anaState n = Ana.railOff → s.flag (F.ANA_CTRL_EN n) = true →
        if s.live = true ∧ s.standby = false then t.anaState n = Ana.settling ∧ (t.chan n).settle = 4
        else t.anaState n = Ana.inert)) ∧
    t = { s with regs := t.regs, ana := t.ana, pins := t.pins } ∧
    ∀ a, a < 0x45000 ∨ 0x46000 ≤ a → t.rd a = s.rd a)

/-- LULL_POWER_DOWN and LULL_WAKE (R489, R491, R492). -/
def Obligations.LullAndWake : Prop :=
  (∀ s : State, s.lullEntry = false → exec .lullPowerDown s = .next s) ∧
  (∀ s : State, s.lullEntry = true → ∃ t, exec .lullPowerDown s = .next t ∧ t.power = .lull ∧ t.lullEntry = false ∧
    t.ready = false ∧ t.time.counting = false ∧ t.time.mt = s.time.mt ∧ t.time.lullMt = s.time.mt ∧
    t.flag F.TIME_STATUS_MPLL_LOCK = false ∧ t.get F.STRM_STATUS_STATE = 0 ∧ t.get F.MEMIF_STATUS_BANK_STATE = 3 ∧
    (∀ n, n < 8 → t.portState n = Port.stopped) ∧ (∀ n, n < s.variant.channels → t.anaClosed n = false) ∧
    (∀ n, n < 16 → t.flag (F.TIM_CTRL_LULL_RUN n) = false → t.flag (F.TIM_CTRL_RUN n) = false)) ∧
  (∀ (s : State) (src : WakeSource) (lclk ms : Nat) (tcm bank : Bool), s.power ≠ .lull → s.lullEntry = false →
    exec (.lullWake src lclk ms tcm bank) s = .next s) ∧
  (∀ (s : State) (src : WakeSource) (lclk ms : Nat) (bank : Bool), s.power = .lull ∨ s.lullEntry = true →
    exec (.lullWake src lclk ms false bank) s = .next (s.resetTo .wdog) ∧
    ∃ u v w : State,
      u.power = (if src = .squall ∨ s.lullFrom = .run then .run else .idle) ∧ u.lullEntry = false ∧
      u.time.counting = true ∧
      u.time.mt = (if s.time.counting then s.time.mt else (s.time.lullMt + lclk * s.hz / 32768) / s.bl * s.bl) ∧
      (s.time.counting = true → u.get F.TIME_STATUS_MODE = s.get F.TIME_STATUS_MODE ∧ u.time.keptOff = s.time.keptOff) ∧
      (s.time.counting = false → u.get F.TIME_STATUS_MODE = 3 ∧ u.get F.TIME_STATUS_SRC = 3 ∧
        u.get F.TIME_HOLDOVER_SECONDS = 0 ∧ u.time.keptOff = 0 ∧ u.time.jump = none ∧
        ∀ n, n < 3 → u.get (F.TIME_REF_STAT_STATE n) = (if s.get (F.TIME_REF_STAT_STATE n) = 0 then 0 else 1)) ∧
      u.flag F.TIME_STATUS_MPLL_LOCK = true ∧ u.get F.SYS_WAKE_SRC = wakeCode src ∧
      u.get F.SYS_WAKE_WAKE_MS = min 65535 ms ∧ u.get F.MEMIF_STATUS_BANK_STATE = 2 ∧ u.disp.voices = [] ∧
      onlyStores [(F.HOST_STATUS_READY, 1), (F.HOST_IRQ_STAT_READY_EVT, 1)] (u.wakeFaults bank) v ∧
      w = (v.post 0x0102 0xFFFF [w32 (v.power.code + 4 * 16)]).logAll ∧
      exec (.lullWake src lclk ms true bank) s = .next (State.bootSquall (
        if w.power = .run then w.outputsLive.afterLull else if w.power = .idle then w.afterLull else w)).takeWaiting)

/-- SPI_WRITE_TRANSACTION (R264–R266, R269): `wire` is the command byte, the address, the words and one byte more. -/
def Obligations.SpiWriteTransaction : Prop :=
  (∀ s : State, s.shiftStatus = { s with host := { s.host with statusByte := s.spiStatus } } ∧
    s.spiStatus.getLsbD 7 = s.flag F.HOST_STATUS_READY ∧ s.spiStatus.getLsbD 6 = s.irq ∧
    s.spiStatus.getLsbD 5 = s.host.lastWrOk ∧ s.spiStatus.getLsbD 4 = s.host.lastWrErr ∧
    ∀ i, i < 4 → s.spiStatus.getLsbD i = false) ∧
  (∀ (s b : State) (extra : Nat) (c : Byte) (rest : List Byte), b = s.shiftStatus →
    exec (.spiWriteTransaction [] extra) s = .next s ∧
    exec (.spiWriteTransaction (0x0B :: rest) extra) s = .next b ∧
    (c ≠ 0x0B → c ≠ 0x02 → ∃ t, exec (.spiWriteTransaction (c :: rest) extra) s = .next t ∧
      onlyStores [(F.HOST_SPI_ERR_CMD, 1), (F.HOST_IRQ_STAT_SPI_ERR, 1)] b t) ∧
    (s.ready = false → ∃ t, exec (.spiWriteTransaction (0x02 :: rest) extra) s = .next t ∧
      onlyStores [(F.HOST_SPI_ERR_ERR_CNT, min 65535 (s.get F.HOST_SPI_ERR_ERR_CNT + 1))]
        { b with host := { b.host with lastWrOk := false, lastWrErr := true } } t) ∧
    (s.ready = true → (extra ≠ 0 ∨ rest.length % 4 ≠ 0 ∨ rest.length < 8 ∨ 1060 < rest.length) →
      ∃ t, exec (.spiWriteTransaction (0x02 :: rest) extra) s = .next t ∧
        onlyStores [(F.HOST_SPI_ERR_FRAME, 1), (F.HOST_IRQ_STAT_SPI_ERR, 1),
            (F.HOST_SPI_ERR_ERR_CNT, min 65535 (s.get F.HOST_SPI_ERR_ERR_CNT + 1))]
          { b with host := { b.host with lastWrOk := false, lastWrErr := true } } t)) ∧
  (∀ (s b : State) (addr : BitVec 24) (ws : List W32) (crc : Byte) (head wire : List Byte) (targets : List Nat) (cause : Fld),
    b = s.shiftStatus → s.ready = true → 1 ≤ ws.length → ws.length ≤ 264 →
    head = [0x02, addr.extractLsb' 16 8, addr.extractLsb' 8 8, addr.extractLsb' 0 8] ++ wordsWire ws → wire = head ++ [crc] →
    targets = (List.range ws.length).map (fun i => addr.toNat + 4 * i) →
    ((crc ≠ crc8 head ∧ cause = F.HOST_SPI_ERR_CRC) ∨
      (crc = crc8 head ∧ cause = F.HOST_SPI_ERR_RANGE ∧
        (addr.toNat % 4 ≠ 0 ∨ ∃ a ∈ targets, 0x80 ≤ a ∧ bufferOf a = none)) ∨
      (crc = crc8 head ∧ cause = F.HOST_SPI_ERR_MB_BUSY ∧ addr.toNat % 4 = 0 ∧
        (∀ a ∈ targets, a < 0x80 ∨ bufferOf a ≠ none) ∧
        ∃ a ∈ targets, ∃ m, bufferOf a = some m ∧ s.get (F.MB_STAT_STATE m) = 1)) →
    ∃ t, exec (.spiWriteTransaction wire 0) s = .next t ∧
      onlyStores [(cause, 1), (F.HOST_IRQ_STAT_SPI_ERR, 1),
          (F.HOST_SPI_ERR_ERR_CNT, min 65535 (s.get F.HOST_SPI_ERR_ERR_CNT + 1))]
        { b with host := { b.host with lastWrOk := false, lastWrErr := true } } t) ∧
  (∀ (s b : State) (addr : BitVec 24) (ws : List W32) (head : List Byte) (targets : List Nat),
    b = s.shiftStatus → s.ready = true → 1 ≤ ws.length → ws.length ≤ 264 → addr.toNat % 4 = 0 →
    head = [0x02, addr.extractLsb' 16 8, addr.extractLsb' 8 8, addr.extractLsb' 0 8] ++ wordsWire ws →
    targets = (List.range ws.length).map (fun i => addr.toNat + 4 * i) →
    (∀ a ∈ targets, (a < 0x80 ∧ bufferOf a = none) ∨ ∃ m, bufferOf a = some m ∧ s.get (F.MB_STAT_STATE m) ≠ 1) →
    ∃ t, exec (.spiWriteTransaction (head ++ [crc8 head]) 0) s =
        .next { t with host := { t.host with lastWrOk := true, lastWrErr := false } } ∧
      (∀ v, ws = [v] → t = b.hostWrite addr.toNat v) ∧
      ((∀ a ∈ targets, bufferOf a ≠ none) →
        (∀ i (hi : i < ws.length), t.rd (addr.toNat + 4 * i) = ws[i]) ∧ t = { b with regs := t.regs } ∧
        ∀ a, a ∉ targets → t.rd a = s.rd a))

/-- SPI_READ_TRANSACTION, MT_LO_READ and REGISTER_READ_CLEAR (R9, R265, R268, R269, R534). -/
def Obligations.ReadsOfRegisters : Prop :=
  (∀ (s : State) (addr : BitVec 24) (n : Nat), ∃ t, exec (.spiReadTransaction addr n) s = .next t ∧
    t.host.readWords.length = n ∧
    t.host.readCrc = crc8 ([0x0B, addr.extractLsb' 16 8, addr.extractLsb' 8 8, addr.extractLsb' 0 8] ++
      wordsWire t.host.readWords) ∧
    t = { s with latchSpi := t.latchSpi, host := { s.host with
      readWords := t.host.readWords, readCrc := t.host.readCrc, statusByte := s.spiStatus } } ∧
    (s.ready = false → t.latchSpi = s.latchSpi ∧ t.host.readWords = List.replicate n 0) ∧
    (s.ready = true → ∀ i (hi : i < t.host.readWords.length), ∀ a, a = (addr.toNat / 4 * 4 + 4 * i) % 2 ^ 24 →
      (4 ≤ a ∧ latching (a - 4) = true →
        t.host.readWords[i] = (if i ≠ 0 ∧ regPresent s.variant (a - 4) = true then s.highOf (a - 4) else s.latchOf .spi (a - 4))) ∧
      (a < 4 ∨ latching (a - 4) = false → t.host.readWords[i] = s.view a))) ∧
  (∀ (s : State) (p : ReadPath) (a : Nat),
    if latching a = true ∧ regPresent s.variant a = true then
      ∃ t, exec (.mtLoRead p a) s = .next t ∧ t.readWord p (a + 4) = s.highOf a ∧
        (∀ b, b ≠ a + 4 → t.readWord p b = s.readWord p b) ∧ (∀ q b, q ≠ p → t.readWord q b = s.readWord q b) ∧
        t = { s with latchSpi := t.latchSpi, latchMclk := t.latchMclk }
    else exec (.mtLoRead p a) s = .next s) ∧
  (∀ (s : State) (a : Nat), ∃ t, exec (.registerReadClear a) s = .next t ∧ t = { s with regs := t.regs } ∧
    (∀ b, b ≠ a → t.rd b = s.rd b) ∧
    ∀ i, (t.rd a).getLsbD i = ((s.rd a).getLsbD i && !(regPresent s.variant a &&
      (regRow a).any fun r => (w32 r.1.rc).getLsbD i)))

/-- REGISTER_WRITE (R4, R9, R10, R415, R420). -/
def Obligations.RegisterWrites : Prop :=
  (∀ (s : State) (a : Nat) (v : W32), ownRow a = true → exec (.registerWrite a v) s = .next s) ∧
  (∀ (s : State) (a : Nat) (v : W32), 0x10000 ≤ a → regRow a = none → exec (.registerWrite a v) s = .next s) ∧
  (∀ (s : State) (a : Nat) (v : W32) (r : RegRow) (n m : Nat), 0x10000 ≤ a → ownRow a = false →
    regPresent s.variant a = true → regRow a = some (r, n, m) →
    ∃ t, exec (.registerWrite a v) s = .next t ∧ t = { s with regs := t.regs } ∧ (∀ b, b ≠ a → t.rd b = s.rd b) ∧
      ∀ i, i < 32 → ∀ b, b = (v.getLsbD i && !(decide (a = R.TIME_EPOCH_CTRL) && decide (i = 31))) →
        (t.rd a).getLsbD i =
          (if b = true ∧ (w32 r.w1s).getLsbD i = true then true
          else if b = true ∧ (w32 r.w1c).getLsbD i = true then false
          else if (w32 (rwAt a r n + if s.rwlOpen a then r.rwl else 0)).getLsbD i = true then b
          else (s.rd a).getLsbD i))

/-- EVQ_ACK, SPI_ERR_CNT_CLR and the effect of words written to the host block (R271, R279, R283). -/
def Obligations.HostBlockWrites : Prop :=
  (∀ (s : State) (a m : Nat) (v : W32), bufferOf a = some m → s.hostWrite a v = s.wr a v) ∧
  (∀ (s : State) (m : Fin 4) (v : W32),
    (v.getLsbD 0 = false → s.hostWrite (R.MB_DOORBELL m) v = s) ∧
    (v.getLsbD 0 = true → s.get (F.MB_STAT_STATE m) = 1 →
      onlyStores [(F.HOST_SPI_ERR_MB_BUSY, 1), (F.HOST_IRQ_STAT_SPI_ERR, 1)] s (s.hostWrite (R.MB_DOORBELL m) v)) ∧
    (v.getLsbD 0 = true → s.get (F.MB_STAT_STATE m) ≠ 1 → ∃ (t : State) (ws : List W32),
      onlyStores [(F.MB_STAT_STATE m, 1), (⟨R.HOST_IRQ_STAT, m, 1⟩, 0)]
        { s with host := { s.host with rung := s.host.rung ++ [(m.val, bits v 16 16, v.getLsbD 1)] } } t ∧
      ws = t.rdList (mbBuf m) 260 ∧
      s.hostWrite (R.MB_DOORBELL m) v = (if m = 0 ∧ bits (s.rd (mbBuf 0)) 16 16 = 0x0420 then t.squallBell
        else t.screenOpcode (Fin.ofNat 6 m) (v.getLsbD 1 = false ∨
          crc16 ((ws.flatMap wordBytes).take (16 + min 1024 (bits (ws.getD 1 0) 20 12))) = v.extractLsb' 16 16) ws)) ∧
    (v.getLsbD 0 = true → exec (.seqReset m) s = .next (s.hostWrite (R.MB_CTRL m) v)) ∧
    (v.getLsbD 0 = false → s.hostWrite (R.MB_CTRL m) v = s)) ∧
  (∀ (s : State) (n : Nat), ∃ t, exec (.evqAck n) s = .next t ∧
    onlyStores [(F.EVQ_STATUS_RD, (s.get F.EVQ_STATUS_RD + min n (s.get F.EVQ_STATUS_USED)) % 256),
      (F.EVQ_STATUS_USED, s.get F.EVQ_STATUS_USED - min n (s.get F.EVQ_STATUS_USED))] s t) ∧
  (∀ (s : State) (v : W32), s.hostWrite R.EVQ_ACK v = s.ack (v.toNat % 512)) ∧
  (∀ s : State, ∃ t, exec .spiErrCntClr s = .next t ∧ onlyStores [(F.HOST_SPI_ERR_ERR_CNT, 0)] s t)

/-- SLAB_NORMAL_WRITE, SLAB_SET_ALIAS_WRITE and SLAB_CLEAR_ALIAS_WRITE (R430–R433, R436). -/
def Obligations.SlabViews : Prop :=
  ∀ (s : State) (slab : Fin 32) (g : Agent) (half : Fin 131072) (d : W32) (c : Instr) (m key : Nat),
    (c = .slabNormalWrite slab g half d ∧ m = 0) ∨ (c = .slabSetAliasWrite slab g half d ∧ m = 1) ∨
      (c = .slabClearAliasWrite slab g half d ∧ m = 2) →
    key = slab.val * 65536 + half.val / 2 →
    ((s.slabs.draining.find? fun x => x.1 = slab.val) = none → s.owns slab g = true → g.code ≠ 9 →
      (s.slabs.bad.contains key = false → ∃ t, exec c s = .next t ∧
        (∀ i, i < 64 → (t.slabWord key).getLsbD i =
          (if i / 32 ≠ half.val % 2 then (s.slabWord key).getLsbD i
          else if m = 0 then d.getLsbD (i % 32)
          else if m = 1 then (s.slabWord key).getLsbD i || d.getLsbD (i % 32)
          else (s.slabWord key).getLsbD i && !d.getLsbD (i % 32))) ∧
        (∀ k, k ≠ key → t.slabWord k = s.slabWord k) ∧
        t = { s with slabs := { s.slabs with words := t.slabs.words } }) ∧
      (s.slabs.bad.contains key = true → ∃ t,
        onlyStores [(F.SLAB_STATUS_UNCORR slab, 1),
          (F.SLAB_ECC_UNCORR_CNT slab, min 65535 (s.get (F.SLAB_ECC_UNCORR_CNT slab) + 1))] s t ∧
        exec c s = .next (t.raise Mech.slabEcc slab (w32 (half.val / 2)) 0 0))) ∧
    (∀ x, (s.slabs.draining.find? fun x => x.1 = slab.val) = some x → g.code.val = x.2.1 → (g.code.val ≠ 4 ∨ g.sub.val = x.2.2) →
      exec c s = .next { s with slabs := { s.slabs with
        held := s.slabs.held ++ [(slab.val * 131072 + half.val, m, d, g.code.val)] } }) ∧
    (((s.slabs.draining.find? fun x => x.1 = slab.val) = none ∧ (s.owns slab g = false ∨ g.code = 9)) ∨
        (∃ x, (s.slabs.draining.find? fun x => x.1 = slab.val) = some x ∧
          (g.code.val ≠ x.2.1 ∨ (g.code.val = 4 ∧ g.sub.val ≠ x.2.2))) →
      ∃ t,
        onlyStores ((if s.flag (F.SLAB_STATUS_OWN_VIOL slab) then [] else
            [(F.SLAB_VIOL_AGENT slab, g.code.val), (F.SLAB_VIOL_WRITE slab, 1), (F.SLAB_VIOL_WORD slab, half.val / 2)]) ++
          [(F.SLAB_STATUS_OWN_VIOL slab, 1), (F.SLAB_VIOL_VIOL_CNT slab, min 255 (s.get (F.SLAB_VIOL_VIOL_CNT slab) + 1))]) s t ∧
        exec c s = .next (if s.slabs.violThisSecond.contains slab.val then t
          else { t.post 0x1203 slab [t.rd (R.SLAB_VIOL slab)] with
            slabs := { t.slabs with violThisSecond := slab.val :: t.slabs.violThisSecond } }))

/-- SLAB_HANDOVER as a register write, and HANDOVER_DRAIN_DONE (R433). -/
def Obligations.SlabHandover : Prop :=
  (∀ (s : State) (slab : Fin 32) (g : Agent) (no ns : Fin 16) (sub : Nat), sub = (if no = 4 then ns.val else 0) →
    if s.owns slab g = false ∧ g.code ≠ 1 then
      exec (.slabHandover (.register slab g no ns)) s = .next (s.ownViol slab g.code true 0)
    else if 9 ≤ no.val ∨ s.get (F.SLAB_OWNER_OWNER slab) = 9 ∨ (s.slabs.draining.any fun x => x.1 = slab.val) = true then
      ∃ t, exec (.slabHandover (.register slab g no ns)) s = .next t ∧ onlyStores [(F.SLAB_STATUS_HO_REJECT slab, 1)] s t
    else if no.val = s.get (F.SLAB_OWNER_OWNER slab) ∧ sub = s.get (F.SLAB_OWNER_OWNER_SUB slab) then
      ∃ t, exec (.slabHandover (.register slab g no ns)) s = .next t ∧ onlyStores [(F.SLAB_STATUS_HANDOVER_DONE slab, 1)] s t
    else
      ∃ t, exec (.slabHandover (.register slab g no ns)) s = .next t ∧
        onlyStores [(F.SLAB_STATUS_HANDOVER_DONE slab, 0), (F.SLAB_STATUS_DRAINING slab, 1)]
          { s with slabs := { s.slabs with draining := s.slabs.draining ++ [(slab.val, no.val, sub)] } } t) ∧
  (∀ (s : State) (slab : Fin 32), (s.slabs.draining.find? fun x => x.1 = slab.val) = none →
    exec (.handoverDrainDone slab) s = .next s) ∧
  (∀ (s : State) (slab : Fin 32) (code sub : Nat),
    (s.slabs.draining.find? fun x => x.1 = slab.val) = some (slab.val, code, sub) → code < 16 → sub < 16 → ∃ t,
      onlyStores [(F.SLAB_OWNER_OWNER slab, code), (F.SLAB_OWNER_OWNER_SUB slab, sub), (F.SLAB_STATUS_DRAINING slab, 0),
          (F.SLAB_STATUS_HANDOVER_DONE slab, 1)]
        { s with slabs := { s.slabs with
          draining := s.slabs.draining.filter (fun x => x.1 ≠ slab.val),
          held := s.slabs.held.filter (fun h => h.1 / 131072 ≠ slab.val) } } t ∧
      exec (.handoverDrainDone slab) s = .next (State.startRepairs (State.answerHandovers
        (forEach (s.slabs.held.filter fun h => h.1 / 131072 = slab.val) t
          fun h s => s.slabPut slab (h.1 % 131072) h.2.1 h.2.2.1) slab)))

/-- SCRUB_WORD, SCRUB_STARVED, MARCH_WINDOW, TEST_STARVED and SLAB_SCRUB_PASS_DONE (R436–R438). -/
def Obligations.SlabScrubAndMarch : Prop :=
  (∀ (s : State) (slab : Fin 32) (word : Nat) (e : WordError) (changed : Bool),
    (s.flag F.MEMIF_CTRL_SCRUB_EN = false ∧ s.slabs.passes.contains (slab.val, false) = false) ∨ e = .none ∨
        (changed = true ∧ ∃ col, e = .single col) →
    exec (.scrubWord slab word e changed) s =
      .next (if s.flag F.MEMIF_CTRL_SCRUB_EN then s.scrubPass slab word else s)) ∧
  (∀ (s : State) (slab : Fin 32) (word : Nat), ∃ t,
    onlyStores (if slab = 31 ∧ word = 65535 ∧ s.flag F.MEMIF_CTRL_SCRUB_EN = true then [(F.MEMIF_SCRUB_SLAB_HOURS, 0)] else []) s t ∧
    t = s.scrubPass slab word) ∧
  (∀ (s b : State) (slab : Fin 32) (word : Nat) (changed : Bool), b = s.scrubPass slab word →
    s.flag F.MEMIF_CTRL_SCRUB_EN = true ∨ s.slabs.passes.contains (slab.val, false) = true →
    (∀ (col : Fin 72) (n : Nat),
      n = ((s.slabs.columns.find? fun c => c.1 = slab.val ∧ c.2.1 = col.val).map fun c => c.2.2).getD 0 + 1 → ∃ t,
      exec (.scrubWord slab word (.single col) false) s = .next (t.wantRepair slab n) ∧
      onlyStores ((F.SLAB_ECC_CORR_CNT slab, min 65535 (s.get (F.SLAB_ECC_CORR_CNT slab) + 1)) ::
          if s.get (F.SLAB_REPAIR_WORST_COL slab) = 255 ∨ s.get (F.SLAB_REPAIR_WORST_CNT slab) < n then
            [(F.SLAB_REPAIR_WORST_COL slab, col.val), (F.SLAB_REPAIR_WORST_CNT slab, min 255 n)] else [])
        { b with slabs := { b.slabs with
          columns := (slab.val, col.val, n) :: s.slabs.columns.filter (fun c => ¬ (c.1 = slab.val ∧ c.2.1 = col.val)) } } t) ∧
    (∃ t key, key = slab.val * 65536 + word ∧
      onlyStores [(F.SLAB_STATUS_UNCORR slab, 1),
          (F.SLAB_ECC_UNCORR_CNT slab, min 65535 (s.get (F.SLAB_ECC_UNCORR_CNT slab) + 1))]
        { b with slabs := { b.slabs with bad := if s.slabs.bad.contains key then s.slabs.bad else key :: s.slabs.bad } } t ∧
      exec (.scrubWord slab word .uncorrectable changed) s = .next (
        if (t.raise Mech.slabEcc slab (w32 word) 0 0).get (F.SLAB_OWNER_OWNER slab) = 9 then
          (t.raise Mech.slabEcc slab (w32 word) 0 0).markBad 255 ((t.raise Mech.slabEcc slab (w32 word) 0 0).vaultTiles key) true
        else t.raise Mech.slabEcc slab (w32 word) 0 0))) ∧
  (∀ s : State, (∃ t, onlyStores [(F.MEMIF_STATUS_SCRUB_STARVED, 1)] s t ∧
      exec .scrubStarved s = .next (t.raise Mech.latent 0xFFFF 0 0 0)) ∧
    (∃ t, onlyStores [(F.MEMIF_STATUS_TEST_STARVED, 1)] s t ∧ exec .testStarved s = .next (t.raise Mech.latent 0xFFFF 0 0 0))) ∧
  (∀ (s : State) (slab : Fin 32) (w : Fin 128) (o : MarchOutcome),
    s.flag F.MEMIF_CTRL_MARCH_EN = false → s.slabs.passes.contains (slab.val, true) = false →
    exec (.marchWindow slab w o) s = .next s) ∧
  (∀ (s u : State) (slab : Fin 32) (w : Fin 128) (r : List (Nat × Nat)),
    s.flag F.MEMIF_CTRL_MARCH_EN = true ∨ s.slabs.passes.contains (slab.val, true) = true →
    r = s.slabs.retry.filter (fun x => x ≠ (slab.val, w.val)) →
    u = { s with slabs := { s.slabs with
      retry := r, tested := kput s.slabs.tested (slab.val * 128 + w.val) s.slabs.hours } } →
    (∃ t, exec (.marchWindow slab w .pass) s = .next t ∧
      onlyStores [(F.MEMIF_SCRUB_RETRY_WIN, min 255 r.length), (F.MEMIF_SCRUB_MARCH_HOURS, min 255 u.marchHours)] u t) ∧
    (∃ t, exec (.marchWindow slab w .aborted) s = .next t ∧
      onlyStores [(F.MEMIF_SCRUB_RETRY_WIN, min 255 (r.length + 1))]
        { s with slabs := { s.slabs with retry := r ++ [(slab.val, w.val)] } } t) ∧
    (∀ word, ∃ t, exec (.marchWindow slab w (.failed word)) s =
        .next (t.raise Mech.latent slab (w32 (slab.val * 65536 + word)) 0 0) ∧
      onlyStores [(F.MEMIF_SCRUB_RETRY_WIN, min 255 r.length), (F.MEMIF_SCRUB_MARCH_HOURS, min 255 u.marchHours),
        (F.SLAB_STATUS_TEST_FAIL slab, 1)] u t)) ∧
  (∀ (s : State) (slab : Fin 32) (march : Bool) (c u : Nat), exec (.slabScrubPassDone slab march c u) s = .next (
    if s.slabs.passes.contains (slab.val, march) then
      ({ s with slabs := { s.slabs with passes := s.slabs.passes.filter fun x => x ≠ (slab.val, march) } }).post
        0x1202 slab [w32 c, w32 u]
    else s))

/-- FIELD_REPAIR_COMPLETE and VAULT_WORD_RESTORE (R132, R439, R498). -/
def Obligations.SlabRepairAndVault : Prop :=
  (∀ (s : State) (slab : Fin 32) (ok : Bool), (s.slabs.repairs.find? fun x => x.1 = slab.val) = none →
    exec (.fieldRepairComplete slab ok) s = .next s) ∧
  (∀ (s : State) (slab : Fin 32) (ok : Bool) (col : Nat), (s.slabs.repairs.find? fun x => x.1 = slab.val) = some (slab.val, col) →
    col < 72 → ∃ t u : State,
    onlyStores [(if s.get (F.SLAB_REPAIR_COL_A slab) = 255 then F.SLAB_REPAIR_COL_A slab else F.SLAB_REPAIR_COL_B slab, col)]
      { s with slabs := { s.slabs with repairs := s.slabs.repairs.filter fun x => x.1 ≠ slab.val } } t ∧
    u = t.post 0x1201 slab [if ok then 0 else 1, w32 col] ∧
    (s.age.repairDue.contains slab.val = false → exec (.fieldRepairComplete slab ok) s = .next u) ∧
    (s.age.repairDue.contains slab.val = true → ∃ v,
      onlyStores [(F.AGE_STATUS_REPAIR_DUE, if s.age.repairDue.all fun n => n = slab.val then 0 else 1)]
        { u with age := { u.age with
          repairDue := s.age.repairDue.filter fun n => n ≠ slab.val, repairCols := kdel s.age.repairCols slab } } v ∧
      exec (.fieldRepairComplete slab ok) s =
        .next (if ok then v.post 0x0E05 0xFFFF [w32 (slab.val + col * 256 + 65536)] else v))) ∧
  (∀ (s : State) (slab : Fin 32) (word : Nat), s.get (F.SLAB_OWNER_OWNER slab) ≠ 9 ∨ slab.val < 28 →
    exec (.vaultWordRestore slab word) s = .next s) ∧
  (∀ (s : State) (slab : Fin 32) (word key : Nat), s.get (F.SLAB_OWNER_OWNER slab) = 9 → 28 ≤ slab.val →
    key = slab.val * 65536 + word →
    ∃ (t : State) (good bad : List Nat), exec (.vaultWordRestore slab word) s = .next t ∧
      (∀ i, i < 8 → (t.slabWord key).extractLsb' (8 * i) 8 = s.banks.vaultCopy.getD ((key - 28 * 65536) * 8 + i) 0) ∧
      (∀ k, k ≠ key → t.slabWord k = s.slabWord k) ∧ t.slabs.bad = s.slabs.bad.filter (fun x => x ≠ key) ∧
      good = (t.vaultTiles key).filter (fun n => tileCrcOk t.vaultBytes n && tileMarksOk t.vaultBytes n) ∧
      bad = (t.vaultTiles key).filter (fun n => !(tileCrcOk t.vaultBytes n && tileMarksOk t.vaultBytes n)) ∧
      ((s.bank 255).state ≠ .empty → t.bank 255 = { s.bank 255 with image := (s.bank 255).image.map fun i =>
        { i with bad := (i.bad.filter fun n => !good.contains n && !bad.contains n) ++ bad } }))

/-- TIM_CMP_WRITE and TIM_PERIOD_WRITE (R450, R452). -/
def Obligations.TimerRegisterWrites : Prop :=
  (∀ (s : State) (n : Fin 16) (c : Fin 4) (v : W32), ∃ t u, exec (.timCmpWrite n c v) s = .next t ∧
    onlyStores [(F.TIM_CMP_CMP n c, v.toNat), (F.TIM_STATUS_ARMED n, s.get (F.TIM_STATUS_ARMED n) ||| 2 ^ c.val),
      (F.TIM_STATUS_CMP_UNREACH n, u)] s t ∧
    t.timPeriod n = s.timPeriod n ∧
    ∀ d, u.testBit d = (decide (d < 4) && decide (s.timPeriod n < t.get (F.TIM_CMP_CMP n d)))) ∧
  (∀ (s : State) (n : Fin 16) (v : W32), s.flag (F.TIM_CTRL_RUN n) = true → s.flag (F.TIM_CTRL_PERIOD_IMM n) = false →
    ∃ t, exec (.timPeriodWrite n v) s = .next t ∧
      onlyStores [(F.TIM_PERIOD_PERIOD n, v.toNat), (F.TIM_STATUS_PPEND n, 1)]
        (s.setTimer { s.timer n with period := w32 (s.timPeriod n) }) t ∧
      t.timPeriod n = s.timPeriod n) ∧
  (∀ (s : State) (n : Fin 16) (v : W32), s.flag (F.TIM_CTRL_RUN n) = false ∨ s.flag (F.TIM_CTRL_PERIOD_IMM n) = true →
    ∃ t u, exec (.timPeriodWrite n v) s = .next t ∧
      onlyStores [(F.TIM_PERIOD_PERIOD n, v.toNat), (F.TIM_STATUS_PPEND n, 0), (F.TIM_STATUS_CMP_UNREACH n, u)]
        (s.setTimer { s.timer n with skipNext := decide (v.toNat ≤ s.get (F.TIM_COUNT_COUNT n)) }) t ∧
      t.timPeriod n = v.toNat ∧
      ∀ d, u.testBit d = (decide (d < 4) && decide (v.toNat < s.get (F.TIM_CMP_CMP n d))))

/-- TIMER_CLOCK and the counted clock (R446–R453). The level of a TIN pin is a free value (DESIGN CHOICE, notes/assumptions/49.md). -/
def Obligations.TimerClocks : Prop :=
  (∀ (s : State) (n : Fin 16),
    s.flag (F.TIM_CTRL_RUN n) = false ∨ (s.flag (F.TIM_LINK_EN n) = true ∧ s.get (F.TIM_LINK_ACTION n) = 4) ∨
      (s.time.counting = false ∧ (s.get (F.TIM_CLK_SRC n) = 1 ∨ s.get (F.TIM_CLK_SRC n) = 2)) ∨ 4 ≤ s.get (F.TIM_CLK_SRC n) →
    exec (.timerClock n) s = .next s) ∧
  (∀ (s b : State) (n : Fin 16) (tot : Nat), s.flag (F.TIM_CTRL_RUN n) = true →
    (s.flag (F.TIM_LINK_EN n) = false ∨ s.get (F.TIM_LINK_ACTION n) ≠ 4) →
    (s.time.counting = true ∨ s.get (F.TIM_CLK_SRC n) = 0 ∨ s.get (F.TIM_CLK_SRC n) = 3) → s.get (F.TIM_CLK_SRC n) < 4 →
    b = (if s.flag (F.TIM_GATE_EN n) = true ∧ s.get (F.TIM_GATE_KIND n) = 1 then s.draw.2 else s) →
    tot = (s.timer n).prescale + 1 →
    ∃ (t : State) (ok : Bool), onlyStores [(F.TIM_STATUS_GATED n, b2n (!ok))] b t ∧
      (s.flag (F.TIM_GATE_EN n) = false ∨ s.get (F.TIM_GATE_KIND n) ≠ 1 →
        (ok = true ↔
          (s.flag (F.TIM_GATE_EN n) = true →
            (if s.get (F.TIM_GATE_KIND n) = 0 then s.contactActive (s.get (F.TIM_GATE_INDEX n))
              else s.flag (F.TIM_OUT_LEVEL (s.get (F.TIM_GATE_INDEX n)))) = s.flag (F.TIM_GATE_LEVEL n)) ∧
          (s.flag (F.TIM_LINK_EN n) = true → s.get (F.TIM_LINK_ACTION n) = 0 →
            s.flag (F.TIM_CTRL_RUN (s.get (F.TIM_LINK_SRC n))) = true))) ∧
      exec (.timerClock n) s = .next (
        if ok then iter (fun s => s.timCount n) (tot / (s.get (F.TIM_CLK_PRESCALE n) + 1))
          (t.setTimer { s.timer n with prescale := tot % (s.get (F.TIM_CLK_PRESCALE n) + 1) })
        else t)) ∧
  (∀ (s b : State) (n : Fin 16) (cnt : Nat), b = s.setTimer { s.timer n with resetNext := false, skipNext := false } →
    cnt = s.get (F.TIM_COUNT_COUNT n) →
    (cnt = s.timPeriod n ∨ (s.timer n).skipNext = true → ∃ t u v,
      onlyStores [(F.TIM_COUNT_COUNT n, 0), (F.TIM_STATUS_PPEND n, 0), (F.TIM_STATUS_CMP_UNREACH n, u),
        (F.TIM_STATUS_PSKIP n, if (s.timer n).skipNext then 1 else s.get (F.TIM_STATUS_PSKIP n))] b t ∧
      v = t.timEvent n 0 ∧
      s.timCount n = (if (s.timer n).skipNext then v else forEach (v.timHits n 0) v fun c s => s.timMatch n c)) ∧
    (cnt ≠ s.timPeriod n → (s.timer n).skipNext = false → (s.timer n).resetNext = true → ∃ u,
      onlyStores [(F.TIM_COUNT_COUNT n, 0), (F.TIM_STATUS_PPEND n, 0), (F.TIM_STATUS_CMP_UNREACH n, u)] b (s.timCount n)) ∧
    (cnt ≠ s.timPeriod n → (s.timer n).skipNext = false → (s.timer n).resetNext = false → ∃ t hits,
      onlyStores [(F.TIM_COUNT_COUNT n, (cnt + 1) % 2 ^ 32)] b t ∧
      (∀ c, c ∈ hits ↔ c < 4 ∧ (s.get (F.TIM_STATUS_ARMED n)).testBit c = true ∧
        s.get (F.TIM_CMP_CMP n c) = (cnt + 1) % 2 ^ 32) ∧ hits.Pairwise (· < ·) ∧
      s.timCount n = forEach hits t fun c s => s.timMatch n c))

/-- TIMER_LINK_ACTION, TIMER_PULSE_END, and what matches, starts, stops and events do (R446, R449–R451, R455). -/
def Obligations.TimerActions : Prop :=
  (∀ (s : State) (n : Fin 16), exec (.timerLinkAction n) s = .next (
    forEach (s.timer n).due (s.setTimer { s.timer n with due := [] }) fun a s => s.timLink n a)) ∧
  (∀ (s : State) (n : Fin 16),
    (∃ u, onlyStores [(F.TIM_COUNT_COUNT n, 0), (F.TIM_STATUS_PPEND n, 0), (F.TIM_STATUS_CMP_UNREACH n, u)] s (s.timLink n 1)) ∧
    (s.flag (F.TIM_CTRL_RUN n) = true → s.timLink n 2 = s) ∧
    (s.flag (F.TIM_CTRL_RUN n) = false →
      onlyStores [(F.TIM_CTRL_RUN n, 1), (F.TIM_OUT_LEVEL n, s.get (F.TIM_OUT_INIT n))]
        (s.setTimer { s.timer n with pulse := false }) (s.timLink n 2)) ∧
    onlyStores [(F.TIM_CTRL_RUN n, 0)] s (s.timLink n 3) ∧
    (s.timLink n 4 = s.timClock n) ∧ (∀ a, 4 < a → s.timLink n a = s)) ∧
  (∀ (s : State) (n : Fin 16),
    if (s.timer n).pulse = true then ∃ t, exec (.timerPulseEnd n) s = .next t ∧
      onlyStores [(F.TIM_OUT_LEVEL n, 0)] (s.setTimer { s.timer n with pulse := false }) t
    else exec (.timerPulseEnd n) s = .next s) ∧
  (∀ (s u : State) (n : Fin 16) (c : Fin 4) (a tgt : Nat), a = s.get (F.TIM_CTRL_ACT n) / 8 ^ c.val % 8 →
    u = s.timEvent n (c + 1) → tgt = u.get (F.TIM_CTRL_TGT n) →
    s.timMatch n c =
      (if a = 1 then u.setTimer { u.timer n with resetNext := true }
      else if a = 2 then u.setTimer { u.timer tgt with due := (u.timer tgt).due ++ [2] }
      else if a = 3 then u.timAdd n c
      else if a = 4 then (u.timAdd n c).setTimer { u.timer tgt with due := (u.timer tgt).due ++ [1] }
      else u)) ∧
  (∀ (s : State) (n : Fin 16) (c : Fin 4) (v : Nat),
    v = (s.get (F.TIM_CMP_CMP n c) + s.get (F.TIM_INTERVAL_INTERVAL n c)) % (s.timPeriod n + 1) →
    (s.get (F.TIM_INTERVAL_INTERVAL n c) = 0 →
      onlyStores [(F.TIM_CMP_CMP n c, v), (F.TIM_STATUS_ARMED n,
        s.get (F.TIM_STATUS_ARMED n) - s.get (F.TIM_STATUS_ARMED n) / 2 ^ c.val % 2 * 2 ^ c.val)] s (s.timAdd n c)) ∧
    (s.get (F.TIM_INTERVAL_INTERVAL n c) ≠ 0 → ∃ u,
      onlyStores [(F.TIM_CMP_CMP n c, v), (F.TIM_STATUS_CMP_UNREACH n, u)] s (s.timAdd n c) ∧
      ∀ d, u.testBit d = (decide (d < 4) && decide (s.timPeriod n < (s.timAdd n c).get (F.TIM_CMP_CMP n d))))) ∧
  (∀ (s : State) (n : Fin 16) (e : Nat),
    ((s.get (F.TIM_OUT_EVENTS n)).testBit e = false → s.timOutput n e = s) ∧
    ((s.get (F.TIM_OUT_EVENTS n)).testBit e = true → s.flag (F.TIM_OUT_MODE n) = false →
      onlyStores [(F.TIM_OUT_LEVEL n, 1 - s.get (F.TIM_OUT_LEVEL n))] s (s.timOutput n e)) ∧
    ((s.get (F.TIM_OUT_EVENTS n)).testBit e = true → s.flag (F.TIM_OUT_MODE n) = true →
      onlyStores [(F.TIM_OUT_LEVEL n, 1)] (s.setTimer { s.timer n with pulse := true }) (s.timOutput n e)))

/-- CONTACT_SENSE_WINDOW (R458–R462). -/
def Obligations.ContactSense : Prop :=
  (∀ (s : State) (codes : List Byte), s.power = .off ∨ s.power = .reset → exec (.contactSenseWindow codes) s = .next s) ∧
  (∀ (s : State) (codes : List Byte), s.power ≠ .off → s.power ≠ .reset → ∃ t,
    onlyStores [(F.CONTACT_FRAMES_COUNT, (s.get F.CONTACT_FRAMES_COUNT + 1) % 2 ^ 32)] s t ∧
    exec (.contactSenseWindow codes) s = .next (
      forEach (List.range 16) t fun n s => (s.ctRead n (codes.getD n 0).toNat).ctPost n)) ∧
  (∀ (s : State) (n : Fin 16) (code cls : Nat), code < 256 →
    cls = (if code ≤ s.get (F.CT_THRESH_TH_SHORT n) then Ct.short
      else if code ≤ s.get (F.CT_THRESH_TH_ACT n) then Ct.active
      else if code < s.get (F.CT_THRESH_TH_NORM n) then s.contactClass n
      else if code ≤ s.get (F.CT_THRESH_TH_OPEN n) then Ct.normal else Ct.open_) →
    ((s.get F.CONTACT_CTRL_SENSE_EN).testBit n = false → ∃ t,
      onlyStores [(⟨R.CONTACT_STATE, 2 * n, 2⟩, Ct.normal), (F.CT_STAT_RUN n, 0)] s t ∧
      s.ctRead n code = (if 2 ≤ s.contactClass n then t.contactClear else t)) ∧
    ((s.get F.CONTACT_CTRL_SENSE_EN).testBit n = true →
      (cls = s.contactClass n → onlyStores [(F.CT_STAT_CODE n, code), (F.CT_STAT_RUN n, 0)] s (s.ctRead n code)) ∧
      (cls ≠ s.contactClass n → s.get (F.CT_STAT_RUN n) = 0 ∨ s.get (F.CT_STAT_CANDIDATE n) ≠ cls →
        onlyStores [(F.CT_STAT_CODE n, code), (F.CT_STAT_CANDIDATE n, cls), (F.CT_STAT_RUN n, 1)] s (s.ctRead n code)) ∧
      (cls ≠ s.contactClass n → s.get (F.CT_STAT_RUN n) = 1 → s.get (F.CT_STAT_CANDIDATE n) = cls →
        onlyStores [(F.CT_STAT_CODE n, code), (F.CT_STAT_RUN n, 2)] s (s.ctRead n code)) ∧
      (cls ≠ s.contactClass n → s.get (F.CT_STAT_RUN n) = 2 → s.get (F.CT_STAT_CANDIDATE n) = cls → ∃ t,
        onlyStores [(F.CT_STAT_CODE n, code), (F.CT_STAT_RUN n, 0)] s t ∧ s.ctRead n code = t.ctTake n cls))) ∧
  (∀ (s : State) (n : Fin 16) (new : Nat), new = Ct.open_ ∨ new = Ct.short → ∃ t u : State,
    onlyStores [(⟨R.CONTACT_STATE, 2 * n, 2⟩, new), (F.CONTACT_CHG_CNT_COUNT, (s.get F.CONTACT_CHG_CNT_COUNT + 1) % 2 ^ 32),
      (F.CONTACT_LAST_CONTACT, n.val), (F.CONTACT_LAST_OLD, s.contactClass n), (F.CONTACT_LAST_NEW, new),
      (F.CONTACT_EVT_CHANGE, s.get F.CONTACT_EVT_CHANGE ||| 2 ^ n.val),
      (F.CONTACT_EVT_FAULT, s.get F.CONTACT_EVT_FAULT ||| 2 ^ n.val),
      (F.CT_STAT_FAULT_CNT n, min 65535 (s.get (F.CT_STAT_FAULT_CNT n) + 1))] s t ∧
    u = (t.raise Mech.contact n 0 0 0).ctEdits n (s.contactClass n) ∧
    s.ctTake n new = u.setContact { u.contact n with merged := (u.contact n).merged + 1, old := s.contactClass n })

/-- REF_EDGE, REF_EDGE_TIMEOUT, REF_QUALIFIED and TIME_MESSAGE (R28, R30, R31, R33–R36). The phase of a time message within a
block is a free value (DESIGN CHOICE, notes/assumptions/118.md). -/
def Obligations.TimeReferenceEdges : Prop :=
  (∀ (s : State) (n : Fin 4) (p : Nat) (x : Int), n = 3 ∨ s.refState n = Ref.off ∨ s.running = false →
    exec (.refEdge n p x) s = .next s) ∧
  (∀ (s : State) (n : Fin 4) (p : Nat) (x : Int) (l : List Nat), n ≠ 3 → s.refState n ≠ Ref.off → s.running = true →
    periodGood p (s.refPeriod n) = false → l = (p :: (kget s.time.badPeriods n).getD []).take 8 → ∃ u,
    onlyStores [(F.TIME_REF_COUNT_GLITCH_CNT n, min 65535 (s.get (F.TIME_REF_COUNT_GLITCH_CNT n) + 1)),
        (F.TIME_REF_STAT_BAD_RUN n, min 8 (s.get (F.TIME_REF_STAT_BAD_RUN n) + 1))]
      { s with time := { s.time with badPeriods := kput s.time.badPeriods n l } } u ∧
    exec (.refEdge n p x) s = .next (
      if l.length < 8 then (if s.refState n = Ref.qualifying then u.refRequalify n else u)
      else (if s.refState n = Ref.qualifying then u.refRequalify n else u).refLose n (periodsAgree l))) ∧
  (∀ (s t : State) (n : Fin 4) (p : Nat) (x : Int), n ≠ 3 → s.refState n ≠ Ref.off → s.running = true →
    periodGood p (s.refPeriod n) = true → t = s.goodEdge n p →
    t.get (F.TIME_REF_STAT_BAD_RUN n) = 0 ∧
    (s.refState n ≠ Ref.lost → s.refState n ≠ Ref.mismatch → t.refState n = s.refState n) ∧
    (s.refState n = Ref.lost ∨ s.refState n = Ref.mismatch → t.refState n = Ref.qualifying ∧
      t.get (F.TIME_REF_QUAL_LEFT_QUAL_LEFT n) = t.get (F.TIME_REF_CFG_QUAL_MS n)) ∧
    exec (.refEdge n p x) s = .next (
      if s.refState n = Ref.selected ∧ (n ≠ 1 ∨ s.get (F.TIME_REF_CFG_MODE 1) ≠ 1) then t.measure n x else t)) ∧
  (∀ (s : State) (n : Fin 4),
    n = 3 ∨ s.running = false ∨ s.refState n = Ref.lost ∨ s.refState n = Ref.off → exec (.refEdgeTimeout n) s = .next s) ∧
  (∀ (s : State) (n : Fin 4), n ≠ 3 → s.running = true → s.refState n ≠ Ref.lost → s.refState n ≠ Ref.off →
    (s.refState n ≠ Ref.selected → ∃ t,
      onlyStores [(F.TIME_REF_STAT_STATE n, Ref.lost), (F.TIME_REF_LAST_CHANGE_BLOCK n, s.blockNow % 2 ^ 32),
          (F.TIME_REF_COUNT_LOSS_CNT n, min 65535 (s.get (F.TIME_REF_COUNT_LOSS_CNT n) + 1)),
          (F.TIME_REF_QUAL_LEFT_QUAL_LEFT n, 0)]
        { s with time := { s.time with qualRun := kdel s.time.qualRun n, edgeSums := kdel s.time.edgeSums n } } t ∧
      exec (.refEdgeTimeout n) s = .next (t.raise Mech.timeRef n 0 0 0)) ∧
    (s.refState n = Ref.selected → ∃ (t : State) (w : Nat), w = (if s.time.everLocked then Mode.holdover else Mode.freerun) ∧
      t.refState n = Ref.lost ∧ t.refState 3 = Ref.selected ∧ t.src = 3 ∧ t.mode = w ∧ t.flag F.TIME_STATUS_SLEWING = false ∧
      t.flag F.TIME_FLAGS_LOST = true ∧ t.get F.TIME_HOLDOVER_SECONDS = 0 ∧
      t.get (F.TIME_REF_COUNT_LOSS_CNT n) = min 65535 (s.get (F.TIME_REF_COUNT_LOSS_CNT n) + 1) ∧
      t.get F.TIME_FREQ_CORR = (if s.time.everLocked then (s.time.lockedOffset % 2 ^ 32).toNat else 0) ∧
      t = { s with regs := t.regs, time := { s.time with
        qualRun := kdel s.time.qualRun n, edgeSums := kdel s.time.edgeSums n, measureDue := false, acquiring := false,
        keptOff := 0 } } ∧
      exec (.refEdgeTimeout n) s = .next (
        (t.post 0x1401 n [w32 w, t.rd (R.TIME_REF_FERR n)]).raise Mech.timeRef n 0 0 0))) ∧
  (∀ (s : State) (n : Fin 4),
    if s.refState n = Ref.qualifying ∧ s.running = true then ∃ t, exec (.refQualified n) s = .next t ∧
      onlyStores [(F.TIME_REF_STAT_STATE n, Ref.valid), (F.TIME_REF_LAST_CHANGE_BLOCK n, s.blockNow % 2 ^ 32),
        (F.TIME_REF_QUAL_LEFT_QUAL_LEFT n, 0)] { s with time := { s.time with qualRun := kdel s.time.qualRun n } } t
    else exec (.refQualified n) s = .next s) ∧
  (∀ (s : State) (mt : W64) (frame : W32) (ok : Bool),
    (ok = false ∨ s.running = false → exec (.timeMessage mt frame ok) s = .next s) ∧
    (ok = true → s.running = true →
      (s.time.msgFrame = none →
        exec (.timeMessage mt frame ok) s = .next { s with time := { s.time with msgFrame := some frame.toNat } }) ∧
      (∀ f base p e : Nat, s.time.msgFrame = some f →
        base = ((s.rd R.STRM_RX_FRAME).toNat + 2 ^ 32 - frame.toNat) % 2 ^ 32 * s.bl →
        p = (frame.toNat + 2 ^ 32 - f) % 2 ^ 32 * s.bl * 16000000000 / s.hz →
        e = 500000000 * 2 ^ min (s.get (F.TIME_REF_CFG_DIV_EXP 2)) 5 → ∃ (x : Int) (good : Bool),
        ((mt.toNat : Int) - s.time.mt + base) * 256 - s.bl * 256 < x ∧ x ≤ ((mt.toNat : Int) - s.time.mt + base) * 256 ∧
        (good = true ↔ ((p : Int) - e).natAbs * 100 ≤ e ∨
          ((p : Int) - e).natAbs * s.hz < s.bl * 16000000000 + e * s.hz / 100) ∧
        exec (.timeMessage mt frame ok) s = .next (
          ({ s with free := s.free + 1, time := { s.time with msgFrame := some frame.toNat } }).edge 2 p good x))))

/-- PPS_EDGE, PPS_LOSS, and how a measured phase is resolved (R32, R37, R44). -/
def Obligations.PhaseSteps : Prop :=
  (∀ (s : State) (n : Nat) (x : Int),
    (x.natAbs ≤ 16 → s.phaseStep n x = s) ∧
    (16 < x.natAbs → x.natAbs ≤ 512 → onlyStores [(F.TIME_STATUS_SLEWING, 1)] s (s.phaseStep n x)) ∧
    (512 < x.natAbs → x.natAbs ≤ s.bl * 256 → ∃ t,
      onlyStores [(F.TIME_FLAGS_STEP, 1), (F.TIME_STEP_LAST_STEP, (x % 2 ^ 32).toNat), (F.TIME_STATUS_SLEWING, 1)] s t ∧
      s.phaseStep n x = t.post 0x1402 n [w32 (x % 2 ^ 32).toNat, 0, 0, 0]) ∧
    (s.bl * 256 < x.natAbs → x < 0 → -2147483648 ≤ x → ∃ t,
      onlyStores [(F.TIME_FLAGS_STEP, 1), (F.TIME_STEP_LAST_STEP, (x % 2 ^ 32).toNat), (F.TIME_FLAGS_BEHIND, 1)] s t ∧
      s.phaseStep n x = { t.post 0x1402 n [w32 (x % 2 ^ 32).toNat, 0, 0, 1] with time := { s.time with keptOff := x } }) ∧
    (s.bl * 256 < x.natAbs → 0 < x → x ≤ 2147483647 → s.cascade = false ∨ s.isKeystone = false →
      onlyStores ([(F.TIME_FLAGS_STEP, 1), (F.TIME_STEP_LAST_STEP, x.toNat), (F.TIME_STATUS_JUMP_PEND, 1)] ++
          if 16 < x.toNat % (s.bl * 256) then [(F.TIME_STATUS_SLEWING, 1)] else [])
        { s with time := { s.time with
          jump := some ⟨x.toNat / (s.bl * 256), s.blockNow + s.pOff + 1, x, some n⟩ } } (s.phaseStep n x))) ∧
  (∀ (s : State) (n : Fin 4) (x : Int), ∃ u,
    onlyStores [(F.TIME_REF_OFFSET_OFFSET n, (clampI (-2147483648) 2147483647 x % 2 ^ 32).toNat)] s u ∧
    s.measure n x = (
      if s.time.jump ≠ none then u
      else if s.time.measureDue then
        State.lockCheck (State.phaseStep { u with time := { u.time with measureDue := false, acquiring := false } } n x)
      else if s.mode = Mode.locked then (u.phaseFollow n x).lockCheck else u)) ∧
  (∀ (s : State) (n : Nat) (x k : Int), k = s.time.keptOff →
    (k = 0 → s.phaseFollow n x = s.phaseStep n x) ∧
    (k ≠ 0 → x < -(s.bl * 256 : Int) → (x - k).natAbs ≤ s.bl * 256 → s.phaseFollow n x = s.phaseStep n (x - k)) ∧
    (k ≠ 0 → x < -(s.bl * 256 : Int) → s.bl * 256 < (x - k).natAbs → s.phaseFollow n x = s.phaseStep n x) ∧
    (k ≠ 0 → -(s.bl * 256 : Int) ≤ x →
      s.phaseFollow n x = State.phaseStep { s with time := { s.time with keptOff := 0 } } n x)) ∧
  (∀ (s : State) (good : Bool) (x : Int), s.running = false → exec (.ppsEdge good x) s = .next s) ∧
  (∀ (s b : State) (good : Bool) (x : Int), s.running = true →
    b = { s with time := { s.time with ppsBad := if good then 0 else s.time.ppsBad + 1 } } →
    ((∀ e, s.time.epoch = some e → e.onPps = false ∨ s.time.mt + s.bl ≤ e.applyAt) →
      (good = false ∨ s.src ≠ 1 ∨ s.get (F.TIME_REF_CFG_MODE 1) ≠ 1 → exec (.ppsEdge good x) s = .next b) ∧
      (good = true → s.src = 1 → s.get (F.TIME_REF_CFG_MODE 1) = 1 →
        (2 ≤ s.time.ppsBad → s.mode = Mode.locked → ∃ u,
          onlyStores [(F.TIME_REF_OFFSET_OFFSET 1, (clampI (-2147483648) 2147483647 x % 2 ^ 32).toNat)] b u ∧
          exec (.ppsEdge good x) s = .next (u.phaseStep 1 x).lockCheck) ∧
        (s.time.ppsBad < 2 ∨ s.mode ≠ Mode.locked → exec (.ppsEdge good x) s = .next (b.measure 1 x)))) ∧
    (∀ e, s.time.epoch = some e → e.onPps = true → e.applyAt < s.time.mt + s.bl → ∃ t, exec (.ppsEdge good x) s = .next t ∧
      (s.leads = false → t.time.mt = e.value ∧ t.time.epoch = none ∧ t.flag F.TIME_EPOCH_CTRL_ARM = false) ∧
      (s.leads = true → t.time.mt = s.time.mt ∧ t.time.epoch =
        some ⟨e.value + (s.pOff + 1) * s.bl, false, (s.blockNow + s.pOff + 1) * s.bl - 1, e.byCommand⟩))) ∧
  (∀ s : State,
    if s.running = true ∧ s.get (F.TIME_REF_CFG_MODE 1) = 1 ∧ (s.refState 1 = Ref.valid ∨ s.refState 1 = Ref.selected) then
      ∃ t, exec .ppsLoss s = .next t ∧
        onlyStores [(F.TIME_FLAGS_PPS_LOST, 1)] { s with time := { s.time with ppsBad := max 2 s.time.ppsBad } } t
    else exec .ppsLoss s = .next s)

/-- SLEW_DONE, MPLL_LOSS_OF_LOCK, MPLL_RELOCK_DONE, EPOCH_ARM and RATE_CHANGE_START (R36, R37, R41, R44). -/
def Obligations.ClockModesAndRate : Prop :=
  (∀ s : State,
    (s.src = 3 → s.lockCheck = s) ∧
    (s.src ≠ 3 → s.flag F.TIME_STATUS_MPLL_LOCK = true → s.flag F.TIME_STATUS_SLEWING = false → s.time.acquiring = false →
      onlyStores [(F.TIME_STATUS_MODE, Mode.locked)] { s with time := { s.time with everLocked := true } } s.lockCheck) ∧
    (s.src ≠ 3 → s.flag F.TIME_STATUS_MPLL_LOCK = false ∨ s.flag F.TIME_STATUS_SLEWING = true ∨ s.time.acquiring = true →
      onlyStores [(F.TIME_STATUS_MODE, Mode.acquire)] s s.lockCheck)) ∧
  (∀ s : State, (s.flag F.TIME_STATUS_SLEWING = false → exec .slewDone s = .next s) ∧
    (s.flag F.TIME_STATUS_SLEWING = true → ∃ t, onlyStores [(F.TIME_STATUS_SLEWING, 0)] s t ∧
      exec .slewDone s = .next t.lockCheck)) ∧
  (∀ s : State, (s.running = false ∨ s.flag F.TIME_STATUS_MPLL_LOCK = false → exec .mpllLossOfLock s = .next s) ∧
    (s.running = true → s.flag F.TIME_STATUS_MPLL_LOCK = true → ∃ t,
      onlyStores [(F.TIME_STATUS_MPLL_LOCK, 0), (F.TIME_FLAGS_MPLL_UNLOCK, 1)] s t ∧
      exec .mpllLossOfLock s = .next t.lockCheck)) ∧
  (∀ (s : State) (us : Nat), (s.running = false → exec (.mpllRelockDone us) s = .next s) ∧
    (s.running = true → ∃ t,
      onlyStores [(F.TIME_STATUS_MPLL_LOCK, 1), (F.TIME_MPLL_RELOCK_CNT, min 65535 (s.get F.TIME_MPLL_RELOCK_CNT + 1)),
          (F.TIME_MPLL_LAST_LOCK_US, min 65535 us)]
        { s with time := { s.time with rate := s.time.rate.map fun r => { r with relock := false } } } t ∧
      exec (.mpllRelockDone us) s = .next t.lockCheck)) ∧
  (∀ (s b : State) (v : Nat), v = (s.rd R.TIME_EPOCH_LO).toNat + (s.rd R.TIME_EPOCH_HI).toNat * 2 ^ 32 →
    (∀ e, s.time.epoch = some e → e.byCommand = true → b = s.post 0x1405 0xFFFF [lo32 e.value, hi32 e.value, 1]) →
    ((∀ e, s.time.epoch = some e → e.byCommand = false) → b = s) → ∃ t, exec .epochArm s = .next t ∧
    (s.leads = false ∨ s.flag F.TIME_EPOCH_CTRL_WHEN = true → onlyStores [(F.TIME_EPOCH_CTRL_ARM, 1)]
      { b with time := { s.time with epoch := some ⟨v, s.flag F.TIME_EPOCH_CTRL_WHEN, s.time.mt, false⟩ } } t) ∧
    (s.leads = true → s.flag F.TIME_EPOCH_CTRL_WHEN = false →
      t.time = { s.time with epoch := some ⟨v, false, (s.blockNow + s.pOff + 1) * s.bl - 1, false⟩ })) ∧
  (∀ s : State,
    (s.time.rate = none → exec .rateChangeStart s = .next s) ∧
    (∀ r, s.time.rate = some r →
      (s.commit + 1 < r.blockA ∨ r.ramped = true → exec .rateChangeStart s = .next s) ∧
      (r.blockA ≤ s.commit + 1 → r.ramped = false → ∃ t u : State,
        onlyStores [(F.TIME_STATUS_RATE_CHANGING, 1)]
          { s with time := { s.time with rate := some { r with ramped := true } } } t ∧ u = t.dewClose ∧
        exec .rateChangeStart s = .next (
          if Config.double r.code = true ∧ Config.double r.oldCode = false then
            forEach ((u.disp.voices.filter fun v => 64 ≤ v.src % 128).map Voice.record).dedup u fun x w =>
              match w.job? x with
              | some j => w.stopJob j (w.startOf (r.blockA + 1)) 0x08
              | none => w
          else u))))

/-- BLOCK_TICK and media time (R26, R38, R41, R44, R45). -/
def Obligations.BlockTickAdvances : Prop :=
  ∀ s : State,
    (s.running = false ∨ s.time.counting = false → exec .blockTick s = .next s) ∧
    (s.running = true → s.time.counting = true →
      ((∀ r, s.time.rate = some r → r.ramped = false ∨ r.rebased = true ∨ s.commit < r.blockA) →
        (∀ j, s.time.jump = some j → s.blockNow + 1 < j.at_) →
        (∃ t, exec .blockTick s = .next t ∧
          (s.time.epoch = none → t.time.mt = s.time.mt + s.bl) ∧
          (∀ e, s.time.epoch = some e → t.time.mt =
            (if e.onPps = false ∧ e.applyAt < s.time.mt + s.bl then e.value else s.time.mt + s.bl)))) ∧
      (∀ j, s.time.jump = some j → j.at_ ≤ s.blockNow + 1 →
        (∀ r, s.time.rate = some r → r.ramped = false ∨ r.rebased = true ∨ s.commit < r.blockA) → s.time.epoch = none →
        ∃ t, exec .blockTick s = .next t ∧ t.time.mt = s.time.mt + (j.blocks + 1) * s.bl) ∧
      (∀ r, s.time.rate = some r → r.ramped = true → r.rebased = false → r.blockA ≤ s.commit → s.time.epoch = none →
        ∃ t, exec .blockTick s = .next t ∧ t.time.mt =
          (s.time.mt + s.bl) * Config.rateHz r.code / Config.rateHz r.oldCode / Config.blockLen r.code * Config.blockLen r.code))

/-- AMBIENT_ESTIMATE, ZONE_DRAIN_DONE, FALLBACK_SWITCH and FALLBACK_AUTO_RESTORE (R207, R219, R220, R223). -/
def Obligations.ZoneEvents : Prop :=
  (∀ (s : State) (n : Nat), (s.zone n).ambient.gapBlocks < 64 → exec (.ambientEstimate n) s = .next s) ∧
  (∀ (s : State) (n : Nat) (e : Int), 64 ≤ (s.zone n).ambient.gapBlocks → n < 256 →
    e = (powerCode 0 (s.zone n).ambient.power (64 * s.bl * 2 ^ 46) + (s.zone n).ambient.cal) / 64 → ∃ t u : State,
    onlyStores [(F.ZONE_STATUS_AMB_EST n, (clampI 0 240 (-e)).toNat)]
      (s.setZone { s.zone n with ambient := { (s.zone n).ambient with gapBlocks := 0, power := 0, estimate := some e } }) t ∧
    u = t.noteAmbient t.soonest n (ambCode e) ∧
    exec (.ambientEstimate n) s = .next (
      forEach (u.disp.voices.filter fun v => u.sees v 16 ∧
          (List.range (u.front - u.commit)).any fun i => u.firstZone v (u.commit + 2 + i) = some n) u fun v s =>
        s.editVoice v.src v.record s.soonest (.ambient (ambCode e)))) ∧
  (∀ (s : State) (n : Nat), (s.zone n).draining = false → exec (.zoneDrainDone n) s = .next s) ∧
  (∀ (s : State) (n : Nat), (s.zone n).draining = true → ∃ t, exec (.zoneDrainDone n) s = .next t ∧
    onlyStores [(F.ZONE_CTRL_EN n, 0), (F.ZONE_STATUS_DRAINING n, 0)]
      (s.setZone { s.zone n with
        fade := (s.zone n).fade.to s.bl (s.startOf s.commit) muteCode 0,
        pilotOn := (s.zone n).pilotOn.to s.bl (s.startOf s.commit) muteCode 256, draining := false }) t) ∧
  (∀ (s : State) (n : Nat) (b : Bool) (role : Nat) (fb : Fld), role = b2n b →
    fb = (if b then F.ZONE_STATUS_FB_B n else F.ZONE_STATUS_FB_A n) →
    (kget (s.zone n).failed role = none ∨ (s.zone n).slotOf (role + 2) = none ∨ s.flag fb = true →
      exec (.fallbackSwitch n b) s = .next s) ∧
    (∀ cause f, kget (s.zone n).failed role = some cause → (s.zone n).slotOf (role + 2) = some f → s.flag fb = false → ∃ t,
      onlyStores [(fb, 1)]
        (s.setZone { s.zone n with ramps := (s.zone n).ramps.set f (.of 0 0 (s.startOf (s.commit - 1)) 0) }) t ∧
      exec (.fallbackSwitch n b) s = .next (
        t.post 0x0601 n [w32 (role + ((s.zone n).slotOf role).getD 0 * 16 + f * 256 + cause * 4096), w32 s.commit])) ∧
    (s.flag (F.ZONE_CTRL_FB_AUTO n) = false ∨ (kget (s.zone n).good role).getD 0 < 15000 ∨ kget (s.zone n).failed role = none →
      exec (.fallbackAutoRestore n b) s = .next s) ∧
    (∀ cause, s.flag (F.ZONE_CTRL_FB_AUTO n) = true → 15000 ≤ (kget (s.zone n).good role).getD 0 →
      kget (s.zone n).failed role = some cause → ∃ t, exec (.fallbackAutoRestore n b) s = .next t ∧
      t.flag fb = false ∧ kget (t.zone n).failed role = none ∧ kget (t.zone n).good role = none ∧
      (∀ i, (s.zone n).slotOf role = some i → (s.zone n).slotOf (role + 2) = none →
        (t.zone n).ramps = (s.zone n).ramps.set i (.of 0 0 (s.startOf s.commit) 0)) ∧
      (∀ m, m ≠ n → t.zone m = s.zone m) ∧ t = { s with regs := t.regs, zones := t.zones } ∧
      fieldsKept [fb] s t))

/-- MAX_WAIT_EXPIRY, COMMAND_APPLY and ROLLBACK_RERENDER (R16, R137, R164, R169). Which commands are near enough to be applied is the
model's reading (DEDUCED, notes/assumptions/86.md). -/
def Obligations.DispatchEvents : Prop :=
  (∀ (s : State) (r : Nat), (s.job? r = none ∨ s.running = false) → exec (.maxWaitExpiry r) s = .next s) ∧
  (∀ (s : State) (r : Nat) (j : Job), s.job? r = some j → s.running = true →
    (j.state ≠ .ready ∨ j.descr.maxWait = 0 ∨ s.commit < j.readyAt + j.descr.maxWait → exec (.maxWaitExpiry r) s = .next s) ∧
    (j.state = .ready → j.descr.maxWait ≠ 0 → j.readyAt + j.descr.maxWait ≤ s.commit → ∃ t, exec (.maxWaitExpiry r) s = .next t ∧
      (j.siteHandle = none → t.job? r =
        some { j with state := .aborted, reason := 4, reported := true, voices := [], siteParts := [] }))) ∧
  (∀ (s : State) (near : Timed → Bool),
    near = (fun t =>
      if 0xF000 ≤ t.opcode then false
      else if pinsUnit t.opcode then decide (t.mt < s.startOf (s.blockNow + 1))
      else if t.opcode / 256 = 6 then decide (s.blockOf t.mt ≤ s.commit) else decide (s.blockOf t.mt ≤ s.commit + 1)) →
    (s.running = false ∨ s.timed.filter near = [] → exec .commandApply s = .next s) ∧
    (s.running = true → s.timed.filter near ≠ [] → ∃ (t : Timed) (mt : Nat) (u : State), t ∈ s.timed ∧ near t = true ∧
      (∀ x ∈ s.timed, near x = true → t.mt < x.mt ∨ (t.mt = x.mt ∧ t.order ≤ x.order)) ∧
      mt = max t.mt (s.startOf (if pinsUnit t.opcode then s.blockNow else s.commit)) ∧
      u = State.applyTimed { s with timed := s.timed.filter fun x => ¬ (x.order = t.order ∧ x.opcode = t.opcode) } t mt ∧
      exec .commandApply s = .next (if t.notify then u.cmdDone t.opcode t.chan t.seq t.status mt else u))) ∧
  (∀ (s : State) (src : Nat), s.standard (src / 128) = false → exec (.rollbackRerender src) s = .next s.callNext) ∧
  (∀ (s : State) (src : Nat) (idle : State → Bool), s.standard (src / 128) = true →
    (∀ t, idle t = true ↔ ∀ v ∈ t.disp.voices, v.src = src → t.queued v = false) →
    (idle s = true → exec (.rollbackRerender src) s = .next s) ∧
    exec (.rollbackRerender src) s = .next (s.serveQueue (src / 128) idle serveFuel)) ∧
  (∀ (s : State) (br n : Nat) (idle : State → Bool) (v : Voice), idle s = false → s.queueHead br = some v →
    (v ∈ s.disp.voices ∧ v.src / 128 = br ∧ s.queued v = true ∧
      ∀ w ∈ s.disp.voices, w.src / 128 = br → s.queued w = true →
        v.cls < w.cls ∨ (v.cls = w.cls ∧ (v.need < w.need ∨ (v.need = w.need ∧ v.src ≤ w.src)))) ∧
    (∀ e, v.rollback = some e → s.serveQueue br idle (n + 1) = (s.restoreVoice v e).serveQueue br idle n) ∧
    (v.rollback = none → s.serveQueue br idle (n + 1) = (
      if s.reserveLeft br < s.voiceCycles v v.next then s
      else ((s.renderBlock v).useReserve br ((s.renderBlock v).blockCycles v.src v.record v.next)).serveQueue br idle n))) ∧
  (∀ (s : State) (v : Voice) (e : Nat),
    ((∀ c ∈ v.ckpts, c.valid = false ∨ e < c.block) → s.restoreVoice v e = s.rollbackLost v e) ∧
    ((∃ c ∈ v.ckpts, c.valid = true ∧ c.block ≤ e) → ∃ k ∈ v.ckpts, k.valid = true ∧ k.block ≤ e ∧
      (∀ c ∈ v.ckpts, c.valid = true → c.block ≤ e → c.block ≤ k.block) ∧
      s.restoreVoice v e = s.setVoice { v with toVoiceDyn := k.dyn, next := k.block, redo := some e, rollback := none }))

/-- BANK_IMAGE_COMPLETE, BANK_VERIFY_DONE and TILE_CRC_CHECK_DONE (R123, R126, R129). -/
def Obligations.BankLoads : Prop :=
  (∀ (s : State) (n : Nat), (∀ l, (s.bank n).load = some l → l.complete = false ∨ s.running = false) →
    exec (.bankImageComplete n) s = .next s) ∧
  (∀ (s : State) (n res at_ : Nat) (l : Load), (s.bank n).load = some l → l.complete = true → s.running = true →
    (res, at_) = (if l.badLength then (0x08, 0) else checkImage l.bytes l.len) → ∃ t : State,
    exec (.bankImageComplete n) s = .next (t.post 0x0201 n [w32 res, w32 at_]) ∧
    t = { s with banks := t.banks } ∧ (l.mailbox = false → t.banks.vc1 = 0) ∧ (l.mailbox = true → t.banks.vc1 = s.banks.vc1) ∧
    (∀ m, m ≠ n → t.bank m = s.bank m) ∧
    (res = 0 → t.banks.nextGen = s.banks.nextGen + 1 ∧ t.bank n =
      (if (s.bank n).state = .replacing then
        { s.bank n with load := none, ready := some (⟨s.banks.nextGen, l.len, l.bytes, [], [], []⟩, l.force) }
      else { s.bank n with load := none, image := some ⟨s.banks.nextGen, l.len, l.bytes, [], [], []⟩, state := .resident })) ∧
    (res ≠ 0 → t.banks.nextGen = s.banks.nextGen ∧ t.bank n =
      (if (s.bank n).state = .replacing then { s.bank n with load := none, state := .resident } else Bank.init n))) ∧
  (∀ (s : State) (n : Nat), (s.bank n).image = none ∨ (s.bank n).checking = false ∨ s.running = false →
    exec (.bankVerifyDone n) s = .next s) ∧
  (∀ (s : State) (n : Nat) (i : Image) (bad : List Nat), (s.bank n).image = some i → (s.bank n).checking = true → s.running = true →
    bad = (List.range (nTiles i.bytes)).filter (fun t => !i.tileGood t) →
    exec (.bankVerifyDone n) s = .next (
      (forEach bad (s.setBank { s.bank n with checking := false, image := some { i with bad := bad, unverified := [] } })
        fun t s => s.post 0x0202 n [w32 t, 4, w32 (s.playerOf n t)]).post 0x0201 n [0, w32 bad.length])) ∧
  (∀ (s : State) (n tile : Nat), exec (.tileCrcCheckDone n tile) s = .next (
    if s.running = true then
      forEach ((s.bank n).image.toList ++ (s.bank n).old) s fun i s => s.checkTile n i.gen tile
    else s)) ∧
  (∀ (s : State) (n gen tile : Nat) (i : Image), ((s.bank n).image.toList ++ (s.bank n).old).find? (fun i => i.gen = gen) = some i →
    (i.unverified.contains tile = false ∨ i.bad.contains tile = true → s.checkTile n gen tile = s) ∧
    (∀ changed : (Image → Image) → State,
      (∀ f, changed f = s.setBank { s.bank n with
        image := (s.bank n).image.map fun i => if i.gen = gen then f i else i,
        old := (s.bank n).old.map fun i => if i.gen = gen then f i else i }) →
      i.unverified.contains tile = true → i.bad.contains tile = false →
      (i.tileGood tile = true →
        s.checkTile n gen tile = changed fun i => { i with unverified := i.unverified.filter fun t => t ≠ tile }) ∧
      (i.tileGood tile = false → ∃ t : State,
        t = changed (fun i => { i with bad := if i.bad.contains tile then i.bad else i.bad ++ [tile] }) ∧
        s.checkTile n gen tile = t.post 0x0202 n [w32 tile, 1, w32 (t.playerOf n tile)]))) ∧
  (∀ (s : State) (n gen tile : Nat), (∀ i ∈ (s.bank n).image.toList ++ (s.bank n).old, i.gen ≠ gen) → s.checkTile n gen tile = s)

/-- BANK_PATROL_READ, BANK_RETRAIN and BANK_AVAILABLE (R424, R441). What a page of bank memory holds is a free value
(DESIGN CHOICE, notes/assumptions/69.md), and that a page not after the one before begins a patrol is the model's (DESIGN CHOICE,
notes/assumptions/207.md). -/
def Obligations.BankMemory : Prop :=
  (∀ (s : State) (page : Nat) (e : EccError), s.running = false ∨ s.banks.available = false →
    exec (.bankPatrolRead page e) s = .next s) ∧
  (∀ (s : State) (page : Nat), s.running = true → s.banks.available = true → ∃ (b : State) (found : Bool → State → State),
    onlyStores (if page < s.slabs.patrolled then [(F.MEMIF_SCRUB_BANK_HOURS, 0)] else [])
      { s with slabs := { s.slabs with patrolled := page } } b ∧
    exec (.bankPatrolRead page .none) s = .next b ∧
    (found = (fun _ t => t) ∨
      (∃ n g p, PageOf.image n g p ∈ s.pageContents ∧ found = fun bad t => t.pageError n g p bad) ∨
      (∃ n p, PageOf.line n p ∈ s.pageContents ∧ found = fun bad t =>
        if bad then (t.setZone { t.zone n with line := lineError (t.zone n).line (1024 * p) }).set (F.ZONE_STATUS_DELAY_ECC n) else t)) ∧
    (∃ t, onlyStores [(F.MEMIF_BANK_ECC_CORR_CNT, min 65535 (s.get F.MEMIF_BANK_ECC_CORR_CNT + 1))] { b with free := s.free + 1 } t ∧
      exec (.bankPatrolRead page .corrected) s = .next (found false t)) ∧
    (∃ t u v : State,
      onlyStores [(F.MEMIF_BANK_ECC_UNCORR_CNT, min 65535 (s.get F.MEMIF_BANK_ECC_UNCORR_CNT + 1)),
          (F.MEMIF_STATUS_BANK_UNCORR, 1), (F.MEMIF_BANK_ERR_PAGE_PAGE, page % 2 ^ 20), (F.MEMIF_BANK_ERR_PAGE_VALID, 1)]
        { b with free := s.free + 1 } t ∧
      u = found true t ∧
      v = State.raise { u with banks := { u.banks with uncorrThisSecond := u.banks.uncorrThisSecond + 1 } } Mech.bankEcc 0xFFFF
        (w32 page) 0 0 ∧
      exec (.bankPatrolRead page .uncorrectable) s = .next (
        if max 1 (v.get F.SAFE_BANKMEM_THRESH) < u.banks.uncorrThisSecond + 1 ∧ v.banks.available = true then
          v.raise Mech.bankUnavail 0xFFFF 0 0 0 else v))) ∧
  (∀ (s : State) (ok : Bool), s.banks.available = true ∨ s.running = false → exec (.bankRetrain ok) s = .next s) ∧
  (∀ s : State, s.banks.available = false → s.running = true →
    (∃ t, exec (.bankRetrain true) s = .next t ∧
      onlyStores [(F.SAFE_BANKMEM_RETRAIN_CNT, min (2 ^ F.SAFE_BANKMEM_RETRAIN_CNT.width - 1) (s.get F.SAFE_BANKMEM_RETRAIN_CNT + 1))]
        { s with banks := { s.banks with trained := true } } t) ∧
    (∃ t, exec (.bankRetrain false) s = .next t ∧ (∀ n, n ≠ 255 → t.bank n = Bank.init n) ∧ t.bank 255 = s.bank 255 ∧
      t.banks.trained = false ∧ t.banks.available = false ∧
      t.get F.SAFE_BANKMEM_RETRAIN_CNT =
        min (2 ^ F.SAFE_BANKMEM_RETRAIN_CNT.width - 1) (s.get F.SAFE_BANKMEM_RETRAIN_CNT + 1))) ∧
  (∀ s : State, s.banks.available = true ∨ s.banks.trained = false ∨ s.running = false → exec .bankAvailable s = .next s) ∧
  (∀ s : State, s.banks.available = false → s.banks.trained = true → s.running = true → ∃ t u : State,
    onlyStores ([(F.SAFE_BANKMEM_UNAVAILABLE, 0), (F.MEMIF_STATUS_BANK_STATE, 2)] ++
      s.zones.map fun z => (F.ZONE_STATUS_DELAY_DEGRADED z.n, 0)) { s with banks := { s.banks with available := true } } t ∧
    onlyStores [(F.SAFE_MECH_STAT_LATCHED Mech.bankUnavail, 0)] (t.unraise Mech.bankUnavail) u ∧
    exec .bankAvailable s = .next (u.post 0x0C03 0xFFFF [w32 Mech.bankUnavail]))

/-- The register files of R228 keep their sizes. -/
def Obligations.KernelRegistersShape : Prop :=
  ∀ (shape : Datapath → Prop),
    shape = (fun d => d.o.length = 8 ∧ d.w.length = 4 ∧ d.pt.length = 8 ∧ d.st.length = 8 ∧ d.wlo.length = 8 ∧ d.whi.length = 8 ∧
      d.ptM.length = 8 ∧ d.stM.length = 8 ∧ d.wloM.length = 8 ∧ d.whiM.length = 8) →
    shape State.reset.dp ∧ ∀ s t : State, shape s.dp → step s = .next t → shape t.dp

/-- MUL, MAD, ADDW, SUBW, NEGW, ABSW, ZERO, WLD, RNDW, SHW and ADDWI (R235–R237). `y` is the result's
value in 56 bits and `out` says that it left the range. In a call within its budget, outside a repeat, each of them answers a next state. The moves act on the registers `d` that the operation leaves. -/
def Obligations.KernelWideArithmetic : Prop :=
  ∀ (s : State) (m1 m2 : Move) (c : Instr) (wd ci si ws : Fin 4) (os : Fin 8) (i13 : BitVec 13) (neg : Bool) (x y : Int) (out : Bool),
    ((c = .mul wd ci si neg m1 m2 ∧ x = (if neg then -1 else 1) * ((s.dp.oReg ci).toInt * (s.dp.oReg (4 + si)).toInt)) ∨
      (c = .mad wd ci si neg m1 m2 ∧
        x = s.dp.wReg wd + (if neg then -1 else 1) * ((s.dp.oReg ci).toInt * (s.dp.oReg (4 + si)).toInt)) ∨
      (c = .addw wd ws os m1 m2 ∧ x = s.dp.wReg wd + s.dp.wReg ws) ∨ (c = .subw wd ws os m1 m2 ∧ x = s.dp.wReg wd - s.dp.wReg ws) ∨
      (c = .negw wd ws os m1 m2 ∧ x = -s.dp.wReg wd) ∨ (c = .absw wd ws os m1 m2 ∧ x = (s.dp.wReg wd).natAbs) ∨
      (c = .zeroW wd ws os m1 m2 ∧ x = 0) ∨ (c = .wld wd ws os m1 m2 ∧ x = (s.dp.oReg os).toInt * 2 ^ 23) ∨
      (c = .rndw wd ws os m1 m2 ∧ x = (if s.dp.cfg.getLsbD 8 then s.dp.wReg wd / 2 ^ 23 else roundEven 23 (s.dp.wReg wd)) * 2 ^ 23) ∨
      (c = .shw wd i13 m1 m2 ∧ x = (if 0 ≤ i13.toInt then s.dp.wReg wd * 2 ^ (min 55 i13.toInt.toNat)
        else s.dp.wReg wd / 2 ^ (min 56 (-i13.toInt).toNat))) ∨
      (c = .addwi wd i13 m1 m2 ∧ x = s.dp.wReg wd + i13.toInt)) →
    out = decide (x < -2 ^ 55 ∨ 2 ^ 55 ≤ x) →
    y = (if s.dp.cfg.getLsbD 9 then max (-2 ^ 55) (min (2 ^ 55 - 1) x) else (x + 2 ^ 55) % 2 ^ 56 - 2 ^ 55) →
    (s.dp.active = false ∨ s.callBudget ≤ s.dp.cycles → exec c s = .next s) ∧
    (s.dp.active = true → s.dp.cycles < s.callBudget → s.dp.rep = none →
      ∃ t, exec c s = .next t ∧ t.dp.cycles = s.dp.cycles + 1 ∧ t.dp.pc = (s.dp.pc + 1) % 8192) ∧
    (s.dp.active = true → s.dp.cycles < s.callBudget → s.dp.rep = none → s.dp.w.length = 4 → ∃ (d : Datapath) (u : State),
      (∀ i : Fin 4, d.wReg i = if i = wd then y else s.dp.wReg i) ∧
      d.flags = (s.dp.flags ||| (if out = true ∧ s.dp.cfg.getLsbD 9 = true then 1 else 0) |||
        (if y < -2 ^ 46 ∨ 2 ^ 46 ≤ y then 4 else 0)) ∧
      d = { s.dp with pc := (s.dp.pc + 1) % 8192, w := d.w, flags := d.flags } ∧ u = s.kstep m1 m2 (fun _ => d) ∧
      exec c s = .next { u with dp := { u.dp with cycles := s.dp.cycles + 1 } })

/-- MUL4, MAD4, FIR4 and ZERO4 (R235–R237). -/
def Obligations.KernelFourLanes : Prop :=
  ∀ (s : State) (m1 m2 : Move) (c : Instr) (neg fir : Bool) (x y : Fin 4 → Int),
    ((c = .mul4 neg m1 m2 ∧ fir = false ∧
        x = fun i : Fin 4 => (if neg then -1 else 1) * ((s.dp.oReg i).toInt * (s.dp.oReg (4 + i)).toInt)) ∨
      (c = .mad4 neg m1 m2 ∧ fir = false ∧
        x = fun i : Fin 4 => s.dp.wReg i + (if neg then -1 else 1) * ((s.dp.oReg i).toInt * (s.dp.oReg (4 + i)).toInt)) ∨
      (c = .fir4 neg m1 m2 ∧ fir = true ∧
        x = fun i : Fin 4 => s.dp.wReg i + (if neg then -1 else 1) * ((s.dp.oReg 0).toInt * (s.dp.oReg (4 + i)).toInt)) ∨
      (c = .zero4 m1 m2 ∧ fir = false ∧ x = fun _ => 0)) →
    (∀ i, y i = if s.dp.cfg.getLsbD 9 then max (-2 ^ 55) (min (2 ^ 55 - 1) (x i)) else (x i + 2 ^ 55) % 2 ^ 56 - 2 ^ 55) →
    (s.dp.active = false ∨ s.callBudget ≤ s.dp.cycles → exec c s = .next s) ∧
    (s.dp.active = true → s.dp.cycles < s.callBudget → s.dp.rep = none →
      ∃ t, exec c s = .next t ∧ t.dp.cycles = s.dp.cycles + 1 ∧ t.dp.pc = (s.dp.pc + 1) % 8192) ∧
    (s.dp.active = true → s.dp.cycles < s.callBudget → s.dp.rep = none → s.dp.w.length = 4 → s.dp.o.length = 8 →
      ∃ (d : Datapath) (u : State),
      (∀ i : Fin 4, d.wReg i = y i) ∧
      (∀ j, d.oReg j = s.dp.oReg (if fir = true ∧ 5 ≤ j ∧ j ≤ 7 then j - 1 else j)) ∧
      d.flags = (s.dp.flags |||
        (if s.dp.cfg.getLsbD 9 = true ∧ ∃ i, x i < -2 ^ 55 ∨ 2 ^ 55 ≤ x i then 1 else 0) |||
        (if ∃ i, y i < -2 ^ 46 ∨ 2 ^ 46 ≤ y i then 4 else 0)) ∧
      d = { s.dp with pc := (s.dp.pc + 1) % 8192, w := d.w, o := d.o, flags := d.flags } ∧ u = s.kstep m1 m2 (fun _ => d) ∧
      exec c s = .next { u with dp := { u.dp with cycles := s.dp.cycles + 1 } })

/-- NOP, WST, AND, OR, XOR, LSH, RDFL, LDO, AMOV, LDA, PADD, SETCFG and CLRFL (R235). -/
def Obligations.KernelLogicAndAddress : Prop :=
  ∀ (s : State) (m1 m2 : Move),
    s.dp.active = true → s.dp.cycles < s.callBudget → s.dp.rep = none → s.dp.o.length = 8 → s.dp.pt.length = 8 →
    s.dp.st.length = 8 → s.dp.wlo.length = 8 → s.dp.whi.length = 8 →
    ∀ (next : Datapath → Move → Move → State),
    (∀ d n1 n2, next d n1 n2 = { s.kstep n1 n2 (fun _ => d) with
      dp := { (s.kstep n1 n2 (fun _ => d)).dp with cycles := s.dp.cycles + 1 } }) →
    (exec (.nop m1 m2) s = .next (next { s.dp with pc := (s.dp.pc + 1) % 8192 } m1 m2)) ∧
    (∀ (od os : Fin 8) (wd ws : Fin 4) (i6 : BitVec 6) (i24 : BitVec 24) (c : Instr) (r : Fin 8) (v : Sample) (clamp : Bool)
        (n1 n2 : Move),
      (c = .wst wd ws os m1 m2 ∧ r = os ∧ (∃ q : Int,
          q = (if s.dp.cfg.getLsbD 8 then s.dp.wReg wd / 2 ^ 23 else roundEven 23 (s.dp.wReg wd)) ∧
          v.toInt = max (-2 ^ 23) (min (2 ^ 23 - 1) q) ∧ clamp = decide (q < -2 ^ 23 ∨ 2 ^ 23 ≤ q)) ∧ n1 = m1 ∧ n2 = m2) ∨
      (r = od ∧ clamp = false ∧
        ((c = .andOp od os i6 m1 m2 ∧ v = s.dp.oReg od &&& s.dp.oReg os ∧ n1 = m1 ∧ n2 = m2) ∨
          (c = .orOp od os i6 m1 m2 ∧ v = s.dp.oReg od ||| s.dp.oReg os ∧ n1 = m1 ∧ n2 = m2) ∨
          (c = .xorOp od os i6 m1 m2 ∧ v = s.dp.oReg od ^^^ s.dp.oReg os ∧ n1 = m1 ∧ n2 = m2) ∨
          (c = .lsh od os i6 m1 m2 ∧ v.toNat = (if 0 ≤ i6.toInt then (s.dp.oReg od).toNat * 2 ^ i6.toInt.toNat % 2 ^ 24
            else (s.dp.oReg od).toNat / 2 ^ (-i6.toInt).toNat) ∧ n1 = m1 ∧ n2 = m2) ∨
          (c = .rdfl od os i6 m1 m2 ∧ v.toNat = s.dp.flags.toNat % 64 ∧ n1 = m1 ∧ n2 = m2) ∨
          (c = .ldo od i24 ∧ v = i24 ∧ n1 = noMove ∧ n2 = noMove))) →
      ∃ d : Datapath, exec c s = .next (next d n1 n2) ∧ (∀ i : Fin 8, d.oReg i = if i = r then v else s.dp.oReg i) ∧
        d = { s.dp with
          pc := (s.dp.pc + 1) % 8192, o := d.o, flags := s.dp.flags ||| (if clamp then 2 else 0) }) ∧
    (∀ (ad as : Fin 32) (pt : Fin 8) (i13 : BitVec 13) (i24 : BitVec 24) (c : Instr) (r : Fin 32) (v : Nat) (winf : Bool)
        (n1 n2 : Move),
      (c = .amov ad as m1 m2 ∧ r = ad ∧ winf = false ∧ n1 = m1 ∧ n2 = m2 ∧ v =
          (if ad.val < 8 then
            if as.val < 8 then s.dp.aReg as else s.dp.aReg ad / 2 ^ 18 * 2 ^ 18 + s.dp.aReg as
          else s.dp.aReg as % 2 ^ 18)) ∨
      (c = .lda ad i24 ∧ r = ad ∧ winf = false ∧ n1 = noMove ∧ n2 = noMove ∧
        v = (if ad.val < 8 then i24.toNat else i24.toNat % 2 ^ 18)) ∨
      (c = .padd pt i13 m1 m2 ∧ r.val = pt.val ∧ n1 = m1 ∧ n2 = m2 ∧ ∃ (p : Nat) (w : Nat) (u : Nat × Bool), p = s.dp.aReg pt ∧
        w = p / 2 ^ 18 % 8 ∧ u = updLinear (p % 2 ^ 18) i13.toInt (p.testBit 21) (s.dp.aReg (16 + w)) (s.dp.aReg (24 + w)) ∧
        v = p / 2 ^ 18 * 2 ^ 18 + u.1 ∧ winf = u.2) →
      ∃ d : Datapath, exec c s = .next (next d n1 n2) ∧ (∀ i : Fin 32, d.aReg i = if i = r then v else s.dp.aReg i) ∧
        d = { s.dp with
          pc := (s.dp.pc + 1) % 8192, pt := d.pt, st := d.st, wlo := d.wlo, whi := d.whi,
          flags := s.dp.flags ||| (if winf then 8 else 0) }) ∧
    (∀ i10 : BitVec 10,
      exec (.setcfg i10 m1 m2) s = .next (next { s.dp with
        pc := (s.dp.pc + 1) % 8192, cfg := BitVec.ofNat 32 (i10.toNat / 256 * 256) } m1 m2) ∧
      ∃ d : Datapath, exec (.clrfl i10 m1 m2) s = .next (next d m1 m2) ∧
        (∀ i, d.flags.getLsbD i = (s.dp.flags.getLsbD i && !(decide (i < 6) && i10.getLsbD i))) ∧
        d = { s.dp with pc := (s.dp.pc + 1) % 8192, flags := d.flags })

/-- The updates of R242 and R243. -/
def Obligations.KernelAddressing : Prop :=
  (∀ (p lo hi : Nat) (step : Int),
    updLinear p step false lo hi = (((p + step) % 2 ^ 18).toNat, false) ∧
    (hi ≤ lo ∨ p < lo ∨ hi ≤ p → updLinear p step true lo hi = (((p + step) % 2 ^ 18).toNat, true)) ∧
    (lo < hi → lo ≤ p → p < hi →
      (updLinear p step true lo hi).2 = false ∧ lo ≤ (updLinear p step true lo hi).1 ∧ (updLinear p step true lo hi).1 < hi ∧
      ((updLinear p step true lo hi).1 - (p + step) : Int) % (hi - lo) = 0)) ∧
  (∀ (p lo st k : Nat), p < 2 ^ 18 → lo ≤ p → 1 ≤ k → k ≤ 17 → lo % 2 ^ k = 0 → lo + 2 ^ k ≤ 2 ^ 18 → p < lo + 2 ^ k →
    (updRev p st true lo (lo + 2 ^ k)).2 = false ∧
    (∃ r, r < 2 ^ k ∧ (updRev p st true lo (lo + 2 ^ k)).1 = lo + r ∧
      ∀ i, i < k → r.testBit i =
        ((((List.range k).map fun j => ((p - lo) / 2 ^ (k - 1 - j) % 2) * 2 ^ j).sum +
          ((List.range k).map fun j => (st / 2 ^ (k - 1 - j) % 2) * 2 ^ j).sum).testBit (k - 1 - i)))) ∧
  (∀ (p st lo hi : Nat) (wen : Bool), (wen = false ∨ (∀ k, 1 ≤ k → k ≤ 17 → hi - lo = 2 ^ k → lo % 2 ^ k ≠ 0)) →
    updRev p st wen lo hi = ((updLinear p (signed 18 st) wen lo hi).1, true))

/-- The moves M1 and M2 (R230, R233, R234, R244), and their reach (R227). -/
def Obligations.KernelMoves : Prop :=
  (∀ (s u : State) (m1 m2 : Move) (d : Datapath), u = State.kmove (State.kmove { s with dp := d } s.dp true m1
      (s.kload s.dp (ptAddr (s.dp.ptM.getD m1.ptr 0)))) s.dp false m2 (s.kload s.dp (ptAddr (s.dp.ptM.getD m2.ptr 0))) →
    s.kstep m1 m2 (fun _ => d) = { u with dp := { u.dp with
      ptM := s.dp.nextPtM m2 (s.dp.nextPtM m1 s.dp.pt), stM := s.dp.st, wloM := s.dp.wlo, whiM := s.dp.whi } }) ∧
  (∀ (s : State) (before : Datapath) (first : Bool) (m : Move) (v : W32), m.upd = 0 → m.op = .none → s.kmove before first m v = s) ∧
  (∀ (s : State) (before : Datapath) (first ok : Bool) (m : Move) (v w : W32), m.upd = 0 → m.op = .load →
    s.dp.o.length = 8 → s.dp.w.length = 4 → ok = s.mayLoad before first (ptAddr (before.ptM.getD m.ptr 0)) →
    w = (if ok then v else 0) → ∃ d : Datapath, s.kmove before first m v = { s with dp := d } ∧
      d = { s.dp with o := d.o, w := d.w, flags := s.dp.flags ||| (if ok then 0 else 16) } ∧
      (∀ i : Fin 8, d.oReg i = if m.reg.val = i.val then w.extractLsb' 8 24 else s.dp.oReg i) ∧
      (∀ i : Fin 4, d.wReg i = if m.reg.val = 8 + i.val then (w.extractLsb' 8 24).toInt * 2 ^ 23
        else if m.reg.val = 12 + i.val then (w.toNat : Int) else s.dp.wReg i)) ∧
  (∀ (s : State) (before : Datapath) (first clamp : Bool) (m : Move) (v w : W32) (a : Nat) (q : Int), m.upd = 0 → m.op = .store →
    a = ptAddr (before.ptM.getD m.ptr 0) →
    q = (if before.cfg.getLsbD 8 then before.wReg (m.reg.val - 8) / 2 ^ 23 else roundEven 23 (before.wReg (m.reg.val - 8))) →
    (m.reg.val < 8 → w = before.oReg m.reg.val ++ 0#8 ∧ clamp = false) →
    (8 ≤ m.reg.val → m.reg.val < 12 → w = BitVec.ofInt 24 (max (-2 ^ 23) (min (2 ^ 23 - 1) q)) ++ 0#8 ∧
      clamp = decide (q < -2 ^ 23 ∨ 2 ^ 23 ≤ q)) →
    (12 ≤ m.reg.val → w = (before.w.getD (m.reg.val - 12) 0).extractLsb' 0 32 ∧ clamp = false) →
    (first = true → 0x2000 ≤ a → a < 0xC500 → ∃ t,
      onlyStores [(F.BRICK_KSTAT_CKPT_WRITE s.callPhys, 1)] s t ∧
      s.kmove before first m v = { t.post 0x1304 before.brick [w32 before.slot, w32 (before.pc % 8192), w32 a] with
        dp := { s.dp with flags := s.dp.flags ||| (if clamp then 2 else 0) } }) ∧
    (first = false ∨ a < 0x2000 ∨ 0xC500 ≤ a →
      (s.mayLoad before first a = true → (a < 0x20000 ∨ 0x24000 ≤ a) → ∃ t : State,
        s.kmove before first m v = t ∧ t.kmem before.brick a = w ∧
        (∀ b x, b * 262144 + x ≠ before.brick * 262144 + a → t.kmem b x = s.kmem b x) ∧
        t = { s with dp := { s.dp with mem := t.dp.mem, flags := s.dp.flags ||| (if clamp then 2 else 0) } }) ∧
      (s.mayLoad before first a = false ∨ (0x20000 ≤ a ∧ a < 0x24000) →
        s.kmove before first m v =
          { s with dp := { s.dp with flags := (s.dp.flags ||| 16) ||| (if clamp then 2 else 0) } }))) ∧
  (∀ (s u : State) (before : Datapath) (first : Bool) (m : Move) (v : W32), m.upd ≠ 0 →
    u = s.kmove before first { m with upd := 0 } v →
    s.kmove before first m v = { u with dp := { u.dp with
      pt := u.dp.pt.set m.ptr (ptSet (u.dp.pt.getD m.ptr 0) (before.moveAddr m).1),
      flags := u.dp.flags ||| (if (before.moveAddr m).2 then 8 else 0) } })

/-- JMP, JEQ to JGT, CNTB, RPN, RPNI, JSR, RET and DONE (R235, R238–R241). -/
def Obligations.KernelControl : Prop :=
  ∀ (s : State) (m1 m2 : Move) (t : BitVec 13) (wn : Fin 4) (pt : Fin 8) (cnt : BitVec 12),
    s.dp.active = true → s.dp.cycles < s.callBudget →
    ∀ (next : Datapath → Nat → State),
    (∀ d cost, next d cost = { s.kstep m1 m2 (fun _ => d) with
      dp := { (s.kstep m1 m2 (fun _ => d)).dp with cycles := s.dp.cycles + cost } }) →
    (s.dp.rep = none →
      (∀ (c : Instr) (taken : Bool),
        (c = .jmp t m1 m2 ∧ taken = true) ∨
        (c = .jeq wn t m1 m2 ∧ taken = decide (s.dp.wReg wn = 0)) ∨ (c = .jne wn t m1 m2 ∧ taken = decide (s.dp.wReg wn ≠ 0)) ∨
        (c = .jlt wn t m1 m2 ∧ taken = decide (s.dp.wReg wn < 0)) ∨ (c = .jge wn t m1 m2 ∧ taken = decide (0 ≤ s.dp.wReg wn)) ∨
        (c = .jle wn t m1 m2 ∧ taken = decide (s.dp.wReg wn ≤ 0)) ∨ (c = .jgt wn t m1 m2 ∧ taken = decide (0 < s.dp.wReg wn)) →
        (t.toNat < 0x1E00 → exec c s = .next (next { s.dp with
          pc := if taken then t.toNat else (s.dp.pc + 1) % 8192 } (if taken then 2 else 1))) ∧
        (0x1E00 ≤ t.toNat → exec c s = .next (s.callIllegal s.dp.pc))) ∧
      (∀ a taken, a = (ptAddr (s.dp.pt.getD pt 0) + 262143) % 262144 → taken = decide (a ≠ 0) →
        (t.toNat < 0x1E00 → exec (.cntb pt t m1 m2) s = .next (next { s.dp with
          pc := if taken then t.toNat else (s.dp.pc + 1) % 8192,
          pt := s.dp.pt.set pt (ptSet (s.dp.pt.getD pt 0) a) } (if taken then 2 else 1))) ∧
        (0x1E00 ≤ t.toNat → exec (.cntb pt t m1 m2) s = .next (s.callIllegal s.dp.pc))) ∧
      exec (.rpn cnt m1 m2) s = .next (next { s.dp with
        pc := (s.dp.pc + 1) % 8192, rep := some (if cnt = 0 then 4096 else cnt.toNat) } 1) ∧
      exec (.rpni pt m1 m2) s = .next (next { s.dp with
        pc := (s.dp.pc + 1) % 8192, rep := some (min (ptAddr (s.dp.pt.getD pt 0)) 4096),
        flags := s.dp.flags ||| (if 4096 < ptAddr (s.dp.pt.getD pt 0) then 32 else 0) } 1) ∧
      (t.toNat < 0x1E00 → s.dp.stack.length < 4 → exec (.jsr t m1 m2) s = .next (next { s.dp with
        pc := t.toNat, stack := (s.dp.pc + 1) % 8192 :: s.dp.stack } 2)) ∧
      (0x1E00 ≤ t.toNat ∨ 4 ≤ s.dp.stack.length → exec (.jsr t m1 m2) s = .next (s.callIllegal s.dp.pc)) ∧
      (∀ r l, s.dp.stack = r :: l → exec (.ret m1 m2) s = .next (next { s.dp with pc := r, stack := l } 2)) ∧
      (s.dp.stack = [] → exec (.ret m1 m2) s = .next (s.callIllegal s.dp.pc)) ∧
      exec (.doneOp m1 m2) s = .next (State.callEnd (next { s.dp with pc := (s.dp.pc + 1) % 8192 } 1) true)) ∧
    (∀ (c : Instr) (n : Nat), s.dp.rep = some n →
      c = .jmp t m1 m2 ∨ c = .jeq wn t m1 m2 ∨ c = .jne wn t m1 m2 ∨ c = .jlt wn t m1 m2 ∨ c = .jge wn t m1 m2 ∨
        c = .jle wn t m1 m2 ∨ c = .jgt wn t m1 m2 ∨ c = .cntb pt t m1 m2 ∨ c = .rpn cnt m1 m2 ∨ c = .rpni pt m1 m2 ∨
        c = .jsr t m1 m2 ∨ c = .ret m1 m2 ∨ c = .doneOp m1 m2 ∨ (∃ od i, c = .ldo od i) ∨ (∃ ad i, c = .lda ad i) →
      exec c s = .next (if n = 0 then { s with dp := { s.dp with pc := (s.dp.pc + 1) % 8192, rep := none } }
        else s.callIllegal s.dp.pc))

/-- A repeated operation (R238), as often as the budget has room for. -/
def Obligations.KernelRepeat : Prop :=
  ∀ (s : State) (c : Instr),
    (match c with
      | .nop .. => True | .mul .. => True | .mad .. => True | .mul4 .. => True | .mad4 .. => True | .fir4 .. => True
      | .zero4 .. => True | .addw .. => True | .subw .. => True | .negw .. => True | .absw .. => True | .zeroW .. => True
      | .wld .. => True | .wst .. => True | .rndw .. => True | .shw .. => True | .addwi .. => True | .andOp .. => True
      | .orOp .. => True | .xorOp .. => True | .lsh .. => True | .amov .. => True | .padd .. => True | .setcfg .. => True
      | .rdfl .. => True | .clrfl .. => True | _ => False) →
    s.dp.active = true → s.dp.cycles < s.callBudget →
    (s.dp.rep = some 0 → exec c s = .next { s with dp := { s.dp with pc := (s.dp.pc + 1) % 8192, rep := none } }) ∧
    (∀ n, s.dp.rep = some (n + 1) → s.dp.cycles + n + 1 < s.callBudget → ∃ t,
      exec c { s with dp := { s.dp with rep := none } } = .next t ∧
      exec c s = exec c { t with dp := { t.dp with rep := some n, pc := s.dp.pc } })

/-- ILLEGAL_WORD, KERNEL_BUDGET_EXPIRY, KERNEL_IMAGE_COMPLETE and KERNEL_BRICK_LOAD (R241, R253, R256, R257). -/
def Obligations.KernelCallEnds : Prop :=
  (∀ (s : State) (src pc : Nat), s.dp.active = false ∨ s.dp.src ≠ src →
    exec (.illegalWord src pc) s = .next s ∧ exec (.kernelBudgetExpiry src pc) s = .next s) ∧
  (∀ (s : State) (pc : Nat), s.dp.active = true →
    (∃ t, onlyStores [(F.BRICK_KSTAT_ILLEGAL s.callPhys, 1), (F.BRICK_OVR_LAST_PC s.callPhys, pc % 8192)] s t ∧
      exec (.illegalWord s.dp.src pc) s = .next (State.callEnd
        (if s.kernel.cuts.contains (0, s.dp.brick, s.dp.block) then t
        else { t.post 0x1303 s.dp.brick [w32 s.dp.slot, w32 (pc % 8192), w32 s.dp.block] with
          kernel := { s.kernel with cuts := (0, s.dp.brick, s.dp.block) :: s.kernel.cuts.take 127 } }) false)) ∧
    (∃ t, onlyStores [(F.BRICK_KSTAT_OVERRUN s.callPhys, 1),
          (F.BRICK_OVR_OVR_CNT s.callPhys, min 65535 (s.get (F.BRICK_OVR_OVR_CNT s.callPhys) + 1)),
          (F.BRICK_OVR_LAST_PC s.callPhys, pc % 8192)] s t ∧
      exec (.kernelBudgetExpiry s.dp.src pc) s = .next (State.callEnd
        (if s.kernel.cuts.contains (1, s.dp.brick, s.dp.block) then t
        else { t.post 0x1302 s.dp.brick [w32 s.dp.slot, w32 (pc % 8192), w32 s.dp.block] with
          kernel := { s.kernel with cuts := (1, s.dp.brick, s.dp.block) :: s.kernel.cuts.take 127 } }) false))) ∧
  (∀ s : State, ∃ t,
    onlyStores [(F.BRICK_KSTAT_FLAGS s.callPhys, s.get (F.BRICK_KSTAT_FLAGS s.callPhys) ||| s.dp.flags.toNat % 64)] s t ∧
    (s.voiceIn s.dp.src s.dp.record = none → s.callEnd false = State.callNext { t with dp := { t.dp with active := false } }) ∧
    (∀ (v w : Voice) (b : State), s.voiceIn s.dp.src s.dp.record = some v →
      b = (if v.redo = none ∧ s.dp.block = s.front then
          State.spendFront { t with dp := { t.dp with active := false } } s.dp.brick s.dp.cycles
        else State.useReserve { t with dp := { t.dp with active := false } } s.dp.brick s.dp.cycles) →
      w = b.reachedBlock { (if s.dp.flags.toNat % 4 ≠ 0 then v.setFlag 2 else v) with level := rmsOf b.outBlock } s.dp.block →
      s.callEnd false = (if (v.rollback.any fun e => e ≤ s.dp.block) = true then b
        else (b.setVoice w).rowBack w s.dp.block).callNext)) ∧
  (∀ s : State, (∀ l, s.kernel.staging = some l → l.complete = false ∨ s.running = false) →
    exec .kernelImageComplete s = .next s) ∧
  (∀ (s : State) (l : Load) (r : Nat), s.kernel.staging = some l → l.complete = true → s.running = true → r = s.kernelCheck l →
    exec .kernelImageComplete s = .next (State.post
      { s with
        kernel := { s.kernel with staging := none, staged := some ⟨l.bytes, l.len⟩, result := r },
        banks := { s.banks with vc1 := if l.mailbox then s.banks.vc1 else 0 } } 0x1301 0xFFFF [w32 r])) ∧
  (∀ (s : State) (b : Nat), (∀ p, (s.kernel.pend.find? fun p => p.left.contains b) = some p →
      s.commit < p.block ∨ s.voicesOn b ≠ 0 ∨ s.running = false) → exec (.kernelBrickLoad b) s = .next s) ∧
  (∀ (s k : State) (b : Nat) (p q : KPend), (s.kernel.pend.find? fun p => p.left.contains b) = some p → p.block ≤ s.commit →
    s.voicesOn b = 0 → s.running = true →
    q = { p with left := p.left.filter (fun x => x ≠ b), loading := p.loading.filter fun x => x ≠ b } →
    k = { s with kernel := { s.kernel with
      pend := (s.kernel.pend.map fun x => if x.left.contains b then q else x).filter fun x => x.left ≠ [],
      images := match p.image with | some i => kput s.kernel.images b i | none => kdel s.kernel.images b } } → ∃ t,
    (s.physOf b = none → t = k) ∧
    (∀ n, s.physOf b = some n →
      (p.image = none → ∃ u, onlyStores [(F.BRICK_MAP_CLOSED n, 0)] k u ∧
        t = u.wr (R.BRICK_KERNEL n) (regReset s.variant (R.BRICK_KERNEL 0))) ∧
      (∀ i, p.image = some i → onlyStores [(F.BRICK_MAP_CLOSED n, 0), (F.BRICK_KERNEL_STD n, 0),
        (F.BRICK_KERNEL_PRESET_VER n, (i.bytes.get 6).toNat), (F.BRICK_KERNEL_KID n, bits (i.word 0x24) 0 16)] k t)) ∧
    exec (.kernelBrickLoad b) s = .next (if q.left = [] then t.post 0x1301 0xFFFF [0] else t))

/-- The script operations that take no tile (R98–R101, R104–R107): the result of each where its voice's sequencer reaches it at a sample.
That a LEVEL outside its range is limited with no flag is the model's choice (DESIGN CHOICE, notes/assumptions/138.md). -/
def Obligations.ScriptOperations : Prop :=
  ∀ reach : Voice → Nat → Prop,
    (∀ v m, reach v m ↔ v.sounding = true ∧ v.scripted v.seq.now = true ∧
      ((v.seq.phase = .running ∧ v.seq.now = m) ∨ v.seq.phase = .gap m ∨
        (v.seq.read = none ∧ ∃ ref starts, v.seq.phase = .tile ref starts m))) →
  (∀ (s : State) (src : Nat) (d : Fin 16777216) (k : JoinKind) (p e l : Bool) (n : Fin 4) (x y : Fin 65536) (c b : Fin 256)
      (code : BitVec 16) (tr : BitVec 8) (ref : W32) (j : Fin 64) (a : ToneAction) (sk : SyncKind) (ct : Fin 16) (mt : W64),
    (∀ v m, s.voice? src = some v → ¬ reach v m) →
    ∀ o ∈ [Instr.endOp src, .tileOp src tr ref, .gap src d, .joinOp src k p e n x, .pitch src x, .tempo src x, .levelOp src code,
      .tone src j a x, .sync src sk l ct x mt, .loopOp src c x, .lang src b y], exec o s = .next s) ∧
  (∀ (s : State) (src m : Nat) (v : Voice) (q : Seq) (c : Cursor) (stop : Cursor → Voice), s.voice? src = some v → reach v m →
    q = { v.seq with phase := .running, now := m } → c = q.cur →
    (∀ c, stop c = Voice.release { v with seq := { q with phase := .ended, read := none, cur := { c with inserted := [] } } } m) →
    ((v.cutDue.filter fun x => x.1 ≤ m) = none → exec (.endOp src) s = .next (s.setVoice (stop (c.advance 1)))) ∧
    (∀ x, (v.cutDue.filter fun x => x.1 ≤ m) = some x → exec (.endOp src) s = .next (
      s.seqCut { v with seq := { q with read := none, cur := c.advance 1 } } m x.2)) ∧
    (∀ dur, exec (.gap src dur) s = .next (s.setVoice { v with seq := { q with
      phase := .gap (m + s.tenths dur), cur := { c.advance 1 with oneShot := none }, cutIn := false, read := none,
      hist := ((m, { c.advance 1 with oneShot := none }) :: q.hist).take 8 } })) ∧
    (∀ k persist ep (n : Fin 4) (len : Fin 65536), ∃ w : W32,
      bits w 24 8 = 3 ∧ bits w 20 4 = JoinCode k ∧ bit w 19 = persist ∧ bit w 18 = ep ∧ bits w 16 2 = n ∧ bits w 0 16 = len ∧
      exec (.joinOp src k persist ep n len) s = .next (s.setVoice { v with seq := { q with cur :=
        (if persist then { c with defaultJoin := w, oneShot := none } else { c with oneShot := some w }).advance 1 } })) ∧
    (∀ x : Fin 65536, exec (.pitch src x) s = .next (s.setVoice { v with
      seq := { q with cur := { c with pitch := max 2048 (min 8192 x) }.advance 1 },
      flags := if (x : Nat) < 2048 ∨ 8192 < (x : Nat) then v.flags ||| 1 else v.flags })) ∧
    (∀ x : Fin 65536, exec (.tempo src x) s = .next (s.setVoice { v with
      seq := { q with cur := { c with tempo := max 3277 (min 5120 x) }.advance 1 },
      flags := if (x : Nat) < 3277 ∨ 5120 < (x : Nat) then v.flags ||| 1 else v.flags })) ∧
    (∀ code, exec (.levelOp src code) s = .next (s.setVoice { v with
      seq := { q with cur := { c with level := max (-15360) (min 1536 code.toInt) }.advance 1 } })) ∧
    (∀ b tb, exec (.lang src b tb) s = .next (s.setVoice { v with
      seq := { q with cur := { c with bank := b, tbase := tb }.advance 1 } })) ∧
    (∀ (count : Fin 256) (back : Fin 65536) (w : W32) (t : State), w = w32 (0x09000000 + count * 65536 + back) →
      t = (if v.script = [] ∧ c.inserted = [] then s
        else (s.setVoice { v with seq := q }).post 0x0203 (s.handleOf src)
          [((s.job? v.record).map Job.handle).getD 0, w32 (c.index % 65536), w]) →
      (c.loopOk back = false → (v.cutDue.filter fun x => x.1 ≤ m) = none →
        exec (.loopOp src count back) s = .next (t.setVoice (stop c))) ∧
      (c.loopOk back = true →
        exec (.loopOp src count back) s = .next (s.setVoice { v with seq := { q with cur := c.loop w (v.releasedBy m) } })))) ∧
  (∀ (c : Cursor) (n : Nat),
    (c.inserted = [] → c.advance n = { c with word := c.word + n }) ∧
    (∀ i l, c.inserted = i :: l → c.advance n = { c with
      inserted := ({ i with at_ := i.at_ + n } :: l).filter fun i => i.at_ < i.words.length }) ∧
    (c.loopOk n = true ↔ 1 ≤ n ∧ match c.inserted with | i :: _ => n ≤ i.at_ | [] => n + 1 ≤ c.word)) ∧
  (∀ (c : Cursor) (count : Fin 256) (back : Fin 65536) (released : Bool) (w : W32) (left : List (Nat × Nat) → Nat → Nat)
      (again : List (Nat × Nat) → Nat → Prop), w = w32 (0x09000000 + count * 65536 + back) →
    (∀ l i, left l i = if (count : Nat) = 0 then 0 else (kget l i).getD count - 1) →
    (∀ l i, again l i ↔ if (count : Nat) = 0 then released = false else 0 < (kget l i).getD count) →
    (c.inserted = [] →
      (again c.loops c.word →
        c.loop w released = { c with loops := kput c.loops c.word (left c.loops c.word), word := c.word - back }) ∧
      (¬ again c.loops c.word → c.loop w released = { c with loops := kdel c.loops c.word, word := c.word + 1 })) ∧
    (∀ i l, c.inserted = i :: l →
      (again i.loops i.at_ → c.loop w released = { c with
        inserted := { i with loops := kput i.loops i.at_ (left i.loops i.at_), at_ := i.at_ - back } :: l }) ∧
      (¬ again i.loops i.at_ →
        c.loop w released = { c with inserted := { i with loops := kdel i.loops i.at_ } :: l }.advance 1)))

/-- TILE, TONE, SYNC, SYNC_SATISFIED, TILE_DECISION_POINT and TILE_BOUNDARY (R94, R95, R99–R103, R108–R113, R540). Tiles stand at the
internal rate, two instants to a sample. -/
def Obligations.ScriptTilesAndWaits : Prop :=
  (∀ (s : State) (src m : Nat) (v : Voice) (q : Seq) (c : Cursor) (bad : W32 → State), s.voice? src = some v → v.sounding = true →
    v.scripted v.seq.now = true →
    ((v.seq.phase = .running ∧ v.seq.now = m) ∨ v.seq.phase = .gap m ∨
      (v.seq.read = none ∧ ∃ ref starts, v.seq.phase = .tile ref starts m)) →
    q = { v.seq with phase := .running, now := m } →
    (∀ w, bad w = (if v.script = [] ∧ q.cur.inserted = [] then s.setVoice { v with seq := q }
      else (s.setVoice { v with seq := q }).scriptFault { v with seq := q } q.cur.index w).seqEnd { v with seq := q } m) →
    (∀ (trim : BitVec 8) (ref w : W32), w = w32 (0x01000000 + trim.toNat * 65536) → c = q.cur.advance 2 →
      (bits ref 2 2 ≠ 0 → exec (.tileOp src trim ref) s = .next (bad w)) ∧
      (bits ref 2 2 = 0 → s.findTile v c ref = none → exec (.tileOp src trim ref) s = .next (s.setVoice { v with
        flags := v.flags ||| 2, seq := { q with cur := { c with oneShot := none }, cutIn := false, read := none } })) ∧
      (∀ bank tile gen x b isBad, bits ref 2 2 = 0 → s.findTile v c ref = some (bank, tile, gen, x) →
        b = State.beforeTile (s.setVoice { v with seq := q }) bank gen tile → isBad = b.playsBad v bank tile (2 * m) →
        ∃ t : TilePlay, t.bank = bank ∧ t.tile = tile ∧ t.gen = gen ∧ t.full = bit ref 1 ∧ t.bad = isBad ∧ t.trim = trim.toInt ∧
          t.pitch = c.pitch ∧ t.tempo = c.tempo ∧ t.level = c.level ∧ t.join = none ∧ t.first = 2 * m ∧
          t.nominal = 2 * m + (if bit ref 1 = true ∧ isBad = false ∧ q.cutIn = false then
            b.zoneLen x x.entry.head c.pitch c.tempo (v.oscRow (2 * m)) else 0) ∧
          t.enter = (if isBad then ⟨.none_, 0, 0⟩ else if q.cutIn then ⟨.equalPower, 2 * m, s.ms2 10⟩
            else ⟨.linear, 2 * m, s.ms2 2⟩) ∧
          (x.entry.kind ≠ Tk.sample →
            t.ends = t.nominal + 2 * divNear (x.entry.nominal * s.hz * 4096) (tileHz x.entry.rate * c.tempo)) ∧
          exec (.tileOp src trim ref) s = .next (b.setVoice { v with
            bound := if v.binds bank then v.bound else v.bound ++ [(bank, gen)],
            flags := if isBad then v.flags ||| 2 else v.flags,
            seq := { q with
              phase := .tile ref m ((t.ends + 1) / 2), cur := { c with oneShot := none }, cutIn := false, read := none,
              played := (t :: q.played).take 6, hist := ((m, { c with oneShot := none }) :: q.hist).take 8 } }))) ∧
    (∀ (j : Fin 64) (act : ToneAction) (dur : Fin 65536) (b : State),
      b = s.setVoice { v with seq := { q with cur := q.cur.advance 1 } } →
      match b.companion v.record j with
      | none => exec (.tone src j act dur) s = .next (match (b.voicesOf v.record).find? (fun w => w.index = 0) with
        | some w => b.setVoice (w.setFlag 1)
        | none => b)
      | some w => exec (.tone src j act dur) s = .next (
        if act = .start then (if b.liveIn w (b.blockOf m) then b else b.startCompanion w m dur)
        else if b.liveIn w (b.blockOf m) then b.toneEdit w m (decide (act = .cut)) else b)) ∧
    (∀ (kind : SyncKind) (level : Bool) (contact : Fin 16) (value : Fin 65536) (mt : W64),
      c = { q.cur.advance (if kind = .at then 3 else 1) with oneShot := none } →
      if kind = .grid ∧ (value : Nat) = 0 then
        exec (.sync src kind level contact value mt) s =
          .next (bad (w32 (0x08000000 + b2n level * 2 ^ 21 + contact * 65536)))
      else exec (.sync src kind level contact value mt) s = .next (s.setVoice { v with seq := { q with
        cur := c, cutIn := false, read := none, hist := ((m, c) :: q.hist).take 8,
        phase := .sync kind level contact value (if kind = .at then mt.toNat else 0) m } }))) ∧
  (∀ (s : State) (v : Voice) (c : Cursor) (ref : W32) (bank tile : Nat),
    (bank, tile) = (if s.inVault v then (255, bits ref 4 20)
      else if bit ref 0 then (c.bank, c.tbase * 16 + bits ref 4 20) else (bits ref 24 8, bits ref 4 20)) →
    (s.tileImage v bank = none → s.findTile v c ref = none) ∧
    (∀ g img mark, s.tileImage v bank = some (g, img, mark) → s.findTile v c ref =
      if tile < nTiles img ∧ tile < 1048576 ∧ (tileEntry img tile).kind ≠ 2 then some (bank, tile, g, tileIn img tile) else none)) ∧
  (∀ (s : State) (xa xb : Tile) (a b : TilePlay) (w : W32) (osc : Int) (tail head last : Nat) (cross : FadeCurve → Nat →
      TilePlay × TilePlay → Prop), last = a.ends + (if a.full then tail else 0) →
    (∀ curve wish p, cross curve wish p ↔ ∃ x ≤ wish, (a.first + wish ≤ a.ends + min (wish / 2) tail → x = wish) ∧
      p.1 = { a with
        leave := some ⟨curve, a.ends + min (x / 2) tail - x, x⟩, last := a.ends + min (x / 2) tail } ∧
      p.2 = { b with
        first := a.ends + min (x / 2) tail - x, nominal := a.ends + min (x / 2) tail - x + min (x / 2) head,
        enter := ⟨curve, a.ends + min (x / 2) tail - x, x⟩, join := some .xfade }) →
    (bits w 20 4 = 0 → s.joinTiles xa xb a b w osc tail head =
      ({ a with last := a.ends }, { b with first := a.ends, nominal := a.ends, join := some .butt }, false)) ∧
    (bits w 20 4 = 1 → ∃ p, cross (if bit w 18 then .equalPower else .linear) (s.tenths2 (max 10 (min 640 (bits w 0 16)))) p ∧
      s.joinTiles xa xb a b w osc tail head = (p.1, p.2, false)) ∧
    (bits w 20 4 = 2 → xa.entry.kind ≠ Tk.speech ∨ xb.entry.kind ≠ Tk.speech ∨ xa.marks = [] ∨ xb.marks = [] →
      ∃ p, cross .equalPower (s.tenths2 100) p ∧ s.joinTiles xa xb a b w osc tail head = (p.1, p.2, true)) ∧
    (3 ≤ bits w 20 4 → s.joinTiles xa xb a b w osc tail head =
      ({ a with leave := some ⟨.linear, last - s.ms2 2, s.ms2 2⟩, last := last },
        { b with
          first := a.ends + s.tenths2 (bits w 0 16),
          nominal := a.ends + s.tenths2 (bits w 0 16) + (if b.full then head else 0),
          enter := ⟨.linear, a.ends + s.tenths2 (bits w 0 16), s.ms2 2⟩, join := some .gap }, false))) ∧
  (∀ (s : State) (src : Nat) (timeout : Bool),
    (∀ v, s.voice? src = some v → s.syncAt v 0 timeout = none) → exec (.syncSatisfied src timeout) s = .next s) ∧
  (∀ (s : State) (src at_ : Nat) (timeout : Bool) (v : Voice), s.voice? src = some v → s.syncAt v 0 timeout = some at_ →
    exec (.syncSatisfied src timeout) s = .next (s.setVoice { v with seq := { v.seq with
      phase := .running, now := at_, cur := v.seq.cur.insert (v.dueInserts at_),
      insDone := v.seq.insDone ++ (v.dueInserts at_).map fun e => (e.order, s.blockOf at_) } })) ∧
  (∀ (s : State) (v : Voice) (k : SyncKind) (level : Bool) (n value mt since : Nat),
    v.seq.phase = .sync k level n value mt since →
    (k = .at → s.syncAt v 0 false = some (max since mt)) ∧
    (k = .after → s.syncAt v 0 false = some (max since (v.startMt + value * s.hz / 100))) ∧
    (k = .contact → value ≠ 0 → s.syncAt v 0 true = some (since + value * s.hz / 100)) ∧
    (k = .contact → ∀ t, s.syncAt v 0 false = some t → since ≤ t ∧ s.contactSeen n t = if level then 1 else 0) ∧
    (k = .grid → 0 < value → ∃ at_, s.syncAt v 0 false = some at_ ∧ since ≤ at_ ∧ at_ % (value * s.bl) = 0 ∧
      at_ < since + value * s.bl)) ∧
  (∀ (s : State) (src : Nat), (∀ v, s.voice? src = some v → v.sounding = false ∨ v.scripted v.seq.now = false) →
    exec (.tileDecisionPoint src) s = .next s ∧ exec (.tileBoundary src) s = .next s) ∧
  (∀ (s : State) (src : Nat) (v : Voice), s.voice? src = some v → v.sounding = true → v.scripted v.seq.now = true →
    ((∀ r f e, v.seq.phase ≠ .tile r f e) ∨ v.seq.read.isSome = true → exec (.tileDecisionPoint src) s = .next s) ∧
    (∀ ref starts ends at_ due ops cur, s.voiceIn src v.record = some v → v.seq.phase = .tile ref starts ends → v.seq.read = none →
      at_ = max starts (ends - divNear (s.hz * 80) 1000) → due = v.dueInserts at_ →
      scriptAhead v.script (v.releasedBy at_) 65536 (v.seq.cur.insert due) [] = (ops, cur, true) →
      (∀ o, ops.getLast? = some o → bits (o.2.headD 0) 24 8 ≠ 1) →
      ∃ a : List TilePlay, exec (.tileDecisionPoint src) s = .next (s.setVoice { v with seq := { v.seq with
          played := a ++ v.seq.played.drop 1, read := some ⟨ops, cur, due.map Edit.order, none⟩ } }) ∧
        a.length = min 1 v.seq.played.length ∧ ∀ x ∈ a, ∀ y, v.seq.played.head? = some y → ∃ last,
          x = { y with leave := some ⟨.linear, last - s.ms2 2, s.ms2 2⟩, last := last } ∧ y.ends ≤ last ∧
          (y.full = false → last = y.ends)) ∧
    (∀ t w ref starts ends, exec (.tileDecisionPoint src) s = .next t → t.seqVoice src = some w →
      w.seq.phase = .tile ref starts ends → exec (.tileBoundary src) s = .next (t.boundary w ends))) ∧
  (∀ (s b : State) (v : Voice) (r : ReadAhead) (at_ : Nat) (o : Nat × List W32), v.seq.read = some r →
    b = s.setVoice { v with seq := { v.seq with insDone := v.seq.insDone ++ r.taken.map fun o => (o, s.blockOf at_) } } →
    r.ops.getLast? = some o → o.2.headD 0 ≠ 0xFFFFFFFF →
    s.boundary v at_ = (forEach r.ops.dropLast b fun x s => s.seqAct v.src v.record at_ x.2).seqTimed v.src v.record at_ o.2
      r.cur r.next)

/-- APORT_FRAME_BOUNDARY and APORT_INPUT_FRAME (R352, R355–R359, R361, R362, R365). -/
def Obligations.PortFrames : Prop :=
  (∀ (s : State) (n : Fin 8) (slots : List W32) (bc : Nat),
    (s.portIn n = true ∨ s.get (F.APORT_STATUS_STATE n) = 0 → exec (.aportFrameBoundary n bc) s = .next s) ∧
    (s.portIn n = false ∨ s.get (F.APORT_STATUS_STATE n) = 0 → exec (.aportInputFrame n slots bc) s = .next s)) ∧
  (∀ (s : State) (n : Nat) (bad : Bool),
    onlyStores (if bad then [(F.APORT_STATUS_FRAME_ERR n, 1),
        (F.APORT_GROUP_FRAME_ERR_CNT n, min 65535 (s.get (F.APORT_GROUP_FRAME_ERR_CNT n) + 1))] else [])
      (s.setPort { s.port n with
        sub := (s.port n).sub + 1, fsSeen := true,
        goodFrames := if s.get (F.APORT_STATUS_STATE n) = 4 ∧ bad = false then (s.port n).goodFrames + 1 else 0 })
      (s.frameNote n bad)) ∧
  (∀ (s t : State) (n : Fin 8) (bc m st i : Nat) (p : PortSt) (zeros : List W32), s.portIn n = false →
    st = s.get (F.APORT_STATUS_STATE n) → st ≠ 0 → m = s.time.mt + min (s.port n).sub (s.bl - 1) →
    t = s.frameNote n (!s.portMaster (s.portLeader n) && decide (bc ≠ frameBits (s.rd (R.APORT_FRAME n)))) →
    p = t.port n → i = t.get (F.APORT_RD_RD n) → zeros = List.replicate (t.portCh n) 0 →
    (st = 4 → exec (.aportFrameBoundary n bc) s = .next t) ∧
    (st ≠ 4 → p.stopping m = true → ∃ u, exec (.aportFrameBoundary n bc) s = .next u ∧
      onlyStores [(F.APORT_STATUS_STATE n, 3)] (t.setPort { p with
        postLeft := p.postLeft - 1, sent := zeros, rejoin := p.rejoin.map fun r => (r.1, r.2 + 1) }) u) ∧
    (st = 1 → p.stopping m = false → exec (.aportFrameBoundary n bc) s = .next (
      if s.portMaster n = true ∧ m + s.get (F.APORT_EDGES_PRE n) < p.startAt then t
      else iter (fun s => s.passRd n) ((p.tags.filter fun x => x.2 < m + 1).length) (t.setPort { p with
        preLeft := p.preLeft - 1, sent := zeros, rejoin := p.rejoin.map fun r => (r.1, r.2 + 1) }))) ∧
    (st ≠ 4 → st ≠ 1 → p.stopping m = false →
      (kget p.tags i = some m → p.rejoin = none → p.oldLen = none → ∃ u mt, exec (.aportFrameBoundary n bc) s = .next u ∧
        mt = (kget (kdel p.tags i) (t.nextRd n i)).getD 0 ∧
        onlyStores [(F.APORT_RD_RD n, t.nextRd n i), (F.APORT_MT_LO_MT_LO n, mt % 2 ^ 32), (F.APORT_MT_HI_MT_HI n, mt / 2 ^ 32 % 2 ^ 32)]
          (t.setPort { p with
            tags := kdel p.tags i,
            sent := ((t.readFrame n i).map fun w => toSlot (widthBits (t.rd (R.APORT_FRAME n))) (wordSample w)).zipIdx.map fun x =>
              if t.portMaster (t.portLeader n) then x.1
              else t.cutSlot n bc (x.2 % slotsPerPin (t.rd (R.APORT_CTRL n)) (t.rd (R.APORT_FRAME n))) x.1 }) u) ∧
      ((∀ x, kget p.tags i = some x → m < x) → ∃ u, exec (.aportFrameBoundary n bc) s = .next u ∧
        onlyStores [(F.APORT_STATUS_UNDERRUN n, 1),
            (F.APORT_XRUN_UNDER_CNT n, min 65535 (t.get (F.APORT_XRUN_UNDER_CNT n) + 1))]
          (t.setPort { p with sent := zeros, rejoin := p.rejoin.map fun r => (r.1, r.2 + 1) }) u) ∧
      (∀ x skipped v, kget p.tags i = some x → x < m → skipped = (p.tags.filter fun y => y.2 < m).length →
        v = iter (fun s => s.passRd n) skipped t →
        exec (.aportFrameBoundary n bc) s = .next (
          (if kget (v.port n).tags (v.get (F.APORT_RD_RD n)) = some m then
            (v.dataFrame n bc (v.get (F.APORT_RD_RD n))).passRd n else v.zeroFrame n bc).portResync n skipped false)))) ∧
  (∀ (s : State) (n clocks slot start width : Nat) (w : W32), width = widthBits (s.rd (R.APORT_FRAME n)) →
    start = (if s.get (F.APORT_CTRL_FORMAT n) = 0 then slot * (frameBits (s.rd (R.APORT_FRAME n)) / 2) + 1
      else if s.get (F.APORT_CTRL_FORMAT n) = 1 then slot * (frameBits (s.rd (R.APORT_FRAME n)) / 2)
      else slot * width + s.get (F.APORT_FRAME_FS_DELAY n)) →
    ∀ k, (s.cutSlot n clocks slot w).getLsbD k = (w.getLsbD k && decide (width ≤ k + (clocks - start)))) ∧
  (∀ (s t b c : State) (n : Fin 8) (slots : List W32) (bc m st tag gap w : Nat) (p : PortSt) (bad : Bool), s.portIn n = true →
    st = s.get (F.APORT_STATUS_STATE n) → st ≠ 0 → m = s.time.mt + min (s.port n).sub (s.bl - 1) →
    bad = (!s.portMaster (s.portLeader n) && decide (bc ≠ frameBits (s.rd (R.APORT_FRAME n)))) →
    t = s.frameNote n bad → p = t.port n → tag = m + (s.latency + 2) * s.bl →
    b = (if p.rejoin.isSome then (t.setPort { p with rejoin := none }).post 0x0702 n [0] else t) →
    gap = (p.lastTag.map fun x => tag - x - 1).getD 0 →
    c = (if gap = 0 then b.setPort { b.port n with lastTag := some tag }
      else (b.setPort { b.port n with lastTag := some tag }).portResync n gap false) →
    w = c.get (F.APORT_WR_WR n) →
    (st = 4 → exec (.aportInputFrame n slots bc) s = .next t) ∧
    (st ≠ 4 → p.stopping m = true → ∃ u, exec (.aportInputFrame n slots bc) s = .next u ∧
      onlyStores [(F.APORT_STATUS_STATE n, 3)] (t.setPort { p with postLeft := p.postLeft - 1 }) u) ∧
    (st = 1 → p.stopping m = false →
      exec (.aportInputFrame n slots bc) s = .next (t.setPort { p with preLeft := p.preLeft - 1 })) ∧
    (st ≠ 4 → st ≠ 1 → p.stopping m = false →
      (bad = true → exec (.aportInputFrame n slots bc) s = .next t) ∧
      (bad = false → p.lastTag = some tag → exec (.aportInputFrame n slots bc) s = .next (b.portResync n 1 false)) ∧
      (bad = false → p.lastTag ≠ some tag → (kget (c.port n).tags w).isSome = true →
        ∃ u, exec (.aportInputFrame n slots bc) s = .next u ∧
          onlyStores [(F.APORT_STATUS_OVERRUN n, 1),
            (F.APORT_XRUN_OVER_CNT n, min 65535 (c.get (F.APORT_XRUN_OVER_CNT n) + 1))] c u) ∧
      (bad = false → p.lastTag ≠ some tag → kget (c.port n).tags w = none →
        ∀ d, d = c.writeFrame n w ((List.range (c.portCh n)).map fun k =>
            sampleWord (fromSlot (widthBits (c.rd (R.APORT_FRAME n))) (slots.getD k 0))) →
          exec (.aportInputFrame n slots bc) s = .next
            (((d.setPort { d.port n with tags := kput (d.port n).tags w tag }).showTag n).advanceWr n)))) ∧
  (∀ (s : State) (n k : Nat) (len : Bool), ∃ t, s.portResync n k len = t.post 0x0703 n [w32 (min 65535 k + b2n len * 65536)] ∧
    onlyStores [(F.APORT_STATUS_RESYNC n, 1), (F.APORT_RESYNC_LAST n, min 65535 k),
      (F.APORT_RESYNC_CNT n, min 65535 (s.get (F.APORT_RESYNC_CNT n) + 1))] s t) ∧
  (∀ (s : State) (n : Nat),
    (s.get (F.APORT_WR_WR n) + 1 < s.get (F.APORT_LENGTH_LENGTH n) →
      onlyStores [(F.APORT_WR_WR n, s.get (F.APORT_WR_WR n) + 1)] s (s.advanceWr n)) ∧
    (s.get (F.APORT_LENGTH_LENGTH n) ≤ s.get (F.APORT_WR_WR n) + 1 → s.flag (F.APORT_STATUS_LEN_PEND n) = false →
      onlyStores [(F.APORT_WR_WR n, 0)] s (s.advanceWr n)))

/-- APORT_DATA_START, APORT_STOP_DONE, APORT_FS_TIMEOUT, APORT_CLOCK_BACK and APORT_RATE_MEASURE (R358, R359, R361–R363, R366). -/
def Obligations.PortClocksAndRate : Prop :=
  (∀ (s : State) (n : Fin 8) (p : PortSt) (m : Nat), p = s.port n → m = s.time.mt + min p.sub (s.bl - 1) →
    (if s.get (F.APORT_STATUS_STATE n) = 1 ∧ p.startAt ≤ m ∧ (s.portMaster n = true ∨ p.fsSeen = true ∧ p.preLeft = 0) ∧
        p.stopping m = false then
      ∃ t, onlyStores [(F.APORT_STATUS_STATE n, 2)] s t ∧ exec (.aportDataStart n) s = .next (
        if s.portIn n = true then t else iter (fun s => s.passRd n) ((p.tags.filter fun x => x.2 < m).length) t)
    else exec (.aportDataStart n) s = .next s) ∧
    (if s.get (F.APORT_STATUS_STATE n) ≠ 0 ∧ p.postLeft = 0 ∧ p.stopping m = true then
      ∃ t, exec (.aportStopDone n) s = .next t ∧ onlyStores [(F.APORT_STATUS_STATE n, 0)] (s.setPort {
        (if s.portIn n = true ∧ s.get (F.APORT_STATUS_STATE n) ≠ 4 then p
          else { p with tags := [], lastTag := none, oldLen := none }) with
        stopAt := none, preLeft := 0, postLeft := 0, fsSeen := false,
        goodFrames := 0 }) t
    else exec (.aportStopDone n) s = .next s) ∧
    (if s.get (F.APORT_STATUS_STATE n) = 4 ∧ 4 ≤ p.goodFrames then
      ∃ t, exec (.aportClockBack n) s = .next t ∧
        onlyStores [(F.APORT_RD_RD n, 0), (F.APORT_WR_WR n, 0), (F.APORT_MT_LO_MT_LO n, 0), (F.APORT_MT_HI_MT_HI n, 0),
            (F.APORT_STATUS_STATE n, if p.startAt ≤ m then 2 else 1)]
          (s.setPort { p with
            tags := [], lastTag := none, oldLen := none, rejoin := some (false, 0), goodFrames := 0 }) t
    else exec (.aportClockBack n) s = .next s)) ∧
  (∀ (s : State) (n : Fin 8),
    (s.portMaster n = true ∨ s.get (F.APORT_STATUS_STATE n) = 0 ∨ s.portLeader n ≠ n → exec (.aportFsTimeout n) s = .next s) ∧
    (s.portMaster n = false → s.get (F.APORT_STATUS_STATE n) ≠ 0 → s.portLeader n = n →
      exec (.aportFsTimeout n) s = .next (
        if s.flag (F.APORT_GROUP_IN_GROUP n) = true then
          forEach ((List.range 8).filter fun m => s.flag (F.APORT_GROUP_IN_GROUP m) ∧
            s.get (F.APORT_GROUP_GROUP m) = s.get (F.APORT_GROUP_GROUP n)) s fun m s => s.portLost m
        else s.portLost n))) ∧
  (∀ (s : State) (n : Nat),
    (s.get (F.APORT_STATUS_STATE n) = 0 ∨ 4 ≤ s.get (F.APORT_STATUS_STATE n) → s.portLost n = s) ∧
    (1 ≤ s.get (F.APORT_STATUS_STATE n) → s.get (F.APORT_STATUS_STATE n) ≤ 3 → ∃ t,
      onlyStores [(F.APORT_STATUS_STATE n, 4), (F.APORT_STATUS_CLK_LOST_EVT n, 1)]
        (s.setPort { s.port n with goodFrames := 0 }) t ∧
      s.portLost n = (if s.portIn n then t.post 0x0701 n [lo32 s.blockNow]
        else (t.post 0x0701 n [lo32 s.blockNow]).failType 2 (fun i => i / 32 = n) 2))) ∧
  (∀ (s : State) (n : Fin 8) (cycles r : Nat),
    (s.get (F.APORT_STATUS_STATE n) = 0 ∨ cycles = 0 → exec (.aportRateMeasure n cycles) s = .next s) ∧
    (s.get (F.APORT_STATUS_STATE n) ≠ 0 → 0 < cycles → r = 4096 * 64 * aclkHz s.rate / cycles →
      ((s.port n).measured = false → ∃ t, exec (.aportRateMeasure n cycles) s = .next t ∧
        onlyStores [(F.APORT_RATE_RATE n, r % 2 ^ 24), (F.APORT_RATE_REF_REF n, r % 2 ^ 24)]
          (s.setPort { s.port n with measured := true }) t) ∧
      (∀ ref thr, (s.port n).measured = true → ref = s.get (F.APORT_RATE_REF_REF n) → thr = s.get (F.APORT_RATE_CFG_THR n) →
        if thr ≠ 0 ∧ ref * thr < ((r : Int) - ref).natAbs * 1000000 then
          ∃ t u, onlyStores [(F.APORT_RATE_RATE n, r % 2 ^ 24), (F.APORT_STATUS_RATE_CHG n, 1)]
              (s.setPort { s.port n with measured := true }) t ∧
            exec (.aportRateMeasure n cycles) s = .next u ∧
            onlyStores [(F.APORT_RATE_REF_REF n, r % 2 ^ 24)] (t.post 0x0704 n [w32 r, w32 ref]) u
        else ∃ t, exec (.aportRateMeasure n cycles) s = .next t ∧
          onlyStores [(F.APORT_RATE_RATE n, r % 2 ^ 24)] (s.setPort { s.port n with measured := true }) t)))

/-- ANA_UPDATE, ANA_SETTLE_DONE and ANA_MUTE_RAMP_DONE (R371–R374, R376–R378, R380, R381); when the empty queue is reported is the
model's choice (DEDUCED, notes/assumptions/56.md). -/
def Obligations.AnalogueUpdates : Prop :=
  (∀ (s : State) (n : Fin 64) (outside : Bool), s.get (F.ANA_STATUS_STATE n) = 0 ∨ 5 ≤ s.get (F.ANA_STATUS_STATE n) →
    exec (.anaUpdate n outside) s = .next s) ∧
  (∀ (s : State) (n : Nat) (c : AnaSt), c = s.chan n → ∃ (bench : Option Nat) (out : Nat),
    s.testStep n = s.setChan { c with
      test := if s.get (F.ANA_STATUS_STATE n) = 2 ∧ s.flag (F.ANA_CTRL_LOADCHK_EN n) = true ∧ c.bench = none
        then min (c.test + 1) s.updates10 else c.test - 1,
      bench := bench, benchOut := out } ∧
    (c.bench = none → bench = none ∧ out = c.benchOut)) ∧
  (∀ (s b : State) (n : Fin 64) (outside : Bool) (st : Nat) (c : AnaSt), st = s.get (F.ANA_STATUS_STATE n) → 1 ≤ st → st ≤ 4 →
    b = (s.setChan { s.chan n with
      outRun := if outside then (s.chan n).outRun + 1 else 0,
      inRun := if outside then 0 else (s.chan n).inRun + 1 }).testStep n → c = b.chan n →
    (st = 1 ∨ st = 4 ∧ c.muting = none →
      exec (.anaUpdate n outside) s = .next (b.setChan { c with settle := c.settle - 1, queue := c.queue.drop 1 })) ∧
    (st = 4 → c.muting ≠ none →
      (c.fastMute = true ∨ s.get (F.ANA_SLEW_SLEW_STEP n) = 0 ∨
          1024 * (s.get (F.ANA_SLEW_SLEW_DIV n) + 1) < s.get (F.ANA_SLEW_SLEW_STEP n) →
        exec (.anaUpdate n outside) s = .next (b.setChan { c with
          queue := c.queue.drop 1, code := c.code + max (-1024) (min 1024 (-c.code)) })) ∧
      (c.fastMute = false → s.get (F.ANA_SLEW_SLEW_STEP n) ≠ 0 →
        s.get (F.ANA_SLEW_SLEW_STEP n) ≤ 1024 * (s.get (F.ANA_SLEW_SLEW_DIV n) + 1) →
        exec (.anaUpdate n outside) s = .next (b.setChan { c with
          queue := c.queue.drop 1, code := (s.slew n c.code 0 c.sinceTick).1, sinceTick := (s.slew n c.code 0 c.sinceTick).2 }))) ∧
    (st = 2 → exec (.anaUpdate n outside) s = .next b) ∧
    (st = 3 → c.waits = true → exec (.anaUpdate n outside) s = .next (b.setChan { c with queue := c.queue.drop 1 })) ∧
    (∀ target, st = 3 → c.waits = false →
      (if s.get (F.ANA_CTRL_MODE n) = 1 then target = signed 18 (s.get (F.ANA_CTRL_DC_CODE n)) else c.queue.head? = some target) →
      ∃ (t : State) (lim : Bool), exec (.anaUpdate n outside) s = .next t ∧
        onlyStores [(F.ANA_STATUS_SLEWING n, b2n lim)]
          (b.setChan { c with
            queue := c.queue.drop 1,
            code := (s.slew n c.code (rampInCode (c.rampIn + 1) target) c.sinceTick).1,
            sinceTick := (s.slew n c.code (rampInCode (c.rampIn + 1) target) c.sinceTick).2,
            rampIn := min 128 (c.rampIn + 1), emptyRun := 0 }) t ∧
        (s.get (F.ANA_SLEW_SLEW_STEP n) = 0 → lim = false)) ∧
    (st = 3 → c.waits = false → s.get (F.ANA_CTRL_MODE n) ≠ 1 → c.queue = [] →
      (c.emptyRun = 0 → ∃ t, exec (.anaUpdate n outside) s = .next (t.post 0x0803 n [lo32 s.blockNow]) ∧
        onlyStores [(F.ANA_STATUS_UNDERRUN n, 1), (F.ANA_COUNT_UNDER_CNT n, min 65535 (s.get (F.ANA_COUNT_UNDER_CNT n) + 1))]
          (b.setChan { c with emptyRun := 1 }) t) ∧
      (1 ≤ c.emptyRun → c.emptyRun < 4 →
        exec (.anaUpdate n outside) s = .next (b.setChan { c with emptyRun := c.emptyRun + 1 })) ∧
      (4 ≤ c.emptyRun → ∃ t, exec (.anaUpdate n outside) s = .next t ∧
        onlyStores [(F.ANA_STATUS_STATE n, 4)] (b.setChan { c with
          emptyRun := 0, muting := some .stay, fastMute := false, rampIn := 0, settle := 0, waits := false }) t))) ∧
  (∀ (s : State) (n since : Nat) (code target : Int),
    (s.get (F.ANA_SLEW_SLEW_STEP n) = 0 → s.slew n code target since = (target, 0)) ∧
    (s.get (F.ANA_SLEW_SLEW_STEP n) ≠ 0 → since < s.get (F.ANA_SLEW_SLEW_DIV n) → s.slew n code target since = (code, since + 1)) ∧
    (s.get (F.ANA_SLEW_SLEW_STEP n) ≠ 0 → s.get (F.ANA_SLEW_SLEW_DIV n) ≤ since → ∃ v, s.slew n code target since = (v, 0) ∧
      (v - code).natAbs ≤ s.get (F.ANA_SLEW_SLEW_STEP n) ∧
      ((target - code).natAbs ≤ s.get (F.ANA_SLEW_SLEW_STEP n) → v = target))) ∧
  (∀ (s : State) (n : Fin 64) (c : AnaSt), c = s.chan n →
    (if s.get (F.ANA_STATUS_STATE n) = 1 ∧ c.settle = 0 then
      ∃ t, exec (.anaSettleDone n) s = .next t ∧
        (if s.get (F.ANA_CTRL_MODE n) = 1 ∨ (s.zoneOnChan n).isSome = true then
          onlyStores [(F.ANA_STATUS_STATE n, 3)] (s.setChan { c with
            rampIn := if s.get (F.ANA_CTRL_MODE n) = 1 then 128 else 0, waits := true, code := 0 }) t
        else onlyStores [(F.ANA_STATUS_STATE n, 2)] (s.setChan { c with rampIn := 0, waits := false, code := 0 }) t)
    else exec (.anaSettleDone n) s = .next s) ∧
    (s.get (F.ANA_STATUS_STATE n) ≠ 4 ∨ c.code ≠ 0 ∨ c.muting = none → exec (.anaMuteRampDone n) s = .next s) ∧
    (s.get (F.ANA_STATUS_STATE n) = 4 → c.code = 0 →
      (c.muting = some .open → ∃ t, exec (.anaMuteRampDone n) s = .next t ∧
        onlyStores [(F.ANA_STATUS_STATE n, 0), (F.ANA_STATUS_SLEWING n, 0)] (s.setChan { c with
          queue := [], muting := none, fastMute := false, settle := 0, rampIn := 0, waits := false, nextRange := none,
          test := 0, bench := none, benchOut := 0 }) t) ∧
      (∀ r, c.muting = some (.range r) → r < 2 → ∃ t, exec (.anaMuteRampDone n) s = .next t ∧
        onlyStores [(F.ANA_CTRL_RANGE n, r)] (s.setChan { c with
          muting := none, settle := 4, waits := true, rampIn := 0, loadRun := 0 }) t) ∧
      (c.muting = some .stay → exec (.anaMuteRampDone n) s = .next (s.setChan { c with
        muting := none, settle := 0, waits := true, rampIn := 0 }))))

/-- ANA_COMPLIANCE_DETECT, ANA_COMPLIANCE_CLEAR, ANA_LOAD_WINDOW and ANA_TRIM_CHANNEL_DONE (R219, R381, R382, R384, R385, R418,
R498). -/
def Obligations.AnalogueChecks : Prop :=
  (∀ (s : State) (n : Fin 64),
    (if 1 ≤ s.get (F.ANA_STATUS_STATE n) ∧ s.get (F.ANA_STATUS_STATE n) ≤ 4 ∧ 64 ≤ (s.chan n).outRun ∧
        s.flag (F.ANA_STATUS_COMPL_NOW n) = false then
      ∃ t, exec (.anaComplianceDetect n) s = .next
          (((t.post 0x0801 n [lo32 s.blockNow]).failType 3 (fun i => i = n) 4).raise Mech.analogue n 0 0 0) ∧
        onlyStores [(F.ANA_STATUS_COMPL n, 1), (F.ANA_STATUS_COMPL_NOW n, 1),
          (F.ANA_COUNT_COMPL_CNT n, min 65535 (s.get (F.ANA_COUNT_COMPL_CNT n) + 1))] s t
    else exec (.anaComplianceDetect n) s = .next s) ∧
    (if s.flag (F.ANA_STATUS_COMPL_NOW n) = true ∧ 1920 ≤ (s.chan n).inRun then
      ∃ t, onlyStores [(F.ANA_STATUS_COMPL_NOW n, 0)] s t ∧
        exec (.anaComplianceClear n) s = .next (
          if ∃ c, c < s.variant.channels ∧ (t.flag (F.ANA_STATUS_COMPL_NOW c) = true ∨ 2 ≤ t.get (F.ANA_STATUS_LOAD c)) then t
          else t.unraise Mech.analogue)
    else exec (.anaComplianceClear n) s = .next s)) ∧
  (∀ (s b : State) (n : Fin 64) (ohms cls run : Nat) (c : AnaSt), c = s.chan n →
    cls = (if ohms < 100 then 3 else if ohms ≤ (if s.get (F.ANA_CTRL_RANGE n) = 0 then 600 else 2400) then 1 else 2) →
    run = (if cls = c.loadClass then c.loadRun + 1 else 1) → b = s.setChan { c with loadClass := cls, loadRun := run } →
    (s.get (F.ANA_STATUS_STATE n) ≠ 2 ∨ s.flag (F.ANA_CTRL_LOADCHK_EN n) = false → exec (.anaLoadWindow n ohms) s = .next s) ∧
    (s.get (F.ANA_STATUS_STATE n) = 2 → s.flag (F.ANA_CTRL_LOADCHK_EN n) = true →
      if run < 3 ∨ cls = s.get (F.ANA_STATUS_LOAD n) then exec (.anaLoadWindow n ohms) s = .next b
      else ∃ t, onlyStores [(F.ANA_STATUS_LOAD n, cls), (F.ANA_STATUS_LOAD_OHMS n, min 4095 ohms), (F.ANA_STATUS_LOAD_EVT n, 1)]
          b t ∧
        exec (.anaLoadWindow n ohms) s = .next (
          if 2 ≤ cls then (t.post 0x0802 n [w32 cls, w32 (min 4095 ohms)]).raise Mech.analogue n 0 0 0
          else (t.post 0x0802 n [w32 cls, w32 (min 4095 ohms)]).anaClear))) ∧
  (∀ (s : State) (n : Fin 64) (errors : List Int), (∀ t, s.anaTrim = some t → t.left.head? ≠ some n.val) →
    exec (.anaTrimChannelDone n errors) s = .next s) ∧
  (∀ (s : State) (n : Fin 64) (errors : List Int) (t : TrimRun) (lim : Bool), s.anaTrim = some t → t.left.head? = some n.val →
    (lim = true ↔ ∃ e ∈ errors, e < -128 ∨ 127 < e) →
    ∃ (u : State) (d : Nat), exec (.anaTrimChannelDone n errors) s = .next
        ((if u.flag (F.ANA_CTRL_EN n) = true ∧ u.live = true ∧ u.standby = false then u.anaStart n
          else u.setAna n 0).trimNext) ∧
      onlyStores ((if lim then [(F.ANA_STATUS_TRIM_LIMIT n, 1)] else []) ++
          (if n.val ∈ s.age.trimDue then [(F.AGE_STATUS_TRIM_DUE, b2n (decide (∃ x ∈ s.age.trimDue, x ≠ n.val)))] else []))
        { s.setChan { s.chan n with trims := errors.map fun e => max (-128) (min 127 e), drift := d } with
          anaTrim := some ⟨t.left.drop 1, t.done ++ [n.val], if lim then t.limited ++ [n.val] else t.limited, t.aborted⟩,
          age := { s.age with trimDue := if n.val ∈ s.age.trimDue then s.age.trimDue.filter (fun x => x ≠ n.val)
            else s.age.trimDue } } u ∧
      (∀ i e, errors[i]? = some e → (max (-128) (min 127 e) - (s.chan n).trims.getD i 0).natAbs ≤ d)) ∧
  (∀ s : State,
    (∀ n l t, s.anaTrim = some t → t.left = n :: l → onlyStores [(F.ANA_STATUS_STATE n, 5)] s s.trimNext) ∧
    (s.anaTrim = none → s.trimNext = s))

/-- PILOT_WINDOW_END, AVU_HOP, AVU_PATH_FAULT, AVU_PATH_OK, AVU_PATH_CHANGE, BASELINE_TIMEOUT and the four DEW rows (R389–R393,
R395, R398–R408). The measurements arrive with the events. -/
def Obligations.SupervisionAndDewTest : Prop :=
  (∀ (s : State) (z : Nat) (pt : PilotPoint) (level : Int),
    s.variant.zones ≤ z ∨ s.running = false ∨ s.windowCounts z pt = false → exec (.pilotWindowEnd z pt level) s = .next s) ∧
  (∀ (s : State) (z : Nat) (pt : PilotPoint),
    s.flag F.SUPV_CTRL_PILOT_CHK = false ∨ s.flag (F.ZONE_CTRL_EN z) = false ∨ s.flag (F.ZONE_CTRL_PILOT_EN z) = false ∨
      (s.zone z).draining = true ∨ s.power = .lull ∨ s.time.rate.isSome = true ∨ pt ≠ .internal ∧ s.standby = true ∨
      pt = .roleA ∧ (s.returns z).retA = 0x3FFF ∨ pt = .roleB ∧ (s.returns z).retB = 0x3FFF → s.windowCounts z pt = false) ∧
  (∀ (s : State) (z : Nat) (pt : PilotPoint) (level : Int) (r : PilotRun), z < s.variant.zones → s.running = true →
    s.windowCounts z pt = true → r = s.pilotRun z pt →
    if s.pilotFloor z pt ≤ level then
      exec (.pilotWindowEnd z pt level) s = .next (
        if r.fault = true ∧ 7 ≤ r.present then
          (s.setPilotRun { r with level := level, present := r.present + 1, missing := 0, fault := false }).pilotClear z pt
        else s.setPilotRun { r with level := level, present := r.present + 1, missing := 0 })
    else exec (.pilotWindowEnd z pt level) s = .next (
      if r.fault = false ∧ 3 ≤ r.missing then
        (s.setPilotRun { r with level := level, missing := r.missing + 1, present := 0, fault := true }).pilotDeclare z pt level
      else s.setPilotRun { r with level := level, missing := r.missing + 1, present := 0 })) ∧
  (∀ (s : State) (z : Nat) (level : Int) (any : Bool) (code : Nat), any = (s.supv.pilots.any fun r => r.zone = z ∧ r.fault) →
    code < 3 → ∃ t u,
    onlyStores [(⟨R.SUPV_PILOT_FAULT (z / 32), z % 32, 1⟩, b2n any),
      (F.SUPV_STATUS_INTERNAL, b2n (s.supv.pilots.any fun r => r.point = .internal ∧ r.fault)),
      (F.SUPV_COUNT_PILOT_CNT, min 65535 (s.get F.SUPV_COUNT_PILOT_CNT + 1))] s t ∧
    u = t.post 0x0D01 z [w32 code, w32 (unsigned 16 level)] ∧
    (code = 0 → s.pilotDeclare z .internal level = u.raise Mech.intPilot z 0 0 0) ∧
    (code = 1 → s.pilotDeclare z .roleA level =
      (if u.flag (F.ZONE_CTRL_FB_ON_PILOT z) then u.failRole z 0 5 else u).raise Mech.pilot z 1 0 0) ∧
    (code = 2 → s.pilotDeclare z .roleB level =
      (if u.flag (F.ZONE_CTRL_FB_ON_PILOT z) then u.failRole z 1 5 else u).raise Mech.pilot z 2 0 0)) ∧
  (∀ (s : State) (path conf delay : Nat) (ref energy tilt : Int) (inv : Bool) (p q : Path), p = s.path path →
    (s.variant.paths ≤ path ∨ s.avuRuns p = false ∨ s.running = false →
      exec (.avuHop path ref conf energy delay inv tilt) s = .next s) ∧
    (path < s.variant.paths → s.avuRuns p = true → s.running = true →
      q.confidence = min 255 conf → q.n = p.n → q.en = p.en → q.zone = p.zone → q.input = p.input →
      q.baseline = p.baseline → q.fault = p.fault → q.wantBaseline = p.wantBaseline →
      (ref ≤ -8960 → q = { p with confidence := min 255 conf }) →
      (-8960 < ref →
        q.energy = energy ∧ q.delay = delay ∧ q.inverted = inv ∧ q.tilt = tilt ∧
        q.lowRun = (if (p.baseline.any fun b => energy - b.1 < -768) = true ∧ 64 ≤ conf then p.lowRun + 1 else 0) ∧
        q.goodRun = (if (p.baseline.any fun b => (energy - b.1).natAbs ≤ 384) = true then p.goodRun + 1 else 0) ∧
        q.changeRun = (if (p.baseline.any fun b => s.msPrime < ((delay : Int) - b.2.1).natAbs ∨ inv ≠ b.2.2.1) = true then
          p.changeRun + 1 else 0)) →
      exec (.avuHop path ref conf energy delay inv tilt) s = .next (
        if p.wantBaseline = true ∧ 128 ≤ conf then
          State.baselineCheck { s.setPath q.rebase with
            supv := { (s.setPath q.rebase).supv with baselined := s.supv.baselined + 1 } }
        else s.setPath q))) ∧
  (∀ (s : State) (path : Nat) (p : Path), p = s.path path →
    (if p.fault = false ∧ 60 * Config.singleHz s.rate ≤ p.lowRun * 1024 ∧ p.en = true then
      ∃ t, exec (.avuPathFault path) s = .next
          ((t.post 0x0D03 path [w32 (unsigned 16 p.relEnergy), w32 (p.zone + p.input * 256)]).raise Mech.acoustic path 0 0 0) ∧
        onlyStores [(⟨R.SUPV_PATH_FAULT (path / 32), path % 32, 1⟩, 1),
          (F.SUPV_COUNT_PATH_CNT, min 65535 (s.get F.SUPV_COUNT_PATH_CNT + 1))]
          (s.setPath { p with fault := true, goodRun := 0 }) t
    else exec (.avuPathFault path) s = .next s) ∧
    (if p.fault = true ∧ 60 * Config.singleHz s.rate ≤ p.goodRun * 1024 then
      ∃ t, exec (.avuPathOk path) s = .next (
          if (t.supv.paths.any fun p => p.fault) = true then
            t.post 0x0D04 path [w32 (unsigned 16 p.relEnergy), w32 (p.zone + p.input * 256)]
          else (t.post 0x0D04 path [w32 (unsigned 16 p.relEnergy), w32 (p.zone + p.input * 256)]).unraise Mech.acoustic) ∧
        onlyStores [(⟨R.SUPV_PATH_FAULT (path / 32), path % 32, 1⟩, 0)] (s.setPath { p with fault := false, lowRun := 0 }) t
    else exec (.avuPathOk path) s = .next s) ∧
    exec (.avuPathChange path) s = .next (
      if 60 * Config.singleHz s.rate ≤ p.changeRun * 1024 ∧ p.en = true then
        (s.setPath { p with changeRun := 0 }).post 0x0D05 path
          [w32 (b2n (decide (s.msPrime < p.shift)) + 2 * b2n p.flipped), w32 p.delay]
      else s)) ∧
  (∀ (s t : State),
    t = s.post 0x0D06 0xFFFF [w32 s.supv.baselined, w32 (s.supv.paths.filter fun p => p.wantBaseline).length] →
    exec .baselineTimeout s = .next (if s.supv.baselining = true then
      { t with supv := { t.supv with
        baselining := false, baselined := 0, paths := t.supv.paths.map fun p => { p with wantBaseline := false } } }
    else s)) ∧
  (∀ (s b : State) (zs : List Nat), zs = s.dewZones false →
    b = { s with supv := { s.supv with dew := s.supv.dew.map fun (d : DewZone) => { d with selected := false } } } →
    (s.flag F.SUPV_DEW_CTRL_EN = false ∨ s.flag F.SUPV_STATUS_DEW_ACTIVE = true ∨
        s.time.mt < s.rd64 R.SUPV_DEW_NEXT_LO R.SUPV_DEW_NEXT_HI → exec .dewWindowOpen s = .next s) ∧
    (s.flag F.SUPV_DEW_CTRL_EN = true → s.flag F.SUPV_STATUS_DEW_ACTIVE = false →
      s.rd64 R.SUPV_DEW_NEXT_LO R.SUPV_DEW_NEXT_HI ≤ s.time.mt →
      (s.power ≠ .run → exec .dewWindowOpen s = .next (State.dewAdvance (forEach (s.dewZones true) s fun z s =>
        s.setDewZone { DewZone.init z with endMt := (s.dewZone z).endMt }))) ∧
      (s.power = .run → ∃ t, onlyStores [(F.SUPV_STATUS_DEW_ACTIVE, 1), (F.SUPV_DEW_STATUS_STATE, 2),
          (F.SUPV_DEW_STATUS_SELECTED, zs.length % 512), (F.SUPV_DEW_STATUS_DONE, 0)] b t ∧
        exec .dewWindowOpen s = .next (forEach zs (t.post 0x0D07 0xFFFF [w32 zs.length]) fun z s =>
          s.dewBegin { DewZone.init z with
            selected := true, held := (s.holdClass z).any fun c => c ≤ 7, endMt := (s.dewZone z).endMt })))) ∧
  (∀ (s : State) (any : Bool) (z : Nat), z ∈ s.dewZones any ↔ z < s.variant.zones ∧
    (any = true ∨ s.flag (F.ZONE_CTRL_EN z) = true) ∧
    ∃ g, g < s.variant.groups ∧ s.supv.dewGroups.getLsbD g = true ∧ (s.group g).members.getLsbD z = true) ∧
  (∀ (s : State) (z : Nat) (m : DewMeasure) (d : DewZone), d = s.dewZone z →
    (s.flag F.SUPV_STATUS_DEW_ACTIVE = false ∨ d.selected = false ∨ 6 ≤ d.step →
      exec (.dewStepDone z m) s = .next s ∧ exec (.dewRestart z) s = .next s) ∧
    (s.flag F.SUPV_STATUS_DEW_ACTIVE = true → d.selected = true → d.step < 6 →
      (d.held = true → exec (.dewStepDone z m) s = .next s) ∧
      (d.held = false → exec (.dewStepDone z m) s =
        .next ((if d.step = 2 then forEach (s.fallbacks z) s fun n s => s.setChan { s.chan n with bench := none, benchOut := 0 }
          else (s.dewRecord d m).1).dewBegin { (s.dewRecord d m).2 with step := (s.dewRecord d m).2.step + 1 })) ∧
      (d.step = 2 → (s.dewRecord d m).1 = s) ∧
      exec (.dewRestart z) s = .next (
        if d.held = true ∧ ((s.holdClass z).any fun c => c ≤ 7) = false then s.dewBegin { d with held := false } else s)) ∧
    (d.step < 4 → m.skipped = true → s.dewRecord d m = (s, { d with res := d.res.set d.step 3 })) ∧
    (d.step < 4 → m.skipped = false → (s.dewRecord d m).1 = s ∧
      (s.dewRecord d m).2.res = d.res.set d.step (if m.flag then 2 else 1) ∧ (s.dewRecord d m).2.step = d.step ∧
      (d.step ≤ 1 → (s.dewRecord d m).2.margin = min m.margin d.margin)) ∧
    (d.step = 4 → (s.dewRecord d m).1 = s ∧ (s.dewRecord d m).2.res = d.res.set 4
      (if s.pathsOf d.zone = [] then 3
        else if (s.pathsOf d.zone).all (fun p => decide (128 ≤ p.confidence)) then 1 else 2))) ∧
  (∀ (s : State) (d : DewZone), s.dewEnabled d 5 = true → d.res.getD 4 0 = 1 ∨ d.res.getD 4 0 = 2) ∧
  (∀ (s : State) (d : DewZone), d.step = 6 →
    ∃ t, s.dewBegin d = t ∧ onlyStores [(F.SUPV_DEW_STATUS_DONE, (s.get F.SUPV_DEW_STATUS_DONE + 1) % 512)] (s.setDewZone d) t) ∧
  (∀ (s : State) (d : DewZone) (n : Nat), d.step < 6 → s.dewEnabled d d.step = true →
    n = 4096 * (s.hz / Config.singleHz s.rate) →
    (d.step ≤ 1 → s.dewBegin d = s.setDewZone { d with since := (s.startOf s.commit + n - 1) / n * n }) ∧
    (4 ≤ d.step ∨ 2 ≤ d.step ∧ d.held = true → s.dewBegin d = s.setDewZone d) ∧
    (d.step = 2 → d.held = false → s.dewBegin d =
      forEach ((s.fallbacks d.zone).filter fun n => s.get (F.ANA_STATUS_STATE n) = 2) (s.setDewZone d) fun n s =>
        s.setChan { s.chan n with bench := some 0, benchOut := 0 })) ∧
  (∀ (s b c : State) (sel : List DewZone),
    b = forEach s.supv.dew s (fun d s => if d.selected ∧ d.step < 6 ∧ ¬ d.held then s.dewStop d.zone false else s) →
    c = { b with supv := { b.supv with dew := b.supv.dew.map fun d => if d.selected then { d with
      held := false, step := 6, endMt := b.time.mt,
      res := d.res.zipIdx.map fun x => if d.step ≤ x.2 then 4 else x.1 } else d } } →
    sel = c.supv.dew.filter (fun d => d.selected) →
    (s.flag F.SUPV_STATUS_DEW_ACTIVE = false → exec .dewWindowClose s = .next s) ∧
    (s.flag F.SUPV_STATUS_DEW_ACTIVE = true → ∃ t, onlyStores [(F.SUPV_STATUS_DEW_ACTIVE, 0)] c t ∧
      exec .dewWindowClose s = .next (t.dewAdvance.post 0x0D08 0xFFFF
        [w32 (sel.filter fun d => d.res.all fun r => r = 1 ∨ r = 3).length,
          w32 (sel.filter fun d => d.res.any fun r => r = 2).length,
          w32 (sel.filter fun d => d.res.any fun r => r = 4).length]))) ∧
  (∀ (s : State) (v : Nat),
    v = s.rd64 R.SUPV_DEW_NEXT_LO R.SUPV_DEW_NEXT_HI + s.get F.SUPV_DEW_CTRL_PERIOD * 60 * s.hz →
    onlyStores (if s.get F.SUPV_DEW_CTRL_PERIOD = 0 then [(F.SUPV_DEW_CTRL_EN, 0), (F.SUPV_DEW_STATUS_STATE, 0)]
      else [(F.SUPV_DEW_NEXT_LO_MT_LO, v % 2 ^ 32), (F.SUPV_DEW_NEXT_HI_MT_HI, v / 2 ^ 32 % 2 ^ 32),
        (F.SUPV_DEW_STATUS_STATE, b2n (s.flag F.SUPV_DEW_CTRL_EN))]) s s.dewAdvance)

/-- AGE_HOUR, DERATE_RELEASE, ECLK_CHANGE, AVS_READBACK, RING_SENSOR_READ, THERMAL_READ, CANARY_READ, NOR_REGION_UPDATE_DONE,
CONFIG_ERASE_DONE and SAFE_UPDATE_IMAGE_COMPLETE (R297, R301, R445, R494–R499). What is done once per second with the ring sensors
is the model's choice (DESIGN CHOICE, notes/assumptions/37.md), and so is a free erase count (notes/assumptions/14.md). -/
def Obligations.AgeingAndNorRegions : Prop :=
  (∀ s : State, onlyStores
    ([(F.SYS_UPTIME_SECONDS, min (2 ^ F.SYS_UPTIME_SECONDS.width - 1) (s.get F.SYS_UPTIME_SECONDS + 1))] ++
      (if s.power = .run then
        [(F.SYS_RUN_SECS_COUNT, min (2 ^ F.SYS_RUN_SECS_COUNT.width - 1) (s.get F.SYS_RUN_SECS_COUNT + 1))] else []) ++
      (if s.get F.TIME_STATUS_MODE = 3 then
        [(F.TIME_HOLDOVER_SECONDS, min (2 ^ F.TIME_HOLDOVER_SECONDS.width - 1) (s.get F.TIME_HOLDOVER_SECONDS + 1))] else []))
    { s with
      age := { s.age with sinceReset := s.age.sinceReset + 1 }, safe := { s.safe with thisSecond := [] },
      slabs := { s.slabs with violThisSecond := [] }, banks := { s.banks with uncorrThisSecond := 0 } } s.second) ∧
  (∀ (s : State) (slacks : List Nat),
    (s.running = false → exec (.ringSensorRead slacks) s = .next s) ∧
    (s.running = true → s.flag F.AGE_CTRL_EN = false → exec (.ringSensorRead slacks) s = .next s.second) ∧
    (s.running = true → s.flag F.AGE_CTRL_EN = true → ∃ t,
      onlyStores ((List.range 32).flatMap fun k => [(F.AGE_RING_SLACK k, min 65535 (slacks.getD k 65535)),
        (F.AGE_RING_SLACK_MIN k, if s.age.slackN = 0 then min 65535 (slacks.getD k 65535)
          else min (min 65535 (slacks.getD k 65535)) (s.get (F.AGE_RING_SLACK_MIN k)))]) s.second t ∧
      exec (.ringSensorRead slacks) s = .next { t with age := { t.age with
        slackSum := s.age.slackSum + ((List.range 32).map fun k => min 65535 (slacks.getD k 65535)).sum,
        slackN := s.age.slackN + 32 } })) ∧
  (∀ (s : State) (temps : List Int),
    (s.flag F.AGE_CTRL_EN = false ∨ s.running = false ∧ s.power ≠ .lull → exec (.thermalRead temps) s = .next s) ∧
    (s.flag F.AGE_CTRL_EN = true → s.running = true ∨ s.power = .lull → ∃ (t : State) (age : AgeSt),
      onlyStores ((List.range 8).flatMap fun k =>
          [(F.AGE_THERM_TJ_EVEN k, unsigned 16 (clampI (-32768) 32767 (temps.getD (2 * k) 0))),
            (F.AGE_THERM_TJ_ODD k, unsigned 16 (clampI (-32768) 32767 (temps.getD (2 * k + 1) 0)))]) { s with age := age } t ∧
      age = { s.age with tjSum := age.tjSum, tjN := s.age.tjN + 16, tjMax := age.tjMax } ∧
      exec (.thermalRead temps) s = .next (
        if t.tooHot = true ∧ s.tooHot = false then t.raise Mech.supply 0xFFFF 0 0 0
        else if s.tooHot = true ∧ t.tooHot = false then t.unraise Mech.supply else t))) ∧
  (∀ (s : State) (failed : List Bool) (bad : List Nat) (runs : List (Nat × Nat)),
    bad = (List.range 32).filter (fun n => failed.getD n false) →
    runs = bad.map (fun n => (n, (kget s.age.canaryRuns n).getD 0 + 1)) →
    (s.ageOn = false → exec (.canaryRead failed) s = .next s) ∧
    (s.ageOn = true → ∃ t, onlyStores ([(F.AGE_STATUS_CANARY_FAIL, bad.length)] ++
          (if bad = [] then [] else [(F.AGE_STATUS_CANARY, 1)]))
        { s with age := { s.age with
          canaryRuns := runs.map fun x => (x.1, min 3 x.2), canaryFails := s.age.canaryFails + bad.length } } t ∧
      exec (.canaryRead failed) s = .next (
        if s.flag F.AGE_CTRL_REPAIR_EN = true then forEach (runs.filter fun x => x.2 = 3) t fun x s => s.repairCall x.1
        else t))) ∧
  (∀ (s : State) (slab : Nat),
    (slab ∈ s.age.repairDue ∨ s.get (F.SLAB_REPAIR_COL_B slab) ≠ 0xFF → s.repairCall slab = s) ∧
    (slab ∉ s.age.repairDue → s.get (F.SLAB_REPAIR_COL_B slab) = 0xFF → ∃ t, onlyStores [(F.AGE_STATUS_REPAIR_DUE, 1)]
        { s with age := { s.age with
          repairDue := s.age.repairDue ++ [slab],
          repairCols := if s.get (F.SLAB_REPAIR_WORST_COL slab) = 255 then s.age.repairCols
            else kput s.age.repairCols slab (s.get (F.SLAB_REPAIR_WORST_COL slab)) } } t ∧
      s.repairCall slab = (t.post 0x0E05 0xFFFF [w32 (slab + s.get (F.SLAB_REPAIR_WORST_COL slab) * 256)]).startRepairs)) ∧
  (∀ (s : State) (ack : Bool) (mv target : Nat) (status : BitVec 16), target = s.get F.AGE_VDD_TARGET_MV →
    (s.age.avsBusy = false → exec (.avsReadback ack mv status) s = .next s) ∧
    (s.age.avsBusy = true → ∃ (t : State) (bad : Bool),
      (bad = true ↔ ack = false ∨ target + 10 < mv ∨ mv + 10 < target ∨ status.getLsbD 15 = true ∨ status.getLsbD 14 = true ∨
        status.getLsbD 2 = true ∨ status.getLsbD 1 = true) ∧
      onlyStores ((if ack then [(F.AGE_PMBUS_STATUS_WORD, status.toNat), (F.AGE_PMBUS_VOUT_MV, min 4095 mv)] else []) ++
          (if bad then [(F.AGE_STATUS_AVS_ERR, 1)] else []))
        { s with age := { s.age with avsBusy := false, avsHold := bad } } t ∧
      exec (.avsReadback ack mv status) s = .next (
        if bad then (t.post 0x0E04 0xFFFF [w32 status.toNat, w32 mv]).raise Mech.supply 0xFFFF 0 0 0 else t))) ∧
  (∀ (s : State) (v : Bool), v = (s.flag F.AGE_CTRL_AVS_EN && decide (s.get F.AGE_VDD_TARGET_MV + 5 ≤ s.get F.AGE_VDD_INITIAL_MV + 60) &&
      decide (s.get F.AGE_VDD_TARGET_MV + 5 ≤ 840)) →
    s.planStep =
      if s.age.avsHold = true ∧ s.flag F.AGE_CTRL_AVS_EN = true then { s with age := { s.age with avsBusy := true } }
      else if s.age.closing.isSome then s
      else if s.get F.AGE_PLAN_ECLK_STEPS < min 4 (s.get F.AGE_CTRL_DERATE_MIN) then s.clockStep
      else if s.age.slackN = 0 ∨ s.get F.AGE_LIMITS_MARGIN_LOW ≤ s.slackMin then s
      else if v then s.voltageStep
      else if s.get F.AGE_PLAN_ECLK_STEPS < 4 then s.clockStep
      else s.planExhausted) ∧
  (∀ s : State, ∃ t, onlyStores [(F.AGE_VDD_TARGET_MV, (s.get F.AGE_VDD_TARGET_MV + 5) % 4096),
      (F.AGE_PLAN_VDD_STEPS, min 255 (s.get F.AGE_PLAN_VDD_STEPS + 1)), (F.AGE_STATUS_VSTEP_EVT, 1),
      (F.AGE_STATUS_PLAN_STATE, max 1 (s.get F.AGE_STATUS_PLAN_STATE))] s t ∧
    s.voltageStep = { t.post 0x0E01 0xFFFF [w32 (s.get F.AGE_VDD_TARGET_MV + 5)] with age := { s.age with avsBusy := true } }) ∧
  (∀ s : State, (s.get F.AGE_STATUS_PLAN_STATE = 4 → s.planExhausted = s) ∧
    (s.get F.AGE_STATUS_PLAN_STATE ≠ 4 → ∃ t, onlyStores [(F.AGE_STATUS_PLAN_STATE, 4)] s t ∧
      s.planExhausted = t.post 0x0E03 0xFFFF [w32 s.slackMin])) ∧
  (∀ s : State, s.get F.AGE_PLAN_ECLK_STEPS < 4 → ∃ (t : State) (n : Nat), n = slotsFor (775 - 25 * s.get F.AGE_PLAN_ECLK_STEPS) s.rate ∧
    t.get F.AGE_STATUS_PLAN_STATE = 2 ∧ t.flag F.DISP_STATUS_DERATED = true ∧ t.flag F.AGE_STATUS_DERATED_EVT = true ∧
    t.get F.AGE_PLAN_ECLK_STEPS = s.get F.AGE_PLAN_ECLK_STEPS + 1 ∧
    s.clockStep = { t.post 0x0E02 0xFFFF [w32 (n * s.variant.bricks), w32 (775 - 25 * s.get F.AGE_PLAN_ECLK_STEPS)] with
      age := { s.age with closing := some n } }) ∧
  (∀ (s : State) (n : Nat),
    (s.age.closing = none → exec .derateRelease s = .next s ∧ exec .eclkChange s = .next s) ∧
    (s.age.closing = some n →
      exec .derateRelease s = .next (forEach ((s.disp.voices.filter fun v => n ≤ v.src % 128).map Voice.record).dedup s
        fun r s => match s.job? r with
          | some j => if 3 ≤ j.descr.cls then s.stopJob j s.soonest 0x0A else s
          | none => s) ∧
      (if ∃ v ∈ s.disp.voices, n ≤ v.src % 128 then exec .eclkChange s = .next s
      else ∃ t, exec .eclkChange s = .next t ∧
        onlyStores [(F.AGE_PLAN_ECLK_MHZ, 800 - 25 * s.get F.AGE_PLAN_ECLK_STEPS), (F.AGE_STATUS_PLAN_STATE, 3)]
          { s with age := { s.age with closing := none } } t))) ∧
  (∀ (s a b c d t : State), a = s.wr R.AGE_HOURS (w32 ((s.rd R.AGE_HOURS).toNat + 1)) →
    b = (if a.ageOn then a.planStep else a) →
    c = (if (b.rd R.AGE_HOURS).toNat % 24 = 0 ∧ b.ageOn = true ∧ b.flag F.AGE_CTRL_TRIM_EN = true then b.driftCheck else b) →
    d = (if c.ageOn then c.trimDueNow.startRepairs else c) → t = d.ageAppend.scrubHour →
    (s.running = false → exec .ageHour s = .next s) ∧
    (s.running = true → exec .ageHour s = .next { t with
      age := { t.age with
        slackSum := 0, slackN := 0, tjSum := 0, tjN := 0, tjMax := 0, canaryFails := 0, resetsHour := 0, lullMinutes := 0 },
      slabs := if (b.rd R.AGE_HOURS).toNat % 24 = 0 then { t.slabs with columns := [] } else t.slabs })) ∧
  (∀ s b : State, b = { s with slabs := { s.slabs with hours := s.slabs.hours + 1 } } →
    onlyStores ([(F.MEMIF_SCRUB_MARCH_HOURS, min 255 b.marchHours)] ++
      (if s.flag F.MEMIF_CTRL_SCRUB_EN then [(F.MEMIF_SCRUB_SLAB_HOURS,
        min (2 ^ F.MEMIF_SCRUB_SLAB_HOURS.width - 1) (s.get F.MEMIF_SCRUB_SLAB_HOURS + 1))] else []) ++
      (if s.flag F.MEMIF_CTRL_BANK_SCRUB_EN then [(F.MEMIF_SCRUB_BANK_HOURS,
        min (2 ^ F.MEMIF_SCRUB_BANK_HOURS.width - 1) (s.get F.MEMIF_SCRUB_BANK_HOURS + 1))] else [])) b s.scrubHour) ∧
  (∀ s : State, ∃ r : AgeRec, s.ageAppend.age.log = (r :: s.age.log).take 131072 ∧ r.length = 16 ∧
    r.getD 1 0 = s.rd R.AGE_HOURS ∧ s.ageAppend.get F.AGE_LOG_NEXT = (s.get F.AGE_LOG_NEXT + 1) % 131072) ∧
  (∀ (s : State) (r : Nat), ∃ x, x ≤ 1 ∧
    onlyStores [(F.MEMIF_REGION_STAT_ERASE_CNT r, min 65535 (s.get (F.MEMIF_REGION_STAT_ERASE_CNT r) + x))] s.draw.2 (s.noteErase r)) ∧
  (∀ (s : State) (ok : Bool), ∃ t,
    onlyStores ([(F.MEMIF_REGION_STAT_WRITING 3, 0), (F.MEMIF_STATUS_NOR_STATE, 1), (F.MEMIF_REGION_STAT_VALID_A 3, b2n s.nor.flash.cfgA.valid),
        (F.MEMIF_REGION_STAT_VALID_B 3, b2n s.nor.flash.cfgB.valid),
        (F.MEMIF_REGION_STAT_ACTIVE 3, b2n ((pickCopy s.nor.flash.cfgA s.nor.flash.cfgB).any Prod.fst)),
        (F.SYS_STATE_CONFIG_VALID, b2n (s.nor.flash.cfgA.valid || s.nor.flash.cfgB.valid))] ++
      (if ok then [] else [(F.MEMIF_STATUS_NOR_ERR, 1)])) s t ∧
    s.configDone ok = t.post 0x0103 0xFFFF [if ok then 0 else 0x04]) ∧
  (∀ (a b : NorCopy) (bs : List Byte) (v : W32) (c : NorCopy), c = ⟨true, max a.seq b.seq + 1, v, bs⟩ →
    (a.valid = true → b.valid = false ∨ b.seq ≤ a.seq → install a b bs v = (a, c)) ∧
    (b.valid = true → a.valid = false ∨ a.seq < b.seq → install a b bs v = (c, b)) ∧
    (a.valid = false → b.valid = false → install a b bs v = (c, b))) ∧
  (∀ (s : State) (region : Fin 4) (ok : Bool),
    ((∀ c, s.nor.writing ≠ some (region.val, c)) → exec (.norRegionUpdateDone region ok) s = .next s) ∧
    (∀ (c : NorCopy) (e : State) (p : NorCopy × NorCopy), s.nor.writing = some (region.val, c) → e = s.noteErase 3 →
      p = install s.nor.flash.cfgA s.nor.flash.cfgB c.bytes 0 →
      exec (.norRegionUpdateDone region ok) s = .next (State.configDone { e with nor := { e.nor with
        writing := none, flash := if ok then { e.nor.flash with cfgA := p.1, cfgB := p.2 } else e.nor.flash } } ok)) ∧
    (s.nor.erasing = false → exec (.configEraseDone ok) s = .next s) ∧
    (∀ e, s.nor.erasing = true → e = s.noteErase 3 →
      exec (.configEraseDone ok) s = .next (State.configDone { e with nor := { e.nor with
        erasing := false,
        flash := if ok then { e.nor.flash with cfgA := norCopyBlank, cfgB := norCopyBlank } else e.nor.flash } } ok))) ∧
  (∀ (s : State) (norOk : Bool),
    (s.safe.update = none ∨ s.running = false → exec (.safeUpdateImageComplete norOk) s = .next s) ∧
    (∀ (r : Nat) (l : Load) (res : Nat) (a b : State) (f : NorImage), s.safe.update = some (r, l) → s.running = true →
      res = s.updateResult r l → f = norUpdate s.nor.flash r (bytesAt l.bytes 0 l.len) →
      a = { s with
        safe := { s.safe with update := none }, banks := if l.mailbox then s.banks else { s.banks with vc1 := 0 } } →
      b = State.noteErase { a with nor := { a.nor with flash := f } } (r + 1) →
      (l.complete = false → exec (.safeUpdateImageComplete norOk) s = .next s) ∧
      (l.complete = true → res ≠ 0 → exec (.safeUpdateImageComplete norOk) s = .next (a.post 0x0C01 r [w32 res])) ∧
      (l.complete = true → res = 0 → norOk = true → exec (.safeUpdateImageComplete norOk) s =
        .next (((b.showRegion 1 f.fwA f.fwB).showRegion 2 f.vaultA f.vaultB).post 0x0C01 r [w32 0])) ∧
      (l.complete = true → res = 0 → norOk = false → ∃ t, onlyStores [(F.MEMIF_STATUS_NOR_ERR, 1)] a t ∧
        exec (.safeUpdateImageComplete norOk) s = .next (t.post 0x0C01 r [w32 0x04]))))

/-- COURSE_FRAME_SEND, COURSE_FRAME_RECEIVED, COURSE_PORT_DOWN, COURSE_PORT_UP, COURSE_LANE_ALIGNMENT_LOSS, the COURSE_MSG rows,
KEYSTONE_LOST, TWIN_CHECK_DONE and TWIN_TAKEOVER_START (R178, R330–R334, R338, R341–R348, R503). That a STATUS message goes with every
64th block is the model's choice (DESIGN CHOICE, notes/assumptions/70.md). -/
def Obligations.CourseLink : Prop :=
  (∀ s : State, s.cascade = false ∨ s.running = false →
    exec .courseFrameSend s = .next s ∧ exec .keystoneLost s = .next s ∧
    ∀ (p q : Fin 2) (f : CourseFrame), exec (.courseFrameReceived p f) s = .next s ∧ exec (.coursePortDown p) s = .next s ∧
      exec (.coursePortUp p) s = .next s ∧ exec (.courseLaneAlignmentLoss p q) s = .next s) ∧
  (∀ (s b : State) (mt : Nat) (pk : List (Nat × Nat × List W32) × List (Nat × List W32)), s.cascade = true → s.running = true →
    b = (if s.course.frame = 0 ∧ s.blockNow % 64 = 0 then s.courseSend 0x1 s.statusBody else s) →
    mt = s.startOf (s.commit + s.pOff) + s.course.frame * s.frameLen →
    pk = packMessages (4096 - (s.course.again.map fun m => msgBytes m.2.2).sum) s.course.seq b.course.outbox →
    ∃ (t : State) (f : SentFrame), exec .courseFrameSend s = .next t ∧
      onlyStores [(F.CRSE_MSG_CNT_SENT, (s.get F.CRSE_MSG_CNT_SENT + pk.1.length) % 2 ^ 32)]
        { s with course := { s.course with
          outbox := pk.2, again := pk.1, seq := (s.course.seq + pk.1.length) % 65536, frame := s.course.frame + 1,
          sent := some f, forward := [], forwarded := s.course.forward } } t ∧
      f.origin = s.origin ∧ f.mt = mt ∧ f.messages = s.course.again ++ pk.1 ∧ f.hops = s.course.peers.length ∧
      f.keystone = s.flag F.CRSE_STATUS_IS_KEYSTONE ∧ (f.fault = true ↔ s.power = .fault) ∧
      (s.power = .fault ∨ s.standby = true ∨ s.flag F.CRSE_STATUS_CONFLICT = true → f.channels = [] ∧ f.marker = false) ∧
      (s.power ≠ .fault → s.standby = false → s.flag F.CRSE_STATUS_CONFLICT = false → f.channels = s.frameChannels mt)) ∧
  (∀ (s : State) (p : Fin 2) (f : CourseFrame) (o : Nat), s.cascade = true → s.running = true →
    o = f.course.val + 8 * b2n f.roleB →
    (s.get (F.CRSE_PORT_STAT_STATE p) = 0 → exec (.courseFrameReceived p f) s = .next s) ∧
    (s.get (F.CRSE_PORT_STAT_STATE p) ≠ 0 → f.crcOk = false → ∃ t,
      exec (.courseFrameReceived p f) s = .next (t.raise Mech.link p 0 0 0) ∧
      onlyStores [(F.CRSE_PORT_ERR_CRC_CNT p, min 65535 (s.get (F.CRSE_PORT_ERR_CRC_CNT p) + 1))]
        (s.setCourse { s.course with damaged := (o, f.mt.toNat) :: s.course.damaged }) t) ∧
    (s.get (F.CRSE_PORT_STAT_STATE p) ≠ 0 → f.crcOk = true → ∃ (t b : State),
      onlyStores [(F.CRSE_PORT_FRAMES_COUNT p, (s.get (F.CRSE_PORT_FRAMES_COUNT p) + 1) % 2 ^ 32)] s t ∧
      b = (if s.get (F.CRSE_PORT_STAT_STATE p) = 1 then (t.setCport p 2 3).ringUpdate else t) ∧
      (f.course.val = b.courseNo → b.flag F.CRSE_CTRL_TWIN_EN = false ∨ o = b.origin → ∃ u,
        exec (.courseFrameReceived p f) s = .next u ∧ onlyStores [(F.CRSE_STATUS_CONFLICT, 1)] b u) ∧
      (f.course.val ≠ b.courseNo ∨ (b.flag F.CRSE_CTRL_TWIN_EN = true ∧ o ≠ b.origin) → ∃ (c : State),
        onlyStores (if f.course.val = b.courseNo then [(F.CRSE_TWIN_PARTNER_SEEN, 1)] else []) (b.hear p f o) c ∧
        exec (.courseFrameReceived p f) s = .next (
          if c.course.taken.contains (o, f.mt.toNat) then c
          else if f.hops = 0 then c.takeFrame f o
          else (c.takeFrame f o).setCourse { (c.takeFrame f o).course with
            forward := (c.takeFrame f o).course.forward ++ [(1 - p.val, { f with hops := f.hops - 1 })] })))) ∧
  (∀ (s : State) (p lane : Fin 2) (left : Nat), s.cascade = true → s.running = true →
    left = (s.get (F.CRSE_PORT_STAT_LANES p) &&& (3 - 2 ^ lane.val)) →
    exec (.coursePortDown p) s = .next (
      if 1 ≤ s.get (F.CRSE_PORT_STAT_STATE p) ∧ s.get (F.CRSE_PORT_STAT_STATE p) ≤ 3 then s.cportDown p else s) ∧
    exec (.coursePortUp p) s = .next (if s.get (F.CRSE_PORT_STAT_STATE p) = 4 then
      (s.setCport p 2 3).ringUpdate.sendTopo.measureRing else s) ∧
    exec (.courseLaneAlignmentLoss p lane) s = .next (
      if s.get (F.CRSE_PORT_STAT_STATE p) = 2 ∧ left ≠ 0 then s.setCport p 3 left
      else if (s.get (F.CRSE_PORT_STAT_STATE p) = 2 ∨ s.get (F.CRSE_PORT_STAT_STATE p) = 3) ∧ left = 0 then s.cportDown p
      else s)) ∧
  (∀ (s : State) (p : Nat) (st lanes : Nat), p < 2 → st < 16 → lanes < 4 → s.get (F.CRSE_PORT_STAT_STATE p) ≠ st → ∃ t,
    s.setCport p st lanes = t.post 0x1001 p [w32 st] ∧
    onlyStores [(F.CRSE_PORT_STAT_STATE p, st), (F.CRSE_PORT_STAT_LANES p, lanes)] s t) ∧
  (∀ (s : State) (new : Nat), new = s.ringNow → ∃ t,
    if (new = 3 ∧ s.get F.CRSE_STATUS_RING = 2) ∨ (new = 4 ∧ (s.get F.CRSE_STATUS_RING = 2 ∨ s.get F.CRSE_STATUS_RING = 3)) then
      s.ringUpdate = t.post 0x1002 0xFFFF [w32 new] ∧ onlyStores [(F.CRSE_STATUS_RING, new), (F.CRSE_STATUS_WRAP_EVT, 1)] s t
    else s.ringUpdate = t ∧ onlyStores [(F.CRSE_STATUS_RING, new)] s t) ∧
  (∀ (s b : State) (h : MsgHead) (o : Nat), o = h.course.val + 8 * b2n h.roleB →
    b = s.setCourse { s.course with seen := ((o, h.seq.toNat) :: s.course.seen).take 512 } →
    (s.cascade = false ∨ s.running = false ∨ o = s.origin ∨ (o, h.seq.toNat) ∈ s.course.seen → ∀ f, s.message h f = s) ∧
    (s.cascade = true → s.running = true → o ≠ s.origin → (o, h.seq.toNat) ∉ s.course.seen → ∀ f, s.message h f = f b)) ∧
  (∀ (s b : State) (h : MsgHead) (o : Nat) (key led : Bool), o = h.course.val + 8 * b2n h.roleB →
    s.cascade = true → s.running = true → o ≠ s.origin → (o, h.seq.toNat) ∉ s.course.seen →
    b = s.setCourse { s.course with seen := ((o, h.seq.toNat) :: s.course.seen).take 512 } →
    key = (!s.flag F.CRSE_STATUS_IS_KEYSTONE && decide (s.get F.CRSE_STATUS_KEY_COURSE = h.course.val)) →
    led = (key || (s.flag F.CRSE_STATUS_IS_KEYSTONE && s.standby && decide (h.course.val = s.courseNo))) →
    (∀ ps va tw ea we, b.peer? o = none → exec (.courseMsgStatus h ps va tw ea we) s = .next b) ∧
    (∀ ps va tw ea we p, b.peer? o = some p → ps < 16 → va < 256 → ∃ t : State,
      exec (.courseMsgStatus h ps va tw ea we) s = .next t.measureRing ∧
      onlyStores ((if p.east = some 1 then [(F.CRSE_PORT_HOP_HOP_NS 0, we % 2 ^ 32)] else []) ++
          (if p.west = some 1 then [(F.CRSE_PORT_HOP_HOP_NS 1, ea % 2 ^ 32)] else []) ++
          [(F.CRSE_COURSE_STAT_VARIANT h.course, va)] ++
          (if tw ≤ 1 then [(F.CRSE_COURSE_STAT_PSTATE h.course, ps)] else []))
        (b.setPeer { p with hopEast := ea, hopWest := we, twin := tw }) t) ∧
    (∀ dn rg, exec (.courseMsgTopo h dn rg) s = .next (match b.peer? o with
      | none => b
      | some p => (b.setPeer { p with down := dn }).ringUpdate.measureRing)) ∧
    (∀ ch, exec (.courseMsgTime h ch) s = .next (if led then b.timeChange ch else b)) ∧
    (∀ mt, exec (.courseMsgSquall h (.stop mt)) s = .next (if led then b.squallRelease (max mt.toNat b.soonest) 0 else b)) ∧
    (∀ blk, led = false → exec (.courseMsgSquall h (.start blk)) s = .next (
      if s.flag F.CRSE_STATUS_IS_KEYSTONE then b.squallTrigger 3 0 else b)) ∧
    (∀ blk, led = true → (b.squallEnabled 3 = false → exec (.courseMsgSquall h (.start blk)) s = .next b) ∧
      (b.squallEnabled 3 = true → (b.squallHeld = true ∨ b.power = .fault → ∃ t,
        exec (.courseMsgSquall h (.start blk)) s = .next t ∧ onlyStores [(F.DISP_SQUALL_CFG_RETRIG,
          min (2 ^ F.DISP_SQUALL_CFG_RETRIG.width - 1) (s.get F.DISP_SQUALL_CFG_RETRIG + 1))] b t) ∧
        (b.squallHeld = false → b.power ≠ .fault → exec (.courseMsgSquall h (.start blk)) s = .next (
          (if b.power = .idle then b.runFrom (b.startOf (max blk (b.commit + 2))) else b).squallInsert 3 0
            (max blk (b.commit + 2)))))) ∧
    (∀ hd sb site ds, exec (.courseMsgSiteJob h hd sb site ds) s = .next (
      if key = false ∨ (b.siteGroup site).isNone = true then b
      else if b.power ≠ .run then b.courseSend 0xA [hd, w32 b.courseNo, 0x0B]
      else b.siteInsert hd (max sb (b.commit + 2)) site (descrOf ds))) ∧
    (∀ hd rel mt, (key = false ∨ b.sitePart hd = none → exec (.courseMsgSiteCmd h hd rel mt) s = .next b) ∧
      (∀ j, key = true → b.sitePart hd = some j → exec (.courseMsgSiteCmd h hd rel mt) s = .next (
        if rel then b.releaseJob j (max mt.toNat b.soonest)
        else if j.state = .pending ∨ j.state = .ready then b.finish j .aborted 2 b.time.mt
        else { b with
          timed := b.timed ++ [⟨max mt.toNat b.soonest, b.order, 0x0402, [j.handle], 0, 0, 0, false⟩], order := b.order + 1 }))) ∧
    (∀ site gs, exec (.courseMsgGroupMap h site gs) s = .next (if key then b.mapSite site gs else b)) ∧
    (∀ sq (sm : W64), exec (.courseMsgStrike h sq sm) s = .next (
      if (s.get F.STRK_CTRL_EN).testBit 4 = false then b
      else b.strikeAdd ⟨max sm.toNat (s.time.mt + 1), 0, 16, h.course, sq, true, decide (sm.toNat ≤ s.time.mt)⟩)) ∧
    (∀ hd rs, exec (.courseMsgPartDone h hd rs) s = .next (
      if s.flag F.CRSE_STATUS_IS_KEYSTONE then b.partDone hd h.course rs none else b)) ∧
    (∀ m br, exec (.courseMsgMigrate h m br) s = .next (if b.fromPartner h then b.excludeTwin br m else b)) ∧
    (∀ (blk : W32) (sg : List W32), exec (.courseMsgSig h blk sg) s = .next (
      if b.fromPartner h = true ∧ b.get F.CRSE_TWIN_STATE ≠ 5 then
        (b.setCourse { b.course with partnerSigs := (kput b.course.partnerSigs blk.toNat sg).filter fun p =>
          p.1 ≤ blk.toNat + 16 ∧ blk.toNat ≤ p.1 + 16 }).compareAll
      else b))) ∧
  (∀ (s : State) (h : MsgHead), s.cascade = false ∨ s.running = false ∨ h.course.val + 8 * b2n h.roleB = s.origin ∨
      (h.course.val + 8 * b2n h.roleB, h.seq.toNat) ∈ s.course.seen →
    ∀ ps va tw ea we dn rg ch sq hd sb site ds rel mt gs st sm rs m br blk sg,
      ∀ c ∈ [Instr.courseMsgStatus h ps va tw ea we, .courseMsgTopo h dn rg, .courseMsgTime h ch, .courseMsgSquall h sq,
        .courseMsgSiteJob h hd sb site ds, .courseMsgSiteCmd h hd rel mt, .courseMsgGroupMap h site gs, .courseMsgStrike h st sm,
        .courseMsgPartDone h hd rs, .courseMsgMigrate h m br, .courseMsgSig h blk sg], exec c s = .next s) ∧
  (∀ (s : State) (k : Nat), s.cascade = true → s.running = true → k = s.get F.CRSE_STATUS_KEY_COURSE →
    (s.flag F.CRSE_STATUS_IS_KEYSTONE = true → exec .keystoneLost s = .next s) ∧
    (s.flag F.CRSE_STATUS_IS_KEYSTONE = false → ∃ t b,
      onlyStores [(F.CRSE_COURSE_STAT_LIVE k, 0), (F.CRSE_STATUS_LIVE, s.get F.CRSE_STATUS_LIVE &&& (255 - 2 ^ k))]
        (s.setCourse { s.course with keyLost := true, peers := s.course.peers.filter fun p => p.origin % 8 ≠ k }) t ∧
      b = t.refLose 0 false ∧
      (b.standby = true ∨ (∃ p ∈ b.course.peers, p.origin % 8 < b.courseNo) → exec .keystoneLost s = .next b) ∧
      (b.standby = false → (∀ p ∈ b.course.peers, b.courseNo ≤ p.origin % 8) → ∃ u,
        exec .keystoneLost s = .next (u.post 0x1003 b.courseNo [1]) ∧
        onlyStores [(F.CRSE_STATUS_PROMOTED, 1), (F.CRSE_STATUS_IS_KEYSTONE, 1), (F.CRSE_STATUS_KEY_COURSE, b.courseNo)]
          (b.setCourse { b.course with keyLost := false }) u))) ∧
  (∀ (s b : State) (failed : Bool) (first : Nat), b = s.setCourse { s.course with mismatchBlock := none } →
    first = s.course.mismatchBlock.getD 0 →
    (s.get F.CRSE_TWIN_STATE ≠ 4 ∨ s.running = false → exec (.twinCheckDone failed) s = .next s) ∧
    (s.get F.CRSE_TWIN_STATE = 4 → s.running = true →
      (failed = true → ∃ t, onlyStores [(F.CRSE_TWIN_STATE, 5)] b t ∧
        exec (.twinCheckDone failed) s = .next (t.raiseWith Mech.twin 0xFFFF (w32 first) 0 0 2 false)) ∧
      (failed = false → (∃ p ∈ s.course.peers, p.origin % 8 = s.courseNo ∧ p.fault = true) → ∃ t,
        exec (.twinCheckDone failed) s = .next t ∧ onlyStores [(F.CRSE_TWIN_STATE, if s.course.active then 1 else 2)] b t) ∧
      (failed = false → (∀ p ∈ s.course.peers, p.origin % 8 = s.courseNo → p.fault = false) → ∃ t,
        exec (.twinCheckDone failed) s = .next (t.post 0x1005 s.courseNo [w32 first]) ∧
        onlyStores [(F.CRSE_TWIN_STATE, if s.course.active then 1 else 3), (F.CRSE_TWIN_DIVERGED, 1),
          (F.CRSE_TWIN_CNT_DIVERGE_CNT, min 65535 (s.get F.CRSE_TWIN_CNT_DIVERGE_CNT + 1))] b t))) ∧
  (∀ s : State,
    (s.standby = false ∨ s.cascade = false ∨ s.power = .fault ∨ s.running = false → exec .twinTakeoverStart s = .next s) ∧
    (s.standby = true → s.cascade = true → s.power ≠ .fault → s.running = true → ∃ t u : State,
      onlyStores [(F.CRSE_TWIN_STATE, 1)] (s.setCourse { s.course with
        active := true, rampFrom := some (s.startOf (s.blockNow + 1)), mismatchBlock := none }) t ∧
      u = (if s.power = .run then t.outputsLive else t) ∧
      exec .twinTakeoverStart s =
        .next (u.postAt 0x1006 u.courseNo (u.startOf (s.blockNow + 1)) [w32 (s.blockNow + 1)])))

/-- STREAM_TRAINING_DONE, STREAM_LANE_FAIL, STREAM_CLOCK_ABSENT, STREAM_FLIT_RECEIVED and the two STREAM_AUDIO_FRAME rows (R284,
R308, R321–R329). The lane that a degraded training names and a failed retrain's result are free values (DESIGN CHOICE,
notes/assumptions/162.md). -/
def Obligations.StreamPort : Prop :=
  (∀ (s : State) (result : Nat) (lanes : Byte) (us : Nat) (grants : List Nat),
    s.get F.STRM_STATUS_STATE ≠ 1 ∨ 5 < result ∨ (result = 0 ∧ lanes ≠ 0xFF ∧ lanes ≠ 0x0F ∧ lanes ≠ 0xF0) →
    exec (.streamTrainingDone result lanes us grants) s = .next s) ∧
  (∀ (s : State) (result : Nat) (lanes : Byte) (us : Nat) (grants : List Nat), s.get F.STRM_STATUS_STATE = 1 → result ≤ 5 →
    (result = 0 → lanes = 0xFF ∨ lanes = 0x0F ∨ lanes = 0xF0) →
    ∃ t u, onlyStores [(F.STRM_TRAIN_RESULT, result), (F.STRM_TRAIN_TRAIN_US, min 65535 us)] s t ∧
      u = ((t.setStream { t.stream with grants := grants }).strmOn lanes.toNat).post 0x1101 0xFFFF [0, w32 lanes.toNat] ∧
      exec (.streamTrainingDone result lanes us grants) s = .next (
        if result ≠ 0 then (t.post 0x1101 0xFFFF [w32 result, 0]).strmDown 4
        else if lanes = 0xFF then u
        else u.draw.2.post 0x1102 (u.draw.1 % 4 + if lanes = 0x0F then 4 else 0))) ∧
  (∀ (s : State) (lanes : Nat), lanes < 256 → onlyStores
    ([(F.STRM_STATUS_LANES, lanes), (F.STRM_STATUS_FAILED, 255 - lanes), (F.STRM_STATUS_STATE, if lanes = 255 then 2 else 3)] ++
      (if lanes = 255 then [] else [(F.STRM_STATUS_DEGRADE_EVT, 1)]) ++
      ((List.range 8).flatMap fun l => [(F.STRM_LANE_RX_IN_USE l, b2n (lanes.testBit l)),
        (F.STRM_LANE_RX_FAILED l, b2n ((255 - lanes).testBit l)), (F.STRM_LANE_TX_IN_USE l, b2n (lanes.testBit l))]) ++
      (List.range 4).map fun v => (F.STRM_VC_CREDIT_TX_AVAIL v, min 255 (s.stream.grants.getD v 0))) s (s.strmOn lanes)) ∧
  (∀ (s : State) (cause : Nat), ∃ t,
    onlyStores ([(F.STRM_STATUS_STATE, 4), (F.STRM_STATUS_LANES, 0), (F.STRM_STATUS_DOWN_EVT, 1)] ++
        (List.range 4).map fun v => (⟨R.STRM_VC_CREDIT v, 0, 32⟩, 0))
      (s.setStream { s.stream with vc2 := [], vc2Open := false, vc2Bad := false, crcRun := 0 }) t ∧
    s.strmDown cause = (t.post 0x1103 0xFFFF [w32 cause]).failType 1 (fun _ => true) 1) ∧
  (∀ (s : State) (lane : Fin 8) (trained : Bool),
    (s.strmUp = false ∨ (s.get F.STRM_STATUS_LANES).testBit lane = false → exec (.streamLaneFail lane trained) s = .next s) ∧
    (s.strmUp = true → (s.get F.STRM_STATUS_LANES).testBit lane = true →
      (s.get F.STRM_STATUS_STATE = 3 ∨ s.flag F.STRM_CTRL_AUTO_RETRAIN = false →
        ∃ t, exec (.streamLaneFail lane trained) s = .next (t.strmDown 3) ∧
          onlyStores [(F.STRM_LANE_RX_FAILED lane, 1), (F.STRM_STATUS_FAILED, s.get F.STRM_STATUS_FAILED ||| 2 ^ lane.val)] s t) ∧
      (s.get F.STRM_STATUS_STATE = 2 → s.flag F.STRM_CTRL_AUTO_RETRAIN = true →
        ∃ t : State, t.get F.STRM_TRAIN_RETRAIN_CNT = min 255 (s.get F.STRM_TRAIN_RETRAIN_CNT + 1) ∧
          (trained = false → exec (.streamLaneFail lane trained) s = .next (t.strmDown 4) ∧
            1 ≤ t.get F.STRM_TRAIN_RESULT ∧ t.get F.STRM_TRAIN_RESULT ≤ 5) ∧
          (trained = true → exec (.streamLaneFail lane trained) s = .next (t.post 0x1102 lane) ∧
            t.get F.STRM_TRAIN_RESULT = 0 ∧ t.get F.STRM_STATUS_STATE = 3 ∧ t.flag F.STRM_STATUS_DEGRADE_EVT = true ∧
            t.get F.STRM_STATUS_LANES = (if lane.val < 4 then 0xF0 else 0x0F) ∧
            t.get F.STRM_STATUS_FAILED = s.get F.STRM_STATUS_FAILED ||| 2 ^ lane.val)))) ∧
  (∀ s : State, ∃ t, onlyStores [(F.STRM_TRAIN_RESULT, 1)] s t ∧
    exec .streamClockAbsent s = .next (
      if s.get F.STRM_STATUS_STATE = 1 then (t.post 0x1101 0xFFFF [1, 0]).strmDown 1
      else if s.get F.STRM_STATUS_STATE = 2 ∨ s.get F.STRM_STATUS_STATE = 3 then s.strmDown 1 else s)) ∧
  (∀ (s : State) (mt : W64) (n len b : Nat) (words : List W32), b = s.blockOf mt.toNat →
    (s.strmUp = false ∨ s.running = false → exec (.streamAudioFrameRx mt n len words) s = .next s) ∧
    (s.strmUp = true → s.running = true →
      (b ≤ s.commit ∨ s.commit + 16 < b → ∃ t, exec (.streamAudioFrameRx mt n len words) s = .next t ∧
        onlyStores [(F.STRM_RX_FRAME_COUNT, (s.get F.STRM_RX_FRAME_COUNT + 1) % 2 ^ 32),
          (F.STRM_AUDIO_LATE_CNT, min 65535 (s.get F.STRM_AUDIO_LATE_CNT + 1))] s t) ∧
      (s.commit < b → b ≤ s.commit + 16 → ∃ t,
        onlyStores [(F.STRM_RX_FRAME_COUNT, (s.get F.STRM_RX_FRAME_COUNT + 1) % 2 ^ 32)] s t ∧
        exec (.streamAudioFrameRx mt n len words) s = .next (
          forEach (List.range (min (min n (s.get F.STRM_MAP_N_IN)) s.strmLimit)) t fun c s =>
            s.placeInput (8192 + c) 2 mt.toNat ((List.range len).map fun i => wordSample (words.getD (i * n + c) 0)))))) ∧
  (∀ (s : State) (n flits avail : Nat) (rows : List (List Sample)), n = min (s.get F.STRM_MAP_N_OUT) s.strmLimit →
    flits = 1 + (s.bl * n + 3) / 4 → avail = s.get (F.STRM_VC_CREDIT_TX_AVAIL 0) →
    rows = (List.range n).map (fun c =>
      ((s.stream.outs.find? fun a => a.chan = c ∧ a.block = s.blockNow).map Audio.samples).getD []) →
    (s.strmUp = false ∨ s.running = false ∨ n = 0 → exec .streamAudioFrameTx s = .next s) ∧
    (s.strmUp = true → s.running = true → 0 < n →
      (avail < min flits (s.stream.grants.getD 0 0) ∨ avail = 0 → ∃ t, exec .streamAudioFrameTx s = .next t ∧
        onlyStores [(F.STRM_AUDIO_DROP_CNT, min 65535 (s.get F.STRM_AUDIO_DROP_CNT + 1))] s t) ∧
      (min flits (s.stream.grants.getD 0 0) ≤ avail → 0 < avail → ∃ t, exec .streamAudioFrameTx s = .next t ∧
        onlyStores [(F.STRM_VC_CREDIT_TX_AVAIL 0, avail - min flits avail),
            (F.STRM_VC_TXCNT_COUNT 0, (s.get (F.STRM_VC_TXCNT_COUNT 0) + flits) % 2 ^ 32),
            (F.STRM_TX_FRAME_COUNT, (s.get F.STRM_TX_FRAME_COUNT + 1) % 2 ^ 32)]
          (s.setStream { s.stream with
            sent := [lo32 (s.startOf s.blockNow), hi32 (s.startOf s.blockNow), w32 (n + s.bl * 65536), 0] ++
              (List.range s.bl).flatMap fun i => rows.map fun r => sampleWord (r.getD i 0) }) t))) ∧
  (∀ (s : State) (payload : List Byte) (c : BitVec 16) (crcOk som eom : Bool) (vc cv ty : Nat),
    vc = c.toNat / 2 ^ 14 → som = c.toNat.testBit 13 → eom = c.toNat.testBit 12 → cv = c.toNat / 2 ^ 10 % 4 → ty = c.toNat % 16 →
    (s.strmUp = false → exec (.streamFlitReceived payload c crcOk) s = .next s) ∧
    (s.strmUp = true →
      (crcOk = false → exec (.streamFlitReceived payload c crcOk) s = .next (s.badFlit payload vc ty som eom)) ∧
      (crcOk = true → 3 ≤ ty → ∃ t, exec (.streamFlitReceived payload c crcOk) s = .next t ∧
        onlyStores [(F.STRM_ERR_DISCARD_CNT, min 65535 (s.get F.STRM_ERR_DISCARD_CNT + 1))] s t) ∧
      (crcOk = true → ty = 2 → exec (.streamFlitReceived payload c crcOk) s = .next s) ∧
      (crcOk = true → ty < 2 → ∃ (t : State) (credit : Nat),
        credit = min (min 255 (max (s.stream.grants.getD cv 0) (s.get (F.STRM_VC_CREDIT_TX_AVAIL cv))))
          (s.get (F.STRM_VC_CREDIT_TX_AVAIL cv) + c.toNat / 2 ^ 4 % 64) ∧
        onlyStores ([(F.STRM_VC_CREDIT_TX_AVAIL cv, credit)] ++
          (if ty = 0 then [(F.STRM_VC_RXCNT_COUNT vc, (s.get (F.STRM_VC_RXCNT_COUNT vc) + 1) % 2 ^ 32)] else []) ++
          (if ty = 0 ∧ vc = 2 then
            [(F.STRM_VC_CREDIT_RX_OWED 2, min 255 (s.get (F.STRM_VC_CREDIT_RX_OWED 2) + 1))] else [])) s t ∧
        exec (.streamFlitReceived payload c crcOk) s = .next (
          if ty = 0 ∧ vc = 1 then t.vc1Flit payload eom true
          else if ty = 0 ∧ vc = 2 then (t.vc2Flit payload som eom true).returnCredits else t)))) ∧
  (∀ (s : State) (payload : List Byte) (vc ty : Nat) (som eom : Bool) (lanes : List Nat),
    lanes = (if ty = 1 then badLanes payload else []) →
    ∃ t b c, onlyStores [(F.STRM_ERR_CRC_CNT, min 65535 (s.get F.STRM_ERR_CRC_CNT + 1)), (F.STRM_STATUS_CRC_EVT, 1)]
        (s.setStream { s.stream with crcRun := s.stream.crcRun + 1 }) t ∧
      b = forEach lanes (t.raise Mech.link 2 0 0 0) (fun l s => s.bumpSat (F.STRM_LANE_RX_ERR_CNT l)) ∧
      c = (if ty = 0 ∧ vc = 1 then b.vc1Flit payload eom false
        else if ty = 0 ∧ vc = 2 then (b.owe2.vc2Flit payload som eom false).returnCredits else b) ∧
      onlyStores [(F.STRM_VC_CREDIT_RX_OWED 2, min 255 (b.get (F.STRM_VC_CREDIT_RX_OWED 2) + 1))] b b.owe2 ∧
      s.badFlit payload vc ty som eom = if 64 ≤ c.stream.crcRun ∧ lanes = [] then c.strmDown 2 else c) ∧
  (∀ (s : State) (payload : List Byte) (som eom ok : Bool) (b : State) (x : StreamSt),
    (som = true → ok = false → ∃ t, s.vc2Flit payload som eom ok = t ∧
      onlyStores [(F.KCP_VC2_DROP_CNT, min (2 ^ F.KCP_VC2_DROP_CNT.width - 1) (s.get F.KCP_VC2_DROP_CNT + 1))]
        (s.setStream { s.stream with vc2 := [], vc2Open := false, vc2Bad := false }) t) ∧
    (som = false → s.stream.vc2Open = false → s.vc2Flit payload som eom ok = s) ∧
    ((som = true ∧ ok = true ∧ x = { s.stream with vc2 := payload, vc2Open := true, vc2Bad := false }) ∨
        (som = false ∧ s.stream.vc2Open = true ∧
          x = { s.stream with vc2 := s.stream.vc2 ++ payload, vc2Bad := s.stream.vc2Bad || !ok }) →
      b = s.setStream x → s.vc2Flit payload som eom ok = if eom then b.vc2Done else b)) ∧
  (∀ s : State, (bits ((wordsOfBytes s.stream.vc2).getD 0 0) 16 16 = 0x1480 →
    s.vc2Done = s.setStream { s.stream with vc2 := [], vc2Open := false, vc2Bad := false }) ∧
    (bits ((wordsOfBytes s.stream.vc2).getD 0 0) 16 16 ≠ 0x1480 → ∃ t,
      onlyStores [(F.KCP_VC2_INFLIGHT, min 8 (s.get F.KCP_VC2_INFLIGHT + 1))]
        { s with
          stream := { s.stream with vc2 := [], vc2Open := false, vc2Bad := false },
          host := { s.host with rung := s.host.rung ++ [(4, (crc16 s.stream.vc2).toNat, true)] } } t ∧
      s.vc2Done = t.screenOpcode 4 (!s.stream.vc2Bad) (wordsOfBytes s.stream.vc2)))

/-- SAFETY_DETECTION, FAULT_LOG_WRITE, SAFE_ALIVE_TOGGLE, INJECTED_FAULT_HOLD_EXPIRY, STRIKE_IN_EDGE, STRIKE_LATCH and
STRIKE_COMPLETE (R302, R411–R423, R427, R502–R507). When a Strike takes its number is the model's choice (DESIGN CHOICE,
notes/assumptions/16.md), and so is the limit of one record per code and instance in a second (DEDUCED, notes/assumptions/41.md). -/
def Obligations.SafetyAndStrikes : Prop :=
  (∀ (s b c d : State) (code : Fin 24) (inst r : Nat) (loc e o : W32), (r, b) = s.baseReact code (inst % 65536) →
    c = (if code.val = 4 ∧ r = 0 then b.ckptLost (inst % 65536) loc.toNat else b) → d = (if code.val = 7 then c.tapLost else c) →
    exec (.safetyDetection code inst loc e o) s = .next (
      if s.power = .off ∨ s.power = .reset then s
      else d.raiseWith code (inst % 65536) loc e o (d.escalated code r) false)) ∧
  (∀ (s : State) (code react : Nat),
    (s.flag (F.SAFE_MECH_CFG_ESCALATE code) = true → react ≤ 1 → s.escalated code react = 2) ∧
    (s.flag (F.SAFE_MECH_CFG_ESCALATE code) = false ∨ 2 ≤ react → s.escalated code react = react)) ∧
  (∀ (s : State) (code inst react : Nat) (loc e o : W32) (inj : Bool), code < 24 → code ≠ 8 → ∃ t,
    onlyStores [(F.SAFE_MECH_STAT_LATCHED code, 1),
      (F.SAFE_MECH_STAT_ACTIVE code, if s.flag (F.SAFE_MECH_STAT_ACTIVE code) = true ∨
        (inj = true ∧ 0x11 ≤ code ∧ code ≤ 0x14) ∨ (inj = false ∧ s.persists code = true) then 1 else 0),
      (F.SAFE_MECH_STAT_COUNT code, min 65535 (s.get (F.SAFE_MECH_STAT_COUNT code) + 1))] s t ∧
    s.raiseWith code inst loc e o react inj = (t.bufferRecord code inst react inj loc e o).reactTo code inst react) ∧
  (∀ (s : State) (code inst react : Nat) (loc e o : W32) (inj : Bool),
    ((code, inst) ∈ s.safe.thisSecond → ∃ l, s.bufferRecord code inst react inj loc e o =
      { s with safe := { s.safe with repeats := l } }) ∧
    ((code, inst) ∉ s.safe.thisSecond → code < 256 → inst < 65536 → react < 4 → ∃ (t : State) (n : Nat) (r : FaultRec)
        (l : List (Nat × Nat × Nat)),
      r = s.faultRecord code inst react inj n loc e o ∧
      onlyStores [(F.SAFE_FAULT_CNT_COUNT, (s.get F.SAFE_FAULT_CNT_COUNT + 1) % 2 ^ 32), (F.SAFE_LAST_INSTANCE, inst),
          (F.SAFE_LAST_REACT, react), (F.SAFE_LAST_CODE, code), (F.SAFE_LAST_MT_LO_MT_LO, s.time.mt % 2 ^ 32),
          (F.SAFE_LAST_MT_HI_MT_HI, s.time.mt / 2 ^ 32 % 2 ^ 32)]
        { s with safe := { s.safe with
          buffer := if s.safe.buffer.length < 8 then s.safe.buffer ++ [r] else s.safe.buffer, repeats := l,
          thisSecond := (code, inst) :: s.safe.thisSecond, sincePor := s.safe.sincePor + 1 } } t ∧
      s.bufferRecord code inst react inj loc e o = t)) ∧
  (∀ (s : State) (code inst react : Nat),
    (s.power = .lull → s.reactTo code inst react =
      { s with safe := { s.safe with lullFaults := s.safe.lullFaults ++ [(code, inst)] } }) ∧
    (s.power = .off ∨ s.power = .reset → s.reactTo code inst react = s) ∧
    (s.power = .idle ∨ s.power = .run → react = 0 → s.reactTo code inst react = s) ∧
    (s.power = .idle ∨ s.power = .run → react = 2 → s.reactTo code inst react = s.enterFault code ∧
      (s.enterFault code).power = .fault ∧ (s.enterFault code).safe.muteCode = some code) ∧
    (s.power = .boot ∨ s.power = .fault → react = 3 → ∃ t,
      onlyStores [(F.SAFE_ALIVE_STAT_FROZEN, 1), (F.SAFE_STATUS_ALIVE_RUN, 0)]
        { s with safe := { s.safe with resetDue := some (s.safe.resetDue.getD code) } } t ∧ s.reactTo code inst react = t)) ∧
  (∀ s : State, exec .faultLogWrite s = .next (if s.running = true ∧ s.safe.resetDue = none then s.logOne else s)) ∧
  (∀ s : State, (s.safe.buffer = [] → s.logOne = s) ∧
    (∀ (r : FaultRec) (rest : List FaultRec) (b c : State), s.safe.buffer = r :: rest →
      b = State.logRecord { s with safe := { s.safe with buffer := rest } } r →
      c = b.post 0x0C02 (bits (r.getD 0 0) 16 16) [r.getD 0 0] →
      s.logOne = if bits (r.getD 0 0) 10 2 = 3 then c else c.strikeTrigger 1 (c.time.mt + 1))) ∧
  (∀ (s : State) (r : FaultRec), (∃ k, k < 4096 ∧ k ∉ s.safe.prot) → ∃ i, i < 4096 ∧ i ∉ s.safe.prot ∧
    (s.logRecord r).safe.log = kput s.safe.log i r ∧ (s.logRecord r).safe.nextIndex = (i + 1) % 4096 ∧
    (s.logRecord r).safe.prot = (if bit (r.getD 0 0) 8 then s.safe.prot ++ [i] else s.safe.prot) ∧
    (s.logRecord r).get F.SAFE_LOG_NEWEST = i ∧ (s.logRecord r).flag F.SAFE_LOG_EMPTY = false) ∧
  (∀ (s : State) (beat : Bool) (ok : Bool),
    ok = (!s.flag (F.SAFE_MECH_STAT_LATCHED 0) && !s.flag (F.SAFE_MECH_STAT_LATCHED 1) && !(s.get F.SAFE_CLKMON_FAILED).testBit 1) →
    (s.power ≠ .idle → s.power ≠ .run → s.power ≠ .lull → exec (.safeAliveToggle beat) s = .next s) ∧
    (s.power = .lull ∨ (s.power = .idle ∨ s.power = .run) ∧ beat = true → ok = true →
      ∃ t, exec (.safeAliveToggle beat) s = .next t ∧
        onlyStores [(F.SAFE_ALIVE_STAT_FROZEN, 0), (F.SAFE_STATUS_ALIVE_RUN, 1),
            (F.SAFE_ALIVE_STAT_HALF_PERIODS, (s.get F.SAFE_ALIVE_STAT_HALF_PERIODS + 1) % 65536)]
          { s with safe := { s.safe with alive := !s.safe.alive } } t) ∧
    ((s.power = .idle ∨ s.power = .run) ∧ (beat = false ∨ ok = false) ∨ s.power = .lull ∧ ok = false → ∃ t, exec (.safeAliveToggle beat) s = .next t ∧
      onlyStores [(F.SAFE_ALIVE_STAT_FROZEN, 1), (F.SAFE_STATUS_ALIVE_RUN, 0)] s t)) ∧
  (∀ (s b : State) (code : Fin 24),
    b = { s with safe := { s.safe with injectHold := s.safe.injectHold.filter fun c => c ≠ code.val } } →
    (code.val ∉ s.safe.injectHold → exec (.injectedFaultHoldExpiry code) s = .next s) ∧
    (code.val ∈ s.safe.injectHold → b.conditionHolds code = true → exec (.injectedFaultHoldExpiry code) s = .next b) ∧
    (code.val ∈ s.safe.injectHold → b.conditionHolds code = false → ∃ t, exec (.injectedFaultHoldExpiry code) s = .next t ∧
      onlyStores [(F.SAFE_MECH_STAT_ACTIVE code, 0)] b t)) ∧
  (∀ (s : State) (low : Nat),
    (low < 100 ∨ s.running = false → ∃ t, exec (.strikeInEdge low) s = .next t ∧ onlyStores [(F.STRK_IN_LEVEL, 1)] s t) ∧
    (100 ≤ low → s.running = true → ∃ t, exec (.strikeInEdge low) s = .next (t.strikeTrigger 0 (s.time.mt + 1)) ∧
      onlyStores [(F.STRK_IN_LEVEL, 1), (F.STRK_IN_EDGES, (s.get F.STRK_IN_EDGES + 1) % 65536)] s t)) ∧
  (∀ (s : State) (src mt : Nat),
    (s.running = false ∨ src ≠ 5 ∧ (s.get F.STRK_CTRL_EN).testBit src = false → s.strikeTrigger src mt = s) ∧
    (s.running = true → src = 5 ∨ (s.get F.STRK_CTRL_EN).testBit src = true →
      s.cascade = false ∨ (s.get F.STRK_CTRL_EN).testBit 4 = false →
      (∀ q, s.strike.pend.find? (fun q => q.mt = mt) = some q → ∃ t, s.strikeTrigger src mt = t ∧
        onlyStores [(F.STRK_COUNT_MERGED, min 65535 (s.get F.STRK_COUNT_MERGED + 1))]
          { s with strike := { s.strike with pend := s.strike.pend.map fun x =>
            if x.mt = mt then { q with sources := q.sources ||| 2 ^ src } else x } } t) ∧
      (∀ n, s.strike.pend.find? (fun q => q.mt = mt) = none → n = (s.strike.lastSeq + 1) % 65536 →
        s.strikeTrigger src mt = { s with strike := { s.strike with
          lastSeq := n,
          pend := s.strike.pend.filter (fun x => x.mt < mt) ++ ⟨mt, n, 2 ^ src, s.courseNo, n, false, false⟩ ::
            s.strike.pend.filter (fun x => mt < x.mt) } })) ∧
    (∀ at_ n, s.running = true → src = 5 ∨ (s.get F.STRK_CTRL_EN).testBit src = true → s.cascade = true →
      (s.get F.STRK_CTRL_EN).testBit 4 = true → at_ = max mt (s.startOf (s.blockNow + s.pOff + 1)) →
      n = ((s.strike.pend.find? fun q => q.mt = at_).map StrikePend.seq).getD ((s.strike.lastSeq + 1) % 65536) →
      s.strikeTrigger src mt = (s.courseSend 0x8 [w32 n, lo32 at_, hi32 at_]).strikeAdd ⟨at_, n, 2 ^ src, s.courseNo, n, true, false⟩)) ∧
  (∀ s : State, exec .strikeLatch s = .next (match s.strike.pend with
    | [] => s
    | p :: _ => if s.running = true ∧ p.mt < s.time.mt + s.bl then s.latchStrike p else s)) ∧
  (∀ (s : State) (p : StrikePend), ∃ k, (s.latchStrike p).strike.held = (k :: s.strike.held).take 4 ∧
    (s.latchStrike p).strike.pend = s.strike.pend.filter (fun q => q.mt ≠ p.mt) ∧
    (k.seq, k.sources, k.mt, k.originCourse, k.originSeq, k.site, k.late) =
      (p.seq, p.sources, p.mt, p.originCourse, p.originSeq, p.site, p.late) ∧
    k.complete = false ∧ k.commit = s.commit ∧ k.pstate = s.power.code ∧ k.window = s.windowWords ∧
    k.levels = s.disp.voices.map (fun v => (v.src, v.peak, v.rms)) ∧ k.sigs = s.sigsOf (s.commit - 2) ∧
    (s.latchStrike p).get F.STRK_STATUS_SEQ = p.seq % 65536 ∧
    (s.latchStrike p).get F.STRK_TOTAL_COUNT = (s.get F.STRK_TOTAL_COUNT + 1) % 2 ^ 32) ∧
  (∀ (s : State) (part : Bool),
    ((∀ k ∈ s.strike.held, k.complete = true) → exec (.strikeComplete part) s = .next s) ∧
    (∀ (k : Strike) (b : State) (w : List W64), s.strike.held.reverse.find? (fun k => !k.complete) = some k →
      (w, b) = settleWindow part k.window (if s.windowWords = [] then k.window else s.windowWords) s →
      exec (.strikeComplete part) s = .next ((State.strikeShow { b with strike := { b.strike with held := b.strike.held.map fun x =>
        if x.seq = k.seq then { k with complete := true, partialCopy := part, window := w } else x } }).postAt 0x0F01 k.seq k.mt
          [w32 (k.sources % 256)])))
end

