-- ==== Sys2Proof/Laws/Store.lean ====
section
/-! SUPPORT. Sparse stores by key: what a read gives after each operation, and that every operation keeps the canonical form. -/

namespace Sys2Proof.Machine

section
variable {α : Type}

theorem kget_nil (k : Nat) : kget ([] : List (Nat × α)) k = none := rfl

theorem kget_cons (p : Nat × α) (l : List (Nat × α)) (k : Nat) :
    kget (p :: l) k = if p.1 = k then some p.2 else kget l k := by
  unfold kget
  by_cases h : p.1 = k <;> simp [h]

theorem kget_kdel (l : List (Nat × α)) (k j : Nat) :
    kget (kdel l k) j = if j = k then none else kget l j := by
  induction l with
  | nil => simp [kdel, kget]
  | cons p l ih =>
    have e : kdel (p :: l) k = if p.1 = k then kdel l k else p :: kdel l k := by
      by_cases h : p.1 = k <;> simp [kdel, h]
    rw [e, kget_cons]
    by_cases h : p.1 = k
    · rw [if_pos h, ih]
      by_cases hj : j = k
      · simp [hj]
      · rw [if_neg hj, if_neg hj, if_neg fun e => hj (e.symm.trans h)]
    · rw [if_neg h, kget_cons, ih]
      by_cases hj : j = k
      · subst hj; simp [h]
      · simp [hj]

theorem kget_kins (k : Nat) (v : α) (l : List (Nat × α)) (h : kget l k = none) (j : Nat) :
    kget (kins k v l) j = if j = k then some v else kget l j := by
  induction l with
  | nil =>
    rw [kins, kget_cons]
    by_cases hj : j = k
    · simp [hj]
    · simp [hj, Ne.symm hj, kget_nil]
  | cons p l ih =>
    rw [kget_cons] at h
    have hp : p.1 ≠ k := fun e => by simp [e] at h
    rw [if_neg hp] at h
    rw [kins]
    split
    · rw [kget_cons]
      by_cases hj : j = k
      · simp [hj]
      · simp [hj, Ne.symm hj]
    · rw [kget_cons, ih h, kget_cons]
      by_cases hj : j = k
      · subst hj; simp [hp]
      · simp [hj]

/-- A read after setting a key. -/
theorem kget_kput (l : List (Nat × α)) (k j : Nat) (v : α) :
    kget (kput l k v) j = if j = k then some v else kget l j := by
  rw [kput, kget_kins _ _ _ (by rw [kget_kdel]; simp), kget_kdel]
  by_cases hj : j = k <;> simp [hj]

/-- A read, with the value of unlisted keys, after a write to a sparse store. -/
theorem getD_storePut [DecidableEq α] (dflt : Nat → α) (l : List (Nat × α)) (k j : Nat) (v : α) :
    (kget (storePut (dflt k) l k v) j).getD (dflt j) = if j = k then v else (kget l j).getD (dflt j) := by
  unfold storePut
  by_cases hv : v = dflt k
  · rw [if_pos hv, kget_kdel]
    by_cases hj : j = k
    · subst hj; simp [hv]
    · simp [hj]
  · rw [if_neg hv, kget_kput]
    by_cases hj : j = k <;> simp [hj]

end

/-! The canonical form. -/

section
variable {α : Type} [DecidableEq α] {dflt : Nat → α} {l : List (Nat × α)}

theorem storeWf_cons {p : Nat × α} :
    storeWf dflt (p :: l) = true ↔ (∀ q ∈ l, p.1 < q.1) ∧ p.2 ≠ dflt p.1 ∧ storeWf dflt l = true := by
  simp [storeWf, and_assoc]

theorem storeWf_filter (f : Nat × α → Bool) (h : storeWf dflt l = true) : storeWf dflt (l.filter f) = true := by
  induction l with
  | nil => rfl
  | cons p l ih =>
    rw [storeWf_cons] at h
    rw [List.filter_cons]
    split
    · rw [storeWf_cons]
      exact ⟨fun q hq => h.1 q (List.mem_of_mem_filter hq), h.2.1, ih h.2.2⟩
    · exact ih h.2.2

theorem storeWf_kdel (k : Nat) (h : storeWf dflt l = true) : storeWf dflt (kdel l k) = true := storeWf_filter _ h

omit [DecidableEq α] in
theorem mem_kins {k : Nat} {v : α} {q : Nat × α} (h : q ∈ kins k v l) : q = (k, v) ∨ q ∈ l := by
  induction l with
  | nil => simpa [kins] using h
  | cons p l ih =>
    rw [kins] at h
    split at h
    · simpa using h
    · rcases List.mem_cons.1 h with rfl | h
      · exact .inr (List.mem_cons_self ..)
      · rcases ih h with h | h
        · exact .inl h
        · exact .inr (List.mem_cons_of_mem _ h)

theorem storeWf_kins {k : Nat} {v : α} (hk : ∀ q ∈ l, q.1 ≠ k) (hv : v ≠ dflt k) (h : storeWf dflt l = true) :
    storeWf dflt (kins k v l) = true := by
  induction l with
  | nil => simpa [kins, storeWf] using hv
  | cons p l ih =>
    rw [storeWf_cons] at h
    rw [kins]
    split
    · rename_i hlt
      rw [storeWf_cons, storeWf_cons]
      refine ⟨fun q hq => ?_, hv, h.1, h.2.1, h.2.2⟩
      rcases List.mem_cons.1 hq with rfl | hq
      · exact hlt
      · exact Nat.lt_trans hlt (h.1 q hq)
    · rename_i hlt
      have hne := hk p (List.mem_cons_self ..)
      rw [storeWf_cons]
      refine ⟨fun q hq => ?_, h.2.1, ih (fun q hq => hk q (List.mem_cons_of_mem _ hq)) h.2.2⟩
      rcases mem_kins hq with rfl | hq
      · show p.1 < k
        omega
      · exact h.1 q hq

/-- A write keeps the canonical form. -/
theorem storeWf_storePut {k : Nat} {v : α} (h : storeWf dflt l = true) :
    storeWf dflt (storePut (dflt k) l k v) = true := by
  unfold storePut
  split
  · exact storeWf_kdel k h
  · refine storeWf_kins (fun q hq => ?_) ‹_› (storeWf_kdel k h)
    simpa [kdel] using (List.mem_filter.1 hq).2

/-- Changing the values of a store in canonical form, and dropping entries, keeps it canonical when the new values differ from the
unlisted ones. -/
theorem storeWf_filterMap {f : Nat × α → Option (Nat × α)} (hk : ∀ p q, f p = some q → q.1 = p.1 ∧ q.2 ≠ dflt q.1)
    (h : storeWf dflt l = true) : storeWf dflt (l.filterMap f) = true := by
  induction l with
  | nil => rfl
  | cons p l ih =>
    rw [storeWf_cons] at h
    rw [List.filterMap_cons]
    split
    · exact ih h.2.2
    · rename_i q hq
      rw [storeWf_cons]
      refine ⟨fun x hx => ?_, (hk p q hq).2, ih h.2.2⟩
      obtain ⟨y, hy, e⟩ := List.mem_filterMap.1 hx
      rw [(hk p q hq).1, (hk y x e).1]
      exact h.1 y hy

theorem storeWf_append {l' : List (Nat × α)} (h : storeWf dflt l = true) (h' : storeWf dflt l' = true)
    (hlt : ∀ p ∈ l, ∀ q ∈ l', p.1 < q.1) : storeWf dflt (l ++ l') = true := by
  induction l with
  | nil => exact h'
  | cons p l ih =>
    rw [storeWf_cons] at h
    rw [List.cons_append, storeWf_cons]
    refine ⟨fun q hq => ?_, h.2.1, ih h.2.2 fun a ha => hlt a (List.mem_cons_of_mem _ ha)⟩
    rcases List.mem_append.1 hq with hq | hq
    · exact h.1 q hq
    · exact hlt p (List.mem_cons_self ..) q hq

end

end Sys2Proof.Machine
end

