-- ==== Sys2Proof/Laws/Registers.lean ====
section
/-! SUPPORT. Reading a register or a field after a write: bit fields of a word, one word after another is stored, one field after
another is stored. -/

namespace Sys2Proof

theorem setBits_getLsbD (w : W32) (lo n v i : Nat) (hi : i < 32) :
    (setBits w lo n v).getLsbD i = if lo ≤ i ∧ i < lo + n then v.testBit (i - lo) else w.getLsbD i := by
  unfold setBits
  simp only [BitVec.getLsbD_or, BitVec.getLsbD_and, BitVec.getLsbD_not, BitVec.getLsbD_ofNat, Nat.testBit_shiftLeft,
    Nat.testBit_mod_two_pow, Nat.testBit_two_pow_sub_one, hi, decide_true, Bool.true_and]
  by_cases h1 : lo ≤ i
  · by_cases h2 : i < lo + n
    · have h3 : i - lo < n := by omega
      simp [h1, h2, h3]
    · have h3 : ¬ i - lo < n := by omega
      simp [h1, h2, h3]
  · simp [h1]

theorem bits_testBit (w : W32) (lo n i : Nat) : (bits w lo n).testBit i = (decide (i < n) && w.getLsbD (lo + i)) := by
  unfold bits
  rw [Nat.testBit_mod_two_pow, Nat.testBit_shiftRight]
  rfl

/-- A field of a word after that field is replaced. -/
theorem bits_setBits (w : W32) (lo n v : Nat) (h : lo + n ≤ 32) : bits (setBits w lo n v) lo n = v % 2 ^ n := by
  refine Nat.eq_of_testBit_eq fun i => ?_
  rw [bits_testBit, Nat.testBit_mod_two_pow]
  by_cases hi : i < n
  · rw [setBits_getLsbD _ _ _ _ _ (by omega), if_pos (by omega)]
    simp [hi]
  · simp [hi]

/-- A field of a word after another field is replaced. -/
theorem bits_setBits_of_apart (w : W32) (lo n v lo' n' : Nat) (h : lo + n ≤ lo' ∨ lo' + n' ≤ lo) (h' : lo' + n' ≤ 32) :
    bits (setBits w lo n v) lo' n' = bits w lo' n' := by
  refine Nat.eq_of_testBit_eq fun i => ?_
  rw [bits_testBit, bits_testBit]
  by_cases hi : i < n'
  · rw [setBits_getLsbD _ _ _ _ _ (by omega), if_neg (by omega)]
  · simp [hi]

theorem bits_lt (w : W32) (lo n : Nat) : bits w lo n < 2 ^ n := Nat.mod_lt _ (Nat.two_pow_pos n)

namespace Machine

/-- A word after a word is stored. -/
theorem State.rd_wr (s : State) (a b : Nat) (v : W32) : (s.wr a v).rd b = if b = a then v else s.rd b :=
  getD_storePut (regReset s.variant) s.regs a b v

theorem State.rd_wr_self (s : State) (a : Nat) (v : W32) : (s.wr a v).rd a = v := by rw [State.rd_wr, if_pos rfl]

theorem State.rd_wr_ne (s : State) {a b : Nat} (v : W32) (h : b ≠ a) : (s.wr a v).rd b = s.rd b := by
  rw [State.rd_wr, if_neg h]

/-- A word that a field store does not touch. -/
theorem State.rd_put_ne (s : State) (f : Fld) (v : Nat) {b : Nat} (h : b ≠ f.addr) : (s.put f v).rd b = s.rd b :=
  State.rd_wr_ne s _ h

theorem State.rd_set_ne (s : State) (f : Fld) (x : Bool) {b : Nat} (h : b ≠ f.addr) : (s.set f x).rd b = s.rd b :=
  State.rd_wr_ne s _ h

/-- A field after it is stored. -/
theorem State.get_put_self (s : State) (f : Fld) (v : Nat) (h : f.lo + f.width ≤ 32) :
    (s.put f v).get f = v % 2 ^ f.width := by
  unfold State.get State.put
  rw [State.rd_wr_self, bits_setBits _ _ _ _ h]

/-- A field of another register, or of other bits of the same one, after a field is stored. -/
theorem State.get_put_apart (s : State) (f g : Fld) (v : Nat)
    (h : g.addr ≠ f.addr ∨ ((f.lo + f.width ≤ g.lo ∨ g.lo + g.width ≤ f.lo) ∧ g.lo + g.width ≤ 32)) :
    (s.put f v).get g = s.get g := by
  unfold State.get State.put
  by_cases ha : g.addr = f.addr
  · rcases h with h | ⟨h, h'⟩
    · exact absurd ha h
    · rw [ha, State.rd_wr_self, bits_setBits_of_apart _ _ _ _ _ _ h h']
  · rw [State.rd_wr_ne s _ ha]

theorem State.get_set_apart (s : State) (f g : Fld) (x : Bool)
    (h : g.addr ≠ f.addr ∨ ((f.lo + f.width ≤ g.lo ∨ g.lo + g.width ≤ f.lo) ∧ g.lo + g.width ≤ 32)) :
    (s.set f x).get g = s.get g := State.get_put_apart s f g _ h

theorem State.get_bump_apart (s : State) (f g : Fld) (k : Nat)
    (h : g.addr ≠ f.addr ∨ ((f.lo + f.width ≤ g.lo ∨ g.lo + g.width ≤ f.lo) ∧ g.lo + g.width ≤ 32)) :
    (s.bump f k).get g = s.get g := State.get_put_apart s f g _ h

theorem State.get_bumpSat_apart (s : State) (f g : Fld) (k : Nat)
    (h : g.addr ≠ f.addr ∨ ((f.lo + f.width ≤ g.lo ∨ g.lo + g.width ≤ f.lo) ∧ g.lo + g.width ≤ 32)) :
    (s.bumpSat f k).get g = s.get g := State.get_put_apart s f g _ h

/-- A one-bit field after it is stored. -/
theorem State.flag_set_self (s : State) (f : Fld) (x : Bool) (h : f.lo + f.width ≤ 32) (hw : f.width = 1) :
    (s.set f x).flag f = x := by
  unfold State.flag State.set
  rw [State.get_put_self _ _ _ h, hw]
  cases x <;> rfl

/-- A counter that wraps, and one that saturates, after it counts (R511). -/
theorem State.get_bump_self (s : State) (f : Fld) (k : Nat) (h : f.lo + f.width ≤ 32) :
    (s.bump f k).get f = (s.get f + k) % 2 ^ f.width := State.get_put_self s f _ h

theorem State.get_bumpSat_self (s : State) (f : Fld) (k : Nat) (h : f.lo + f.width ≤ 32) :
    (s.bumpSat f k).get f = min (2 ^ f.width - 1) (s.get f + k) := by
  unfold State.bumpSat
  rw [State.get_put_self _ _ _ h, satInc]
  have := Nat.two_pow_pos f.width
  exact Nat.mod_eq_of_lt (by omega)

end Machine

end Sys2Proof
end

