-- ==== Sys2Proof/Laws/State.lean ====
section
/-! SUPPORT. The fields of a state after each of the named updates: one lemma per field that the update leaves alone. -/

namespace Sys2Proof.Machine

/-! A stored word. -/

@[simp] theorem State.wr_variant (s : State) (a : Nat) (v : W32) : (s.wr a v).variant = s.variant := rfl
@[simp] theorem State.wr_power (s : State) (a : Nat) (v : W32) : (s.wr a v).power = s.power := rfl
@[simp] theorem State.wr_lullFrom (s : State) (a : Nat) (v : W32) : (s.wr a v).lullFrom = s.lullFrom := rfl
@[simp] theorem State.wr_lullEntry (s : State) (a : Nat) (v : W32) : (s.wr a v).lullEntry = s.lullEntry := rfl
@[simp] theorem State.wr_resetKind (s : State) (a : Nat) (v : W32) : (s.wr a v).resetKind = s.resetKind := rfl
@[simp] theorem State.wr_latchSpi (s : State) (a : Nat) (v : W32) : (s.wr a v).latchSpi = s.latchSpi := rfl
@[simp] theorem State.wr_latchMclk (s : State) (a : Nat) (v : W32) : (s.wr a v).latchMclk = s.latchMclk := rfl
@[simp] theorem State.wr_time (s : State) (a : Nat) (v : W32) : (s.wr a v).time = s.time := rfl
@[simp] theorem State.wr_host (s : State) (a : Nat) (v : W32) : (s.wr a v).host = s.host := rfl
@[simp] theorem State.wr_disp (s : State) (a : Nat) (v : W32) : (s.wr a v).disp = s.disp := rfl
@[simp] theorem State.wr_mix (s : State) (a : Nat) (v : W32) : (s.wr a v).mix = s.mix := rfl
@[simp] theorem State.wr_zones (s : State) (a : Nat) (v : W32) : (s.wr a v).zones = s.zones := rfl
@[simp] theorem State.wr_groups (s : State) (a : Nat) (v : W32) : (s.wr a v).groups = s.groups := rfl
@[simp] theorem State.wr_banks (s : State) (a : Nat) (v : W32) : (s.wr a v).banks = s.banks := rfl
@[simp] theorem State.wr_kernel (s : State) (a : Nat) (v : W32) : (s.wr a v).kernel = s.kernel := rfl
@[simp] theorem State.wr_dp (s : State) (a : Nat) (v : W32) : (s.wr a v).dp = s.dp := rfl
@[simp] theorem State.wr_ports (s : State) (a : Nat) (v : W32) : (s.wr a v).ports = s.ports := rfl
@[simp] theorem State.wr_ana (s : State) (a : Nat) (v : W32) : (s.wr a v).ana = s.ana := rfl
@[simp] theorem State.wr_anaTrim (s : State) (a : Nat) (v : W32) : (s.wr a v).anaTrim = s.anaTrim := rfl
@[simp] theorem State.wr_timers (s : State) (a : Nat) (v : W32) : (s.wr a v).timers = s.timers := rfl
@[simp] theorem State.wr_uarts (s : State) (a : Nat) (v : W32) : (s.wr a v).uarts = s.uarts := rfl
@[simp] theorem State.wr_contacts (s : State) (a : Nat) (v : W32) : (s.wr a v).contacts = s.contacts := rfl
@[simp] theorem State.wr_supv (s : State) (a : Nat) (v : W32) : (s.wr a v).supv = s.supv := rfl
@[simp] theorem State.wr_age (s : State) (a : Nat) (v : W32) : (s.wr a v).age = s.age := rfl
@[simp] theorem State.wr_stream (s : State) (a : Nat) (v : W32) : (s.wr a v).stream = s.stream := rfl
@[simp] theorem State.wr_course (s : State) (a : Nat) (v : W32) : (s.wr a v).course = s.course := rfl
@[simp] theorem State.wr_strike (s : State) (a : Nat) (v : W32) : (s.wr a v).strike = s.strike := rfl
@[simp] theorem State.wr_safe (s : State) (a : Nat) (v : W32) : (s.wr a v).safe = s.safe := rfl
@[simp] theorem State.wr_slabs (s : State) (a : Nat) (v : W32) : (s.wr a v).slabs = s.slabs := rfl
@[simp] theorem State.wr_nor (s : State) (a : Nat) (v : W32) : (s.wr a v).nor = s.nor := rfl
@[simp] theorem State.wr_pins (s : State) (a : Nat) (v : W32) : (s.wr a v).pins = s.pins := rfl
@[simp] theorem State.wr_timed (s : State) (a : Nat) (v : W32) : (s.wr a v).timed = s.timed := rfl
@[simp] theorem State.wr_order (s : State) (a : Nat) (v : W32) : (s.wr a v).order = s.order := rfl
@[simp] theorem State.wr_free (s : State) (a : Nat) (v : W32) : (s.wr a v).free = s.free := rfl
@[simp] theorem State.wr_pending (s : State) (a : Nat) (v : W32) : (s.wr a v).pending = s.pending := rfl

/-! A stored field. -/

@[simp] theorem State.put_variant (s : State) (f : Fld) (v : Nat) : (s.put f v).variant = s.variant := rfl
@[simp] theorem State.put_power (s : State) (f : Fld) (v : Nat) : (s.put f v).power = s.power := rfl
@[simp] theorem State.put_lullFrom (s : State) (f : Fld) (v : Nat) : (s.put f v).lullFrom = s.lullFrom := rfl
@[simp] theorem State.put_lullEntry (s : State) (f : Fld) (v : Nat) : (s.put f v).lullEntry = s.lullEntry := rfl
@[simp] theorem State.put_resetKind (s : State) (f : Fld) (v : Nat) : (s.put f v).resetKind = s.resetKind := rfl
@[simp] theorem State.put_latchSpi (s : State) (f : Fld) (v : Nat) : (s.put f v).latchSpi = s.latchSpi := rfl
@[simp] theorem State.put_latchMclk (s : State) (f : Fld) (v : Nat) : (s.put f v).latchMclk = s.latchMclk := rfl
@[simp] theorem State.put_time (s : State) (f : Fld) (v : Nat) : (s.put f v).time = s.time := rfl
@[simp] theorem State.put_host (s : State) (f : Fld) (v : Nat) : (s.put f v).host = s.host := rfl
@[simp] theorem State.put_disp (s : State) (f : Fld) (v : Nat) : (s.put f v).disp = s.disp := rfl
@[simp] theorem State.put_mix (s : State) (f : Fld) (v : Nat) : (s.put f v).mix = s.mix := rfl
@[simp] theorem State.put_zones (s : State) (f : Fld) (v : Nat) : (s.put f v).zones = s.zones := rfl
@[simp] theorem State.put_groups (s : State) (f : Fld) (v : Nat) : (s.put f v).groups = s.groups := rfl
@[simp] theorem State.put_banks (s : State) (f : Fld) (v : Nat) : (s.put f v).banks = s.banks := rfl
@[simp] theorem State.put_kernel (s : State) (f : Fld) (v : Nat) : (s.put f v).kernel = s.kernel := rfl
@[simp] theorem State.put_dp (s : State) (f : Fld) (v : Nat) : (s.put f v).dp = s.dp := rfl
@[simp] theorem State.put_ports (s : State) (f : Fld) (v : Nat) : (s.put f v).ports = s.ports := rfl
@[simp] theorem State.put_ana (s : State) (f : Fld) (v : Nat) : (s.put f v).ana = s.ana := rfl
@[simp] theorem State.put_anaTrim (s : State) (f : Fld) (v : Nat) : (s.put f v).anaTrim = s.anaTrim := rfl
@[simp] theorem State.put_timers (s : State) (f : Fld) (v : Nat) : (s.put f v).timers = s.timers := rfl
@[simp] theorem State.put_uarts (s : State) (f : Fld) (v : Nat) : (s.put f v).uarts = s.uarts := rfl
@[simp] theorem State.put_contacts (s : State) (f : Fld) (v : Nat) : (s.put f v).contacts = s.contacts := rfl
@[simp] theorem State.put_supv (s : State) (f : Fld) (v : Nat) : (s.put f v).supv = s.supv := rfl
@[simp] theorem State.put_age (s : State) (f : Fld) (v : Nat) : (s.put f v).age = s.age := rfl
@[simp] theorem State.put_stream (s : State) (f : Fld) (v : Nat) : (s.put f v).stream = s.stream := rfl
@[simp] theorem State.put_course (s : State) (f : Fld) (v : Nat) : (s.put f v).course = s.course := rfl
@[simp] theorem State.put_strike (s : State) (f : Fld) (v : Nat) : (s.put f v).strike = s.strike := rfl
@[simp] theorem State.put_safe (s : State) (f : Fld) (v : Nat) : (s.put f v).safe = s.safe := rfl
@[simp] theorem State.put_slabs (s : State) (f : Fld) (v : Nat) : (s.put f v).slabs = s.slabs := rfl
@[simp] theorem State.put_nor (s : State) (f : Fld) (v : Nat) : (s.put f v).nor = s.nor := rfl
@[simp] theorem State.put_pins (s : State) (f : Fld) (v : Nat) : (s.put f v).pins = s.pins := rfl
@[simp] theorem State.put_timed (s : State) (f : Fld) (v : Nat) : (s.put f v).timed = s.timed := rfl
@[simp] theorem State.put_order (s : State) (f : Fld) (v : Nat) : (s.put f v).order = s.order := rfl
@[simp] theorem State.put_free (s : State) (f : Fld) (v : Nat) : (s.put f v).free = s.free := rfl
@[simp] theorem State.put_pending (s : State) (f : Fld) (v : Nat) : (s.put f v).pending = s.pending := rfl

/-! A stored bit. -/

@[simp] theorem State.set_variant (s : State) (f : Fld) (b : Bool) : (s.set f b).variant = s.variant := rfl
@[simp] theorem State.set_power (s : State) (f : Fld) (b : Bool) : (s.set f b).power = s.power := rfl
@[simp] theorem State.set_lullFrom (s : State) (f : Fld) (b : Bool) : (s.set f b).lullFrom = s.lullFrom := rfl
@[simp] theorem State.set_lullEntry (s : State) (f : Fld) (b : Bool) : (s.set f b).lullEntry = s.lullEntry := rfl
@[simp] theorem State.set_resetKind (s : State) (f : Fld) (b : Bool) : (s.set f b).resetKind = s.resetKind := rfl
@[simp] theorem State.set_latchSpi (s : State) (f : Fld) (b : Bool) : (s.set f b).latchSpi = s.latchSpi := rfl
@[simp] theorem State.set_latchMclk (s : State) (f : Fld) (b : Bool) : (s.set f b).latchMclk = s.latchMclk := rfl
@[simp] theorem State.set_time (s : State) (f : Fld) (b : Bool) : (s.set f b).time = s.time := rfl
@[simp] theorem State.set_host (s : State) (f : Fld) (b : Bool) : (s.set f b).host = s.host := rfl
@[simp] theorem State.set_disp (s : State) (f : Fld) (b : Bool) : (s.set f b).disp = s.disp := rfl
@[simp] theorem State.set_mix (s : State) (f : Fld) (b : Bool) : (s.set f b).mix = s.mix := rfl
@[simp] theorem State.set_zones (s : State) (f : Fld) (b : Bool) : (s.set f b).zones = s.zones := rfl
@[simp] theorem State.set_groups (s : State) (f : Fld) (b : Bool) : (s.set f b).groups = s.groups := rfl
@[simp] theorem State.set_banks (s : State) (f : Fld) (b : Bool) : (s.set f b).banks = s.banks := rfl
@[simp] theorem State.set_kernel (s : State) (f : Fld) (b : Bool) : (s.set f b).kernel = s.kernel := rfl
@[simp] theorem State.set_dp (s : State) (f : Fld) (b : Bool) : (s.set f b).dp = s.dp := rfl
@[simp] theorem State.set_ports (s : State) (f : Fld) (b : Bool) : (s.set f b).ports = s.ports := rfl
@[simp] theorem State.set_ana (s : State) (f : Fld) (b : Bool) : (s.set f b).ana = s.ana := rfl
@[simp] theorem State.set_anaTrim (s : State) (f : Fld) (b : Bool) : (s.set f b).anaTrim = s.anaTrim := rfl
@[simp] theorem State.set_timers (s : State) (f : Fld) (b : Bool) : (s.set f b).timers = s.timers := rfl
@[simp] theorem State.set_uarts (s : State) (f : Fld) (b : Bool) : (s.set f b).uarts = s.uarts := rfl
@[simp] theorem State.set_contacts (s : State) (f : Fld) (b : Bool) : (s.set f b).contacts = s.contacts := rfl
@[simp] theorem State.set_supv (s : State) (f : Fld) (b : Bool) : (s.set f b).supv = s.supv := rfl
@[simp] theorem State.set_age (s : State) (f : Fld) (b : Bool) : (s.set f b).age = s.age := rfl
@[simp] theorem State.set_stream (s : State) (f : Fld) (b : Bool) : (s.set f b).stream = s.stream := rfl
@[simp] theorem State.set_course (s : State) (f : Fld) (b : Bool) : (s.set f b).course = s.course := rfl
@[simp] theorem State.set_strike (s : State) (f : Fld) (b : Bool) : (s.set f b).strike = s.strike := rfl
@[simp] theorem State.set_safe (s : State) (f : Fld) (b : Bool) : (s.set f b).safe = s.safe := rfl
@[simp] theorem State.set_slabs (s : State) (f : Fld) (b : Bool) : (s.set f b).slabs = s.slabs := rfl
@[simp] theorem State.set_nor (s : State) (f : Fld) (b : Bool) : (s.set f b).nor = s.nor := rfl
@[simp] theorem State.set_pins (s : State) (f : Fld) (b : Bool) : (s.set f b).pins = s.pins := rfl
@[simp] theorem State.set_timed (s : State) (f : Fld) (b : Bool) : (s.set f b).timed = s.timed := rfl
@[simp] theorem State.set_order (s : State) (f : Fld) (b : Bool) : (s.set f b).order = s.order := rfl
@[simp] theorem State.set_free (s : State) (f : Fld) (b : Bool) : (s.set f b).free = s.free := rfl
@[simp] theorem State.set_pending (s : State) (f : Fld) (b : Bool) : (s.set f b).pending = s.pending := rfl

/-! A counter that wraps. -/

@[simp] theorem State.bump_variant (s : State) (f : Fld) (k : Nat) : (s.bump f k).variant = s.variant := rfl
@[simp] theorem State.bump_power (s : State) (f : Fld) (k : Nat) : (s.bump f k).power = s.power := rfl
@[simp] theorem State.bump_lullFrom (s : State) (f : Fld) (k : Nat) : (s.bump f k).lullFrom = s.lullFrom := rfl
@[simp] theorem State.bump_lullEntry (s : State) (f : Fld) (k : Nat) : (s.bump f k).lullEntry = s.lullEntry := rfl
@[simp] theorem State.bump_resetKind (s : State) (f : Fld) (k : Nat) : (s.bump f k).resetKind = s.resetKind := rfl
@[simp] theorem State.bump_latchSpi (s : State) (f : Fld) (k : Nat) : (s.bump f k).latchSpi = s.latchSpi := rfl
@[simp] theorem State.bump_latchMclk (s : State) (f : Fld) (k : Nat) : (s.bump f k).latchMclk = s.latchMclk := rfl
@[simp] theorem State.bump_time (s : State) (f : Fld) (k : Nat) : (s.bump f k).time = s.time := rfl
@[simp] theorem State.bump_host (s : State) (f : Fld) (k : Nat) : (s.bump f k).host = s.host := rfl
@[simp] theorem State.bump_disp (s : State) (f : Fld) (k : Nat) : (s.bump f k).disp = s.disp := rfl
@[simp] theorem State.bump_mix (s : State) (f : Fld) (k : Nat) : (s.bump f k).mix = s.mix := rfl
@[simp] theorem State.bump_zones (s : State) (f : Fld) (k : Nat) : (s.bump f k).zones = s.zones := rfl
@[simp] theorem State.bump_groups (s : State) (f : Fld) (k : Nat) : (s.bump f k).groups = s.groups := rfl
@[simp] theorem State.bump_banks (s : State) (f : Fld) (k : Nat) : (s.bump f k).banks = s.banks := rfl
@[simp] theorem State.bump_kernel (s : State) (f : Fld) (k : Nat) : (s.bump f k).kernel = s.kernel := rfl
@[simp] theorem State.bump_dp (s : State) (f : Fld) (k : Nat) : (s.bump f k).dp = s.dp := rfl
@[simp] theorem State.bump_ports (s : State) (f : Fld) (k : Nat) : (s.bump f k).ports = s.ports := rfl
@[simp] theorem State.bump_ana (s : State) (f : Fld) (k : Nat) : (s.bump f k).ana = s.ana := rfl
@[simp] theorem State.bump_anaTrim (s : State) (f : Fld) (k : Nat) : (s.bump f k).anaTrim = s.anaTrim := rfl
@[simp] theorem State.bump_timers (s : State) (f : Fld) (k : Nat) : (s.bump f k).timers = s.timers := rfl
@[simp] theorem State.bump_uarts (s : State) (f : Fld) (k : Nat) : (s.bump f k).uarts = s.uarts := rfl
@[simp] theorem State.bump_contacts (s : State) (f : Fld) (k : Nat) : (s.bump f k).contacts = s.contacts := rfl
@[simp] theorem State.bump_supv (s : State) (f : Fld) (k : Nat) : (s.bump f k).supv = s.supv := rfl
@[simp] theorem State.bump_age (s : State) (f : Fld) (k : Nat) : (s.bump f k).age = s.age := rfl
@[simp] theorem State.bump_stream (s : State) (f : Fld) (k : Nat) : (s.bump f k).stream = s.stream := rfl
@[simp] theorem State.bump_course (s : State) (f : Fld) (k : Nat) : (s.bump f k).course = s.course := rfl
@[simp] theorem State.bump_strike (s : State) (f : Fld) (k : Nat) : (s.bump f k).strike = s.strike := rfl
@[simp] theorem State.bump_safe (s : State) (f : Fld) (k : Nat) : (s.bump f k).safe = s.safe := rfl
@[simp] theorem State.bump_slabs (s : State) (f : Fld) (k : Nat) : (s.bump f k).slabs = s.slabs := rfl
@[simp] theorem State.bump_nor (s : State) (f : Fld) (k : Nat) : (s.bump f k).nor = s.nor := rfl
@[simp] theorem State.bump_pins (s : State) (f : Fld) (k : Nat) : (s.bump f k).pins = s.pins := rfl
@[simp] theorem State.bump_timed (s : State) (f : Fld) (k : Nat) : (s.bump f k).timed = s.timed := rfl
@[simp] theorem State.bump_order (s : State) (f : Fld) (k : Nat) : (s.bump f k).order = s.order := rfl
@[simp] theorem State.bump_free (s : State) (f : Fld) (k : Nat) : (s.bump f k).free = s.free := rfl
@[simp] theorem State.bump_pending (s : State) (f : Fld) (k : Nat) : (s.bump f k).pending = s.pending := rfl

/-! A counter that saturates. -/

@[simp] theorem State.bumpSat_variant (s : State) (f : Fld) (k : Nat) : (s.bumpSat f k).variant = s.variant := rfl
@[simp] theorem State.bumpSat_power (s : State) (f : Fld) (k : Nat) : (s.bumpSat f k).power = s.power := rfl
@[simp] theorem State.bumpSat_lullFrom (s : State) (f : Fld) (k : Nat) : (s.bumpSat f k).lullFrom = s.lullFrom := rfl
@[simp] theorem State.bumpSat_lullEntry (s : State) (f : Fld) (k : Nat) : (s.bumpSat f k).lullEntry = s.lullEntry := rfl
@[simp] theorem State.bumpSat_resetKind (s : State) (f : Fld) (k : Nat) : (s.bumpSat f k).resetKind = s.resetKind := rfl
@[simp] theorem State.bumpSat_latchSpi (s : State) (f : Fld) (k : Nat) : (s.bumpSat f k).latchSpi = s.latchSpi := rfl
@[simp] theorem State.bumpSat_latchMclk (s : State) (f : Fld) (k : Nat) : (s.bumpSat f k).latchMclk = s.latchMclk := rfl
@[simp] theorem State.bumpSat_time (s : State) (f : Fld) (k : Nat) : (s.bumpSat f k).time = s.time := rfl
@[simp] theorem State.bumpSat_host (s : State) (f : Fld) (k : Nat) : (s.bumpSat f k).host = s.host := rfl
@[simp] theorem State.bumpSat_disp (s : State) (f : Fld) (k : Nat) : (s.bumpSat f k).disp = s.disp := rfl
@[simp] theorem State.bumpSat_mix (s : State) (f : Fld) (k : Nat) : (s.bumpSat f k).mix = s.mix := rfl
@[simp] theorem State.bumpSat_zones (s : State) (f : Fld) (k : Nat) : (s.bumpSat f k).zones = s.zones := rfl
@[simp] theorem State.bumpSat_groups (s : State) (f : Fld) (k : Nat) : (s.bumpSat f k).groups = s.groups := rfl
@[simp] theorem State.bumpSat_banks (s : State) (f : Fld) (k : Nat) : (s.bumpSat f k).banks = s.banks := rfl
@[simp] theorem State.bumpSat_kernel (s : State) (f : Fld) (k : Nat) : (s.bumpSat f k).kernel = s.kernel := rfl
@[simp] theorem State.bumpSat_dp (s : State) (f : Fld) (k : Nat) : (s.bumpSat f k).dp = s.dp := rfl
@[simp] theorem State.bumpSat_ports (s : State) (f : Fld) (k : Nat) : (s.bumpSat f k).ports = s.ports := rfl
@[simp] theorem State.bumpSat_ana (s : State) (f : Fld) (k : Nat) : (s.bumpSat f k).ana = s.ana := rfl
@[simp] theorem State.bumpSat_anaTrim (s : State) (f : Fld) (k : Nat) : (s.bumpSat f k).anaTrim = s.anaTrim := rfl
@[simp] theorem State.bumpSat_timers (s : State) (f : Fld) (k : Nat) : (s.bumpSat f k).timers = s.timers := rfl
@[simp] theorem State.bumpSat_uarts (s : State) (f : Fld) (k : Nat) : (s.bumpSat f k).uarts = s.uarts := rfl
@[simp] theorem State.bumpSat_contacts (s : State) (f : Fld) (k : Nat) : (s.bumpSat f k).contacts = s.contacts := rfl
@[simp] theorem State.bumpSat_supv (s : State) (f : Fld) (k : Nat) : (s.bumpSat f k).supv = s.supv := rfl
@[simp] theorem State.bumpSat_age (s : State) (f : Fld) (k : Nat) : (s.bumpSat f k).age = s.age := rfl
@[simp] theorem State.bumpSat_stream (s : State) (f : Fld) (k : Nat) : (s.bumpSat f k).stream = s.stream := rfl
@[simp] theorem State.bumpSat_course (s : State) (f : Fld) (k : Nat) : (s.bumpSat f k).course = s.course := rfl
@[simp] theorem State.bumpSat_strike (s : State) (f : Fld) (k : Nat) : (s.bumpSat f k).strike = s.strike := rfl
@[simp] theorem State.bumpSat_safe (s : State) (f : Fld) (k : Nat) : (s.bumpSat f k).safe = s.safe := rfl
@[simp] theorem State.bumpSat_slabs (s : State) (f : Fld) (k : Nat) : (s.bumpSat f k).slabs = s.slabs := rfl
@[simp] theorem State.bumpSat_nor (s : State) (f : Fld) (k : Nat) : (s.bumpSat f k).nor = s.nor := rfl
@[simp] theorem State.bumpSat_pins (s : State) (f : Fld) (k : Nat) : (s.bumpSat f k).pins = s.pins := rfl
@[simp] theorem State.bumpSat_timed (s : State) (f : Fld) (k : Nat) : (s.bumpSat f k).timed = s.timed := rfl
@[simp] theorem State.bumpSat_order (s : State) (f : Fld) (k : Nat) : (s.bumpSat f k).order = s.order := rfl
@[simp] theorem State.bumpSat_free (s : State) (f : Fld) (k : Nat) : (s.bumpSat f k).free = s.free := rfl
@[simp] theorem State.bumpSat_pending (s : State) (f : Fld) (k : Nat) : (s.bumpSat f k).pending = s.pending := rfl

/-! A zone record. -/

@[simp] theorem State.setZone_variant (s : State) (z : Zone) : (s.setZone z).variant = s.variant := rfl
@[simp] theorem State.setZone_power (s : State) (z : Zone) : (s.setZone z).power = s.power := rfl
@[simp] theorem State.setZone_regs (s : State) (z : Zone) : (s.setZone z).regs = s.regs := rfl
@[simp] theorem State.setZone_time (s : State) (z : Zone) : (s.setZone z).time = s.time := rfl
@[simp] theorem State.setZone_host (s : State) (z : Zone) : (s.setZone z).host = s.host := rfl
@[simp] theorem State.setZone_safe (s : State) (z : Zone) : (s.setZone z).safe = s.safe := rfl
@[simp] theorem State.setZone_pending (s : State) (z : Zone) : (s.setZone z).pending = s.pending := rfl

/-! A port record. -/

@[simp] theorem State.setPort_variant (s : State) (p : PortSt) : (s.setPort p).variant = s.variant := rfl
@[simp] theorem State.setPort_power (s : State) (p : PortSt) : (s.setPort p).power = s.power := rfl
@[simp] theorem State.setPort_regs (s : State) (p : PortSt) : (s.setPort p).regs = s.regs := rfl
@[simp] theorem State.setPort_time (s : State) (p : PortSt) : (s.setPort p).time = s.time := rfl
@[simp] theorem State.setPort_host (s : State) (p : PortSt) : (s.setPort p).host = s.host := rfl
@[simp] theorem State.setPort_safe (s : State) (p : PortSt) : (s.setPort p).safe = s.safe := rfl
@[simp] theorem State.setPort_pending (s : State) (p : PortSt) : (s.setPort p).pending = s.pending := rfl

/-! An analogue channel record. -/

@[simp] theorem State.setChan_variant (s : State) (c : AnaSt) : (s.setChan c).variant = s.variant := rfl
@[simp] theorem State.setChan_power (s : State) (c : AnaSt) : (s.setChan c).power = s.power := rfl
@[simp] theorem State.setChan_regs (s : State) (c : AnaSt) : (s.setChan c).regs = s.regs := rfl
@[simp] theorem State.setChan_time (s : State) (c : AnaSt) : (s.setChan c).time = s.time := rfl
@[simp] theorem State.setChan_host (s : State) (c : AnaSt) : (s.setChan c).host = s.host := rfl
@[simp] theorem State.setChan_safe (s : State) (c : AnaSt) : (s.setChan c).safe = s.safe := rfl
@[simp] theorem State.setChan_pending (s : State) (c : AnaSt) : (s.setChan c).pending = s.pending := rfl

/-! A timer record. -/

@[simp] theorem State.setTimer_variant (s : State) (t : TimerSt) : (s.setTimer t).variant = s.variant := rfl
@[simp] theorem State.setTimer_power (s : State) (t : TimerSt) : (s.setTimer t).power = s.power := rfl
@[simp] theorem State.setTimer_regs (s : State) (t : TimerSt) : (s.setTimer t).regs = s.regs := rfl
@[simp] theorem State.setTimer_time (s : State) (t : TimerSt) : (s.setTimer t).time = s.time := rfl
@[simp] theorem State.setTimer_host (s : State) (t : TimerSt) : (s.setTimer t).host = s.host := rfl
@[simp] theorem State.setTimer_safe (s : State) (t : TimerSt) : (s.setTimer t).safe = s.safe := rfl
@[simp] theorem State.setTimer_pending (s : State) (t : TimerSt) : (s.setTimer t).pending = s.pending := rfl

/-! A UART record. -/

@[simp] theorem State.setUart_variant (s : State) (u : UartSt) : (s.setUart u).variant = s.variant := rfl
@[simp] theorem State.setUart_power (s : State) (u : UartSt) : (s.setUart u).power = s.power := rfl
@[simp] theorem State.setUart_regs (s : State) (u : UartSt) : (s.setUart u).regs = s.regs := rfl
@[simp] theorem State.setUart_time (s : State) (u : UartSt) : (s.setUart u).time = s.time := rfl
@[simp] theorem State.setUart_host (s : State) (u : UartSt) : (s.setUart u).host = s.host := rfl
@[simp] theorem State.setUart_safe (s : State) (u : UartSt) : (s.setUart u).safe = s.safe := rfl
@[simp] theorem State.setUart_pending (s : State) (u : UartSt) : (s.setUart u).pending = s.pending := rfl

/-! A contact record. -/

@[simp] theorem State.setContact_variant (s : State) (c : ContactSt) : (s.setContact c).variant = s.variant := rfl
@[simp] theorem State.setContact_power (s : State) (c : ContactSt) : (s.setContact c).power = s.power := rfl
@[simp] theorem State.setContact_regs (s : State) (c : ContactSt) : (s.setContact c).regs = s.regs := rfl
@[simp] theorem State.setContact_time (s : State) (c : ContactSt) : (s.setContact c).time = s.time := rfl
@[simp] theorem State.setContact_host (s : State) (c : ContactSt) : (s.setContact c).host = s.host := rfl
@[simp] theorem State.setContact_safe (s : State) (c : ContactSt) : (s.setContact c).safe = s.safe := rfl
@[simp] theorem State.setContact_pending (s : State) (c : ContactSt) : (s.setContact c).pending = s.pending := rfl

/-! A path record. -/

@[simp] theorem State.setPath_variant (s : State) (p : Path) : (s.setPath p).variant = s.variant := rfl
@[simp] theorem State.setPath_power (s : State) (p : Path) : (s.setPath p).power = s.power := rfl
@[simp] theorem State.setPath_regs (s : State) (p : Path) : (s.setPath p).regs = s.regs := rfl
@[simp] theorem State.setPath_time (s : State) (p : Path) : (s.setPath p).time = s.time := rfl
@[simp] theorem State.setPath_host (s : State) (p : Path) : (s.setPath p).host = s.host := rfl
@[simp] theorem State.setPath_safe (s : State) (p : Path) : (s.setPath p).safe = s.safe := rfl
@[simp] theorem State.setPath_pending (s : State) (p : Path) : (s.setPath p).pending = s.pending := rfl

/-! A job record. -/

@[simp] theorem State.setJob_variant (s : State) (j : Job) : (s.setJob j).variant = s.variant := rfl
@[simp] theorem State.setJob_power (s : State) (j : Job) : (s.setJob j).power = s.power := rfl
@[simp] theorem State.setJob_regs (s : State) (j : Job) : (s.setJob j).regs = s.regs := rfl
@[simp] theorem State.setJob_time (s : State) (j : Job) : (s.setJob j).time = s.time := rfl
@[simp] theorem State.setJob_host (s : State) (j : Job) : (s.setJob j).host = s.host := rfl
@[simp] theorem State.setJob_safe (s : State) (j : Job) : (s.setJob j).safe = s.safe := rfl
@[simp] theorem State.setJob_pending (s : State) (j : Job) : (s.setJob j).pending = s.pending := rfl

/-! A voice record. -/

@[simp] theorem State.setVoice_variant (s : State) (v : Voice) : (s.setVoice v).variant = s.variant := rfl
@[simp] theorem State.setVoice_power (s : State) (v : Voice) : (s.setVoice v).power = s.power := rfl
@[simp] theorem State.setVoice_regs (s : State) (v : Voice) : (s.setVoice v).regs = s.regs := rfl
@[simp] theorem State.setVoice_time (s : State) (v : Voice) : (s.setVoice v).time = s.time := rfl
@[simp] theorem State.setVoice_host (s : State) (v : Voice) : (s.setVoice v).host = s.host := rfl
@[simp] theorem State.setVoice_safe (s : State) (v : Voice) : (s.setVoice v).safe = s.safe := rfl
@[simp] theorem State.setVoice_pending (s : State) (v : Voice) : (s.setVoice v).pending = s.pending := rfl

/-! A bank record. -/

@[simp] theorem State.setBank_variant (s : State) (b : Bank) : (s.setBank b).variant = s.variant := rfl
@[simp] theorem State.setBank_power (s : State) (b : Bank) : (s.setBank b).power = s.power := rfl
@[simp] theorem State.setBank_regs (s : State) (b : Bank) : (s.setBank b).regs = s.regs := rfl
@[simp] theorem State.setBank_time (s : State) (b : Bank) : (s.setBank b).time = s.time := rfl
@[simp] theorem State.setBank_host (s : State) (b : Bank) : (s.setBank b).host = s.host := rfl
@[simp] theorem State.setBank_safe (s : State) (b : Bank) : (s.setBank b).safe = s.safe := rfl
@[simp] theorem State.setBank_pending (s : State) (b : Bank) : (s.setBank b).pending = s.pending := rfl

/-! The records themselves. -/

theorem pick_upsert {α : Type} (num : α → Nat) (x : α) (l : List α) (n : Nat) :
    pick num n (upsert num x l) = if n = num x then some x else pick num n l := by
  have hf : ∀ (p : α → Bool) (l : List α), n ≠ num x →
      (∀ y ∈ l, num y = n → p y = true) → (l.filter p).find? (fun y => decide (num y = n)) =
        l.find? (fun y => decide (num y = n)) := by
    intro p l hn hp
    induction l with
    | nil => rfl
    | cons a l ih =>
      have ih := ih fun y hy => hp y (List.mem_cons_of_mem _ hy)
      by_cases ha : num a = n
      · rw [List.filter_cons_of_pos (hp a List.mem_cons_self ha)]
        simp [ha]
      · by_cases hpa : p a = true
        · rw [List.filter_cons_of_pos hpa]
          simp [ha, ih]
        · rw [List.filter_cons_of_neg hpa]
          simp [ha, ih]
  unfold pick upsert
  split
  · rename_i e
    subst e
    rw [List.find?_append, List.find?_eq_none.2]
    · simp
    · intro y hy
      have := (List.mem_filter.1 hy).2
      simp only [decide_eq_true_eq] at this ⊢
      omega
  · rename_i e
    rw [List.find?_append, List.find?_cons_of_neg (by simpa using fun h => e h.symm)]
    by_cases hlt : n < num x
    · rw [List.filter_filter, hf _ _ e (by intro y _ hy; simp; omega)]
      cases hq : l.find? fun y => decide (num y = n) with
      | some y => rfl
      | none =>
        rw [Option.none_or, List.filter_filter, List.find?_eq_none.2]
        intro y hy
        exact List.find?_eq_none.1 hq y (List.mem_of_mem_filter hy)
    · rw [List.find?_eq_none.2, Option.none_or, List.filter_filter, hf _ _ e (by intro y _ hy; simp; omega)]
      intro y hy
      have := (List.mem_filter.1 hy).2
      simp only [decide_eq_true_eq] at this ⊢
      omega

theorem State.zone_setZone (s : State) (x : Zone) (n : Nat) : (s.setZone x).zone n = if n = x.n then x else s.zone n := by
  unfold State.zone State.setZone
  rw [pick_upsert]
  split <;> rfl

theorem State.port_setPort (s : State) (x : PortSt) (n : Nat) : (s.setPort x).port n = if n = x.n then x else s.port n := by
  unfold State.port State.setPort
  rw [pick_upsert]
  split <;> rfl

theorem State.chan_setChan (s : State) (x : AnaSt) (n : Nat) : (s.setChan x).chan n = if n = x.n then x else s.chan n := by
  unfold State.chan State.setChan
  rw [pick_upsert]
  split <;> rfl

theorem State.timer_setTimer (s : State) (x : TimerSt) (n : Nat) : (s.setTimer x).timer n = if n = x.n then x else s.timer n := by
  unfold State.timer State.setTimer
  rw [pick_upsert]
  split <;> rfl

theorem State.uart_setUart (s : State) (x : UartSt) (n : Nat) : (s.setUart x).uart n = if n = x.n then x else s.uart n := by
  unfold State.uart State.setUart
  rw [pick_upsert]
  split <;> rfl

theorem State.contact_setContact (s : State) (x : ContactSt) (n : Nat) : (s.setContact x).contact n = if n = x.n then x else s.contact n := by
  unfold State.contact State.setContact
  rw [pick_upsert]
  split <;> rfl

theorem State.path_setPath (s : State) (x : Path) (n : Nat) : (s.setPath x).path n = if n = x.n then x else s.path n := by
  unfold State.path State.setPath
  rw [pick_upsert]
  split <;> rfl

theorem State.job_setJob (s : State) (j : Job) (r : Nat) : (s.setJob j).job? r = if r = j.record then some j else s.job? r :=
  pick_upsert Job.record j s.disp.jobs r

end Sys2Proof.Machine
end

