-- ==== Sys2Proof/Laws/Events.lean ====
section
/-! SUPPORT. What posting an event does: the words it may write, and that it changes nothing but registers. -/

namespace Sys2Proof.Machine

/-- `s` is `r` with nothing but registers changed, and of those only words that an event may write. -/
def Posted (r s : State) : Prop := s = { r with regs := s.regs } ∧ ∀ a, eventWord a = false → s.rd a = r.rd a

theorem Posted.refl (s : State) : Posted s s := ⟨rfl, fun _ _ => rfl⟩

theorem Posted.trans {r s t : State} (h : Posted r s) (h' : Posted s t) : Posted r t :=
  ⟨by rw [h'.1, h.1], fun a ha => (h'.2 a ha).trans (h.2 a ha)⟩

theorem Posted.wr {r s : State} (h : Posted r s) {a : Nat} (v : W32) (ha : eventWord a = true) : Posted r (s.wr a v) :=
  h.trans ⟨rfl, fun b hb => State.rd_wr_ne s v fun e => by rw [e, ha] at hb; cases hb⟩

theorem Posted.put {r s : State} (h : Posted r s) {f : Fld} (v : Nat) (ha : eventWord f.addr = true) : Posted r (s.put f v) :=
  h.wr _ ha

theorem Posted.wrList {l : List W32} {r s : State} (h : Posted r s) {a : Nat}
    (ha : ∀ i, i < l.length → eventWord (a + 4 * i) = true) : Posted r (s.wrList a l) := by
  induction l generalizing s a with
  | nil => exact h
  | cons w l ih =>
    refine ih (h.wr w (ha 0 (Nat.zero_lt_succ _))) fun i hi => ?_
    have := ha (i + 1) (Nat.succ_lt_succ hi)
    rwa [Nat.mul_add, Nat.add_comm (4 * i), ← Nat.add_assoc] at this

theorem eventWord_record (r i : Nat) (hi : i < 8) : eventWord (evtAddr r + 4 * i) = true := by
  have := Nat.mod_lt r (by decide : 256 > 0)
  have hd : decide (0x2000 ≤ evtAddr r + 4 * i ∧ evtAddr r + 4 * i < 0x4000) = true := by
    rw [decide_eq_true_eq, evtAddr]
    omega
  rw [eventWord, hd]
  simp only [Bool.true_or]

theorem eventWords_length (ty src mt : Nat) (d : List W32) : (eventWords ty src mt d).length = 8 := by
  simp [eventWords]

theorem Posted.record {r s : State} (h : Posted r s) (x ty src mt : Nat) (d : List W32) :
    Posted r (s.wrList (evtAddr x) (eventWords ty src mt d)) :=
  h.wrList fun i hi => eventWord_record x i (by rwa [eventWords_length] at hi)

theorem evqOverflow_posted {r s : State} (h : Posted r s) : Posted r s.evqOverflow := by
  unfold State.evqOverflow
  exact (((h.record _ _ _ _ _).put _ rfl).put _ rfl).put _ rfl

theorem vc3Copy_posted {r s : State} (h : Posted r s) : Posted r s.vc3Copy := by
  unfold State.vc3Copy
  split
  · unfold State.spend
    dsimp only
    split
    · exact (h.put _ rfl).put _ rfl
    · exact h
  · exact h

/-- Posting an event changes nothing but the words of the queue. -/
theorem State.postAt_posted (s : State) (ty src mt : Nat) (d : List W32) : Posted s (s.postAt ty src mt d) := by
  unfold State.postAt
  extract_lets used s1 wrx s2 s3 s4
  have h1 : Posted s s1 := by
    subst s1
    split
    · exact evqOverflow_posted (Posted.refl s)
    · exact Posted.refl s
  have h2 : Posted s s2 := h1.record _ _ _ _ _
  have h3 : Posted s s3 := h2.put _ rfl
  have h4 : Posted s s4 := by
    subst s4
    split
    · exact h3
    · exact h3.put _ rfl
  exact vc3Copy_posted h4

theorem State.post_posted (s : State) (ty src : Nat) (d : List W32) : Posted s (s.post ty src d) := s.postAt_posted _ _ _ _

theorem State.post_eq (s : State) (ty src : Nat) (d : List W32) :
    s.post ty src d = { s with regs := (s.post ty src d).regs } := (s.post_posted ty src d).1

theorem State.postAt_eq (s : State) (ty src mt : Nat) (d : List W32) :
    s.postAt ty src mt d = { s with regs := (s.postAt ty src mt d).regs } := (s.postAt_posted ty src mt d).1

theorem State.rd_post (s : State) (ty src : Nat) (d : List W32) {a : Nat} (h : eventWord a = false) :
    (s.post ty src d).rd a = s.rd a := (s.post_posted ty src d).2 a h

theorem State.get_post (s : State) (ty src : Nat) (d : List W32) {f : Fld} (h : eventWord f.addr = false) :
    (s.post ty src d).get f = s.get f := by
  unfold State.get
  rw [State.rd_post _ _ _ _ h]

theorem State.get_postAt (s : State) (ty src mt : Nat) (d : List W32) {f : Fld} (h : eventWord f.addr = false) :
    (s.postAt ty src mt d).get f = s.get f := by
  unfold State.get
  rw [(s.postAt_posted ty src mt d).2 _ h]

end Sys2Proof.Machine
end

