-- ==== Sys2Proof/Laws/Frames.lean ====
section
/-! SUPPORT. What a chain of field stores does to the register store: each stored field, and every bit outside them. -/

namespace Sys2Proof.Machine

theorem fieldsKept.refl (fs : List Fld) (s : State) : fieldsKept fs s s := fun _ _ _ => rfl

theorem fieldsKept.trans {fs : List Fld} {r s t : State} (h : fieldsKept fs r s) (h' : fieldsKept fs s t) :
    fieldsKept fs r t := fun a i hi => (h' a i hi).trans (h a i hi)

theorem fieldsKept.mono {fs gs : List Fld} {s t : State} (h : fieldsKept fs s t) (hs : ∀ f ∈ fs, f ∈ gs) :
    fieldsKept gs s t := fun a i hi => h a i fun f hf => hi f (hs f hf)

/-- A field store keeps every bit outside its field. -/
theorem fieldsKept.put {fs : List Fld} {r s : State} (h : fieldsKept fs r s) (f : Fld) (v : Nat) (hf : f ∈ fs) :
    fieldsKept fs r (s.put f v) := by
  intro a i hi
  refine Eq.trans ?_ (h a i hi)
  unfold State.put
  rw [State.rd_wr]
  split
  · next ha =>
    subst ha
    by_cases h32 : i < 32
    · rw [setBits_getLsbD _ _ _ _ _ h32, if_neg fun hc => hi f hf ⟨rfl, hc⟩]
    · rw [BitVec.getLsbD_of_ge _ _ (by omega), BitVec.getLsbD_of_ge _ _ (by omega)]
  · rfl

/-- A field apart from every named field is as it was. -/
theorem fieldsKept.get {fs : List Fld} {s t : State} (h : fieldsKept fs s t) (g : Fld)
    (hg : ∀ f ∈ fs, f.addr ≠ g.addr ∨ f.lo + f.width ≤ g.lo ∨ g.lo + g.width ≤ f.lo) : t.get g = s.get g := by
  refine Nat.eq_of_testBit_eq fun i => ?_
  unfold State.get
  rw [bits_testBit, bits_testBit]
  by_cases hi : i < g.width
  · rw [h g.addr (g.lo + i) fun f hf hc => by rcases hg f hf with h | h | h <;> omega]
  · simp [hi]

/-- A word in which no named field lies is as it was. -/
theorem fieldsKept.rd {fs : List Fld} {s t : State} (h : fieldsKept fs s t) {a : Nat} (ha : ∀ f ∈ fs, f.addr ≠ a) :
    t.rd a = s.rd a := BitVec.eq_of_getLsbD_eq fun i _ => h a i fun f hf hc => ha f hf hc.1

theorem onlyStores.nil (s : State) : onlyStores [] s s :=
  ⟨rfl, fun _ h => (List.not_mem_nil h).elim, fieldsKept.refl _ _⟩

/-- One field store more. -/
theorem onlyStores.put {l : List (Fld × Nat)} {s t : State} (h : onlyStores l s t) (f : Fld) (v w : Nat)
    (hfit : f.lo + f.width ≤ 32) (hw : v % 2 ^ f.width = w)
    (hap : ∀ p ∈ l, p.1.lo + p.1.width ≤ 32 ∧ (p.1.addr ≠ f.addr ∨ f.lo + f.width ≤ p.1.lo ∨ p.1.lo + p.1.width ≤ f.lo)) :
    onlyStores (l ++ [(f, w)]) s (t.put f v) := by
  obtain ⟨h1, h2, h3⟩ := h
  refine ⟨?_, ?_, ?_⟩
  · generalize t.regs = r at h1
    subst h1
    rfl
  · intro p hp
    rcases List.mem_append.1 hp with hp | hp
    · obtain ⟨ha, hb⟩ := hap p hp
      rw [State.get_put_apart _ _ _ _ (by rcases hb with hb | hb | hb; exacts [.inl hb, .inr ⟨.inl hb, ha⟩, .inr ⟨.inr hb, ha⟩])]
      exact h2 p hp
    · rw [List.mem_singleton.1 hp]
      exact (State.get_put_self _ _ _ hfit).trans hw
  · exact (h3.mono fun g hg => by rw [List.map_append]; exact List.mem_append_left _ hg).put _ _
      (by rw [List.map_append]; exact List.mem_append_right _ (List.mem_singleton.2 rfl))

/-- What a state with the same store reads. -/
theorem State.get_of_rd {s t : State} (h : ∀ a, t.rd a = s.rd a) (f : Fld) : t.get f = s.get f := by
  unfold State.get
  rw [h]

end Sys2Proof.Machine
end

