-- ==== Sys2Proof/Laws/Keeps.lean ====
section
/-! SUPPORT. What no operation of the block may do, as one relation between the state before and the state after, and the rules
by which it passes through record updates, loops and optional results. Each operation has one lemma about it. -/

namespace Sys2Proof.Machine

/-- The state `s`, reached from `r`, has the same variant and the same waiting commands, loses no key slot, and its memory is in
canonical form if that of `r` is; with `m`, its media time is that of `r` too. -/
def Keeps (m : Bool) (r s : State) : Prop :=
  s.variant = r.variant ∧ s.pending = r.pending ∧ keysKept r s ∧ (Memory.wf r = true → Memory.wf s = true) ∧
    (m = true → s.time.mt = r.time.mt)

variable {kM : Bool} {kR : State}

theorem Keeps.refl (m : Bool) (r : State) : Keeps m r r := ⟨rfl, rfl, fun _ _ h => h, id, fun _ => rfl⟩

theorem Keeps.trans {r s t : State} (h : Keeps kM r s) (h' : Keeps kM s t) : Keeps kM r t :=
  ⟨h'.1.trans h.1, h'.2.1.trans h.2.1, fun n k e => h'.2.2.1 n k (h.2.2.1 n k e), fun w => h'.2.2.2.1 (h.2.2.2.1 w),
    fun e => (h'.2.2.2.2 e).trans (h.2.2.2.2 e)⟩

theorem Keeps.mono {r s : State} (h : Keeps true r s) : Keeps kM r s :=
  ⟨h.1, h.2.1, h.2.2.1, h.2.2.2.1, fun _ => h.2.2.2.2 rfl⟩

theorem Keeps.weaken {r s : State} (h : Keeps kM r s) : Keeps false r s :=
  ⟨h.1, h.2.1, h.2.2.1, h.2.2.2.1, fun e => nomatch e⟩

/-- A record update that leaves what `Keeps` speaks of alone. -/
theorem Keeps.congr {s s' : State} (h : Keeps kM kR s) (hv : s'.variant = s.variant) (hp : s'.pending = s.pending)
    (hk : s'.safe.keys = s.safe.keys) (hr : s'.regs = s.regs) (hw : s'.slabs.words = s.slabs.words)
    (hl : s'.latchSpi = s.latchSpi) (hl' : s'.latchMclk = s.latchMclk) (hm : s'.time.mt = s.time.mt) : Keeps kM kR s' :=
  ⟨hv.trans h.1, hp.trans h.2.1, fun n k e => hk ▸ h.2.2.1 n k e,
    fun w => by have := h.2.2.2.1 w; simpa [Memory.wf, hv, hr, hw, hl, hl'] using this, fun e => hm.trans (h.2.2.2.2 e)⟩

/-- A record update that may change media time. -/
theorem Keeps.congrTime {s s' : State} (h : Keeps kM kR s) (hv : s'.variant = s.variant) (hp : s'.pending = s.pending)
    (hk : s'.safe.keys = s.safe.keys) (hr : s'.regs = s.regs) (hw : s'.slabs.words = s.slabs.words)
    (hl : s'.latchSpi = s.latchSpi) (hl' : s'.latchMclk = s.latchMclk) : Keeps false kR s' :=
  ⟨hv.trans h.1, hp.trans h.2.1, fun n k e => hk ▸ h.2.2.1 n k e,
    fun w => by have := h.2.2.2.1 w; simpa [Memory.wf, hv, hr, hw, hl, hl'] using this, fun e => nomatch e⟩

/-- A change of the register store that keeps its form. -/
theorem Keeps.regs {s s' : State} (h : Keeps kM kR s)
    (hr : storeWf (regReset s.variant) s.regs = true → storeWf (regReset s.variant) s'.regs = true)
    (hv : s'.variant = s.variant) (hp : s'.pending = s.pending)
    (hk : s'.safe.keys = s.safe.keys) (hw : s'.slabs.words = s.slabs.words)
    (hl : s'.latchSpi = s.latchSpi) (hl' : s'.latchMclk = s.latchMclk) (hm : s'.time.mt = s.time.mt) : Keeps kM kR s' := by
  refine ⟨hv.trans h.1, hp.trans h.2.1, fun n k e => hk ▸ h.2.2.1 n k e, fun w => ?_, fun e => hm.trans (h.2.2.2.2 e)⟩
  have := h.2.2.2.1 w
  simp only [Memory.wf, Bool.and_eq_true, hv, hw, hl, hl'] at this ⊢
  exact ⟨⟨⟨hr this.1.1.1, this.1.1.2⟩, this.1.2⟩, this.2⟩

/-- A change of the slab words that keeps their form. -/
theorem Keeps.slabs {s s' : State} (h : Keeps kM kR s)
    (hw : storeWf (fun _ => 0) s.slabs.words = true → storeWf (fun _ => 0) s'.slabs.words = true)
    (hv : s'.variant = s.variant) (hp : s'.pending = s.pending)
    (hk : s'.safe.keys = s.safe.keys) (hr : s'.regs = s.regs)
    (hl : s'.latchSpi = s.latchSpi) (hl' : s'.latchMclk = s.latchMclk) (hm : s'.time.mt = s.time.mt) : Keeps kM kR s' := by
  refine ⟨hv.trans h.1, hp.trans h.2.1, fun n k e => hk ▸ h.2.2.1 n k e, fun w => ?_, fun e => hm.trans (h.2.2.2.2 e)⟩
  have := h.2.2.2.1 w
  simp only [Memory.wf, Bool.and_eq_true, hv, hr, hl, hl'] at this ⊢
  exact ⟨⟨⟨this.1.1.1, hw this.1.1.2⟩, this.1.2⟩, this.2⟩

/-- A change of the read latches that keeps their form. -/
theorem Keeps.latches {s s' : State} (h : Keeps kM kR s)
    (hl : storeWf (fun _ => 0) s.latchSpi = true → storeWf (fun _ => 0) s'.latchSpi = true)
    (hl' : storeWf (fun _ => 0) s.latchMclk = true → storeWf (fun _ => 0) s'.latchMclk = true)
    (hv : s'.variant = s.variant) (hp : s'.pending = s.pending) (hk : s'.safe.keys = s.safe.keys) (hr : s'.regs = s.regs)
    (hw : s'.slabs.words = s.slabs.words) (hm : s'.time.mt = s.time.mt) : Keeps kM kR s' := by
  refine ⟨hv.trans h.1, hp.trans h.2.1, fun n k e => hk ▸ h.2.2.1 n k e, fun w => ?_, fun e => hm.trans (h.2.2.2.2 e)⟩
  have := h.2.2.2.1 w
  simp only [Memory.wf, Bool.and_eq_true, hv, hr, hw] at this ⊢
  exact ⟨⟨this.1.1, hl this.1.2⟩, hl' this.2⟩

/-- A record update that leaves what `Keeps` speaks of alone. -/
theorem Keeps.upd {s : State}
    {power' : Power} {lullFrom' : Power} {lullEntry' : Bool} {resetKind' : ResetKind} {time' : TimeSt} {host' : HostSt} {disp' :
    DispSt} {mix' : MixSt} {zones' : List Zone} {groups' : List Group} {banks' : BankSt} {kernel' : KernelSt} {dp' : Datapath}
    {ports' : List PortSt} {ana' : List AnaSt} {anaTrim' : Option TrimRun} {timers' : List TimerSt} {uarts' : List UartSt}
    {contacts' : List ContactSt} {supv' : SupvSt} {age' : AgeSt} {stream' : StreamSt} {course' : CourseSt} {strike' :
    StrikeSt} {safe' : SafeSt} {slabs' : SlabSt} {nor' : NorSt} {pins' : Pins} {timed' : List Timed} {order' : Nat} {free' :
    Nat}
    (h : Keeps kM kR s) (hk : safe'.keys = s.safe.keys) (hw : slabs'.words = s.slabs.words) (hm : time'.mt = s.time.mt) :
    Keeps kM kR (State.mk s.variant power' lullFrom' lullEntry' resetKind' s.regs s.latchSpi s.latchMclk time' host' disp' mix'
    zones' groups' banks' kernel' dp' ports' ana' anaTrim' timers' uarts' contacts' supv' age' stream' course' strike' safe'
    slabs' nor' pins' timed' order' free' s.pending) :=
  h.congr rfl rfl hk rfl hw rfl rfl hm

/-- A record update that may change media time. -/
theorem Keeps.updTime {s : State}
    {power' : Power} {lullFrom' : Power} {lullEntry' : Bool} {resetKind' : ResetKind} {time' : TimeSt} {host' : HostSt} {disp' :
    DispSt} {mix' : MixSt} {zones' : List Zone} {groups' : List Group} {banks' : BankSt} {kernel' : KernelSt} {dp' : Datapath}
    {ports' : List PortSt} {ana' : List AnaSt} {anaTrim' : Option TrimRun} {timers' : List TimerSt} {uarts' : List UartSt}
    {contacts' : List ContactSt} {supv' : SupvSt} {age' : AgeSt} {stream' : StreamSt} {course' : CourseSt} {strike' :
    StrikeSt} {safe' : SafeSt} {slabs' : SlabSt} {nor' : NorSt} {pins' : Pins} {timed' : List Timed} {order' : Nat} {free' :
    Nat}
    (h : Keeps false kR s) (hk : safe'.keys = s.safe.keys) (hw : slabs'.words = s.slabs.words) :
    Keeps false kR (State.mk s.variant power' lullFrom' lullEntry' resetKind' s.regs s.latchSpi s.latchMclk time' host' disp' mix'
    zones' groups' banks' kernel' dp' ports' ana' anaTrim' timers' uarts' contacts' supv' age' stream' course' strike' safe'
    slabs' nor' pins' timed' order' free' s.pending) :=
  h.congrTime rfl rfl hk rfl hw rfl rfl

/-! Loops and optional results. -/

theorem forEach_keeps {α : Type} {l : List α} {s : State} {f : α → State → State}
    (hf : ∀ a t, Keeps kM kR t → Keeps kM kR (f a t)) (h : Keeps kM kR s) : Keeps kM kR (forEach l s f) := by
  unfold forEach
  induction l generalizing s with
  | nil => exact h
  | cons a l ih => exact ih (hf a s h)

theorem foldl_keeps {α : Type} {l : List α} {s : State} {f : State → α → State}
    (hf : ∀ a t, Keeps kM kR t → Keeps kM kR (f t a)) (h : Keeps kM kR s) : Keeps kM kR (l.foldl f s) := by
  induction l generalizing s with
  | nil => exact h
  | cons a l ih => exact ih (hf a s h)

theorem iter_keeps {n : Nat} {s : State} {f : State → State} (hf : ∀ t, Keeps kM kR t → Keeps kM kR (f t))
    (h : Keeps kM kR s) : Keeps kM kR (iter f n s) := by
  induction n generalizing s with
  | zero => exact h
  | succ n ih => exact ih (hf s h)

theorem getD_keeps {o : Option State} {s : State} (ho : ∀ t, o = some t → Keeps kM kR t) (h : Keeps kM kR s) :
    Keeps kM kR (o.getD s) := by
  cases o with
  | none => exact h
  | some t => exact ho t rfl

theorem ite_keeps {c : Prop} [Decidable c] {a b : State} (ha : Keeps kM kR a) (hb : Keeps kM kR b) :
    Keeps kM kR (if c then a else b) := by split <;> assumption

end Sys2Proof.Machine
end

