-- ==== Sys2Proof/Laws/KeepsOps.lean ====
section
/-! SUPPORT. What the operations of Machine/Ops.lean keep. -/

namespace Sys2Proof.Machine

variable {kM : Bool} {kR : State}

theorem State.wr_keeps {s : State} {a : Nat} {v : W32} (kH : Keeps kM kR s) : Keeps kM kR (s.wr a v) :=
  kH.regs (fun w => storeWf_storePut w) rfl rfl rfl rfl rfl rfl rfl

theorem State.put_keeps {s : State} {f : Fld} {v : Nat} (kH : Keeps kM kR s) :
    Keeps kM kR (State.put s f v) := by
  unfold State.put
  repeat' first
    | with_reducible assumption
    | with_reducible exact Keeps.refl _ _
    | with_reducible apply State.wr_keeps

theorem State.set_keeps {s : State} {f : Fld} {b : Bool} (kH : Keeps kM kR s) :
    Keeps kM kR (State.set s f b) := by
  unfold State.set
  repeat' first
    | with_reducible assumption
    | with_reducible exact Keeps.refl _ _
    | with_reducible apply State.put_keeps

theorem State.bump_keeps {s : State} {f : Fld} {k : Nat} (kH : Keeps kM kR s) :
    Keeps kM kR (State.bump s f k) := by
  unfold State.bump
  repeat' first
    | with_reducible assumption
    | with_reducible exact Keeps.refl _ _
    | with_reducible apply State.put_keeps

theorem State.bumpSat_keeps {s : State} {f : Fld} {k : Nat} (kH : Keeps kM kR s) :
    Keeps kM kR (State.bumpSat s f k) := by
  unfold State.bumpSat
  repeat' first
    | with_reducible assumption
    | with_reducible exact Keeps.refl _ _
    | with_reducible apply State.put_keeps

theorem State.wr64_keeps {s : State} {lo hi : Nat} {v : Nat} (kH : Keeps kM kR s) :
    Keeps kM kR (State.wr64 s lo hi v) := by
  unfold State.wr64
  repeat' first
    | with_reducible assumption
    | with_reducible exact Keeps.refl _ _
    | with_reducible apply State.wr_keeps

theorem State.clearRegs_keeps {s : State} {lo hi : Nat} (kH : Keeps kM kR s) : Keeps kM kR (s.clearRegs lo hi) :=
  kH.regs (fun w => storeWf_filter _ w) rfl rfl rfl rfl rfl rfl rfl

theorem State.draw_snd {s : State} (kH : Keeps kM kR s) : Keeps kM kR s.draw.2 :=
  kH.congr rfl rfl rfl rfl rfl rfl rfl rfl

theorem State.draw_keeps {s t : State} {x : Nat} (e : s.draw = (x, t)) (kH : Keeps kM kR s) : Keeps kM kR t := by
  obtain ⟨-, rfl⟩ := Prod.mk.inj e
  exact kH.congr rfl rfl rfl rfl rfl rfl rfl rfl

theorem State.drawWords_keeps {s t : State} {n : Nat} {l : List W32} (e : s.drawWords n = (l, t)) (kH : Keeps kM kR s) :
    Keeps kM kR t := by
  induction n generalizing s l with
  | zero => obtain ⟨-, rfl⟩ := Prod.mk.inj e; exact kH
  | succ n ih =>
    obtain ⟨-, rfl⟩ := Prod.mk.inj e
    exact ih rfl (State.draw_keeps rfl kH)

theorem State.setPower_keeps {s : State} {p : Power} (kH : Keeps kM kR s) :
    Keeps kM kR (State.setPower s p) := by
  unfold State.setPower
  repeat' first
    | with_reducible assumption
    | with_reducible exact Keeps.refl _ _
    | with_reducible apply State.put_keeps
    | fail_if_no_progress with_reducible refine Keeps.upd ?_ rfl rfl rfl

theorem State.wrList_keeps {l : List W32} {s : State} {a : Nat} (kH : Keeps kM kR s) : Keeps kM kR (s.wrList a l) := by
  induction l generalizing s a with
  | nil => exact kH
  | cons w l ih => exact ih (State.wr_keeps kH)

theorem State.evqOverflow_keeps {s : State} (kH : Keeps kM kR s) :
    Keeps kM kR (State.evqOverflow s) := by
  unfold State.evqOverflow
  repeat' first
    | with_reducible assumption
    | with_reducible exact Keeps.refl _ _
    | with_reducible apply State.bump_keeps
    | with_reducible apply State.put_keeps
    | with_reducible apply State.set_keeps
    | with_reducible apply State.wrList_keeps

theorem State.spend_keeps {s t : State} {v n : Nat} (e : s.spend v n = some t) (kH : Keeps kM kR s) : Keeps kM kR t := by
  unfold State.spend at e
  dsimp only at e
  split at e
  · cases e
    exact State.bump_keeps (State.put_keeps kH)
  · cases e

theorem State.vc3Copy_keeps {s : State} (kH : Keeps kM kR s) :
    Keeps kM kR (State.vc3Copy s) := by
  unfold State.vc3Copy
  repeat' first
    | with_reducible assumption
    | with_reducible exact Keeps.refl _ _
    | with_reducible apply getD_keeps
    | with_reducible refine State.spend_keeps (by with_reducible assumption) ?_
    | with_reducible refine ite_keeps ?_ ?_
    | intro _

theorem State.postAt_keeps {s : State} {ty src mt : Nat} {data : List W32} (kH : Keeps kM kR s) :
    Keeps kM kR (State.postAt s ty src mt data) := by
  unfold State.postAt
  repeat' first
    | with_reducible assumption
    | with_reducible exact Keeps.refl _ _
    | with_reducible apply State.evqOverflow_keeps
    | with_reducible apply State.put_keeps
    | with_reducible apply State.vc3Copy_keeps
    | with_reducible apply State.wrList_keeps
    | with_reducible refine ite_keeps ?_ ?_

theorem State.post_keeps {s : State} {ty src : Nat} {data : List W32} (kH : Keeps kM kR s) :
    Keeps kM kR (State.post s ty src data) := by
  unfold State.post
  repeat' first
    | with_reducible assumption
    | with_reducible exact Keeps.refl _ _
    | with_reducible apply State.postAt_keeps

theorem State.setZone_keeps {s : State} {z : Zone} (kH : Keeps kM kR s) :
    Keeps kM kR (State.setZone s z) := by
  unfold State.setZone
  repeat' first
    | with_reducible assumption
    | with_reducible exact Keeps.refl _ _
    | fail_if_no_progress with_reducible refine Keeps.upd ?_ rfl rfl rfl

theorem State.setGroup_keeps {s : State} {g : Group} (kH : Keeps kM kR s) :
    Keeps kM kR (State.setGroup s g) := by
  unfold State.setGroup
  repeat' first
    | with_reducible assumption
    | with_reducible exact Keeps.refl _ _
    | fail_if_no_progress with_reducible refine Keeps.upd ?_ rfl rfl rfl

theorem State.setPort_keeps {s : State} {p : PortSt} (kH : Keeps kM kR s) :
    Keeps kM kR (State.setPort s p) := by
  unfold State.setPort
  repeat' first
    | with_reducible assumption
    | with_reducible exact Keeps.refl _ _
    | fail_if_no_progress with_reducible refine Keeps.upd ?_ rfl rfl rfl

theorem State.setChan_keeps {s : State} {c : AnaSt} (kH : Keeps kM kR s) :
    Keeps kM kR (State.setChan s c) := by
  unfold State.setChan
  repeat' first
    | with_reducible assumption
    | with_reducible exact Keeps.refl _ _
    | fail_if_no_progress with_reducible refine Keeps.upd ?_ rfl rfl rfl

theorem State.setTimer_keeps {s : State} {t : TimerSt} (kH : Keeps kM kR s) :
    Keeps kM kR (State.setTimer s t) := by
  unfold State.setTimer
  repeat' first
    | with_reducible assumption
    | with_reducible exact Keeps.refl _ _
    | fail_if_no_progress with_reducible refine Keeps.upd ?_ rfl rfl rfl

theorem State.setUart_keeps {s : State} {u : UartSt} (kH : Keeps kM kR s) :
    Keeps kM kR (State.setUart s u) := by
  unfold State.setUart
  repeat' first
    | with_reducible assumption
    | with_reducible exact Keeps.refl _ _
    | fail_if_no_progress with_reducible refine Keeps.upd ?_ rfl rfl rfl

theorem State.setContact_keeps {s : State} {c : ContactSt} (kH : Keeps kM kR s) :
    Keeps kM kR (State.setContact s c) := by
  unfold State.setContact
  repeat' first
    | with_reducible assumption
    | with_reducible exact Keeps.refl _ _
    | fail_if_no_progress with_reducible refine Keeps.upd ?_ rfl rfl rfl

theorem State.setBank_keeps {s : State} {b : Bank} (kH : Keeps kM kR s) :
    Keeps kM kR (State.setBank s b) := by
  unfold State.setBank
  repeat' first
    | with_reducible assumption
    | with_reducible exact Keeps.refl _ _
    | with_reducible refine ite_keeps ?_ ?_
    | intro _
    | fail_if_no_progress with_reducible refine Keeps.upd ?_ rfl rfl rfl

theorem State.setPath_keeps {s : State} {p : Path} (kH : Keeps kM kR s) :
    Keeps kM kR (State.setPath s p) := by
  unfold State.setPath
  repeat' first
    | with_reducible assumption
    | with_reducible exact Keeps.refl _ _
    | fail_if_no_progress with_reducible refine Keeps.upd ?_ rfl rfl rfl

theorem State.setReturns_keeps {s : State} {r : Returns} (kH : Keeps kM kR s) :
    Keeps kM kR (State.setReturns s r) := by
  unfold State.setReturns
  repeat' first
    | with_reducible assumption
    | with_reducible exact Keeps.refl _ _
    | fail_if_no_progress with_reducible refine Keeps.upd ?_ rfl rfl rfl

theorem State.setDewZone_keeps {s : State} {d : DewZone} (kH : Keeps kM kR s) :
    Keeps kM kR (State.setDewZone s d) := by
  unfold State.setDewZone
  repeat' first
    | with_reducible assumption
    | with_reducible exact Keeps.refl _ _
    | fail_if_no_progress with_reducible refine Keeps.upd ?_ rfl rfl rfl

theorem State.setJob_keeps {s : State} {j : Job} (kH : Keeps kM kR s) :
    Keeps kM kR (State.setJob s j) := by
  unfold State.setJob
  repeat' first
    | with_reducible assumption
    | with_reducible exact Keeps.refl _ _
    | fail_if_no_progress with_reducible refine Keeps.upd ?_ rfl rfl rfl

theorem State.setVoice_keeps {s : State} {v : Voice} (kH : Keeps kM kR s) :
    Keeps kM kR (State.setVoice s v) := by
  unfold State.setVoice
  repeat' first
    | with_reducible assumption
    | with_reducible exact Keeps.refl _ _
    | fail_if_no_progress with_reducible refine Keeps.upd ?_ rfl rfl rfl

theorem State.delVoice_keeps {s : State} {src record : Nat} (kH : Keeps kM kR s) :
    Keeps kM kR (State.delVoice s src record) := by
  unfold State.delVoice
  repeat' first
    | with_reducible assumption
    | with_reducible exact Keeps.refl _ _
    | intro _
    | fail_if_no_progress with_reducible refine Keeps.upd ?_ rfl rfl rfl


end Sys2Proof.Machine
end

