-- ==== Sys2Proof/Laws/KeepsFlags.lean ====
section
/-! SUPPORT. What the operations of Machine/Flags.lean keep. -/

namespace Sys2Proof.Machine

variable {kM : Bool} {kR : State}

theorem State.clearRc_keeps {s : State} {a : Nat} (kH : Keeps kM kR s) :
    Keeps kM kR (State.clearRc s a) := by
  unfold State.clearRc
  repeat' first
    | with_reducible assumption
    | with_reducible exact Keeps.refl _ _
    | with_reducible apply State.wr_keeps
    | with_reducible refine ite_keeps ?_ ?_
    | split

theorem State.regWrite_keeps {s : State} {a : Nat} {v : W32} (kH : Keeps kM kR s) :
    Keeps kM kR (State.regWrite s a v) := by
  unfold State.regWrite
  repeat' first
    | with_reducible assumption
    | with_reducible exact Keeps.refl _ _
    | with_reducible apply State.wr_keeps
    | with_reducible refine ite_keeps ?_ ?_
    | split

end Sys2Proof.Machine
end

