-- ==== Sys2Proof/Laws/KeepsOperands.lean ====
section
/-! SUPPORT. What the operations of Machine/Operands.lean keep. -/

namespace Sys2Proof.Machine

variable {kM : Bool} {kR : State}

theorem State.writeImage_keeps {l : List Nat} {ws : List W32} {s : State} (kH : Keeps kM kR s) :
    Keeps kM kR (s.writeImage l ws) := by
  induction l generalizing s ws with
  | nil => exact kH
  | cons a l ih =>
    cases ws with
    | nil => exact kH
    | cons w ws => exact ih (State.wr_keeps kH)

end Sys2Proof.Machine
end

