-- ==== Sys2Proof/Laws/KeepsKcp.lean ====
section
/-! SUPPORT. What the operations of Machine/Kcp.lean keep. -/

namespace Sys2Proof.Machine

variable {kM : Bool} {kR : State}

/-- What a command of the protocol does at acceptance, at a refusal and after its response keeps what `Keeps` speaks of. -/
structure CmdKeeps (m : Bool) (c : Cmd) : Prop where
  act : ∀ k mt {r s : State}, Keeps m r s → Keeps m r (c.act k mt s).state
  refused : ∀ k st {r s : State}, Keeps m r s → Keeps m r (c.refused k st s)
  after : ∀ k {r s : State}, Keeps m r s → Keeps m r (c.after k s)

/-- A meaning ends in a next state, in which everything that `Keeps` speaks of is kept. -/
def Good (m : Bool) (r : State) (o : Host.Outcome State Fault Refusal) : Prop := ∃ t, o = .next t ∧ Keeps m r t

theorem Good.next {r t : State} (h : Keeps kM r t) : Good kM r (.next t) := ⟨t, rfl, h⟩

theorem Good.weaken {r : State} {o : Host.Outcome State Fault Refusal} (h : Good kM r o) : Good false r o :=
  h.imp fun _ e => ⟨e.1, e.2.weaken⟩

theorem Good.mono {r : State} {o : Host.Outcome State Fault Refusal} (h : Good true r o) : Good kM r o :=
  h.imp fun _ e => ⟨e.1, e.2.mono⟩

theorem State.record_keeps {s : State} {c : Nat} {r : Cached} (kH : Keeps kM kR s) :
    Keeps kM kR (State.record s c r) := by
  unfold State.record
  repeat' first
    | with_reducible assumption
    | with_reducible exact Keeps.refl _ _
    | with_reducible apply State.put_keeps
    | with_reducible apply State.set_keeps
    | with_reducible refine ite_keeps ?_ ?_
    | intro _
    | (extract_lets +onlyGivenNames kX; have kh : Keeps kM kR kX := ?_; (on_goal 1 => clear_value kX); (on_goal 2 => subst kX))
    | (extract_lets +onlyGivenNames kX; first | ((first | have kg : SafeSt := kX | have kg : SlabSt := kX | have kg : TimeSt := kX); clear kg; subst kX) | clear_value kX)
    | fail_if_no_progress with_reducible refine Keeps.upd ?_ rfl rfl rfl

theorem State.clearSeq_keeps {s : State} {m : Nat} (kH : Keeps kM kR s) :
    Keeps kM kR (State.clearSeq s m) := by
  unfold State.clearSeq
  repeat' first
    | with_reducible assumption
    | with_reducible exact Keeps.refl _ _
    | with_reducible apply State.put_keeps
    | with_reducible apply State.set_keeps
    | with_reducible refine ite_keeps ?_ ?_
    | intro _
    | (extract_lets +onlyGivenNames kX; have kh : Keeps kM kR kX := ?_; (on_goal 1 => clear_value kX); (on_goal 2 => subst kX))
    | (extract_lets +onlyGivenNames kX; first | ((first | have kg : SafeSt := kX | have kg : SlabSt := kX | have kg : TimeSt := kX); clear kg; subst kX) | clear_value kX)
    | fail_if_no_progress with_reducible refine Keeps.upd ?_ rfl rfl rfl

theorem State.uartFeed_keeps {s : State} {n : Nat} (kH : Keeps kM kR s) :
    Keeps kM kR (State.uartFeed s n) := by
  unfold State.uartFeed
  repeat' first
    | with_reducible assumption
    | with_reducible exact Keeps.refl _ _
    | with_reducible apply State.setUart_keeps
    | with_reducible apply State.set_keeps
    | with_reducible refine ite_keeps ?_ ?_
    | split
    | (extract_lets +onlyGivenNames kX; have kh : Keeps kM kR kX := ?_; (on_goal 1 => clear_value kX); (on_goal 2 => subst kX))
    | (extract_lets +onlyGivenNames kX; first | ((first | have kg : SafeSt := kX | have kg : SlabSt := kX | have kg : TimeSt := kX); clear kg; subst kX) | clear_value kX)

theorem State.uartKick_keeps {s : State} {n : Nat} (kH : Keeps kM kR s) :
    Keeps kM kR (State.uartKick s n) := by
  unfold State.uartKick
  repeat' first
    | with_reducible assumption
    | with_reducible exact Keeps.refl _ _
    | with_reducible apply State.setUart_keeps
    | with_reducible apply State.set_keeps
    | with_reducible apply State.uartFeed_keeps
    | with_reducible refine ite_keeps ?_ ?_
    | split

theorem State.sendFrame_keeps {s : State} {r : Response} (kH : Keeps kM kR s) :
    Keeps kM kR (State.sendFrame s r) := by
  unfold State.sendFrame
  repeat' first
    | with_reducible assumption
    | with_reducible exact Keeps.refl _ _
    | with_reducible apply State.setUart_keeps
    | with_reducible apply State.uartKick_keeps
    | with_reducible refine ite_keeps ?_ ?_

theorem State.respond_keeps {s : State} {r : Response} (kH : Keeps kM kR s) :
    Keeps kM kR (State.respond s r) := by
  unfold State.respond
  repeat' first
    | with_reducible assumption
    | with_reducible exact Keeps.refl _ _
    | with_reducible apply forEach_keeps
    | with_reducible apply getD_keeps
    | with_reducible apply State.clearSeq_keeps
    | with_reducible apply State.put_keeps
    | with_reducible apply State.sendFrame_keeps
    | with_reducible apply State.wrList_keeps
    | with_reducible apply State.wr_keeps
    | with_reducible refine State.spend_keeps (by with_reducible assumption) ?_
    | with_reducible refine ite_keeps ?_ ?_
    | intro _
    | (extract_lets +onlyGivenNames kX; have kh : Keeps kM kR kX := ?_; (on_goal 1 => clear_value kX); (on_goal 2 => subst kX))
    | (extract_lets +onlyGivenNames kX; first | ((first | have kg : SafeSt := kX | have kg : SlabSt := kX | have kg : TimeSt := kX); clear kg; subst kX) | clear_value kX)
    | fail_if_no_progress with_reducible refine Keeps.upd ?_ rfl rfl rfl

theorem State.reply_keeps {s : State} {op : Nat} {r : Response} (kH : Keeps kM kR s) :
    Keeps kM kR (State.reply s op r) := by
  unfold State.reply
  repeat' first
    | with_reducible assumption
    | with_reducible exact Keeps.refl _ _
    | with_reducible apply State.record_keeps
    | with_reducible apply State.respond_keeps
    | with_reducible refine ite_keeps ?_ ?_

theorem State.cmdDone_keeps {s : State} {op chan : Nat} {seq : BitVec 16} {status mt : Nat} (kH : Keeps kM kR s) :
    Keeps kM kR (State.cmdDone s op chan seq status mt) := by
  unfold State.cmdDone
  repeat' first
    | with_reducible assumption
    | with_reducible exact Keeps.refl _ _
    | with_reducible apply State.postAt_keeps

/-- An accepted command keeps what its effect and what follows its response keep. -/
theorem Cmd.accept_next {c : Cmd} {k : Kcp} {s : State} (hc : ∀ t, Keeps kM kR t → Keeps kM kR (c.after k t))
    (h : Keeps kM kR (c.act k (c.okMt k s) s).state) : Keeps kM kR (c.accept k s) := by
  unfold Cmd.accept
  refine hc _ ?_
  revert h
  generalize c.act k (c.okMt k s) s = a
  intro h
  repeat' first
    | with_reducible assumption
    | with_reducible apply State.cmdDone_keeps
    | with_reducible apply State.reply_keeps
    | with_reducible refine ite_keeps ?_ ?_
    | with_reducible refine Keeps.upd ?_ rfl rfl rfl

theorem Cmd.accept_keeps {c : Cmd} {k : Kcp} {s : State} (hc : CmdKeeps kM c) (kH : Keeps kM kR s) :
    Keeps kM kR (c.accept k s) :=
  Cmd.accept_next (fun _ h => hc.after k h) (hc.act k _ kH)

theorem State.countTaken_keeps {s : State} {chan : Nat} (kH : Keeps kM kR s) :
    Keeps kM kR (State.countTaken s chan) := by
  unfold State.countTaken
  repeat' first
    | with_reducible assumption
    | with_reducible exact Keeps.refl _ _
    | with_reducible apply State.bump_keeps

theorem State.screened_keeps {s : State} {k : Kcp} {op : Nat} {next : State → State}
    (hf : ∀ t, Keeps kM kR t → Keeps kM kR (next t)) (kH : Keeps kM kR s) : Keeps kM kR (s.screened k op next) := by
  unfold State.screened
  have h := State.countTaken_keeps (chan := k.chan) kH
  revert h
  generalize s.countTaken k.chan = t
  intro h
  dsimp only
  repeat' split
  · exact State.reply_keeps h
  · exact State.respond_keeps h
  · exact State.reply_keeps h
  · exact hf t h

theorem Cmd.take_keeps {c : Cmd} {k : Kcp} {s : State} (hc : CmdKeeps kM c) (kH : Keeps kM kR s) :
    Keeps kM kR (c.take k s) := by
  refine State.screened_keeps (fun t h => ?_) kH
  split
  · exact State.reply_keeps (hc.refused _ _ h)
  · split
    · exact State.reply_keeps h
    · exact Cmd.accept_keeps hc h

theorem State.hold_keeps {s : State} {op : Nat} {k : Kcp} (kH : Keeps kM kR s) :
    Keeps kM kR (State.hold s op k) := by
  unfold State.hold
  repeat' first
    | with_reducible assumption
    | with_reducible exact Keeps.refl _ _
    | with_reducible refine ite_keeps ?_ ?_
    | fail_if_no_progress with_reducible refine Keeps.upd ?_ rfl rfl rfl

theorem kcpExec_keeps {c : Cmd} {k : Kcp} {s : State} (hc : CmdKeeps kM c) (kH : Keeps kM kR s) :
    Keeps kM kR (kcpExec c k s) := by
  unfold kcpExec
  split
  · exact Cmd.take_keeps hc kH
  · exact State.hold_keeps kH

theorem State.takeUnknown_keeps {s : State} {op : Nat} {k : Kcp} (kH : Keeps kM kR s) :
    Keeps kM kR (State.takeUnknown s op k) := by
  unfold State.takeUnknown
  repeat' first
    | with_reducible assumption
    | with_reducible exact Keeps.refl _ _
    | with_reducible apply State.hold_keeps
    | with_reducible apply State.reply_keeps
    | with_reducible apply State.screened_keeps
    | with_reducible refine ite_keeps ?_ ?_
    | intro _

theorem State.screenOpcode_keeps {s : State} {chan : Fin 6} {crcOk : Bool} {ws : List W32} (kH : Keeps kM kR s) :
    Keeps kM kR (State.screenOpcode s chan crcOk ws) := by
  unfold State.screenOpcode
  repeat' first
    | with_reducible assumption
    | with_reducible exact Keeps.refl _ _
    | with_reducible apply getD_keeps
    | with_reducible apply State.takeUnknown_keeps
    | with_reducible refine ite_keeps ?_ ?_

end Sys2Proof.Machine
end

