-- ==== Sys2Proof/Laws/KeepsTaps.lean ====
section
/-! SUPPORT. What the operations of Machine/Taps.lean keep. -/

namespace Sys2Proof.Machine

variable {kM : Bool} {kR : State}

theorem State.setTaps_keeps {s : State} {l : List Tap} (kH : Keeps kM kR s) :
    Keeps kM kR (State.setTaps s l) := by
  unfold State.setTaps
  repeat' first
    | with_reducible assumption
    | with_reducible exact Keeps.refl _ _
    | fail_if_no_progress with_reducible refine Keeps.upd ?_ rfl rfl rfl

theorem State.setPend_keeps {s : State} {l : List TapPend} (kH : Keeps kM kR s) :
    Keeps kM kR (State.setPend s l) := by
  unfold State.setPend
  repeat' first
    | with_reducible assumption
    | with_reducible exact Keeps.refl _ _
    | fail_if_no_progress with_reducible refine Keeps.upd ?_ rfl rfl rfl

theorem State.tapApplied_keeps {s : State} {mt : Nat} (kH : Keeps kM kR s) :
    Keeps kM kR (State.tapApplied s mt) := by
  unfold State.tapApplied
  repeat' first
    | with_reducible assumption
    | with_reducible exact Keeps.refl _ _
    | with_reducible apply State.bump_keeps
    | with_reducible apply State.wr64_keeps

theorem State.tapSet_keeps {s : State} {src bus : Nat} {job : Option Nat} {hw : Bool} {g : Int} {code mt : Nat} (kH : Keeps kM kR s) :
    Keeps kM kR (State.tapSet s src bus job hw g code mt) := by
  unfold State.tapSet
  repeat' first
    | with_reducible assumption
    | with_reducible exact Keeps.refl _ _
    | with_reducible apply State.setTaps_keeps
    | with_reducible apply State.tapApplied_keeps
    | with_reducible refine ite_keeps ?_ ?_
    | split

theorem State.tapDiscard_keeps {s : State} {e : TapRec} {mt : Nat} (kH : Keeps kM kR s) :
    Keeps kM kR (State.tapDiscard s e mt) := by
  unfold State.tapDiscard
  repeat' first
    | with_reducible assumption
    | with_reducible exact Keeps.refl _ _
    | with_reducible apply State.bump_keeps
    | with_reducible apply State.postAt_keeps
    | with_reducible apply State.set_keeps

theorem State.unkeep_keeps {s : State} {key : Nat × Nat × Option Nat} (kH : Keeps kM kR s) :
    Keeps kM kR (State.unkeep s key) := by
  unfold State.unkeep
  repeat' first
    | with_reducible assumption
    | with_reducible exact Keeps.refl _ _
    | intro _
    | fail_if_no_progress with_reducible refine Keeps.upd ?_ rfl rfl rfl

theorem State.applyRec_keeps {s : State} {mt : Nat} {e : TapRec} (kH : Keeps kM kR s) :
    Keeps kM kR (State.applyRec s mt e) := by
  unfold State.applyRec
  repeat' first
    | with_reducible assumption
    | with_reducible exact Keeps.refl _ _
    | with_reducible apply State.record_keeps
    | with_reducible apply State.tapDiscard_keeps
    | with_reducible apply State.tapSet_keeps
    | with_reducible apply State.unkeep_keeps
    | with_reducible refine ite_keeps ?_ ?_
    | split

theorem State.flushTaps_keeps {s : State} {mt order : Nat} (kH : Keeps kM kR s) :
    Keeps kM kR (State.flushTaps s mt order) := by
  unfold State.flushTaps
  repeat' first
    | with_reducible assumption
    | with_reducible exact Keeps.refl _ _
    | with_reducible apply forEach_keeps
    | with_reducible apply State.applyRec_keeps
    | with_reducible apply State.setPend_keeps
    | intro _

theorem State.tapsNote_keeps {s : State} {job : W32} (kH : Keeps kM kR s) :
    Keeps kM kR (State.tapsNote s job) := by
  unfold State.tapsNote
  repeat' first
    | with_reducible assumption
    | with_reducible exact Keeps.refl _ _
    | with_reducible apply State.post_keeps
    | with_reducible apply State.put_keeps
    | with_reducible refine ite_keeps ?_ ?_
    | (extract_lets +onlyGivenNames kX; have kh : Keeps kM kR kX := ?_; (on_goal 1 => clear_value kX); (on_goal 2 => subst kX))
    | (extract_lets +onlyGivenNames kX; first | ((first | have kg : SafeSt := kX | have kg : SlabSt := kX | have kg : TimeSt := kX); clear kg; subst kX) | clear_value kX)
    | fail_if_no_progress with_reducible refine Keeps.upd ?_ rfl rfl rfl

theorem State.tapsFree_keeps {s : State} {b : Nat} (kH : Keeps kM kR s) :
    Keeps kM kR (State.tapsFree s b) := by
  unfold State.tapsFree
  repeat' first
    | with_reducible assumption
    | with_reducible exact Keeps.refl _ _
    | with_reducible apply State.tapsNote_keeps
    | intro _
    | (extract_lets +onlyGivenNames kX; have kh : Keeps kM kR kX := ?_; (on_goal 1 => clear_value kX); (on_goal 2 => subst kX))
    | (extract_lets +onlyGivenNames kX; first | ((first | have kg : SafeSt := kX | have kg : SlabSt := kX | have kg : TimeSt := kX); clear kg; subst kX) | clear_value kX)
    | fail_if_no_progress with_reducible refine Keeps.upd ?_ rfl rfl rfl

theorem State.dropTaps_keeps {s : State} {src record : Nat} (kH : Keeps kM kR s) :
    Keeps kM kR (State.dropTaps s src record) := by
  unfold State.dropTaps
  repeat' first
    | with_reducible assumption
    | with_reducible exact Keeps.refl _ _
    | with_reducible apply State.record_keeps
    | with_reducible apply State.tapsNote_keeps
    | intro _
    | fail_if_no_progress with_reducible refine Keeps.upd ?_ rfl rfl rfl

theorem State.dropVrel_keeps {s : State} {job : W32} (kH : Keeps kM kR s) :
    Keeps kM kR (State.dropVrel s job) := by
  unfold State.dropVrel
  repeat' first
    | with_reducible assumption
    | with_reducible exact Keeps.refl _ _
    | with_reducible apply State.setPend_keeps

theorem State.bindVrel_keeps {s : State} {job : W32} {v src startMt : Nat} (kH : Keeps kM kR s) :
    Keeps kM kR (State.bindVrel s job v src startMt) := by
  unfold State.bindVrel
  repeat' first
    | with_reducible assumption
    | with_reducible exact Keeps.refl _ _
    | with_reducible apply State.setPend_keeps

end Sys2Proof.Machine
end

