-- ==== Sys2Proof/Laws/KeepsVoices.lean ====
section
/-! SUPPORT. What the operations of Machine/Voices.lean keep. -/

namespace Sys2Proof.Machine

variable {kM : Bool} {kR : State}

theorem State.noteContact_keeps {s : State} {mt n old cls : Nat} (kH : Keeps kM kR s) :
    Keeps kM kR (State.noteContact s mt n old cls) := by
  unfold State.noteContact
  repeat' first
    | with_reducible assumption
    | with_reducible exact Keeps.refl _ _
    | with_reducible refine ite_keeps ?_ ?_
    | intro _
    | (extract_lets +onlyGivenNames kX; have kh : Keeps kM kR kX := ?_; (on_goal 1 => clear_value kX); (on_goal 2 => subst kX))
    | (extract_lets +onlyGivenNames kX; first | ((first | have kg : SafeSt := kX | have kg : SlabSt := kX | have kg : TimeSt := kX); clear kg; subst kX) | clear_value kX)
    | fail_if_no_progress with_reducible refine Keeps.upd ?_ rfl rfl rfl

theorem State.noteAmbient_keeps {s : State} {mt z code : Nat} (kH : Keeps kM kR s) :
    Keeps kM kR (State.noteAmbient s mt z code) := by
  unfold State.noteAmbient
  repeat' first
    | with_reducible assumption
    | with_reducible exact Keeps.refl _ _
    | fail_if_no_progress with_reducible refine Keeps.upd ?_ rfl rfl rfl

theorem State.setKmem_keeps {s : State} {b a : Nat} {v : W32} (kH : Keeps kM kR s) :
    Keeps kM kR (State.setKmem s b a v) := by
  unfold State.setKmem
  repeat' first
    | with_reducible assumption
    | with_reducible exact Keeps.refl _ _
    | fail_if_no_progress with_reducible refine Keeps.upd ?_ rfl rfl rfl

theorem State.putKmem_keeps {b a : Nat} {l : List W32} {s : State} (kH : Keeps kM kR s) : Keeps kM kR (s.putKmem b a l) := by
  induction l generalizing s a with
  | nil => exact kH
  | cons w l ih => exact ih (State.setKmem_keeps kH)

theorem State.rollVoice_keeps {s : State} {v : Voice} {e : Nat} {count : Bool} (kH : Keeps kM kR s) :
    Keeps kM kR (State.rollVoice s v e count) := by
  unfold State.rollVoice
  repeat' first
    | with_reducible assumption
    | with_reducible exact Keeps.refl _ _
    | with_reducible apply State.bump_keeps
    | with_reducible apply State.setVoice_keeps
    | with_reducible refine ite_keeps ?_ ?_

theorem State.rollCompanion_keeps {s : State} {w : Voice} {e : Nat} {count : Bool} (kH : Keeps kM kR s) :
    Keeps kM kR (State.rollCompanion s w e count) := by
  unfold State.rollCompanion
  repeat' first
    | with_reducible assumption
    | with_reducible exact Keeps.refl _ _
    | with_reducible apply State.rollVoice_keeps
    | with_reducible apply State.setVoice_keeps
    | with_reducible refine ite_keeps ?_ ?_
    | intro _
    | split
    | (extract_lets +onlyGivenNames kX; have kh : Keeps kM kR kX := ?_; (on_goal 1 => clear_value kX); (on_goal 2 => subst kX))
    | (extract_lets +onlyGivenNames kX; have kf : ∀ t, Keeps kM kR t → Keeps kM kR (kX t) := ?_; (on_goal 1 => clear_value kX); (on_goal 2 => subst kX))
    | with_reducible apply kf
    | (extract_lets +onlyGivenNames kX; first | ((first | have kg : SafeSt := kX | have kg : SlabSt := kX | have kg : TimeSt := kX); clear kg; subst kX) | clear_value kX)

theorem State.rollFrom_keeps {s : State} {v : Voice} {mt : Nat} {count : Bool} (kH : Keeps kM kR s) :
    Keeps kM kR (State.rollFrom s v mt count) := by
  unfold State.rollFrom
  repeat' first
    | with_reducible assumption
    | with_reducible exact Keeps.refl _ _
    | with_reducible apply forEach_keeps
    | with_reducible apply State.record_keeps
    | with_reducible apply State.rollCompanion_keeps
    | with_reducible apply State.rollVoice_keeps
    | with_reducible refine ite_keeps ?_ ?_
    | intro _
    | split

theorem State.editVoice_keeps {s : State} {src record mt : Nat} {k : EditKind} (kH : Keeps kM kR s) :
    Keeps kM kR (State.editVoice s src record mt k) := by
  unfold State.editVoice
  repeat' first
    | with_reducible assumption
    | with_reducible exact Keeps.refl _ _
    | with_reducible apply State.record_keeps
    | with_reducible apply State.rollFrom_keeps
    | with_reducible apply State.setVoice_keeps
    | with_reducible refine ite_keeps ?_ ?_
    | intro _
    | split

theorem State.toneEdit_keeps {s : State} {w : Voice} {mt : Nat} {cut : Bool} (kH : Keeps kM kR s) :
    Keeps kM kR (State.toneEdit s w mt cut) := by
  unfold State.toneEdit
  repeat' first
    | with_reducible assumption
    | with_reducible exact Keeps.refl _ _
    | with_reducible apply State.rollVoice_keeps
    | with_reducible apply State.setVoice_keeps
    | with_reducible refine ite_keeps ?_ ?_

theorem State.followEnd_keeps {s : State} {v : Voice} (kH : Keeps kM kR s) :
    Keeps kM kR (State.followEnd s v) := by
  unfold State.followEnd
  repeat' first
    | with_reducible assumption
    | with_reducible exact Keeps.refl _ _
    | with_reducible apply forEach_keeps
    | with_reducible apply State.record_keeps
    | with_reducible apply State.toneEdit_keeps
    | with_reducible refine ite_keeps ?_ ?_
    | intro _
    | split

end Sys2Proof.Machine
end

