-- ==== Sys2Proof/Laws/KeepsJobs.lean ====
section
/-! SUPPORT. What the operations of Machine/Jobs.lean keep. -/

namespace Sys2Proof.Machine

variable {kM : Bool} {kR : State}

theorem State.courseSend_keeps {s : State} {ty : Nat} {body : List W32} (kH : Keeps kM kR s) :
    Keeps kM kR (State.courseSend s ty body) := by
  unfold State.courseSend
  repeat' first
    | with_reducible assumption
    | with_reducible exact Keeps.refl _ _
    | with_reducible refine ite_keeps ?_ ?_
    | fail_if_no_progress with_reducible refine Keeps.upd ?_ rfl rfl rfl

theorem State.courseInit_keeps {s : State} (kH : Keeps kM kR s) :
    Keeps kM kR (State.courseInit s) := by
  unfold State.courseInit
  repeat' first
    | with_reducible assumption
    | with_reducible exact Keeps.refl _ _
    | with_reducible apply forEach_keeps
    | with_reducible apply State.put_keeps
    | with_reducible apply State.set_keeps
    | with_reducible apply State.wr_keeps
    | with_reducible refine ite_keeps ?_ ?_
    | intro _
    | (extract_lets +onlyGivenNames kX; have kh : Keeps kM kR kX := ?_; (on_goal 1 => clear_value kX); (on_goal 2 => subst kX))
    | (extract_lets +onlyGivenNames kX; first | ((first | have kg : SafeSt := kX | have kg : SlabSt := kX | have kg : TimeSt := kX); clear kg; subst kX) | clear_value kX)
    | fail_if_no_progress with_reducible refine Keeps.upd ?_ rfl rfl rfl

theorem State.dropReady_keeps {s : State} {r : Nat} (kH : Keeps kM kR s) :
    Keeps kM kR (State.dropReady s r) := by
  unfold State.dropReady
  repeat' first
    | with_reducible assumption
    | with_reducible exact Keeps.refl _ _
    | intro _
    | fail_if_no_progress with_reducible refine Keeps.upd ?_ rfl rfl rfl

theorem State.release_keeps {s : State} {r : Nat} (kH : Keeps kM kR s) :
    Keeps kM kR (State.release s r) := by
  unfold State.release
  repeat' first
    | with_reducible assumption
    | with_reducible exact Keeps.refl _ _
    | with_reducible apply State.dropReady_keeps
    | with_reducible apply State.record_keeps
    | with_reducible refine ite_keeps ?_ ?_
    | intro _
    | (extract_lets +onlyGivenNames kX; have kh : Keeps kM kR kX := ?_; (on_goal 1 => clear_value kX); (on_goal 2 => subst kX))
    | (extract_lets +onlyGivenNames kX; first | ((first | have kg : SafeSt := kX | have kg : SlabSt := kX | have kg : TimeSt := kX); clear kg; subst kX) | clear_value kX)
    | fail_if_no_progress with_reducible refine Keeps.upd ?_ rfl rfl rfl

theorem State.dropVoices_keeps {s : State} {r : Nat} (kH : Keeps kM kR s) :
    Keeps kM kR (State.dropVoices s r) := by
  unfold State.dropVoices
  repeat' first
    | with_reducible assumption
    | with_reducible exact Keeps.refl _ _
    | with_reducible apply forEach_keeps
    | with_reducible apply State.dropTaps_keeps
    | with_reducible apply State.record_keeps
    | intro _
    | (extract_lets +onlyGivenNames kX; have kh : Keeps kM kR kX := ?_; (on_goal 1 => clear_value kX); (on_goal 2 => subst kX))
    | (extract_lets +onlyGivenNames kX; first | ((first | have kg : SafeSt := kX | have kg : SlabSt := kX | have kg : TimeSt := kX); clear kg; subst kX) | clear_value kX)
    | fail_if_no_progress with_reducible refine Keeps.upd ?_ rfl rfl rfl

theorem State.squallOver_keeps {s : State} {j : Job} {cause : Nat} (kH : Keeps kM kR s) :
    Keeps kM kR (State.squallOver s j cause) := by
  unfold State.squallOver
  repeat' first
    | with_reducible assumption
    | with_reducible exact Keeps.refl _ _
    | with_reducible apply State.post_keeps
    | with_reducible apply State.record_keeps
    | with_reducible refine ite_keeps ?_ ?_
    | (extract_lets +onlyGivenNames kX; have kh : Keeps kM kR kX := ?_; (on_goal 1 => clear_value kX); (on_goal 2 => subst kX))
    | (extract_lets +onlyGivenNames kX; first | ((first | have kg : SafeSt := kX | have kg : SlabSt := kX | have kg : TimeSt := kX); clear kg; subst kX) | clear_value kX)
    | fail_if_no_progress with_reducible refine Keeps.upd ?_ rfl rfl rfl

theorem State.finishOwn_keeps {s : State} {j : Job} {st : JobState} {reason mt : Nat} (kH : Keeps kM kR s) :
    Keeps kM kR (State.finishOwn s j st reason mt) := by
  unfold State.finishOwn
  repeat' first
    | with_reducible assumption
    | with_reducible exact Keeps.refl _ _
    | with_reducible apply getD_keeps
    | with_reducible apply State.dropReady_keeps
    | with_reducible apply State.dropVoices_keeps
    | with_reducible apply State.dropVrel_keeps
    | with_reducible apply State.postAt_keeps
    | with_reducible apply State.record_keeps
    | with_reducible apply State.setJob_keeps
    | with_reducible apply State.squallOver_keeps

theorem State.partDone_keeps {s : State} {h : W32} {course reason : Nat} {part : Option Job} (kH : Keeps kM kR s) :
    Keeps kM kR (State.partDone s h course reason part) := by
  unfold State.partDone
  repeat' first
    | with_reducible assumption
    | with_reducible exact Keeps.refl _ _
    | with_reducible apply State.finishOwn_keeps
    | with_reducible apply State.setJob_keeps
    | with_reducible refine ite_keeps ?_ ?_
    | intro _
    | split

theorem State.finish_keeps {s : State} {j : Job} {st : JobState} {reason mt : Nat} (kH : Keeps kM kR s) :
    Keeps kM kR (State.finish s j st reason mt) := by
  unfold State.finish
  repeat' first
    | with_reducible assumption
    | with_reducible exact Keeps.refl _ _
    | with_reducible apply State.courseSend_keeps
    | with_reducible apply State.finishOwn_keeps
    | with_reducible apply State.partDone_keeps
    | with_reducible refine ite_keeps ?_ ?_
    | split

theorem State.wipeJob_keeps {s : State} {j : Job} (kH : Keeps kM kR s) :
    Keeps kM kR (State.wipeJob s j) := by
  unfold State.wipeJob
  repeat' first
    | with_reducible assumption
    | with_reducible exact Keeps.refl _ _
    | with_reducible apply State.dropVoices_keeps
    | with_reducible apply State.dropVrel_keeps
    | with_reducible apply State.record_keeps
    | with_reducible apply State.release_keeps

theorem State.wipeJobs_keeps {s : State} (kH : Keeps kM kR s) :
    Keeps kM kR (State.wipeJobs s) := by
  unfold State.wipeJobs
  repeat' first
    | with_reducible assumption
    | with_reducible exact Keeps.refl _ _
    | with_reducible apply forEach_keeps
    | with_reducible apply State.wipeJob_keeps
    | intro _

theorem State.freeReported_keeps {s : State} (kH : Keeps kM kR s) :
    Keeps kM kR (State.freeReported s) := by
  unfold State.freeReported
  repeat' first
    | with_reducible assumption
    | with_reducible exact Keeps.refl _ _
    | with_reducible apply forEach_keeps
    | with_reducible apply State.record_keeps
    | with_reducible apply State.release_keeps
    | intro _

theorem State.checkJobEnd_keeps {s : State} {r mt : Nat} (kH : Keeps kM kR s) :
    Keeps kM kR (State.checkJobEnd s r mt) := by
  unfold State.checkJobEnd
  repeat' first
    | with_reducible assumption
    | with_reducible exact Keeps.refl _ _
    | with_reducible apply State.finish_keeps
    | with_reducible refine ite_keeps ?_ ?_
    | split

theorem State.endVoice_keeps {s : State} {v : Voice} {b : Nat} (kH : Keeps kM kR s) :
    Keeps kM kR (State.endVoice s v b) := by
  unfold State.endVoice
  repeat' first
    | with_reducible assumption
    | with_reducible exact Keeps.refl _ _
    | with_reducible apply State.checkJobEnd_keeps
    | with_reducible apply State.delVoice_keeps
    | with_reducible apply State.dropTaps_keeps
    | with_reducible apply State.record_keeps
    | with_reducible apply State.setVoice_keeps
    | with_reducible refine ite_keeps ?_ ?_

theorem State.stopVoice_keeps {s : State} {v : Voice} {mt reason : Nat} (kH : Keeps kM kR s) :
    Keeps kM kR (State.stopVoice s v mt reason) := by
  unfold State.stopVoice
  repeat' first
    | with_reducible assumption
    | with_reducible exact Keeps.refl _ _
    | with_reducible apply State.followEnd_keeps
    | with_reducible apply State.setVoice_keeps
    | with_reducible refine ite_keeps ?_ ?_

theorem State.stopJob_keeps {s : State} {j : Job} {mt reason : Nat} (kH : Keeps kM kR s) :
    Keeps kM kR (State.stopJob s j mt reason) := by
  unfold State.stopJob
  repeat' first
    | with_reducible assumption
    | with_reducible exact Keeps.refl _ _
    | with_reducible apply forEach_keeps
    | with_reducible apply State.finish_keeps
    | with_reducible apply State.record_keeps
    | with_reducible apply State.setJob_keeps
    | with_reducible apply State.stopVoice_keeps
    | with_reducible refine ite_keeps ?_ ?_
    | intro _
    | split

end Sys2Proof.Machine
end

