-- ==== Sys2Proof/Laws/KeepsPlace.lean ====
section
/-! SUPPORT. What the operations of Machine/Place.lean keep. -/

namespace Sys2Proof.Machine

variable {kM : Bool} {kR : State}

theorem State.waitNote_keeps {s : State} {c : Nat} (kH : Keeps kM kR s) :
    Keeps kM kR (State.waitNote s c) := by
  unfold State.waitNote
  repeat' first
    | with_reducible assumption
    | with_reducible exact Keeps.refl _ _
    | with_reducible apply State.put_keeps

theorem State.waitTick_keeps {s : State} (kH : Keeps kM kR s) :
    Keeps kM kR (State.waitTick s) := by
  unfold State.waitTick
  repeat' first
    | with_reducible assumption
    | with_reducible exact Keeps.refl _ _
    | with_reducible apply forEach_keeps
    | with_reducible apply State.waitNote_keeps
    | intro _
    | (extract_lets +onlyGivenNames kX; have kh : Keeps kM kR kX := ?_; (on_goal 1 => clear_value kX); (on_goal 2 => subst kX))
    | (extract_lets +onlyGivenNames kX; first | ((first | have kg : SafeSt := kX | have kg : SlabSt := kX | have kg : TimeSt := kX); clear kg; subst kX) | clear_value kX)
    | fail_if_no_progress with_reducible refine Keeps.upd ?_ rfl rfl rfl

theorem State.bind_keeps {s : State} {j : Job} {b : Nat} {slots : List Nat} (kH : Keeps kM kR s) :
    Keeps kM kR (State.bind s j b slots) := by
  unfold State.bind
  repeat' first
    | with_reducible assumption
    | with_reducible exact Keeps.refl _ _
    | with_reducible apply forEach_keeps
    | with_reducible apply State.bindVrel_keeps
    | with_reducible apply State.dropReady_keeps
    | with_reducible apply State.editVoice_keeps
    | with_reducible apply State.put_keeps
    | with_reducible apply State.record_keeps
    | with_reducible apply State.release_keeps
    | with_reducible apply State.setJob_keeps
    | with_reducible apply State.setTaps_keeps
    | with_reducible apply State.setVoice_keeps
    | with_reducible apply State.tapsNote_keeps
    | with_reducible apply State.waitNote_keeps
    | with_reducible refine ite_keeps ?_ ?_
    | intro _
    | split
    | (extract_lets +onlyGivenNames kX; have kh : Keeps kM kR kX := ?_; (on_goal 1 => clear_value kX); (on_goal 2 => subst kX))
    | (extract_lets +onlyGivenNames kX; first | ((first | have kg : SafeSt := kX | have kg : SlabSt := kX | have kg : TimeSt := kX); clear kg; subst kX) | clear_value kX)
    | fail_if_no_progress with_reducible refine Keeps.upd ?_ rfl rfl rfl

theorem State.waitTaps_keeps {s : State} {j : Job} (kH : Keeps kM kR s) :
    Keeps kM kR (State.waitTaps s j) := by
  unfold State.waitTaps
  repeat' first
    | with_reducible assumption
    | with_reducible exact Keeps.refl _ _
    | with_reducible apply State.post_keeps
    | with_reducible apply State.setJob_keeps
    | with_reducible apply State.set_keeps
    | with_reducible refine ite_keeps ?_ ?_

theorem State.stealAll_keeps {s : State} {gone : List Nat} {t : Nat} (kH : Keeps kM kR s) :
    Keeps kM kR (State.stealAll s gone t) := by
  unfold State.stealAll
  repeat' first
    | with_reducible assumption
    | with_reducible exact Keeps.refl _ _
    | with_reducible apply forEach_keeps
    | with_reducible apply State.bump_keeps
    | with_reducible apply State.stopJob_keeps
    | intro _
    | split

theorem State.place_fst {s : State} {r : Nat} (kH : Keeps kM kR s) :
    Keeps kM kR (State.place s r).1 := by
  unfold State.place
  repeat' first
    | with_reducible assumption
    | with_reducible exact Keeps.refl _ _
    | with_reducible apply getD_keeps
    | with_reducible apply State.bind_keeps
    | with_reducible apply State.dropReady_keeps
    | with_reducible apply State.finish_keeps
    | with_reducible apply State.record_keeps
    | with_reducible apply State.stealAll_keeps
    | with_reducible apply State.waitTaps_keeps
    | with_reducible refine ite_keeps ?_ ?_
    | intro _
    | split
    | (extract_lets +onlyGivenNames kX; have kh : Keeps kM kR kX := ?_; (on_goal 1 => clear_value kX); (on_goal 2 => subst kX))
    | (extract_lets +onlyGivenNames kX; first | ((first | have kg : SafeSt := kX | have kg : SlabSt := kX | have kg : TimeSt := kX); clear kg; subst kX) | clear_value kX)

theorem State.place_keeps {s : State} {r : Nat} {kt : State} {kx : Bool}
    (ke : State.place s r = (kt, kx)) (kH : Keeps kM kR s) : Keeps kM kR kt := by
  have h := State.place_fst (s := s) (r := r) kH
  rwa [ke] at h

theorem State.serveClass_keeps {c n : Nat} {s : State} (kH : Keeps kM kR s) : Keeps kM kR (State.serveClass c n s) := by
  induction n generalizing s with
  | zero => exact kH
  | succ n ih =>
    unfold State.serveClass
    split
    · exact kH
    · split
      rename_i e
      have h := State.place_keeps e kH
      split
      · exact ih (State.dropReady_keeps h)
      · exact h

theorem State.serve_keeps {s : State} (kH : Keeps kM kR s) :
    Keeps kM kR (State.serve s) := by
  unfold State.serve
  repeat' first
    | with_reducible assumption
    | with_reducible exact Keeps.refl _ _
    | with_reducible apply forEach_keeps
    | with_reducible apply State.serveClass_keeps
    | intro _

theorem State.toReady_keeps {s : State} {j : Job} (kH : Keeps kM kR s) :
    Keeps kM kR (State.toReady s j) := by
  unfold State.toReady
  repeat' first
    | with_reducible assumption
    | with_reducible exact Keeps.refl _ _
    | with_reducible apply State.record_keeps
    | with_reducible apply State.setJob_keeps
    | (extract_lets +onlyGivenNames kX; have kh : Keeps kM kR kX := ?_; (on_goal 1 => clear_value kX); (on_goal 2 => subst kX))
    | (extract_lets +onlyGivenNames kX; first | ((first | have kg : SafeSt := kX | have kg : SlabSt := kX | have kg : TimeSt := kX); clear kg; subst kX) | clear_value kX)
    | fail_if_no_progress with_reducible refine Keeps.upd ?_ rfl rfl rfl

theorem State.dispatch_keeps {s : State} (kH : Keeps kM kR s) :
    Keeps kM kR (State.dispatch s) := by
  unfold State.dispatch
  repeat' first
    | with_reducible assumption
    | with_reducible exact Keeps.refl _ _
    | with_reducible apply forEach_keeps
    | with_reducible apply State.serve_keeps
    | with_reducible apply State.toReady_keeps
    | with_reducible refine ite_keeps ?_ ?_
    | intro _

theorem State.insertJob_keeps {s : State} {r : Nat} {d : Descr} {startAt want : Nat} {hw : Bool} {site : Option W32}
    (kH : Keeps kM kR s) : Keeps kM kR (s.insertJob r d startAt want hw site) := by
  unfold State.insertJob
  extract_lets j t
  have h : Keeps kM kR t := by
    subst t
    with_reducible refine Keeps.upd kH rfl rfl rfl
  with_reducible refine ite_keeps ?_ ?_
  · with_reducible exact State.setJob_keeps h
  · with_reducible exact State.serveClass_keeps (State.toReady_keeps h)

theorem State.squallInsert_keeps {s : State} {source contact startBlock : Nat} (kH : Keeps kM kR s) :
    Keeps kM kR (State.squallInsert s source contact startBlock) := by
  unfold State.squallInsert
  repeat' first
    | with_reducible assumption
    | with_reducible exact Keeps.refl _ _
    | with_reducible apply State.insertJob_keeps
    | with_reducible apply State.post_keeps
    | split
    | (extract_lets +onlyGivenNames kX; have kh : Keeps kM kR kX := ?_; (on_goal 1 => clear_value kX); (on_goal 2 => subst kX))
    | (extract_lets +onlyGivenNames kX; first | ((first | have kg : SafeSt := kX | have kg : SlabSt := kX | have kg : TimeSt := kX); clear kg; subst kX) | clear_value kX)
    | fail_if_no_progress with_reducible refine Keeps.upd ?_ rfl rfl rfl

theorem State.runFrom_keeps {s : State} {mt : Nat} (kH : Keeps kM kR s) :
    Keeps kM kR (State.runFrom s mt) := by
  unfold State.runFrom
  repeat' first
    | with_reducible assumption
    | with_reducible exact Keeps.refl _ _
    | fail_if_no_progress with_reducible refine Keeps.upd ?_ rfl rfl rfl

theorem State.squallTrigger_keeps {s : State} {source contact : Nat} (kH : Keeps kM kR s) :
    Keeps kM kR (State.squallTrigger s source contact) := by
  unfold State.squallTrigger
  repeat' first
    | with_reducible assumption
    | with_reducible exact Keeps.refl _ _
    | with_reducible apply State.bumpSat_keeps
    | with_reducible apply State.courseSend_keeps
    | with_reducible apply State.runFrom_keeps
    | with_reducible apply State.squallInsert_keeps
    | with_reducible refine ite_keeps ?_ ?_
    | intro _
    | split
    | (extract_lets +onlyGivenNames kX; have kh : Keeps kM kR kX := ?_; (on_goal 1 => clear_value kX); (on_goal 2 => subst kX))
    | (extract_lets +onlyGivenNames kX; have kf : ∀ t, Keeps kM kR t → Keeps kM kR (kX t) := ?_; (on_goal 1 => clear_value kX); (on_goal 2 => subst kX))
    | with_reducible apply kf
    | (extract_lets +onlyGivenNames kX; first | ((first | have kg : SafeSt := kX | have kg : SlabSt := kX | have kg : TimeSt := kX); clear kg; subst kX) | clear_value kX)
    | fail_if_no_progress with_reducible refine Keeps.upd ?_ rfl rfl rfl

theorem State.squallCommand_fst {s : State} {source : Nat} (kH : Keeps kM kR s) :
    Keeps kM kR (State.squallCommand s source).1 := by
  unfold State.squallCommand
  repeat' first
    | with_reducible assumption
    | with_reducible exact Keeps.refl _ _
    | with_reducible apply getD_keeps
    | with_reducible apply State.bind_keeps
    | with_reducible apply State.squallTrigger_keeps

theorem State.squallCommand_keeps {s : State} {source : Nat} {kt : State} {kx : W32}
    (ke : State.squallCommand s source = (kt, kx)) (kH : Keeps kM kR s) : Keeps kM kR kt := by
  have h := State.squallCommand_fst (s := s) (source := source) kH
  rwa [ke] at h

theorem State.squallBell_keeps {s : State} (kH : Keeps kM kR s) :
    Keeps kM kR (State.squallBell s) := by
  unfold State.squallBell
  repeat' first
    | with_reducible assumption
    | with_reducible exact Keeps.refl _ _
    | with_reducible apply State.squallCommand_fst
    | with_reducible refine State.squallCommand_keeps (by with_reducible assumption) ?_
    | split
    | (extract_lets +onlyGivenNames kX; have kh : Keeps kM kR kX := ?_; (on_goal 1 => clear_value kX); (on_goal 2 => subst kX))
    | (extract_lets +onlyGivenNames kX; first | ((first | have kg : SafeSt := kX | have kg : SlabSt := kX | have kg : TimeSt := kX); clear kg; subst kX) | clear_value kX)
    | fail_if_no_progress with_reducible refine Keeps.upd ?_ rfl rfl rfl

theorem State.squallRelease_keeps {s : State} {mt cause : Nat} (kH : Keeps kM kR s) :
    Keeps kM kR (State.squallRelease s mt cause) := by
  unfold State.squallRelease
  repeat' first
    | with_reducible assumption
    | with_reducible exact Keeps.refl _ _
    | with_reducible apply forEach_keeps
    | with_reducible apply State.editVoice_keeps
    | with_reducible apply State.release_keeps
    | intro _
    | split
    | (extract_lets +onlyGivenNames kX; have kh : Keeps kM kR kX := ?_; (on_goal 1 => clear_value kX); (on_goal 2 => subst kX))
    | (extract_lets +onlyGivenNames kX; first | ((first | have kg : SafeSt := kX | have kg : SlabSt := kX | have kg : TimeSt := kX); clear kg; subst kX) | clear_value kX)
    | fail_if_no_progress with_reducible refine Keeps.upd ?_ rfl rfl rfl

theorem State.squallStop_fst {s : State} {mt cause : Nat} (kH : Keeps kM kR s) :
    Keeps kM kR (State.squallStop s mt cause).1 := by
  unfold State.squallStop
  repeat' first
    | with_reducible assumption
    | with_reducible exact Keeps.refl _ _
    | with_reducible apply State.courseSend_keeps
    | with_reducible apply State.squallRelease_keeps
    | with_reducible refine ite_keeps ?_ ?_

theorem State.squallStop_keeps {s : State} {mt cause : Nat} {kt : State} {kx : Nat}
    (ke : State.squallStop s mt cause = (kt, kx)) (kH : Keeps kM kR s) : Keeps kM kR kt := by
  have h := State.squallStop_fst (s := s) (mt := mt) (cause := cause) kH
  rwa [ke] at h

theorem State.trigFire_keeps {s : State} {t : Nat} (kH : Keeps kM kR s) :
    Keeps kM kR (State.trigFire s t) := by
  unfold State.trigFire
  repeat' first
    | with_reducible assumption
    | with_reducible exact Keeps.refl _ _
    | with_reducible apply State.bumpSat_keeps
    | with_reducible apply State.insertJob_keeps
    | with_reducible apply State.put_keeps
    | with_reducible refine ite_keeps ?_ ?_
    | intro _
    | split
    | (extract_lets +onlyGivenNames kX; have kh : Keeps kM kR kX := ?_; (on_goal 1 => clear_value kX); (on_goal 2 => subst kX))
    | (extract_lets +onlyGivenNames kX; first | ((first | have kg : SafeSt := kX | have kg : SlabSt := kX | have kg : TimeSt := kX); clear kg; subst kX) | clear_value kX)
    | fail_if_no_progress with_reducible refine Keeps.upd ?_ rfl rfl rfl

theorem State.trigAll_keeps {s : State} {kind n event : Nat} (kH : Keeps kM kR s) :
    Keeps kM kR (State.trigAll s kind n event) := by
  unfold State.trigAll
  repeat' first
    | with_reducible assumption
    | with_reducible exact Keeps.refl _ _
    | with_reducible apply forEach_keeps
    | with_reducible apply State.trigFire_keeps
    | with_reducible refine ite_keeps ?_ ?_
    | intro _

end Sys2Proof.Machine
end

