-- ==== Sys2Proof/Laws/KeepsOutputs.lean ====
section
/-! SUPPORT. What the operations of Machine/Outputs.lean keep. -/

namespace Sys2Proof.Machine

variable {kM : Bool} {kR : State}

theorem State.setAna_keeps {s : State} {n st : Nat} (kH : Keeps kM kR s) :
    Keeps kM kR (State.setAna s n st) := by
  unfold State.setAna
  repeat' first
    | with_reducible assumption
    | with_reducible exact Keeps.refl _ _
    | with_reducible apply State.put_keeps

theorem State.anaMute_keeps {s : State} {n : Nat} {after : AnaAfter} {fast : Bool} (kH : Keeps kM kR s) :
    Keeps kM kR (State.anaMute s n after fast) := by
  unfold State.anaMute
  repeat' first
    | with_reducible assumption
    | with_reducible exact Keeps.refl _ _
    | with_reducible apply State.setAna_keeps
    | with_reducible apply State.setChan_keeps
    | with_reducible refine ite_keeps ?_ ?_

theorem State.anaOpen_keeps {s : State} {n st : Nat} (kH : Keeps kM kR s) :
    Keeps kM kR (State.anaOpen s n st) := by
  unfold State.anaOpen
  repeat' first
    | with_reducible assumption
    | with_reducible exact Keeps.refl _ _
    | with_reducible apply State.put_keeps
    | with_reducible apply State.setAna_keeps
    | with_reducible apply State.setChan_keeps

theorem State.anaStart_keeps {s : State} {n : Nat} (kH : Keeps kM kR s) :
    Keeps kM kR (State.anaStart s n) := by
  unfold State.anaStart
  repeat' first
    | with_reducible assumption
    | with_reducible exact Keeps.refl _ _
    | with_reducible apply State.setAna_keeps
    | with_reducible apply State.setChan_keeps
    | with_reducible apply State.set_keeps
    | with_reducible refine ite_keeps ?_ ?_

theorem State.trimAbort_keeps {s : State} {n : Nat} (kH : Keeps kM kR s) :
    Keeps kM kR (State.trimAbort s n) := by
  unfold State.trimAbort
  repeat' first
    | with_reducible assumption
    | with_reducible exact Keeps.refl _ _
    | with_reducible refine ite_keeps ?_ ?_
    | intro _
    | split
    | fail_if_no_progress with_reducible refine Keeps.upd ?_ rfl rfl rfl

theorem State.setPortState_keeps {s : State} {n st : Nat} (kH : Keeps kM kR s) :
    Keeps kM kR (State.setPortState s n st) := by
  unfold State.setPortState
  repeat' first
    | with_reducible assumption
    | with_reducible exact Keeps.refl _ _
    | with_reducible apply State.put_keeps

theorem State.portStopAt_keeps {s : State} {n mt : Nat} {post : Bool} (kH : Keeps kM kR s) :
    Keeps kM kR (State.portStopAt s n mt post) := by
  unfold State.portStopAt
  repeat' first
    | with_reducible assumption
    | with_reducible exact Keeps.refl _ _
    | with_reducible apply State.post_keeps
    | with_reducible apply State.setPort_keeps
    | with_reducible refine ite_keeps ?_ ?_

theorem State.portHalt_keeps {s : State} {n : Nat} (kH : Keeps kM kR s) :
    Keeps kM kR (State.portHalt s n) := by
  unfold State.portHalt
  repeat' first
    | with_reducible assumption
    | with_reducible exact Keeps.refl _ _
    | with_reducible apply State.setPortState_keeps
    | with_reducible apply State.setPort_keeps

theorem State.portStartAt_keeps {s : State} {n mt : Nat} (kH : Keeps kM kR s) :
    Keeps kM kR (State.portStartAt s n mt) := by
  unfold State.portStartAt
  repeat' first
    | with_reducible assumption
    | with_reducible exact Keeps.refl _ _
    | with_reducible apply State.setPortState_keeps
    | with_reducible apply State.setPort_keeps
    | with_reducible refine ite_keeps ?_ ?_

theorem State.contactsOff_keeps {s : State} (kH : Keeps kM kR s) :
    Keeps kM kR (State.contactsOff s) := by
  unfold State.contactsOff
  repeat' first
    | with_reducible assumption
    | with_reducible exact Keeps.refl _ _
    | with_reducible apply State.put_keeps

theorem State.outputsInert_keeps {s : State} {fast : Bool} (kH : Keeps kM kR s) :
    Keeps kM kR (State.outputsInert s fast) := by
  unfold State.outputsInert
  repeat' first
    | with_reducible assumption
    | with_reducible exact Keeps.refl _ _
    | with_reducible apply forEach_keeps
    | with_reducible apply State.anaMute_keeps
    | with_reducible refine ite_keeps ?_ ?_
    | intro _

theorem State.outputsLive_keeps {s : State} (kH : Keeps kM kR s) :
    Keeps kM kR (State.outputsLive s) := by
  unfold State.outputsLive
  repeat' first
    | with_reducible assumption
    | with_reducible exact Keeps.refl _ _
    | with_reducible apply forEach_keeps
    | with_reducible apply State.anaStart_keeps
    | with_reducible refine ite_keeps ?_ ?_
    | intro _

theorem State.changePower_keeps {s : State} {p : Power} (kH : Keeps kM kR s) :
    Keeps kM kR (State.changePower s p) := by
  unfold State.changePower
  repeat' first
    | with_reducible assumption
    | with_reducible exact Keeps.refl _ _
    | with_reducible apply State.post_keeps
    | with_reducible apply State.setPower_keeps

theorem State.failRole_keeps {s : State} {zone role cause : Nat} (kH : Keeps kM kR s) :
    Keeps kM kR (State.failRole s zone role cause) := by
  unfold State.failRole
  repeat' first
    | with_reducible assumption
    | with_reducible exact Keeps.refl _ _
    | with_reducible apply State.setZone_keeps
    | with_reducible refine ite_keeps ?_ ?_

theorem State.failDests_keeps {s : State} {test : W32 → Bool} {cause : Nat} (kH : Keeps kM kR s) :
    Keeps kM kR (State.failDests s test cause) := by
  unfold State.failDests
  repeat' first
    | with_reducible assumption
    | with_reducible exact Keeps.refl _ _
    | with_reducible apply forEach_keeps
    | with_reducible apply getD_keeps
    | with_reducible apply State.failRole_keeps
    | with_reducible refine ite_keeps ?_ ?_
    | intro _
    | split

theorem State.failType_keeps {s : State} {ty : Nat} {idx : Nat → Bool} {cause : Nat} (kH : Keeps kM kR s) :
    Keeps kM kR (State.failType s ty idx cause) := by
  unfold State.failType
  repeat' first
    | with_reducible assumption
    | with_reducible exact Keeps.refl _ _
    | with_reducible apply State.failDests_keeps

end Sys2Proof.Machine
end

