-- ==== Sys2Proof/Laws/KeepsRaise.lean ====
section
/-! SUPPORT. What the operations of Machine/Raise.lean keep. -/

namespace Sys2Proof.Machine

variable {kM : Bool} {kR : State}

theorem State.baseReact_snd {s : State} {code inst : Nat} (kH : Keeps kM kR s) :
    Keeps kM kR (State.baseReact s code inst).2 := by
  unfold State.baseReact
  repeat' first
    | with_reducible assumption
    | with_reducible exact Keeps.refl _ _
    | with_reducible apply State.draw_snd
    | with_reducible refine State.draw_keeps (by with_reducible assumption) ?_
    | with_reducible refine ite_keeps ?_ ?_
    | split

theorem State.baseReact_keeps {s : State} {code inst : Nat} {kt : State} {kx : Nat}
    (ke : State.baseReact s code inst = (kx, kt)) (kH : Keeps kM kR s) : Keeps kM kR kt := by
  have h := State.baseReact_snd (s := s) (code := code) (inst := inst) kH
  rwa [ke] at h

theorem State.bufferRecord_keeps {s : State} {code inst react : Nat} {injected : Bool} {loc exp obs : W32} (kH : Keeps kM kR s) :
    Keeps kM kR (State.bufferRecord s code inst react injected loc exp obs) := by
  unfold State.bufferRecord
  repeat' first
    | with_reducible assumption
    | with_reducible exact Keeps.refl _ _
    | with_reducible apply getD_keeps
    | with_reducible apply State.bump_keeps
    | with_reducible apply State.put_keeps
    | with_reducible apply State.wr64_keeps
    | with_reducible refine ite_keeps ?_ ?_
    | intro _
    | (extract_lets +onlyGivenNames kX; have kh : Keeps kM kR kX := ?_; (on_goal 1 => clear_value kX); (on_goal 2 => subst kX))
    | (extract_lets +onlyGivenNames kX; first | ((first | have kg : SafeSt := kX | have kg : SlabSt := kX | have kg : TimeSt := kX); clear kg; subst kX) | clear_value kX)
    | fail_if_no_progress with_reducible refine Keeps.upd ?_ rfl rfl rfl

theorem State.freezeAlive_keeps {s : State} (kH : Keeps kM kR s) :
    Keeps kM kR (State.freezeAlive s) := by
  unfold State.freezeAlive
  repeat' first
    | with_reducible assumption
    | with_reducible exact Keeps.refl _ _
    | with_reducible apply State.set_keeps

theorem State.enterFault_keeps {s : State} {code : Nat} (kH : Keeps kM kR s) :
    Keeps kM kR (State.enterFault s code) := by
  unfold State.enterFault
  repeat' first
    | with_reducible assumption
    | with_reducible exact Keeps.refl _ _
    | with_reducible apply forEach_keeps
    | with_reducible apply State.bump_keeps
    | with_reducible apply State.contactsOff_keeps
    | with_reducible apply State.freezeAlive_keeps
    | with_reducible apply State.outputsInert_keeps
    | with_reducible apply State.portStopAt_keeps
    | with_reducible apply State.put_keeps
    | with_reducible apply State.setPower_keeps
    | with_reducible apply State.wipeJobs_keeps
    | intro _
    | (extract_lets +onlyGivenNames kX; have kh : Keeps kM kR kX := ?_; (on_goal 1 => clear_value kX); (on_goal 2 => subst kX))
    | (extract_lets +onlyGivenNames kX; first | ((first | have kg : SafeSt := kX | have kg : SlabSt := kX | have kg : TimeSt := kX); clear kg; subst kX) | clear_value kX)
    | fail_if_no_progress with_reducible refine Keeps.upd ?_ rfl rfl rfl

theorem State.migrate_keeps {s : State} {v : Voice} {src m : Nat} (kH : Keeps kM kR s) :
    Keeps kM kR (State.migrate s v src m) := by
  unfold State.migrate
  repeat' first
    | with_reducible assumption
    | with_reducible exact Keeps.refl _ _
    | with_reducible apply State.delVoice_keeps
    | with_reducible apply State.putKmem_keeps
    | with_reducible apply State.record_keeps
    | with_reducible apply State.setVoice_keeps
    | with_reducible refine ite_keeps ?_ ?_
    | split
    | (extract_lets +onlyGivenNames kX; have kh : Keeps kM kR kX := ?_; (on_goal 1 => clear_value kX); (on_goal 2 => subst kX))

theorem State.moveVoice_keeps {s : State} {old new m : Nat} (kH : Keeps kM kR s) :
    Keeps kM kR (State.moveVoice s old new m) := by
  unfold State.moveVoice
  repeat' first
    | with_reducible assumption
    | with_reducible exact Keeps.refl _ _
    | with_reducible apply State.migrate_keeps
    | with_reducible apply State.record_keeps
    | with_reducible apply State.setJob_keeps
    | with_reducible apply State.setPend_keeps
    | with_reducible apply State.setTaps_keeps
    | with_reducible refine ite_keeps ?_ ?_
    | intro _
    | split
    | (extract_lets +onlyGivenNames kX; have kh : Keeps kM kR kX := ?_; (on_goal 1 => clear_value kX); (on_goal 2 => subst kX))
    | (extract_lets +onlyGivenNames kX; first | ((first | have kg : SafeSt := kX | have kg : SlabSt := kX | have kg : TimeSt := kX); clear kg; subst kX) | clear_value kX)
    | fail_if_no_progress with_reducible refine Keeps.upd ?_ rfl rfl rfl

theorem State.takeOver_keeps {s : State} {b p q : Nat} (kH : Keeps kM kR s) :
    Keeps kM kR (State.takeOver s b p q) := by
  unfold State.takeOver
  repeat' first
    | with_reducible assumption
    | with_reducible exact Keeps.refl _ _
    | with_reducible apply State.put_keeps
    | with_reducible apply State.set_keeps
    | with_reducible apply State.wr_keeps

theorem State.migrateVoices_keeps {s : State} {b m : Nat} (kH : Keeps kM kR s) :
    Keeps kM kR (State.migrateVoices s b m) := by
  unfold State.migrateVoices
  repeat' first
    | with_reducible assumption
    | with_reducible exact Keeps.refl _ _
    | with_reducible apply forEach_keeps
    | with_reducible apply State.migrate_keeps
    | intro _

theorem State.excludeTwin_keeps {s : State} {b m : Nat} (kH : Keeps kM kR s) :
    Keeps kM kR (State.excludeTwin s b m) := by
  unfold State.excludeTwin
  repeat' first
    | with_reducible assumption
    | with_reducible exact Keeps.refl _ _
    | intro _
    | (extract_lets +onlyGivenNames kX; have kh : Keeps kM kR kX := ?_; (on_goal 1 => clear_value kX); (on_goal 2 => subst kX))
    | (extract_lets +onlyGivenNames kX; first | ((first | have kg : SafeSt := kX | have kg : SlabSt := kX | have kg : TimeSt := kX); clear kg; subst kX) | clear_value kX)
    | fail_if_no_progress with_reducible refine Keeps.upd ?_ rfl rfl rfl

theorem State.brickFail_keeps {s : State} {b : Nat} (kH : Keeps kM kR s) :
    Keeps kM kR (State.brickFail s b) := by
  unfold State.brickFail
  repeat' first
    | with_reducible assumption
    | with_reducible exact Keeps.refl _ _
    | with_reducible apply forEach_keeps
    | with_reducible apply State.bumpSat_keeps
    | with_reducible apply State.courseSend_keeps
    | with_reducible apply State.excludeTwin_keeps
    | with_reducible apply State.migrateVoices_keeps
    | with_reducible apply State.moveVoice_keeps
    | with_reducible apply State.set_keeps
    | with_reducible apply State.stopJob_keeps
    | with_reducible apply State.takeOver_keeps
    | with_reducible refine ite_keeps ?_ ?_
    | intro _
    | split
    | (extract_lets +onlyGivenNames kX; have kh : Keeps kM kR kX := ?_; (on_goal 1 => clear_value kX); (on_goal 2 => subst kX))
    | (extract_lets +onlyGivenNames kX; first | ((first | have kg : SafeSt := kX | have kg : SlabSt := kX | have kg : TimeSt := kX); clear kg; subst kX) | clear_value kX)
    | fail_if_no_progress with_reducible refine Keeps.upd ?_ rfl rfl rfl

theorem State.bankLost_keeps {s : State} (kH : Keeps kM kR s) :
    Keeps kM kR (State.bankLost s) := by
  unfold State.bankLost
  repeat' first
    | with_reducible assumption
    | with_reducible exact Keeps.refl _ _
    | with_reducible apply forEach_keeps
    | with_reducible apply State.put_keeps
    | with_reducible apply State.set_keeps
    | with_reducible refine ite_keeps ?_ ?_
    | intro _
    | (extract_lets +onlyGivenNames kX; have kh : Keeps kM kR kX := ?_; (on_goal 1 => clear_value kX); (on_goal 2 => subst kX))
    | (extract_lets +onlyGivenNames kX; first | ((first | have kg : SafeSt := kX | have kg : SlabSt := kX | have kg : TimeSt := kX); clear kg; subst kX) | clear_value kX)
    | fail_if_no_progress with_reducible refine Keeps.upd ?_ rfl rfl rfl

theorem State.reactTo_keeps {s : State} {code inst react : Nat} (kH : Keeps kM kR s) :
    Keeps kM kR (State.reactTo s code inst react) := by
  unfold State.reactTo
  repeat' first
    | with_reducible assumption
    | with_reducible exact Keeps.refl _ _
    | with_reducible apply getD_keeps
    | with_reducible apply State.bankLost_keeps
    | with_reducible apply State.brickFail_keeps
    | with_reducible apply State.enterFault_keeps
    | with_reducible apply State.freezeAlive_keeps
    | with_reducible refine ite_keeps ?_ ?_
    | intro _
    | split
    | (extract_lets +onlyGivenNames kX; have kh : Keeps kM kR kX := ?_; (on_goal 1 => clear_value kX); (on_goal 2 => subst kX))
    | (extract_lets +onlyGivenNames kX; first | ((first | have kg : SafeSt := kX | have kg : SlabSt := kX | have kg : TimeSt := kX); clear kg; subst kX) | clear_value kX)
    | fail_if_no_progress with_reducible refine Keeps.upd ?_ rfl rfl rfl

theorem State.raiseWith_keeps {s : State} {code inst : Nat} {loc exp obs : W32} {react : Nat} {injected : Bool} (kH : Keeps kM kR s) :
    Keeps kM kR (State.raiseWith s code inst loc exp obs react injected) := by
  unfold State.raiseWith
  repeat' first
    | with_reducible assumption
    | with_reducible exact Keeps.refl _ _
    | with_reducible apply State.bufferRecord_keeps
    | with_reducible apply State.bumpSat_keeps
    | with_reducible apply State.put_keeps
    | with_reducible apply State.reactTo_keeps
    | with_reducible apply State.set_keeps
    | with_reducible refine ite_keeps ?_ ?_

theorem State.ckptLost_keeps {s : State} {b a : Nat} (kH : Keeps kM kR s) :
    Keeps kM kR (State.ckptLost s b a) := by
  unfold State.ckptLost
  repeat' first
    | with_reducible assumption
    | with_reducible exact Keeps.refl _ _
    | with_reducible apply State.draw_snd
    | with_reducible refine State.draw_keeps (by with_reducible assumption) ?_
    | with_reducible refine ite_keeps ?_ ?_
    | intro _
    | split
    | (extract_lets +onlyGivenNames kX; have kh : Keeps kM kR kX := ?_; (on_goal 1 => clear_value kX); (on_goal 2 => subst kX))
    | (extract_lets +onlyGivenNames kX; first | ((first | have kg : SafeSt := kX | have kg : SlabSt := kX | have kg : TimeSt := kX); clear kg; subst kX) | clear_value kX)
    | fail_if_no_progress with_reducible refine Keeps.upd ?_ rfl rfl rfl

theorem State.tapLost_keeps {s : State} (kH : Keeps kM kR s) :
    Keeps kM kR (State.tapLost s) := by
  unfold State.tapLost
  repeat' first
    | with_reducible assumption
    | with_reducible exact Keeps.refl _ _
    | with_reducible apply State.bumpSat_keeps
    | with_reducible apply State.draw_snd
    | with_reducible apply State.set_keeps
    | with_reducible refine State.draw_keeps (by with_reducible assumption) ?_
    | with_reducible refine ite_keeps ?_ ?_
    | intro _
    | split
    | (extract_lets +onlyGivenNames kX; have kh : Keeps kM kR kX := ?_; (on_goal 1 => clear_value kX); (on_goal 2 => subst kX))
    | (extract_lets +onlyGivenNames kX; first | ((first | have kg : SafeSt := kX | have kg : SlabSt := kX | have kg : TimeSt := kX); clear kg; subst kX) | clear_value kX)
    | fail_if_no_progress with_reducible refine Keeps.upd ?_ rfl rfl rfl

theorem State.raise_keeps {s : State} {code inst : Nat} {loc exp obs : W32} {injected : Bool} (kH : Keeps kM kR s) :
    Keeps kM kR (State.raise s code inst loc exp obs injected) := by
  unfold State.raise
  repeat' first
    | with_reducible assumption
    | with_reducible exact Keeps.refl _ _
    | with_reducible apply State.baseReact_snd
    | with_reducible apply State.ckptLost_keeps
    | with_reducible apply State.raiseWith_keeps
    | with_reducible apply State.tapLost_keeps
    | with_reducible refine State.baseReact_keeps (by with_reducible assumption) ?_
    | with_reducible refine ite_keeps ?_ ?_

theorem State.unraise_keeps {s : State} {code : Nat} (kH : Keeps kM kR s) :
    Keeps kM kR (State.unraise s code) := by
  unfold State.unraise
  repeat' first
    | with_reducible assumption
    | with_reducible exact Keeps.refl _ _
    | with_reducible apply State.set_keeps

theorem State.clearLatched_keeps {s : State} (kH : Keeps kM kR s) :
    Keeps kM kR (State.clearLatched s) := by
  unfold State.clearLatched
  repeat' first
    | with_reducible assumption
    | with_reducible exact Keeps.refl _ _
    | with_reducible apply forEach_keeps
    | with_reducible apply State.post_keeps
    | with_reducible apply State.set_keeps
    | with_reducible refine ite_keeps ?_ ?_
    | intro _

end Sys2Proof.Machine
end

