-- ==== Sys2Proof/Laws/KeepsRecords.lean ====
section
/-! SUPPORT. What the operations of Machine/Records.lean keep. -/

namespace Sys2Proof.Machine

variable {kM : Bool} {kR : State}

theorem State.strikeAdd_keeps {s : State} {p : StrikePend} (kH : Keeps kM kR s) :
    Keeps kM kR (State.strikeAdd s p) := by
  unfold State.strikeAdd
  repeat' first
    | with_reducible assumption
    | with_reducible exact Keeps.refl _ _
    | with_reducible apply State.bumpSat_keeps
    | with_reducible refine ite_keeps ?_ ?_
    | intro _
    | split
    | (extract_lets +onlyGivenNames kX; have kh : Keeps kM kR kX := ?_; (on_goal 1 => clear_value kX); (on_goal 2 => subst kX))
    | (extract_lets +onlyGivenNames kX; first | ((first | have kg : SafeSt := kX | have kg : SlabSt := kX | have kg : TimeSt := kX); clear kg; subst kX) | clear_value kX)
    | fail_if_no_progress with_reducible refine Keeps.upd ?_ rfl rfl rfl

theorem State.strikeTrigger_keeps {s : State} {src mt : Nat} (kH : Keeps kM kR s) :
    Keeps kM kR (State.strikeTrigger s src mt) := by
  unfold State.strikeTrigger
  repeat' first
    | with_reducible assumption
    | with_reducible exact Keeps.refl _ _
    | with_reducible apply State.courseSend_keeps
    | with_reducible apply State.strikeAdd_keeps
    | with_reducible refine ite_keeps ?_ ?_

theorem State.noteErase_keeps {s : State} {r : Nat} (kH : Keeps kM kR s) :
    Keeps kM kR (State.noteErase s r) := by
  unfold State.noteErase
  repeat' first
    | with_reducible assumption
    | with_reducible exact Keeps.refl _ _
    | with_reducible apply State.bumpSat_keeps
    | with_reducible apply State.draw_snd

theorem State.logRecord_keeps {s : State} {r : FaultRec} (kH : Keeps kM kR s) :
    Keeps kM kR (State.logRecord s r) := by
  unfold State.logRecord
  repeat' first
    | with_reducible assumption
    | with_reducible exact Keeps.refl _ _
    | with_reducible apply getD_keeps
    | with_reducible apply State.noteErase_keeps
    | with_reducible apply State.put_keeps
    | with_reducible apply State.set_keeps
    | with_reducible refine ite_keeps ?_ ?_
    | intro _
    | (extract_lets +onlyGivenNames kX; have kh : Keeps kM kR kX := ?_; (on_goal 1 => clear_value kX); (on_goal 2 => subst kX))
    | (extract_lets +onlyGivenNames kX; first | ((first | have kg : SafeSt := kX | have kg : SlabSt := kX | have kg : TimeSt := kX); clear kg; subst kX) | clear_value kX)
    | fail_if_no_progress with_reducible refine Keeps.upd ?_ rfl rfl rfl

theorem State.logOne_keeps {s : State} (kH : Keeps kM kR s) :
    Keeps kM kR (State.logOne s) := by
  unfold State.logOne
  repeat' first
    | with_reducible assumption
    | with_reducible exact Keeps.refl _ _
    | with_reducible apply getD_keeps
    | with_reducible apply State.logRecord_keeps
    | with_reducible apply State.post_keeps
    | with_reducible apply State.strikeTrigger_keeps
    | with_reducible refine ite_keeps ?_ ?_
    | intro _
    | split
    | (extract_lets +onlyGivenNames kX; have kh : Keeps kM kR kX := ?_; (on_goal 1 => clear_value kX); (on_goal 2 => subst kX))
    | (extract_lets +onlyGivenNames kX; first | ((first | have kg : SafeSt := kX | have kg : SlabSt := kX | have kg : TimeSt := kX); clear kg; subst kX) | clear_value kX)
    | fail_if_no_progress with_reducible refine Keeps.upd ?_ rfl rfl rfl

theorem State.logAll_keeps {s : State} (kH : Keeps kM kR s) :
    Keeps kM kR (State.logAll s) := by
  unfold State.logAll
  repeat' first
    | with_reducible assumption
    | with_reducible exact Keeps.refl _ _
    | with_reducible apply iter_keeps
    | with_reducible apply State.logOne_keeps

theorem State.ageAppend_keeps {s : State} (kH : Keeps kM kR s) :
    Keeps kM kR (State.ageAppend s) := by
  unfold State.ageAppend
  repeat' first
    | with_reducible assumption
    | with_reducible exact Keeps.refl _ _
    | with_reducible apply Cmd.take_keeps
    | with_reducible apply State.draw_snd
    | with_reducible apply State.noteErase_keeps
    | with_reducible apply State.put_keeps
    | with_reducible apply State.set_keeps
    | with_reducible refine State.draw_keeps (by with_reducible assumption) ?_
    | with_reducible refine ite_keeps ?_ ?_
    | split
    | (extract_lets +onlyGivenNames kX; have kh : Keeps kM kR kX := ?_; (on_goal 1 => clear_value kX); (on_goal 2 => subst kX))
    | (extract_lets +onlyGivenNames kX; first | ((first | have kg : SafeSt := kX | have kg : SlabSt := kX | have kg : TimeSt := kX); clear kg; subst kX) | clear_value kX)
    | fail_if_no_progress with_reducible refine Keeps.upd ?_ rfl rfl rfl

theorem State.setUsable_keeps {s : State} {n : Nat} (kH : Keeps kM kR s) :
    Keeps kM kR (State.setUsable s n) := by
  unfold State.setUsable
  repeat' first
    | with_reducible assumption
    | with_reducible exact Keeps.refl _ _
    | with_reducible apply forEach_keeps
    | with_reducible apply State.put_keeps
    | with_reducible refine ite_keeps ?_ ?_
    | intro _

theorem State.restore_keeps {s : State} {c : Settings} (kH : Keeps kM kR s) :
    Keeps kM kR (State.restore s c) := by
  unfold State.restore
  repeat' first
    | with_reducible assumption
    | with_reducible exact Keeps.refl _ _
    | with_reducible apply forEach_keeps
    | with_reducible apply foldl_keeps
    | with_reducible apply getD_keeps
    | with_reducible apply State.courseInit_keeps
    | with_reducible apply State.put_keeps
    | with_reducible apply State.set_keeps
    | with_reducible apply State.wr_keeps
    | intro _
    | (extract_lets +onlyGivenNames kX; have kh : Keeps kM kR kX := ?_; (on_goal 1 => clear_value kX); (on_goal 2 => subst kX))
    | (extract_lets +onlyGivenNames kX; first | ((first | have kg : SafeSt := kX | have kg : SlabSt := kX | have kg : TimeSt := kX); clear kg; subst kX) | clear_value kX)
    | fail_if_no_progress with_reducible refine Keeps.upd ?_ rfl rfl rfl

end Sys2Proof.Machine
end

