-- ==== Sys2Proof/Laws/KeepsSlab.lean ====
section
/-! SUPPORT. What the operations of Machine/Slab.lean keep. -/

namespace Sys2Proof.Machine

variable {kM : Bool} {kR : State}

theorem State.setSlabWord_keeps {s : State} {key : Nat} {v : W64} (kH : Keeps kM kR s) :
    Keeps kM kR (s.setSlabWord key v) :=
  kH.slabs (fun w => storeWf_storePut (dflt := fun _ => 0) w) rfl rfl rfl rfl rfl rfl rfl

theorem State.ownViol_keeps {s : State} {slab : Nat} {agent : Nat} {write : Bool} {word : Nat} (kH : Keeps kM kR s) :
    Keeps kM kR (State.ownViol s slab agent write word) := by
  unfold State.ownViol
  repeat' first
    | with_reducible assumption
    | with_reducible exact Keeps.refl _ _
    | with_reducible apply State.bumpSat_keeps
    | with_reducible apply State.post_keeps
    | with_reducible apply State.put_keeps
    | with_reducible apply State.set_keeps
    | with_reducible refine ite_keeps ?_ ?_
    | (extract_lets +onlyGivenNames kX; have kh : Keeps kM kR kX := ?_; (on_goal 1 => clear_value kX); (on_goal 2 => subst kX))
    | (extract_lets +onlyGivenNames kX; first | ((first | have kg : SafeSt := kX | have kg : SlabSt := kX | have kg : TimeSt := kX); clear kg; subst kX) | clear_value kX)
    | fail_if_no_progress with_reducible refine Keeps.upd ?_ rfl rfl rfl

theorem State.slabUncorr_keeps {s : State} {slab word : Nat} (kH : Keeps kM kR s) :
    Keeps kM kR (State.slabUncorr s slab word) := by
  unfold State.slabUncorr
  repeat' first
    | with_reducible assumption
    | with_reducible exact Keeps.refl _ _
    | with_reducible apply State.bumpSat_keeps
    | with_reducible apply State.raise_keeps
    | with_reducible apply State.set_keeps

theorem State.slabPut_keeps {s : State} {slab half mode : Nat} {d : W32} (kH : Keeps kM kR s) :
    Keeps kM kR (State.slabPut s slab half mode d) := by
  unfold State.slabPut
  repeat' first
    | with_reducible assumption
    | with_reducible exact Keeps.refl _ _
    | with_reducible apply State.setSlabWord_keeps
    | with_reducible apply State.slabUncorr_keeps
    | with_reducible refine ite_keeps ?_ ?_

theorem State.slabAccess_keeps {s : State} {slab : Nat} {g : Agent} {half mode : Nat} {d : W32} (kH : Keeps kM kR s) :
    Keeps kM kR (State.slabAccess s slab g half mode d) := by
  unfold State.slabAccess
  repeat' first
    | with_reducible assumption
    | with_reducible exact Keeps.refl _ _
    | with_reducible apply State.ownViol_keeps
    | with_reducible apply State.slabPut_keeps
    | with_reducible refine ite_keeps ?_ ?_
    | intro _
    | split
    | fail_if_no_progress with_reducible refine Keeps.upd ?_ rfl rfl rfl

theorem State.handover_keeps {s : State} {slab : Nat} {writer : Agent} {newOwner newSub : Nat} (kH : Keeps kM kR s) :
    Keeps kM kR (State.handover s slab writer newOwner newSub) := by
  unfold State.handover
  repeat' first
    | with_reducible assumption
    | with_reducible exact Keeps.refl _ _
    | with_reducible apply State.ownViol_keeps
    | with_reducible apply State.set_keeps
    | with_reducible refine ite_keeps ?_ ?_
    | intro _
    | (extract_lets +onlyGivenNames kX; have kh : Keeps kM kR kX := ?_; (on_goal 1 => clear_value kX); (on_goal 2 => subst kX))
    | (extract_lets +onlyGivenNames kX; first | ((first | have kg : SafeSt := kX | have kg : SlabSt := kX | have kg : TimeSt := kX); clear kg; subst kX) | clear_value kX)
    | fail_if_no_progress with_reducible refine Keeps.upd ?_ rfl rfl rfl

theorem State.startRepairs_keeps {s : State} (kH : Keeps kM kR s) :
    Keeps kM kR (State.startRepairs s) := by
  unfold State.startRepairs
  repeat' first
    | with_reducible assumption
    | with_reducible exact Keeps.refl _ _
    | with_reducible apply forEach_keeps
    | with_reducible refine ite_keeps ?_ ?_
    | intro _
    | (extract_lets +onlyGivenNames kX; have kh : Keeps kM kR kX := ?_; (on_goal 1 => clear_value kX); (on_goal 2 => subst kX))
    | (extract_lets +onlyGivenNames kX; first | ((first | have kg : SafeSt := kX | have kg : SlabSt := kX | have kg : TimeSt := kX); clear kg; subst kX) | clear_value kX)
    | fail_if_no_progress with_reducible refine Keeps.upd ?_ rfl rfl rfl

theorem State.answerHandover_keeps {s : State} {k : Kcp} (kH : Keeps kM kR s) :
    Keeps kM kR (State.answerHandover s k) := by
  unfold State.answerHandover
  repeat' first
    | with_reducible assumption
    | with_reducible exact Keeps.refl _ _
    | with_reducible apply State.cmdDone_keeps
    | with_reducible apply State.reply_keeps
    | with_reducible refine ite_keeps ?_ ?_

theorem State.answerHandovers_keeps {s : State} {slab : Nat} (kH : Keeps kM kR s) :
    Keeps kM kR (State.answerHandovers s slab) := by
  unfold State.answerHandovers
  repeat' first
    | with_reducible assumption
    | with_reducible exact Keeps.refl _ _
    | with_reducible apply forEach_keeps
    | with_reducible apply State.answerHandover_keeps
    | intro _
    | (extract_lets +onlyGivenNames kX; have kh : Keeps kM kR kX := ?_; (on_goal 1 => clear_value kX); (on_goal 2 => subst kX))
    | (extract_lets +onlyGivenNames kX; first | ((first | have kg : SafeSt := kX | have kg : SlabSt := kX | have kg : TimeSt := kX); clear kg; subst kX) | clear_value kX)
    | fail_if_no_progress with_reducible refine Keeps.upd ?_ rfl rfl rfl

theorem State.drained_keeps {s : State} {slab : Nat} (kH : Keeps kM kR s) :
    Keeps kM kR (State.drained s slab) := by
  unfold State.drained
  repeat' first
    | with_reducible assumption
    | with_reducible exact Keeps.refl _ _
    | with_reducible apply forEach_keeps
    | with_reducible apply State.answerHandovers_keeps
    | with_reducible apply State.put_keeps
    | with_reducible apply State.set_keeps
    | with_reducible apply State.slabPut_keeps
    | with_reducible apply State.startRepairs_keeps
    | intro _
    | split
    | (extract_lets +onlyGivenNames kX; have kh : Keeps kM kR kX := ?_; (on_goal 1 => clear_value kX); (on_goal 2 => subst kX))
    | (extract_lets +onlyGivenNames kX; first | ((first | have kg : SafeSt := kX | have kg : SlabSt := kX | have kg : TimeSt := kX); clear kg; subst kX) | clear_value kX)
    | fail_if_no_progress with_reducible refine Keeps.upd ?_ rfl rfl rfl

theorem State.repairCall_keeps {s : State} {slab : Nat} (kH : Keeps kM kR s) :
    Keeps kM kR (State.repairCall s slab) := by
  unfold State.repairCall
  repeat' first
    | with_reducible assumption
    | with_reducible exact Keeps.refl _ _
    | with_reducible apply State.post_keeps
    | with_reducible apply State.set_keeps
    | with_reducible apply State.startRepairs_keeps
    | with_reducible refine ite_keeps ?_ ?_
    | (extract_lets +onlyGivenNames kX; have kh : Keeps kM kR kX := ?_; (on_goal 1 => clear_value kX); (on_goal 2 => subst kX))
    | (extract_lets +onlyGivenNames kX; first | ((first | have kg : SafeSt := kX | have kg : SlabSt := kX | have kg : TimeSt := kX); clear kg; subst kX) | clear_value kX)
    | fail_if_no_progress with_reducible refine Keeps.upd ?_ rfl rfl rfl

theorem State.wantRepair_keeps {s : State} {slab n : Nat} (kH : Keeps kM kR s) :
    Keeps kM kR (State.wantRepair s slab n) := by
  unfold State.wantRepair
  repeat' first
    | with_reducible assumption
    | with_reducible exact Keeps.refl _ _
    | with_reducible apply State.repairCall_keeps
    | with_reducible refine ite_keeps ?_ ?_

theorem State.countColumn_keeps {s : State} {slab col : Nat} (kH : Keeps kM kR s) :
    Keeps kM kR (State.countColumn s slab col) := by
  unfold State.countColumn
  repeat' first
    | with_reducible assumption
    | with_reducible exact Keeps.refl _ _
    | with_reducible apply getD_keeps
    | with_reducible apply State.put_keeps
    | with_reducible apply State.wantRepair_keeps
    | with_reducible refine ite_keeps ?_ ?_
    | intro _
    | (extract_lets +onlyGivenNames kX; have kh : Keeps kM kR kX := ?_; (on_goal 1 => clear_value kX); (on_goal 2 => subst kX))
    | (extract_lets +onlyGivenNames kX; first | ((first | have kg : SafeSt := kX | have kg : SlabSt := kX | have kg : TimeSt := kX); clear kg; subst kX) | clear_value kX)
    | fail_if_no_progress with_reducible refine Keeps.upd ?_ rfl rfl rfl

theorem State.markBad_keeps {s : State} {bank : Nat} {tiles : List Nat} {isBad : Bool} (kH : Keeps kM kR s) :
    Keeps kM kR (State.markBad s bank tiles isBad) := by
  unfold State.markBad
  repeat' first
    | with_reducible assumption
    | with_reducible exact Keeps.refl _ _
    | with_reducible apply State.setBank_keeps

theorem cmdSlabHandover_keeps  : CmdKeeps kM (cmdSlabHandover) := by
  unfold cmdSlabHandover
  refine ⟨fun _ _ kR kS kH => ?_, fun _ _ kR kS kH => ?_, fun _ kR kS kH => ?_⟩
  all_goals try dsimp -zeta only [ans]
  repeat' first
    | with_reducible assumption

theorem State.commandHandover_keeps {s : State} {k : Kcp} (kH : Keeps kM kR s) :
    Keeps kM kR (State.commandHandover s k) := by
  unfold State.commandHandover
  repeat' first
    | with_reducible assumption
    | with_reducible exact Keeps.refl _ _
    | with_reducible apply State.answerHandover_keeps
    | with_reducible apply State.handover_keeps
    | with_reducible apply State.reply_keeps
    | with_reducible apply State.screened_keeps
    | with_reducible apply cmdSlabHandover_keeps
    | with_reducible refine ite_keeps ?_ ?_
    | intro _
    | split
    | (extract_lets +onlyGivenNames kX; have kh : Keeps kM kR kX := ?_; (on_goal 1 => clear_value kX); (on_goal 2 => subst kX))
    | (extract_lets +onlyGivenNames kX; first | ((first | have kg : SafeSt := kX | have kg : SlabSt := kX | have kg : TimeSt := kX); clear kg; subst kX) | clear_value kX)
    | fail_if_no_progress with_reducible refine Keeps.upd ?_ rfl rfl rfl

theorem State.takeHandover_keeps {s : State} {k : Kcp} (kH : Keeps kM kR s) :
    Keeps kM kR (State.takeHandover s k) := by
  unfold State.takeHandover
  repeat' first
    | with_reducible assumption
    | with_reducible exact Keeps.refl _ _
    | with_reducible apply State.commandHandover_keeps
    | with_reducible apply State.hold_keeps
    | with_reducible refine ite_keeps ?_ ?_

theorem execSlabHandover_keeps {form : HandoverForm} {s : State} (kH : Keeps kM kR s) :
    Good kM kR (execSlabHandover form s) := by
  unfold execSlabHandover
  refine Good.next ?_
  repeat' first
    | with_reducible assumption
    | with_reducible exact Keeps.refl _ _
    | with_reducible apply State.handover_keeps
    | with_reducible apply State.takeHandover_keeps
    | split

theorem execHandoverDrainDone_keeps {slab : Fin 32} {s : State} (kH : Keeps kM kR s) :
    Good kM kR (execHandoverDrainDone slab s) := by
  unfold execHandoverDrainDone
  refine Good.next ?_
  repeat' first
    | with_reducible assumption
    | with_reducible exact Keeps.refl _ _
    | with_reducible apply State.drained_keeps

theorem execSlabNormalWrite_keeps {slab : Fin 32} {agent : Agent} {half : Fin 131072} {data : W32} {s : State} (kH : Keeps kM kR s) :
    Good kM kR (execSlabNormalWrite slab agent half data s) := by
  unfold execSlabNormalWrite
  refine Good.next ?_
  repeat' first
    | with_reducible assumption
    | with_reducible exact Keeps.refl _ _
    | with_reducible apply State.slabAccess_keeps

theorem execSlabSetAliasWrite_keeps {slab : Fin 32} {agent : Agent} {half : Fin 131072} {data : W32} {s : State} (kH : Keeps kM kR s) :
    Good kM kR (execSlabSetAliasWrite slab agent half data s) := by
  unfold execSlabSetAliasWrite
  refine Good.next ?_
  repeat' first
    | with_reducible assumption
    | with_reducible exact Keeps.refl _ _
    | with_reducible apply State.slabAccess_keeps

theorem execSlabClearAliasWrite_keeps {slab : Fin 32} {agent : Agent} {half : Fin 131072} {data : W32} {s : State} (kH : Keeps kM kR s) :
    Good kM kR (execSlabClearAliasWrite slab agent half data s) := by
  unfold execSlabClearAliasWrite
  refine Good.next ?_
  repeat' first
    | with_reducible assumption
    | with_reducible exact Keeps.refl _ _
    | with_reducible apply State.slabAccess_keeps

theorem cmdSlabGetStatus_keeps  : CmdKeeps kM (cmdSlabGetStatus) := by
  unfold cmdSlabGetStatus
  refine ⟨fun _ _ kR kS kH => ?_, fun _ _ kR kS kH => ?_, fun _ kR kS kH => ?_⟩
  all_goals try dsimp -zeta only [ans]
  repeat' first
    | with_reducible assumption

theorem execSlabGetStatus_keeps {k : Kcp} {s : State} (kH : Keeps kM kR s) :
    Good kM kR (execSlabGetStatus k s) := by
  unfold execSlabGetStatus
  refine Good.next ?_
  repeat' first
    | with_reducible assumption
    | with_reducible exact Keeps.refl _ _
    | with_reducible apply cmdSlabGetStatus_keeps
    | with_reducible apply kcpExec_keeps

theorem cmdSlabRead_keeps  : CmdKeeps kM (cmdSlabRead) := by
  unfold cmdSlabRead
  refine ⟨fun _ _ kR kS kH => ?_, fun _ _ kR kS kH => ?_, fun _ kR kS kH => ?_⟩
  all_goals try dsimp -zeta only [ans]
  repeat' first
    | with_reducible assumption
    | with_reducible exact Keeps.refl _ _
    | with_reducible apply forEach_keeps
    | with_reducible apply State.slabUncorr_keeps
    | with_reducible refine ite_keeps ?_ ?_
    | intro _

theorem execSlabRead_keeps {k : Kcp} {s : State} (kH : Keeps kM kR s) :
    Good kM kR (execSlabRead k s) := by
  unfold execSlabRead
  refine Good.next ?_
  repeat' first
    | with_reducible assumption
    | with_reducible exact Keeps.refl _ _
    | with_reducible apply cmdSlabRead_keeps
    | with_reducible apply kcpExec_keeps

theorem State.slabWrite64_keeps {s : State} {slab word mode : Nat} {d : W64} (kH : Keeps kM kR s) :
    Keeps kM kR (State.slabWrite64 s slab word mode d) := by
  unfold State.slabWrite64
  repeat' first
    | with_reducible assumption
    | with_reducible exact Keeps.refl _ _
    | with_reducible apply State.setSlabWord_keeps
    | with_reducible apply State.slabUncorr_keeps
    | with_reducible refine ite_keeps ?_ ?_
    | intro _
    | (extract_lets +onlyGivenNames kX; have kh : Keeps kM kR kX := ?_; (on_goal 1 => clear_value kX); (on_goal 2 => subst kX))
    | (extract_lets +onlyGivenNames kX; first | ((first | have kg : SafeSt := kX | have kg : SlabSt := kX | have kg : TimeSt := kX); clear kg; subst kX) | clear_value kX)
    | fail_if_no_progress with_reducible refine Keeps.upd ?_ rfl rfl rfl

theorem cmdSlabWrite_keeps  : CmdKeeps kM (cmdSlabWrite) := by
  unfold cmdSlabWrite
  refine ⟨fun _ _ kR kS kH => ?_, fun _ _ kR kS kH => ?_, fun _ kR kS kH => ?_⟩
  all_goals try dsimp -zeta only [ans]
  repeat' first
    | with_reducible assumption
    | with_reducible exact Keeps.refl _ _
    | with_reducible apply forEach_keeps
    | with_reducible apply State.slabWrite64_keeps
    | with_reducible refine ite_keeps ?_ ?_
    | intro _

theorem execSlabWrite_keeps {k : Kcp} {s : State} (kH : Keeps kM kR s) :
    Good kM kR (execSlabWrite k s) := by
  unfold execSlabWrite
  refine Good.next ?_
  repeat' first
    | with_reducible assumption
    | with_reducible exact Keeps.refl _ _
    | with_reducible apply cmdSlabWrite_keeps
    | with_reducible apply kcpExec_keeps

theorem cmdSlabRepair_keeps  : CmdKeeps kM (cmdSlabRepair) := by
  unfold cmdSlabRepair
  refine ⟨fun _ _ kR kS kH => ?_, fun _ _ kR kS kH => ?_, fun _ kR kS kH => ?_⟩
  all_goals try dsimp -zeta only [ans]
  repeat' first
    | with_reducible assumption
    | with_reducible exact Keeps.refl _ _
    | with_reducible refine ite_keeps ?_ ?_
    | intro _
    | split
    | fail_if_no_progress with_reducible refine Keeps.upd ?_ rfl rfl rfl

theorem execSlabRepair_keeps {k : Kcp} {s : State} (kH : Keeps kM kR s) :
    Good kM kR (execSlabRepair k s) := by
  unfold execSlabRepair
  refine Good.next ?_
  repeat' first
    | with_reducible assumption
    | with_reducible exact Keeps.refl _ _
    | with_reducible apply cmdSlabRepair_keeps
    | with_reducible apply kcpExec_keeps

theorem cmdSlabScrub_keeps  : CmdKeeps kM (cmdSlabScrub) := by
  unfold cmdSlabScrub
  refine ⟨fun _ _ kR kS kH => ?_, fun _ _ kR kS kH => ?_, fun _ kR kS kH => ?_⟩
  all_goals try dsimp -zeta only [ans]
  repeat' first
    | with_reducible assumption
    | with_reducible exact Keeps.refl _ _
    | with_reducible refine ite_keeps ?_ ?_
    | intro _
    | split
    | fail_if_no_progress with_reducible refine Keeps.upd ?_ rfl rfl rfl

theorem execSlabScrub_keeps {k : Kcp} {s : State} (kH : Keeps kM kR s) :
    Good kM kR (execSlabScrub k s) := by
  unfold execSlabScrub
  refine Good.next ?_
  repeat' first
    | with_reducible assumption
    | with_reducible exact Keeps.refl _ _
    | with_reducible apply cmdSlabScrub_keeps
    | with_reducible apply kcpExec_keeps

theorem execSlabScrubPassDone_keeps {slab : Fin 32} {march : Bool} {corrected uncorrected : Nat} {s : State} (kH : Keeps kM kR s) :
    Good kM kR (execSlabScrubPassDone slab march corrected uncorrected s) := by
  unfold execSlabScrubPassDone
  refine Good.next ?_
  repeat' first
    | with_reducible assumption
    | with_reducible exact Keeps.refl _ _
    | with_reducible apply State.post_keeps
    | with_reducible refine ite_keeps ?_ ?_
    | with_reducible refine ite_cmdKeeps ?_ ?_
    | intro _
    | fail_if_no_progress with_reducible refine Keeps.upd ?_ rfl rfl rfl

theorem execFieldRepairComplete_keeps {slab : Fin 32} {ok : Bool} {s : State} (kH : Keeps kM kR s) :
    Good kM kR (execFieldRepairComplete slab ok s) := by
  unfold execFieldRepairComplete
  refine Good.next ?_
  repeat' first
    | with_reducible assumption
    | with_reducible exact Keeps.refl _ _
    | with_reducible apply State.post_keeps
    | with_reducible apply State.put_keeps
    | with_reducible apply State.set_keeps
    | with_reducible refine ite_keeps ?_ ?_
    | with_reducible refine ite_cmdKeeps ?_ ?_
    | intro _
    | split
    | (extract_lets +onlyGivenNames kX; have kh : Keeps kM kR kX := ?_; (on_goal 1 => clear_value kX); (on_goal 2 => subst kX))
    | (extract_lets +onlyGivenNames kX; first | ((first | have kg : SafeSt := kX | have kg : SlabSt := kX | have kg : TimeSt := kX); clear kg; subst kX) | clear_value kX)
    | fail_if_no_progress with_reducible refine Keeps.upd ?_ rfl rfl rfl

theorem State.scrubPass_keeps {s : State} {slab word : Nat} (kH : Keeps kM kR s) :
    Keeps kM kR (State.scrubPass s slab word) := by
  unfold State.scrubPass
  repeat' first
    | with_reducible assumption
    | with_reducible exact Keeps.refl _ _
    | with_reducible apply State.put_keeps
    | with_reducible refine ite_keeps ?_ ?_

theorem State.scrubHour_keeps {s : State} (kH : Keeps kM kR s) :
    Keeps kM kR (State.scrubHour s) := by
  unfold State.scrubHour
  repeat' first
    | with_reducible assumption
    | with_reducible exact Keeps.refl _ _
    | with_reducible apply State.bumpSat_keeps
    | with_reducible apply State.put_keeps
    | with_reducible refine ite_keeps ?_ ?_
    | (extract_lets +onlyGivenNames kX; have kh : Keeps kM kR kX := ?_; (on_goal 1 => clear_value kX); (on_goal 2 => subst kX))
    | (extract_lets +onlyGivenNames kX; first | ((first | have kg : SafeSt := kX | have kg : SlabSt := kX | have kg : TimeSt := kX); clear kg; subst kX) | clear_value kX)
    | fail_if_no_progress with_reducible refine Keeps.upd ?_ rfl rfl rfl

theorem execScrubWord_keeps {slab : Fin 32} {word : Nat} {error : WordError} {changed : Bool} {s : State} (kH : Keeps kM kR s) :
    Good kM kR (execScrubWord slab word error changed s) := by
  unfold execScrubWord
  refine Good.next ?_
  repeat' first
    | with_reducible assumption
    | with_reducible exact Keeps.refl _ _
    | with_reducible apply State.bumpSat_keeps
    | with_reducible apply State.countColumn_keeps
    | with_reducible apply State.markBad_keeps
    | with_reducible apply State.scrubPass_keeps
    | with_reducible apply State.slabUncorr_keeps
    | with_reducible refine ite_keeps ?_ ?_
    | with_reducible refine ite_cmdKeeps ?_ ?_
    | split
    | (extract_lets +onlyGivenNames kX; have kh : Keeps kM kR kX := ?_; (on_goal 1 => clear_value kX); (on_goal 2 => subst kX))
    | (extract_lets +onlyGivenNames kX; first | ((first | have kg : SafeSt := kX | have kg : SlabSt := kX | have kg : TimeSt := kX); clear kg; subst kX) | clear_value kX)
    | fail_if_no_progress with_reducible refine Keeps.upd ?_ rfl rfl rfl

theorem execScrubStarved_keeps {s : State} (kH : Keeps kM kR s) :
    Good kM kR (execScrubStarved s) := by
  unfold execScrubStarved
  refine Good.next ?_
  repeat' first
    | with_reducible assumption
    | with_reducible exact Keeps.refl _ _
    | with_reducible apply State.raise_keeps
    | with_reducible apply State.set_keeps

theorem execMarchWindow_keeps {slab : Fin 32} {window : Fin 128} {outcome : MarchOutcome} {s : State} (kH : Keeps kM kR s) :
    Good kM kR (execMarchWindow slab window outcome s) := by
  unfold execMarchWindow
  refine Good.next ?_
  repeat' first
    | with_reducible assumption
    | with_reducible exact Keeps.refl _ _
    | with_reducible apply State.put_keeps
    | with_reducible apply State.raise_keeps
    | with_reducible apply State.set_keeps
    | with_reducible refine ite_keeps ?_ ?_
    | with_reducible refine ite_cmdKeeps ?_ ?_
    | intro _
    | split
    | (extract_lets +onlyGivenNames kX; have kh : Keeps kM kR kX := ?_; (on_goal 1 => clear_value kX); (on_goal 2 => subst kX))
    | (extract_lets +onlyGivenNames kX; have kf : ∀ t, Keeps kM kR t → Keeps kM kR (kX t) := ?_; (on_goal 1 => clear_value kX); (on_goal 2 => subst kX))
    | with_reducible apply kf
    | (extract_lets +onlyGivenNames kX; first | ((first | have kg : SafeSt := kX | have kg : SlabSt := kX | have kg : TimeSt := kX); clear kg; subst kX) | clear_value kX)
    | fail_if_no_progress with_reducible refine Keeps.upd ?_ rfl rfl rfl

theorem execTestStarved_keeps {s : State} (kH : Keeps kM kR s) :
    Good kM kR (execTestStarved s) := by
  unfold execTestStarved
  refine Good.next ?_
  repeat' first
    | with_reducible assumption
    | with_reducible exact Keeps.refl _ _
    | with_reducible apply State.raise_keeps
    | with_reducible apply State.set_keeps

theorem execVaultWordRestore_keeps {slab : Fin 32} {word : Nat} {s : State} (kH : Keeps kM kR s) :
    Good kM kR (execVaultWordRestore slab word s) := by
  unfold execVaultWordRestore
  refine Good.next ?_
  repeat' first
    | with_reducible assumption
    | with_reducible exact Keeps.refl _ _
    | with_reducible apply forEach_keeps
    | with_reducible apply Cmd.take_keeps
    | with_reducible apply State.markBad_keeps
    | with_reducible apply State.post_keeps
    | with_reducible apply State.setSlabWord_keeps
    | with_reducible refine ite_keeps ?_ ?_
    | with_reducible refine ite_cmdKeeps ?_ ?_
    | intro _
    | (extract_lets +onlyGivenNames kX; have kh : Keeps kM kR kX := ?_; (on_goal 1 => clear_value kX); (on_goal 2 => subst kX))
    | (extract_lets +onlyGivenNames kX; first | ((first | have kg : SafeSt := kX | have kg : SlabSt := kX | have kg : TimeSt := kX); clear kg; subst kX) | clear_value kX)
    | fail_if_no_progress with_reducible refine Keeps.upd ?_ rfl rfl rfl

end Sys2Proof.Machine
end

