-- ==== Sys2Proof/Laws/KeepsPower.lean ====
section
/-! SUPPORT. What the operations of Machine/Power.lean keep. -/

namespace Sys2Proof.Machine

variable {kM : Bool} {kR : State}

theorem State.afterReset_keeps {s : State} {k : ResetKind} (kH : Keeps false kR s) : Keeps false kR (s.afterReset k) := by
  refine ⟨kH.1, kH.2.1, fun j key e => ?_, fun w => ?_, fun e => nomatch e⟩
  · have h := kH.2.2.1 j key e
    change kget (s.safe.afterReset k).keys j = some key
    unfold SafeSt.afterReset
    cases k <;> exact h
  · have h := kH.2.2.2.1 w
    rw [Memory.wf, Bool.and_eq_true, Bool.and_eq_true, Bool.and_eq_true] at h
    have h1 : storeWf (regReset s.variant) (s.resetRegs k) = true := by
      refine storeWf_filterMap (fun p q e => ?_) h.1.1.1
      split at e
      · split at e
        · cases e
        · cases e
          exact ⟨rfl, ‹_›⟩
      · cases e
    have h2 : storeWf (fun _ => 0) (s.slabs.afterReset k).words = true := by
      unfold SlabSt.afterReset
      split
      · exact h.1.1.2
      · rfl
    rw [Memory.wf, Bool.and_eq_true, Bool.and_eq_true, Bool.and_eq_true]
    exact ⟨⟨⟨h1, h2⟩, rfl⟩, rfl⟩

theorem State.resetTo_keeps {s : State} {k : ResetKind} (kH : Keeps false kR s) : Keeps false kR (s.resetTo k) := by
  unfold State.resetTo
  extract_lets n n2
  have h2 : Keeps false kR n2 := State.put_keeps (State.put_keeps (State.setPower_keeps (State.afterReset_keeps kH)))
  with_reducible exact ite_keeps h2 (State.bump_keeps h2)


theorem State.showRegion_keeps {s : State} {r : Nat} {a b : NorCopy} (kH : Keeps kM kR s) :
    Keeps kM kR (State.showRegion s r a b) := by
  unfold State.showRegion
  repeat' first
    | with_reducible assumption
    | with_reducible exact Keeps.refl _ _
    | with_reducible apply State.set_keeps

theorem State.vaultTileBad_keeps {s : State} {img : Bytes} {n : Nat} (kH : Keeps kM kR s) :
    Keeps kM kR (State.vaultTileBad s img n) := by
  unfold State.vaultTileBad
  repeat' first
    | with_reducible assumption
    | with_reducible exact Keeps.refl _ _
    | with_reducible apply State.raise_keeps

theorem putVault_wf (bs : List Byte) : ∀ key, storeWf (fun _ => 0) (putVault key bs) = true ∧
    ∀ q ∈ putVault key bs, key ≤ q.1 := by
  intro key
  induction key, bs using putVault.induct with
  | case1 key a b c d e f g h rest w hw ih =>
    rw [putVault, if_pos hw]
    exact ⟨ih.1, fun q hq => Nat.le_of_succ_le (ih.2 q hq)⟩
  | case2 key a b c d e f g h rest w hw ih =>
    rw [putVault, if_neg hw]
    refine ⟨storeWf_cons.2 ⟨fun q hq => ih.2 q hq, hw, ih.1⟩, fun q hq => ?_⟩
    rcases List.mem_cons.1 hq with rfl | hq
    · exact Nat.le_refl _
    · exact Nat.le_of_succ_le (ih.2 q hq)
  | case3 key rest hne w hw =>
    rw [putVault.eq_2 _ _ hne, if_pos hw]
    exact ⟨rfl, fun q hq => absurd hq List.not_mem_nil⟩
  | case4 key rest hne w hw =>
    rw [putVault.eq_2 _ _ hne, if_neg hw]
    exact ⟨storeWf_cons.2 ⟨fun q hq => absurd hq List.not_mem_nil, hw, rfl⟩, fun q hq => by rw [List.mem_singleton.1 hq]⟩


theorem State.loadVault_keeps {s : State} (kH : Keeps kM kR s) : Keeps kM kR s.loadVault := by
  unfold State.loadVault
  extract_lets low bytes a t t1 b t2
  have ht : Keeps kM kR t := by
    refine kH.slabs (fun w => ?_) rfl rfl rfl rfl rfl rfl rfl
    refine storeWf_append (storeWf_filter _ w) (putVault_wf _ _).1 fun p hp q hq => ?_
    have h1 : p.1 < 28 * 65536 := of_decide_eq_true (List.mem_filter.1 hp).2
    exact Nat.lt_of_lt_of_le h1 ((putVault_wf _ _).2 q hq)
  have h1 : Keeps kM kR t1 := forEach_keeps (fun _ _ h => State.put_keeps h) ht
  have h2 : Keeps kM kR t2 := by
    with_reducible exact Keeps.upd h1 rfl rfl rfl
  with_reducible refine ite_keeps (State.raise_keeps (State.setBank_keeps h2)) ?_
  with_reducible exact forEach_keeps (fun _ _ h => State.vaultTileBad_keeps h) (State.setBank_keeps h2)

theorem State.restorePlan_keeps {s : State} (kH : Keeps kM kR s) :
    Keeps kM kR (State.restorePlan s) := by
  unfold State.restorePlan
  repeat' first
    | with_reducible assumption
    | with_reducible exact Keeps.refl _ _
    | with_reducible apply getD_keeps
    | with_reducible apply State.put_keeps
    | with_reducible apply State.wr_keeps
    | with_reducible refine ite_keeps ?_ ?_
    | intro _
    | split

theorem State.restoreImage_keeps {s : State} (kH : Keeps kM kR s) :
    Keeps kM kR (State.restoreImage s) := by
  unfold State.restoreImage
  repeat' first
    | with_reducible assumption
    | with_reducible exact Keeps.refl _ _
    | with_reducible apply Cmd.take_keeps
    | with_reducible apply State.restore_keeps
    | with_reducible apply State.set_keeps
    | with_reducible refine ite_keeps ?_ ?_
    | intro _
    | split

theorem State.latchStraps_keeps {s : State} {v : BitVec 4} (kH : Keeps kM kR s) :
    Keeps kM kR (State.latchStraps s v) := by
  unfold State.latchStraps
  repeat' first
    | with_reducible assumption
    | with_reducible exact Keeps.refl _ _
    | with_reducible apply State.set_keeps

theorem State.discover_keeps {s : State} (kH : Keeps kM kR s) :
    Keeps kM kR (State.discover s) := by
  unfold State.discover
  repeat' first
    | with_reducible assumption
    | with_reducible exact Keeps.refl _ _
    | with_reducible apply State.put_keeps
    | with_reducible apply State.set_keeps
    | with_reducible apply State.showRegion_keeps

theorem State.boot_keeps {s : State} {env : BootEnv} (kH : Keeps kM kR s) :
    Keeps kM kR (State.boot s env) := by
  unfold State.boot
  repeat' first
    | with_reducible assumption
    | with_reducible exact Keeps.refl _ _
    | with_reducible apply State.discover_keeps
    | with_reducible apply State.freezeAlive_keeps
    | with_reducible apply State.latchStraps_keeps
    | with_reducible apply State.loadVault_keeps
    | with_reducible apply State.put_keeps
    | with_reducible apply State.restoreImage_keeps
    | with_reducible apply State.restorePlan_keeps
    | with_reducible apply State.setPower_keeps
    | with_reducible apply State.set_keeps
    | with_reducible apply State.startRepairs_keeps
    | with_reducible refine ite_keeps ?_ ?_
    | split
    | (extract_lets +onlyGivenNames kX; have kh : Keeps kM kR kX := ?_; (on_goal 1 => clear_value kX); (on_goal 2 => subst kX))
    | (extract_lets +onlyGivenNames kX; first | ((first | have kg : SafeSt := kX | have kg : SlabSt := kX | have kg : TimeSt := kX); clear kg; subst kX) | clear_value kX)
    | fail_if_no_progress with_reducible refine Keeps.upd ?_ rfl rfl rfl

theorem execResetRelease_keeps {env : BootEnv} {s : State} (kH : Keeps kM kR s) :
    Good kM kR (execResetRelease env s) := by
  unfold execResetRelease
  refine Good.next ?_
  repeat' first
    | with_reducible assumption
    | with_reducible exact Keeps.refl _ _
    | with_reducible apply State.boot_keeps
    | with_reducible refine ite_keeps ?_ ?_

theorem State.goldenAtReset_keeps {s : State} {p : Nat} (kH : Keeps kM kR s) :
    Keeps kM kR (State.goldenAtReset s p) := by
  unfold State.goldenAtReset
  repeat' first
    | with_reducible assumption
    | with_reducible exact Keeps.refl _ _
    | with_reducible apply State.bumpSat_keeps
    | with_reducible apply State.put_keeps
    | with_reducible apply State.set_keeps
    | with_reducible apply State.takeOver_keeps
    | with_reducible refine ite_keeps ?_ ?_
    | split
    | (extract_lets +onlyGivenNames kX; have kh : Keeps kM kR kX := ?_; (on_goal 1 => clear_value kX); (on_goal 2 => subst kX))
    | (extract_lets +onlyGivenNames kX; first | ((first | have kg : SafeSt := kX | have kg : SlabSt := kX | have kg : TimeSt := kX); clear kg; subst kX) | clear_value kX)
    | fail_if_no_progress with_reducible refine Keeps.upd ?_ rfl rfl rfl

theorem State.bootSquall_keeps {s : State} (kH : Keeps kM kR s) : Keeps kM kR s.bootSquall := by
  unfold State.bootSquall
  extract_lets latched a t
  have h : Keeps kM kR t := by
    with_reducible exact Keeps.upd kH rfl rfl rfl
  clear_value latched t
  cases latched with
  | some x => with_reducible exact State.squallTrigger_keeps h
  | none => with_reducible exact ite_keeps (State.squallTrigger_keeps h) h

theorem State.becomeReady_keeps {s : State} {bootMs : Nat} {goldenFailed : List Nat} (kH : Keeps kM kR s) :
    Keeps kM kR (State.becomeReady s bootMs goldenFailed) := by
  unfold State.becomeReady
  repeat' first
    | with_reducible assumption
    | with_reducible exact Keeps.refl _ _
    | with_reducible apply forEach_keeps
    | with_reducible apply State.bootSquall_keeps
    | with_reducible apply State.goldenAtReset_keeps
    | with_reducible apply State.logAll_keeps
    | with_reducible apply State.post_keeps
    | with_reducible apply State.put_keeps
    | with_reducible apply State.setPower_keeps
    | with_reducible apply State.setUsable_keeps
    | with_reducible apply State.set_keeps
    | with_reducible apply State.wr_keeps
    | with_reducible refine ite_keeps ?_ ?_
    | intro _
    | (extract_lets +onlyGivenNames kX; have kh : Keeps kM kR kX := ?_; (on_goal 1 => clear_value kX); (on_goal 2 => subst kX))
    | (extract_lets +onlyGivenNames kX; first | ((first | have kg : SafeSt := kX | have kg : SlabSt := kX | have kg : TimeSt := kX); clear kg; subst kX) | clear_value kX)
    | fail_if_no_progress with_reducible refine Keeps.upd ?_ rfl rfl rfl

theorem execPowerOnReset_keeps {s : State} (kH : Keeps false kR s) :
    Good false kR (execPowerOnReset s) := by
  unfold execPowerOnReset
  refine Good.next ?_
  repeat' first
    | with_reducible assumption
    | with_reducible exact Keeps.refl _ _
    | with_reducible apply State.resetTo_keeps

theorem execPinReset_keeps {lowNs : Nat} {s : State} (kH : Keeps false kR s) :
    Good false kR (execPinReset lowNs s) := by
  unfold execPinReset
  refine Good.next ?_
  repeat' first
    | with_reducible assumption
    | with_reducible exact Keeps.refl _ _
    | with_reducible apply State.draw_snd
    | with_reducible apply State.resetTo_keeps
    | with_reducible refine State.draw_keeps (by with_reducible assumption) ?_
    | with_reducible refine ite_keeps ?_ ?_
    | with_reducible refine ite_cmdKeeps ?_ ?_
    | split
    | (extract_lets +onlyGivenNames kX; have kh : Keeps false kR kX := ?_; (on_goal 1 => clear_value kX); (on_goal 2 => subst kX))
    | (extract_lets +onlyGivenNames kX; first | ((first | have kg : SafeSt := kX | have kg : SlabSt := kX | have kg : TimeSt := kX); clear kg; subst kX) | clear_value kX)
    | fail_if_no_progress with_reducible refine Keeps.upd ?_ rfl rfl rfl

theorem execWatchdogExpiry_keeps {s : State} (kH : Keeps false kR s) :
    Good false kR (execWatchdogExpiry s) := by
  unfold execWatchdogExpiry
  refine Good.next ?_
  repeat' first
    | with_reducible assumption
    | with_reducible exact Keeps.refl _ _
    | with_reducible apply State.bumpSat_keeps
    | with_reducible apply State.raise_keeps
    | with_reducible apply State.resetTo_keeps
    | with_reducible refine ite_keeps ?_ ?_

theorem execResetDelayExpiry_keeps {s : State} (kH : Keeps false kR s) :
    Good false kR (execResetDelayExpiry s) := by
  unfold execResetDelayExpiry
  refine Good.next ?_
  repeat' first
    | with_reducible assumption
    | with_reducible exact Keeps.refl _ _
    | with_reducible apply State.resetTo_keeps
    | with_reducible refine ite_keeps ?_ ?_
    | with_reducible refine ite_cmdKeeps ?_ ?_
    | split

theorem execAnalogueRailLow_keeps {s : State} (kH : Keeps kM kR s) :
    Good kM kR (execAnalogueRailLow s) := by
  unfold execAnalogueRailLow
  refine Good.next ?_
  repeat' first
    | with_reducible assumption
    | with_reducible exact Keeps.refl _ _
    | with_reducible apply forEach_keeps
    | with_reducible apply State.anaOpen_keeps
    | with_reducible apply State.post_keeps
    | with_reducible apply State.set_keeps
    | with_reducible apply State.trimAbort_keeps
    | with_reducible refine ite_keeps ?_ ?_
    | with_reducible refine ite_cmdKeeps ?_ ?_
    | intro _
    | (extract_lets +onlyGivenNames kX; have kh : Keeps kM kR kX := ?_; (on_goal 1 => clear_value kX); (on_goal 2 => subst kX))
    | (extract_lets +onlyGivenNames kX; first | ((first | have kg : SafeSt := kX | have kg : SlabSt := kX | have kg : TimeSt := kX); clear kg; subst kX) | clear_value kX)
    | fail_if_no_progress with_reducible refine Keeps.upd ?_ rfl rfl rfl

theorem execAnalogueRailRestore_keeps {s : State} (kH : Keeps kM kR s) :
    Good kM kR (execAnalogueRailRestore s) := by
  unfold execAnalogueRailRestore
  refine Good.next ?_
  repeat' first
    | with_reducible assumption
    | with_reducible exact Keeps.refl _ _
    | with_reducible apply forEach_keeps
    | with_reducible apply State.anaStart_keeps
    | with_reducible apply State.post_keeps
    | with_reducible apply State.setAna_keeps
    | with_reducible apply State.set_keeps
    | with_reducible refine ite_keeps ?_ ?_
    | with_reducible refine ite_cmdKeeps ?_ ?_
    | intro _
    | (extract_lets +onlyGivenNames kX; have kh : Keeps kM kR kX := ?_; (on_goal 1 => clear_value kX); (on_goal 2 => subst kX))
    | (extract_lets +onlyGivenNames kX; first | ((first | have kg : SafeSt := kX | have kg : SlabSt := kX | have kg : TimeSt := kX); clear kg; subst kX) | clear_value kX)
    | fail_if_no_progress with_reducible refine Keeps.upd ?_ rfl rfl rfl

theorem execLullPowerDown_keeps {s : State} (kH : Keeps kM kR s) :
    Good kM kR (execLullPowerDown s) := by
  unfold execLullPowerDown
  refine Good.next ?_
  repeat' first
    | with_reducible assumption
    | with_reducible exact Keeps.refl _ _
    | with_reducible apply forEach_keeps
    | with_reducible apply State.ageAppend_keeps
    | with_reducible apply State.anaOpen_keeps
    | with_reducible apply State.bump_keeps
    | with_reducible apply State.changePower_keeps
    | with_reducible apply State.logAll_keeps
    | with_reducible apply State.portHalt_keeps
    | with_reducible apply State.put_keeps
    | with_reducible apply State.setTimer_keeps
    | with_reducible apply State.set_keeps
    | with_reducible refine ite_keeps ?_ ?_
    | with_reducible refine ite_cmdKeeps ?_ ?_
    | intro _
    | (extract_lets +onlyGivenNames kX; have kh : Keeps kM kR kX := ?_; (on_goal 1 => clear_value kX); (on_goal 2 => subst kX))
    | (extract_lets +onlyGivenNames kX; first | ((first | have kg : SafeSt := kX | have kg : SlabSt := kX | have kg : TimeSt := kX); clear kg; subst kX) | clear_value kX)
    | fail_if_no_progress with_reducible refine Keeps.upd ?_ rfl rfl rfl

theorem State.afterLull_keeps {s : State} (kH : Keeps kM kR s) :
    Keeps kM kR (State.afterLull s) := by
  unfold State.afterLull
  repeat' first
    | with_reducible assumption
    | with_reducible exact Keeps.refl _ _
    | with_reducible apply forEach_keeps
    | with_reducible apply State.portStartAt_keeps
    | with_reducible apply State.setTimer_keeps
    | with_reducible apply State.set_keeps
    | with_reducible refine ite_keeps ?_ ?_
    | intro _

theorem State.wakeRefs_keeps {s : State} (kH : Keeps kM kR s) :
    Keeps kM kR (State.wakeRefs s) := by
  unfold State.wakeRefs
  repeat' first
    | with_reducible assumption
    | with_reducible exact Keeps.refl _ _
    | with_reducible apply forEach_keeps
    | with_reducible apply State.put_keeps
    | with_reducible apply State.set_keeps
    | with_reducible refine ite_keeps ?_ ?_
    | intro _
    | (extract_lets +onlyGivenNames kX; have kh : Keeps kM kR kX := ?_; (on_goal 1 => clear_value kX); (on_goal 2 => subst kX))
    | (extract_lets +onlyGivenNames kX; first | ((first | have kg : SafeSt := kX | have kg : SlabSt := kX | have kg : TimeSt := kX); clear kg; subst kX) | clear_value kX)
    | fail_if_no_progress with_reducible refine Keeps.upd ?_ rfl rfl rfl

theorem State.wakeTime_keeps {s : State} {lclk : Nat} (kH : Keeps false kR s) :
    Keeps false kR (State.wakeTime s lclk) := by
  unfold State.wakeTime
  repeat' first
    | with_reducible assumption
    | with_reducible exact Keeps.refl _ _
    | with_reducible apply State.set_keeps
    | with_reducible apply State.wakeRefs_keeps
    | with_reducible refine ite_keeps ?_ ?_
    | (extract_lets +onlyGivenNames kX; have kh : Keeps false kR kX := ?_; (on_goal 1 => clear_value kX); (on_goal 2 => subst kX))
    | (extract_lets +onlyGivenNames kX; first | ((first | have kg : SafeSt := kX | have kg : SlabSt := kX | have kg : TimeSt := kX); clear kg; subst kX) | clear_value kX)
    | fail_if_no_progress with_reducible refine Keeps.upd ?_ rfl rfl rfl
    | fail_if_no_progress with_reducible refine Keeps.updTime ?_ rfl rfl

theorem State.wakeCounts_keeps {s : State} {src : WakeSource} {lclk wakeMs : Nat} (kH : Keeps kM kR s) :
    Keeps kM kR (State.wakeCounts s src lclk wakeMs) := by
  unfold State.wakeCounts
  repeat' first
    | with_reducible assumption
    | with_reducible exact Keeps.refl _ _
    | with_reducible apply State.put_keeps
    | with_reducible apply State.wr_keeps
    | (extract_lets +onlyGivenNames kX; have kh : Keeps kM kR kX := ?_; (on_goal 1 => clear_value kX); (on_goal 2 => subst kX))
    | (extract_lets +onlyGivenNames kX; first | ((first | have kg : SafeSt := kX | have kg : SlabSt := kX | have kg : TimeSt := kX); clear kg; subst kX) | clear_value kX)
    | fail_if_no_progress with_reducible refine Keeps.upd ?_ rfl rfl rfl

theorem State.wakeLinks_keeps {s : State} (kH : Keeps kM kR s) :
    Keeps kM kR (State.wakeLinks s) := by
  unfold State.wakeLinks
  repeat' first
    | with_reducible assumption
    | with_reducible exact Keeps.refl _ _
    | with_reducible apply forEach_keeps
    | with_reducible apply State.put_keeps
    | with_reducible refine ite_keeps ?_ ?_
    | intro _

theorem State.wakeFaults_keeps {s : State} {bankOk : Bool} (kH : Keeps kM kR s) :
    Keeps kM kR (State.wakeFaults s bankOk) := by
  unfold State.wakeFaults
  repeat' first
    | with_reducible assumption
    | with_reducible exact Keeps.refl _ _
    | with_reducible apply forEach_keeps
    | with_reducible apply State.baseReact_snd
    | with_reducible apply State.raise_keeps
    | with_reducible apply State.reactTo_keeps
    | with_reducible refine State.baseReact_keeps (by with_reducible assumption) ?_
    | with_reducible refine ite_keeps ?_ ?_
    | intro _
    | split
    | (extract_lets +onlyGivenNames kX; have kh : Keeps kM kR kX := ?_; (on_goal 1 => clear_value kX); (on_goal 2 => subst kX))
    | (extract_lets +onlyGivenNames kX; first | ((first | have kg : SafeSt := kX | have kg : SlabSt := kX | have kg : TimeSt := kX); clear kg; subst kX) | clear_value kX)
    | fail_if_no_progress with_reducible refine Keeps.upd ?_ rfl rfl rfl

theorem State.wake_keeps {s : State} {src : WakeSource} {lclk wakeMs : Nat} {bankOk : Bool} (kH : Keeps false kR s) :
    Keeps false kR (State.wake s src lclk wakeMs bankOk) := by
  unfold State.wake
  repeat' first
    | with_reducible assumption
    | with_reducible exact Keeps.refl _ _
    | with_reducible apply State.afterLull_keeps
    | with_reducible apply State.bootSquall_keeps
    | with_reducible apply State.logAll_keeps
    | with_reducible apply State.outputsLive_keeps
    | with_reducible apply State.post_keeps
    | with_reducible apply State.setPower_keeps
    | with_reducible apply State.set_keeps
    | with_reducible apply State.wakeCounts_keeps
    | with_reducible apply State.wakeFaults_keeps
    | with_reducible apply State.wakeLinks_keeps
    | with_reducible apply State.wakeTime_keeps
    | with_reducible refine ite_keeps ?_ ?_

end Sys2Proof.Machine
end

