-- ==== Sys2Proof/Laws/KeepsRegAccess.lean ====
section
/-! SUPPORT. What the operations of Machine/RegAccess.lean keep. -/

namespace Sys2Proof.Machine

variable {kM : Bool} {kR : State}

theorem State.latch_keeps {s : State} {p : ReadPath} {a : Nat} (kH : Keeps kM kR s) : Keeps kM kR (s.latch p a) := by
  unfold State.latch
  split
  · exact kH
  · cases p
    · exact kH.latches (fun w => storeWf_storePut (dflt := fun _ => 0) w) id rfl rfl rfl rfl rfl rfl
    · exact kH.latches id (fun w => storeWf_storePut (dflt := fun _ => 0) w) rfl rfl rfl rfl rfl rfl

theorem State.spiErr_keeps {s : State} {f : Fld} (kH : Keeps kM kR s) :
    Keeps kM kR (State.spiErr s f) := by
  unfold State.spiErr
  repeat' first
    | with_reducible assumption
    | with_reducible exact Keeps.refl _ _
    | with_reducible apply State.set_keeps

theorem State.ring_keeps {s : State} {m : Nat} {v : W32} (kH : Keeps kM kR s) :
    Keeps kM kR (State.ring s m v) := by
  unfold State.ring
  repeat' first
    | with_reducible assumption
    | with_reducible exact Keeps.refl _ _
    | with_reducible apply getD_keeps
    | with_reducible apply Cmd.take_keeps
    | with_reducible apply State.put_keeps
    | with_reducible apply State.screenOpcode_keeps
    | with_reducible apply State.spiErr_keeps
    | with_reducible apply State.squallBell_keeps
    | with_reducible apply State.wr_keeps
    | with_reducible refine ite_keeps ?_ ?_
    | intro _
    | (extract_lets +onlyGivenNames kX; have kh : Keeps kM kR kX := ?_; (on_goal 1 => clear_value kX); (on_goal 2 => subst kX))
    | (extract_lets +onlyGivenNames kX; first | ((first | have kg : SafeSt := kX | have kg : SlabSt := kX | have kg : TimeSt := kX); clear kg; subst kX) | clear_value kX)
    | fail_if_no_progress with_reducible refine Keeps.upd ?_ rfl rfl rfl

theorem State.askSeqReset_keeps {s : State} {m : Nat} (kH : Keeps kM kR s) :
    Keeps kM kR (State.askSeqReset s m) := by
  unfold State.askSeqReset
  repeat' first
    | with_reducible assumption
    | with_reducible exact Keeps.refl _ _
    | with_reducible apply State.clearSeq_keeps
    | with_reducible apply State.set_keeps
    | with_reducible refine ite_keeps ?_ ?_
    | intro _
    | (extract_lets +onlyGivenNames kX; have kh : Keeps kM kR kX := ?_; (on_goal 1 => clear_value kX); (on_goal 2 => subst kX))
    | (extract_lets +onlyGivenNames kX; first | ((first | have kg : SafeSt := kX | have kg : SlabSt := kX | have kg : TimeSt := kX); clear kg; subst kX) | clear_value kX)
    | fail_if_no_progress with_reducible refine Keeps.upd ?_ rfl rfl rfl

theorem State.ack_keeps {s : State} {n : Nat} (kH : Keeps kM kR s) :
    Keeps kM kR (State.ack s n) := by
  unfold State.ack
  repeat' first
    | with_reducible assumption
    | with_reducible exact Keeps.refl _ _
    | with_reducible apply State.put_keeps

theorem State.clearErrCnt_keeps {s : State} (kH : Keeps kM kR s) :
    Keeps kM kR (State.clearErrCnt s) := by
  unfold State.clearErrCnt
  repeat' first
    | with_reducible assumption
    | with_reducible exact Keeps.refl _ _
    | with_reducible apply State.put_keeps

theorem State.hostWrite_keeps {s : State} {a : Nat} {v : W32} (kH : Keeps kM kR s) :
    Keeps kM kR (State.hostWrite s a v) := by
  unfold State.hostWrite
  repeat' first
    | with_reducible assumption
    | with_reducible exact Keeps.refl _ _
    | with_reducible apply State.ack_keeps
    | with_reducible apply State.askSeqReset_keeps
    | with_reducible apply State.clearErrCnt_keeps
    | with_reducible apply State.regWrite_keeps
    | with_reducible apply State.ring_keeps
    | with_reducible apply State.wr_keeps
    | with_reducible refine ite_keeps ?_ ?_
    | intro _
    | split

theorem State.discardWrite_keeps {s : State} {f : Option Fld} (kH : Keeps kM kR s) :
    Keeps kM kR (State.discardWrite s f) := by
  unfold State.discardWrite
  repeat' first
    | with_reducible assumption
    | with_reducible exact Keeps.refl _ _
    | with_reducible apply State.bumpSat_keeps
    | with_reducible apply State.spiErr_keeps
    | split
    | (extract_lets +onlyGivenNames kX; have kh : Keeps kM kR kX := ?_; (on_goal 1 => clear_value kX); (on_goal 2 => subst kX))
    | (extract_lets +onlyGivenNames kX; first | ((first | have kg : SafeSt := kX | have kg : SlabSt := kX | have kg : TimeSt := kX); clear kg; subst kX) | clear_value kX)
    | fail_if_no_progress with_reducible refine Keeps.upd ?_ rfl rfl rfl

theorem State.spiWrite_keeps {s : State} {rest : List Byte} {extraBits : Nat} (kH : Keeps kM kR s) :
    Keeps kM kR (State.spiWrite s rest extraBits) := by
  unfold State.spiWrite
  repeat' first
    | with_reducible assumption
    | with_reducible exact Keeps.refl _ _
    | with_reducible apply forEach_keeps
    | with_reducible apply foldl_keeps
    | with_reducible apply Cmd.take_keeps
    | with_reducible apply State.discardWrite_keeps
    | with_reducible apply State.hostWrite_keeps
    | with_reducible refine ite_keeps ?_ ?_
    | intro _
    | (extract_lets +onlyGivenNames kX; have kh : Keeps kM kR kX := ?_; (on_goal 1 => clear_value kX); (on_goal 2 => subst kX))
    | (extract_lets +onlyGivenNames kX; first | ((first | have kg : SafeSt := kX | have kg : SlabSt := kX | have kg : TimeSt := kX); clear kg; subst kX) | clear_value kX)
    | fail_if_no_progress with_reducible refine Keeps.upd ?_ rfl rfl rfl

theorem State.shiftStatus_keeps {s : State} (kH : Keeps kM kR s) :
    Keeps kM kR (State.shiftStatus s) := by
  unfold State.shiftStatus
  repeat' first
    | with_reducible assumption
    | with_reducible exact Keeps.refl _ _
    | fail_if_no_progress with_reducible refine Keeps.upd ?_ rfl rfl rfl

theorem execSpiWriteTransaction_keeps {wire : List Byte} {extraBits : Nat} {s : State} (kH : Keeps kM kR s) :
    Good kM kR (execSpiWriteTransaction wire extraBits s) := by
  unfold execSpiWriteTransaction
  refine Good.next ?_
  repeat' first
    | with_reducible assumption
    | with_reducible exact Keeps.refl _ _
    | with_reducible apply State.discardWrite_keeps
    | with_reducible apply State.shiftStatus_keeps
    | with_reducible apply State.spiErr_keeps
    | with_reducible apply State.spiWrite_keeps
    | with_reducible refine ite_keeps ?_ ?_
    | with_reducible refine ite_cmdKeeps ?_ ?_
    | split

theorem State.readWords_snd {n : Nat} {s : State} {a : Nat} (kH : Keeps kM kR s) : Keeps kM kR (s.readWords a n).2 := by
  induction n generalizing s a with
  | zero => exact kH
  | succ n ih => exact ih (State.latch_keeps kH)

theorem State.readWords_keeps {n : Nat} {s t : State} {a : Nat} {l : List W32} (e : s.readWords a n = (l, t))
    (kH : Keeps kM kR s) : Keeps kM kR t := by
  have h := State.readWords_snd (n := n) (a := a) kH
  rwa [e] at h

theorem execSpiReadTransaction_keeps {addr : BitVec 24} {words : Nat} {s : State} (kH : Keeps kM kR s) :
    Good kM kR (execSpiReadTransaction addr words s) := by
  unfold execSpiReadTransaction
  have kS := State.shiftStatus_keeps kH
  generalize s.shiftStatus = s at kS
  dsimp only
  generalize hp : (if s.ready then s.readWords (addr.toNat / 4 * 4) words else (List.replicate words 0, s)) = p
  obtain ⟨ws, t⟩ := p
  refine Good.next (Keeps.upd ?_ rfl rfl rfl)
  split at hp
  · exact State.readWords_keeps hp kS
  · cases hp
    exact kS

theorem execRegisterWrite_keeps {addr : Nat} {value : W32} {s : State} (kH : Keeps kM kR s) :
    Good kM kR (execRegisterWrite addr value s) := by
  unfold execRegisterWrite
  refine Good.next ?_
  repeat' first
    | with_reducible assumption
    | with_reducible exact Keeps.refl _ _
    | with_reducible apply State.hostWrite_keeps
    | with_reducible apply State.regWrite_keeps
    | with_reducible refine ite_keeps ?_ ?_

theorem execRegisterReadClear_keeps {addr : Nat} {s : State} (kH : Keeps kM kR s) :
    Good kM kR (execRegisterReadClear addr s) := by
  unfold execRegisterReadClear
  refine Good.next ?_
  repeat' first
    | with_reducible assumption
    | with_reducible exact Keeps.refl _ _
    | with_reducible apply State.clearRc_keeps
    | with_reducible refine ite_keeps ?_ ?_

theorem execMtLoRead_keeps {path : ReadPath} {addr : Nat} {s : State} (kH : Keeps kM kR s) :
    Good kM kR (execMtLoRead path addr s) := by
  unfold execMtLoRead
  refine Good.next ?_
  repeat' first
    | with_reducible assumption
    | with_reducible exact Keeps.refl _ _
    | with_reducible apply State.latch_keeps

theorem execSeqReset_keeps {m : Fin 4} {s : State} (kH : Keeps kM kR s) :
    Good kM kR (execSeqReset m s) := by
  unfold execSeqReset
  refine Good.next ?_
  repeat' first
    | with_reducible assumption
    | with_reducible exact Keeps.refl _ _
    | with_reducible apply State.askSeqReset_keeps

theorem execEvqAck_keeps {n : Nat} {s : State} (kH : Keeps kM kR s) :
    Good kM kR (execEvqAck n s) := by
  unfold execEvqAck
  refine Good.next ?_
  repeat' first
    | with_reducible assumption
    | with_reducible exact Keeps.refl _ _
    | with_reducible apply State.ack_keeps

theorem execSpiErrCntClr_keeps {s : State} (kH : Keeps kM kR s) :
    Good kM kR (execSpiErrCntClr s) := by
  unfold execSpiErrCntClr
  refine Good.next ?_
  repeat' first
    | with_reducible assumption
    | with_reducible exact Keeps.refl _ _
    | with_reducible apply State.clearErrCnt_keeps

end Sys2Proof.Machine
end

