-- ==== Sys2Proof/Laws/KeepsUart.lean ====
section
/-! SUPPORT. What the operations of Machine/Uart.lean keep. -/

namespace Sys2Proof.Machine

variable {kM : Bool} {kR : State}

theorem State.sendXoff_keeps {s : State} {n : Nat} (kH : Keeps kM kR s) :
    Keeps kM kR (State.sendXoff s n) := by
  unfold State.sendXoff
  repeat' first
    | with_reducible assumption
    | with_reducible exact Keeps.refl _ _
    | with_reducible apply State.bumpSat_keeps
    | with_reducible apply State.setUart_keeps
    | with_reducible apply State.uartKick_keeps

theorem State.matchOver_keeps {s : State} (kH : Keeps kM kR s) :
    Keeps kM kR (State.matchOver s) := by
  unfold State.matchOver
  repeat' first
    | with_reducible assumption
    | with_reducible exact Keeps.refl _ _
    | with_reducible apply State.sendXoff_keeps
    | with_reducible apply State.setUart_keeps
    | with_reducible refine ite_keeps ?_ ?_

theorem State.squallMatch_keeps {s : State} {ch : Byte} {bad : Bool} {idle : Nat} (kH : Keeps kM kR s) :
    Keeps kM kR (State.squallMatch s ch bad idle) := by
  unfold State.squallMatch
  repeat' first
    | with_reducible assumption
    | with_reducible exact Keeps.refl _ _
    | with_reducible apply State.matchOver_keeps
    | with_reducible apply State.setUart_keeps
    | with_reducible apply State.squallTrigger_keeps
    | with_reducible refine ite_keeps ?_ ?_

theorem State.storeChar_keeps {s : State} {n : Nat} {ch : Byte} {fe pe brk : Bool} (kH : Keeps kM kR s) :
    Keeps kM kR (State.storeChar s n ch fe pe brk) := by
  unfold State.storeChar
  repeat' first
    | with_reducible assumption
    | with_reducible exact Keeps.refl _ _
    | with_reducible apply State.bumpSat_keeps
    | with_reducible apply State.bump_keeps
    | with_reducible apply State.set_keeps
    | with_reducible apply State.wr_keeps
    | with_reducible refine ite_keeps ?_ ?_

theorem execUartCharReceived_keeps {n : Fin 2} {ch : Byte} {fe : Bool} {pe : Bool} {brk : Bool} {idleChars : Nat} {s : State} (kH : Keeps kM kR s) :
    Good kM kR (execUartCharReceived n ch fe pe brk idleChars s) := by
  unfold execUartCharReceived
  refine Good.next ?_
  repeat' first
    | with_reducible assumption
    | with_reducible exact Keeps.refl _ _
    | with_reducible apply State.bumpSat_keeps
    | with_reducible apply State.set_keeps
    | with_reducible apply State.squallMatch_keeps
    | with_reducible apply State.storeChar_keeps
    | with_reducible apply State.uartKick_keeps
    | with_reducible refine ite_keeps ?_ ?_

theorem execSquallSequenceTimeout_keeps {s : State} (kH : Keeps kM kR s) :
    Good kM kR (execSquallSequenceTimeout s) := by
  unfold execSquallSequenceTimeout
  refine Good.next ?_
  repeat' first
    | with_reducible assumption
    | with_reducible exact Keeps.refl _ _
    | with_reducible apply State.matchOver_keeps
    | with_reducible refine ite_keeps ?_ ?_

theorem State.ringPush_keeps {s : State} {n : Nat} {ch : Byte} {bad : Bool} (kH : Keeps kM kR s) :
    Keeps kM kR (State.ringPush s n ch bad) := by
  unfold State.ringPush
  repeat' first
    | with_reducible assumption
    | with_reducible exact Keeps.refl _ _
    | with_reducible apply State.post_keeps
    | with_reducible apply State.ring_keeps
    | with_reducible apply State.setUart_keeps
    | with_reducible refine ite_keeps ?_ ?_

theorem execUartRxdRead_keeps {n : Fin 2} {s : State} (kH : Keeps kM kR s) :
    Good kM kR (execUartRxdRead n s) := by
  unfold execUartRxdRead
  refine Good.next ?_
  repeat' first
    | with_reducible assumption
    | with_reducible exact Keeps.refl _ _
    | with_reducible apply State.ringPush_keeps
    | with_reducible apply State.setUart_keeps
    | with_reducible apply State.set_keeps
    | with_reducible apply State.uartKick_keeps
    | with_reducible refine ite_keeps ?_ ?_

theorem execUartTxdWrite_keeps {n : Fin 2} {ch : Byte} {s : State} (kH : Keeps kM kR s) :
    Good kM kR (execUartTxdWrite n ch s) := by
  unfold execUartTxdWrite
  refine Good.next ?_
  repeat' first
    | with_reducible assumption
    | with_reducible exact Keeps.refl _ _
    | with_reducible apply State.setUart_keeps
    | with_reducible apply State.set_keeps
    | with_reducible apply State.uartKick_keeps
    | with_reducible refine ite_keeps ?_ ?_

theorem execUartCharSent_keeps {n : Fin 2} {s : State} (kH : Keeps kM kR s) :
    Good kM kR (execUartCharSent n s) := by
  unfold execUartCharSent
  refine Good.next ?_
  repeat' first
    | with_reducible assumption
    | with_reducible exact Keeps.refl _ _
    | with_reducible apply State.bump_keeps
    | with_reducible apply State.setUart_keeps
    | with_reducible apply State.set_keeps
    | with_reducible apply State.uartKick_keeps
    | with_reducible refine ite_keeps ?_ ?_

theorem execXoffGenerate_keeps {n : Fin 2} {s : State} (kH : Keeps kM kR s) :
    Good kM kR (execXoffGenerate n s) := by
  unfold execXoffGenerate
  refine Good.next ?_
  repeat' first
    | with_reducible assumption
    | with_reducible exact Keeps.refl _ _
    | with_reducible apply State.sendXoff_keeps
    | with_reducible apply State.setUart_keeps
    | with_reducible refine ite_keeps ?_ ?_

theorem execDeRelease_keeps {s : State} (kH : Keeps kM kR s) :
    Good kM kR (execDeRelease s) := by
  unfold execDeRelease
  refine Good.next ?_
  repeat' first
    | with_reducible assumption
    | with_reducible exact Keeps.refl _ _
    | with_reducible apply State.setUart_keeps
    | with_reducible refine ite_keeps ?_ ?_

theorem execUartBreakDetect_keeps {n : Fin 2} {s : State} (kH : Keeps kM kR s) :
    Good kM kR (execUartBreakDetect n s) := by
  unfold execUartBreakDetect
  refine Good.next ?_
  repeat' first
    | with_reducible assumption
    | with_reducible exact Keeps.refl _ _
    | with_reducible apply State.bumpSat_keeps
    | with_reducible apply State.post_keeps
    | with_reducible apply State.setUart_keeps
    | with_reducible apply State.set_keeps
    | with_reducible refine ite_keeps ?_ ?_

theorem State.contactClear_keeps {s : State} (kH : Keeps kM kR s) :
    Keeps kM kR (State.contactClear s) := by
  unfold State.contactClear
  repeat' first
    | with_reducible assumption
    | with_reducible exact Keeps.refl _ _
    | with_reducible apply State.unraise_keeps
    | with_reducible refine ite_keeps ?_ ?_

theorem execUartLineStuckDetect_keeps {n : Fin 2} {s : State} (kH : Keeps kM kR s) :
    Good kM kR (execUartLineStuckDetect n s) := by
  unfold execUartLineStuckDetect
  refine Good.next ?_
  repeat' first
    | with_reducible assumption
    | with_reducible exact Keeps.refl _ _
    | with_reducible apply State.post_keeps
    | with_reducible apply State.raise_keeps
    | with_reducible apply State.setUart_keeps
    | with_reducible apply State.set_keeps
    | with_reducible refine ite_keeps ?_ ?_

theorem execUartFalseStart_keeps {n : Fin 2} {s : State} (kH : Keeps kM kR s) :
    Good kM kR (execUartFalseStart n s) := by
  unfold execUartFalseStart
  refine Good.next ?_
  repeat' first
    | with_reducible assumption
    | with_reducible exact Keeps.refl _ _
    | with_reducible apply State.bumpSat_keeps
    | with_reducible apply State.set_keeps
    | with_reducible refine ite_keeps ?_ ?_

theorem execUartLineReturnToIdle_keeps {n : Fin 2} {s : State} (kH : Keeps kM kR s) :
    Good kM kR (execUartLineReturnToIdle n s) := by
  unfold execUartLineReturnToIdle
  refine Good.next ?_
  repeat' first
    | with_reducible assumption
    | with_reducible exact Keeps.refl _ _
    | with_reducible apply State.contactClear_keeps
    | with_reducible apply State.setUart_keeps
    | with_reducible apply State.set_keeps

theorem execUartWakeEdge_keeps {n : Fin 2} {s : State} (kH : Keeps kM kR s) :
    Good kM kR (execUartWakeEdge n s) := by
  unfold execUartWakeEdge
  refine Good.next ?_
  repeat' first
    | with_reducible assumption
    | with_reducible exact Keeps.refl _ _
    | with_reducible apply State.setUart_keeps
    | with_reducible apply State.set_keeps
    | with_reducible refine ite_keeps ?_ ?_

theorem execUartKcpFrame_keeps {wire : List Byte} {damaged : Bool} {s : State} (kH : Keeps kM kR s) :
    Good kM kR (execUartKcpFrame wire damaged s) := by
  unfold execUartKcpFrame
  refine Good.next ?_
  repeat' first
    | with_reducible assumption
    | with_reducible exact Keeps.refl _ _
    | with_reducible apply getD_keeps
    | with_reducible apply Cmd.take_keeps
    | with_reducible apply State.bind_keeps
    | with_reducible apply State.bumpSat_keeps
    | with_reducible apply State.respond_keeps
    | with_reducible apply State.screenOpcode_keeps
    | with_reducible refine ite_keeps ?_ ?_
    | with_reducible refine ite_cmdKeeps ?_ ?_
    | intro _
    | split
    | (extract_lets +onlyGivenNames kX; have kh : Keeps kM kR kX := ?_; (on_goal 1 => clear_value kX); (on_goal 2 => subst kX))
    | (extract_lets +onlyGivenNames kX; first | ((first | have kg : SafeSt := kX | have kg : SlabSt := kX | have kg : TimeSt := kX); clear kg; subst kX) | clear_value kX)
    | fail_if_no_progress with_reducible refine Keeps.upd ?_ rfl rfl rfl

theorem execUartFrameGapTimeout_keeps {s : State} (kH : Keeps kM kR s) :
    Good kM kR (execUartFrameGapTimeout s) := by
  unfold execUartFrameGapTimeout
  refine Good.next ?_
  repeat' first
    | with_reducible assumption
    | with_reducible exact Keeps.refl _ _
    | with_reducible apply State.bumpSat_keeps
    | with_reducible refine ite_keeps ?_ ?_

theorem cmdUartConfig_keeps  : CmdKeeps kM (cmdUartConfig) := by
  unfold cmdUartConfig
  refine ⟨fun _ _ kR kS kH => ?_, fun _ _ kR kS kH => ?_, fun _ kR kS kH => ?_⟩
  all_goals try dsimp -zeta only [ans]
  repeat' first
    | with_reducible assumption
    | with_reducible exact Keeps.refl _ _
    | with_reducible apply State.set_keeps
    | with_reducible apply State.writeImage_keeps

theorem execUartConfig_keeps {k : Kcp} {s : State} (kH : Keeps kM kR s) :
    Good kM kR (execUartConfig k s) := by
  unfold execUartConfig
  refine Good.next ?_
  repeat' first
    | with_reducible assumption
    | with_reducible exact Keeps.refl _ _
    | with_reducible apply cmdUartConfig_keeps
    | with_reducible apply kcpExec_keeps

theorem State.uartEnable_keeps {s : State} {n : Nat} {en : Bool} (kH : Keeps kM kR s) :
    Keeps kM kR (State.uartEnable s n en) := by
  unfold State.uartEnable
  repeat' first
    | with_reducible assumption
    | with_reducible exact Keeps.refl _ _
    | with_reducible apply State.setUart_keeps
    | with_reducible apply State.set_keeps
    | with_reducible refine ite_keeps ?_ ?_

theorem cmdUartEnable_keeps  : CmdKeeps kM (cmdUartEnable) := by
  unfold cmdUartEnable
  refine ⟨fun _ _ kR kS kH => ?_, fun _ _ kR kS kH => ?_, fun _ kR kS kH => ?_⟩
  all_goals try dsimp -zeta only [ans]
  repeat' first
    | with_reducible assumption
    | with_reducible exact Keeps.refl _ _
    | with_reducible apply State.uartEnable_keeps

theorem execUartEnable_keeps {k : Kcp} {s : State} (kH : Keeps kM kR s) :
    Good kM kR (execUartEnable k s) := by
  unfold execUartEnable
  refine Good.next ?_
  repeat' first
    | with_reducible assumption
    | with_reducible exact Keeps.refl _ _
    | with_reducible apply cmdUartEnable_keeps
    | with_reducible apply kcpExec_keeps

theorem cmdUartSend_keeps  : CmdKeeps kM (cmdUartSend) := by
  unfold cmdUartSend
  refine ⟨fun _ _ kR kS kH => ?_, fun _ _ kR kS kH => ?_, fun _ kR kS kH => ?_⟩
  all_goals try dsimp -zeta only [ans]
  repeat' first
    | with_reducible assumption
    | with_reducible exact Keeps.refl _ _
    | with_reducible apply State.setUart_keeps
    | with_reducible apply State.uartKick_keeps

theorem execUartSend_keeps {k : Kcp} {s : State} (kH : Keeps kM kR s) :
    Good kM kR (execUartSend k s) := by
  unfold execUartSend
  refine Good.next ?_
  repeat' first
    | with_reducible assumption
    | with_reducible exact Keeps.refl _ _
    | with_reducible apply cmdUartSend_keeps
    | with_reducible apply kcpExec_keeps

theorem cmdUartRecv_keeps  : CmdKeeps kM (cmdUartRecv) := by
  unfold cmdUartRecv
  refine ⟨fun _ _ kR kS kH => ?_, fun _ _ kR kS kH => ?_, fun _ kR kS kH => ?_⟩
  all_goals try dsimp -zeta only [ans]
  repeat' first
    | with_reducible assumption
    | with_reducible exact Keeps.refl _ _
    | with_reducible apply Cmd.take_keeps
    | with_reducible apply State.ring_keeps
    | with_reducible apply State.setUart_keeps

theorem execUartRecv_keeps {k : Kcp} {s : State} (kH : Keeps kM kR s) :
    Good kM kR (execUartRecv k s) := by
  unfold execUartRecv
  refine Good.next ?_
  repeat' first
    | with_reducible assumption
    | with_reducible exact Keeps.refl _ _
    | with_reducible apply cmdUartRecv_keeps
    | with_reducible apply kcpExec_keeps

theorem cmdUartSetFramed_keeps  : CmdKeeps kM (cmdUartSetFramed) := by
  unfold cmdUartSetFramed
  refine ⟨fun _ _ kR kS kH => ?_, fun _ _ kR kS kH => ?_, fun _ kR kS kH => ?_⟩
  all_goals try dsimp -zeta only [ans]
  repeat' first
    | with_reducible assumption
    | with_reducible exact Keeps.refl _ _
    | with_reducible apply State.set_keeps

theorem execUartSetFramed_keeps {k : Kcp} {s : State} (kH : Keeps kM kR s) :
    Good kM kR (execUartSetFramed k s) := by
  unfold execUartSetFramed
  refine Good.next ?_
  repeat' first
    | with_reducible assumption
    | with_reducible exact Keeps.refl _ _
    | with_reducible apply cmdUartSetFramed_keeps
    | with_reducible apply kcpExec_keeps

theorem cmdUartGetStatus_keeps  : CmdKeeps kM (cmdUartGetStatus) := by
  unfold cmdUartGetStatus
  refine ⟨fun _ _ kR kS kH => ?_, fun _ _ kR kS kH => ?_, fun _ kR kS kH => ?_⟩
  all_goals try dsimp -zeta only [ans]
  repeat' first
    | with_reducible assumption

theorem execUartGetStatus_keeps {k : Kcp} {s : State} (kH : Keeps kM kR s) :
    Good kM kR (execUartGetStatus k s) := by
  unfold execUartGetStatus
  refine Good.next ?_
  repeat' first
    | with_reducible assumption
    | with_reducible exact Keeps.refl _ _
    | with_reducible apply cmdUartGetStatus_keeps
    | with_reducible apply kcpExec_keeps

end Sys2Proof.Machine
end

