-- ==== Sys2Proof/Laws/KeepsTimer.lean ====
section
/-! SUPPORT. What the operations of Machine/Timer.lean keep. -/

namespace Sys2Proof.Machine

variable {kM : Bool} {kR : State}

theorem State.timReach_keeps {s : State} {n : Nat} (kH : Keeps kM kR s) :
    Keeps kM kR (State.timReach s n) := by
  unfold State.timReach
  repeat' first
    | with_reducible assumption
    | with_reducible exact Keeps.refl _ _
    | with_reducible apply State.put_keeps

theorem State.timArm_keeps {s : State} {n c : Nat} {on : Bool} (kH : Keeps kM kR s) :
    Keeps kM kR (State.timArm s n c on) := by
  unfold State.timArm
  repeat' first
    | with_reducible assumption
    | with_reducible exact Keeps.refl _ _
    | with_reducible apply State.put_keeps

theorem State.timLoad0_keeps {s : State} {n : Nat} (kH : Keeps kM kR s) :
    Keeps kM kR (State.timLoad0 s n) := by
  unfold State.timLoad0
  repeat' first
    | with_reducible assumption
    | with_reducible exact Keeps.refl _ _
    | with_reducible apply State.put_keeps
    | with_reducible apply State.set_keeps
    | with_reducible apply State.timReach_keeps

theorem State.timStart_keeps {s : State} {n : Nat} (kH : Keeps kM kR s) :
    Keeps kM kR (State.timStart s n) := by
  unfold State.timStart
  repeat' first
    | with_reducible assumption
    | with_reducible exact Keeps.refl _ _
    | with_reducible apply State.put_keeps
    | with_reducible apply State.setTimer_keeps
    | with_reducible apply State.set_keeps
    | with_reducible refine ite_keeps ?_ ?_

theorem State.timStop_keeps {s : State} {n : Nat} (kH : Keeps kM kR s) :
    Keeps kM kR (State.timStop s n) := by
  unfold State.timStop
  repeat' first
    | with_reducible assumption
    | with_reducible exact Keeps.refl _ _
    | with_reducible apply State.set_keeps

theorem State.timDue_keeps {s : State} {n a : Nat} (kH : Keeps kM kR s) :
    Keeps kM kR (State.timDue s n a) := by
  unfold State.timDue
  repeat' first
    | with_reducible assumption
    | with_reducible exact Keeps.refl _ _
    | with_reducible apply State.setTimer_keeps

theorem State.timOutput_keeps {s : State} {n e : Nat} (kH : Keeps kM kR s) :
    Keeps kM kR (State.timOutput s n e) := by
  unfold State.timOutput
  repeat' first
    | with_reducible assumption
    | with_reducible exact Keeps.refl _ _
    | with_reducible apply State.setTimer_keeps
    | with_reducible apply State.set_keeps
    | with_reducible refine ite_keeps ?_ ?_

theorem State.timPost_keeps {s : State} {n : Nat} (kH : Keeps kM kR s) :
    Keeps kM kR (State.timPost s n) := by
  unfold State.timPost
  repeat' first
    | with_reducible assumption
    | with_reducible exact Keeps.refl _ _
    | with_reducible apply State.post_keeps
    | with_reducible apply State.setTimer_keeps
    | with_reducible refine ite_keeps ?_ ?_

theorem State.timEvent_keeps {s : State} {n e : Nat} (kH : Keeps kM kR s) :
    Keeps kM kR (State.timEvent s n e) := by
  unfold State.timEvent
  repeat' first
    | with_reducible assumption
    | with_reducible exact Keeps.refl _ _
    | with_reducible apply forEach_keeps
    | with_reducible apply State.put_keeps
    | with_reducible apply State.setTimer_keeps
    | with_reducible apply State.set_keeps
    | with_reducible apply State.strikeTrigger_keeps
    | with_reducible apply State.timDue_keeps
    | with_reducible apply State.timOutput_keeps
    | with_reducible apply State.timPost_keeps
    | with_reducible apply State.trigAll_keeps
    | with_reducible refine ite_keeps ?_ ?_
    | intro _

theorem State.timAdd_keeps {s : State} {n c : Nat} (kH : Keeps kM kR s) :
    Keeps kM kR (State.timAdd s n c) := by
  unfold State.timAdd
  repeat' first
    | with_reducible assumption
    | with_reducible exact Keeps.refl _ _
    | with_reducible apply State.put_keeps
    | with_reducible apply State.timArm_keeps
    | with_reducible apply State.timReach_keeps
    | with_reducible refine ite_keeps ?_ ?_

theorem State.timMatch_keeps {s : State} {n c : Nat} (kH : Keeps kM kR s) :
    Keeps kM kR (State.timMatch s n c) := by
  unfold State.timMatch
  repeat' first
    | with_reducible assumption
    | with_reducible exact Keeps.refl _ _
    | with_reducible apply State.setTimer_keeps
    | with_reducible apply State.timAdd_keeps
    | with_reducible apply State.timDue_keeps
    | with_reducible apply State.timEvent_keeps
    | split
    | (extract_lets +onlyGivenNames kX; have kh : Keeps kM kR kX := ?_; (on_goal 1 => clear_value kX); (on_goal 2 => subst kX))
    | (extract_lets +onlyGivenNames kX; first | ((first | have kg : SafeSt := kX | have kg : SlabSt := kX | have kg : TimeSt := kX); clear kg; subst kX) | clear_value kX)

theorem State.timCount_keeps {s : State} {n : Nat} (kH : Keeps kM kR s) :
    Keeps kM kR (State.timCount s n) := by
  unfold State.timCount
  repeat' first
    | with_reducible assumption
    | with_reducible exact Keeps.refl _ _
    | with_reducible apply forEach_keeps
    | with_reducible apply State.put_keeps
    | with_reducible apply State.setTimer_keeps
    | with_reducible apply State.set_keeps
    | with_reducible apply State.timEvent_keeps
    | with_reducible apply State.timLoad0_keeps
    | with_reducible apply State.timMatch_keeps
    | with_reducible refine ite_keeps ?_ ?_
    | intro _

theorem State.timGate_snd {s : State} {n : Nat} (kH : Keeps kM kR s) :
    Keeps kM kR (State.timGate s n).2 := by
  unfold State.timGate
  repeat' first
    | with_reducible assumption
    | with_reducible exact Keeps.refl _ _
    | with_reducible apply State.draw_snd
    | with_reducible refine State.draw_keeps (by with_reducible assumption) ?_
    | with_reducible refine ite_keeps ?_ ?_

theorem State.timGate_keeps {s : State} {n : Nat} {kt : State} {kx : Bool}
    (ke : State.timGate s n = (kx, kt)) (kH : Keeps kM kR s) : Keeps kM kR kt := by
  have h := State.timGate_snd (s := s) (n := n) kH
  rwa [ke] at h

theorem State.timPrescale_snd {s : State} {n k : Nat} (kH : Keeps kM kR s) :
    Keeps kM kR (State.timPrescale s n k).2 := by
  unfold State.timPrescale
  repeat' first
    | with_reducible assumption
    | with_reducible exact Keeps.refl _ _
    | with_reducible apply State.setTimer_keeps
    | with_reducible apply State.set_keeps
    | with_reducible apply State.timGate_snd
    | with_reducible refine State.timGate_keeps (by with_reducible assumption) ?_
    | with_reducible refine ite_keeps ?_ ?_
    | split

theorem State.timPrescale_keeps {s : State} {n k : Nat} {kt : State} {kx : Nat}
    (ke : State.timPrescale s n k = (kx, kt)) (kH : Keeps kM kR s) : Keeps kM kR kt := by
  have h := State.timPrescale_snd (s := s) (n := n) (k := k) kH
  rwa [ke] at h

theorem State.timClock_keeps {s : State} {n : Nat} (kH : Keeps kM kR s) :
    Keeps kM kR (State.timClock s n) := by
  unfold State.timClock
  repeat' first
    | with_reducible assumption
    | with_reducible exact Keeps.refl _ _
    | with_reducible apply iter_keeps
    | with_reducible apply State.timCount_keeps
    | with_reducible apply State.timPrescale_snd
    | with_reducible refine State.timPrescale_keeps (by with_reducible assumption) ?_
    | with_reducible refine ite_keeps ?_ ?_
    | intro _

theorem State.timJump_keeps {s : State} {n ticks : Nat} (kH : Keeps kM kR s) :
    Keeps kM kR (State.timJump s n ticks) := by
  unfold State.timJump
  repeat' first
    | with_reducible assumption
    | with_reducible exact Keeps.refl _ _
    | with_reducible apply forEach_keeps
    | with_reducible apply iter_keeps
    | with_reducible apply State.put_keeps
    | with_reducible apply State.timCount_keeps
    | with_reducible apply State.timEvent_keeps
    | with_reducible apply State.timLoad0_keeps
    | with_reducible apply State.timMatch_keeps
    | with_reducible apply State.timPrescale_snd
    | with_reducible refine State.timPrescale_keeps (by with_reducible assumption) ?_
    | with_reducible refine ite_keeps ?_ ?_
    | intro _

theorem State.timLink_keeps {s : State} {n a : Nat} (kH : Keeps kM kR s) :
    Keeps kM kR (State.timLink s n a) := by
  unfold State.timLink
  repeat' first
    | with_reducible assumption
    | with_reducible exact Keeps.refl _ _
    | with_reducible apply State.timClock_keeps
    | with_reducible apply State.timLoad0_keeps
    | with_reducible apply State.timStart_keeps
    | with_reducible apply State.timStop_keeps
    | split

theorem State.timCmpWrite_keeps {s : State} {n c v : Nat} (kH : Keeps kM kR s) :
    Keeps kM kR (State.timCmpWrite s n c v) := by
  unfold State.timCmpWrite
  repeat' first
    | with_reducible assumption
    | with_reducible exact Keeps.refl _ _
    | with_reducible apply State.put_keeps
    | with_reducible apply State.timArm_keeps
    | with_reducible apply State.timReach_keeps

theorem State.timPeriodWrite_keeps {s : State} {n v : Nat} (kH : Keeps kM kR s) :
    Keeps kM kR (State.timPeriodWrite s n v) := by
  unfold State.timPeriodWrite
  repeat' first
    | with_reducible assumption
    | with_reducible exact Keeps.refl _ _
    | with_reducible apply State.put_keeps
    | with_reducible apply State.setTimer_keeps
    | with_reducible apply State.set_keeps
    | with_reducible apply State.timReach_keeps
    | with_reducible refine ite_keeps ?_ ?_

theorem execTimCmpWrite_keeps {n : Fin 16} {c : Fin 4} {value : W32} {s : State} (kH : Keeps kM kR s) :
    Good kM kR (execTimCmpWrite n c value s) := by
  unfold execTimCmpWrite
  refine Good.next ?_
  repeat' first
    | with_reducible assumption
    | with_reducible exact Keeps.refl _ _
    | with_reducible apply State.timCmpWrite_keeps

theorem execTimPeriodWrite_keeps {n : Fin 16} {value : W32} {s : State} (kH : Keeps kM kR s) :
    Good kM kR (execTimPeriodWrite n value s) := by
  unfold execTimPeriodWrite
  refine Good.next ?_
  repeat' first
    | with_reducible assumption
    | with_reducible exact Keeps.refl _ _
    | with_reducible apply State.timPeriodWrite_keeps

theorem execTimerClock_keeps {n : Fin 16} {s : State} (kH : Keeps kM kR s) :
    Good kM kR (execTimerClock n s) := by
  unfold execTimerClock
  refine Good.next ?_
  repeat' first
    | with_reducible assumption
    | with_reducible exact Keeps.refl _ _
    | with_reducible apply State.timClock_keeps
    | with_reducible refine ite_keeps ?_ ?_

theorem execTimerLinkAction_keeps {n : Fin 16} {s : State} (kH : Keeps kM kR s) :
    Good kM kR (execTimerLinkAction n s) := by
  unfold execTimerLinkAction
  refine Good.next ?_
  repeat' first
    | with_reducible assumption
    | with_reducible exact Keeps.refl _ _
    | with_reducible apply forEach_keeps
    | with_reducible apply State.setTimer_keeps
    | with_reducible apply State.timLink_keeps
    | intro _

theorem execTimerPulseEnd_keeps {n : Fin 16} {s : State} (kH : Keeps kM kR s) :
    Good kM kR (execTimerPulseEnd n s) := by
  unfold execTimerPulseEnd
  refine Good.next ?_
  repeat' first
    | with_reducible assumption
    | with_reducible exact Keeps.refl _ _
    | with_reducible apply State.setTimer_keeps
    | with_reducible apply State.set_keeps
    | with_reducible refine ite_keeps ?_ ?_

theorem cmdTimConfig_keeps  : CmdKeeps kM (cmdTimConfig) := by
  unfold cmdTimConfig
  refine ⟨fun _ _ kR kS kH => ?_, fun _ _ kR kS kH => ?_, fun _ kR kS kH => ?_⟩
  all_goals try dsimp -zeta only [ans]
  repeat' first
    | with_reducible assumption
    | with_reducible exact Keeps.refl _ _
    | with_reducible apply forEach_keeps
    | with_reducible apply Cmd.take_keeps
    | with_reducible apply State.timCmpWrite_keeps
    | with_reducible apply State.timPeriodWrite_keeps
    | with_reducible apply State.wr_keeps
    | with_reducible apply State.writeImage_keeps
    | with_reducible refine ite_keeps ?_ ?_
    | intro _

theorem execTimConfig_keeps {k : Kcp} {s : State} (kH : Keeps kM kR s) :
    Good kM kR (execTimConfig k s) := by
  unfold execTimConfig
  refine Good.next ?_
  repeat' first
    | with_reducible assumption
    | with_reducible exact Keeps.refl _ _
    | with_reducible apply cmdTimConfig_keeps
    | with_reducible apply kcpExec_keeps

theorem cmdTimStart_keeps  : CmdKeeps kM (cmdTimStart) := by
  unfold cmdTimStart
  refine ⟨fun _ _ kR kS kH => ?_, fun _ _ kR kS kH => ?_, fun _ kR kS kH => ?_⟩
  all_goals try dsimp -zeta only [ans]
  repeat' first
    | with_reducible assumption

theorem execTimStart_keeps {k : Kcp} {s : State} (kH : Keeps kM kR s) :
    Good kM kR (execTimStart k s) := by
  unfold execTimStart
  refine Good.next ?_
  repeat' first
    | with_reducible assumption
    | with_reducible exact Keeps.refl _ _
    | with_reducible apply cmdTimStart_keeps
    | with_reducible apply kcpExec_keeps

theorem cmdTimStop_keeps  : CmdKeeps kM (cmdTimStop) := by
  unfold cmdTimStop
  refine ⟨fun _ _ kR kS kH => ?_, fun _ _ kR kS kH => ?_, fun _ kR kS kH => ?_⟩
  all_goals try dsimp -zeta only [ans]
  repeat' first
    | with_reducible assumption

theorem execTimStop_keeps {k : Kcp} {s : State} (kH : Keeps kM kR s) :
    Good kM kR (execTimStop k s) := by
  unfold execTimStop
  refine Good.next ?_
  repeat' first
    | with_reducible assumption
    | with_reducible exact Keeps.refl _ _
    | with_reducible apply cmdTimStop_keeps
    | with_reducible apply kcpExec_keeps

theorem State.atTimStart_keeps {s : State} {p : List W32} (kH : Keeps kM kR s) :
    Keeps kM kR (State.atTimStart s p) := by
  unfold State.atTimStart
  repeat' first
    | with_reducible assumption
    | with_reducible exact Keeps.refl _ _
    | with_reducible apply forEach_keeps
    | with_reducible apply getD_keeps
    | with_reducible apply State.timStart_keeps
    | intro _

theorem State.atTimStop_keeps {s : State} {p : List W32} (kH : Keeps kM kR s) :
    Keeps kM kR (State.atTimStop s p) := by
  unfold State.atTimStop
  repeat' first
    | with_reducible assumption
    | with_reducible exact Keeps.refl _ _
    | with_reducible apply forEach_keeps
    | with_reducible apply getD_keeps
    | with_reducible apply State.timStop_keeps
    | intro _

theorem cmdTimSetCmp_keeps  : CmdKeeps kM (cmdTimSetCmp) := by
  unfold cmdTimSetCmp
  refine ⟨fun _ _ kR kS kH => ?_, fun _ _ kR kS kH => ?_, fun _ kR kS kH => ?_⟩
  all_goals try dsimp -zeta only [ans]
  repeat' first
    | with_reducible assumption
    | with_reducible exact Keeps.refl _ _
    | with_reducible apply State.timCmpWrite_keeps
    | with_reducible apply State.wr_keeps

theorem execTimSetCmp_keeps {k : Kcp} {s : State} (kH : Keeps kM kR s) :
    Good kM kR (execTimSetCmp k s) := by
  unfold execTimSetCmp
  refine Good.next ?_
  repeat' first
    | with_reducible assumption
    | with_reducible exact Keeps.refl _ _
    | with_reducible apply cmdTimSetCmp_keeps
    | with_reducible apply kcpExec_keeps

theorem cmdTimGet_keeps  : CmdKeeps kM (cmdTimGet) := by
  unfold cmdTimGet
  refine ⟨fun _ _ kR kS kH => ?_, fun _ _ kR kS kH => ?_, fun _ kR kS kH => ?_⟩
  all_goals try dsimp -zeta only [ans]
  repeat' first
    | with_reducible assumption

theorem execTimGet_keeps {k : Kcp} {s : State} (kH : Keeps kM kR s) :
    Good kM kR (execTimGet k s) := by
  unfold execTimGet
  refine Good.next ?_
  repeat' first
    | with_reducible assumption
    | with_reducible exact Keeps.refl _ _
    | with_reducible apply cmdTimGet_keeps
    | with_reducible apply kcpExec_keeps

end Sys2Proof.Machine
end

