-- ==== Sys2Proof/Laws/KeepsContact.lean ====
section
/-! SUPPORT. What the operations of Machine/Contact.lean keep. -/

namespace Sys2Proof.Machine

variable {kM : Bool} {kR : State}

theorem State.setContactClass_keeps {s : State} {n c : Nat} (kH : Keeps kM kR s) :
    Keeps kM kR (State.setContactClass s n c) := by
  unfold State.setContactClass
  repeat' first
    | with_reducible assumption
    | with_reducible exact Keeps.refl _ _
    | with_reducible apply State.wr_keeps

theorem State.ctPost_keeps {s : State} {n : Nat} (kH : Keeps kM kR s) :
    Keeps kM kR (State.ctPost s n) := by
  unfold State.ctPost
  repeat' first
    | with_reducible assumption
    | with_reducible exact Keeps.refl _ _
    | with_reducible apply State.post_keeps
    | with_reducible apply State.setContact_keeps
    | with_reducible refine ite_keeps ?_ ?_

theorem State.ctEdits_keeps {s : State} {n old : Nat} (kH : Keeps kM kR s) :
    Keeps kM kR (State.ctEdits s n old) := by
  unfold State.ctEdits
  repeat' first
    | with_reducible assumption
    | with_reducible exact Keeps.refl _ _
    | with_reducible apply forEach_keeps
    | with_reducible apply State.editVoice_keeps
    | with_reducible apply State.noteContact_keeps
    | with_reducible apply State.record_keeps
    | intro _

theorem State.ctTake_keeps {s : State} {n new : Nat} (kH : Keeps kM kR s) :
    Keeps kM kR (State.ctTake s n new) := by
  unfold State.ctTake
  repeat' first
    | with_reducible assumption
    | with_reducible exact Keeps.refl _ _
    | with_reducible apply State.bumpSat_keeps
    | with_reducible apply State.bump_keeps
    | with_reducible apply State.contactClear_keeps
    | with_reducible apply State.ctEdits_keeps
    | with_reducible apply State.put_keeps
    | with_reducible apply State.raise_keeps
    | with_reducible apply State.setContactClass_keeps
    | with_reducible apply State.setContact_keeps
    | with_reducible apply State.squallStop_fst
    | with_reducible apply State.squallTrigger_keeps
    | with_reducible apply State.trigAll_keeps
    | with_reducible refine State.squallStop_keeps (by with_reducible assumption) ?_
    | with_reducible refine ite_keeps ?_ ?_

theorem State.ctRead_keeps {s : State} {n code : Nat} (kH : Keeps kM kR s) :
    Keeps kM kR (State.ctRead s n code) := by
  unfold State.ctRead
  repeat' first
    | with_reducible assumption
    | with_reducible exact Keeps.refl _ _
    | with_reducible apply State.contactClear_keeps
    | with_reducible apply State.ctTake_keeps
    | with_reducible apply State.put_keeps
    | with_reducible apply State.setContactClass_keeps
    | with_reducible refine ite_keeps ?_ ?_

theorem execContactSenseWindow_keeps {codes : List Byte} {s : State} (kH : Keeps kM kR s) :
    Good kM kR (execContactSenseWindow codes s) := by
  unfold execContactSenseWindow
  refine Good.next ?_
  repeat' first
    | with_reducible assumption
    | with_reducible exact Keeps.refl _ _
    | with_reducible apply forEach_keeps
    | with_reducible apply getD_keeps
    | with_reducible apply State.bump_keeps
    | with_reducible apply State.ctPost_keeps
    | with_reducible apply State.ctRead_keeps
    | with_reducible refine ite_keeps ?_ ?_
    | with_reducible refine ite_cmdKeeps ?_ ?_
    | intro _

theorem cmdContactConfig_keeps  : CmdKeeps kM (cmdContactConfig) := by
  unfold cmdContactConfig
  refine ⟨fun _ _ kR kS kH => ?_, fun _ _ kR kS kH => ?_, fun _ kR kS kH => ?_⟩
  all_goals try dsimp -zeta only [ans]
  repeat' first
    | with_reducible assumption
    | with_reducible exact Keeps.refl _ _
    | with_reducible apply State.wr_keeps

theorem execContactConfig_keeps {k : Kcp} {s : State} (kH : Keeps kM kR s) :
    Good kM kR (execContactConfig k s) := by
  unfold execContactConfig
  refine Good.next ?_
  repeat' first
    | with_reducible assumption
    | with_reducible exact Keeps.refl _ _
    | with_reducible apply cmdContactConfig_keeps
    | with_reducible apply kcpExec_keeps

theorem cmdContactSetOut_keeps  : CmdKeeps kM (cmdContactSetOut) := by
  unfold cmdContactSetOut
  refine ⟨fun _ _ kR kS kH => ?_, fun _ _ kR kS kH => ?_, fun _ kR kS kH => ?_⟩
  all_goals try dsimp -zeta only [ans]
  repeat' first
    | with_reducible assumption

theorem execContactSetOut_keeps {k : Kcp} {s : State} (kH : Keeps kM kR s) :
    Good kM kR (execContactSetOut k s) := by
  unfold execContactSetOut
  refine Good.next ?_
  repeat' first
    | with_reducible assumption
    | with_reducible exact Keeps.refl _ _
    | with_reducible apply cmdContactSetOut_keeps
    | with_reducible apply kcpExec_keeps

theorem State.atContactOut_keeps {s : State} {p : List W32} (kH : Keeps kM kR s) :
    Keeps kM kR (State.atContactOut s p) := by
  unfold State.atContactOut
  repeat' first
    | with_reducible assumption
    | with_reducible exact Keeps.refl _ _
    | with_reducible apply getD_keeps
    | with_reducible apply State.put_keeps
    | with_reducible refine ite_keeps ?_ ?_

theorem cmdContactGet_keeps  : CmdKeeps kM (cmdContactGet) := by
  unfold cmdContactGet
  refine ⟨fun _ _ kR kS kH => ?_, fun _ _ kR kS kH => ?_, fun _ kR kS kH => ?_⟩
  all_goals try dsimp -zeta only [ans]
  repeat' first
    | with_reducible assumption

theorem execContactGet_keeps {k : Kcp} {s : State} (kH : Keeps kM kR s) :
    Good kM kR (execContactGet k s) := by
  unfold execContactGet
  refine Good.next ?_
  repeat' first
    | with_reducible assumption
    | with_reducible exact Keeps.refl _ _
    | with_reducible apply cmdContactGet_keeps
    | with_reducible apply kcpExec_keeps

end Sys2Proof.Machine
end

