-- ==== Sys2Proof/Laws/KeepsPort.lean ====
section
/-! SUPPORT. What the operations of Machine/Port.lean keep. -/

namespace Sys2Proof.Machine

variable {kM : Bool} {kR : State}

theorem State.writeFrame_keeps {s : State} {n i : Nat} {ws : List W32} (kH : Keeps kM kR s) :
    Keeps kM kR (State.writeFrame s n i ws) := by
  unfold State.writeFrame
  repeat' first
    | with_reducible assumption
    | with_reducible exact Keeps.refl _ _
    | with_reducible apply forEach_keeps
    | with_reducible apply State.slabAccess_keeps
    | intro _

theorem State.showTag_keeps {s : State} {n : Nat} (kH : Keeps kM kR s) :
    Keeps kM kR (State.showTag s n) := by
  unfold State.showTag
  repeat' first
    | with_reducible assumption
    | with_reducible exact Keeps.refl _ _
    | with_reducible apply getD_keeps
    | with_reducible apply State.wr64_keeps

theorem State.portResync_keeps {s : State} {n count : Nat} {lenChange : Bool} (kH : Keeps kM kR s) :
    Keeps kM kR (State.portResync s n count lenChange) := by
  unfold State.portResync
  repeat' first
    | with_reducible assumption
    | with_reducible exact Keeps.refl _ _
    | with_reducible apply State.bumpSat_keeps
    | with_reducible apply State.post_keeps
    | with_reducible apply State.put_keeps
    | with_reducible apply State.set_keeps

theorem State.advanceWr_keeps {s : State} {n : Nat} (kH : Keeps kM kR s) :
    Keeps kM kR (State.advanceWr s n) := by
  unfold State.advanceWr
  repeat' first
    | with_reducible assumption
    | with_reducible exact Keeps.refl _ _
    | with_reducible apply State.portResync_keeps
    | with_reducible apply State.put_keeps
    | with_reducible apply State.setPort_keeps
    | with_reducible apply State.set_keeps
    | with_reducible apply State.showTag_keeps
    | with_reducible refine ite_keeps ?_ ?_

theorem State.passRd_keeps {s : State} {n : Nat} (kH : Keeps kM kR s) :
    Keeps kM kR (State.passRd s n) := by
  unfold State.passRd
  repeat' first
    | with_reducible assumption
    | with_reducible exact Keeps.refl _ _
    | with_reducible apply State.put_keeps
    | with_reducible apply State.setPort_keeps
    | with_reducible apply State.set_keeps
    | with_reducible apply State.showTag_keeps
    | with_reducible refine ite_keeps ?_ ?_

theorem State.portSkip_keeps {s : State} {n m : Nat} (kH : Keeps kM kR s) :
    Keeps kM kR (State.portSkip s n m) := by
  unfold State.portSkip
  repeat' first
    | with_reducible assumption
    | with_reducible exact Keeps.refl _ _
    | with_reducible apply iter_keeps
    | with_reducible apply State.passRd_keeps
    | intro _

theorem State.portWriteOut_keeps {s : State} {n block : Nat} {src : Nat → List Sample} (kH : Keeps kM kR s) :
    Keeps kM kR (s.portWriteOut n block src) := by
  unfold State.portWriteOut
  refine ite_keeps kH (forEach_keeps (fun i t h => ?_) (ite_keeps (State.portSkip_keeps kH) kH))
  with_reducible exact State.advanceWr_keeps (State.showTag_keeps (State.setPort_keeps (State.writeFrame_keeps h)))

theorem State.portConsume_keeps {s : State} {n block : Nat} (kH : Keeps kM kR s) :
    Keeps kM kR (State.portConsume s n block) := by
  unfold State.portConsume
  repeat' first
    | with_reducible assumption
    | with_reducible exact Keeps.refl _ _
    | with_reducible apply State.portSkip_keeps
    | with_reducible refine ite_keeps ?_ ?_

theorem State.portPins_keeps {s : State} {n clocks : Nat} {ws : List W32} (kH : Keeps kM kR s) :
    Keeps kM kR (State.portPins s n clocks ws) := by
  unfold State.portPins
  repeat' first
    | with_reducible assumption
    | with_reducible exact Keeps.refl _ _
    | with_reducible apply State.setPort_keeps

theorem State.zeroFrame_keeps {s : State} {n clocks : Nat} (kH : Keeps kM kR s) :
    Keeps kM kR (State.zeroFrame s n clocks) := by
  unfold State.zeroFrame
  repeat' first
    | with_reducible assumption
    | with_reducible exact Keeps.refl _ _
    | with_reducible apply State.portPins_keeps
    | with_reducible apply State.setPort_keeps

theorem State.dataFrame_keeps {s : State} {n clocks i : Nat} (kH : Keeps kM kR s) :
    Keeps kM kR (State.dataFrame s n clocks i) := by
  unfold State.dataFrame
  repeat' first
    | with_reducible assumption
    | with_reducible exact Keeps.refl _ _
    | with_reducible apply State.portPins_keeps
    | with_reducible apply State.portResync_keeps
    | with_reducible apply State.post_keeps
    | with_reducible apply State.setPort_keeps
    | with_reducible apply State.set_keeps
    | with_reducible refine ite_keeps ?_ ?_
    | split
    | (extract_lets +onlyGivenNames kX; have kh : Keeps kM kR kX := ?_; (skip); (on_goal 2 => subst kX))

theorem State.portSend_keeps {s : State} {n clocks m : Nat} (kH : Keeps kM kR s) :
    Keeps kM kR (State.portSend s n clocks m) := by
  unfold State.portSend
  repeat' first
    | with_reducible assumption
    | with_reducible exact Keeps.refl _ _
    | with_reducible apply iter_keeps
    | with_reducible apply State.bumpSat_keeps
    | with_reducible apply State.dataFrame_keeps
    | with_reducible apply State.passRd_keeps
    | with_reducible apply State.portResync_keeps
    | with_reducible apply State.set_keeps
    | with_reducible apply State.zeroFrame_keeps
    | with_reducible refine ite_keeps ?_ ?_
    | intro _
    | split
    | (extract_lets +onlyGivenNames kX; have kh : Keeps kM kR kX := ?_; (on_goal 1 => clear_value kX); (on_goal 2 => subst kX))
    | (extract_lets +onlyGivenNames kX; first | ((first | have kg : SafeSt := kX | have kg : SlabSt := kX | have kg : TimeSt := kX); clear kg; subst kX) | clear_value kX)

theorem State.frameNote_keeps {s : State} {n : Nat} {bad : Bool} (kH : Keeps kM kR s) :
    Keeps kM kR (State.frameNote s n bad) := by
  unfold State.frameNote
  repeat' first
    | with_reducible assumption
    | with_reducible exact Keeps.refl _ _
    | with_reducible apply State.bumpSat_keeps
    | with_reducible apply State.setPort_keeps
    | with_reducible apply State.set_keeps
    | with_reducible refine ite_keeps ?_ ?_

theorem State.edgeFrame_keeps {s : State} {n : Nat} {stopping : Bool} (kH : Keeps kM kR s) :
    Keeps kM kR (State.edgeFrame s n stopping) := by
  unfold State.edgeFrame
  repeat' first
    | with_reducible assumption
    | with_reducible exact Keeps.refl _ _
    | with_reducible apply State.setPortState_keeps
    | with_reducible apply State.setPort_keeps
    | with_reducible refine ite_keeps ?_ ?_

theorem execAportFrameBoundary_keeps {n : Fin 8} {bitClocks : Nat} {s : State} (kH : Keeps kM kR s) :
    Good kM kR (execAportFrameBoundary n bitClocks s) := by
  unfold execAportFrameBoundary
  refine Good.next ?_
  repeat' first
    | with_reducible assumption
    | with_reducible exact Keeps.refl _ _
    | with_reducible apply State.edgeFrame_keeps
    | with_reducible apply State.frameNote_keeps
    | with_reducible apply State.portSend_keeps
    | with_reducible apply State.portSkip_keeps
    | with_reducible apply State.zeroFrame_keeps
    | with_reducible refine ite_keeps ?_ ?_

theorem execAportInputFrame_keeps {n : Fin 8} {slots : List W32} {bitClocks : Nat} {s : State} (kH : Keeps kM kR s) :
    Good kM kR (execAportInputFrame n slots bitClocks s) := by
  unfold execAportInputFrame
  refine Good.next ?_
  repeat' first
    | with_reducible assumption
    | with_reducible exact Keeps.refl _ _
    | with_reducible apply getD_keeps
    | with_reducible apply State.advanceWr_keeps
    | with_reducible apply State.bumpSat_keeps
    | with_reducible apply State.edgeFrame_keeps
    | with_reducible apply State.frameNote_keeps
    | with_reducible apply State.portResync_keeps
    | with_reducible apply State.post_keeps
    | with_reducible apply State.setPort_keeps
    | with_reducible apply State.set_keeps
    | with_reducible apply State.showTag_keeps
    | with_reducible apply State.writeFrame_keeps
    | with_reducible refine ite_keeps ?_ ?_

theorem execAportDataStart_keeps {n : Fin 8} {s : State} (kH : Keeps kM kR s) :
    Good kM kR (execAportDataStart n s) := by
  unfold execAportDataStart
  refine Good.next ?_
  repeat' first
    | with_reducible assumption
    | with_reducible exact Keeps.refl _ _
    | with_reducible apply State.portSkip_keeps
    | with_reducible apply State.setPortState_keeps
    | with_reducible refine ite_keeps ?_ ?_

theorem execAportStopDone_keeps {n : Fin 8} {s : State} (kH : Keeps kM kR s) :
    Good kM kR (execAportStopDone n s) := by
  unfold execAportStopDone
  refine Good.next ?_
  repeat' first
    | with_reducible assumption
    | with_reducible exact Keeps.refl _ _
    | with_reducible apply State.portHalt_keeps
    | with_reducible refine ite_keeps ?_ ?_

theorem State.portLost_keeps {s : State} {n : Nat} (kH : Keeps kM kR s) :
    Keeps kM kR (State.portLost s n) := by
  unfold State.portLost
  repeat' first
    | with_reducible assumption
    | with_reducible exact Keeps.refl _ _
    | with_reducible apply State.failType_keeps
    | with_reducible apply State.post_keeps
    | with_reducible apply State.setPortState_keeps
    | with_reducible apply State.setPort_keeps
    | with_reducible apply State.set_keeps
    | with_reducible refine ite_keeps ?_ ?_

theorem execAportFsTimeout_keeps {n : Fin 8} {s : State} (kH : Keeps kM kR s) :
    Good kM kR (execAportFsTimeout n s) := by
  unfold execAportFsTimeout
  refine Good.next ?_
  repeat' first
    | with_reducible assumption
    | with_reducible exact Keeps.refl _ _
    | with_reducible apply forEach_keeps
    | with_reducible apply State.portLost_keeps
    | with_reducible refine ite_keeps ?_ ?_
    | with_reducible refine ite_cmdKeeps ?_ ?_
    | intro _

theorem execAportClockBack_keeps {n : Fin 8} {s : State} (kH : Keeps kM kR s) :
    Good kM kR (execAportClockBack n s) := by
  unfold execAportClockBack
  refine Good.next ?_
  repeat' first
    | with_reducible assumption
    | with_reducible exact Keeps.refl _ _
    | with_reducible apply State.put_keeps
    | with_reducible apply State.setPortState_keeps
    | with_reducible apply State.setPort_keeps
    | with_reducible apply State.showTag_keeps
    | with_reducible refine ite_keeps ?_ ?_

theorem State.portsRebase_keeps {s : State} (kH : Keeps kM kR s) : Keeps kM kR s.portsRebase := by
  unfold State.portsRebase
  refine forEach_keeps (fun n t h => ?_) kH
  exact ite_keeps (State.setPort_keeps h) (State.showTag_keeps (State.put_keeps (State.put_keeps (State.setPort_keeps h))))

theorem execAportRateMeasure_keeps {n : Fin 8} {aclkCycles : Nat} {s : State} (kH : Keeps kM kR s) :
    Good kM kR (execAportRateMeasure n aclkCycles s) := by
  unfold execAportRateMeasure
  refine Good.next ?_
  repeat' first
    | with_reducible assumption
    | with_reducible exact Keeps.refl _ _
    | with_reducible apply State.post_keeps
    | with_reducible apply State.put_keeps
    | with_reducible apply State.setPort_keeps
    | with_reducible apply State.set_keeps
    | with_reducible refine ite_keeps ?_ ?_

theorem cmdPortConfig_keeps  : CmdKeeps kM (cmdPortConfig) := by
  unfold cmdPortConfig
  refine ⟨fun _ _ kR kS kH => ?_, fun _ _ kR kS kH => ?_, fun _ kR kS kH => ?_⟩
  all_goals try dsimp -zeta only [ans]
  repeat' first
    | with_reducible assumption
    | with_reducible exact Keeps.refl _ _
    | with_reducible apply State.setPort_keeps
    | with_reducible apply State.writeImage_keeps

theorem execPortConfig_keeps {k : Kcp} {s : State} (kH : Keeps kM kR s) :
    Good kM kR (execPortConfig k s) := by
  unfold execPortConfig
  refine Good.next ?_
  repeat' first
    | with_reducible assumption
    | with_reducible exact Keeps.refl _ _
    | with_reducible apply cmdPortConfig_keeps
    | with_reducible apply kcpExec_keeps

theorem cmdPortStart_keeps  : CmdKeeps kM (cmdPortStart) := by
  unfold cmdPortStart
  refine ⟨fun _ _ kR kS kH => ?_, fun _ _ kR kS kH => ?_, fun _ kR kS kH => ?_⟩
  all_goals try dsimp -zeta only [ans]
  repeat' first
    | with_reducible assumption
    | with_reducible exact Keeps.refl _ _
    | with_reducible apply State.portStartAt_keeps
    | with_reducible apply State.put_keeps

theorem execPortStart_keeps {k : Kcp} {s : State} (kH : Keeps kM kR s) :
    Good kM kR (execPortStart k s) := by
  unfold execPortStart
  refine Good.next ?_
  repeat' first
    | with_reducible assumption
    | with_reducible exact Keeps.refl _ _
    | with_reducible apply cmdPortStart_keeps
    | with_reducible apply kcpExec_keeps

theorem cmdPortStop_keeps  : CmdKeeps kM (cmdPortStop) := by
  unfold cmdPortStop
  refine ⟨fun _ _ kR kS kH => ?_, fun _ _ kR kS kH => ?_, fun _ kR kS kH => ?_⟩
  all_goals try dsimp -zeta only [ans]
  repeat' first
    | with_reducible assumption
    | with_reducible exact Keeps.refl _ _
    | with_reducible apply State.portStopAt_keeps

theorem execPortStop_keeps {k : Kcp} {s : State} (kH : Keeps kM kR s) :
    Good kM kR (execPortStop k s) := by
  unfold execPortStop
  refine Good.next ?_
  repeat' first
    | with_reducible assumption
    | with_reducible exact Keeps.refl _ _
    | with_reducible apply cmdPortStop_keeps
    | with_reducible apply kcpExec_keeps

theorem State.setGroupOf_keeps {s : State} {n : Nat} {member leader : Bool} {g : Nat} (kH : Keeps kM kR s) :
    Keeps kM kR (State.setGroupOf s n member leader g) := by
  unfold State.setGroupOf
  repeat' first
    | with_reducible assumption
    | with_reducible exact Keeps.refl _ _
    | with_reducible apply State.put_keeps
    | with_reducible apply State.set_keeps

theorem State.leaders_keeps {s : State} (kH : Keeps kM kR s) :
    Keeps kM kR (State.leaders s) := by
  unfold State.leaders
  repeat' first
    | with_reducible assumption
    | with_reducible exact Keeps.refl _ _
    | with_reducible apply forEach_keeps
    | with_reducible apply State.set_keeps
    | intro _

theorem cmdPortSetGroup_keeps  : CmdKeeps kM (cmdPortSetGroup) := by
  unfold cmdPortSetGroup
  refine ⟨fun _ _ kR kS kH => ?_, fun _ _ kR kS kH => ?_, fun _ kR kS kH => ?_⟩
  all_goals try dsimp -zeta only [ans]
  repeat' first
    | with_reducible assumption
    | with_reducible exact Keeps.refl _ _
    | with_reducible apply forEach_keeps
    | with_reducible apply State.leaders_keeps
    | with_reducible apply State.setGroupOf_keeps
    | with_reducible refine ite_keeps ?_ ?_
    | intro _

theorem execPortSetGroup_keeps {k : Kcp} {s : State} (kH : Keeps kM kR s) :
    Good kM kR (execPortSetGroup k s) := by
  unfold execPortSetGroup
  refine Good.next ?_
  repeat' first
    | with_reducible assumption
    | with_reducible exact Keeps.refl _ _
    | with_reducible apply cmdPortSetGroup_keeps
    | with_reducible apply kcpExec_keeps

theorem cmdPortSetLength_keeps  : CmdKeeps kM (cmdPortSetLength) := by
  unfold cmdPortSetLength
  refine ⟨fun _ _ kR kS kH => ?_, fun _ _ kR kS kH => ?_, fun _ kR kS kH => ?_⟩
  all_goals try dsimp -zeta only [ans]
  repeat' first
    | with_reducible assumption
    | with_reducible exact Keeps.refl _ _
    | with_reducible apply State.put_keeps
    | with_reducible apply State.set_keeps
    | with_reducible refine ite_keeps ?_ ?_
    | intro _
    | split
    | (extract_lets +onlyGivenNames kX; have kh : Keeps kM kR kX := ?_; (on_goal 1 => clear_value kX); (on_goal 2 => subst kX))
    | (extract_lets +onlyGivenNames kX; first | ((first | have kg : SafeSt := kX | have kg : SlabSt := kX | have kg : TimeSt := kX); clear kg; subst kX) | clear_value kX)

theorem execPortSetLength_keeps {k : Kcp} {s : State} (kH : Keeps kM kR s) :
    Good kM kR (execPortSetLength k s) := by
  unfold execPortSetLength
  refine Good.next ?_
  repeat' first
    | with_reducible assumption
    | with_reducible exact Keeps.refl _ _
    | with_reducible apply cmdPortSetLength_keeps
    | with_reducible apply kcpExec_keeps

theorem cmdPortGetStatus_keeps  : CmdKeeps kM (cmdPortGetStatus) := by
  unfold cmdPortGetStatus
  refine ⟨fun _ _ kR kS kH => ?_, fun _ _ kR kS kH => ?_, fun _ kR kS kH => ?_⟩
  all_goals try dsimp -zeta only [ans]
  repeat' first
    | with_reducible assumption

theorem execPortGetStatus_keeps {k : Kcp} {s : State} (kH : Keeps kM kR s) :
    Good kM kR (execPortGetStatus k s) := by
  unfold execPortGetStatus
  refine Good.next ?_
  repeat' first
    | with_reducible assumption
    | with_reducible exact Keeps.refl _ _
    | with_reducible apply cmdPortGetStatus_keeps
    | with_reducible apply kcpExec_keeps

end Sys2Proof.Machine
end

