-- ==== Sys2Proof/Laws/KeepsAna.lean ====
section
/-! SUPPORT. What the operations of Machine/Ana.lean keep. -/

namespace Sys2Proof.Machine

variable {kM : Bool} {kR : State}

theorem State.carryStep_keeps {s : State} {n : Nat} (kH : Keeps kM kR s) :
    Keeps kM kR (State.carryStep s n) := by
  unfold State.carryStep
  repeat' first
    | with_reducible assumption
    | with_reducible exact Keeps.refl _ _
    | with_reducible apply State.anaMute_keeps
    | with_reducible apply State.bumpSat_keeps
    | with_reducible apply State.post_keeps
    | with_reducible apply State.setChan_keeps
    | with_reducible apply State.set_keeps
    | with_reducible refine ite_keeps ?_ ?_
    | intro _
    | split

theorem State.testStep_keeps {s : State} {n : Nat} (kH : Keeps kM kR s) :
    Keeps kM kR (State.testStep s n) := by
  unfold State.testStep
  repeat' first
    | with_reducible assumption
    | with_reducible exact Keeps.refl _ _
    | with_reducible apply State.setChan_keeps

theorem execAnaUpdate_keeps {n : Fin 64} {outside : Bool} {s : State} (kH : Keeps kM kR s) :
    Good kM kR (execAnaUpdate n outside s) := by
  unfold execAnaUpdate
  refine Good.next ?_
  repeat' first
    | with_reducible assumption
    | with_reducible exact Keeps.refl _ _
    | with_reducible apply State.carryStep_keeps
    | with_reducible apply State.setChan_keeps
    | with_reducible apply State.testStep_keeps
    | with_reducible refine ite_keeps ?_ ?_
    | with_reducible refine ite_cmdKeeps ?_ ?_
    | split

theorem State.anaEnter_keeps {s : State} {n : Nat} (kH : Keeps kM kR s) :
    Keeps kM kR (State.anaEnter s n) := by
  unfold State.anaEnter
  repeat' first
    | with_reducible assumption
    | with_reducible exact Keeps.refl _ _
    | with_reducible apply State.setAna_keeps
    | with_reducible apply State.setChan_keeps
    | with_reducible refine ite_keeps ?_ ?_

theorem execAnaSettleDone_keeps {n : Fin 64} {s : State} (kH : Keeps kM kR s) :
    Good kM kR (execAnaSettleDone n s) := by
  unfold execAnaSettleDone
  refine Good.next ?_
  repeat' first
    | with_reducible assumption
    | with_reducible exact Keeps.refl _ _
    | with_reducible apply State.anaEnter_keeps
    | with_reducible apply State.setChan_keeps
    | with_reducible refine ite_keeps ?_ ?_

theorem execAnaMuteRampDone_keeps {n : Fin 64} {s : State} (kH : Keeps kM kR s) :
    Good kM kR (execAnaMuteRampDone n s) := by
  unfold execAnaMuteRampDone
  refine Good.next ?_
  repeat' first
    | with_reducible assumption
    | with_reducible exact Keeps.refl _ _
    | with_reducible apply State.anaOpen_keeps
    | with_reducible apply State.put_keeps
    | with_reducible apply State.setChan_keeps
    | with_reducible refine ite_keeps ?_ ?_
    | with_reducible refine ite_cmdKeeps ?_ ?_
    | split

theorem State.anaTick_keeps {s : State} {n : Nat} {xs : Option (List Int)} {later : List Int} (kH : Keeps kM kR s) :
    Keeps kM kR (State.anaTick s n xs later) := by
  unfold State.anaTick
  repeat' first
    | with_reducible assumption
    | with_reducible exact Keeps.refl _ _
    | with_reducible apply Cmd.take_keeps
    | with_reducible apply State.anaMute_keeps
    | with_reducible apply State.setAna_keeps
    | with_reducible apply State.setChan_keeps
    | with_reducible refine ite_keeps ?_ ?_
    | split

theorem State.anaClear_keeps {s : State} (kH : Keeps kM kR s) :
    Keeps kM kR (State.anaClear s) := by
  unfold State.anaClear
  repeat' first
    | with_reducible assumption
    | with_reducible exact Keeps.refl _ _
    | with_reducible apply State.unraise_keeps
    | with_reducible refine ite_keeps ?_ ?_

theorem execAnaComplianceDetect_keeps {n : Fin 64} {s : State} (kH : Keeps kM kR s) :
    Good kM kR (execAnaComplianceDetect n s) := by
  unfold execAnaComplianceDetect
  refine Good.next ?_
  repeat' first
    | with_reducible assumption
    | with_reducible exact Keeps.refl _ _
    | with_reducible apply State.bumpSat_keeps
    | with_reducible apply State.failType_keeps
    | with_reducible apply State.post_keeps
    | with_reducible apply State.raise_keeps
    | with_reducible apply State.set_keeps
    | with_reducible refine ite_keeps ?_ ?_

theorem execAnaComplianceClear_keeps {n : Fin 64} {s : State} (kH : Keeps kM kR s) :
    Good kM kR (execAnaComplianceClear n s) := by
  unfold execAnaComplianceClear
  refine Good.next ?_
  repeat' first
    | with_reducible assumption
    | with_reducible exact Keeps.refl _ _
    | with_reducible apply State.anaClear_keeps
    | with_reducible apply State.set_keeps
    | with_reducible refine ite_keeps ?_ ?_

theorem execAnaLoadWindow_keeps {n : Fin 64} {ohms : Nat} {s : State} (kH : Keeps kM kR s) :
    Good kM kR (execAnaLoadWindow n ohms s) := by
  unfold execAnaLoadWindow
  refine Good.next ?_
  repeat' first
    | with_reducible assumption
    | with_reducible exact Keeps.refl _ _
    | with_reducible apply State.anaClear_keeps
    | with_reducible apply State.post_keeps
    | with_reducible apply State.put_keeps
    | with_reducible apply State.raise_keeps
    | with_reducible apply State.setChan_keeps
    | with_reducible apply State.set_keeps
    | with_reducible refine ite_keeps ?_ ?_

theorem State.trimNext_keeps {s : State} (kH : Keeps kM kR s) :
    Keeps kM kR (State.trimNext s) := by
  unfold State.trimNext
  repeat' first
    | with_reducible assumption
    | with_reducible exact Keeps.refl _ _
    | with_reducible apply foldl_keeps
    | with_reducible apply State.post_keeps
    | with_reducible apply State.setAna_keeps
    | intro _
    | split
    | (extract_lets +onlyGivenNames kX; have kh : Keeps kM kR kX := ?_; (on_goal 1 => clear_value kX); (on_goal 2 => subst kX))
    | (extract_lets +onlyGivenNames kX; have kf : ∀ t, Keeps kM kR t → Keeps kM kR (kX t) := ?_; (on_goal 1 => clear_value kX); (on_goal 2 => subst kX))
    | with_reducible apply kf
    | (extract_lets +onlyGivenNames kX; first | ((first | have kg : SafeSt := kX | have kg : SlabSt := kX | have kg : TimeSt := kX); clear kg; subst kX) | clear_value kX)
    | fail_if_no_progress with_reducible refine Keeps.upd ?_ rfl rfl rfl

theorem State.trimGiveUp_keeps {s : State} {n : Nat} (kH : Keeps kM kR s) :
    Keeps kM kR (State.trimGiveUp s n) := by
  unfold State.trimGiveUp
  repeat' first
    | with_reducible assumption
    | with_reducible exact Keeps.refl _ _
    | with_reducible apply State.anaEnter_keeps
    | with_reducible apply State.setAna_keeps
    | with_reducible apply State.setChan_keeps
    | with_reducible apply State.trimAbort_keeps
    | with_reducible apply State.trimNext_keeps
    | with_reducible refine ite_keeps ?_ ?_

theorem execAnaTrimChannelDone_keeps {n : Fin 64} {errors : List Int} {s : State} (kH : Keeps kM kR s) :
    Good kM kR (execAnaTrimChannelDone n errors s) := by
  unfold execAnaTrimChannelDone
  refine Good.next ?_
  repeat' first
    | with_reducible assumption
    | with_reducible exact Keeps.refl _ _
    | with_reducible apply foldl_keeps
    | with_reducible apply getD_keeps
    | with_reducible apply State.anaStart_keeps
    | with_reducible apply State.setAna_keeps
    | with_reducible apply State.setChan_keeps
    | with_reducible apply State.set_keeps
    | with_reducible apply State.trimNext_keeps
    | with_reducible refine ite_keeps ?_ ?_
    | with_reducible refine ite_cmdKeeps ?_ ?_
    | intro _
    | split
    | (extract_lets +onlyGivenNames kX; have kh : Keeps kM kR kX := ?_; (on_goal 1 => clear_value kX); (on_goal 2 => subst kX))
    | (extract_lets +onlyGivenNames kX; first | ((first | have kg : SafeSt := kX | have kg : SlabSt := kX | have kg : TimeSt := kX); clear kg; subst kX) | clear_value kX)
    | fail_if_no_progress with_reducible refine Keeps.upd ?_ rfl rfl rfl

theorem cmdAnaConfig_keeps  : CmdKeeps kM (cmdAnaConfig) := by
  unfold cmdAnaConfig
  refine ⟨fun _ _ kR kS kH => ?_, fun _ _ kR kS kH => ?_, fun _ kR kS kH => ?_⟩
  all_goals try dsimp -zeta only [ans]
  repeat' first
    | with_reducible assumption

theorem execAnaConfig_keeps {k : Kcp} {s : State} (kH : Keeps kM kR s) :
    Good kM kR (execAnaConfig k s) := by
  unfold execAnaConfig
  refine Good.next ?_
  repeat' first
    | with_reducible assumption
    | with_reducible exact Keeps.refl _ _
    | with_reducible apply cmdAnaConfig_keeps
    | with_reducible apply kcpExec_keeps

theorem State.atAnaConfig_keeps {s : State} {p : List W32} (kH : Keeps kM kR s) :
    Keeps kM kR (State.atAnaConfig s p) := by
  unfold State.atAnaConfig
  repeat' first
    | with_reducible assumption
    | with_reducible exact Keeps.refl _ _
    | with_reducible apply getD_keeps
    | with_reducible apply State.anaClear_keeps
    | with_reducible apply State.anaMute_keeps
    | with_reducible apply State.put_keeps
    | with_reducible apply State.setAna_keeps
    | with_reducible apply State.setChan_keeps
    | with_reducible apply State.writeImage_keeps
    | with_reducible refine ite_keeps ?_ ?_

theorem cmdAnaEnable_keeps  : CmdKeeps kM (cmdAnaEnable) := by
  unfold cmdAnaEnable
  refine ⟨fun _ _ kR kS kH => ?_, fun _ _ kR kS kH => ?_, fun _ kR kS kH => ?_⟩
  all_goals try dsimp -zeta only [ans]
  repeat' first
    | with_reducible assumption

theorem execAnaEnable_keeps {k : Kcp} {s : State} (kH : Keeps kM kR s) :
    Good kM kR (execAnaEnable k s) := by
  unfold execAnaEnable
  refine Good.next ?_
  repeat' first
    | with_reducible assumption
    | with_reducible exact Keeps.refl _ _
    | with_reducible apply cmdAnaEnable_keeps
    | with_reducible apply kcpExec_keeps

theorem State.atAnaEnable_keeps {s : State} {p : List W32} (kH : Keeps kM kR s) :
    Keeps kM kR (State.atAnaEnable s p) := by
  unfold State.atAnaEnable
  repeat' first
    | with_reducible assumption
    | with_reducible exact Keeps.refl _ _
    | with_reducible apply getD_keeps
    | with_reducible apply State.anaMute_keeps
    | with_reducible apply State.anaOpen_keeps
    | with_reducible apply State.anaStart_keeps
    | with_reducible apply State.setAna_keeps
    | with_reducible apply State.setChan_keeps
    | with_reducible apply State.set_keeps
    | with_reducible apply State.trimGiveUp_keeps
    | with_reducible refine ite_keeps ?_ ?_

theorem cmdAnaSetRange_keeps  : CmdKeeps kM (cmdAnaSetRange) := by
  unfold cmdAnaSetRange
  refine ⟨fun _ _ kR kS kH => ?_, fun _ _ kR kS kH => ?_, fun _ kR kS kH => ?_⟩
  all_goals try dsimp -zeta only [ans]
  repeat' first
    | with_reducible assumption

theorem execAnaSetRange_keeps {k : Kcp} {s : State} (kH : Keeps kM kR s) :
    Good kM kR (execAnaSetRange k s) := by
  unfold execAnaSetRange
  refine Good.next ?_
  repeat' first
    | with_reducible assumption
    | with_reducible exact Keeps.refl _ _
    | with_reducible apply cmdAnaSetRange_keeps
    | with_reducible apply kcpExec_keeps

theorem State.atAnaRange_keeps {s : State} {p : List W32} (kH : Keeps kM kR s) :
    Keeps kM kR (State.atAnaRange s p) := by
  unfold State.atAnaRange
  repeat' first
    | with_reducible assumption
    | with_reducible exact Keeps.refl _ _
    | with_reducible apply getD_keeps
    | with_reducible apply State.anaMute_keeps
    | with_reducible apply State.put_keeps
    | with_reducible apply State.setChan_keeps
    | with_reducible refine ite_keeps ?_ ?_
    | intro _
    | split

theorem cmdAnaTrim_keeps  : CmdKeeps kM (cmdAnaTrim) := by
  unfold cmdAnaTrim
  refine ⟨fun _ _ kR kS kH => ?_, fun _ _ kR kS kH => ?_, fun _ kR kS kH => ?_⟩
  all_goals try dsimp -zeta only [ans]
  repeat' first
    | with_reducible assumption
    | with_reducible exact Keeps.refl _ _
    | with_reducible apply State.trimNext_keeps
    | with_reducible refine ite_keeps ?_ ?_
    | intro _
    | split
    | fail_if_no_progress with_reducible refine Keeps.upd ?_ rfl rfl rfl

theorem execAnaTrim_keeps {k : Kcp} {s : State} (kH : Keeps kM kR s) :
    Good kM kR (execAnaTrim k s) := by
  unfold execAnaTrim
  refine Good.next ?_
  repeat' first
    | with_reducible assumption
    | with_reducible exact Keeps.refl _ _
    | with_reducible apply cmdAnaTrim_keeps
    | with_reducible apply kcpExec_keeps

theorem cmdAnaGetStatus_keeps  : CmdKeeps kM (cmdAnaGetStatus) := by
  unfold cmdAnaGetStatus
  refine ⟨fun _ _ kR kS kH => ?_, fun _ _ kR kS kH => ?_, fun _ kR kS kH => ?_⟩
  all_goals try dsimp -zeta only [ans]
  repeat' first
    | with_reducible assumption

theorem execAnaGetStatus_keeps {k : Kcp} {s : State} (kH : Keeps kM kR s) :
    Good kM kR (execAnaGetStatus k s) := by
  unfold execAnaGetStatus
  refine Good.next ?_
  repeat' first
    | with_reducible assumption
    | with_reducible exact Keeps.refl _ _
    | with_reducible apply cmdAnaGetStatus_keeps
    | with_reducible apply kcpExec_keeps

end Sys2Proof.Machine
end

