-- ==== Sys2Proof/Laws/KeepsSupv.lean ====
section
/-! SUPPORT. What the operations of Machine/Supv.lean keep. -/

namespace Sys2Proof.Machine

variable {kM : Bool} {kR : State}

theorem State.setPilotRun_keeps {s : State} {r : PilotRun} (kH : Keeps kM kR s) :
    Keeps kM kR (State.setPilotRun s r) := by
  unfold State.setPilotRun
  repeat' first
    | with_reducible assumption
    | with_reducible exact Keeps.refl _ _
    | intro _
    | fail_if_no_progress with_reducible refine Keeps.upd ?_ rfl rfl rfl

theorem State.pilotShow_keeps {s : State} {z : Nat} (kH : Keeps kM kR s) :
    Keeps kM kR (State.pilotShow s z) := by
  unfold State.pilotShow
  repeat' first
    | with_reducible assumption
    | with_reducible exact Keeps.refl _ _
    | with_reducible apply State.set_keeps
    | with_reducible apply State.wr_keeps

theorem State.pilotDeclare_keeps {s : State} {z : Nat} {p : PilotPoint} {level : Int} (kH : Keeps kM kR s) :
    Keeps kM kR (State.pilotDeclare s z p level) := by
  unfold State.pilotDeclare
  repeat' first
    | with_reducible assumption
    | with_reducible exact Keeps.refl _ _
    | with_reducible apply State.bumpSat_keeps
    | with_reducible apply State.failRole_keeps
    | with_reducible apply State.pilotShow_keeps
    | with_reducible apply State.post_keeps
    | with_reducible apply State.raise_keeps
    | with_reducible refine ite_keeps ?_ ?_
    | split

theorem State.pilotClear_keeps {s : State} {z : Nat} {p : PilotPoint} (kH : Keeps kM kR s) :
    Keeps kM kR (State.pilotClear s z p) := by
  unfold State.pilotClear
  repeat' first
    | with_reducible assumption
    | with_reducible exact Keeps.refl _ _
    | with_reducible apply State.pilotShow_keeps
    | with_reducible apply State.post_keeps
    | with_reducible apply State.unraise_keeps
    | with_reducible refine ite_keeps ?_ ?_

theorem execPilotWindowEnd_keeps {zone : Nat} {point : PilotPoint} {level : Int} {s : State} (kH : Keeps kM kR s) :
    Good kM kR (execPilotWindowEnd zone point level s) := by
  unfold execPilotWindowEnd
  refine Good.next ?_
  repeat' first
    | with_reducible assumption
    | with_reducible exact Keeps.refl _ _
    | with_reducible apply State.pilotClear_keeps
    | with_reducible apply State.pilotDeclare_keeps
    | with_reducible apply State.setPilotRun_keeps
    | with_reducible refine ite_keeps ?_ ?_

theorem State.baselineEnd_keeps {s : State} (kH : Keeps kM kR s) :
    Keeps kM kR (State.baselineEnd s) := by
  unfold State.baselineEnd
  repeat' first
    | with_reducible assumption
    | with_reducible exact Keeps.refl _ _
    | with_reducible apply State.post_keeps
    | intro _
    | (extract_lets +onlyGivenNames kX; have kh : Keeps kM kR kX := ?_; (on_goal 1 => clear_value kX); (on_goal 2 => subst kX))
    | (extract_lets +onlyGivenNames kX; first | ((first | have kg : SafeSt := kX | have kg : SlabSt := kX | have kg : TimeSt := kX); clear kg; subst kX) | clear_value kX)
    | fail_if_no_progress with_reducible refine Keeps.upd ?_ rfl rfl rfl

theorem State.baselineCheck_keeps {s : State} (kH : Keeps kM kR s) :
    Keeps kM kR (State.baselineCheck s) := by
  unfold State.baselineCheck
  repeat' first
    | with_reducible assumption
    | with_reducible exact Keeps.refl _ _
    | with_reducible apply State.baselineEnd_keeps
    | with_reducible refine ite_keeps ?_ ?_

theorem execAvuHop_keeps {path : Nat} {refLevel : Int} {confidence : Nat} {energy : Int} {delay : Nat} {inverted : Bool} {tilt : Int} {s : State} (kH : Keeps kM kR s) :
    Good kM kR (execAvuHop path refLevel confidence energy delay inverted tilt s) := by
  unfold execAvuHop
  refine Good.next ?_
  repeat' first
    | with_reducible assumption
    | with_reducible exact Keeps.refl _ _
    | with_reducible apply State.baselineCheck_keeps
    | with_reducible apply State.setPath_keeps
    | with_reducible refine ite_keeps ?_ ?_
    | with_reducible refine ite_cmdKeeps ?_ ?_
    | (extract_lets +onlyGivenNames kX; have kh : Keeps kM kR kX := ?_; (on_goal 1 => clear_value kX); (on_goal 2 => subst kX))
    | (extract_lets +onlyGivenNames kX; first | ((first | have kg : SafeSt := kX | have kg : SlabSt := kX | have kg : TimeSt := kX); clear kg; subst kX) | clear_value kX)
    | fail_if_no_progress with_reducible refine Keeps.upd ?_ rfl rfl rfl

theorem State.pathShow_keeps {s : State} {n : Nat} {on : Bool} (kH : Keeps kM kR s) :
    Keeps kM kR (State.pathShow s n on) := by
  unfold State.pathShow
  repeat' first
    | with_reducible assumption
    | with_reducible exact Keeps.refl _ _
    | with_reducible apply State.wr_keeps

theorem execAvuPathFault_keeps {path : Nat} {s : State} (kH : Keeps kM kR s) :
    Good kM kR (execAvuPathFault path s) := by
  unfold execAvuPathFault
  refine Good.next ?_
  repeat' first
    | with_reducible assumption
    | with_reducible exact Keeps.refl _ _
    | with_reducible apply State.bumpSat_keeps
    | with_reducible apply State.pathShow_keeps
    | with_reducible apply State.post_keeps
    | with_reducible apply State.raise_keeps
    | with_reducible apply State.setPath_keeps
    | with_reducible refine ite_keeps ?_ ?_

theorem execAvuPathOk_keeps {path : Nat} {s : State} (kH : Keeps kM kR s) :
    Good kM kR (execAvuPathOk path s) := by
  unfold execAvuPathOk
  refine Good.next ?_
  repeat' first
    | with_reducible assumption
    | with_reducible exact Keeps.refl _ _
    | with_reducible apply State.pathShow_keeps
    | with_reducible apply State.post_keeps
    | with_reducible apply State.setPath_keeps
    | with_reducible apply State.unraise_keeps
    | with_reducible refine ite_keeps ?_ ?_

theorem execAvuPathChange_keeps {path : Nat} {s : State} (kH : Keeps kM kR s) :
    Good kM kR (execAvuPathChange path s) := by
  unfold execAvuPathChange
  refine Good.next ?_
  repeat' first
    | with_reducible assumption
    | with_reducible exact Keeps.refl _ _
    | with_reducible apply State.post_keeps
    | with_reducible apply State.setPath_keeps
    | with_reducible refine ite_keeps ?_ ?_

theorem execBaselineTimeout_keeps {s : State} (kH : Keeps kM kR s) :
    Good kM kR (execBaselineTimeout s) := by
  unfold execBaselineTimeout
  refine Good.next ?_
  repeat' first
    | with_reducible assumption
    | with_reducible exact Keeps.refl _ _
    | with_reducible apply State.baselineEnd_keeps
    | with_reducible refine ite_keeps ?_ ?_

theorem State.dewBegin_keeps {s : State} {d : DewZone} (kH : Keeps kM kR s) :
    Keeps kM kR (State.dewBegin s d) := by
  unfold State.dewBegin
  repeat' first
    | with_reducible assumption
    | with_reducible exact Keeps.refl _ _
    | with_reducible apply forEach_keeps
    | with_reducible apply State.bump_keeps
    | with_reducible apply State.setChan_keeps
    | with_reducible apply State.setDewZone_keeps
    | with_reducible apply State.trimNext_keeps
    | with_reducible refine ite_keeps ?_ ?_
    | intro _
    | split
    | (extract_lets +onlyGivenNames kX; have kh : Keeps kM kR kX := ?_; (on_goal 1 => clear_value kX); (on_goal 2 => subst kX))
    | (extract_lets +onlyGivenNames kX; first | ((first | have kg : SafeSt := kX | have kg : SlabSt := kX | have kg : TimeSt := kX); clear kg; subst kX) | clear_value kX)
    | fail_if_no_progress with_reducible refine Keeps.upd ?_ rfl rfl rfl

theorem State.dewStop_keeps {s : State} {z : Nat} {count : Bool} (kH : Keeps kM kR s) :
    Keeps kM kR (State.dewStop s z count) := by
  unfold State.dewStop
  repeat' first
    | with_reducible assumption
    | with_reducible exact Keeps.refl _ _
    | with_reducible apply forEach_keeps
    | with_reducible apply State.setChan_keeps
    | with_reducible apply State.setDewZone_keeps
    | with_reducible apply State.trimGiveUp_keeps
    | with_reducible refine ite_keeps ?_ ?_
    | intro _

theorem State.dewYield_keeps {s : State} (kH : Keeps kM kR s) :
    Keeps kM kR (State.dewYield s) := by
  unfold State.dewYield
  repeat' first
    | with_reducible assumption
    | with_reducible exact Keeps.refl _ _
    | with_reducible apply forEach_keeps
    | with_reducible apply State.dewStop_keeps
    | with_reducible refine ite_keeps ?_ ?_
    | intro _

theorem State.dewAdvance_keeps {s : State} (kH : Keeps kM kR s) :
    Keeps kM kR (State.dewAdvance s) := by
  unfold State.dewAdvance
  repeat' first
    | with_reducible assumption
    | with_reducible exact Keeps.refl _ _
    | with_reducible apply State.put_keeps
    | with_reducible apply State.set_keeps
    | with_reducible apply State.wr64_keeps
    | with_reducible refine ite_keeps ?_ ?_

theorem State.dewClose_keeps {s : State} (kH : Keeps kM kR s) :
    Keeps kM kR (State.dewClose s) := by
  unfold State.dewClose
  repeat' first
    | with_reducible assumption
    | with_reducible exact Keeps.refl _ _
    | with_reducible apply forEach_keeps
    | with_reducible apply State.dewAdvance_keeps
    | with_reducible apply State.dewStop_keeps
    | with_reducible apply State.post_keeps
    | with_reducible apply State.set_keeps
    | with_reducible refine ite_keeps ?_ ?_
    | intro _
    | (extract_lets +onlyGivenNames kX; have kh : Keeps kM kR kX := ?_; (on_goal 1 => clear_value kX); (on_goal 2 => subst kX))
    | (extract_lets +onlyGivenNames kX; have kf : ∀ t, Keeps kM kR t → Keeps kM kR (kX t) := ?_; (on_goal 1 => clear_value kX); (on_goal 2 => subst kX))
    | with_reducible apply kf
    | (extract_lets +onlyGivenNames kX; first | ((first | have kg : SafeSt := kX | have kg : SlabSt := kX | have kg : TimeSt := kX); clear kg; subst kX) | clear_value kX)
    | fail_if_no_progress with_reducible refine Keeps.upd ?_ rfl rfl rfl

theorem execDewWindowOpen_keeps {s : State} (kH : Keeps kM kR s) :
    Good kM kR (execDewWindowOpen s) := by
  unfold execDewWindowOpen
  refine Good.next ?_
  repeat' first
    | with_reducible assumption
    | with_reducible exact Keeps.refl _ _
    | with_reducible apply forEach_keeps
    | with_reducible apply State.dewAdvance_keeps
    | with_reducible apply State.dewBegin_keeps
    | with_reducible apply State.post_keeps
    | with_reducible apply State.put_keeps
    | with_reducible apply State.setDewZone_keeps
    | with_reducible apply State.set_keeps
    | with_reducible refine ite_keeps ?_ ?_
    | with_reducible refine ite_cmdKeeps ?_ ?_
    | intro _
    | (extract_lets +onlyGivenNames kX; have kh : Keeps kM kR kX := ?_; (on_goal 1 => clear_value kX); (on_goal 2 => subst kX))
    | (extract_lets +onlyGivenNames kX; first | ((first | have kg : SafeSt := kX | have kg : SlabSt := kX | have kg : TimeSt := kX); clear kg; subst kX) | clear_value kX)
    | fail_if_no_progress with_reducible refine Keeps.upd ?_ rfl rfl rfl

theorem State.dewBaseline_fst {s : State} {d : DewZone} (kH : Keeps kM kR s) :
    Keeps kM kR (State.dewBaseline s d).1 := by
  unfold State.dewBaseline
  repeat' first
    | with_reducible assumption
    | with_reducible exact Keeps.refl _ _
    | with_reducible apply forEach_keeps
    | with_reducible apply foldl_keeps
    | with_reducible apply getD_keeps
    | with_reducible apply Cmd.take_keeps
    | with_reducible apply State.setPath_keeps
    | with_reducible apply State.set_keeps
    | with_reducible refine ite_keeps ?_ ?_
    | intro _

theorem State.dewBaseline_keeps {s : State} {d : DewZone} {kt : State} {kx : DewZone}
    (ke : State.dewBaseline s d = (kt, kx)) (kH : Keeps kM kR s) : Keeps kM kR kt := by
  have h := State.dewBaseline_fst (s := s) (d := d) kH
  rwa [ke] at h

theorem State.dewRecord_keeps {s : State} {d : DewZone} {m : DewMeasure} (kH : Keeps kM kR s) :
    Keeps kM kR (State.dewRecord s d m).1 := by
  unfold State.dewRecord
  extract_lets r d' ps
  clear_value r d' ps
  split
  · exact State.dewBaseline_fst kH
  · repeat' first
      | with_reducible exact kH
      | split

theorem execDewStepDone_keeps {zone : Nat} {m : DewMeasure} {s : State} (kH : Keeps kM kR s) :
    Good kM kR (execDewStepDone zone m s) := by
  unfold execDewStepDone
  refine Good.next ?_
  extract_lets d
  clear_value d
  have h := State.dewRecord_keeps (d := d) (m := m) kH
  exact ite_keeps kH (State.dewBegin_keeps (ite_keeps (forEach_keeps (fun _ _ k => State.setChan_keeps k) h) h))

theorem execDewRestart_keeps {zone : Nat} {s : State} (kH : Keeps kM kR s) :
    Good kM kR (execDewRestart zone s) := by
  unfold execDewRestart
  refine Good.next ?_
  repeat' first
    | with_reducible assumption
    | with_reducible exact Keeps.refl _ _
    | with_reducible apply State.dewBegin_keeps
    | with_reducible refine ite_keeps ?_ ?_

theorem execDewWindowClose_keeps {s : State} (kH : Keeps kM kR s) :
    Good kM kR (execDewWindowClose s) := by
  unfold execDewWindowClose
  refine Good.next ?_
  repeat' first
    | with_reducible assumption
    | with_reducible exact Keeps.refl _ _
    | with_reducible apply State.dewClose_keeps

theorem cmdSupvSetPilot_keeps  : CmdKeeps kM (cmdSupvSetPilot) := by
  unfold cmdSupvSetPilot
  refine ⟨fun _ _ kR kS kH => ?_, fun _ _ kR kS kH => ?_, fun _ kR kS kH => ?_⟩
  all_goals try dsimp -zeta only [ans]
  repeat' first
    | with_reducible assumption
    | with_reducible exact Keeps.refl _ _
    | with_reducible apply State.setReturns_keeps
    | with_reducible apply State.writeImage_keeps
    | with_reducible refine ite_keeps ?_ ?_
    | intro _
    | split
    | (extract_lets +onlyGivenNames kX; have kh : Keeps kM kR kX := ?_; (on_goal 1 => clear_value kX); (on_goal 2 => subst kX))
    | (extract_lets +onlyGivenNames kX; first | ((first | have kg : SafeSt := kX | have kg : SlabSt := kX | have kg : TimeSt := kX); clear kg; subst kX) | clear_value kX)
    | fail_if_no_progress with_reducible refine Keeps.upd ?_ rfl rfl rfl

theorem execSupvSetPilot_keeps {k : Kcp} {s : State} (kH : Keeps kM kR s) :
    Good kM kR (execSupvSetPilot k s) := by
  unfold execSupvSetPilot
  refine Good.next ?_
  repeat' first
    | with_reducible assumption
    | with_reducible exact Keeps.refl _ _
    | with_reducible apply cmdSupvSetPilot_keeps
    | with_reducible apply kcpExec_keeps

theorem cmdSupvSetPath_keeps  : CmdKeeps kM (cmdSupvSetPath) := by
  unfold cmdSupvSetPath
  refine ⟨fun _ _ kR kS kH => ?_, fun _ _ kR kS kH => ?_, fun _ kR kS kH => ?_⟩
  all_goals try dsimp -zeta only [ans]
  repeat' first
    | with_reducible assumption
    | with_reducible exact Keeps.refl _ _
    | with_reducible apply State.pathShow_keeps
    | with_reducible apply State.setPath_keeps
    | with_reducible apply State.unraise_keeps
    | with_reducible refine ite_keeps ?_ ?_
    | intro _
    | split

theorem execSupvSetPath_keeps {k : Kcp} {s : State} (kH : Keeps kM kR s) :
    Good kM kR (execSupvSetPath k s) := by
  unfold execSupvSetPath
  refine Good.next ?_
  repeat' first
    | with_reducible assumption
    | with_reducible exact Keeps.refl _ _
    | with_reducible apply cmdSupvSetPath_keeps
    | with_reducible apply kcpExec_keeps

theorem cmdSupvBaseline_keeps : CmdKeeps kM cmdSupvBaseline := by
  refine ⟨fun k _ kR kS kH => ?_, fun _ _ kR kS kH => kH, fun _ kR kS kH => kH⟩
  have h : Keeps kM kR (forEach (List.range (k.f 0 16 11)) kS
      fun i s => s.setPath { s.path (k.f 0 0 10 + i) with wantBaseline := true }) :=
    forEach_keeps (fun _ _ h => State.setPath_keeps h) kH
  exact h.congr rfl rfl rfl rfl rfl rfl rfl rfl

theorem execSupvBaseline_keeps {k : Kcp} {s : State} (kH : Keeps kM kR s) :
    Good kM kR (execSupvBaseline k s) := by
  unfold execSupvBaseline
  refine Good.next ?_
  repeat' first
    | with_reducible assumption
    | with_reducible exact Keeps.refl _ _
    | with_reducible apply cmdSupvBaseline_keeps
    | with_reducible apply kcpExec_keeps

theorem cmdSupvGetPaths_keeps  : CmdKeeps kM (cmdSupvGetPaths) := by
  unfold cmdSupvGetPaths
  refine ⟨fun _ _ kR kS kH => ?_, fun _ _ kR kS kH => ?_, fun _ kR kS kH => ?_⟩
  all_goals try dsimp -zeta only [ans]
  repeat' first
    | with_reducible assumption

theorem execSupvGetPaths_keeps {k : Kcp} {s : State} (kH : Keeps kM kR s) :
    Good kM kR (execSupvGetPaths k s) := by
  unfold execSupvGetPaths
  refine Good.next ?_
  repeat' first
    | with_reducible assumption
    | with_reducible exact Keeps.refl _ _
    | with_reducible apply cmdSupvGetPaths_keeps
    | with_reducible apply kcpExec_keeps

theorem cmdSupvSetDew_keeps  : CmdKeeps kM (cmdSupvSetDew) := by
  unfold cmdSupvSetDew
  refine ⟨fun _ _ kR kS kH => ?_, fun _ _ kR kS kH => ?_, fun _ kR kS kH => ?_⟩
  all_goals try dsimp -zeta only [ans]
  repeat' first
    | with_reducible assumption
    | with_reducible exact Keeps.refl _ _
    | with_reducible apply State.dewClose_keeps
    | with_reducible apply State.put_keeps
    | with_reducible apply State.set_keeps
    | with_reducible apply State.wr64_keeps
    | intro _
    | (extract_lets +onlyGivenNames kX; have kh : Keeps kM kR kX := ?_; (on_goal 1 => clear_value kX); (on_goal 2 => subst kX))
    | (extract_lets +onlyGivenNames kX; first | ((first | have kg : SafeSt := kX | have kg : SlabSt := kX | have kg : TimeSt := kX); clear kg; subst kX) | clear_value kX)
    | fail_if_no_progress with_reducible refine Keeps.upd ?_ rfl rfl rfl

theorem execSupvSetDew_keeps {k : Kcp} {s : State} (kH : Keeps kM kR s) :
    Good kM kR (execSupvSetDew k s) := by
  unfold execSupvSetDew
  refine Good.next ?_
  repeat' first
    | with_reducible assumption
    | with_reducible exact Keeps.refl _ _
    | with_reducible apply cmdSupvSetDew_keeps
    | with_reducible apply kcpExec_keeps

theorem cmdSupvGetDew_keeps  : CmdKeeps kM (cmdSupvGetDew) := by
  unfold cmdSupvGetDew
  refine ⟨fun _ _ kR kS kH => ?_, fun _ _ kR kS kH => ?_, fun _ kR kS kH => ?_⟩
  all_goals try dsimp -zeta only [ans]
  repeat' first
    | with_reducible assumption

theorem execSupvGetDew_keeps {k : Kcp} {s : State} (kH : Keeps kM kR s) :
    Good kM kR (execSupvGetDew k s) := by
  unfold execSupvGetDew
  refine Good.next ?_
  repeat' first
    | with_reducible assumption
    | with_reducible exact Keeps.refl _ _
    | with_reducible apply cmdSupvGetDew_keeps
    | with_reducible apply kcpExec_keeps

end Sys2Proof.Machine
end

