-- ==== Sys2Proof/Laws/KeepsAge.lean ====
section
/-! SUPPORT. What the operations of Machine/Age.lean keep. -/

namespace Sys2Proof.Machine

variable {kM : Bool} {kR : State}

theorem State.voltageStep_keeps {s : State} (kH : Keeps kM kR s) :
    Keeps kM kR (State.voltageStep s) := by
  unfold State.voltageStep
  repeat' first
    | with_reducible assumption
    | with_reducible exact Keeps.refl _ _
    | with_reducible apply State.bumpSat_keeps
    | with_reducible apply State.post_keeps
    | with_reducible apply State.put_keeps
    | with_reducible apply State.set_keeps
    | with_reducible refine ite_keeps ?_ ?_
    | (extract_lets +onlyGivenNames kX; have kh : Keeps kM kR kX := ?_; (on_goal 1 => clear_value kX); (on_goal 2 => subst kX))
    | (extract_lets +onlyGivenNames kX; first | ((first | have kg : SafeSt := kX | have kg : SlabSt := kX | have kg : TimeSt := kX); clear kg; subst kX) | clear_value kX)
    | fail_if_no_progress with_reducible refine Keeps.upd ?_ rfl rfl rfl

theorem State.clockStep_keeps {s : State} (kH : Keeps kM kR s) :
    Keeps kM kR (State.clockStep s) := by
  unfold State.clockStep
  repeat' first
    | with_reducible assumption
    | with_reducible exact Keeps.refl _ _
    | with_reducible apply State.post_keeps
    | with_reducible apply State.put_keeps
    | with_reducible apply State.setUsable_keeps
    | with_reducible apply State.set_keeps
    | (extract_lets +onlyGivenNames kX; have kh : Keeps kM kR kX := ?_; (on_goal 1 => clear_value kX); (on_goal 2 => subst kX))
    | (extract_lets +onlyGivenNames kX; first | ((first | have kg : SafeSt := kX | have kg : SlabSt := kX | have kg : TimeSt := kX); clear kg; subst kX) | clear_value kX)
    | fail_if_no_progress with_reducible refine Keeps.upd ?_ rfl rfl rfl

theorem State.planExhausted_keeps {s : State} (kH : Keeps kM kR s) :
    Keeps kM kR (State.planExhausted s) := by
  unfold State.planExhausted
  repeat' first
    | with_reducible assumption
    | with_reducible exact Keeps.refl _ _
    | with_reducible apply State.post_keeps
    | with_reducible apply State.put_keeps
    | with_reducible refine ite_keeps ?_ ?_

theorem State.planStep_keeps {s : State} (kH : Keeps kM kR s) :
    Keeps kM kR (State.planStep s) := by
  unfold State.planStep
  repeat' first
    | with_reducible assumption
    | with_reducible exact Keeps.refl _ _
    | with_reducible apply State.clockStep_keeps
    | with_reducible apply State.planExhausted_keeps
    | with_reducible apply State.voltageStep_keeps
    | with_reducible refine ite_keeps ?_ ?_
    | fail_if_no_progress with_reducible refine Keeps.upd ?_ rfl rfl rfl

theorem State.driftCheck_keeps {s : State} (kH : Keeps kM kR s) :
    Keeps kM kR (State.driftCheck s) := by
  unfold State.driftCheck
  repeat' first
    | with_reducible assumption
    | with_reducible exact Keeps.refl _ _
    | with_reducible apply forEach_keeps
    | with_reducible apply foldl_keeps
    | with_reducible apply State.draw_snd
    | with_reducible apply State.post_keeps
    | with_reducible apply State.setChan_keeps
    | with_reducible apply State.set_keeps
    | with_reducible refine State.draw_keeps (by with_reducible assumption) ?_
    | with_reducible refine ite_keeps ?_ ?_
    | intro _
    | split
    | (extract_lets +onlyGivenNames kX; have kh : Keeps kM kR kX := ?_; (on_goal 1 => clear_value kX); (on_goal 2 => subst kX))
    | (extract_lets +onlyGivenNames kX; first | ((first | have kg : SafeSt := kX | have kg : SlabSt := kX | have kg : TimeSt := kX); clear kg; subst kX) | clear_value kX)
    | fail_if_no_progress with_reducible refine Keeps.upd ?_ rfl rfl rfl

theorem State.trimDueNow_keeps {s : State} (kH : Keeps kM kR s) :
    Keeps kM kR (State.trimDueNow s) := by
  unfold State.trimDueNow
  repeat' first
    | with_reducible assumption
    | with_reducible exact Keeps.refl _ _
    | with_reducible apply State.trimNext_keeps
    | with_reducible refine ite_keeps ?_ ?_
    | intro _
    | (extract_lets +onlyGivenNames kX; have kh : Keeps kM kR kX := ?_; (on_goal 1 => clear_value kX); (on_goal 2 => subst kX))
    | (extract_lets +onlyGivenNames kX; first | ((first | have kg : SafeSt := kX | have kg : SlabSt := kX | have kg : TimeSt := kX); clear kg; subst kX) | clear_value kX)
    | fail_if_no_progress with_reducible refine Keeps.upd ?_ rfl rfl rfl

theorem execAgeHour_keeps {s : State} (kH : Keeps kM kR s) :
    Good kM kR (execAgeHour s) := by
  unfold execAgeHour
  refine Good.next ?_
  repeat' first
    | with_reducible assumption
    | with_reducible exact Keeps.refl _ _
    | with_reducible apply State.ageAppend_keeps
    | with_reducible apply State.driftCheck_keeps
    | with_reducible apply State.planStep_keeps
    | with_reducible apply State.scrubHour_keeps
    | with_reducible apply State.startRepairs_keeps
    | with_reducible apply State.trimDueNow_keeps
    | with_reducible apply State.wr_keeps
    | with_reducible refine ite_keeps ?_ ?_
    | with_reducible refine ite_cmdKeeps ?_ ?_
    | (extract_lets +onlyGivenNames kX; have kh : Keeps kM kR kX := ?_; (on_goal 1 => clear_value kX); (on_goal 2 => subst kX))
    | (extract_lets +onlyGivenNames kX; first | ((first | have kg : SafeSt := kX | have kg : SlabSt := kX | have kg : TimeSt := kX); clear kg; subst kX) | clear_value kX)
    | fail_if_no_progress with_reducible refine Keeps.upd ?_ rfl rfl rfl

theorem execDerateRelease_keeps {s : State} (kH : Keeps kM kR s) :
    Good kM kR (execDerateRelease s) := by
  unfold execDerateRelease
  refine Good.next ?_
  repeat' first
    | with_reducible assumption
    | with_reducible exact Keeps.refl _ _
    | with_reducible apply forEach_keeps
    | with_reducible apply State.record_keeps
    | with_reducible apply State.stopJob_keeps
    | with_reducible refine ite_keeps ?_ ?_
    | with_reducible refine ite_cmdKeeps ?_ ?_
    | intro _
    | split

theorem execEclkChange_keeps {s : State} (kH : Keeps kM kR s) :
    Good kM kR (execEclkChange s) := by
  unfold execEclkChange
  refine Good.next ?_
  repeat' first
    | with_reducible assumption
    | with_reducible exact Keeps.refl _ _
    | with_reducible apply State.put_keeps
    | with_reducible refine ite_keeps ?_ ?_
    | with_reducible refine ite_cmdKeeps ?_ ?_
    | split
    | (extract_lets +onlyGivenNames kX; have kh : Keeps kM kR kX := ?_; (on_goal 1 => clear_value kX); (on_goal 2 => subst kX))
    | (extract_lets +onlyGivenNames kX; first | ((first | have kg : SafeSt := kX | have kg : SlabSt := kX | have kg : TimeSt := kX); clear kg; subst kX) | clear_value kX)
    | fail_if_no_progress with_reducible refine Keeps.upd ?_ rfl rfl rfl

theorem execAvsReadback_keeps {ack : Bool} {voutMv : Nat} {status : BitVec 16} {s : State} (kH : Keeps kM kR s) :
    Good kM kR (execAvsReadback ack voutMv status s) := by
  unfold execAvsReadback
  refine Good.next ?_
  repeat' first
    | with_reducible assumption
    | with_reducible exact Keeps.refl _ _
    | with_reducible apply State.ack_keeps
    | with_reducible apply State.post_keeps
    | with_reducible apply State.put_keeps
    | with_reducible apply State.raise_keeps
    | with_reducible apply State.set_keeps
    | with_reducible refine ite_keeps ?_ ?_
    | with_reducible refine ite_cmdKeeps ?_ ?_
    | (extract_lets +onlyGivenNames kX; have kh : Keeps kM kR kX := ?_; (on_goal 1 => clear_value kX); (on_goal 2 => subst kX))
    | (extract_lets +onlyGivenNames kX; first | ((first | have kg : SafeSt := kX | have kg : SlabSt := kX | have kg : TimeSt := kX); clear kg; subst kX) | clear_value kX)
    | fail_if_no_progress with_reducible refine Keeps.upd ?_ rfl rfl rfl

theorem State.second_keeps {s : State} (kH : Keeps kM kR s) :
    Keeps kM kR (State.second s) := by
  unfold State.second
  repeat' first
    | with_reducible assumption
    | with_reducible exact Keeps.refl _ _
    | with_reducible apply State.bumpSat_keeps
    | with_reducible refine ite_keeps ?_ ?_
    | (extract_lets +onlyGivenNames kX; have kh : Keeps kM kR kX := ?_; (on_goal 1 => clear_value kX); (on_goal 2 => subst kX))
    | (extract_lets +onlyGivenNames kX; first | ((first | have kg : SafeSt := kX | have kg : SlabSt := kX | have kg : TimeSt := kX); clear kg; subst kX) | clear_value kX)
    | fail_if_no_progress with_reducible refine Keeps.upd ?_ rfl rfl rfl

theorem execRingSensorRead_keeps {slacks : List Nat} {s : State} (kH : Keeps kM kR s) :
    Good kM kR (execRingSensorRead slacks s) := by
  unfold execRingSensorRead
  refine Good.next ?_
  repeat' first
    | with_reducible assumption
    | with_reducible exact Keeps.refl _ _
    | with_reducible apply forEach_keeps
    | with_reducible apply getD_keeps
    | with_reducible apply State.put_keeps
    | with_reducible apply State.second_keeps
    | with_reducible refine ite_keeps ?_ ?_
    | with_reducible refine ite_cmdKeeps ?_ ?_
    | intro _
    | (extract_lets +onlyGivenNames kX; have kh : Keeps kM kR kX := ?_; (on_goal 1 => clear_value kX); (on_goal 2 => subst kX))
    | (extract_lets +onlyGivenNames kX; first | ((first | have kg : SafeSt := kX | have kg : SlabSt := kX | have kg : TimeSt := kX); clear kg; subst kX) | clear_value kX)
    | fail_if_no_progress with_reducible refine Keeps.upd ?_ rfl rfl rfl

theorem execThermalRead_keeps {temps : List Int} {s : State} (kH : Keeps kM kR s) :
    Good kM kR (execThermalRead temps s) := by
  unfold execThermalRead
  refine Good.next ?_
  repeat' first
    | with_reducible assumption
    | with_reducible exact Keeps.refl _ _
    | with_reducible apply forEach_keeps
    | with_reducible apply foldl_keeps
    | with_reducible apply getD_keeps
    | with_reducible apply State.put_keeps
    | with_reducible apply State.raise_keeps
    | with_reducible apply State.unraise_keeps
    | with_reducible refine ite_keeps ?_ ?_
    | with_reducible refine ite_cmdKeeps ?_ ?_
    | intro _
    | (extract_lets +onlyGivenNames kX; have kh : Keeps kM kR kX := ?_; (on_goal 1 => clear_value kX); (on_goal 2 => subst kX))
    | (extract_lets +onlyGivenNames kX; first | ((first | have kg : SafeSt := kX | have kg : SlabSt := kX | have kg : TimeSt := kX); clear kg; subst kX) | clear_value kX)
    | fail_if_no_progress with_reducible refine Keeps.upd ?_ rfl rfl rfl

theorem execCanaryRead_keeps {failed : List Bool} {s : State} (kH : Keeps kM kR s) :
    Good kM kR (execCanaryRead failed s) := by
  unfold execCanaryRead
  refine Good.next ?_
  repeat' first
    | with_reducible assumption
    | with_reducible exact Keeps.refl _ _
    | with_reducible apply forEach_keeps
    | with_reducible apply getD_keeps
    | with_reducible apply State.put_keeps
    | with_reducible apply State.repairCall_keeps
    | with_reducible apply State.set_keeps
    | with_reducible refine ite_keeps ?_ ?_
    | with_reducible refine ite_cmdKeeps ?_ ?_
    | intro _
    | (extract_lets +onlyGivenNames kX; have kh : Keeps kM kR kX := ?_; (on_goal 1 => clear_value kX); (on_goal 2 => subst kX))
    | (extract_lets +onlyGivenNames kX; first | ((first | have kg : SafeSt := kX | have kg : SlabSt := kX | have kg : TimeSt := kX); clear kg; subst kX) | clear_value kX)
    | fail_if_no_progress with_reducible refine Keeps.upd ?_ rfl rfl rfl

theorem cmdAgeGetPlan_keeps  : CmdKeeps kM (cmdAgeGetPlan) := by
  unfold cmdAgeGetPlan
  refine ⟨fun _ _ kR kS kH => ?_, fun _ _ kR kS kH => ?_, fun _ kR kS kH => ?_⟩
  all_goals try dsimp -zeta only [ans]
  repeat' first
    | with_reducible assumption

theorem execAgeGetPlan_keeps {k : Kcp} {s : State} (kH : Keeps kM kR s) :
    Good kM kR (execAgeGetPlan k s) := by
  unfold execAgeGetPlan
  refine Good.next ?_
  repeat' first
    | with_reducible assumption
    | with_reducible exact Keeps.refl _ _
    | with_reducible apply cmdAgeGetPlan_keeps
    | with_reducible apply kcpExec_keeps

theorem State.logFrom_snd {n first : Nat} {s : State} (kH : Keeps kM kR s) : Keeps kM kR (s.logFrom first n).2 := by
  induction n generalizing s first with
  | zero => exact kH
  | succ n ih =>
    unfold State.logFrom
    extract_lets d
    clear_value d
    split
    rename_i r t e
    have ht : Keeps kM kR t := by
      split at e
      · cases e
        exact kH
      · exact State.drawWords_keeps e kH
    exact ih ht

theorem State.logFrom_keeps {n first : Nat} {s t : State} {l : List W32} (e : s.logFrom first n = (l, t))
    (kH : Keeps kM kR s) : Keeps kM kR t := by
  have h := State.logFrom_snd (n := n) (first := first) kH
  rwa [e] at h

theorem cmdAgeGetLog_keeps : CmdKeeps kM cmdAgeGetLog :=
  ⟨fun _ _ _ _ kH => State.logFrom_snd kH, fun _ _ _ _ kH => kH, fun _ _ _ kH => kH⟩

theorem execAgeGetLog_keeps {k : Kcp} {s : State} (kH : Keeps kM kR s) :
    Good kM kR (execAgeGetLog k s) := by
  unfold execAgeGetLog
  refine Good.next ?_
  repeat' first
    | with_reducible assumption
    | with_reducible exact Keeps.refl _ _
    | with_reducible apply cmdAgeGetLog_keeps
    | with_reducible apply kcpExec_keeps

theorem cmdAgeSetLimits_keeps  : CmdKeeps kM (cmdAgeSetLimits) := by
  unfold cmdAgeSetLimits
  refine ⟨fun _ _ kR kS kH => ?_, fun _ _ kR kS kH => ?_, fun _ kR kS kH => ?_⟩
  all_goals try dsimp -zeta only [ans]
  repeat' first
    | with_reducible assumption
    | with_reducible exact Keeps.refl _ _
    | with_reducible apply State.startRepairs_keeps
    | with_reducible apply State.writeImage_keeps

theorem execAgeSetLimits_keeps {k : Kcp} {s : State} (kH : Keeps kM kR s) :
    Good kM kR (execAgeSetLimits k s) := by
  unfold execAgeSetLimits
  refine Good.next ?_
  repeat' first
    | with_reducible assumption
    | with_reducible exact Keeps.refl _ _
    | with_reducible apply cmdAgeSetLimits_keeps
    | with_reducible apply kcpExec_keeps

theorem cmdAgeGetSensors_keeps  : CmdKeeps kM (cmdAgeGetSensors) := by
  unfold cmdAgeGetSensors
  refine ⟨fun _ _ kR kS kH => ?_, fun _ _ kR kS kH => ?_, fun _ kR kS kH => ?_⟩
  all_goals try dsimp -zeta only [ans]
  repeat' first
    | with_reducible assumption

theorem execAgeGetSensors_keeps {k : Kcp} {s : State} (kH : Keeps kM kR s) :
    Good kM kR (execAgeGetSensors k s) := by
  unfold execAgeGetSensors
  refine Good.next ?_
  repeat' first
    | with_reducible assumption
    | with_reducible exact Keeps.refl _ _
    | with_reducible apply cmdAgeGetSensors_keeps
    | with_reducible apply kcpExec_keeps

end Sys2Proof.Machine
end

