-- ==== Sys2Proof/Laws/KeepsStrike.lean ====
section
/-! SUPPORT. What the operations of Machine/Strike.lean keep. -/

namespace Sys2Proof.Machine

variable {kM : Bool} {kR : State}

theorem State.strikeShow_keeps {s : State} (kH : Keeps kM kR s) :
    Keeps kM kR (State.strikeShow s) := by
  unfold State.strikeShow
  repeat' first
    | with_reducible assumption
    | with_reducible exact Keeps.refl _ _
    | with_reducible apply forEach_keeps
    | with_reducible apply State.put_keeps
    | with_reducible apply State.set_keeps
    | with_reducible apply State.wr64_keeps
    | with_reducible apply State.wr_keeps
    | intro _

theorem State.strikeLags_snd {s : State} (kH : Keeps kM kR s) : Keeps kM kR s.strikeLags.2 := by
  unfold State.strikeLags
  have h : ∀ (l : List Nat) (acc : List (Nat × Nat × Bool) × State), Keeps kM kR acc.2 →
      Keeps kM kR (l.foldl (fun acc code =>
        let d := acc.2.setDomain code
        if code ≠ 0x16 ∧ d ≤ 2 then (acc.1 ++ [(code, 0, false)], acc.2)
        else
          let (x, s) := acc.2.draw
          let (y, s) := s.draw
          (acc.1 ++ [(code, x, decide (code ≠ 0x16 ∧ y % 2 = 1))], s)) acc).2 := by
    intro l
    induction l with
    | nil => exact fun acc h => h
    | cons code l ih =>
      intro acc h
      refine ih _ ?_
      dsimp only
      split
      · exact h
      · exact State.draw_snd (State.draw_snd h)
  exact h _ _ kH

theorem State.strikeLags_keeps {s t : State} {l : List (Nat × Nat × Bool)} (e : s.strikeLags = (l, t))
    (kH : Keeps kM kR s) : Keeps kM kR t := by
  have h := State.strikeLags_snd kH
  rwa [e] at h

theorem State.latchStrike_keeps {s : State} {p : StrikePend} (kH : Keeps kM kR s) :
    Keeps kM kR (State.latchStrike s p) := by
  unfold State.latchStrike
  repeat' first
    | with_reducible assumption
    | with_reducible exact Keeps.refl _ _
    | with_reducible apply Cmd.take_keeps
    | with_reducible apply State.bumpSat_keeps
    | with_reducible apply State.bump_keeps
    | with_reducible apply State.put_keeps
    | with_reducible apply State.set_keeps
    | with_reducible apply State.strikeLags_snd
    | with_reducible apply State.strikeShow_keeps
    | with_reducible refine State.strikeLags_keeps (by with_reducible assumption) ?_
    | with_reducible refine ite_keeps ?_ ?_
    | intro _
    | split
    | (extract_lets +onlyGivenNames kX; have kh : Keeps kM kR kX := ?_; (on_goal 1 => clear_value kX); (on_goal 2 => subst kX))
    | (extract_lets +onlyGivenNames kX; first | ((first | have kg : SafeSt := kX | have kg : SlabSt := kX | have kg : TimeSt := kX); clear kg; subst kX) | clear_value kX)
    | fail_if_no_progress with_reducible refine Keeps.upd ?_ rfl rfl rfl

theorem execStrikeLatch_keeps {s : State} (kH : Keeps kM kR s) :
    Good kM kR (execStrikeLatch s) := by
  unfold execStrikeLatch
  refine Good.next ?_
  repeat' first
    | with_reducible assumption
    | with_reducible exact Keeps.refl _ _
    | with_reducible apply State.latchStrike_keeps
    | with_reducible refine ite_keeps ?_ ?_
    | with_reducible refine ite_cmdKeeps ?_ ?_
    | split

theorem settleWindow_snd {cut : Bool} {l l' : List W64} {s : State} (kH : Keeps kM kR s) :
    Keeps kM kR (settleWindow cut l l' s).2 := by
  induction l generalizing l' s with
  | nil => exact kH
  | cons a l ih =>
    cases l' with
    | nil => exact kH
    | cons b l' =>
      unfold settleWindow
      split
      rename_i w1 t1 e
      have h1 : Keeps kM kR t1 := by
        split at e
        · obtain ⟨-, rfl⟩ := Prod.mk.inj e
          exact kH
        · obtain ⟨-, rfl⟩ := Prod.mk.inj e
          exact State.draw_snd kH
      split
      rename_i w2 t2 e'
      have h2 : Keeps kM kR t2 := by
        split at e'
        · obtain ⟨-, rfl⟩ := Prod.mk.inj e'
          exact State.draw_snd h1
        · obtain ⟨-, rfl⟩ := Prod.mk.inj e'
          exact h1
      exact ih h2

theorem settleWindow_keeps {cut : Bool} {l l' l'' : List W64} {s t : State} (e : settleWindow cut l l' s = (l'', t))
    (kH : Keeps kM kR s) : Keeps kM kR t := by
  have h := settleWindow_snd (cut := cut) (l := l) (l' := l') kH
  rwa [e] at h

theorem execStrikeComplete_keeps {partialCopy : Bool} {s : State} (kH : Keeps kM kR s) :
    Good kM kR (execStrikeComplete partialCopy s) := by
  unfold execStrikeComplete
  refine Good.next ?_
  repeat' first
    | with_reducible assumption
    | with_reducible exact Keeps.refl _ _
    | with_reducible apply State.postAt_keeps
    | with_reducible apply State.strikeShow_keeps
    | with_reducible apply settleWindow_snd
    | with_reducible refine settleWindow_keeps (by with_reducible assumption) ?_
    | with_reducible refine ite_keeps ?_ ?_
    | with_reducible refine ite_cmdKeeps ?_ ?_
    | intro _
    | split
    | (extract_lets +onlyGivenNames kX; have kh : Keeps kM kR kX := ?_; (on_goal 1 => clear_value kX); (on_goal 2 => subst kX))
    | (extract_lets +onlyGivenNames kX; first | ((first | have kg : SafeSt := kX | have kg : SlabSt := kX | have kg : TimeSt := kX); clear kg; subst kX) | clear_value kX)
    | fail_if_no_progress with_reducible refine Keeps.upd ?_ rfl rfl rfl

theorem execStrikeInEdge_keeps {lowNs : Nat} {s : State} (kH : Keeps kM kR s) :
    Good kM kR (execStrikeInEdge lowNs s) := by
  unfold execStrikeInEdge
  refine Good.next ?_
  repeat' first
    | with_reducible assumption
    | with_reducible exact Keeps.refl _ _
    | with_reducible apply State.bump_keeps
    | with_reducible apply State.set_keeps
    | with_reducible apply State.strikeTrigger_keeps
    | with_reducible refine ite_keeps ?_ ?_

theorem State.strikeMatch_keeps {s : State} (kH : Keeps kM kR s) :
    Keeps kM kR (State.strikeMatch s) := by
  unfold State.strikeMatch
  repeat' first
    | with_reducible assumption
    | with_reducible exact Keeps.refl _ _
    | with_reducible apply State.strikeTrigger_keeps
    | with_reducible refine ite_keeps ?_ ?_
    | fail_if_no_progress with_reducible refine Keeps.upd ?_ rfl rfl rfl

theorem cmdSnapStrike_keeps  : CmdKeeps kM (cmdSnapStrike) := by
  unfold cmdSnapStrike
  refine ⟨fun _ _ kR kS kH => ?_, fun _ _ kR kS kH => ?_, fun _ kR kS kH => ?_⟩
  all_goals try dsimp -zeta only [ans]
  repeat' first
    | with_reducible assumption
    | with_reducible exact Keeps.refl _ _
    | with_reducible apply getD_keeps
    | with_reducible apply State.strikeTrigger_keeps

theorem execSnapStrike_keeps {k : Kcp} {s : State} (kH : Keeps kM kR s) :
    Good kM kR (execSnapStrike k s) := by
  unfold execSnapStrike
  refine Good.next ?_
  repeat' first
    | with_reducible assumption
    | with_reducible exact Keeps.refl _ _
    | with_reducible apply cmdSnapStrike_keeps
    | with_reducible apply kcpExec_keeps

theorem cmdSnapSetSources_keeps  : CmdKeeps kM (cmdSnapSetSources) := by
  unfold cmdSnapSetSources
  refine ⟨fun _ _ kR kS kH => ?_, fun _ _ kR kS kH => ?_, fun _ kR kS kH => ?_⟩
  all_goals try dsimp -zeta only [ans]
  repeat' first
    | with_reducible assumption
    | with_reducible exact Keeps.refl _ _
    | with_reducible apply State.put_keeps
    | with_reducible apply State.set_keeps
    | with_reducible apply State.strikeMatch_keeps
    | with_reducible apply State.wr64_keeps
    | with_reducible refine ite_keeps ?_ ?_
    | intro _
    | split
    | (extract_lets +onlyGivenNames kX; have kh : Keeps kM kR kX := ?_; (on_goal 1 => clear_value kX); (on_goal 2 => subst kX))
    | (extract_lets +onlyGivenNames kX; first | ((first | have kg : SafeSt := kX | have kg : SlabSt := kX | have kg : TimeSt := kX); clear kg; subst kX) | clear_value kX)
    | fail_if_no_progress with_reducible refine Keeps.upd ?_ rfl rfl rfl

theorem execSnapSetSources_keeps {k : Kcp} {s : State} (kH : Keeps kM kR s) :
    Good kM kR (execSnapSetSources k s) := by
  unfold execSnapSetSources
  refine Good.next ?_
  repeat' first
    | with_reducible assumption
    | with_reducible exact Keeps.refl _ _
    | with_reducible apply cmdSnapSetSources_keeps
    | with_reducible apply kcpExec_keeps

theorem cmdSnapRead_keeps  : CmdKeeps kM (cmdSnapRead) := by
  unfold cmdSnapRead
  refine ⟨fun _ _ kR kS kH => ?_, fun _ _ kR kS kH => ?_, fun _ kR kS kH => ?_⟩
  all_goals try dsimp -zeta only [ans]
  repeat' first
    | with_reducible assumption
    | with_reducible exact Keeps.refl _ _
    | with_reducible apply Cmd.take_keeps
    | with_reducible apply State.set_keeps
    | with_reducible refine ite_keeps ?_ ?_
    | intro _
    | split

theorem execSnapRead_keeps {k : Kcp} {s : State} (kH : Keeps kM kR s) :
    Good kM kR (execSnapRead k s) := by
  unfold execSnapRead
  refine Good.next ?_
  repeat' first
    | with_reducible assumption
    | with_reducible exact Keeps.refl _ _
    | with_reducible apply cmdSnapRead_keeps
    | with_reducible apply kcpExec_keeps

theorem cmdSnapGetStatus_keeps  : CmdKeeps kM (cmdSnapGetStatus) := by
  unfold cmdSnapGetStatus
  refine ⟨fun _ _ kR kS kH => ?_, fun _ _ kR kS kH => ?_, fun _ kR kS kH => ?_⟩
  all_goals try dsimp -zeta only [ans]
  repeat' first
    | with_reducible assumption

theorem execSnapGetStatus_keeps {k : Kcp} {s : State} (kH : Keeps kM kR s) :
    Good kM kR (execSnapGetStatus k s) := by
  unfold execSnapGetStatus
  refine Good.next ?_
  repeat' first
    | with_reducible assumption
    | with_reducible exact Keeps.refl _ _
    | with_reducible apply cmdSnapGetStatus_keeps
    | with_reducible apply kcpExec_keeps

end Sys2Proof.Machine
end

