-- ==== Sys2Proof/Laws/KeepsSafe.lean ====
section
/-! SUPPORT. What the operations of Machine/Safe.lean keep. -/

namespace Sys2Proof.Machine

variable {kM : Bool} {kR : State}

theorem execSafetyDetection_keeps {code : Fin 24} {inst : Nat} {loc expected observed : W32} {s : State} (kH : Keeps kM kR s) :
    Good kM kR (execSafetyDetection code inst loc expected observed s) := by
  unfold execSafetyDetection
  refine Good.next ?_
  repeat' first
    | with_reducible assumption
    | with_reducible exact Keeps.refl _ _
    | with_reducible apply State.bumpSat_keeps
    | with_reducible apply State.raise_keeps
    | with_reducible apply State.set_keeps
    | with_reducible refine ite_keeps ?_ ?_

theorem execFaultLogWrite_keeps {s : State} (kH : Keeps kM kR s) :
    Good kM kR (execFaultLogWrite s) := by
  unfold execFaultLogWrite
  refine Good.next ?_
  repeat' first
    | with_reducible assumption
    | with_reducible exact Keeps.refl _ _
    | with_reducible apply State.logOne_keeps
    | with_reducible refine ite_keeps ?_ ?_

theorem execSafeAliveToggle_keeps {heartbeat : Bool} {s : State} (kH : Keeps kM kR s) :
    Good kM kR (execSafeAliveToggle heartbeat s) := by
  unfold execSafeAliveToggle
  refine Good.next ?_
  repeat' first
    | with_reducible assumption
    | with_reducible exact Keeps.refl _ _
    | with_reducible apply State.bump_keeps
    | with_reducible apply State.freezeAlive_keeps
    | with_reducible apply State.set_keeps
    | with_reducible refine ite_keeps ?_ ?_
    | with_reducible refine ite_cmdKeeps ?_ ?_
    | (extract_lets +onlyGivenNames kX; have kh : Keeps kM kR kX := ?_; (on_goal 1 => clear_value kX); (on_goal 2 => subst kX))
    | (extract_lets +onlyGivenNames kX; first | ((first | have kg : SafeSt := kX | have kg : SlabSt := kX | have kg : TimeSt := kX); clear kg; subst kX) | clear_value kX)
    | fail_if_no_progress with_reducible refine Keeps.upd ?_ rfl rfl rfl

theorem execInjectedFaultHoldExpiry_keeps {code : Fin 24} {s : State} (kH : Keeps kM kR s) :
    Good kM kR (execInjectedFaultHoldExpiry code s) := by
  unfold execInjectedFaultHoldExpiry
  refine Good.next ?_
  repeat' first
    | with_reducible assumption
    | with_reducible exact Keeps.refl _ _
    | with_reducible apply State.unraise_keeps
    | with_reducible refine ite_keeps ?_ ?_
    | with_reducible refine ite_cmdKeeps ?_ ?_
    | intro _
    | (extract_lets +onlyGivenNames kX; have kh : Keeps kM kR kX := ?_; (on_goal 1 => clear_value kX); (on_goal 2 => subst kX))
    | (extract_lets +onlyGivenNames kX; first | ((first | have kg : SafeSt := kX | have kg : SlabSt := kX | have kg : TimeSt := kX); clear kg; subst kX) | clear_value kX)
    | fail_if_no_progress with_reducible refine Keeps.upd ?_ rfl rfl rfl

theorem State.injectPath_keeps {s : State} {code inst : Nat} (kH : Keeps kM kR s) :
    Keeps kM kR (State.injectPath s code inst) := by
  unfold State.injectPath
  repeat' first
    | with_reducible assumption
    | with_reducible exact Keeps.refl _ _
    | with_reducible apply State.failRole_keeps
    | with_reducible apply State.failType_keeps
    | with_reducible refine ite_keeps ?_ ?_

theorem cmdSafeInject_keeps  : CmdKeeps kM (cmdSafeInject) := by
  unfold cmdSafeInject
  refine ⟨fun _ _ kR kS kH => ?_, fun _ _ kR kS kH => ?_, fun _ kR kS kH => ?_⟩
  all_goals try dsimp -zeta only [ans]
  repeat' first
    | with_reducible assumption
    | with_reducible exact Keeps.refl _ _
    | with_reducible apply State.injectPath_keeps
    | with_reducible apply State.put_keeps
    | with_reducible apply State.raise_keeps
    | with_reducible refine ite_keeps ?_ ?_
    | intro _
    | split
    | (extract_lets +onlyGivenNames kX; have kh : Keeps kM kR kX := ?_; (on_goal 1 => clear_value kX); (on_goal 2 => subst kX))
    | (extract_lets +onlyGivenNames kX; first | ((first | have kg : SafeSt := kX | have kg : SlabSt := kX | have kg : TimeSt := kX); clear kg; subst kX) | clear_value kX)
    | fail_if_no_progress with_reducible refine Keeps.upd ?_ rfl rfl rfl

theorem execSafeInject_keeps {k : Kcp} {s : State} (kH : Keeps kM kR s) :
    Good kM kR (execSafeInject k s) := by
  unfold execSafeInject
  refine Good.next ?_
  repeat' first
    | with_reducible assumption
    | with_reducible exact Keeps.refl _ _
    | with_reducible apply cmdSafeInject_keeps
    | with_reducible apply kcpExec_keeps

theorem cmdSafeGetStatus_keeps  : CmdKeeps kM (cmdSafeGetStatus) := by
  unfold cmdSafeGetStatus
  refine ⟨fun _ _ kR kS kH => ?_, fun _ _ kR kS kH => ?_, fun _ kR kS kH => ?_⟩
  all_goals try dsimp -zeta only [ans]
  repeat' first
    | with_reducible assumption

theorem execSafeGetStatus_keeps {k : Kcp} {s : State} (kH : Keeps kM kR s) :
    Good kM kR (execSafeGetStatus k s) := by
  unfold execSafeGetStatus
  refine Good.next ?_
  repeat' first
    | with_reducible assumption
    | with_reducible exact Keeps.refl _ _
    | with_reducible apply cmdSafeGetStatus_keeps
    | with_reducible apply kcpExec_keeps

theorem State.faultsFrom_snd {n first : Nat} {s : State} (kH : Keeps kM kR s) : Keeps kM kR (s.faultsFrom first n).2 := by
  induction n generalizing s first with
  | zero => exact kH
  | succ n ih =>
    unfold State.faultsFrom
    split
    rename_i r t e
    have ht : Keeps kM kR t := by
      split at e
      · cases e
        exact kH
      · exact State.drawWords_keeps e kH
    exact ih ht

theorem State.faultsFrom_keeps {n first : Nat} {s t : State} {l : List W32} (e : s.faultsFrom first n = (l, t))
    (kH : Keeps kM kR s) : Keeps kM kR t := by
  have h := State.faultsFrom_snd (n := n) (first := first) kH
  rwa [e] at h

theorem cmdSafeGetFaults_keeps  : CmdKeeps kM (cmdSafeGetFaults) := by
  unfold cmdSafeGetFaults
  refine ⟨fun _ _ kR kS kH => ?_, fun _ _ kR kS kH => ?_, fun _ kR kS kH => ?_⟩
  all_goals try dsimp -zeta only [ans]
  repeat' first
    | with_reducible assumption
    | with_reducible exact Keeps.refl _ _
    | with_reducible apply State.faultsFrom_snd

theorem execSafeGetFaults_keeps {k : Kcp} {s : State} (kH : Keeps kM kR s) :
    Good kM kR (execSafeGetFaults k s) := by
  unfold execSafeGetFaults
  refine Good.next ?_
  repeat' first
    | with_reducible assumption
    | with_reducible exact Keeps.refl _ _
    | with_reducible apply cmdSafeGetFaults_keeps
    | with_reducible apply kcpExec_keeps

theorem cmdSafeAckFaults_keeps  : CmdKeeps kM (cmdSafeAckFaults) := by
  unfold cmdSafeAckFaults
  refine ⟨fun _ _ kR kS kH => ?_, fun _ _ kR kS kH => ?_, fun _ kR kS kH => ?_⟩
  all_goals try dsimp -zeta only [ans]
  repeat' first
    | with_reducible assumption
    | with_reducible exact Keeps.refl _ _
    | with_reducible apply State.clearLatched_keeps
    | with_reducible apply State.put_keeps
    | intro _
    | (extract_lets +onlyGivenNames kX; have kh : Keeps kM kR kX := ?_; (on_goal 1 => clear_value kX); (on_goal 2 => subst kX))
    | (extract_lets +onlyGivenNames kX; first | ((first | have kg : SafeSt := kX | have kg : SlabSt := kX | have kg : TimeSt := kX); clear kg; subst kX) | clear_value kX)
    | fail_if_no_progress with_reducible refine Keeps.upd ?_ rfl rfl rfl

theorem execSafeAckFaults_keeps {k : Kcp} {s : State} (kH : Keeps kM kR s) :
    Good kM kR (execSafeAckFaults k s) := by
  unfold execSafeAckFaults
  refine Good.next ?_
  repeat' first
    | with_reducible assumption
    | with_reducible exact Keeps.refl _ _
    | with_reducible apply cmdSafeAckFaults_keeps
    | with_reducible apply kcpExec_keeps

theorem cmdSafeSetLock_keeps  : CmdKeeps kM (cmdSafeSetLock) := by
  unfold cmdSafeSetLock
  refine ⟨fun _ _ kR kS kH => ?_, fun _ _ kR kS kH => ?_, fun _ kR kS kH => ?_⟩
  all_goals try dsimp -zeta only [ans]
  repeat' first
    | with_reducible assumption
    | with_reducible exact Keeps.refl _ _
    | with_reducible apply State.wr_keeps

theorem execSafeSetLock_keeps {k : Kcp} {s : State} (kH : Keeps kM kR s) :
    Good kM kR (execSafeSetLock k s) := by
  unfold execSafeSetLock
  refine Good.next ?_
  repeat' first
    | with_reducible assumption
    | with_reducible exact Keeps.refl _ _
    | with_reducible apply cmdSafeSetLock_keeps
    | with_reducible apply kcpExec_keeps


theorem execSafeProvision_keeps {k : Kcp} {s : State} (kH : Keeps kM kR s) : Good kM kR (execSafeProvision k s) := by
  unfold execSafeProvision kcpExec
  refine Good.next ?_
  split
  · refine State.screened_keeps (fun t h => ?_) kH
    split
    · exact State.reply_keeps h
    · rename_i e
      split
      · exact State.reply_keeps h
      · have hs : kget t.safe.keys (k.f 0 0 2) = none := by
          unfold Cmd.check at e
          cases hq : kget t.safe.keys (k.f 0 0 2) with
          | none => rfl
          | some key =>
            have hr : cmdSafeProvision.refuse k t = some St.state := by
              change (if (kget t.safe.keys (k.f 0 0 2)).isSome then some St.state else none) = _
              rw [hq]
              rfl
            rw [hr] at e
            repeat' split at e
            all_goals first
              | contradiction
              | cases e
        have ha : Keeps kM kR (cmdSafeProvision.act k (cmdSafeProvision.okMt k t) t).state := by
          refine ⟨h.1, h.2.1, fun n key he => ?_, h.2.2.2⟩
          have h0 := h.2.2.1 n key he
          change kget (kput t.safe.keys (k.f 0 0 2) (k.payload.drop 2)) n = some key
          rw [kget_kput]
          split
          · rename_i hn
            rw [hn, hs] at h0
            cases h0
          · exact h0
        exact Cmd.accept_next (fun _ h => h) ha
  · exact State.hold_keeps kH

theorem cmdSafeDebugUnlock_keeps  : CmdKeeps kM (cmdSafeDebugUnlock) := by
  unfold cmdSafeDebugUnlock
  refine ⟨fun _ _ kR kS kH => ?_, fun _ _ kR kS kH => ?_, fun _ kR kS kH => ?_⟩
  all_goals try dsimp -zeta only [ans]
  repeat' first
    | with_reducible assumption
    | with_reducible exact Keeps.refl _ _
    | with_reducible apply State.set_keeps
    | with_reducible refine ite_keeps ?_ ?_
    | intro _
    | split
    | (extract_lets +onlyGivenNames kX; have kh : Keeps kM kR kX := ?_; (on_goal 1 => clear_value kX); (on_goal 2 => subst kX))
    | (extract_lets +onlyGivenNames kX; first | ((first | have kg : SafeSt := kX | have kg : SlabSt := kX | have kg : TimeSt := kX); clear kg; subst kX) | clear_value kX)
    | fail_if_no_progress with_reducible refine Keeps.upd ?_ rfl rfl rfl

theorem execSafeDebugUnlock_keeps {k : Kcp} {s : State} (kH : Keeps kM kR s) :
    Good kM kR (execSafeDebugUnlock k s) := by
  unfold execSafeDebugUnlock
  refine Good.next ?_
  repeat' first
    | with_reducible assumption
    | with_reducible exact Keeps.refl _ _
    | with_reducible apply cmdSafeDebugUnlock_keeps
    | with_reducible apply kcpExec_keeps

theorem State.recoverConfig_keeps {s : State} (kH : Keeps kM kR s) : Keeps kM kR s.recoverConfig := by
  unfold State.recoverConfig
  extract_lets x1 x2 x3 t u
  have ht : Keeps kM kR t := kH.regs (storeWf_filter _) rfl rfl rfl rfl rfl rfl rfl
  have hu : Keeps kM kR u := forEach_keeps (fun _ _ h => State.set_keeps (State.wr_keeps h)) ht
  with_reducible exact State.setUsable_keeps hu

theorem State.recover_keeps {s : State} (kH : Keeps kM kR s) :
    Keeps kM kR (State.recover s) := by
  unfold State.recover
  repeat' first
    | with_reducible assumption
    | with_reducible exact Keeps.refl _ _
    | with_reducible apply State.changePower_keeps
    | with_reducible apply State.clearLatched_keeps
    | with_reducible apply State.logAll_keeps
    | with_reducible apply State.put_keeps
    | with_reducible apply State.recoverConfig_keeps
    | with_reducible apply State.set_keeps
    | (extract_lets +onlyGivenNames kX; have kh : Keeps kM kR kX := ?_; (on_goal 1 => clear_value kX); (on_goal 2 => subst kX))
    | (extract_lets +onlyGivenNames kX; first | ((first | have kg : SafeSt := kX | have kg : SlabSt := kX | have kg : TimeSt := kX); clear kg; subst kX) | clear_value kX)
    | fail_if_no_progress with_reducible refine Keeps.upd ?_ rfl rfl rfl

theorem cmdSafeRecover_keeps  : CmdKeeps kM (cmdSafeRecover) := by
  unfold cmdSafeRecover
  refine ⟨fun _ _ kR kS kH => ?_, fun _ _ kR kS kH => ?_, fun _ kR kS kH => ?_⟩
  all_goals try dsimp -zeta only [ans]
  repeat' first
    | with_reducible assumption
    | with_reducible exact Keeps.refl _ _
    | with_reducible apply State.recover_keeps

theorem execSafeRecover_keeps {k : Kcp} {s : State} (kH : Keeps kM kR s) :
    Good kM kR (execSafeRecover k s) := by
  unfold execSafeRecover
  refine Good.next ?_
  repeat' first
    | with_reducible assumption
    | with_reducible exact Keeps.refl _ _
    | with_reducible apply cmdSafeRecover_keeps
    | with_reducible apply kcpExec_keeps

theorem cmdSafeUpdate_keeps  : CmdKeeps kM (cmdSafeUpdate) := by
  unfold cmdSafeUpdate
  refine ⟨fun _ _ kR kS kH => ?_, fun _ _ kR kS kH => ?_, fun _ kR kS kH => ?_⟩
  all_goals try dsimp -zeta only [ans]
  repeat' first
    | with_reducible assumption
    | with_reducible exact Keeps.refl _ _
    | with_reducible refine ite_keeps ?_ ?_
    | intro _
    | split
    | (extract_lets +onlyGivenNames kX; have kh : Keeps kM kR kX := ?_; (on_goal 1 => clear_value kX); (on_goal 2 => subst kX))
    | (extract_lets +onlyGivenNames kX; first | ((first | have kg : SafeSt := kX | have kg : SlabSt := kX | have kg : TimeSt := kX); clear kg; subst kX) | clear_value kX)
    | fail_if_no_progress with_reducible refine Keeps.upd ?_ rfl rfl rfl

theorem execSafeUpdate_keeps {k : Kcp} {s : State} (kH : Keeps kM kR s) :
    Good kM kR (execSafeUpdate k s) := by
  unfold execSafeUpdate
  refine Good.next ?_
  repeat' first
    | with_reducible assumption
    | with_reducible exact Keeps.refl _ _
    | with_reducible apply cmdSafeUpdate_keeps
    | with_reducible apply kcpExec_keeps

theorem cmdSafeUpdateWrite_keeps  : CmdKeeps kM (cmdSafeUpdateWrite) := by
  unfold cmdSafeUpdateWrite
  refine ⟨fun _ _ kR kS kH => ?_, fun _ _ kR kS kH => ?_, fun _ kR kS kH => ?_⟩
  all_goals try dsimp -zeta only [ans]
  repeat' first
    | with_reducible assumption
    | with_reducible exact Keeps.refl _ _
    | with_reducible refine ite_keeps ?_ ?_
    | intro _
    | split
    | fail_if_no_progress with_reducible refine Keeps.upd ?_ rfl rfl rfl

theorem execSafeUpdateWrite_keeps {k : Kcp} {s : State} (kH : Keeps kM kR s) :
    Good kM kR (execSafeUpdateWrite k s) := by
  unfold execSafeUpdateWrite
  refine Good.next ?_
  repeat' first
    | with_reducible assumption
    | with_reducible exact Keeps.refl _ _
    | with_reducible apply cmdSafeUpdateWrite_keeps
    | with_reducible apply kcpExec_keeps

theorem execSafeUpdateImageComplete_keeps {norOk : Bool} {s : State} (kH : Keeps kM kR s) :
    Good kM kR (execSafeUpdateImageComplete norOk s) := by
  unfold execSafeUpdateImageComplete
  refine Good.next ?_
  repeat' first
    | with_reducible assumption
    | with_reducible exact Keeps.refl _ _
    | with_reducible apply State.noteErase_keeps
    | with_reducible apply State.post_keeps
    | with_reducible apply State.set_keeps
    | with_reducible apply State.showRegion_keeps
    | with_reducible refine ite_keeps ?_ ?_
    | with_reducible refine ite_cmdKeeps ?_ ?_
    | split
    | (extract_lets +onlyGivenNames kX; have kh : Keeps kM kR kX := ?_; (on_goal 1 => clear_value kX); (on_goal 2 => subst kX))
    | (extract_lets +onlyGivenNames kX; first | ((first | have kg : SafeSt := kX | have kg : SlabSt := kX | have kg : TimeSt := kX); clear kg; subst kX) | clear_value kX)
    | fail_if_no_progress with_reducible refine Keeps.upd ?_ rfl rfl rfl

end Sys2Proof.Machine
end

