-- ==== Sys2Proof/Laws/KeepsTime.lean ====
section
/-! SUPPORT. What the operations of Machine/Time.lean keep. -/

namespace Sys2Proof.Machine

variable {kM : Bool} {kR : State}

theorem State.refTo_keeps {s : State} {n st : Nat} (kH : Keeps kM kR s) :
    Keeps kM kR (State.refTo s n st) := by
  unfold State.refTo
  repeat' first
    | with_reducible assumption
    | with_reducible exact Keeps.refl _ _
    | with_reducible apply State.put_keeps
    | with_reducible refine ite_keeps ?_ ?_

theorem State.refRequalify_keeps {s : State} {n : Nat} (kH : Keeps kM kR s) :
    Keeps kM kR (State.refRequalify s n) := by
  unfold State.refRequalify
  repeat' first
    | with_reducible assumption
    | with_reducible exact Keeps.refl _ _
    | with_reducible apply State.put_keeps
    | with_reducible apply State.refTo_keeps
    | (extract_lets +onlyGivenNames kX; have kh : Keeps kM kR kX := ?_; (on_goal 1 => clear_value kX); (on_goal 2 => subst kX))
    | (extract_lets +onlyGivenNames kX; first | ((first | have kg : SafeSt := kX | have kg : SlabSt := kX | have kg : TimeSt := kX); clear kg; subst kX) | clear_value kX)
    | fail_if_no_progress with_reducible refine Keeps.upd ?_ rfl rfl rfl

theorem State.refNoQual_keeps {s : State} {n : Nat} (kH : Keeps kM kR s) :
    Keeps kM kR (State.refNoQual s n) := by
  unfold State.refNoQual
  repeat' first
    | with_reducible assumption
    | with_reducible exact Keeps.refl _ _
    | with_reducible apply State.put_keeps
    | fail_if_no_progress with_reducible refine Keeps.upd ?_ rfl rfl rfl

theorem State.lockCheck_keeps {s : State} (kH : Keeps kM kR s) :
    Keeps kM kR (State.lockCheck s) := by
  unfold State.lockCheck
  repeat' first
    | with_reducible assumption
    | with_reducible exact Keeps.refl _ _
    | with_reducible apply State.put_keeps
    | with_reducible refine ite_keeps ?_ ?_
    | fail_if_no_progress with_reducible refine Keeps.upd ?_ rfl rfl rfl

theorem State.toHoldover_keeps {s : State} (kH : Keeps kM kR s) : Keeps kM kR s.toHoldover := by
  unfold State.toHoldover
  extract_lets s1 s2 s3 s4
  have h1 : Keeps kM kR s1 := State.put_keeps (State.put_keeps kH)
  have h2 : Keeps kM kR s2 := State.refTo_keeps (State.set_keeps h1)
  have h3 : Keeps kM kR s3 := State.put_keeps h2
  clear_value s3
  have h4 : Keeps kM kR s4 := State.put_keeps h3
  exact h4.congr rfl rfl rfl rfl rfl rfl rfl rfl

theorem State.refLose_keeps {s : State} {n : Nat} {mis : Bool} (kH : Keeps kM kR s) :
    Keeps kM kR (State.refLose s n mis) := by
  unfold State.refLose
  repeat' first
    | with_reducible assumption
    | with_reducible exact Keeps.refl _ _
    | with_reducible apply State.bumpSat_keeps
    | with_reducible apply State.post_keeps
    | with_reducible apply State.raise_keeps
    | with_reducible apply State.refNoQual_keeps
    | with_reducible apply State.refTo_keeps
    | with_reducible apply State.set_keeps
    | with_reducible apply State.toHoldover_keeps
    | with_reducible refine ite_keeps ?_ ?_
    | (extract_lets +onlyGivenNames kX; have kh : Keeps kM kR kX := ?_; (on_goal 1 => clear_value kX); (on_goal 2 => subst kX))
    | (extract_lets +onlyGivenNames kX; first | ((first | have kg : SafeSt := kX | have kg : SlabSt := kX | have kg : TimeSt := kX); clear kg; subst kX) | clear_value kX)
    | fail_if_no_progress with_reducible refine Keeps.upd ?_ rfl rfl rfl

theorem State.slewPhase_keeps {s : State} (kH : Keeps kM kR s) :
    Keeps kM kR (State.slewPhase s) := by
  unfold State.slewPhase
  repeat' first
    | with_reducible assumption
    | with_reducible exact Keeps.refl _ _
    | with_reducible apply State.set_keeps

theorem State.noteStep_keeps {s : State} {x : Int} (kH : Keeps kM kR s) :
    Keeps kM kR (State.noteStep s x) := by
  unfold State.noteStep
  repeat' first
    | with_reducible assumption
    | with_reducible exact Keeps.refl _ _
    | with_reducible apply State.put_keeps
    | with_reducible apply State.set_keeps

theorem State.tellTime_keeps {s : State} {c : TimeChange} (kH : Keeps kM kR s) :
    Keeps kM kR (State.tellTime s c) := by
  unfold State.tellTime
  repeat' first
    | with_reducible assumption
    | with_reducible exact Keeps.refl _ _
    | with_reducible apply State.courseSend_keeps
    | with_reducible refine ite_keeps ?_ ?_

theorem State.phaseStep_keeps {s : State} {n : Nat} {x : Int} (kH : Keeps kM kR s) :
    Keeps kM kR (State.phaseStep s n x) := by
  unfold State.phaseStep
  repeat' first
    | with_reducible assumption
    | with_reducible exact Keeps.refl _ _
    | with_reducible apply State.noteStep_keeps
    | with_reducible apply State.post_keeps
    | with_reducible apply State.set_keeps
    | with_reducible apply State.slewPhase_keeps
    | with_reducible apply State.tellTime_keeps
    | with_reducible refine ite_keeps ?_ ?_
    | (extract_lets +onlyGivenNames kX; have kh : Keeps kM kR kX := ?_; (on_goal 1 => clear_value kX); (on_goal 2 => subst kX))
    | (extract_lets +onlyGivenNames kX; first | ((first | have kg : SafeSt := kX | have kg : SlabSt := kX | have kg : TimeSt := kX); clear kg; subst kX) | clear_value kX)
    | fail_if_no_progress with_reducible refine Keeps.upd ?_ rfl rfl rfl

theorem State.phaseFollow_keeps {s : State} {n : Nat} {x : Int} (kH : Keeps kM kR s) :
    Keeps kM kR (State.phaseFollow s n x) := by
  unfold State.phaseFollow
  repeat' first
    | with_reducible assumption
    | with_reducible exact Keeps.refl _ _
    | with_reducible apply State.phaseStep_keeps
    | with_reducible refine ite_keeps ?_ ?_
    | (extract_lets +onlyGivenNames kX; have kh : Keeps kM kR kX := ?_; (on_goal 1 => clear_value kX); (on_goal 2 => subst kX))
    | (extract_lets +onlyGivenNames kX; first | ((first | have kg : SafeSt := kX | have kg : SlabSt := kX | have kg : TimeSt := kX); clear kg; subst kX) | clear_value kX)
    | fail_if_no_progress with_reducible refine Keeps.upd ?_ rfl rfl rfl

theorem State.measure_keeps {s : State} {n : Nat} {x : Int} (kH : Keeps kM kR s) :
    Keeps kM kR (State.measure s n x) := by
  unfold State.measure
  repeat' first
    | with_reducible assumption
    | with_reducible exact Keeps.refl _ _
    | with_reducible apply State.lockCheck_keeps
    | with_reducible apply State.phaseFollow_keeps
    | with_reducible apply State.phaseStep_keeps
    | with_reducible apply State.put_keeps
    | with_reducible refine ite_keeps ?_ ?_
    | (extract_lets +onlyGivenNames kX; have kh : Keeps kM kR kX := ?_; (on_goal 1 => clear_value kX); (on_goal 2 => subst kX))
    | (extract_lets +onlyGivenNames kX; first | ((first | have kg : SafeSt := kX | have kg : SlabSt := kX | have kg : TimeSt := kX); clear kg; subst kX) | clear_value kX)
    | fail_if_no_progress with_reducible refine Keeps.upd ?_ rfl rfl rfl

theorem State.edgeMean_keeps {s : State} {n p : Nat} (kH : Keeps kM kR s) :
    Keeps kM kR (State.edgeMean s n p) := by
  unfold State.edgeMean
  repeat' first
    | with_reducible assumption
    | with_reducible exact Keeps.refl _ _
    | with_reducible apply getD_keeps
    | with_reducible apply State.put_keeps
    | with_reducible refine ite_keeps ?_ ?_
    | intro _
    | split
    | (extract_lets +onlyGivenNames kX; have kh : Keeps kM kR kX := ?_; (on_goal 1 => clear_value kX); (on_goal 2 => subst kX))
    | (extract_lets +onlyGivenNames kX; first | ((first | have kg : SafeSt := kX | have kg : SlabSt := kX | have kg : TimeSt := kX); clear kg; subst kX) | clear_value kX)
    | fail_if_no_progress with_reducible refine Keeps.upd ?_ rfl rfl rfl

theorem State.goodEdge_keeps {s : State} {n p : Nat} (kH : Keeps kM kR s) :
    Keeps kM kR (State.goodEdge s n p) := by
  unfold State.goodEdge
  repeat' first
    | with_reducible assumption
    | with_reducible exact Keeps.refl _ _
    | with_reducible apply State.edgeMean_keeps
    | with_reducible apply State.put_keeps
    | with_reducible apply State.refRequalify_keeps
    | with_reducible refine ite_keeps ?_ ?_
    | (extract_lets +onlyGivenNames kX; have kh : Keeps kM kR kX := ?_; (on_goal 1 => clear_value kX); (on_goal 2 => subst kX))
    | (extract_lets +onlyGivenNames kX; first | ((first | have kg : SafeSt := kX | have kg : SlabSt := kX | have kg : TimeSt := kX); clear kg; subst kX) | clear_value kX)
    | fail_if_no_progress with_reducible refine Keeps.upd ?_ rfl rfl rfl

theorem State.badEdge_keeps {s : State} {n p : Nat} (kH : Keeps kM kR s) :
    Keeps kM kR (State.badEdge s n p) := by
  unfold State.badEdge
  repeat' first
    | with_reducible assumption
    | with_reducible exact Keeps.refl _ _
    | with_reducible apply getD_keeps
    | with_reducible apply Cmd.take_keeps
    | with_reducible apply State.bumpSat_keeps
    | with_reducible apply State.put_keeps
    | with_reducible apply State.refLose_keeps
    | with_reducible apply State.refRequalify_keeps
    | with_reducible refine ite_keeps ?_ ?_
    | intro _
    | (extract_lets +onlyGivenNames kX; have kh : Keeps kM kR kX := ?_; (on_goal 1 => clear_value kX); (on_goal 2 => subst kX))
    | (extract_lets +onlyGivenNames kX; first | ((first | have kg : SafeSt := kX | have kg : SlabSt := kX | have kg : TimeSt := kX); clear kg; subst kX) | clear_value kX)
    | fail_if_no_progress with_reducible refine Keeps.upd ?_ rfl rfl rfl

theorem State.edge_keeps {s : State} {n p : Nat} {good : Bool} {x : Int} (kH : Keeps kM kR s) :
    Keeps kM kR (State.edge s n p good x) := by
  unfold State.edge
  repeat' first
    | with_reducible assumption
    | with_reducible exact Keeps.refl _ _
    | with_reducible apply State.badEdge_keeps
    | with_reducible apply State.goodEdge_keeps
    | with_reducible apply State.measure_keeps
    | with_reducible refine ite_keeps ?_ ?_

theorem execRefEdge_keeps {n : Fin 4} {period : Nat} {offset : Int} {s : State} (kH : Keeps kM kR s) :
    Good kM kR (execRefEdge n period offset s) := by
  unfold execRefEdge
  refine Good.next ?_
  repeat' first
    | with_reducible assumption
    | with_reducible exact Keeps.refl _ _
    | with_reducible apply State.edge_keeps

theorem execRefEdgeTimeout_keeps {n : Fin 4} {s : State} (kH : Keeps kM kR s) :
    Good kM kR (execRefEdgeTimeout n s) := by
  unfold execRefEdgeTimeout
  refine Good.next ?_
  repeat' first
    | with_reducible assumption
    | with_reducible exact Keeps.refl _ _
    | with_reducible apply State.refLose_keeps
    | with_reducible refine ite_keeps ?_ ?_

theorem execRefQualified_keeps {n : Fin 4} {s : State} (kH : Keeps kM kR s) :
    Good kM kR (execRefQualified n s) := by
  unfold execRefQualified
  refine Good.next ?_
  repeat' first
    | with_reducible assumption
    | with_reducible exact Keeps.refl _ _
    | with_reducible apply State.refNoQual_keeps
    | with_reducible apply State.refTo_keeps
    | with_reducible refine ite_keeps ?_ ?_

theorem execSlewDone_keeps {s : State} (kH : Keeps kM kR s) :
    Good kM kR (execSlewDone s) := by
  unfold execSlewDone
  refine Good.next ?_
  repeat' first
    | with_reducible assumption
    | with_reducible exact Keeps.refl _ _
    | with_reducible apply State.lockCheck_keeps
    | with_reducible apply State.set_keeps
    | with_reducible refine ite_keeps ?_ ?_

theorem execTimeMessage_keeps {mt : W64} {frame : W32} {crcOk : Bool} {s : State} (kH : Keeps kM kR s) :
    Good kM kR (execTimeMessage mt frame crcOk s) := by
  unfold execTimeMessage
  refine Good.next ?_
  repeat' first
    | with_reducible assumption
    | with_reducible exact Keeps.refl _ _
    | with_reducible apply State.draw_snd
    | with_reducible apply State.edge_keeps
    | with_reducible refine State.draw_keeps (by with_reducible assumption) ?_
    | with_reducible refine ite_keeps ?_ ?_
    | with_reducible refine ite_cmdKeeps ?_ ?_
    | split
    | (extract_lets +onlyGivenNames kX; have kh : Keeps kM kR kX := ?_; (on_goal 1 => clear_value kX); (on_goal 2 => subst kX))
    | (extract_lets +onlyGivenNames kX; first | ((first | have kg : SafeSt := kX | have kg : SlabSt := kX | have kg : TimeSt := kX); clear kg; subst kX) | clear_value kX)
    | fail_if_no_progress with_reducible refine Keeps.upd ?_ rfl rfl rfl

theorem State.followRef_keeps {s : State} {n : Nat} (kH : Keeps kM kR s) :
    Keeps kM kR (State.followRef s n) := by
  unfold State.followRef
  repeat' first
    | with_reducible assumption
    | with_reducible exact Keeps.refl _ _
    | with_reducible apply State.put_keeps
    | with_reducible apply State.refTo_keeps
    | with_reducible apply State.set_keeps
    | with_reducible apply State.toHoldover_keeps
    | with_reducible refine ite_keeps ?_ ?_
    | (extract_lets +onlyGivenNames kX; have kh : Keeps kM kR kX := ?_; (on_goal 1 => clear_value kX); (on_goal 2 => subst kX))
    | (extract_lets +onlyGivenNames kX; first | ((first | have kg : SafeSt := kX | have kg : SlabSt := kX | have kg : TimeSt := kX); clear kg; subst kX) | clear_value kX)
    | fail_if_no_progress with_reducible refine Keeps.upd ?_ rfl rfl rfl

theorem State.takeRefs_keeps {s : State} (kH : Keeps kM kR s) :
    Keeps kM kR (State.takeRefs s) := by
  unfold State.takeRefs
  repeat' first
    | with_reducible assumption
    | with_reducible exact Keeps.refl _ _
    | with_reducible apply State.set_keeps
    | with_reducible apply State.writeImage_keeps
    | split
    | (extract_lets +onlyGivenNames kX; have kh : Keeps kM kR kX := ?_; (on_goal 1 => clear_value kX); (on_goal 2 => subst kX))
    | (extract_lets +onlyGivenNames kX; first | ((first | have kg : SafeSt := kX | have kg : SlabSt := kX | have kg : TimeSt := kX); clear kg; subst kX) | clear_value kX)
    | fail_if_no_progress with_reducible refine Keeps.upd ?_ rfl rfl rfl

theorem State.refTick_keeps {s : State} (kH : Keeps kM kR s) :
    Keeps kM kR (State.refTick s) := by
  unfold State.refTick
  repeat' first
    | with_reducible assumption
    | with_reducible exact Keeps.refl _ _
    | with_reducible apply forEach_keeps
    | with_reducible apply getD_keeps
    | with_reducible apply State.followRef_keeps
    | with_reducible apply State.lockCheck_keeps
    | with_reducible apply State.put_keeps
    | with_reducible apply State.refNoQual_keeps
    | with_reducible apply State.refRequalify_keeps
    | with_reducible apply State.refTo_keeps
    | with_reducible apply State.takeRefs_keeps
    | with_reducible apply State.toHoldover_keeps
    | with_reducible refine ite_keeps ?_ ?_
    | intro _
    | (extract_lets +onlyGivenNames kX; have kh : Keeps kM kR kX := ?_; (on_goal 1 => clear_value kX); (on_goal 2 => subst kX))
    | (extract_lets +onlyGivenNames kX; first | ((first | have kg : SafeSt := kX | have kg : SlabSt := kX | have kg : TimeSt := kX); clear kg; subst kX) | clear_value kX)
    | fail_if_no_progress with_reducible refine Keeps.upd ?_ rfl rfl rfl

theorem execMpllLossOfLock_keeps {s : State} (kH : Keeps kM kR s) :
    Good kM kR (execMpllLossOfLock s) := by
  unfold execMpllLossOfLock
  refine Good.next ?_
  repeat' first
    | with_reducible assumption
    | with_reducible exact Keeps.refl _ _
    | with_reducible apply State.lockCheck_keeps
    | with_reducible apply State.set_keeps
    | with_reducible refine ite_keeps ?_ ?_

theorem execMpllRelockDone_keeps {us : Nat} {s : State} (kH : Keeps kM kR s) :
    Good kM kR (execMpllRelockDone us s) := by
  unfold execMpllRelockDone
  refine Good.next ?_
  repeat' first
    | with_reducible assumption
    | with_reducible exact Keeps.refl _ _
    | with_reducible apply State.bumpSat_keeps
    | with_reducible apply State.lockCheck_keeps
    | with_reducible apply State.put_keeps
    | with_reducible apply State.set_keeps
    | with_reducible refine ite_keeps ?_ ?_
    | with_reducible refine ite_cmdKeeps ?_ ?_
    | intro _
    | (extract_lets +onlyGivenNames kX; have kh : Keeps kM kR kX := ?_; (on_goal 1 => clear_value kX); (on_goal 2 => subst kX))
    | (extract_lets +onlyGivenNames kX; first | ((first | have kg : SafeSt := kX | have kg : SlabSt := kX | have kg : TimeSt := kX); clear kg; subst kX) | clear_value kX)
    | fail_if_no_progress with_reducible refine Keeps.upd ?_ rfl rfl rfl

theorem State.dropEpoch_keeps {s : State} (kH : Keeps kM kR s) :
    Keeps kM kR (State.dropEpoch s) := by
  unfold State.dropEpoch
  repeat' first
    | with_reducible assumption
    | with_reducible exact Keeps.refl _ _
    | with_reducible apply State.post_keeps
    | with_reducible refine ite_keeps ?_ ?_
    | split

theorem State.remap_keeps {s : State} {f : TimeMap} (kH : Keeps false kR s) :
    Keeps false kR (State.remap s f) := by
  unfold State.remap
  repeat' first
    | with_reducible assumption
    | with_reducible exact Keeps.refl _ _
    | with_reducible apply State.wr64_keeps
    | intro _
    | (extract_lets +onlyGivenNames kX; have kh : Keeps false kR kX := ?_; (on_goal 1 => clear_value kX); (on_goal 2 => subst kX))
    | (extract_lets +onlyGivenNames kX; have kf : ∀ t, Keeps false kR t → Keeps false kR (kX t) := ?_; (on_goal 1 => clear_value kX); (on_goal 2 => subst kX))
    | with_reducible apply kf
    | (extract_lets +onlyGivenNames kX; first | ((first | have kg : SafeSt := kX | have kg : SlabSt := kX | have kg : TimeSt := kX); clear kg; subst kX) | clear_value kX)
    | fail_if_no_progress with_reducible refine Keeps.upd ?_ rfl rfl rfl

theorem State.shiftTime_keeps {s : State} {d : Int} (kH : Keeps false kR s) :
    Keeps false kR (State.shiftTime s d) := by
  unfold State.shiftTime
  repeat' first
    | with_reducible assumption
    | with_reducible exact Keeps.refl _ _
    | with_reducible apply State.remap_keeps

theorem State.loadEpoch_keeps {s : State} {e : EpochLoad} (kH : Keeps false kR s) :
    Keeps false kR (State.loadEpoch s e) := by
  unfold State.loadEpoch
  repeat' first
    | with_reducible assumption
    | with_reducible exact Keeps.refl _ _
    | with_reducible apply State.postAt_keeps
    | with_reducible apply State.set_keeps
    | with_reducible apply State.shiftTime_keeps
    | (extract_lets +onlyGivenNames kX; have kh : Keeps false kR kX := ?_; (on_goal 1 => clear_value kX); (on_goal 2 => subst kX))
    | (extract_lets +onlyGivenNames kX; first | ((first | have kg : SafeSt := kX | have kg : SlabSt := kX | have kg : TimeSt := kX); clear kg; subst kX) | clear_value kX)
    | fail_if_no_progress with_reducible refine Keeps.upd ?_ rfl rfl rfl
    | fail_if_no_progress with_reducible refine Keeps.updTime ?_ rfl rfl

theorem State.epochAtPps_keeps {s : State} {e : EpochLoad} (kH : Keeps false kR s) :
    Keeps false kR (State.epochAtPps s e) := by
  unfold State.epochAtPps
  repeat' first
    | with_reducible assumption
    | with_reducible exact Keeps.refl _ _
    | with_reducible apply State.loadEpoch_keeps
    | with_reducible apply State.tellTime_keeps
    | with_reducible refine ite_keeps ?_ ?_
    | (extract_lets +onlyGivenNames kX; have kh : Keeps false kR kX := ?_; (on_goal 1 => clear_value kX); (on_goal 2 => subst kX))
    | (extract_lets +onlyGivenNames kX; first | ((first | have kg : SafeSt := kX | have kg : SlabSt := kX | have kg : TimeSt := kX); clear kg; subst kX) | clear_value kX)
    | fail_if_no_progress with_reducible refine Keeps.upd ?_ rfl rfl rfl

theorem execEpochArm_keeps {s : State} (kH : Keeps kM kR s) :
    Good kM kR (execEpochArm s) := by
  unfold execEpochArm
  refine Good.next ?_
  repeat' first
    | with_reducible assumption
    | with_reducible exact Keeps.refl _ _
    | with_reducible apply State.dropEpoch_keeps
    | with_reducible apply State.set_keeps
    | with_reducible apply State.tellTime_keeps
    | with_reducible refine ite_keeps ?_ ?_
    | with_reducible refine ite_cmdKeeps ?_ ?_
    | (extract_lets +onlyGivenNames kX; have kh : Keeps kM kR kX := ?_; (on_goal 1 => clear_value kX); (on_goal 2 => subst kX))
    | (extract_lets +onlyGivenNames kX; first | ((first | have kg : SafeSt := kX | have kg : SlabSt := kX | have kg : TimeSt := kX); clear kg; subst kX) | clear_value kX)
    | fail_if_no_progress with_reducible refine Keeps.upd ?_ rfl rfl rfl

theorem execPpsEdge_keeps {good : Bool} {offset : Int} {s : State} (kH : Keeps false kR s) :
    Good false kR (execPpsEdge good offset s) := by
  unfold execPpsEdge
  refine Good.next ?_
  repeat' first
    | with_reducible assumption
    | with_reducible exact Keeps.refl _ _
    | with_reducible apply State.epochAtPps_keeps
    | with_reducible apply State.lockCheck_keeps
    | with_reducible apply State.measure_keeps
    | with_reducible apply State.phaseStep_keeps
    | with_reducible apply State.put_keeps
    | with_reducible refine ite_keeps ?_ ?_
    | with_reducible refine ite_cmdKeeps ?_ ?_
    | split
    | (extract_lets +onlyGivenNames kX; have kh : Keeps false kR kX := ?_; (on_goal 1 => clear_value kX); (on_goal 2 => subst kX))
    | (extract_lets +onlyGivenNames kX; first | ((first | have kg : SafeSt := kX | have kg : SlabSt := kX | have kg : TimeSt := kX); clear kg; subst kX) | clear_value kX)
    | fail_if_no_progress with_reducible refine Keeps.upd ?_ rfl rfl rfl

theorem execPpsLoss_keeps {s : State} (kH : Keeps kM kR s) :
    Good kM kR (execPpsLoss s) := by
  unfold execPpsLoss
  refine Good.next ?_
  repeat' first
    | with_reducible assumption
    | with_reducible exact Keeps.refl _ _
    | with_reducible apply State.set_keeps
    | with_reducible refine ite_keeps ?_ ?_
    | with_reducible refine ite_cmdKeeps ?_ ?_
    | fail_if_no_progress with_reducible refine Keeps.upd ?_ rfl rfl rfl

theorem State.rateBegin_keeps {s : State} (kH : Keeps kM kR s) :
    Keeps kM kR (State.rateBegin s) := by
  unfold State.rateBegin
  repeat' first
    | with_reducible assumption
    | with_reducible exact Keeps.refl _ _
    | with_reducible apply forEach_keeps
    | with_reducible apply State.dewClose_keeps
    | with_reducible apply State.record_keeps
    | with_reducible apply State.set_keeps
    | with_reducible apply State.stopJob_keeps
    | with_reducible refine ite_keeps ?_ ?_
    | intro _
    | split
    | (extract_lets +onlyGivenNames kX; have kh : Keeps kM kR kX := ?_; (on_goal 1 => clear_value kX); (on_goal 2 => subst kX))
    | (extract_lets +onlyGivenNames kX; first | ((first | have kg : SafeSt := kX | have kg : SlabSt := kX | have kg : TimeSt := kX); clear kg; subst kX) | clear_value kX)
    | fail_if_no_progress with_reducible refine Keeps.upd ?_ rfl rfl rfl

theorem execRateChangeStart_keeps {s : State} (kH : Keeps kM kR s) :
    Good kM kR (execRateChangeStart s) := by
  unfold execRateChangeStart
  refine Good.next ?_
  repeat' first
    | with_reducible assumption
    | with_reducible exact Keeps.refl _ _
    | with_reducible apply State.rateBegin_keeps
    | with_reducible refine ite_keeps ?_ ?_
    | with_reducible refine ite_cmdKeeps ?_ ?_
    | split

theorem State.planRate_keeps {s : State} {code a : Nat} (kH : Keeps kM kR s) :
    Keeps kM kR (State.planRate s code a) := by
  unfold State.planRate
  repeat' first
    | with_reducible assumption
    | with_reducible exact Keeps.refl _ _
    | fail_if_no_progress with_reducible refine Keeps.upd ?_ rfl rfl rfl

theorem cmdTimeGet_keeps  : CmdKeeps kM (cmdTimeGet) := by
  unfold cmdTimeGet
  refine ⟨fun _ _ kR kS kH => ?_, fun _ _ kR kS kH => ?_, fun _ kR kS kH => ?_⟩
  all_goals try dsimp -zeta only [ans]
  repeat' first
    | with_reducible assumption

theorem execTimeGet_keeps {k : Kcp} {s : State} (kH : Keeps kM kR s) :
    Good kM kR (execTimeGet k s) := by
  unfold execTimeGet
  refine Good.next ?_
  repeat' first
    | with_reducible assumption
    | with_reducible exact Keeps.refl _ _
    | with_reducible apply cmdTimeGet_keeps
    | with_reducible apply kcpExec_keeps

theorem cmdTimeSetEpoch_keeps  : CmdKeeps kM (cmdTimeSetEpoch) := by
  unfold cmdTimeSetEpoch
  refine ⟨fun _ _ kR kS kH => ?_, fun _ _ kR kS kH => ?_, fun _ kR kS kH => ?_⟩
  all_goals try dsimp -zeta only [ans]
  repeat' first
    | with_reducible assumption
    | with_reducible exact Keeps.refl _ _
    | with_reducible apply State.dropEpoch_keeps
    | with_reducible apply State.put_keeps
    | with_reducible apply State.set_keeps
    | with_reducible apply State.tellTime_keeps
    | with_reducible apply State.wr64_keeps
    | with_reducible refine ite_keeps ?_ ?_
    | intro _
    | split
    | (extract_lets +onlyGivenNames kX; have kh : Keeps kM kR kX := ?_; (on_goal 1 => clear_value kX); (on_goal 2 => subst kX))
    | (extract_lets +onlyGivenNames kX; first | ((first | have kg : SafeSt := kX | have kg : SlabSt := kX | have kg : TimeSt := kX); clear kg; subst kX) | clear_value kX)
    | fail_if_no_progress with_reducible refine Keeps.upd ?_ rfl rfl rfl

theorem execTimeSetEpoch_keeps {k : Kcp} {s : State} (kH : Keeps kM kR s) :
    Good kM kR (execTimeSetEpoch k s) := by
  unfold execTimeSetEpoch
  refine Good.next ?_
  repeat' first
    | with_reducible assumption
    | with_reducible exact Keeps.refl _ _
    | with_reducible apply cmdTimeSetEpoch_keeps
    | with_reducible apply kcpExec_keeps

theorem cmdTimeSetRate_keeps  : CmdKeeps kM (cmdTimeSetRate) := by
  unfold cmdTimeSetRate
  refine ⟨fun _ _ kR kS kH => ?_, fun _ _ kR kS kH => ?_, fun _ kR kS kH => ?_⟩
  all_goals try dsimp -zeta only [ans]
  repeat' first
    | with_reducible assumption
    | with_reducible exact Keeps.refl _ _
    | with_reducible apply State.planRate_keeps
    | with_reducible apply State.tellTime_keeps

theorem execTimeSetRate_keeps {k : Kcp} {s : State} (kH : Keeps kM kR s) :
    Good kM kR (execTimeSetRate k s) := by
  unfold execTimeSetRate
  refine Good.next ?_
  repeat' first
    | with_reducible assumption
    | with_reducible exact Keeps.refl _ _
    | with_reducible apply cmdTimeSetRate_keeps
    | with_reducible apply kcpExec_keeps

theorem cmdTimeSetRefs_keeps  : CmdKeeps kM (cmdTimeSetRefs) := by
  unfold cmdTimeSetRefs
  refine ⟨fun _ _ kR kS kH => ?_, fun _ _ kR kS kH => ?_, fun _ kR kS kH => ?_⟩
  all_goals try dsimp -zeta only [ans]
  repeat' first
    | with_reducible assumption
    | with_reducible exact Keeps.refl _ _
    | intro _
    | fail_if_no_progress with_reducible refine Keeps.upd ?_ rfl rfl rfl

theorem execTimeSetRefs_keeps {k : Kcp} {s : State} (kH : Keeps kM kR s) :
    Good kM kR (execTimeSetRefs k s) := by
  unfold execTimeSetRefs
  refine Good.next ?_
  repeat' first
    | with_reducible assumption
    | with_reducible exact Keeps.refl _ _
    | with_reducible apply cmdTimeSetRefs_keeps
    | with_reducible apply kcpExec_keeps

theorem cmdTimeGetRefs_keeps  : CmdKeeps kM (cmdTimeGetRefs) := by
  unfold cmdTimeGetRefs
  refine ⟨fun _ _ kR kS kH => ?_, fun _ _ kR kS kH => ?_, fun _ kR kS kH => ?_⟩
  all_goals try dsimp -zeta only [ans]
  repeat' first
    | with_reducible assumption

theorem execTimeGetRefs_keeps {k : Kcp} {s : State} (kH : Keeps kM kR s) :
    Good kM kR (execTimeGetRefs k s) := by
  unfold execTimeGetRefs
  refine Good.next ?_
  repeat' first
    | with_reducible assumption
    | with_reducible exact Keeps.refl _ _
    | with_reducible apply cmdTimeGetRefs_keeps
    | with_reducible apply kcpExec_keeps

theorem cmdTimeSetRa_keeps  : CmdKeeps kM (cmdTimeSetRa) := by
  unfold cmdTimeSetRa
  refine ⟨fun _ _ kR kS kH => ?_, fun _ _ kR kS kH => ?_, fun _ kR kS kH => ?_⟩
  all_goals try dsimp -zeta only [ans]
  repeat' first
    | with_reducible assumption
    | with_reducible exact Keeps.refl _ _
    | with_reducible apply State.tellTime_keeps

theorem execTimeSetRa_keeps {k : Kcp} {s : State} (kH : Keeps kM kR s) :
    Good kM kR (execTimeSetRa k s) := by
  unfold execTimeSetRa
  refine Good.next ?_
  repeat' first
    | with_reducible assumption
    | with_reducible exact Keeps.refl _ _
    | with_reducible apply cmdTimeSetRa_keeps
    | with_reducible apply kcpExec_keeps

theorem State.atSetRa_keeps {s : State} {p : List W32} (kH : Keeps kM kR s) :
    Keeps kM kR (State.atSetRa s p) := by
  unfold State.atSetRa
  repeat' first
    | with_reducible assumption
    | with_reducible exact Keeps.refl _ _
    | with_reducible apply getD_keeps
    | intro _
    | fail_if_no_progress with_reducible refine Keeps.upd ?_ rfl rfl rfl

theorem State.timeChange_keeps {s : State} {c : TimeChange} (kH : Keeps kM kR s) :
    Keeps kM kR (State.timeChange s c) := by
  unfold State.timeChange
  repeat' first
    | with_reducible assumption
    | with_reducible exact Keeps.refl _ _
    | with_reducible apply State.planRate_keeps
    | with_reducible apply State.put_keeps
    | with_reducible apply State.set_keeps
    | split
    | fail_if_no_progress with_reducible refine Keeps.upd ?_ rfl rfl rfl

end Sys2Proof.Machine
end

