-- ==== Sys2Proof/Laws/KeepsMix.lean ====
section
/-! SUPPORT. What the operations of Machine/Mix.lean keep. -/

namespace Sys2Proof.Machine

variable {kM : Bool} {kR : State}

theorem ite_cmdKeeps {c : Prop} [Decidable c] {a b : Cmd} (ha : CmdKeeps kM a) (hb : CmdKeeps kM b) :
    CmdKeeps kM (if c then a else b) := by split <;> assumption

theorem State.acceptRecs_keeps {s : State} {mt : Nat} {rs : List TapRec} (kH : Keeps kM kR s) :
    Keeps kM kR (State.acceptRecs s mt rs) := by
  unfold State.acceptRecs
  repeat' first
    | with_reducible assumption
    | with_reducible exact Keeps.refl _ _
    | with_reducible apply State.setPend_keeps

theorem State.noteFull_keeps {s : State} {mt : Nat} {rs : List TapRec} (kH : Keeps kM kR s) :
    Keeps kM kR (State.noteFull s mt rs) := by
  unfold State.noteFull
  repeat' first
    | with_reducible assumption
    | with_reducible exact Keeps.refl _ _
    | with_reducible apply State.bumpSat_keeps
    | with_reducible apply State.put_keeps
    | with_reducible apply State.set_keeps
    | with_reducible refine ite_keeps ?_ ?_
    | split

theorem State.takeRecs_keeps {s : State} {mt : Nat} {rs : List TapRec} (kH : Keeps kM kR s) :
    Keeps kM kR (State.takeRecs s mt rs) := by
  unfold State.takeRecs
  repeat' first
    | with_reducible assumption
    | with_reducible exact Keeps.refl _ _
    | with_reducible apply State.acceptRecs_keeps
    | with_reducible apply State.tapsNote_keeps

theorem cmdMixSetTaps_keeps  : CmdKeeps kM (cmdMixSetTaps) := by
  unfold cmdMixSetTaps
  refine ⟨fun _ _ kR kS kH => ?_, fun _ _ kR kS kH => ?_, fun _ kR kS kH => ?_⟩
  all_goals try dsimp -zeta only [ans]
  repeat' first
    | with_reducible assumption
    | with_reducible exact Keeps.refl _ _
    | with_reducible apply State.noteFull_keeps
    | with_reducible apply State.takeRecs_keeps
    | with_reducible refine ite_keeps ?_ ?_

theorem cmdMixStageTaps_keeps  : CmdKeeps kM (cmdMixStageTaps) := by
  unfold cmdMixStageTaps
  refine ⟨fun _ _ kR kS kH => ?_, fun _ _ kR kS kH => ?_, fun _ kR kS kH => ?_⟩
  all_goals try dsimp -zeta only [ans]
  repeat' first
    | with_reducible assumption
    | with_reducible exact Keeps.refl _ _
    | with_reducible apply getD_keeps
    | with_reducible refine ite_keeps ?_ ?_
    | intro _
    | split
    | (extract_lets +onlyGivenNames kX; have kh : Keeps kM kR kX := ?_; (on_goal 1 => clear_value kX); (on_goal 2 => subst kX))
    | (extract_lets +onlyGivenNames kX; first | ((first | have kg : SafeSt := kX | have kg : SlabSt := kX | have kg : TimeSt := kX); clear kg; subst kX) | clear_value kX)
    | fail_if_no_progress with_reducible refine Keeps.upd ?_ rfl rfl rfl

theorem execMixSetTaps_keeps {k : Kcp} {s : State} (kH : Keeps kM kR s) :
    Good kM kR (execMixSetTaps k s) := by
  unfold execMixSetTaps
  refine Good.next ?_
  repeat' first
    | with_reducible assumption
    | with_reducible exact Keeps.refl _ _
    | with_reducible apply cmdMixSetTaps_keeps
    | with_reducible apply cmdMixStageTaps_keeps
    | with_reducible apply kcpExec_keeps
    | with_reducible refine ite_keeps ?_ ?_
    | with_reducible refine ite_cmdKeeps ?_ ?_

theorem cmdMixClear_keeps  : CmdKeeps kM (cmdMixClear) := by
  unfold cmdMixClear
  refine ⟨fun _ _ kR kS kH => ?_, fun _ _ kR kS kH => ?_, fun _ kR kS kH => ?_⟩
  all_goals try dsimp -zeta only [ans]
  repeat' first
    | with_reducible assumption

theorem execMixClear_keeps {k : Kcp} {s : State} (kH : Keeps kM kR s) :
    Good kM kR (execMixClear k s) := by
  unfold execMixClear
  refine Good.next ?_
  repeat' first
    | with_reducible assumption
    | with_reducible exact Keeps.refl _ _
    | with_reducible apply cmdMixClear_keeps
    | with_reducible apply kcpExec_keeps

theorem State.atMixClear_keeps {s : State} {mt : Nat} {p : List W32} (kH : Keeps kM kR s) :
    Keeps kM kR (State.atMixClear s mt p) := by
  unfold State.atMixClear
  repeat' first
    | with_reducible assumption
    | with_reducible exact Keeps.refl _ _
    | with_reducible apply forEach_keeps
    | with_reducible apply getD_keeps
    | with_reducible apply State.tapSet_keeps
    | intro _

theorem cmdMixGetTaps_keeps  : CmdKeeps kM (cmdMixGetTaps) := by
  unfold cmdMixGetTaps
  refine ⟨fun _ _ kR kS kH => ?_, fun _ _ kR kS kH => ?_, fun _ kR kS kH => ?_⟩
  all_goals try dsimp -zeta only [ans]
  repeat' first
    | with_reducible assumption

theorem execMixGetTaps_keeps {k : Kcp} {s : State} (kH : Keeps kM kR s) :
    Good kM kR (execMixGetTaps k s) := by
  unfold execMixGetTaps
  refine Good.next ?_
  repeat' first
    | with_reducible assumption
    | with_reducible exact Keeps.refl _ _
    | with_reducible apply cmdMixGetTaps_keeps
    | with_reducible apply kcpExec_keeps

theorem cmdMixGetBitmap_keeps  : CmdKeeps kM (cmdMixGetBitmap) := by
  unfold cmdMixGetBitmap
  refine ⟨fun _ _ kR kS kH => ?_, fun _ _ kR kS kH => ?_, fun _ kR kS kH => ?_⟩
  all_goals try dsimp -zeta only [ans]
  repeat' first
    | with_reducible assumption

theorem execMixGetBitmap_keeps {k : Kcp} {s : State} (kH : Keeps kM kR s) :
    Good kM kR (execMixGetBitmap k s) := by
  unfold execMixGetBitmap
  refine Good.next ?_
  repeat' first
    | with_reducible assumption
    | with_reducible exact Keeps.refl _ _
    | with_reducible apply cmdMixGetBitmap_keeps
    | with_reducible apply kcpExec_keeps

theorem cmdMixGetClip_keeps  : CmdKeeps kM (cmdMixGetClip) := by
  unfold cmdMixGetClip
  refine ⟨fun _ _ kR kS kH => ?_, fun _ _ kR kS kH => ?_, fun _ kR kS kH => ?_⟩
  all_goals try dsimp -zeta only [ans]
  repeat' first
    | with_reducible assumption
    | with_reducible exact Keeps.refl _ _
    | with_reducible apply forEach_keeps
    | with_reducible apply getD_keeps
    | with_reducible apply State.wr_keeps
    | with_reducible refine ite_keeps ?_ ?_
    | intro _
    | split
    | (extract_lets +onlyGivenNames kX; have kh : Keeps kM kR kX := ?_; (on_goal 1 => clear_value kX); (on_goal 2 => subst kX))
    | (extract_lets +onlyGivenNames kX; have kf : ∀ t, Keeps kM kR t → Keeps kM kR (kX t) := ?_; (on_goal 1 => clear_value kX); (on_goal 2 => subst kX))
    | with_reducible apply kf
    | (extract_lets +onlyGivenNames kX; first | ((first | have kg : SafeSt := kX | have kg : SlabSt := kX | have kg : TimeSt := kX); clear kg; subst kX) | clear_value kX)
    | fail_if_no_progress with_reducible refine Keeps.upd ?_ rfl rfl rfl

theorem execMixGetClip_keeps {k : Kcp} {s : State} (kH : Keeps kM kR s) :
    Good kM kR (execMixGetClip k s) := by
  unfold execMixGetClip
  refine Good.next ?_
  repeat' first
    | with_reducible assumption
    | with_reducible exact Keeps.refl _ _
    | with_reducible apply cmdMixGetClip_keeps
    | with_reducible apply kcpExec_keeps

theorem cmdMixGetStats_keeps  : CmdKeeps kM (cmdMixGetStats) := by
  unfold cmdMixGetStats
  refine ⟨fun _ _ kR kS kH => ?_, fun _ _ kR kS kH => ?_, fun _ kR kS kH => ?_⟩
  all_goals try dsimp -zeta only [ans]
  repeat' first
    | with_reducible assumption

theorem execMixGetStats_keeps {k : Kcp} {s : State} (kH : Keeps kM kR s) :
    Good kM kR (execMixGetStats k s) := by
  unfold execMixGetStats
  refine Good.next ?_
  repeat' first
    | with_reducible assumption
    | with_reducible exact Keeps.refl _ _
    | with_reducible apply cmdMixGetStats_keeps
    | with_reducible apply kcpExec_keeps

theorem cmdMixOpenSet_keeps  : CmdKeeps kM (cmdMixOpenSet) := by
  unfold cmdMixOpenSet
  refine ⟨fun _ _ kR kS kH => ?_, fun _ _ kR kS kH => ?_, fun _ kR kS kH => ?_⟩
  all_goals try dsimp -zeta only [ans]
  repeat' first
    | with_reducible assumption
    | with_reducible exact Keeps.refl _ _
    | with_reducible apply getD_keeps
    | with_reducible refine ite_keeps ?_ ?_
    | intro _
    | split
    | (extract_lets +onlyGivenNames kX; have kh : Keeps kM kR kX := ?_; (on_goal 1 => clear_value kX); (on_goal 2 => subst kX))
    | (extract_lets +onlyGivenNames kX; first | ((first | have kg : SafeSt := kX | have kg : SlabSt := kX | have kg : TimeSt := kX); clear kg; subst kX) | clear_value kX)
    | fail_if_no_progress with_reducible refine Keeps.upd ?_ rfl rfl rfl

theorem execMixOpenSet_keeps {k : Kcp} {s : State} (kH : Keeps kM kR s) :
    Good kM kR (execMixOpenSet k s) := by
  unfold execMixOpenSet
  refine Good.next ?_
  repeat' first
    | with_reducible assumption
    | with_reducible exact Keeps.refl _ _
    | with_reducible apply cmdMixOpenSet_keeps
    | with_reducible apply kcpExec_keeps

theorem cmdMixCommitSet_keeps  : CmdKeeps kM (cmdMixCommitSet) := by
  unfold cmdMixCommitSet
  refine ⟨fun _ _ kR kS kH => ?_, fun _ _ kR kS kH => ?_, fun _ kR kS kH => ?_⟩
  all_goals try dsimp -zeta only [ans]
  repeat' first
    | with_reducible assumption
    | with_reducible exact Keeps.refl _ _
    | with_reducible apply getD_keeps
    | with_reducible apply State.noteFull_keeps
    | with_reducible apply State.takeRecs_keeps
    | with_reducible refine ite_keeps ?_ ?_
    | intro _
    | split
    | (extract_lets +onlyGivenNames kX; have kh : Keeps kM kR kX := ?_; (on_goal 1 => clear_value kX); (on_goal 2 => subst kX))
    | (extract_lets +onlyGivenNames kX; first | ((first | have kg : SafeSt := kX | have kg : SlabSt := kX | have kg : TimeSt := kX); clear kg; subst kX) | clear_value kX)
    | fail_if_no_progress with_reducible refine Keeps.upd ?_ rfl rfl rfl

theorem execMixCommitSet_keeps {k : Kcp} {s : State} (kH : Keeps kM kR s) :
    Good kM kR (execMixCommitSet k s) := by
  unfold execMixCommitSet
  refine Good.next ?_
  repeat' first
    | with_reducible assumption
    | with_reducible exact Keeps.refl _ _
    | with_reducible apply cmdMixCommitSet_keeps
    | with_reducible apply kcpExec_keeps

theorem cmdMixCancelSet_keeps  : CmdKeeps kM (cmdMixCancelSet) := by
  unfold cmdMixCancelSet
  refine ⟨fun _ _ kR kS kH => ?_, fun _ _ kR kS kH => ?_, fun _ kR kS kH => ?_⟩
  all_goals try dsimp -zeta only [ans]
  repeat' first
    | with_reducible assumption
    | with_reducible exact Keeps.refl _ _
    | with_reducible refine ite_keeps ?_ ?_
    | intro _
    | split
    | fail_if_no_progress with_reducible refine Keeps.upd ?_ rfl rfl rfl

theorem execMixCancelSet_keeps {k : Kcp} {s : State} (kH : Keeps kM kR s) :
    Good kM kR (execMixCancelSet k s) := by
  unfold execMixCancelSet
  refine Good.next ?_
  repeat' first
    | with_reducible assumption
    | with_reducible exact Keeps.refl _ _
    | with_reducible apply cmdMixCancelSet_keeps
    | with_reducible apply kcpExec_keeps

theorem cmdMixSetClass_keeps  : CmdKeeps kM (cmdMixSetClass) := by
  unfold cmdMixSetClass
  refine ⟨fun _ _ kR kS kH => ?_, fun _ _ kR kS kH => ?_, fun _ kR kS kH => ?_⟩
  all_goals try dsimp -zeta only [ans]
  repeat' first
    | with_reducible assumption

theorem execMixSetClass_keeps {k : Kcp} {s : State} (kH : Keeps kM kR s) :
    Good kM kR (execMixSetClass k s) := by
  unfold execMixSetClass
  refine Good.next ?_
  repeat' first
    | with_reducible assumption
    | with_reducible exact Keeps.refl _ _
    | with_reducible apply cmdMixSetClass_keeps
    | with_reducible apply kcpExec_keeps

theorem State.atSetClass_keeps {s : State} {p : List W32} (kH : Keeps kM kR s) :
    Keeps kM kR (State.atSetClass s p) := by
  unfold State.atSetClass
  repeat' first
    | with_reducible assumption
    | with_reducible exact Keeps.refl _ _
    | with_reducible apply forEach_keeps
    | with_reducible apply getD_keeps
    | intro _
    | (extract_lets +onlyGivenNames kX; have kh : Keeps kM kR kX := ?_; (on_goal 1 => clear_value kX); (on_goal 2 => subst kX))
    | (extract_lets +onlyGivenNames kX; first | ((first | have kg : SafeSt := kX | have kg : SlabSt := kX | have kg : TimeSt := kX); clear kg; subst kX) | clear_value kX)
    | fail_if_no_progress with_reducible refine Keeps.upd ?_ rfl rfl rfl

theorem cmdMixSetGen_keeps  : CmdKeeps kM (cmdMixSetGen) := by
  unfold cmdMixSetGen
  refine ⟨fun _ _ kR kS kH => ?_, fun _ _ kR kS kH => ?_, fun _ kR kS kH => ?_⟩
  all_goals try dsimp -zeta only [ans]
  repeat' first
    | with_reducible assumption

theorem execMixSetGen_keeps {k : Kcp} {s : State} (kH : Keeps kM kR s) :
    Good kM kR (execMixSetGen k s) := by
  unfold execMixSetGen
  refine Good.next ?_
  repeat' first
    | with_reducible assumption
    | with_reducible exact Keeps.refl _ _
    | with_reducible apply cmdMixSetGen_keeps
    | with_reducible apply kcpExec_keeps

theorem State.atSetGen_keeps {s : State} {mt : Nat} {p : List W32} (kH : Keeps kM kR s) :
    Keeps kM kR (State.atSetGen s mt p) := by
  unfold State.atSetGen
  repeat' first
    | with_reducible assumption
    | with_reducible exact Keeps.refl _ _
    | with_reducible apply getD_keeps
    | with_reducible apply Cmd.take_keeps
    | intro _
    | (extract_lets +onlyGivenNames kX; have kh : Keeps kM kR kX := ?_; (on_goal 1 => clear_value kX); (on_goal 2 => subst kX))
    | (extract_lets +onlyGivenNames kX; first | ((first | have kg : SafeSt := kX | have kg : SlabSt := kX | have kg : TimeSt := kX); clear kg; subst kX) | clear_value kX)
    | fail_if_no_progress with_reducible refine Keeps.upd ?_ rfl rfl rfl

theorem cmdMixRouteAux_keeps  : CmdKeeps kM (cmdMixRouteAux) := by
  unfold cmdMixRouteAux
  refine ⟨fun _ _ kR kS kH => ?_, fun _ _ kR kS kH => ?_, fun _ kR kS kH => ?_⟩
  all_goals try dsimp -zeta only [ans]
  repeat' first
    | with_reducible assumption

theorem execMixRouteAux_keeps {k : Kcp} {s : State} (kH : Keeps kM kR s) :
    Good kM kR (execMixRouteAux k s) := by
  unfold execMixRouteAux
  refine Good.next ?_
  repeat' first
    | with_reducible assumption
    | with_reducible exact Keeps.refl _ _
    | with_reducible apply cmdMixRouteAux_keeps
    | with_reducible apply kcpExec_keeps

theorem State.atRouteAux_keeps {s : State} {mt : Nat} {p : List W32} (kH : Keeps kM kR s) :
    Keeps kM kR (State.atRouteAux s mt p) := by
  unfold State.atRouteAux
  repeat' first
    | with_reducible assumption
    | with_reducible exact Keeps.refl _ _
    | with_reducible apply getD_keeps
    | with_reducible apply Cmd.take_keeps
    | with_reducible refine ite_keeps ?_ ?_
    | intro _
    | (extract_lets +onlyGivenNames kX; have kh : Keeps kM kR kX := ?_; (on_goal 1 => clear_value kX); (on_goal 2 => subst kX))
    | (extract_lets +onlyGivenNames kX; first | ((first | have kg : SafeSt := kX | have kg : SlabSt := kX | have kg : TimeSt := kX); clear kg; subst kX) | clear_value kX)
    | fail_if_no_progress with_reducible refine Keeps.upd ?_ rfl rfl rfl

end Sys2Proof.Machine
end

