-- ==== Sys2Proof/Laws/KeepsZone.lean ====
section
/-! SUPPORT. What the operations of Machine/Zone.lean keep. -/

namespace Sys2Proof.Machine

variable {kM : Bool} {kR : State}

theorem State.zoneCut_keeps {s : State} {n mt : Nat} (kH : Keeps kM kR s) :
    Keeps kM kR (State.zoneCut s n mt) := by
  unfold State.zoneCut
  repeat' first
    | with_reducible assumption
    | with_reducible exact Keeps.refl _ _
    | with_reducible apply State.setZone_keeps
    | with_reducible apply State.set_keeps

theorem State.zoneReset_keeps {s : State} {n mt : Nat} (kH : Keeps kM kR s) :
    Keeps kM kR (State.zoneReset s n mt) := by
  unfold State.zoneReset
  repeat' first
    | with_reducible assumption
    | with_reducible exact Keeps.refl _ _
    | with_reducible apply State.setZone_keeps

theorem cmdZoneEnable_keeps  : CmdKeeps kM (cmdZoneEnable) := by
  unfold cmdZoneEnable
  refine ⟨fun _ _ kR kS kH => ?_, fun _ _ kR kS kH => ?_, fun _ kR kS kH => ?_⟩
  all_goals try dsimp -zeta only [ans]
  repeat' first
    | with_reducible assumption

theorem execZoneEnable_keeps {k : Kcp} {s : State} (kH : Keeps kM kR s) :
    Good kM kR (execZoneEnable k s) := by
  unfold execZoneEnable
  refine Good.next ?_
  repeat' first
    | with_reducible assumption
    | with_reducible exact Keeps.refl _ _
    | with_reducible apply cmdZoneEnable_keeps
    | with_reducible apply kcpExec_keeps

theorem State.atZoneEnable_keeps {s : State} {mt : Nat} {p : List W32} (kH : Keeps kM kR s) :
    Keeps kM kR (State.atZoneEnable s mt p) := by
  unfold State.atZoneEnable
  repeat' first
    | with_reducible assumption
    | with_reducible exact Keeps.refl _ _
    | with_reducible apply getD_keeps
    | with_reducible apply State.setZone_keeps
    | with_reducible apply State.set_keeps
    | with_reducible apply State.zoneCut_keeps
    | with_reducible refine ite_keeps ?_ ?_

theorem execZoneDrainDone_keeps {zone : Nat} {s : State} (kH : Keeps kM kR s) :
    Good kM kR (execZoneDrainDone zone s) := by
  unfold execZoneDrainDone
  refine Good.next ?_
  repeat' first
    | with_reducible assumption
    | with_reducible exact Keeps.refl _ _
    | with_reducible apply State.zoneCut_keeps
    | with_reducible refine ite_keeps ?_ ?_

theorem cmdZoneSetInputs_keeps  : CmdKeeps kM (cmdZoneSetInputs) := by
  unfold cmdZoneSetInputs
  refine ⟨fun _ _ kR kS kH => ?_, fun _ _ kR kS kH => ?_, fun _ kR kS kH => ?_⟩
  all_goals try dsimp -zeta only [ans]
  repeat' first
    | with_reducible assumption

theorem execZoneSetInputs_keeps {k : Kcp} {s : State} (kH : Keeps kM kR s) :
    Good kM kR (execZoneSetInputs k s) := by
  unfold execZoneSetInputs
  refine Good.next ?_
  repeat' first
    | with_reducible assumption
    | with_reducible exact Keeps.refl _ _
    | with_reducible apply cmdZoneSetInputs_keeps
    | with_reducible apply kcpExec_keeps

theorem State.atZoneInputs_keeps {s : State} {mt : Nat} {p : List W32} (kH : Keeps kM kR s) :
    Keeps kM kR (State.atZoneInputs s mt p) := by
  unfold State.atZoneInputs
  repeat' first
    | with_reducible assumption
    | with_reducible exact Keeps.refl _ _
    | with_reducible apply getD_keeps
    | with_reducible apply State.setZone_keeps

theorem cmdZoneSetGate_keeps  : CmdKeeps kM (cmdZoneSetGate) := by
  unfold cmdZoneSetGate
  refine ⟨fun _ _ kR kS kH => ?_, fun _ _ kR kS kH => ?_, fun _ kR kS kH => ?_⟩
  all_goals try dsimp -zeta only [ans]
  repeat' first
    | with_reducible assumption

theorem execZoneSetGate_keeps {k : Kcp} {s : State} (kH : Keeps kM kR s) :
    Good kM kR (execZoneSetGate k s) := by
  unfold execZoneSetGate
  refine Good.next ?_
  repeat' first
    | with_reducible assumption
    | with_reducible exact Keeps.refl _ _
    | with_reducible apply cmdZoneSetGate_keeps
    | with_reducible apply kcpExec_keeps

theorem State.atZoneGate_keeps {s : State} {mt : Nat} {p : List W32} (kH : Keeps kM kR s) :
    Keeps kM kR (State.atZoneGate s mt p) := by
  unfold State.atZoneGate
  repeat' first
    | with_reducible assumption
    | with_reducible exact Keeps.refl _ _
    | with_reducible apply getD_keeps
    | with_reducible apply State.setZone_keeps
    | with_reducible apply State.writeImage_keeps

theorem cmdZoneSetAmbient_keeps  : CmdKeeps kM (cmdZoneSetAmbient) := by
  unfold cmdZoneSetAmbient
  refine ⟨fun _ _ kR kS kH => ?_, fun _ _ kR kS kH => ?_, fun _ kR kS kH => ?_⟩
  all_goals try dsimp -zeta only [ans]
  repeat' first
    | with_reducible assumption

theorem execZoneSetAmbient_keeps {k : Kcp} {s : State} (kH : Keeps kM kR s) :
    Good kM kR (execZoneSetAmbient k s) := by
  unfold execZoneSetAmbient
  refine Good.next ?_
  repeat' first
    | with_reducible assumption
    | with_reducible exact Keeps.refl _ _
    | with_reducible apply cmdZoneSetAmbient_keeps
    | with_reducible apply kcpExec_keeps

theorem State.atZoneAmbient_keeps {s : State} {mt : Nat} {p : List W32} (kH : Keeps kM kR s) :
    Keeps kM kR (State.atZoneAmbient s mt p) := by
  unfold State.atZoneAmbient
  repeat' first
    | with_reducible assumption
    | with_reducible exact Keeps.refl _ _
    | with_reducible apply getD_keeps
    | with_reducible apply State.setZone_keeps
    | with_reducible apply State.set_keeps

theorem State.ambientEdits_keeps {s : State} {zone code : Nat} (kH : Keeps kM kR s) :
    Keeps kM kR (State.ambientEdits s zone code) := by
  unfold State.ambientEdits
  repeat' first
    | with_reducible assumption
    | with_reducible exact Keeps.refl _ _
    | with_reducible apply forEach_keeps
    | with_reducible apply State.editVoice_keeps
    | with_reducible apply State.noteAmbient_keeps
    | with_reducible apply State.record_keeps
    | intro _

theorem execAmbientEstimate_keeps {zone : Nat} {s : State} (kH : Keeps kM kR s) :
    Good kM kR (execAmbientEstimate zone s) := by
  unfold execAmbientEstimate
  refine Good.next ?_
  repeat' first
    | with_reducible assumption
    | with_reducible exact Keeps.refl _ _
    | with_reducible apply State.ambientEdits_keeps
    | with_reducible apply State.put_keeps
    | with_reducible apply State.setZone_keeps
    | with_reducible refine ite_keeps ?_ ?_

theorem cmdZoneSetEq_keeps  : CmdKeeps kM (cmdZoneSetEq) := by
  unfold cmdZoneSetEq
  refine ⟨fun _ _ kR kS kH => ?_, fun _ _ kR kS kH => ?_, fun _ kR kS kH => ?_⟩
  all_goals try dsimp -zeta only [ans]
  repeat' first
    | with_reducible assumption

theorem execZoneSetEq_keeps {k : Kcp} {s : State} (kH : Keeps kM kR s) :
    Good kM kR (execZoneSetEq k s) := by
  unfold execZoneSetEq
  refine Good.next ?_
  repeat' first
    | with_reducible assumption
    | with_reducible exact Keeps.refl _ _
    | with_reducible apply cmdZoneSetEq_keeps
    | with_reducible apply kcpExec_keeps

theorem State.atZoneEq_keeps {s : State} {mt : Nat} {p : List W32} (kH : Keeps kM kR s) :
    Keeps kM kR (State.atZoneEq s mt p) := by
  unfold State.atZoneEq
  repeat' first
    | with_reducible assumption
    | with_reducible exact Keeps.refl _ _
    | with_reducible apply foldl_keeps
    | with_reducible apply getD_keeps
    | with_reducible apply State.setZone_keeps

theorem cmdZoneLoadFir_keeps  : CmdKeeps kM (cmdZoneLoadFir) := by
  unfold cmdZoneLoadFir
  refine ⟨fun _ _ kR kS kH => ?_, fun _ _ kR kS kH => ?_, fun _ kR kS kH => ?_⟩
  all_goals try dsimp -zeta only [ans]
  repeat' first
    | with_reducible assumption
    | with_reducible exact Keeps.refl _ _
    | with_reducible apply foldl_keeps
    | with_reducible apply State.setZone_keeps

theorem execZoneLoadFir_keeps {k : Kcp} {s : State} (kH : Keeps kM kR s) :
    Good kM kR (execZoneLoadFir k s) := by
  unfold execZoneLoadFir
  refine Good.next ?_
  repeat' first
    | with_reducible assumption
    | with_reducible exact Keeps.refl _ _
    | with_reducible apply cmdZoneLoadFir_keeps
    | with_reducible apply kcpExec_keeps

theorem cmdZoneSetFir_keeps  : CmdKeeps kM (cmdZoneSetFir) := by
  unfold cmdZoneSetFir
  refine ⟨fun _ _ kR kS kH => ?_, fun _ _ kR kS kH => ?_, fun _ kR kS kH => ?_⟩
  all_goals try dsimp -zeta only [ans]
  repeat' first
    | with_reducible assumption
    | with_reducible exact Keeps.refl _ _
    | with_reducible refine ite_keeps ?_ ?_
    | intro _
    | split
    | (extract_lets +onlyGivenNames kX; have kh : Keeps kM kR kX := ?_; (on_goal 1 => clear_value kX); (on_goal 2 => subst kX))
    | (extract_lets +onlyGivenNames kX; first | ((first | have kg : SafeSt := kX | have kg : SlabSt := kX | have kg : TimeSt := kX); clear kg; subst kX) | clear_value kX)

theorem execZoneSetFir_keeps {k : Kcp} {s : State} (kH : Keeps kM kR s) :
    Good kM kR (execZoneSetFir k s) := by
  unfold execZoneSetFir
  refine Good.next ?_
  repeat' first
    | with_reducible assumption
    | with_reducible exact Keeps.refl _ _
    | with_reducible apply cmdZoneSetFir_keeps
    | with_reducible apply kcpExec_keeps

theorem State.atZoneFir_keeps {s : State} {mt : Nat} {p : List W32} (kH : Keeps kM kR s) :
    Keeps kM kR (State.atZoneFir s mt p) := by
  unfold State.atZoneFir
  repeat' first
    | with_reducible assumption
    | with_reducible exact Keeps.refl _ _
    | with_reducible apply getD_keeps
    | with_reducible apply State.setZone_keeps

theorem cmdZoneSetDyn_keeps  : CmdKeeps kM (cmdZoneSetDyn) := by
  unfold cmdZoneSetDyn
  refine ⟨fun _ _ kR kS kH => ?_, fun _ _ kR kS kH => ?_, fun _ kR kS kH => ?_⟩
  all_goals try dsimp -zeta only [ans]
  repeat' first
    | with_reducible assumption

theorem execZoneSetDyn_keeps {k : Kcp} {s : State} (kH : Keeps kM kR s) :
    Good kM kR (execZoneSetDyn k s) := by
  unfold execZoneSetDyn
  refine Good.next ?_
  repeat' first
    | with_reducible assumption
    | with_reducible exact Keeps.refl _ _
    | with_reducible apply cmdZoneSetDyn_keeps
    | with_reducible apply kcpExec_keeps

theorem State.atZoneDyn_keeps {s : State} {mt : Nat} {p : List W32} (kH : Keeps kM kR s) :
    Keeps kM kR (State.atZoneDyn s mt p) := by
  unfold State.atZoneDyn
  repeat' first
    | with_reducible assumption
    | with_reducible exact Keeps.refl _ _
    | with_reducible apply getD_keeps
    | with_reducible apply State.setZone_keeps
    | with_reducible apply State.set_keeps

theorem cmdZoneSetDelay_keeps  : CmdKeeps kM (cmdZoneSetDelay) := by
  unfold cmdZoneSetDelay
  refine ⟨fun _ _ kR kS kH => ?_, fun _ _ kR kS kH => ?_, fun _ kR kS kH => ?_⟩
  all_goals try dsimp -zeta only [ans]
  repeat' first
    | with_reducible assumption

theorem execZoneSetDelay_keeps {k : Kcp} {s : State} (kH : Keeps kM kR s) :
    Good kM kR (execZoneSetDelay k s) := by
  unfold execZoneSetDelay
  refine Good.next ?_
  repeat' first
    | with_reducible assumption
    | with_reducible exact Keeps.refl _ _
    | with_reducible apply cmdZoneSetDelay_keeps
    | with_reducible apply kcpExec_keeps

theorem State.atZoneDelay_keeps {s : State} {mt : Nat} {p : List W32} (kH : Keeps kM kR s) :
    Keeps kM kR (State.atZoneDelay s mt p) := by
  unfold State.atZoneDelay
  repeat' first
    | with_reducible assumption
    | with_reducible exact Keeps.refl _ _
    | with_reducible apply getD_keeps
    | with_reducible apply State.setZone_keeps
    | with_reducible apply State.set_keeps

theorem cmdZoneSetGain_keeps  : CmdKeeps kM (cmdZoneSetGain) := by
  unfold cmdZoneSetGain
  refine ⟨fun _ _ kR kS kH => ?_, fun _ _ kR kS kH => ?_, fun _ kR kS kH => ?_⟩
  all_goals try dsimp -zeta only [ans]
  repeat' first
    | with_reducible assumption

theorem execZoneSetGain_keeps {k : Kcp} {s : State} (kH : Keeps kM kR s) :
    Good kM kR (execZoneSetGain k s) := by
  unfold execZoneSetGain
  refine Good.next ?_
  repeat' first
    | with_reducible assumption
    | with_reducible exact Keeps.refl _ _
    | with_reducible apply cmdZoneSetGain_keeps
    | with_reducible apply kcpExec_keeps

theorem State.atZoneGain_keeps {s : State} {mt : Nat} {p : List W32} (kH : Keeps kM kR s) :
    Keeps kM kR (State.atZoneGain s mt p) := by
  unfold State.atZoneGain
  repeat' first
    | with_reducible assumption
    | with_reducible exact Keeps.refl _ _
    | with_reducible apply getD_keeps
    | with_reducible apply State.setZone_keeps

theorem cmdZoneSetPilot_keeps  : CmdKeeps kM (cmdZoneSetPilot) := by
  unfold cmdZoneSetPilot
  refine ⟨fun _ _ kR kS kH => ?_, fun _ _ kR kS kH => ?_, fun _ kR kS kH => ?_⟩
  all_goals try dsimp -zeta only [ans]
  repeat' first
    | with_reducible assumption

theorem execZoneSetPilot_keeps {k : Kcp} {s : State} (kH : Keeps kM kR s) :
    Good kM kR (execZoneSetPilot k s) := by
  unfold execZoneSetPilot
  refine Good.next ?_
  repeat' first
    | with_reducible assumption
    | with_reducible exact Keeps.refl _ _
    | with_reducible apply cmdZoneSetPilot_keeps
    | with_reducible apply kcpExec_keeps

theorem State.atZonePilot_keeps {s : State} {mt : Nat} {p : List W32} (kH : Keeps kM kR s) :
    Keeps kM kR (State.atZonePilot s mt p) := by
  unfold State.atZonePilot
  repeat' first
    | with_reducible assumption
    | with_reducible exact Keeps.refl _ _
    | with_reducible apply getD_keeps
    | with_reducible apply State.put_keeps
    | with_reducible apply State.setZone_keeps
    | with_reducible apply State.set_keeps

theorem cmdZoneSetOutputs_keeps  : CmdKeeps kM (cmdZoneSetOutputs) := by
  unfold cmdZoneSetOutputs
  refine ⟨fun _ _ kR kS kH => ?_, fun _ _ kR kS kH => ?_, fun _ kR kS kH => ?_⟩
  all_goals try dsimp -zeta only [ans]
  repeat' first
    | with_reducible assumption

theorem execZoneSetOutputs_keeps {k : Kcp} {s : State} (kH : Keeps kM kR s) :
    Good kM kR (execZoneSetOutputs k s) := by
  unfold execZoneSetOutputs
  refine Good.next ?_
  repeat' first
    | with_reducible assumption
    | with_reducible exact Keeps.refl _ _
    | with_reducible apply cmdZoneSetOutputs_keeps
    | with_reducible apply kcpExec_keeps

theorem State.atZoneOutputs_keeps {s : State} {mt : Nat} {p : List W32} (kH : Keeps kM kR s) :
    Keeps kM kR (State.atZoneOutputs s mt p) := by
  unfold State.atZoneOutputs
  repeat' first
    | with_reducible assumption
    | with_reducible exact Keeps.refl _ _
    | with_reducible apply getD_keeps
    | with_reducible apply Cmd.take_keeps
    | with_reducible apply State.setZone_keeps
    | with_reducible apply State.set_keeps
    | with_reducible refine ite_keeps ?_ ?_

theorem execFallbackSwitch_keeps {zone : Nat} {roleB : Bool} {s : State} (kH : Keeps kM kR s) :
    Good kM kR (execFallbackSwitch zone roleB s) := by
  unfold execFallbackSwitch
  refine Good.next ?_
  repeat' first
    | with_reducible assumption
    | with_reducible exact Keeps.refl _ _
    | with_reducible apply getD_keeps
    | with_reducible apply State.post_keeps
    | with_reducible apply State.setZone_keeps
    | with_reducible apply State.set_keeps
    | with_reducible refine ite_keeps ?_ ?_
    | with_reducible refine ite_cmdKeeps ?_ ?_
    | intro _
    | split
    | (extract_lets +onlyGivenNames kX; have kh : Keeps kM kR kX := ?_; (on_goal 1 => clear_value kX); (on_goal 2 => subst kX))
    | (extract_lets +onlyGivenNames kX; first | ((first | have kg : SafeSt := kX | have kg : SlabSt := kX | have kg : TimeSt := kX); clear kg; subst kX) | clear_value kX)

theorem State.restoreRole_keeps {s : State} {n role mt : Nat} (kH : Keeps kM kR s) :
    Keeps kM kR (State.restoreRole s n role mt) := by
  unfold State.restoreRole
  repeat' first
    | with_reducible assumption
    | with_reducible exact Keeps.refl _ _
    | with_reducible apply getD_keeps
    | with_reducible apply State.setZone_keeps
    | with_reducible apply State.set_keeps
    | with_reducible refine ite_keeps ?_ ?_

theorem execFallbackAutoRestore_keeps {zone : Nat} {roleB : Bool} {s : State} (kH : Keeps kM kR s) :
    Good kM kR (execFallbackAutoRestore zone roleB s) := by
  unfold execFallbackAutoRestore
  refine Good.next ?_
  repeat' first
    | with_reducible assumption
    | with_reducible exact Keeps.refl _ _
    | with_reducible apply getD_keeps
    | with_reducible apply State.restoreRole_keeps
    | with_reducible refine ite_keeps ?_ ?_

theorem cmdZoneRestore_keeps  : CmdKeeps kM (cmdZoneRestore) := by
  unfold cmdZoneRestore
  refine ⟨fun _ _ kR kS kH => ?_, fun _ _ kR kS kH => ?_, fun _ kR kS kH => ?_⟩
  all_goals try dsimp -zeta only [ans]
  repeat' first
    | with_reducible assumption

theorem execZoneRestore_keeps {k : Kcp} {s : State} (kH : Keeps kM kR s) :
    Good kM kR (execZoneRestore k s) := by
  unfold execZoneRestore
  refine Good.next ?_
  repeat' first
    | with_reducible assumption
    | with_reducible exact Keeps.refl _ _
    | with_reducible apply cmdZoneRestore_keeps
    | with_reducible apply kcpExec_keeps

theorem State.atZoneRestore_keeps {s : State} {mt : Nat} {p : List W32} (kH : Keeps kM kR s) :
    Keeps kM kR (State.atZoneRestore s mt p) := by
  unfold State.atZoneRestore
  repeat' first
    | with_reducible assumption
    | with_reducible exact Keeps.refl _ _
    | with_reducible apply getD_keeps
    | with_reducible apply State.restoreRole_keeps

theorem State.atSetGroup_keeps {s : State} {mt : Nat} {p : List W32} (kH : Keeps kM kR s) :
    Keeps kM kR (State.atSetGroup s mt p) := by
  unfold State.atSetGroup
  repeat' first
    | with_reducible assumption
    | with_reducible exact Keeps.refl _ _
    | with_reducible apply forEach_keeps
    | with_reducible apply getD_keeps
    | with_reducible apply State.setGroup_keeps
    | with_reducible apply State.setZone_keeps
    | with_reducible refine ite_keeps ?_ ?_
    | intro _

theorem State.zonesAt_keeps {s : State} {mt : Nat} (kH : Keeps kM kR s) :
    Keeps kM kR (State.zonesAt s mt) := by
  unfold State.zonesAt
  repeat' first
    | with_reducible assumption
    | with_reducible exact Keeps.refl _ _
    | with_reducible apply forEach_keeps
    | with_reducible apply State.atSetGroup_keeps
    | with_reducible apply State.atZoneInputs_keeps
    | with_reducible refine ite_keeps ?_ ?_
    | intro _

theorem cmdZoneSetGroup_keeps  : CmdKeeps kM (cmdZoneSetGroup) := by
  unfold cmdZoneSetGroup
  refine ⟨fun _ _ kR kS kH => ?_, fun _ _ kR kS kH => ?_, fun _ kR kS kH => ?_⟩
  all_goals try dsimp -zeta only [ans]
  repeat' first
    | with_reducible assumption

theorem execZoneSetGroup_keeps {k : Kcp} {s : State} (kH : Keeps kM kR s) :
    Good kM kR (execZoneSetGroup k s) := by
  unfold execZoneSetGroup
  refine Good.next ?_
  repeat' first
    | with_reducible assumption
    | with_reducible exact Keeps.refl _ _
    | with_reducible apply cmdZoneSetGroup_keeps
    | with_reducible apply kcpExec_keeps

theorem cmdZoneGetConfig_keeps  : CmdKeeps kM (cmdZoneGetConfig) := by
  unfold cmdZoneGetConfig
  refine ⟨fun _ _ kR kS kH => ?_, fun _ _ kR kS kH => ?_, fun _ kR kS kH => ?_⟩
  all_goals try dsimp -zeta only [ans]
  repeat' first
    | with_reducible assumption

theorem execZoneGetConfig_keeps {k : Kcp} {s : State} (kH : Keeps kM kR s) :
    Good kM kR (execZoneGetConfig k s) := by
  unfold execZoneGetConfig
  refine Good.next ?_
  repeat' first
    | with_reducible assumption
    | with_reducible exact Keeps.refl _ _
    | with_reducible apply cmdZoneGetConfig_keeps
    | with_reducible apply kcpExec_keeps

theorem cmdZoneGetStatus_keeps  : CmdKeeps kM (cmdZoneGetStatus) := by
  unfold cmdZoneGetStatus
  refine ⟨fun _ _ kR kS kH => ?_, fun _ _ kR kS kH => ?_, fun _ kR kS kH => ?_⟩
  all_goals try dsimp -zeta only [ans]
  repeat' first
    | with_reducible assumption

theorem execZoneGetStatus_keeps {k : Kcp} {s : State} (kH : Keeps kM kR s) :
    Good kM kR (execZoneGetStatus k s) := by
  unfold execZoneGetStatus
  refine Good.next ?_
  repeat' first
    | with_reducible assumption
    | with_reducible exact Keeps.refl _ _
    | with_reducible apply cmdZoneGetStatus_keeps
    | with_reducible apply kcpExec_keeps

end Sys2Proof.Machine
end

