-- ==== Sys2Proof/Laws/KeepsTiles.lean ====
section
/-! SUPPORT. What the operations of Machine/Tiles.lean keep. -/

namespace Sys2Proof.Machine

variable {kM : Bool} {kR : State}

theorem State.tileBad_keeps {s : State} {bank tile cause : Nat} (kH : Keeps kM kR s) :
    Keeps kM kR (State.tileBad s bank tile cause) := by
  unfold State.tileBad
  repeat' first
    | with_reducible assumption
    | with_reducible exact Keeps.refl _ _
    | with_reducible apply State.post_keeps

theorem State.mapImage_keeps {s : State} {n gen : Nat} {f : Image → Image} (kH : Keeps kM kR s) :
    Keeps kM kR (State.mapImage s n gen f) := by
  unfold State.mapImage
  repeat' first
    | with_reducible assumption
    | with_reducible exact Keeps.refl _ _
    | with_reducible apply State.setBank_keeps

theorem State.tileMarkBad_keeps {s : State} {n gen tile cause : Nat} (kH : Keeps kM kR s) :
    Keeps kM kR (State.tileMarkBad s n gen tile cause) := by
  unfold State.tileMarkBad
  repeat' first
    | with_reducible assumption
    | with_reducible exact Keeps.refl _ _
    | with_reducible apply State.mapImage_keeps
    | with_reducible apply State.tileBad_keeps

theorem State.checkTile_keeps {s : State} {n gen tile : Nat} (kH : Keeps kM kR s) :
    Keeps kM kR (State.checkTile s n gen tile) := by
  unfold State.checkTile
  repeat' first
    | with_reducible assumption
    | with_reducible exact Keeps.refl _ _
    | with_reducible apply State.mapImage_keeps
    | with_reducible apply State.tileMarkBad_keeps
    | with_reducible refine ite_keeps ?_ ?_
    | intro _
    | split

theorem State.beforeTile_keeps {s : State} {n gen tile : Nat} (kH : Keeps kM kR s) :
    Keeps kM kR (State.beforeTile s n gen tile) := by
  unfold State.beforeTile
  repeat' first
    | with_reducible assumption
    | with_reducible exact Keeps.refl _ _
    | with_reducible apply State.checkTile_keeps
    | with_reducible refine ite_keeps ?_ ?_
    | intro _
    | split

end Sys2Proof.Machine
end

