-- ==== Sys2Proof/Laws/KeepsQueue.lean ====
section
/-! SUPPORT. What the operations of Machine/Queue.lean keep. -/

namespace Sys2Proof.Machine

variable {kM : Bool} {kR : State}

theorem State.setShare_keeps {s : State} {br : Nat} {x : Nat × Nat} (kH : Keeps kM kR s) :
    Keeps kM kR (State.setShare s br x) := by
  unfold State.setShare
  repeat' first
    | with_reducible assumption
    | with_reducible exact Keeps.refl _ _
    | with_reducible apply getD_keeps
    | intro _
    | fail_if_no_progress with_reducible refine Keeps.upd ?_ rfl rfl rfl

theorem State.spendFront_keeps {s : State} {br n : Nat} (kH : Keeps kM kR s) :
    Keeps kM kR (State.spendFront s br n) := by
  unfold State.spendFront
  repeat' first
    | with_reducible assumption
    | with_reducible exact Keeps.refl _ _
    | with_reducible apply State.setShare_keeps

theorem State.useReserve_keeps {s : State} {br n : Nat} (kH : Keeps kM kR s) :
    Keeps kM kR (State.useReserve s br n) := by
  unfold State.useReserve
  repeat' first
    | with_reducible assumption
    | with_reducible exact Keeps.refl _ _
    | with_reducible apply State.setShare_keeps

theorem State.rollbackLost_keeps {s : State} {v : Voice} {e : Nat} (kH : Keeps kM kR s) :
    Keeps kM kR (State.rollbackLost s v e) := by
  unfold State.rollbackLost
  repeat' first
    | with_reducible assumption
    | with_reducible exact Keeps.refl _ _
    | with_reducible apply getD_keeps
    | with_reducible apply State.post_keeps
    | with_reducible apply State.record_keeps
    | with_reducible apply State.setVoice_keeps

theorem State.restoreVoice_keeps {s : State} {v : Voice} {e : Nat} (kH : Keeps kM kR s) :
    Keeps kM kR (State.restoreVoice s v e) := by
  unfold State.restoreVoice
  repeat' first
    | with_reducible assumption
    | with_reducible exact Keeps.refl _ _
    | with_reducible apply State.rollbackLost_keeps
    | with_reducible apply State.setVoice_keeps
    | split

theorem State.mismatch_keeps {s : State} {src : Nat} (kH : Keeps kM kR s) :
    Keeps kM kR (State.mismatch s src) := by
  unfold State.mismatch
  repeat' first
    | with_reducible assumption
    | with_reducible exact Keeps.refl _ _
    | with_reducible apply getD_keeps
    | with_reducible apply State.raise_keeps
    | with_reducible apply State.set_keeps

end Sys2Proof.Machine
end

