-- ==== Sys2Proof/Laws/KeepsCall.lean ====
section
/-! SUPPORT. What the operations of Machine/Call.lean keep. -/

namespace Sys2Proof.Machine

variable {kM : Bool} {kR : State}

theorem State.prefetch_keeps {s : State} {v : Voice} (kH : Keeps kM kR s) :
    Keeps kM kR (State.prefetch s v) := by
  unfold State.prefetch
  repeat' first
    | with_reducible assumption
    | with_reducible exact Keeps.refl _ _
    | with_reducible apply State.beforeTile_keeps
    | with_reducible apply State.bind_keeps
    | with_reducible apply State.putKmem_keeps
    | with_reducible apply State.setVoice_keeps
    | with_reducible refine ite_keeps ?_ ?_
    | intro _
    | split

theorem State.callBegin_keeps {s : State} {v : Voice} (kH : Keeps kM kR s) :
    Keeps kM kR (State.callBegin s v) := by
  unfold State.callBegin
  repeat' first
    | with_reducible assumption
    | with_reducible exact Keeps.refl _ _
    | with_reducible apply getD_keeps
    | with_reducible apply State.prefetch_keeps
    | with_reducible apply State.putKmem_keeps
    | with_reducible apply State.record_keeps
    | with_reducible apply State.setVoice_keeps
    | with_reducible apply State.set_keeps
    | with_reducible refine ite_keeps ?_ ?_
    | intro _
    | split
    | (extract_lets +onlyGivenNames kX; have kh : Keeps kM kR kX := ?_; (on_goal 1 => clear_value kX); (on_goal 2 => subst kX))
    | (extract_lets +onlyGivenNames kX; first | ((first | have kg : SafeSt := kX | have kg : SlabSt := kX | have kg : TimeSt := kX); clear kg; subst kX) | clear_value kX)
    | fail_if_no_progress with_reducible refine Keeps.upd ?_ rfl rfl rfl

theorem State.callRestore_keeps {s : State} {v : Voice} {e : Nat} (kH : Keeps kM kR s) :
    Keeps kM kR (State.callRestore s v e) := by
  unfold State.callRestore
  repeat' first
    | with_reducible assumption
    | with_reducible exact Keeps.refl _ _
    | with_reducible apply State.prefetch_keeps
    | with_reducible apply State.putKmem_keeps
    | with_reducible apply State.record_keeps
    | with_reducible apply State.restoreVoice_keeps
    | with_reducible refine ite_keeps ?_ ?_
    | split
    | (extract_lets +onlyGivenNames kX; have kh : Keeps kM kR kX := ?_; (on_goal 1 => clear_value kX); (on_goal 2 => subst kX))

theorem State.callFrom_keeps {n : Nat} {s : State} (kH : Keeps kM kR s) : Keeps kM kR (State.callFrom n s) := by
  induction n generalizing s with
  | zero => exact kH
  | succ n ih =>
    unfold State.callFrom
    dsimp only
    repeat' split
    all_goals first
      | exact kH
      | exact State.callBegin_keeps kH
      | exact State.callBegin_keeps (State.callRestore_keeps kH)
      | exact ih (State.callRestore_keeps kH)

theorem State.callNext_keeps {s : State} (kH : Keeps kM kR s) :
    Keeps kM kR (State.callNext s) := by
  unfold State.callNext
  repeat' first
    | with_reducible assumption
    | with_reducible exact Keeps.refl _ _
    | with_reducible apply State.callFrom_keeps

theorem State.rowBack_keeps {s : State} {v : Voice} {b : Nat} (kH : Keeps kM kR s) :
    Keeps kM kR (State.rowBack s v b) := by
  unfold State.rowBack
  repeat' first
    | with_reducible assumption
    | with_reducible exact Keeps.refl _ _
    | with_reducible apply State.putKmem_keeps
    | intro _
    | split

theorem State.callEnd_keeps {s : State} {ok : Bool} (kH : Keeps kM kR s) :
    Keeps kM kR (State.callEnd s ok) := by
  unfold State.callEnd
  repeat' first
    | with_reducible assumption
    | with_reducible exact Keeps.refl _ _
    | with_reducible apply State.callNext_keeps
    | with_reducible apply State.mismatch_keeps
    | with_reducible apply State.prefetch_keeps
    | with_reducible apply State.put_keeps
    | with_reducible apply State.record_keeps
    | with_reducible apply State.rowBack_keeps
    | with_reducible apply State.setVoice_keeps
    | with_reducible apply State.spendFront_keeps
    | with_reducible apply State.useReserve_keeps
    | with_reducible refine ite_keeps ?_ ?_
    | intro _
    | split
    | (extract_lets +onlyGivenNames kX; have kh : Keeps kM kR kX := ?_; (on_goal 1 => clear_value kX); (on_goal 2 => subst kX))
    | (extract_lets +onlyGivenNames kX; first | ((first | have kg : SafeSt := kX | have kg : SlabSt := kX | have kg : TimeSt := kX); clear kg; subst kX) | clear_value kX)
    | fail_if_no_progress with_reducible refine Keeps.upd ?_ rfl rfl rfl

theorem State.callIllegal_keeps {s : State} {pc : Nat} (kH : Keeps kM kR s) :
    Keeps kM kR (State.callIllegal s pc) := by
  unfold State.callIllegal
  repeat' first
    | with_reducible assumption
    | with_reducible exact Keeps.refl _ _
    | with_reducible apply Cmd.take_keeps
    | with_reducible apply State.callEnd_keeps
    | with_reducible apply State.post_keeps
    | with_reducible apply State.put_keeps
    | with_reducible apply State.set_keeps
    | with_reducible refine ite_keeps ?_ ?_
    | (extract_lets +onlyGivenNames kX; have kh : Keeps kM kR kX := ?_; (on_goal 1 => clear_value kX); (on_goal 2 => subst kX))
    | (extract_lets +onlyGivenNames kX; first | ((first | have kg : SafeSt := kX | have kg : SlabSt := kX | have kg : TimeSt := kX); clear kg; subst kX) | clear_value kX)
    | fail_if_no_progress with_reducible refine Keeps.upd ?_ rfl rfl rfl

theorem State.callCut_keeps {s : State} {pc : Nat} (kH : Keeps kM kR s) :
    Keeps kM kR (State.callCut s pc) := by
  unfold State.callCut
  repeat' first
    | with_reducible assumption
    | with_reducible exact Keeps.refl _ _
    | with_reducible apply Cmd.take_keeps
    | with_reducible apply State.bumpSat_keeps
    | with_reducible apply State.callEnd_keeps
    | with_reducible apply State.post_keeps
    | with_reducible apply State.put_keeps
    | with_reducible apply State.set_keeps
    | with_reducible refine ite_keeps ?_ ?_
    | (extract_lets +onlyGivenNames kX; have kh : Keeps kM kR kX := ?_; (on_goal 1 => clear_value kX); (on_goal 2 => subst kX))
    | (extract_lets +onlyGivenNames kX; first | ((first | have kg : SafeSt := kX | have kg : SlabSt := kX | have kg : TimeSt := kX); clear kg; subst kX) | clear_value kX)
    | fail_if_no_progress with_reducible refine Keeps.upd ?_ rfl rfl rfl

theorem execKernelBudgetExpiry_keeps {src pc : Nat} {s : State} (kH : Keeps kM kR s) :
    Good kM kR (execKernelBudgetExpiry src pc s) := by
  unfold execKernelBudgetExpiry
  refine Good.next ?_
  repeat' first
    | with_reducible assumption
    | with_reducible exact Keeps.refl _ _
    | with_reducible apply State.callCut_keeps
    | with_reducible refine ite_keeps ?_ ?_

theorem execIllegalWord_keeps {src pc : Nat} {s : State} (kH : Keeps kM kR s) :
    Good kM kR (execIllegalWord src pc s) := by
  unfold execIllegalWord
  refine Good.next ?_
  repeat' first
    | with_reducible assumption
    | with_reducible exact Keeps.refl _ _
    | with_reducible apply State.callIllegal_keeps
    | with_reducible refine ite_keeps ?_ ?_

end Sys2Proof.Machine
end

