-- ==== Sys2Proof/Laws/KeepsKernel.lean ====
section
/-! SUPPORT. What the operations of Machine/Kernel.lean keep. -/

namespace Sys2Proof.Machine

variable {kM : Bool} {kR : State}

theorem State.kstore_keeps {s : State} {d : Datapath} {first : Bool} {a : Nat} {v : W32} (kH : Keeps kM kR s) :
    Keeps kM kR (State.kstore s d first a v) := by
  unfold State.kstore
  repeat' first
    | with_reducible assumption
    | with_reducible exact Keeps.refl _ _
    | with_reducible apply State.post_keeps
    | with_reducible apply State.setKmem_keeps
    | with_reducible apply State.set_keeps
    | with_reducible refine ite_keeps ?_ ?_
    | (extract_lets +onlyGivenNames kX; have kh : Keeps kM kR kX := ?_; (on_goal 1 => clear_value kX); (on_goal 2 => subst kX))
    | (extract_lets +onlyGivenNames kX; first | ((first | have kg : SafeSt := kX | have kg : SlabSt := kX | have kg : TimeSt := kX); clear kg; subst kX) | clear_value kX)
    | fail_if_no_progress with_reducible refine Keeps.upd ?_ rfl rfl rfl

theorem State.kmove_keeps {s : State} {before : Datapath} {first : Bool} {m : Move} {loaded : W32} (kH : Keeps kM kR s) :
    Keeps kM kR (State.kmove s before first m loaded) := by
  unfold State.kmove
  repeat' first
    | with_reducible assumption
    | with_reducible exact Keeps.refl _ _
    | with_reducible apply getD_keeps
    | with_reducible apply State.kstore_keeps
    | with_reducible apply State.set_keeps
    | with_reducible refine ite_keeps ?_ ?_
    | intro _
    | split
    | (extract_lets +onlyGivenNames kX; have kh : Keeps kM kR kX := ?_; (on_goal 1 => clear_value kX); (on_goal 2 => subst kX))
    | (extract_lets +onlyGivenNames kX; first | ((first | have kg : SafeSt := kX | have kg : SlabSt := kX | have kg : TimeSt := kX); clear kg; subst kX) | clear_value kX)
    | fail_if_no_progress with_reducible refine Keeps.upd ?_ rfl rfl rfl

theorem State.kstep_keeps {s : State} {m1 m2 : Move} {f : Datapath → Datapath} (kH : Keeps kM kR s) :
    Keeps kM kR (State.kstep s m1 m2 f) := by
  unfold State.kstep
  repeat' first
    | with_reducible assumption
    | with_reducible exact Keeps.refl _ _
    | with_reducible apply getD_keeps
    | with_reducible apply State.kmove_keeps
    | intro _
    | (extract_lets +onlyGivenNames kX; have kh : Keeps kM kR kX := ?_; (on_goal 1 => clear_value kX); (on_goal 2 => subst kX))
    | (extract_lets +onlyGivenNames kX; first | ((first | have kg : SafeSt := kX | have kg : SlabSt := kX | have kg : TimeSt := kX); clear kg; subst kX) | clear_value kX)
    | fail_if_no_progress with_reducible refine Keeps.upd ?_ rfl rfl rfl

theorem State.kinstr_keeps {s : State} {m1 m2 : Move} {cost : Nat} {f : Datapath → Datapath} (kH : Keeps kM kR s) :
    Keeps kM kR (State.kinstr s m1 m2 cost f) := by
  unfold State.kinstr
  repeat' first
    | with_reducible assumption
    | with_reducible exact Keeps.refl _ _
    | with_reducible apply iter_keeps
    | with_reducible apply State.kstep_keeps
    | with_reducible refine ite_keeps ?_ ?_
    | intro _
    | split
    | (extract_lets +onlyGivenNames kX; have kh : Keeps kM kR kX := ?_; (on_goal 1 => clear_value kX); (on_goal 2 => subst kX))
    | (extract_lets +onlyGivenNames kX; first | ((first | have kg : SafeSt := kX | have kg : SlabSt := kX | have kg : TimeSt := kX); clear kg; subst kX) | clear_value kX)
    | fail_if_no_progress with_reducible refine Keeps.upd ?_ rfl rfl rfl


theorem execNop_keeps {m1 m2 : Move} {s : State} (kH : Keeps kM kR s) :
    Good kM kR (execNop m1 m2 s) := by
  unfold execNop
  refine Good.next ?_
  repeat' first
    | with_reducible assumption
    | with_reducible exact Keeps.refl _ _
    | with_reducible apply State.kinstr_keeps

theorem execMul_keeps {wd ci si : Fin 4} {neg : Bool} {m1 m2 : Move} {s : State} (kH : Keeps kM kR s) :
    Good kM kR (execMul wd ci si neg m1 m2 s) := by
  unfold execMul
  refine Good.next ?_
  repeat' first
    | with_reducible assumption
    | with_reducible exact Keeps.refl _ _
    | with_reducible apply State.kinstr_keeps

theorem execMad_keeps {wd ci si : Fin 4} {neg : Bool} {m1 m2 : Move} {s : State} (kH : Keeps kM kR s) :
    Good kM kR (execMad wd ci si neg m1 m2 s) := by
  unfold execMad
  refine Good.next ?_
  repeat' first
    | with_reducible assumption
    | with_reducible exact Keeps.refl _ _
    | with_reducible apply State.kinstr_keeps

theorem execMul4_keeps {neg : Bool} {m1 m2 : Move} {s : State} (kH : Keeps kM kR s) :
    Good kM kR (execMul4 neg m1 m2 s) := by
  unfold execMul4
  refine Good.next ?_
  repeat' first
    | with_reducible assumption
    | with_reducible exact Keeps.refl _ _
    | with_reducible apply State.kinstr_keeps

theorem execMad4_keeps {neg : Bool} {m1 m2 : Move} {s : State} (kH : Keeps kM kR s) :
    Good kM kR (execMad4 neg m1 m2 s) := by
  unfold execMad4
  refine Good.next ?_
  repeat' first
    | with_reducible assumption
    | with_reducible exact Keeps.refl _ _
    | with_reducible apply State.kinstr_keeps

theorem execFir4_keeps {neg : Bool} {m1 m2 : Move} {s : State} (kH : Keeps kM kR s) :
    Good kM kR (execFir4 neg m1 m2 s) := by
  unfold execFir4
  refine Good.next ?_
  repeat' first
    | with_reducible assumption
    | with_reducible exact Keeps.refl _ _
    | with_reducible apply State.kinstr_keeps

theorem execZero4_keeps {m1 m2 : Move} {s : State} (kH : Keeps kM kR s) :
    Good kM kR (execZero4 m1 m2 s) := by
  unfold execZero4
  refine Good.next ?_
  repeat' first
    | with_reducible assumption
    | with_reducible exact Keeps.refl _ _
    | with_reducible apply State.kinstr_keeps

theorem execAddw_keeps {wd ws : Fin 4} {_os : Fin 8} {m1 m2 : Move} {s : State} (kH : Keeps kM kR s) :
    Good kM kR (execAddw wd ws _os m1 m2 s) := by
  unfold execAddw
  refine Good.next ?_
  repeat' first
    | with_reducible assumption
    | with_reducible exact Keeps.refl _ _
    | with_reducible apply State.kinstr_keeps

theorem execSubw_keeps {wd ws : Fin 4} {_os : Fin 8} {m1 m2 : Move} {s : State} (kH : Keeps kM kR s) :
    Good kM kR (execSubw wd ws _os m1 m2 s) := by
  unfold execSubw
  refine Good.next ?_
  repeat' first
    | with_reducible assumption
    | with_reducible exact Keeps.refl _ _
    | with_reducible apply State.kinstr_keeps

theorem execNegw_keeps {wd _ws : Fin 4} {_os : Fin 8} {m1 m2 : Move} {s : State} (kH : Keeps kM kR s) :
    Good kM kR (execNegw wd _ws _os m1 m2 s) := by
  unfold execNegw
  refine Good.next ?_
  repeat' first
    | with_reducible assumption
    | with_reducible exact Keeps.refl _ _
    | with_reducible apply State.kinstr_keeps

theorem execAbsw_keeps {wd _ws : Fin 4} {_os : Fin 8} {m1 m2 : Move} {s : State} (kH : Keeps kM kR s) :
    Good kM kR (execAbsw wd _ws _os m1 m2 s) := by
  unfold execAbsw
  refine Good.next ?_
  repeat' first
    | with_reducible assumption
    | with_reducible exact Keeps.refl _ _
    | with_reducible apply State.kinstr_keeps

theorem execZeroW_keeps {wd _ws : Fin 4} {_os : Fin 8} {m1 m2 : Move} {s : State} (kH : Keeps kM kR s) :
    Good kM kR (execZeroW wd _ws _os m1 m2 s) := by
  unfold execZeroW
  refine Good.next ?_
  repeat' first
    | with_reducible assumption
    | with_reducible exact Keeps.refl _ _
    | with_reducible apply State.kinstr_keeps

theorem execWld_keeps {wd _ws : Fin 4} {os : Fin 8} {m1 m2 : Move} {s : State} (kH : Keeps kM kR s) :
    Good kM kR (execWld wd _ws os m1 m2 s) := by
  unfold execWld
  refine Good.next ?_
  repeat' first
    | with_reducible assumption
    | with_reducible exact Keeps.refl _ _
    | with_reducible apply State.kinstr_keeps

theorem execWst_keeps {wd _ws : Fin 4} {os : Fin 8} {m1 m2 : Move} {s : State} (kH : Keeps kM kR s) :
    Good kM kR (execWst wd _ws os m1 m2 s) := by
  unfold execWst
  refine Good.next ?_
  repeat' first
    | with_reducible assumption
    | with_reducible exact Keeps.refl _ _
    | with_reducible apply State.kinstr_keeps

theorem execRndw_keeps {wd _ws : Fin 4} {_os : Fin 8} {m1 m2 : Move} {s : State} (kH : Keeps kM kR s) :
    Good kM kR (execRndw wd _ws _os m1 m2 s) := by
  unfold execRndw
  refine Good.next ?_
  repeat' first
    | with_reducible assumption
    | with_reducible exact Keeps.refl _ _
    | with_reducible apply State.kinstr_keeps

theorem execShw_keeps {wd : Fin 4} {imm : BitVec 13} {m1 m2 : Move} {s : State} (kH : Keeps kM kR s) :
    Good kM kR (execShw wd imm m1 m2 s) := by
  unfold execShw
  refine Good.next ?_
  repeat' first
    | with_reducible assumption
    | with_reducible exact Keeps.refl _ _
    | with_reducible apply State.kinstr_keeps

theorem execAddwi_keeps {wd : Fin 4} {imm : BitVec 13} {m1 m2 : Move} {s : State} (kH : Keeps kM kR s) :
    Good kM kR (execAddwi wd imm m1 m2 s) := by
  unfold execAddwi
  refine Good.next ?_
  repeat' first
    | with_reducible assumption
    | with_reducible exact Keeps.refl _ _
    | with_reducible apply State.kinstr_keeps

theorem execAndOp_keeps {od os : Fin 8} {_imm : BitVec 6} {m1 m2 : Move} {s : State} (kH : Keeps kM kR s) :
    Good kM kR (execAndOp od os _imm m1 m2 s) := by
  unfold execAndOp
  refine Good.next ?_
  repeat' first
    | with_reducible assumption
    | with_reducible exact Keeps.refl _ _
    | with_reducible apply State.kinstr_keeps

theorem execOrOp_keeps {od os : Fin 8} {_imm : BitVec 6} {m1 m2 : Move} {s : State} (kH : Keeps kM kR s) :
    Good kM kR (execOrOp od os _imm m1 m2 s) := by
  unfold execOrOp
  refine Good.next ?_
  repeat' first
    | with_reducible assumption
    | with_reducible exact Keeps.refl _ _
    | with_reducible apply State.kinstr_keeps

theorem execXorOp_keeps {od os : Fin 8} {_imm : BitVec 6} {m1 m2 : Move} {s : State} (kH : Keeps kM kR s) :
    Good kM kR (execXorOp od os _imm m1 m2 s) := by
  unfold execXorOp
  refine Good.next ?_
  repeat' first
    | with_reducible assumption
    | with_reducible exact Keeps.refl _ _
    | with_reducible apply State.kinstr_keeps

theorem execLsh_keeps {od _os : Fin 8} {imm : BitVec 6} {m1 m2 : Move} {s : State} (kH : Keeps kM kR s) :
    Good kM kR (execLsh od _os imm m1 m2 s) := by
  unfold execLsh
  refine Good.next ?_
  repeat' first
    | with_reducible assumption
    | with_reducible exact Keeps.refl _ _
    | with_reducible apply State.kinstr_keeps

theorem execAmov_keeps {ad as : Fin 32} {m1 m2 : Move} {s : State} (kH : Keeps kM kR s) :
    Good kM kR (execAmov ad as m1 m2 s) := by
  unfold execAmov
  refine Good.next ?_
  repeat' first
    | with_reducible assumption
    | with_reducible exact Keeps.refl _ _
    | with_reducible apply getD_keeps
    | with_reducible apply State.kinstr_keeps

theorem execPadd_keeps {pt : Fin 8} {imm : BitVec 13} {m1 m2 : Move} {s : State} (kH : Keeps kM kR s) :
    Good kM kR (execPadd pt imm m1 m2 s) := by
  unfold execPadd
  refine Good.next ?_
  repeat' first
    | with_reducible assumption
    | with_reducible exact Keeps.refl _ _
    | with_reducible apply getD_keeps
    | with_reducible apply State.kinstr_keeps

theorem execSetcfg_keeps {imm : BitVec 10} {m1 m2 : Move} {s : State} (kH : Keeps kM kR s) :
    Good kM kR (execSetcfg imm m1 m2 s) := by
  unfold execSetcfg
  refine Good.next ?_
  repeat' first
    | with_reducible assumption
    | with_reducible exact Keeps.refl _ _
    | with_reducible apply State.kinstr_keeps

theorem execRdfl_keeps {od _os : Fin 8} {_imm : BitVec 6} {m1 m2 : Move} {s : State} (kH : Keeps kM kR s) :
    Good kM kR (execRdfl od _os _imm m1 m2 s) := by
  unfold execRdfl
  refine Good.next ?_
  repeat' first
    | with_reducible assumption
    | with_reducible exact Keeps.refl _ _
    | with_reducible apply State.kinstr_keeps

theorem execClrfl_keeps {imm : BitVec 10} {m1 m2 : Move} {s : State} (kH : Keeps kM kR s) :
    Good kM kR (execClrfl imm m1 m2 s) := by
  unfold execClrfl
  refine Good.next ?_
  repeat' first
    | with_reducible assumption
    | with_reducible exact Keeps.refl _ _
    | with_reducible apply State.kinstr_keeps

theorem State.kalone_keeps {s : State} {m1 m2 : Move} {cost : Nat} {illegal : Bool} {f : Datapath → Datapath} (kH : Keeps kM kR s) :
    Keeps kM kR (State.kalone s m1 m2 cost illegal f) := by
  unfold State.kalone
  repeat' first
    | with_reducible assumption
    | with_reducible exact Keeps.refl _ _
    | with_reducible apply State.callIllegal_keeps
    | with_reducible apply State.kinstr_keeps
    | with_reducible refine ite_keeps ?_ ?_
    | split
    | fail_if_no_progress with_reducible refine Keeps.upd ?_ rfl rfl rfl

theorem execLdo_keeps {od : Fin 8} {imm : BitVec 24} {s : State} (kH : Keeps kM kR s) :
    Good kM kR (execLdo od imm s) := by
  unfold execLdo
  refine Good.next ?_
  repeat' first
    | with_reducible assumption
    | with_reducible exact Keeps.refl _ _
    | with_reducible apply State.kalone_keeps

theorem execLda_keeps {ad : Fin 32} {imm : BitVec 24} {s : State} (kH : Keeps kM kR s) :
    Good kM kR (execLda ad imm s) := by
  unfold execLda
  refine Good.next ?_
  repeat' first
    | with_reducible assumption
    | with_reducible exact Keeps.refl _ _
    | with_reducible apply State.kalone_keeps

theorem execJmp_keeps {target : BitVec 13} {m1 m2 : Move} {s : State} (kH : Keeps kM kR s) :
    Good kM kR (execJmp target m1 m2 s) := by
  unfold execJmp
  refine Good.next ?_
  repeat' first
    | with_reducible assumption
    | with_reducible exact Keeps.refl _ _
    | with_reducible apply State.kalone_keeps

theorem State.kbranch_keeps {s : State} {wn : Nat} {test : Int → Bool} {t : BitVec 13} {m1 m2 : Move} (kH : Keeps kM kR s) :
    Keeps kM kR (State.kbranch s wn test t m1 m2) := by
  unfold State.kbranch
  repeat' first
    | with_reducible assumption
    | with_reducible exact Keeps.refl _ _
    | with_reducible apply State.kalone_keeps

theorem execJeq_keeps {wn : Fin 4} {target : BitVec 13} {m1 m2 : Move} {s : State} (kH : Keeps kM kR s) :
    Good kM kR (execJeq wn target m1 m2 s) := by
  unfold execJeq
  refine Good.next ?_
  repeat' first
    | with_reducible assumption
    | with_reducible exact Keeps.refl _ _
    | with_reducible apply State.kbranch_keeps

theorem execJne_keeps {wn : Fin 4} {target : BitVec 13} {m1 m2 : Move} {s : State} (kH : Keeps kM kR s) :
    Good kM kR (execJne wn target m1 m2 s) := by
  unfold execJne
  refine Good.next ?_
  repeat' first
    | with_reducible assumption
    | with_reducible exact Keeps.refl _ _
    | with_reducible apply State.kbranch_keeps

theorem execJlt_keeps {wn : Fin 4} {target : BitVec 13} {m1 m2 : Move} {s : State} (kH : Keeps kM kR s) :
    Good kM kR (execJlt wn target m1 m2 s) := by
  unfold execJlt
  refine Good.next ?_
  repeat' first
    | with_reducible assumption
    | with_reducible exact Keeps.refl _ _
    | with_reducible apply State.kbranch_keeps

theorem execJge_keeps {wn : Fin 4} {target : BitVec 13} {m1 m2 : Move} {s : State} (kH : Keeps kM kR s) :
    Good kM kR (execJge wn target m1 m2 s) := by
  unfold execJge
  refine Good.next ?_
  repeat' first
    | with_reducible assumption
    | with_reducible exact Keeps.refl _ _
    | with_reducible apply State.kbranch_keeps

theorem execJle_keeps {wn : Fin 4} {target : BitVec 13} {m1 m2 : Move} {s : State} (kH : Keeps kM kR s) :
    Good kM kR (execJle wn target m1 m2 s) := by
  unfold execJle
  refine Good.next ?_
  repeat' first
    | with_reducible assumption
    | with_reducible exact Keeps.refl _ _
    | with_reducible apply State.kbranch_keeps

theorem execJgt_keeps {wn : Fin 4} {target : BitVec 13} {m1 m2 : Move} {s : State} (kH : Keeps kM kR s) :
    Good kM kR (execJgt wn target m1 m2 s) := by
  unfold execJgt
  refine Good.next ?_
  repeat' first
    | with_reducible assumption
    | with_reducible exact Keeps.refl _ _
    | with_reducible apply State.kbranch_keeps

theorem execCntb_keeps {pt : Fin 8} {target : BitVec 13} {m1 m2 : Move} {s : State} (kH : Keeps kM kR s) :
    Good kM kR (execCntb pt target m1 m2 s) := by
  unfold execCntb
  refine Good.next ?_
  repeat' first
    | with_reducible assumption
    | with_reducible exact Keeps.refl _ _
    | with_reducible apply getD_keeps
    | with_reducible apply State.kalone_keeps

theorem execRpn_keeps {count : BitVec 12} {m1 m2 : Move} {s : State} (kH : Keeps kM kR s) :
    Good kM kR (execRpn count m1 m2 s) := by
  unfold execRpn
  refine Good.next ?_
  repeat' first
    | with_reducible assumption
    | with_reducible exact Keeps.refl _ _
    | with_reducible apply State.kalone_keeps

theorem execRpni_keeps {pt : Fin 8} {m1 m2 : Move} {s : State} (kH : Keeps kM kR s) :
    Good kM kR (execRpni pt m1 m2 s) := by
  unfold execRpni
  refine Good.next ?_
  repeat' first
    | with_reducible assumption
    | with_reducible exact Keeps.refl _ _
    | with_reducible apply getD_keeps
    | with_reducible apply State.kalone_keeps

theorem execJsr_keeps {target : BitVec 13} {m1 m2 : Move} {s : State} (kH : Keeps kM kR s) :
    Good kM kR (execJsr target m1 m2 s) := by
  unfold execJsr
  refine Good.next ?_
  repeat' first
    | with_reducible assumption
    | with_reducible exact Keeps.refl _ _
    | with_reducible apply State.kalone_keeps

theorem execRet_keeps {m1 m2 : Move} {s : State} (kH : Keeps kM kR s) :
    Good kM kR (execRet m1 m2 s) := by
  unfold execRet
  refine Good.next ?_
  repeat' first
    | with_reducible assumption
    | with_reducible exact Keeps.refl _ _
    | with_reducible apply State.kalone_keeps

theorem execDoneOp_keeps {m1 m2 : Move} {s : State} (kH : Keeps kM kR s) :
    Good kM kR (execDoneOp m1 m2 s) := by
  unfold execDoneOp
  refine Good.next ?_
  repeat' first
    | with_reducible assumption
    | with_reducible exact Keeps.refl _ _
    | with_reducible apply State.callEnd_keeps
    | with_reducible apply State.callIllegal_keeps
    | with_reducible apply State.kinstr_keeps
    | with_reducible refine ite_keeps ?_ ?_
    | with_reducible refine ite_cmdKeeps ?_ ?_
    | split
    | fail_if_no_progress with_reducible refine Keeps.upd ?_ rfl rfl rfl

end Sys2Proof.Machine
end

