-- ==== Sys2Proof/Laws/KeepsKernelMgmt.lean ====
section
/-! SUPPORT. What the operations of Machine/KernelMgmt.lean keep. -/

namespace Sys2Proof.Machine

variable {kM : Bool} {kR : State}

theorem State.setKernel_keeps {s : State} {k : KernelSt} (kH : Keeps kM kR s) :
    Keeps kM kR (State.setKernel s k) := by
  unfold State.setKernel
  repeat' first
    | with_reducible assumption
    | with_reducible exact Keeps.refl _ _
    | fail_if_no_progress with_reducible refine Keeps.upd ?_ rfl rfl rfl

theorem cmdKernelStage_keeps  : CmdKeeps kM (cmdKernelStage) := by
  unfold cmdKernelStage
  refine ⟨fun _ _ kR kS kH => ?_, fun _ _ kR kS kH => ?_, fun _ kR kS kH => ?_⟩
  all_goals try dsimp -zeta only [ans]
  repeat' first
    | with_reducible assumption
    | with_reducible exact Keeps.refl _ _
    | with_reducible apply State.setKernel_keeps
    | with_reducible refine ite_keeps ?_ ?_
    | intro _
    | split
    | (extract_lets +onlyGivenNames kX; have kh : Keeps kM kR kX := ?_; (on_goal 1 => clear_value kX); (on_goal 2 => subst kX))
    | (extract_lets +onlyGivenNames kX; first | ((first | have kg : SafeSt := kX | have kg : SlabSt := kX | have kg : TimeSt := kX); clear kg; subst kX) | clear_value kX)
    | fail_if_no_progress with_reducible refine Keeps.upd ?_ rfl rfl rfl

theorem execKernelStage_keeps {k : Kcp} {s : State} (kH : Keeps kM kR s) :
    Good kM kR (execKernelStage k s) := by
  unfold execKernelStage
  refine Good.next ?_
  repeat' first
    | with_reducible assumption
    | with_reducible exact Keeps.refl _ _
    | with_reducible apply cmdKernelStage_keeps
    | with_reducible apply kcpExec_keeps

theorem cmdKernelWrite_keeps  : CmdKeeps kM (cmdKernelWrite) := by
  unfold cmdKernelWrite
  refine ⟨fun _ _ kR kS kH => ?_, fun _ _ kR kS kH => ?_, fun _ kR kS kH => ?_⟩
  all_goals try dsimp -zeta only [ans]
  repeat' first
    | with_reducible assumption
    | with_reducible exact Keeps.refl _ _
    | with_reducible apply State.setKernel_keeps
    | with_reducible refine ite_keeps ?_ ?_
    | intro _
    | split

theorem execKernelWrite_keeps {k : Kcp} {s : State} (kH : Keeps kM kR s) :
    Good kM kR (execKernelWrite k s) := by
  unfold execKernelWrite
  refine Good.next ?_
  repeat' first
    | with_reducible assumption
    | with_reducible exact Keeps.refl _ _
    | with_reducible apply cmdKernelWrite_keeps
    | with_reducible apply kcpExec_keeps

theorem execKernelImageComplete_keeps {s : State} (kH : Keeps kM kR s) :
    Good kM kR (execKernelImageComplete s) := by
  unfold execKernelImageComplete
  refine Good.next ?_
  repeat' first
    | with_reducible assumption
    | with_reducible exact Keeps.refl _ _
    | with_reducible apply State.post_keeps
    | with_reducible apply State.setKernel_keeps
    | with_reducible refine ite_keeps ?_ ?_
    | with_reducible refine ite_cmdKeeps ?_ ?_
    | split
    | (extract_lets +onlyGivenNames kX; have kh : Keeps kM kR kX := ?_; (on_goal 1 => clear_value kX); (on_goal 2 => subst kX))
    | (extract_lets +onlyGivenNames kX; first | ((first | have kg : SafeSt := kX | have kg : SlabSt := kX | have kg : TimeSt := kX); clear kg; subst kX) | clear_value kX)
    | fail_if_no_progress with_reducible refine Keeps.upd ?_ rfl rfl rfl

theorem State.closeBricks_keeps {s : State} {bricks : List Nat} {closed : Bool} (kH : Keeps kM kR s) :
    Keeps kM kR (State.closeBricks s bricks closed) := by
  unfold State.closeBricks
  repeat' first
    | with_reducible assumption
    | with_reducible exact Keeps.refl _ _
    | with_reducible apply forEach_keeps
    | with_reducible apply State.set_keeps
    | intro _
    | split

theorem State.kernelPend_keeps {s : State} {bricks : List Nat} {image : Option KImage} {block : Nat} (kH : Keeps kM kR s) :
    Keeps kM kR (State.kernelPend s bricks image block) := by
  unfold State.kernelPend
  repeat' first
    | with_reducible assumption
    | with_reducible exact Keeps.refl _ _
    | with_reducible apply State.closeBricks_keeps
    | with_reducible apply State.setKernel_keeps

theorem State.kernelEmpty_keeps {s : State} {bricks : List Nat} (kH : Keeps kM kR s) :
    Keeps kM kR (State.kernelEmpty s bricks) := by
  unfold State.kernelEmpty
  repeat' first
    | with_reducible assumption
    | with_reducible exact Keeps.refl _ _
    | with_reducible apply State.post_keeps
    | with_reducible apply State.setKernel_keeps
    | with_reducible refine ite_keeps ?_ ?_

theorem cmdKernelLoad_keeps  : CmdKeeps kM (cmdKernelLoad) := by
  unfold cmdKernelLoad
  refine ⟨fun _ _ kR kS kH => ?_, fun _ _ kR kS kH => ?_, fun _ kR kS kH => ?_⟩
  all_goals try dsimp -zeta only [ans]
  repeat' first
    | with_reducible assumption
    | with_reducible exact Keeps.refl _ _
    | with_reducible apply State.kernelEmpty_keeps
    | with_reducible apply State.kernelPend_keeps

theorem execKernelLoad_keeps {k : Kcp} {s : State} (kH : Keeps kM kR s) :
    Good kM kR (execKernelLoad k s) := by
  unfold execKernelLoad
  refine Good.next ?_
  repeat' first
    | with_reducible assumption
    | with_reducible exact Keeps.refl _ _
    | with_reducible apply cmdKernelLoad_keeps
    | with_reducible apply kcpExec_keeps

theorem cmdKernelRestoreStd_keeps  : CmdKeeps kM (cmdKernelRestoreStd) := by
  unfold cmdKernelRestoreStd
  refine ⟨fun _ _ kR kS kH => ?_, fun _ _ kR kS kH => ?_, fun _ kR kS kH => ?_⟩
  all_goals try dsimp -zeta only [ans]
  repeat' first
    | with_reducible assumption
    | with_reducible exact Keeps.refl _ _
    | with_reducible apply State.kernelEmpty_keeps
    | with_reducible apply State.kernelPend_keeps

theorem execKernelRestoreStd_keeps {k : Kcp} {s : State} (kH : Keeps kM kR s) :
    Good kM kR (execKernelRestoreStd k s) := by
  unfold execKernelRestoreStd
  refine Good.next ?_
  repeat' first
    | with_reducible assumption
    | with_reducible exact Keeps.refl _ _
    | with_reducible apply cmdKernelRestoreStd_keeps
    | with_reducible apply kcpExec_keeps

theorem State.kernelTick_keeps {s : State} (kH : Keeps kM kR s) :
    Keeps kM kR (State.kernelTick s) := by
  unfold State.kernelTick
  repeat' first
    | with_reducible assumption
    | with_reducible exact Keeps.refl _ _
    | with_reducible apply State.setKernel_keeps

theorem State.brickKernel_keeps {s : State} {b : Nat} {image : Option KImage} (kH : Keeps kM kR s) :
    Keeps kM kR (State.brickKernel s b image) := by
  unfold State.brickKernel
  repeat' first
    | with_reducible assumption
    | with_reducible exact Keeps.refl _ _
    | with_reducible apply State.put_keeps
    | with_reducible apply State.setKernel_keeps
    | with_reducible apply State.set_keeps
    | with_reducible apply State.wr_keeps
    | split
    | (extract_lets +onlyGivenNames kX; have kh : Keeps kM kR kX := ?_; (on_goal 1 => clear_value kX); (on_goal 2 => subst kX))
    | (extract_lets +onlyGivenNames kX; first | ((first | have kg : SafeSt := kX | have kg : SlabSt := kX | have kg : TimeSt := kX); clear kg; subst kX) | clear_value kX)

theorem execKernelBrickLoad_keeps {brick : Nat} {s : State} (kH : Keeps kM kR s) :
    Good kM kR (execKernelBrickLoad brick s) := by
  unfold execKernelBrickLoad
  refine Good.next ?_
  repeat' first
    | with_reducible assumption
    | with_reducible exact Keeps.refl _ _
    | with_reducible apply State.brickKernel_keeps
    | with_reducible apply State.post_keeps
    | with_reducible apply State.setKernel_keeps
    | with_reducible refine ite_keeps ?_ ?_
    | with_reducible refine ite_cmdKeeps ?_ ?_
    | intro _
    | split

theorem cmdKernelCancel_keeps  : CmdKeeps kM (cmdKernelCancel) := by
  unfold cmdKernelCancel
  refine ⟨fun _ _ kR kS kH => ?_, fun _ _ kR kS kH => ?_, fun _ kR kS kH => ?_⟩
  all_goals try dsimp -zeta only [ans]
  repeat' first
    | with_reducible assumption
    | with_reducible exact Keeps.refl _ _
    | with_reducible apply forEach_keeps
    | with_reducible apply State.closeBricks_keeps
    | with_reducible apply State.post_keeps
    | with_reducible apply State.setKernel_keeps
    | with_reducible refine ite_keeps ?_ ?_
    | intro _

theorem execKernelCancel_keeps {k : Kcp} {s : State} (kH : Keeps kM kR s) :
    Good kM kR (execKernelCancel k s) := by
  unfold execKernelCancel
  refine Good.next ?_
  repeat' first
    | with_reducible assumption
    | with_reducible exact Keeps.refl _ _
    | with_reducible apply cmdKernelCancel_keeps
    | with_reducible apply kcpExec_keeps

theorem cmdKernelGetInfo_keeps  : CmdKeeps kM (cmdKernelGetInfo) := by
  unfold cmdKernelGetInfo
  refine ⟨fun _ _ kR kS kH => ?_, fun _ _ kR kS kH => ?_, fun _ kR kS kH => ?_⟩
  all_goals try dsimp -zeta only [ans]
  repeat' first
    | with_reducible assumption

theorem execKernelGetInfo_keeps {k : Kcp} {s : State} (kH : Keeps kM kR s) :
    Good kM kR (execKernelGetInfo k s) := by
  unfold execKernelGetInfo
  refine Good.next ?_
  repeat' first
    | with_reducible assumption
    | with_reducible exact Keeps.refl _ _
    | with_reducible apply cmdKernelGetInfo_keeps
    | with_reducible apply kcpExec_keeps

end Sys2Proof.Machine
end

