-- ==== Sys2Proof/Laws/KeepsBank.lean ====
section
/-! SUPPORT. What the operations of Machine/Bank.lean keep. -/

namespace Sys2Proof.Machine

variable {kM : Bool} {kR : State}

theorem State.bankDone_keeps {s : State} {n result detail : Nat} (kH : Keeps kM kR s) :
    Keeps kM kR (State.bankDone s n result detail) := by
  unfold State.bankDone
  repeat' first
    | with_reducible assumption
    | with_reducible exact Keeps.refl _ _
    | with_reducible apply State.post_keeps

theorem State.freeVc1_keeps {s : State} {l : Load} (kH : Keeps kM kR s) :
    Keeps kM kR (State.freeVc1 s l) := by
  unfold State.freeVc1
  repeat' first
    | with_reducible assumption
    | with_reducible exact Keeps.refl _ _
    | with_reducible refine ite_keeps ?_ ?_
    | fail_if_no_progress with_reducible refine Keeps.upd ?_ rfl rfl rfl

theorem State.loadArrived_keeps {s : State} {n : Nat} (kH : Keeps kM kR s) :
    Keeps kM kR (State.loadArrived s n) := by
  unfold State.loadArrived
  repeat' first
    | with_reducible assumption
    | with_reducible exact Keeps.refl _ _
    | with_reducible apply State.setBank_keeps
    | with_reducible refine ite_keeps ?_ ?_

theorem State.abandonLoad_keeps {s : State} {n : Nat} (kH : Keeps kM kR s) :
    Keeps kM kR (State.abandonLoad s n) := by
  unfold State.abandonLoad
  repeat' first
    | with_reducible assumption
    | with_reducible exact Keeps.refl _ _
    | with_reducible apply State.bankDone_keeps
    | with_reducible apply State.freeVc1_keeps
    | with_reducible apply State.setBank_keeps
    | with_reducible refine ite_keeps ?_ ?_
    | split

theorem cmdBankLoad_keeps  : CmdKeeps kM (cmdBankLoad) := by
  unfold cmdBankLoad
  refine ⟨fun _ _ kR kS kH => ?_, fun _ _ kR kS kH => ?_, fun _ kR kS kH => ?_⟩
  all_goals try dsimp -zeta only [ans]
  repeat' first
    | with_reducible assumption
    | with_reducible exact Keeps.refl _ _
    | with_reducible apply State.setBank_keeps
    | with_reducible refine ite_keeps ?_ ?_
    | intro _
    | split
    | (extract_lets +onlyGivenNames kX; have kh : Keeps kM kR kX := ?_; (on_goal 1 => clear_value kX); (on_goal 2 => subst kX))
    | (extract_lets +onlyGivenNames kX; first | ((first | have kg : SafeSt := kX | have kg : SlabSt := kX | have kg : TimeSt := kX); clear kg; subst kX) | clear_value kX)
    | fail_if_no_progress with_reducible refine Keeps.upd ?_ rfl rfl rfl

theorem execBankLoad_keeps {k : Kcp} {s : State} (kH : Keeps kM kR s) :
    Good kM kR (execBankLoad k s) := by
  unfold execBankLoad
  refine Good.next ?_
  repeat' first
    | with_reducible assumption
    | with_reducible exact Keeps.refl _ _
    | with_reducible apply cmdBankLoad_keeps
    | with_reducible apply kcpExec_keeps

theorem cmdBankWrite_keeps  : CmdKeeps kM (cmdBankWrite) := by
  unfold cmdBankWrite
  refine ⟨fun _ _ kR kS kH => ?_, fun _ _ kR kS kH => ?_, fun _ kR kS kH => ?_⟩
  all_goals try dsimp -zeta only [ans]
  repeat' first
    | with_reducible assumption
    | with_reducible exact Keeps.refl _ _
    | with_reducible apply State.loadArrived_keeps
    | with_reducible apply State.setBank_keeps
    | with_reducible refine ite_keeps ?_ ?_
    | intro _
    | split
    | (extract_lets +onlyGivenNames kX; have kh : Keeps kM kR kX := ?_; (on_goal 1 => clear_value kX); (on_goal 2 => subst kX))
    | (extract_lets +onlyGivenNames kX; first | ((first | have kg : SafeSt := kX | have kg : SlabSt := kX | have kg : TimeSt := kX); clear kg; subst kX) | clear_value kX)

theorem execBankWrite_keeps {k : Kcp} {s : State} (kH : Keeps kM kR s) :
    Good kM kR (execBankWrite k s) := by
  unfold execBankWrite
  refine Good.next ?_
  repeat' first
    | with_reducible assumption
    | with_reducible exact Keeps.refl _ _
    | with_reducible apply cmdBankWrite_keeps
    | with_reducible apply kcpExec_keeps

theorem execBankImageComplete_keeps {bank : Nat} {s : State} (kH : Keeps kM kR s) :
    Good kM kR (execBankImageComplete bank s) := by
  unfold execBankImageComplete
  refine Good.next ?_
  repeat' first
    | with_reducible assumption
    | with_reducible exact Keeps.refl _ _
    | with_reducible apply State.bankDone_keeps
    | with_reducible apply State.freeVc1_keeps
    | with_reducible apply State.setBank_keeps
    | with_reducible refine ite_keeps ?_ ?_
    | with_reducible refine ite_cmdKeeps ?_ ?_
    | split
    | (extract_lets +onlyGivenNames kX; have kh : Keeps kM kR kX := ?_; (on_goal 1 => clear_value kX); (on_goal 2 => subst kX))
    | (extract_lets +onlyGivenNames kX; first | ((first | have kg : SafeSt := kX | have kg : SlabSt := kX | have kg : TimeSt := kX); clear kg; subst kX) | clear_value kX)
    | fail_if_no_progress with_reducible refine Keeps.upd ?_ rfl rfl rfl

theorem State.stopBound_keeps {s : State} {vs : List Voice} (kH : Keeps kM kR s) :
    Keeps kM kR (State.stopBound s vs) := by
  unfold State.stopBound
  repeat' first
    | with_reducible assumption
    | with_reducible exact Keeps.refl _ _
    | with_reducible apply forEach_keeps
    | with_reducible apply State.record_keeps
    | with_reducible apply State.stopJob_keeps
    | intro _
    | split

theorem State.banksTick_keeps {s : State} (kH : Keeps kM kR s) :
    Keeps kM kR (State.banksTick s) := by
  unfold State.banksTick
  repeat' first
    | with_reducible assumption
    | with_reducible exact Keeps.refl _ _
    | with_reducible apply forEach_keeps
    | with_reducible apply State.setBank_keeps
    | with_reducible apply State.stopBound_keeps
    | with_reducible refine ite_keeps ?_ ?_
    | intro _
    | split

theorem cmdBankUnload_keeps  : CmdKeeps kM (cmdBankUnload) := by
  unfold cmdBankUnload
  refine ⟨fun _ _ kR kS kH => ?_, fun _ _ kR kS kH => ?_, fun _ kR kS kH => ?_⟩
  all_goals try dsimp -zeta only [ans]
  repeat' first
    | with_reducible assumption
    | with_reducible exact Keeps.refl _ _
    | with_reducible apply State.abandonLoad_keeps
    | with_reducible apply State.setBank_keeps
    | with_reducible apply State.stopBound_keeps
    | with_reducible refine ite_keeps ?_ ?_
    | intro _
    | split
    | (extract_lets +onlyGivenNames kX; have kh : Keeps kM kR kX := ?_; (on_goal 1 => clear_value kX); (on_goal 2 => subst kX))
    | (extract_lets +onlyGivenNames kX; first | ((first | have kg : SafeSt := kX | have kg : SlabSt := kX | have kg : TimeSt := kX); clear kg; subst kX) | clear_value kX)

theorem execBankUnload_keeps {k : Kcp} {s : State} (kH : Keeps kM kR s) :
    Good kM kR (execBankUnload k s) := by
  unfold execBankUnload
  refine Good.next ?_
  repeat' first
    | with_reducible assumption
    | with_reducible exact Keeps.refl _ _
    | with_reducible apply cmdBankUnload_keeps
    | with_reducible apply kcpExec_keeps

theorem cmdBankVerify_keeps  : CmdKeeps kM (cmdBankVerify) := by
  unfold cmdBankVerify
  refine ⟨fun _ _ kR kS kH => ?_, fun _ _ kR kS kH => ?_, fun _ kR kS kH => ?_⟩
  all_goals try dsimp -zeta only [ans]
  repeat' first
    | with_reducible assumption
    | with_reducible exact Keeps.refl _ _
    | with_reducible apply State.setBank_keeps

theorem execBankVerify_keeps {k : Kcp} {s : State} (kH : Keeps kM kR s) :
    Good kM kR (execBankVerify k s) := by
  unfold execBankVerify
  refine Good.next ?_
  repeat' first
    | with_reducible assumption
    | with_reducible exact Keeps.refl _ _
    | with_reducible apply cmdBankVerify_keeps
    | with_reducible apply kcpExec_keeps

theorem execBankVerifyDone_keeps {bank : Nat} {s : State} (kH : Keeps kM kR s) :
    Good kM kR (execBankVerifyDone bank s) := by
  unfold execBankVerifyDone
  refine Good.next ?_
  repeat' first
    | with_reducible assumption
    | with_reducible exact Keeps.refl _ _
    | with_reducible apply forEach_keeps
    | with_reducible apply State.bankDone_keeps
    | with_reducible apply State.setBank_keeps
    | with_reducible apply State.tileBad_keeps
    | with_reducible refine ite_keeps ?_ ?_
    | with_reducible refine ite_cmdKeeps ?_ ?_
    | intro _
    | split
    | (extract_lets +onlyGivenNames kX; have kh : Keeps kM kR kX := ?_; (on_goal 1 => clear_value kX); (on_goal 2 => subst kX))
    | (extract_lets +onlyGivenNames kX; first | ((first | have kg : SafeSt := kX | have kg : SlabSt := kX | have kg : TimeSt := kX); clear kg; subst kX) | clear_value kX)

theorem cmdBankGetInfo_keeps  : CmdKeeps kM (cmdBankGetInfo) := by
  unfold cmdBankGetInfo
  refine ⟨fun _ _ kR kS kH => ?_, fun _ _ kR kS kH => ?_, fun _ kR kS kH => ?_⟩
  all_goals try dsimp -zeta only [ans]
  repeat' first
    | with_reducible assumption

theorem execBankGetInfo_keeps {k : Kcp} {s : State} (kH : Keeps kM kR s) :
    Good kM kR (execBankGetInfo k s) := by
  unfold execBankGetInfo
  refine Good.next ?_
  repeat' first
    | with_reducible assumption
    | with_reducible exact Keeps.refl _ _
    | with_reducible apply cmdBankGetInfo_keeps
    | with_reducible apply kcpExec_keeps

theorem cmdBankList_keeps  : CmdKeeps kM (cmdBankList) := by
  unfold cmdBankList
  refine ⟨fun _ _ kR kS kH => ?_, fun _ _ kR kS kH => ?_, fun _ kR kS kH => ?_⟩
  all_goals try dsimp -zeta only [ans]
  repeat' first
    | with_reducible assumption

theorem execBankList_keeps {k : Kcp} {s : State} (kH : Keeps kM kR s) :
    Good kM kR (execBankList k s) := by
  unfold execBankList
  refine Good.next ?_
  repeat' first
    | with_reducible assumption
    | with_reducible exact Keeps.refl _ _
    | with_reducible apply cmdBankList_keeps
    | with_reducible apply kcpExec_keeps

theorem execTileCrcCheckDone_keeps {bank : Nat} {tile : Nat} {s : State} (kH : Keeps kM kR s) :
    Good kM kR (execTileCrcCheckDone bank tile s) := by
  unfold execTileCrcCheckDone
  refine Good.next ?_
  repeat' first
    | with_reducible assumption
    | with_reducible exact Keeps.refl _ _
    | with_reducible apply forEach_keeps
    | with_reducible apply State.checkTile_keeps
    | with_reducible refine ite_keeps ?_ ?_
    | with_reducible refine ite_cmdKeeps ?_ ?_
    | intro _

theorem State.stopTile_keeps {s : State} {bank gen tile : Nat} (kH : Keeps kM kR s) :
    Keeps kM kR (State.stopTile s bank gen tile) := by
  unfold State.stopTile
  repeat' first
    | with_reducible assumption
    | with_reducible exact Keeps.refl _ _
    | with_reducible apply forEach_keeps
    | with_reducible apply State.editVoice_keeps
    | with_reducible apply State.record_keeps
    | with_reducible apply State.setVoice_keeps
    | with_reducible apply State.tileMarkBad_keeps
    | with_reducible refine ite_keeps ?_ ?_
    | intro _

theorem State.pageError_keeps {s : State} {bank gen page : Nat} {uncorr : Bool} (kH : Keeps kM kR s) :
    Keeps kM kR (State.pageError s bank gen page uncorr) := by
  unfold State.pageError
  repeat' first
    | with_reducible assumption
    | with_reducible exact Keeps.refl _ _
    | with_reducible apply forEach_keeps
    | with_reducible apply State.mapImage_keeps
    | with_reducible apply State.stopTile_keeps
    | with_reducible refine ite_keeps ?_ ?_
    | intro _
    | split

theorem State.patrolled_keeps {s : State} {page : Nat} (kH : Keeps kM kR s) :
    Keeps kM kR (State.patrolled s page) := by
  unfold State.patrolled
  repeat' first
    | with_reducible assumption
    | with_reducible exact Keeps.refl _ _
    | with_reducible apply State.put_keeps
    | with_reducible refine ite_keeps ?_ ?_
    | (extract_lets +onlyGivenNames kX; have kh : Keeps kM kR kX := ?_; (on_goal 1 => clear_value kX); (on_goal 2 => subst kX))
    | (extract_lets +onlyGivenNames kX; first | ((first | have kg : SafeSt := kX | have kg : SlabSt := kX | have kg : TimeSt := kX); clear kg; subst kX) | clear_value kX)
    | fail_if_no_progress with_reducible refine Keeps.upd ?_ rfl rfl rfl

theorem execBankPatrolRead_keeps {page : Nat} {error : EccError} {s : State} (kH : Keeps kM kR s) :
    Good kM kR (execBankPatrolRead page error s) := by
  unfold execBankPatrolRead
  refine Good.next ?_
  repeat' first
    | with_reducible assumption
    | with_reducible exact Keeps.refl _ _
    | with_reducible apply State.bumpSat_keeps
    | with_reducible apply State.draw_snd
    | with_reducible apply State.pageError_keeps
    | with_reducible apply State.patrolled_keeps
    | with_reducible apply State.put_keeps
    | with_reducible apply State.raise_keeps
    | with_reducible apply State.setZone_keeps
    | with_reducible apply State.set_keeps
    | with_reducible refine State.draw_keeps (by with_reducible assumption) ?_
    | with_reducible refine ite_keeps ?_ ?_
    | with_reducible refine ite_cmdKeeps ?_ ?_
    | split
    | (extract_lets +onlyGivenNames kX; have kh : Keeps kM kR kX := ?_; (on_goal 1 => clear_value kX); (on_goal 2 => subst kX))
    | (extract_lets +onlyGivenNames kX; first | ((first | have kg : SafeSt := kX | have kg : SlabSt := kX | have kg : TimeSt := kX); clear kg; subst kX) | clear_value kX)
    | fail_if_no_progress with_reducible refine Keeps.upd ?_ rfl rfl rfl

theorem execBankRetrain_keeps {ok : Bool} {s : State} (kH : Keeps kM kR s) :
    Good kM kR (execBankRetrain ok s) := by
  unfold execBankRetrain
  refine Good.next ?_
  repeat' first
    | with_reducible assumption
    | with_reducible exact Keeps.refl _ _
    | with_reducible apply forEach_keeps
    | with_reducible apply State.abandonLoad_keeps
    | with_reducible apply State.bumpSat_keeps
    | with_reducible refine ite_keeps ?_ ?_
    | with_reducible refine ite_cmdKeeps ?_ ?_
    | intro _
    | (extract_lets +onlyGivenNames kX; have kh : Keeps kM kR kX := ?_; (on_goal 1 => clear_value kX); (on_goal 2 => subst kX))
    | (extract_lets +onlyGivenNames kX; first | ((first | have kg : SafeSt := kX | have kg : SlabSt := kX | have kg : TimeSt := kX); clear kg; subst kX) | clear_value kX)
    | fail_if_no_progress with_reducible refine Keeps.upd ?_ rfl rfl rfl

theorem execBankAvailable_keeps {s : State} (kH : Keeps kM kR s) :
    Good kM kR (execBankAvailable s) := by
  unfold execBankAvailable
  refine Good.next ?_
  repeat' first
    | with_reducible assumption
    | with_reducible exact Keeps.refl _ _
    | with_reducible apply forEach_keeps
    | with_reducible apply State.post_keeps
    | with_reducible apply State.put_keeps
    | with_reducible apply State.set_keeps
    | with_reducible apply State.unraise_keeps
    | with_reducible refine ite_keeps ?_ ?_
    | with_reducible refine ite_cmdKeeps ?_ ?_
    | intro _
    | (extract_lets +onlyGivenNames kX; have kh : Keeps kM kR kX := ?_; (on_goal 1 => clear_value kX); (on_goal 2 => subst kX))
    | (extract_lets +onlyGivenNames kX; first | ((first | have kg : SafeSt := kX | have kg : SlabSt := kX | have kg : TimeSt := kX); clear kg; subst kX) | clear_value kX)
    | fail_if_no_progress with_reducible refine Keeps.upd ?_ rfl rfl rfl

end Sys2Proof.Machine
end

