-- ==== Sys2Proof/Laws/KeepsScript.lean ====
section
/-! SUPPORT. What the operations of Machine/Script.lean keep. -/

namespace Sys2Proof.Machine

variable {kM : Bool} {kR : State}

theorem State.takeTile_fst {s : State} {src record : Nat} {c : Cursor} {prev : Option TilePlay} {at_ : Nat} {w ref : W32} {osc : Nat → Int} {hi : Nat} (kH : Keeps kM kR s) :
    Keeps kM kR (State.takeTile s src record c prev at_ w ref osc hi).1 := by
  unfold State.takeTile
  repeat' first
    | with_reducible assumption
    | with_reducible exact Keeps.refl _ _
    | with_reducible apply getD_keeps
    | with_reducible apply State.beforeTile_keeps
    | with_reducible apply State.bind_keeps
    | with_reducible apply State.record_keeps
    | with_reducible apply State.setVoice_keeps
    | with_reducible refine ite_keeps ?_ ?_
    | intro _
    | split
    | (extract_lets +onlyGivenNames kX; have kh : Keeps kM kR kX := ?_; (on_goal 1 => clear_value kX); (on_goal 2 => subst kX))
    | (extract_lets +onlyGivenNames kX; have kf : ∀ t, Keeps kM kR t → Keeps kM kR (kX t) := ?_; (on_goal 1 => clear_value kX); (on_goal 2 => subst kX))
    | with_reducible apply kf
    | (extract_lets +onlyGivenNames kX; first | ((first | have kg : SafeSt := kX | have kg : SlabSt := kX | have kg : TimeSt := kX); clear kg; subst kX) | clear_value kX)

theorem State.takeTile_keeps {s : State} {src record : Nat} {c : Cursor} {prev : Option TilePlay} {at_ : Nat} {w ref : W32} {osc : Nat → Int} {hi : Nat} {kt : State} {kx : Option TilePlay × Option TilePlay}
    (ke : State.takeTile s src record c prev at_ w ref osc hi = (kt, kx)) (kH : Keeps kM kR s) : Keeps kM kR kt := by
  have h := State.takeTile_fst (s := s) (src := src) (record := record) (c := c) (prev := prev) (at_ := at_) (w := w) (ref := ref) (osc := osc) (hi := hi) kH
  rwa [ke] at h

theorem State.setSeq_keeps {s : State} {v : Voice} {q : Seq} (kH : Keeps kM kR s) :
    Keeps kM kR (State.setSeq s v q) := by
  unfold State.setSeq
  repeat' first
    | with_reducible assumption
    | with_reducible exact Keeps.refl _ _
    | with_reducible apply State.setVoice_keeps

theorem State.scriptFault_keeps {s : State} {v : Voice} {index : Nat} {w : W32} (kH : Keeps kM kR s) :
    Keeps kM kR (State.scriptFault s v index w) := by
  unfold State.scriptFault
  repeat' first
    | with_reducible assumption
    | with_reducible exact Keeps.refl _ _
    | with_reducible apply getD_keeps
    | with_reducible apply State.post_keeps

theorem State.seqCut_keeps {s : State} {v : Voice} {at_ : Nat} {e : Edit} (kH : Keeps kM kR s) :
    Keeps kM kR (State.seqCut s v at_ e) := by
  unfold State.seqCut
  repeat' first
    | with_reducible assumption
    | with_reducible exact Keeps.refl _ _
    | with_reducible apply getD_keeps
    | with_reducible apply State.bind_keeps
    | with_reducible apply State.setSeq_keeps

theorem State.seqEnd_keeps {s : State} {v : Voice} {at_ : Nat} (kH : Keeps kM kR s) :
    Keeps kM kR (State.seqEnd s v at_) := by
  unfold State.seqEnd
  repeat' first
    | with_reducible assumption
    | with_reducible exact Keeps.refl _ _
    | with_reducible apply State.release_keeps
    | with_reducible apply State.seqCut_keeps
    | with_reducible apply State.setVoice_keeps
    | intro _
    | split

theorem State.seqTimed_keeps {s : State} {src record at_ : Nat} {ws : List W32} {cur : Cursor} {next : Option TilePlay} (kH : Keeps kM kR s) :
    Keeps kM kR (State.seqTimed s src record at_ ws cur next) := by
  unfold State.seqTimed
  repeat' first
    | with_reducible assumption
    | with_reducible exact Keeps.refl _ _
    | with_reducible apply getD_keeps
    | with_reducible apply State.record_keeps
    | with_reducible apply State.seqEnd_keeps
    | with_reducible apply State.setSeq_keeps
    | intro _
    | split
    | (extract_lets +onlyGivenNames kX; have kh : Keeps kM kR kX := ?_; (on_goal 1 => clear_value kX); (on_goal 2 => subst kX))
    | (extract_lets +onlyGivenNames kX; first | ((first | have kg : SafeSt := kX | have kg : SlabSt := kX | have kg : TimeSt := kX); clear kg; subst kX) | clear_value kX)

theorem State.startCompanion_keeps {s : State} {w : Voice} {at_ dur : Nat} (kH : Keeps kM kR s) :
    Keeps kM kR (State.startCompanion s w at_ dur) := by
  unfold State.startCompanion
  repeat' first
    | with_reducible assumption
    | with_reducible exact Keeps.refl _ _
    | with_reducible apply State.release_keeps
    | with_reducible apply State.setVoice_keeps

theorem State.seqTone_keeps {s : State} {record at_ : Nat} {w : W32} (kH : Keeps kM kR s) :
    Keeps kM kR (State.seqTone s record at_ w) := by
  unfold State.seqTone
  repeat' first
    | with_reducible assumption
    | with_reducible exact Keeps.refl _ _
    | with_reducible apply State.record_keeps
    | with_reducible apply State.setVoice_keeps
    | with_reducible apply State.startCompanion_keeps
    | with_reducible apply State.toneEdit_keeps
    | with_reducible refine ite_keeps ?_ ?_
    | intro _
    | split

theorem State.seqAct_keeps {s : State} {src record at_ : Nat} {ws : List W32} (kH : Keeps kM kR s) :
    Keeps kM kR (State.seqAct s src record at_ ws) := by
  unfold State.seqAct
  repeat' first
    | with_reducible assumption
    | with_reducible exact Keeps.refl _ _
    | with_reducible apply State.record_keeps
    | with_reducible apply State.seqTone_keeps
    | with_reducible apply State.setVoice_keeps
    | with_reducible refine ite_keeps ?_ ?_
    | split

theorem ite_pair_keeps {β : Type} {c : Prop} [Decidable c] {s t : State} {x : State × β} {y z : β}
    (e : (if c then x else (s, y)) = (t, z)) (hx : Keeps kM kR x.1) (kH : Keeps kM kR s) : Keeps kM kR t := by
  split at e
  · rwa [e] at hx
  · cases e
    exact kH

theorem State.decideAt_keeps {s : State} {v : Voice} {at_ : Nat} {osc : Nat → Int} {hi : Nat} (kH : Keeps kM kR s) :
    Keeps kM kR (s.decideAt v at_ osc hi) := by
  unfold State.decideAt
  extract_lets q due
  split
  extract_lets ops' ws tile
  split
  have h : Keeps kM kR _ := ite_pair_keeps (by with_reducible assumption) (State.takeTile_fst kH) kH
  split
  · exact h
  · exact State.setSeq_keeps h

theorem State.boundary_keeps {s : State} {v : Voice} {at_ : Nat} (kH : Keeps kM kR s) :
    Keeps kM kR (State.boundary s v at_) := by
  unfold State.boundary
  repeat' first
    | with_reducible assumption
    | with_reducible exact Keeps.refl _ _
    | with_reducible apply forEach_keeps
    | with_reducible apply getD_keeps
    | with_reducible apply State.record_keeps
    | with_reducible apply State.scriptFault_keeps
    | with_reducible apply State.seqAct_keeps
    | with_reducible apply State.seqTimed_keeps
    | with_reducible apply State.setSeq_keeps
    | with_reducible refine ite_keeps ?_ ?_
    | intro _
    | split

theorem State.seqOp_keeps {s : State} {src record : Nat} {ws : List W32} {osc : Nat → Int} {hi : Nat} (kH : Keeps kM kR s) :
    Keeps kM kR (State.seqOp s src record ws osc hi) := by
  unfold State.seqOp
  repeat' first
    | with_reducible assumption
    | with_reducible exact Keeps.refl _ _
    | with_reducible apply getD_keeps
    | with_reducible apply State.record_keeps
    | with_reducible apply State.scriptFault_keeps
    | with_reducible apply State.seqAct_keeps
    | with_reducible apply State.seqEnd_keeps
    | with_reducible apply State.seqTimed_keeps
    | with_reducible apply State.setSeq_keeps
    | with_reducible apply State.set_keeps
    | with_reducible apply State.takeTile_fst
    | with_reducible refine State.takeTile_keeps (by with_reducible assumption) ?_
    | with_reducible refine ite_keeps ?_ ?_
    | intro _
    | split
    | (extract_lets +onlyGivenNames kX; have kh : Keeps kM kR kX := ?_; (on_goal 1 => clear_value kX); (on_goal 2 => subst kX))
    | (extract_lets +onlyGivenNames kX; first | ((first | have kg : SafeSt := kX | have kg : SlabSt := kX | have kg : TimeSt := kX); clear kg; subst kX) | clear_value kX)

theorem State.seqGo_keeps {s : State} {v : Voice} {at_ : Nat} (kH : Keeps kM kR s) :
    Keeps kM kR (State.seqGo s v at_) := by
  unfold State.seqGo
  repeat' first
    | with_reducible assumption
    | with_reducible exact Keeps.refl _ _
    | with_reducible apply State.setSeq_keeps

theorem State.seqStep_keeps {s t : State} {src record : Nat} {osc : Nat → Int} {lo hi : Nat}
    (e : s.seqStep src record osc lo hi = some t) (kH : Keeps kM kR s) : Keeps kM kR t := by
  unfold State.seqStep at e
  split at e
  · cases e
  split at e
  · cases e
  split at e
  · cases e
    exact State.seqCut_keeps kH
  split at e
  · cases e
  obtain rfl := Option.some.inj e
  split
  · exact State.seqOp_keeps kH
  · exact ite_keeps (State.decideAt_keeps kH) (State.boundary_keeps kH)
  · exact State.seqGo_keeps kH

theorem State.seqRun_keeps {src record : Nat} {osc : Nat → Int} {lo hi n : Nat} {s : State} (kH : Keeps kM kR s) :
    Keeps kM kR (s.seqRun src record osc lo hi n) := by
  induction n generalizing s with
  | zero => exact kH
  | succ n ih =>
    unfold State.seqRun
    split
    · exact kH
    · exact ih (State.seqStep_keeps ‹_› kH)

theorem State.seqBlock_keeps {s : State} {src record : Nat} {osc : Nat → Int} {lo hi : Nat} (kH : Keeps kM kR s) :
    Keeps kM kR (State.seqBlock s src record osc lo hi) := by
  unfold State.seqBlock
  repeat' first
    | with_reducible assumption
    | with_reducible exact Keeps.refl _ _
    | with_reducible apply forEach_keeps
    | with_reducible apply getD_keeps
    | with_reducible apply State.record_keeps
    | with_reducible apply State.seqRun_keeps
    | with_reducible apply State.setSeq_keeps
    | with_reducible apply State.setVoice_keeps
    | with_reducible refine ite_keeps ?_ ?_
    | intro _
    | split

theorem State.seqRow_keeps {s : State} {src : Nat} {ws : List W32} (kH : Keeps kM kR s) :
    Keeps kM kR (State.seqRow s src ws) := by
  unfold State.seqRow
  repeat' first
    | with_reducible assumption
    | with_reducible exact Keeps.refl _ _
    | with_reducible apply State.record_keeps
    | with_reducible apply State.seqOp_keeps
    | with_reducible apply State.setSeq_keeps
    | with_reducible refine ite_keeps ?_ ?_
    | split

theorem State.decideRow_keeps {s : State} {src : Nat} (kH : Keeps kM kR s) :
    Keeps kM kR (State.decideRow s src) := by
  unfold State.decideRow
  repeat' first
    | with_reducible assumption
    | with_reducible exact Keeps.refl _ _
    | with_reducible apply State.decideAt_keeps
    | with_reducible refine ite_keeps ?_ ?_
    | split

theorem execTileDecisionPoint_keeps {src : Nat} {s : State} (kH : Keeps kM kR s) :
    Good kM kR (execTileDecisionPoint src s) := by
  unfold execTileDecisionPoint
  refine Good.next ?_
  repeat' first
    | with_reducible assumption
    | with_reducible exact Keeps.refl _ _
    | with_reducible apply State.decideRow_keeps

theorem execTileBoundary_keeps {src : Nat} {s : State} (kH : Keeps kM kR s) :
    Good kM kR (execTileBoundary src s) := by
  unfold execTileBoundary
  refine Good.next ?_
  repeat' first
    | with_reducible assumption
    | with_reducible exact Keeps.refl _ _
    | with_reducible apply State.boundary_keeps
    | with_reducible apply State.decideRow_keeps
    | split
    | (extract_lets +onlyGivenNames kX; have kh : Keeps kM kR kX := ?_; (on_goal 1 => clear_value kX); (on_goal 2 => subst kX))

theorem execEndOp_keeps {src : Nat} {s : State} (kH : Keeps kM kR s) :
    Good kM kR (execEndOp src s) := by
  unfold execEndOp
  refine Good.next ?_
  repeat' first
    | with_reducible assumption
    | with_reducible exact Keeps.refl _ _
    | with_reducible apply State.seqRow_keeps

theorem execTileOp_keeps {src : Nat} {trim : BitVec 8} {ref : W32} {s : State} (kH : Keeps kM kR s) :
    Good kM kR (execTileOp src trim ref s) := by
  unfold execTileOp
  refine Good.next ?_
  repeat' first
    | with_reducible assumption
    | with_reducible exact Keeps.refl _ _
    | with_reducible apply State.seqRow_keeps

theorem execGap_keeps {src : Nat} {dur : Fin 16777216} {s : State} (kH : Keeps kM kR s) :
    Good kM kR (execGap src dur s) := by
  unfold execGap
  refine Good.next ?_
  repeat' first
    | with_reducible assumption
    | with_reducible exact Keeps.refl _ _
    | with_reducible apply State.seqRow_keeps

theorem execJoinOp_keeps {src : Nat} {kind : JoinKind} {persist equalPower : Bool} {periods : Fin 4} {len : Fin 65536} {s : State} (kH : Keeps kM kR s) :
    Good kM kR (execJoinOp src kind persist equalPower periods len s) := by
  unfold execJoinOp
  refine Good.next ?_
  repeat' first
    | with_reducible assumption
    | with_reducible exact Keeps.refl _ _
    | with_reducible apply State.seqRow_keeps

theorem execPitch_keeps {src : Nat} {scale : Fin 65536} {s : State} (kH : Keeps kM kR s) :
    Good kM kR (execPitch src scale s) := by
  unfold execPitch
  refine Good.next ?_
  repeat' first
    | with_reducible assumption
    | with_reducible exact Keeps.refl _ _
    | with_reducible apply State.seqRow_keeps

theorem execTempo_keeps {src : Nat} {scale : Fin 65536} {s : State} (kH : Keeps kM kR s) :
    Good kM kR (execTempo src scale s) := by
  unfold execTempo
  refine Good.next ?_
  repeat' first
    | with_reducible assumption
    | with_reducible exact Keeps.refl _ _
    | with_reducible apply State.seqRow_keeps

theorem execLevelOp_keeps {src : Nat} {code : BitVec 16} {s : State} (kH : Keeps kM kR s) :
    Good kM kR (execLevelOp src code s) := by
  unfold execLevelOp
  refine Good.next ?_
  repeat' first
    | with_reducible assumption
    | with_reducible exact Keeps.refl _ _
    | with_reducible apply State.seqRow_keeps

theorem execTone_keeps {src : Nat} {voice : Fin 64} {action : ToneAction} {dur : Fin 65536} {s : State} (kH : Keeps kM kR s) :
    Good kM kR (execTone src voice action dur s) := by
  unfold execTone
  refine Good.next ?_
  repeat' first
    | with_reducible assumption
    | with_reducible exact Keeps.refl _ _
    | with_reducible apply State.seqRow_keeps

theorem execSync_keeps {src : Nat} {kind : SyncKind} {level : Bool} {contact : Fin 16} {value : Fin 65536} {mt : W64} {s : State} (kH : Keeps kM kR s) :
    Good kM kR (execSync src kind level contact value mt s) := by
  unfold execSync
  refine Good.next ?_
  repeat' first
    | with_reducible assumption
    | with_reducible exact Keeps.refl _ _
    | with_reducible apply State.seqRow_keeps

theorem execSyncSatisfied_keeps {src : Nat} {timeout : Bool} {s : State} (kH : Keeps kM kR s) :
    Good kM kR (execSyncSatisfied src timeout s) := by
  unfold execSyncSatisfied
  refine Good.next ?_
  repeat' first
    | with_reducible assumption
    | with_reducible exact Keeps.refl _ _
    | with_reducible apply State.seqGo_keeps
    | split

theorem execLoopOp_keeps {src : Nat} {count : Fin 256} {back : Fin 65536} {s : State} (kH : Keeps kM kR s) :
    Good kM kR (execLoopOp src count back s) := by
  unfold execLoopOp
  refine Good.next ?_
  repeat' first
    | with_reducible assumption
    | with_reducible exact Keeps.refl _ _
    | with_reducible apply State.seqRow_keeps

theorem execLang_keeps {src : Nat} {bank : Fin 256} {tbase : Fin 65536} {s : State} (kH : Keeps kM kR s) :
    Good kM kR (execLang src bank tbase s) := by
  unfold execLang
  refine Good.next ?_
  repeat' first
    | with_reducible assumption
    | with_reducible exact Keeps.refl _ _
    | with_reducible apply State.seqRow_keeps

theorem State.seqTick_keeps {s : State} (kH : Keeps kM kR s) :
    Keeps kM kR (State.seqTick s) := by
  unfold State.seqTick
  repeat' first
    | with_reducible assumption
    | with_reducible exact Keeps.refl _ _
    | fail_if_no_progress with_reducible refine Keeps.upd ?_ rfl rfl rfl

end Sys2Proof.Machine
end

