-- ==== Sys2Proof/Laws/KeepsSynth.lean ====
section
/-! SUPPORT. What the operations of Machine/Synth.lean keep. -/

namespace Sys2Proof.Machine

variable {kM : Bool} {kR : State}

theorem State.takeSource_keeps {s : State} {src record t : Nat} (kH : Keeps kM kR s) :
    Keeps kM kR (State.takeSource s src record t) := by
  unfold State.takeSource
  repeat' first
    | with_reducible assumption
    | with_reducible exact Keeps.refl _ _
    | with_reducible apply State.beforeTile_keeps
    | with_reducible apply State.bind_keeps
    | with_reducible apply State.record_keeps
    | with_reducible apply State.setVoice_keeps
    | with_reducible refine ite_keeps ?_ ?_
    | intro _
    | split

theorem State.stretch_fst {s : State} {src record : Nat} {c : Control} {lo hi : Nat} {r : Rendered} (kH : Keeps kM kR s) :
    Keeps kM kR (State.stretch s src record c lo hi r).1 := by
  unfold State.stretch
  repeat' first
    | with_reducible assumption
    | with_reducible exact Keeps.refl _ _
    | with_reducible apply foldl_keeps
    | with_reducible apply State.record_keeps
    | with_reducible apply State.setVoice_keeps
    | with_reducible apply State.takeSource_keeps
    | intro _
    | split
    | (extract_lets +onlyGivenNames kX; have kh : Keeps kM kR kX := ?_; (on_goal 1 => clear_value kX); (on_goal 2 => subst kX))

theorem State.stretch_keeps {s : State} {src record : Nat} {c : Control} {lo hi : Nat} {r : Rendered} {kt : State} {kx : Rendered}
    (ke : State.stretch s src record c lo hi r = (kt, kx)) (kH : Keeps kM kR s) : Keeps kM kR kt := by
  have h := State.stretch_fst (s := s) (src := src) (record := record) (c := c) (lo := lo) (hi := hi) (r := r) kH
  rwa [ke] at h

theorem foldl_fst_keeps {α β : Type} {l : List α} {a : State × β} {f : State × β → α → State × β}
    (hf : ∀ x b, Keeps kM kR b.1 → Keeps kM kR (f b x).1) (h : Keeps kM kR a.1) : Keeps kM kR (l.foldl f a).1 := by
  induction l generalizing a with
  | nil => exact h
  | cons x l ih => exact ih (hf x a h)

theorem State.passBlock_fst {s : State} {v : Voice} {b : Nat} (kH : Keeps kM kR s) : Keeps kM kR (s.passBlock v b).1 := by
  unfold State.passBlock
  extract_lets lo hi
  split
  extract_lets s' turns
  exact foldl_fst_keeps (fun x a h => State.stretch_fst h) (State.seqBlock_keeps (State.setVoice_keeps kH))

theorem State.passes_fst {n : Nat} {s : State} {v : Voice} {b : Nat} (kH : Keeps kM kR s) : Keeps kM kR (s.passes v b n).1 := by
  induction n generalizing v with
  | zero => exact State.passBlock_fst kH
  | succ n ih =>
    unfold State.passes
    split
    have h := State.passBlock_fst (v := v) (b := b) kH
    rw [‹s.passBlock v b = _›] at h
    split
    · exact h
    · extract_lets w
      split
      · exact h
      · split
        · exact State.setVoice_keeps h
        · exact ih

theorem State.passes_keeps {n : Nat} {s kt : State} {v : Voice} {b : Nat} {kx : Rendered} (ke : s.passes v b n = (kt, kx))
    (kH : Keeps kM kR s) : Keeps kM kR kt := by
  have h := State.passes_fst (n := n) (v := v) (b := b) kH
  rwa [ke] at h

theorem State.renderBlock_keeps {s : State} {v : Voice} (kH : Keeps kM kR s) :
    Keeps kM kR (State.renderBlock s v) := by
  unfold State.renderBlock
  repeat' first
    | with_reducible assumption
    | with_reducible exact Keeps.refl _ _
    | with_reducible apply State.followEnd_keeps
    | with_reducible apply State.mismatch_keeps
    | with_reducible apply State.passes_fst
    | with_reducible apply State.record_keeps
    | with_reducible apply State.setVoice_keeps
    | with_reducible refine State.passes_keeps (by with_reducible assumption) ?_
    | with_reducible refine ite_keeps ?_ ?_
    | intro _
    | split
    | (extract_lets +onlyGivenNames kX; have kh : Keeps kM kR kX := ?_; (on_goal 1 => clear_value kX); (on_goal 2 => subst kX))
    | (extract_lets +onlyGivenNames kX; first | ((first | have kg : SafeSt := kX | have kg : SlabSt := kX | have kg : TimeSt := kX); clear kg; subst kX) | clear_value kX)

end Sys2Proof.Machine
end

