-- ==== Sys2Proof/Laws/KeepsVoiceCmd.lean ====
section
/-! SUPPORT. What the operations of Machine/VoiceCmd.lean keep. -/

namespace Sys2Proof.Machine

variable {kM : Bool} {kR : State}

theorem cmdVoiceSetParam_keeps  : CmdKeeps kM (cmdVoiceSetParam) := by
  unfold cmdVoiceSetParam
  refine ⟨fun _ _ kR kS kH => ?_, fun _ _ kR kS kH => ?_, fun _ kR kS kH => ?_⟩
  all_goals try dsimp -zeta only [ans]
  repeat' first
    | with_reducible assumption
    | with_reducible exact Keeps.refl _ _
    | with_reducible apply forEach_keeps
    | with_reducible apply State.editVoice_keeps
    | with_reducible apply State.record_keeps
    | intro _
    | split

theorem execVoiceSetParam_keeps {k : Kcp} {s : State} (kH : Keeps kM kR s) :
    Good kM kR (execVoiceSetParam k s) := by
  unfold execVoiceSetParam
  refine Good.next ?_
  repeat' first
    | with_reducible assumption
    | with_reducible exact Keeps.refl _ _
    | with_reducible apply cmdVoiceSetParam_keeps
    | with_reducible apply kcpExec_keeps

theorem cmdVoiceGetParams_keeps  : CmdKeeps kM (cmdVoiceGetParams) := by
  unfold cmdVoiceGetParams
  refine ⟨fun _ _ kR kS kH => ?_, fun _ _ kR kS kH => ?_, fun _ kR kS kH => ?_⟩
  all_goals try dsimp -zeta only [ans]
  repeat' first
    | with_reducible assumption
    | with_reducible exact Keeps.refl _ _
    | with_reducible refine ite_keeps ?_ ?_
    | intro _
    | split

theorem execVoiceGetParams_keeps {k : Kcp} {s : State} (kH : Keeps kM kR s) :
    Good kM kR (execVoiceGetParams k s) := by
  unfold execVoiceGetParams
  refine Good.next ?_
  repeat' first
    | with_reducible assumption
    | with_reducible exact Keeps.refl _ _
    | with_reducible apply cmdVoiceGetParams_keeps
    | with_reducible apply kcpExec_keeps

theorem cmdVoiceRelease_keeps  : CmdKeeps kM (cmdVoiceRelease) := by
  unfold cmdVoiceRelease
  refine ⟨fun _ _ kR kS kH => ?_, fun _ _ kR kS kH => ?_, fun _ kR kS kH => ?_⟩
  all_goals try dsimp -zeta only [ans]
  repeat' first
    | with_reducible assumption
    | with_reducible exact Keeps.refl _ _
    | with_reducible apply State.editVoice_keeps
    | with_reducible apply State.record_keeps
    | with_reducible apply State.release_keeps
    | intro _
    | split

theorem execVoiceRelease_keeps {k : Kcp} {s : State} (kH : Keeps kM kR s) :
    Good kM kR (execVoiceRelease k s) := by
  unfold execVoiceRelease
  refine Good.next ?_
  repeat' first
    | with_reducible assumption
    | with_reducible exact Keeps.refl _ _
    | with_reducible apply cmdVoiceRelease_keeps
    | with_reducible apply kcpExec_keeps

theorem State.atVoiceStop_keeps {s : State} {mt : Nat} {p : List W32} (kH : Keeps kM kR s) :
    Keeps kM kR (State.atVoiceStop s mt p) := by
  unfold State.atVoiceStop
  repeat' first
    | with_reducible assumption
    | with_reducible exact Keeps.refl _ _
    | with_reducible apply getD_keeps
    | with_reducible apply State.stopVoice_keeps
    | intro _
    | split

theorem cmdVoiceStop_keeps  : CmdKeeps kM (cmdVoiceStop) := by
  unfold cmdVoiceStop
  refine ⟨fun _ _ kR kS kH => ?_, fun _ _ kR kS kH => ?_, fun _ kR kS kH => ?_⟩
  all_goals try dsimp -zeta only [ans]
  repeat' first
    | with_reducible assumption

theorem execVoiceStop_keeps {k : Kcp} {s : State} (kH : Keeps kM kR s) :
    Good kM kR (execVoiceStop k s) := by
  unfold execVoiceStop
  refine Good.next ?_
  repeat' first
    | with_reducible assumption
    | with_reducible exact Keeps.refl _ _
    | with_reducible apply cmdVoiceStop_keeps
    | with_reducible apply kcpExec_keeps

theorem cmdVoiceGetLevels_keeps  : CmdKeeps kM (cmdVoiceGetLevels) := by
  unfold cmdVoiceGetLevels
  refine ⟨fun _ _ kR kS kH => ?_, fun _ _ kR kS kH => ?_, fun _ kR kS kH => ?_⟩
  all_goals try dsimp -zeta only [ans]
  repeat' first
    | with_reducible assumption

theorem execVoiceGetLevels_keeps {k : Kcp} {s : State} (kH : Keeps kM kR s) :
    Good kM kR (execVoiceGetLevels k s) := by
  unfold execVoiceGetLevels
  refine Good.next ?_
  repeat' first
    | with_reducible assumption
    | with_reducible exact Keeps.refl _ _
    | with_reducible apply cmdVoiceGetLevels_keeps
    | with_reducible apply kcpExec_keeps

theorem cmdVoiceGetStatus_keeps  : CmdKeeps kM (cmdVoiceGetStatus) := by
  unfold cmdVoiceGetStatus
  refine ⟨fun _ _ kR kS kH => ?_, fun _ _ kR kS kH => ?_, fun _ kR kS kH => ?_⟩
  all_goals try dsimp -zeta only [ans]
  repeat' first
    | with_reducible assumption
    | with_reducible exact Keeps.refl _ _
    | with_reducible refine ite_keeps ?_ ?_
    | intro _
    | split

theorem execVoiceGetStatus_keeps {k : Kcp} {s : State} (kH : Keeps kM kR s) :
    Good kM kR (execVoiceGetStatus k s) := by
  unfold execVoiceGetStatus
  refine Good.next ?_
  repeat' first
    | with_reducible assumption
    | with_reducible exact Keeps.refl _ _
    | with_reducible apply cmdVoiceGetStatus_keeps
    | with_reducible apply kcpExec_keeps

end Sys2Proof.Machine
end

