-- ==== Sys2Proof/Laws/KeepsJobCmd.lean ====
section
/-! SUPPORT. What the operations of Machine/JobCmd.lean keep. -/

namespace Sys2Proof.Machine

variable {kM : Bool} {kR : State}

theorem State.siteInsert_keeps {s : State} {h : W32} {block site : Nat} {d : Descr} (kH : Keeps kM kR s) :
    Keeps kM kR (State.siteInsert s h block site d) := by
  unfold State.siteInsert
  repeat' first
    | with_reducible assumption
    | with_reducible exact Keeps.refl _ _
    | with_reducible apply State.courseSend_keeps
    | with_reducible apply State.insertJob_keeps
    | with_reducible apply State.partDone_keeps
    | with_reducible refine ite_keeps ?_ ?_
    | split

theorem cmdJobSubmit_keeps  : CmdKeeps kM (cmdJobSubmit) := by
  unfold cmdJobSubmit
  refine ⟨fun _ _ kR kS kH => ?_, fun _ _ kR kS kH => ?_, fun _ kR kS kH => ?_⟩
  all_goals try dsimp -zeta only [ans]
  repeat' first
    | with_reducible assumption
    | with_reducible exact Keeps.refl _ _
    | with_reducible apply State.courseSend_keeps
    | with_reducible apply State.finishOwn_keeps
    | with_reducible apply State.insertJob_keeps
    | with_reducible apply State.record_keeps
    | with_reducible apply State.setJob_keeps
    | with_reducible apply State.set_keeps
    | with_reducible apply State.siteInsert_keeps
    | with_reducible refine ite_keeps ?_ ?_
    | intro _
    | split
    | (extract_lets +onlyGivenNames kX; have kh : Keeps kM kR kX := ?_; (on_goal 1 => clear_value kX); (on_goal 2 => subst kX))
    | (extract_lets +onlyGivenNames kX; first | ((first | have kg : SafeSt := kX | have kg : SlabSt := kX | have kg : TimeSt := kX); clear kg; subst kX) | clear_value kX)

theorem execJobSubmit_keeps {k : Kcp} {s : State} (kH : Keeps kM kR s) :
    Good kM kR (execJobSubmit k s) := by
  unfold execJobSubmit
  refine Good.next ?_
  repeat' first
    | with_reducible assumption
    | with_reducible exact Keeps.refl _ _
    | with_reducible apply cmdJobSubmit_keeps
    | with_reducible apply kcpExec_keeps

theorem State.atJobAbort_keeps {s : State} {mt : Nat} {p : List W32} (kH : Keeps kM kR s) :
    Keeps kM kR (State.atJobAbort s mt p) := by
  unfold State.atJobAbort
  repeat' first
    | with_reducible assumption
    | with_reducible exact Keeps.refl _ _
    | with_reducible apply State.stopJob_keeps
    | with_reducible refine ite_keeps ?_ ?_
    | split

theorem cmdJobAbort_keeps  : CmdKeeps kM (cmdJobAbort) := by
  unfold cmdJobAbort
  refine ⟨fun _ _ kR kS kH => ?_, fun _ _ kR kS kH => ?_, fun _ kR kS kH => ?_⟩
  all_goals try dsimp -zeta only [ans]
  repeat' first
    | with_reducible assumption
    | with_reducible exact Keeps.refl _ _
    | with_reducible apply State.courseSend_keeps
    | with_reducible apply State.finish_keeps
    | with_reducible refine ite_keeps ?_ ?_
    | intro _
    | split

theorem execJobAbort_keeps {k : Kcp} {s : State} (kH : Keeps kM kR s) :
    Good kM kR (execJobAbort k s) := by
  unfold execJobAbort
  refine Good.next ?_
  repeat' first
    | with_reducible assumption
    | with_reducible exact Keeps.refl _ _
    | with_reducible apply cmdJobAbort_keeps
    | with_reducible apply kcpExec_keeps

theorem State.releaseJob_keeps {s : State} {j : Job} {mt : Nat} (kH : Keeps kM kR s) :
    Keeps kM kR (State.releaseJob s j mt) := by
  unfold State.releaseJob
  repeat' first
    | with_reducible assumption
    | with_reducible exact Keeps.refl _ _
    | with_reducible apply forEach_keeps
    | with_reducible apply State.editVoice_keeps
    | with_reducible apply State.record_keeps
    | with_reducible apply State.release_keeps
    | with_reducible apply State.setJob_keeps
    | intro _
    | split

theorem cmdJobRelease_keeps  : CmdKeeps kM (cmdJobRelease) := by
  unfold cmdJobRelease
  refine ⟨fun _ _ kR kS kH => ?_, fun _ _ kR kS kH => ?_, fun _ kR kS kH => ?_⟩
  all_goals try dsimp -zeta only [ans]
  repeat' first
    | with_reducible assumption
    | with_reducible exact Keeps.refl _ _
    | with_reducible apply State.courseSend_keeps
    | with_reducible apply State.releaseJob_keeps
    | with_reducible refine ite_keeps ?_ ?_
    | intro _
    | split
    | (extract_lets +onlyGivenNames kX; have kh : Keeps kM kR kX := ?_; (on_goal 1 => clear_value kX); (on_goal 2 => subst kX))
    | (extract_lets +onlyGivenNames kX; first | ((first | have kg : SafeSt := kX | have kg : SlabSt := kX | have kg : TimeSt := kX); clear kg; subst kX) | clear_value kX)

theorem execJobRelease_keeps {k : Kcp} {s : State} (kH : Keeps kM kR s) :
    Good kM kR (execJobRelease k s) := by
  unfold execJobRelease
  refine Good.next ?_
  repeat' first
    | with_reducible assumption
    | with_reducible exact Keeps.refl _ _
    | with_reducible apply cmdJobRelease_keeps
    | with_reducible apply kcpExec_keeps

theorem execMaxWaitExpiry_keeps {record : Nat} {s : State} (kH : Keeps kM kR s) :
    Good kM kR (execMaxWaitExpiry record s) := by
  unfold execMaxWaitExpiry
  refine Good.next ?_
  repeat' first
    | with_reducible assumption
    | with_reducible exact Keeps.refl _ _
    | with_reducible apply State.finish_keeps
    | with_reducible apply State.record_keeps
    | with_reducible refine ite_keeps ?_ ?_
    | with_reducible refine ite_cmdKeeps ?_ ?_
    | split

theorem cmdJobGetStatus_keeps  : CmdKeeps kM (cmdJobGetStatus) := by
  unfold cmdJobGetStatus
  refine ⟨fun _ _ kR kS kH => ?_, fun _ _ kR kS kH => ?_, fun _ kR kS kH => ?_⟩
  all_goals try dsimp -zeta only [ans]
  repeat' first
    | with_reducible assumption
    | with_reducible exact Keeps.refl _ _
    | with_reducible apply getD_keeps
    | with_reducible refine ite_keeps ?_ ?_
    | intro _
    | split

theorem execJobGetStatus_keeps {k : Kcp} {s : State} (kH : Keeps kM kR s) :
    Good kM kR (execJobGetStatus k s) := by
  unfold execJobGetStatus
  refine Good.next ?_
  repeat' first
    | with_reducible assumption
    | with_reducible exact Keeps.refl _ _
    | with_reducible apply cmdJobGetStatus_keeps
    | with_reducible apply kcpExec_keeps

theorem cmdJobList_keeps  : CmdKeeps kM (cmdJobList) := by
  unfold cmdJobList
  refine ⟨fun _ _ kR kS kH => ?_, fun _ _ kR kS kH => ?_, fun _ kR kS kH => ?_⟩
  all_goals try dsimp -zeta only [ans]
  repeat' first
    | with_reducible assumption

theorem execJobList_keeps {k : Kcp} {s : State} (kH : Keeps kM kR s) :
    Good kM kR (execJobList k s) := by
  unfold execJobList
  refine Good.next ?_
  repeat' first
    | with_reducible assumption
    | with_reducible exact Keeps.refl _ _
    | with_reducible apply cmdJobList_keeps
    | with_reducible apply kcpExec_keeps

theorem cmdJobGetStats_keeps  : CmdKeeps kM (cmdJobGetStats) := by
  unfold cmdJobGetStats
  refine ⟨fun _ _ kR kS kH => ?_, fun _ _ kR kS kH => ?_, fun _ kR kS kH => ?_⟩
  all_goals try dsimp -zeta only [ans]
  repeat' first
    | with_reducible assumption

theorem execJobGetStats_keeps {k : Kcp} {s : State} (kH : Keeps kM kR s) :
    Good kM kR (execJobGetStats k s) := by
  unfold execJobGetStats
  refine Good.next ?_
  repeat' first
    | with_reducible assumption
    | with_reducible exact Keeps.refl _ _
    | with_reducible apply cmdJobGetStats_keeps
    | with_reducible apply kcpExec_keeps

theorem State.atSetPolicy_keeps {s : State} {p : List W32} (kH : Keeps kM kR s) :
    Keeps kM kR (State.atSetPolicy s p) := by
  unfold State.atSetPolicy
  repeat' first
    | with_reducible assumption
    | with_reducible exact Keeps.refl _ _
    | with_reducible apply State.writeImage_keeps

theorem cmdJobSetPolicy_keeps  : CmdKeeps kM (cmdJobSetPolicy) := by
  unfold cmdJobSetPolicy
  refine ⟨fun _ _ kR kS kH => ?_, fun _ _ kR kS kH => ?_, fun _ kR kS kH => ?_⟩
  all_goals try dsimp -zeta only [ans]
  repeat' first
    | with_reducible assumption
    | with_reducible exact Keeps.refl _ _
    | intro _
    | fail_if_no_progress with_reducible refine Keeps.upd ?_ rfl rfl rfl

theorem execJobSetPolicy_keeps {k : Kcp} {s : State} (kH : Keeps kM kR s) :
    Good kM kR (execJobSetPolicy k s) := by
  unfold execJobSetPolicy
  refine Good.next ?_
  repeat' first
    | with_reducible assumption
    | with_reducible exact Keeps.refl _ _
    | with_reducible apply cmdJobSetPolicy_keeps
    | with_reducible apply kcpExec_keeps

theorem cmdJobScriptEdit_keeps  : CmdKeeps kM (cmdJobScriptEdit) := by
  unfold cmdJobScriptEdit
  refine ⟨fun _ _ kR kS kH => ?_, fun _ _ kR kS kH => ?_, fun _ kR kS kH => ?_⟩
  all_goals try dsimp -zeta only [ans]
  repeat' first
    | with_reducible assumption
    | with_reducible exact Keeps.refl _ _
    | with_reducible apply State.editVoice_keeps
    | with_reducible apply State.record_keeps
    | with_reducible refine ite_keeps ?_ ?_
    | intro _
    | split
    | (extract_lets +onlyGivenNames kX; have kh : Keeps kM kR kX := ?_; (on_goal 1 => clear_value kX); (on_goal 2 => subst kX))
    | (extract_lets +onlyGivenNames kX; first | ((first | have kg : SafeSt := kX | have kg : SlabSt := kX | have kg : TimeSt := kX); clear kg; subst kX) | clear_value kX)
    | fail_if_no_progress with_reducible refine Keeps.upd ?_ rfl rfl rfl

theorem execJobScriptEdit_keeps {k : Kcp} {s : State} (kH : Keeps kM kR s) :
    Good kM kR (execJobScriptEdit k s) := by
  unfold execJobScriptEdit
  refine Good.next ?_
  repeat' first
    | with_reducible assumption
    | with_reducible exact Keeps.refl _ _
    | with_reducible apply cmdJobScriptEdit_keeps
    | with_reducible apply kcpExec_keeps

theorem cmdJobSquall_keeps  : CmdKeeps kM (cmdJobSquall) := by
  unfold cmdJobSquall
  refine ⟨fun _ _ kR kS kH => ?_, fun _ _ kR kS kH => ?_, fun _ kR kS kH => ?_⟩
  all_goals try dsimp -zeta only [ans]
  repeat' first
    | with_reducible assumption
    | with_reducible exact Keeps.refl _ _
    | with_reducible apply getD_keeps
    | with_reducible apply State.squallCommand_fst
    | with_reducible refine State.squallCommand_keeps (by with_reducible assumption) ?_
    | with_reducible refine ite_keeps ?_ ?_
    | intro _
    | split

theorem State.takeSquall_keeps {s : State} {k : Kcp} (kH : Keeps kM kR s) :
    Keeps kM kR (State.takeSquall s k) := by
  unfold State.takeSquall
  repeat' first
    | with_reducible assumption
    | with_reducible exact Keeps.refl _ _
    | with_reducible apply State.hold_keeps
    | with_reducible apply State.squallBell_keeps
    | with_reducible apply cmdJobSquall_keeps
    | with_reducible apply kcpExec_keeps
    | with_reducible refine ite_keeps ?_ ?_
    | (extract_lets +onlyGivenNames kX; have kh : Keeps kM kR kX := ?_; (on_goal 1 => clear_value kX); (on_goal 2 => subst kX))
    | (extract_lets +onlyGivenNames kX; first | ((first | have kg : SafeSt := kX | have kg : SlabSt := kX | have kg : TimeSt := kX); clear kg; subst kX) | clear_value kX)
    | fail_if_no_progress with_reducible refine Keeps.upd ?_ rfl rfl rfl

theorem execJobSquall_keeps {k : Kcp} {s : State} (kH : Keeps kM kR s) :
    Good kM kR (execJobSquall k s) := by
  unfold execJobSquall
  refine Good.next ?_
  repeat' first
    | with_reducible assumption
    | with_reducible exact Keeps.refl _ _
    | with_reducible apply State.takeSquall_keeps

theorem cmdJobSquallEnd_keeps  : CmdKeeps kM (cmdJobSquallEnd) := by
  unfold cmdJobSquallEnd
  refine ⟨fun _ _ kR kS kH => ?_, fun _ _ kR kS kH => ?_, fun _ kR kS kH => ?_⟩
  all_goals try dsimp -zeta only [ans]
  repeat' first
    | with_reducible assumption
    | with_reducible exact Keeps.refl _ _
    | with_reducible apply State.squallStop_fst

theorem execJobSquallEnd_keeps {k : Kcp} {s : State} (kH : Keeps kM kR s) :
    Good kM kR (execJobSquallEnd k s) := by
  unfold execJobSquallEnd
  refine Good.next ?_
  repeat' first
    | with_reducible assumption
    | with_reducible exact Keeps.refl _ _
    | with_reducible apply cmdJobSquallEnd_keeps
    | with_reducible apply kcpExec_keeps

theorem cmdJobArm_keeps  : CmdKeeps kM (cmdJobArm) := by
  unfold cmdJobArm
  refine ⟨fun _ _ kR kS kH => ?_, fun _ _ kR kS kH => ?_, fun _ kR kS kH => ?_⟩
  all_goals try dsimp -zeta only [ans]
  repeat' first
    | with_reducible assumption
    | with_reducible exact Keeps.refl _ _
    | with_reducible apply State.put_keeps
    | with_reducible apply State.set_keeps
    | intro _
    | (extract_lets +onlyGivenNames kX; have kh : Keeps kM kR kX := ?_; (on_goal 1 => clear_value kX); (on_goal 2 => subst kX))
    | (extract_lets +onlyGivenNames kX; first | ((first | have kg : SafeSt := kX | have kg : SlabSt := kX | have kg : TimeSt := kX); clear kg; subst kX) | clear_value kX)
    | fail_if_no_progress with_reducible refine Keeps.upd ?_ rfl rfl rfl

theorem execJobArm_keeps {k : Kcp} {s : State} (kH : Keeps kM kR s) :
    Good kM kR (execJobArm k s) := by
  unfold execJobArm
  refine Good.next ?_
  repeat' first
    | with_reducible assumption
    | with_reducible exact Keeps.refl _ _
    | with_reducible apply cmdJobArm_keeps
    | with_reducible apply kcpExec_keeps

theorem cmdJobDisarm_keeps  : CmdKeeps kM (cmdJobDisarm) := by
  unfold cmdJobDisarm
  refine ⟨fun _ _ kR kS kH => ?_, fun _ _ kR kS kH => ?_, fun _ kR kS kH => ?_⟩
  all_goals try dsimp -zeta only [ans]
  repeat' first
    | with_reducible assumption
    | with_reducible exact Keeps.refl _ _
    | with_reducible apply State.set_keeps
    | intro _
    | (extract_lets +onlyGivenNames kX; have kh : Keeps kM kR kX := ?_; (on_goal 1 => clear_value kX); (on_goal 2 => subst kX))
    | (extract_lets +onlyGivenNames kX; first | ((first | have kg : SafeSt := kX | have kg : SlabSt := kX | have kg : TimeSt := kX); clear kg; subst kX) | clear_value kX)
    | fail_if_no_progress with_reducible refine Keeps.upd ?_ rfl rfl rfl

theorem execJobDisarm_keeps {k : Kcp} {s : State} (kH : Keeps kM kR s) :
    Good kM kR (execJobDisarm k s) := by
  unfold execJobDisarm
  refine Good.next ?_
  repeat' first
    | with_reducible assumption
    | with_reducible exact Keeps.refl _ _
    | with_reducible apply cmdJobDisarm_keeps
    | with_reducible apply kcpExec_keeps

theorem cmdJobSetSquall_keeps  : CmdKeeps kM (cmdJobSetSquall) := by
  unfold cmdJobSetSquall
  refine ⟨fun _ _ kR kS kH => ?_, fun _ _ kR kS kH => ?_, fun _ kR kS kH => ?_⟩
  all_goals try dsimp -zeta only [ans]
  repeat' first
    | with_reducible assumption
    | with_reducible exact Keeps.refl _ _
    | with_reducible apply State.writeImage_keeps

theorem execJobSetSquall_keeps {k : Kcp} {s : State} (kH : Keeps kM kR s) :
    Good kM kR (execJobSetSquall k s) := by
  unfold execJobSetSquall
  refine Good.next ?_
  repeat' first
    | with_reducible assumption
    | with_reducible exact Keeps.refl _ _
    | with_reducible apply cmdJobSetSquall_keeps
    | with_reducible apply kcpExec_keeps

end Sys2Proof.Machine
end

