-- ==== Sys2Proof/Laws/KeepsCourse.lean ====
section
/-! SUPPORT. What the operations of Machine/Course.lean keep. -/

namespace Sys2Proof.Machine

variable {kM : Bool} {kR : State}

theorem State.setCourse_keeps {s : State} {c : CourseSt} (kH : Keeps kM kR s) :
    Keeps kM kR (State.setCourse s c) := by
  unfold State.setCourse
  repeat' first
    | with_reducible assumption
    | with_reducible exact Keeps.refl _ _
    | fail_if_no_progress with_reducible refine Keeps.upd ?_ rfl rfl rfl

theorem State.setPeer_keeps {s : State} {p : Peer} (kH : Keeps kM kR s) :
    Keeps kM kR (State.setPeer s p) := by
  unfold State.setPeer
  repeat' first
    | with_reducible assumption
    | with_reducible exact Keeps.refl _ _
    | with_reducible apply State.setCourse_keeps

theorem State.ringUpdate_keeps {s : State} (kH : Keeps kM kR s) :
    Keeps kM kR (State.ringUpdate s) := by
  unfold State.ringUpdate
  repeat' first
    | with_reducible assumption
    | with_reducible exact Keeps.refl _ _
    | with_reducible apply State.post_keeps
    | with_reducible apply State.put_keeps
    | with_reducible apply State.set_keeps
    | with_reducible refine ite_keeps ?_ ?_

theorem State.showTopo_keeps {s : State} (kH : Keeps kM kR s) :
    Keeps kM kR (State.showTopo s) := by
  unfold State.showTopo
  repeat' first
    | with_reducible assumption
    | with_reducible exact Keeps.refl _ _
    | with_reducible apply State.put_keeps

theorem State.measureRing_keeps {s : State} (kH : Keeps kM kR s) :
    Keeps kM kR (State.measureRing s) := by
  unfold State.measureRing
  repeat' first
    | with_reducible assumption
    | with_reducible exact Keeps.refl _ _
    | with_reducible apply forEach_keeps
    | with_reducible apply getD_keeps
    | with_reducible apply State.put_keeps
    | with_reducible apply State.set_keeps
    | with_reducible refine ite_keeps ?_ ?_
    | intro _

theorem State.setCport_keeps {s : State} {p st lanes : Nat} (kH : Keeps kM kR s) :
    Keeps kM kR (State.setCport s p st lanes) := by
  unfold State.setCport
  repeat' first
    | with_reducible assumption
    | with_reducible exact Keeps.refl _ _
    | with_reducible apply State.post_keeps
    | with_reducible apply State.put_keeps
    | with_reducible refine ite_keeps ?_ ?_

theorem State.sendTopo_keeps {s : State} (kH : Keeps kM kR s) :
    Keeps kM kR (State.sendTopo s) := by
  unfold State.sendTopo
  repeat' first
    | with_reducible assumption
    | with_reducible exact Keeps.refl _ _
    | with_reducible apply State.courseSend_keeps

theorem State.cportDown_keeps {s : State} {p : Nat} (kH : Keeps kM kR s) :
    Keeps kM kR (State.cportDown s p) := by
  unfold State.cportDown
  repeat' first
    | with_reducible assumption
    | with_reducible exact Keeps.refl _ _
    | with_reducible apply State.failType_keeps
    | with_reducible apply State.ringUpdate_keeps
    | with_reducible apply State.sendTopo_keeps
    | with_reducible apply State.setCport_keeps
    | with_reducible refine ite_keeps ?_ ?_

theorem execCoursePortDown_keeps {port : Fin 2} {s : State} (kH : Keeps kM kR s) :
    Good kM kR (execCoursePortDown port s) := by
  unfold execCoursePortDown
  refine Good.next ?_
  repeat' first
    | with_reducible assumption
    | with_reducible exact Keeps.refl _ _
    | with_reducible apply State.cportDown_keeps
    | with_reducible refine ite_keeps ?_ ?_

theorem execCoursePortUp_keeps {port : Fin 2} {s : State} (kH : Keeps kM kR s) :
    Good kM kR (execCoursePortUp port s) := by
  unfold execCoursePortUp
  refine Good.next ?_
  repeat' first
    | with_reducible assumption
    | with_reducible exact Keeps.refl _ _
    | with_reducible apply State.measureRing_keeps
    | with_reducible apply State.ringUpdate_keeps
    | with_reducible apply State.sendTopo_keeps
    | with_reducible apply State.setCport_keeps
    | with_reducible refine ite_keeps ?_ ?_

theorem execCourseLaneAlignmentLoss_keeps {port : Fin 2} {lane : Fin 2} {s : State} (kH : Keeps kM kR s) :
    Good kM kR (execCourseLaneAlignmentLoss port lane s) := by
  unfold execCourseLaneAlignmentLoss
  refine Good.next ?_
  repeat' first
    | with_reducible assumption
    | with_reducible exact Keeps.refl _ _
    | with_reducible apply State.cportDown_keeps
    | with_reducible apply State.setCport_keeps
    | with_reducible refine ite_keeps ?_ ?_

theorem execCourseFrameSend_keeps {s : State} (kH : Keeps kM kR s) :
    Good kM kR (execCourseFrameSend s) := by
  unfold execCourseFrameSend
  refine Good.next ?_
  repeat' first
    | with_reducible assumption
    | with_reducible exact Keeps.refl _ _
    | with_reducible apply State.bump_keeps
    | with_reducible apply State.courseSend_keeps
    | with_reducible apply State.setCourse_keeps
    | with_reducible refine ite_keeps ?_ ?_

theorem State.placeInput_keeps {chan n mt : Nat} {xs : List Sample} {s : State} (kH : Keeps kM kR s) :
    Keeps kM kR (s.placeInput chan n mt xs) := by
  induction n generalizing s mt xs with
  | zero => exact kH
  | succ n ih =>
    unfold State.placeInput
    split
    · exact kH
    · refine ih ?_
      split
      · exact kH
      · exact kH.congr rfl rfl rfl rfl rfl rfl rfl rfl

theorem State.hear_keeps {s : State} {port : Nat} {f : CourseFrame} {o : Nat} (kH : Keeps kM kR s) :
    Keeps kM kR (State.hear s port f o) := by
  unfold State.hear
  repeat' first
    | with_reducible assumption
    | with_reducible exact Keeps.refl _ _
    | with_reducible apply getD_keeps
    | with_reducible apply State.setPeer_keeps
    | with_reducible apply State.showTopo_keeps

theorem State.claim_snd {s : State} {chan o : Nat} (kH : Keeps kM kR s) :
    Keeps kM kR (State.claim s chan o).2 := by
  unfold State.claim
  repeat' first
    | with_reducible assumption
    | with_reducible exact Keeps.refl _ _
    | with_reducible apply State.setCourse_keeps
    | with_reducible apply State.set_keeps
    | with_reducible refine ite_keeps ?_ ?_
    | split

theorem State.claim_keeps {s : State} {chan o : Nat} {kt : State} {kx : Bool}
    (ke : State.claim s chan o = (kx, kt)) (kH : Keeps kM kR s) : Keeps kM kR kt := by
  have h := State.claim_snd (s := s) (chan := chan) (o := o) kH
  rwa [ke] at h

theorem State.keystoneFrame_keeps {s : State} {c : Nat} (kH : Keeps kM kR s) :
    Keeps kM kR (State.keystoneFrame s c) := by
  unfold State.keystoneFrame
  repeat' first
    | with_reducible assumption
    | with_reducible exact Keeps.refl _ _
    | with_reducible apply State.post_keeps
    | with_reducible apply State.put_keeps
    | with_reducible apply State.refRequalify_keeps
    | with_reducible apply State.setCourse_keeps
    | with_reducible apply State.set_keeps
    | with_reducible refine ite_keeps ?_ ?_

theorem State.takeFrame_keeps {s : State} {f : CourseFrame} {o : Nat} (kH : Keeps kM kR s) :
    Keeps kM kR (State.takeFrame s f o) := by
  unfold State.takeFrame
  repeat' first
    | with_reducible assumption
    | with_reducible exact Keeps.refl _ _
    | with_reducible apply forEach_keeps
    | with_reducible apply State.bumpSat_keeps
    | with_reducible apply State.bump_keeps
    | with_reducible apply State.claim_snd
    | with_reducible apply State.keystoneFrame_keeps
    | with_reducible apply State.placeInput_keeps
    | with_reducible apply State.put_keeps
    | with_reducible apply State.setCourse_keeps
    | with_reducible apply State.set_keeps
    | with_reducible apply State.wr_keeps
    | with_reducible refine State.claim_keeps (by with_reducible assumption) ?_
    | with_reducible refine ite_keeps ?_ ?_
    | intro _

theorem execCourseFrameReceived_keeps {port : Fin 2} {f : CourseFrame} {s : State} (kH : Keeps kM kR s) :
    Good kM kR (execCourseFrameReceived port f s) := by
  unfold execCourseFrameReceived
  refine Good.next ?_
  repeat' first
    | with_reducible assumption
    | with_reducible exact Keeps.refl _ _
    | with_reducible apply State.bumpSat_keeps
    | with_reducible apply State.bump_keeps
    | with_reducible apply State.hear_keeps
    | with_reducible apply State.raise_keeps
    | with_reducible apply State.ringUpdate_keeps
    | with_reducible apply State.setCourse_keeps
    | with_reducible apply State.setCport_keeps
    | with_reducible apply State.set_keeps
    | with_reducible apply State.takeFrame_keeps
    | with_reducible refine ite_keeps ?_ ?_

theorem State.courseTick_keeps {s : State} (kH : Keeps kM kR s) :
    Keeps kM kR (State.courseTick s) := by
  unfold State.courseTick
  repeat' first
    | with_reducible assumption
    | with_reducible exact Keeps.refl _ _
    | with_reducible apply forEach_keeps
    | with_reducible apply State.put_keeps
    | with_reducible apply State.ringUpdate_keeps
    | with_reducible apply State.setCourse_keeps
    | with_reducible apply State.set_keeps
    | with_reducible apply State.showTopo_keeps
    | with_reducible refine ite_keeps ?_ ?_
    | intro _

theorem State.countLost_keeps {s : State} {block : Nat} (kH : Keeps kM kR s) :
    Keeps kM kR (State.countLost s block) := by
  unfold State.countLost
  repeat' first
    | with_reducible assumption
    | with_reducible exact Keeps.refl _ _
    | with_reducible apply State.bumpSat_keeps
    | with_reducible refine ite_keeps ?_ ?_

theorem State.message_keeps {s : State} {h : MsgHead} {f : State → State}
    (hf : ∀ t, Keeps kM kR t → Keeps kM kR (f t)) (kH : Keeps kM kR s) : Keeps kM kR (s.message h f) := by
  unfold State.message
  extract_lets o key
  with_reducible exact ite_keeps kH (hf _ (State.setCourse_keeps kH))

theorem execCourseMsgStatus_keeps {h : MsgHead} {pstate variant twin eastNs westNs : Nat} {s : State} (kH : Keeps kM kR s) :
    Good kM kR (execCourseMsgStatus h pstate variant twin eastNs westNs s) := by
  unfold execCourseMsgStatus
  refine Good.next ?_
  repeat' first
    | with_reducible assumption
    | with_reducible exact Keeps.refl _ _
    | with_reducible apply State.measureRing_keeps
    | with_reducible apply State.message_keeps
    | with_reducible apply State.put_keeps
    | with_reducible apply State.setPeer_keeps
    | with_reducible refine ite_keeps ?_ ?_
    | with_reducible refine ite_cmdKeeps ?_ ?_
    | intro _
    | split
    | (extract_lets +onlyGivenNames kX; have kh : Keeps kM kR kX := ?_; (on_goal 1 => clear_value kX); (on_goal 2 => subst kX))
    | (extract_lets +onlyGivenNames kX; first | ((first | have kg : SafeSt := kX | have kg : SlabSt := kX | have kg : TimeSt := kX); clear kg; subst kX) | clear_value kX)

theorem execCourseMsgTopo_keeps {h : MsgHead} {down _ring : Nat} {s : State} (kH : Keeps kM kR s) :
    Good kM kR (execCourseMsgTopo h down _ring s) := by
  unfold execCourseMsgTopo
  refine Good.next ?_
  repeat' first
    | with_reducible assumption
    | with_reducible exact Keeps.refl _ _
    | with_reducible apply State.measureRing_keeps
    | with_reducible apply State.message_keeps
    | with_reducible apply State.ringUpdate_keeps
    | with_reducible apply State.setPeer_keeps
    | intro _
    | split

theorem execCourseMsgTime_keeps {h : MsgHead} {change : TimeChange} {s : State} (kH : Keeps kM kR s) :
    Good kM kR (execCourseMsgTime h change s) := by
  unfold execCourseMsgTime
  refine Good.next ?_
  repeat' first
    | with_reducible assumption
    | with_reducible exact Keeps.refl _ _
    | with_reducible apply State.message_keeps
    | with_reducible apply State.timeChange_keeps
    | with_reducible refine ite_keeps ?_ ?_
    | with_reducible refine ite_cmdKeeps ?_ ?_
    | intro _

theorem execCourseMsgSquall_keeps {h : MsgHead} {squall : SquallMsg} {s : State} (kH : Keeps kM kR s) :
    Good kM kR (execCourseMsgSquall h squall s) := by
  unfold execCourseMsgSquall
  refine Good.next ?_
  repeat' first
    | with_reducible assumption
    | with_reducible exact Keeps.refl _ _
    | with_reducible apply State.bumpSat_keeps
    | with_reducible apply State.message_keeps
    | with_reducible apply State.runFrom_keeps
    | with_reducible apply State.squallInsert_keeps
    | with_reducible apply State.squallRelease_keeps
    | with_reducible apply State.squallTrigger_keeps
    | with_reducible refine ite_keeps ?_ ?_
    | with_reducible refine ite_cmdKeeps ?_ ?_
    | intro _
    | split

theorem execCourseMsgSiteJob_keeps {h : MsgHead} {handle : W32} {startBlock site : Nat} {descriptor : List W32} {s : State} (kH : Keeps kM kR s) :
    Good kM kR (execCourseMsgSiteJob h handle startBlock site descriptor s) := by
  unfold execCourseMsgSiteJob
  refine Good.next ?_
  repeat' first
    | with_reducible assumption
    | with_reducible exact Keeps.refl _ _
    | with_reducible apply State.courseSend_keeps
    | with_reducible apply State.message_keeps
    | with_reducible apply State.siteInsert_keeps
    | with_reducible refine ite_keeps ?_ ?_
    | with_reducible refine ite_cmdKeeps ?_ ?_
    | intro _

theorem execCourseMsgSiteCmd_keeps {h : MsgHead} {handle : W32} {release : Bool} {mt : W64} {s : State} (kH : Keeps kM kR s) :
    Good kM kR (execCourseMsgSiteCmd h handle release mt s) := by
  unfold execCourseMsgSiteCmd
  refine Good.next ?_
  repeat' first
    | with_reducible assumption
    | with_reducible exact Keeps.refl _ _
    | with_reducible apply State.finish_keeps
    | with_reducible apply State.message_keeps
    | with_reducible apply State.releaseJob_keeps
    | with_reducible apply State.release_keeps
    | with_reducible refine ite_keeps ?_ ?_
    | with_reducible refine ite_cmdKeeps ?_ ?_
    | intro _
    | split
    | (extract_lets +onlyGivenNames kX; have kh : Keeps kM kR kX := ?_; (on_goal 1 => clear_value kX); (on_goal 2 => subst kX))
    | (extract_lets +onlyGivenNames kX; first | ((first | have kg : SafeSt := kX | have kg : SlabSt := kX | have kg : TimeSt := kX); clear kg; subst kX) | clear_value kX)
    | fail_if_no_progress with_reducible refine Keeps.upd ?_ rfl rfl rfl

theorem State.mapSite_keeps {s : State} {site : Nat} {groups : List Nat} (kH : Keeps kM kR s) :
    Keeps kM kR (State.mapSite s site groups) := by
  unfold State.mapSite
  repeat' first
    | with_reducible assumption
    | with_reducible exact Keeps.refl _ _
    | with_reducible apply forEach_keeps
    | with_reducible apply getD_keeps
    | with_reducible apply State.setCourse_keeps
    | with_reducible apply State.setGroup_keeps
    | with_reducible refine ite_keeps ?_ ?_
    | intro _

theorem execCourseMsgGroupMap_keeps {h : MsgHead} {site : Nat} {groups : List Nat} {s : State} (kH : Keeps kM kR s) :
    Good kM kR (execCourseMsgGroupMap h site groups s) := by
  unfold execCourseMsgGroupMap
  refine Good.next ?_
  repeat' first
    | with_reducible assumption
    | with_reducible exact Keeps.refl _ _
    | with_reducible apply State.mapSite_keeps
    | with_reducible apply State.message_keeps
    | with_reducible refine ite_keeps ?_ ?_
    | with_reducible refine ite_cmdKeeps ?_ ?_
    | intro _

theorem execCourseMsgStrike_keeps {h : MsgHead} {seq : Nat} {sample : W64} {s : State} (kH : Keeps kM kR s) :
    Good kM kR (execCourseMsgStrike h seq sample s) := by
  unfold execCourseMsgStrike
  refine Good.next ?_
  repeat' first
    | with_reducible assumption
    | with_reducible exact Keeps.refl _ _
    | with_reducible apply State.message_keeps
    | with_reducible apply State.strikeAdd_keeps
    | with_reducible refine ite_keeps ?_ ?_
    | with_reducible refine ite_cmdKeeps ?_ ?_
    | intro _

theorem execCourseMsgPartDone_keeps {h : MsgHead} {handle : W32} {reason : Nat} {s : State} (kH : Keeps kM kR s) :
    Good kM kR (execCourseMsgPartDone h handle reason s) := by
  unfold execCourseMsgPartDone
  refine Good.next ?_
  repeat' first
    | with_reducible assumption
    | with_reducible exact Keeps.refl _ _
    | with_reducible apply State.message_keeps
    | with_reducible apply State.partDone_keeps
    | with_reducible refine ite_keeps ?_ ?_
    | with_reducible refine ite_cmdKeeps ?_ ?_
    | intro _

theorem execCourseMsgMigrate_keeps {h : MsgHead} {m brick : Nat} {s : State} (kH : Keeps kM kR s) :
    Good kM kR (execCourseMsgMigrate h m brick s) := by
  unfold execCourseMsgMigrate
  refine Good.next ?_
  repeat' first
    | with_reducible assumption
    | with_reducible exact Keeps.refl _ _
    | with_reducible apply State.excludeTwin_keeps
    | with_reducible apply State.message_keeps
    | with_reducible refine ite_keeps ?_ ?_
    | with_reducible refine ite_cmdKeeps ?_ ?_
    | intro _

theorem State.compareSigs_keeps {s : State} {block : Nat} {mine theirs : List W32} (kH : Keeps kM kR s) :
    Keeps kM kR (State.compareSigs s block mine theirs) := by
  unfold State.compareSigs
  repeat' first
    | with_reducible assumption
    | with_reducible exact Keeps.refl _ _
    | with_reducible apply State.bumpSat_keeps
    | with_reducible apply State.post_keeps
    | with_reducible apply State.put_keeps
    | with_reducible apply State.raise_keeps
    | with_reducible apply State.setCourse_keeps
    | with_reducible refine ite_keeps ?_ ?_
    | split
    | (extract_lets +onlyGivenNames kX; have kh : Keeps kM kR kX := ?_; (on_goal 1 => clear_value kX); (on_goal 2 => subst kX))

theorem State.compareAll_keeps {s : State} (kH : Keeps kM kR s) :
    Keeps kM kR (State.compareAll s) := by
  unfold State.compareAll
  repeat' first
    | with_reducible assumption
    | with_reducible exact Keeps.refl _ _
    | with_reducible apply forEach_keeps
    | with_reducible apply getD_keeps
    | with_reducible apply State.compareSigs_keeps
    | with_reducible apply State.setCourse_keeps
    | intro _

theorem execCourseMsgSig_keeps {h : MsgHead} {block : W32} {sigs : List W32} {s : State} (kH : Keeps kM kR s) :
    Good kM kR (execCourseMsgSig h block sigs s) := by
  unfold execCourseMsgSig
  refine Good.next ?_
  repeat' first
    | with_reducible assumption
    | with_reducible exact Keeps.refl _ _
    | with_reducible apply State.compareAll_keeps
    | with_reducible apply State.message_keeps
    | with_reducible apply State.setCourse_keeps
    | with_reducible refine ite_keeps ?_ ?_
    | with_reducible refine ite_cmdKeeps ?_ ?_
    | intro _

theorem execTwinCheckDone_keeps {failed : Bool} {s : State} (kH : Keeps kM kR s) :
    Good kM kR (execTwinCheckDone failed s) := by
  unfold execTwinCheckDone
  refine Good.next ?_
  repeat' first
    | with_reducible assumption
    | with_reducible exact Keeps.refl _ _
    | with_reducible apply getD_keeps
    | with_reducible apply State.bumpSat_keeps
    | with_reducible apply State.post_keeps
    | with_reducible apply State.put_keeps
    | with_reducible apply State.raiseWith_keeps
    | with_reducible apply State.setCourse_keeps
    | with_reducible apply State.set_keeps
    | with_reducible refine ite_keeps ?_ ?_

theorem execTwinTakeoverStart_keeps {s : State} (kH : Keeps kM kR s) :
    Good kM kR (execTwinTakeoverStart s) := by
  unfold execTwinTakeoverStart
  refine Good.next ?_
  repeat' first
    | with_reducible assumption
    | with_reducible exact Keeps.refl _ _
    | with_reducible apply State.outputsLive_keeps
    | with_reducible apply State.postAt_keeps
    | with_reducible apply State.put_keeps
    | with_reducible apply State.setCourse_keeps
    | with_reducible refine ite_keeps ?_ ?_

theorem execKeystoneLost_keeps {s : State} (kH : Keeps kM kR s) :
    Good kM kR (execKeystoneLost s) := by
  unfold execKeystoneLost
  refine Good.next ?_
  repeat' first
    | with_reducible assumption
    | with_reducible exact Keeps.refl _ _
    | with_reducible apply State.post_keeps
    | with_reducible apply State.put_keeps
    | with_reducible apply State.refLose_keeps
    | with_reducible apply State.setCourse_keeps
    | with_reducible apply State.set_keeps
    | with_reducible refine ite_keeps ?_ ?_

theorem cmdCourseConfig_keeps  : CmdKeeps kM (cmdCourseConfig) := by
  unfold cmdCourseConfig
  refine ⟨fun _ _ kR kS kH => ?_, fun _ _ kR kS kH => ?_, fun _ kR kS kH => ?_⟩
  all_goals try dsimp -zeta only [ans]
  repeat' first
    | with_reducible assumption
    | with_reducible exact Keeps.refl _ _
    | with_reducible apply State.courseInit_keeps
    | with_reducible apply State.put_keeps
    | with_reducible apply State.set_keeps
    | with_reducible refine ite_keeps ?_ ?_

theorem execCourseConfig_keeps {k : Kcp} {s : State} (kH : Keeps kM kR s) :
    Good kM kR (execCourseConfig k s) := by
  unfold execCourseConfig
  refine Good.next ?_
  repeat' first
    | with_reducible assumption
    | with_reducible exact Keeps.refl _ _
    | with_reducible apply cmdCourseConfig_keeps
    | with_reducible apply kcpExec_keeps

theorem cmdCourseGetStatus_keeps  : CmdKeeps kM (cmdCourseGetStatus) := by
  unfold cmdCourseGetStatus
  refine ⟨fun _ _ kR kS kH => ?_, fun _ _ kR kS kH => ?_, fun _ kR kS kH => ?_⟩
  all_goals try dsimp -zeta only [ans]
  repeat' first
    | with_reducible assumption

theorem execCourseGetStatus_keeps {k : Kcp} {s : State} (kH : Keeps kM kR s) :
    Good kM kR (execCourseGetStatus k s) := by
  unfold execCourseGetStatus
  refine Good.next ?_
  repeat' first
    | with_reducible assumption
    | with_reducible exact Keeps.refl _ _
    | with_reducible apply cmdCourseGetStatus_keeps
    | with_reducible apply kcpExec_keeps

theorem cmdCourseSetOffset_keeps  : CmdKeeps kM (cmdCourseSetOffset) := by
  unfold cmdCourseSetOffset
  refine ⟨fun _ _ kR kS kH => ?_, fun _ _ kR kS kH => ?_, fun _ kR kS kH => ?_⟩
  all_goals try dsimp -zeta only [ans]
  repeat' first
    | with_reducible assumption
    | with_reducible exact Keeps.refl _ _
    | with_reducible apply State.tellTime_keeps
    | with_reducible apply State.timeChange_keeps

theorem execCourseSetOffset_keeps {k : Kcp} {s : State} (kH : Keeps kM kR s) :
    Good kM kR (execCourseSetOffset k s) := by
  unfold execCourseSetOffset
  refine Good.next ?_
  repeat' first
    | with_reducible assumption
    | with_reducible exact Keeps.refl _ _
    | with_reducible apply cmdCourseSetOffset_keeps
    | with_reducible apply kcpExec_keeps

theorem cmdCourseMapGroup_keeps  : CmdKeeps kM (cmdCourseMapGroup) := by
  unfold cmdCourseMapGroup
  refine ⟨fun _ _ kR kS kH => ?_, fun _ _ kR kS kH => ?_, fun _ kR kS kH => ?_⟩
  all_goals try dsimp -zeta only [ans]
  repeat' first
    | with_reducible assumption
    | with_reducible exact Keeps.refl _ _
    | with_reducible apply State.courseSend_keeps
    | with_reducible apply State.mapSite_keeps
    | with_reducible refine ite_keeps ?_ ?_

theorem execCourseMapGroup_keeps {k : Kcp} {s : State} (kH : Keeps kM kR s) :
    Good kM kR (execCourseMapGroup k s) := by
  unfold execCourseMapGroup
  refine Good.next ?_
  repeat' first
    | with_reducible assumption
    | with_reducible exact Keeps.refl _ _
    | with_reducible apply cmdCourseMapGroup_keeps
    | with_reducible apply kcpExec_keeps

theorem cmdCourseSetTwin_keeps  : CmdKeeps kM (cmdCourseSetTwin) := by
  unfold cmdCourseSetTwin
  refine ⟨fun _ _ kR kS kH => ?_, fun _ _ kR kS kH => ?_, fun _ kR kS kH => ?_⟩
  all_goals try dsimp -zeta only [ans]
  repeat' first
    | with_reducible assumption
    | with_reducible exact Keeps.refl _ _
    | with_reducible apply State.courseInit_keeps
    | with_reducible apply State.set_keeps

theorem execCourseSetTwin_keeps {k : Kcp} {s : State} (kH : Keeps kM kR s) :
    Good kM kR (execCourseSetTwin k s) := by
  unfold execCourseSetTwin
  refine Good.next ?_
  repeat' first
    | with_reducible assumption
    | with_reducible exact Keeps.refl _ _
    | with_reducible apply cmdCourseSetTwin_keeps
    | with_reducible apply kcpExec_keeps

end Sys2Proof.Machine
end

