-- ==== Sys2Proof/Laws/KeepsStream.lean ====
section
/-! SUPPORT. What the operations of Machine/Stream.lean keep. -/

namespace Sys2Proof.Machine

variable {kM : Bool} {kR : State}

theorem State.setStream_keeps {s : State} {x : StreamSt} (kH : Keeps kM kR s) :
    Keeps kM kR (State.setStream s x) := by
  unfold State.setStream
  repeat' first
    | with_reducible assumption
    | with_reducible exact Keeps.refl _ _
    | fail_if_no_progress with_reducible refine Keeps.upd ?_ rfl rfl rfl

theorem State.noCredits_keeps {s : State} (kH : Keeps kM kR s) :
    Keeps kM kR (State.noCredits s) := by
  unfold State.noCredits
  repeat' first
    | with_reducible assumption
    | with_reducible exact Keeps.refl _ _
    | with_reducible apply forEach_keeps
    | with_reducible apply State.wr_keeps
    | intro _

theorem State.setLanes_keeps {s : State} {lanes failed : Nat} (kH : Keeps kM kR s) :
    Keeps kM kR (State.setLanes s lanes failed) := by
  unfold State.setLanes
  repeat' first
    | with_reducible assumption
    | with_reducible exact Keeps.refl _ _
    | with_reducible apply forEach_keeps
    | with_reducible apply State.put_keeps
    | with_reducible apply State.set_keeps
    | intro _

theorem State.vc1Flit_keeps {s : State} {bs : List Byte} {eom ok : Bool} (kH : Keeps kM kR s) :
    Keeps kM kR (State.vc1Flit s bs eom ok) := by
  unfold State.vc1Flit
  repeat' first
    | with_reducible assumption
    | with_reducible exact Keeps.refl _ _
    | with_reducible apply State.loadArrived_keeps
    | with_reducible apply State.setBank_keeps
    | with_reducible apply State.setKernel_keeps
    | intro _
    | split
    | (extract_lets +onlyGivenNames kX; have kh : Keeps kM kR kX := ?_; (on_goal 1 => clear_value kX); (on_goal 2 => subst kX))
    | (extract_lets +onlyGivenNames kX; first | ((first | have kg : SafeSt := kX | have kg : SlabSt := kX | have kg : TimeSt := kX); clear kg; subst kX) | clear_value kX)
    | fail_if_no_progress with_reducible refine Keeps.upd ?_ rfl rfl rfl

theorem State.loseFlight_keeps {s : State} (kH : Keeps kM kR s) :
    Keeps kM kR (State.loseFlight s) := by
  unfold State.loseFlight
  repeat' first
    | with_reducible assumption
    | with_reducible exact Keeps.refl _ _
    | with_reducible apply State.noCredits_keeps
    | with_reducible apply State.setStream_keeps
    | with_reducible apply State.vc1Flit_keeps
    | with_reducible refine ite_keeps ?_ ?_

theorem State.strmDown_keeps {s : State} {cause : Nat} (kH : Keeps kM kR s) :
    Keeps kM kR (State.strmDown s cause) := by
  unfold State.strmDown
  repeat' first
    | with_reducible assumption
    | with_reducible exact Keeps.refl _ _
    | with_reducible apply State.failType_keeps
    | with_reducible apply State.noCredits_keeps
    | with_reducible apply State.post_keeps
    | with_reducible apply State.put_keeps
    | with_reducible apply State.setStream_keeps
    | with_reducible apply State.set_keeps

theorem State.takeGrants_keeps {s : State} (kH : Keeps kM kR s) :
    Keeps kM kR (State.takeGrants s) := by
  unfold State.takeGrants
  repeat' first
    | with_reducible assumption
    | with_reducible exact Keeps.refl _ _
    | with_reducible apply forEach_keeps
    | with_reducible apply getD_keeps
    | with_reducible apply State.put_keeps
    | intro _

theorem State.trainStart_keeps {s : State} (kH : Keeps kM kR s) :
    Keeps kM kR (State.trainStart s) := by
  unfold State.trainStart
  repeat' first
    | with_reducible assumption
    | with_reducible exact Keeps.refl _ _
    | with_reducible apply State.loseFlight_keeps
    | with_reducible apply State.put_keeps
    | with_reducible apply State.setLanes_keeps

theorem State.strmOn_keeps {s : State} {lanes : Nat} (kH : Keeps kM kR s) :
    Keeps kM kR (State.strmOn s lanes) := by
  unfold State.strmOn
  repeat' first
    | with_reducible assumption
    | with_reducible exact Keeps.refl _ _
    | with_reducible apply State.put_keeps
    | with_reducible apply State.setLanes_keeps
    | with_reducible apply State.set_keeps
    | with_reducible apply State.takeGrants_keeps
    | with_reducible refine ite_keeps ?_ ?_

theorem execStreamTrainingDone_keeps {result : Nat} {lanes : Byte} {us : Nat} {grants : List Nat} {s : State} (kH : Keeps kM kR s) :
    Good kM kR (execStreamTrainingDone result lanes us grants s) := by
  unfold execStreamTrainingDone
  refine Good.next ?_
  repeat' first
    | with_reducible assumption
    | with_reducible exact Keeps.refl _ _
    | with_reducible apply State.draw_snd
    | with_reducible apply State.post_keeps
    | with_reducible apply State.put_keeps
    | with_reducible apply State.setStream_keeps
    | with_reducible apply State.strmDown_keeps
    | with_reducible apply State.strmOn_keeps
    | with_reducible refine State.draw_keeps (by with_reducible assumption) ?_
    | with_reducible refine ite_keeps ?_ ?_

theorem execStreamLaneFail_keeps {lane : Fin 8} {trained : Bool} {s : State} (kH : Keeps kM kR s) :
    Good kM kR (execStreamLaneFail lane trained s) := by
  unfold execStreamLaneFail
  refine Good.next ?_
  repeat' first
    | with_reducible assumption
    | with_reducible exact Keeps.refl _ _
    | with_reducible apply State.bumpSat_keeps
    | with_reducible apply State.draw_snd
    | with_reducible apply State.post_keeps
    | with_reducible apply State.put_keeps
    | with_reducible apply State.set_keeps
    | with_reducible apply State.strmDown_keeps
    | with_reducible apply State.strmOn_keeps
    | with_reducible apply State.trainStart_keeps
    | with_reducible refine State.draw_keeps (by with_reducible assumption) ?_
    | with_reducible refine ite_keeps ?_ ?_

theorem execStreamClockAbsent_keeps {s : State} (kH : Keeps kM kR s) :
    Good kM kR (execStreamClockAbsent s) := by
  unfold execStreamClockAbsent
  refine Good.next ?_
  repeat' first
    | with_reducible assumption
    | with_reducible exact Keeps.refl _ _
    | with_reducible apply State.post_keeps
    | with_reducible apply State.put_keeps
    | with_reducible apply State.strmDown_keeps
    | with_reducible refine ite_keeps ?_ ?_

theorem execStreamAudioFrameRx_keeps {mt : W64} {n : Nat} {len : Nat} {words : List W32} {s : State} (kH : Keeps kM kR s) :
    Good kM kR (execStreamAudioFrameRx mt n len words s) := by
  unfold execStreamAudioFrameRx
  refine Good.next ?_
  repeat' first
    | with_reducible assumption
    | with_reducible exact Keeps.refl _ _
    | with_reducible apply forEach_keeps
    | with_reducible apply getD_keeps
    | with_reducible apply State.bumpSat_keeps
    | with_reducible apply State.bump_keeps
    | with_reducible apply State.placeInput_keeps
    | with_reducible refine ite_keeps ?_ ?_
    | with_reducible refine ite_cmdKeeps ?_ ?_
    | intro _

theorem execStreamAudioFrameTx_keeps {s : State} (kH : Keeps kM kR s) :
    Good kM kR (execStreamAudioFrameTx s) := by
  unfold execStreamAudioFrameTx
  refine Good.next ?_
  repeat' first
    | with_reducible assumption
    | with_reducible exact Keeps.refl _ _
    | with_reducible apply getD_keeps
    | with_reducible apply State.bumpSat_keeps
    | with_reducible apply State.bump_keeps
    | with_reducible apply State.put_keeps
    | with_reducible apply State.setStream_keeps
    | with_reducible refine ite_keeps ?_ ?_

theorem State.returnCredits_keeps {s : State} (kH : Keeps kM kR s) :
    Keeps kM kR (State.returnCredits s) := by
  unfold State.returnCredits
  repeat' first
    | with_reducible assumption
    | with_reducible exact Keeps.refl _ _
    | with_reducible apply State.put_keeps
    | with_reducible refine ite_keeps ?_ ?_

theorem State.owe2_keeps {s : State} (kH : Keeps kM kR s) :
    Keeps kM kR (State.owe2 s) := by
  unfold State.owe2
  repeat' first
    | with_reducible assumption
    | with_reducible exact Keeps.refl _ _
    | with_reducible apply State.put_keeps

theorem State.vc2Done_keeps {s : State} (kH : Keeps kM kR s) :
    Keeps kM kR (State.vc2Done s) := by
  unfold State.vc2Done
  repeat' first
    | with_reducible assumption
    | with_reducible exact Keeps.refl _ _
    | with_reducible apply getD_keeps
    | with_reducible apply State.put_keeps
    | with_reducible apply State.screenOpcode_keeps
    | with_reducible apply State.setStream_keeps
    | with_reducible refine ite_keeps ?_ ?_
    | intro _
    | (extract_lets +onlyGivenNames kX; have kh : Keeps kM kR kX := ?_; (on_goal 1 => clear_value kX); (on_goal 2 => subst kX))
    | (extract_lets +onlyGivenNames kX; first | ((first | have kg : SafeSt := kX | have kg : SlabSt := kX | have kg : TimeSt := kX); clear kg; subst kX) | clear_value kX)
    | fail_if_no_progress with_reducible refine Keeps.upd ?_ rfl rfl rfl

theorem State.vc2Flit_keeps {s : State} {payload : List Byte} {som eom ok : Bool} (kH : Keeps kM kR s) :
    Keeps kM kR (State.vc2Flit s payload som eom ok) := by
  unfold State.vc2Flit
  repeat' first
    | with_reducible assumption
    | with_reducible exact Keeps.refl _ _
    | with_reducible apply State.bumpSat_keeps
    | with_reducible apply State.setStream_keeps
    | with_reducible apply State.vc2Done_keeps
    | with_reducible refine ite_keeps ?_ ?_

theorem State.badFlit_keeps {s : State} {payload : List Byte} {vc ty : Nat} {som eom : Bool} (kH : Keeps kM kR s) :
    Keeps kM kR (State.badFlit s payload vc ty som eom) := by
  unfold State.badFlit
  repeat' first
    | with_reducible assumption
    | with_reducible exact Keeps.refl _ _
    | with_reducible apply forEach_keeps
    | with_reducible apply State.bumpSat_keeps
    | with_reducible apply State.owe2_keeps
    | with_reducible apply State.raise_keeps
    | with_reducible apply State.returnCredits_keeps
    | with_reducible apply State.setStream_keeps
    | with_reducible apply State.set_keeps
    | with_reducible apply State.strmDown_keeps
    | with_reducible apply State.vc1Flit_keeps
    | with_reducible apply State.vc2Flit_keeps
    | with_reducible refine ite_keeps ?_ ?_
    | intro _
    | split

theorem execStreamFlitReceived_keeps {payload : List Byte} {control : BitVec 16} {crcOk : Bool} {s : State} (kH : Keeps kM kR s) :
    Good kM kR (execStreamFlitReceived payload control crcOk s) := by
  unfold execStreamFlitReceived
  refine Good.next ?_
  repeat' first
    | with_reducible assumption
    | with_reducible exact Keeps.refl _ _
    | with_reducible apply getD_keeps
    | with_reducible apply State.badFlit_keeps
    | with_reducible apply State.bumpSat_keeps
    | with_reducible apply State.bump_keeps
    | with_reducible apply State.owe2_keeps
    | with_reducible apply State.put_keeps
    | with_reducible apply State.returnCredits_keeps
    | with_reducible apply State.vc1Flit_keeps
    | with_reducible apply State.vc2Flit_keeps
    | with_reducible refine ite_keeps ?_ ?_
    | with_reducible refine ite_cmdKeeps ?_ ?_
    | intro _
    | split

theorem State.streamTick_keeps {s : State} (kH : Keeps kM kR s) :
    Keeps kM kR (State.streamTick s) := by
  unfold State.streamTick
  repeat' first
    | with_reducible assumption
    | with_reducible exact Keeps.refl _ _
    | with_reducible apply State.put_keeps
    | with_reducible apply State.returnCredits_keeps
    | with_reducible apply State.setStream_keeps
    | split

theorem cmdStreamConfig_keeps  : CmdKeeps kM (cmdStreamConfig) := by
  unfold cmdStreamConfig
  refine ⟨fun _ _ kR kS kH => ?_, fun _ _ kR kS kH => ?_, fun _ kR kS kH => ?_⟩
  all_goals try dsimp -zeta only [ans]
  repeat' first
    | with_reducible assumption
    | with_reducible exact Keeps.refl _ _
    | with_reducible apply State.failType_keeps
    | with_reducible apply State.loseFlight_keeps
    | with_reducible apply State.put_keeps
    | with_reducible apply State.setLanes_keeps
    | with_reducible apply State.writeImage_keeps
    | with_reducible refine ite_keeps ?_ ?_

theorem execStreamConfig_keeps {k : Kcp} {s : State} (kH : Keeps kM kR s) :
    Good kM kR (execStreamConfig k s) := by
  unfold execStreamConfig
  refine Good.next ?_
  repeat' first
    | with_reducible assumption
    | with_reducible exact Keeps.refl _ _
    | with_reducible apply cmdStreamConfig_keeps
    | with_reducible apply kcpExec_keeps

theorem cmdStreamTrain_keeps  : CmdKeeps kM (cmdStreamTrain) := by
  unfold cmdStreamTrain
  refine ⟨fun _ _ kR kS kH => ?_, fun _ _ kR kS kH => ?_, fun _ kR kS kH => ?_⟩
  all_goals try dsimp -zeta only [ans]
  repeat' first
    | with_reducible assumption
    | with_reducible exact Keeps.refl _ _
    | with_reducible apply State.trainStart_keeps

theorem execStreamTrain_keeps {k : Kcp} {s : State} (kH : Keeps kM kR s) :
    Good kM kR (execStreamTrain k s) := by
  unfold execStreamTrain
  refine Good.next ?_
  repeat' first
    | with_reducible assumption
    | with_reducible exact Keeps.refl _ _
    | with_reducible apply cmdStreamTrain_keeps
    | with_reducible apply kcpExec_keeps

theorem cmdStreamGetStatus_keeps  : CmdKeeps kM (cmdStreamGetStatus) := by
  unfold cmdStreamGetStatus
  refine ⟨fun _ _ kR kS kH => ?_, fun _ _ kR kS kH => ?_, fun _ kR kS kH => ?_⟩
  all_goals try dsimp -zeta only [ans]
  repeat' first
    | with_reducible assumption

theorem execStreamGetStatus_keeps {k : Kcp} {s : State} (kH : Keeps kM kR s) :
    Good kM kR (execStreamGetStatus k s) := by
  unfold execStreamGetStatus
  refine Good.next ?_
  repeat' first
    | with_reducible assumption
    | with_reducible exact Keeps.refl _ _
    | with_reducible apply cmdStreamGetStatus_keeps
    | with_reducible apply kcpExec_keeps

theorem cmdStreamMap_keeps  : CmdKeeps kM (cmdStreamMap) := by
  unfold cmdStreamMap
  refine ⟨fun _ _ kR kS kH => ?_, fun _ _ kR kS kH => ?_, fun _ kR kS kH => ?_⟩
  all_goals try dsimp -zeta only [ans]
  repeat' first
    | with_reducible assumption
    | with_reducible exact Keeps.refl _ _
    | with_reducible apply State.setStream_keeps

theorem execStreamMap_keeps {k : Kcp} {s : State} (kH : Keeps kM kR s) :
    Good kM kR (execStreamMap k s) := by
  unfold execStreamMap
  refine Good.next ?_
  repeat' first
    | with_reducible assumption
    | with_reducible exact Keeps.refl _ _
    | with_reducible apply cmdStreamMap_keeps
    | with_reducible apply kcpExec_keeps

end Sys2Proof.Machine
end

