-- ==== Sys2Proof/Laws/KeepsSys.lean ====
section
/-! SUPPORT. What the operations of Machine/Sys.lean keep. -/

namespace Sys2Proof.Machine

variable {kM : Bool} {kR : State}

theorem cmdSysGetCaps_keeps  : CmdKeeps kM (cmdSysGetCaps) := by
  unfold cmdSysGetCaps
  refine ⟨fun _ _ kR kS kH => ?_, fun _ _ kR kS kH => ?_, fun _ kR kS kH => ?_⟩
  all_goals try dsimp -zeta only [ans]
  repeat' first
    | with_reducible assumption

theorem execSysGetCaps_keeps {k : Kcp} {s : State} (kH : Keeps kM kR s) :
    Good kM kR (execSysGetCaps k s) := by
  unfold execSysGetCaps
  refine Good.next ?_
  repeat' first
    | with_reducible assumption
    | with_reducible exact Keeps.refl _ _
    | with_reducible apply cmdSysGetCaps_keeps
    | with_reducible apply kcpExec_keeps

theorem cmdSysGetStatus_keeps  : CmdKeeps kM (cmdSysGetStatus) := by
  unfold cmdSysGetStatus
  refine ⟨fun _ _ kR kS kH => ?_, fun _ _ kR kS kH => ?_, fun _ kR kS kH => ?_⟩
  all_goals try dsimp -zeta only [ans]
  repeat' first
    | with_reducible assumption

theorem execSysGetStatus_keeps {k : Kcp} {s : State} (kH : Keeps kM kR s) :
    Good kM kR (execSysGetStatus k s) := by
  unfold execSysGetStatus
  refine Good.next ?_
  repeat' first
    | with_reducible assumption
    | with_reducible exact Keeps.refl _ _
    | with_reducible apply cmdSysGetStatus_keeps
    | with_reducible apply kcpExec_keeps

theorem cmdSysEcho_keeps  : CmdKeeps kM (cmdSysEcho) := by
  unfold cmdSysEcho
  refine ⟨fun _ _ kR kS kH => ?_, fun _ _ kR kS kH => ?_, fun _ kR kS kH => ?_⟩
  all_goals try dsimp -zeta only [ans]
  repeat' first
    | with_reducible assumption

theorem execSysEcho_keeps {k : Kcp} {s : State} (kH : Keeps kM kR s) :
    Good kM kR (execSysEcho k s) := by
  unfold execSysEcho
  refine Good.next ?_
  repeat' first
    | with_reducible assumption
    | with_reducible exact Keeps.refl _ _
    | with_reducible apply cmdSysEcho_keeps
    | with_reducible apply kcpExec_keeps

theorem State.softReset_keeps {s : State} (kH : Keeps false kR s) :
    Keeps false kR (State.softReset s) := by
  unfold State.softReset
  repeat' first
    | with_reducible assumption
    | with_reducible exact Keeps.refl _ _
    | with_reducible apply State.resetTo_keeps
    | (extract_lets +onlyGivenNames kX; have kh : Keeps false kR kX := ?_; (on_goal 1 => clear_value kX); (on_goal 2 => subst kX))
    | (extract_lets +onlyGivenNames kX; first | ((first | have kg : SafeSt := kX | have kg : SlabSt := kX | have kg : TimeSt := kX); clear kg; subst kX) | clear_value kX)
    | fail_if_no_progress with_reducible refine Keeps.upd ?_ rfl rfl rfl

theorem cmdSoftReset_keeps  : CmdKeeps false (cmdSoftReset) := by
  unfold cmdSoftReset
  refine ⟨fun _ _ kR kS kH => ?_, fun _ _ kR kS kH => ?_, fun _ kR kS kH => ?_⟩
  all_goals try dsimp -zeta only [ans]
  repeat' first
    | with_reducible assumption
    | with_reducible exact Keeps.refl _ _
    | with_reducible apply State.softReset_keeps

theorem cmdBlockReset_keeps  : CmdKeeps kM (cmdBlockReset) := by
  unfold cmdBlockReset
  refine ⟨fun _ _ kR kS kH => ?_, fun _ _ kR kS kH => ?_, fun _ kR kS kH => ?_⟩
  all_goals try dsimp -zeta only [ans]
  repeat' first
    | with_reducible assumption

theorem execSysReset_keeps {k : Kcp} {s : State} (kH : Keeps false kR s) :
    Good false kR (execSysReset k s) := by
  unfold execSysReset
  refine Good.next ?_
  repeat' first
    | with_reducible assumption
    | with_reducible exact Keeps.refl _ _
    | with_reducible apply cmdBlockReset_keeps
    | with_reducible apply cmdSoftReset_keeps
    | with_reducible apply kcpExec_keeps
    | with_reducible refine ite_keeps ?_ ?_
    | with_reducible refine ite_cmdKeeps ?_ ?_

theorem State.zeroSlabs_keeps {s : State} {owner sub : Nat} (kH : Keeps kM kR s) : Keeps kM kR (s.zeroSlabs owner sub) :=
  kH.slabs (storeWf_filter _) rfl rfl rfl rfl rfl rfl rfl

theorem State.resetChan_keeps {s : State} {n : Nat} (kH : Keeps kM kR s) :
    Keeps kM kR (State.resetChan s n) := by
  unfold State.resetChan
  repeat' first
    | with_reducible assumption
    | with_reducible exact Keeps.refl _ _
    | with_reducible apply State.atAnaEnable_keeps
    | with_reducible apply State.clearRegs_keeps

theorem State.resetCourse_keeps {s : State} (kH : Keeps kM kR s) :
    Keeps kM kR (State.resetCourse s) := by
  unfold State.resetCourse
  repeat' first
    | with_reducible assumption
    | with_reducible exact Keeps.refl _ _
    | with_reducible apply State.clearRegs_keeps
    | with_reducible apply State.courseInit_keeps
    | with_reducible apply State.put_keeps
    | (extract_lets +onlyGivenNames kX; have kh : Keeps kM kR kX := ?_; (on_goal 1 => clear_value kX); (on_goal 2 => subst kX))
    | (extract_lets +onlyGivenNames kX; first | ((first | have kg : SafeSt := kX | have kg : SlabSt := kX | have kg : TimeSt := kX); clear kg; subst kX) | clear_value kX)
    | fail_if_no_progress with_reducible refine Keeps.upd ?_ rfl rfl rfl

theorem State.resetStream_keeps {s : State} (kH : Keeps kM kR s) :
    Keeps kM kR (State.resetStream s) := by
  unfold State.resetStream
  repeat' first
    | with_reducible assumption
    | with_reducible exact Keeps.refl _ _
    | with_reducible apply State.clearRegs_keeps
    | with_reducible apply State.failType_keeps
    | with_reducible apply State.loseFlight_keeps
    | with_reducible apply State.setStream_keeps

theorem State.resetMix_keeps {s : State} (kH : Keeps kM kR s) :
    Keeps kM kR (State.resetMix s) := by
  unfold State.resetMix
  repeat' first
    | with_reducible assumption
    | with_reducible exact Keeps.refl _ _
    | with_reducible apply State.setPend_keeps
    | with_reducible apply State.setTaps_keeps
    | with_reducible apply State.tapsNote_keeps
    | intro _
    | (extract_lets +onlyGivenNames kX; have kh : Keeps kM kR kX := ?_; (on_goal 1 => clear_value kX); (on_goal 2 => subst kX))
    | (extract_lets +onlyGivenNames kX; first | ((first | have kg : SafeSt := kX | have kg : SlabSt := kX | have kg : TimeSt := kX); clear kg; subst kX) | clear_value kX)
    | fail_if_no_progress with_reducible refine Keeps.upd ?_ rfl rfl rfl

theorem State.resetBrick_keeps {s : State} {b mt : Nat} (kH : Keeps kM kR s) :
    Keeps kM kR (State.resetBrick s b mt) := by
  unfold State.resetBrick
  repeat' first
    | with_reducible assumption
    | with_reducible exact Keeps.refl _ _
    | with_reducible apply forEach_keeps
    | with_reducible apply State.brickKernel_keeps
    | with_reducible apply State.stopJob_keeps
    | with_reducible apply State.wr_keeps
    | intro _
    | split

theorem State.atBlockReset_keeps {s : State} {mt : Nat} {p : List W32} (kH : Keeps kM kR s) :
    Keeps kM kR (State.atBlockReset s mt p) := by
  unfold State.atBlockReset
  repeat' first
    | with_reducible assumption
    | with_reducible exact Keeps.refl _ _
    | with_reducible apply getD_keeps
    | with_reducible apply State.bump_keeps
    | with_reducible apply State.clearRegs_keeps
    | with_reducible apply State.leaders_keeps
    | with_reducible apply State.portHalt_keeps
    | with_reducible apply State.resetBrick_keeps
    | with_reducible apply State.resetChan_keeps
    | with_reducible apply State.resetCourse_keeps
    | with_reducible apply State.resetMix_keeps
    | with_reducible apply State.resetStream_keeps
    | with_reducible apply State.setUart_keeps
    | with_reducible apply State.zeroSlabs_keeps
    | with_reducible apply State.zoneReset_keeps
    | with_reducible refine ite_keeps ?_ ?_
    | intro _
    | split
    | (extract_lets +onlyGivenNames kX; have kh : Keeps kM kR kX := ?_; (on_goal 1 => clear_value kX); (on_goal 2 => subst kX))
    | (extract_lets +onlyGivenNames kX; first | ((first | have kg : SafeSt := kX | have kg : SlabSt := kX | have kg : TimeSt := kX); clear kg; subst kX) | clear_value kX)
    | fail_if_no_progress with_reducible refine Keeps.upd ?_ rfl rfl rfl

theorem cmdSysSetState_keeps  : CmdKeeps kM (cmdSysSetState) := by
  unfold cmdSysSetState
  refine ⟨fun _ _ kR kS kH => ?_, fun _ _ kR kS kH => ?_, fun _ kR kS kH => ?_⟩
  all_goals try dsimp -zeta only [ans]
  repeat' first
    | with_reducible assumption
    | with_reducible exact Keeps.refl _ _
    | with_reducible refine ite_keeps ?_ ?_
    | intro _
    | split
    | (extract_lets +onlyGivenNames kX; have kh : Keeps kM kR kX := ?_; (on_goal 1 => clear_value kX); (on_goal 2 => subst kX))
    | (extract_lets +onlyGivenNames kX; first | ((first | have kg : SafeSt := kX | have kg : SlabSt := kX | have kg : TimeSt := kX); clear kg; subst kX) | clear_value kX)
    | fail_if_no_progress with_reducible refine Keeps.upd ?_ rfl rfl rfl

theorem execSysSetState_keeps {k : Kcp} {s : State} (kH : Keeps kM kR s) :
    Good kM kR (execSysSetState k s) := by
  unfold execSysSetState
  refine Good.next ?_
  repeat' first
    | with_reducible assumption
    | with_reducible exact Keeps.refl _ _
    | with_reducible apply cmdSysSetState_keeps
    | with_reducible apply kcpExec_keeps

theorem State.abortAll_keeps {s : State} {mt : Nat} (kH : Keeps kM kR s) :
    Keeps kM kR (State.abortAll s mt) := by
  unfold State.abortAll
  repeat' first
    | with_reducible assumption
    | with_reducible exact Keeps.refl _ _
    | with_reducible apply forEach_keeps
    | with_reducible apply State.stopJob_keeps
    | intro _

theorem State.lullBegin_keeps {s : State} {mt : Nat} (kH : Keeps kM kR s) :
    Keeps kM kR (State.lullBegin s mt) := by
  unfold State.lullBegin
  repeat' first
    | with_reducible assumption
    | with_reducible exact Keeps.refl _ _
    | with_reducible apply forEach_keeps
    | with_reducible apply State.abortAll_keeps
    | with_reducible apply State.outputsInert_keeps
    | with_reducible apply State.portStopAt_keeps
    | with_reducible apply State.setPort_keeps
    | with_reducible refine ite_keeps ?_ ?_
    | intro _
    | (extract_lets +onlyGivenNames kX; have kh : Keeps kM kR kX := ?_; (on_goal 1 => clear_value kX); (on_goal 2 => subst kX))
    | fail_if_no_progress with_reducible refine Keeps.upd ?_ rfl rfl rfl

theorem State.atSetState_keeps {s : State} {mt : Nat} {p : List W32} (kH : Keeps kM kR s) :
    Keeps kM kR (State.atSetState s mt p) := by
  unfold State.atSetState
  repeat' first
    | with_reducible assumption
    | with_reducible exact Keeps.refl _ _
    | with_reducible apply getD_keeps
    | with_reducible apply State.abortAll_keeps
    | with_reducible apply State.changePower_keeps
    | with_reducible apply State.lullBegin_keeps
    | with_reducible apply State.outputsInert_keeps
    | with_reducible apply State.outputsLive_keeps
    | intro _
    | split

theorem cmdSysConfigBuild_keeps  : CmdKeeps kM (cmdSysConfigBuild) := by
  unfold cmdSysConfigBuild
  refine ⟨fun _ _ kR kS kH => ?_, fun _ _ kR kS kH => ?_, fun _ kR kS kH => ?_⟩
  all_goals try dsimp -zeta only [ans]
  repeat' first
    | with_reducible assumption
    | with_reducible exact Keeps.refl _ _
    | intro _
    | (extract_lets +onlyGivenNames kX; have kh : Keeps kM kR kX := ?_; (on_goal 1 => clear_value kX); (on_goal 2 => subst kX))
    | (extract_lets +onlyGivenNames kX; first | ((first | have kg : SafeSt := kX | have kg : SlabSt := kX | have kg : TimeSt := kX); clear kg; subst kX) | clear_value kX)
    | fail_if_no_progress with_reducible refine Keeps.upd ?_ rfl rfl rfl

theorem execSysConfigBuild_keeps {k : Kcp} {s : State} (kH : Keeps kM kR s) :
    Good kM kR (execSysConfigBuild k s) := by
  unfold execSysConfigBuild
  refine Good.next ?_
  repeat' first
    | with_reducible assumption
    | with_reducible exact Keeps.refl _ _
    | with_reducible apply cmdSysConfigBuild_keeps
    | with_reducible apply kcpExec_keeps

theorem cmdSysConfigCommit_keeps  : CmdKeeps kM (cmdSysConfigCommit) := by
  unfold cmdSysConfigCommit
  refine ⟨fun _ _ kR kS kH => ?_, fun _ _ kR kS kH => ?_, fun _ kR kS kH => ?_⟩
  all_goals try dsimp -zeta only [ans]
  repeat' first
    | with_reducible assumption
    | with_reducible exact Keeps.refl _ _
    | with_reducible apply Cmd.take_keeps
    | with_reducible apply State.post_keeps
    | with_reducible apply State.put_keeps
    | with_reducible apply State.set_keeps
    | with_reducible refine ite_keeps ?_ ?_
    | intro _
    | split
    | (extract_lets +onlyGivenNames kX; have kh : Keeps kM kR kX := ?_; (on_goal 1 => clear_value kX); (on_goal 2 => subst kX))
    | (extract_lets +onlyGivenNames kX; first | ((first | have kg : SafeSt := kX | have kg : SlabSt := kX | have kg : TimeSt := kX); clear kg; subst kX) | clear_value kX)
    | fail_if_no_progress with_reducible refine Keeps.upd ?_ rfl rfl rfl

theorem execSysConfigCommit_keeps {k : Kcp} {s : State} (kH : Keeps kM kR s) :
    Good kM kR (execSysConfigCommit k s) := by
  unfold execSysConfigCommit
  refine Good.next ?_
  repeat' first
    | with_reducible assumption
    | with_reducible exact Keeps.refl _ _
    | with_reducible apply cmdSysConfigCommit_keeps
    | with_reducible apply kcpExec_keeps

theorem cmdSysConfigErase_keeps  : CmdKeeps kM (cmdSysConfigErase) := by
  unfold cmdSysConfigErase
  refine ⟨fun _ _ kR kS kH => ?_, fun _ _ kR kS kH => ?_, fun _ kR kS kH => ?_⟩
  all_goals try dsimp -zeta only [ans]
  repeat' first
    | with_reducible assumption
    | with_reducible exact Keeps.refl _ _
    | with_reducible apply State.put_keeps
    | with_reducible apply State.set_keeps
    | with_reducible refine ite_keeps ?_ ?_
    | intro _
    | split
    | (extract_lets +onlyGivenNames kX; have kh : Keeps kM kR kX := ?_; (on_goal 1 => clear_value kX); (on_goal 2 => subst kX))
    | (extract_lets +onlyGivenNames kX; first | ((first | have kg : SafeSt := kX | have kg : SlabSt := kX | have kg : TimeSt := kX); clear kg; subst kX) | clear_value kX)
    | fail_if_no_progress with_reducible refine Keeps.upd ?_ rfl rfl rfl

theorem execSysConfigErase_keeps {k : Kcp} {s : State} (kH : Keeps kM kR s) :
    Good kM kR (execSysConfigErase k s) := by
  unfold execSysConfigErase
  refine Good.next ?_
  repeat' first
    | with_reducible assumption
    | with_reducible exact Keeps.refl _ _
    | with_reducible apply cmdSysConfigErase_keeps
    | with_reducible apply kcpExec_keeps

theorem State.configDone_keeps {s : State} {ok : Bool} (kH : Keeps kM kR s) :
    Keeps kM kR (State.configDone s ok) := by
  unfold State.configDone
  repeat' first
    | with_reducible assumption
    | with_reducible exact Keeps.refl _ _
    | with_reducible apply State.post_keeps
    | with_reducible apply State.put_keeps
    | with_reducible apply State.set_keeps
    | with_reducible apply State.showRegion_keeps
    | with_reducible refine ite_keeps ?_ ?_

theorem execNorRegionUpdateDone_keeps {region : Fin 4} {ok : Bool} {s : State} (kH : Keeps kM kR s) :
    Good kM kR (execNorRegionUpdateDone region ok s) := by
  unfold execNorRegionUpdateDone
  refine Good.next ?_
  repeat' first
    | with_reducible assumption
    | with_reducible exact Keeps.refl _ _
    | with_reducible apply State.configDone_keeps
    | with_reducible apply State.noteErase_keeps
    | with_reducible refine ite_keeps ?_ ?_
    | with_reducible refine ite_cmdKeeps ?_ ?_
    | split
    | (extract_lets +onlyGivenNames kX; have kh : Keeps kM kR kX := ?_; (on_goal 1 => clear_value kX); (on_goal 2 => subst kX))
    | (extract_lets +onlyGivenNames kX; first | ((first | have kg : SafeSt := kX | have kg : SlabSt := kX | have kg : TimeSt := kX); clear kg; subst kX) | clear_value kX)
    | fail_if_no_progress with_reducible refine Keeps.upd ?_ rfl rfl rfl

theorem execConfigEraseDone_keeps {ok : Bool} {s : State} (kH : Keeps kM kR s) :
    Good kM kR (execConfigEraseDone ok s) := by
  unfold execConfigEraseDone
  refine Good.next ?_
  repeat' first
    | with_reducible assumption
    | with_reducible exact Keeps.refl _ _
    | with_reducible apply State.configDone_keeps
    | with_reducible apply State.noteErase_keeps
    | with_reducible refine ite_keeps ?_ ?_
    | with_reducible refine ite_cmdKeeps ?_ ?_
    | (extract_lets +onlyGivenNames kX; have kh : Keeps kM kR kX := ?_; (on_goal 1 => clear_value kX); (on_goal 2 => subst kX))
    | (extract_lets +onlyGivenNames kX; first | ((first | have kg : SafeSt := kX | have kg : SlabSt := kX | have kg : TimeSt := kX); clear kg; subst kX) | clear_value kX)
    | fail_if_no_progress with_reducible refine Keeps.upd ?_ rfl rfl rfl

end Sys2Proof.Machine
end

