-- ==== Sys2Proof/Laws/KeepsAudio.lean ====
section
/-! SUPPORT. What the operations of Machine/Audio.lean keep. -/

namespace Sys2Proof.Machine

variable {kM : Bool} {kR : State}

theorem State.noteLive_keeps {s : State} {rets : List (Nat × List Int)} {b : Nat} (kH : Keeps kM kR s) :
    Keeps kM kR (State.noteLive s rets b) := by
  unfold State.noteLive
  repeat' first
    | with_reducible assumption
    | with_reducible exact Keeps.refl _ _
    | intro _
    | (extract_lets +onlyGivenNames kX; have kh : Keeps kM kR kX := ?_; (on_goal 1 => clear_value kX); (on_goal 2 => subst kX))
    | (extract_lets +onlyGivenNames kX; first | ((first | have kg : SafeSt := kX | have kg : SlabSt := kX | have kg : TimeSt := kX); clear kg; subst kX) | clear_value kX)
    | fail_if_no_progress with_reducible refine Keeps.upd ?_ rfl rfl rfl

theorem State.duckTaps_keeps {s : State} {b : Nat} (kH : Keeps kM kR s) :
    Keeps kM kR (State.duckTaps s b) := by
  unfold State.duckTaps
  repeat' first
    | with_reducible assumption
    | with_reducible exact Keeps.refl _ _
    | with_reducible apply State.setTaps_keeps

theorem State.zoneStages_keeps {s : State} {z : Zone} {b jump : Nat} (kH : Keeps kM kR s) :
    Keeps kM kR (State.zoneStages s z b jump) := by
  unfold State.zoneStages
  repeat' first
    | with_reducible assumption
    | with_reducible exact Keeps.refl _ _
    | with_reducible apply getD_keeps
    | with_reducible apply State.hold_keeps
    | with_reducible apply State.put_keeps
    | with_reducible apply State.setZone_keeps
    | with_reducible apply State.set_keeps
    | with_reducible refine ite_keeps ?_ ?_

theorem State.zoneBlock_keeps {s : State} {b jump n : Nat} (kH : Keeps kM kR s) :
    Keeps kM kR (State.zoneBlock s b jump n) := by
  unfold State.zoneBlock
  repeat' first
    | with_reducible assumption
    | with_reducible exact Keeps.refl _ _
    | with_reducible apply getD_keeps
    | with_reducible apply State.hold_keeps
    | with_reducible apply State.put_keeps
    | with_reducible apply State.setZone_keeps
    | with_reducible apply State.set_keeps
    | with_reducible apply State.zoneStages_keeps
    | with_reducible refine ite_keeps ?_ ?_

theorem State.zoneAll_keeps {s : State} {b jump : Nat} (kH : Keeps kM kR s) :
    Keeps kM kR (State.zoneAll s b jump) := by
  unfold State.zoneAll
  repeat' first
    | with_reducible assumption
    | with_reducible exact Keeps.refl _ _
    | with_reducible apply forEach_keeps
    | with_reducible apply State.zoneBlock_keeps
    | intro _

end Sys2Proof.Machine
end

