-- ==== Sys2Proof/Laws/KeepsRender.lean ====
section
/-! SUPPORT. What the operations of Machine/Render.lean keep. -/

namespace Sys2Proof.Machine

variable {kM : Bool} {kR : State}

theorem State.serveFront_keeps {br n : Nat} {s : State} (kH : Keeps kM kR s) : Keeps kM kR (s.serveFront br n) := by
  induction n generalizing s with
  | zero => exact kH
  | succ n ih =>
    unfold State.serveFront
    split
    · exact kH
    · exact ih (State.spendFront_keeps (State.renderBlock_keeps kH))

theorem State.serveQueue_keeps {br n : Nat} {goal : State → Bool} {s : State} (kH : Keeps kM kR s) :
    Keeps kM kR (s.serveQueue br goal n) := by
  induction n generalizing s with
  | zero => exact kH
  | succ n ih =>
    unfold State.serveQueue
    dsimp only
    repeat' split
    · exact kH
    · exact kH
    · exact ih (State.restoreVoice_keeps kH)
    · exact kH
    · exact ih (State.useReserve_keeps (State.renderBlock_keeps kH))

theorem State.serveAll_keeps {s : State} (kH : Keeps kM kR s) :
    Keeps kM kR (State.serveAll s) := by
  unfold State.serveAll
  repeat' first
    | with_reducible assumption
    | with_reducible exact Keeps.refl _ _
    | with_reducible apply forEach_keeps
    | with_reducible apply State.serveQueue_keeps
    | with_reducible refine ite_keeps ?_ ?_
    | intro _

theorem State.renderPeriod_keeps {s : State} (kH : Keeps kM kR s) :
    Keeps kM kR (State.renderPeriod s) := by
  unfold State.renderPeriod
  repeat' first
    | with_reducible assumption
    | with_reducible exact Keeps.refl _ _
    | with_reducible apply forEach_keeps
    | with_reducible apply State.serveAll_keeps
    | with_reducible apply State.serveFront_keeps
    | with_reducible refine ite_keeps ?_ ?_
    | intro _

theorem State.noteStart_keeps {s : State} {j : Job} (kH : Keeps kM kR s) :
    Keeps kM kR (State.noteStart s j) := by
  unfold State.noteStart
  repeat' first
    | with_reducible assumption
    | with_reducible exact Keeps.refl _ _
    | with_reducible apply State.postAt_keeps
    | with_reducible apply State.record_keeps
    | with_reducible apply State.setJob_keeps
    | with_reducible refine ite_keeps ?_ ?_
    | intro _
    | split

theorem State.noteStarts_keeps {s : State} (kH : Keeps kM kR s) :
    Keeps kM kR (State.noteStarts s) := by
  unfold State.noteStarts
  repeat' first
    | with_reducible assumption
    | with_reducible exact Keeps.refl _ _
    | with_reducible apply forEach_keeps
    | with_reducible apply State.noteStart_keeps
    | intro _

theorem execRollbackRerender_keeps {src : Nat} {s : State} (kH : Keeps kM kR s) :
    Good kM kR (execRollbackRerender src s) := by
  unfold execRollbackRerender
  refine Good.next ?_
  repeat' first
    | with_reducible assumption
    | with_reducible exact Keeps.refl _ _
    | with_reducible apply State.callNext_keeps
    | with_reducible apply State.serveQueue_keeps
    | with_reducible refine ite_keeps ?_ ?_

end Sys2Proof.Machine
end

