-- ==== Sys2Proof/Laws/KeepsOutlet.lean ====
section
/-! SUPPORT. What the operations of Machine/Outlet.lean keep. -/

namespace Sys2Proof.Machine

variable {kM : Bool} {kR : State}

theorem State.toStream_keeps {s : State} {b : Nat} (kH : Keeps kM kR s) :
    Keeps kM kR (State.toStream s b) := by
  unfold State.toStream
  repeat' first
    | with_reducible assumption
    | with_reducible exact Keeps.refl _ _
    | with_reducible apply State.setStream_keeps

theorem State.toCourse_keeps {s : State} {b : Nat} (kH : Keeps kM kR s) :
    Keeps kM kR (State.toCourse s b) := by
  unfold State.toCourse
  repeat' first
    | with_reducible assumption
    | with_reducible exact Keeps.refl _ _
    | with_reducible apply State.setCourse_keeps

theorem State.toPorts_keeps {s : State} {b : Nat} (kH : Keeps kM kR s) :
    Keeps kM kR (State.toPorts s b) := by
  unfold State.toPorts
  repeat' first
    | with_reducible assumption
    | with_reducible exact Keeps.refl _ _
    | with_reducible apply forEach_keeps
    | with_reducible apply getD_keeps
    | with_reducible apply State.portWriteOut_keeps
    | with_reducible apply State.set_keeps
    | with_reducible refine ite_keeps ?_ ?_
    | intro _

theorem State.toAna_keeps {s : State} (kH : Keeps kM kR s) :
    Keeps kM kR (State.toAna s) := by
  unfold State.toAna
  repeat' first
    | with_reducible assumption
    | with_reducible exact Keeps.refl _ _
    | with_reducible apply forEach_keeps
    | with_reducible apply getD_keeps
    | with_reducible apply State.anaTick_keeps
    | with_reducible refine ite_keeps ?_ ?_
    | intro _

theorem State.transport_keeps {s : State} (kH : Keeps kM kR s) :
    Keeps kM kR (State.transport s) := by
  unfold State.transport
  repeat' first
    | with_reducible assumption
    | with_reducible exact Keeps.refl _ _
    | with_reducible apply State.toAna_keeps
    | with_reducible apply State.toCourse_keeps
    | with_reducible apply State.toPorts_keeps
    | with_reducible apply State.toStream_keeps
    | intro _
    | (extract_lets +onlyGivenNames kX; have kh : Keeps kM kR kX := ?_; (on_goal 1 => clear_value kX); (on_goal 2 => subst kX))
    | (extract_lets +onlyGivenNames kX; first | ((first | have kg : SafeSt := kX | have kg : SlabSt := kX | have kg : TimeSt := kX); clear kg; subst kX) | clear_value kX)
    | fail_if_no_progress with_reducible refine Keeps.upd ?_ rfl rfl rfl

theorem State.busClips_keeps {s : State} {bus b : Nat} (kH : Keeps kM kR s) :
    Keeps kM kR (State.busClips s bus b) := by
  unfold State.busClips
  repeat' first
    | with_reducible assumption
    | with_reducible exact Keeps.refl _ _
    | with_reducible apply getD_keeps
    | with_reducible apply State.post_keeps
    | with_reducible apply State.wr_keeps
    | with_reducible refine ite_keeps ?_ ?_
    | intro _
    | (extract_lets +onlyGivenNames kX; have kh : Keeps kM kR kX := ?_; (on_goal 1 => clear_value kX); (on_goal 2 => subst kX))
    | (extract_lets +onlyGivenNames kX; first | ((first | have kg : SafeSt := kX | have kg : SlabSt := kX | have kg : TimeSt := kX); clear kg; subst kX) | clear_value kX)
    | fail_if_no_progress with_reducible refine Keeps.upd ?_ rfl rfl rfl

theorem State.showLive_keeps {s : State} {b : Nat} (kH : Keeps kM kR s) :
    Keeps kM kR (State.showLive s b) := by
  unfold State.showLive
  repeat' first
    | with_reducible assumption
    | with_reducible exact Keeps.refl _ _
    | with_reducible apply forEach_keeps
    | with_reducible apply State.wr_keeps
    | intro _

theorem State.mixBuses_keeps {s : State} {rets : List (Nat × List Int)} {b : Nat} (kH : Keeps kM kR s) :
    Keeps kM kR (State.mixBuses s rets b) := by
  unfold State.mixBuses
  repeat' first
    | with_reducible assumption
    | with_reducible exact Keeps.refl _ _
    | with_reducible apply forEach_keeps
    | with_reducible apply getD_keeps
    | with_reducible apply State.busClips_keeps
    | with_reducible refine ite_keeps ?_ ?_
    | intro _
    | (extract_lets +onlyGivenNames kX; have kh : Keeps kM kR kX := ?_; (on_goal 1 => clear_value kX); (on_goal 2 => subst kX))
    | (extract_lets +onlyGivenNames kX; have kf : ∀ t, Keeps kM kR t → Keeps kM kR (kX t) := ?_; (on_goal 1 => clear_value kX); (on_goal 2 => subst kX))
    | with_reducible apply kf
    | (extract_lets +onlyGivenNames kX; first | ((first | have kg : SafeSt := kX | have kg : SlabSt := kX | have kg : TimeSt := kX); clear kg; subst kX) | clear_value kX)
    | fail_if_no_progress with_reducible refine Keeps.upd ?_ rfl rfl rfl

theorem State.countLate_keeps {s : State} {v : Voice} (kH : Keeps kM kR s) :
    Keeps kM kR (State.countLate s v) := by
  unfold State.countLate
  repeat' first
    | with_reducible assumption
    | with_reducible exact Keeps.refl _ _
    | with_reducible apply State.bump_keeps
    | with_reducible apply State.record_keeps
    | with_reducible apply State.setJob_keeps
    | with_reducible apply State.setVoice_keeps
    | split
    | (extract_lets +onlyGivenNames kX; have kh : Keeps kM kR kX := ?_; (on_goal 1 => clear_value kX); (on_goal 2 => subst kX))

theorem State.commitVoice_keeps {s : State} {v : Voice} {b : Nat} {muted : Bool} (kH : Keeps kM kR s) :
    Keeps kM kR (State.commitVoice s v b muted) := by
  unfold State.commitVoice
  repeat' first
    | with_reducible assumption
    | with_reducible exact Keeps.refl _ _
    | with_reducible apply getD_keeps
    | with_reducible apply State.countLate_keeps
    | with_reducible apply State.record_keeps
    | with_reducible apply State.setJob_keeps
    | with_reducible apply State.setVoice_keeps
    | with_reducible refine ite_keeps ?_ ?_
    | intro _
    | split
    | (extract_lets +onlyGivenNames kX; have kh : Keeps kM kR kX := ?_; (on_goal 1 => clear_value kX); (on_goal 2 => subst kX))
    | (extract_lets +onlyGivenNames kX; first | ((first | have kg : SafeSt := kX | have kg : SlabSt := kX | have kg : TimeSt := kX); clear kg; subst kX) | clear_value kX)
    | fail_if_no_progress with_reducible refine Keeps.upd ?_ rfl rfl rfl

theorem State.rest_keeps {s : State} {v : Voice} (kH : Keeps kM kR s) :
    Keeps kM kR (State.rest s v) := by
  unfold State.rest
  repeat' first
    | with_reducible assumption
    | with_reducible exact Keeps.refl _ _
    | with_reducible apply State.setVoice_keeps
    | with_reducible refine ite_keeps ?_ ?_

theorem State.lateEvents_keeps {s : State} {b : Nat} (kH : Keeps kM kR s) :
    Keeps kM kR (State.lateEvents s b) := by
  unfold State.lateEvents
  repeat' first
    | with_reducible assumption
    | with_reducible exact Keeps.refl _ _
    | with_reducible apply forEach_keeps
    | with_reducible apply foldl_keeps
    | with_reducible apply State.post_keeps
    | intro _

theorem State.shiftCycles_keeps {s : State} (kH : Keeps kM kR s) :
    Keeps kM kR (State.shiftCycles s) := by
  unfold State.shiftCycles
  repeat' first
    | with_reducible assumption
    | with_reducible exact Keeps.refl _ _
    | with_reducible apply getD_keeps
    | with_reducible apply Cmd.take_keeps
    | intro _
    | fail_if_no_progress with_reducible refine Keeps.upd ?_ rfl rfl rfl

theorem State.shiftReserve_keeps {s : State} (kH : Keeps kM kR s) :
    Keeps kM kR (State.shiftReserve s) := by
  unfold State.shiftReserve
  repeat' first
    | with_reducible assumption
    | with_reducible exact Keeps.refl _ _
    | with_reducible apply getD_keeps
    | with_reducible apply Cmd.take_keeps
    | intro _
    | fail_if_no_progress with_reducible refine Keeps.upd ?_ rfl rfl rfl

theorem State.commitVoices_keeps {s : State} {b : Nat} {muted : Bool} (kH : Keeps kM kR s) :
    Keeps kM kR (State.commitVoices s b muted) := by
  unfold State.commitVoices
  repeat' first
    | with_reducible assumption
    | with_reducible exact Keeps.refl _ _
    | with_reducible apply forEach_keeps
    | with_reducible apply State.commitVoice_keeps
    | with_reducible apply State.lateEvents_keeps
    | with_reducible apply State.rest_keeps
    | with_reducible refine ite_keeps ?_ ?_
    | intro _
    | (extract_lets +onlyGivenNames kX; have kh : Keeps kM kR kX := ?_; (on_goal 1 => clear_value kX); (on_goal 2 => subst kX))
    | (extract_lets +onlyGivenNames kX; first | ((first | have kg : SafeSt := kX | have kg : SlabSt := kX | have kg : TimeSt := kX); clear kg; subst kX) | clear_value kX)
    | fail_if_no_progress with_reducible refine Keeps.upd ?_ rfl rfl rfl

theorem State.sendPass_keeps {s ahead : State} {rets : List (Nat × List Int)} (kH : Keeps kM kR s) :
    Keeps kM kR (State.sendPass s ahead rets) := by
  unfold State.sendPass
  repeat' first
    | with_reducible assumption
    | with_reducible exact Keeps.refl _ _
    | with_reducible apply forEach_keeps
    | with_reducible apply getD_keeps
    | with_reducible apply State.countLate_keeps
    | with_reducible apply State.record_keeps
    | with_reducible refine ite_keeps ?_ ?_
    | intro _
    | split
    | (extract_lets +onlyGivenNames kX; have kh : Keeps kM kR kX := ?_; (skip); (on_goal 2 => subst kX))
    | (extract_lets +onlyGivenNames kX; have kf : ∀ t, Keeps kM kR t → Keeps kM kR (kX t) := ?_; (skip); (on_goal 2 => subst kX))
    | with_reducible apply kf
    | extract_lets +onlyGivenNames kX
    | fail_if_no_progress with_reducible refine Keeps.upd ?_ rfl rfl rfl

end Sys2Proof.Machine
end

