-- ==== Sys2Proof/Laws/KeepsTick.lean ====
section
/-! SUPPORT. What the operations of Machine/Tick.lean keep. -/

namespace Sys2Proof.Machine

variable {kM : Bool} {kR : State}

theorem State.applyTimed_keeps {s : State} {t : Timed} {mt : Nat} (kH : Keeps kM kR s) :
    Keeps kM kR (State.applyTimed s t mt) := by
  unfold State.applyTimed
  repeat' first
    | with_reducible assumption
    | with_reducible exact Keeps.refl _ _
    | with_reducible apply getD_keeps
    | with_reducible apply State.atAnaConfig_keeps
    | with_reducible apply State.atAnaEnable_keeps
    | with_reducible apply State.atAnaRange_keeps
    | with_reducible apply State.atBlockReset_keeps
    | with_reducible apply State.atContactOut_keeps
    | with_reducible apply State.atJobAbort_keeps
    | with_reducible apply State.atMixClear_keeps
    | with_reducible apply State.atRouteAux_keeps
    | with_reducible apply State.atSetClass_keeps
    | with_reducible apply State.atSetGen_keeps
    | with_reducible apply State.atSetGroup_keeps
    | with_reducible apply State.atSetPolicy_keeps
    | with_reducible apply State.atSetRa_keeps
    | with_reducible apply State.atSetState_keeps
    | with_reducible apply State.atTimStart_keeps
    | with_reducible apply State.atTimStop_keeps
    | with_reducible apply State.atVoiceStop_keeps
    | with_reducible apply State.atZoneAmbient_keeps
    | with_reducible apply State.atZoneDelay_keeps
    | with_reducible apply State.atZoneDyn_keeps
    | with_reducible apply State.atZoneEnable_keeps
    | with_reducible apply State.atZoneEq_keeps
    | with_reducible apply State.atZoneFir_keeps
    | with_reducible apply State.atZoneGain_keeps
    | with_reducible apply State.atZoneGate_keeps
    | with_reducible apply State.atZoneInputs_keeps
    | with_reducible apply State.atZoneOutputs_keeps
    | with_reducible apply State.atZonePilot_keeps
    | with_reducible apply State.atZoneRestore_keeps
    | with_reducible apply State.bump_keeps
    | with_reducible apply State.flushTaps_keeps
    | with_reducible apply State.post_keeps
    | intro _
    | split

theorem State.runTimed_keeps {s : State} {t : Timed} (kH : Keeps kM kR s) :
    Keeps kM kR (State.runTimed s t) := by
  unfold State.runTimed
  repeat' first
    | with_reducible assumption
    | with_reducible exact Keeps.refl _ _
    | with_reducible apply State.applyTimed_keeps
    | with_reducible apply State.cmdDone_keeps
    | with_reducible refine ite_keeps ?_ ?_
    | intro _
    | (extract_lets +onlyGivenNames kX; have kh : Keeps kM kR kX := ?_; (on_goal 1 => clear_value kX); (on_goal 2 => subst kX))
    | (extract_lets +onlyGivenNames kX; first | ((first | have kg : SafeSt := kX | have kg : SlabSt := kX | have kg : TimeSt := kX); clear kg; subst kX) | clear_value kX)
    | fail_if_no_progress with_reducible refine Keeps.upd ?_ rfl rfl rfl

theorem State.flushTimed_keeps {s : State} (kH : Keeps kM kR s) :
    Keeps kM kR (State.flushTimed s) := by
  unfold State.flushTimed
  repeat' first
    | with_reducible assumption
    | with_reducible exact Keeps.refl _ _
    | with_reducible apply forEach_keeps
    | with_reducible apply State.flushTaps_keeps
    | with_reducible apply State.runTimed_keeps
    | intro _

theorem execCommandApply_keeps {s : State} (kH : Keeps kM kR s) :
    Good kM kR (execCommandApply s) := by
  unfold execCommandApply
  refine Good.next ?_
  repeat' first
    | with_reducible assumption
    | with_reducible exact Keeps.refl _ _
    | with_reducible apply State.runTimed_keeps
    | with_reducible refine ite_keeps ?_ ?_
    | with_reducible refine ite_cmdKeeps ?_ ?_
    | intro _
    | split

theorem State.advance_fst {s : State} (kH : Keeps false kR s) : Keeps false kR s.advance.1 := by
  unfold State.advance
  extract_lets x0 go s1 s2 s3
  have hg : Keeps false kR go.1 := by
    subst go
    split
    · with_reducible exact State.rebase_keeps kH
    · split
      · with_reducible exact State.makeJump_keeps kH
      · with_reducible exact Keeps.updTime kH rfl rfl
  clear_value go
  change Keeps false kR s3
  have h1 : Keeps false kR s1 := hg
  clear_value s1
  have h2 : Keeps false kR s2 := by
    subst s2
    split
    · exact State.loadEpoch_keeps h1
    · exact h1
  clear_value s2
  subst s3
  split
  · with_reducible exact ite_keeps (State.rateBegin_keeps h2) h2
  · exact h2

theorem State.advance_keeps {s kt : State} {kx : Nat} (ke : s.advance = (kt, kx)) (kH : Keeps false kR s) :
    Keeps false kR kt := by
  have h := State.advance_fst kH
  rwa [ke] at h

theorem State.twinSigs_keeps {s : State} {b : Nat} (kH : Keeps kM kR s) :
    Keeps kM kR (State.twinSigs s b) := by
  unfold State.twinSigs
  repeat' first
    | with_reducible assumption
    | with_reducible exact Keeps.refl _ _
    | with_reducible apply Cmd.take_keeps
    | with_reducible apply State.compareAll_keeps
    | with_reducible apply State.courseSend_keeps
    | with_reducible apply State.setCourse_keeps
    | with_reducible refine ite_keeps ?_ ?_

theorem State.noteLoad_keeps {s : State} {load top : Fld} {x c : Nat} (kH : Keeps kM kR s) :
    Keeps kM kR (State.noteLoad s load top x c) := by
  unfold State.noteLoad
  repeat' first
    | with_reducible assumption
    | with_reducible exact Keeps.refl _ _
    | with_reducible apply State.put_keeps

theorem State.loads_keeps {s : State} {c : Nat} (kH : Keeps kM kR s) :
    Keeps kM kR (State.loads s c) := by
  unfold State.loads
  repeat' first
    | with_reducible assumption
    | with_reducible exact Keeps.refl _ _
    | with_reducible apply forEach_keeps
    | with_reducible apply getD_keeps
    | with_reducible apply State.noteLoad_keeps
    | with_reducible apply State.put_keeps
    | with_reducible refine ite_keeps ?_ ?_
    | intro _

theorem State.mapCrc_keeps {s : State} {c : Nat} (kH : Keeps kM kR s) :
    Keeps kM kR (State.mapCrc s c) := by
  unfold State.mapCrc
  repeat' first
    | with_reducible assumption
    | with_reducible exact Keeps.refl _ _
    | with_reducible apply State.wr_keeps
    | with_reducible refine ite_keeps ?_ ?_

theorem State.goldenMiss_keeps {s : State} {p c sig : Nat} {again : Bool} (kH : Keeps kM kR s) :
    Keeps kM kR (State.goldenMiss s p c sig again) := by
  unfold State.goldenMiss
  repeat' first
    | with_reducible assumption
    | with_reducible exact Keeps.refl _ _
    | with_reducible apply State.put_keeps
    | with_reducible apply State.raise_keeps
    | with_reducible apply State.setKernel_keeps
    | with_reducible apply State.set_keeps
    | with_reducible refine ite_keeps ?_ ?_

theorem State.goldenTick_keeps {s : State} {c : Nat} (kH : Keeps kM kR s) :
    Keeps kM kR (State.goldenTick s c) := by
  unfold State.goldenTick
  repeat' first
    | with_reducible assumption
    | with_reducible exact Keeps.refl _ _
    | with_reducible apply forEach_keeps
    | with_reducible apply State.goldenMiss_keeps
    | with_reducible apply State.put_keeps
    | with_reducible apply State.setKernel_keeps
    | with_reducible refine ite_keeps ?_ ?_
    | intro _

theorem State.ahead_keeps {s : State} (kH : Keeps kM kR s) :
    Keeps kM kR (State.ahead s) := by
  unfold State.ahead
  repeat' first
    | with_reducible assumption
    | with_reducible exact Keeps.refl _ _
    | with_reducible apply forEach_keeps
    | with_reducible apply State.applyTimed_keeps
    | with_reducible apply State.flushTaps_keeps
    | intro _

theorem State.endVoices_keeps {s : State} {c : Nat} (kH : Keeps kM kR s) :
    Keeps kM kR (State.endVoices s c) := by
  unfold State.endVoices
  repeat' first
    | with_reducible assumption
    | with_reducible exact Keeps.refl _ _
    | with_reducible apply forEach_keeps
    | with_reducible apply State.endVoice_keeps
    | with_reducible apply State.record_keeps
    | with_reducible refine ite_keeps ?_ ?_
    | intro _
    | split

theorem State.mixTick_keeps {s : State} {rets : List (Nat × List Int)} (kH : Keeps kM kR s) :
    Keeps kM kR (State.mixTick s rets) := by
  unfold State.mixTick
  repeat' first
    | with_reducible assumption
    | with_reducible exact Keeps.refl _ _
    | with_reducible apply forEach_keeps
    | with_reducible apply State.ahead_keeps
    | with_reducible apply State.commitVoices_keeps
    | with_reducible apply State.countLost_keeps
    | with_reducible apply State.duckTaps_keeps
    | with_reducible apply State.endVoices_keeps
    | with_reducible apply State.loads_keeps
    | with_reducible apply State.mapCrc_keeps
    | with_reducible apply State.mixBuses_keeps
    | with_reducible apply State.noteLive_keeps
    | with_reducible apply State.portConsume_keeps
    | with_reducible apply State.sendPass_keeps
    | with_reducible apply State.setCourse_keeps
    | with_reducible apply State.shiftCycles_keeps
    | with_reducible apply State.showLive_keeps
    | with_reducible apply State.tapsFree_keeps
    | with_reducible refine ite_keeps ?_ ?_
    | intro _
    | (extract_lets +onlyGivenNames kX; have kh : Keeps kM kR kX := ?_; (on_goal 1 => clear_value kX); (on_goal 2 => subst kX))
    | (extract_lets +onlyGivenNames kX; first | ((first | have kg : SafeSt := kX | have kg : SlabSt := kX | have kg : TimeSt := kX); clear kg; subst kX) | clear_value kX)
    | fail_if_no_progress with_reducible refine Keeps.upd ?_ rfl rfl rfl

theorem State.raTick_keeps {s : State} {grown : Bool} (kH : Keeps kM kR s) :
    Keeps kM kR (State.raTick s grown) := by
  unfold State.raTick
  repeat' first
    | with_reducible assumption
    | with_reducible exact Keeps.refl _ _
    | with_reducible apply State.put_keeps

theorem State.releasingJobs_keeps {s : State} (kH : Keeps kM kR s) :
    Keeps kM kR (State.releasingJobs s) := by
  unfold State.releasingJobs
  repeat' first
    | with_reducible assumption
    | with_reducible exact Keeps.refl _ _
    | with_reducible apply forEach_keeps
    | with_reducible apply State.record_keeps
    | with_reducible apply State.setJob_keeps
    | with_reducible refine ite_keeps ?_ ?_
    | intro _

theorem State.countGood_keeps {s : State} (kH : Keeps kM kR s) :
    Keeps kM kR (State.countGood s) := by
  unfold State.countGood
  repeat' first
    | with_reducible assumption
    | with_reducible exact Keeps.refl _ _
    | with_reducible apply forEach_keeps
    | with_reducible apply getD_keeps
    | with_reducible apply State.setZone_keeps
    | with_reducible refine ite_keeps ?_ ?_
    | intro _

theorem State.blockEvents_keeps {s : State} (kH : Keeps kM kR s) :
    Keeps kM kR (State.blockEvents s) := by
  unfold State.blockEvents
  repeat' first
    | with_reducible assumption
    | with_reducible exact Keeps.refl _ _
    | with_reducible apply forEach_keeps
    | with_reducible apply State.ctPost_keeps
    | with_reducible apply State.strikeMatch_keeps
    | with_reducible apply State.timPost_keeps
    | intro _
    | (extract_lets +onlyGivenNames kX; have kh : Keeps kM kR kX := ?_; (on_goal 1 => clear_value kX); (on_goal 2 => subst kX))
    | fail_if_no_progress with_reducible refine Keeps.upd ?_ rfl rfl rfl

theorem State.blockTick_keeps {s : State} (kH : Keeps false kR s) :
    Keeps false kR (State.blockTick s) := by
  unfold State.blockTick
  repeat' first
    | with_reducible assumption
    | with_reducible exact Keeps.refl _ _
    | with_reducible apply State.advance_fst
    | with_reducible apply State.banksTick_keeps
    | with_reducible apply State.blockEvents_keeps
    | with_reducible apply State.callNext_keeps
    | with_reducible apply State.countGood_keeps
    | with_reducible apply State.courseTick_keeps
    | with_reducible apply State.dewYield_keeps
    | with_reducible apply State.dispatch_keeps
    | with_reducible apply State.flushTimed_keeps
    | with_reducible apply State.freeReported_keeps
    | with_reducible apply State.goldenTick_keeps
    | with_reducible apply State.kernelTick_keeps
    | with_reducible apply State.mixTick_keeps
    | with_reducible apply State.muteTick_keeps
    | with_reducible apply State.noteStarts_keeps
    | with_reducible apply State.raTick_keeps
    | with_reducible apply State.refTick_keeps
    | with_reducible apply State.releasingJobs_keeps
    | with_reducible apply State.renderPeriod_keeps
    | with_reducible apply State.seqTick_keeps
    | with_reducible apply State.serveAll_keeps
    | with_reducible apply State.set_keeps
    | with_reducible apply State.shiftReserve_keeps
    | with_reducible apply State.streamTick_keeps
    | with_reducible apply State.transport_keeps
    | with_reducible apply State.twinSigs_keeps
    | with_reducible apply State.waitTick_keeps
    | with_reducible apply State.zoneAll_keeps

theorem execBlockTick_keeps {s : State} (kH : Keeps false kR s) :
    Good false kR (execBlockTick s) := by
  unfold execBlockTick
  refine Good.next ?_
  repeat' first
    | with_reducible assumption
    | with_reducible exact Keeps.refl _ _
    | with_reducible apply State.blockTick_keeps
    | with_reducible refine ite_keeps ?_ ?_

end Sys2Proof.Machine
end

