-- ==== Sys2Proof/Laws/KeepsWaiting.lean ====
section
/-! SUPPORT. What the operations of Machine/Waiting.lean keep. -/

namespace Sys2Proof.Machine

variable {kM : Bool} {kR : State}

/-- SAFE.PROVISION writes a key slot once, so that it loses none (R299). -/
theorem provision_keeps {k : Kcp} {s : State} (kH : Keeps false kR s) : Keeps false kR (kcpExec cmdSafeProvision k s) := by
  obtain ⟨t, e, h⟩ := execSafeProvision_keeps (k := k) kH
  cases e
  exact h

/-- Every command of the catalogue that is taken, or held, keeps what `Keeps` speaks of but for media time. -/
theorem catalogue_keeps {k : Kcp} {s : State} : ∀ c ∈ catalogue k, Keeps false kR s → Keeps false kR (kcpExec c k s) := by
  unfold catalogue
  simp only [List.forall_mem_cons]
  exact ⟨kcpExec_keeps cmdSysGetCaps_keeps,
    kcpExec_keeps cmdSysGetStatus_keeps,
    fun h => by split <;> first | exact kcpExec_keeps cmdBlockReset_keeps h | exact kcpExec_keeps cmdSoftReset_keeps h,
    kcpExec_keeps cmdSysSetState_keeps,
    kcpExec_keeps cmdSysConfigBuild_keeps,
    kcpExec_keeps cmdSysConfigCommit_keeps,
    kcpExec_keeps cmdSysConfigErase_keeps,
    kcpExec_keeps cmdSysEcho_keeps,
    kcpExec_keeps cmdSafeGetStatus_keeps,
    kcpExec_keeps cmdSafeGetFaults_keeps,
    kcpExec_keeps cmdSafeAckFaults_keeps,
    kcpExec_keeps cmdSafeSetLock_keeps,
    fun h => provision_keeps h,
    kcpExec_keeps cmdSafeRecover_keeps,
    kcpExec_keeps cmdSafeInject_keeps,
    kcpExec_keeps cmdSafeUpdate_keeps,
    kcpExec_keeps cmdSafeUpdateWrite_keeps,
    kcpExec_keeps cmdSafeDebugUnlock_keeps,
    kcpExec_keeps cmdSnapStrike_keeps,
    kcpExec_keeps cmdSnapSetSources_keeps,
    kcpExec_keeps cmdSnapRead_keeps,
    kcpExec_keeps cmdSnapGetStatus_keeps,
    kcpExec_keeps cmdSlabGetStatus_keeps,
    kcpExec_keeps cmdSlabRead_keeps,
    kcpExec_keeps cmdSlabWrite_keeps,
    kcpExec_keeps cmdSlabRepair_keeps,
    kcpExec_keeps cmdSlabScrub_keeps,
    kcpExec_keeps cmdTimeGet_keeps,
    kcpExec_keeps cmdTimeSetEpoch_keeps,
    kcpExec_keeps cmdTimeSetRate_keeps,
    kcpExec_keeps cmdTimeSetRefs_keeps,
    kcpExec_keeps cmdTimeGetRefs_keeps,
    kcpExec_keeps cmdTimeSetRa_keeps,
    kcpExec_keeps cmdVoiceSetParam_keeps,
    kcpExec_keeps cmdVoiceGetParams_keeps,
    kcpExec_keeps cmdVoiceRelease_keeps,
    kcpExec_keeps cmdVoiceStop_keeps,
    kcpExec_keeps cmdVoiceGetLevels_keeps,
    kcpExec_keeps cmdVoiceGetStatus_keeps,
    kcpExec_keeps cmdBankLoad_keeps,
    kcpExec_keeps cmdBankWrite_keeps,
    kcpExec_keeps cmdBankUnload_keeps,
    kcpExec_keeps cmdBankVerify_keeps,
    kcpExec_keeps cmdBankGetInfo_keeps,
    kcpExec_keeps cmdBankList_keeps,
    kcpExec_keeps cmdJobSubmit_keeps,
    kcpExec_keeps cmdJobAbort_keeps,
    kcpExec_keeps cmdJobRelease_keeps,
    kcpExec_keeps cmdJobGetStatus_keeps,
    kcpExec_keeps cmdJobList_keeps,
    kcpExec_keeps cmdJobGetStats_keeps,
    kcpExec_keeps cmdJobSetPolicy_keeps,
    kcpExec_keeps cmdJobScriptEdit_keeps,
    kcpExec_keeps cmdJobSquallEnd_keeps,
    kcpExec_keeps cmdJobArm_keeps,
    kcpExec_keeps cmdJobDisarm_keeps,
    kcpExec_keeps cmdJobSetSquall_keeps,
    fun h => by split <;> first | exact kcpExec_keeps cmdMixSetTaps_keeps h | exact kcpExec_keeps cmdMixStageTaps_keeps h,
    kcpExec_keeps cmdMixClear_keeps,
    kcpExec_keeps cmdMixGetTaps_keeps,
    kcpExec_keeps cmdMixGetBitmap_keeps,
    kcpExec_keeps cmdMixOpenSet_keeps,
    kcpExec_keeps cmdMixCommitSet_keeps,
    kcpExec_keeps cmdMixCancelSet_keeps,
    kcpExec_keeps cmdMixSetClass_keeps,
    kcpExec_keeps cmdMixSetGen_keeps,
    kcpExec_keeps cmdMixRouteAux_keeps,
    kcpExec_keeps cmdMixGetClip_keeps,
    kcpExec_keeps cmdMixGetStats_keeps,
    kcpExec_keeps cmdZoneEnable_keeps,
    kcpExec_keeps cmdZoneSetInputs_keeps,
    kcpExec_keeps cmdZoneSetGate_keeps,
    kcpExec_keeps cmdZoneSetAmbient_keeps,
    kcpExec_keeps cmdZoneSetEq_keeps,
    kcpExec_keeps cmdZoneLoadFir_keeps,
    kcpExec_keeps cmdZoneSetFir_keeps,
    kcpExec_keeps cmdZoneSetDyn_keeps,
    kcpExec_keeps cmdZoneSetDelay_keeps,
    kcpExec_keeps cmdZoneSetGain_keeps,
    kcpExec_keeps cmdZoneSetPilot_keeps,
    kcpExec_keeps cmdZoneSetOutputs_keeps,
    kcpExec_keeps cmdZoneRestore_keeps,
    kcpExec_keeps cmdZoneSetGroup_keeps,
    kcpExec_keeps cmdZoneGetConfig_keeps,
    kcpExec_keeps cmdZoneGetStatus_keeps,
    kcpExec_keeps cmdKernelStage_keeps,
    kcpExec_keeps cmdKernelWrite_keeps,
    kcpExec_keeps cmdKernelLoad_keeps,
    kcpExec_keeps cmdKernelRestoreStd_keeps,
    kcpExec_keeps cmdKernelCancel_keeps,
    kcpExec_keeps cmdKernelGetInfo_keeps,
    kcpExec_keeps cmdPortConfig_keeps,
    kcpExec_keeps cmdPortStart_keeps,
    kcpExec_keeps cmdPortStop_keeps,
    kcpExec_keeps cmdPortSetGroup_keeps,
    kcpExec_keeps cmdPortSetLength_keeps,
    kcpExec_keeps cmdPortGetStatus_keeps,
    kcpExec_keeps cmdAnaConfig_keeps,
    kcpExec_keeps cmdAnaEnable_keeps,
    kcpExec_keeps cmdAnaSetRange_keeps,
    kcpExec_keeps cmdAnaTrim_keeps,
    kcpExec_keeps cmdAnaGetStatus_keeps,
    kcpExec_keeps cmdTimConfig_keeps,
    kcpExec_keeps cmdTimStart_keeps,
    kcpExec_keeps cmdTimStop_keeps,
    kcpExec_keeps cmdTimSetCmp_keeps,
    kcpExec_keeps cmdTimGet_keeps,
    kcpExec_keeps cmdUartConfig_keeps,
    kcpExec_keeps cmdUartEnable_keeps,
    kcpExec_keeps cmdUartSend_keeps,
    kcpExec_keeps cmdUartRecv_keeps,
    kcpExec_keeps cmdUartSetFramed_keeps,
    kcpExec_keeps cmdUartGetStatus_keeps,
    kcpExec_keeps cmdContactConfig_keeps,
    kcpExec_keeps cmdContactSetOut_keeps,
    kcpExec_keeps cmdContactGet_keeps,
    kcpExec_keeps cmdSupvSetPilot_keeps,
    kcpExec_keeps cmdSupvSetPath_keeps,
    kcpExec_keeps cmdSupvBaseline_keeps,
    kcpExec_keeps cmdSupvGetPaths_keeps,
    kcpExec_keeps cmdSupvSetDew_keeps,
    kcpExec_keeps cmdSupvGetDew_keeps,
    kcpExec_keeps cmdAgeGetPlan_keeps,
    kcpExec_keeps cmdAgeGetLog_keeps,
    kcpExec_keeps cmdAgeSetLimits_keeps,
    kcpExec_keeps cmdAgeGetSensors_keeps,
    kcpExec_keeps cmdCourseConfig_keeps,
    kcpExec_keeps cmdCourseGetStatus_keeps,
    kcpExec_keeps cmdCourseSetOffset_keeps,
    kcpExec_keeps cmdCourseMapGroup_keeps,
    kcpExec_keeps cmdCourseSetTwin_keeps,
    kcpExec_keeps cmdStreamConfig_keeps,
    kcpExec_keeps cmdStreamTrain_keeps,
    kcpExec_keeps cmdStreamGetStatus_keeps,
    kcpExec_keeps cmdStreamMap_keeps,
    fun _ h => nomatch h⟩

theorem State.takeOp_keeps {s : State} {op : Nat} {k : Kcp} (kH : Keeps false kR s) : Keeps false kR (s.takeOp op k) := by
  unfold State.takeOp
  split
  · exact State.takeSquall_keeps kH
  · split
    · exact State.takeHandover_keeps kH
    · split
      · rename_i e
        exact catalogue_keeps _ (List.mem_of_find?_eq_some e) kH
      · exact State.takeUnknown_keeps kH

theorem State.takeWaiting_keeps {s : State} (kH : Keeps false kR s) :
    Keeps false kR (State.takeWaiting s) := by
  unfold State.takeWaiting
  repeat' first
    | with_reducible assumption
    | with_reducible exact Keeps.refl _ _
    | with_reducible apply forEach_keeps
    | with_reducible apply State.takeOp_keeps
    | with_reducible refine ite_keeps ?_ ?_
    | intro _
    | (extract_lets +onlyGivenNames kX; have kh : Keeps false kR kX := ?_; (on_goal 1 => clear_value kX); (on_goal 2 => subst kX))
    | (extract_lets +onlyGivenNames kX; first | ((first | have kg : SafeSt := kX | have kg : SlabSt := kX | have kg : TimeSt := kX); clear kg; subst kX) | clear_value kX)
    | fail_if_no_progress with_reducible refine Keeps.upd ?_ rfl rfl rfl

theorem execReadyRise_keeps {bootMs : Nat} {goldenFailed : List Nat} {s : State} (kH : Keeps false kR s) :
    Good false kR (execReadyRise bootMs goldenFailed s) := by
  unfold execReadyRise
  refine Good.next ?_
  repeat' first
    | with_reducible assumption
    | with_reducible exact Keeps.refl _ _
    | with_reducible apply State.becomeReady_keeps
    | with_reducible apply State.boot_keeps
    | with_reducible apply State.takeWaiting_keeps
    | with_reducible refine ite_keeps ?_ ?_

theorem execLullWake_keeps {source : WakeSource} {lclk : Nat} {wakeMs : Nat} {tcmOk : Bool} {bankOk : Bool} {s : State} (kH : Keeps false kR s) :
    Good false kR (execLullWake source lclk wakeMs tcmOk bankOk s) := by
  unfold execLullWake
  refine Good.next ?_
  repeat' first
    | with_reducible assumption
    | with_reducible exact Keeps.refl _ _
    | with_reducible apply State.resetTo_keeps
    | with_reducible apply State.takeWaiting_keeps
    | with_reducible apply State.wake_keeps
    | with_reducible refine ite_keeps ?_ ?_

end Sys2Proof.Machine
end

