-- ==== Sys2Proof/Laws/Units.lean ====
section
/-! SUPPORT. The records of the units and the register store do not meet: what each reads after the other is written. -/

namespace Sys2Proof.Machine

theorem pick_num {α : Type} (num : α → Nat) (n : Nat) (l : List α) (x : α) (h : pick num n l = some x) : num x = n := by
  simpa using List.find?_some h

/-! The zone records. -/

@[simp] theorem State.zone_n (s : State) (n : Nat) : (s.zone n).n = n := by
  unfold State.zone
  cases h : pick Zone.n n _ with
  | none => rfl
  | some x => exact pick_num Zone.n n _ x h
@[simp] theorem State.setZone_rd (s : State) (z : Zone) (a : Nat) : (s.setZone z).rd a = s.rd a := rfl
@[simp] theorem State.setZone_get (s : State) (z : Zone) (f : Fld) : (s.setZone z).get f = s.get f := rfl
@[simp] theorem State.setZone_flag (s : State) (z : Zone) (f : Fld) : (s.setZone z).flag f = s.flag f := rfl
@[simp] theorem State.wr_zone (s : State) (a : Nat) (w : W32) (n : Nat) : (s.wr a w).zone n = s.zone n := rfl
@[simp] theorem State.put_zone (s : State) (f : Fld) (w n : Nat) : (s.put f w).zone n = s.zone n := rfl
@[simp] theorem State.set_zone (s : State) (f : Fld) (b : Bool) (n : Nat) : (s.set f b).zone n = s.zone n := rfl
@[simp] theorem State.bump_zone (s : State) (f : Fld) (k n : Nat) : (s.bump f k).zone n = s.zone n := rfl
@[simp] theorem State.bumpSat_zone (s : State) (f : Fld) (k n : Nat) : (s.bumpSat f k).zone n = s.zone n := rfl

/-! The group records. -/

@[simp] theorem State.group_n (s : State) (n : Nat) : (s.group n).n = n := by
  unfold State.group
  cases h : pick Group.n n _ with
  | none => rfl
  | some x => exact pick_num Group.n n _ x h
@[simp] theorem State.setGroup_rd (s : State) (g : Group) (a : Nat) : (s.setGroup g).rd a = s.rd a := rfl
@[simp] theorem State.setGroup_get (s : State) (g : Group) (f : Fld) : (s.setGroup g).get f = s.get f := rfl
@[simp] theorem State.setGroup_flag (s : State) (g : Group) (f : Fld) : (s.setGroup g).flag f = s.flag f := rfl
@[simp] theorem State.wr_group (s : State) (a : Nat) (w : W32) (n : Nat) : (s.wr a w).group n = s.group n := rfl
@[simp] theorem State.put_group (s : State) (f : Fld) (w n : Nat) : (s.put f w).group n = s.group n := rfl
@[simp] theorem State.set_group (s : State) (f : Fld) (b : Bool) (n : Nat) : (s.set f b).group n = s.group n := rfl
@[simp] theorem State.bump_group (s : State) (f : Fld) (k n : Nat) : (s.bump f k).group n = s.group n := rfl
@[simp] theorem State.bumpSat_group (s : State) (f : Fld) (k n : Nat) : (s.bumpSat f k).group n = s.group n := rfl

/-! The audio-port records. -/

@[simp] theorem State.port_n (s : State) (n : Nat) : (s.port n).n = n := by
  unfold State.port
  cases h : pick PortSt.n n _ with
  | none => rfl
  | some x => exact pick_num PortSt.n n _ x h
@[simp] theorem State.setPort_rd (s : State) (p : PortSt) (a : Nat) : (s.setPort p).rd a = s.rd a := rfl
@[simp] theorem State.setPort_get (s : State) (p : PortSt) (f : Fld) : (s.setPort p).get f = s.get f := rfl
@[simp] theorem State.setPort_flag (s : State) (p : PortSt) (f : Fld) : (s.setPort p).flag f = s.flag f := rfl
@[simp] theorem State.wr_port (s : State) (a : Nat) (w : W32) (n : Nat) : (s.wr a w).port n = s.port n := rfl
@[simp] theorem State.put_port (s : State) (f : Fld) (w n : Nat) : (s.put f w).port n = s.port n := rfl
@[simp] theorem State.set_port (s : State) (f : Fld) (b : Bool) (n : Nat) : (s.set f b).port n = s.port n := rfl
@[simp] theorem State.bump_port (s : State) (f : Fld) (k n : Nat) : (s.bump f k).port n = s.port n := rfl
@[simp] theorem State.bumpSat_port (s : State) (f : Fld) (k n : Nat) : (s.bumpSat f k).port n = s.port n := rfl

/-! The channel records. -/

@[simp] theorem State.chan_n (s : State) (n : Nat) : (s.chan n).n = n := by
  unfold State.chan
  cases h : pick AnaSt.n n _ with
  | none => rfl
  | some x => exact pick_num AnaSt.n n _ x h
@[simp] theorem State.setChan_rd (s : State) (c : AnaSt) (a : Nat) : (s.setChan c).rd a = s.rd a := rfl
@[simp] theorem State.setChan_get (s : State) (c : AnaSt) (f : Fld) : (s.setChan c).get f = s.get f := rfl
@[simp] theorem State.setChan_flag (s : State) (c : AnaSt) (f : Fld) : (s.setChan c).flag f = s.flag f := rfl
@[simp] theorem State.wr_chan (s : State) (a : Nat) (w : W32) (n : Nat) : (s.wr a w).chan n = s.chan n := rfl
@[simp] theorem State.put_chan (s : State) (f : Fld) (w n : Nat) : (s.put f w).chan n = s.chan n := rfl
@[simp] theorem State.set_chan (s : State) (f : Fld) (b : Bool) (n : Nat) : (s.set f b).chan n = s.chan n := rfl
@[simp] theorem State.bump_chan (s : State) (f : Fld) (k n : Nat) : (s.bump f k).chan n = s.chan n := rfl
@[simp] theorem State.bumpSat_chan (s : State) (f : Fld) (k n : Nat) : (s.bumpSat f k).chan n = s.chan n := rfl

/-! The timer records. -/

@[simp] theorem State.timer_n (s : State) (n : Nat) : (s.timer n).n = n := by
  unfold State.timer
  cases h : pick TimerSt.n n _ with
  | none => rfl
  | some x => exact pick_num TimerSt.n n _ x h
@[simp] theorem State.setTimer_rd (s : State) (t : TimerSt) (a : Nat) : (s.setTimer t).rd a = s.rd a := rfl
@[simp] theorem State.setTimer_get (s : State) (t : TimerSt) (f : Fld) : (s.setTimer t).get f = s.get f := rfl
@[simp] theorem State.setTimer_flag (s : State) (t : TimerSt) (f : Fld) : (s.setTimer t).flag f = s.flag f := rfl
@[simp] theorem State.wr_timer (s : State) (a : Nat) (w : W32) (n : Nat) : (s.wr a w).timer n = s.timer n := rfl
@[simp] theorem State.put_timer (s : State) (f : Fld) (w n : Nat) : (s.put f w).timer n = s.timer n := rfl
@[simp] theorem State.set_timer (s : State) (f : Fld) (b : Bool) (n : Nat) : (s.set f b).timer n = s.timer n := rfl
@[simp] theorem State.bump_timer (s : State) (f : Fld) (k n : Nat) : (s.bump f k).timer n = s.timer n := rfl
@[simp] theorem State.bumpSat_timer (s : State) (f : Fld) (k n : Nat) : (s.bumpSat f k).timer n = s.timer n := rfl

/-! The UART records. -/

@[simp] theorem State.uart_n (s : State) (n : Nat) : (s.uart n).n = n := by
  unfold State.uart
  cases h : pick UartSt.n n _ with
  | none => rfl
  | some x => exact pick_num UartSt.n n _ x h
@[simp] theorem State.setUart_rd (s : State) (u : UartSt) (a : Nat) : (s.setUart u).rd a = s.rd a := rfl
@[simp] theorem State.setUart_get (s : State) (u : UartSt) (f : Fld) : (s.setUart u).get f = s.get f := rfl
@[simp] theorem State.setUart_flag (s : State) (u : UartSt) (f : Fld) : (s.setUart u).flag f = s.flag f := rfl
@[simp] theorem State.wr_uart (s : State) (a : Nat) (w : W32) (n : Nat) : (s.wr a w).uart n = s.uart n := rfl
@[simp] theorem State.put_uart (s : State) (f : Fld) (w n : Nat) : (s.put f w).uart n = s.uart n := rfl
@[simp] theorem State.set_uart (s : State) (f : Fld) (b : Bool) (n : Nat) : (s.set f b).uart n = s.uart n := rfl
@[simp] theorem State.bump_uart (s : State) (f : Fld) (k n : Nat) : (s.bump f k).uart n = s.uart n := rfl
@[simp] theorem State.bumpSat_uart (s : State) (f : Fld) (k n : Nat) : (s.bumpSat f k).uart n = s.uart n := rfl

/-! The contact records. -/

@[simp] theorem State.contact_n (s : State) (n : Nat) : (s.contact n).n = n := by
  unfold State.contact
  cases h : pick ContactSt.n n _ with
  | none => rfl
  | some x => exact pick_num ContactSt.n n _ x h
@[simp] theorem State.setContact_rd (s : State) (c : ContactSt) (a : Nat) : (s.setContact c).rd a = s.rd a := rfl
@[simp] theorem State.setContact_get (s : State) (c : ContactSt) (f : Fld) : (s.setContact c).get f = s.get f := rfl
@[simp] theorem State.setContact_flag (s : State) (c : ContactSt) (f : Fld) : (s.setContact c).flag f = s.flag f := rfl
@[simp] theorem State.wr_contact (s : State) (a : Nat) (w : W32) (n : Nat) : (s.wr a w).contact n = s.contact n := rfl
@[simp] theorem State.put_contact (s : State) (f : Fld) (w n : Nat) : (s.put f w).contact n = s.contact n := rfl
@[simp] theorem State.set_contact (s : State) (f : Fld) (b : Bool) (n : Nat) : (s.set f b).contact n = s.contact n := rfl
@[simp] theorem State.bump_contact (s : State) (f : Fld) (k n : Nat) : (s.bump f k).contact n = s.contact n := rfl
@[simp] theorem State.bumpSat_contact (s : State) (f : Fld) (k n : Nat) : (s.bumpSat f k).contact n = s.contact n := rfl

/-! The path records. -/

@[simp] theorem State.path_n (s : State) (n : Nat) : (s.path n).n = n := by
  unfold State.path
  cases h : pick Path.n n _ with
  | none => rfl
  | some x => exact pick_num Path.n n _ x h
@[simp] theorem State.setPath_rd (s : State) (p : Path) (a : Nat) : (s.setPath p).rd a = s.rd a := rfl
@[simp] theorem State.setPath_get (s : State) (p : Path) (f : Fld) : (s.setPath p).get f = s.get f := rfl
@[simp] theorem State.setPath_flag (s : State) (p : Path) (f : Fld) : (s.setPath p).flag f = s.flag f := rfl
@[simp] theorem State.wr_path (s : State) (a : Nat) (w : W32) (n : Nat) : (s.wr a w).path n = s.path n := rfl
@[simp] theorem State.put_path (s : State) (f : Fld) (w n : Nat) : (s.put f w).path n = s.path n := rfl
@[simp] theorem State.set_path (s : State) (f : Fld) (b : Bool) (n : Nat) : (s.set f b).path n = s.path n := rfl
@[simp] theorem State.bump_path (s : State) (f : Fld) (k n : Nat) : (s.bump f k).path n = s.path n := rfl
@[simp] theorem State.bumpSat_path (s : State) (f : Fld) (k n : Nat) : (s.bumpSat f k).path n = s.path n := rfl

/-! A unit's record written after the stores, or before them. -/


theorem onlyStores.setZone {l : List (Fld × Nat)} {s t : State} (h : onlyStores l s t) (z : Zone) :
    onlyStores l (s.setZone z) (t.setZone z) := by
  obtain ⟨h1, h2, h3⟩ := h
  generalize t.regs = r at h1
  subst h1
  exact ⟨rfl, h2, h3⟩

theorem onlyStores.setGroup {l : List (Fld × Nat)} {s t : State} (h : onlyStores l s t) (g : Group) :
    onlyStores l (s.setGroup g) (t.setGroup g) := by
  obtain ⟨h1, h2, h3⟩ := h
  generalize t.regs = r at h1
  subst h1
  exact ⟨rfl, h2, h3⟩

theorem onlyStores.setPort {l : List (Fld × Nat)} {s t : State} (h : onlyStores l s t) (p : PortSt) :
    onlyStores l (s.setPort p) (t.setPort p) := by
  obtain ⟨h1, h2, h3⟩ := h
  generalize t.regs = r at h1
  subst h1
  exact ⟨rfl, h2, h3⟩

theorem onlyStores.setChan {l : List (Fld × Nat)} {s t : State} (h : onlyStores l s t) (c : AnaSt) :
    onlyStores l (s.setChan c) (t.setChan c) := by
  obtain ⟨h1, h2, h3⟩ := h
  generalize t.regs = r at h1
  subst h1
  exact ⟨rfl, h2, h3⟩

theorem onlyStores.setTimer {l : List (Fld × Nat)} {s t : State} (h : onlyStores l s t) (x : TimerSt) :
    onlyStores l (s.setTimer x) (t.setTimer x) := by
  obtain ⟨h1, h2, h3⟩ := h
  generalize t.regs = r at h1
  subst h1
  exact ⟨rfl, h2, h3⟩

theorem onlyStores.setUart {l : List (Fld × Nat)} {s t : State} (h : onlyStores l s t) (u : UartSt) :
    onlyStores l (s.setUart u) (t.setUart u) := by
  obtain ⟨h1, h2, h3⟩ := h
  generalize t.regs = r at h1
  subst h1
  exact ⟨rfl, h2, h3⟩

theorem onlyStores.setContact {l : List (Fld × Nat)} {s t : State} (h : onlyStores l s t) (c : ContactSt) :
    onlyStores l (s.setContact c) (t.setContact c) := by
  obtain ⟨h1, h2, h3⟩ := h
  generalize t.regs = r at h1
  subst h1
  exact ⟨rfl, h2, h3⟩

theorem onlyStores.setPath {l : List (Fld × Nat)} {s t : State} (h : onlyStores l s t) (p : Path) :
    onlyStores l (s.setPath p) (t.setPath p) := by
  obtain ⟨h1, h2, h3⟩ := h
  generalize t.regs = r at h1
  subst h1
  exact ⟨rfl, h2, h3⟩

end Sys2Proof.Machine
end

