-- ==== Sys2Proof/Machine/Pins.lean ====
section
/-! DEFINITION. The pins (R516, R517): what each output pin does, as a function of the state. No rule gives a pin a meaning of its own
beyond its unit's, so that none is a field of State (DEDUCED, notes/assumptions/211.md). -/

namespace Sys2Proof.Machine

/-- How a pin stands: an input with or without its pull resistor, high impedance, driven to a level, an open drain that is released, a
link's transmitter at common mode, or a driver that carries its unit's signal. -/
inductive PinState where
  | input | pullUp | pullDown | highZ | low | high | released | commonMode | signal
  deriving DecidableEq, Repr

/-- A pin driven to a level. -/
def PinState.level (b : Bool) : PinState := if b then .high else .low

/-- The pins of R516 whose state follows the device's. -/
inductive Pin where
  | hostCsN | hostMiso (selected : Bool) | hostIrqN | safeFaultN | safeAlive
  | norSck | norCsN | norIo (i : Fin 4)
  | apClock (n : Fin 8) | apData (n : Fin 8) (second : Bool)
  | contact (n : Fin 16) (window : Bool)
  | uartTx (n : Fin 2) | uartRx (n : Fin 2) | uartDe
  | tin (n : Fin 4) | tout (n : Fin 4)
  | avs | aout (n : Fin 64)
  | strikeOut | streamTx | courseTx | tdo (shifting : Bool)
  deriving DecidableEq, Repr

/-- The device is in reset or in its boot: READY has not risen since (R516). -/
def State.early (s : State) : Bool := s.power = .off ∨ s.power = .reset ∨ s.power = .boot

/-- A port drives its clocks: a master that is not STOPPED, each member of a group on its own pins (R360, R366). -/
def State.drivesClock (s : State) (n : Nat) : Bool := s.portState n ≠ Port.stopped ∧ s.portMaster n

/-- A port drives a data pin: an output that is not STOPPED, SD1 with PINS = 1 (R350, R360). -/
def State.drivesData (s : State) (n : Nat) (second : Bool) : Bool :=
  s.portState n ≠ Port.stopped ∧ ¬ s.portIn n ∧ (¬ second ∨ s.flag (F.APORT_CTRL_PINS n))

/-- A contact pin: within the sense window of a pin that senses the drive is off (R458, R462). During POR and PIN resets the strap pins
are pulled down (R463). -/
def State.contactPin (s : State) (n : Nat) (window : Bool) : PinState :=
  if s.power = .off ∨ s.power = .reset then (if n < 4 ∧ (s.resetKind = .por ∨ s.resetKind = .pin) then .pullDown else .highZ)
  else if window ∧ Nat.testBit (s.get F.CONTACT_CTRL_SENSE_EN) n then .input
  else if Nat.testBit (s.get F.CONTACT_OUT_LEVEL) n then .high else .highZ

/-- The state of a pin (R420, R421, R455, R473, R516; R374 for the analogue outputs). -/
def State.pin (s : State) : Pin → PinState
  | .hostCsN => .pullUp
  | .hostMiso selected => if ¬ s.early ∧ selected then .signal else .highZ
  | .hostIrqN => if ¬ s.early ∧ s.irq then .low else .released
  | .safeFaultN => if s.power = .off ∨ s.faultPin then .low else .released
  | .safeAlive => .level s.safe.alive
  | .norSck => if s.early then .low else .signal
  | .norCsN => if s.early then .high else .signal
  | .norIo _ => if s.early then .pullUp else .signal
  | .apClock n => if ¬ s.early ∧ s.drivesClock n then .signal else .pullDown
  | .apData n second => if ¬ s.early ∧ s.drivesData n second then .signal else .pullDown
  | .contact n window => s.contactPin n window
  | .uartTx n =>
    if s.early ∨ ¬ s.uartOn n then (if n.val = 0 ∧ ¬ s.early ∧ s.flag (F.UART_CTRL_IR_EN 0) then .low else .pullUp) else .signal
  | .uartRx _ => .pullUp
  | .uartDe => .level (¬ s.early && (s.uart 1).deHigh)
  | .tin _ => .pullDown
  | .tout n => .level (¬ s.early && s.tout n)
  | .avs => if s.age.avsBusy then .signal else .released
  | .aout n => if s.anaClosed n then .signal else .highZ
  | .strikeOut => if s.early then .low else .signal
  | .streamTx => if ¬ s.early ∧ s.flag F.STRM_CTRL_EN then .signal else .commonMode
  | .courseTx => if ¬ s.early ∧ s.flag F.CRSE_CTRL_CASCADE_EN then .signal else .commonMode
  | .tdo shifting => if shifting then .signal else .highZ

end Sys2Proof.Machine
end

