-- ==== Sys2Proof/WellFormed.lean ====
section
/-! DEFINITION. The commands and events whose operands can occur: numbers within the units the device has, payloads that fit a
channel, and lists with one entry per sensor or pin. -/

namespace Sys2Proof

/-- A command fits a channel: at most 256 payload words arrived (R270, R274). -/
def Kcp.wf (k : Kcp) : Bool := decide (k.payload.length ≤ 256)

/-- A handover's command fits its channel. -/
def HandoverForm.wf : HandoverForm → Bool
  | .register _ _ _ _ => true
  | .command k => k.wf

/-- A flash copy holds at most what a NOR holds (R443: 256 MiB). -/
def norImageWf (env : BootEnv) : Bool :=
  match env.flash with
  | none => true
  | some f => decide (f.part.sizeMib ≤ 256)

/-- The operands of a command or event can occur. -/
def Instr.wf : Instr → Bool
  | .powerOnReset => true
  | .pinReset _ => true
  | .resetRelease env => norImageWf env
  | .readyRise _ _ => true
  | .watchdogExpiry => true
  | .resetDelayExpiry => true
  | .analogueRailLow => true
  | .analogueRailRestore => true
  | .lullPowerDown => true
  | .lullWake _ _ _ _ _ => true
  | .spiWriteTransaction _ extraBits => decide (extraBits < 8)
  | .spiReadTransaction _ _ => true
  | .registerWrite addr _ => decide (addr % 4 = 0)
  | .registerReadClear addr => decide (addr % 4 = 0)
  | .mtLoRead _ addr => decide (addr % 4 = 0)
  | .seqReset _ => true
  | .evqAck _ => true
  | .spiErrCntClr => true
  | .epochArm => true
  | .slabHandover form => form.wf
  | .handoverDrainDone _ => true
  | .slabNormalWrite _ _ _ _ => true
  | .slabSetAliasWrite _ _ _ _ => true
  | .slabClearAliasWrite _ _ _ _ => true
  | .uartTxdWrite _ _ => true
  | .uartRxdRead _ => true
  | .timCmpWrite _ _ _ => true
  | .timPeriodWrite _ _ => true
  | .sysGetCaps k => k.wf
  | .sysGetStatus k => k.wf
  | .sysReset k => k.wf
  | .sysSetState k => k.wf
  | .sysConfigBuild k => k.wf
  | .sysConfigCommit k => k.wf
  | .sysConfigErase k => k.wf
  | .norRegionUpdateDone _ _ => true
  | .sysEcho k => k.wf
  | .safeGetStatus k => k.wf
  | .safeGetFaults k => k.wf
  | .safeAckFaults k => k.wf
  | .safeSetLock k => k.wf
  | .safeProvision k => k.wf
  | .safeRecover k => k.wf
  | .safeInject k => k.wf
  | .safeUpdate k => k.wf
  | .safeUpdateWrite k => k.wf
  | .safeUpdateImageComplete _ => true
  | .safeDebugUnlock k => k.wf
  | .snapStrike k => k.wf
  | .snapSetSources k => k.wf
  | .snapRead k => k.wf
  | .snapGetStatus k => k.wf
  | .slabGetStatus k => k.wf
  | .slabRead k => k.wf
  | .slabWrite k => k.wf
  | .slabRepair k => k.wf
  | .slabScrub k => k.wf
  | .slabScrubPassDone _ _ _ _ => true
  | .timeGet k => k.wf
  | .timeSetEpoch k => k.wf
  | .timeSetRate k => k.wf
  | .timeSetRefs k => k.wf
  | .timeGetRefs k => k.wf
  | .timeSetRa k => k.wf
  | .timeMessage _ _ _ => true
  | .refEdge _ _ _ => true
  | .refEdgeTimeout _ => true
  | .refQualified _ => true
  | .slewDone => true
  | .ppsEdge _ _ => true
  | .ppsLoss => true
  | .blockTick => true
  | .rateChangeStart => true
  | .mpllRelockDone _ => true
  | .maxWaitExpiry record => decide (record < 12288)
  | .ambientEstimate zone => decide (zone < 256)
  | .fallbackSwitch zone _ => decide (zone < 256)
  | .fallbackAutoRestore zone _ => decide (zone < 256)
  | .zoneDrainDone zone => decide (zone < 256)
  | .tileCrcCheckDone bank _ => decide (bank < 256)
  | .rollbackRerender src => decide (src < 8192)
  | .kernelBudgetExpiry src _ => decide (src < 8192)
  | .illegalWord src _ => decide (src < 8192)
  | .nop _ _ => true
  | .mul _ _ _ _ _ _ => true
  | .mad _ _ _ _ _ _ => true
  | .mul4 _ _ _ => true
  | .mad4 _ _ _ => true
  | .fir4 _ _ _ => true
  | .zero4 _ _ => true
  | .addw _ _ _ _ _ => true
  | .subw _ _ _ _ _ => true
  | .negw _ _ _ _ _ => true
  | .absw _ _ _ _ _ => true
  | .zeroW _ _ _ _ _ => true
  | .wld _ _ _ _ _ => true
  | .wst _ _ _ _ _ => true
  | .rndw _ _ _ _ _ => true
  | .shw _ _ _ _ => true
  | .addwi _ _ _ _ => true
  | .andOp _ _ _ _ _ => true
  | .orOp _ _ _ _ _ => true
  | .xorOp _ _ _ _ _ => true
  | .lsh _ _ _ _ _ => true
  | .amov _ _ _ _ => true
  | .padd _ _ _ _ => true
  | .setcfg _ _ _ => true
  | .rdfl _ _ _ _ _ => true
  | .clrfl _ _ _ => true
  | .ldo _ _ => true
  | .lda _ _ => true
  | .jmp _ _ _ => true
  | .jeq _ _ _ _ => true
  | .jne _ _ _ _ => true
  | .jlt _ _ _ _ => true
  | .jge _ _ _ _ => true
  | .jle _ _ _ _ => true
  | .jgt _ _ _ _ => true
  | .cntb _ _ _ _ => true
  | .rpn _ _ _ => true
  | .rpni _ _ _ => true
  | .jsr _ _ _ => true
  | .ret _ _ => true
  | .doneOp _ _ => true
  | .endOp src => decide (src < 8192)
  | .tileOp src _ _ => decide (src < 8192)
  | .gap src _ => decide (src < 8192)
  | .joinOp src _ _ _ _ _ => decide (src < 8192)
  | .pitch src _ => decide (src < 8192)
  | .tempo src _ => decide (src < 8192)
  | .levelOp src _ => decide (src < 8192)
  | .tone src _ _ _ => decide (src < 8192)
  | .sync src _ _ _ _ _ => decide (src < 8192)
  | .syncSatisfied src _ => decide (src < 8192)
  | .loopOp src _ _ => decide (src < 8192)
  | .lang src _ _ => decide (src < 8192)
  | .tileDecisionPoint src => decide (src < 8192)
  | .tileBoundary src => decide (src < 8192)
  | .commandApply => true
  | .voiceSetParam k => k.wf
  | .voiceGetParams k => k.wf
  | .voiceRelease k => k.wf
  | .voiceStop k => k.wf
  | .voiceGetLevels k => k.wf
  | .voiceGetStatus k => k.wf
  | .bankLoad k => k.wf
  | .bankWrite k => k.wf
  | .bankImageComplete bank => decide (bank < 256)
  | .bankUnload k => k.wf
  | .bankVerify k => k.wf
  | .bankVerifyDone bank => decide (bank < 256)
  | .bankGetInfo k => k.wf
  | .bankList k => k.wf
  | .jobSubmit k => k.wf
  | .jobAbort k => k.wf
  | .jobRelease k => k.wf
  | .jobGetStatus k => k.wf
  | .jobList k => k.wf
  | .jobGetStats k => k.wf
  | .jobSetPolicy k => k.wf
  | .jobScriptEdit k => k.wf
  | .jobSquall k => k.wf
  | .jobSquallEnd k => k.wf
  | .jobArm k => k.wf
  | .jobDisarm k => k.wf
  | .jobSetSquall k => k.wf
  | .mixSetTaps k => k.wf
  | .mixClear k => k.wf
  | .mixGetTaps k => k.wf
  | .mixGetBitmap k => k.wf
  | .mixOpenSet k => k.wf
  | .mixCommitSet k => k.wf
  | .mixCancelSet k => k.wf
  | .mixSetClass k => k.wf
  | .mixSetGen k => k.wf
  | .mixRouteAux k => k.wf
  | .mixGetClip k => k.wf
  | .mixGetStats k => k.wf
  | .zoneEnable k => k.wf
  | .zoneSetInputs k => k.wf
  | .zoneSetGate k => k.wf
  | .zoneSetAmbient k => k.wf
  | .zoneSetEq k => k.wf
  | .zoneLoadFir k => k.wf
  | .zoneSetFir k => k.wf
  | .zoneSetDyn k => k.wf
  | .zoneSetDelay k => k.wf
  | .zoneSetGain k => k.wf
  | .zoneSetPilot k => k.wf
  | .zoneSetOutputs k => k.wf
  | .zoneRestore k => k.wf
  | .zoneSetGroup k => k.wf
  | .zoneGetConfig k => k.wf
  | .zoneGetStatus k => k.wf
  | .kernelStage k => k.wf
  | .kernelWrite k => k.wf
  | .kernelImageComplete => true
  | .kernelLoad k => k.wf
  | .kernelRestoreStd k => k.wf
  | .kernelBrickLoad _ => true
  | .kernelCancel k => k.wf
  | .kernelGetInfo k => k.wf
  | .portConfig k => k.wf
  | .portStart k => k.wf
  | .portStop k => k.wf
  | .portSetGroup k => k.wf
  | .portSetLength k => k.wf
  | .portGetStatus k => k.wf
  | .aportFrameBoundary _ _ => true
  | .aportInputFrame _ _ _ => true
  | .aportDataStart _ => true
  | .aportStopDone _ => true
  | .aportFsTimeout _ => true
  | .aportClockBack _ => true
  | .aportRateMeasure _ _ => true
  | .anaConfig k => k.wf
  | .anaEnable k => k.wf
  | .anaSetRange k => k.wf
  | .anaTrim k => k.wf
  | .anaGetStatus k => k.wf
  | .anaUpdate _ _ => true
  | .anaSettleDone _ => true
  | .anaMuteRampDone _ => true
  | .anaComplianceDetect _ => true
  | .anaComplianceClear _ => true
  | .anaLoadWindow _ _ => true
  | .anaTrimChannelDone _ _ => true
  | .timConfig k => k.wf
  | .timStart k => k.wf
  | .timStop k => k.wf
  | .timSetCmp k => k.wf
  | .timGet k => k.wf
  | .timerClock _ => true
  | .timerLinkAction _ => true
  | .timerPulseEnd _ => true
  | .uartConfig k => k.wf
  | .uartEnable k => k.wf
  | .uartSend k => k.wf
  | .uartRecv k => k.wf
  | .uartSetFramed k => k.wf
  | .uartGetStatus k => k.wf
  | .uartCharReceived _ _ _ _ _ _ => true
  | .xoffGenerate _ => true
  | .uartCharSent _ => true
  | .deRelease => true
  | .uartBreakDetect _ => true
  | .uartLineStuckDetect _ => true
  | .uartWakeEdge _ => true
  | .uartKcpFrame _ _ => true
  | .uartFrameGapTimeout => true
  | .contactConfig k => k.wf
  | .contactSetOut k => k.wf
  | .contactGet k => k.wf
  | .contactSenseWindow codes => decide (codes.length = 16)
  | .supvSetPilot k => k.wf
  | .supvSetPath k => k.wf
  | .supvBaseline k => k.wf
  | .baselineTimeout => true
  | .supvGetPaths k => k.wf
  | .supvSetDew k => k.wf
  | .supvGetDew k => k.wf
  | .pilotWindowEnd zone _ _ => decide (zone < 256)
  | .avuHop path _ _ _ _ _ _ => decide (path < 512)
  | .avuPathFault path => decide (path < 512)
  | .avuPathOk path => decide (path < 512)
  | .avuPathChange path => decide (path < 512)
  | .dewWindowOpen => true
  | .dewStepDone zone _ => decide (zone < 256)
  | .dewRestart zone => decide (zone < 256)
  | .dewWindowClose => true
  | .ageGetPlan k => k.wf
  | .ageGetLog k => k.wf
  | .ageSetLimits k => k.wf
  | .ageGetSensors k => k.wf
  | .ageHour => true
  | .derateRelease => true
  | .eclkChange => true
  | .avsReadback _ _ _ => true
  | .ringSensorRead slacks => decide (slacks.length = 32)
  | .thermalRead temps => decide (temps.length = 16)
  | .canaryRead failed => decide (failed.length = 32)
  | .courseConfig k => k.wf
  | .courseGetStatus k => k.wf
  | .courseSetOffset k => k.wf
  | .courseMapGroup k => k.wf
  | .courseSetTwin k => k.wf
  | .courseFrameSend => true
  | .courseFrameReceived _ _ => true
  | .courseMsgStatus _ _ _ _ _ _ => true
  | .courseMsgTopo _ _ _ => true
  | .courseMsgTime _ _ => true
  | .courseMsgSquall _ _ => true
  | .courseMsgSiteJob _ _ _ _ _ => true
  | .courseMsgSiteCmd _ _ _ _ => true
  | .courseMsgGroupMap _ _ _ => true
  | .courseMsgStrike _ _ _ => true
  | .courseMsgSig _ _ _ => true
  | .courseMsgPartDone _ _ _ => true
  | .courseMsgMigrate _ _ _ => true
  | .coursePortDown _ => true
  | .coursePortUp _ => true
  | .keystoneLost => true
  | .twinCheckDone _ => true
  | .twinTakeoverStart => true
  | .streamConfig k => k.wf
  | .streamTrain k => k.wf
  | .streamTrainingDone _ _ _ _ => true
  | .streamGetStatus k => k.wf
  | .streamMap k => k.wf
  | .streamFlitReceived payload _ _ => decide (payload.length = 16)
  | .streamAudioFrameRx _ _ _ _ => true
  | .streamAudioFrameTx => true
  | .streamLaneFail _ _ => true
  | .streamClockAbsent => true
  | .strikeInEdge _ => true
  | .strikeLatch => true
  | .strikeComplete _ => true
  | .safetyDetection _ _ _ _ _ => true
  | .faultLogWrite => true
  | .safeAliveToggle _ => true
  | .bankRetrain _ => true
  | .bankAvailable => true
  | .vaultWordRestore _ _ => true
  | .scrubWord _ _ _ _ => true
  | .scrubStarved => true
  | .marchWindow _ _ _ => true
  | .testStarved => true
  | .bankPatrolRead _ _ => true
  | .mpllLossOfLock => true
  | .courseLaneAlignmentLoss _ _ => true
  | .uartFalseStart _ => true
  | .uartLineReturnToIdle _ => true
  | .squallSequenceTimeout => true
  | .injectedFaultHoldExpiry _ => true
  | .fieldRepairComplete _ _ => true
  | .configEraseDone _ => true

end Sys2Proof
end

