-- ==== Sys2Proof/Tests/Slice0.lean ====
section
/-! SUPPORT. Small tests: what WellFormed refuses, states that meet the hypotheses of the statements, and single steps whose
results the specification's words give. -/

open Sys2Proof Sys2Proof.Machine

theorem test_reset_wf : Memory.wf State.reset = true := by decide

/-- The device in RUN with fields of its registers set. -/
def Sys2Proof.Tests.tst (l : List (Fld × Nat)) : State :=
  l.foldl (fun s x => s.put x.1 x.2) { State.reset with power := .run }

/-- The same with READY risen. -/
def Sys2Proof.Tests.on : State := Sys2Proof.Tests.tst [(F.HOST_STATUS_READY, 1)]

/-- A command without payload on MB0, with sequence number 1. -/
def Sys2Proof.Tests.cmd (payload : List W32 := []) : Kcp :=
  ⟨0, 1, BitVec.ofNat 12 (4 * payload.length), false, false, false, 0, true, payload⟩

/-- The device with a command recorded on MB0 under sequence number 1. -/
def Sys2Proof.Tests.cached (op : BitVec 16) : State :=
  { Sys2Proof.Tests.on with host := { Sys2Proof.Tests.on.host with caches := [(0, ⟨1, op, 0, 0, 0, []⟩)] } }

open Sys2Proof.Tests

/-! What `Instr.wf` refuses: one term per kind of check, with its boundary. -/

theorem test_wf_payload : (Instr.sysEcho (cmd (List.replicate 257 0))).wf = false ∧
    (Instr.sysEcho (cmd (List.replicate 256 0))).wf = true := by decide +kernel

theorem test_wf_handover : (Instr.slabHandover (.command (cmd (List.replicate 257 0)))).wf = false := by decide +kernel

theorem test_wf_nor_size :
    (Instr.resetRelease ⟨0, some { norImageBlank with part := ⟨true, 0, 6, 257, true, true⟩ }⟩).wf = false := by decide

theorem test_wf_spi_bits : (Instr.spiWriteTransaction [] 8).wf = false ∧ (Instr.spiWriteTransaction [] 7).wf = true := by decide

theorem test_wf_addresses : (Instr.registerWrite 0x10001 0).wf = false ∧ (Instr.registerReadClear 2).wf = false ∧
    (Instr.mtLoRead .spi 3).wf = false := by decide

theorem test_wf_record : (Instr.maxWaitExpiry 12288).wf = false ∧ (Instr.maxWaitExpiry 12287).wf = true := by decide

theorem test_wf_zone_and_bank : (Instr.ambientEstimate 256).wf = false ∧ (Instr.fallbackSwitch 256 true).wf = false ∧
    (Instr.zoneDrainDone 256).wf = false ∧ (Instr.bankImageComplete 256).wf = false ∧ (Instr.dewRestart 256).wf = false := by decide

theorem test_wf_source : (Instr.endOp 8192).wf = false ∧ (Instr.rollbackRerender 8192).wf = false ∧
    (Instr.tileBoundary 8192).wf = false ∧ (Instr.illegalWord 8192 0).wf = false ∧ (Instr.endOp 8191).wf = true := by decide

theorem test_wf_path : (Instr.avuPathFault 512).wf = false ∧ (Instr.avuPathFault 511).wf = true := by decide

theorem test_wf_lists : (Instr.contactSenseWindow (List.replicate 15 0)).wf = false ∧
    (Instr.ringSensorRead (List.replicate 33 0)).wf = false ∧ (Instr.thermalRead []).wf = false ∧
    (Instr.canaryRead (List.replicate 31 false)).wf = false ∧ (Instr.streamFlitReceived [0] 0 true).wf = false := by decide

/-! States and operands that meet the hypotheses of the statements, clause by clause. -/

theorem witness_StepRunsFrontCommand : ({ on with pending := [.ageHour] } : State).pending = [.ageHour] ∧ on.pending = [] := ⟨rfl, rfl⟩

theorem witness_StepKeepsMemoryWf : Memory.wf on = true ∧ ∃ t, step { on with pending := [.slewDone] } = .next t :=
  ⟨by decide, _, rfl⟩

theorem witness_KeySlotsKept : ∃ t, step { on with pending := [.powerOnReset] } = .next t := ⟨_, rfl⟩

theorem witness_MediaTimeKept : ∃ t, exec .slewDone on = .next t := ⟨_, rfl⟩

theorem witness_KcpAccepted : on.taking = true ∧ (on.countTaken 0).cachedAnswer 0 1 0x0108 = none ∧ (on.countTaken 0).isDuplicate 0 1 = false ∧
    cmdSysEcho.check (cmd [7]) (on.countTaken 0) = none ∧ cmdSysEcho.strictLate (cmd [7]) (on.countTaken 0) = false ∧
    cmdSnapStrike.check cmd (on.countTaken 0) = none ∧ cmdSnapStrike.at_ ≠ .none ∧ recorded St.accepted = true := by and_intros <;> decide

theorem witness_KcpRefused : State.reset.taking = false ∧ State.reset.waits = false ∧ on.taking = true ∧
    ({ State.reset with power := .boot } : State).taking = false ∧ ({ State.reset with power := .boot } : State).waits = true ∧
    ({ cmd with chan := 5 } : Kcp).chan.val = 5 ∧
    ((cached 0x0108).cachedAnswer 0 1 0x0108).isSome = true ∧
    (cached 0x0101).cachedAnswer 0 1 0x0108 = none ∧
    (cached 0x0101).isDuplicate 0 1 = true ∧
    on.isDuplicate 0 1 = false ∧ cmdSysEcho.check { cmd [] with rsvd := true } on = some (St.badArg, [w32 hdrOff]) ∧
    cmdSnapStrike.check { cmd [] with strict := true, time := 1 } on = none ∧
    cmdSnapStrike.strictLate { cmd [] with strict := true, time := 1 } on = true := by and_intros <;> decide

theorem witness_AbsentUnitRegisters : regPresent .lmz2048e (R.ANA_CTRL 0) = false ∧ regPresent .lmz8192 (R.ANA_CTRL 63) = true := by and_intros <;> decide

theorem witness_AbsentUnitCommands : badHeader cmd = false ∧
    cmdAnaGetStatus.absent cmd { on with variant := .lmz2048e } = true ∧ cmdAnaGetStatus.opcode / 256 = 0x08 ∧
    cmdCourseGetStatus.opcode / 256 = 0x10 := by and_intros <;> decide

theorem witness_HandoverAndSquallCommands :
    cmdSlabHandover.check (cmd [0x200]) on = none ∧ (on.handover 0 ⟨1, 0⟩ 2 0).flag (F.SLAB_STATUS_HANDOVER_DONE 0) = false ∧
    cmdSlabHandover.check (cmd [0]) on = none ∧ (on.handover 0 ⟨1, 0⟩ 0 0).flag (F.SLAB_STATUS_HANDOVER_DONE 0) = true ∧
    (cmdSlabHandover.check cmd on).isSome = true ∧
    cmdJobSquall.check cmd (on.put F.DISP_SQUALL_CFG_ARMED 1 |>.put F.DISP_SQUALL_CFG_EN_MB0 1) = none ∧
    cmdJobSquall.check { cmd [] with chan := 4 } (on.put F.DISP_SQUALL_CFG_ARMED 1 |>.put F.DISP_SQUALL_CFG_EN_MB0 1) = none ∧
    cmdJobSquall.permitted cmd on = true ∧ on.flag F.DISP_SQUALL_CFG_ARMED = false := by and_intros <;> decide

theorem witness_SequenceReset : on.get (F.MB_STAT_STATE 3) ≠ 1 ∧ (tst [(F.MB_STAT_STATE 3, 1)]).get (F.MB_STAT_STATE 3) = 1 ∧
    3 ∈ ({ on with host := { on.host with seqReset := [3] } } : State).host.seqReset := by and_intros <;> decide

theorem witness_commandOf : commandOf (.sysEcho cmd) = some (cmdSysEcho, cmd) ∧
    commandOf (.anaGetStatus cmd) = some (cmdAnaGetStatus, cmd) := ⟨rfl, rfl⟩

theorem witness_SpiWriteTransaction : State.reset.ready = false ∧ on.ready = true ∧
    crc8 [0x02, 0, 0, 0, 0, 0, 0, 0] ≠ crc8 [0x02, 0, 0, 0, 0, 0, 0, 0] + 1 ∧
    bufferOf 0x80 = none ∧ bufferOf 0x7C = none ∧ bufferOf (mbBuf 3) = some 3 ∧ bufferOf (mbBuf 3 + 1036) = some 3 ∧
    bufferOf (mbBuf 3 + 1040) = none ∧ (0x80 : BitVec 24).toNat % 4 = 0 ∧
    (tst [(F.MB_STAT_STATE 3, 1)]).get (F.MB_STAT_STATE 3) = 1 ∧ on.get (F.MB_STAT_STATE 3) ≠ 1 := by
  and_intros <;> decide +kernel

theorem witness_ReadsOfRegisters : latching R.TIME_MT_LO = true ∧ latching (R.STRK_HELD_MT_LO 3) = true ∧ latching R.HOST_STATUS = false ∧
    regPresent on.variant R.TIME_MT_LO = true := by and_intros <;> decide

theorem witness_RegisterWrites : ownRow (R.SLAB_HANDOVER 0) = true ∧ ownRow (R.ANA_SLEW 0) = false ∧ regPresent .lmz8192 (R.ANA_SLEW 0) = true ∧
    (regRow (R.ANA_SLEW 0)).isSome = true ∧ regRow 0xFFFFFC = none := by and_intros <;> decide +kernel

theorem witness_HostBlockWrites : bufferOf (mbBuf 0) = some 0 ∧ (1 : W32).getLsbD 0 = true ∧ on.get (F.MB_STAT_STATE 0) ≠ 1 ∧
    (tst [(F.MB_STAT_STATE 0, 1)]).get (F.MB_STAT_STATE 0) = 1 := by and_intros <;> decide

/-- What the boot finds on a board with a good firmware image. -/
def Sys2Proof.Tests.board : BootEnv :=
  ⟨0, some { norImageBlank with part := ⟨true, 0xEF4019, 6, 32, true, true⟩, fwA := ⟨true, 1, 0x10000, []⟩ }⟩

theorem witness_DeviceResets : on.power ≠ .off ∧ on.power ≠ .reset ∧ State.reset.power = .reset ∧ State.reset.resetKind = .por ∧
    ({ on with safe := { on.safe with resetDue := some 0 } } : State).safe.resetDue = some 0 ∧ on.safe.resetDue = none ∧
    Memory.wf on = true ∧ ResetKind.wdog ≠ .por := by and_intros <;> decide

theorem witness_BootAndReady : on.power ≠ .reset ∧ State.reset.power = .reset ∧ State.reset.resetKind = .por ∧
    (State.reset.boot board).power = .boot ∧ (State.reset.boot board).bootFailed = false ∧
    (State.reset.boot ⟨0, none⟩).bootFailed = true ∧ on.host.waiting = [] := by and_intros <;> decide +kernel

theorem witness_AnalogueRails : on.pins.analogueGood = true ∧
    ({ on with pins := ⟨false⟩ } : State).pins.analogueGood = false ∧ 63 < on.variant.channels ∧
    (tst [(F.ANA_STATUS_STATE 63, Ana.railOff), (F.ANA_CTRL_EN 63, 1)]).anaState 63 = Ana.railOff ∧
    (tst [(F.ANA_STATUS_STATE 63, Ana.railOff), (F.ANA_CTRL_EN 63, 1)]).flag (F.ANA_CTRL_EN 63) = true ∧
    on.live = true ∧ on.standby = false := by and_intros <;> decide

theorem witness_LullAndWake : on.lullEntry = false ∧ ({ on with lullEntry := true } : State).lullEntry = true ∧ on.power ≠ .lull ∧
    ({ on with power := .lull } : State).power = .lull := by and_intros <;> decide

/-- The device with the slab space in a given condition, slab 31 owned by the vault. -/
def Sys2Proof.Tests.space (x : SlabSt) : State :=
  { tst [(F.SLAB_OWNER_OWNER 0, 2), (F.SLAB_OWNER_OWNER 31, 9), (F.MEMIF_CTRL_SCRUB_EN, 1), (F.MEMIF_CTRL_MARCH_EN, 1)] with slabs := x }

theorem witness_SlabViews : (space .init).owns 0 ⟨2, 0⟩ = true ∧ (space .init).owns 0 ⟨3, 0⟩ = false ∧
    ((space .init).slabs.draining.find? fun x => x.1 = 0) = none ∧ (space .init).slabs.bad.contains 0 = false ∧
    (space { SlabSt.init with bad := [65535] }).slabs.bad.contains (0 * 65536 + 131071 / 2) = true ∧
    ((space { SlabSt.init with draining := [(0, 4, 15)] }).slabs.draining.find? fun x => x.1 = 0) = some (0, 4, 15) := by
  and_intros <;> decide

theorem witness_SlabHandover : (space .init).owns 0 ⟨1, 0⟩ = false ∧ (space .init).owns 31 ⟨9, 0⟩ = true ∧
    (space .init).get (F.SLAB_OWNER_OWNER 31) = 9 ∧
    ((space { SlabSt.init with draining := [(0, 4, 15)] }).slabs.draining.find? fun x => x.1 = 0) = some (0, 4, 15) := by
  and_intros <;> decide

theorem witness_SlabScrubAndMarch :
    (tst [(F.MEMIF_CTRL_SCRUB_EN, 0)]).flag F.MEMIF_CTRL_SCRUB_EN = false ∧ on.slabs.passes.contains (0, false) = false ∧
    (space .init).flag F.MEMIF_CTRL_SCRUB_EN = true ∧ (tst [(F.MEMIF_CTRL_MARCH_EN, 0)]).flag F.MEMIF_CTRL_MARCH_EN = false ∧
    (space .init).flag F.MEMIF_CTRL_MARCH_EN = true := by and_intros <;> decide

theorem witness_SlabRepairAndVault : ((space .init).slabs.repairs.find? fun x => x.1 = 31) = none ∧
    ((space { SlabSt.init with repairs := [(31, 71)] }).slabs.repairs.find? fun x => x.1 = 31) = some (31, 71) ∧
    ({ space .init with age := { AgeSt.init with repairDue := [31] } } : State).age.repairDue.contains 31 = true ∧
    (space .init).get (F.SLAB_OWNER_OWNER 0) ≠ 9 ∧ (space .init).get (F.SLAB_OWNER_OWNER 31) = 9 := by and_intros <;> decide

/-- Both UARTs enabled, with one changed. -/
def Sys2Proof.Tests.line (l : List (Fld × Nat)) (u : UartSt) : State :=
  (tst ((F.UART_CTRL_EN 0, 1) :: (F.UART_CTRL_EN 1, 1) :: (F.HOST_STATUS_READY, 1) :: l)).setUart u

theorem witness_UartTransmit :
    (line [] (.init 0)).uartOn 0 = true ∧ (line [] (.init 0)).flag (F.UART_STATUS_TXD_FULL 0) = false ∧
    ((line [] { UartSt.init 1 with shifter := some 65 }).uart 1).shifter ≠ none ∧
    ((line [] { UartSt.init 0 with flowOut := [17] }).uart 0).flowOut = [17] ∧
    ((line [] { UartSt.init 0 with txd := some 65 }).uart 0).txd = some 65 ∧
    (line [] { UartSt.init 0 with txd := some 65 }).flag (F.UART_STATUS_TX_PAUSED 0) = false ∧
    (line [(F.UART_STATUS_TX_PAUSED 0, 1)] (.init 0)).flag (F.UART_STATUS_TX_PAUSED 0) = true ∧
    ((line [] { UartSt.init 0 with sendBuf := [65, 66] }).uart 0).sendBuf = [65, 66] ∧
    (line [] (.init 0)).firmware = true := by and_intros <;> decide

theorem witness_UartReceive : on.uartOn 1 = false ∧ (line [] { UartSt.init 1 with armed := true }).uartOn 1 = true ∧
    ((line [] { UartSt.init 1 with armed := true }).uart 1).armed = true ∧
    (line [] { UartSt.init 1 with armed := true }).echoed 1 = false ∧
    (line [(F.UART_CTRL_FLOW_TX 1, 1)] (.init 1)).flag (F.UART_CTRL_FLOW_TX 1) = true := by and_intros <;> decide

theorem witness_UartLine : (line [(F.UART_CTRL_FLOW_RX 1, 1), (F.UART_RXD_VALID 1, 1)] (.init 1)).flag (F.UART_CTRL_FLOW_RX 1) = true ∧
    (line [(F.UART_CTRL_FLOW_RX 1, 1), (F.UART_RXD_VALID 1, 1)] (.init 1)).flag (F.UART_RXD_VALID 1) = true ∧
    ((line [] { UartSt.init 1 with matched := 1 }).uart 1).xoffSent = false ∧ ((line [] (.init 1)).uart 1).breakSeen = false ∧
    ({ line [(F.UART_CTRL_WAKE_EN 1, 1)] (.init 1) with power := .lull } : State).flag (F.UART_CTRL_WAKE_EN 1) = true ∧
    ((line [] (.init 1)).uart 1).wakeArmed = true ∧ on.uartOn 0 = false := by and_intros <;> decide

theorem witness_UartFramesAndSquall : (line [(F.UART_CTRL_FRAMED 1, 1)] (.init 1)).framed 1 = true ∧ on.framed 1 = false ∧
    (frameBody []).bind unescape = none ∧
    (frameBody ([0x10, 0x02] ++ List.replicate 18 0 ++ [0x10, 0x03])).bind unescape = some (List.replicate 18 0) ∧
    bits ((wordsOfBytes (List.replicate 18 0)).getD 1 0) 20 12 = 0 ∧
    ((line [] { UartSt.init 1 with matched := 3 }).uart 1).matched = 3 ∧ 0 < ((line [] { UartSt.init 1 with matched := 1 }).uart 1).matched ∧
    (on.uart 1).matched = 0 ∧
    (({ on with host := { on.host with rung := [(5, 0, true)] } } : State).host.rung.any fun x => x.1 = 5) = true ∧
    ((line [(F.UART_CTRL_FRAMED 1, 1)] { UartSt.init 1 with sendBuf := [65] }).uart 1).sendBuf ≠ [] ∧
    (line [(F.UART_CTRL_FRAMED 1, 1)] { UartSt.init 1 with sendBuf := [65] }).framed 1 = true ∧
    (line [(F.UART_CTRL_FRAMED 1, 1)] (.init 1)).uartOn 1 = true ∧
    (line [(F.UART_CTRL_FRAMED 1, 1)] (.init 1)).host.uartBusy = [] ∧
    ((line [(F.UART_CTRL_FRAMED 1, 1)] (.init 1)).uart 1).flowOut = [] := by and_intros <;> decide

/-- The same with media time counting, and with the time state changed. -/
def Sys2Proof.Tests.ticking (l : List (Fld × Nat)) (f : TimeSt → TimeSt := id) : State :=
  { tst l with time := f { TimeSt.init with counting := true, mt := 6400 } }

theorem witness_TimerRegisterWrites : (tst [(F.TIM_CTRL_RUN 15, 1)]).flag (F.TIM_CTRL_RUN 15) = true ∧
    (tst [(F.TIM_CTRL_RUN 15, 1)]).flag (F.TIM_CTRL_PERIOD_IMM 15) = false ∧ on.flag (F.TIM_CTRL_RUN 0) = false ∧
    (tst [(F.TIM_CTRL_RUN 0, 1), (F.TIM_CTRL_PERIOD_IMM 0, 1)]).flag (F.TIM_CTRL_PERIOD_IMM 0) = true := by and_intros <;> decide

/-- Timer 2 runs from the sample clock, with more fields set. -/
def Sys2Proof.Tests.timer2 (l : List (Fld × Nat)) : State :=
  ticking ([(F.TIM_CTRL_RUN 2, 1), (F.TIM_CLK_SRC 2, 1), (F.TIM_PERIOD_PERIOD 2, 7)] ++ l)

theorem witness_TimerClocks : on.flag (F.TIM_CTRL_RUN 2) = false ∧
    (timer2 [(F.TIM_LINK_EN 2, 1), (F.TIM_LINK_ACTION 2, 4)]).flag (F.TIM_LINK_EN 2) = true ∧
    (timer2 [(F.TIM_LINK_EN 2, 1), (F.TIM_LINK_ACTION 2, 4)]).get (F.TIM_LINK_ACTION 2) = 4 ∧
    on.time.counting = false ∧ (tst [(F.TIM_CLK_SRC 2, 2)]).get (F.TIM_CLK_SRC 2) = 2 ∧
    (timer2 [(F.TIM_CLK_SRC 2, 4)]).get (F.TIM_CLK_SRC 2) = 4 ∧
    (timer2 []).flag (F.TIM_CTRL_RUN 2) = true ∧ (timer2 []).flag (F.TIM_LINK_EN 2) = false ∧ (timer2 []).time.counting = true ∧
    (timer2 []).get (F.TIM_CLK_SRC 2) < 4 ∧ (timer2 []).flag (F.TIM_GATE_EN 2) = false ∧
    (timer2 [(F.TIM_COUNT_COUNT 2, 7)]).get (F.TIM_COUNT_COUNT 2) = (timer2 [(F.TIM_COUNT_COUNT 2, 7)]).timPeriod 2 ∧
    ((timer2 []).setTimer { TimerSt.init 2 with skipNext := true }).timer 2 = { TimerSt.init 2 with skipNext := true } ∧
    (timer2 []).get (F.TIM_COUNT_COUNT 2) ≠ (timer2 []).timPeriod 2 ∧
    ((timer2 []).timer 2).skipNext = false ∧ ((timer2 []).timer 2).resetNext = false ∧
    (((timer2 []).setTimer { TimerSt.init 2 with resetNext := true }).timer 2).resetNext = true := by and_intros <;> decide

theorem witness_TimerActions : (timer2 []).flag (F.TIM_CTRL_RUN 2) = true ∧ on.flag (F.TIM_CTRL_RUN 2) = false ∧
    (((timer2 []).setTimer { TimerSt.init 2 with pulse := true }).timer 2).pulse = true ∧ ((timer2 []).timer 2).pulse = false ∧
    (timer2 [(F.TIM_CTRL_ACT 2, 4 + 3 * 8 + 2 * 64 + 512)]).get (F.TIM_CTRL_ACT 2) / 8 ^ 3 % 8 = 1 ∧
    (timer2 [(F.TIM_CTRL_ACT 2, 4 + 3 * 8 + 2 * 64 + 512)]).get (F.TIM_CTRL_ACT 2) / 8 ^ 0 % 8 = 4 ∧
    (timer2 []).get (F.TIM_INTERVAL_INTERVAL 2 3) = 0 ∧ (timer2 [(F.TIM_INTERVAL_INTERVAL 2 3, 1)]).get (F.TIM_INTERVAL_INTERVAL 2 3) ≠ 0 ∧
    ((timer2 []).get (F.TIM_OUT_EVENTS 2)).testBit 4 = false ∧
    ((timer2 [(F.TIM_OUT_EVENTS 2, 16)]).get (F.TIM_OUT_EVENTS 2)).testBit 4 = true ∧
    (timer2 [(F.TIM_OUT_EVENTS 2, 16)]).flag (F.TIM_OUT_MODE 2) = false ∧
    (timer2 [(F.TIM_OUT_EVENTS 2, 16), (F.TIM_OUT_MODE 2, 1)]).flag (F.TIM_OUT_MODE 2) = true := by and_intros <;> decide

theorem witness_ContactSense : State.reset.power = .reset ∧ on.power ≠ .off ∧ on.power ≠ .reset ∧
    ((tst [(F.CONTACT_CTRL_SENSE_EN, 0)]).get F.CONTACT_CTRL_SENSE_EN).testBit 15 = false ∧
    ((tst [(F.CONTACT_CTRL_SENSE_EN, 0x8000)]).get F.CONTACT_CTRL_SENSE_EN).testBit 15 = true ∧
    on.contactClass 15 = Ct.normal ∧ Ct.open_ ≠ on.contactClass 15 ∧ on.get (F.CT_STAT_RUN 15) = 0 ∧
    (tst [(F.CT_STAT_RUN 15, 1), (F.CT_STAT_CANDIDATE 15, Ct.open_)]).get (F.CT_STAT_RUN 15) = 1 ∧
    (tst [(F.CT_STAT_RUN 15, 2), (F.CT_STAT_CANDIDATE 15, Ct.open_)]).get (F.CT_STAT_RUN 15) = 2 ∧
    (tst [(F.CT_STAT_RUN 15, 2), (F.CT_STAT_CANDIDATE 15, Ct.open_)]).get (F.CT_STAT_CANDIDATE 15) = Ct.open_ := by
  and_intros <;> decide

/-- The device locked to reference 1, with more fields set and the time state changed. -/
def Sys2Proof.Tests.timed (l : List (Fld × Nat)) (f : TimeSt → TimeSt := id) : State :=
  ticking ([(F.TIME_REF_STAT_STATE 1, Ref.selected), (F.TIME_STATUS_SRC, 1), (F.TIME_STATUS_MODE, Mode.locked),
    (F.TIME_STATUS_MPLL_LOCK, 1)] ++ l) f

theorem witness_TimeReferenceEdges : (timed []).running = true ∧ (timed []).refState 1 = Ref.selected ∧
    periodGood 0 ((timed []).refPeriod 1) = false ∧ periodGood (((timed []).refPeriod 1).1 / ((timed []).refPeriod 1).2) ((timed []).refPeriod 1) = true ∧
    (timed [(F.TIME_REF_STAT_STATE 0, Ref.lost)]).refState 0 = Ref.lost ∧
    (timed [(F.TIME_REF_STAT_STATE 0, Ref.mismatch)]).refState 0 = Ref.mismatch ∧
    (timed [(F.TIME_REF_STAT_STATE 0, Ref.off)]).refState 0 = Ref.off ∧ State.reset.running = false ∧
    (timed [(F.TIME_REF_STAT_STATE 2, Ref.qualifying)]).refState 2 = Ref.qualifying ∧
    (timed []).time.msgFrame = none ∧ (timed [] fun t => { t with msgFrame := some 5 }).time.msgFrame = some 5 := by
  and_intros <;> decide

theorem witness_PhaseSteps : (16 : Int).natAbs ≤ 16 ∧ 16 < (17 : Int).natAbs ∧ (512 : Int).natAbs ≤ 512 ∧ 512 < (-513 : Int).natAbs ∧
    (513 : Int).natAbs ≤ (timed []).bl * 256 ∧ (timed []).bl * 256 < (-100000 : Int).natAbs ∧ (timed []).bl * 256 < (100000 : Int).natAbs ∧
    (timed []).cascade = false ∧ (timed []).time.jump = none ∧ (timed []).mode = Mode.locked ∧
    (timed [] fun t => { t with measureDue := true }).time.measureDue = true ∧
    (timed [] fun t => { t with keptOff := -100000 }).time.keptOff ≠ 0 ∧
    (-100000 : Int) < -((timed []).bl * 256 : Int) ∧ ((-100000 : Int) - -100000).natAbs ≤ (timed []).bl * 256 ∧
    (timed []).bl * 256 < ((-300000 : Int) - -100000).natAbs ∧ -((timed []).bl * 256 : Int) ≤ 0 ∧
    State.reset.running = false ∧ (timed []).running = true ∧ (timed []).time.epoch = none ∧ (timed []).src = 1 ∧
    (timed [(F.TIME_REF_CFG_MODE 1, 1)]).get (F.TIME_REF_CFG_MODE 1) = 1 ∧
    2 ≤ (timed [] fun t => { t with ppsBad := 2 }).time.ppsBad ∧ (timed []).time.ppsBad < 2 ∧
    (timed [] fun t => { t with epoch := some ⟨0, true, 0, true⟩ }).time.epoch = some ⟨0, true, 0, true⟩ ∧
    (timed []).leads = false ∧ 0 < (timed []).time.mt + (timed []).bl := by and_intros <;> decide +kernel

theorem witness_ClockModesAndRate : (timed []).src ≠ 3 ∧ (timed [(F.TIME_STATUS_SRC, 3)]).src = 3 ∧
    (timed []).flag F.TIME_STATUS_MPLL_LOCK = true ∧ (timed []).flag F.TIME_STATUS_SLEWING = false ∧ (timed []).time.acquiring = false ∧
    (timed [(F.TIME_STATUS_SLEWING, 1)]).flag F.TIME_STATUS_SLEWING = true ∧ (timed []).running = true ∧
    (timed [(F.TIME_STATUS_MPLL_LOCK, 0)]).flag F.TIME_STATUS_MPLL_LOCK = false ∧ (timed []).leads = false ∧
    (timed [] fun t => { t with epoch := some ⟨0, false, 0, true⟩ }).time.epoch = some ⟨0, false, 0, true⟩ ∧
    (timed []).time.rate = none ∧
    (timed [] fun t => { t with rate := some ⟨1, 0, 1000, false, false, false, 0, 0⟩ }).commit + 1 < 1000 ∧
    1 ≤ (timed [] fun t => { t with rate := some ⟨1, 0, 1, false, false, false, 0, 0⟩ }).commit + 1 := by and_intros <;> decide

theorem witness_BlockTickAdvances : State.reset.running = false ∧ (timed []).running = true ∧ (timed []).time.counting = true ∧
    (timed []).time.rate = none ∧ (timed []).time.jump = none ∧ (timed []).time.epoch = none ∧
    (timed [] fun t => { t with jump := some ⟨3, 1, 0, none⟩ }).time.jump = some ⟨3, 1, 0, none⟩ ∧
    1 ≤ (timed [] fun t => { t with jump := some ⟨3, 1, 0, none⟩ }).blockNow + 1 ∧
    1 ≤ (timed [] fun t => { t with rate := some ⟨1, 0, 1, true, false, false, 0, 0⟩ }).commit := by and_intros <;> decide

theorem witness_ZoneEvents : ((tst []).zone 0).ambient.gapBlocks < 64 ∧
    64 ≤ ((on.setZone { Zone.init 255 with ambient := { (Zone.init 255).ambient with gapBlocks := 64 } }).zone 255).ambient.gapBlocks ∧
    (on.zone 0).draining = false ∧ ((on.setZone { Zone.init 0 with draining := true }).zone 0).draining = true ∧
    kget (on.zone 0).failed 0 = none ∧
    kget ((on.setZone { Zone.init 0 with failed := [(1, 3)], dests := [0, 0, 0, 0x13000000] }).zone 0).failed 1 = some 3 ∧
    (on.zone 0).slotOf 3 = none ∧ on.flag (F.ZONE_STATUS_FB_B 0) = false ∧
    (tst [(F.ZONE_STATUS_FB_A 0, 1)]).flag (F.ZONE_STATUS_FB_A 0) = true ∧
    (tst [(F.ZONE_CTRL_FB_AUTO 0, 1)]).flag (F.ZONE_CTRL_FB_AUTO 0) = true ∧
    (tst [(F.ZONE_CTRL_FB_AUTO 0, 0)]).flag (F.ZONE_CTRL_FB_AUTO 0) = false ∧
    (kget ((on.setZone { Zone.init 0 with good := [(1, 15000)] }).zone 0).good 1).getD 0 = 15000 := by and_intros <;> decide

/-- A destination with role 3 fills the fourth slot. -/
theorem witness_ZoneEvents_slot : ∃ w : W32, ({ Zone.init 0 with dests := [0, 0, 0, w] } : Zone).slotOf 3 = some 3 :=
  ⟨0x13000000, by decide⟩

/-- A job of class 8 with one voice. -/
def Sys2Proof.Tests.job : Job :=
  { record := 0, gen := 1, state := .ready,
    descr := ⟨8, 0, false, true, false, false, false, 1, 0, 10, 0, 0, 0, 0, [0], [], []⟩,
    startAt := 0, sortAt := 0, wantBlock := 0, order := 0, readyAt := 0, hardware := false, skipped := false, voices := [], slip := 0,
    late := 0, firstMt := none, reason := 0, tapsFullPosted := false, started := false, reported := false, siteHandle := none,
    siteParts := [], releaseAt := none }

/-- Its voice in slot 5, in SCRIPT mode, with a sequencer. -/
def Sys2Proof.Tests.voice (q : Seq) (script : List W32 := []) : Voice :=
  { startMt := 0, sounding := true, releaseAt := none, cutAt := none, endBlock := none, bound := [], level := 0, synth := Synth.init,
    seq := q, src := 5, record := 0, index := 0, cls := 8, preset := 0, companion := false,
    params := [0x100, 0, 0, 0, 1], edits := [], stop := none, flags := 0, clipNow := false, peak := 0, rms := 0, rms16 := 0,
    rmsHist := [], lastSample := 0, wasLate := false, next := 0, staged := [], ckpts := [], rollback := none, rollOrder := 0,
    rollPeriod := none, redo := none, lives := [], script := script, scriptBank := 0, gapFrom := none }

/-- The device with that voice, and banks. -/
def Sys2Proof.Tests.playing (v : Voice) (b : List Bank := []) : State :=
  { ticking [] with disp := { DispSt.init with jobs := [job], voices := [v] }, banks := { BankSt.init with banks := b } }

/-- Its sequencer: running at sample 0, or in another phase. -/
def Sys2Proof.Tests.seq (p : SeqPhase := .running) : Seq := { Seq.start 0 0 0 true with phase := p }

theorem witness_DispatchEvents : on.job? 0 = none ∧ State.reset.running = false ∧ (playing (voice seq)).job? 0 = some job ∧
    (playing (voice seq)).running = true ∧ job.state = .ready ∧ job.descr.maxWait ≠ 0 ∧
    job.readyAt + job.descr.maxWait ≤ (playing (voice seq)).commit ∧ job.siteHandle = none ∧
    ({ job with readyAt := 1000 } : Job).readyAt + 10 > (playing (voice seq)).commit ∧
    on.timed = [] ∧ decide ((playing (voice seq)).blockOf 0 ≤ (playing (voice seq)).commit) = true ∧
    (playing (voice seq)).standard 0 = true ∧
    ({ playing (voice seq) with kernel := { KernelSt.init with images := [(0, ⟨[], 0⟩)] } } : State).standard 0 = false ∧
    (playing (voice seq)).queued (voice seq) = true ∧ (playing (voice seq)).queueHead 0 = some (voice seq) ∧
    (voice seq).rollback = none ∧ ({ voice seq with rollback := some 3 } : Voice).rollback = some 3 ∧
    (voice seq).ckpts = [] := by and_intros <;> decide

theorem witness_ScriptOperations : on.voice? 5 = none ∧ (playing (voice seq)).voice? 5 = some (voice seq) ∧
    (voice seq).sounding = true ∧ (voice seq).scripted (voice seq).seq.now = true ∧ (voice seq).seq.phase = .running ∧
    (voice seq).seq.now = 0 ∧ (voice (seq (.gap 7))).seq.phase = .gap 7 ∧ (voice seq).seq.read = none ∧
    (voice (seq (.tile 0 0 9))).seq.phase = .tile 0 0 9 ∧ (voice seq).cutDue = none ∧
    ({ voice seq with edits := [⟨0, 1, .script true [0], 0, 32⟩] } : Voice).cutDue.isSome = true ∧
    seq.cur.inserted = [] ∧ seq.cur.loopOk 0 = false ∧ ({ seq.cur with word := 2 } : Cursor).loopOk 1 = true ∧
    seq.cur.loopOk 1 = false := by and_intros <;> decide

/-- An image with one tile of kind SPEECH at its start. -/
def Sys2Proof.Tests.image : Image := ⟨3, 64, [(0x0C, 1)], [], [0], []⟩

theorem witness_ScriptTilesAndWaits : (playing (voice seq)).voice? 5 = some (voice seq) ∧
    bits (4 : W32) 2 2 ≠ 0 ∧ bits (0 : W32) 2 2 = 0 ∧ (playing (voice seq)).findTile (voice seq) seq.cur 0 = none ∧
    ((playing (voice seq) [{ Bank.init 0 with state := .resident, image := some image }]).findTile (voice seq) seq.cur 0).isSome = true ∧
    (playing (voice seq)).companion 0 1 = none ∧
    ((playing { voice seq with index := 1, companion := true }).companion 0 1).isSome = true ∧
    (playing (voice seq)).tileImage (voice seq) 0 = none ∧
    (playing (voice (seq (.sync .at false 0 0 9000 100)))).syncAt (voice (seq (.sync .at false 0 0 9000 100))) 0 false = some 9000 ∧
    (playing (voice (seq (.sync .contact false 0 5 0 100)))).syncAt (voice (seq (.sync .contact false 0 5 0 100))) 0 true = some 2500 ∧
    (playing (voice (seq (.sync .grid false 0 1 0 33)))).syncAt (voice (seq (.sync .grid false 0 1 0 33))) 0 false = some 64 ∧
    (playing (voice seq)).syncAt (voice seq) 0 false = none ∧
    (playing (voice (seq (.tile 0 0 9)))).voiceIn 5 0 = some (voice (seq (.tile 0 0 9))) ∧
    scriptAhead [0, 0] false 65536 ((seq (.tile 0 0 9)).cur.insert []) [] = ([(1, [0])], { seq.cur with word := 2 }, true) ∧
    bits (([0] : List W32).headD 0) 24 8 ≠ 1 := by and_intros <;> decide +kernel

theorem witness_BankLoads : (on.bank 3).load = none ∧
    ((playing (voice seq) [{ Bank.init 3 with state := .loading, load := some ⟨64, false, true, [], [(0, 64)], 0, false, false⟩ }]).bank 3).load =
      some ⟨64, false, true, [], [(0, 64)], 0, false, false⟩ ∧
    (⟨64, false, true, [], [(0, 64)], 0, false, false⟩ : Load).complete = true ∧
    (⟨64, false, true, [], [(0, 64)], 0, false, false⟩ : Load).badLength = false ∧
    (⟨64, false, false, [], [], 80, true, false⟩ : Load).badLength = true ∧
    ((playing (voice seq) [{ Bank.init 3 with checking := true, image := some image }]).bank 3).checking = true ∧
    ((playing (voice seq) [{ Bank.init 3 with checking := true, image := some image }]).bank 3).image = some image ∧
    image.unverified.contains 0 = true ∧ image.bad.contains 0 = false ∧ (playing (voice seq)).running = true ∧
    (∀ i ∈ (on.bank 3).image.toList ++ (on.bank 3).old, i.gen ≠ 0) := by and_intros <;> decide

theorem witness_BankMemory : State.reset.running = false ∧ on.running = true ∧ on.banks.available = true ∧
    ({ on with banks := { BankSt.init with available := false } } : State).banks.available = false ∧
    ({ on with banks := { BankSt.init with available := false } } : State).banks.trained = true ∧
    PageOf.image 3 3 0 ∈ (playing (voice seq) [{ Bank.init 3 with state := .resident, image := some image }]).pageContents := by
  and_intros <;> decide

/-- A call in progress, of the voice in slot 5, with the datapath changed. -/
def Sys2Proof.Tests.calling (f : Datapath → Datapath := id) : State :=
  { playing (voice seq) with dp := f { Datapath.init with active := true, src := 5, block := 3 } }

theorem witness_KernelRegistersShape : State.reset.dp = Datapath.init ∧
    ∃ t, step { State.reset with pending := [.slewDone] } = .next t := ⟨rfl, _, rfl⟩

theorem witness_KernelWideArithmetic : on.dp.active = false ∧
    (calling fun d => { d with cycles := calling.callBudget }).callBudget ≤ (calling fun d => { d with cycles := calling.callBudget }).dp.cycles ∧
    calling.dp.active = true ∧ calling.dp.cycles < calling.callBudget ∧ calling.dp.rep = none ∧ calling.dp.w.length = 4 := by
  and_intros <;> decide

theorem witness_KernelFourLanes : calling.dp.active = true ∧ calling.dp.cycles < calling.callBudget ∧ calling.dp.rep = none ∧
    calling.dp.w.length = 4 ∧ calling.dp.o.length = 8 ∧ calling.dp.cfg.getLsbD 9 = true := by and_intros <;> decide

theorem witness_KernelLogicAndAddress : calling.dp.active = true ∧ calling.dp.cycles < calling.callBudget ∧ calling.dp.rep = none ∧
    calling.dp.o.length = 8 ∧ calling.dp.pt.length = 8 ∧ calling.dp.st.length = 8 ∧ calling.dp.wlo.length = 8 ∧
    calling.dp.whi.length = 8 ∧ roundEven 23 (calling.dp.wReg 3) < 2 ^ 23 ∧ (2 : Int) ^ 23 ≤ roundEven 23 (2 ^ 47) := by
  and_intros <;> decide

theorem witness_KernelAddressing : (8 ≤ 8 ∨ 7 < 8 ∨ 8 ≤ 7) ∧ (8 : Nat) < 16 ∧ 15 < 16 ∧
    (2 ^ 17 % 2 ^ 17 = 0 ∧ 2 ^ 17 + 2 ^ 17 ≤ 2 ^ 18 ∧ 2 ^ 18 - 1 < 2 ^ 17 + 2 ^ 17) ∧ 2 % 2 ^ 1 = 0 ∧
    (∀ k ∈ List.range 18, 1 ≤ k → 12 - 9 ≠ 2 ^ k) := by decide

theorem witness_KernelMoves : (⟨0, .none, 0, 0⟩ : Move).upd = 0 ∧ (⟨0, .load, 15, 0⟩ : Move).op = .load ∧
    (⟨0, .store, 7, 0⟩ : Move).reg.val < 8 ∧ 8 ≤ (⟨0, .store, 8, 0⟩ : Move).reg.val ∧ 12 ≤ (⟨0, .store, 15, 0⟩ : Move).reg.val ∧
    (⟨7, .store, 11, 3⟩ : Move).upd ≠ 0 ∧ calling.mayLoad calling.dp true 320 = true ∧ calling.mayLoad calling.dp true 319 = false ∧ calling.mayLoad calling.dp true 0x20000 = true ∧
    calling.mayLoad calling.dp true 0x24000 = false ∧ ptAddr (calling.dp.ptM.getD 7 0) = 0 := by and_intros <;> decide

theorem witness_KernelControl : calling.dp.active = true ∧ calling.dp.cycles < calling.callBudget ∧ calling.dp.rep = none ∧
    (0x1DFF : BitVec 13).toNat < 0x1E00 ∧ 0x1E00 ≤ (0x1E00 : BitVec 13).toNat ∧ calling.dp.stack.length < 4 ∧
    (calling fun d => { d with stack := [1, 2, 3, 4] }).dp.stack.length = 4 ∧ calling.dp.stack = [] ∧
    (calling fun d => { d with rep := some 0 }).dp.rep = some 0 := by and_intros <;> decide

theorem witness_KernelRepeat : (calling fun d => { d with rep := some 0 }).dp.rep = some 0 ∧
    (calling fun d => { d with rep := some 4096 }).dp.rep = some (4095 + 1) ∧
    (calling fun d => { d with rep := some 2 }).dp.cycles + 1 + 1 < (calling fun d => { d with rep := some 2 }).callBudget := by
  and_intros <;> decide

/-- A pending load of the standard kernel into brick 0. -/
def Sys2Proof.Tests.loading (b : Nat) : State :=
  { ticking [] with kernel := { KernelSt.init with pend := [⟨[0], [0], [0], none, b⟩] } }

theorem witness_KernelCallEnds : on.dp.active = false ∧ calling.dp.src ≠ 6 ∧ calling.dp.active = true ∧
    calling.voiceIn calling.dp.src calling.dp.record = some (voice seq) ∧ (calling fun d => { d with src := 6 }).voiceIn 6 0 = none ∧
    on.kernel.staging = none ∧
    ({ on with kernel := { KernelSt.init with staging := some ⟨64, false, true, [], [(0, 64)], 0, false, false⟩ } } : State).running = true ∧
    (⟨64, false, true, [], [(0, 64)], 0, false, false⟩ : Load).complete = true ∧
    ((loading 0).kernel.pend.find? fun p => p.left.contains 0) = some ⟨[0], [0], [0], none, 0⟩ ∧ 0 ≤ (loading 0).commit ∧
    (loading 0).voicesOn 0 = 0 ∧ (loading 0).running = true ∧ (loading 1000).commit < 1000 ∧ on.physOf 300 = none ∧
    on.physOf 2 = some 2 := by and_intros <;> decide +kernel

/-- A port with fields set and its state changed. -/
def Sys2Proof.Tests.port (l : List (Fld × Nat)) (p : PortSt := .init 7) : State := (ticking l).setPort p

theorem witness_PortFrames : (port []).portIn 7 = false ∧ (port []).get (F.APORT_STATUS_STATE 7) = 0 ∧
    (port [(F.APORT_CTRL_DIR 7, 1)]).portIn 7 = true ∧ (port [(F.APORT_STATUS_STATE 7, 4)]).get (F.APORT_STATUS_STATE 7) = 4 ∧
    (port [(F.APORT_STATUS_STATE 7, 2)]).get (F.APORT_STATUS_STATE 7) = 2 ∧
    (port [(F.APORT_STATUS_STATE 7, 1)]).get (F.APORT_STATUS_STATE 7) = 1 ∧
    ({ PortSt.init 7 with stopAt := some 6400 } : PortSt).stopping 6400 = true ∧ (PortSt.init 7).stopping 6400 = false ∧
    kget ({ PortSt.init 7 with tags := [(0, 6400)] } : PortSt).tags 0 = some 6400 ∧
    kget ({ PortSt.init 7 with tags := [(0, 6401)] } : PortSt).tags 0 = some 6401 ∧
    kget ({ PortSt.init 7 with tags := [(0, 6399)] } : PortSt).tags 0 = some 6399 ∧
    (PortSt.init 7).rejoin = none ∧ (PortSt.init 7).oldLen = none ∧ (PortSt.init 7).lastTag = none ∧
    (kget ((port [(F.APORT_CTRL_DIR 7, 1)] { PortSt.init 7 with tags := [(0, 1)] }).port 7).tags 0).isSome = true ∧
    (port [(F.APORT_LENGTH_LENGTH 7, 2)]).get (F.APORT_WR_WR 7) + 1 < (port [(F.APORT_LENGTH_LENGTH 7, 2)]).get (F.APORT_LENGTH_LENGTH 7) ∧
    (port [(F.APORT_LENGTH_LENGTH 7, 1)]).get (F.APORT_LENGTH_LENGTH 7) ≤ (port [(F.APORT_LENGTH_LENGTH 7, 1)]).get (F.APORT_WR_WR 7) + 1 ∧
    (port []).flag (F.APORT_STATUS_LEN_PEND 7) = false := by and_intros <;> decide

theorem witness_PortClocksAndRate : (port [(F.APORT_STATUS_STATE 7, 1), (F.APORT_CTRL_MASTER 7, 1)]).portMaster 7 = true ∧
    (port []).portMaster 7 = false ∧ (port []).portLeader 7 = 7 ∧ (PortSt.init 7).startAt ≤ 6400 ∧
    (port [(F.APORT_STATUS_STATE 7, 3)] { PortSt.init 7 with stopAt := some 6400 }).get (F.APORT_STATUS_STATE 7) ≠ 0 ∧
    (PortSt.init 7).postLeft = 0 ∧ 4 ≤ ((port [] { PortSt.init 7 with goodFrames := 4 }).port 7).goodFrames ∧
    (port [(F.APORT_STATUS_STATE 7, 3)]).get (F.APORT_STATUS_STATE 7) ≤ 3 ∧ (PortSt.init 7).measured = false ∧
    ({ PortSt.init 7 with measured := true } : PortSt).measured = true := by and_intros <;> decide

/-- Channel 63 with fields set and its state changed. -/
def Sys2Proof.Tests.channel (l : List (Fld × Nat)) (c : AnaSt := .init 63) : State := (ticking l).setChan c

theorem witness_AnalogueUpdates : (channel []).get (F.ANA_STATUS_STATE 63) = 0 ∧
    5 ≤ (channel [(F.ANA_STATUS_STATE 63, 5)]).get (F.ANA_STATUS_STATE 63) ∧
    (channel [(F.ANA_STATUS_STATE 63, 1)]).get (F.ANA_STATUS_STATE 63) = 1 ∧
    (channel [(F.ANA_STATUS_STATE 63, 4)]).get (F.ANA_STATUS_STATE 63) = 4 ∧ (AnaSt.init 63).muting = none ∧
    ({ AnaSt.init 63 with muting := some .stay } : AnaSt).muting ≠ none ∧ (AnaSt.init 63).fastMute = false ∧
    (channel []).get (F.ANA_SLEW_SLEW_STEP 63) = 0 ∧
    (channel [(F.ANA_SLEW_SLEW_STEP 63, 1024)]).get (F.ANA_SLEW_SLEW_STEP 63) ≤
      1024 * ((channel [(F.ANA_SLEW_SLEW_STEP 63, 1024)]).get (F.ANA_SLEW_SLEW_DIV 63) + 1) ∧
    (channel [(F.ANA_STATUS_STATE 63, 3)]).get (F.ANA_STATUS_STATE 63) = 3 ∧ (AnaSt.init 63).waits = false ∧
    ({ AnaSt.init 63 with waits := true } : AnaSt).waits = true ∧
    (channel [(F.ANA_CTRL_MODE 63, 1)]).get (F.ANA_CTRL_MODE 63) = 1 ∧
    ({ AnaSt.init 63 with queue := [7] } : AnaSt).queue.head? = some 7 ∧ (AnaSt.init 63).queue = [] ∧ (AnaSt.init 63).emptyRun = 0 ∧
    4 ≤ ({ AnaSt.init 63 with emptyRun := 4 } : AnaSt).emptyRun ∧ (AnaSt.init 63).settle = 0 ∧ (AnaSt.init 63).code = 0 ∧
    0 < (channel [(F.ANA_SLEW_SLEW_STEP 63, 1), (F.ANA_SLEW_SLEW_DIV 63, 1)]).get (F.ANA_SLEW_SLEW_DIV 63) := by and_intros <;> decide

theorem witness_AnalogueChecks : 64 ≤ ((channel [(F.ANA_STATUS_STATE 63, 3)] { AnaSt.init 63 with outRun := 64 }).chan 63).outRun ∧
    (channel [(F.ANA_STATUS_STATE 63, 3)]).flag (F.ANA_STATUS_COMPL_NOW 63) = false ∧
    (channel [(F.ANA_STATUS_COMPL_NOW 63, 1)]).flag (F.ANA_STATUS_COMPL_NOW 63) = true ∧
    (channel [(F.ANA_STATUS_STATE 63, 2)]).get (F.ANA_STATUS_STATE 63) = 2 ∧
    (channel [(F.ANA_CTRL_LOADCHK_EN 63, 1)]).flag (F.ANA_CTRL_LOADCHK_EN 63) = true ∧
    (channel [(F.ANA_CTRL_LOADCHK_EN 63, 0)]).flag (F.ANA_CTRL_LOADCHK_EN 63) = false ∧ on.anaTrim = none ∧
    ({ channel [] with anaTrim := some ⟨[63], [], [], 0⟩ } : State).anaTrim = some ⟨[63], [], [], 0⟩ ∧
    (∃ e ∈ ([128] : List Int), e < -128 ∨ 127 < e) ∧ ¬ ∃ e ∈ ([127, -128] : List Int), e < -128 ∨ 127 < e := by
  and_intros <;> decide

/-- A zone whose pilot is checked, with fields set and the supervision state changed. -/
def Sys2Proof.Tests.watched (l : List (Fld × Nat)) (u : SupvSt := .init) : State :=
  { ticking ([(F.SUPV_CTRL_PILOT_CHK, 1), (F.ZONE_CTRL_EN 3, 1), (F.ZONE_CTRL_PILOT_EN 3, 1), (F.SUPV_CTRL_AVU_EN, 1)] ++ l)
      (fun t => { t with mt := 64000 }) with
    supv := u, zones := [{ Zone.init 3 with pilotOn := .unity }], mix := { MixSt.init with aux := [(0, [0x50000000])] },
    groups := [{ Group.init 2 with members := 8 }] }

theorem witness_SupervisionAndDewTest : State.reset.running = false ∧ on.windowCounts 3 .internal = false ∧
    3 < (watched []).variant.zones ∧ (watched []).running = true ∧ (watched []).windowCounts 3 .internal = true ∧
    (watched []).pilotFloor 3 .internal ≤ 0 ∧ ((watched []).pilotRun 3 .internal).fault = false ∧
    ((watched [] { SupvSt.init with pilots := [⟨3, .internal, 3, 0, false, 0⟩] }).pilotRun 3 .internal).missing = 3 ∧
    ((watched [] { SupvSt.init with pilots := [⟨3, .internal, 0, 7, true, 0⟩] }).pilotRun 3 .internal).present = 7 ∧
    511 < (watched []).variant.paths ∧
    (watched [] { SupvSt.init with paths := [{ Path.init 511 with en := true, zone := 3 }] }).avuRuns
      { Path.init 511 with en := true, zone := 3 } = true ∧ (watched []).avuRuns (Path.init 511) = false ∧
    ({ SupvSt.init with baselining := true } : SupvSt).baselining = true ∧
    (watched [(F.SUPV_DEW_CTRL_EN, 1)]).flag F.SUPV_DEW_CTRL_EN = true ∧
    (watched [(F.SUPV_DEW_CTRL_EN, 1)]).flag F.SUPV_STATUS_DEW_ACTIVE = false ∧
    (watched []).rd64 R.SUPV_DEW_NEXT_LO R.SUPV_DEW_NEXT_HI ≤ (watched []).time.mt ∧ (watched []).power = .run ∧
    3 ∈ (watched [] { SupvSt.init with dewGroups := 4 }).dewZones false ∧
    (watched [(F.SUPV_STATUS_DEW_ACTIVE, 1)] { SupvSt.init with dew := [{ DewZone.init 3 with selected := true }] }).flag
      F.SUPV_STATUS_DEW_ACTIVE = true ∧
    ((watched [] { SupvSt.init with dew := [{ DewZone.init 3 with selected := true }] }).dewZone 3).selected = true ∧
    (DewZone.init 3).held = false ∧ (DewZone.init 3).step < 6 ∧ ({ DewZone.init 3 with step := 6 } : DewZone).step = 6 := by
  and_intros <;> decide

/-- The weathering monitor enabled, with fields set and its state changed. -/
def Sys2Proof.Tests.aging (l : List (Fld × Nat)) (a : AgeSt := .init) : State :=
  { ticking ((F.AGE_CTRL_EN, 1) :: l) with age := a }

theorem witness_AgeingAndNorRegions : State.reset.running = false ∧ (aging []).running = true ∧ (aging []).flag F.AGE_CTRL_EN = true ∧
    (tst [(F.AGE_CTRL_EN, 0)]).flag F.AGE_CTRL_EN = false ∧ (aging []).ageOn = true ∧
    (tst [(F.AGE_CTRL_EN, 0)]).ageOn = false ∧ 31 ∉ (aging []).age.repairDue ∧
    31 ∈ (aging [] { AgeSt.init with repairDue := [31] }).age.repairDue ∧ (aging []).get (F.SLAB_REPAIR_COL_B 31) = 0xFF ∧
    (aging []).age.avsBusy = false ∧ (aging [] { AgeSt.init with avsBusy := true }).age.avsBusy = true ∧
    (aging []).get F.AGE_STATUS_PLAN_STATE ≠ 4 ∧ (aging [(F.AGE_STATUS_PLAN_STATE, 4)]).get F.AGE_STATUS_PLAN_STATE = 4 ∧
    (aging []).get F.AGE_PLAN_ECLK_STEPS < 4 ∧ (aging []).age.closing = none ∧
    (aging [] { AgeSt.init with closing := some 100 }).age.closing = some 100 ∧
    ({ aging [] with nor := { NorSt.init with writing := some (3, norCopyBlank) } } : State).nor.writing = some (3, norCopyBlank) ∧
    ({ aging [] with nor := { NorSt.init with erasing := true } } : State).nor.erasing = true ∧
    ({ aging [] with safe := { SafeSt.init with update := some (0, ⟨64, false, true, [], [(0, 64)], 0, false, false⟩) } } : State).safe.update =
      some (0, ⟨64, false, true, [], [(0, 64)], 0, false, false⟩) ∧
    (⟨64, false, true, [], [(0, 64)], 0, false, false⟩ : Load).complete = true := by and_intros <;> decide

/-- A cascade's course with fields set and the course state changed. -/
def Sys2Proof.Tests.ring (l : List (Fld × Nat)) (c : CourseSt := .init) : State :=
  { ticking ((F.CRSE_CTRL_CASCADE_EN, 1) :: l) with course := c }

theorem witness_CourseLink : on.cascade = false ∧ (ring []).cascade = true ∧ (ring []).running = true ∧ (ring []).origin = 0 ∧
    (ring [(F.CRSE_PORT_STAT_STATE 1, 2)]).get (F.CRSE_PORT_STAT_STATE 1) ≠ 0 ∧ (ring []).get (F.CRSE_PORT_STAT_STATE 1) = 0 ∧
    (ring []).get (F.CRSE_PORT_STAT_STATE 0) ≠ 2 ∧ (7 + 8 * b2n true ≠ (ring []).origin) ∧ (15, 5) ∉ (ring []).course.seen ∧
    (15, 5) ∈ ({ CourseSt.init with seen := [(15, 5)] } : CourseSt).seen ∧ (ring []).peer? 15 = none ∧
    (ring [] { CourseSt.init with peers := [⟨15, 0, some 1, none, true, false, 0, 0, 0, 0⟩] }).peer? 15 =
      some ⟨15, 0, some 1, none, true, false, 0, 0, 0, 0⟩ ∧
    (ring [(F.CRSE_STATUS_IS_KEYSTONE, 1)]).flag F.CRSE_STATUS_IS_KEYSTONE = true ∧
    (ring [(F.CRSE_STATUS_IS_KEYSTONE, 0)]).flag F.CRSE_STATUS_IS_KEYSTONE = false ∧
    (ring [(F.CRSE_CTRL_TWIN_EN, 1)] { CourseSt.init with active := false }).standby = true ∧ (ring []).standby = false ∧
    (ring [(F.CRSE_TWIN_STATE, 4)]).get F.CRSE_TWIN_STATE = 4 ∧ (ring []).get F.CRSE_TWIN_STATE ≠ 4 ∧ (ring []).power ≠ .fault := by
  and_intros <;> decide

theorem witness_StreamPort : on.get F.STRM_STATUS_STATE ≠ 1 ∧ (ticking [(F.STRM_STATUS_STATE, 1)]).get F.STRM_STATUS_STATE = 1 ∧
    on.strmUp = false ∧ (ticking [(F.STRM_STATUS_STATE, 2)]).strmUp = true ∧ (ticking [(F.STRM_STATUS_STATE, 3)]).strmUp = true ∧
    ((ticking [(F.STRM_STATUS_LANES, 255)]).get F.STRM_STATUS_LANES).testBit 7 = true ∧
    (ticking [(F.STRM_CTRL_AUTO_RETRAIN, 1)]).flag F.STRM_CTRL_AUTO_RETRAIN = true ∧
    (ticking [(F.STRM_CTRL_AUTO_RETRAIN, 0)]).flag F.STRM_CTRL_AUTO_RETRAIN = false ∧
    (ticking []).commit < (ticking []).commit + 16 ∧ 0 < min ((ticking [(F.STRM_MAP_N_OUT, 4), (F.STRM_STATUS_STATE, 2),
      (F.STRM_STATUS_LANES, 255)]).get F.STRM_MAP_N_OUT) (ticking [(F.STRM_STATUS_STATE, 2), (F.STRM_STATUS_LANES, 255)]).strmLimit ∧
    (ticking []).stream.vc2Open = false ∧
    ({ StreamSt.init with vc2Open := true } : StreamSt).vc2Open = true := by and_intros <;> decide +kernel

theorem witness_SafetyAndStrikes : (ticking [(F.SAFE_MECH_CFG_ESCALATE 23, 1)]).flag (F.SAFE_MECH_CFG_ESCALATE 23) = true ∧
    (ticking [(F.SAFE_MECH_CFG_ESCALATE 23, 0)]).flag (F.SAFE_MECH_CFG_ESCALATE 23) = false ∧
    (4, 0) ∉ (ticking []).safe.thisSecond ∧ (4, 0) ∈ ({ SafeSt.init with thisSecond := [(4, 0)] } : SafeSt).thisSecond ∧
    ({ on with power := .lull } : State).power = .lull ∧ State.reset.power = .reset ∧ on.power = .run ∧
    ({ on with power := .fault } : State).power = .fault ∧ (ticking []).safe.buffer = [] ∧
    ({ SafeSt.init with buffer := [[0]] } : SafeSt).buffer = [] ++ [[0]] ∧ (∃ k, k < 4096 ∧ k ∉ SafeSt.init.prot) ∧
    (!(ticking []).flag (F.SAFE_MECH_STAT_LATCHED 0) && !(ticking []).flag (F.SAFE_MECH_STAT_LATCHED 1) &&
      !((ticking []).get F.SAFE_CLKMON_FAILED).testBit 1) = true ∧
    17 ∈ ({ SafeSt.init with injectHold := [17] } : SafeSt).injectHold ∧ (ticking []).conditionHolds 17 = false ∧
    State.reset.running = false ∧ (ticking []).running = true ∧
    ((ticking [(F.STRK_CTRL_EN, 1)]).get F.STRK_CTRL_EN).testBit 0 = true ∧ (ticking []).cascade = false ∧
    ((ring [(F.STRK_CTRL_EN, 17)]).get F.STRK_CTRL_EN).testBit 4 = true ∧
    (({ StrikeSt.init with pend := [⟨7, 1, 1, 0, 1, false, false⟩] } : StrikeSt).pend.find? fun q => q.mt = 7) =
      some ⟨7, 1, 1, 0, 1, false, false⟩ ∧ StrikeSt.init.pend = [] ∧ (∀ k ∈ StrikeSt.init.held, k.complete = true) ∧
    (([⟨1, 0, 7, 0, 1, false, false, false, false, 0, 0, [], [], [], [], []⟩] : List Strike).reverse.find? fun k => !k.complete).isSome =
      true := by
  and_intros <;> first | exact ⟨0, by decide⟩ | decide +kernel

/-! Single steps whose results the specification's words give. -/

/-- The state that a command leaves passes a check. -/
def Sys2Proof.Tests.gives (c : Instr) (s : State) (p : State → Bool) : Bool :=
  match exec c s with
  | .next t => p t
  | _ => false

/-- The digits 1 to 9, by whose check codes the specification fixes its three polynomials (R118, R265, R273). -/
def Sys2Proof.Tests.digits : List Byte := [0x31, 0x32, 0x33, 0x34, 0x35, 0x36, 0x37, 0x38, 0x39]

theorem test_crc8 : crc8 digits = 0x20 := by decide +kernel
theorem test_crc16 : crc16 digits = 0x29B1 := by decide +kernel
theorem test_crc32 : crc32 digits = 0xCBF43926 := by decide +kernel

/-- W0 at the top of its range: MAD saturates it and sets SAT and HEAD (R235–R237). -/
theorem test_mad_saturates : gives (.mad 0 0 0 false noMove noMove)
    (calling fun d => { d with w := d.w.set 0 (2 ^ 55 - 1), o := (d.o.set 0 1).set 4 1 })
    (fun t => t.dp.wReg 0 = 2 ^ 55 - 1 ∧ t.dp.flags = 5 ∧ t.dp.cycles = 1) = true := by decide +kernel

/-- −2^23 by itself is 2^46, outside the range that HEAD watches (R237). -/
theorem test_mul_head : gives (.mul 1 0 0 false noMove noMove) (calling fun d => { d with o := List.replicate 8 0x800000 })
    (fun t => t.dp.wReg 1 = 2 ^ 46 ∧ t.dp.flags = 4) = true := by decide +kernel

/-- PITCH above 2.0 is limited to it and sets PITCH_CLAMP (R99). -/
theorem test_pitch_limited : gives (.pitch 5 8193) (playing (voice seq))
    (fun t => (t.voice? 5).any fun v => v.seq.cur.pitch = 8192 ∧ v.flags = 1) = true := by decide +kernel

/-- A write of 1 clears that write-one-to-clear flag and leaves its neighbour (R9). -/
theorem test_w1c : gives (.registerWrite R.TIME_FLAGS 1) (tst [(F.TIME_FLAGS_LOST, 1), (F.TIME_FLAGS_STEP, 1)])
    (fun t => t.flag F.TIME_FLAGS_LOST = false ∧ t.flag F.TIME_FLAGS_STEP = true) = true := by decide +kernel

/-- ANA commands answer UNSUPPORTED on the LMZ2048E (R5). -/
theorem test_unsupported : gives (.anaGetStatus cmd) { on with variant := .lmz2048e }
    (fun t => t.host.response.any fun r => r.status = St.unsupported) = true := by decide +kernel

/-- A timer at PERIOD returns to 0 at its next counted clock (R450). -/
theorem test_timer_wraps : gives (.timerClock 2) (timer2 [(F.TIM_COUNT_COUNT 2, 7)])
    (fun t => t.get (F.TIM_COUNT_COUNT 2) = 0) = true := by decide +kernel
end

/-! SUPPORT and CERTIFICATES. What the spec's scope rules say of registers and commands: the state after reset, registers and
commands of absent units, reads and writes of the register window. -/

section
namespace Sys2Proof.Machine

/-! Absent units (R2, R4). -/

/-- Only bricks, zones, analogue channels, the course link and the TIME references lie in windows that a variant may lack. -/
theorem window_of_absent {v : Variant} {a : Nat} (h : regPresent v a = false) :
    (0x20000 ≤ a ∧ a < 0x30000) ∨ (0x34000 ≤ a ∧ a < 0x40000) ∨ (0x45000 ≤ a ∧ a < 0x46000) ∨
      (0x4b000 ≤ a ∧ a < 0x4c000) ∨ (0x11100 ≤ a ∧ a < 0x11120) := by
  by_contra hw
  simp only [not_or] at hw
  obtain ⟨h1, h2, h3, h4, h5⟩ := hw
  simp [regPresent, h1, h2, h3, h4, h5] at h

/-- The registers with a high word to latch, by their addresses (R534). -/
theorem latching_iff {a : Nat} : latching a = true ↔
    a = R.TIME_MT_LO ∨ a = R.HOST_MT_LO ∨ a = R.SAFE_LAST_MT_LO ∨ a = R.MIX_LAST_APPLY_LO ∨ a = R.SUPV_DEW_NEXT_LO ∨
      (∃ n < 8, a = R.APORT_MT_LO n) ∨ ∃ n < 4, a = R.STRK_HELD_MT_LO n := by
  simp [latching, or_assoc]

/-- Every variant has the latching registers and the words behind them. -/
theorem regPresent_behind_latching {v : Variant} {a : Nat} (h : latching a = true) : regPresent v (a + 4) = true := by
  by_contra hp
  have hw := window_of_absent (Bool.eq_false_of_not_eq_true hp)
  simp only [latching_iff, R.TIME_MT_LO, R.HOST_MT_LO, R.SAFE_LAST_MT_LO, R.MIX_LAST_APPLY_LO, R.SUPV_DEW_NEXT_LO,
    R.APORT_MT_LO, R.STRK_HELD_MT_LO] at h
  omega

theorem State.view_of_absent {s : State} {a : Nat} (h : regPresent s.variant a = false) : s.view a = 0 := by
  simp [State.view, h]

theorem State.regWrite_of_absent {s : State} {a : Nat} (v : W32) (h : regPresent s.variant a = false) : s.regWrite a v = s := by
  simp [State.regWrite, h]

/-- A read of a register that does not latch, or that the variant lacks, leaves the state. -/
theorem State.latch_eq_self {s : State} {a : Nat} (p : ReadPath) (h : ¬ (latching a = true ∧ regPresent s.variant a = true)) :
    s.latch p a = s := if_pos (not_and_or.1 h)

/-- A register that is not behind a latching one reads as its view, on both paths. -/
theorem State.readWord_eq_view {s : State} {p : ReadPath} {a : Nat} (h : a < 4 ∨ latching (a - 4) = false) :
    s.readWord p a = s.view a := by
  refine if_neg fun ⟨ha, hl⟩ => ?_
  rcases h with h | h
  · omega
  · simp [h] at hl

/-- A register behind a latching one reads as its path's latch. -/
theorem State.readWord_eq_latchOf {s : State} {p : ReadPath} {a : Nat} (ha : 4 ≤ a) (hl : latching (a - 4) = true) :
    s.readWord p a = s.latchOf p (a - 4) := if_pos ⟨ha, hl⟩

theorem State.readWord_of_absent {s : State} {a : Nat} (p : ReadPath) (h : regPresent s.variant a = false) :
    s.readWord p a = 0 := by
  have hl : a < 4 ∨ latching (a - 4) = false := by
    by_contra hc
    obtain ⟨ha, hl⟩ := not_or.1 hc
    have hp := regPresent_behind_latching (v := s.variant) (Bool.eq_true_of_not_eq_false hl)
    rw [Nat.sub_add_cancel (Nat.not_lt.1 ha), h] at hp
    cases hp
  rw [State.readWord_eq_view hl, State.view_of_absent h]

/-! Writes (R9, R10). -/

/-- A register whose write has a row of its own is not written by REGISTER_WRITE. -/
theorem exec_registerWrite_ownRow (s : State) {a : Nat} (v : W32) (h : ownRow a = true) :
    exec (.registerWrite a v) s = .next s := by
  change execRegisterWrite a v s = _
  rw [execRegisterWrite, if_pos h]

/-- The word that a write of `v` delivers to a register: TIME_EPOCH_CTRL.ARM, which has a row of its own, as 0. -/
def deliveredWord (a : Nat) (v : W32) : W32 := if a = R.TIME_EPOCH_CTRL then setBits v 31 1 0 else v

theorem deliveredWord_getLsbD (a : Nat) (v : W32) {i : Nat} (hi : i < 32) :
    (deliveredWord a v).getLsbD i = (v.getLsbD i && !(decide (a = R.TIME_EPOCH_CTRL) && decide (i = 31))) := by
  by_cases ha : a = R.TIME_EPOCH_CTRL
  · rw [deliveredWord, if_pos ha, setBits_getLsbD _ _ _ _ _ hi]
    by_cases h31 : i = 31
    · simp [ha, h31]
    · rw [if_neg (by omega)]
      simp [h31]
  · simp [deliveredWord, ha]

/-- REGISTER_WRITE above the host block is the access of R9 to the delivered word. -/
theorem exec_registerWrite_window (s : State) {a : Nat} (v : W32) (ha : 0x10000 ≤ a) (ho : ownRow a = false) :
    exec (.registerWrite a v) s = .next (s.regWrite a (deliveredWord a v)) := by
  change execRegisterWrite a v s = _
  rw [execRegisterWrite, if_neg (by simp [ho]), if_neg (Nat.not_lt.2 ha), deliveredWord]
  split <;> rfl

/-- A word of a register after a write of `v`, by the bits that each access code covers (R9). -/
def accessedWord (old v open_ w1c w1s : W32) : W32 :=
  (((old &&& ~~~ open_) ||| (v &&& open_)) &&& ~~~ (v &&& w1c)) ||| (v &&& w1s)

theorem accessedWord_getLsbD (old v open_ w1c w1s : W32) {i : Nat} (hi : i < 32) :
    (accessedWord old v open_ w1c w1s).getLsbD i =
      (if v.getLsbD i = true ∧ w1s.getLsbD i = true then true
      else if v.getLsbD i = true ∧ w1c.getLsbD i = true then false
      else if open_.getLsbD i = true then v.getLsbD i else old.getLsbD i) := by
  simp only [accessedWord, BitVec.getLsbD_or, BitVec.getLsbD_and, BitVec.getLsbD_not, hi, decide_true, Bool.true_and]
  cases v.getLsbD i <;> cases w1s.getLsbD i <;> cases w1c.getLsbD i <;> cases open_.getLsbD i <;> simp

theorem State.regWrite_of_no_row {s : State} {a : Nat} (v : W32) (h : regRow a = none) : s.regWrite a v = s := by
  unfold State.regWrite
  split
  · rfl
  · rw [h]

/-- REGISTER_WRITE of a register that no access of R9 changes. -/
theorem exec_registerWrite_unchanged (s : State) {a : Nat} (v : W32) (ha : 0x10000 ≤ a) (h : ∀ w, s.regWrite a w = s) :
    exec (.registerWrite a v) s = .next s := by
  cases ho : ownRow a with
  | true => exact exec_registerWrite_ownRow s v ho
  | false => rw [exec_registerWrite_window s v ha ho, h]

/-- What a write stores in a register that the variant has. -/
theorem State.regWrite_eq {s : State} {a : Nat} (v : W32) {r : RegRow} {n m : Nat} (hp : regPresent s.variant a = true)
    (hr : regRow a = some (r, n, m)) :
    s.regWrite a v = s.wr a (accessedWord (s.rd a) v (w32 (rwAt a r n + if s.rwlOpen a then r.rwl else 0)) (w32 r.w1c) (w32 r.w1s)) := by
  unfold State.regWrite
  rw [if_neg (by simp [hp]), hr]
  rfl

/-! Latching reads (R534). -/

theorem exec_mtLoRead (s : State) (p : ReadPath) (a : Nat) : exec (.mtLoRead p a) s = .next (s.latch p a) := rfl

/-- No register shows a latch. -/
theorem State.view_congr_latches (s : State) (l l' : List (Nat × W32)) (a : Nat) :
    State.view { s with latchSpi := l, latchMclk := l' } a = s.view a := rfl

/-- A latching read changes nothing but the latches. -/
theorem State.latch_eq (s : State) (p : ReadPath) (a : Nat) :
    s.latch p a = { s with latchSpi := (s.latch p a).latchSpi, latchMclk := (s.latch p a).latchMclk } := by
  unfold State.latch
  split
  · rfl
  · cases p <;> rfl

@[simp] theorem State.latch_view (s : State) (p : ReadPath) (a b : Nat) : (s.latch p a).view b = s.view b := by
  rw [State.latch_eq]
  exact s.view_congr_latches _ _ b

@[simp] theorem State.latch_highOf (s : State) (p : ReadPath) (a b : Nat) : (s.latch p a).highOf b = s.highOf b := by
  rw [State.latch_eq]
  rfl

@[simp] theorem State.latch_variant (s : State) (p : ReadPath) (a : Nat) : (s.latch p a).variant = s.variant := by
  rw [State.latch_eq]

/-- The latches after a latching read: that of its path and register holds the high word, every other stays. -/
theorem State.latch_latchOf (s : State) (p q : ReadPath) (a b : Nat) :
    (s.latch p a).latchOf q b =
      if (q = p ∧ b = a) ∧ latching a = true ∧ regPresent s.variant a = true then s.highOf a else s.latchOf q b := by
  unfold State.latch
  split
  · next h => rw [if_neg fun ⟨_, hl, hp⟩ => by simp [hl, hp] at h]
  · next h =>
    have hlp : latching a = true ∧ regPresent s.variant a = true := by simpa using h
    have hput := fun l => getD_storePut (fun _ => (0#32 : W32)) l a b (s.highOf a)
    cases p <;> cases q <;> simp [State.latchOf, hlp, hput]

/-- The word read after a latching read. -/
theorem State.latch_readWord (s : State) (p q : ReadPath) (a b : Nat) :
    (s.latch p a).readWord q b =
      if (q = p ∧ b = a + 4) ∧ latching a = true ∧ regPresent s.variant a = true then s.highOf a else s.readWord q b := by
  by_cases hb : 4 ≤ b ∧ latching (b - 4) = true
  · obtain ⟨h4, hl⟩ := hb
    have he : b - 4 = a ↔ b = a + 4 := by omega
    simp only [State.readWord_eq_latchOf h4 hl, State.latch_latchOf, he]
  · have hv : b < 4 ∨ latching (b - 4) = false := by
      rw [← Nat.not_le, ← Bool.not_eq_true]
      exact not_and_or.1 hb
    rw [State.readWord_eq_view hv, State.readWord_eq_view hv, State.latch_view, if_neg]
    rintro ⟨⟨-, rfl⟩, hl, -⟩
    exact hb ⟨by omega, hl⟩

/-! Runs of reads on the host SPI (R268, R534). -/

/-- A run of reads changes nothing but the host path's latches. -/
theorem State.readWords_state (s : State) (a n : Nat) : ∃ l, (s.readWords a n).2 = { s with latchSpi := l } := by
  induction n generalizing s a with
  | zero => exact ⟨_, rfl⟩
  | succ n ih =>
    have hl : ∃ l, s.latch .spi a = { s with latchSpi := l } := by
      unfold State.latch
      split <;> exact ⟨_, rfl⟩
    obtain ⟨l, hl⟩ := hl
    obtain ⟨l', hl'⟩ := ih (s.latch .spi a) ((a + 4) % 2 ^ 24)
    rw [hl] at hl'
    exact ⟨l', (congrArg (fun t : State => (t.readWords _ n).2) hl).trans hl'⟩

theorem State.readWords_length (s : State) (a n : Nat) : (s.readWords a n).1.length = n := by
  induction n generalizing s a with
  | zero => rfl
  | succ n ih => exact congrArg (· + 1) (ih _ _)

/-- The word that a run of reads returns for the address `b` in its place `i`: a register behind a latching one, unless it is the
first of the run, shows what the read before it latched. -/
def State.runWord (s : State) (i b : Nat) : W32 :=
  if i ≠ 0 ∧ 4 ≤ b ∧ latching (b - 4) = true ∧ regPresent s.variant (b - 4) = true then s.highOf (b - 4)
  else s.readWord .spi b

/-- What stands at place `i + 1` of a run is what stands at place `i` of the run that begins one read later. -/
theorem State.runWord_latch (s : State) {a b i : Nat} (ha : a < 2 ^ 24) (hb : b = (a + 4 * (i + 1)) % 2 ^ 24) :
    (s.latch .spi a).runWord i b = s.runWord (i + 1) b := by
  unfold State.runWord
  rw [State.latch_highOf, State.latch_variant, State.latch_readWord]
  by_cases hc : 4 ≤ b ∧ latching (b - 4) = true ∧ regPresent s.variant (b - 4) = true
  · rw [if_pos (c := i + 1 ≠ 0 ∧ _) ⟨Nat.succ_ne_zero i, hc⟩]
    by_cases hi : i = 0
    · have hab : b - 4 = a ∧ b = a + 4 := by omega
      obtain ⟨h4, hl, hp⟩ := hc
      rw [hab.1] at hl hp ⊢
      rw [if_neg (by simp [hi]), if_pos ⟨⟨rfl, hab.2⟩, hl, hp⟩]
    · rw [if_pos ⟨hi, hc⟩]
  · rw [if_neg fun h => hc h.2, if_neg (c := i + 1 ≠ 0 ∧ _) fun h => hc h.2, if_neg]
    rintro ⟨⟨-, rfl⟩, hl, hp⟩
    exact hc ⟨by omega, hl, hp⟩

theorem State.readWords_getElem (s : State) {a n i : Nat} (ha : a < 2 ^ 24) (hi : i < (s.readWords a n).1.length) :
    (s.readWords a n).1[i] = s.runWord i ((a + 4 * i) % 2 ^ 24) := by
  induction n generalizing s a i with
  | zero => exact absurd hi (Nat.not_lt_zero i)
  | succ n ih =>
    cases i with
    | zero =>
      have hw : (s.latch .spi a).readWord .spi a = s.readWord .spi a := by
        rw [State.latch_readWord, if_neg (by omega)]
      have hm : (a + 4 * 0) % 2 ^ 24 = a := Nat.mod_eq_of_lt ha
      rw [hm, State.runWord, if_neg (by simp)]
      exact hw
    | succ i =>
      have hb : ((a + 4) % 2 ^ 24 + 4 * i) % 2 ^ 24 = (a + 4 * (i + 1)) % 2 ^ 24 := by omega
      rw [← State.runWord_latch s ha rfl, ← hb]
      exact ih (s.latch .spi a) (Nat.mod_lt _ (by decide)) (Nat.lt_of_succ_lt_succ hi)

/-- A register behind a latching one, in a run: the high word of the read before it, or the latch as it stood before the run. -/
theorem State.runWord_behind_latching {s : State} {i b : Nat} (h4 : 4 ≤ b) (hl : latching (b - 4) = true) :
    s.runWord i b =
      if i ≠ 0 ∧ regPresent s.variant (b - 4) = true then s.highOf (b - 4) else s.latchOf .spi (b - 4) := by
  simp only [State.runWord, h4, hl, true_and, State.readWord_eq_latchOf h4 hl]

/-- Every other register, in a run. -/
theorem State.runWord_eq_view {s : State} {i b : Nat} (h : b < 4 ∨ latching (b - 4) = false) : s.runWord i b = s.view b := by
  rw [State.runWord, if_neg, State.readWord_eq_view h]
  rintro ⟨-, h4, hl, -⟩
  rcases h with h | h
  · omega
  · simp [hl] at h

/-- The status byte of a transaction does not show in what a run of reads returns. -/
theorem State.shiftStatus_runWord (s : State) (i b : Nat) : s.shiftStatus.runWord i b = s.runWord i b := rfl

/-- SPI_READ_TRANSACTION before READY: zeros, and no latch moves (R265, R269). -/
theorem exec_spiReadTransaction_not_ready (s : State) (addr : BitVec 24) (n : Nat) (h : s.ready = false) :
    exec (.spiReadTransaction addr n) s = .next { s with host := { s.host with
      readWords := List.replicate n 0, readCrc := crc8 ([0x0B, addr.extractLsb' 16 8, addr.extractLsb' 8 8,
        addr.extractLsb' 0 8] ++ wordsWire (List.replicate n 0)), statusByte := s.spiStatus } } := by
  change execSpiReadTransaction addr n s = _
  have hs : s.shiftStatus.ready = false := h
  rw [execSpiReadTransaction, hs]
  rfl

/-- SPI_READ_TRANSACTION from READY on: the words of a run of reads from the aligned address (R265, R268). -/
theorem exec_spiReadTransaction_ready (s : State) (addr : BitVec 24) (n : Nat) (h : s.ready = true) (ws : List W32)
    (hws : ws = (s.shiftStatus.readWords (addr.toNat / 4 * 4) n).1) :
    ∃ l, exec (.spiReadTransaction addr n) s = .next { s with
      latchSpi := l
      host := { s.host with
        readWords := ws
        readCrc := crc8 ([0x0B, addr.extractLsb' 16 8, addr.extractLsb' 8 8, addr.extractLsb' 0 8] ++ wordsWire ws)
        statusByte := s.spiStatus } } := by
  obtain ⟨l, hl⟩ := s.shiftStatus.readWords_state (addr.toNat / 4 * 4) n
  have hs : s.shiftStatus.ready = true := h
  refine ⟨l, ?_⟩
  change execSpiReadTransaction addr n s = _
  rw [execSpiReadTransaction, hs, if_pos rfl, hws]
  simp only [hl]
  rfl

/-- RC fields clear on a read by an agent of the MCLK domain; every other bit stays (R9). -/
theorem State.clearRc_getLsbD (s : State) (a i : Nat) :
    ((s.clearRc a).rd a).getLsbD i = ((s.rd a).getLsbD i && !(regRow a).any fun r => (w32 r.1.rc).getLsbD i) := by
  unfold State.clearRc
  cases hr : regRow a with
  | none => simp
  | some x =>
    obtain ⟨r, n, m⟩ := x
    by_cases h0 : r.rc = 0
    · simp [h0, w32]
    · by_cases hi : i < 32
      · simp [h0, State.rd_wr_self, hi]
      · simp [BitVec.getLsbD_of_ge _ _ (Nat.le_of_not_lt hi)]

/-- Clearing RC fields stores one word at most. -/
theorem State.clearRc_frame (s : State) (a : Nat) :
    s.clearRc a = { s with regs := (s.clearRc a).regs } ∧ ∀ b, b ≠ a → (s.clearRc a).rd b = s.rd b := by
  unfold State.clearRc
  split
  · exact ⟨rfl, fun _ _ => rfl⟩
  · split
    · exact ⟨rfl, fun _ _ => rfl⟩
    · exact ⟨rfl, fun b hb => State.rd_wr_ne s _ hb⟩

theorem exec_registerReadClear_of_absent {s : State} {a : Nat} (h : regPresent s.variant a = false) :
    exec (.registerReadClear a) s = .next s := by
  change execRegisterReadClear a s = _
  rw [execRegisterReadClear, if_neg (by simp [h])]

theorem exec_registerReadClear_of_present {s : State} {a : Nat} (h : regPresent s.variant a = true) :
    exec (.registerReadClear a) s = .next (s.clearRc a) := by
  change execRegisterReadClear a s = _
  rw [execRegisterReadClear, if_pos h]

/-! Commands of absent units (R5, R276). -/

/-- A row that is a command of the protocol runs its entry of the catalogue: row by row, by the arms of `exec`. -/
theorem exec_of_commandOf {i : Instr} {c : Cmd} {k : Kcp} (h : commandOf i = some (c, k)) (s : State) :
    exec i s = .next (kcpExec c k s) := by
  cases i <;> cases h <;> rfl

/-- A command that a check refuses, once its CRC and its sequence number have passed (R276). -/
theorem kcpExec_of_check {c : Cmd} {k : Kcp} {s : State} {st : Nat} {p : List W32} (ht : s.taking = true)
    (hcrc : k.crcOk = true) (hcache : (s.countTaken k.chan).cachedAnswer k.chan k.seq c.opcode = none)
    (hdup : (s.countTaken k.chan).isDuplicate k.chan k.seq = false) (hc : c.check k (s.countTaken k.chan) = some (st, p)) :
    kcpExec c k s =
      (c.refused k st (s.countTaken k.chan)).reply c.opcode ⟨k.chan, st, k.seq, false, false, false, 0, p⟩ := by
  rw [kcpExec, if_pos ht, Cmd.take, State.screened]
  simp only [hcrc, hcache, hdup, hc]
  rfl

/-- The absent unit is the first thing checked behind the header (R276 step 5). -/
theorem Cmd.check_of_absent {c : Cmd} {k : Kcp} {s : State} (hh : badHeader k = false) (ha : c.absent k s = true) :
    c.check k s = some (St.unsupported, []) := by
  simp [Cmd.check, hh, ha]

/-- No command leaves anything behind when it is refused as UNSUPPORTED. -/
theorem Cmd.refused_unsupported {i : Instr} {c : Cmd} {k : Kcp} (h : commandOf i = some (c, k)) (s : State) :
    c.refused k St.unsupported s = s := by
  cases i
  case mixSetTaps => cases h; split <;> rfl
  case mixCommitSet =>
    cases h
    simp only [cmdMixCommitSet]
    split <;> rfl
  case sysReset => cases h; split <;> rfl
  all_goals cases h <;> rfl

/-- The LMZ2048E has neither analogue outputs nor a course link: each command of those groups finds its unit absent (R5). -/
theorem Cmd.absent_of_group {i : Instr} {c : Cmd} {k : Kcp} (h : commandOf i = some (c, k)) {s : State}
    (hv : s.variant = .lmz2048e) (hg : c.opcode / 256 = 0x08 ∨ c.opcode / 256 = 0x10) : c.absent k s = true := by
  have hana : noChan k s = true := by simp [noChan, hv, Variant.channels]
  have hcourse : decide (¬ s.variant.hasCourse = true) = true := by simp [hv, Variant.hasCourse]
  cases i
  case anaConfig | anaEnable | anaSetRange | anaTrim | anaGetStatus => cases h; exact hana
  case courseConfig | courseGetStatus | courseSetOffset | courseMapGroup | courseSetTwin => cases h; exact hcourse
  case sysReset | mixSetTaps => cases h; split at hg <;> exact absurd hg (by decide)
  all_goals cases h <;> exact absurd hg (by decide)

/-! The obligations of this family. -/

/-- Settles O4: the fields of State.reset are what R481 and R487 give, and its empty stores read as the reset values. -/
theorem resetState : Obligations.ResetState := by
  have hrd : ∀ a, State.reset.rd a = regReset State.reset.variant a := fun a => by
    rw [State.rd]
    exact congrArg (Option.getD · _) (kget_nil a)
  have hready : State.reset.ready = false := by
    rw [State.ready, State.flag, State.get, hrd]
    rfl
  have hslab : ∀ k, State.reset.slabWord k = 0 := fun k => congrArg (Option.getD · 0) (kget_nil k)
  exact ⟨rfl, rfl, rfl, hrd, hready, rfl, rfl, rfl, rfl, rfl, hslab⟩

/-- Settles O9: the windows of absent units hold no word of the host block and none behind a latching register, so that every
access meets the test of R4. -/
theorem absentUnitRegisters : Obligations.AbsentUnitRegisters := by
  intro s a h
  have ha : 0x10000 ≤ a := by
    have := window_of_absent h
    omega
  refine ⟨fun p => State.readWord_of_absent p h, fun v => ?_, exec_registerReadClear_of_absent h, fun p => ?_⟩
  · exact exec_registerWrite_unchanged s v ha fun w => State.regWrite_of_absent w h
  · rw [exec_mtLoRead, State.latch_eq_self p (by simp [h])]

/-- Settles O10: such a command fails at step 5 of R276, and no entry of the catalogue acts on that refusal. -/
theorem absentUnitCommands : Obligations.AbsentUnitCommands := by
  refine ⟨?_, fun i c k s h hv hg => Cmd.absent_of_group h hv hg⟩
  rintro i c k s n h rfl ht hcrc hcache hdup hh ha
  refine ⟨?_, Cmd.refused_unsupported h _⟩
  rw [exec_of_commandOf h, kcpExec_of_check ht hcrc hcache hdup (Cmd.check_of_absent hh ha)]

/-- Settles O22: a run of reads by the words it returns, a latching read by the latch it sets, a clearing read by the bits it
clears. -/
theorem readsOfRegisters : Obligations.ReadsOfRegisters := by
  refine ⟨fun s addr n => ?_, fun s p a => ?_, fun s a => ?_⟩
  · cases hr : s.ready with
    | false =>
      exact ⟨_, exec_spiReadTransaction_not_ready s addr n hr, List.length_replicate, rfl, rfl, fun _ => ⟨rfl, rfl⟩,
        nofun⟩
    | true =>
      obtain ⟨l, hl⟩ := exec_spiReadTransaction_ready s addr n hr _ rfl
      refine ⟨_, hl, State.readWords_length _ _ _, rfl, rfl, nofun, ?_⟩
      rintro - i hi a rfl
      have ha : addr.toNat / 4 * 4 < 2 ^ 24 := by
        have := addr.isLt
        omega
      have hw := (State.readWords_getElem s.shiftStatus ha hi).trans (s.shiftStatus_runWord _ _)
      exact ⟨fun ⟨h4, hl⟩ => hw.trans (State.runWord_behind_latching h4 hl), fun h => hw.trans (State.runWord_eq_view h)⟩
  · split
    · next h =>
      refine ⟨s.latch p a, exec_mtLoRead s p a, ?_, fun b hb => ?_, fun q b hq => ?_, s.latch_eq p a⟩
      · rw [State.latch_readWord, if_pos ⟨⟨rfl, rfl⟩, h⟩]
      · rw [State.latch_readWord, if_neg fun hc => hb hc.1.2]
      · rw [State.latch_readWord, if_neg fun hc => hq hc.1.1]
    · next h => rw [exec_mtLoRead, State.latch_eq_self p h]
  · cases hp : regPresent s.variant a with
    | false => exact ⟨s, exec_registerReadClear_of_absent hp, rfl, fun _ _ => rfl, fun i => by simp⟩
    | true =>
      obtain ⟨hframe, hrd⟩ := s.clearRc_frame a
      exact ⟨s.clearRc a, exec_registerReadClear_of_present hp, hframe, hrd, fun i => by
        rw [State.clearRc_getLsbD, Bool.true_and]⟩

/-- Settles O23: the bits of the word that R9's access codes store. -/
theorem registerWrites : Obligations.RegisterWrites := by
  refine ⟨fun s a v ho => exec_registerWrite_ownRow s v ho,
    fun s a v ha hr => exec_registerWrite_unchanged s v ha fun w => State.regWrite_of_no_row w hr, ?_⟩
  intro s a v r n m ha ho hp hr
  refine ⟨_, exec_registerWrite_window s v ha ho, ?_⟩
  rw [State.regWrite_eq _ hp hr]
  refine ⟨rfl, fun b hb => State.rd_wr_ne s _ hb, ?_⟩
  rintro i hi b rfl
  rw [State.rd_wr_self, accessedWord_getLsbD _ _ _ _ _ hi, deliveredWord_getLsbD _ _ hi]

end Sys2Proof.Machine
end

/-! SUPPORT and CERTIFICATES. The answer to a command of the protocol: what its response writes on each channel, its record for
duplicates, and acceptance with the timed entry and CMD_DONE. -/

section
namespace Sys2Proof.Machine

/-! What a response may write (R271, R284, R285). -/

/-- The words that a response on its channel may write: those of the host block, and the credit and count of VC2 or the registers of
UART[1]. The buffer of a mailbox holds a payload of 256 words; nothing is said of a longer one. -/
def answerWord (r : Response) (a : Nat) : Prop :=
  a < 0x10000 ∨ (r.chan = 4 ∧ (a = R.STRM_VC_CREDIT 2 ∨ a = R.STRM_VC_TXCNT 2)) ∨
    (5 ≤ r.chan ∧ 0x42000 ≤ a ∧ a < 0x43000) ∨ 256 < r.payload.length

/-- `t` is `s` with nothing changed but the host block's record, registers that a response `r` may write and, on UART[1] alone, the
records of the ports. -/
structure Answered (r : Response) (s t : State) : Prop where
  frame : t = { s with regs := t.regs, host := t.host, uarts := t.uarts }
  uarts : r.chan < 5 → t.uarts = s.uarts
  rd : ∀ a, ¬ answerWord r a → t.rd a = s.rd a

section
variable {r : Response} {s t u : State}

theorem Answered.refl (r : Response) (s : State) : Answered r s s := ⟨rfl, fun _ => rfl, fun _ _ => rfl⟩

theorem Answered.trans (h : Answered r s t) (h' : Answered r t u) : Answered r s u :=
  ⟨by rw [h'.frame, h.frame], fun hc => (h'.uarts hc).trans (h.uarts hc), fun a ha => (h'.rd a ha).trans (h.rd a ha)⟩

theorem Answered.wr (h : Answered r s t) {a : Nat} (v : W32) (ha : answerWord r a) : Answered r s (t.wr a v) :=
  h.trans ⟨rfl, fun _ => rfl, fun _ hb => State.rd_wr_ne t v fun e => hb (e ▸ ha)⟩

theorem Answered.put (h : Answered r s t) {f : Fld} (v : Nat) (ha : answerWord r f.addr) : Answered r s (t.put f v) := h.wr _ ha

theorem Answered.set (h : Answered r s t) {f : Fld} (b : Bool) (ha : answerWord r f.addr) : Answered r s (t.set f b) := h.wr _ ha

theorem Answered.wrList {l : List W32} (h : Answered r s t) {a : Nat} (ha : ∀ i < l.length, answerWord r (a + 4 * i)) :
    Answered r s (t.wrList a l) := by
  induction l generalizing t a with
  | nil => exact h
  | cons w l ih =>
    refine ih (h.wr w (ha 0 (Nat.zero_lt_succ _))) fun i hi => ?_
    have := ha (i + 1) (Nat.succ_lt_succ hi)
    rwa [show a + 4 * (i + 1) = a + 4 + 4 * i by omega] at this

theorem Answered.host (h : Answered r s t) (x : HostSt) : Answered r s { t with host := x } :=
  h.trans ⟨rfl, fun _ => rfl, fun _ _ => rfl⟩

theorem Answered.setUart (h : Answered r s t) (hc : 5 ≤ r.chan) (x : UartSt) : Answered r s (t.setUart x) :=
  h.trans ⟨rfl, fun hc' => absurd hc (Nat.not_le.2 hc'), fun _ _ => rfl⟩

theorem answerWord_of_lt {a : Nat} (h : a < 0x10000) : answerWord r a := .inl h

theorem answerWord_uart1Status (hc : 5 ≤ r.chan) : answerWord r (R.UART_STATUS 1) := .inr (.inr (.inl ⟨hc, by decide⟩))

theorem answerWord_mailbox (hc : r.chan < 4) {i : Nat} (hi : i < (respHeader r ++ r.payload).length) :
    answerWord r (mbBuf r.chan + 4 * i) := by
  simp only [respHeader, List.length_append, List.length_cons, List.length_nil] at hi
  simp only [answerWord, mbBuf]
  omega

/-- A response of at most 256 words writes nothing above the host block but the credit and count of VC2 and, on UART[1], that port's
registers. -/
theorem not_answerWord_of_window {a : Nat} (ha : 0x10000 ≤ a) (hcr : a ≠ R.STRM_VC_CREDIT 2) (htx : a ≠ R.STRM_VC_TXCNT 2)
    (hu : 5 ≤ r.chan → a < 0x42000 ∨ 0x43000 ≤ a) (hp : r.payload.length ≤ 256) : ¬ answerWord r a := by
  unfold answerWord
  omega

/-! UART[1], as its response frames use it. -/

theorem Answered.uartFeed (h : Answered r s t) (hc : 5 ≤ r.chan) : Answered r s (t.uartFeed 1) := by
  unfold State.uartFeed
  dsimp only
  split
  · split
    · exact (h.setUart hc _).set _ (answerWord_uart1Status hc)
    · exact h
  · exact h

theorem Answered.uartKick (h : Answered r s t) (hc : 5 ≤ r.chan) : Answered r s (t.uartKick 1) := by
  have hs := answerWord_uart1Status hc
  have h := h.uartFeed hc
  unfold State.uartKick
  dsimp only
  split
  · exact h
  · split
    · exact (h.setUart hc _).set _ hs
    · split
      · split
        · exact h
        · exact (((h.setUart hc _).set _ hs).set _ hs).uartFeed hc
      · exact h

theorem Answered.sendFrame (h : Answered r s t) (hc : 5 ≤ r.chan) (q : Response) : Answered r s (t.sendFrame q) := by
  unfold State.sendFrame
  split
  · exact (h.setUart hc _).uartKick hc
  · exact h

@[simp] theorem State.uartFeed_host (s : State) (n : Nat) : (s.uartFeed n).host = s.host := by
  unfold State.uartFeed
  dsimp only
  split
  · split <;> rfl
  · rfl

@[simp] theorem State.uartKick_host (s : State) (n : Nat) : (s.uartKick n).host = s.host := by
  unfold State.uartKick
  dsimp only
  split
  · exact s.uartFeed_host n
  · split
    · exact s.uartFeed_host n
    · split
      · split
        · exact s.uartFeed_host n
        · exact (State.uartFeed_host _ n).trans (s.uartFeed_host n)
      · exact s.uartFeed_host n

@[simp] theorem State.sendFrame_host (s : State) (r : Response) : (s.sendFrame r).host = s.host := by
  unfold State.sendFrame
  split
  · exact State.uartKick_host _ 1
  · rfl

@[simp] theorem State.wrList_host (s : State) (a : Nat) (l : List W32) : (s.wrList a l).host = s.host := by
  induction l generalizing s a with
  | nil => rfl
  | cons w l ih => exact ih _ _

/-! Recording a command and the opening reset of a channel (R278, R279). -/

theorem Answered.record (h : Answered r s t) (c : Nat) (x : Cached) : Answered r s (t.record c x) := by
  unfold State.record
  dsimp only
  split
  · have hw : R.MB_SEQ c < 0x10000 := by rw [R.MB_SEQ]; omega
    exact ((h.host _).put _ (answerWord_of_lt hw)).set _ (answerWord_of_lt hw)
  · exact h.host _

theorem Answered.clearSeq (h : Answered r s t) (m : Nat) : Answered r s (t.clearSeq m) := by
  unfold State.clearSeq
  dsimp only
  split
  · have hw : R.MB_SEQ m < 0x10000 := by rw [R.MB_SEQ]; omega
    have hw' : R.MB_CTRL m < 0x10000 := by rw [R.MB_CTRL]; omega
    exact (((h.host _).put _ (answerWord_of_lt hw)).set _ (answerWord_of_lt hw)).set _ (answerWord_of_lt hw')
  · exact h.host _

/-- A command recorded on a channel is its newest, and the sequence resets that wait still do. -/
theorem State.record_newest (s : State) (c : Nat) (x : Cached) :
    ((s.record c x).cacheOf c).head? = some x ∧ (s.record c x).host.seqReset = s.host.seqReset := by
  unfold State.record
  dsimp only
  split <;> simp [State.cacheOf, State.put, State.set]

theorem State.clearSeq_response (s : State) (m : Nat) : (s.clearSeq m).host.response = s.host.response := by
  unfold State.clearSeq
  dsimp only
  split <;> rfl

/-! Posting a response. -/

/-- What holds of a state and is kept by each pass of a loop holds after the loop. -/
theorem forEach_invariant {α : Type} {P : State → Prop} {l : List α} {s : State} {f : α → State → State} (h : P s)
    (hf : ∀ a t, P t → P (f a t)) : P (forEach l s f) :=
  List.foldlRecOn l (fun s a => f a s) h fun t ht a _ => hf a t ht

/-- The response is given to its channel: the middle part of `State.respond`. -/
def State.deliver (s : State) (r : Response) : State :=
  if r.chan < 4 then
    let s := s.wrList (mbBuf r.chan) (respHeader r ++ r.payload)
    let s := (s.put (F.MB_STAT_STATE r.chan) 2).put (F.MB_STAT_LAST_STATUS r.chan) r.status
    s.wr R.HOST_IRQ_STAT (s.rd R.HOST_IRQ_STAT ||| w32 (2 ^ r.chan))
  else if r.chan = 4 then
    let s := s.put F.KCP_VC2_INFLIGHT (s.get F.KCP_VC2_INFLIGHT - 1)
    (s.spend 2 (1 + (r.payload.length + 3) / 4)).getD s
  else
    let s := s.sendFrame r
    forEach s.host.uartBusy { s with host := { s.host with uartBusy := [] } } fun q s => s.sendFrame (uartBusyFor q)

/-- The host block's record with a response under way on its channel. -/
def HostSt.responding (h : HostSt) (r : Response) : HostSt :=
  { h with
    response := some r
    rung := if r.chan = 4 then h.rung.eraseP (fun x => x.1 = 4) else h.rung.filter fun x => x.1 ≠ r.chan }

theorem State.respond_eq (s : State) (r : Response) :
    s.respond r =
      if (State.deliver { s with host := s.host.responding r } r).host.seqReset.contains r.chan then
        (State.deliver { s with host := s.host.responding r } r).clearSeq r.chan
      else State.deliver { s with host := s.host.responding r } r := rfl

theorem Answered.deliver (h : Answered r s t) : Answered r s (t.deliver r) := by
  unfold State.deliver
  dsimp only
  split
  · next hc =>
    have hw : R.MB_STAT r.chan < 0x10000 := by rw [R.MB_STAT]; omega
    exact (((h.wrList fun i hi => answerWord_mailbox hc hi).put _ (answerWord_of_lt hw)).put _ (answerWord_of_lt hw)).wr _
      (answerWord_of_lt (by decide))
  · split
    · next hc =>
      have h := h.put (f := F.KCP_VC2_INFLIGHT) (t.get F.KCP_VC2_INFLIGHT - 1) (answerWord_of_lt (by decide))
      unfold State.spend
      dsimp only
      split
      · exact (h.put _ (.inr (.inl ⟨hc, .inl rfl⟩))).put _ (.inr (.inl ⟨hc, .inr rfl⟩))
      · exact h
    · have hc : 5 ≤ r.chan := by omega
      exact forEach_invariant ((h.sendFrame hc r).host _) fun q u hu => hu.sendFrame hc (uartBusyFor q)

/-- Delivering a response changes nothing of the host block's record but the BUSY answers that waited behind it. -/
theorem State.deliver_host (s : State) (r : Response) : ∃ l, (s.deliver r).host = { s.host with uartBusy := l } := by
  unfold State.deliver
  dsimp only
  split
  · refine ⟨s.host.uartBusy, ?_⟩
    rw [State.wr_host, State.put_host, State.put_host, State.wrList_host]
  · split
    · unfold State.spend
      dsimp only
      split <;> exact ⟨s.host.uartBusy, rfl⟩
    · refine ⟨[], ?_⟩
      refine forEach_invariant (P := fun t => t.host = { s.host with uartBusy := [] }) ?_ fun q u hu => ?_
      · rw [State.sendFrame_host]
      · exact (State.sendFrame_host _ _).trans hu

theorem Answered.respond (h : Answered r s t) : Answered r s (t.respond r) := by
  have h := (h.host (t.host.responding r)).deliver
  rw [State.respond_eq]
  split
  · exact h.clearSeq _
  · exact h

theorem State.respond_response (s : State) (r : Response) : (s.respond r).host.response = some r := by
  obtain ⟨l, hl⟩ := State.deliver_host { s with host := s.host.responding r } r
  rw [State.respond_eq]
  split
  · rw [State.clearSeq_response, hl]
    rfl
  · rw [hl]
    rfl

/-- A response on a channel with no sequence reset waiting leaves the recorded commands. -/
theorem State.respond_caches {s : State} {r : Response} (h : r.chan ∉ s.host.seqReset) :
    (s.respond r).host.caches = s.host.caches := by
  obtain ⟨l, hl⟩ := State.deliver_host { s with host := s.host.responding r } r
  rw [State.respond_eq, hl, if_neg (by simpa [HostSt.responding] using h), hl]
  rfl

/-! A response with its record for duplicates (R278). -/

/-- What is recorded of a response to an opcode. -/
def Response.recordOf (r : Response) (op : Nat) : Cached :=
  ⟨r.seq, BitVec.ofNat 16 op, r.status, w32 (b2n r.notApplied * 2 ^ 14 + b2n r.eventFollows * 2 ^ 13), r.mt, r.payload⟩

theorem State.reply_eq (s : State) (op : Nat) (r : Response) :
    s.reply op r = (if recorded r.status then s.record r.chan (r.recordOf op) else s).respond r := rfl

theorem Answered.reply (h : Answered r s t) (op : Nat) : Answered r s (t.reply op r) := by
  rw [State.reply_eq]
  split
  · exact (h.record _ _).respond
  · exact h.respond

theorem State.reply_response (s : State) (op : Nat) (r : Response) : (s.reply op r).host.response = some r :=
  State.respond_response _ r

theorem State.reply_newest {s : State} {r : Response} (op : Nat) (hc : r.chan ∉ s.host.seqReset) (hr : recorded r.status = true) :
    ((s.reply op r).cacheOf r.chan).head? = some (r.recordOf op) := by
  obtain ⟨hnew, hreset⟩ := s.record_newest r.chan (r.recordOf op)
  rw [State.reply_eq, if_pos hr, State.cacheOf, State.respond_caches (hreset ▸ hc)]
  exact hnew

/-! Acceptance (R276 step 10): the timed entry, the response and CMD_DONE. -/

/-- The response to an accepted command. -/
def Cmd.response (c : Cmd) (k : Kcp) (st mt : Nat) (payload : List W32) : Response :=
  ⟨k.chan, st, k.seq, false, (c.kind = .deferred ∨ c.kind = .bulk) ∧ (st = St.accepted ∨ st = St.late), false, mt, payload⟩

/-- The timed entry of an accepted command that has an AT. -/
def Cmd.queued (c : Cmd) (k : Kcp) (st mt : Nat) (s : State) : State :=
  if c.at_ = .none then s
  else { s with timed := s.timed ++ [⟨mt, s.order, c.opcode, k.payload, k.chan, k.seq, st, k.notify⟩], order := s.order + 1 }

/-- CMD_DONE at once, for a command without AT that asks for it. -/
def Cmd.notified (c : Cmd) (k : Kcp) (st mt : Nat) (later : Bool) (s : State) : State :=
  if c.at_ = .none ∧ k.notify ∧ st < 0x10 ∧ ¬ later then s.cmdDone c.opcode k.chan k.seq st mt else s

/-- Acceptance in its order: effect, timed entry, response, CMD_DONE, and what follows. -/
theorem Cmd.accept_eq (c : Cmd) (k : Kcp) (n : State) {a : Answer} {st mt : Nat} (ha : a = c.act k (c.okMt k n) n)
    (hst : st = a.status.getD (c.okStatus k n)) (hmt : mt = a.mt.getD (c.okMt k n)) :
    c.accept k n = c.after k (c.notified k st mt a.later
      ((c.queued k st mt a.state).reply c.opcode (c.response k st mt a.payload))) := by
  subst ha hst hmt
  rfl

theorem Cmd.queued_eq (c : Cmd) (k : Kcp) (st mt : Nat) (s : State) :
    c.queued k st mt s = { s with timed := (c.queued k st mt s).timed, order := (c.queued k st mt s).order } := by
  unfold Cmd.queued
  split <;> rfl

theorem Cmd.queued_timed (c : Cmd) (k : Kcp) (st mt : Nat) (s : State) :
    if c.at_ = .none then (c.queued k st mt s).timed = s.timed ∧ (c.queued k st mt s).order = s.order
    else (c.queued k st mt s).timed = s.timed ++ [⟨mt, s.order, c.opcode, k.payload, k.chan, k.seq, st, k.notify⟩] ∧
      (c.queued k st mt s).order = s.order + 1 := by
  unfold Cmd.queued
  split <;> exact ⟨rfl, rfl⟩

theorem Cmd.notified_posted (c : Cmd) (k : Kcp) (st mt : Nat) (later : Bool) (s : State) : Posted s (c.notified k st mt later s) := by
  unfold Cmd.notified
  split
  · exact s.postAt_posted _ _ _ _
  · exact Posted.refl s

/-- A command whose checks all pass and that STRICT does not refuse is accepted (R276). -/
theorem kcpExec_of_accept {c : Cmd} {k : Kcp} {s n : State} (ht : s.taking = true) (hcrc : k.crcOk = true)
    (hn : n = s.countTaken k.chan) (hcache : n.cachedAnswer k.chan k.seq c.opcode = none) (hdup : n.isDuplicate k.chan k.seq = false)
    (hc : c.check k n = none) (hstrict : c.strictLate k n = false) : kcpExec c k s = c.accept k n := by
  subst hn
  rw [kcpExec, if_pos ht, Cmd.take, State.screened]
  simp [hcrc, hcache, hdup, hc, hstrict]

/-! The obligation. -/

/-- Settles O7: the timed entry, the response and CMD_DONE one after another, each by what it leaves of the state before it. -/
theorem kcpAccepted : Obligations.KcpAccepted := by
  intro i c k s n a st mt hcmd ht hcrc hn hcache hdup hcheck hstrict ha hst hmt
  have hexec : exec i s = .next _ := exec_of_commandOf hcmd s
  rw [kcpExec_of_accept ht hcrc hn hcache hdup hcheck hstrict, c.accept_eq k n ha hst hmt] at hexec
  have hqueued := c.queued_eq k st mt a.state
  have htimed := c.queued_timed k st mt a.state
  generalize c.queued k st mt a.state = q at hexec hqueued htimed
  have hseq : q.host.seqReset = a.state.host.seqReset := by rw [hqueued]
  have hanswer := (Answered.refl (c.response k st mt a.payload) q).reply c.opcode
  have hresponse := q.reply_response c.opcode (c.response k st mt a.payload)
  have hnewest := State.reply_newest (s := q) (r := c.response k st mt a.payload) c.opcode
  generalize q.reply c.opcode (c.response k st mt a.payload) = p at hexec hanswer hresponse hnewest
  have hposted := c.notified_posted k st mt a.later p
  generalize c.notified k st mt a.later p = t at hexec hposted
  have hhost : t.host = p.host := by rw [hposted.1]
  have hframe : t = { q with regs := t.regs, host := t.host, uarts := t.uarts } := by rw [hposted.1, hanswer.frame]
  have hrecord : k.chan.val ∉ a.state.host.seqReset → recorded st = true →
      (t.cacheOf k.chan).head? = some ((c.response k st mt a.payload).recordOf c.opcode) := fun hc hr => by
    rw [State.cacheOf, hhost]
    exact hnewest (hseq ▸ hc) hr
  have htt : t.timed = q.timed := by rw [hframe]
  have hto : t.order = q.order := by rw [hframe]
  refine ⟨t, hexec, ?_, fun hc hr => ⟨_, hrecord hc hr⟩, ?_, ?_, fun hc => ?_, fun hp w hw hcr htx hev hu => ?_⟩
  · rw [hhost]
    exact hresponse
  · rw [htt, hto]
    exact htimed
  · rw [hframe, hqueued]
  · have h5 : k.chan.val < 5 := by omega
    calc t.uarts = p.uarts := by rw [hposted.1]
      _ = q.uarts := hanswer.uarts h5
      _ = a.state.uarts := by rw [hqueued]
  · calc t.rd w = p.rd w := hposted.2 w hev
      _ = q.rd w := hanswer.rd w (not_answerWord_of_window hw hcr htx (fun (h5 : 5 ≤ k.chan.val) => hu (by omega)) hp)
      _ = a.state.rd w := by rw [hqueued]; rfl

end

end Sys2Proof.Machine
end

/-! SUPPORT and CERTIFICATES. The dispatcher's own events: a job that has waited too long, a timed command at its media time, the
re-render queue of a brick and the checkpoint that a rollback restores. -/

section
namespace Sys2Proof.Machine

/-! The best of a list: searches that keep the better of two, and the head of a sorted list. -/

/-- A search through a list that keeps the better of what it has and what it meets, in a reflexive and transitive order, finds one of
the list's elements that is as good as each of them, and finds nothing in the empty list alone. -/
theorem foldl_keeps_better {α : Type} {better : α → α → Prop} {f : Option α → α → Option α} {l : List α} {found : Option α}
    (hfound : found = l.foldl f none) (hrefl : ∀ a, better a a)
    (htrans : ∀ {a b c}, better a b → better b c → better a c) (hnone : ∀ c, f none c = some c)
    (hsome : ∀ b c, (f (some b) c = some b ∧ better b c) ∨ (f (some b) c = some c ∧ better c b)) :
    (found = none → l = []) ∧ ∀ b, found = some b → b ∈ l ∧ ∀ c ∈ l, better b c := by
  subst hfound
  induction l using List.reverseRecOn with
  | nil => exact ⟨fun _ => rfl, fun b hb => nomatch hb⟩
  | append_singleton l x ih =>
    obtain ⟨hnil, hbest⟩ := ih
    rw [List.foldl_concat]
    cases hl : l.foldl f none with
    | none =>
      rw [hnone, hnil hl]
      refine ⟨(nomatch ·), fun b hb => ?_⟩
      cases hb
      simpa using hrefl x
    | some a =>
      obtain ⟨ha, hall⟩ := hbest a hl
      simp only [List.mem_append, List.mem_singleton]
      rcases hsome a x with ⟨hf, hax⟩ | ⟨hf, hxa⟩
      · rw [hf]
        refine ⟨(nomatch ·), fun b hb => ?_⟩
        cases hb
        exact ⟨.inl ha, fun c hc => hc.elim (hall c) (· ▸ hax)⟩
      · rw [hf]
        refine ⟨(nomatch ·), fun b hb => ?_⟩
        cases hb
        exact ⟨.inr rfl, fun c hc => hc.elim (fun hc => htrans hxa (hall c hc)) (· ▸ hrefl x)⟩

theorem isort_eq_insertionSort {α : Type} (le : α → α → Bool) (l : List α) :
    isort le l = l.insertionSort fun a b => le a b = true := by
  have hins : ∀ a (l : List α), isert le a l = l.orderedInsert (fun a b => le a b = true) a := by
    intro a l
    induction l with
    | nil => rfl
    | cons b l ih => simp only [isert, List.orderedInsert, ih]
  induction l with
  | nil => rfl
  | cons a l ih => rw [isort, ih, hins, List.insertionSort_cons]

theorem Timed.before_iff (a b : Timed) : a.before b = true ↔ a.mt < b.mt ∨ (a.mt = b.mt ∧ a.order ≤ b.order) :=
  decide_eq_true_iff

/-- The head of the timed commands in order is the earliest, by media time and then arrival. -/
theorem isort_before_head {l : List Timed} {t : Timed} {r : List Timed} (h : isort Timed.before l = t :: r) :
    t ∈ l ∧ ∀ x ∈ l, t.mt < x.mt ∨ (t.mt = x.mt ∧ t.order ≤ x.order) := by
  have htotal : Std.Total fun a b : Timed => a.before b = true := ⟨fun a b => by simp only [Timed.before_iff]; omega⟩
  have htrans : IsTrans Timed fun a b => a.before b = true := ⟨fun a b c => by simp only [Timed.before_iff]; omega⟩
  rw [isort_eq_insertionSort] at h
  have hmem : ∀ x, x ∈ t :: r ↔ x ∈ l := fun x => h ▸ List.mem_insertionSort _
  have hsort := List.pairwise_insertionSort (fun a b : Timed => a.before b = true) l
  rw [h, List.pairwise_cons] at hsort
  refine ⟨(hmem t).1 List.mem_cons_self, fun x hx => ?_⟩
  rcases List.mem_cons.1 ((hmem x).2 hx) with rfl | hr
  · exact .inr ⟨rfl, Nat.le_refl _⟩
  · exact (Timed.before_iff t x).1 (hsort.1 x hr)

theorem isort_eq_nil_iff {α : Type} (le : α → α → Bool) (l : List α) : isort le l = [] ↔ l = [] := by
  rw [isort_eq_insertionSort, ← List.length_eq_zero_iff, List.length_insertionSort, List.length_eq_zero_iff]

/-! The re-render queue (R169) and checkpoints (R164). -/

theorem Voice.sooner_iff (v w : Voice) : v.sooner w = true ↔
    v.cls < w.cls ∨ (v.cls = w.cls ∧ (v.need < w.need ∨ (v.need = w.need ∧ v.src ≤ w.src))) := by
  unfold Voice.sooner
  rw [decide_eq_true_iff]

/-- The head of a brick's queue is a queued voice of the brick, and comes before every other. -/
theorem State.queueHead_first {s : State} {br : Nat} {v : Voice} (h : s.queueHead br = some v) :
    (v ∈ s.disp.voices ∧ v.src / 128 = br ∧ s.queued v = true) ∧
      ∀ w ∈ s.disp.voices, w.src / 128 = br → s.queued w = true → v.sooner w = true := by
  have hrefl : ∀ v : Voice, v.sooner v = true := fun v => by rw [Voice.sooner_iff]; omega
  have htrans : ∀ {a b c : Voice}, a.sooner b = true → b.sooner c = true → a.sooner c = true := by
    intro a b c
    simp only [Voice.sooner_iff]
    omega
  have htotal : ∀ {a b : Voice}, ¬ a.sooner b = true → b.sooner a = true := by
    intro a b
    simp only [Voice.sooner_iff]
    omega
  have hbest := (foldl_keeps_better (found := s.queueHead br) (better := fun v w => v.sooner w = true) rfl hrefl htrans
    (fun _ => rfl) fun b c => by
      by_cases hc : c.sooner b = true ∧ c ≠ b
      · exact .inr ⟨if_pos hc, hc.1⟩
      · refine .inl ⟨if_neg hc, ?_⟩
        rcases not_and_or.1 hc with hc | hc
        · exact htotal hc
        · exact not_not.1 hc ▸ hrefl c).2 v h
  simpa only [State.onBrick, List.mem_filter, decide_eq_true_eq, and_assoc, and_imp] using hbest

/-- A rollback restores the newest valid checkpoint at or before its block; there is none where none is found. -/
theorem Voice.ckptFor_newest (v : Voice) (e : Nat) :
    (v.ckptFor e = none → ∀ c ∈ v.ckpts, c.valid = true → ¬ c.block ≤ e) ∧
      ∀ k, v.ckptFor e = some k → (k ∈ v.ckpts ∧ k.valid = true ∧ k.block ≤ e) ∧
        ∀ c ∈ v.ckpts, c.valid = true → c.block ≤ e → c.block ≤ k.block := by
  have hbest := foldl_keeps_better (found := v.ckptFor e) (better := fun a b : Ckpt => b.block ≤ a.block) rfl
    (fun _ => Nat.le_refl _) (fun h h' => Nat.le_trans h' h) (fun _ => rfl) fun b c => by
      by_cases hc : b.block < c.block
      · exact .inr ⟨if_pos hc, Nat.le_of_lt hc⟩
      · exact .inl ⟨if_neg hc, Nat.not_lt.1 hc⟩
  simpa only [List.filter_eq_nil_iff, List.mem_filter, decide_eq_true_eq, and_imp, not_and] using hbest

theorem State.restoreVoice_lost (s : State) {v : Voice} {e : Nat} (h : ∀ c ∈ v.ckpts, c.valid = false ∨ e < c.block) :
    s.restoreVoice v e = s.rollbackLost v e := by
  cases hk : v.ckptFor e with
  | none => rw [State.restoreVoice, hk]
  | some k =>
    obtain ⟨⟨hmem, hvalid, hle⟩, -⟩ := (v.ckptFor_newest e).2 k hk
    rcases h k hmem with h | h
    · exact absurd hvalid (by simp [h])
    · exact absurd hle (Nat.not_le.2 h)

theorem State.restoreVoice_newest (s : State) {v : Voice} {e : Nat} (h : ∃ c ∈ v.ckpts, c.valid = true ∧ c.block ≤ e) :
    ∃ k ∈ v.ckpts, k.valid = true ∧ k.block ≤ e ∧
      (∀ c ∈ v.ckpts, c.valid = true → c.block ≤ e → c.block ≤ k.block) ∧
      s.restoreVoice v e = s.setVoice { v with toVoiceDyn := k.dyn, next := k.block, redo := some e, rollback := none } := by
  obtain ⟨hnone, hsome⟩ := v.ckptFor_newest e
  obtain ⟨c, hc, hvalid, hle⟩ := h
  cases hk : v.ckptFor e with
  | none => exact absurd hle (hnone hk c hc hvalid)
  | some k =>
    obtain ⟨⟨hmem, hkvalid, hkle⟩, hnewest⟩ := hsome k hk
    exact ⟨k, hmem, hkvalid, hkle, hnewest, by rw [State.restoreVoice, hk]⟩

/-! One step of a brick's queue: at its goal it stops, and otherwise its head is served. -/

theorem State.serveQueue_done {s : State} {goal : State → Bool} (br n : Nat) (h : goal s = true) : s.serveQueue br goal n = s := by
  cases n with
  | zero => rfl
  | succ n => rw [State.serveQueue, if_pos h]

theorem State.serveQueue_restore {s : State} {goal : State → Bool} {br : Nat} {v : Voice} {e : Nat} (n : Nat)
    (hg : goal s = false) (hv : s.queueHead br = some v) (he : v.rollback = some e) :
    s.serveQueue br goal (n + 1) = (s.restoreVoice v e).serveQueue br goal n := by
  simp only [State.serveQueue, State.work, hg, hv, he, Option.orElse_some, if_neg Bool.false_ne_true]

theorem State.serveQueue_render {s : State} {goal : State → Bool} {br : Nat} {v : Voice} (n : Nat)
    (hg : goal s = false) (hv : s.queueHead br = some v) (he : v.rollback = none) :
    s.serveQueue br goal (n + 1) =
      if s.reserveLeft br < s.voiceCycles v v.next then s
      else ((s.renderBlock v).useReserve br ((s.renderBlock v).blockCycles v.src v.record v.next)).serveQueue br goal n := by
  simp only [State.serveQueue, State.work, hg, hv, he, Option.orElse_some, if_neg Bool.false_ne_true]

/-! The rows. -/

theorem exec_maxWaitExpiry_of_none {s : State} {r : Nat} (h : s.job? r = none) : exec (.maxWaitExpiry r) s = .next s := by
  change execMaxWaitExpiry r s = _
  rw [execMaxWaitExpiry, h]

theorem exec_maxWaitExpiry_of_job {s : State} {r : Nat} {j : Job} (h : s.job? r = some j) : exec (.maxWaitExpiry r) s =
    .next (if s.running ∧ j.state = .ready ∧ j.descr.maxWait ≠ 0 ∧ j.readyAt + j.descr.maxWait ≤ s.commit then
      s.finish j .aborted 4 s.time.mt else s) := by
  change execMaxWaitExpiry r s = _
  rw [execMaxWaitExpiry, h]

/-- The record of a job of this course alone, once the job has ended. -/
theorem State.job_finish (s : State) {j : Job} (st : JobState) (reason mt : Nat) (h : j.siteHandle = none) :
    (s.finish j st reason mt).job? j.record =
      some { j with state := st, reason := reason, reported := true, voices := [], siteParts := [] } := by
  have hown : s.finish j st reason mt = s.finishOwn j st reason mt := by rw [State.finish, h]
  rw [hown, State.finishOwn]
  exact (State.job_setJob _ _ _).trans (if_pos rfl)

/-- The accepted commands that COMMAND_APPLY may apply: those whose media time lies in the block that their unit handles now or is
handed next. -/
def State.near (s : State) (t : Timed) : Bool :=
  if 0xF000 ≤ t.opcode then false
  else if pinsUnit t.opcode then decide (t.mt < s.startOf (s.blockNow + 1))
  else if t.opcode / 256 = 6 then decide (s.blockOf t.mt ≤ s.commit) else decide (s.blockOf t.mt ≤ s.commit + 1)

theorem exec_commandApply_of_idle {s : State} (h : s.running = false ∨ s.timed.filter s.near = []) :
    exec .commandApply s = .next s := by
  change execCommandApply s = _
  unfold execCommandApply
  rcases h with h | h
  · rw [if_pos (by simp [h])]
  · have hsorted := (isort_eq_nil_iff Timed.before _).2 h
    unfold State.near at hsorted
    simp only [zoneOpcode, decide_eq_true_eq, hsorted, ite_self]

theorem exec_commandApply_of_head {s : State} {t : Timed} {r : List Timed} (hrun : s.running = true)
    (h : isort Timed.before (s.timed.filter s.near) = t :: r) : exec .commandApply s = .next (s.runTimed t) := by
  change execCommandApply s = _
  unfold State.near at h
  simp only [execCommandApply, zoneOpcode, decide_eq_true_eq, h, hrun, not_true_eq_false, if_false]

/-- A timed command acts at its media time, or at the start of its unit's block where that is later. -/
theorem State.runTimed_eq (s : State) (t : Timed) :
    s.runTimed t =
      (let mt := max t.mt (s.startOf (if pinsUnit t.opcode then s.blockNow else s.commit))
       let u := State.applyTimed { s with timed := s.timed.filter fun x => ¬ (x.order = t.order ∧ x.opcode = t.opcode) } t mt
       if t.notify then u.cmdDone t.opcode t.chan t.seq t.status mt else u) := by
  unfold State.runTimed
  split <;> rfl

theorem exec_rollbackRerender (s : State) (src : Nat) : exec (.rollbackRerender src) s = .next (
    if s.standard (src / 128) then
      s.serveQueue (src / 128) (fun t => ¬ t.disp.voices.any fun v => v.src = src ∧ t.queued v) serveFuel
    else s.callNext) := rfl

/-! The obligation. -/

/-- Settles O38: the timed commands and the queue by the head of their order, the checkpoint by the search for the newest. -/
theorem dispatchEvents : Obligations.DispatchEvents := by
  refine ⟨?_, ?_, ?_, ?_, ?_, ?_, ?_⟩
  · rintro s r (h | h)
    · exact exec_maxWaitExpiry_of_none h
    · cases hj : s.job? r with
      | none => exact exec_maxWaitExpiry_of_none hj
      | some j => rw [exec_maxWaitExpiry_of_job hj, if_neg (by simp [h])]
  · intro s r j hj hrun
    rw [exec_maxWaitExpiry_of_job hj]
    refine ⟨fun h => ?_, fun hready hmax hwait => ?_⟩
    · rw [if_neg]
      rintro ⟨-, hready, hmax, hwait⟩
      rcases h with h | h | h
      exacts [h hready, hmax h, Nat.not_lt.2 hwait h]
    rw [if_pos ⟨hrun, hready, hmax, hwait⟩]
    refine ⟨_, rfl, fun hsite => ?_⟩
    rw [← pick_num Job.record r _ j hj]
    exact State.job_finish s .aborted 4 _ hsite
  · intro s near hnear
    obtain rfl : near = s.near := hnear
    refine ⟨exec_commandApply_of_idle, fun hrun hne => ?_⟩
    cases hsorted : isort Timed.before (s.timed.filter s.near) with
    | nil => exact absurd ((isort_eq_nil_iff _ _).1 hsorted) hne
    | cons t r =>
      obtain ⟨hmem, hfirst⟩ := isort_before_head hsorted
      simp only [List.mem_filter, and_imp] at hmem hfirst
      refine ⟨t, _, _, hmem.1, hmem.2, hfirst, rfl, rfl, ?_⟩
      rw [exec_commandApply_of_head hrun hsorted, State.runTimed_eq]
  · intro s src h
    rw [exec_rollbackRerender, if_neg (by simp [h])]
  · intro s src idle h hidle
    have hgoal : idle = fun t : State => ¬ t.disp.voices.any fun v => v.src = src ∧ t.queued v := by
      funext t
      rw [Bool.eq_iff_iff, hidle]
      simp
    rw [exec_rollbackRerender, if_pos h, ← hgoal]
    exact ⟨fun hdone => by rw [State.serveQueue_done _ _ hdone], rfl⟩
  · intro s br n idle v hidle hv
    obtain ⟨⟨hmem, hbrick, hqueued⟩, hfirst⟩ := State.queueHead_first hv
    exact ⟨⟨hmem, hbrick, hqueued, fun w hw hbr hq => (v.sooner_iff w).1 (hfirst w hw hbr hq)⟩,
      fun e he => State.serveQueue_restore n hidle hv he, fun he => State.serveQueue_render n hidle hv he⟩
  · intro s v e
    exact ⟨State.restoreVoice_lost s, State.restoreVoice_newest s⟩

end Sys2Proof.Machine
end

/-! SUPPORT and CERTIFICATES. What every command keeps, media time with it but for the commands that may move it. -/

section
namespace Sys2Proof.Machine

/-- The commands that may move media time (R24, R26, R44, R45, R491, R492). -/
def movesMediaTime : Instr → Bool
  | .powerOnReset => true | .pinReset _ => true | .watchdogExpiry => true | .resetDelayExpiry => true
  | .lullWake .. => true | .readyRise .. => true | .sysReset _ => true | .blockTick => true | .ppsEdge .. => true
  | _ => false

/-- Every command ends in a next state in which everything that `Keeps` speaks of is kept, media time with it unless the command is
one that may move it: the lemma about each command's meaning. -/
theorem exec_keeps {kR s : State} : ∀ c : Instr, Keeps (!movesMediaTime c) kR s → Good (!movesMediaTime c) kR (exec c s)
  | .powerOnReset, kH => execPowerOnReset_keeps kH
  | .pinReset _, kH => execPinReset_keeps kH
  | .resetRelease _, kH => execResetRelease_keeps kH
  | .readyRise _ _, kH => execReadyRise_keeps kH
  | .watchdogExpiry, kH => execWatchdogExpiry_keeps kH
  | .resetDelayExpiry, kH => execResetDelayExpiry_keeps kH
  | .analogueRailLow, kH => execAnalogueRailLow_keeps kH
  | .analogueRailRestore, kH => execAnalogueRailRestore_keeps kH
  | .lullPowerDown, kH => execLullPowerDown_keeps kH
  | .lullWake _ _ _ _ _, kH => execLullWake_keeps kH
  | .spiWriteTransaction _ _, kH => execSpiWriteTransaction_keeps kH
  | .spiReadTransaction _ _, kH => execSpiReadTransaction_keeps kH
  | .registerWrite _ _, kH => execRegisterWrite_keeps kH
  | .registerReadClear _, kH => execRegisterReadClear_keeps kH
  | .mtLoRead _ _, kH => execMtLoRead_keeps kH
  | .seqReset _, kH => execSeqReset_keeps kH
  | .evqAck _, kH => execEvqAck_keeps kH
  | .spiErrCntClr, kH => execSpiErrCntClr_keeps kH
  | .epochArm, kH => execEpochArm_keeps kH
  | .slabHandover _, kH => execSlabHandover_keeps kH
  | .handoverDrainDone _, kH => execHandoverDrainDone_keeps kH
  | .slabNormalWrite _ _ _ _, kH => execSlabNormalWrite_keeps kH
  | .slabSetAliasWrite _ _ _ _, kH => execSlabSetAliasWrite_keeps kH
  | .slabClearAliasWrite _ _ _ _, kH => execSlabClearAliasWrite_keeps kH
  | .uartTxdWrite _ _, kH => execUartTxdWrite_keeps kH
  | .uartRxdRead _, kH => execUartRxdRead_keeps kH
  | .timCmpWrite _ _ _, kH => execTimCmpWrite_keeps kH
  | .timPeriodWrite _ _, kH => execTimPeriodWrite_keeps kH
  | .sysGetCaps _, kH => execSysGetCaps_keeps kH
  | .sysGetStatus _, kH => execSysGetStatus_keeps kH
  | .sysReset _, kH => execSysReset_keeps kH
  | .sysSetState _, kH => execSysSetState_keeps kH
  | .sysConfigBuild _, kH => execSysConfigBuild_keeps kH
  | .sysConfigCommit _, kH => execSysConfigCommit_keeps kH
  | .sysConfigErase _, kH => execSysConfigErase_keeps kH
  | .norRegionUpdateDone _ _, kH => execNorRegionUpdateDone_keeps kH
  | .sysEcho _, kH => execSysEcho_keeps kH
  | .safeGetStatus _, kH => execSafeGetStatus_keeps kH
  | .safeGetFaults _, kH => execSafeGetFaults_keeps kH
  | .safeAckFaults _, kH => execSafeAckFaults_keeps kH
  | .safeSetLock _, kH => execSafeSetLock_keeps kH
  | .safeProvision _, kH => execSafeProvision_keeps kH
  | .safeRecover _, kH => execSafeRecover_keeps kH
  | .safeInject _, kH => execSafeInject_keeps kH
  | .safeUpdate _, kH => execSafeUpdate_keeps kH
  | .safeUpdateWrite _, kH => execSafeUpdateWrite_keeps kH
  | .safeUpdateImageComplete _, kH => execSafeUpdateImageComplete_keeps kH
  | .safeDebugUnlock _, kH => execSafeDebugUnlock_keeps kH
  | .snapStrike _, kH => execSnapStrike_keeps kH
  | .snapSetSources _, kH => execSnapSetSources_keeps kH
  | .snapRead _, kH => execSnapRead_keeps kH
  | .snapGetStatus _, kH => execSnapGetStatus_keeps kH
  | .slabGetStatus _, kH => execSlabGetStatus_keeps kH
  | .slabRead _, kH => execSlabRead_keeps kH
  | .slabWrite _, kH => execSlabWrite_keeps kH
  | .slabRepair _, kH => execSlabRepair_keeps kH
  | .slabScrub _, kH => execSlabScrub_keeps kH
  | .slabScrubPassDone _ _ _ _, kH => execSlabScrubPassDone_keeps kH
  | .timeGet _, kH => execTimeGet_keeps kH
  | .timeSetEpoch _, kH => execTimeSetEpoch_keeps kH
  | .timeSetRate _, kH => execTimeSetRate_keeps kH
  | .timeSetRefs _, kH => execTimeSetRefs_keeps kH
  | .timeGetRefs _, kH => execTimeGetRefs_keeps kH
  | .timeSetRa _, kH => execTimeSetRa_keeps kH
  | .timeMessage _ _ _, kH => execTimeMessage_keeps kH
  | .refEdge _ _ _, kH => execRefEdge_keeps kH
  | .refEdgeTimeout _, kH => execRefEdgeTimeout_keeps kH
  | .refQualified _, kH => execRefQualified_keeps kH
  | .slewDone, kH => execSlewDone_keeps kH
  | .ppsEdge _ _, kH => execPpsEdge_keeps kH
  | .ppsLoss, kH => execPpsLoss_keeps kH
  | .blockTick, kH => execBlockTick_keeps kH
  | .rateChangeStart, kH => execRateChangeStart_keeps kH
  | .mpllRelockDone _, kH => execMpllRelockDone_keeps kH
  | .maxWaitExpiry _, kH => execMaxWaitExpiry_keeps kH
  | .ambientEstimate _, kH => execAmbientEstimate_keeps kH
  | .fallbackSwitch _ _, kH => execFallbackSwitch_keeps kH
  | .fallbackAutoRestore _ _, kH => execFallbackAutoRestore_keeps kH
  | .zoneDrainDone _, kH => execZoneDrainDone_keeps kH
  | .tileCrcCheckDone _ _, kH => execTileCrcCheckDone_keeps kH
  | .rollbackRerender _, kH => execRollbackRerender_keeps kH
  | .kernelBudgetExpiry _ _, kH => execKernelBudgetExpiry_keeps kH
  | .illegalWord _ _, kH => execIllegalWord_keeps kH
  | .nop _ _, kH => execNop_keeps kH
  | .mul _ _ _ _ _ _, kH => execMul_keeps kH
  | .mad _ _ _ _ _ _, kH => execMad_keeps kH
  | .mul4 _ _ _, kH => execMul4_keeps kH
  | .mad4 _ _ _, kH => execMad4_keeps kH
  | .fir4 _ _ _, kH => execFir4_keeps kH
  | .zero4 _ _, kH => execZero4_keeps kH
  | .addw _ _ os _ _, kH => execAddw_keeps (_os := os) kH
  | .subw _ _ os _ _, kH => execSubw_keeps (_os := os) kH
  | .negw _ ws os _ _, kH => execNegw_keeps (_ws := ws) (_os := os) kH
  | .absw _ ws os _ _, kH => execAbsw_keeps (_ws := ws) (_os := os) kH
  | .zeroW _ ws os _ _, kH => execZeroW_keeps (_ws := ws) (_os := os) kH
  | .wld _ ws _ _ _, kH => execWld_keeps (_ws := ws) kH
  | .wst _ ws _ _ _, kH => execWst_keeps (_ws := ws) kH
  | .rndw _ ws os _ _, kH => execRndw_keeps (_ws := ws) (_os := os) kH
  | .shw _ _ _ _, kH => execShw_keeps kH
  | .addwi _ _ _ _, kH => execAddwi_keeps kH
  | .andOp _ _ imm _ _, kH => execAndOp_keeps (_imm := imm) kH
  | .orOp _ _ imm _ _, kH => execOrOp_keeps (_imm := imm) kH
  | .xorOp _ _ imm _ _, kH => execXorOp_keeps (_imm := imm) kH
  | .lsh _ os _ _ _, kH => execLsh_keeps (_os := os) kH
  | .amov _ _ _ _, kH => execAmov_keeps kH
  | .padd _ _ _ _, kH => execPadd_keeps kH
  | .setcfg _ _ _, kH => execSetcfg_keeps kH
  | .rdfl _ os imm _ _, kH => execRdfl_keeps (_os := os) (_imm := imm) kH
  | .clrfl _ _ _, kH => execClrfl_keeps kH
  | .ldo _ _, kH => execLdo_keeps kH
  | .lda _ _, kH => execLda_keeps kH
  | .jmp _ _ _, kH => execJmp_keeps kH
  | .jeq _ _ _ _, kH => execJeq_keeps kH
  | .jne _ _ _ _, kH => execJne_keeps kH
  | .jlt _ _ _ _, kH => execJlt_keeps kH
  | .jge _ _ _ _, kH => execJge_keeps kH
  | .jle _ _ _ _, kH => execJle_keeps kH
  | .jgt _ _ _ _, kH => execJgt_keeps kH
  | .cntb _ _ _ _, kH => execCntb_keeps kH
  | .rpn _ _ _, kH => execRpn_keeps kH
  | .rpni _ _ _, kH => execRpni_keeps kH
  | .jsr _ _ _, kH => execJsr_keeps kH
  | .ret _ _, kH => execRet_keeps kH
  | .doneOp _ _, kH => execDoneOp_keeps kH
  | .endOp _, kH => execEndOp_keeps kH
  | .tileOp _ _ _, kH => execTileOp_keeps kH
  | .gap _ _, kH => execGap_keeps kH
  | .joinOp _ _ _ _ _ _, kH => execJoinOp_keeps kH
  | .pitch _ _, kH => execPitch_keeps kH
  | .tempo _ _, kH => execTempo_keeps kH
  | .levelOp _ _, kH => execLevelOp_keeps kH
  | .tone _ _ _ _, kH => execTone_keeps kH
  | .sync _ _ _ _ _ _, kH => execSync_keeps kH
  | .syncSatisfied _ _, kH => execSyncSatisfied_keeps kH
  | .loopOp _ _ _, kH => execLoopOp_keeps kH
  | .lang _ _ _, kH => execLang_keeps kH
  | .tileDecisionPoint _, kH => execTileDecisionPoint_keeps kH
  | .tileBoundary _, kH => execTileBoundary_keeps kH
  | .commandApply, kH => execCommandApply_keeps kH
  | .voiceSetParam _, kH => execVoiceSetParam_keeps kH
  | .voiceGetParams _, kH => execVoiceGetParams_keeps kH
  | .voiceRelease _, kH => execVoiceRelease_keeps kH
  | .voiceStop _, kH => execVoiceStop_keeps kH
  | .voiceGetLevels _, kH => execVoiceGetLevels_keeps kH
  | .voiceGetStatus _, kH => execVoiceGetStatus_keeps kH
  | .bankLoad _, kH => execBankLoad_keeps kH
  | .bankWrite _, kH => execBankWrite_keeps kH
  | .bankImageComplete _, kH => execBankImageComplete_keeps kH
  | .bankUnload _, kH => execBankUnload_keeps kH
  | .bankVerify _, kH => execBankVerify_keeps kH
  | .bankVerifyDone _, kH => execBankVerifyDone_keeps kH
  | .bankGetInfo _, kH => execBankGetInfo_keeps kH
  | .bankList _, kH => execBankList_keeps kH
  | .jobSubmit _, kH => execJobSubmit_keeps kH
  | .jobAbort _, kH => execJobAbort_keeps kH
  | .jobRelease _, kH => execJobRelease_keeps kH
  | .jobGetStatus _, kH => execJobGetStatus_keeps kH
  | .jobList _, kH => execJobList_keeps kH
  | .jobGetStats _, kH => execJobGetStats_keeps kH
  | .jobSetPolicy _, kH => execJobSetPolicy_keeps kH
  | .jobScriptEdit _, kH => execJobScriptEdit_keeps kH
  | .jobSquall _, kH => execJobSquall_keeps kH
  | .jobSquallEnd _, kH => execJobSquallEnd_keeps kH
  | .jobArm _, kH => execJobArm_keeps kH
  | .jobDisarm _, kH => execJobDisarm_keeps kH
  | .jobSetSquall _, kH => execJobSetSquall_keeps kH
  | .mixSetTaps _, kH => execMixSetTaps_keeps kH
  | .mixClear _, kH => execMixClear_keeps kH
  | .mixGetTaps _, kH => execMixGetTaps_keeps kH
  | .mixGetBitmap _, kH => execMixGetBitmap_keeps kH
  | .mixOpenSet _, kH => execMixOpenSet_keeps kH
  | .mixCommitSet _, kH => execMixCommitSet_keeps kH
  | .mixCancelSet _, kH => execMixCancelSet_keeps kH
  | .mixSetClass _, kH => execMixSetClass_keeps kH
  | .mixSetGen _, kH => execMixSetGen_keeps kH
  | .mixRouteAux _, kH => execMixRouteAux_keeps kH
  | .mixGetClip _, kH => execMixGetClip_keeps kH
  | .mixGetStats _, kH => execMixGetStats_keeps kH
  | .zoneEnable _, kH => execZoneEnable_keeps kH
  | .zoneSetInputs _, kH => execZoneSetInputs_keeps kH
  | .zoneSetGate _, kH => execZoneSetGate_keeps kH
  | .zoneSetAmbient _, kH => execZoneSetAmbient_keeps kH
  | .zoneSetEq _, kH => execZoneSetEq_keeps kH
  | .zoneLoadFir _, kH => execZoneLoadFir_keeps kH
  | .zoneSetFir _, kH => execZoneSetFir_keeps kH
  | .zoneSetDyn _, kH => execZoneSetDyn_keeps kH
  | .zoneSetDelay _, kH => execZoneSetDelay_keeps kH
  | .zoneSetGain _, kH => execZoneSetGain_keeps kH
  | .zoneSetPilot _, kH => execZoneSetPilot_keeps kH
  | .zoneSetOutputs _, kH => execZoneSetOutputs_keeps kH
  | .zoneRestore _, kH => execZoneRestore_keeps kH
  | .zoneSetGroup _, kH => execZoneSetGroup_keeps kH
  | .zoneGetConfig _, kH => execZoneGetConfig_keeps kH
  | .zoneGetStatus _, kH => execZoneGetStatus_keeps kH
  | .kernelStage _, kH => execKernelStage_keeps kH
  | .kernelWrite _, kH => execKernelWrite_keeps kH
  | .kernelImageComplete, kH => execKernelImageComplete_keeps kH
  | .kernelLoad _, kH => execKernelLoad_keeps kH
  | .kernelRestoreStd _, kH => execKernelRestoreStd_keeps kH
  | .kernelBrickLoad _, kH => execKernelBrickLoad_keeps kH
  | .kernelCancel _, kH => execKernelCancel_keeps kH
  | .kernelGetInfo _, kH => execKernelGetInfo_keeps kH
  | .portConfig _, kH => execPortConfig_keeps kH
  | .portStart _, kH => execPortStart_keeps kH
  | .portStop _, kH => execPortStop_keeps kH
  | .portSetGroup _, kH => execPortSetGroup_keeps kH
  | .portSetLength _, kH => execPortSetLength_keeps kH
  | .portGetStatus _, kH => execPortGetStatus_keeps kH
  | .aportFrameBoundary _ _, kH => execAportFrameBoundary_keeps kH
  | .aportInputFrame _ _ _, kH => execAportInputFrame_keeps kH
  | .aportDataStart _, kH => execAportDataStart_keeps kH
  | .aportStopDone _, kH => execAportStopDone_keeps kH
  | .aportFsTimeout _, kH => execAportFsTimeout_keeps kH
  | .aportClockBack _, kH => execAportClockBack_keeps kH
  | .aportRateMeasure _ _, kH => execAportRateMeasure_keeps kH
  | .anaConfig _, kH => execAnaConfig_keeps kH
  | .anaEnable _, kH => execAnaEnable_keeps kH
  | .anaSetRange _, kH => execAnaSetRange_keeps kH
  | .anaTrim _, kH => execAnaTrim_keeps kH
  | .anaGetStatus _, kH => execAnaGetStatus_keeps kH
  | .anaUpdate _ _, kH => execAnaUpdate_keeps kH
  | .anaSettleDone _, kH => execAnaSettleDone_keeps kH
  | .anaMuteRampDone _, kH => execAnaMuteRampDone_keeps kH
  | .anaComplianceDetect _, kH => execAnaComplianceDetect_keeps kH
  | .anaComplianceClear _, kH => execAnaComplianceClear_keeps kH
  | .anaLoadWindow _ _, kH => execAnaLoadWindow_keeps kH
  | .anaTrimChannelDone _ _, kH => execAnaTrimChannelDone_keeps kH
  | .timConfig _, kH => execTimConfig_keeps kH
  | .timStart _, kH => execTimStart_keeps kH
  | .timStop _, kH => execTimStop_keeps kH
  | .timSetCmp _, kH => execTimSetCmp_keeps kH
  | .timGet _, kH => execTimGet_keeps kH
  | .timerClock _, kH => execTimerClock_keeps kH
  | .timerLinkAction _, kH => execTimerLinkAction_keeps kH
  | .timerPulseEnd _, kH => execTimerPulseEnd_keeps kH
  | .uartConfig _, kH => execUartConfig_keeps kH
  | .uartEnable _, kH => execUartEnable_keeps kH
  | .uartSend _, kH => execUartSend_keeps kH
  | .uartRecv _, kH => execUartRecv_keeps kH
  | .uartSetFramed _, kH => execUartSetFramed_keeps kH
  | .uartGetStatus _, kH => execUartGetStatus_keeps kH
  | .uartCharReceived _ _ _ _ _ _, kH => execUartCharReceived_keeps kH
  | .xoffGenerate _, kH => execXoffGenerate_keeps kH
  | .uartCharSent _, kH => execUartCharSent_keeps kH
  | .deRelease, kH => execDeRelease_keeps kH
  | .uartBreakDetect _, kH => execUartBreakDetect_keeps kH
  | .uartLineStuckDetect _, kH => execUartLineStuckDetect_keeps kH
  | .uartWakeEdge _, kH => execUartWakeEdge_keeps kH
  | .uartKcpFrame _ _, kH => execUartKcpFrame_keeps kH
  | .uartFrameGapTimeout, kH => execUartFrameGapTimeout_keeps kH
  | .contactConfig _, kH => execContactConfig_keeps kH
  | .contactSetOut _, kH => execContactSetOut_keeps kH
  | .contactGet _, kH => execContactGet_keeps kH
  | .contactSenseWindow _, kH => execContactSenseWindow_keeps kH
  | .supvSetPilot _, kH => execSupvSetPilot_keeps kH
  | .supvSetPath _, kH => execSupvSetPath_keeps kH
  | .supvBaseline _, kH => execSupvBaseline_keeps kH
  | .baselineTimeout, kH => execBaselineTimeout_keeps kH
  | .supvGetPaths _, kH => execSupvGetPaths_keeps kH
  | .supvSetDew _, kH => execSupvSetDew_keeps kH
  | .supvGetDew _, kH => execSupvGetDew_keeps kH
  | .pilotWindowEnd _ _ _, kH => execPilotWindowEnd_keeps kH
  | .avuHop _ _ _ _ _ _ _, kH => execAvuHop_keeps kH
  | .avuPathFault _, kH => execAvuPathFault_keeps kH
  | .avuPathOk _, kH => execAvuPathOk_keeps kH
  | .avuPathChange _, kH => execAvuPathChange_keeps kH
  | .dewWindowOpen, kH => execDewWindowOpen_keeps kH
  | .dewStepDone _ _, kH => execDewStepDone_keeps kH
  | .dewRestart _, kH => execDewRestart_keeps kH
  | .dewWindowClose, kH => execDewWindowClose_keeps kH
  | .ageGetPlan _, kH => execAgeGetPlan_keeps kH
  | .ageGetLog _, kH => execAgeGetLog_keeps kH
  | .ageSetLimits _, kH => execAgeSetLimits_keeps kH
  | .ageGetSensors _, kH => execAgeGetSensors_keeps kH
  | .ageHour, kH => execAgeHour_keeps kH
  | .derateRelease, kH => execDerateRelease_keeps kH
  | .eclkChange, kH => execEclkChange_keeps kH
  | .avsReadback _ _ _, kH => execAvsReadback_keeps kH
  | .ringSensorRead _, kH => execRingSensorRead_keeps kH
  | .thermalRead _, kH => execThermalRead_keeps kH
  | .canaryRead _, kH => execCanaryRead_keeps kH
  | .courseConfig _, kH => execCourseConfig_keeps kH
  | .courseGetStatus _, kH => execCourseGetStatus_keeps kH
  | .courseSetOffset _, kH => execCourseSetOffset_keeps kH
  | .courseMapGroup _, kH => execCourseMapGroup_keeps kH
  | .courseSetTwin _, kH => execCourseSetTwin_keeps kH
  | .courseFrameSend, kH => execCourseFrameSend_keeps kH
  | .courseFrameReceived _ _, kH => execCourseFrameReceived_keeps kH
  | .courseMsgStatus _ _ _ _ _ _, kH => execCourseMsgStatus_keeps kH
  | .courseMsgTopo _ _ ring, kH => execCourseMsgTopo_keeps (_ring := ring) kH
  | .courseMsgTime _ _, kH => execCourseMsgTime_keeps kH
  | .courseMsgSquall _ _, kH => execCourseMsgSquall_keeps kH
  | .courseMsgSiteJob _ _ _ _ _, kH => execCourseMsgSiteJob_keeps kH
  | .courseMsgSiteCmd _ _ _ _, kH => execCourseMsgSiteCmd_keeps kH
  | .courseMsgGroupMap _ _ _, kH => execCourseMsgGroupMap_keeps kH
  | .courseMsgStrike _ _ _, kH => execCourseMsgStrike_keeps kH
  | .courseMsgSig _ _ _, kH => execCourseMsgSig_keeps kH
  | .courseMsgPartDone _ _ _, kH => execCourseMsgPartDone_keeps kH
  | .courseMsgMigrate _ _ _, kH => execCourseMsgMigrate_keeps kH
  | .coursePortDown _, kH => execCoursePortDown_keeps kH
  | .coursePortUp _, kH => execCoursePortUp_keeps kH
  | .keystoneLost, kH => execKeystoneLost_keeps kH
  | .twinCheckDone _, kH => execTwinCheckDone_keeps kH
  | .twinTakeoverStart, kH => execTwinTakeoverStart_keeps kH
  | .streamConfig _, kH => execStreamConfig_keeps kH
  | .streamTrain _, kH => execStreamTrain_keeps kH
  | .streamTrainingDone _ _ _ _, kH => execStreamTrainingDone_keeps kH
  | .streamGetStatus _, kH => execStreamGetStatus_keeps kH
  | .streamMap _, kH => execStreamMap_keeps kH
  | .streamFlitReceived _ _ _, kH => execStreamFlitReceived_keeps kH
  | .streamAudioFrameRx _ _ _ _, kH => execStreamAudioFrameRx_keeps kH
  | .streamAudioFrameTx, kH => execStreamAudioFrameTx_keeps kH
  | .streamLaneFail _ _, kH => execStreamLaneFail_keeps kH
  | .streamClockAbsent, kH => execStreamClockAbsent_keeps kH
  | .strikeInEdge _, kH => execStrikeInEdge_keeps kH
  | .strikeLatch, kH => execStrikeLatch_keeps kH
  | .strikeComplete _, kH => execStrikeComplete_keeps kH
  | .safetyDetection _ _ _ _ _, kH => execSafetyDetection_keeps kH
  | .faultLogWrite, kH => execFaultLogWrite_keeps kH
  | .safeAliveToggle _, kH => execSafeAliveToggle_keeps kH
  | .bankRetrain _, kH => execBankRetrain_keeps kH
  | .bankAvailable, kH => execBankAvailable_keeps kH
  | .vaultWordRestore _ _, kH => execVaultWordRestore_keeps kH
  | .scrubWord _ _ _ _, kH => execScrubWord_keeps kH
  | .scrubStarved, kH => execScrubStarved_keeps kH
  | .marchWindow _ _ _, kH => execMarchWindow_keeps kH
  | .testStarved, kH => execTestStarved_keeps kH
  | .bankPatrolRead _ _, kH => execBankPatrolRead_keeps kH
  | .mpllLossOfLock, kH => execMpllLossOfLock_keeps kH
  | .courseLaneAlignmentLoss _ _, kH => execCourseLaneAlignmentLoss_keeps kH
  | .uartFalseStart _, kH => execUartFalseStart_keeps kH
  | .uartLineReturnToIdle _, kH => execUartLineReturnToIdle_keeps kH
  | .squallSequenceTimeout, kH => execSquallSequenceTimeout_keeps kH
  | .injectedFaultHoldExpiry _, kH => execInjectedFaultHoldExpiry_keeps kH
  | .fieldRepairComplete _ _, kH => execFieldRepairComplete_keeps kH
  | .configEraseDone _, kH => execConfigEraseDone_keeps kH

theorem exec_keeps_mt {c : Instr} {s t : State} (hc : movesMediaTime c = false) (h : exec c s = .next t) :
    t.time.mt = s.time.mt := by
  obtain ⟨u, hu, -, -, -, -, hmt⟩ := exec_keeps c (Keeps.refl (!movesMediaTime c) s)
  obtain rfl : t = u := by simpa [h] using hu
  exact hmt (by rw [hc]; rfl)

/-- Settles O6: what the lemma about each command's meaning says of media time. -/
theorem mediaTimeKept : Obligations.MediaTimeKept := by
  intro c s t h hc
  have hm : movesMediaTime c = false := by
    unfold movesMediaTime
    split
    case h_10 => rfl
    all_goals exact False.elim hc
  exact exec_keeps_mt hm h

end Sys2Proof.Machine
end

/-! SUPPORT and CERTIFICATES. Single field stores, the told time of a cascade, and the rows of the MPLL, the slew and the epoch. -/

section
namespace Sys2Proof.Machine

theorem onlyStores.one (s : State) (f : Fld) (v w : Nat) (hfit : f.lo + f.width ≤ 32) (hw : v % 2 ^ f.width = w) :
    onlyStores [(f, w)] s (s.put f v) :=
  (onlyStores.nil s).put f v w hfit hw fun _ hp => absurd hp List.not_mem_nil

theorem onlyStores.set {l : List (Fld × Nat)} {s t : State} (h : onlyStores l s t) (f : Fld) (b : Bool)
    (hfit : f.lo + f.width ≤ 32) (hone : f.width = 1)
    (hap : ∀ p ∈ l, p.1.lo + p.1.width ≤ 32 ∧ (p.1.addr ≠ f.addr ∨ f.lo + f.width ≤ p.1.lo ∨ p.1.lo + p.1.width ≤ f.lo)) :
    onlyStores (l ++ [(f, b2n b)]) s (t.set f b) :=
  h.put f _ _ hfit (by rw [hone]; cases b <;> rfl) hap

theorem onlyStores.oneSet (s : State) (f : Fld) (b : Bool) (hfit : f.lo + f.width ≤ 32) (hone : f.width = 1) :
    onlyStores [(f, b2n b)] s (s.set f b) :=
  (onlyStores.nil s).set f b hfit hone fun _ hp => absurd hp List.not_mem_nil

theorem onlyStores.bumpSat {l : List (Fld × Nat)} {s t : State} (h : onlyStores l s t) (f : Fld) {k : Nat}
    (hfit : f.lo + f.width ≤ 32)
    (hap : ∀ p ∈ l, p.1.lo + p.1.width ≤ 32 ∧ (p.1.addr ≠ f.addr ∨ f.lo + f.width ≤ p.1.lo ∨ p.1.lo + p.1.width ≤ f.lo)) :
    onlyStores (l ++ [(f, min (2 ^ f.width - 1) (s.get f + k))]) s (t.bumpSat f k) := by
  have hget : t.get f = s.get f := h.2.2.get f fun g hg => by
    obtain ⟨p, hp, rfl⟩ := List.mem_map.1 hg
    rcases (hap p hp).2 with h | h | h
    exacts [.inl h, .inr (.inr h), .inr (.inl h)]
  refine h.put f _ _ hfit ?_ hap
  have := Nat.two_pow_pos f.width
  rw [hget, satInc]
  exact Nat.mod_eq_of_lt (by omega)

/-! The mode while a reference is followed (R36). -/

theorem State.lockCheck_of_tcxo {s : State} (h : s.src = 3) : s.lockCheck = s := if_pos h

theorem State.lockCheck_locks {s : State} (h : s.src ≠ 3) (hlock : s.flag F.TIME_STATUS_MPLL_LOCK = true)
    (hslew : s.flag F.TIME_STATUS_SLEWING = false) (hacq : s.time.acquiring = false) :
    onlyStores [(F.TIME_STATUS_MODE, Mode.locked)] { s with time := { s.time with everLocked := true } } s.lockCheck := by
  rw [State.lockCheck, if_neg h, if_pos (by simp [hlock, hslew, hacq])]
  exact .one { s with time := { s.time with everLocked := true } } _ _ _ (by decide) rfl

theorem State.lockCheck_acquires {s : State} (h : s.src ≠ 3)
    (hwait : s.flag F.TIME_STATUS_MPLL_LOCK = false ∨ s.flag F.TIME_STATUS_SLEWING = true ∨ s.time.acquiring = true) :
    onlyStores [(F.TIME_STATUS_MODE, Mode.acquire)] s s.lockCheck := by
  rw [State.lockCheck, if_neg h, if_neg (by rcases hwait with h | h | h <;> simp [h])]
  exact .one _ _ _ _ (by decide) rfl

/-! The MPLL and the end of a slew (R36, R37, R41). -/

theorem exec_slewDone (s : State) : exec .slewDone s =
    .next (if s.flag F.TIME_STATUS_SLEWING then (s.set F.TIME_STATUS_SLEWING false).lockCheck else s) := rfl

theorem exec_mpllLossOfLock (s : State) : exec .mpllLossOfLock s = .next (
    if s.running ∧ s.flag F.TIME_STATUS_MPLL_LOCK then
      ((s.set F.TIME_STATUS_MPLL_LOCK false).set F.TIME_FLAGS_MPLL_UNLOCK).lockCheck
    else s) := rfl

theorem exec_mpllRelockDone_of_idle {s : State} (us : Nat) (h : s.running = false) : exec (.mpllRelockDone us) s = .next s := by
  show execMpllRelockDone us s = _
  rw [execMpllRelockDone, if_pos (by simp [h])]

/-- A relock counts and records its time, and a rate change no longer waits for it. -/
theorem exec_mpllRelockDone_of_running {s b : State} (us : Nat) (h : s.running = true)
    (hb : b = { s with time := { s.time with rate := s.time.rate.map fun r => { r with relock := false } } }) : ∃ t,
    onlyStores [(F.TIME_STATUS_MPLL_LOCK, 1), (F.TIME_MPLL_RELOCK_CNT, min 65535 (s.get F.TIME_MPLL_RELOCK_CNT + 1)),
        (F.TIME_MPLL_LAST_LOCK_US, min 65535 us)] b t ∧
      exec (.mpllRelockDone us) s = .next t.lockCheck := by
  subst hb
  have hus : min 65535 us % 2 ^ 16 = min 65535 us := Nat.mod_eq_of_lt (by omega)
  refine ⟨_, ((onlyStores.oneSet _ F.TIME_STATUS_MPLL_LOCK true (by decide) rfl).bumpSat F.TIME_MPLL_RELOCK_CNT (by decide)
    (by simp +decide)).put F.TIME_MPLL_LAST_LOCK_US _ _ (by decide) hus (by simp +decide), ?_⟩
  show execMpllRelockDone us s = _
  rw [execMpllRelockDone, if_neg (by simp [h])]
  rfl

/-! The epoch's arming (R44, R535). -/

/-- What decides for a cascade lies in the course link's registers, which no word of another block changes. -/
theorem State.leads_congr {s t : State} (hv : t.variant = s.variant) (hc : t.course = s.course)
    (hr : ∀ a, 0x4b000 ≤ a → a < 0x4c000 → t.rd a = s.rd a) : t.leads = s.leads := by
  have hget : ∀ f : Fld, 0x4b000 ≤ f.addr → f.addr < 0x4c000 → t.flag f = s.flag f := fun f h h' => by
    unfold State.flag State.get
    rw [hr _ h h']
  unfold State.leads State.isKeystone State.cascade State.standby
  rw [hv, hc, hget _ (by decide) (by decide), hget F.CRSE_STATUS_IS_KEYSTONE (by decide) (by decide),
    hget F.CRSE_CTRL_TWIN_EN (by decide) (by decide)]

theorem State.tellTime_time (s : State) (c : TimeChange) : (s.tellTime c).time = s.time := by
  unfold State.tellTime State.courseSend
  split
  · split <;> rfl
  · rfl

theorem State.tellTime_of_not_leads {s : State} (c : TimeChange) (h : s.leads = false) : s.tellTime c = s := by
  rw [State.tellTime, if_neg (by simp [h])]

/-- Posting an event writes the host block and the stream link alone. -/
theorem eventWord_eq_false {a : Nat} (h : 0x4000 ≤ a) (h' : a < 0x4a000 ∨ 0x4b000 ≤ a) : eventWord a = false := by
  simp only [eventWord, Bool.or_eq_false_iff, decide_eq_false_iff_not]
  simp only [R.EVQ_STATUS, R.EVQ_LOST_TOTAL, R.HOST_IRQ_STAT, R.STRM_VC_CREDIT, R.STRM_VC_TXCNT]
  omega

theorem State.leads_put (s : State) (f : Fld) (v : Nat) (h : f.addr < 0x4b000) : (s.put f v).leads = s.leads :=
  State.leads_congr rfl rfl fun a ha _ => s.rd_put_ne f v (by omega)

/-- A load that a command left pending is reported, and nothing else happens to it (R535). -/
theorem State.dropEpoch_of_command {s : State} {e : EpochLoad} (he : s.time.epoch = some e) (hc : e.byCommand = true) :
    s.dropEpoch = s.post 0x1405 0xFFFF [lo32 e.value, hi32 e.value, 1] := by
  rw [State.dropEpoch, he]
  exact if_pos hc

theorem State.dropEpoch_of_none {s : State} (h : ∀ e, s.time.epoch = some e → e.byCommand = false) : s.dropEpoch = s := by
  unfold State.dropEpoch
  split
  · next e he => rw [if_neg (by simp [h e he])]
  · rfl

/-- Dropping a pending load changes nothing but what posting an event may write. -/
theorem State.dropEpoch_posted (s : State) : Posted s s.dropEpoch := by
  unfold State.dropEpoch
  split
  · split
    · exact s.post_posted _ _ _
    · exact .refl s
  · exact .refl s

theorem Posted.get {s t : State} (h : Posted s t) {f : Fld} (hf : eventWord f.addr = false) : t.get f = s.get f := by
  unfold State.get
  rw [h.2 _ hf]

theorem Posted.time {s t : State} (h : Posted s t) : t.time = s.time := by rw [h.1]

theorem Posted.variant {s t : State} (h : Posted s t) : t.variant = s.variant := by rw [h.1]

theorem Posted.leads {s t : State} (h : Posted s t) : t.leads = s.leads :=
  State.leads_congr h.variant (by rw [h.1]) fun a ha ha' => h.2 a (eventWord_eq_false (by omega) (.inr ha))

theorem State.bl_congr {s t : State} (h : t.rd R.TIME_RATE = s.rd R.TIME_RATE) : t.bl = s.bl := by
  simp only [State.bl, State.rate, State.get, F.TIME_RATE_RATE, h]

theorem State.toldBlock_congr {s t : State} (hmt : t.time.mt = s.time.mt) (hrate : t.rd R.TIME_RATE = s.rd R.TIME_RATE)
    (hpipe : t.rd R.TIME_PIPE = s.rd R.TIME_PIPE) : t.toldBlock = s.toldBlock := by
  simp only [State.toldBlock, State.blockNow, State.blockOf, State.pOff, State.get, F.TIME_PIPE_P, State.bl_congr hrate, hmt, hpipe]

/-- Arming replaces a pending load, and leaves alone what decides for a cascade and where the block stands. -/
theorem State.armed_keeps (s : State) : ∀ t, t = s.dropEpoch.set F.TIME_EPOCH_CTRL_ARM →
    t.time = s.time ∧ t.leads = s.leads ∧ t.flag F.TIME_EPOCH_CTRL_WHEN = s.flag F.TIME_EPOCH_CTRL_WHEN ∧ t.bl = s.bl ∧
      t.toldBlock = s.toldBlock := by
  rintro t rfl
  have hp := s.dropEpoch_posted
  have hrd : ∀ {a}, a ≠ F.TIME_EPOCH_CTRL_ARM.addr → eventWord a = false →
      (s.dropEpoch.set F.TIME_EPOCH_CTRL_ARM).rd a = s.rd a := fun h he => (State.rd_set_ne _ _ _ h).trans (hp.2 _ he)
  refine ⟨hp.time, (State.leads_put _ _ _ (by decide)).trans hp.leads, ?_, State.bl_congr (hrd (by decide) rfl),
    State.toldBlock_congr (congrArg TimeSt.mt hp.time) (hrd (by decide) rfl) (hrd (by decide) rfl)⟩
  unfold State.flag
  rw [State.get_set_apart _ _ _ _ (by decide), hp.get rfl]

/-- An epoch armed where this device does not decide for a cascade, or for a PPS edge: it waits for its instant. -/
theorem exec_epochArm_waits {s : State} (h : s.leads = false ∨ s.flag F.TIME_EPOCH_CTRL_WHEN = true) :
    exec .epochArm s = .next { s.dropEpoch.set F.TIME_EPOCH_CTRL_ARM with time := { s.time with
      epoch := some ⟨s.rd64 R.TIME_EPOCH_LO R.TIME_EPOCH_HI, s.flag F.TIME_EPOCH_CTRL_WHEN, s.time.mt, false⟩ } } := by
  show execEpochArm s = _
  unfold execEpochArm
  dsimp only
  generalize hn : s.dropEpoch.set F.TIME_EPOCH_CTRL_ARM = n
  obtain ⟨htime, hleads, hwhen, -, -⟩ := s.armed_keeps n hn.symm
  rw [hwhen, hleads, htime, if_neg (by rcases h with h | h <;> simp [h])]

/-- An epoch armed on the keystone of a cascade: the load waits for the tick by which every course knows. -/
theorem exec_epochArm_told {s : State} (h : s.leads = true) (hpps : s.flag F.TIME_EPOCH_CTRL_WHEN = false) : ∃ t,
    exec .epochArm s = .next t ∧ t.time = { s.time with
      epoch := some ⟨s.rd64 R.TIME_EPOCH_LO R.TIME_EPOCH_HI, false, (s.blockNow + s.pOff + 1) * s.bl - 1, false⟩ } := by
  refine ⟨_, rfl, ?_⟩
  dsimp only
  generalize hn : s.dropEpoch.set F.TIME_EPOCH_CTRL_ARM = n
  obtain ⟨htime, hleads, hwhen, hbl, htold⟩ := s.armed_keeps n hn.symm
  rw [hwhen, hleads, if_pos (by simp [h, hpps]), State.tellTime_time, State.startOf, hbl, htold, htime]
  rfl

/-! The start of a rate change (R41). -/

theorem exec_rateChangeStart_of_none {s : State} (h : s.time.rate = none) : exec .rateChangeStart s = .next s := by
  show execRateChangeStart s = _
  rw [execRateChangeStart, h]

theorem State.rateBegin_of_ramped {s : State} {r : RateChange} (hr : s.time.rate = some r) (h : r.ramped = true) :
    s.rateBegin = s := by
  rw [State.rateBegin, hr]
  exact if_pos h

theorem exec_rateChangeStart_of_some {s : State} {r : RateChange} (hr : s.time.rate = some r) :
    exec .rateChangeStart s = .next (if r.blockA ≤ s.commit + 1 then s.rateBegin else s) := by
  show execRateChangeStart s = _
  rw [execRateChangeStart, hr]

/-- Outputs ramp from block A on, the Dew window closes, and a change to a double rate stops the jobs on the slots that it lacks. -/
theorem State.rateBegin_of_due {s : State} {r : RateChange} (hr : s.time.rate = some r) (h : r.ramped = false) : ∃ t u : State,
    onlyStores [(F.TIME_STATUS_RATE_CHANGING, 1)] { s with time := { s.time with rate := some { r with ramped := true } } } t ∧
      u = t.dewClose ∧ s.rateBegin = (
        if Config.double r.code = true ∧ Config.double r.oldCode = false then
          forEach ((u.disp.voices.filter fun v => 64 ≤ v.src % 128).map Voice.record).dedup u fun x w =>
            match w.job? x with
            | some j => w.stopJob j (w.startOf (r.blockA + 1)) 0x08
            | none => w
        else u) := by
  refine ⟨_, _, onlyStores.oneSet _ F.TIME_STATUS_RATE_CHANGING true (by decide) rfl, rfl, ?_⟩
  rw [State.rateBegin, hr]
  dsimp only
  rw [if_neg (by simp [h])]
  simp only [Bool.not_eq_true]
  rfl

/-- Settles O35: what each row does, by the cases in which it acts. -/
theorem clockModesAndRate : Obligations.ClockModesAndRate := by
  refine ⟨fun s => ⟨State.lockCheck_of_tcxo, State.lockCheck_locks, State.lockCheck_acquires⟩, fun s => ⟨fun h => ?_, fun h => ?_⟩,
    fun s => ⟨fun h => ?_, fun h hlock => ?_⟩,
    fun s us => ⟨exec_mpllRelockDone_of_idle us, fun h => exec_mpllRelockDone_of_running us h rfl⟩,
    ?_, fun s => ⟨exec_rateChangeStart_of_none, fun r hr => ⟨fun h => ?_, fun hdue h => ?_⟩⟩⟩
  · rw [exec_slewDone, if_neg (by simp [h])]
  · exact ⟨_, .oneSet _ _ false (by decide) rfl, by rw [exec_slewDone, if_pos h]⟩
  · rw [exec_mpllLossOfLock, if_neg (by rcases h with h | h <;> simp [h])]
  · refine ⟨_, (onlyStores.oneSet s _ false (by decide) rfl).set F.TIME_FLAGS_MPLL_UNLOCK true (by decide) rfl (by simp +decide), ?_⟩
    rw [exec_mpllLossOfLock, if_pos ⟨h, hlock⟩]
  · rintro s b v rfl hpost hkeep
    obtain rfl : b = s.dropEpoch := by
      by_cases hc : ∃ e, s.time.epoch = some e ∧ e.byCommand = true
      · obtain ⟨e, he, hc⟩ := hc
        rw [hpost e he hc, State.dropEpoch_of_command he hc]
      · have hnone : ∀ e, s.time.epoch = some e → e.byCommand = false := by simpa using hc
        rw [hkeep hnone, State.dropEpoch_of_none hnone]
    by_cases h : s.leads = true ∧ s.flag F.TIME_EPOCH_CTRL_WHEN = false
    · obtain ⟨t, ht, htime⟩ := exec_epochArm_told h.1 h.2
      exact ⟨t, ht, fun hw => by rcases hw with hw | hw <;> simp [h] at hw, fun _ _ => htime⟩
    · have hw : s.leads = false ∨ s.flag F.TIME_EPOCH_CTRL_WHEN = true := by
        by_cases hl : s.leads = true
        · exact .inr (by simpa [hl] using h)
        · exact .inl (by simpa using hl)
      exact ⟨_, exec_epochArm_waits hw,
        fun _ => onlyStores.oneSet { s.dropEpoch with time := { s.time with epoch := some ⟨_, _, _, _⟩ } } _ true (by decide) rfl,
        fun hl hf => absurd ⟨hl, hf⟩ h⟩
  · rw [exec_rateChangeStart_of_some hr]
    rcases h with h | h
    · rw [if_neg (by omega)]
    · rw [State.rateBegin_of_ramped hr h, ite_self]
  · rw [exec_rateChangeStart_of_some hr, if_pos hdue]
    obtain ⟨t, u, hstores, hu, hbegin⟩ := State.rateBegin_of_due hr h
    exact ⟨t, u, hstores, hu, congrArg _ hbegin⟩

end Sys2Proof.Machine
end

/-! SUPPORT and CERTIFICATES. The references of media time: edges, qualification, loss, and time messages. -/

section
namespace Sys2Proof.Machine

theorem State.edge_of_ignored {s : State} {n : Nat} (p : Nat) (good : Bool) (x : Int)
    (h : n = 3 ∨ s.refState n = Ref.off ∨ s.running = false) : s.edge n p good x = s := by
  rw [State.edge, if_pos (by rcases h with h | h | h <;> simp [h])]

theorem State.edge_of_bad {s : State} {n : Nat} (p : Nat) (x : Int) (hn : n ≠ 3) (hoff : s.refState n ≠ Ref.off)
    (hrun : s.running = true) : s.edge n p false x = s.badEdge n p := by
  rw [State.edge, if_neg (by simp [hn, hoff, hrun]), if_neg (by simp)]

theorem State.edge_of_good {s t : State} {n : Nat} (p : Nat) (x : Int) (hn : n ≠ 3) (hoff : s.refState n ≠ Ref.off)
    (hrun : s.running = true) (ht : t = s.goodEdge n p) : s.edge n p true x =
      if t.refState n = Ref.selected ∧ ¬ (n = 1 ∧ t.get (F.TIME_REF_CFG_MODE 1) = 1) then t.measure n x else t := by
  rw [State.edge, if_neg (by simp [hn, hoff, hrun]), if_pos rfl, ← ht]

/-! The fields of a reference. -/

theorem State.refTo_self {s : State} {n st : Nat} (h : s.refState n = st) : s.refTo n st = s := if_pos h

theorem State.refTo_of_ne {s : State} {n st : Nat} (h : s.refState n ≠ st) :
    s.refTo n st = (s.put (F.TIME_REF_STAT_STATE n) st).put (F.TIME_REF_LAST_CHANGE_BLOCK n) s.blockNow := if_neg h

/-- A change of state, as the field stores that it makes. -/
theorem State.refTo_stores {s : State} {n st : Nat} (h : s.refState n ≠ st) (hst : st < 2 ^ 4) :
    onlyStores [(F.TIME_REF_STAT_STATE n, st), (F.TIME_REF_LAST_CHANGE_BLOCK n, s.blockNow % 2 ^ 32)] s (s.refTo n st) := by
  rw [State.refTo_of_ne h]
  exact (onlyStores.one s _ st st (by simp [F.TIME_REF_STAT_STATE]) (Nat.mod_eq_of_lt (by exact hst))).put
    (F.TIME_REF_LAST_CHANGE_BLOCK n) _ _ (by simp [F.TIME_REF_LAST_CHANGE_BLOCK]) rfl
    (by simp [F.TIME_REF_STAT_STATE, F.TIME_REF_LAST_CHANGE_BLOCK, R.TIME_REF_STAT, R.TIME_REF_LAST_CHANGE])

/-- A change of state keeps every field but STATE and LAST_CHANGE. -/
theorem State.refTo_kept (s : State) (n st : Nat) :
    fieldsKept [F.TIME_REF_STAT_STATE n, F.TIME_REF_LAST_CHANGE_BLOCK n] s (s.refTo n st) := by
  by_cases h : s.refState n = st
  · rw [State.refTo_self h]
    exact .refl _ _
  · rw [State.refTo_of_ne h]
    exact ((fieldsKept.refl _ s).put _ _ (by simp)).put _ _ (by simp)

/-- A state with another record of media time, which lies outside the register store. -/
def State.withTime (s : State) (x : TimeSt) : State := { s with time := x }

@[simp] theorem State.withTime_time (s : State) (x : TimeSt) : (s.withTime x).time = x := rfl
@[simp] theorem State.withTime_get (s : State) (x : TimeSt) (f : Fld) : (s.withTime x).get f = s.get f := rfl
@[simp] theorem State.withTime_refState (s : State) (x : TimeSt) (n : Nat) : (s.withTime x).refState n = s.refState n := rfl

theorem State.withTime_withTime (s : State) (x y : TimeSt) : (s.withTime x).withTime y = s.withTime y := rfl

theorem fieldsKept.time {fs : List Fld} {s t : State} (h : fieldsKept fs s t) (x : TimeSt) : fieldsKept fs s (t.withTime x) := h

theorem onlyStores.withTime {l : List (Fld × Nat)} {s t : State} (h : onlyStores l s t) (x : TimeSt) :
    onlyStores l (s.withTime x) (t.withTime x) :=
  ⟨congrArg (State.withTime · x) h.1, h.2.1, h.2.2⟩

/-- The fields that show the mean over 256 edges. -/
def meanFields (n : Nat) : List Fld := [F.TIME_REF_PERIOD_PERIOD n, F.TIME_REF_FERR_FERR n, F.TIME_FREQ_CORR]

theorem State.edgeMean_kept (s : State) (n p : Nat) : fieldsKept (meanFields n) s (s.edgeMean n p) := by
  unfold State.edgeMean
  split
  split
  · exact (fieldsKept.refl _ s).time _
  · extract_lets _ _ _ mean _ _ ferr
    have hmean : fieldsKept (meanFields n) s mean := ((fieldsKept.refl _ s).time _).put _ _ (by simp [meanFields])
    have hferr : fieldsKept (meanFields n) s ferr := hmean.put _ _ (by simp [meanFields])
    split
    · exact (hferr.time _).put _ _ (by simp [meanFields])
    · exact hferr

theorem State.refTo_refState (s : State) (n : Nat) {st : Nat} (hst : st < 2 ^ 4) : (s.refTo n st).refState n = st := by
  by_cases h : s.refState n = st
  · rw [State.refTo_self h, h]
  · exact (State.refTo_stores h hst).2.1 (F.TIME_REF_STAT_STATE n, st) (by simp)

theorem State.refRequalify_eq (s : State) (n : Nat) : s.refRequalify n =
    ((s.refTo n Ref.qualifying).put (F.TIME_REF_QUAL_LEFT_QUAL_LEFT n) (s.get (F.TIME_REF_CFG_QUAL_MS n))).withTime
      { (s.refTo n Ref.qualifying).time with qualRun := kput (s.refTo n Ref.qualifying).time.qualRun n 0 } := rfl

theorem State.refRequalify_refState (s : State) (n : Nat) : (s.refRequalify n).refState n = Ref.qualifying := by
  rw [State.refRequalify_eq, State.withTime_refState, State.refState, State.get_put_apart]
  · exact s.refTo_refState n (by decide)
  · simp [F.TIME_REF_STAT_STATE, F.TIME_REF_QUAL_LEFT_QUAL_LEFT, R.TIME_REF_STAT, R.TIME_REF_QUAL_LEFT]

theorem State.refRequalify_kept (s : State) (n : Nat) : fieldsKept
    [F.TIME_REF_STAT_STATE n, F.TIME_REF_LAST_CHANGE_BLOCK n, F.TIME_REF_QUAL_LEFT_QUAL_LEFT n] s (s.refRequalify n) := by
  rw [State.refRequalify_eq]
  exact (((s.refTo_kept n Ref.qualifying).mono (by simp)).put _ _ (by simp)).time _

theorem State.refRequalify_qualLeft (s : State) (n : Nat) :
    (s.refRequalify n).get (F.TIME_REF_QUAL_LEFT_QUAL_LEFT n) = s.get (F.TIME_REF_CFG_QUAL_MS n) := by
  have hlt : s.get (F.TIME_REF_CFG_QUAL_MS n) < 2 ^ (F.TIME_REF_QUAL_LEFT_QUAL_LEFT n).width := bits_lt _ _ _
  rw [State.refRequalify_eq, State.withTime_get, State.get_put_self, Nat.mod_eq_of_lt hlt]
  simp [F.TIME_REF_QUAL_LEFT_QUAL_LEFT]

theorem State.goodEdge_eq (s : State) (n p : Nat) {e : State} (he : e = (s.put (F.TIME_REF_STAT_BAD_RUN n) 0).edgeMean n p) :
    s.goodEdge n p = if e.refState n = Ref.lost ∨ e.refState n = Ref.mismatch
      then (e.withTime { e.time with badPeriods := kdel e.time.badPeriods n }).refRequalify n
      else e.withTime { e.time with badPeriods := kdel e.time.badPeriods n } := by
  subst he
  rfl

/-- A good edge's mean leaves the fields of STAT and CFG alone but for BAD_RUN, which it clears. -/
theorem State.goodMean_fields {s e : State} {n p : Nat} (he : e = (s.put (F.TIME_REF_STAT_BAD_RUN n) 0).edgeMean n p) :
    e.get (F.TIME_REF_STAT_BAD_RUN n) = 0 ∧ e.refState n = s.refState n ∧
      ∀ k, e.get (F.TIME_REF_CFG_MODE k) = s.get (F.TIME_REF_CFG_MODE k) := by
  have hkept : fieldsKept (meanFields n) (s.put (F.TIME_REF_STAT_BAD_RUN n) 0) e := he ▸ State.edgeMean_kept _ n p
  simp only [meanFields, F.TIME_REF_PERIOD_PERIOD, F.TIME_REF_FERR_FERR, F.TIME_FREQ_CORR, R.TIME_REF_PERIOD, R.TIME_REF_FERR,
    R.TIME_FREQ] at hkept
  refine ⟨?_, ?_, fun k => ?_⟩
  · rw [hkept.get, State.get_put_self _ _ _ (by simp [F.TIME_REF_STAT_BAD_RUN]), Nat.zero_mod]
    simp [F.TIME_REF_STAT_BAD_RUN, R.TIME_REF_STAT]
    omega
  · unfold State.refState
    rw [hkept.get, State.get_put_apart _ _ _ _ (by simp [F.TIME_REF_STAT_BAD_RUN, F.TIME_REF_STAT_STATE])]
    simp [F.TIME_REF_STAT_STATE, R.TIME_REF_STAT]
    omega
  · rw [hkept.get, State.get_put_apart]
    · simp [F.TIME_REF_STAT_BAD_RUN, F.TIME_REF_CFG_MODE, R.TIME_REF_STAT, R.TIME_REF_CFG]
    · simp [F.TIME_REF_CFG_MODE, R.TIME_REF_CFG]
      omega

/-- The start of a qualification leaves BAD_RUN and the configuration of every reference. -/
theorem State.refRequalify_fields (s : State) (n : Nat) :
    (s.refRequalify n).get (F.TIME_REF_STAT_BAD_RUN n) = s.get (F.TIME_REF_STAT_BAD_RUN n) ∧
      (s.refRequalify n).get (F.TIME_REF_CFG_QUAL_MS n) = s.get (F.TIME_REF_CFG_QUAL_MS n) ∧
      ∀ k, (s.refRequalify n).get (F.TIME_REF_CFG_MODE k) = s.get (F.TIME_REF_CFG_MODE k) := by
  have hkept := s.refRequalify_kept n
  simp only [F.TIME_REF_STAT_STATE, F.TIME_REF_LAST_CHANGE_BLOCK, F.TIME_REF_QUAL_LEFT_QUAL_LEFT, R.TIME_REF_STAT,
    R.TIME_REF_LAST_CHANGE, R.TIME_REF_QUAL_LEFT] at hkept
  refine ⟨hkept.get _ ?_, hkept.get _ ?_, fun k => hkept.get _ ?_⟩
  · simp [F.TIME_REF_STAT_BAD_RUN, R.TIME_REF_STAT]
  · simp [F.TIME_REF_CFG_QUAL_MS, R.TIME_REF_CFG]
  · simp [F.TIME_REF_CFG_MODE, R.TIME_REF_CFG]
    omega

/-- What a good edge leaves of the fields that R31 speaks of. -/
theorem State.goodEdge_fields {s t : State} {n p : Nat} (ht : t = s.goodEdge n p) :
    t.get (F.TIME_REF_STAT_BAD_RUN n) = 0 ∧
    (s.refState n ≠ Ref.lost → s.refState n ≠ Ref.mismatch → t.refState n = s.refState n) ∧
    (s.refState n = Ref.lost ∨ s.refState n = Ref.mismatch → t.refState n = Ref.qualifying ∧
      t.get (F.TIME_REF_QUAL_LEFT_QUAL_LEFT n) = t.get (F.TIME_REF_CFG_QUAL_MS n)) ∧
    t.get (F.TIME_REF_CFG_MODE 1) = s.get (F.TIME_REF_CFG_MODE 1) := by
  subst ht
  obtain ⟨e, he⟩ : ∃ e, e = (s.put (F.TIME_REF_STAT_BAD_RUN n) 0).edgeMean n p := ⟨_, rfl⟩
  obtain ⟨hrun, hstate, hmode⟩ := State.goodMean_fields he
  rw [State.goodEdge_eq s n p he, hstate]
  by_cases h : s.refState n = Ref.lost ∨ s.refState n = Ref.mismatch
  · obtain ⟨hbad, hqual, hcfg⟩ := (e.withTime { e.time with badPeriods := kdel e.time.badPeriods n }).refRequalify_fields n
    rw [if_pos h, hbad, hcfg, State.refRequalify_refState, State.refRequalify_qualLeft, hqual]
    exact ⟨hrun, fun h1 h2 => absurd h (not_or.2 ⟨h1, h2⟩), fun _ => ⟨rfl, rfl⟩, hmode 1⟩
  · rw [if_neg h]
    exact ⟨hrun, fun _ _ => hstate, fun hl => absurd hl h, hmode 1⟩

/-! A bad edge, and a reference lost (R31, R33, R35). -/

/-- The periods of a run of bad edges, the newest first. -/
def State.badRun (s : State) (n p : Nat) : List Nat := (p :: (kget s.time.badPeriods n).getD []).take 8

/-- A bad edge counted, and its period kept for the comparison of eight. -/
def State.countBad (s : State) (n p : Nat) : State :=
  let u := (s.withTime { s.time with badPeriods := kput s.time.badPeriods n (s.badRun n p) }).bumpSat (F.TIME_REF_COUNT_GLITCH_CNT n)
  u.put (F.TIME_REF_STAT_BAD_RUN n) (min 8 (u.get (F.TIME_REF_STAT_BAD_RUN n) + 1))

theorem State.badEdge_eq (s : State) (n p : Nat) : s.badEdge n p =
    if (s.badRun n p).length < 8 then
      (if (s.countBad n p).refState n = Ref.qualifying then (s.countBad n p).refRequalify n else s.countBad n p)
    else (if (s.countBad n p).refState n = Ref.qualifying then (s.countBad n p).refRequalify n else s.countBad n p).refLose n
      (periodsAgree (s.badRun n p)) := rfl

theorem State.countBad_stores (s : State) (n p : Nat) :
    onlyStores [(F.TIME_REF_COUNT_GLITCH_CNT n, min 65535 (s.get (F.TIME_REF_COUNT_GLITCH_CNT n) + 1)),
        (F.TIME_REF_STAT_BAD_RUN n, min 8 (s.get (F.TIME_REF_STAT_BAD_RUN n) + 1))]
      (s.withTime { s.time with badPeriods := kput s.time.badPeriods n (s.badRun n p) }) (s.countBad n p) := by
  have hglitch := (onlyStores.nil (s.withTime { s.time with badPeriods := kput s.time.badPeriods n (s.badRun n p) })).bumpSat
    (k := 1) (F.TIME_REF_COUNT_GLITCH_CNT n) (by simp [F.TIME_REF_COUNT_GLITCH_CNT]) (by simp)
  have hrun := hglitch.2.2.get (F.TIME_REF_STAT_BAD_RUN n)
    (by simp [F.TIME_REF_STAT_BAD_RUN, F.TIME_REF_COUNT_GLITCH_CNT, R.TIME_REF_STAT, R.TIME_REF_COUNT])
  refine hglitch.put (F.TIME_REF_STAT_BAD_RUN n) _ _ (by simp [F.TIME_REF_STAT_BAD_RUN]) ?_
    (by simp [F.TIME_REF_STAT_BAD_RUN, F.TIME_REF_COUNT_GLITCH_CNT, R.TIME_REF_STAT, R.TIME_REF_COUNT])
  rw [hrun, State.withTime_get]
  exact Nat.mod_eq_of_lt (by simp [F.TIME_REF_STAT_BAD_RUN])

theorem State.countBad_refState (s : State) (n p : Nat) : (s.countBad n p).refState n = s.refState n :=
  (s.countBad_stores n p).2.2.get (F.TIME_REF_STAT_STATE n)
    (by simp [F.TIME_REF_STAT_STATE, F.TIME_REF_STAT_BAD_RUN, F.TIME_REF_COUNT_GLITCH_CNT, R.TIME_REF_STAT, R.TIME_REF_COUNT])

theorem State.refLose_of_lost {s : State} {n : Nat} (h : s.refState n = Ref.lost ∨ s.refState n = Ref.off) :
    s.refLose n false = s := if_pos h

theorem State.refTo_frame (s : State) (n st : Nat) : s.refTo n st = { s with regs := (s.refTo n st).regs } := by
  unfold State.refTo
  split <;> rfl

theorem State.refTo_time (s : State) (n st : Nat) : (s.refTo n st).time = s.time := by rw [State.refTo_frame]

theorem State.refNoQual_eq (s : State) (n : Nat) : s.refNoQual n =
    (s.put (F.TIME_REF_QUAL_LEFT_QUAL_LEFT n) 0).withTime { s.time with qualRun := kdel s.time.qualRun n } := rfl

/-- A reference that becomes LOST, before what follows from it: its change of state is counted, and no qualification of it runs. -/
def State.refDrop (s : State) (n : Nat) : State :=
  let u := ((s.refTo n Ref.lost).bumpSat (F.TIME_REF_COUNT_LOSS_CNT n)).refNoQual n
  u.withTime { u.time with edgeSums := kdel u.time.edgeSums n }

theorem State.refDrop_eq (s : State) (n : Nat) : s.refDrop n =
    (((s.refTo n Ref.lost).bumpSat (F.TIME_REF_COUNT_LOSS_CNT n)).put (F.TIME_REF_QUAL_LEFT_QUAL_LEFT n) 0).withTime
      { s.time with qualRun := kdel s.time.qualRun n, edgeSums := kdel s.time.edgeSums n } := by
  rw [State.refDrop, State.refNoQual_eq, State.withTime_time, State.withTime_withTime, State.bumpSat_time, State.refTo_time]

theorem State.refDrop_stores {s : State} {n : Nat} (h : s.refState n ≠ Ref.lost) :
    onlyStores [(F.TIME_REF_STAT_STATE n, Ref.lost), (F.TIME_REF_LAST_CHANGE_BLOCK n, s.blockNow % 2 ^ 32),
        (F.TIME_REF_COUNT_LOSS_CNT n, min 65535 (s.get (F.TIME_REF_COUNT_LOSS_CNT n) + 1)), (F.TIME_REF_QUAL_LEFT_QUAL_LEFT n, 0)]
      (s.withTime { s.time with qualRun := kdel s.time.qualRun n, edgeSums := kdel s.time.edgeSums n }) (s.refDrop n) := by
  have hchain := (((State.refTo_stores h (by decide)).bumpSat (k := 1) (F.TIME_REF_COUNT_LOSS_CNT n)
    (by simp [F.TIME_REF_COUNT_LOSS_CNT]) (by simp [F.TIME_REF_COUNT_LOSS_CNT, F.TIME_REF_STAT_STATE, F.TIME_REF_LAST_CHANGE_BLOCK,
      R.TIME_REF_COUNT, R.TIME_REF_STAT, R.TIME_REF_LAST_CHANGE]))).put (F.TIME_REF_QUAL_LEFT_QUAL_LEFT n) 0 0
    (by simp [F.TIME_REF_QUAL_LEFT_QUAL_LEFT]) (Nat.zero_mod _) (by simp [F.TIME_REF_COUNT_LOSS_CNT, F.TIME_REF_STAT_STATE,
      F.TIME_REF_LAST_CHANGE_BLOCK, F.TIME_REF_QUAL_LEFT_QUAL_LEFT, R.TIME_REF_COUNT, R.TIME_REF_STAT, R.TIME_REF_LAST_CHANGE,
      R.TIME_REF_QUAL_LEFT])
  rw [State.refDrop_eq]
  exact hchain.withTime _

theorem State.refLose_of_unselected {s : State} {n : Nat} (hlost : s.refState n ≠ Ref.lost) (hoff : s.refState n ≠ Ref.off)
    (hsel : s.refState n ≠ Ref.selected) : s.refLose n false = (s.refDrop n).raise Mech.timeRef n 0 0 0 := by
  unfold State.refLose
  rw [if_neg (by simp [hlost, hoff])]
  simp only [hsel, decide_false, Bool.false_eq_true, if_false]
  rfl

/-- The selected reference is lost: no reference is followed, and TIME_LOST is posted. -/
theorem State.refLose_of_selected {s t : State} {n : Nat} (hsel : s.refState n = Ref.selected)
    (ht : t = (s.refDrop n).toHoldover.set F.TIME_FLAGS_LOST) : s.refLose n false =
      (t.post 0x1401 n [w32 (s.refDrop n).toHoldover.mode, (s.refDrop n).toHoldover.rd (R.TIME_REF_FERR n)]).raise
        Mech.timeRef n 0 0 0 := by
  subst ht
  unfold State.refLose
  rw [if_neg (by simp [hsel, Ref.selected, Ref.lost, Ref.off])]
  simp only [hsel, decide_true, Bool.false_eq_true, if_false, if_true]
  rfl

/-- The mode of a device that follows no reference (R34, R35). -/
def State.holdMode (s : State) : Nat := if s.time.everLocked then Mode.holdover else Mode.freerun

theorem State.holdMode_lt (s : State) : s.holdMode < 2 ^ 4 := by
  unfold State.holdMode
  split <;> decide

/-- The selected reference gives way to the TCXO, before the correction is set. -/
def State.holdRefs (s : State) : State :=
  (((s.put F.TIME_STATUS_MODE s.holdMode).put F.TIME_STATUS_SRC 3).set F.TIME_STATUS_SLEWING false).refTo 3 Ref.selected

theorem State.holdRefs_frame (s : State) : s.holdRefs = { s with regs := s.holdRefs.regs } := by
  rw [State.holdRefs, State.refTo_frame]
  rfl

theorem State.toHoldover_eq (s : State) : s.toHoldover =
    ((s.holdRefs.put F.TIME_FREQ_CORR (if s.time.everLocked then unsigned 32 s.time.lockedOffset else 0)).put
      F.TIME_HOLDOVER_SECONDS 0).withTime { s.time with measureDue := false, acquiring := false, keptOff := 0 } := by
  have htime : s.holdRefs.time = s.time := State.refTo_time _ _ _
  rw [← htime]
  rfl

/-- The fields that show which reference is followed, and how. -/
def holdFields : List Fld := [F.TIME_STATUS_MODE, F.TIME_STATUS_SRC, F.TIME_STATUS_SLEWING, F.TIME_REF_STAT_STATE 3,
  F.TIME_REF_LAST_CHANGE_BLOCK 3, F.TIME_FREQ_CORR, F.TIME_HOLDOVER_SECONDS]

theorem State.holdRefs_kept (s : State) : fieldsKept holdFields s s.holdRefs :=
  ((((fieldsKept.refl _ s).put _ _ (by simp [holdFields])).put _ _ (by simp [holdFields])).put _ _ (by simp [holdFields])).trans
    ((State.refTo_kept _ _ _).mono (by simp [holdFields]))

theorem State.toHoldover_kept (s : State) : fieldsKept holdFields s s.toHoldover := by
  rw [State.toHoldover_eq]
  exact ((s.holdRefs_kept.put _ _ (by simp [holdFields])).put _ _ (by simp [holdFields])).time _

theorem State.holdRefs_fields (s : State) : s.holdRefs.mode = s.holdMode ∧ s.holdRefs.src = 3 ∧
    s.holdRefs.flag F.TIME_STATUS_SLEWING = false ∧ s.holdRefs.refState 3 = Ref.selected := by
  obtain ⟨-, hvals, -⟩ := ((onlyStores.one s F.TIME_STATUS_MODE _ _ (by decide) (Nat.mod_eq_of_lt s.holdMode_lt)).put
    F.TIME_STATUS_SRC 3 3 (by decide) rfl (by simp +decide)).set F.TIME_STATUS_SLEWING false (by decide) rfl (by simp +decide)
  simp only [List.cons_append, List.nil_append, List.forall_mem_cons] at hvals
  obtain ⟨hmode, hsrc, hslew, -⟩ := hvals
  have hto := State.refTo_kept (((s.put F.TIME_STATUS_MODE s.holdMode).put F.TIME_STATUS_SRC 3).set F.TIME_STATUS_SLEWING false)
    3 Ref.selected
  refine ⟨(hto.get _ (by simp +decide)).trans hmode, (hto.get _ (by simp +decide)).trans hsrc, ?_,
    State.refTo_refState _ 3 (by decide)⟩
  unfold State.flag
  rw [State.holdRefs, hto.get _ (by simp +decide), hslew]
  rfl

/-- What the loss of the selected reference leaves in the registers and in the record of media time (R34, R35). -/
theorem State.toHoldover_fields (s : State) : s.toHoldover.mode = s.holdMode ∧ s.toHoldover.src = 3 ∧
    s.toHoldover.flag F.TIME_STATUS_SLEWING = false ∧ s.toHoldover.refState 3 = Ref.selected ∧
    s.toHoldover.get F.TIME_HOLDOVER_SECONDS = 0 ∧
    s.toHoldover.get F.TIME_FREQ_CORR = (if s.time.everLocked then (s.time.lockedOffset % 2 ^ 32).toNat else 0) ∧
    s.toHoldover = { s with regs := s.toHoldover.regs, time := { s.time with measureDue := false, acquiring := false, keptOff := 0 } } := by
  have hcorr : (if s.time.everLocked then unsigned 32 s.time.lockedOffset else 0) % 2 ^ 32 =
      if s.time.everLocked then (s.time.lockedOffset % 2 ^ 32).toNat else 0 := by
    unfold unsigned
    split <;> omega
  obtain ⟨hframe, hvals, hkept⟩ := ((onlyStores.one s.holdRefs F.TIME_FREQ_CORR _ _ (by decide) hcorr).put F.TIME_HOLDOVER_SECONDS 0 0
    (by decide) rfl (by simp +decide)).withTime { s.time with measureDue := false, acquiring := false, keptOff := 0 }
  rw [← State.toHoldover_eq] at hframe hvals hkept
  simp only [List.cons_append, List.nil_append, List.forall_mem_cons] at hvals
  obtain ⟨hfreq, hsecs, -⟩ := hvals
  obtain ⟨hmode, hsrc, hslew, hsel⟩ := s.holdRefs_fields
  refine ⟨(hkept.get F.TIME_STATUS_MODE (by simp +decide)).trans hmode, (hkept.get F.TIME_STATUS_SRC (by simp +decide)).trans hsrc, ?_,
    (hkept.get (F.TIME_REF_STAT_STATE 3) (by simp +decide)).trans hsel, hsecs, hfreq, ?_⟩
  · refine Eq.trans ?_ hslew
    unfold State.flag
    rw [hkept.get _ (by simp +decide)]
    rfl
  · rw [hframe, State.holdRefs_frame]
    rfl

theorem State.frame_trans {s d u : State} {x y : TimeSt} (h : d = { s.withTime x with regs := d.regs })
    (h' : u = { d with regs := u.regs, time := y }) : u = { s with regs := u.regs, time := y } := by
  refine h'.trans ?_
  rw [h]
  rfl

/-- The state in which the loss of the selected reference is posted. -/
def State.lostState (s : State) (n : Nat) : State := (s.refDrop n).toHoldover.set F.TIME_FLAGS_LOST

theorem State.lostState_fields {s t : State} {n : Nat} (hn : n ≠ 3) (hsel : s.refState n = Ref.selected) (ht : t = s.lostState n) :
    t.refState n = Ref.lost ∧ t.refState 3 = Ref.selected ∧ t.src = 3 ∧ t.mode = s.holdMode ∧
    t.flag F.TIME_STATUS_SLEWING = false ∧ t.flag F.TIME_FLAGS_LOST = true ∧ t.get F.TIME_HOLDOVER_SECONDS = 0 ∧
    t.get (F.TIME_REF_COUNT_LOSS_CNT n) = min 65535 (s.get (F.TIME_REF_COUNT_LOSS_CNT n) + 1) ∧
    t.get F.TIME_FREQ_CORR = (if s.time.everLocked then (s.time.lockedOffset % 2 ^ 32).toNat else 0) ∧
    t = { s with regs := t.regs, time := { s.time with
      qualRun := kdel s.time.qualRun n, edgeSums := kdel s.time.edgeSums n, measureDue := false, acquiring := false,
      keptOff := 0 } } := by
  obtain ⟨hframe, hvals, -⟩ := State.refDrop_stores (s := s) (n := n) (by simp [hsel, Ref.selected, Ref.lost])
  simp only [List.forall_mem_cons] at hvals
  obtain ⟨hlost, -, hloss, -⟩ := hvals
  have htime : (s.refDrop n).time =
      { s.time with qualRun := kdel s.time.qualRun n, edgeSums := kdel s.time.edgeSums n } := congrArg State.time hframe
  obtain ⟨hmode, hsrc, hslew, hsel3, hsecs, hfreq, hhold⟩ := (s.refDrop n).toHoldover_fields
  have hset := (fieldsKept.refl [F.TIME_FLAGS_LOST] (s.refDrop n).toHoldover).put F.TIME_FLAGS_LOST (b2n true) (by simp)
  have hkept : fieldsKept (F.TIME_FLAGS_LOST :: holdFields) (s.refDrop n) (s.lostState n) :=
    ((s.refDrop n).toHoldover_kept.mono fun f hf => List.mem_cons_of_mem _ hf).put _ _ (by simp)
  have hmodes : (s.refDrop n).holdMode = s.holdMode := by simp only [State.holdMode, htime]
  subst ht
  refine ⟨(hkept.get (F.TIME_REF_STAT_STATE n) ?_).trans hlost, (hset.get (F.TIME_REF_STAT_STATE 3) (by simp +decide)).trans hsel3,
    (hset.get _ (by simp +decide)).trans hsrc, (hset.get _ (by simp +decide)).trans (hmode.trans hmodes), ?_,
    State.flag_set_self _ _ _ (by decide) rfl, (hset.get _ (by simp +decide)).trans hsecs,
    (hkept.get (F.TIME_REF_COUNT_LOSS_CNT n) ?_).trans hloss, ?_, ?_⟩
  · simp [holdFields, F.TIME_FLAGS_LOST, F.TIME_STATUS_MODE, F.TIME_STATUS_SRC, F.TIME_STATUS_SLEWING, F.TIME_REF_STAT_STATE,
      F.TIME_REF_LAST_CHANGE_BLOCK, F.TIME_FREQ_CORR, F.TIME_HOLDOVER_SECONDS, R.TIME_FLAGS, R.TIME_STATUS, R.TIME_REF_STAT,
      R.TIME_REF_LAST_CHANGE, R.TIME_FREQ, R.TIME_HOLDOVER]
    omega
  · refine Eq.trans ?_ hslew
    unfold State.flag
    rw [State.lostState, State.set, hset.get _ (by simp +decide)]
  · simp [holdFields, F.TIME_FLAGS_LOST, F.TIME_STATUS_MODE, F.TIME_STATUS_SRC, F.TIME_STATUS_SLEWING, F.TIME_REF_STAT_STATE,
      F.TIME_REF_LAST_CHANGE_BLOCK, F.TIME_FREQ_CORR, F.TIME_HOLDOVER_SECONDS, R.TIME_FLAGS, R.TIME_STATUS, R.TIME_REF_STAT,
      R.TIME_REF_LAST_CHANGE, R.TIME_FREQ, R.TIME_HOLDOVER, F.TIME_REF_COUNT_LOSS_CNT, R.TIME_REF_COUNT]
    omega
  · rw [htime] at hfreq
    exact (hset.get _ (by simp +decide)).trans hfreq
  · rw [htime] at hhold
    have hall := State.frame_trans (x := { s.time with qualRun := kdel s.time.qualRun n, edgeSums := kdel s.time.edgeSums n })
      hframe hhold
    exact congrArg (fun u : State => { u with regs := (s.lostState n).regs }) hall

theorem exec_refEdge (s : State) (n : Fin 4) (p : Nat) (x : Int) :
    exec (.refEdge n p x) s = .next (s.edge n p (periodGood p (s.refPeriod n)) x) := rfl

theorem exec_refEdgeTimeout (s : State) (n : Fin 4) :
    exec (.refEdgeTimeout n) s = .next (if n = 3 ∨ ¬ s.running then s else s.refLose n false) := rfl

theorem exec_refQualified (s : State) (n : Fin 4) : exec (.refQualified n) s =
    .next (if s.refState n = Ref.qualifying ∧ s.running then (s.refTo n Ref.valid).refNoQual n else s) := rfl

theorem Fin.val_ne_three {n : Fin 4} (h : n ≠ 3) : (n : Nat) ≠ 3 := fun e => h (Fin.ext e)

/-- A qualification that ends makes the reference VALID. -/
theorem State.qualified_stores {s : State} {n : Nat} (h : s.refState n = Ref.qualifying) :
    onlyStores [(F.TIME_REF_STAT_STATE n, Ref.valid), (F.TIME_REF_LAST_CHANGE_BLOCK n, s.blockNow % 2 ^ 32),
        (F.TIME_REF_QUAL_LEFT_QUAL_LEFT n, 0)] (s.withTime { s.time with qualRun := kdel s.time.qualRun n })
      ((s.refTo n Ref.valid).refNoQual n) := by
  rw [State.refNoQual_eq, State.refTo_time]
  exact ((State.refTo_stores (by simp [h, Ref.qualifying, Ref.valid]) (by decide)).put (F.TIME_REF_QUAL_LEFT_QUAL_LEFT n) 0 0
    (by simp [F.TIME_REF_QUAL_LEFT_QUAL_LEFT]) (Nat.zero_mod _) (by simp [F.TIME_REF_STAT_STATE, F.TIME_REF_LAST_CHANGE_BLOCK,
      F.TIME_REF_QUAL_LEFT_QUAL_LEFT, R.TIME_REF_STAT, R.TIME_REF_LAST_CHANGE, R.TIME_REF_QUAL_LEFT])).withTime _

/-! Time messages (R28, R308). -/

theorem Config.blockLen_pos (code : Nat) : 0 < Config.blockLen code := by
  unfold Config.blockLen
  split <;> decide

theorem State.messageGood_iff (s : State) (p : Nat) {e : Nat}
    (he : e = 500000000 * 2 ^ min (s.get (F.TIME_REF_CFG_DIV_EXP 2)) 5) : s.messageGood p = true ↔
      ((p : Int) - e).natAbs * 100 ≤ e ∨ ((p : Int) - e).natAbs * s.hz < s.bl * 16000000000 + e * s.hz / 100 := by
  subst he
  simp [State.messageGood, State.refPeriod, periodGood]

theorem exec_timeMessage_of_ignored {s : State} (mt : W64) (frame : W32) {ok : Bool} (h : ok = false ∨ s.running = false) :
    exec (.timeMessage mt frame ok) s = .next s := by
  show execTimeMessage mt frame ok s = _
  rw [execTimeMessage, if_pos (by rcases h with h | h <;> simp [h])]

theorem exec_timeMessage_first {s : State} (mt : W64) (frame : W32) (hrun : s.running = true) (h : s.time.msgFrame = none) :
    exec (.timeMessage mt frame true) s = .next (s.withTime { s.time with msgFrame := some frame.toNat }) := by
  show execTimeMessage mt frame true s = _
  rw [execTimeMessage, if_neg (by simp [hrun]), h]
  rfl

/-- A message that follows another is an edge of reference 2, at a phase that the frame named fixes to within a block. -/
theorem exec_timeMessage_next {s : State} (mt : W64) (frame : W32) (hrun : s.running = true) {f base p e : Nat}
    (h : s.time.msgFrame = some f)
    (hbase : base = ((s.rd R.STRM_RX_FRAME).toNat + 2 ^ 32 - frame.toNat) % 2 ^ 32 * s.bl)
    (hp : p = (frame.toNat + 2 ^ 32 - f) % 2 ^ 32 * s.bl * 16000000000 / s.hz)
    (he : e = 500000000 * 2 ^ min (s.get (F.TIME_REF_CFG_DIV_EXP 2)) 5) : ∃ (x : Int) (good : Bool),
      ((mt.toNat : Int) - s.time.mt + base) * 256 - s.bl * 256 < x ∧ x ≤ ((mt.toNat : Int) - s.time.mt + base) * 256 ∧
      (good = true ↔ ((p : Int) - e).natAbs * 100 ≤ e ∨
        ((p : Int) - e).natAbs * s.hz < s.bl * 16000000000 + e * s.hz / 100) ∧
      exec (.timeMessage mt frame true) s = .next (
        ({ s with free := s.free + 1, time := { s.time with msgFrame := some frame.toNat } }).edge 2 p good x) := by
  have hfree : Config.freeValue s.free % (s.bl * 256) < s.bl * 256 :=
    Nat.mod_lt _ (Nat.mul_pos (Config.blockLen_pos _) (by decide))
  refine ⟨((mt.toNat : Int) - s.time.mt + base) * 256 - (Config.freeValue s.free % (s.bl * 256) : Nat), s.messageGood p, ?_, ?_,
    s.messageGood_iff p he, ?_⟩
  · omega
  · omega
  · show execTimeMessage mt frame true s = _
    rw [execTimeMessage, if_neg (by simp [hrun]), h, hbase, hp]
    rfl

/-- A good edge is measured where its reference was the selected one before it, as a good edge selects nothing. -/
theorem State.goodEdge_selected {s t : State} {n : Nat}
    (hkeep : s.refState n ≠ Ref.lost → s.refState n ≠ Ref.mismatch → t.refState n = s.refState n)
    (hrequal : s.refState n = Ref.lost ∨ s.refState n = Ref.mismatch → t.refState n = Ref.qualifying) :
    t.refState n = Ref.selected ↔ s.refState n = Ref.selected := by
  by_cases h : s.refState n = Ref.lost ∨ s.refState n = Ref.mismatch
  · rw [hrequal h]
    rcases h with h | h <;> rw [h] <;> decide
  · rw [hkeep (fun e => h (.inl e)) (fun e => h (.inr e))]

/-- The loss of the selected reference, posted and counted as a mechanism. -/
theorem State.refLose_selected_post {s t : State} {n w : Nat} (hsel : s.refState n = Ref.selected) (ht : t = s.lostState n)
    (hw : w = s.holdMode) :
    s.refLose n false = (t.post 0x1401 n [w32 w, t.rd (R.TIME_REF_FERR n)]).raise Mech.timeRef n 0 0 0 := by
  have hmode : (s.refDrop n).toHoldover.mode = w := by
    obtain ⟨hframe, -, -⟩ := State.refDrop_stores (s := s) (n := n) (by simp [hsel, Ref.selected, Ref.lost])
    have hlocked : (s.refDrop n).time.everLocked = s.time.everLocked := (congrArg (fun u : State => u.time.everLocked) hframe).trans rfl
    rw [(s.refDrop n).toHoldover_fields.1, hw, State.holdMode, State.holdMode, hlocked]
  have hferr : t.rd (R.TIME_REF_FERR n) = (s.refDrop n).toHoldover.rd (R.TIME_REF_FERR n) := by
    rw [ht, State.lostState]
    exact State.rd_put_ne _ _ _ (by simp [R.TIME_REF_FERR, F.TIME_FLAGS_LOST, R.TIME_FLAGS]; omega)
  rw [State.refLose_of_selected hsel ht, hmode, hferr]

/-- Settles O33: the rows of the references, by what each does to the fields of R29 and R31. -/
theorem timeReferenceEdges : Obligations.TimeReferenceEdges := by
  refine ⟨fun s n p x h => ?_, fun s n p x l hn hoff hrun hbad hl => ?_, fun s t n p x hn hoff hrun hgood ht => ?_, fun s n h => ?_,
    fun s n hn hrun hlost hoff => ⟨fun hsel => ?_, fun hsel => ?_⟩, fun s n => ?_, fun s mt frame ok => ⟨fun h => ?_, ?_⟩⟩
  · rw [exec_refEdge, State.edge_of_ignored]
    rcases h with rfl | h | h
    exacts [.inl rfl, .inr (.inl h), .inr (.inr h)]
  · obtain rfl : l = s.badRun n p := hl
    refine ⟨s.countBad n p, s.countBad_stores n p, ?_⟩
    rw [exec_refEdge, hbad, State.edge_of_bad p x (Fin.val_ne_three hn) hoff hrun, State.badEdge_eq, State.countBad_refState]
  · obtain ⟨hrunbad, hkeep, hrequal, hmode⟩ := State.goodEdge_fields ht
    refine ⟨hrunbad, hkeep, hrequal, ?_⟩
    have hone : ((n : Nat) = 1) ↔ n = 1 := ⟨fun h => Fin.ext h, fun h => congrArg _ h⟩
    simp only [exec_refEdge, hgood, State.edge_of_good p x (Fin.val_ne_three hn) hoff hrun ht, hmode,
      State.goodEdge_selected hkeep fun hl => (hrequal hl).1, not_and_or, hone, ne_eq]
  · rw [exec_refEdgeTimeout]
    split
    · rfl
    · next hgo =>
      rcases h with rfl | h | h
      · exact absurd (.inl rfl) hgo
      · exact absurd (.inr (by simp [h])) hgo
      · rw [State.refLose_of_lost h]
  · refine ⟨s.refDrop n, State.refDrop_stores hlost, ?_⟩
    rw [exec_refEdgeTimeout, if_neg (by simp [hn, hrun]), State.refLose_of_unselected hlost hoff hsel]
  · obtain ⟨h1, h2, h3, h4, h5, h6, h7, h8, h9, h10⟩ := State.lostState_fields (Fin.val_ne_three hn) hsel rfl
    refine ⟨s.lostState n, s.holdMode, rfl, h1, h2, h3, h4, h5, h6, h7, h8, h9, h10, ?_⟩
    rw [exec_refEdgeTimeout, if_neg (by simp [hn, hrun]), State.refLose_selected_post hsel rfl rfl]
  · rw [exec_refQualified]
    split
    · next h => exact ⟨_, rfl, State.qualified_stores h.1⟩
    · rfl
  · exact exec_timeMessage_of_ignored mt frame h
  · rintro rfl hrun
    exact ⟨exec_timeMessage_first mt frame hrun, fun f base p e hf hb hp he => exec_timeMessage_next mt frame hrun hf hb hp he⟩

end Sys2Proof.Machine
end

/-! SUPPORT and CERTIFICATES. Steps of the phase, the measurement of a reference, and the PPS edge. -/

section
namespace Sys2Proof.Machine

/-! Steps of the phase by size and sign (R37). -/

theorem State.bl_bounds (s : State) : 32 ≤ s.bl ∧ s.bl ≤ 64 := by
  unfold State.bl Config.blockLen
  split <;> decide

/-- A word of 32 bits shows a number of its range as it is. -/
theorem unsigned_clampI {x : Int} (h : -2147483648 ≤ x) (h' : x ≤ 2147483647) :
    unsigned 32 (clampI (-2147483648) 2147483647 x) = (x % 2 ^ 32).toNat := by
  rw [clampI, if_neg (by omega), if_neg (by omega)]
  rfl

theorem unsigned_lt (x : Int) : unsigned 32 x < 2 ^ 32 := by
  unfold unsigned
  omega

theorem satWord_toNat (x : Int) : (satWord x).toNat = (clampI (-2147483648) 2147483647 x % 2 ^ 32).toNat :=
  (BitVec.toNat_ofNat _ _).trans (Nat.mod_eq_of_lt (unsigned_lt _))

theorem satWord_of_range {x : Int} (h : -2147483648 ≤ x) (h' : x ≤ 2147483647) : satWord x = w32 (x % 2 ^ 32).toNat :=
  congrArg _ (unsigned_clampI h h')

/-- A step that is noted, as the field stores that it makes. -/
theorem State.noteStep_stores (s : State) {x : Int} (h : -2147483648 ≤ x) (h' : x ≤ 2147483647) :
    onlyStores [(F.TIME_FLAGS_STEP, 1), (F.TIME_STEP_LAST_STEP, (x % 2 ^ 32).toNat)] s (s.noteStep x) := by
  rw [State.noteStep, unsigned_clampI h h']
  exact (onlyStores.oneSet s F.TIME_FLAGS_STEP true (by decide) rfl).put _ _ _ (by decide)
    (Nat.mod_eq_of_lt (unsigned_lt x)) (by simp +decide)

theorem State.phaseStep_of_small {s : State} (n : Nat) {x : Int} (h : x.natAbs ≤ 16) : s.phaseStep n x = s := if_pos h

theorem State.phaseStep_of_slewed {s : State} (n : Nat) {x : Int} (h : 16 < x.natAbs) (h' : x.natAbs ≤ 512) :
    s.phaseStep n x = s.slewPhase := by
  rw [State.phaseStep, if_neg (by omega), if_pos h']

theorem State.phaseStep_of_noted {s : State} (n : Nat) {x : Int} (h : 512 < x.natAbs) (h' : x.natAbs ≤ s.bl * 256) :
    s.phaseStep n x = (s.noteStep x).slewPhase.post 0x1402 n [satWord x, 0, 0, 0] := by
  rw [State.phaseStep, if_neg (by omega), if_neg (by omega), if_pos h']

/-- A jump by the whole blocks of a step, noted and pending for the tick by which every course knows. -/
def State.pendJump (s : State) (n : Nat) (x : Int) : State :=
  ((s.noteStep x).set F.TIME_STATUS_JUMP_PEND).withTime { s.time with
    jump := some ⟨(x / (s.bl * 256 : Int)).toNat, s.toldBlock, x, some n⟩ }

theorem State.phaseStep_of_far {s : State} (n : Nat) {x : Int} (h : s.bl * 256 < x.natAbs) :
    s.phaseStep n x = (
      if x < 0 then
        let u := ((s.noteStep x).set F.TIME_FLAGS_BEHIND).post 0x1402 n [satWord x, 0, 0, 1]
        u.withTime { u.time with keptOff := x }
      else if s.cascade ∧ s.isKeystone ∧ s.standby then s.noteStep x
      else
        let j := (s.pendJump n x).tellTime (.jump (x / (s.bl * 256 : Int)).toNat s.toldBlock)
        if 16 < x % (s.bl * 256 : Int) then j.slewPhase else j) := by
  have := s.bl_bounds
  rw [State.phaseStep, if_neg (by omega), if_neg (by omega), if_neg (by omega)]
  rfl

@[simp] theorem State.withTime_leads (s : State) (x : TimeSt) : (s.withTime x).leads = s.leads := rfl

theorem State.pendJump_leads (s : State) (n : Nat) (x : Int) : (s.pendJump n x).leads = s.leads := by
  rw [State.pendJump, State.withTime_leads, State.set, State.leads_put _ _ _ (by decide), State.noteStep,
    State.leads_put _ _ _ (by decide), State.set, State.leads_put _ _ _ (by decide)]

/-- Behind by more than a block: the device stays behind, and keeps the offset. -/
theorem State.phaseStep_of_behind {s : State} (n : Nat) {x : Int} (h : s.bl * 256 < x.natAbs) (hneg : x < 0)
    (hlow : -2147483648 ≤ x) : ∃ t,
    onlyStores [(F.TIME_FLAGS_STEP, 1), (F.TIME_STEP_LAST_STEP, (x % 2 ^ 32).toNat), (F.TIME_FLAGS_BEHIND, 1)] s t ∧
      s.phaseStep n x = (t.post 0x1402 n [w32 (x % 2 ^ 32).toNat, 0, 0, 1]).withTime { s.time with keptOff := x } := by
  refine ⟨_, (s.noteStep_stores hlow (by omega)).set F.TIME_FLAGS_BEHIND true (by decide) rfl (by simp +decide), ?_⟩
  rw [State.phaseStep_of_far n h, if_pos hneg, satWord_of_range hlow (by omega)]
  dsimp only
  rw [(State.post_posted _ _ _ _).time]
  rfl

/-- Ahead by more than a block on a device that decides for itself alone: a jump is pending by the whole blocks. -/
theorem State.phaseStep_of_ahead {s : State} (n : Nat) {x : Int} (h : s.bl * 256 < x.natAbs) (hpos : 0 < x)
    (hhigh : x ≤ 2147483647) (halone : s.cascade = false ∨ s.isKeystone = false) :
    onlyStores ([(F.TIME_FLAGS_STEP, 1), (F.TIME_STEP_LAST_STEP, x.toNat), (F.TIME_STATUS_JUMP_PEND, 1)] ++
        if 16 < x.toNat % (s.bl * 256) then [(F.TIME_STATUS_SLEWING, 1)] else [])
      (s.withTime { s.time with jump := some ⟨x.toNat / (s.bl * 256), s.blockNow + s.pOff + 1, x, some n⟩ }) (s.phaseStep n x) := by
  have hval : (x % 2 ^ 32).toNat = x.toNat := by omega
  have hblocks : (x / (s.bl * 256 : Int)).toNat = x.toNat / (s.bl * 256) := by
    obtain ⟨k, rfl⟩ := Int.eq_ofNat_of_zero_le hpos.le
    norm_cast
  have hrest : (16 < x % (s.bl * 256 : Int)) ↔ 16 < x.toNat % (s.bl * 256) := by
    obtain ⟨k, rfl⟩ := Int.eq_ofNat_of_zero_le hpos.le
    norm_cast
  have hpend := ((s.noteStep_stores (by omega) hhigh).set F.TIME_STATUS_JUMP_PEND true (by decide) rfl (by simp +decide)).withTime
    { s.time with jump := some ⟨(x / (s.bl * 256 : Int)).toNat, s.toldBlock, x, some n⟩ }
  rw [← State.pendJump, hval, hblocks, State.toldBlock] at hpend
  rw [State.phaseStep_of_far n h, if_neg (show ¬ x < 0 by omega),
    if_neg (show ¬ (s.cascade ∧ s.isKeystone ∧ s.standby) by rcases halone with h | h <;> simp [h])]
  have hleads : (s.pendJump n x).leads = false := by
    rw [State.pendJump_leads]
    rcases halone with h | h <;> simp [State.leads, h]
  dsimp only
  rw [State.tellTime_of_not_leads _ hleads]
  simp only [hrest]
  split
  · exact hpend.set F.TIME_STATUS_SLEWING true (by decide) rfl (by simp +decide)
  · exact hpend

/-! What a measurement of the phase and a PPS edge keep of the epoch's load (R44). -/

/-- Media time, the load that waits, and the word that shows it are as they were. -/
def EpochKept (s t : State) : Prop :=
  t.time.mt = s.time.mt ∧ t.time.epoch = s.time.epoch ∧ t.rd R.TIME_EPOCH_CTRL = s.rd R.TIME_EPOCH_CTRL

theorem EpochKept.refl (s : State) : EpochKept s s := ⟨rfl, rfl, rfl⟩

theorem EpochKept.trans {s t u : State} (h : EpochKept s t) (h' : EpochKept t u) : EpochKept s u :=
  ⟨h'.1.trans h.1, h'.2.1.trans h.2.1, h'.2.2.trans h.2.2⟩

theorem EpochKept.put {s t : State} (h : EpochKept s t) (f : Fld) (v : Nat) (hf : R.TIME_EPOCH_CTRL ≠ f.addr) :
    EpochKept s (t.put f v) := h.trans ⟨rfl, rfl, t.rd_put_ne f v hf⟩

theorem EpochKept.posted {s t u : State} (h : EpochKept s t) (hp : Posted t u) : EpochKept s u :=
  h.trans ⟨by rw [hp.time], by rw [hp.time], hp.2 _ rfl⟩

theorem EpochKept.withTime {s t : State} (h : EpochKept s t) (x : TimeSt) (hmt : x.mt = t.time.mt)
    (he : x.epoch = t.time.epoch) : EpochKept s (t.withTime x) := h.trans ⟨hmt, he, rfl⟩

theorem State.tellTime_rd (s : State) (c : TimeChange) (a : Nat) : (s.tellTime c).rd a = s.rd a := by
  unfold State.tellTime State.courseSend
  split
  · split <;> rfl
  · rfl

theorem EpochKept.tellTime {s t : State} (h : EpochKept s t) (c : TimeChange) : EpochKept s (t.tellTime c) :=
  h.trans ⟨by rw [State.tellTime_time], by rw [State.tellTime_time], State.tellTime_rd _ _ _⟩

theorem State.noteStep_epochKept (s : State) (x : Int) : EpochKept s (s.noteStep x) :=
  ((EpochKept.refl s).put _ _ (by decide)).put _ _ (by decide)

theorem State.pendJump_epochKept (s : State) (n : Nat) (x : Int) : EpochKept s (s.pendJump n x) :=
  ((s.noteStep_epochKept x).put _ _ (by decide)).withTime _ rfl rfl

theorem State.phaseStep_epochKept (s : State) (n : Nat) (x : Int) : EpochKept s (s.phaseStep n x) := by
  have hnoted := s.noteStep_epochKept x
  by_cases hsmall : x.natAbs ≤ 16
  · rw [State.phaseStep_of_small n hsmall]
    exact .refl s
  by_cases hslew : x.natAbs ≤ 512
  · rw [State.phaseStep_of_slewed n (by omega) hslew]
    exact (EpochKept.refl s).put _ _ (by decide)
  by_cases hblock : x.natAbs ≤ s.bl * 256
  · rw [State.phaseStep_of_noted n (by omega) hblock]
    exact (hnoted.put _ _ (by decide)).posted (State.post_posted _ _ _ _)
  rw [State.phaseStep_of_far n (by omega)]
  split
  · exact ((hnoted.put _ _ (by decide)).posted (State.post_posted _ _ _ _)).withTime _ rfl rfl
  split
  · exact hnoted
  · have hjump := (s.pendJump_epochKept n x).tellTime (.jump (x / (s.bl * 256 : Int)).toNat s.toldBlock)
    dsimp only
    split
    · exact hjump.put _ _ (by decide)
    · exact hjump

theorem State.lockCheck_epochKept {s t : State} (h : EpochKept s t) : EpochKept s t.lockCheck := by
  unfold State.lockCheck
  split
  · exact h
  split
  · exact (h.put _ _ (by decide)).withTime _ rfl rfl
  · exact h.put _ _ (by decide)

theorem State.phaseFollow_epochKept (s : State) (n : Nat) (x : Int) : EpochKept s (s.phaseFollow n x) := by
  unfold State.phaseFollow
  dsimp only
  split
  · exact s.phaseStep_epochKept n x
  split
  · exact s.phaseStep_epochKept n _
  · exact ((EpochKept.refl s).withTime { s.time with keptOff := 0 } rfl rfl).trans (State.phaseStep_epochKept _ n x)

/-- A phase measured, by what the device does with it (R37). -/
theorem State.measure_eq {s u : State} {n : Nat} {x : Int} (hu : u = s.put (F.TIME_REF_OFFSET_OFFSET n) (satWord x).toNat) :
    s.measure n x = (
      if s.time.jump ≠ none then u
      else if s.time.measureDue then
        ((u.withTime { u.time with measureDue := false, acquiring := false }).phaseStep n x).lockCheck
      else if s.mode = Mode.locked then (u.phaseFollow n x).lockCheck else u) := by
  have hmode : u.mode = s.mode := by
    rw [hu, State.mode, State.get_put_apart _ _ _ _
      (.inl (by simp [F.TIME_STATUS_MODE, R.TIME_STATUS, F.TIME_REF_OFFSET_OFFSET, R.TIME_REF_OFFSET]; omega)), State.mode]
  have hjump : u.time.jump.isSome = true ↔ s.time.jump ≠ none := by
    rw [hu]
    exact Option.isSome_iff_ne_none
  have hdue : u.time.measureDue = s.time.measureDue := by rw [hu]; rfl
  rw [← hmode, ← hdue]
  simp only [← hjump]
  subst hu
  rfl

theorem State.measure_epochKept (s : State) (n : Nat) (x : Int) : EpochKept s (s.measure n x) := by
  obtain ⟨u, hu⟩ : ∃ u, u = s.put (F.TIME_REF_OFFSET_OFFSET n) (satWord x).toNat := ⟨_, rfl⟩
  have hput : EpochKept s u := by
    rw [hu]
    exact (EpochKept.refl s).put _ _ (by simp [R.TIME_EPOCH_CTRL, F.TIME_REF_OFFSET_OFFSET, R.TIME_REF_OFFSET]; omega)
  rw [State.measure_eq hu]
  split
  · exact hput
  split
  · have hdue : EpochKept s (u.withTime { u.time with measureDue := false, acquiring := false }) := hput.withTime _ rfl rfl
    exact State.lockCheck_epochKept (hdue.trans (State.phaseStep_epochKept _ n x))
  split
  · exact State.lockCheck_epochKept (hput.trans (u.phaseFollow_epochKept n x))
  · exact hput

/-! The PPS edge (R32, R44). -/

/-- A load that waits for a PPS edge, at the edge. -/
def State.epochAtEdge (s : State) : State :=
  match s.time.epoch with
  | some e => if e.onPps ∧ e.applyAt < s.time.mt + s.bl then s.epochAtPps e else s
  | none => s

theorem State.epochAtEdge_of_waiting {s : State}
    (h : ∀ e, s.time.epoch = some e → e.onPps = false ∨ s.time.mt + s.bl ≤ e.applyAt) : s.epochAtEdge = s := by
  unfold State.epochAtEdge
  split
  · next e he =>
    rw [if_neg]
    rintro ⟨hpps, hdue⟩
    rcases h e he with h | h
    · simp [h] at hpps
    · omega
  · rfl

theorem State.epochAtEdge_of_due {s : State} {e : EpochLoad} (he : s.time.epoch = some e) (hpps : e.onPps = true)
    (hdue : e.applyAt < s.time.mt + s.bl) : s.epochAtEdge = s.epochAtPps e := by
  rw [State.epochAtEdge, he]
  exact if_pos ⟨hpps, hdue⟩

theorem exec_ppsEdge_of_running {s b t : State} (good : Bool) (x : Int) (hrun : s.running = true)
    (hb : b = s.withTime { s.time with ppsBad := if good then 0 else s.time.ppsBad + 1 }) (ht : t = b.epochAtEdge) :
    exec (.ppsEdge good x) s = .next (
      if good ∧ t.src = 1 ∧ t.get (F.TIME_REF_CFG_MODE 1) = 1 then
        if (2 ≤ s.time.ppsBad : Bool) ∧ t.mode = Mode.locked then
          ((t.put (F.TIME_REF_OFFSET_OFFSET 1) (satWord x).toNat).phaseStep 1 x).lockCheck
        else t.measure 1 x
      else t) := by
  subst hb ht
  show execPpsEdge good x s = _
  rw [execPpsEdge, if_neg (by simp [hrun])]
  rfl

/-- A PPS edge keeps what the load that it made, if any, left. -/
theorem exec_ppsEdge_epochKept {s b : State} (good : Bool) (x : Int) (hrun : s.running = true)
    (hb : b = s.withTime { s.time with ppsBad := if good then 0 else s.time.ppsBad + 1 }) : ∃ t,
    exec (.ppsEdge good x) s = .next t ∧ EpochKept b.epochAtEdge t := by
  refine ⟨_, exec_ppsEdge_of_running good x hrun hb rfl, ?_⟩
  split
  · split
    · exact State.lockCheck_epochKept (((EpochKept.refl _).put _ _ (by decide)).trans (State.phaseStep_epochKept _ _ _))
    · exact State.measure_epochKept _ _ _
  · exact .refl _

/-- The load (R536), in the part of the state that shows it. -/
theorem State.loadEpoch_fields (s : State) (e : EpochLoad) : (s.loadEpoch e).time.mt = e.value ∧
    (s.loadEpoch e).time.epoch = none ∧ (s.loadEpoch e).flag F.TIME_EPOCH_CTRL_ARM = false := by
  have hposted : ∀ (u : State) (x : TimeSt), x.mt = e.value → x.epoch = none →
      ∀ t, t = ((u.withTime x).set F.TIME_EPOCH_CTRL_ARM false).postAt 0x1405 0xFFFF e.value [lo32 e.value, hi32 e.value, 0] →
      t.time.mt = e.value ∧ t.time.epoch = none ∧ t.flag F.TIME_EPOCH_CTRL_ARM = false := by
    rintro u x hmt hepoch t rfl
    have hp := State.postAt_posted ((u.withTime x).set F.TIME_EPOCH_CTRL_ARM false) 0x1405 0xFFFF e.value
      [lo32 e.value, hi32 e.value, 0]
    refine ⟨(congrArg TimeSt.mt hp.time).trans hmt, (congrArg TimeSt.epoch hp.time).trans hepoch, ?_⟩
    rw [State.flag, hp.get rfl, ← State.flag]
    exact State.flag_set_self _ _ _ (by decide) rfl
  exact hposted _ _ rfl rfl _ rfl

theorem State.epochAtPps_of_not_leads {s : State} (e : EpochLoad) (h : s.leads = false) : s.epochAtPps e = s.loadEpoch e :=
  if_neg (by simp [h])

/-- In a cascade the load waits for the tick by which every course knows. -/
theorem State.epochAtPps_of_leads {s : State} (e : EpochLoad) (h : s.leads = true) : (s.epochAtPps e).time = { s.time with
    epoch := some ⟨e.value + (s.pOff + 1) * s.bl, false, (s.blockNow + s.pOff + 1) * s.bl - 1, e.byCommand⟩ } := by
  have hahead : s.toldBlock - s.blockNow = s.pOff + 1 := by
    unfold State.toldBlock
    omega
  rw [State.epochAtPps, if_pos h, State.tellTime_time, hahead]
  rfl

theorem exec_ppsLoss (s : State) : exec .ppsLoss s = .next (
    if s.running ∧ s.get (F.TIME_REF_CFG_MODE 1) = 1 ∧ s.refUsable 1 then
      (s.set F.TIME_FLAGS_PPS_LOST).withTime { s.time with ppsBad := max 2 s.time.ppsBad }
    else s) := rfl

/-- Settles O34: the steps of the phase, the PPS edge and its loss, by the lemma of each case. -/
theorem phaseSteps : Obligations.PhaseSteps := by
  refine ⟨fun s n x => ⟨State.phaseStep_of_small n, fun h h' => ?_, fun h h' => ?_, State.phaseStep_of_behind n,
    State.phaseStep_of_ahead n⟩, fun s n x => ?_, fun s n x k hk => ?_, fun s good x hrun => ?_, fun s b good x hrun hb =>
    ⟨fun hwait => ?_, fun e he hpps hdue => ?_⟩, fun s => ?_⟩
  · rw [State.phaseStep_of_slewed n h h']
    exact .oneSet s _ true (by decide) rfl
  · have hbl := s.bl_bounds
    refine ⟨_, (s.noteStep_stores (x := x) (by omega) (by omega)).set F.TIME_STATUS_SLEWING true (by decide) rfl (by simp +decide), ?_⟩
    rw [State.phaseStep_of_noted n h h', satWord_of_range (by omega) (by omega)]
    rfl
  · refine ⟨_, onlyStores.one s (F.TIME_REF_OFFSET_OFFSET n) (satWord x).toNat _ (by simp [F.TIME_REF_OFFSET_OFFSET]) ?_, ?_⟩
    · rw [satWord_toNat]
      simp only [F.TIME_REF_OFFSET_OFFSET]
      omega
    · exact State.measure_eq rfl
  · subst hk
    refine ⟨fun h => ?_, fun h hx hstep => ?_, fun h hx hstep => ?_, fun h hx => ?_⟩
    · rw [State.phaseFollow, if_pos h]
    · rw [State.phaseFollow, if_neg h, if_pos hx, if_pos hstep]
    · rw [State.phaseFollow, if_neg h, if_pos hx, if_neg (by omega)]
    · rw [State.phaseFollow, if_neg h, if_neg (by omega)]
  · show execPpsEdge good x s = _
    rw [execPpsEdge, if_pos (by simp [hrun])]
  · have hstay : b = b.epochAtEdge := (State.epochAtEdge_of_waiting (by subst hb; exact hwait)).symm
    have hexec := exec_ppsEdge_of_running good x hrun hb hstay
    have hcfg : b.src = s.src ∧ b.mode = s.mode ∧ b.get (F.TIME_REF_CFG_MODE 1) = s.get (F.TIME_REF_CFG_MODE 1) := by
      subst hb
      exact ⟨rfl, rfl, rfl⟩
    obtain ⟨hsrc, hmode, hcfg⟩ := hcfg
    rw [hsrc, hmode, hcfg] at hexec
    refine ⟨fun h => ?_, fun hgood h1 hpps => ⟨fun hback hlocked => ?_, fun hfirst => ?_⟩⟩
    · rw [hexec, if_neg (by rcases h with h | h | h <;> simp [h])]
    · refine ⟨_, onlyStores.one b (F.TIME_REF_OFFSET_OFFSET 1) (satWord x).toNat _ (by decide) ?_, ?_⟩
      · rw [satWord_toNat]
        simp only [F.TIME_REF_OFFSET_OFFSET]
        omega
      · rw [hexec, if_pos ⟨hgood, h1, hpps⟩, if_pos ⟨decide_eq_true hback, hlocked⟩]
    · rw [hexec, if_pos ⟨hgood, h1, hpps⟩, if_neg]
      rintro ⟨hback, hlocked⟩
      rcases hfirst with h | h
      · exact absurd (of_decide_eq_true hback) (by omega)
      · exact h hlocked
  · obtain ⟨t, hexec, hmt, hepoch, hctrl⟩ := exec_ppsEdge_epochKept good x hrun hb
    have hb' : b.leads = s.leads ∧ b.time.mt = s.time.mt ∧ b.time.epoch = some e ∧ b.bl = s.bl ∧ b.pOff = s.pOff ∧
        b.blockNow = s.blockNow := by
      subst hb
      exact ⟨rfl, rfl, he, rfl, rfl, rfl⟩
    obtain ⟨hbl, hbmt, hbe, hbbl, hbp, hbnow⟩ := hb'
    rw [State.epochAtEdge_of_due hbe hpps (by rw [hbmt, hbbl]; exact hdue)] at hmt hepoch hctrl
    refine ⟨t, hexec, fun hleads => ?_, fun hleads => ?_⟩
    · rw [State.epochAtPps_of_not_leads e (hbl.trans hleads)] at hmt hepoch hctrl
      obtain ⟨hmt', hepoch', harm⟩ := b.loadEpoch_fields e
      refine ⟨hmt.trans hmt', hepoch.trans hepoch', Eq.trans ?_ harm⟩
      unfold State.flag State.get
      rw [show F.TIME_EPOCH_CTRL_ARM.addr = R.TIME_EPOCH_CTRL from rfl, hctrl]
    · rw [State.epochAtPps_of_leads e (hbl.trans hleads)] at hmt hepoch
      rw [hmt, hepoch, hbmt, hbp, hbbl, hbnow]
      exact ⟨rfl, rfl⟩
  · rw [exec_ppsLoss]
    have husable : s.refUsable 1 = true ↔ s.refState 1 = Ref.valid ∨ s.refState 1 = Ref.selected := by simp [State.refUsable]
    simp only [husable]
    split
    · exact ⟨_, rfl, (onlyStores.oneSet s F.TIME_FLAGS_PPS_LOST true (by decide) rfl).withTime _⟩
    · rfl

end Sys2Proof.Machine
end

/-! SUPPORT and CERTIFICATES. What a reset leaves, and the rows that reset. -/

section
namespace Sys2Proof.Machine

/-! Registers through a reset (R487). -/

theorem kget_filterMap_none {α : Type} {f : Nat × α → Option (Nat × α)} (hkey : ∀ p q, f p = some q → q.1 = p.1)
    {l : List (Nat × α)} {a : Nat} (h : ∀ p ∈ l, p.1 = a → f p = none) : kget (l.filterMap f) a = none := by
  induction l with
  | nil => rfl
  | cons p l ih =>
    obtain ⟨hp, hl⟩ := List.forall_mem_cons.1 h
    rw [List.filterMap_cons]
    cases hf : f p with
    | none => exact ih hl
    | some q =>
      have hqa : q.1 ≠ a := fun e => by
        have := hp ((hkey p q hf).symm.trans e)
        rw [hf] at this
        cases this
      rw [kget_cons, if_neg hqa]
      exact ih hl

theorem kget_filterMap_kept {α : Type} {f : Nat × α → Option (Nat × α)} (hkey : ∀ p q, f p = some q → q.1 = p.1)
    {l : List (Nat × α)} {a : Nat} (h : ∀ p ∈ l, p.1 = a → f p = some p) : kget (l.filterMap f) a = kget l a := by
  induction l with
  | nil => rfl
  | cons p l ih =>
    obtain ⟨hp, hl⟩ := List.forall_mem_cons.1 h
    by_cases he : p.1 = a
    · rw [List.filterMap_cons, hp he, kget_cons, kget_cons, if_pos he, if_pos he]
    · rw [List.filterMap_cons, kget_cons, if_neg he]
      cases hf : f p with
      | none => exact ih hl
      | some q =>
        have hqa : q.1 ≠ a := fun e => he ((hkey p q hf).symm.trans e)
        rw [kget_cons, if_neg hqa]
        exact ih hl

/-- An entry of the register store after a reset. -/
def State.keptEntry (s : State) (k : ResetKind) (p : Nat × W32) : Option (Nat × W32) :=
  match s.keptWord k p.1 p.2.toNat with
  | some w => if w32 w = regReset s.variant p.1 then none else some (p.1, w32 w)
  | none => none

theorem State.keptEntry_key (s : State) (k : ResetKind) (p q : Nat × W32) (h : s.keptEntry k p = some q) : q.1 = p.1 := by
  unfold State.keptEntry at h
  split at h
  · split at h
    · cases h
    · cases h
      rfl
  · cases h

theorem State.afterReset_rd (s : State) (k : ResetKind) (a : Nat) :
    (s.afterReset k).rd a = (kget (s.regs.filterMap (s.keptEntry k)) a).getD (regReset s.variant a) := rfl

/-- A register of which a reset keeps no word holds its reset value. -/
theorem State.afterReset_rd_of_reset {s : State} {k : ResetKind} {a : Nat} (h : ∀ w, s.keptWord k a w = none) :
    (s.afterReset k).rd a = regReset s.variant a := by
  rw [State.afterReset_rd, kget_filterMap_none (s.keptEntry_key k)]
  · rfl
  · rintro p - rfl
    rw [State.keptEntry, h]

theorem storeWf_ne {α : Type} [DecidableEq α] {dflt : Nat → α} {l : List (Nat × α)} (h : storeWf dflt l = true) :
    ∀ p ∈ l, p.2 ≠ dflt p.1 := by
  induction l with
  | nil => exact fun p hp => absurd hp List.not_mem_nil
  | cons q l ih =>
    obtain ⟨-, hq, hl⟩ := storeWf_cons.1 h
    exact List.forall_mem_cons.2 ⟨hq, ih hl⟩

theorem Memory.wf_regs {s : State} (h : Memory.wf s = true) : storeWf (regReset s.variant) s.regs = true := by
  simp only [Memory.wf, Bool.and_eq_true] at h
  exact h.1.1.1

/-- A register whose word a reset keeps holds it, in a memory of canonical form. -/
theorem State.afterReset_rd_of_kept {s : State} {k : ResetKind} {a : Nat} (hwf : Memory.wf s = true)
    (h : ∀ w, s.keptWord k a w = some w) : (s.afterReset k).rd a = s.rd a := by
  rw [State.afterReset_rd, kget_filterMap_kept (s.keptEntry_key k)]
  · rfl
  · rintro p hp rfl
    have hne := storeWf_ne (Memory.wf_regs hwf) p hp
    have hw : w32 p.2.toNat = p.2 := BitVec.ofNat_toNat _ _ |>.trans (by simp)
    rw [State.keptEntry, h]
    dsimp only
    rw [hw, if_neg hne]

/-- A register outside the blocks of which a reset may keep a word. -/
theorem State.keptWord_of_block {s : State} {k : ResetKind} {a : Nat} (h : 0x11000 ≤ a) (h' : a < 0x40000) (w : Nat) :
    s.keptWord k a w = none := by
  have hrepair : ((List.range 32).any fun n => decide (a = R.SLAB_REPAIR n)) = false :=
    List.any_eq_false.2 fun n _ => by rw [decide_eq_true_eq, R.SLAB_REPAIR]; omega
  have hstat : ((List.range 24).any fun n => decide (a = R.SAFE_MECH_STAT n)) = false :=
    List.any_eq_false.2 fun n _ => by rw [decide_eq_true_eq, R.SAFE_MECH_STAT]; omega
  obtain ⟨h1, h2, h3, h4, h5, h6, h7, h8, h9⟩ : a ≠ R.AGE_VDD ∧ a ≠ R.AGE_LOG ∧ a ≠ R.SAFE_LOG ∧ a ≠ R.SYS_LULL ∧
      a ≠ R.SAFE_FAULT_CNT ∧ a ≠ R.HOST_SCRATCH ∧ a ≠ R.CONTACT_OUT ∧ a ≠ R.SAFE_WDOG ∧ a ≠ R.SAFE_LOCK := by
    simp only [R.AGE_VDD, R.AGE_LOG, R.SAFE_LOG, R.SYS_LULL, R.SAFE_FAULT_CNT, R.HOST_SCRATCH, R.CONTACT_OUT, R.SAFE_WDOG,
      R.SAFE_LOCK]
    omega
  have hlow : ¬ a < 0x11000 := by omega
  have hhigh : ¬ 0x41000 ≤ a ∧ ¬ 0x42000 ≤ a ∧ ¬ 0x43000 ≤ a ∧ ¬ 0x4c000 ≤ a := by omega
  simp only [State.keptWord, hrepair, hstat, h1, h2, h3, h4, h5, h6, h7, h8, h9, hlow, hhigh, or_self, and_false, false_and,
    Bool.false_eq_true, if_false, ite_self]

/-- Every kind but POR keeps the words of SYS, but for SYS_LULL. -/
theorem State.keptWord_of_sys {s : State} {k : ResetKind} {a : Nat} (hk : k ≠ .por) (h : 0x10000 ≤ a) (h' : a < 0x11000)
    (hlull : a ≠ R.SYS_LULL) (w : Nat) : s.keptWord k a w = some w := by
  have hrepair : ((List.range 32).any fun n => decide (a = R.SLAB_REPAIR n)) = false :=
    List.any_eq_false.2 fun n _ => by rw [decide_eq_true_eq, R.SLAB_REPAIR]; omega
  simp only [State.keptWord, hrepair, R.AGE_VDD, R.AGE_LOG, R.SAFE_LOG, ne_eq]
  rw [if_neg (by omega), if_neg (by simp), if_neg hk, if_pos ⟨⟨h, h'⟩, hlull⟩]

/-- No kind keeps HOST_STATUS. -/
theorem State.keptWord_status {s : State} {k : ResetKind} (w : Nat) : s.keptWord k R.HOST_STATUS w = none := by
  simp +decide [State.keptWord]

/-! What a reset leaves (R434, R484, R486, R487). -/

/-- The state in RESET as it shows its kind, before the reset is counted. -/
def State.resetShown (s : State) (k : ResetKind) : State :=
  (((s.afterReset k).setPower .reset).put F.HOST_STATUS_RESET_KIND k.code).put F.SYS_STATE_RESET_KIND k.code

theorem State.resetTo_por (s : State) : s.resetTo .por = s.resetShown .por := rfl

theorem State.resetTo_of_ne {s : State} {k : ResetKind} (h : k ≠ .por) :
    s.resetTo k = (s.resetShown k).bump (F.SYS_RESETS_COUNT k.code) := if_neg h

theorem State.resetTo_frame (s : State) (k : ResetKind) :
    s.resetTo k = { s.afterReset k with power := .reset, regs := (s.resetTo k).regs } := by
  by_cases h : k = .por
  · rw [State.resetTo, if_pos h]
    rfl
  · rw [State.resetTo_of_ne h]
    rfl

theorem ResetKind.code_lt (k : ResetKind) : k.code < 5 := by cases k <;> decide

theorem State.resetShown_stores (s : State) (k : ResetKind) :
    onlyStores [(F.HOST_STATUS_PSTATE, 0), (F.SYS_STATE_PSTATE, 0), (F.HOST_STATUS_RESET_KIND, k.code),
      (F.SYS_STATE_RESET_KIND, k.code)] { s.afterReset k with power := .reset } (s.resetShown k) := by
  have hk : k.code % 2 ^ 4 = k.code := Nat.mod_eq_of_lt (Nat.lt_trans k.code_lt (by decide))
  exact (((onlyStores.one { s.afterReset k with power := .reset } F.HOST_STATUS_PSTATE 0 0 (by decide) rfl).put
    F.SYS_STATE_PSTATE 0 0 (by decide) rfl (by simp +decide)).put F.HOST_STATUS_RESET_KIND _ _ (by decide) hk
    (by simp +decide)).put F.SYS_STATE_RESET_KIND _ _ (by decide) hk (by simp +decide)

/-- The count of a kind lies apart from every register outside SYS_RESETS. -/
theorem State.resetTo_get {s : State} {k : ResetKind} {f : Fld} (h : f.addr < 0x1005c ∨ 0x11000 ≤ f.addr) :
    (s.resetTo k).get f = (s.resetShown k).get f := by
  by_cases hk : k = .por
  · rw [hk, State.resetTo_por]
  · have := k.code_lt
    rw [State.resetTo_of_ne hk]
    refine State.get_put_apart _ _ _ _ (.inl ?_)
    simp only [F.SYS_RESETS_COUNT, R.SYS_RESETS]
    omega

/-- A register from TIME to ZONE is at its reset value. -/
theorem State.resetTo_rd_of_block {s : State} {k : ResetKind} {a : Nat} (h : 0x11000 ≤ a) (h' : a < 0x40000) :
    (s.resetTo k).rd a = regReset s.variant a := by
  have hshown : (s.resetShown k).rd a = regReset s.variant a := by
    rw [(s.resetShown_stores k).2.2.rd (a := a) (by simp [F.HOST_STATUS_PSTATE, F.SYS_STATE_PSTATE, F.HOST_STATUS_RESET_KIND,
      F.SYS_STATE_RESET_KIND, R.HOST_STATUS, R.SYS_STATE]; omega)]
    exact State.afterReset_rd_of_reset (State.keptWord_of_block h h')
  by_cases hk : k = .por
  · rw [hk, State.resetTo_por, ← hk, hshown]
  · have := k.code_lt
    rw [State.resetTo_of_ne hk, State.bump, State.rd_put_ne _ _ _ (by simp only [F.SYS_RESETS_COUNT, R.SYS_RESETS]; omega)]
    exact hshown

/-- A reset of a kind other than POR is counted. -/
theorem State.resetTo_count {s : State} {k : ResetKind} (hwf : Memory.wf s = true) (hk : k ≠ .por) :
    (s.resetTo k).get (F.SYS_RESETS_COUNT k.code) = (s.get (F.SYS_RESETS_COUNT k.code) + 1) % 2 ^ (F.SYS_RESETS_COUNT k.code).width := by
  have hcode := k.code_lt
  have hold : (s.resetShown k).get (F.SYS_RESETS_COUNT k.code) = s.get (F.SYS_RESETS_COUNT k.code) := by
    rw [(s.resetShown_stores k).2.2.get _ (by simp [F.HOST_STATUS_PSTATE, F.SYS_STATE_PSTATE, F.HOST_STATUS_RESET_KIND,
      F.SYS_STATE_RESET_KIND, R.HOST_STATUS, R.SYS_STATE, F.SYS_RESETS_COUNT, R.SYS_RESETS]; omega)]
    refine congrArg (bits · _ _) (State.afterReset_rd_of_kept hwf (State.keptWord_of_sys hk ?_ ?_ ?_))
    all_goals simp only [F.SYS_RESETS_COUNT, R.SYS_RESETS, R.SYS_LULL]; omega
  rw [State.resetTo_of_ne hk, State.bump, State.get_put_self _ _ _ (by simp [F.SYS_RESETS_COUNT]), hold]

theorem SafeSt.afterReset_keys (b : SafeSt) (k : ResetKind) : (b.afterReset k).keys = b.keys := by cases k <;> rfl

theorem SafeSt.afterReset_log (b : SafeSt) (k : ResetKind) : (b.afterReset k).log = b.log := by cases k <;> rfl

theorem SlabSt.afterReset_words (b : SlabSt) (k : ResetKind) : (b.afterReset k).words = if k.warm then b.words else [] := by
  cases k <;> rfl

theorem State.timeAfter_mt (s : State) (k : ResetKind) :
    (s.timeAfter k).mt = if k = .soft ∧ s.get F.TIME_STATUS_MODE = 2 then s.time.mt else 0 := by
  unfold State.timeAfter
  split <;> rfl

theorem State.timeAfter_counting (s : State) (k : ResetKind) : (s.timeAfter k).counting = false := by
  unfold State.timeAfter
  split <;> rfl

/-- After a reset the device is not ready. -/
theorem State.resetTo_ready (s : State) (k : ResetKind) : (s.resetTo k).ready = false := by
  have hget : (s.resetTo k).get F.HOST_STATUS_READY = 0 := by
    rw [State.resetTo_get (by decide), (s.resetShown_stores k).2.2.get _ (by simp +decide)]
    refine (congrArg (bits · _ _) (State.afterReset_rd_of_reset State.keptWord_status)).trans ?_
    show bits (regReset s.variant R.HOST_STATUS) F.HOST_STATUS_READY.lo F.HOST_STATUS_READY.width = 0
    cases s.variant <;> decide
  rw [State.ready, State.flag, hget]
  rfl

/-! The rows that reset (R417, R481, R486). -/

theorem exec_powerOnReset (s : State) : exec .powerOnReset s = .next (s.resetTo .por) := rfl

theorem exec_resetDelayExpiry (s : State) : exec .resetDelayExpiry s = .next (match s.safe.resetDue with
    | none => s
    | some code => s.resetTo (if code = Mech.watchdog then .wdog else .safe)) := rfl

theorem exec_watchdogExpiry_of_on {s : State} (h : s.power ≠ .off) (h' : s.power ≠ .reset) : exec .watchdogExpiry s =
    .next (((s.raise Mech.watchdog 0xFFFF 0 0 0).bumpSat F.SAFE_WDOG_EXPIRY_CNT).resetTo .wdog) := by
  show execWatchdogExpiry s = _
  rw [execWatchdogExpiry, if_neg (not_or.2 ⟨h, h'⟩)]

theorem exec_pinReset_short {s : State} {ns : Nat} (h : ns < 100) : exec (.pinReset ns) s = .next s := by
  show execPinReset ns s = _
  unfold execPinReset
  dsimp only
  rw [if_neg (show ¬ (100 ≤ ns ∧ ns < 1000) by omega), if_pos (.inl (by simp; omega))]

theorem exec_pinReset_long {s : State} {ns : Nat} (h : 1000 ≤ ns) : exec (.pinReset ns) s =
    .next (if s.power = .reset ∧ s.resetKind = .por then s else s.resetTo .pin) := by
  show execPinReset ns s = _
  unfold execPinReset
  dsimp only
  rw [if_neg (show ¬ (100 ≤ ns ∧ ns < 1000) by omega)]
  simp [h]

/-- Between the two limits the reset happens or not, as a free value has it. -/
theorem exec_pinReset_between {s : State} {ns : Nat} (h : 100 ≤ ns) (h' : ns < 1000) :
    exec (.pinReset ns) s = .next s.draw.2 ∨ exec (.pinReset ns) s = .next (s.draw.2.resetTo .pin) := by
  show execPinReset ns s = _ ∨ execPinReset ns s = _
  unfold execPinReset
  dsimp only
  rw [if_pos (show 100 ≤ ns ∧ ns < 1000 from ⟨h, h'⟩)]
  split
  · exact .inl rfl
  · exact .inr rfl

/-- Settles O17: the rows that reset, and what a reset of each kind leaves. -/
theorem deviceResets : Obligations.DeviceResets := by
  refine ⟨exec_powerOnReset, fun s ns => ⟨exec_pinReset_short, fun h hp hk => ?_, fun h hother => ?_, exec_pinReset_between⟩,
    fun s hoff hreset => ?_, fun s => ⟨fun code h => ?_, fun h => ?_⟩, fun s t k ht => ?_⟩
  · rw [exec_pinReset_long h, if_pos ⟨hp, hk⟩]
  · rw [exec_pinReset_long h, if_neg (not_and_or.2 hother)]
  · refine ⟨_, ?_, exec_watchdogExpiry_of_on hoff hreset⟩
    exact (onlyStores.nil _).bumpSat F.SAFE_WDOG_EXPIRY_CNT (by decide) (by simp)
  · rw [exec_resetDelayExpiry, h]
  · rw [exec_resetDelayExpiry, h]
  · subst ht
    obtain ⟨-, hvals, -⟩ := s.resetShown_stores k
    simp only [List.forall_mem_cons] at hvals
    obtain ⟨hstate, -, hkind, -⟩ := hvals
    have hframe := s.resetTo_frame k
    refine ⟨by rw [hframe], by rw [hframe]; rfl, by rw [hframe]; rfl, by rw [hframe]; rfl, s.resetTo_ready k,
      (State.resetTo_get (by decide)).trans hstate, (State.resetTo_get (by decide)).trans hkind, by rw [hframe]; rfl,
      by rw [hframe]; rfl, by rw [hframe]; rfl, by rw [hframe]; rfl, by rw [hframe]; rfl, ?_, ?_, by rw [hframe]; rfl,
      ?_, ?_, ?_, fun a h h' => State.resetTo_rd_of_block h h', fun hwf hk => State.resetTo_count hwf hk⟩
    · rw [hframe]
      exact s.safe.afterReset_keys k
    · rw [hframe]
      exact s.safe.afterReset_log k
    · rw [hframe]
      exact s.slabs.afterReset_words k
    · rw [hframe]
      exact s.timeAfter_mt k
    · rw [hframe]
      exact s.timeAfter_counting k

end Sys2Proof.Machine
end

/-! SUPPORT and CERTIFICATES. The release of reset, and READY. -/

section
namespace Sys2Proof.Machine

theorem State.setPower_stores (s : State) (p : Power) (h : p.code < 16) :
    onlyStores [(F.HOST_STATUS_PSTATE, p.code), (F.SYS_STATE_PSTATE, p.code)] { s with power := p } (s.setPower p) :=
  (onlyStores.one { s with power := p } F.HOST_STATUS_PSTATE _ _ (by decide) (Nat.mod_eq_of_lt h)).put F.SYS_STATE_PSTATE _ _
    (by decide) (Nat.mod_eq_of_lt h) (by simp +decide)

/-! The boot (R443, R445, R463, R484). -/

theorem State.latchStraps_stores (s : State) (v : BitVec 4) : onlyStores
    [(F.CONTACT_STRAP_BOOT_SRC, b2n (v.getLsbD 0)), (F.CONTACT_STRAP_SPI_MODE, b2n (v.getLsbD 1)),
      (F.CONTACT_STRAP_COURSE_HINT, b2n (v.getLsbD 2)), (F.CONTACT_STRAP_SAFE_BOOT, b2n (v.getLsbD 3))] s (s.latchStraps v) :=
  (((onlyStores.oneSet s F.CONTACT_STRAP_BOOT_SRC _ (by decide) rfl).set F.CONTACT_STRAP_SPI_MODE _ (by decide) rfl
    (by simp +decide)).set F.CONTACT_STRAP_COURSE_HINT _ (by decide) rfl (by simp +decide)).set F.CONTACT_STRAP_SAFE_BOOT _
    (by decide) rfl (by simp +decide)

theorem State.showRegion_kept {fs : List Fld} {s t : State} (h : fieldsKept fs s t) (r : Nat) (a b : NorCopy)
    (hfs : F.MEMIF_REGION_STAT_VALID_A r ∈ fs ∧ F.MEMIF_REGION_STAT_VALID_B r ∈ fs ∧ F.MEMIF_REGION_STAT_ACTIVE r ∈ fs) :
    fieldsKept fs s (t.showRegion r a b) :=
  ((h.put _ _ hfs.1).put _ _ hfs.2.1).put _ _ hfs.2.2

/-- The discovery of the NOR up to what it finds of the three regions. -/
def State.discoverPart (s : State) : State :=
  let p := s.nor.flash.part
  ((((s.put F.MEMIF_NOR_ID_JEDEC_ID p.jedec.toNat).put F.MEMIF_NOR_CFG_SIZE_MIB p.sizeMib).put F.MEMIF_NOR_CFG_SFDP_REV
    p.sfdpRev.toNat).set F.MEMIF_NOR_CFG_QUAD p.quad).set F.MEMIF_NOR_CFG_ADDR4 p.addr4

def State.discoverRegions (s : State) (f : NorImage) : State :=
  ((s.showRegion 1 f.fwA f.fwB).showRegion 2 f.vaultA f.vaultB).showRegion 3 f.cfgA f.cfgB

theorem State.discover_eq (s : State) : s.discover = (s.discoverPart.discoverRegions s.nor.flash).put F.MEMIF_STATUS_NOR_STATE
    (if norUsable s.nor.flash.part ∧ (s.nor.flash.fwA.valid ∨ s.nor.flash.fwB.valid) then 1 else 3) := rfl

theorem State.discoverPart_stores (s : State) : onlyStores
    [(F.MEMIF_NOR_ID_JEDEC_ID, s.nor.flash.part.jedec.toNat), (F.MEMIF_NOR_CFG_SIZE_MIB, s.nor.flash.part.sizeMib % 2 ^ 16),
      (F.MEMIF_NOR_CFG_SFDP_REV, s.nor.flash.part.sfdpRev.toNat), (F.MEMIF_NOR_CFG_QUAD, b2n s.nor.flash.part.quad),
      (F.MEMIF_NOR_CFG_ADDR4, b2n s.nor.flash.part.addr4)] s s.discoverPart :=
  ((((onlyStores.one s F.MEMIF_NOR_ID_JEDEC_ID _ _ (by decide) (Nat.mod_eq_of_lt (BitVec.isLt _))).put F.MEMIF_NOR_CFG_SIZE_MIB _ _
    (by decide) rfl (by simp +decide)).put F.MEMIF_NOR_CFG_SFDP_REV _ _ (by decide) (Nat.mod_eq_of_lt (BitVec.isLt _))
    (by simp +decide)).set F.MEMIF_NOR_CFG_QUAD _ (by decide) rfl (by simp +decide)).set F.MEMIF_NOR_CFG_ADDR4 _ (by decide) rfl
    (by simp +decide)

/-- The fields that show the regions of the NOR. -/
def regionFields : List Fld :=
  [1, 2, 3].flatMap fun r => [F.MEMIF_REGION_STAT_VALID_A r, F.MEMIF_REGION_STAT_VALID_B r, F.MEMIF_REGION_STAT_ACTIVE r]

theorem State.discoverRegions_kept (s : State) (f : NorImage) : fieldsKept regionFields s (s.discoverRegions f) :=
  State.showRegion_kept (State.showRegion_kept (State.showRegion_kept (.refl _ _) 1 _ _ (by decide)) 2 _ _ (by decide)) 3 _ _
    (by decide)

/-- The fields that the discovery of the NOR writes. -/
def discoverFields : List Fld :=
  [F.MEMIF_NOR_ID_JEDEC_ID, F.MEMIF_NOR_CFG_SIZE_MIB, F.MEMIF_NOR_CFG_SFDP_REV, F.MEMIF_NOR_CFG_QUAD, F.MEMIF_NOR_CFG_ADDR4,
    F.MEMIF_STATUS_NOR_STATE] ++ regionFields

/-- A state that differs from another in its registers alone. -/
def RegsOnly (s t : State) : Prop := t = { s with regs := t.regs }

theorem RegsOnly.refl (s : State) : RegsOnly s s := rfl

theorem RegsOnly.put {s t : State} (h : RegsOnly s t) (f : Fld) (v : Nat) : RegsOnly s (t.put f v) :=
  show t.put f v = { s with regs := (t.put f v).regs } from congrArg (fun u : State => { u with regs := (t.put f v).regs }) h

theorem RegsOnly.showRegion {s t : State} (h : RegsOnly s t) (r : Nat) (a b : NorCopy) : RegsOnly s (t.showRegion r a b) :=
  ((h.put _ _).put _ _).put _ _

/-- What the discovery of the NOR leaves (R443). -/
theorem State.discover_fields {s t : State} (ht : t = s.discover) : RegsOnly s t ∧ fieldsKept discoverFields s t ∧
    t.get F.MEMIF_NOR_ID_JEDEC_ID = s.nor.flash.part.jedec.toNat ∧
    t.bootFailed = !(norUsable s.nor.flash.part && (s.nor.flash.fwA.valid || s.nor.flash.fwB.valid)) := by
  obtain ⟨hframe, hvals, hpart⟩ := s.discoverPart_stores
  have hregions := s.discoverPart.discoverRegions_kept s.nor.flash
  simp only [List.forall_mem_cons] at hvals
  have hjedec : ∀ v, ((s.discoverPart.discoverRegions s.nor.flash).put F.MEMIF_STATUS_NOR_STATE v).get F.MEMIF_NOR_ID_JEDEC_ID =
      s.nor.flash.part.jedec.toNat := fun v => by
    rw [State.get_put_apart _ _ _ _ (by decide), hregions.get _ (by decide), hvals.1]
  rw [ht, State.discover_eq]
  refine ⟨?_, ?_, hjedec _, ?_⟩
  · have hpartOnly : RegsOnly s s.discoverPart := hframe
    exact (((hpartOnly.showRegion 1 _ _).showRegion 2 _ _).showRegion 3 _ _).put _ _
  · exact ((hpart.mono (by simp [discoverFields])).trans (hregions.mono (by decide))).put _ _ (by decide)
  · rw [State.bootFailed, State.get_put_self _ _ _ (by decide)]
    cases norUsable s.nor.flash.part <;> cases s.nor.flash.fwA.valid <;> cases s.nor.flash.fwB.valid <;> rfl

/-- The state in which the boot ROM begins: the flash as it is found, the straps latched after POR and PIN, BOOT, and the next nonce. -/
def State.bootStart (s : State) (env : BootEnv) : State :=
  let s := { s with nor := { s.nor with flash := env.flash.getD s.nor.flash } }
  let s := if s.resetKind = .por ∨ s.resetKind = .pin then s.latchStraps env.straps else s
  let s := s.setPower .boot
  { s with safe := { s.safe with nonce := Config.nonceAfter s.safe.nonce } }

/-- The state in which the boot ROM knows whether the firmware can boot. -/
def State.bootFound (s : State) (env : BootEnv) : State :=
  if s.resetKind = .wdog ∨ s.resetKind = .soft then s.bootStart env else (s.bootStart env).discover

/-- The choice of the firmware's copy. -/
def State.bootChosen (s : State) (k : ResetKind) : State :=
  let s := s.put F.MEMIF_STATUS_BANK_STATE 2
  if k = .wdog then s else s.set F.SYS_BOOT_COPY_B s.bootsB

/-- What the boot restores once a copy is chosen. -/
def State.bootRestored (s : State) (k : ResetKind) : State :=
  (if k = .wdog ∨ k = .soft then s.startRepairs else s.startRepairs.loadVault).restorePlan.restoreImage

theorem State.boot_eq (s : State) (env : BootEnv) : s.boot env =
    if (s.bootFound env).bootFailed then (s.bootFound env).freezeAlive
    else
      let w := ((s.bootFound env).bootChosen s.resetKind).bootRestored s.resetKind
      { w with age := { w.age with avsBusy := w.flag F.AGE_CTRL_AVS_EN } } := by
  obtain ⟨straps, flash⟩ := env
  cases flash <;> rfl

/-- What the start of the boot leaves (R463, R484). -/
theorem State.bootStart_fields {s t : State} {env : BootEnv} (ht : t = s.bootStart env) :
    t.power = .boot ∧ t.nor.flash = env.flash.getD s.nor.flash ∧ t.safe.nonce = Config.nonceAfter s.safe.nonce ∧
    t.get F.HOST_STATUS_PSTATE = 1 ∧
    (s.resetKind = .por ∨ s.resetKind = .pin →
      t.flag F.CONTACT_STRAP_BOOT_SRC = env.straps.getLsbD 0 ∧ t.flag F.CONTACT_STRAP_SPI_MODE = env.straps.getLsbD 1 ∧
      t.flag F.CONTACT_STRAP_COURSE_HINT = env.straps.getLsbD 2 ∧ t.flag F.CONTACT_STRAP_SAFE_BOOT = env.straps.getLsbD 3) ∧
    t = { s with regs := t.regs, power := t.power, nor := t.nor, safe := t.safe } := by
  obtain ⟨n, hn⟩ : ∃ n : State, n = { s with nor := { s.nor with flash := env.flash.getD s.nor.flash } } := ⟨_, rfl⟩
  obtain ⟨l, hl⟩ : ∃ l : State, l = if s.resetKind = .por ∨ s.resetKind = .pin then n.latchStraps env.straps else n := ⟨_, rfl⟩
  have hframe : RegsOnly n l := by
    rw [hl]
    split
    · exact (n.latchStraps_stores env.straps).1
    · exact .refl n
  obtain ⟨hset, hvals, hkept⟩ := l.setPower_stores .boot (by decide)
  have hboot : t = { l.setPower .boot with safe := { l.safe with nonce := Config.nonceAfter l.safe.nonce } } := by
    rw [ht, hl, hn]
    rfl
  simp only [List.forall_mem_cons] at hvals
  have hnor : l.nor = n.nor := (congrArg State.nor (show l = { n with regs := l.regs } from hframe)).trans rfl
  have hbase : l = { s with nor := l.nor, regs := l.regs } := by
    rw [hn] at hframe hnor
    rw [hnor]
    exact hframe
  have hnonce : l.safe = s.safe := (congrArg State.safe hbase).trans rfl
  rw [hboot]
  refine ⟨rfl, ?_, ?_, hvals.1, fun hk => ?_, ?_⟩
  · exact (congrArg NorSt.flash hnor).trans (by rw [hn])
  · exact congrArg (fun x : SafeSt => Config.nonceAfter x.nonce) hnonce
  · rw [if_pos hk] at hl
    obtain ⟨-, hstraps, -⟩ := n.latchStraps_stores env.straps
    rw [← hl] at hstraps
    simp only [List.forall_mem_cons] at hstraps
    obtain ⟨h0, h1, h2, h3, -⟩ := hstraps
    have hflag : ∀ f b, f.addr = R.CONTACT_STRAP → l.get f = b2n b → (l.setPower .boot).flag f = b := fun f b ha hb => by
      rw [State.flag, hkept.get f (by simp +decide [ha]), ← State.flag]
      show decide (l.get f ≠ 0) = b
      rw [hb]
      cases b <;> rfl
    exact ⟨hflag _ _ rfl h0, hflag _ _ rfl h1, hflag _ _ rfl h2, hflag _ _ rfl h3⟩
  · exact congrArg (fun x : State => { x with
      power := .boot, regs := (l.setPower .boot).regs, safe := { l.safe with nonce := Config.nonceAfter l.safe.nonce } }) hbase

theorem RegsOnly.bootFrame {s t u : State} (h : t = { s with regs := t.regs, power := t.power, nor := t.nor, safe := t.safe })
    (h' : RegsOnly t u) : u = { s with regs := u.regs, power := u.power, nor := u.nor, safe := u.safe } := by
  have hall : u = { s with regs := u.regs, power := t.power, nor := t.nor, safe := t.safe } :=
    h'.trans (congrArg (fun x : State => { x with regs := u.regs }) h)
  have hpower : u.power = t.power := (congrArg State.power hall).trans rfl
  have hnor : u.nor = t.nor := (congrArg State.nor hall).trans rfl
  have hsafe : u.safe = t.safe := (congrArg State.safe hall).trans rfl
  rw [hpower, hnor, hsafe]
  exact hall

/-- What the device knows when it has discovered the NOR. -/
theorem State.bootFound_fields {s u : State} {env : BootEnv} (hu : u = s.bootFound env) :
    u.power = .boot ∧ u.nor.flash = env.flash.getD s.nor.flash ∧ u.safe.nonce = Config.nonceAfter s.safe.nonce ∧
    u.get F.HOST_STATUS_PSTATE = 1 ∧
    (s.resetKind = .por ∨ s.resetKind = .pin →
      u.flag F.CONTACT_STRAP_BOOT_SRC = env.straps.getLsbD 0 ∧ u.flag F.CONTACT_STRAP_SPI_MODE = env.straps.getLsbD 1 ∧
      u.flag F.CONTACT_STRAP_COURSE_HINT = env.straps.getLsbD 2 ∧ u.flag F.CONTACT_STRAP_SAFE_BOOT = env.straps.getLsbD 3) ∧
    u = { s with regs := u.regs, power := u.power, nor := u.nor, safe := u.safe } := by
  obtain ⟨t, ht⟩ : ∃ t, t = s.bootStart env := ⟨_, rfl⟩
  have hstart := State.bootStart_fields ht
  rw [State.bootFound, ← ht] at hu
  split at hu
  · exact hu ▸ hstart
  · obtain ⟨hpower, hflash, hnonce, hpstate, hstraps, hframe⟩ := hstart
    obtain ⟨honly, hkept, -, -⟩ := State.discover_fields hu
    have hflag : ∀ f, (∀ g ∈ discoverFields, g.addr ≠ f.addr) → u.flag f = t.flag f := fun f h => by
      rw [State.flag, hkept.get f fun g hg => .inl (h g hg), State.flag]
    rw [hflag _ (by decide), hflag _ (by decide), hflag _ (by decide), hflag _ (by decide), hkept.get _ (by decide)]
    refine ⟨?_, ?_, ?_, hpstate, hstraps, ?_⟩
    · rw [honly, ← hpower]
    · rw [honly, ← hflash]
    · rw [honly, ← hnonce]
    · exact RegsOnly.bootFrame hframe honly

/-- The choice of the copy, as the field stores that it makes. -/
theorem State.bootChosen_stores (s : State) (k : ResetKind) :
    onlyStores ((F.MEMIF_STATUS_BANK_STATE, 2) :: (if k = .wdog then [] else [(F.SYS_BOOT_COPY_B, b2n s.bootsB)])) s
      (s.bootChosen k) := by
  have hbank := onlyStores.one s F.MEMIF_STATUS_BANK_STATE 2 2 (by decide) rfl
  have hcopy : (s.put F.MEMIF_STATUS_BANK_STATE 2).bootsB = s.bootsB := by
    unfold State.bootsB State.flag
    rw [hbank.2.2.get F.CONTACT_STRAP_BOOT_SRC (by decide)]
    rfl
  unfold State.bootChosen
  dsimp only
  split
  · exact hbank
  · rw [← hcopy]
    exact hbank.set F.SYS_BOOT_COPY_B _ (by decide) rfl (by simp +decide)

theorem exec_resetRelease (s : State) (env : BootEnv) : exec (.resetRelease env) s =
    .next (if s.power = .reset then s.boot env else s) := rfl

/-! READY (R45, R263). -/

/-- The bricks that failed are out of service, and the usable slots and the firmware are shown. -/
def State.readyBase (s : State) (gold : List Nat) : State :=
  let s := forEach (gold.filter fun p => p < s.variant.bricks + s.variant.spares) s fun p s => s.goldenAtReset p
  let s := s.setUsable (slotsFor s.plannedMhz s.rate)
  s.wr R.SYS_FW (if s.flag F.SYS_BOOT_COPY_B then s.nor.flash.fwB else s.nor.flash.fwA).version

/-- READY is shown, and media time counts. -/
def State.readyShown (b : State) (ms : Nat) : State :=
  let s := ((b.put F.SYS_BOOT_BOOT_MS (min 65535 ms)).set F.HOST_STATUS_READY).set F.HOST_IRQ_STAT_READY_EVT
  let s := (s.setPower .idle).set F.TIME_STATUS_MPLL_LOCK
  { s with time := { s.time with counting := true } }

/-- The state in which READY is posted. -/
def State.readyState (s : State) (ms : Nat) (gold : List Nat) : State :=
  let s := (s.readyBase gold).readyShown ms
  let s := s.set F.SAFE_ALIVE_STAT_FROZEN (¬ s.aliveOk)
  s.set F.SAFE_STATUS_ALIVE_RUN s.aliveOk

/-- An abandoned work reported (R256, R301, R539). -/
def State.postAbandoned (b : Nat) (s : State) : State :=
  if b < 256 then s.post 0x0201 b [0x09, 0] else if b < 512 then s.post 0x0C01 (b - 256) [0x05]
  else if b < 768 then s.post 0x1301 0xFFFF [0x05] else s.post 0x0103 0xFFFF [0x05]

theorem State.becomeReady_eq {s u v : State} {ms : Nat} {gold : List Nat} (hu : u = s.readyState ms gold)
    (hv : v = forEach (u.post 0x0101 0xFFFF [w32 u.resetKind.code]).logAll.banks.abandoned
      (u.post 0x0101 0xFFFF [w32 u.resetKind.code]).logAll State.postAbandoned) :
    s.becomeReady ms gold = State.bootSquall { v with banks := { v.banks with abandoned := [] } } := by
  subst hu hv
  rfl

theorem exec_readyRise (s : State) (ms : Nat) (gold : List Nat) : exec (.readyRise ms gold) s =
    .next (if s.power = .boot ∧ ¬ s.bootFailed then (s.becomeReady ms gold).takeWaiting else s) := rfl

theorem State.takeWaiting_of_none {s : State} (h : s.host.waiting = []) : s.takeWaiting = s := by
  have hhost : { s.host with waiting := [] } = s.host := by rw [← h]
  rw [State.takeWaiting, h]
  show { s with host := { s.host with waiting := [] } } = s
  rw [hhost]

theorem State.readyBase_keeps (s : State) (gold : List Nat) : Keeps true s (s.readyBase gold) :=
  State.wr_keeps (State.setUsable_keeps (forEach_keeps (fun _ _ h => State.goldenAtReset_keeps h) (Keeps.refl _ _)))

/-- READY, as the field stores that it makes. -/
theorem State.readyShown_stores (b : State) (ms : Nat) :
    onlyStores [(F.SYS_BOOT_BOOT_MS, min 65535 ms), (F.HOST_STATUS_READY, 1), (F.HOST_IRQ_STAT_READY_EVT, 1),
        (F.HOST_STATUS_PSTATE, 2), (F.SYS_STATE_PSTATE, 2), (F.TIME_STATUS_MPLL_LOCK, 1)]
      { b with power := .idle, time := { b.time with counting := true } } (b.readyShown ms) :=
  (((((onlyStores.one { b with power := .idle, time := { b.time with counting := true } } F.SYS_BOOT_BOOT_MS (min 65535 ms) _
    (by decide) (Nat.mod_eq_of_lt (show min 65535 ms < 65536 by omega))).set F.HOST_STATUS_READY true (by decide) rfl
    (by simp +decide)).set F.HOST_IRQ_STAT_READY_EVT true (by decide) rfl (by simp +decide)).put F.HOST_STATUS_PSTATE 2 2 (by decide)
    rfl (by simp +decide)).put F.SYS_STATE_PSTATE 2 2 (by decide) rfl (by simp +decide)).set F.TIME_STATUS_MPLL_LOCK true (by decide)
    rfl (by simp +decide)

/-- What READY shows (R45, R263, R282). -/
theorem State.readyState_fields {s u : State} {ms : Nat} {gold : List Nat} (hu : u = s.readyState ms gold) :
    u.power = .idle ∧ u.ready = true ∧ u.get F.HOST_STATUS_PSTATE = 2 ∧ u.time.mt = s.time.mt ∧ u.time.counting = true ∧
    u.flag F.TIME_STATUS_MPLL_LOCK = true ∧ u.flag F.HOST_IRQ_STAT_READY_EVT = true ∧
    u.get F.SYS_BOOT_BOOT_MS = min 65535 ms ∧ u.variant = s.variant := by
  obtain ⟨hframe, hvals, -⟩ := (s.readyBase gold).readyShown_stores ms
  obtain ⟨hvariant, -, -, -, hmt⟩ := s.readyBase_keeps gold
  rw [State.readyState] at hu
  generalize (s.readyBase gold).readyShown ms = r at hu hframe hvals
  have honly : RegsOnly r u := hu ▸ ((RegsOnly.refl r).put _ _).put _ _
  have hkept : fieldsKept [F.SAFE_ALIVE_STAT_FROZEN, F.SAFE_STATUS_ALIVE_RUN] r u :=
    hu ▸ ((fieldsKept.refl _ r).put _ _ (by simp)).put _ _ (by simp)
  simp only [List.forall_mem_cons] at hvals
  obtain ⟨hms, hready, hirq, hstate, -, hlock, -⟩ := hvals
  have hflag : ∀ f, (∀ g ∈ [F.SAFE_ALIVE_STAT_FROZEN, F.SAFE_STATUS_ALIVE_RUN], g.addr ≠ f.addr) → r.get f = 1 →
      u.flag f = true :=
    fun f hf h => by
      rw [State.flag, hkept.get f fun g hg => .inl (hf g hg), h]
      rfl
  refine ⟨?_, hflag _ (by decide) hready, (hkept.get _ (by decide)).trans hstate, ?_, ?_, hflag _ (by decide) hlock,
    hflag _ (by decide) hirq, (hkept.get _ (by decide)).trans hms, ?_⟩
  · rw [honly, hframe]
  · rw [honly, hframe]
    exact hmt rfl
  · rw [honly, hframe]
  · rw [honly, hframe]
    exact hvariant

/-- Settles O18: the release of reset, and READY. -/
theorem bootAndReady : Obligations.BootAndReady := by
  refine ⟨fun s env h => ?_, fun s env f hpower hf => ?_, fun s ms gold h => ?_, fun s ms gold hpower hboot => ?_,
    fun s => State.takeWaiting_of_none⟩
  · rw [exec_resetRelease, if_neg h]
  · subst hf
    obtain ⟨u, hu⟩ : ∃ u, u = s.bootFound env := ⟨_, rfl⟩
    obtain ⟨hboot, hflash, hnonce, hpstate, hstraps, hframe⟩ := State.bootFound_fields hu
    refine ⟨u, hboot, hflash, hnonce, hpstate, hstraps, fun hw hs => ?_, hframe, fun hfail => ?_, fun hok => ?_⟩
    · rw [State.bootFound, if_neg (not_or.2 ⟨hw, hs⟩)] at hu
      obtain ⟨-, -, hjedec, hfailed⟩ := State.discover_fields hu
      rw [← (State.bootStart_fields (env := env) rfl).2.1]
      exact ⟨hjedec, hfailed⟩
    · rw [exec_resetRelease, if_pos hpower, State.boot_eq, ← hu, if_pos hfail]
    · refine ⟨u.bootChosen s.resetKind, _, u.bootChosen_stores _, rfl, ?_⟩
      rw [exec_resetRelease, if_pos hpower, State.boot_eq, ← hu, if_neg (by simp [hok])]
      rfl
  · rw [exec_readyRise, if_neg]
    rcases h with h | h <;> simp [h]
  · obtain ⟨u, hu⟩ : ∃ u, u = s.readyState ms gold := ⟨_, rfl⟩
    obtain ⟨h1, h2, h3, h4, h5, h6, h7, h8, h9⟩ := State.readyState_fields hu
    refine ⟨u, _, h1, h2, h3, h4, h5, h6, h7, h8, h9, rfl, ?_⟩
    rw [exec_readyRise, if_pos ⟨hpower, by simp [hboot]⟩, State.becomeReady_eq hu rfl]
    rfl

end Sys2Proof.Machine
end

/-! SUPPORT and CERTIFICATES. The clock through a tick: the store, voices, scripts and tiles. -/

section
namespace Sys2Proof.Machine

/-! What a block tick does before media time advances leaves the clock alone. -/

/-- The clock of `s` is that of `r`: the record of media time, the variant, and the registers of TIME. -/
def ClockKept (r s : State) : Prop :=
  s.time = r.time ∧ s.variant = r.variant ∧ ∀ a, 0x11000 ≤ a → a < 0x12000 → s.rd a = r.rd a

theorem ClockKept.refl (s : State) : ClockKept s s := ⟨rfl, rfl, fun _ _ _ => rfl⟩

theorem ClockKept.trans {r s t : State} (h : ClockKept r s) (h' : ClockKept s t) : ClockKept r t :=
  ⟨h'.1.trans h.1, h'.2.1.trans h.2.1, fun a ha ha' => (h'.2.2 a ha ha').trans (h.2.2 a ha ha')⟩

/-- The address of a register of an array that lies above TIME. -/
theorem clockApart_add {b n : Nat} (h : 0x12000 ≤ b) : b + n < 0x11000 ∨ 0x12000 ≤ b + n := .inr (Nat.le_add_right_of_le h)

theorem clockApart_add_add {b m n : Nat} (h : 0x12000 ≤ b) : b + m + n < 0x11000 ∨ 0x12000 ≤ b + m + n :=
  .inr (Nat.le_add_right_of_le (Nat.le_add_right_of_le h))

theorem iter_clockKept {r s : State} {f : State → State} (n : Nat) (hf : ∀ t, ClockKept r t → ClockKept r (f t))
    (h : ClockKept r s) : ClockKept r (iter f n s) := by
  induction n generalizing s with
  | zero => exact h
  | succ n ih => exact ih (hf s h)

theorem forEach_clockKept {α : Type} {r s : State} {f : α → State → State} (l : List α)
    (hf : ∀ a t, ClockKept r t → ClockKept r (f a t)) (h : ClockKept r s) : ClockKept r (forEach l s f) := by
  unfold forEach
  induction l generalizing s with
  | nil => exact h
  | cons a l ih => exact ih (hf a s h)

section
variable {r s : State} (h : ClockKept r s)
include h

/-- A record update that leaves the variant, the registers and media time alone. -/
theorem ClockKept.upd {power' : Power} {lullFrom' : Power} {lullEntry' : Bool} {resetKind' : ResetKind} {spi' mclk'} {host' : HostSt}
    {disp' : DispSt} {mix' : MixSt} {zones' : List Zone} {groups' : List Group} {banks' : BankSt} {kernel' : KernelSt}
    {dp' : Datapath} {ports' : List PortSt} {ana' : List AnaSt} {anaTrim' : Option TrimRun} {timers' : List TimerSt}
    {uarts' : List UartSt} {contacts' : List ContactSt} {supv' : SupvSt} {age' : AgeSt} {stream' : StreamSt} {course' : CourseSt}
    {strike' : StrikeSt} {safe' : SafeSt} {slabs' : SlabSt} {nor' : NorSt} {pins' : Pins} {timed' : List Timed}
    {order' free' : Nat} {pending'} :
    ClockKept r (State.mk s.variant power' lullFrom' lullEntry' resetKind' s.regs spi' mclk' s.time host' disp' mix' zones' groups'
      banks' kernel' dp' ports' ana' anaTrim' timers' uarts' contacts' supv' age' stream' course' strike' safe' slabs' nor' pins'
      timed' order' free' pending') := h

theorem ClockKept.ite {c : Prop} [Decidable c] {t : State} (h' : ClockKept r t) : ClockKept r (if c then s else t) := by
  split
  · exact h
  · exact h'

theorem ClockKept.wr {a : Nat} {v : W32} (ha : a < 0x11000 ∨ 0x12000 ≤ a) : ClockKept r (s.wr a v) :=
  h.trans ⟨rfl, rfl, fun _ _ _ => State.rd_wr_ne s v (by omega)⟩

theorem ClockKept.put {f : Fld} {v : Nat} (ha : f.addr < 0x11000 ∨ 0x12000 ≤ f.addr) : ClockKept r (s.put f v) := h.wr ha

theorem ClockKept.set {f : Fld} {b : Bool} (ha : f.addr < 0x11000 ∨ 0x12000 ≤ f.addr) : ClockKept r (s.set f b) := h.wr ha

theorem ClockKept.bump {f : Fld} {k : Nat} (ha : f.addr < 0x11000 ∨ 0x12000 ≤ f.addr) : ClockKept r (s.bump f k) := h.wr ha

theorem ClockKept.bumpSat {f : Fld} {k : Nat} (ha : f.addr < 0x11000 ∨ 0x12000 ≤ f.addr) : ClockKept r (s.bumpSat f k) := h.wr ha

theorem ClockKept.wr64 {lo hi v : Nat} (hlo : lo < 0x11000 ∨ 0x12000 ≤ lo) (hhi : hi < 0x11000 ∨ 0x12000 ≤ hi) :
    ClockKept r (s.wr64 lo hi v) := (h.wr hlo).wr hhi

theorem ClockKept.postAt {ty src mt : Nat} {d : List W32} : ClockKept r (s.postAt ty src mt d) := by
  have hp := s.postAt_posted ty src mt d
  exact h.trans ⟨hp.time, hp.variant, fun a ha ha' => hp.2 a (eventWord_eq_false (by omega) (.inl (by omega)))⟩

theorem ClockKept.post {ty src : Nat} {d : List W32} : ClockKept r (s.post ty src d) := h.postAt

/-! Voices, their scripts and their tiles. -/

theorem ClockKept.setVoice {v : Voice} : ClockKept r (s.setVoice v) := h.upd
theorem ClockKept.setSeq {v : Voice} {q : Seq} : ClockKept r (s.setSeq v q) := h.setVoice
theorem ClockKept.setPend {l : List TapPend} : ClockKept r (s.setPend l) := h.upd
theorem ClockKept.setTaps {l : List Tap} : ClockKept r (s.setTaps l) := h.upd
theorem ClockKept.setBank {b : Bank} : ClockKept r (s.setBank b) := h.upd
theorem ClockKept.setJob {j : Job} : ClockKept r (s.setJob j) := h.upd
theorem ClockKept.setChan {c : AnaSt} : ClockKept r (s.setChan c) := h.upd
theorem ClockKept.setPort {p : PortSt} : ClockKept r (s.setPort p) := h.upd
theorem ClockKept.setTimer {t : TimerSt} : ClockKept r (s.setTimer t) := h.upd
theorem ClockKept.setShare {br : Nat} {x : Nat × Nat} : ClockKept r (s.setShare br x) := h.upd
theorem ClockKept.useReserve {br n : Nat} : ClockKept r (s.useReserve br n) := h.setShare
theorem ClockKept.draw : ClockKept r s.draw.2 := h.upd

theorem ClockKept.rollbackLost {v : Voice} {e : Nat} : ClockKept r (s.rollbackLost v e) := h.post.setVoice

theorem ClockKept.restoreVoice {v : Voice} {e : Nat} : ClockKept r (s.restoreVoice v e) := by
  unfold State.restoreVoice
  split
  · exact h.rollbackLost
  · exact h.setVoice

theorem ClockKept.seqCut {v : Voice} {t : Nat} {e : Edit} : ClockKept r (s.seqCut v t e) := h.setSeq

theorem ClockKept.seqEnd {v : Voice} {t : Nat} : ClockKept r (s.seqEnd v t) := by
  unfold State.seqEnd
  split
  · exact h.seqCut
  · exact h.setVoice

theorem ClockKept.scriptFault {v : Voice} {i : Nat} {w : W32} : ClockKept r (s.scriptFault v i w) := h.post

theorem ClockKept.startCompanion {w : Voice} {t dur : Nat} : ClockKept r (s.startCompanion w t dur) := h.setVoice

theorem ClockKept.rollVoice {v : Voice} {e : Nat} {count : Bool} : ClockKept r (s.rollVoice v e count) := by
  unfold State.rollVoice
  dsimp only
  split
  · exact (h.setVoice.bump (by decide)).ite h.setVoice
  · exact h.setVoice.ite h

theorem ClockKept.toneEdit {w : Voice} {mt : Nat} {cut : Bool} : ClockKept r (s.toneEdit w mt cut) :=
  h.setVoice.ite h.setVoice.rollVoice

theorem ClockKept.seqTone {record t : Nat} {w : W32} : ClockKept r (s.seqTone record t w) := by
  unfold State.seqTone
  split
  · split
    · exact h.setVoice
    · exact h
  · dsimp only
    split
    · exact h.ite h.startCompanion
    · exact h.toneEdit.ite h
    · exact h.toneEdit.ite h

theorem ClockKept.seqAct {src record t : Nat} {ws : List W32} : ClockKept r (s.seqAct src record t ws) := by
  unfold State.seqAct
  dsimp only
  split
  · exact h.seqTone
  split
  · split
    · exact h.setVoice
    · exact h
  · exact h

theorem ClockKept.seqTimed {src record t : Nat} {ws : List W32} {cur : Cursor} {next : Option TilePlay} :
    ClockKept r (s.seqTimed src record t ws cur next) := by
  unfold State.seqTimed
  split
  · exact h
  · dsimp only
    split
    · split
      · exact h.setSeq
      · exact h.setSeq
    · exact h.setSeq
    · exact h.setSeq
    · exact h.seqEnd

theorem ClockKept.mapImage {n gen : Nat} {f : Image → Image} : ClockKept r (s.mapImage n gen f) := h.setBank

theorem ClockKept.tileMarkBad {n gen tile cause : Nat} : ClockKept r (s.tileMarkBad n gen tile cause) := h.mapImage.post

theorem ClockKept.checkTile {n gen tile : Nat} : ClockKept r (s.checkTile n gen tile) := by
  unfold State.checkTile
  split
  · exact h
  · exact h.ite (h.mapImage.ite h.tileMarkBad)

theorem ClockKept.beforeTile {n gen tile : Nat} : ClockKept r (s.beforeTile n gen tile) := by
  unfold State.beforeTile
  split
  · exact h
  · exact h.checkTile.ite h

theorem ClockKept.takeTile {src record : Nat} {c : Cursor} {prev : Option TilePlay} {t : Nat} {w ref : W32} {osc : Nat → Int}
    {hi : Nat} : ClockKept r (s.takeTile src record c prev t w ref osc hi).1 := by
  unfold State.takeTile
  split
  · exact h
  · extract_lets tailOf quiet
    clear_value tailOf quiet
    split
    · exact h.setVoice
    · extract_lets s' bad v' t head
      have hs : ClockKept r s' := h.beforeTile
      clear_value s' bad v' t head
      split
      · exact hs.setVoice
      · split
        · split
          · exact hs.setVoice
          · exact hs.setVoice
        · exact hs.setVoice

end

end Sys2Proof.Machine
end

/-! SUPPORT and CERTIFICATES. The clock through a tick: the passes that render a block. -/

section
namespace Sys2Proof.Machine

theorem foldl_fst_clockKept {α β : Type} {r : State} {p : State × β} {f : State × β → α → State × β} (l : List α)
    (hf : ∀ a (q : State × β), ClockKept r q.1 → ClockKept r (f q a).1) (h : ClockKept r p.1) : ClockKept r (l.foldl f p).1 := by
  induction l generalizing p with
  | nil => exact h
  | cons a l ih => exact ih (hf a p h)

section
variable {r s : State} (h : ClockKept r s)
include h

theorem ClockKept.seqOp {src record : Nat} {ws : List W32} {osc : Nat → Int} {hi : Nat} :
    ClockKept r (s.seqOp src record ws osc hi) := by
  unfold State.seqOp
  split
  · exact h
  · dsimp only
    split
    · exact h.seqEnd.ite h.scriptFault.seqEnd
    · refine h.setSeq.seqAct.ite (h.seqTimed.ite ?_)
      refine ClockKept.seqTimed ?_
      split
      · exact h.takeTile.setSeq
      · exact h.takeTile

theorem ClockKept.decideAt {v : Voice} {t : Nat} {osc : Nat → Int} {hi : Nat} : ClockKept r (s.decideAt v t osc hi) := by
  unfold State.decideAt
  extract_lets
  generalize scriptAhead v.script (v.releasedBy t) 65536 _ [] = ahead
  obtain ⟨ops, cur, ok⟩ := ahead
  dsimp -zeta only
  extract_lets ops ws tile
  clear_value ops ws tile
  have hs : ∀ x, ClockKept r (if tile then s.takeTile v.src v.record cur v.seq.played.head? (2 * t) (ws.headD 0) (ws.getD 1 0) osc hi
      else (s, none, x)).1 := fun x => by
    split
    · exact h.takeTile
    · exact h
  specialize hs (v.seq.played.head?.map fun a =>
    s.leaveSilent a ((s.tileOf v a).elim 0 fun x => s.zoneLen x x.entry.tail a.pitch a.tempo (osc a.ends)))
  dsimp only
  generalize (if tile = true then State.takeTile .. else _) = p at hs ⊢
  obtain ⟨u, next, prev⟩ := p
  dsimp only
  split
  · exact hs
  · exact ClockKept.setSeq hs

theorem ClockKept.boundary {v : Voice} {t : Nat} : ClockKept r (s.boundary v t) := by
  unfold State.boundary
  split
  · exact h
  · extract_lets q s' t' x last
    have hops : ClockKept r t' := forEach_clockKept _ (fun _ _ ht => ht.seqAct) h.setSeq
    clear_value t'
    have hlast : ClockKept r last := hops.scriptFault.ite hops
    exact hlast.seqTimed

theorem ClockKept.seqGo {v : Voice} {t : Nat} : ClockKept r (s.seqGo v t) := h.setSeq

theorem ClockKept.seqStep {t : State} {src record : Nat} {osc : Nat → Int} {lo hi : Nat}
    (ht : s.seqStep src record osc lo hi = some t) : ClockKept r t := by
  unfold State.seqStep at ht
  split at ht
  · cases ht
  split at ht
  · cases ht
  split at ht
  · cases ht
    exact h.seqCut
  split at ht
  · cases ht
  · cases ht
    split
    · exact h.seqOp
    · exact h.decideAt.ite h.boundary
    · exact h.seqGo

end

theorem ClockKept.seqRun {r s : State} {src record : Nat} {osc : Nat → Int} {lo hi n : Nat} (h : ClockKept r s) :
    ClockKept r (s.seqRun src record osc lo hi n) := by
  induction n generalizing s with
  | zero => exact h
  | succ n ih =>
    unfold State.seqRun
    split
    · exact h
    · next t ht => exact ih (h.seqStep ht)

section
variable {r s : State} (h : ClockKept r s)
include h

theorem ClockKept.seqBlock {src record : Nat} {osc : Nat → Int} {lo hi : Nat} : ClockKept r (s.seqBlock src record osc lo hi) := by
  unfold State.seqBlock
  split
  · exact h
  · refine forEach_clockKept _ (fun x t ht => ?_) h.setSeq
    split
    · exact ht
    · exact ht.setVoice.seqRun

theorem ClockKept.takeSource {src record t : Nat} : ClockKept r (s.takeSource src record t) := by
  unfold State.takeSource
  split
  · exact h
  · extract_lets y mode ref same
    split
    · exact h
    · split
      · exact h.setVoice
      split
      · exact h.setVoice
      · exact h.beforeTile.setVoice

theorem ClockKept.stretch {src record : Nat} {c : Control} {lo hi : Nat} {x : Rendered} :
    ClockKept r (s.stretch src record c lo hi x).1 := by
  unfold State.stretch
  extract_lets s'
  have hs : ClockKept r s' := h.takeSource
  clear_value s'
  split
  · exact hs
  · exact hs.setVoice

theorem ClockKept.passBlock {v : Voice} {b : Nat} : ClockKept r (s.passBlock v b).1 := by
  unfold State.passBlock
  extract_lets
  generalize s.control v b = p
  obtain ⟨w, c⟩ := p
  exact foldl_fst_clockKept _ (fun _ _ ht => ht.stretch) h.setVoice.seqBlock

end

theorem ClockKept.passes {r s : State} {v : Voice} {b n : Nat} (h : ClockKept r s) : ClockKept r (s.passes v b n).1 := by
  induction n generalizing s v with
  | zero => exact h.passBlock
  | succ n ih =>
    unfold State.passes
    have hs : ClockKept r (s.passBlock v b).1 := h.passBlock
    generalize s.passBlock v b = p at hs
    obtain ⟨t, x⟩ := p
    dsimp only
    split
    · exact hs
    · rw [apply_ite Prod.fst, apply_ite Prod.fst]
      exact ClockKept.ite hs (ClockKept.ite (ClockKept.setVoice hs) (ih h))

end Sys2Proof.Machine
end

/-! SUPPORT and CERTIFICATES. The clock through a tick: the ends of jobs, and faults. -/

section
namespace Sys2Proof.Machine

section
variable {r s : State} (h : ClockKept r s)
include h

/-! The ends of jobs. -/

theorem ClockKept.setPower {p : Power} : ClockKept r (s.setPower p) := by
  have hp : ClockKept r { s with power := p } := h.upd
  exact (hp.put (by decide)).put (by decide)

theorem ClockKept.dropReady {n : Nat} : ClockKept r (s.dropReady n) := h.upd
theorem ClockKept.release {n : Nat} : ClockKept r (s.release n) := h.dropReady.upd
theorem ClockKept.dropVrel {j : W32} : ClockKept r (s.dropVrel j) := h.setPend

theorem ClockKept.tapsNote {job : W32} : ClockKept r (s.tapsNote job) := by
  unfold State.tapsNote
  extract_lets u s'
  have hs : ClockKept r s' := (h.put (by decide)).ite h
  clear_value s'
  split
  · exact hs.upd.ite hs
  split
  · exact hs.post.upd
  · exact hs

theorem ClockKept.dropTaps {src n : Nat} : ClockKept r (s.dropTaps src n) := by
  unfold State.dropTaps
  exact h.upd.tapsNote

theorem ClockKept.dropVoices {n : Nat} : ClockKept r (s.dropVoices n) := by
  have hs := forEach_clockKept (s.voicesOf n) (fun v _ ht => ht.dropTaps (src := v.src) (n := n)) h
  exact hs.upd

theorem ClockKept.wipeJob {j : Job} : ClockKept r (s.wipeJob j) := h.dropVoices.dropVrel.release

theorem ClockKept.wipeJobs : ClockKept r s.wipeJobs := forEach_clockKept _ (fun _ _ ht => ht.wipeJob) h

theorem ClockKept.courseSend {ty : Nat} {d : List W32} : ClockKept r (s.courseSend ty d) := by
  unfold State.courseSend
  exact h.ite h.upd

theorem ClockKept.followEnd {v : Voice} : ClockKept r (s.followEnd v) := by
  unfold State.followEnd
  split
  · exact h
  · exact forEach_clockKept _ (fun _ _ ht => ht.toneEdit) h

theorem ClockKept.stopVoice {v : Voice} {mt reason : Nat} : ClockKept r (s.stopVoice v mt reason) := by
  unfold State.stopVoice
  exact h.ite h.setVoice.followEnd

theorem ClockKept.squallOver {j : Job} {cause : Nat} : ClockKept r (s.squallOver j cause) := by
  unfold State.squallOver
  split
  · exact h.post.upd
  · exact h

theorem ClockKept.finishOwn {j : Job} {st : JobState} {reason mt : Nat} : ClockKept r (s.finishOwn j st reason mt) :=
  h.dropVoices.dropVrel.dropReady.squallOver.postAt.setJob

theorem ClockKept.partDone {x : W32} {course reason : Nat} {part : Option Job} : ClockKept r (s.partDone x course reason part) := by
  unfold State.partDone
  split
  · exact h
  · exact h.ite (h.finishOwn.ite h.setJob)

theorem ClockKept.finish {j : Job} {st : JobState} {reason mt : Nat} : ClockKept r (s.finish j st reason mt) := by
  unfold State.finish
  extract_lets s'
  have hs : ClockKept r s' := h.finishOwn
  clear_value s'
  split
  · exact hs
  · exact hs.partDone.ite hs.courseSend

theorem ClockKept.stopJob {j : Job} {mt reason : Nat} : ClockKept r (s.stopJob j mt reason) := by
  unfold State.stopJob
  split
  · exact forEach_clockKept _ (fun _ _ ht => ht.stopVoice) (h.ite h.setJob)
  · exact forEach_clockKept _ (fun _ _ ht => ht.stopVoice) (h.ite h.setJob)
  · exact h.finish
  · exact h.finish
  · exact h.finish
  · exact h

/-! Faults. -/

theorem ClockKept.freezeAlive : ClockKept r s.freezeAlive := (h.set (by decide)).set (by decide)

theorem ClockKept.anaMute {n : Nat} {after : AnaAfter} {fast : Bool} : ClockKept r (s.anaMute n after fast) := by
  unfold State.anaMute
  exact (h.setChan.put (clockApart_add (by decide))).ite h

theorem ClockKept.outputsInert {fast : Bool} : ClockKept r (s.outputsInert fast) :=
  forEach_clockKept _ (fun _ _ ht => ht.ite ht.anaMute) h

theorem ClockKept.portStopAt {n mt : Nat} {post : Bool} : ClockKept r (s.portStopAt n mt post) := by
  unfold State.portStopAt
  exact h.ite h.setPort

theorem ClockKept.enterFault {code : Nat} : ClockKept r (s.enterFault code) := by
  have hpower := ((h.put (f := F.SAFE_STATUS_CAUSE) (v := code) (by decide)).bump (f := F.SYS_FAULT_CNT_COUNT) (k := 1)
    (by decide)).setPower (p := .fault)
  have hoff := (hpower.freezeAlive.wipeJobs.outputsInert (fast := true)).put (f := F.CONTACT_OUT_LEVEL) (v := 0) (by decide)
  exact (forEach_clockKept (List.range 8) (fun n t ht => ht.portStopAt (n := n) (mt := t.time.mt) (post := false)) hoff).upd

theorem ClockKept.delVoice {src n : Nat} : ClockKept r (s.delVoice src n) := h.upd
theorem ClockKept.setKmem {b a : Nat} {v : W32} : ClockKept r (s.setKmem b a v) := h.upd

end

theorem ClockKept.putKmem {r s : State} {b a : Nat} {l : List W32} (h : ClockKept r s) : ClockKept r (s.putKmem b a l) := by
  induction l generalizing s a with
  | nil => exact h
  | cons w l ih => exact ih h.setKmem

section
variable {r s : State} (h : ClockKept r s)
include h

theorem ClockKept.migrate {v : Voice} {src m : Nat} : ClockKept r (s.migrate v src m) := by
  unfold State.migrate
  extract_lets s' w
  have hs : ClockKept r s' := h.delVoice
  clear_value s' w
  split
  · exact (hs.putKmem.ite hs).setVoice
  · exact hs.setVoice

theorem ClockKept.migrateVoices {b m : Nat} : ClockKept r (s.migrateVoices b m) :=
  forEach_clockKept _ (fun _ _ ht => ht.migrate) h

theorem ClockKept.takeOver {b p q : Nat} : ClockKept r (s.takeOver b p q) := by
  have hmap := ((h.set (f := F.BRICK_MAP_IN_SERVICE q) (b := true) (clockApart_add (by decide))).put (f := F.BRICK_MAP_LOGICAL q)
    (v := b) (clockApart_add (by decide))).set (f := F.BRICK_MAP_CLOSED q) (b := s.flag (F.BRICK_MAP_CLOSED p))
    (clockApart_add (by decide))
  exact ((hmap.wr (clockApart_add (by decide))).wr (clockApart_add (by decide))).put (by decide)

theorem ClockKept.excludeTwin {b m : Nat} : ClockKept r (s.excludeTwin b m) := h.upd

theorem ClockKept.moveVoice {old new m : Nat} : ClockKept r (s.moveVoice old new m) := by
  unfold State.moveVoice
  split
  · exact h
  · extract_lets s1 s2 disp s3 s4
    have h1 : ClockKept r s1 := h.migrate
    clear_value s1
    have h2 : ClockKept r s2 := by
      subst s2
      split
      · exact h1.setJob
      · exact h1
    clear_value s2
    have h3 : ClockKept r s3 := h2.upd
    clear_value s3
    exact h3.setTaps.setPend

theorem ClockKept.brickFail {b : Nat} : ClockKept r (s.brickFail b) := by
  unfold State.brickFail
  split
  · exact h
  · next p _ =>
    extract_lets m s1 safe s2
    have h1 : ClockKept r s1 := ((h.set (clockApart_add (by decide))).set (clockApart_add (by decide))).bumpSat (by decide)
    clear_value s1
    have h2 : ClockKept r s2 := h1.upd
    clear_value s2
    split
    · next q _ =>
      have h3 : ClockKept r ((s2.takeOver b p q).migrateVoices b m) := h2.takeOver.migrateVoices
      exact (h3.excludeTwin.courseSend.ite h3).upd
    · have h3 : ∀ k, ClockKept r (s2.bumpSat F.SAFE_DEGRADE_RELEASED k) := fun k => h2.bumpSat (by decide)
      refine forEach_clockKept _ (fun _ _ ht => ht.moveVoice) (forEach_clockKept _ (fun _ _ ht => ?_) (h3 _))
      split
      · exact ht.stopJob
      · exact ht

theorem ClockKept.bankLost : ClockKept r s.bankLost := by
  have hs := (h.set (f := F.SAFE_BANKMEM_UNAVAILABLE) (b := true) (by decide)).put (f := F.MEMIF_STATUS_BANK_STATE) (v := 4) (by decide)
  exact forEach_clockKept _ (fun _ _ ht => (ht.set (clockApart_add (by decide))).ite ht) hs.upd

theorem ClockKept.bufferRecord {code inst react : Nat} {injected : Bool} {loc exp obs : W32} :
    ClockKept r (s.bufferRecord code inst react injected loc exp obs) := by
  unfold State.bufferRecord
  split
  · exact h.upd
  · extract_lets n x safe s1 s2
    have h1 : ClockKept r s1 := h.upd
    clear_value s1
    have h2 : ClockKept r s2 := (((h1.bump (by decide)).put (by decide)).put (by decide)).put (by decide)
    exact h2.wr64 (by decide) (by decide)

theorem ClockKept.reactTo {code inst react : Nat} : ClockKept r (s.reactTo code inst react) := by
  have hreact : ClockKept r (
      let s := if code = Mech.bankUnavail ∨ (code = Mech.clock ∧ inst = 3) then s.bankLost else s
      let s := if 2 ≤ react ∧ (s.power = .idle ∨ s.power = .run) then s.enterFault code else s
      if react = React.reset then
        let s := s.freezeAlive
        { s with safe := { s.safe with resetDue := some (s.safe.resetDue.getD code) } }
      else if react = React.degrade ∧ s.power ≠ .fault then
        if code = Mech.golden ∨ code = Mech.rollback ∨ code = Mech.brickEcc then s.brickFail inst else s
      else s) := by
    extract_lets s1 s2
    have h1 : ClockKept r s1 := h.bankLost.ite h
    clear_value s1
    have h2 : ClockKept r s2 := h1.enterFault.ite h1
    clear_value s2
    split
    · exact h2.freezeAlive.upd
    · exact (h2.brickFail.ite h2).ite h2
  unfold State.reactTo
  split
  · exact h.upd
  · exact hreact
  · exact hreact
  · exact hreact
  · exact hreact
  · exact h

theorem ClockKept.raiseWith {code inst : Nat} {loc exp obs : W32} {react : Nat} {injected : Bool} :
    ClockKept r (s.raiseWith code inst loc exp obs react injected) := by
  unfold State.raiseWith
  extract_lets active s1 s2 s3
  have h1 : ClockKept r s1 := ((h.set (clockApart_add (by decide))).set (clockApart_add (by decide))).bumpSat (clockApart_add (by decide))
  clear_value s1
  have h2 : ClockKept r s2 := h1.bufferRecord
  clear_value s2
  have h3 : ClockKept r s3 := (h2.put (by decide)).ite h2
  exact h3.reactTo

theorem ClockKept.ckptLost {b a : Nat} : ClockKept r (s.ckptLost b a) := by
  unfold State.ckptLost
  have hd : ClockKept r s.draw.2 := h.draw
  generalize s.draw = p at hd
  obtain ⟨x, t⟩ := p
  exact ClockKept.ite hd (ClockKept.upd hd)

theorem ClockKept.tapLost : ClockKept r s.tapLost := by
  unfold State.tapLost
  have hd : ClockKept r s.draw.2 := h.draw
  generalize s.draw = p at hd
  obtain ⟨x, t⟩ := p
  exact ((ClockKept.upd hd).set (by decide)).bumpSat (by decide)

theorem ClockKept.baseReact {code inst : Nat} : ClockKept r (s.baseReact code inst).2 := by
  unfold State.baseReact
  split
  · exact h
  split
  · exact h.draw
  split
  · exact h
  · exact h

theorem ClockKept.raise {code inst : Nat} {loc exp obs : W32} {injected : Bool} :
    ClockKept r (s.raise code inst loc exp obs injected) := by
  unfold State.raise
  have hb : ClockKept r (s.baseReact code inst).2 := h.baseReact
  generalize s.baseReact code inst = p at hb
  obtain ⟨x, t⟩ := p
  dsimp -zeta only at hb ⊢
  extract_lets s1 s2
  have h1 : ClockKept r s1 := hb.ckptLost.ite hb
  clear_value s1
  have h2 : ClockKept r s2 := h1.tapLost.ite h1
  exact h2.raiseWith

theorem ClockKept.mismatch {src : Nat} : ClockKept r (s.mismatch src) := by
  unfold State.mismatch
  exact (h.set (clockApart_add (by decide))).raise

end

end Sys2Proof.Machine
end

/-! SUPPORT and CERTIFICATES. The clock through a tick: the serve of the reserve, the placement of jobs, and timers. -/

section
namespace Sys2Proof.Machine

/-! The serve of the reserve. -/

theorem ClockKept.renderBlock {r s : State} (h : ClockKept r s) {v : Voice} : ClockKept r (s.renderBlock v) := by
  unfold State.renderBlock
  extract_lets b v' silent v0
  clear_value v' silent v0
  have hp : ClockKept r ((s.setVoice v0).passes v0 b 3).1 := h.setVoice.passes
  generalize (s.setVoice v0).passes v0 b 3 = p at hp
  obtain ⟨t, x⟩ := p
  dsimp -zeta only at hp ⊢
  split
  · exact h
  · extract_lets lead xs w1 w2 w3 quiet w4 s1 s2
    clear_value w4
    have h1 : ClockKept r s1 := (h.ite hp).setVoice
    clear_value s1
    have h2 : ClockKept r s2 := h1.mismatch.ite h1
    clear_value s2
    exact h2.ite h2.followEnd

theorem ClockKept.serveQueue {r s : State} {br n : Nat} {goal : State → Bool} (h : ClockKept r s) :
    ClockKept r (s.serveQueue br goal n) := by
  induction n generalizing s with
  | zero => exact h
  | succ n ih =>
    unfold State.serveQueue
    split
    · exact h
    split
    · exact h
    split
    · exact ih h.restoreVoice
    · exact h.ite (ih h.renderBlock.useReserve)

theorem ClockKept.serveAll {r s : State} (h : ClockKept r s) : ClockKept r s.serveAll :=
  forEach_clockKept _ (fun _ _ ht => ht.serveQueue.ite ht) h

section
variable {r s : State} (h : ClockKept r s)
include h

/-! The ports and the usable slots at a rebase. -/

theorem ClockKept.showTag {n : Nat} : ClockKept r (s.showTag n) :=
  h.wr64 (clockApart_add (by decide)) (clockApart_add (by decide))

theorem ClockKept.portsRebase : ClockKept r s.portsRebase :=
  forEach_clockKept _ (fun _ _ ht => ht.setPort.ite
    ((ht.setPort.put (clockApart_add (by decide))).put (clockApart_add (by decide))).showTag) h

theorem ClockKept.setUsable {n : Nat} : ClockKept r (s.setUsable n) :=
  forEach_clockKept _ (fun _ _ ht => (ht.put (clockApart_add (by decide))).ite ht) h

/-! The placement of a job. -/

theorem ClockKept.rollCompanion {w : Voice} {e : Nat} {count : Bool} : ClockKept r (s.rollCompanion w e count) := by
  unfold State.rollCompanion
  extract_lets keep w' w'' rest
  have hrest : ClockKept r rest := h.setVoice
  clear_value rest
  split
  · exact hrest
  split
  · exact hrest
  · exact h.setVoice.rollVoice

theorem ClockKept.rollFrom {v : Voice} {mt : Nat} {count : Bool} : ClockKept r (s.rollFrom v mt count) := by
  unfold State.rollFrom
  extract_lets e s'
  have hs : ClockKept r s' := by
    subst s'
    split
    · exact h.rollVoice
    · exact h
  clear_value s'
  split
  · exact h
  · exact hs.ite (forEach_clockKept _ (fun _ _ ht => ht.rollCompanion) hs)

theorem ClockKept.editVoice {src record mt : Nat} {k : EditKind} : ClockKept r (s.editVoice src record mt k) := by
  unfold State.editVoice
  split
  · exact h
  · exact h.ite h.setVoice.rollFrom

theorem ClockKept.bindVrel {job : W32} {v src t : Nat} : ClockKept r (s.bindVrel job v src t) := h.setPend

theorem ClockKept.waitNote {c : Nat} : ClockKept r (s.waitNote c) :=
  (h.put (clockApart_add (by decide))).put (clockApart_add (by decide))

theorem ClockKept.bind {j : Job} {b : Nat} {slots : List Nat} : ClockKept r (s.bind j b slots) := by
  unfold State.bind
  extract_lets start wait c j' s1 s2 s3 disp s4
  have h1 : ClockKept r s1 := h.dropReady.setJob
  clear_value s1
  have h2 : ClockKept r s2 := forEach_clockKept _ (fun x t ht => by
    extract_lets t1 t2 t3
    have ht1 : ClockKept r t1 := ht.setVoice
    clear_value t1
    have ht2 : ClockKept r t2 := by
      subst t2
      split
      · exact ht1.editVoice
      · exact ht1
    clear_value t2
    exact forEach_clockKept _ (fun _ _ hu => hu.setTaps) ht2.bindVrel) h1
  clear_value s2
  have h4 : ClockKept r s4 := h2.tapsNote.upd
  clear_value s4
  exact h4.waitNote.put (clockApart_add (by decide))

theorem ClockKept.stealAll {gone : List Nat} {t : Nat} : ClockKept r (s.stealAll gone t) := by
  refine forEach_clockKept _ (fun _ _ ht => ?_) h
  split
  · exact (ht.bump (by decide)).stopJob
  · exact ht

theorem ClockKept.waitTaps {j : Job} : ClockKept r (s.waitTaps j) := by
  have hs := (h.set (f := F.DISP_STATUS_TAPS_FULL) (b := true) (by decide)).set (f := F.MIX_STATUS_TAPS_FULL) (b := true) (by decide)
  exact hs.ite hs.post.setJob

theorem ClockKept.place {n : Nat} : ClockKept r (s.place n).1 := by
  unfold State.place
  split
  · exact h.dropReady
  split
  · exact h.finish
  extract_lets d vers b
  split
  · exact h.bind
  split
  · exact h.stealAll.bind
  · exact h.waitTaps.ite h

end

theorem ClockKept.serveClass {r s : State} {c n : Nat} (h : ClockKept r s) : ClockKept r (State.serveClass c n s) := by
  induction n generalizing s with
  | zero => exact h
  | succ n ih =>
    unfold State.serveClass
    split
    · exact h
    · next m _ _ =>
      have hp : ClockKept r (s.place m).1 := h.place
      generalize s.place m = p at hp
      obtain ⟨t, more⟩ := p
      exact ClockKept.ite (ih (ClockKept.dropReady hp)) hp

section
variable {r s : State} (h : ClockKept r s)
include h

theorem ClockKept.toReady {j : Job} : ClockKept r (s.toReady j) := by
  have hs := h.setJob (j := { j with state := .ready, readyAt := s.commit })
  exact hs.upd

theorem ClockKept.insertJob {n : Nat} {d : Descr} {startAt want : Nat} {hw : Bool} {site : Option W32} :
    ClockKept r (s.insertJob n d startAt want hw site) := by
  unfold State.insertJob
  have hs : ClockKept r { s with order := s.order + 1 } := h.upd
  generalize { s with order := s.order + 1 } = u at hs
  exact hs.setJob.ite hs.toReady.serveClass

/-! Timers. -/

theorem ClockKept.trigFire {t : Nat} : ClockKept r (s.trigFire t) := by
  unfold State.trigFire
  extract_lets s' busy
  have hs : ClockKept r s' := h.bumpSat (clockApart_add (by decide))
  clear_value s'
  split
  · exact hs
  split
  · exact hs
  split
  · exact hs
  · next d _ n _ =>
    have hput := hs.put (f := F.DISP_TRIG_STAT_RECORD t) (v := n) (clockApart_add (by decide))
    exact hput.upd.insertJob

theorem ClockKept.trigAll {kind n event : Nat} : ClockKept r (s.trigAll kind n event) :=
  forEach_clockKept _ (fun _ _ ht => ht.trigFire.ite ht) h

theorem ClockKept.strikeAdd {p : StrikePend} : ClockKept r (s.strikeAdd p) := by
  unfold State.strikeAdd
  split
  · exact (h.bumpSat (f := F.STRK_COUNT_MERGED) (k := 1) (by decide)).upd
  · exact h.upd

theorem ClockKept.strikeTrigger {src mt : Nat} : ClockKept r (s.strikeTrigger src mt) := by
  unfold State.strikeTrigger
  exact h.ite (h.courseSend.ite h).strikeAdd

theorem ClockKept.timPost {n : Nat} : ClockKept r (s.timPost n) := by
  unfold State.timPost
  exact h.ite h.post.setTimer

theorem ClockKept.timOutput {n e : Nat} : ClockKept r (s.timOutput n e) := by
  unfold State.timOutput
  exact h.ite ((h.set (clockApart_add (by decide))).setTimer.ite (h.set (clockApart_add (by decide))))

theorem ClockKept.timDue {n a : Nat} : ClockKept r (s.timDue n a) := h.setTimer

theorem ClockKept.timEvent {n e : Nat} : ClockKept r (s.timEvent n e) := by
  unfold State.timEvent
  extract_lets s1 s2 s3 s4 s5 t
  have h1 : ClockKept r s1 := (h.set (clockApart_add (by decide))).ite (h.put (clockApart_add (by decide)))
  clear_value s1
  have h3 : ClockKept r s3 := forEach_clockKept _ (fun _ _ ht => ht.timDue.ite ht) h1.timOutput
  clear_value s3
  have h4 : ClockKept r s4 := h3.trigAll
  clear_value s4
  have h5 : ClockKept r s5 := h4.strikeTrigger.ite h4
  clear_value s5
  exact h5.setTimer.timPost.ite h5

theorem ClockKept.timReach {n : Nat} : ClockKept r (s.timReach n) := h.put (clockApart_add (by decide))

theorem ClockKept.timLoad0 {n : Nat} : ClockKept r (s.timLoad0 n) :=
  ((h.put (clockApart_add (by decide))).set (clockApart_add (by decide))).timReach

theorem ClockKept.timArm {n c : Nat} {on : Bool} : ClockKept r (s.timArm n c on) := h.put (clockApart_add (by decide))

theorem ClockKept.timAdd {n c : Nat} : ClockKept r (s.timAdd n c) := by
  unfold State.timAdd
  extract_lets i s'
  have hs : ClockKept r s' := h.put (clockApart_add_add (by decide))
  clear_value s'
  exact hs.timArm.ite hs.timReach

theorem ClockKept.timMatch {n c : Nat} : ClockKept r (s.timMatch n c) := by
  unfold State.timMatch
  extract_lets a s' tgt
  clear_value a tgt
  have hs : ClockKept r s' := h.timEvent
  clear_value s'
  split
  · exact hs.setTimer
  · exact hs.timDue
  · exact hs.timAdd
  · exact hs.timAdd.timDue
  · exact hs

theorem ClockKept.timCount {n : Nat} : ClockKept r (s.timCount n) := by
  unfold State.timCount
  extract_lets t count wrap s' s1 s2 v s3
  have hs : ClockKept r s' := h.setTimer
  clear_value s'
  have hskip : ClockKept r (s'.set (F.TIM_STATUS_PSKIP n)) := hs.set (clockApart_add (by decide))
  split
  · have h1 : ClockKept r s1 := hskip.ite hs
    have h2 : ClockKept r s2 := h1.timLoad0.timEvent
    clear_value s2
    exact h2.ite (forEach_clockKept _ (fun _ _ ht => ht.timMatch) h2)
  split
  · exact (hs.timLoad0.set (clockApart_add (by decide))).timEvent
  split
  · exact hs.timLoad0
  · exact forEach_clockKept _ (fun _ _ ht => ht.timMatch) (hs.put (clockApart_add (by decide)))

theorem ClockKept.timGate {n : Nat} : ClockKept r (s.timGate n).2 := by
  unfold State.timGate
  exact h.draw.ite h

theorem ClockKept.timPrescale {n k : Nat} : ClockKept r (s.timPrescale n k).2 := by
  unfold State.timPrescale
  have hg : ClockKept r (s.timGate n).2 := h.timGate
  generalize s.timGate n = p at hg
  obtain ⟨ok, t⟩ := p
  dsimp -zeta only at hg ⊢
  extract_lets s'
  have hs : ClockKept r s' := hg.set (clockApart_add (by decide))
  clear_value s'
  split
  · exact hs
  · exact hs.setTimer

theorem ClockKept.timJump {n ticks : Nat} : ClockKept r (s.timJump n ticks) := by
  unfold State.timJump
  split
  · exact h
  · have hp : ClockKept r (s.timPrescale n ticks).2 := h.timPrescale
    generalize s.timPrescale n ticks = p at hp
    obtain ⟨k, t⟩ := p
    dsimp -zeta only at hp ⊢
    split
    · exact iter_clockKept _ (fun _ ht => ht.timCount) hp
    · extract_lets p old passed s1 s2
      have h1 : ClockKept r s1 := hp.timLoad0.timEvent.ite hp
      clear_value s1
      exact forEach_clockKept _ (fun _ _ ht => ht.timMatch) (h1.put (clockApart_add (by decide)))

end

end Sys2Proof.Machine
end

/-! SUPPORT and CERTIFICATES. The tick's advance of media time: one block, a jump, an epoch. -/

section
namespace Sys2Proof.Machine

/-! The tick (R26, R38, R41, R536). -/

theorem ClockKept.rd {r s : State} (h : ClockKept r s) {a : Nat} (ha : 0x11000 ≤ a) (ha' : a < 0x12000) : s.rd a = r.rd a :=
  h.2.2 a ha ha'

theorem ClockKept.bl {r s : State} (h : ClockKept r s) : s.bl = r.bl := State.bl_congr (h.rd (by decide) (by decide))

theorem ClockKept.blockNow {r s : State} (h : ClockKept r s) : s.blockNow = r.blockNow := by
  rw [State.blockNow, State.blockOf, h.bl, h.1]
  rfl

theorem ClockKept.commit {r s : State} (h : ClockKept r s) : s.commit = r.commit := by
  have hp : s.pOff = r.pOff := congrArg (bits · _ _) (h.rd (a := R.TIME_PIPE) (by decide) (by decide))
  rw [State.commit, State.latency, h.blockNow, hp]
  rfl

/-- The state as the tick finds it when it advances media time. -/
def State.beforeAdvance (s : State) : State := (s.serveAll.set F.DISP_STATUS_STORM s.serveAll.storm).shiftReserve

theorem State.beforeAdvance_clockKept (s : State) : ClockKept s s.beforeAdvance :=
  ((ClockKept.refl s).serveAll.set (by decide)).upd

/-- Media time at a tick, by a rebase, a jump or one block. -/
def State.tickTime (s : State) : State :=
  match s.time.rate.filter fun r => r.ramped ∧ ¬ r.rebased ∧ r.blockA ≤ s.commit with
  | some r => s.rebase r
  | none =>
    match s.time.jump.filter fun j => j.at_ ≤ s.blockNow + 1 with
    | some j => s.makeJump j
    | none => s.withTime { s.time with mt := s.time.mt + s.bl }

/-- An epoch whose sample has passed is loaded. -/
def State.tickEpoch (s : State) : State :=
  match s.time.epoch.filter fun e => ¬ e.onPps ∧ e.applyAt < s.time.mt with
  | some e => s.loadEpoch e
  | none => s

/-- A rate change whose block A is reached begins. -/
def State.tickRate (s : State) : State :=
  match s.time.rate with
  | some r => if r.blockA ≤ s.commit then s.rateBegin else s
  | none => s

theorem State.advance_eq (s : State) : s.advance.1 = s.tickTime.tickEpoch.tickRate := by
  unfold State.advance
  extract_lets time go t u v
  have hgo : go.1 = s.tickTime := by
    clear v u t
    subst go
    unfold State.tickTime
    generalize s.time.rate.filter _ = change
    generalize s.time.jump.filter _ = jump
    cases change with
    | some r => dsimp only
    | none =>
      cases jump with
      | some j => dsimp only
      | none => rfl
  show go.1.tickEpoch.tickRate = _
  rw [hgo]

theorem State.tickRate_mt (s : State) : s.tickRate.time.mt = s.time.mt := by
  have hkeeps : Keeps true s s.tickRate := by
    unfold State.tickRate
    split
    · exact ite_keeps (State.rateBegin_keeps (.refl _ _)) (.refl _ _)
    · exact .refl _ _
  exact hkeeps.2.2.2.2 rfl

theorem State.tickEpoch_mt_of_none {s : State} (h : s.time.epoch = none) : s.tickEpoch.time.mt = s.time.mt := by
  rw [State.tickEpoch, h]
  rfl

theorem State.tickEpoch_mt_of_some {s : State} {e : EpochLoad} (h : s.time.epoch = some e) : s.tickEpoch.time.mt =
    if e.onPps = false ∧ e.applyAt < s.time.mt then e.value else s.time.mt := by
  by_cases hdue : e.onPps = false ∧ e.applyAt < s.time.mt
  · rw [if_pos hdue, State.tickEpoch, h, Option.filter_some_pos (by simp [hdue])]
    exact (s.loadEpoch_fields e).1
  · rw [if_neg hdue, State.tickEpoch, h, Option.filter_some_neg (by simpa using hdue)]

/-- What comes after the advance keeps media time. -/
theorem State.blockTick_mt (s : State) : s.blockTick.time.mt = s.beforeAdvance.advance.1.time.mt := by
  have hrest : ∀ (t : State) (b jump : Nat) (grown : Bool) (rets : List (Nat × List Int)), Keeps true t
      ((((t.zoneAll b jump).twinSigs b).dewYield.transport.refTick.freeReported.flushTimed.raTick
        grown).waitTick.dispatch.banksTick.kernelTick.seqTick.streamTick.courseTick
        |>.blockEvents.releasingJobs.renderPeriod.noteStarts.mixTick rets).muteTick.countGood := fun t b jump grown rets =>
    State.countGood_keeps (State.muteTick_keeps (State.mixTick_keeps (State.noteStarts_keeps (State.renderPeriod_keeps
      (State.releasingJobs_keeps (State.blockEvents_keeps (State.courseTick_keeps (State.streamTick_keeps (State.seqTick_keeps
      (State.kernelTick_keeps (State.banksTick_keeps (State.dispatch_keeps (State.waitTick_keeps (State.raTick_keeps
      (State.flushTimed_keeps (State.freeReported_keeps (State.refTick_keeps (State.transport_keeps (State.dewYield_keeps
      (State.twinSigs_keeps (State.zoneAll_keeps (.refl _ _))))))))))))))))))))))
  exact (State.callNext_keeps (State.goldenTick_keeps (hrest _ _ _ _ _))).2.2.2.2 rfl

/-- A jump that is made moves media time by its blocks and the one of the tick, and leaves the epoch's load alone. -/
theorem State.makeJump_time (s : State) (j : Jump) :
    (s.makeJump j).time.mt = s.time.mt + (j.blocks + 1) * s.bl ∧ (s.makeJump j).time.epoch = s.time.epoch := by
  unfold State.makeJump
  extract_lets s1 x s2 s3 s4 s5
  have h2 : s2.time.mt = s.time.mt + (j.blocks + 1) * s.bl ∧ s2.time.epoch = s.time.epoch := ⟨rfl, rfl⟩
  clear_value s2
  have h4 : s4.time = s2.time := by
    subst s4
    split <;> rfl
  clear_value s4
  have h5 : s5.time = s4.time := by
    subst s5
    split
    · exact (State.post_posted _ _ _ _).time
    · rfl
  have hend : ∀ u, ClockKept s5 u → u.time.mt = s.time.mt + (j.blocks + 1) * s.bl ∧ u.time.epoch = s.time.epoch := fun u hu => by
    rw [hu.1, h5, h4]
    exact h2
  refine hend _ (forEach_clockKept _ (fun _ _ ht => ?_) (.refl _))
  split
  · exact ht.timJump
  · exact ht.timJump
  · exact ht

theorem State.rateEnds_clockKept (s : State) (r : RateChange) : ClockKept s (s.rateEnds r) := by
  unfold State.rateEnds
  refine (ClockKept.refl s).ite (forEach_clockKept _ (fun _ _ ht => ?_) (.refl s))
  split
  · exact ht.finish
  · exact ht

theorem State.remap_time (s : State) (f : TimeMap) : (s.remap f).time.mt = s.time.mt ∧
    (s.remap f).time.epoch = s.time.epoch.map fun e => { e with applyAt := f.m e.applyAt } := ⟨rfl, rfl⟩

end Sys2Proof.Machine
end

/-! SUPPORT and CERTIFICATES. The tick's advance of media time: the rebase, and the whole tick. -/

section
namespace Sys2Proof.Machine

/-- The part of a rebase that follows the new media time (R41). -/
def State.rebaseRest (s : State) (r : RateChange) : State :=
  let s := s.put F.MIX_TAPS_LIMIT_LIMIT (if Config.double r.code then 98304 else 196608)
  let s := { s with
    zones := s.zones.map (rebaseZone (Config.rateHz r.oldCode) (Config.rateHz r.code)),
    mix := { s.mix with buses := [], inputs := [], auxOuts := [], auxOld := [] },
    stream := { s.stream with outs := [] }, course := { s.course with sends := [] } }
  let on := ((List.range s.variant.zones).filter fun n => s.flag (F.ZONE_CTRL_EN n)).length
  let s := s.post 0x0602 0xFFFF [w32 (r.code + r.oldCode * 16), w32 on]
  let s := (s.portsRebase).setUsable (slotsFor s.plannedMhz r.code)
  let s := { s with supv := { s.supv with pilotFrom := s.pilotHold } }
  if (decide (r.code / 2 ≠ r.oldCode / 2) : Bool) then s.set F.TIME_STATUS_MPLL_LOCK false else s

/-- The part of a rebase that sets the new media time. -/
def State.rebaseTime (s t : State) (r : RateChange) (mt : Nat) : State :=
  let s := { s with dp := t.dp, disp := { s.disp with voices := t.disp.voices } }
  let s := (s.put F.TIME_RATE_RATE r.code).put F.TIME_RATE_BLOCK_LEN (Config.blockLen r.code)
  { s with time := { s.time with
    mt := mt, rate := some { r with rebased := true, relock := decide (r.code / 2 ≠ r.oldCode / 2), renderLeft := s.ra } } }

theorem State.rebase_eq (s : State) (r : RateChange) : ∃ (t : State) (g : TimeMap),
    s.rebase r = (((s.rateEnds r).remap g).rebaseTime t r
      (((s.rateEnds r).time.mt + s.bl) * Config.rateHz r.code / Config.rateHz r.oldCode / Config.blockLen r.code *
        Config.blockLen r.code)).rebaseRest r := ⟨_, _, rfl⟩

theorem State.rebaseRest_time (s : State) (r : RateChange) : (s.rebaseRest r).time = s.time := by
  have hset : ∀ (u : State) (b : Bool), ClockKept s u → (if b then u.set F.TIME_STATUS_MPLL_LOCK false else u).time = s.time :=
    fun u b hu => by
      rw [← hu.1]
      cases b <;> rfl
  exact hset _ _ (((ClockKept.refl s).put (f := F.MIX_TAPS_LIMIT_LIMIT) (by decide)).upd.post.portsRebase.setUsable.upd)

/-- The rebase of a rate change restarts media time at a block of the new rate (R41). -/
theorem State.rebase_time (s : State) (r : RateChange) : (s.rebase r).time.mt =
      (s.time.mt + s.bl) * Config.rateHz r.code / Config.rateHz r.oldCode / Config.blockLen r.code * Config.blockLen r.code ∧
    (s.time.epoch = none → (s.rebase r).time.epoch = none) := by
  obtain ⟨t, g, heq⟩ := s.rebase_eq r
  rw [heq, State.rebaseRest_time, (s.rateEnds_clockKept r).1]
  refine ⟨rfl, fun he => ?_⟩
  show ((s.rateEnds r).remap g).time.epoch = none
  rw [(State.remap_time _ g).2, (s.rateEnds_clockKept r).1, he]
  rfl

/-- No rebase is due at the tick. -/
def State.noRebase (s : State) : Prop :=
  ∀ r, s.time.rate = some r → r.ramped = false ∨ r.rebased = true ∨ s.commit < r.blockA

theorem State.rate_filter_of_noRebase {s : State} (h : s.noRebase) :
    (s.time.rate.filter fun r => r.ramped ∧ ¬ r.rebased ∧ r.blockA ≤ s.commit) = none := by
  refine Option.filter_eq_none_iff.2 fun r hr => ?_
  rcases h r hr with h | h | h
  · simp [h]
  · simp [h]
  · simp [Nat.not_le.2 h]

theorem State.tickTime_of_block {s : State} (hrate : s.noRebase) (hjump : ∀ j, s.time.jump = some j → s.blockNow + 1 < j.at_) :
    s.tickTime = s.withTime { s.time with mt := s.time.mt + s.bl } := by
  have hfilter : (s.time.jump.filter fun j => j.at_ ≤ s.blockNow + 1) = none :=
    Option.filter_eq_none_iff.2 fun j hj => by simp [Nat.not_le.2 (hjump j hj)]
  rw [State.tickTime, State.rate_filter_of_noRebase hrate]
  dsimp only
  rw [hfilter]

theorem State.tickTime_of_jump {s : State} {j : Jump} (hrate : s.noRebase) (hj : s.time.jump = some j)
    (hdue : j.at_ ≤ s.blockNow + 1) : s.tickTime = s.makeJump j := by
  rw [State.tickTime, State.rate_filter_of_noRebase hrate]
  dsimp only
  rw [hj, Option.filter_some_pos (by simp [hdue])]

theorem State.tickTime_of_rebase {s : State} {r : RateChange} (hr : s.time.rate = some r) (hramped : r.ramped = true)
    (hrebased : r.rebased = false) (hdue : r.blockA ≤ s.commit) : s.tickTime = s.rebase r := by
  rw [State.tickTime, hr, Option.filter_some_pos (by simp [hramped, hrebased, hdue])]

theorem exec_blockTick (s : State) : exec .blockTick s = .next (if s.running ∧ s.time.counting then s.blockTick else s) := rfl

/-- A tick moves media time as the advance does. -/
theorem State.blockTick_mt_eq (s : State) : s.blockTick.time.mt = s.beforeAdvance.tickTime.tickEpoch.time.mt := by
  rw [State.blockTick_mt, State.advance_eq, State.tickRate_mt]

/-- Settles O36: what a block tick does to media time, by a block, a jump, a rebase or an epoch's load. -/
theorem blockTickAdvances : Obligations.BlockTickAdvances := by
  refine fun s => ⟨fun h => ?_, fun hrun hcount => ?_⟩
  · rw [exec_blockTick, if_neg (by rcases h with h | h <;> simp [h])]
  · have hexec : exec .blockTick s = .next s.blockTick := by rw [exec_blockTick, if_pos ⟨hrun, hcount⟩]
    have hmt := s.blockTick_mt_eq
    have hkept := s.beforeAdvance_clockKept
    generalize s.beforeAdvance = b at hmt hkept
    have htime := hkept.1
    have hquiet : s.noRebase → b.noRebase := fun h r hr => hkept.commit ▸ h r (htime ▸ hr)
    refine ⟨fun hrate hjump => ?_, fun j hj hdue hrate he => ⟨_, hexec, ?_⟩,
      fun r hr hramped hrebased hdue he => ⟨_, hexec, ?_⟩⟩
    · have hblock := State.tickTime_of_block (hquiet hrate) fun j hj => hkept.blockNow ▸ hjump j (htime ▸ hj)
      rw [hblock, hkept.bl, htime] at hmt
      refine ⟨_, hexec, fun he => ?_, fun e he => ?_⟩
      · exact hmt.trans (State.tickEpoch_mt_of_none he)
      · exact hmt.trans (State.tickEpoch_mt_of_some he)
    · obtain ⟨hjumped, hepoch⟩ := b.makeJump_time j
      rw [State.tickTime_of_jump (hquiet hrate) (htime ▸ hj) (hkept.blockNow ▸ hdue),
        State.tickEpoch_mt_of_none (hepoch.trans (htime ▸ he)), hjumped, hkept.bl, htime] at hmt
      exact hmt
    · obtain ⟨hrebase, hepoch⟩ := b.rebase_time r
      rw [State.tickTime_of_rebase (htime ▸ hr) hramped hrebased (hkept.commit ▸ hdue),
        State.tickEpoch_mt_of_none (hepoch (htime ▸ he)), hrebase, hkept.bl, htime] at hmt
      exact hmt

end Sys2Proof.Machine
end

/-! SUPPORT and CERTIFICATES. Framed KCP on UART[1] and the matcher of the Squall sequence: what becomes of a frame, the bytes that a
response puts behind those that wait, and the matcher's four bytes. -/

section
namespace Sys2Proof.Machine

/-! What becomes of a frame (R286). -/

section
variable {s : State}

theorem exec_uartKcpFrame_unframed (h : s.framed 1 = false ∨ s.uartOn 1 = false) (wire : List Byte) (damaged : Bool) :
    exec (.uartKcpFrame wire damaged) s = .next s :=
  congrArg Host.Outcome.next (if_pos (by rcases h with h | h <;> simp [h]))

theorem exec_uartFrameGapTimeout (s : State) : exec .uartFrameGapTimeout s =
    .next (if s.framed 1 ∧ s.uartOn 1 then s.bumpSat F.KCP_UART_DROP_CNT else s) := rfl

/-- The drop counter counts one frame and nothing else moves. -/
theorem State.dropFrame_stores (s : State) : onlyStores
    [(F.KCP_UART_DROP_CNT, min (2 ^ F.KCP_UART_DROP_CNT.width - 1) (s.get F.KCP_UART_DROP_CNT + 1))]
    s (s.bumpSat F.KCP_UART_DROP_CNT) :=
  (onlyStores.nil s).bumpSat _ (by decide) fun _ hp => absurd hp List.not_mem_nil

/-- A frame that breaks an escape, is damaged or has the wrong length is dropped. -/
theorem exec_uartKcpFrame_bad (hf : s.framed 1 = true) (hon : s.uartOn 1 = true) {wire : List Byte} {damaged : Bool}
    (hbad : (frameBody wire).bind unescape = none ∨ ∃ body, (frameBody wire).bind unescape = some body ∧
      (damaged = true ∨ body.length ≠ 16 + bits ((wordsOfBytes body).getD 1 0) 20 12 + 2)) :
    exec (.uartKcpFrame wire damaged) s = .next (s.bumpSat F.KCP_UART_DROP_CNT) := by
  show execUartKcpFrame wire damaged s = _
  unfold execUartKcpFrame
  rw [if_neg (by simp [hf, hon])]
  rcases hbad with hnone | ⟨body, hbody, hbad⟩
  · rw [hnone]
  · rw [hbody]
    exact congrArg _ (if_pos hbad)

/-- A good frame's command waits, unless a command is in progress or a response waits to be sent. -/
theorem exec_uartKcpFrame_good (hf : s.framed 1 = true) (hon : s.uartOn 1 = true) {wire body : List Byte} {len : Nat}
    (hbody : (frameBody wire).bind unescape = some body) (hlen : len = bits ((wordsOfBytes body).getD 1 0) 20 12)
    (hsize : body.length = 16 + len + 2) (seq : BitVec 16) (hseq : seq = ((wordsOfBytes body).getD 0 0).extractLsb' 0 16) :
    exec (.uartKcpFrame wire false) s = .next (
      if (s.host.rung.any fun x => x.1 = 5) = true then
        { s with host := { s.host with uartBusy := s.host.uartBusy ++ [seq] } }
      else if (s.uart 1).sendBuf ≠ [] then s.respond (uartBusyFor seq)
      else
        ({ s with host := { s.host with
          rung := s.host.rung ++ [(5, (crc16 (body.take (16 + len))).toNat, true)] } }).screenOpcode 5
          (crc16 (body.take (16 + len)) = body.getD (17 + len) 0 ++ body.getD (16 + len) 0)
          (wordsOfBytes (body.take (16 + len)))) := by
  subst hlen hseq
  show execUartKcpFrame wire false s = _
  unfold execUartKcpFrame
  rw [if_neg (by simp [hf, hon]), hbody]
  exact congrArg _ (if_neg (by simp [hsize]))

end

/-! The bytes that UART[1] has to send (R285, R469). -/

/-- The bytes of the data stream that have not left, in their order: in the shifter, in TXD, in the send buffer. -/
def UartSt.outgoing (u : UartSt) : List Byte := u.shifter.toList ++ u.txd.toList ++ u.sendBuf

/-- Feeding TXD moves a byte from the send buffer and reorders none. -/
theorem State.uartFeed_outgoing (s : State) (n : Nat) :
    ((s.uartFeed n).uart n).outgoing = (s.uart n).outgoing ∧ ((s.uartFeed n).uart n).flowOut = (s.uart n).flowOut := by
  unfold State.uartFeed
  dsimp only
  split
  · next b r htxd hbuf =>
    split
    · simp [State.uart_setUart, UartSt.outgoing, htxd, hbuf]
    · exact ⟨rfl, rfl⟩
  · exact ⟨rfl, rfl⟩

/-- With no flow-control character to send, the shifter takes the next byte and reorders none. -/
theorem State.uartKick_outgoing {s : State} {n : Nat} (h : (s.uart n).flowOut = []) :
    ((s.uartKick n).uart n).outgoing = (s.uart n).outgoing := by
  obtain ⟨hfeed, hflow⟩ := s.uartFeed_outgoing n
  rw [h] at hflow
  rw [← hfeed, State.uartKick]
  generalize s.uartFeed n = t at hflow
  dsimp only
  split
  · rfl
  · next hidle =>
    have hshift : (t.uart n).shifter = none := by simpa using (not_or.1 hidle).1
    rw [hflow]
    dsimp only
    split
    · next c htxd =>
      split
      · rfl
      · rw [(State.uartFeed_outgoing _ n).1]
        simp [State.uart_setUart, UartSt.outgoing, hshift, htxd]
    · rfl

/-- A frame goes behind the bytes that wait. -/
theorem State.sendFrame_outgoing {s : State} (r : Response) (hf : s.framed 1 = true) (hon : s.uartOn 1 = true)
    (hflow : (s.uart 1).flowOut = []) :
    ((s.sendFrame r).uart 1).outgoing = (s.uart 1).outgoing ++ frameOf (respHeader r ++ r.payload) := by
  rw [State.sendFrame, if_pos ⟨hf, hon⟩, State.uartKick_outgoing (by simpa [State.uart_setUart] using hflow)]
  simp [State.uart_setUart, UartSt.outgoing]

@[simp] theorem State.clearSeq_uart (s : State) (m n : Nat) : (s.clearSeq m).uart n = s.uart n := by
  unfold State.clearSeq
  dsimp only
  split <;> rfl

/-- A response on UART[1] goes out as a frame, behind the bytes that wait, when no BUSY answer waits for it. -/
theorem State.respond_outgoing {s : State} {r : Response} (hc : r.chan = 5) (hf : s.framed 1 = true) (hon : s.uartOn 1 = true)
    (hbusy : s.host.uartBusy = []) (hflow : (s.uart 1).flowOut = []) :
    ((s.respond r).uart 1).outgoing = (s.uart 1).outgoing ++ frameOf (respHeader r ++ r.payload) := by
  have hsent := State.sendFrame_outgoing (s := { s with host := s.host.responding r }) r hf hon hflow
  have hdeliver : (State.deliver { s with host := s.host.responding r } r).uart 1 =
      (State.sendFrame { s with host := s.host.responding r } r).uart 1 := by
    rw [State.deliver, if_neg (by omega), if_neg (by omega)]
    dsimp only
    rw [State.sendFrame_host, show (s.host.responding r).uartBusy = [] from hbusy]
    rfl
  rw [State.respond_eq]
  split
  · rw [State.clearSeq_uart, hdeliver]
    exact hsent
  · rw [hdeliver]
    exact hsent

/-! The matcher of the Squall sequence (R148, R471). -/

theorem exec_squallSequenceTimeout (s : State) :
    exec .squallSequenceTimeout s = .next (if (s.uart 1).matched = 0 then s else s.matchOver) := rfl

theorem State.matchOver_of_no_xoff {s : State} (h : (s.uart 1).xoffDue = false) :
    s.matchOver = s.setUart { s.uart 1 with matched := 0 } := by
  unfold State.matchOver
  exact if_neg (by simp [h])

section
variable {s : State} {c : Byte}

/-- Byte 0 opens a match behind 2 character times of idle line. -/
theorem State.squallMatch_opens {idle : Nat} (h0 : (s.uart 1).matched = 0) (hidle : 2 ≤ idle) (hc : c = s.squallByte 0) :
    s.squallMatch c false idle = s.setUart { s.uart 1 with matched := 1 } := by
  simp [State.squallMatch, h0, hidle, hc]

theorem State.squallMatch_stays_closed {idle : Nat} (h0 : (s.uart 1).matched = 0) (h : idle < 2 ∨ c ≠ s.squallByte 0) :
    s.squallMatch c false idle = s := by
  have hclosed : ¬ (2 ≤ idle ∧ c = s.squallByte 0) := fun ⟨hidle, hc⟩ => h.elim (fun h => by omega) fun h => h hc
  simp [State.squallMatch, h0, hclosed]

/-- An open match goes on with the next byte of the sequence. -/
theorem State.squallMatch_goes_on (h0 : 0 < (s.uart 1).matched) (h3 : (s.uart 1).matched ≠ 3)
    (hc : c = s.squallByte (s.uart 1).matched) :
    s.squallMatch c false 0 = s.setUart { s.uart 1 with matched := (s.uart 1).matched + 1 } := by
  simp [State.squallMatch, Nat.ne_of_gt h0, h3, ← hc]

/-- The fourth byte ends the match and triggers the Squall from the UART. -/
theorem State.squallMatch_triggers (h3 : (s.uart 1).matched = 3) (hc : c = s.squallByte 3) :
    s.squallMatch c false 0 = s.matchOver.squallTrigger 1 0 := by
  simp [State.squallMatch, h3, hc]

end

/-! The obligation. -/

/-- Settles O16: a frame by whether it is dropped or good, a response by the bytes it adds to those that wait, and the matcher by its
state and the character it sees. -/
theorem uartFramesAndSquall : Obligations.UartFramesAndSquall := by
  refine ⟨fun s wire damaged h => ⟨exec_uartKcpFrame_unframed h wire damaged, ?_⟩,
    fun s wire damaged hf hon => ⟨?_, fun hbad => ?_, ?_⟩,
    fun s r hc hf hon hbusy hflow => State.respond_outgoing hc hf hon hbusy hflow, fun s => ?_,
    fun s c idle => ⟨State.squallMatch_opens, State.squallMatch_stays_closed, State.squallMatch_goes_on, fun h3 hx hc => ?_⟩⟩
  · rw [exec_uartFrameGapTimeout, if_neg (by rcases h with h | h <;> simp [h])]
  · exact ⟨_, by rw [exec_uartFrameGapTimeout, if_pos ⟨hf, hon⟩], s.dropFrame_stores⟩
  · exact ⟨_, exec_uartKcpFrame_bad hf hon hbad, s.dropFrame_stores⟩
  · rintro body len hbody rfl hlen hsize
    rw [exec_uartKcpFrame_good hf hon hbody hlen hsize _ rfl]
    split
    · rfl
    · split <;> rfl
  · exact exec_squallSequenceTimeout s
  · rw [State.squallMatch_triggers h3 hc, State.matchOver_of_no_xoff hx]

end Sys2Proof.Machine
end

/-! SUPPORT and CERTIFICATES. SLAB.HANDOVER from UART[1]: its response changes the record of that port. -/

section
namespace Sys2Proof.Machine

/-- A SLAB.HANDOVER that is taken with every check passing, and whose HANDOVER_DONE is then 1, is answered at once (R306). -/
theorem exec_slabHandover_done {k : Kcp} {s n h : State} (hn : n = s.countTaken k.chan)
    (hh : h = n.handover (k.f 0 0 5) ⟨1, 0⟩ (k.f 0 8 4) (k.f 0 12 4)) (ht : s.taking = true) (hcrc : k.crcOk = true)
    (hcache : n.cachedAnswer k.chan k.seq 0x1201 = none) (hdup : n.isDuplicate k.chan k.seq = false)
    (hcheck : cmdSlabHandover.check k n = none) (hdone : h.flag (F.SLAB_STATUS_HANDOVER_DONE (k.f 0 0 5)) = true) :
    exec (.slabHandover (.command k)) s = .next (h.answerHandover k) := by
  subst hn hh
  show Host.Outcome.next (s.takeHandover k) = _
  rw [State.takeHandover, if_pos ht, State.commandHandover, State.screened]
  simp [hcrc, hcache, hdup, hcheck, hdone]

/-- Recording a command of UART[1] stores no sequence number in a register. -/
theorem State.record_of_uart {c : Nat} (hc : c = 5) (s : State) (x : Cached) :
    ∃ l, s.record c x = { s with host := { s.host with caches := l } } := by
  rw [State.record, if_neg (by omega)]
  exact ⟨_, rfl⟩

/-- A reply on the framed port adds its frame to the bytes that the port has to send. -/
theorem State.reply_outgoing {s : State} (op : Nat) {r : Response} (hc : r.chan = 5) (hf : s.framed 1 = true)
    (hon : s.uartOn 1 = true) (hbusy : s.host.uartBusy = []) (hflow : (s.uart 1).flowOut = []) :
    ((s.reply op r).uart 1).outgoing = (s.uart 1).outgoing ++ frameOf (respHeader r ++ r.payload) := by
  rw [State.reply_eq]
  split
  · obtain ⟨l, hl⟩ := State.record_of_uart hc s (r.recordOf op)
    rw [hl]
    exact State.respond_outgoing (s := { s with host := { s.host with caches := l } }) hc hf hon hbusy hflow
  · exact State.respond_outgoing hc hf hon hbusy hflow

theorem frameOf_ne_nil (ws : List W32) : frameOf ws ≠ [] := by simp [frameOf]

/-! The counterexample. -/

/-- The device in RUN, ready, with framed KCP on its enabled UART[1]. -/
def State.framedRun : State :=
  (({ State.reset with power := .run }.set F.HOST_STATUS_READY).set (F.UART_CTRL_EN 1)).set (F.UART_CTRL_FRAMED 1)

/-- SLAB.HANDOVER of slab 0 to its owner of the reset, sent on UART[1]. -/
def handoverOnUart : Kcp := ⟨5, 1, 4, false, false, false, 0, true, [0]⟩

/-- That command counted as taken, and its handover done. -/
def State.framedTaken : State := State.framedRun.countTaken 5
def State.framedDone : State := State.framedTaken.handover 0 ⟨1, 0⟩ 0 0

theorem exec_handoverOnUart : cmdSlabHandover.check handoverOnUart State.framedTaken = none ∧
    State.framedDone.flag (F.SLAB_STATUS_HANDOVER_DONE 0) = true ∧
    exec (.slabHandover (.command handoverOnUart)) State.framedRun = .next (State.framedDone.answerHandover handoverOnUart) := by
  have hcheck : cmdSlabHandover.check handoverOnUart State.framedTaken = none := by decide
  have hdone : State.framedDone.flag (F.SLAB_STATUS_HANDOVER_DONE 0) = true := by decide
  exact ⟨hcheck, hdone, exec_slabHandover_done rfl rfl (by decide) rfl (by decide) (by decide) hcheck hdone⟩

/-- Refutes O11: an answer on UART[1] goes out as a frame (R285), so that the record of that port changes besides the registers and
the host block, which alone the statement lets change. -/
theorem not_handoverAndSquallCommands : ¬ Obligations.HandoverAndSquallCommands := by
  rintro ⟨hslab, -⟩
  obtain ⟨hcheck, hdone, hexec⟩ := exec_handoverOnUart
  obtain ⟨-, hanswered, -⟩ := hslab handoverOnUart State.framedRun State.framedTaken State.framedDone 0 rfl rfl rfl
    (by decide) rfl (by decide) (by decide)
  obtain ⟨t, ht, -, hframe⟩ := hanswered hcheck hdone
  have hreply : State.framedDone.answerHandover handoverOnUart = t := Host.Outcome.next.inj (hexec.symm.trans ht)
  have huart : t.uart 1 = State.framedDone.uart 1 := by
    rw [hframe]
    rfl
  have hsent := State.reply_outgoing (s := State.framedDone) 0x1201
    (r := ⟨5, St.ok, 1, false, false, false, State.framedDone.time.mt, []⟩) rfl (by decide) (by decide) (by decide) (by decide)
  have hnone := hsent.symm.trans (congrArg (fun t => (State.uart t 1).outgoing) hreply)
  rw [huart] at hnone
  exact frameOf_ne_nil _ (List.append_right_eq_self.1 hnone)

end Sys2Proof.Machine
end

/-! SUPPORT and CERTIFICATES. The moves of a kernel instruction: what a register code takes from a load and gives to a store, a brick's
memory, and the two moves. -/

section
namespace Sys2Proof.Machine

/-! Flags and registers (R228, R231). -/

theorem Datapath.flag_eq (d : Datapath) (i : Nat) (on : Bool) :
    d.flag i on = { d with flags := d.flags ||| (if on then w32 (2 ^ i) else 0) } := by
  cases on
  · simp [Datapath.flag]
  · rfl

/-- Saturating to the sample range changes exactly what lies outside it. -/
theorem sat24_eq (i : Int) : sat24 i = max (-2 ^ 23) (min (2 ^ 23 - 1) i) := by
  unfold sat24 clampI
  split
  · omega
  · split <;> omega

theorem ne_sat24_iff (i : Int) : i ≠ sat24 i ↔ i < -2 ^ 23 ∨ 2 ^ 23 ≤ i := by
  rw [sat24_eq]
  omega

theorem getD_set_val {α : Type} {n : Nat} {l : List α} (h : l.length = n) (a : Nat) (i : Fin n) (v x : α) :
    (l.set a v).getD i x = if a = i then v else l.getD i x := by
  rw [List.getD_eq_getElem?_getD, List.getElem?_set, List.getD_eq_getElem?_getD]
  split
  · rw [if_pos (by omega)]
    rfl
  · rfl

/-- A sample as a wide register holds it: 23 more bits below. -/
theorem toInt_wideOfSample (x : Sample) : (BitVec.ofInt 56 (x.toInt * 2 ^ 23)).toInt = x.toInt * 2 ^ 23 := by
  have hlo := x.le_toInt
  have hhi := x.toInt_lt
  rw [BitVec.toInt_ofInt_eq_self (by decide)] <;> omega

theorem toInt_wideOfWord (v : W32) : (v.setWidth 56 : Wide).toInt = v.toNat := by
  have := v.isLt
  rw [BitVec.toInt_setWidth]
  exact Int.bmod_eq_of_le (by omega) (by omega)

/-! What a load puts in a register code (R233, R234). -/

section
variable (d : Datapath) (reg : Nat) (v : W32)

theorem Datapath.moveIn_eq : d.moveIn reg v = { d with o := (d.moveIn reg v).o, w := (d.moveIn reg v).w } := by
  unfold Datapath.moveIn
  split
  · rfl
  · split <;> rfl

theorem Datapath.moveIn_oReg (hlen : d.o.length = 8) (i : Fin 8) :
    (d.moveIn reg v).oReg i = if reg = i then v.extractLsb' 8 24 else d.oReg i := by
  unfold Datapath.moveIn
  split
  · exact getD_set_val hlen _ _ _ _
  · next h8 =>
    rw [if_neg fun h : reg = i.val => h8 (h ▸ i.isLt)]
    split <;> rfl

theorem Datapath.moveIn_wReg (hlen : d.w.length = 4) (i : Fin 4) :
    (d.moveIn reg v).wReg i = if reg = 8 + i.val then (v.extractLsb' 8 24).toInt * 2 ^ 23
      else if reg = 12 + i.val then (v.toNat : Int) else d.wReg i := by
  unfold Datapath.moveIn
  split
  · rw [if_neg (by omega), if_neg (by omega)]
    rfl
  · split
    · rw [if_neg (c := reg = 12 + i.val) (by omega), Datapath.wReg, getD_set_val hlen, apply_ite BitVec.toInt, toInt_wideOfSample]
      exact if_congr (by omega) rfl rfl
    · rw [if_neg (c := reg = 8 + i.val) (by omega), Datapath.wReg, getD_set_val hlen, apply_ite BitVec.toInt, toInt_wideOfWord]
      exact if_congr (by omega) rfl rfl

end

/-! What a register code gives to a store (R233, R234, R237). -/

/-- A sample stands in the upper 24 bits of its word. -/
theorem w32_sample (x : Sample) : w32 (x.toNat * 256) = x ++ 0#8 := by
  refine BitVec.eq_of_toNat_eq ?_
  have := x.isLt
  rw [BitVec.toNat_append, w32, BitVec.toNat_ofNat, Nat.shiftLeft_eq]
  simp
  omega

section
variable {d : Datapath} {reg : Nat}

theorem Datapath.moveOut_operand (h : reg < 8) : d.moveOut reg = (d.oReg reg ++ 0#8, false) := by
  rw [Datapath.moveOut, if_pos h, w32_sample]

theorem Datapath.moveOut_sample (h : 8 ≤ reg) (h' : reg < 12) {q : Int}
    (hq : q = if d.cfg.getLsbD 8 then d.wReg (reg - 8) / 2 ^ 23 else roundEven 23 (d.wReg (reg - 8))) :
    d.moveOut reg = (BitVec.ofInt 24 (max (-2 ^ 23) (min (2 ^ 23 - 1) q)) ++ 0#8, decide (q < -2 ^ 23 ∨ 2 ^ 23 ≤ q)) := by
  have hround : d.roundW (d.wReg (reg - 8)) = q := hq.symm
  have hsample : d.sampleOf (reg - 8) = (BitVec.ofInt 24 (sat24 q), decide (q < -2 ^ 23 ∨ 2 ^ 23 ≤ q)) := by
    rw [Datapath.sampleOf, hround]
    exact congrArg (_, ·) (decide_eq_decide.2 (ne_sat24_iff q))
  rw [Datapath.moveOut, if_neg (by omega), if_pos h', hsample, ← sat24_eq, ← w32_sample]

theorem Datapath.moveOut_raw (h : 12 ≤ reg) : d.moveOut reg = ((d.w.getD (reg - 12) 0).extractLsb' 0 32, false) := by
  rw [Datapath.moveOut, if_neg (by omega), if_neg (by omega)]
  refine congrArg (·, false) (BitVec.eq_of_toNat_eq ?_)
  simp [w32]

end

/-! A brick's memory, and a store to it (R163, R226, R227). -/

theorem State.kmem_setKmem (s : State) (b a b' a' : Nat) (v : W32) :
    (s.setKmem b a v).kmem b' a' = if b' * 262144 + a' = b * 262144 + a then v else s.kmem b' a' :=
  getD_storePut (fun _ => 0) s.dp.mem _ _ v

section
variable {s : State} {d : Datapath} {first : Bool} {a : Nat} (v : W32)

theorem State.kstore_ckpt (hfirst : first = true) (hlo : 0x2000 ≤ a) (hhi : a < 0xC500) : s.kstore d first a v =
    (s.set (F.BRICK_KSTAT_CKPT_WRITE s.callPhys)).post 0x1304 d.brick [w32 d.slot, w32 (d.pc % 8192), w32 a] :=
  if_pos ⟨hfirst, by simp [isCkpt, hlo, hhi]⟩

theorem not_isCkpt (hckpt : first = false ∨ a < 0x2000 ∨ 0xC500 ≤ a) : ¬ (first ∧ isCkpt a) := by
  rcases hckpt with h | h | h <;> simp [isCkpt, h]

theorem State.kstore_memory (hckpt : first = false ∨ a < 0x2000 ∨ 0xC500 ≤ a) (hmay : s.mayLoad d first a = true)
    (htable : a < 0x20000 ∨ 0x24000 ≤ a) : s.kstore d first a v = s.setKmem d.brick a v := by
  rw [State.kstore, if_neg (not_isCkpt hckpt), if_pos ⟨hmay, by omega⟩]

theorem State.kstore_dropped (hckpt : first = false ∨ a < 0x2000 ∨ 0xC500 ≤ a)
    (hmay : s.mayLoad d first a = false ∨ (0x20000 ≤ a ∧ a < 0x24000)) :
    s.kstore d first a v = { s with dp := s.dp.flag Kf.reach } := by
  rw [State.kstore, if_neg (not_isCkpt hckpt), if_neg]
  rcases hmay with h | h <;> simp [h]

end

/-! A move (R230, R234, R244). -/

section
variable {s : State} {before : Datapath} {first : Bool} {m : Move} (v : W32)

theorem State.kmove_none (hupd : m.upd = 0) (hop : m.op = .none) : s.kmove before first m v = s := by
  simp only [State.kmove, hop, hupd, if_true]

theorem State.kmove_load (hupd : m.upd = 0) (hop : m.op = .load) {ok : Bool}
    (hok : ok = s.mayLoad before first (ptAddr (before.ptM.getD m.ptr 0))) :
    s.kmove before first m v = { s with dp := (s.dp.moveIn m.reg (if ok then v else 0)).flag Kf.reach (¬ ok) } := by
  subst hok
  simp only [State.kmove, hop, hupd, if_true]

theorem State.kmove_store (hupd : m.upd = 0) (hop : m.op = .store) {w : W32} {clamp : Bool}
    (hout : before.moveOut m.reg = (w, clamp)) {t : State}
    (ht : t = s.kstore before first (ptAddr (before.ptM.getD m.ptr 0)) w) :
    s.kmove before first m v = { t with dp := t.dp.flag Kf.clamp clamp } := by
  subst ht
  simp only [State.kmove, hop, hupd, if_true, hout]

/-- A move with a pointer update is the move without it, then the update. -/
theorem State.kmove_update (hupd : m.upd ≠ 0) {u : State} (hu : u = s.kmove before first { m with upd := 0 } v) :
    s.kmove before first m v = { u with dp := { u.dp with
      pt := u.dp.pt.set m.ptr (ptSet (u.dp.pt.getD m.ptr 0) (before.moveAddr m).1),
      flags := u.dp.flags ||| (if (before.moveAddr m).2 then 8 else 0) } } := by
  subst hu
  unfold State.kmove
  simp only [if_neg hupd, if_true, Datapath.flag_eq]
  rfl

end

/-- The registers after a load: its register code, and REACH outside its reach. -/
theorem Datapath.load_lands (d : Datapath) (reg : Nat) (v : W32) (ok : Bool) (ho : d.o.length = 8) (hw : d.w.length = 4) :
    ∃ e : Datapath, (d.moveIn reg v).flag Kf.reach (¬ ok) = e ∧
      e = { d with o := e.o, w := e.w, flags := d.flags ||| (if ok then 0 else 16) } ∧
      (∀ i : Fin 8, e.oReg i = if reg = i.val then v.extractLsb' 8 24 else d.oReg i) ∧
      (∀ i : Fin 4, e.wReg i = if reg = 8 + i.val then (v.extractLsb' 8 24).toInt * 2 ^ 23
        else if reg = 12 + i.val then (v.toNat : Int) else d.wReg i) := by
  refine ⟨_, rfl, ?_, fun i => ?_, fun i => ?_⟩
  · rw [Datapath.flag_eq, d.moveIn_eq]
    cases ok <;> rfl
  · rw [Datapath.flag_eq]
    exact d.moveIn_oReg reg v ho i
  · rw [Datapath.flag_eq]
    exact d.moveIn_wReg reg v hw i

/-! The obligation. -/

/-- Settles O46: the read of both moves, then each kind of move without an update of its pointer, then the update. -/
theorem kernelMoves : Obligations.KernelMoves := by
  refine ⟨fun s u m1 m2 d hu => by subst hu; rfl, fun s before first m v hupd hop => State.kmove_none v hupd hop,
    fun s before first ok m v w hupd hop ho hw hok hval => ?load,
    fun s before first clamp m v w a q hupd hop ha hq hoperand hsample hraw => ?store,
    fun s u before first m v hupd hu => State.kmove_update v hupd hu⟩
  case load =>
    subst hval
    obtain ⟨d, hd, hlands⟩ := s.dp.load_lands m.reg (if ok then v else 0) ok ho hw
    exact ⟨d, by rw [State.kmove_load v hupd hop hok, hd], hlands⟩
  case store =>
    have hout : before.moveOut m.reg = (w, clamp) := by
      rcases Nat.lt_or_ge m.reg.val 8 with h8 | h8
      · obtain ⟨rfl, rfl⟩ := hoperand h8
        exact Datapath.moveOut_operand h8
      rcases Nat.lt_or_ge m.reg.val 12 with h12 | h12
      · obtain ⟨rfl, rfl⟩ := hsample h8 h12
        exact Datapath.moveOut_sample h8 h12 hq
      · obtain ⟨rfl, rfl⟩ := hraw h12
        exact Datapath.moveOut_raw h12
    have hmove := State.kmove_store (s := s) (first := first) v hupd hop hout rfl
    rw [← ha] at hmove
    refine ⟨fun hfirst hlo hhi => ⟨_, .oneSet s (F.BRICK_KSTAT_CKPT_WRITE s.callPhys) true (Nat.le_of_ble_eq_true rfl) rfl, ?_⟩,
      fun hckpt => ⟨fun hmay htable => ?_, fun hmay => ?_⟩⟩
    · rw [hmove, State.kstore_ckpt w hfirst hlo hhi, Datapath.flag_eq, State.post_eq]
      rfl
    · rw [hmove, State.kstore_memory w hckpt hmay htable, Datapath.flag_eq]
      exact ⟨_, rfl, (s.kmem_setKmem _ _ _ _ w).trans (if_pos rfl),
        fun b x hx => (s.kmem_setKmem _ _ _ _ w).trans (if_neg hx), rfl⟩
    · rw [hmove, State.kstore_dropped w hckpt hmay, Datapath.flag_eq, Datapath.flag_eq]
      rfl

end Sys2Proof.Machine
end

/-! SUPPORT and CERTIFICATES. A device's own course-link frame that has gone round the ring: it is dropped, and is no conflict. -/

section
namespace Sys2Proof.Machine

section
variable {s : State} (p : Nat)

theorem State.get_countFrame_of_config {f : Fld} (h : f.addr < R.CRSE_PORT_STAT 0) :
    (s.bump (F.CRSE_PORT_FRAMES_COUNT p)).get f = s.get f := by
  refine State.get_bump_apart _ _ _ _ (.inl ?_)
  simp only [F.CRSE_PORT_FRAMES_COUNT, R.CRSE_PORT_FRAMES, R.CRSE_PORT_STAT] at *
  omega

theorem State.origin_countFrame : (s.bump (F.CRSE_PORT_FRAMES_COUNT p)).origin = s.origin := by
  rw [State.origin, State.courseNo, State.flag, State.flag, State.get_countFrame_of_config p (by decide),
    State.get_countFrame_of_config p (by decide), State.get_countFrame_of_config p (by decide)]
  rfl

end

/-- A device's own frame that comes back with HOPS = 0 while other devices are known has gone round the ring (R330, R331): its port
counts it, and nothing else happens. -/
theorem exec_courseFrameReceived_round {s : State} {p : Fin 2} {f : CourseFrame} (hcascade : s.cascade = true)
    (hrunning : s.running = true) (hup : s.cport p = cpUp) (hcrc : f.crcOk = true)
    (hown : f.course.val + 8 * b2n f.roleB = s.origin) (hhops : f.hops = 0) (hpeers : s.course.peers ≠ []) :
    exec (.courseFrameReceived p f) s = .next (s.bump (F.CRSE_PORT_FRAMES_COUNT p)) := by
  have hstill : (s.bump (F.CRSE_PORT_FRAMES_COUNT p)).cport p ≠ cpTraining := by
    rw [State.cport, State.get_bump_apart]
    · exact ne_of_eq_of_ne hup (by decide)
    · exact .inl (by simp [F.CRSE_PORT_STAT_STATE, F.CRSE_PORT_FRAMES_COUNT, R.CRSE_PORT_STAT, R.CRSE_PORT_FRAMES])
  have hround : f.course.val + 8 * b2n f.roleB = (s.bump (F.CRSE_PORT_FRAMES_COUNT p)).origin ∧ f.hops = 0 ∧
      (s.bump (F.CRSE_PORT_FRAMES_COUNT p)).course.peers ≠ [] := ⟨hown.trans (State.origin_countFrame p).symm, hhops, hpeers⟩
  show execCourseFrameReceived p f s = _
  unfold execCourseFrameReceived
  rw [if_neg (by simp [hcascade, hrunning, hup]), if_neg (by simp [hcrc])]
  simp only [if_neg hstill, if_pos hround]

/-! The counterexample. -/

/-- Course 0 in RUN in a cascade of two, its port EAST UP and the other device known. -/
def State.ringOfTwo : State :=
  { (({ State.reset with power := .run }.set F.CRSE_CTRL_CASCADE_EN).put (F.CRSE_PORT_STAT_STATE 0) cpUp) with
    course := { CourseSt.init with peers := [⟨1, 0, some 1, some 1, true, false, 0, 0, 0, 0⟩] } }

/-- The frame that course 0 sent with HOPS = 1, as course 1 has forwarded it. -/
def ownFrame : CourseFrame := ⟨0, false, false, true, false, false, 0, 0, [], true⟩

theorem exec_ownFrame : exec (.courseFrameReceived 0 ownFrame) State.ringOfTwo =
    .next (State.ringOfTwo.bump (F.CRSE_PORT_FRAMES_COUNT 0)) :=
  exec_courseFrameReceived_round (by decide) rfl (by decide) rfl (by decide) rfl (by decide)

/-- Refutes O58: the statement has every frame of the own course number that is not the twin's set CONFLICT, the device's own frame
among them; one that has gone round the ring is dropped with CONFLICT as it was. -/
theorem not_courseLink : ¬ Obligations.CourseLink := by
  rintro ⟨-, -, hreceived, -⟩
  obtain ⟨-, -, hgood⟩ := hreceived State.ringOfTwo 0 ownFrame 0 (by decide) rfl rfl
  obtain ⟨t, b, ht, hb, hconflict, -⟩ := hgood (by decide) rfl
  have hbt : b = t := hb.trans (if_neg (by decide))
  subst hbt
  have hcourse : b.courseNo = 0 := ht.2.2.get _ (by decide)
  have htwin : b.flag F.CRSE_CTRL_TWIN_EN = false := by
    rw [State.flag, ht.2.2.get _ (by decide)]
    decide
  obtain ⟨u, hu, hstores⟩ := hconflict hcourse.symm (.inl htwin)
  have hdropped : u = State.ringOfTwo.bump (F.CRSE_PORT_FRAMES_COUNT 0) :=
    Host.Outcome.next.inj (hu.symm.trans exec_ownFrame)
  have hset : u.get F.CRSE_STATUS_CONFLICT = 1 := hstores.2.1 _ List.mem_cons_self
  rw [hdropped, State.get_countFrame_of_config 0 (by decide)] at hset
  exact absurd hset (by decide)

end Sys2Proof.Machine
end

/-! SUPPORT and CERTIFICATES. The rows of a zone: its ambient estimate, the end of its drain, and the fallback of a failed destination. -/

section
namespace Sys2Proof.Machine

/-! The ambient estimate (R207). -/

theorem ambCode_le (e : Int) : ambCode e ≤ 240 := by
  unfold ambCode clampI
  split <;> omega

theorem exec_ambientEstimate_of_short {s : State} {n : Nat} (h : (s.zone n).ambient.gapBlocks < 64) :
    exec (.ambientEstimate n) s = .next s := congrArg Host.Outcome.next (if_pos h)

/-- A zone whose accumulation is complete, with its estimate told and the accumulation begun anew. -/
def State.estimated (s : State) (n : Nat) (e : Int) : State :=
  s.setZone { s.zone n with ambient := { (s.zone n).ambient with gapBlocks := 0, power := 0, estimate := some e } }

theorem exec_ambientEstimate_of_full {s : State} {n : Nat} {e : Int} (h : 64 ≤ (s.zone n).ambient.gapBlocks)
    (he : e = (powerCode 0 (s.zone n).ambient.power (64 * s.bl * 2 ^ 46) + (s.zone n).ambient.cal) / 64) :
    exec (.ambientEstimate n) s =
      .next (((s.estimated n e).put (F.ZONE_STATUS_AMB_EST n) (ambCode e)).ambientEdits n (ambCode e)) := by
  subst he
  exact congrArg Host.Outcome.next (if_neg (Nat.not_lt.2 h))

/-! The end of a drain (R223). -/

theorem exec_zoneDrainDone (s : State) (n : Nat) : exec (.zoneDrainDone n) s =
    .next (if (s.zone n).draining then s.zoneCut n (s.startOf s.commit) else s) := rfl

theorem State.zoneCut_stores (s : State) (n mt : Nat) :
    onlyStores [(F.ZONE_CTRL_EN n, 0), (F.ZONE_STATUS_DRAINING n, 0)]
      (s.setZone { s.zone n with
        fade := (s.zone n).fade.to s.bl mt muteCode 0, pilotOn := (s.zone n).pilotOn.to s.bl mt muteCode 256, draining := false })
      (s.zoneCut n mt) :=
  (onlyStores.oneSet _ (F.ZONE_CTRL_EN n) false (Nat.le_of_ble_eq_true rfl) rfl).set _ false (Nat.le_of_ble_eq_true rfl) rfl
    (by simp [F.ZONE_CTRL_EN, F.ZONE_STATUS_DRAINING])

/-! The switch to a fallback and the return from it (R219, R220). -/

theorem fbFlag_b2n (n : Nat) (b : Bool) : fbFlag n (b2n b) = if b then F.ZONE_STATUS_FB_B n else F.ZONE_STATUS_FB_A n := by
  cases b <;> rfl

theorem fbFlag_fits (n role : Nat) : (fbFlag n role).lo + (fbFlag n role).width ≤ 32 ∧ (fbFlag n role).width = 1 := by
  unfold fbFlag
  split <;> exact ⟨Nat.le_of_ble_eq_true rfl, rfl⟩

/-- A zone's fallback does not switch where its destination has not failed, where it has none, and where it carries already. -/
theorem exec_fallbackSwitch_of_idle {s : State} {n : Nat} {b : Bool} (h : kget (s.zone n).failed (b2n b) = none ∨
    (s.zone n).slotOf (b2n b + 2) = none ∨ s.flag (fbFlag n (b2n b)) = true) : exec (.fallbackSwitch n b) s = .next s := by
  show execFallbackSwitch n b s = _
  unfold execFallbackSwitch
  cases hfail : kget (s.zone n).failed (b2n b) with
  | none => simp [hfail]
  | some cause =>
    cases hslot : (s.zone n).slotOf (b2n b + 2) with
    | none => simp [hfail, hslot]
    | some f =>
      have hon : s.flag (fbFlag n (b2n b)) = true := by simpa [hfail, hslot] using h
      simp [hfail, hslot, hon]

theorem exec_fallbackSwitch_of_failed {s : State} {n cause f : Nat} {b : Bool}
    (hfail : kget (s.zone n).failed (b2n b) = some cause) (hslot : (s.zone n).slotOf (b2n b + 2) = some f)
    (hoff : s.flag (fbFlag n (b2n b)) = false) : exec (.fallbackSwitch n b) s = .next (
      ((s.setZone { s.zone n with ramps := (s.zone n).ramps.set f (.of 0 0 (s.startOf (s.commit - 1)) 0) }).set
        (fbFlag n (b2n b))).post 0x0601 n
          [w32 (b2n b + ((s.zone n).slotOf (b2n b)).getD 0 * 16 + f * 256 + cause * 4096), w32 s.commit]) := by
  show execFallbackSwitch n b s = _
  unfold execFallbackSwitch
  simp [hfail, hslot, hoff]

theorem State.restoreRole_of_sound {s : State} {n role : Nat} (mt : Nat) (h : kget (s.zone n).failed role = none) :
    s.restoreRole n role mt = s := if_pos (by rw [h]; rfl)

/-- A zone that returns to its destination: the destination is noted as failed no longer, and the fallback's flag is off. -/
theorem State.restoreRole_of_failed {s : State} {n role cause : Nat} (mt : Nat) (h : kget (s.zone n).failed role = some cause) :
    ∃ ramps leaving, s.restoreRole n role mt = (s.setZone { s.zone n with
        ramps := ramps, leaving := leaving, failed := kdel (s.zone n).failed role, good := kdel (s.zone n).good role }).set
          (fbFlag n role) false ∧
      ∀ i, (s.zone n).slotOf role = some i → (s.zone n).slotOf (role + 2) = none → ramps = (s.zone n).ramps.set i (.of 0 0 mt 0) := by
  refine ⟨_, _, if_neg (by simp [h]), fun i hi hnone => ?_⟩
  simp [hi, hnone]

theorem exec_fallbackAutoRestore (s : State) (n : Nat) (b : Bool) : exec (.fallbackAutoRestore n b) s = .next (
    if s.flag (F.ZONE_CTRL_FB_AUTO n) ∧ 15000 ≤ (kget (s.zone n).good (b2n b)).getD 0 then
      s.restoreRole n (b2n b) (s.startOf s.commit)
    else s) := rfl

theorem exec_fallbackAutoRestore_of_idle {s : State} {n : Nat} {b : Bool} (h : s.flag (F.ZONE_CTRL_FB_AUTO n) = false ∨
    (kget (s.zone n).good (b2n b)).getD 0 < 15000 ∨ kget (s.zone n).failed (b2n b) = none) :
    exec (.fallbackAutoRestore n b) s = .next s := by
  rw [exec_fallbackAutoRestore]
  split
  · next hdue =>
    obtain ⟨hauto, hgood⟩ := hdue
    rcases h with h | h | h
    · simp [h] at hauto
    · omega
    · rw [State.restoreRole_of_sound _ h]
  · rfl

theorem exec_fallbackAutoRestore_of_due {s : State} {n : Nat} {b : Bool} (hauto : s.flag (F.ZONE_CTRL_FB_AUTO n) = true)
    (hgood : 15000 ≤ (kget (s.zone n).good (b2n b)).getD 0) :
    exec (.fallbackAutoRestore n b) s = .next (s.restoreRole n (b2n b) (s.startOf s.commit)) := by
  rw [exec_fallbackAutoRestore, if_pos ⟨hauto, hgood⟩]

/-! The obligation. -/

/-- Settles O37: each row by the state of its zone that it acts on, the return to a destination by the zone that it leaves. -/
theorem zoneEvents : Obligations.ZoneEvents := by
  refine ⟨fun s n => exec_ambientEstimate_of_short, fun s n e h hn he => ?_, fun s n h => ?_, fun s n h => ?_, ?_⟩
  · have hcode : ambCode e % 2 ^ 8 = ambCode e := Nat.mod_eq_of_lt (by have := ambCode_le e; omega)
    exact ⟨_, _, .one (s.estimated n e) (F.ZONE_STATUS_AMB_EST n) _ _ (Nat.le_of_ble_eq_true rfl) hcode, rfl,
      exec_ambientEstimate_of_full h he⟩
  · rw [exec_zoneDrainDone, h]
    rfl
  · exact ⟨_, by rw [exec_zoneDrainDone, if_pos h], s.zoneCut_stores n _⟩
  · rintro s n b role fb rfl hfb
    rw [← fbFlag_b2n] at hfb
    subst hfb
    obtain ⟨hfit, hone⟩ := fbFlag_fits n (b2n b)
    refine ⟨exec_fallbackSwitch_of_idle, fun cause f hfail hslot hoff => ?_, exec_fallbackAutoRestore_of_idle,
      fun cause hauto hgood hfail => ?_⟩
    · exact ⟨_, .oneSet _ _ true hfit hone, exec_fallbackSwitch_of_failed hfail hslot hoff⟩
    · obtain ⟨ramps, leaving, hrestore, hramps⟩ := State.restoreRole_of_failed (s.startOf s.commit) hfail
      refine ⟨_, (exec_fallbackAutoRestore_of_due hauto hgood).trans (congrArg _ hrestore), State.flag_set_self _ _ _ hfit hone,
        ?_, ?_, fun i hi hnone => ?_, fun m hm => ?_, rfl, (fieldsKept.refl _ s).put _ _ List.mem_cons_self⟩
      · simp [State.zone_setZone, kget_kdel]
      · simp [State.zone_setZone, kget_kdel]
      · simp [State.zone_setZone, hramps i hi hnone]
      · simp [State.zone_setZone, hm]

end Sys2Proof.Machine
end

/-! SUPPORT and CERTIFICATES. The checks of an analogue channel: its compliance, its load while idle, and its trim. -/

section
namespace Sys2Proof.Machine

/-! Compliance (R381). -/

theorem State.anaClosed_iff (s : State) (n : Nat) :
    s.anaClosed n = true ↔ 1 ≤ s.get (F.ANA_STATUS_STATE n) ∧ s.get (F.ANA_STATUS_STATE n) ≤ 4 := decide_eq_true_iff

/-- The stores of a compliance detection. -/
def State.complNoted (s : State) (n : Nat) : State :=
  ((s.set (F.ANA_STATUS_COMPL n)).set (F.ANA_STATUS_COMPL_NOW n)).bumpSat (F.ANA_COUNT_COMPL_CNT n)

theorem State.complNoted_stores (s : State) (n : Nat) : onlyStores [(F.ANA_STATUS_COMPL n, 1), (F.ANA_STATUS_COMPL_NOW n, 1),
    (F.ANA_COUNT_COMPL_CNT n, min 65535 (s.get (F.ANA_COUNT_COMPL_CNT n) + 1))] s (s.complNoted n) :=
  ((onlyStores.oneSet s (F.ANA_STATUS_COMPL n) true (Nat.le_of_ble_eq_true rfl) rfl).set (F.ANA_STATUS_COMPL_NOW n) true
    (Nat.le_of_ble_eq_true rfl) rfl (by simp [F.ANA_STATUS_COMPL, F.ANA_STATUS_COMPL_NOW])).bumpSat (F.ANA_COUNT_COMPL_CNT n)
      (Nat.le_of_ble_eq_true rfl)
      (by simp [F.ANA_STATUS_COMPL, F.ANA_STATUS_COMPL_NOW, F.ANA_COUNT_COMPL_CNT, R.ANA_STATUS, R.ANA_COUNT])

/-- A channel's registers lie outside those that the block number is read from. -/
theorem State.complNoted_blockNow (s : State) (n : Nat) : (s.complNoted n).blockNow = s.blockNow :=
  ((((ClockKept.refl s).set (f := F.ANA_STATUS_COMPL n) (clockApart_add (by decide))).set (f := F.ANA_STATUS_COMPL_NOW n)
    (clockApart_add (by decide))).bumpSat (f := F.ANA_COUNT_COMPL_CNT n) (clockApart_add (by decide))).blockNow

theorem exec_anaComplianceDetect (s : State) (n : Fin 64) : exec (.anaComplianceDetect n) s = .next (
    if 1 ≤ s.get (F.ANA_STATUS_STATE n) ∧ s.get (F.ANA_STATUS_STATE n) ≤ 4 ∧ 64 ≤ (s.chan n).outRun ∧
        s.flag (F.ANA_STATUS_COMPL_NOW n) = false then
      (((s.complNoted n).post 0x0801 n [lo32 s.blockNow]).failType 3 (fun i => i = n) 4).raise Mech.analogue n 0 0 0
    else s) := by
  have hidle : (¬ s.anaClosed n = true ∨ (s.chan n).outRun < 64 ∨ s.flag (F.ANA_STATUS_COMPL_NOW n) = true) ↔
      ¬ (1 ≤ s.get (F.ANA_STATUS_STATE n) ∧ s.get (F.ANA_STATUS_STATE n) ≤ 4 ∧ 64 ≤ (s.chan n).outRun ∧
        s.flag (F.ANA_STATUS_COMPL_NOW n) = false) := by
    rw [s.anaClosed_iff n, ← Bool.not_eq_false, ← Nat.not_le (a := 64)]
    tauto
  rw [← s.complNoted_blockNow n]
  exact congrArg Host.Outcome.next ((if_congr hidle rfl rfl).trans (ite_not _ _ _))

theorem exec_anaComplianceClear (s : State) (n : Fin 64) : exec (.anaComplianceClear n) s = .next (
    if s.flag (F.ANA_STATUS_COMPL_NOW n) ∧ 1920 ≤ (s.chan n).inRun then (s.set (F.ANA_STATUS_COMPL_NOW n) false).anaClear
    else s) := rfl

theorem State.anaFault_iff (s : State) : s.anaFault = true ↔ ∃ c, c < s.variant.channels ∧
    (s.flag (F.ANA_STATUS_COMPL_NOW c) = true ∨ 2 ≤ s.get (F.ANA_STATUS_LOAD c)) := by
  simp [State.anaFault, State.channels]

/-! The load check (R382). -/

theorem loadClass_bounds (range ohms : Nat) : 1 ≤ loadClass range ohms ∧ loadClass range ohms ≤ 3 := by
  unfold loadClass
  split_ifs <;> decide

/-- The stores of a load class that three windows agree on. -/
def State.loadShown (s : State) (n cls ohms : Nat) : State :=
  ((s.put (F.ANA_STATUS_LOAD n) cls).put (F.ANA_STATUS_LOAD_OHMS n) (min 4095 ohms)).set (F.ANA_STATUS_LOAD_EVT n)

theorem State.loadShown_stores (s : State) {n cls ohms : Nat} (h : cls ≤ 3) : onlyStores [(F.ANA_STATUS_LOAD n, cls),
    (F.ANA_STATUS_LOAD_OHMS n, min 4095 ohms), (F.ANA_STATUS_LOAD_EVT n, 1)] s (s.loadShown n cls ohms) :=
  ((onlyStores.one s (F.ANA_STATUS_LOAD n) _ _ (Nat.le_of_ble_eq_true rfl) (Nat.mod_eq_of_lt (Nat.lt_succ_of_le h))).put
    (F.ANA_STATUS_LOAD_OHMS n) _ _ (Nat.le_of_ble_eq_true rfl) (Nat.mod_eq_of_lt (Nat.lt_succ_of_le (Nat.min_le_left _ _)))
    (by simp [F.ANA_STATUS_LOAD, F.ANA_STATUS_LOAD_OHMS])).set (F.ANA_STATUS_LOAD_EVT n) true (Nat.le_of_ble_eq_true rfl) rfl
      (by simp [F.ANA_STATUS_LOAD, F.ANA_STATUS_LOAD_OHMS, F.ANA_STATUS_LOAD_EVT])

theorem exec_anaLoadWindow_of_off {s : State} {n : Fin 64} (ohms : Nat)
    (h : s.get (F.ANA_STATUS_STATE n) ≠ 2 ∨ s.flag (F.ANA_CTRL_LOADCHK_EN n) = false) :
    exec (.anaLoadWindow n ohms) s = .next s :=
  congrArg Host.Outcome.next (if_pos (h.imp id fun h => by simp [h]))

/-- A window of an idle channel: its class counts, and shows once three windows in a row agree on one that is not shown. -/
theorem exec_anaLoadWindow_of_idle {s b : State} {n : Fin 64} {ohms cls run : Nat} {c : AnaSt} (hc : c = s.chan n)
    (hcls : cls = loadClass (s.get (F.ANA_CTRL_RANGE n)) ohms) (hrun : run = if cls = c.loadClass then c.loadRun + 1 else 1)
    (hb : b = s.setChan { c with loadClass := cls, loadRun := run }) (hidle : s.get (F.ANA_STATUS_STATE n) = 2)
    (hon : s.flag (F.ANA_CTRL_LOADCHK_EN n) = true) : exec (.anaLoadWindow n ohms) s = .next (
      if run < 3 ∨ cls = s.get (F.ANA_STATUS_LOAD n) then b
      else if 2 ≤ cls then ((b.loadShown n cls ohms).post 0x0802 n [w32 cls, w32 (min 4095 ohms)]).raise Mech.analogue n 0 0 0
      else ((b.loadShown n cls ohms).post 0x0802 n [w32 cls, w32 (min 4095 ohms)]).anaClear) := by
  subst hb hrun hcls hc
  exact congrArg Host.Outcome.next (if_neg (by simp [State.anaState, hidle, hon, Ana.idle]))

/-! The trim (R384, R385, R498). -/

theorem clampI_trim (e : Int) : clampI (-128) 127 e = max (-128) (min 127 e) := by
  unfold clampI
  split
  · omega
  · split <;> omega

/-- The greatest difference of a channel's trims from the ones before. -/
def trimDrift (old new : List Int) : Nat := (new.zipIdx.map fun x => (x.1 - old.getD x.2 0).natAbs).foldl max 0

theorem natAbs_le_trimDrift {old new : List Int} {i : Nat} {x : Int} (h : new[i]? = some x) :
    (x - old.getD i 0).natAbs ≤ trimDrift old new := by
  rw [trimDrift, List.foldl_eq_foldr]
  exact List.le_max_of_le' 0 (List.mem_map.2 ⟨(x, i), List.mk_mem_zipIdx_iff_getElem?.2 h, rfl⟩) le_rfl

/-- A field store that is made under a condition. -/
theorem onlyStores.setIf {l : List (Fld × Nat)} {s t : State} (h : onlyStores l s t) (c : Prop) [Decidable c] (f : Fld) (b : Bool)
    (hfit : f.lo + f.width ≤ 32) (hone : f.width = 1)
    (hap : ∀ p ∈ l, p.1.lo + p.1.width ≤ 32 ∧ (p.1.addr ≠ f.addr ∨ f.lo + f.width ≤ p.1.lo ∨ p.1.lo + p.1.width ≤ f.lo)) :
    onlyStores (l ++ if c then [(f, b2n b)] else []) s (if c then t.set f b else t) := by
  split
  · exact h.set f b hfit hone hap
  · rwa [List.append_nil]

/-- A channel's new trims stored, and the channel gone from the trim in progress and from the channels that are due. -/
def State.trimmed (s : State) (t : TrimRun) (n : Nat) (new : List Int) (lim : Bool) : State :=
  { s.setChan { s.chan n with trims := new, drift := trimDrift (s.chan n).trims new } with
    anaTrim := some ⟨t.left.drop 1, t.done ++ [n], if lim then t.limited ++ [n] else t.limited, t.aborted⟩,
    age := { s.age with trimDue := if n ∈ s.age.trimDue then s.age.trimDue.filter (fun x => x ≠ n) else s.age.trimDue } }

/-- The same with what TRIM_LIMIT and TRIM_DUE then show. -/
def State.trimShown (s : State) (t : TrimRun) (n : Nat) (new : List Int) (lim : Bool) : State :=
  let b := s.trimmed t n new lim
  let u := if lim then b.set (F.ANA_STATUS_TRIM_LIMIT n) else b
  if n ∈ s.age.trimDue then u.set F.AGE_STATUS_TRIM_DUE (decide (∃ x ∈ s.age.trimDue, x ≠ n)) else u

theorem State.trimShown_stores (s : State) (t : TrimRun) (n : Fin 64) (new : List Int) (lim : Bool) :
    onlyStores ((if lim then [(F.ANA_STATUS_TRIM_LIMIT n, 1)] else []) ++
        (if n.val ∈ s.age.trimDue then [(F.AGE_STATUS_TRIM_DUE, b2n (decide (∃ x ∈ s.age.trimDue, x ≠ n.val)))] else []))
      (s.trimmed t n new lim) (s.trimShown t n new lim) := by
  have hlimit := (onlyStores.nil (s.trimmed t n new lim)).setIf (lim = true) (F.ANA_STATUS_TRIM_LIMIT n) true
    (Nat.le_of_ble_eq_true rfl) rfl fun _ hp => absurd hp List.not_mem_nil
  refine hlimit.setIf _ _ _ (by decide) rfl fun p hp => ?_
  have hp : p = (F.ANA_STATUS_TRIM_LIMIT n, 1) := by
    rw [List.nil_append] at hp
    split at hp
    · exact List.mem_singleton.1 hp
    · exact absurd hp List.not_mem_nil
  subst hp
  refine ⟨Nat.le_of_ble_eq_true rfl, .inl ?_⟩
  show 0x45008 + n.val * 0x10 ≠ 0x48004
  omega

theorem exec_anaTrimChannelDone_of_other {s : State} {n : Fin 64} (errors : List Int)
    (h : ∀ t, s.anaTrim = some t → t.left.head? ≠ some n.val) : exec (.anaTrimChannelDone n errors) s = .next s := by
  show execAnaTrimChannelDone n errors s = _
  unfold execAnaTrimChannelDone
  split
  · rfl
  · next t ht => rw [if_pos (h t ht)]

/-- The channel at the head of the trim takes its new trims; it starts again where it is enabled, and the trim goes on. -/
theorem exec_anaTrimChannelDone_of_head {s u : State} {n : Fin 64} {errors : List Int} {t : TrimRun} {lim : Bool}
    (ht : s.anaTrim = some t) (hhead : t.left.head? = some n.val) (hlim : lim = true ↔ ∃ e ∈ errors, e < -128 ∨ 127 < e)
    (hu : u = s.trimShown t n (errors.map fun e => max (-128) (min 127 e)) lim) : exec (.anaTrimChannelDone n errors) s = .next
      ((if u.flag (F.ANA_CTRL_EN n) = true ∧ u.live = true ∧ u.standby = false then u.anaStart n else u.setAna n 0).trimNext) := by
  subst hu
  show execAnaTrimChannelDone n errors s = _
  unfold execAnaTrimChannelDone
  rw [ht]
  dsimp -zeta only
  rw [if_neg (not_not.2 hhead)]
  extract_lets limited c new drift stored told run left due age shown
  have hlimited : limited = lim := Bool.eq_iff_iff.2 (by simp [limited, hlim])
  have hnew : new = errors.map fun e => max (-128) (min 127 e) := List.map_congr_left fun e _ => clampI_trim e
  rw [← hnew]
  have hshown : shown = s.trimShown t n new lim := by
    clear_value limited new
    subst hlimited
    have hage : left.age = s.age := by cases limited <;> rfl
    have hdue : decide (due ≠ []) = decide (∃ x ∈ s.age.trimDue, x ≠ n.val) :=
      decide_eq_decide.2 (by simp [due, hage, List.filter_eq_nil_iff])
    unfold State.trimShown State.trimmed
    by_cases hmem : n.val ∈ s.age.trimDue
    · rw [if_pos hmem, if_pos hmem, ← hdue]
      refine (if_pos (by rwa [hage, List.contains_iff_mem])).trans ?_
      cases limited <;> rfl
    · rw [if_neg hmem, if_neg hmem]
      refine (if_neg (by rwa [hage, List.contains_iff_mem])).trans ?_
      cases limited <;> rfl
  have hgo : (shown.flag (F.ANA_CTRL_EN n) = true ∧ shown.live = true ∧ ¬ shown.standby = true) ↔
      shown.flag (F.ANA_CTRL_EN n) = true ∧ shown.live = true ∧ shown.standby = false := by rw [Bool.not_eq_true]
  rw [← hshown]
  exact congrArg (fun u : State => Host.Outcome.next u.trimNext) (if_congr hgo rfl rfl)

/-- The next channel of a trim shows TRIM. -/
theorem State.trimNext_of_cons {s : State} {n : Nat} {l : List Nat} {t : TrimRun} (ht : s.anaTrim = some t) (hl : t.left = n :: l) :
    s.trimNext = s.setAna n Ana.trim := by
  unfold State.trimNext
  rw [ht]
  dsimp only
  rw [hl]

theorem State.trimNext_of_none {s : State} (h : s.anaTrim = none) : s.trimNext = s := by
  unfold State.trimNext
  rw [h]

/-! The obligation. -/

/-- Settles O55: each check by whether its condition holds, with the stores that it makes and the event and detection that follow. -/
theorem analogueChecks : Obligations.AnalogueChecks := by
  refine ⟨fun s n => ⟨?_, ?_⟩, ?_, fun s n errors => exec_anaTrimChannelDone_of_other errors, ?_,
    fun s => ⟨fun n l t ht hl => ?_, State.trimNext_of_none⟩⟩
  · rw [exec_anaComplianceDetect]
    split
    · exact ⟨_, rfl, s.complNoted_stores n⟩
    · rfl
  · rw [exec_anaComplianceClear]
    split
    · refine ⟨_, .oneSet s (F.ANA_STATUS_COMPL_NOW n) false (Nat.le_of_ble_eq_true rfl) rfl, congrArg _ ?_⟩
      rw [State.anaClear]
      exact if_congr (State.anaFault_iff _) rfl rfl
    · rfl
  · rintro s b n ohms cls run c hc hcls hrun hb
    refine ⟨exec_anaLoadWindow_of_off ohms, fun hidle hon => ?_⟩
    have hexec := exec_anaLoadWindow_of_idle hc hcls hrun hb hidle hon
    split
    · next hquiet => rw [hexec, if_pos hquiet]
    · next hshown =>
      rw [if_neg hshown] at hexec
      exact ⟨_, b.loadShown_stores (hcls ▸ (loadClass_bounds _ _).2), hexec⟩
  · intro s n errors t lim ht hhead hlim
    exact ⟨_, _, exec_anaTrimChannelDone_of_head ht hhead hlim rfl, s.trimShown_stores t n _ lim,
      fun i e he => natAbs_le_trimDrift (by rw [List.getElem?_map, he]; rfl)⟩
  · rw [State.trimNext_of_cons ht hl]
    exact .one s (F.ANA_STATUS_STATE n) _ _ (Nat.le_of_ble_eq_true rfl) rfl

end Sys2Proof.Machine
end

/-! SUPPORT and CERTIFICATES. The addresses of a kernel's pointers: linear updates, windows, and reversed carry. -/

section
namespace Sys2Proof.Machine

/-! Reversed bits (R243). -/

/-- One bit more: the bits below it move up by one, and the new bit is the lowest. -/
theorem bitRev_succ (k x : Nat) : bitRev (k + 1) x = 2 * bitRev k x + x / 2 ^ k % 2 := by
  unfold bitRev
  rw [List.range_succ, List.map_append, List.sum_append, ← List.sum_map_mul_left]
  congr 1
  · refine congrArg List.sum (List.map_congr_left fun i hi => ?_)
    have hlt := List.mem_range.1 hi
    rw [show k + 1 - 1 - i = k - 1 - i + 1 by omega, Nat.pow_succ]
    ring
  · simp

theorem bitRev_lt (k x : Nat) : bitRev k x < 2 ^ k := by
  induction k with
  | zero => exact Nat.one_pos
  | succ k ih =>
    rw [bitRev_succ, Nat.pow_succ]
    omega

theorem bitRev_testBit {k i : Nat} (x : Nat) (h : i < k) : (bitRev k x).testBit i = x.testBit (k - 1 - i) := by
  induction k generalizing i with
  | zero => omega
  | succ k ih =>
    rw [bitRev_succ]
    cases i with
    | zero =>
      rw [Nat.testBit_zero, Nat.add_sub_cancel, Nat.sub_zero, Nat.testBit_eq_decide_div_mod_eq]
      exact congrArg (fun b => decide (b = 1)) (by omega)
    | succ i =>
      rw [Nat.testBit_succ, show (2 * bitRev k x + x / 2 ^ k % 2) / 2 = bitRev k x by omega, ih (by omega)]
      congr 1
      omega

/-- The reversal counts the low bits alone. -/
theorem bitRev_mod (k x : Nat) : bitRev k (x % 2 ^ k) = bitRev k x := by
  refine congrArg List.sum (List.map_congr_left fun i hi => congrArg (· * 2 ^ (k - 1 - i)) ?_)
  have h := Nat.testBit_mod_two_pow x k i
  rw [decide_eq_true (List.mem_range.1 hi), Bool.true_and, Nat.testBit_eq_decide_div_mod_eq, Nat.testBit_eq_decide_div_mod_eq,
    decide_eq_decide] at h
  omega

/-- The reversal as a sum over the places of its result. -/
theorem sum_reversed_bits (k x : Nat) :
    ((List.range k).map fun j => x / 2 ^ (k - 1 - j) % 2 * 2 ^ j).sum = bitRev k x := by
  induction k with
  | zero => rfl
  | succ k ih =>
    rw [bitRev_succ, ← ih, List.range_succ_eq_map, List.map_cons, List.sum_cons, List.map_map, ← List.sum_map_mul_left, Nat.add_comm]
    congr 1
    · refine congrArg List.sum (List.map_congr_left fun j _ => ?_)
      rw [Function.comp_apply, Nat.pow_succ, show k + 1 - 1 - (j + 1) = k - 1 - j by omega]
      ring
    · simp

/-! Windows of a power of two (R243). -/

theorem log2Len_two_pow {k : Nat} (h : 1 ≤ k) (h' : k ≤ 17) : log2Len (2 ^ k) = some k := by
  interval_cases k <;> rfl

theorem of_log2Len_eq_some {n k : Nat} (h : log2Len n = some k) : 1 ≤ k ∧ k ≤ 17 ∧ n = 2 ^ k := by
  have hk := List.find?_some h
  have hm := List.mem_of_find?_eq_some h
  rw [List.range_eq_range', List.drop_range', List.mem_range'_1] at hm
  exact ⟨by omega, by omega, (of_decide_eq_true hk).symm⟩

/-! The updates of an address (R242, R243). -/

theorem updLinear_noWindow (p : Nat) (step : Int) (lo hi : Nat) :
    updLinear p step false lo hi = (((p + step) % 2 ^ 18).toNat, false) := rfl

theorem updLinear_outside {p lo hi : Nat} (step : Int) (h : hi ≤ lo ∨ p < lo ∨ hi ≤ p) :
    updLinear p step true lo hi = (((p + step) % 2 ^ 18).toNat, true) := if_pos h

theorem updLinear_inside {p lo hi : Nat} (step : Int) (hlo : lo ≤ p) (hhi : p < hi) :
    updLinear p step true lo hi = (lo + ((p - lo + step) % (hi - lo) : Int).toNat, false) := if_neg (by omega)

theorem updRev_eq_linear {p st lo hi : Nat} {wen : Bool}
    (h : wen = false ∨ ∀ k, 1 ≤ k → k ≤ 17 → hi - lo = 2 ^ k → lo % 2 ^ k ≠ 0) :
    updRev p st wen lo hi = ((updLinear p (signed 18 st) wen lo hi).1, true) := by
  unfold updRev
  split
  · rfl
  · next k hk =>
    obtain ⟨h1, h17, hlen⟩ := of_log2Len_eq_some hk
    exact if_pos (h.imp (by simp [·]) fun h => h k h1 h17 hlen)

/-- Inside its window a pointer takes the reversed sum of the reversed offset and the reversed step. -/
theorem updRev_inside {p lo st k : Nat} (hlo : lo ≤ p) (h1 : 1 ≤ k) (h17 : k ≤ 17) (halign : lo % 2 ^ k = 0)
    (hfit : lo + 2 ^ k ≤ 2 ^ 18) (hp : p < lo + 2 ^ k) :
    updRev p st true lo (lo + 2 ^ k) = (lo + bitRev k (bitRev k (p - lo) + bitRev k st), false) := by
  have hlow := bitRev_lt k (bitRev k (p - lo) + bitRev k st)
  rw [updRev, Nat.add_sub_cancel_left, log2Len_two_pow h1 h17]
  dsimp only
  rw [if_neg (by simp [halign]), show (p + 2 ^ 18 - lo) % 2 ^ 18 = p - lo by omega, bitRev_mod, bitRev_mod, bitRev_mod,
    Nat.div_eq_of_lt (by omega), Nat.zero_mul, Nat.add_zero, Nat.mod_eq_of_lt (by omega)]

/-- Settles O45: the linear update by its three branches, the reversed one by the bits of its offset. -/
theorem kernelAddressing : Obligations.KernelAddressing := by
  refine ⟨fun p lo hi step => ⟨updLinear_noWindow p step lo hi, updLinear_outside step, fun hwin hlo hhi => ?linear⟩,
    fun p lo st k _ hlo h1 h17 halign hfit hp => ?reversed, fun p st lo hi wen h => updRev_eq_linear h⟩
  case linear =>
    rw [updLinear_inside step hlo hhi]
    have hnn := Int.emod_nonneg (p - lo + step : Int) (b := (hi - lo : Int)) (by omega)
    have hlt := Int.emod_lt_of_pos (p - lo + step : Int) (b := (hi - lo : Int)) (by omega)
    refine ⟨rfl, by omega, by omega, ?_⟩
    have hdiv := Int.emod_add_mul_ediv (p - lo + step : Int) (hi - lo)
    rw [show ((lo + ((p - lo + step) % (hi - lo) : Int).toNat : Nat) - (p + step) : Int) =
      (hi - lo) * -((p - lo + step : Int) / (hi - lo)) by push_cast [Int.toNat_of_nonneg hnn]; linarith]
    exact Int.mul_emod_right _ _
  case reversed =>
    rw [updRev_inside hlo h1 h17 halign hfit hp, sum_reversed_bits, sum_reversed_bits]
    refine ⟨rfl, _, bitRev_lt _ _, rfl, fun i hi => bitRev_testBit _ hi⟩

end Sys2Proof.Machine
end

/-! SUPPORT and CERTIFICATES. What a kernel instruction leaves of the datapath, and the wide results of arithmetic. -/

section
namespace Sys2Proof.Machine

/-- The registers with the pc at the next word. -/
abbrev Datapath.advanced (d : Datapath) : Datapath := { d with pc := (d.pc + 1) % 8192 }

/-! What a move, an execution and an instruction leave of the datapath (R234, R238, R252). -/

theorem State.kstore_dp (s : State) (d : Datapath) (first : Bool) (a : Nat) (v : W32) :
    (s.kstore d first a v).dp = { s.dp with
      flags := (s.kstore d first a v).dp.flags, mem := (s.kstore d first a v).dp.mem } := by
  unfold State.kstore
  dsimp only
  split
  · rw [State.post_eq]
    rfl
  · split
    · rfl
    · rw [Datapath.flag_eq]

/-- A move changes operand and wide registers, its pointer, the flags and the memory. -/
theorem State.kmove_dp (s : State) (before : Datapath) (first : Bool) (m : Move) (v : W32) :
    ∃ o w pt flags mem, (s.kmove before first m v).dp = { s.dp with o, w, pt, flags, mem } := by
  suffices h : ∀ t : State, (∃ o w flags mem, t.dp = { s.dp with o, w, flags, mem }) →
      ∃ o w pt flags mem, (if m.upd = 0 then t else
        let u := before.moveAddr m
        let d := t.dp.flag Kf.winf u.2
        { t with dp := { d with pt := d.pt.set m.ptr (ptSet (d.pt.getD m.ptr 0) u.1) } } : State).dp =
          { s.dp with o, w, pt, flags, mem } by
    refine h _ ?_
    cases m.op with
    | none => exact ⟨_, _, _, _, rfl⟩
    | load =>
      dsimp only
      rw [Datapath.flag_eq, Datapath.moveIn_eq]
      exact ⟨_, _, _, _, rfl⟩
    | store =>
      dsimp only
      rw [Datapath.flag_eq, State.kstore_dp]
      exact ⟨_, _, _, _, rfl⟩
  rintro t ⟨o, w, flags, mem, ht⟩
  split
  · rw [ht]
    exact ⟨_, _, _, _, _, rfl⟩
  · dsimp only
    rw [Datapath.flag_eq, ht]
    exact ⟨_, _, _, _, _, rfl⟩

/-- Outside those and the registers that moves see, an execution leaves what its operation does. -/
theorem State.kstep_dp (s : State) (m1 m2 : Move) (f : Datapath → Datapath) :
    ∃ o w pt flags mem ptM, (s.kstep m1 m2 f).dp = { f { s.dp with pc := (s.dp.pc + 1) % 8192 } with
      o, w, pt, flags, mem, ptM, stM := s.dp.st, wloM := s.dp.wlo, whiM := s.dp.whi } := by
  unfold State.kstep
  dsimp only
  obtain ⟨_, _, _, _, _, h2⟩ := State.kmove_dp _ s.dp false m2 _
  rw [h2]
  obtain ⟨_, _, _, _, _, h1⟩ := State.kmove_dp _ s.dp true m1 _
  rw [h1]
  exact ⟨_, _, _, _, _, _, rfl⟩

/-- An execution with its operation's result put in for the operation. -/
theorem State.kstep_const (s : State) (m1 m2 : Move) (f : Datapath → Datapath) :
    s.kstep m1 m2 f = s.kstep m1 m2 fun _ => f s.dp.advanced := rfl

section
variable {s : State} {m1 m2 : Move} {cost : Nat} {f : Datapath → Datapath}

theorem State.kinstr_idle (h : s.dp.active = false ∨ s.callBudget ≤ s.dp.cycles) : s.kinstr m1 m2 cost f = s :=
  if_pos (by simpa using h)

theorem State.kinstr_once (ha : s.dp.active = true) (hc : s.dp.cycles < s.callBudget) (hr : s.dp.rep = none) :
    s.kinstr m1 m2 cost f = { s.kstep m1 m2 f with dp := { (s.kstep m1 m2 f).dp with cycles := s.dp.cycles + cost } } := by
  rw [State.kinstr, if_neg (by simp [ha, hc]), hr]

/-- An instruction outside a repeat whose operation leaves the pc goes on to the next word. -/
theorem State.kinstr_counts (hf : (f s.dp.advanced).pc = (s.dp.pc + 1) % 8192) (ha : s.dp.active = true) (hc : s.dp.cycles < s.callBudget)
    (hr : s.dp.rep = none) : (s.kinstr m1 m2 cost f).dp.cycles = s.dp.cycles + cost ∧
      (s.kinstr m1 m2 cost f).dp.pc = (s.dp.pc + 1) % 8192 := by
  rw [State.kinstr_once ha hc hr]
  obtain ⟨_, _, _, _, _, _, h⟩ := State.kstep_dp s m1 m2 f
  exact ⟨rfl, (congrArg Datapath.pc h).trans hf⟩

end

/-! Wide results (R229, R236, R237). -/

/-- An exact result in 56 bits: saturated, or wrapped. -/
def wideValue (satw : Bool) (x : Int) : Int :=
  if satw then max (-2 ^ 55) (min (2 ^ 55 - 1) x) else (x + 2 ^ 55) % 2 ^ 56 - 2 ^ 55

theorem toInt_ofInt_wide (x : Int) : (BitVec.ofInt 56 x).toInt = wideValue false x := by
  rw [BitVec.toInt_ofInt, Int.bmod_def, wideValue, if_neg Bool.false_ne_true]
  split <;> omega

theorem clampI_wide (x : Int) : clampI (-(2 ^ 55)) (2 ^ 55 - 1) x = wideValue true x := by
  rw [wideValue, if_pos rfl]
  unfold clampI
  split
  · omega
  · split <;> omega

theorem wideValue_idem (satw : Bool) (x : Int) : wideValue false (wideValue satw x) = wideValue satw x := by
  cases satw <;> simp only [wideValue, if_true, if_false, Bool.false_eq_true] <;> omega

theorem toInt_ofInt_wideValue (satw : Bool) (x : Int) : (BitVec.ofInt 56 (wideValue satw x)).toInt = wideValue satw x :=
  (toInt_ofInt_wide _).trans (wideValue_idem satw x)

/-- The register as the model writes it: clamped where it saturates, and cut to 56 bits. -/
theorem ofInt_wideValue (satw : Bool) (x : Int) :
    BitVec.ofInt 56 (if satw then clampI (-(2 ^ 55)) (2 ^ 55 - 1) x else x) = BitVec.ofInt 56 (wideValue satw x) := by
  cases satw with
  | true => exact congrArg (BitVec.ofInt 56) (clampI_wide x)
  | false =>
    refine BitVec.eq_of_toInt_eq ?_
    rw [toInt_ofInt_wideValue]
    exact toInt_ofInt_wide x

theorem Datapath.setW_eq (d : Datapath) (i : Nat) (x : Int) : d.setW i x = { d with
    w := d.w.set i (BitVec.ofInt 56 (wideValue d.satw x)),
    flags := d.flags ||| (if (x < -2 ^ 55 ∨ 2 ^ 55 ≤ x) ∧ d.satw = true then 1 else 0) |||
      (if wideValue d.satw x < -2 ^ 46 ∨ 2 ^ 46 ≤ wideValue d.satw x then 4 else 0) } := by
  unfold Datapath.setW
  dsimp only
  rw [ofInt_wideValue, toInt_ofInt_wideValue, Datapath.flag_eq, Datapath.flag_eq]
  simp only [Bool.decide_and, Bool.decide_eq_true, decide_eq_true_iff, Bool.and_eq_true]
  rfl

theorem Datapath.setW_wReg {d : Datapath} (hlen : d.w.length = 4) (wd i : Fin 4) (x : Int) :
    (d.setW wd x).wReg i = if i = wd then wideValue d.satw x else d.wReg i := by
  rw [Datapath.setW_eq, Datapath.wReg, getD_set_val hlen, apply_ite BitVec.toInt, toInt_ofInt_wideValue]
  exact if_congr (by rw [eq_comm, Fin.ext_iff]) rfl rfl

theorem signedMul_eq (neg : Bool) (a b : Int) : signedMul neg a b = (if neg then -1 else 1) * (a * b) := by
  cases neg <;> simp [signedMul]

/-- The limit of a shift count (R235). -/
theorem shifted_eq (w : Int) (n : Int) :
    (if 0 ≤ clampI (-56) 55 n then w * 2 ^ (clampI (-56) 55 n).toNat else w / 2 ^ (-clampI (-56) 55 n).toNat) =
      if 0 ≤ n then w * 2 ^ min 55 n.toNat else w / 2 ^ min 56 (-n).toNat := by
  have h : clampI (-56) 55 n = max (-56) (min 55 n) := by
    unfold clampI
    split
    · omega
    · split <;> omega
  rw [h]
  split
  · rw [if_pos (by omega), show (max (-56) (min 55 n)).toNat = min 55 n.toNat by omega]
  · rw [if_neg (by omega), show (-max (-56) (min 55 n)).toNat = min 56 (-n).toNat by omega]

/-- Settles O42: each instruction is one `setW` of its exact result, whose register and flags are `wideValue`'s. -/
theorem kernelWideArithmetic : Obligations.KernelWideArithmetic := by
  intro s m1 m2 c wd ci si ws os i13 neg x y out hcase hout hy
  obtain ⟨f, hexec, hx⟩ : ∃ f : Datapath → Datapath, exec c s = .next (s.kinstr m1 m2 1 f) ∧
      f s.dp.advanced = s.dp.advanced.setW wd x := by
    rcases hcase with ⟨rfl, rfl⟩ | ⟨rfl, rfl⟩ | ⟨rfl, rfl⟩ | ⟨rfl, rfl⟩ | ⟨rfl, rfl⟩ | ⟨rfl, rfl⟩ | ⟨rfl, rfl⟩ | ⟨rfl, rfl⟩ |
      ⟨rfl, rfl⟩ | ⟨rfl, rfl⟩ | ⟨rfl, rfl⟩
    · exact ⟨_, rfl, congrArg (Datapath.setW _ _) (signedMul_eq neg _ _)⟩
    · exact ⟨_, rfl, congrArg (Datapath.setW _ _) (congrArg (_ + ·) (signedMul_eq neg _ _))⟩
    iterate 7 exact ⟨_, rfl, rfl⟩
    · exact ⟨_, rfl, congrArg (Datapath.setW _ _) (shifted_eq _ _)⟩
    · exact ⟨_, rfl, rfl⟩
  rw [hexec]
  refine ⟨fun h => congrArg _ (State.kinstr_idle h),
    fun ha hc hr => ⟨_, rfl, State.kinstr_counts (by rw [hx, Datapath.setW_eq]) ha hc hr⟩,
    fun ha hc hr hlen => ⟨s.dp.advanced.setW wd x, _, fun i => ?_, ?_, ?_, rfl, ?_⟩⟩
  · rw [hy]
    exact Datapath.setW_wReg (d := s.dp.advanced) hlen wd i x
  · rw [Datapath.setW_eq, hy, hout]
    simp only [decide_eq_true_iff]
    rfl
  · rw [Datapath.setW_eq]
  · rw [State.kinstr_once ha hc hr, State.kstep_const, hx]

end Sys2Proof.Machine
end

/-! SUPPORT and CERTIFICATES. Kernel instructions in all four lanes, and the delay chain of FIR4. -/

section
namespace Sys2Proof.Machine

/-! All four lanes (R235, R236). -/

/-- Flags of two results, set if either sets them. -/
theorem or_flags (w a b : W32) (p q p' q' : Bool) :
    (w ||| (if p then a else 0) ||| (if q then b else 0)) ||| (if p' then a else 0) ||| (if q' then b else 0) =
      w ||| (if p || p' then a else 0) ||| (if q || q' then b else 0) := by
  have hor : ∀ (x : W32) (p p' : Bool), (if p then x else 0) ||| (if p' then x else 0) = if p || p' then x else 0 := by
    intro x p p'
    cases p <;> cases p' <;> simp
  rw [← hor a p p', ← hor b q q']
  ac_rfl

/-- A lane's result leaves 56 bits, or the range of HEAD. -/
def leavesWide (x : Int) : Bool := x < -2 ^ 55 ∨ 2 ^ 55 ≤ x
def leavesHead (x : Int) : Bool := x < -2 ^ 46 ∨ 2 ^ 46 ≤ x

/-- Lanes set one after another: each its register, and the flags of all. -/
theorem lanes.forLanes_eq (f : Nat → Int) (l : List Nat) (d : Datapath) : lanes.forLanes f l d = { d with
    w := l.foldl (fun w i => w.set i (BitVec.ofInt 56 (wideValue d.satw (f i)))) d.w,
    flags := d.flags ||| (if l.any (fun i => leavesWide (f i) && d.satw) then 1 else 0) |||
      (if l.any (fun i => leavesHead (wideValue d.satw (f i))) then 4 else 0) } := by
  induction l generalizing d with
  | nil => simp [lanes.forLanes]
  | cons i l ih =>
    have hset : d.setW i (f i) = { d with
        w := d.w.set i (BitVec.ofInt 56 (wideValue d.satw (f i))),
        flags := d.flags ||| (if leavesWide (f i) && d.satw then 1 else 0) |||
          (if leavesHead (wideValue d.satw (f i)) then 4 else 0) } := by
      rw [Datapath.setW_eq]
      simp [leavesWide, leavesHead]
    rw [lanes.forLanes, ih, hset]
    dsimp only
    rw [or_flags]
    rfl

theorem lanes_wReg {d : Datapath} (hlen : d.w.length = 4) (f : Nat → Int) (i : Fin 4) :
    (lanes d f).wReg i = wideValue d.satw (f i) := by
  rw [lanes, lanes.forLanes_eq, Datapath.wReg]
  obtain ⟨w0, w1, w2, w3, hw⟩ := List.length_eq_four.1 hlen
  rw [hw, ← toInt_ofInt_wideValue]
  fin_cases i <;> rfl

theorem lanes_o (d : Datapath) (f : Nat → Int) : (lanes d f).o = d.o := by rw [lanes, lanes.forLanes_eq]

theorem any_lanes (p : Nat → Bool) : [0, 1, 2, 3].any p = true ↔ ∃ i : Fin 4, p i = true := by
  simp [Fin.exists_fin_succ]

/-- FIR4's delay chain reads each S register before it writes the next. -/
theorem Datapath.shiftS_oReg {d : Datapath} (hlen : d.o.length = 8) (j : Nat) :
    d.shiftS.oReg j = d.oReg (if 5 ≤ j ∧ j ≤ 7 then j - 1 else j) := by
  unfold Datapath.shiftS Datapath.setO Datapath.oReg
  simp only [List.getD_eq_getElem?_getD, List.getElem?_set, List.length_set, hlen]
  by_cases h : 5 ≤ j ∧ j ≤ 7
  · obtain rfl | rfl | rfl : j = 5 ∨ j = 6 ∨ j = 7 := by omega
    all_goals rfl
  · rw [if_neg (show 5 ≠ j by omega), if_neg (show 6 ≠ j by omega), if_neg (show 7 ≠ j by omega), if_neg h]

/-- Settles O43: the four lanes as a fold of `setW`, and FIR4's chain after them. -/
theorem kernelFourLanes : Obligations.KernelFourLanes := by
  intro s m1 m2 c neg fir x y hcase hy
  obtain ⟨f, g, hexec, hf, hx⟩ : ∃ (f : Datapath → Datapath) (g : Nat → Int), exec c s = .next (s.kinstr m1 m2 1 f) ∧
      f s.dp.advanced = (if fir then (lanes s.dp.advanced g).shiftS else lanes s.dp.advanced g) ∧ ∀ i : Fin 4, g i = x i := by
    rcases hcase with ⟨rfl, rfl, rfl⟩ | ⟨rfl, rfl, rfl⟩ | ⟨rfl, rfl, rfl⟩ | ⟨rfl, rfl, rfl⟩
    · exact ⟨_, fun i => signedMul neg (s.dp.cReg i) (s.dp.sig i), rfl, (if_neg Bool.false_ne_true).symm, fun i => signedMul_eq neg _ _⟩
    · exact ⟨_, fun i => s.dp.wReg i + signedMul neg (s.dp.cReg i) (s.dp.sig i), rfl, (if_neg Bool.false_ne_true).symm,
        fun i => congrArg (_ + ·) (signedMul_eq neg _ _)⟩
    · exact ⟨_, fun i => s.dp.wReg i + signedMul neg (s.dp.cReg 0) (s.dp.sig i), rfl, (if_pos rfl).symm,
        fun i => congrArg (_ + ·) (signedMul_eq neg _ _)⟩
    · exact ⟨_, fun _ => 0, rfl, (if_neg Bool.false_ne_true).symm, fun _ => rfl⟩
  obtain ⟨d, hd⟩ : ∃ d, d = f s.dp.advanced := ⟨_, rfl⟩
  have hframe : d = { s.dp.advanced with w := d.w, o := d.o, flags := d.flags } := by
    rw [hd, hf, lanes, lanes.forLanes_eq]
    cases fir <;> rfl
  have hflags : d.flags = (lanes s.dp.advanced g).flags := by
    rw [hd, hf]
    cases fir <;> rfl
  have hval : ∀ i : Fin 4, wideValue s.dp.satw (g i) = y i := fun i => by
    rw [hx, hy]
    rfl
  rw [hexec]
  refine ⟨fun h => congrArg _ (State.kinstr_idle h),
    fun ha hc hr => ⟨_, rfl, State.kinstr_counts (by rw [← hd, hframe]) ha hc hr⟩,
    fun ha hc hr hw ho => ⟨d, _, fun i => ?wide, fun j => ?operand, ?flags, hframe, rfl, ?_⟩⟩
  case wide =>
    have hlane := lanes_wReg (d := s.dp.advanced) hw g i
    rw [← hval, hd, hf]
    cases fir <;> exact hlane
  case operand =>
    rw [hd, hf]
    cases fir with
    | true => exact (Datapath.shiftS_oReg (by rw [lanes_o]; exact ho) j).trans (by simp [Datapath.oReg, lanes_o])
    | false => simp [Datapath.oReg, lanes_o]
  case flags =>
    rw [hflags, lanes, lanes.forLanes_eq]
    have hsat : ([0, 1, 2, 3].any fun i => leavesWide (g i) && s.dp.satw) = true ↔
        s.dp.cfg.getLsbD 9 = true ∧ ∃ i, x i < -2 ^ 55 ∨ 2 ^ 55 ≤ x i := by
      simp only [any_lanes, hx, Bool.and_eq_true, leavesWide, decide_eq_true_iff, exists_and_right, and_comm]
      rfl
    have hhead : ([0, 1, 2, 3].any fun i => leavesHead (wideValue s.dp.satw (g i))) = true ↔
        ∃ i, y i < -2 ^ 46 ∨ 2 ^ 46 ≤ y i := by
      simp only [any_lanes, hval, leavesHead, decide_eq_true_iff]
    exact congrArg₂ (fun a b : W32 => s.dp.flags ||| a ||| b) (if_congr hsat rfl rfl) (if_congr hhead rfl rfl)
  · rw [State.kinstr_once ha hc hr, State.kstep_const, hd]

end Sys2Proof.Machine
end

/-! SUPPORT and CERTIFICATES. Kernel instructions that write operand registers, address registers and control words. -/

section
namespace Sys2Proof.Machine

/-! Samples, and the operand registers (R228, R237). -/

theorem Datapath.sampleOf_eq {d : Datapath} {i : Nat} {q : Int} {v : Sample}
    (hq : q = if d.cfg.getLsbD 8 then d.wReg i / 2 ^ 23 else roundEven 23 (d.wReg i))
    (hv : v.toInt = max (-2 ^ 23) (min (2 ^ 23 - 1) q)) : d.sampleOf i = (v, decide (q < -2 ^ 23 ∨ 2 ^ 23 ≤ q)) := by
  have hround : d.roundW (d.wReg i) = q := hq.symm
  rw [Datapath.sampleOf, hround]
  refine congrArg₂ Prod.mk ?_ (decide_eq_decide.2 (ne_sat24_iff q))
  rw [sat24_eq, ← hv, BitVec.ofInt_toInt]

theorem Datapath.setO_oReg {d : Datapath} (hlen : d.o.length = 8) (i r : Fin 8) (v : Sample) :
    (d.setO r v).oReg i = if i = r then v else d.oReg i :=
  (getD_set_val hlen r i v 0).trans (if_congr (by rw [eq_comm, Fin.ext_iff]) rfl rfl)

/-- A logical shift as a number: cut to 24 bits to the left, rounded down to the right. -/
theorem toNat_shift (x : Sample) (n : Int) : (if 0 ≤ n then x <<< n.toNat else x >>> (-n).toNat).toNat =
    if 0 ≤ n then x.toNat * 2 ^ n.toNat % 2 ^ 24 else x.toNat / 2 ^ (-n).toNat := by
  split
  · rw [BitVec.toNat_shiftLeft, Nat.shiftLeft_eq]
  · rw [BitVec.toNat_ushiftRight, Nat.shiftRight_eq_div_pow]

theorem toNat_flagBits (w : W32) : (BitVec.ofNat 24 (bits w 0 6)).toNat = w.toNat % 64 := by
  rw [BitVec.toNat_ofNat, Nat.mod_eq_of_lt ((bits_lt w 0 6).trans (by decide))]
  rfl

theorem getLsbD_clear (w : W32) (imm : BitVec 10) (i : Nat) :
    (w &&& ~~~ w32 (imm.toNat % 64)).getLsbD i = (w.getLsbD i && !(decide (i < 6) && imm.getLsbD i)) := by
  rw [BitVec.getLsbD_and, BitVec.getLsbD_not, BitVec.getLsbD_ofNat, Nat.testBit_mod_two_pow imm.toNat 6]
  by_cases h : i < 32
  · simp [h, BitVec.getLsbD]
  · simp [BitVec.getLsbD_of_ge w i (by omega)]

/-! The address registers (R228). -/

/-- What an address register holds of a number: 24 bits in a pointer, 18 in the others. -/
def addressPart (c v : Nat) : Nat := if c < 8 then v % 2 ^ 24 else v % 2 ^ 18

theorem Datapath.aReg_lt (d : Datapath) (c : Nat) : d.aReg c < 2 ^ 24 := by
  unfold Datapath.aReg
  split
  · exact BitVec.isLt _
  · split
    · exact (BitVec.isLt _).trans (by decide)
    · split <;> exact (BitVec.isLt _).trans (by decide)

theorem Datapath.aReg_lt_of_le (d : Datapath) {c : Nat} (h : 8 ≤ c) : d.aReg c < 2 ^ 18 := by
  unfold Datapath.aReg
  rw [if_neg (by omega)]
  split
  · exact BitVec.isLt _
  · split <;> exact BitVec.isLt _

section
variable {d : Datapath}

theorem Datapath.aReg_pt {c : Nat} (h : c < 8) : d.aReg c = (d.pt.getD c 0).toNat := if_pos h

theorem Datapath.aReg_wlo {w : Nat} (h : w < 8) : d.aReg (16 + w) = (d.wlo.getD w 0).toNat := by
  rw [Datapath.aReg, if_neg (by omega), if_neg (by omega), if_pos (by omega), Nat.add_sub_cancel_left]

theorem Datapath.aReg_whi (w : Nat) : d.aReg (24 + w) = (d.whi.getD w 0).toNat := by
  rw [Datapath.aReg, if_neg (by omega), if_neg (by omega), if_neg (by omega), Nat.add_sub_cancel_left]

/-- Each bank after a write: only the one that the code names changes. -/
theorem Datapath.setA_eq (d : Datapath) (c v : Nat) : d.setA c v = { d with
    pt := if c < 8 then d.pt.set c (BitVec.ofNat 24 v) else d.pt,
    st := if 8 ≤ c ∧ c < 16 then d.st.set (c - 8) (BitVec.ofNat 18 v) else d.st,
    wlo := if 16 ≤ c ∧ c < 24 then d.wlo.set (c - 16) (BitVec.ofNat 18 v) else d.wlo,
    whi := if 24 ≤ c then d.whi.set (c - 24) (BitVec.ofNat 18 v) else d.whi } := by
  unfold Datapath.setA
  grind

theorem toNat_getD_set_self {n i : Nat} {l : List (BitVec n)} (h : i < l.length) (v : Nat) :
    ((l.set i (BitVec.ofNat n v)).getD i 0).toNat = v % 2 ^ n := by
  rw [List.getD_eq_getElem?_getD, List.getElem?_set_self h]
  exact BitVec.toNat_ofNat _ _

theorem toNat_getD_ite_set {n i j : Nat} {l : List (BitVec n)} {p : Prop} [Decidable p] (h : p → i ≠ j) (x : BitVec n) :
    ((if p then l.set i x else l).getD j 0).toNat = (l.getD j 0).toNat := by
  split
  · next hp => rw [List.getD_eq_getElem?_getD, List.getElem?_set_ne (h hp), List.getD_eq_getElem?_getD]
  · rfl

theorem Datapath.setA_aReg_self (hpt : d.pt.length = 8) (hst : d.st.length = 8) (hlo : d.wlo.length = 8)
    (hhi : d.whi.length = 8) (c : Fin 32) (v : Nat) : (d.setA c v).aReg c = addressPart c v := by
  unfold Datapath.setA Datapath.aReg addressPart
  split
  · exact toNat_getD_set_self (by omega) v
  · split
    · exact toNat_getD_set_self (by omega) v
    · split
      · exact toNat_getD_set_self (by omega) v
      · exact toNat_getD_set_self (by omega) v

theorem Datapath.setA_aReg_ne {i c : Nat} (h : i ≠ c) (v : Nat) : (d.setA c v).aReg i = d.aReg i := by
  rw [Datapath.setA_eq]
  unfold Datapath.aReg
  split
  · exact toNat_getD_ite_set (fun _ => h.symm) _
  · split
    · exact toNat_getD_ite_set (by omega) _
    · split
      · exact toNat_getD_ite_set (by omega) _
      · exact toNat_getD_ite_set (by omega) _

end

theorem toNat_ptSet (p : BitVec 24) (a : Nat) : (ptSet p a).toNat = p.toNat / 2 ^ 18 * 2 ^ 18 + a % 2 ^ 18 := by
  rw [ptSet, BitVec.toNat_ofNat, Nat.mod_eq_of_lt]
  have := p.isLt
  omega

/-- An update stays within the address space (R242). -/
theorem updLinear_lt {p lo hi : Nat} {step : Int} {wen : Bool} (h : hi ≤ 2 ^ 18) : (updLinear p step wen lo hi).1 < 2 ^ 18 := by
  have hlin : (((p : Int) + step) % 2 ^ 18).toNat < 2 ^ 18 := by omega
  cases wen with
  | false => exact hlin
  | true =>
    by_cases hout : hi ≤ lo ∨ p < lo ∨ hi ≤ p
    · rw [updLinear_outside step hout]
      exact hlin
    · rw [updLinear_inside step (by omega) (by omega)]
      have hlt := Int.emod_lt_of_pos (p - lo + step : Int) (b := (hi - lo : Int)) (by omega)
      dsimp only
      omega

theorem addressPart_imm (c : Nat) (i : BitVec 24) : addressPart c i.toNat = if c < 8 then i.toNat else i.toNat % 2 ^ 18 := by
  rw [addressPart, Nat.mod_eq_of_lt i.isLt]

theorem addressPart_amov (d : Datapath) (ad as : Nat) :
    addressPart ad (if ad < 8 ∧ 8 ≤ as then (ptSet (d.pt.getD ad 0) (d.aReg as)).toNat else d.aReg as) =
      if ad < 8 then if as < 8 then d.aReg as else d.aReg ad / 2 ^ 18 * 2 ^ 18 + d.aReg as else d.aReg as % 2 ^ 18 := by
  unfold addressPart
  by_cases had : ad < 8
  · rw [if_pos had, if_pos had]
    by_cases has : as < 8
    · rw [if_neg (by omega), if_pos has, Nat.mod_eq_of_lt (d.aReg_lt as)]
    · rw [if_pos ⟨had, by omega⟩, if_neg has, Nat.mod_eq_of_lt (BitVec.isLt _), toNat_ptSet,
        Nat.mod_eq_of_lt (d.aReg_lt_of_le (by omega)), Datapath.aReg_pt had]
  · rw [if_neg had, if_neg had, if_neg (by omega)]

/-- The update of PADD, by the pointer's fields and its window's bounds as address registers. -/
theorem Datapath.padd_update (d : Datapath) (pt : Fin 8) (step : Int) {p w : Nat} {u : Nat × Bool} (hp : p = d.aReg pt)
    (hw : w = p / 2 ^ 18 % 8)
    (hu : u = updLinear (p % 2 ^ 18) step (p.testBit 21) (d.aReg (16 + w)) (d.aReg (24 + w))) :
    updLinear (ptAddr (d.pt.getD pt 0)) step (ptWen (d.pt.getD pt 0)) (d.wlo.getD (ptWin (d.pt.getD pt 0)) 0).toNat
      (d.whi.getD (ptWin (d.pt.getD pt 0)) 0).toNat = u ∧
    addressPart pt (ptSet (d.pt.getD pt 0) u.1).toNat = p / 2 ^ 18 * 2 ^ 18 + u.1 := by
  rw [Datapath.aReg_pt pt.isLt] at hp
  rw [Datapath.aReg_wlo (hw ▸ Nat.mod_lt _ (by decide)), Datapath.aReg_whi] at hu
  refine ⟨by rw [hu, hw, hp]; rfl, ?_⟩
  rw [addressPart, if_pos pt.isLt, Nat.mod_eq_of_lt (BitVec.isLt _), toNat_ptSet, hp,
    Nat.mod_eq_of_lt (hu ▸ updLinear_lt (BitVec.isLt _).le)]

/-! Instructions that a repeat bars (R238, R241). -/

theorem State.kalone_once {s : State} {m1 m2 : Move} {cost : Nat} {f : Datapath → Datapath} (ha : s.dp.active = true)
    (hc : s.dp.cycles < s.callBudget) (hr : s.dp.rep = none) : s.kalone m1 m2 cost false f = s.kinstr m1 m2 cost f := by
  rw [State.kalone, if_neg (by simp [ha, hc]), hr]
  rfl

/-- Settles O44: each instruction as a write of one register and of flags, before its moves. -/
theorem kernelLogicAndAddress : Obligations.KernelLogicAndAddress := by
  intro s m1 m2 ha hc hr ho hpt hst hlo hhi next hnext
  have honce : ∀ (f : Datapath → Datapath) (n1 n2 : Move),
      (.next (s.kinstr n1 n2 1 f) : Host.Outcome State Fault Refusal) = .next (next (f s.dp.advanced) n1 n2) := fun f n1 n2 => by
    rw [hnext, State.kinstr_once ha hc hr, State.kstep_const]
  refine ⟨honce id m1 m2, fun od os wd ws i6 i24 c r v clamp n1 n2 hcase => ?operand,
    fun ad as pt i13 i24 c r v winf n1 n2 hcase => ?address, fun i10 => ⟨honce _ m1 m2, ?clear⟩⟩
  case operand =>
    obtain ⟨f, hexec, hf⟩ : ∃ f : Datapath → Datapath, exec c s = .next (s.kinstr n1 n2 1 f) ∧
        f s.dp.advanced = (s.dp.advanced.setO r v).flag Kf.clamp clamp := by
      rcases hcase with ⟨rfl, rfl, ⟨q, hq, hv, rfl⟩, rfl, rfl⟩ | ⟨rfl, rfl, hcase⟩
      · refine ⟨_, rfl, ?_⟩
        dsimp only
        rw [Datapath.sampleOf_eq (d := s.dp.advanced) hq hv]
      rcases hcase with ⟨rfl, rfl, rfl, rfl⟩ | ⟨rfl, rfl, rfl, rfl⟩ | ⟨rfl, rfl, rfl, rfl⟩ | ⟨rfl, hv, rfl, rfl⟩ |
        ⟨rfl, hv, rfl, rfl⟩ | ⟨rfl, rfl, rfl, rfl⟩
      iterate 3 exact ⟨_, rfl, rfl⟩
      · exact ⟨_, rfl, congrArg (Datapath.setO _ _) (BitVec.eq_of_toNat_eq ((toNat_shift _ _).trans hv.symm))⟩
      · exact ⟨_, rfl, congrArg (Datapath.setO _ _) (BitVec.eq_of_toNat_eq ((toNat_flagBits _).trans hv.symm))⟩
      · exact ⟨_, congrArg _ (State.kalone_once ha hc hr), rfl⟩
    refine ⟨_, hexec.trans (honce f n1 n2), fun i => ?_, ?_⟩
    · rw [hf, Datapath.flag_eq]
      exact Datapath.setO_oReg (d := s.dp.advanced) ho i r v
    · rw [hf, Datapath.flag_eq]
      rfl
  case address =>
    obtain ⟨f, x, hexec, hf, hv⟩ : ∃ (f : Datapath → Datapath) (x : Nat), exec c s = .next (s.kinstr n1 n2 1 f) ∧
        f s.dp.advanced = (s.dp.advanced.setA r x).flag Kf.winf winf ∧ addressPart r x = v := by
      rcases hcase with ⟨rfl, rfl, rfl, rfl, rfl, rfl⟩ | ⟨rfl, rfl, rfl, rfl, rfl, rfl⟩ |
        ⟨rfl, hrp, rfl, rfl, p, w, u, hp, hw, hu, rfl, rfl⟩
      · exact ⟨_, _, rfl, apply_ite (Datapath.setA _ _) _ _ _ |>.symm, addressPart_amov s.dp r as⟩
      · exact ⟨_, _, congrArg _ (State.kalone_once ha hc hr), rfl, addressPart_imm r i24⟩
      · obtain ⟨hupd, hpart⟩ := s.dp.padd_update pt i13.toInt hp hw hu
        refine ⟨_, (ptSet (s.dp.pt.getD pt 0) u.1).toNat, rfl, ?_, hrp ▸ hpart⟩
        rw [hrp, ← hupd]
    refine ⟨_, hexec.trans (honce f n1 n2), fun i => ?_, ?_⟩
    · rw [hf, Datapath.flag_eq]
      by_cases h : i = r
      · rw [if_pos h, h]
        exact (Datapath.setA_aReg_self (d := s.dp.advanced) hpt hst hlo hhi r x).trans hv
      · rw [if_neg h]
        exact Datapath.setA_aReg_ne (d := s.dp.advanced) (fun e => h (Fin.ext e)) x
    · rw [hf, Datapath.flag_eq, Datapath.setA_eq]
      rfl
  case clear =>
    refine ⟨_, honce _ m1 m2, fun i => ?_, rfl⟩
    exact getLsbD_clear s.dp.flags i10 i

end Sys2Proof.Machine
end

/-! SUPPORT and CERTIFICATES. Branches, calls, repeats and DONE of the kernel datapath. -/

section
namespace Sys2Proof.Machine

/-! Instructions that a repeat bars (R238, R240, R241). -/

section
variable {s : State} {m1 m2 : Move} {cost : Nat} {illegal : Bool} {f : Datapath → Datapath}

theorem State.kalone_illegal (ha : s.dp.active = true) (hc : s.dp.cycles < s.callBudget) (hr : s.dp.rep = none) :
    s.kalone m1 m2 cost true f = s.callIllegal s.dp.pc := by
  rw [State.kalone, if_neg (by simp [ha, hc]), hr]
  rfl

/-- Inside a repeat: skipped by a repeat of 0, an illegal word otherwise. -/
theorem State.kalone_barred (ha : s.dp.active = true) (hc : s.dp.cycles < s.callBudget) {n : Nat} (hr : s.dp.rep = some n) :
    s.kalone m1 m2 cost illegal f = if n = 0 then { s with dp := { s.dp with pc := (s.dp.pc + 1) % 8192, rep := none } }
      else s.callIllegal s.dp.pc := by
  rw [State.kalone, if_neg (by simp [ha, hc]), hr]
  cases n <;> rfl

end

/-- DONE outside a repeat is an execution, and the end of the call. -/
theorem exec_doneOp_once {s : State} {m1 m2 : Move} (ha : s.dp.active = true) (hc : s.dp.cycles < s.callBudget)
    (hr : s.dp.rep = none) : exec (.doneOp m1 m2) s = .next ((s.kinstr m1 m2 1 id).callEnd true) := by
  refine congrArg Host.Outcome.next ?_
  rw [if_neg (by simp [ha, hc]), hr]

theorem exec_doneOp_barred {s : State} {m1 m2 : Move} (ha : s.dp.active = true) (hc : s.dp.cycles < s.callBudget) {n : Nat}
    (hr : s.dp.rep = some n) : exec (.doneOp m1 m2) s =
      .next (if n = 0 then { s with dp := { s.dp with pc := (s.dp.pc + 1) % 8192, rep := none } } else s.callIllegal s.dp.pc) := by
  refine congrArg Host.Outcome.next ?_
  rw [if_neg (by simp [ha, hc]), hr]
  cases n <;> rfl

theorem badTarget_eq_false {t : BitVec 13} (h : t.toNat < 0x1E00) : badTarget t = false := decide_eq_false (by omega)

theorem badTarget_eq_true {t : BitVec 13} (h : 0x1E00 ≤ t.toNat) : badTarget t = true := decide_eq_true h

/-- Settles O47: every instruction of the group is `kalone` of its operation. -/
theorem kernelControl : Obligations.KernelControl := by
  intro s m1 m2 t wn pt cnt ha hc next hnext
  refine ⟨fun hr => ?once, fun c n hr hcase => ?barred⟩
  case once =>
    have honce : ∀ cost (f : Datapath → Datapath), (.next (s.kalone m1 m2 cost false f) : Host.Outcome State Fault Refusal) =
        .next (next (f s.dp.advanced) cost) := fun cost f => by
      rw [hnext, State.kalone_once ha hc hr, State.kinstr_once ha hc hr, State.kstep_const]
    have hillegal : ∀ cost (f : Datapath → Datapath), (.next (s.kalone m1 m2 cost true f) : Host.Outcome State Fault Refusal) =
        .next (s.callIllegal s.dp.pc) := fun cost f => by rw [State.kalone_illegal ha hc hr]
    refine ⟨fun c taken hcase => ?branch, fun a taken hacc htaken => ?count, honce 1 _, ?rpni, fun ht hs => ?jsr, fun h => ?jsrIllegal,
      fun r l hs => ?ret, fun hs => ?retIllegal, ?done⟩
    case branch =>
      have hexec : exec c s = .next (s.kalone m1 m2 (if taken then 2 else 1) (badTarget t) fun d => if taken then d.go t else d) := by
        rcases hcase with ⟨rfl, rfl⟩ | ⟨rfl, rfl⟩ | ⟨rfl, rfl⟩ | ⟨rfl, rfl⟩ | ⟨rfl, rfl⟩ | ⟨rfl, rfl⟩ | ⟨rfl, rfl⟩
        all_goals rfl
      rw [hexec]
      refine ⟨fun ht => ?_, fun ht => ?_⟩
      · rw [badTarget_eq_false ht, honce]
        cases taken <;> rfl
      · rw [badTarget_eq_true ht, hillegal]
    case count =>
      have hexec : exec (.cntb pt t m1 m2) s = .next (s.kalone m1 m2 (if taken then 2 else 1) (badTarget t) fun d =>
          if taken then (d.setA pt (ptSet (s.dp.pt.getD pt 0) a).toNat).go t else d.setA pt (ptSet (s.dp.pt.getD pt 0) a).toNat) := by
        rw [htaken, hacc]
        rfl
      have hset : s.dp.advanced.setA pt (ptSet (s.dp.pt.getD pt 0) a).toNat =
          { s.dp.advanced with pt := s.dp.pt.set pt (ptSet (s.dp.pt.getD pt 0) a) } := by
        rw [Datapath.setA, if_pos pt.isLt, BitVec.ofNat_toNat, BitVec.setWidth_eq]
      rw [hexec]
      refine ⟨fun ht => ?_, fun ht => ?_⟩
      · rw [badTarget_eq_false ht, honce, hset]
        cases taken <;> rfl
      · rw [badTarget_eq_true ht, hillegal]
    case rpni =>
      refine (honce 1 _).trans ?_
      dsimp only
      rw [Datapath.flag_eq]
      simp only [decide_eq_true_iff]
      rfl
    case jsr =>
      have hok : (badTarget t || decide (4 ≤ s.dp.stack.length)) = false := by
        rw [badTarget_eq_false ht, decide_eq_false (by omega)]
        rfl
      exact (congrArg (fun b => Host.Outcome.next (s.kalone m1 m2 2 b _)) hok).trans (honce 2 _)
    case jsrIllegal =>
      have hbad : (badTarget t || decide (4 ≤ s.dp.stack.length)) = true := by
        rw [Bool.or_eq_true]
        exact h.imp badTarget_eq_true decide_eq_true
      exact (congrArg (fun b => Host.Outcome.next (s.kalone m1 m2 2 b _)) hbad).trans (hillegal 2 _)
    case ret =>
      have hok : decide (s.dp.stack = []) = false := decide_eq_false (by simp [hs])
      refine (congrArg (fun b => Host.Outcome.next (s.kalone m1 m2 2 b _)) hok).trans ((honce 2 _).trans ?_)
      dsimp only
      rw [hs]
      rfl
    case retIllegal =>
      exact (congrArg (fun b => Host.Outcome.next (s.kalone m1 m2 2 b _)) (decide_eq_true hs)).trans (hillegal 2 _)
    case done =>
      rw [exec_doneOp_once ha hc hr, hnext, State.kinstr_once ha hc hr]
      rfl
  case barred =>
    rcases hcase with rfl | rfl | rfl | rfl | rfl | rfl | rfl | rfl | rfl | rfl | rfl | rfl | rfl | ⟨od, i, rfl⟩ | ⟨ad, i, rfl⟩
    iterate 12 exact congrArg Host.Outcome.next (State.kalone_barred ha hc hr)
    · exact exec_doneOp_barred ha hc hr
    iterate 2 exact congrArg Host.Outcome.next (State.kalone_barred ha hc hr)

end Sys2Proof.Machine
end

/-! SUPPORT and CERTIFICATES. Repeated kernel instructions: each repetition is one execution. -/

section
namespace Sys2Proof.Machine

/-! An execution keeps the clock, and so the budget of the call (R252). -/

theorem ClockKept.callBudget {r s : State} (h : ClockKept r s) : s.callBudget = r.callBudget := by
  rw [State.callBudget, State.rate, State.get, h.2.2 _ (by decide) (by decide)]
  rfl

section
variable {r s : State} (h : ClockKept r s)
include h

theorem ClockKept.kstore {d : Datapath} {first : Bool} {a : Nat} {v : W32} : ClockKept r (s.kstore d first a v) :=
  (h.set (.inr (Nat.le_add_right_of_le (by decide)))).post.ite (h.upd.ite h.upd)

theorem ClockKept.kmove {before : Datapath} {first : Bool} {m : Move} {v : W32} : ClockKept r (s.kmove before first m v) := by
  unfold State.kmove
  cases m.op with
  | none => exact h.ite h.upd
  | load => exact h.upd.ite h.upd
  | store => exact h.kstore.upd.ite h.kstore.upd

theorem ClockKept.kstep {m1 m2 : Move} {f : Datapath → Datapath} : ClockKept r (s.kstep m1 m2 f) := h.upd.kmove.kmove.upd

end

/-! What a repeat counts (R238): cycles and repetitions, which no operation and no move reads. -/

/-- The registers with the cycles and the repetitions counted otherwise. -/
def Datapath.recount (d : Datapath) (c : Nat) (r : Option Nat) : Datapath := { d with cycles := c, rep := r }
def State.recount (s : State) (c : Nat) (r : Option Nat) : State := { s with dp := s.dp.recount c r }

/-- One execution of the word at a pc. -/
def State.kstepAt (pc : Nat) (m1 m2 : Move) (f : Datapath → Datapath) (s : State) : State :=
  ({ s with dp := { s.dp with pc := pc } } : State).kstep m1 m2 f

/-- An operation that may be repeated: it keeps the call, and neither reads nor changes what is counted. -/
def Repeatable (f : Datapath → Datapath) : Prop :=
  (∀ d, (f d).active = d.active) ∧ ∀ d c r, f (d.recount c r) = (f d).recount c r

theorem Datapath.flag_recount (d : Datapath) (i : Nat) (on : Bool) (c : Nat) (r : Option Nat) :
    (d.recount c r).flag i on = (d.flag i on).recount c r := by
  rw [Datapath.flag_eq, Datapath.flag_eq]
  rfl

theorem Datapath.moveIn_recount (d : Datapath) (reg : Nat) (v : W32) (c : Nat) (r : Option Nat) :
    (d.recount c r).moveIn reg v = (d.moveIn reg v).recount c r := by
  unfold Datapath.moveIn
  split
  · rfl
  · split <;> rfl

section
variable (s : State) (c : Nat) (r : Option Nat)

theorem State.rd_recount (a : Nat) : (s.recount c r).rd a = s.rd a := rfl
theorem State.get_recount (f : Fld) : (s.recount c r).get f = s.get f := rfl
theorem State.put_recount (f : Fld) (v : Nat) : (s.recount c r).put f v = (s.put f v).recount c r := rfl
theorem State.set_recount (f : Fld) (b : Bool) : (s.recount c r).set f b = (s.set f b).recount c r := rfl
theorem State.bump_recount (f : Fld) (k : Nat) : (s.recount c r).bump f k = (s.bump f k).recount c r := rfl

theorem State.wrList_recount (a : Nat) (l : List W32) : (s.recount c r).wrList a l = (s.wrList a l).recount c r := by
  induction l generalizing s a with
  | nil => rfl
  | cons w l ih => exact ih (s.wr a w) (a + 4)

theorem State.ite_recount {p : Prop} [Decidable p] (t : State) :
    (if p then s.recount c r else t.recount c r) = (if p then s else t).recount c r :=
  (apply_ite (State.recount · c r) p s t).symm

theorem State.evqOverflow_recount : (s.recount c r).evqOverflow = s.evqOverflow.recount c r := by
  unfold State.evqOverflow
  dsimp +instances only [State.rd_recount, State.get_recount]
  rw [State.wrList_recount, State.put_recount, State.bump_recount, State.set_recount]

theorem State.vc3Copy_recount : (s.recount c r).vc3Copy = s.vc3Copy.recount c r := by
  have hspend : ((s.recount c r).spend 3 2).getD (s.recount c r) = ((s.spend 3 2).getD s).recount c r := by
    unfold State.spend
    dsimp only
    rw [State.get_recount]
    split <;> rfl
  unfold State.vc3Copy
  rw [hspend]
  exact State.ite_recount _ _ _ _

theorem State.post_recount (ty src : Nat) (l : List W32) : (s.recount c r).post ty src l = (s.post ty src l).recount c r := by
  unfold State.post State.postAt
  simp only [State.get_recount, State.evqOverflow_recount, State.ite_recount, State.wrList_recount, State.put_recount,
    State.vc3Copy_recount]
  rfl

variable (d : Datapath) (first : Bool)

variable (d : Datapath) (first : Bool)

theorem State.kstore_recount (a : Nat) (v : W32) :
    (s.recount c r).kstore (d.recount c r) first a v = (s.kstore d first a v).recount c r := by
  have hmay : (s.recount c r).mayLoad (d.recount c r) first a = s.mayLoad d first a := rfl
  unfold State.kstore
  dsimp only
  rw [hmay]
  split
  · rw [State.set_recount, State.post_recount]
    rfl
  · split
    · rfl
    · rw [Datapath.flag_eq, Datapath.flag_eq]
      rfl

theorem State.setFlag_recount (i : Nat) (on : Bool) :
    ({ s.recount c r with dp := (s.recount c r).dp.flag i on } : State) = ({ s with dp := s.dp.flag i on } : State).recount c r :=
  congrArg (fun e => { s with dp := e }) (Datapath.flag_recount _ _ _ _ _)

theorem State.kmove_recount (m : Move) (v : W32) :
    (s.recount c r).kmove (d.recount c r) first m v = (s.kmove d first m v).recount c r := by
  have hstill : ∀ m : Move, m.upd = 0 → (s.recount c r).kmove (d.recount c r) first m v = (s.kmove d first m v).recount c r := by
    intro m hupd
    cases hop : m.op with
    | none => rw [State.kmove_none v hupd hop, State.kmove_none v hupd hop]
    | load =>
      rw [State.kmove_load v hupd hop rfl, State.kmove_load v hupd hop rfl]
      exact congrArg (fun e => { s with dp := e })
        ((congrArg (Datapath.flag · _ _) (s.dp.moveIn_recount _ _ _ _)).trans (Datapath.flag_recount _ _ _ _ _))
    | store =>
      rw [State.kmove_store v hupd hop rfl rfl, State.kmove_store v hupd hop rfl rfl, ← State.setFlag_recount, ← State.kstore_recount]
      rfl
  by_cases hupd : m.upd = 0
  · exact hstill m hupd
  · rw [State.kmove_update v hupd rfl, State.kmove_update v hupd rfl, hstill _ rfl]
    rfl

variable {f : Datapath → Datapath} (hf : Repeatable f)
include hf

theorem State.kstep_recount (m1 m2 : Move) : (s.recount c r).kstep m1 m2 f = (s.kstep m1 m2 f).recount c r := by
  have hop : ({ s.recount c r with dp := f (s.recount c r).dp.advanced } : State) =
      ({ s with dp := f s.dp.advanced } : State).recount c r :=
    congrArg (fun e => { s with dp := e }) (hf.2 s.dp.advanced c r)
  have hmoves : ∀ v1 v2 : W32, (({ s.recount c r with dp := f (s.recount c r).dp.advanced } : State).kmove
      (s.dp.recount c r) true m1 v1).kmove (s.dp.recount c r) false m2 v2 =
      ((({ s with dp := f s.dp.advanced } : State).kmove s.dp true m1 v1).kmove s.dp false m2 v2).recount c r := fun v1 v2 => by
    rw [hop, State.kmove_recount, State.kmove_recount]
  exact congrArg (fun t : State => { t with dp := { t.dp with
    ptM := s.dp.nextPtM m2 (s.dp.nextPtM m1 s.dp.pt), stM := s.dp.st, wloM := s.dp.wlo, whiM := s.dp.whi } }) (hmoves _ _)

/-- The executions of a repeat. -/
theorem State.iter_recount (m1 m2 : Move) (pc n : Nat) :
    iter (State.kstepAt pc m1 m2 f) n (s.recount c r) = (iter (State.kstepAt pc m1 m2 f) n s).recount c r := by
  induction n generalizing s with
  | zero => rfl
  | succ n ih =>
    have hstep : (s.recount c r).kstepAt pc m1 m2 f = (s.kstepAt pc m1 m2 f).recount c r :=
      State.kstep_recount { s with dp := { s.dp with pc := pc } } c r hf m1 m2
    rw [iter, hstep, ih]
    rfl

end

/-! A repeated instruction (R238, R252). -/

section
variable {s : State} {m1 m2 : Move} {f : Datapath → Datapath}

theorem State.kinstr_skip {cost : Nat} (ha : s.dp.active = true) (hc : s.dp.cycles < s.callBudget) (hr : s.dp.rep = some 0) :
    s.kinstr m1 m2 cost f = { s with dp := { s.dp with pc := (s.dp.pc + 1) % 8192, rep := none } } := by
  rw [State.kinstr, if_neg (by simp [ha, hc]), hr]
  dsimp only
  rw [Nat.zero_min]
  rfl

/-- A repeat for which the budget has room. -/
theorem State.kinstr_repeat {cost n : Nat} (ha : s.dp.active = true) (hr : s.dp.rep = some n)
    (hc : s.dp.cycles + n < s.callBudget) : s.kinstr m1 m2 cost f =
      let t := iter (State.kstepAt s.dp.pc m1 m2 f) n s
      { t with dp := { t.dp with pc := (s.dp.pc + 1) % 8192, rep := none, cycles := s.dp.cycles + n } } := by
  rw [State.kinstr, if_neg (by simp [ha]; omega), hr]
  dsimp only
  rw [Nat.min_eq_left (by omega)]
  rfl

/-- One repetition is one execution outside a repeat, and then the rest of the repeat at the same word. -/
theorem State.kinstr_repeat_succ (hf : Repeatable f) {n : Nat} (ha : s.dp.active = true) (hr : s.dp.rep = some (n + 1))
    (hc : s.dp.cycles + n + 1 < s.callBudget) {t : State}
    (ht : t = ({ s with dp := { s.dp with rep := none } } : State).kinstr m1 m2 1 f) :
    s.kinstr m1 m2 1 f = ({ t with dp := { t.dp with rep := some n, pc := s.dp.pc } } : State).kinstr m1 m2 1 f := by
  obtain ⟨u, hu⟩ : ∃ u, u = s.kstep m1 m2 f := ⟨_, rfl⟩
  have htu : t = u.recount (s.dp.cycles + 1) none := by
    rw [ht, State.kinstr_once (s := { s with dp := { s.dp with rep := none } }) ha (show s.dp.cycles < s.callBudget by omega) rfl]
    have hrep := State.kstep_recount s s.dp.cycles none hf m1 m2
    rw [← hu] at hrep
    exact congrArg (fun t : State => { t with dp := { t.dp with cycles := s.dp.cycles + 1 } }) hrep
  have hua : u.dp.active = true := by
    obtain ⟨_, _, _, _, _, _, hdp⟩ := State.kstep_dp s m1 m2 f
    rw [hu, hdp]
    exact (hf.1 _).trans ha
  have hub : u.callBudget = s.callBudget := by
    rw [hu]
    exact (ClockKept.refl s).kstep.callBudget
  obtain ⟨v, hv⟩ : ∃ v : State, v = { t with dp := { t.dp with rep := some n, pc := s.dp.pc } } := ⟨_, rfl⟩
  have hvdp : v.dp = { u.dp with cycles := s.dp.cycles + 1, rep := some n, pc := s.dp.pc } := by
    rw [hv, htu]
    rfl
  have hvb : v.callBudget = s.callBudget := by
    rw [hv, htu]
    exact hub
  rw [← hv, State.kinstr_repeat ha hr (by omega),
    State.kinstr_repeat (s := v) (by rw [hvdp]; exact hua) (by rw [hvdp]) (by rw [hvb, hvdp]; dsimp only; omega), hvdp]
  have hiter : ∀ x y z, ({ iter (State.kstepAt s.dp.pc m1 m2 f) n v with
      dp := { (iter (State.kstepAt s.dp.pc m1 m2 f) n v).dp with pc := x, rep := y, cycles := z } } : State) =
      { iter (State.kstepAt s.dp.pc m1 m2 f) n u with
        dp := { (iter (State.kstepAt s.dp.pc m1 m2 f) n u).dp with pc := x, rep := y, cycles := z } } := by
    intro x y z
    have hrec := State.iter_recount u (s.dp.cycles + 1) (some n) hf m1 m2 s.dp.pc n
    subst hv htu
    cases n with
    | zero => rfl
    | succ n => exact congrArg (fun t : State => { t with dp := { t.dp with pc := x, rep := y, cycles := z } }) hrec
  dsimp only
  rw [hiter, hu, Nat.add_right_comm]
  rfl

end

/-! The operations that may be repeated. -/

section
variable {f g : Datapath → Datapath} (hf : Repeatable f)
include hf

theorem Repeatable.ite {p : Prop} [Decidable p] (hg : Repeatable g) : Repeatable fun d => if p then f d else g d := by
  split
  · exact hf
  · exact hg

theorem Repeatable.flag (i : Nat) {on : Datapath → Bool} (hon : ∀ d c r, on (d.recount c r) = on d) :
    Repeatable fun d => (f d).flag i (on d) := by
  refine ⟨fun d => ?_, fun d c r => ?_⟩
  · dsimp only
    rw [Datapath.flag_eq]
    exact hf.1 d
  · dsimp only
    rw [hf.2, hon]
    exact Datapath.flag_recount _ _ _ _ _

theorem Repeatable.setO (i : Nat) {x : Datapath → Sample} (hx : ∀ d c r, x (d.recount c r) = x d) :
    Repeatable fun d => (f d).setO i (x d) :=
  ⟨hf.1, fun d c r => congrArg₂ (Datapath.setO · i ·) (hf.2 d c r) (hx d c r)⟩

theorem Repeatable.setA (i : Nat) {x : Datapath → Nat} (hx : ∀ d c r, x (d.recount c r) = x d) :
    Repeatable fun d => (f d).setA i (x d) := by
  refine ⟨fun d => ?_, fun d c r => ?_⟩
  · dsimp only
    rw [Datapath.setA_eq]
    exact hf.1 d
  · dsimp only
    rw [hf.2, hx, Datapath.setA_eq, Datapath.setA_eq]
    rfl

end

theorem repeatable_setW (i : Nat) {x : Datapath → Int} (hx : ∀ d c r, x (d.recount c r) = x d) :
    Repeatable fun d => d.setW i (x d) := by
  refine ⟨fun d => ?_, fun d c r => ?_⟩
  · dsimp only
    rw [Datapath.setW_eq]
  · dsimp only
    rw [hx, Datapath.setW_eq, Datapath.setW_eq]
    rfl

theorem repeatable_lanes {x : Datapath → Nat → Int} (hx : ∀ d c r, x (d.recount c r) = x d) :
    Repeatable fun d => lanes d (x d) := by
  refine ⟨fun d => ?_, fun d c r => ?_⟩
  · dsimp only
    rw [lanes, lanes.forLanes_eq]
  · dsimp only
    rw [hx, lanes, lanes, lanes.forLanes_eq, lanes.forLanes_eq]
    rfl

theorem repeatable_id : Repeatable id := ⟨fun _ => rfl, fun _ _ _ => rfl⟩

theorem Repeatable.shiftS {f : Datapath → Datapath} (hf : Repeatable f) : Repeatable fun d => (f d).shiftS :=
  ⟨hf.1, fun d c r => (congrArg Datapath.shiftS (hf.2 d c r)).trans rfl⟩

/-- Settles O48: the repetitions of one operation. -/
theorem kernelRepeat : Obligations.KernelRepeat := by
  intro s c hcase ha hc
  obtain ⟨f, m1, m2, hexec, hf⟩ : ∃ (f : Datapath → Datapath) (m1 m2 : Move),
      (∀ s, exec c s = .next (s.kinstr m1 m2 1 f)) ∧ Repeatable f := by
    split at hcase
    · exact ⟨_, _, _, fun _ => rfl, repeatable_id⟩
    · exact ⟨_, _, _, fun _ => rfl, repeatable_setW _ fun _ _ _ => rfl⟩
    · exact ⟨_, _, _, fun _ => rfl, repeatable_setW _ fun _ _ _ => rfl⟩
    · exact ⟨_, _, _, fun _ => rfl, repeatable_lanes fun _ _ _ => rfl⟩
    · exact ⟨_, _, _, fun _ => rfl, repeatable_lanes fun _ _ _ => rfl⟩
    · exact ⟨_, _, _, fun _ => rfl, (repeatable_lanes fun _ _ _ => rfl).shiftS⟩
    · exact ⟨_, _, _, fun _ => rfl, repeatable_lanes fun _ _ _ => rfl⟩
    iterate 6 exact ⟨_, _, _, fun _ => rfl, repeatable_setW _ fun _ _ _ => rfl⟩
    · exact ⟨_, _, _, fun _ => rfl, (repeatable_id.setO _ fun _ _ _ => rfl).flag _ fun _ _ _ => rfl⟩
    iterate 3 exact ⟨_, _, _, fun _ => rfl, repeatable_setW _ fun _ _ _ => rfl⟩
    iterate 4 exact ⟨_, _, _, fun _ => rfl, repeatable_id.setO _ fun _ _ _ => rfl⟩
    · exact ⟨_, _, _, fun _ => rfl, (repeatable_id.setA _ fun _ _ _ => rfl).ite (repeatable_id.setA _ fun _ _ _ => rfl)⟩
    · exact ⟨_, _, _, fun _ => rfl, (repeatable_id.setA _ fun _ _ _ => rfl).flag _ fun _ _ _ => rfl⟩
    iterate 3 exact ⟨_, _, _, fun _ => rfl, fun _ => rfl, fun _ _ _ => rfl⟩
    · exact hcase.elim
  simp only [hexec]
  exact ⟨fun hr => congrArg _ (State.kinstr_skip ha hc hr),
    fun n hr hlt => ⟨_, rfl, congrArg _ (State.kinstr_repeat_succ hf ha hr hlt rfl)⟩⟩

end Sys2Proof.Machine
end

/-! SUPPORT and CERTIFICATES. The end of a kernel call: the prefetcher fills the buffer of the voice. -/

section
namespace Sys2Proof.Machine

/-! A brick's memory (R226). -/

theorem State.kmem_putKmem_lt {b a a' : Nat} (h : a < a') (l : List W32) (s : State) : (s.putKmem b a' l).kmem b a = s.kmem b a := by
  induction l generalizing a' s with
  | nil => rfl
  | cons w l ih =>
    rw [State.putKmem, ih (by omega), State.kmem_setKmem, if_neg (by omega)]

theorem State.kmem_putKmem_head (s : State) (b a : Nat) (w : W32) (l : List W32) : (s.putKmem b a (w :: l)).kmem b a = w := by
  rw [State.putKmem, State.kmem_putKmem_lt (Nat.lt_succ_self a), State.kmem_setKmem, if_pos rfl]

theorem State.bufLen_pos (s : State) : 0 < s.bufLen := by
  unfold State.bufLen
  split <;> decide

theorem State.putKmem_kernel (s : State) (b a : Nat) (l : List W32) : (s.putKmem b a l).kernel = s.kernel := by
  induction l generalizing s a with
  | nil => rfl
  | cons w l ih => exact ih _ _

/-- With no reference in PF_REF the prefetcher fills the slot's buffer with 0 (R247). -/
theorem State.prefetch_of_no_ref {s : State} {v : Voice} (h : s.kmem (v.src / 128) (64 * (v.src % 128) + 62) = 0) :
    s.prefetch v = (s.putKmem (v.src / 128) (s.bufBase (v.src % 128)) (List.replicate s.bufLen 0)).setVoice v := by
  unfold State.prefetch
  dsimp only
  rw [h]
  cases s.tileImage v (s.resolve v none 0).1 with
  | none => simp
  | some i => simp

/-- Without a customer kernel on any brick no call begins. -/
theorem State.callNext_of_no_image {s : State} (h : s.kernel.images = []) : s.callNext = s := by
  have hnone : s.nextCall = none := by
    refine List.findSome?_eq_none_iff.2 fun b _ => if_pos ?_
    rw [State.kimage, h]
    rfl
  rw [State.callNext, State.callFrom, hnone]
  exact ite_self _

theorem State.rowBack_of_not_staged {s : State} {v : Voice} (h : v.staged = []) (b : Nat) : s.rowBack v b = s := by
  rw [State.rowBack, h]
  rfl

/-- The end of a call that was cut, for a voice that does not roll back (R231, R246, R253): the prefetcher fills its buffer, and the
row that is staged comes back. -/
theorem State.callEnd_cut {s : State} {v : Voice} (hv : s.voiceIn s.dp.src s.dp.record = some v) (hroll : v.rollback = none) :
    ∃ (b : State) (w : Voice), s.callEnd false = (((b.setVoice w).prefetch w).rowBack w s.dp.block).callNext ∧
      b.dp = { s.dp with active := false } ∧ b.kernel = s.kernel ∧ w.src = v.src ∧ w.staged = v.staged := by
  unfold State.callEnd
  extract_lets d p s1 d1 s2 clip
  have hd : s2.dp = { s.dp with active := false } := rfl
  have hk : s2.kernel = s.kernel := rfl
  have hv2 : s2.voiceIn d.src d.record = some v := hv
  clear_value s2 clip
  rw [hv2]
  simp only [hroll, Option.any_none, Bool.false_eq_true, if_false, false_and]
  refine ⟨_, _, rfl, ?_, ?_, ?_, ?_⟩
  · split <;> exact hd
  · split <;> exact hk
  · cases clip <;> rfl
  · cases clip <;> rfl

/-! The counterexample. -/

/-- A voice in slot 0 of brick 0 whose rendering is at block 0. -/
def cutVoice : Voice :=
  { startMt := 0, sounding := true, releaseAt := none, cutAt := none, endBlock := none, bound := [], level := 0, synth := Synth.init,
    seq := Seq.start 0 0 0 true, src := 0, record := 0, index := 0, cls := 8, preset := 0, companion := false, params := [],
    edits := [], stop := none, flags := 0, clipNow := false, peak := 0, rms := 0, rms16 := 0, rmsHist := [], lastSample := 0,
    wasLate := false, next := 0, staged := [], ckpts := [], rollback := none, rollOrder := 0, rollPeriod := none, redo := none,
    lives := [], script := [], scriptBank := 0, gapFrom := none }

/-- A call of that voice in progress, with a word left in its prefetch buffer. -/
def cutState : State :=
  { State.reset with
    disp := { DispSt.init with voices := [cutVoice] },
    dp := { Datapath.init with active := true, mem := [(0x10000, 1)] } }

/-- At the end of that call the prefetcher, which finds no tile, has filled the buffer with 0 (R247). -/
theorem cutState_buffer_filled : (cutState.callEnd false).kmem 0 0x10000 = 0 := by
  obtain ⟨b, w, hcut, hdp, hkernel, hsrc, hstaged⟩ := State.callEnd_cut (s := cutState) (v := cutVoice) rfl rfl
  have hsrc0 : w.src = 0 := hsrc
  have href : (b.setVoice w).kmem (w.src / 128) (64 * (w.src % 128) + 62) = 0 := by
    rw [hsrc0, State.kmem]
    exact (congrArg (fun d : Datapath => (kget d.mem _).getD 0) hdp).trans rfl
  obtain ⟨n, hn⟩ := Nat.exists_eq_add_one.2 (b.setVoice w).bufLen_pos
  rw [hcut, State.prefetch_of_no_ref href, State.rowBack_of_not_staged hstaged, State.callNext_of_no_image, hn, List.replicate_succ,
    hsrc0]
  · exact State.kmem_putKmem_head _ 0 0x10000 0 _
  · exact congrArg KernelSt.images ((State.putKmem_kernel (b.setVoice w) _ _ _).trans hkernel)

/-- Refutes O49: at the end of a call the prefetcher fills the voice's buffer (R247), and the statement of what a cut call leaves
passes it over. -/
theorem not_kernelCallEnds : ¬ Obligations.KernelCallEnds := by
  rintro ⟨_, _, hends, _⟩
  obtain ⟨t, ⟨ht, _⟩, _, hend⟩ := hends cutState
  obtain ⟨b, hb⟩ : ∃ b : State, b = if cutVoice.redo = none ∧ cutState.dp.block = cutState.front then
      State.spendFront { t with dp := { t.dp with active := false } } cutState.dp.brick cutState.dp.cycles
    else State.useReserve { t with dp := { t.dp with active := false } } cutState.dp.brick cutState.dp.cycles := ⟨_, rfl⟩
  have hmem : b.dp.mem = [(0x10000, 1)] := by
    rw [hb, ht]
    split <;> rfl
  have himages : b.kernel.images = [] := by
    rw [hb, ht]
    split <;> rfl
  have hleft : (cutState.callEnd false).kmem 0 0x10000 = 1 := by
    rw [hend cutVoice _ b rfl hb rfl, if_neg (show ¬ cutVoice.rollback.any _ = true from Bool.false_ne_true),
      State.rowBack_of_not_staged rfl, State.callNext_of_no_image (show (b.setVoice _).kernel.images = [] from himages), State.kmem]
    exact congrArg (fun m => (kget m 0x10000).getD 0) hmem
  exact absurd (cutState_buffer_filled.symm.trans hleft) (by decide)

end Sys2Proof.Machine
end

/-! SUPPORT and CERTIFICATES. The sizes of the datapath's register files: what each operation, command and row leaves of them, and so every step. -/

section
namespace Sys2Proof.Machine

/-- The register files of R228 have their sizes. -/
def Datapath.Sized (d : Datapath) : Prop :=
  d.o.length = 8 ∧ d.w.length = 4 ∧ d.pt.length = 8 ∧ d.st.length = 8 ∧ d.wlo.length = 8 ∧ d.whi.length = 8 ∧
    d.ptM.length = 8 ∧ d.stM.length = 8 ∧ d.wloM.length = 8 ∧ d.whiM.length = 8

/-- The state's datapath has register files of the sizes of R228. -/
def Shaped (s : State) : Prop := s.dp.Sized

/-- A meaning ends in a state whose register files have their sizes. -/
def Lands (o : Host.Outcome State Fault Refusal) : Prop := ∀ t, o = .next t → Shaped t

theorem Lands.next {t : State} (h : Shaped t) : Lands (.next t) := fun _ e => Host.Outcome.next.inj e ▸ h

theorem forEach_shaped {α : Type} {l : List α} {s : State} {f : α → State → State} (hf : ∀ a t, Shaped t → Shaped (f a t))
    (h : Shaped s) : Shaped (forEach l s f) :=
  List.foldlRecOn l _ (motive := Shaped) h fun t ht a _ => hf a t ht

theorem iter_shaped {n : Nat} {s : State} {f : State → State} (hf : ∀ t, Shaped t → Shaped (f t)) (h : Shaped s) :
    Shaped (iter f n s) := by
  induction n generalizing s with
  | zero => exact h
  | succ n ih => exact ih (hf s h)

theorem getD_shaped {o : Option State} {s : State} (ho : ∀ t, o = some t → Shaped t) (h : Shaped s) : Shaped (o.getD s) := by
  cases o with
  | none => exact h
  | some t => exact ho t rfl

section
variable {s : State} (h : Shaped s)
include h

/-- A record update that leaves the datapath. -/
theorem Shaped.upd {variant' : Variant} {power' : Power} {lullFrom' : Power} {lullEntry' : Bool}
    {resetKind' : ResetKind} {regs' spi' mclk'} {time' : TimeSt} {host' : HostSt}
    {disp' : DispSt} {mix' : MixSt} {zones' : List Zone} {groups' : List Group} {banks' : BankSt} {kernel' : KernelSt}
    {ports' : List PortSt} {ana' : List AnaSt} {anaTrim' : Option TrimRun} {timers' : List TimerSt}
    {uarts' : List UartSt} {contacts' : List ContactSt} {supv' : SupvSt} {age' : AgeSt} {stream' : StreamSt} {course' : CourseSt}
    {strike' : StrikeSt} {safe' : SafeSt} {slabs' : SlabSt} {nor' : NorSt} {pins' : Pins} {timed' : List Timed}
    {order' free' : Nat} {pending'} :
    Shaped (State.mk variant' power' lullFrom' lullEntry' resetKind' regs' spi' mclk' time' host' disp' mix' zones' groups'
      banks' kernel' s.dp ports' ana' anaTrim' timers' uarts' contacts' supv' age' stream' course' strike' safe' slabs' nor' pins'
      timed' order' free' pending') := h

theorem Shaped.ite {c : Prop} [Decidable c] {t : State} (h' : Shaped t) : Shaped (if c then s else t) := by
  split
  · exact h
  · exact h'

end

theorem Lands.ite {c : Prop} [Decidable c] {o p : Host.Outcome State Fault Refusal} (h : Lands o) (h' : Lands p) :
    Lands (if c then o else p) := by
  split
  · exact h
  · exact h'

/-! The register files under the operations of the datapath. -/

section
variable {d : Datapath} (hd : d.Sized)
include hd

/-- An update outside the register files. -/
theorem Datapath.Sized.upd {active' src' record' block' cfg' flags' pc' stack' rep' cycles' mem'} :
    (Datapath.mk active' src' record' block' d.o d.w d.pt d.st d.wlo d.whi d.ptM d.stM d.wloM d.whiM cfg' flags' pc' stack' rep'
      cycles' mem').Sized := hd

theorem Datapath.Sized.setO {i v} : (d.setO i v).Sized := by
  obtain ⟨ho, hr⟩ := hd
  exact ⟨List.length_set.trans ho, hr⟩

theorem Datapath.Sized.setWide {i v} : ({ d with w := d.w.set i v } : Datapath).Sized := by
  obtain ⟨ho, hw, hr⟩ := hd
  exact ⟨ho, List.length_set.trans hw, hr⟩

theorem Datapath.Sized.flag {i on} : (d.flag i on).Sized := by
  unfold Datapath.flag
  split
  · exact hd
  · exact hd

theorem Datapath.Sized.setW {i x} : (d.setW i x).Sized := hd.setWide.flag.flag

theorem Datapath.Sized.setA {c v} : (d.setA c v).Sized := by
  obtain ⟨ho, hw, hp, hs, hl, hh, hm⟩ := hd
  unfold Datapath.setA
  split
  · exact ⟨ho, hw, List.length_set.trans hp, hs, hl, hh, hm⟩
  split
  · exact ⟨ho, hw, hp, List.length_set.trans hs, hl, hh, hm⟩
  split
  · exact ⟨ho, hw, hp, hs, List.length_set.trans hl, hh, hm⟩
  · exact ⟨ho, hw, hp, hs, hl, List.length_set.trans hh, hm⟩

theorem Datapath.Sized.shiftS : d.shiftS.Sized := hd.setO.setO.setO

theorem Datapath.Sized.go {t} : (d.go t).Sized := hd

theorem Datapath.Sized.moveIn {reg v} : (d.moveIn reg v).Sized := by
  unfold Datapath.moveIn
  split
  · exact hd.setO
  split
  · exact hd.setWide
  · exact hd.setWide

theorem Datapath.Sized.forLanes {f l} : (lanes.forLanes f l d).Sized := by
  induction l generalizing d with
  | nil => exact hd
  | cons i l ih => exact ih hd.setW

theorem Datapath.Sized.lanes {f} : (lanes d f).Sized := hd.forLanes

theorem Datapath.Sized.setPt {i v} : ({ d with pt := d.pt.set i v } : Datapath).Sized := by
  obtain ⟨ho, hw, hp, hr⟩ := hd
  exact ⟨ho, hw, List.length_set.trans hp, hr⟩

/-- The address registers that moves see may be set to others of the same sizes. -/
theorem Datapath.Sized.seen {pt st wlo whi} (hp : pt.length = 8) (hs : st.length = 8) (hl : wlo.length = 8) (hh : whi.length = 8) :
    ({ d with ptM := pt, stM := st, wloM := wlo, whiM := whi } : Datapath).Sized := by
  obtain ⟨ho, hw, hp', hs', hl', hh', -⟩ := hd
  exact ⟨ho, hw, hp', hs', hl', hh', hp, hs, hl, hh⟩

theorem Datapath.Sized.ite {c : Prop} [Decidable c] {e : Datapath} (he : e.Sized) : (if c then d else e).Sized := by
  split
  · exact hd
  · exact he

end

theorem Datapath.nextPtM_length (d : Datapath) (m : Move) (l : List (BitVec 24)) : (d.nextPtM m l).length = l.length := by
  unfold Datapath.nextPtM
  split
  · rfl
  · exact List.length_set

theorem Shaped.withDp {s : State} {d : Datapath} (hd : d.Sized) : Shaped { s with dp := d } := hd

theorem reset_shaped : Shaped State.reset := ⟨rfl, rfl, rfl, rfl, rfl, rfl, rfl, rfl, rfl, rfl⟩

/-! Machine/Ops.lean: its operations keep the sizes of the register files. -/

section
variable {s : State} (h : Shaped s)
include h

theorem Shaped.wr {a v} : Shaped (s.wr a v) := h.upd

theorem Shaped.put {f v} : Shaped (s.put f v) := h.wr

theorem Shaped.set {f b} : Shaped (s.set f b) := h.put

theorem Shaped.bump {f k} : Shaped (s.bump f k) := h.put

theorem Shaped.bumpSat {f k} : Shaped (s.bumpSat f k) := h.put

theorem Shaped.wr64 {lo hi v} : Shaped (s.wr64 lo hi v) := h.wr.wr

theorem Shaped.clearRegs {lo hi} : Shaped (s.clearRegs lo hi) := h.upd

theorem Shaped.draw : Shaped s.draw.2 := h.upd

theorem Shaped.drawWords {n} : Shaped (s.drawWords n).2 := by
  induction n generalizing s with
  | zero => exact h
  | succ n ih => exact ih h.draw

theorem Shaped.setPower {p} : Shaped (s.setPower p) := h.upd.put.put

theorem Shaped.wrList {a l} : Shaped (s.wrList a l) := by
  induction l generalizing s a with
  | nil => exact h
  | cons w l ih => exact ih h.wr

theorem Shaped.evqOverflow : Shaped s.evqOverflow := h.wrList.put.bump.set

theorem Shaped.spend {v n t} (e : s.spend v n = some t) : Shaped t := by
  unfold State.spend at e
  dsimp only at e
  split at e
  · cases e
    exact h.put.bump
  · cases e

theorem Shaped.vc3Copy : Shaped s.vc3Copy := Shaped.ite (getD_shaped (fun _ e => h.spend e) h) h

theorem Shaped.postAt {ty src mt data} : Shaped (s.postAt ty src mt data) :=
  ((h.evqOverflow.ite h).wrList.put.ite (h.evqOverflow.ite h).wrList.put.put).vc3Copy

theorem Shaped.post {ty src data} : Shaped (s.post ty src data) := h.postAt

theorem Shaped.setZone {z} : Shaped (s.setZone z) := h.upd

theorem Shaped.setGroup {g} : Shaped (s.setGroup g) := h.upd

theorem Shaped.setPort {p} : Shaped (s.setPort p) := h.upd

theorem Shaped.setChan {c} : Shaped (s.setChan c) := h.upd

theorem Shaped.setTimer {t} : Shaped (s.setTimer t) := h.upd

theorem Shaped.setUart {u} : Shaped (s.setUart u) := h.upd

theorem Shaped.setContact {c} : Shaped (s.setContact c) := h.upd

theorem Shaped.setBank {b} : Shaped (s.setBank b) := h.upd

theorem Shaped.setPath {p} : Shaped (s.setPath p) := h.upd

theorem Shaped.setReturns {r} : Shaped (s.setReturns r) := h.upd

theorem Shaped.setDewZone {d} : Shaped (s.setDewZone d) := h.upd

theorem Shaped.setJob {j} : Shaped (s.setJob j) := h.upd

theorem Shaped.setVoice {v} : Shaped (s.setVoice v) := h.upd

theorem Shaped.delVoice {src record} : Shaped (s.delVoice src record) := h.upd

end

/-! Machine/Flags.lean: its operations keep the sizes of the register files. -/

section
variable {s : State} (h : Shaped s)
include h

theorem Shaped.clearRc {a} : Shaped (s.clearRc a) := by
  unfold State.clearRc
  split
  · exact h
  · exact h.ite h.wr

theorem Shaped.regWrite {a v} : Shaped (s.regWrite a v) := h.ite (by split; exacts [h, h.wr])

end

/-! Machine/Operands.lean: its operations keep the sizes of the register files. -/

section
variable {s : State} (h : Shaped s)
include h

theorem Shaped.writeImage {l ws} : Shaped (s.writeImage l ws) := by
  induction l generalizing s ws with
  | nil => exact h
  | cons a l ih =>
    cases ws with
    | nil => exact h
    | cons w ws => exact ih h.wr

end

/-! Machine/Kcp.lean: its operations keep the sizes of the register files. -/

/-- What a command does at acceptance, at a refusal and after its response keeps the sizes of the register files. -/
structure CmdShaped (c : Cmd) : Prop where
  act : ∀ k mt s, Shaped s → Shaped (c.act k mt s).state
  refused : ∀ k st s, Shaped s → Shaped (c.refused k st s)
  after : ∀ k s, Shaped s → Shaped (c.after k s)

/-- A command that does nothing at a refusal and after its response. -/
theorem CmdShaped.ofAct {c : Cmd} (hr : c.refused = fun _ _ s => s) (ha : c.after = fun _ s => s)
    (act : ∀ k mt s, Shaped s → Shaped (c.act k mt s).state) : CmdShaped c where
  act := act
  refused _ _ _ h := by
    rw [hr]
    exact h
  after _ _ h := by
    rw [ha]
    exact h

section
variable {s : State} (h : Shaped s)
include h

theorem Shaped.record {c r} : Shaped (s.record c r) := h.upd.put.set.ite h.upd

theorem Shaped.clearSeq {m} : Shaped (s.clearSeq m) := h.upd.put.set.set.ite h.upd

theorem Shaped.uartFeed {n} : Shaped (s.uartFeed n) := by
  unfold State.uartFeed
  dsimp only
  split
  · exact h.setUart.set.ite h
  · exact h

theorem Shaped.uartKick {n} : Shaped (s.uartKick n) :=
  h.uartFeed.ite
      (by
        split
        · exact h.uartFeed.setUart.set
        · split
          · exact h.uartFeed.ite h.uartFeed.setUart.set.set.uartFeed
          · exact h.uartFeed)

theorem Shaped.sendFrame {r} : Shaped (s.sendFrame r) := h.setUart.uartKick.ite h

theorem Shaped.respond {r} : Shaped (s.respond r) := by
  unfold State.respond
  extract_lets -underBinder +onlyGivenNames old t s2 s3 s4 s5 late old2 t2
  have ht : Shaped t := h.upd
  have ht2 : Shaped t2 := ht.wrList.put.put.wr.ite (Shaped.ite (getD_shaped (fun _ e => ht.put.spend e) ht.put) (forEach_shaped
      (fun _ _ h' => h'.sendFrame) ht.sendFrame.upd))
  clear_value t t2
  exact ht2.clearSeq.ite ht2

theorem Shaped.reply {op r} : Shaped (s.reply op r) := (h.record.ite h).respond

theorem Shaped.cmdDone {op chan seq status mt} : Shaped (s.cmdDone op chan seq status mt) := h.postAt

theorem Cmd.accept_shaped {c k} (hc : CmdShaped c) : Shaped (c.accept k s) := by
  have ha := hc.act k (c.okMt k s) s h
  exact hc.after _ _ (Shaped.ite (ha.ite ha.upd).reply.cmdDone (ha.ite ha.upd).reply)

theorem Shaped.countTaken {chan} : Shaped (s.countTaken chan) := h.bump.bump

theorem Shaped.screened {k op next} (hf : ∀ t, Shaped t → Shaped (next t)) : Shaped (s.screened k op next) := by
  unfold State.screened
  dsimp only
  split
  · exact h.countTaken.reply
  split
  · exact h.countTaken.respond
  split
  · exact h.countTaken.reply
  · exact hf _ h.countTaken

theorem Cmd.take_shaped {c k} (hc : CmdShaped c) : Shaped (c.take k s) := by
  refine h.screened fun t ht => ?_
  split
  · exact (hc.refused _ _ _ ht).reply
  split
  · exact ht.reply
  · exact Cmd.accept_shaped ht hc

theorem Shaped.hold {op k} : Shaped (s.hold op k) := h.upd.ite h

theorem kcpExec_shaped {c k} (hc : CmdShaped c) : Shaped (kcpExec c k s) := (Cmd.take_shaped h hc).ite h.hold

theorem Shaped.takeUnknown {op k} : Shaped (s.takeUnknown op k) := h.hold.ite (h.screened (fun _ h' => h'.reply))

theorem Shaped.screenOpcode {chan crcOk ws} : Shaped (s.screenOpcode chan crcOk ws) := h.ite h.takeUnknown

end

/-! Machine/Taps.lean: its operations keep the sizes of the register files. -/

section
variable {s : State} (h : Shaped s)
include h

theorem Shaped.setTaps {l} : Shaped (s.setTaps l) := h.upd

theorem Shaped.setPend {l} : Shaped (s.setPend l) := h.upd

theorem Shaped.tapApplied {mt} : Shaped (s.tapApplied mt) := h.wr64.bump

theorem Shaped.tapSet {src bus job hw g code mt} : Shaped (s.tapSet src bus job hw g code mt) := by
  unfold State.tapSet
  split
  · exact h.setTaps.tapApplied
  · exact h.ite h.setTaps.tapApplied

theorem Shaped.tapDiscard {e mt} : Shaped (s.tapDiscard e mt) := h.bump.set.postAt

theorem Shaped.unkeep {key} : Shaped (s.unkeep key) := h.upd

theorem Shaped.applyRec {mt e} : Shaped (s.applyRec mt e) :=
  Shaped.ite (by split; exacts [(h.unkeep.tapSet.ite h.unkeep.tapDiscard), h.unkeep.tapDiscard]) h.unkeep.tapSet

theorem Shaped.flushTaps {mt order} : Shaped (s.flushTaps mt order) := forEach_shaped (fun _ _ h' => h'.applyRec) h.setPend

theorem Shaped.tapsNote {job} : Shaped (s.tapsNote job) :=
  ((h.put.ite h).upd.ite (h.put.ite h)).ite ((h.put.ite h).post.upd.ite (h.put.ite h))

theorem Shaped.tapsFree {b} : Shaped (s.tapsFree b) := h.upd.tapsNote

theorem Shaped.dropTaps {src record} : Shaped (s.dropTaps src record) := h.upd.tapsNote

theorem Shaped.dropVrel {job} : Shaped (s.dropVrel job) := h.setPend

theorem Shaped.bindVrel {job v src startMt} : Shaped (s.bindVrel job v src startMt) := h.setPend

end

/-! Machine/Voices.lean: its operations keep the sizes of the register files. -/

section
variable {s : State} (h : Shaped s)
include h

theorem Shaped.noteContact {mt n old cls} : Shaped (s.noteContact mt n old cls) := h.upd

theorem Shaped.noteAmbient {mt z code} : Shaped (s.noteAmbient mt z code) := h.upd

theorem Shaped.setKmem {b a v} : Shaped (s.setKmem b a v) := h

theorem Shaped.putKmem {b a l} : Shaped (s.putKmem b a l) := by
  induction l generalizing s a with
  | nil => exact h
  | cons w l ih => exact ih h.setKmem

theorem Shaped.rollVoice {v e count} : Shaped (s.rollVoice v e count) := (h.setVoice.bump.ite h.setVoice).ite (h.setVoice.ite h)

theorem Shaped.rollCompanion {w e count} : Shaped (s.rollCompanion w e count) := by
  unfold State.rollCompanion
  dsimp only
  split
  · exact h.setVoice
  · exact h.setVoice.ite h.setVoice.rollVoice

theorem Shaped.rollFrom {v mt count} : Shaped (s.rollFrom v mt count) :=
  h.ite (Shaped.ite (by split; exacts [h.rollVoice, h]) (forEach_shaped (fun _ _ h' => h'.rollCompanion)
      (by split; exacts [h.rollVoice, h])))

theorem Shaped.editVoice {src record mt k} : Shaped (s.editVoice src record mt k) := by
  unfold State.editVoice
  split
  · exact h
  · exact h.ite h.setVoice.rollFrom

theorem Shaped.toneEdit {w mt cut} : Shaped (s.toneEdit w mt cut) := h.setVoice.ite h.setVoice.rollVoice

theorem Shaped.followEnd {v} : Shaped (s.followEnd v) := by
  unfold State.followEnd
  split
  · exact h
  · exact forEach_shaped (fun _ _ h' => h'.toneEdit) h

end

/-! Machine/Jobs.lean: its operations keep the sizes of the register files. -/

section
variable {s : State} (h : Shaped s)
include h

theorem Shaped.courseSend {ty body} : Shaped (s.courseSend ty body) := h.ite h.upd

theorem Shaped.courseInit : Shaped s.courseInit := by
  unfold State.courseInit
  extract_lets -underBinder +onlyGivenNames on key twin roleB old t t2 t3 t4 t5 t6 t7 t8
  have ht : Shaped t := h.upd
  have ht2 : Shaped t2 := forEach_shaped (fun _ _ h' => h'.put.put.put) ht
  have ht3 : Shaped t3 := forEach_shaped (fun _ _ h' => h'.wr.wr) ht2
  have ht4 : Shaped t4 := ht3.put.set.set
  have ht5 : Shaped t5 := ht4.put.put
  have ht6 : Shaped t6 := ht5.put
  have ht7 : Shaped t7 := ht6.wr.put
  have ht8 : Shaped t8 := ht7.put.set.wr
  clear_value t t2 t3 t4 t5 t6 t7 t8
  exact ht8.put.ite ht8

theorem Shaped.dropReady {r} : Shaped (s.dropReady r) := h.upd

theorem Shaped.release {r} : Shaped (s.release r) := h.dropReady.upd

theorem Shaped.dropVoices {r} : Shaped (s.dropVoices r) := Shaped.upd (forEach_shaped (fun _ _ h' => h'.dropTaps) h)

theorem Shaped.squallOver {j cause} : Shaped (s.squallOver j cause) := h.post.upd.ite h

theorem Shaped.finishOwn {j st reason mt} : Shaped (s.finishOwn j st reason mt) :=
  h.dropVoices.dropVrel.dropReady.squallOver.postAt.setJob

theorem Shaped.partDone {x course reason part} : Shaped (s.partDone x course reason part) := by
  unfold State.partDone
  split
  · exact h
  · exact h.ite (h.finishOwn.ite h.setJob)

theorem Shaped.finish {j st reason mt} : Shaped (s.finish j st reason mt) := by
  unfold State.finish
  split
  · exact h.finishOwn
  · exact h.finishOwn.partDone.ite h.finishOwn.courseSend

theorem Shaped.wipeJob {j} : Shaped (s.wipeJob j) := h.dropVoices.dropVrel.release

theorem Shaped.wipeJobs : Shaped s.wipeJobs := forEach_shaped (fun _ _ h' => h'.wipeJob) h

theorem Shaped.freeReported : Shaped s.freeReported := forEach_shaped (fun _ _ h' => h'.release) h

theorem Shaped.checkJobEnd {r mt} : Shaped (s.checkJobEnd r mt) := by
  unfold State.checkJobEnd
  split
  · exact h
  · exact h.ite (h.finish.ite h.finish)

theorem Shaped.endVoice {v b} : Shaped (s.endVoice v b) := (h.setVoice.ite h.dropTaps.delVoice).checkJobEnd

theorem Shaped.stopVoice {v mt reason} : Shaped (s.stopVoice v mt reason) := h.ite h.setVoice.followEnd

theorem Shaped.stopJob {j mt reason} : Shaped (s.stopJob j mt reason) := by
  unfold State.stopJob
  split
  · extract_lets -underBinder +onlyGivenNames keep t
    have ht : Shaped t := h.ite h.setJob
    clear_value t
    exact forEach_shaped (fun _ _ h' => h'.stopVoice) ht
  · extract_lets -underBinder +onlyGivenNames keep t
    have ht : Shaped t := h.ite h.setJob
    clear_value t
    exact forEach_shaped (fun _ _ h' => h'.stopVoice) ht
  · exact h.finish
  · exact h.finish
  · exact h.finish
  · exact h

end

/-! Machine/Place.lean: its operations keep the sizes of the register files. -/

section
variable {s : State} (h : Shaped s)
include h

theorem Shaped.waitNote {c} : Shaped (s.waitNote c) := h.put.put

theorem Shaped.waitTick : Shaped s.waitTick := forEach_shaped (fun _ _ h' => h'.waitNote) h.upd

theorem Shaped.bind {j b slots} : Shaped (s.bind j b slots) := by
  unfold State.bind
  extract_lets -underBinder +onlyGivenNames start wait c j t t2 t3 old t4
  have ht : Shaped t := h.dropReady.setJob
  have ht2 : Shaped t2 := forEach_shaped (fun _ _ h' => forEach_shaped (fun _ _ h'' => h''.setTaps) (Shaped.bindVrel
      (by split; exacts [h'.setVoice.editVoice, h'.setVoice]))) ht
  have ht3 : Shaped t3 := ht2.tapsNote
  have ht4 : Shaped t4 := ht3.upd
  clear_value t t2 t3 t4
  exact ht4.waitNote.put

theorem Shaped.waitTaps {j} : Shaped (s.waitTaps j) := h.set.set.ite h.set.set.post.setJob

theorem Shaped.stealAll {gone t} : Shaped (s.stealAll gone t) :=
  forEach_shaped (fun _ _ h' => by split; exacts [h'.bump.stopJob, h']) h

theorem Shaped.place {r} : Shaped (s.place r).1 := by
  unfold State.place
  dsimp only
  split
  · exact h.dropReady
  · split
    · exact h.finish
    · split
      · exact h.bind
      · split
        · exact h.stealAll.bind
        · exact h.waitTaps.ite h

theorem Shaped.serveClass {c n} : Shaped (s.serveClass c n) := by
  induction n generalizing s with
  | zero => exact h
  | succ n ih =>
    unfold State.serveClass
    split
    · exact h
    · dsimp only
      split
      · exact ih h.place.dropReady
      · exact h.place

theorem Shaped.serve : Shaped s.serve := forEach_shaped (fun _ _ h' => h'.serveClass) h

theorem Shaped.toReady {j} : Shaped (s.toReady j) := h.setJob.upd

theorem Shaped.dispatch : Shaped s.dispatch := Shaped.serve (forEach_shaped (fun _ _ h' => (h'.toReady.ite h')) h)

theorem Shaped.insertJob {r d startAt want hw site} : Shaped (s.insertJob r d startAt want hw site) :=
  h.upd.setJob.ite h.upd.toReady.serveClass

theorem Shaped.squallInsert {source contact startBlock} : Shaped (s.squallInsert source contact startBlock) := by
  unfold State.squallInsert
  split
  · exact h
  · exact h.upd.post.insertJob

theorem Shaped.runFrom {mt} : Shaped (s.runFrom mt) := h.upd

theorem Shaped.squallTrigger {source contact} : Shaped (s.squallTrigger source contact) := by
  unfold State.squallTrigger
  extract_lets -underBinder +onlyGivenNames act
  split
  · exact h.upd.ite h
  · exact h.upd.ite h
  · exact h.ite (h.bumpSat.ite ((h.courseSend.ite h).runFrom.ite (h.courseSend.ite h)).squallInsert)
  · exact h.ite (h.bumpSat.ite ((h.courseSend.ite h).runFrom.ite (h.courseSend.ite h)).squallInsert)
  · exact h.bumpSat.ite h
  · exact h

theorem Shaped.squallCommand {source} : Shaped (s.squallCommand source).1 := h.squallTrigger

theorem Shaped.squallBell : Shaped s.squallBell := h.squallCommand.upd

theorem Shaped.squallRelease {mt cause} : Shaped (s.squallRelease mt cause) := by
  unfold State.squallRelease
  split
  · exact h
  · exact forEach_shaped (fun _ _ h' => h'.editVoice) h.upd

theorem Shaped.squallStop {mt cause} : Shaped (s.squallStop mt cause).1 := (h.courseSend.ite h).squallRelease

theorem Shaped.trigFire {t} : Shaped (s.trigFire t) := by
  unfold State.trigFire
  dsimp only
  split
  · exact h.bumpSat
  · exact h.bumpSat.ite (by split; exacts [h.bumpSat, h.bumpSat.put.upd.insertJob])

theorem Shaped.trigAll {kind n event} : Shaped (s.trigAll kind n event) := forEach_shaped (fun _ _ h' => (h'.trigFire.ite h')) h

end

/-! Machine/Outputs.lean: its operations keep the sizes of the register files. -/

section
variable {s : State} (h : Shaped s)
include h

theorem Shaped.setAna {n st} : Shaped (s.setAna n st) := h.put

theorem Shaped.anaMute {n after fast} : Shaped (s.anaMute n after fast) := h.setChan.setAna.ite h

theorem Shaped.anaOpen {n st} : Shaped (s.anaOpen n st) := h.setChan.setAna.put

theorem Shaped.anaStart {n} : Shaped (s.anaStart n) := h.ite (h.setAna.set.ite h.setChan.setAna)

theorem Shaped.trimAbort {n} : Shaped (s.trimAbort n) := by
  unfold State.trimAbort
  split
  · exact h
  · exact h.upd.ite h

theorem Shaped.setPortState {n st} : Shaped (s.setPortState n st) := h.put

theorem Shaped.portStopAt {n mt post} : Shaped (s.portStopAt n mt post) := h.ite h.setPort

theorem Shaped.portHalt {n} : Shaped (s.portHalt n) := h.setPort.setPortState

theorem Shaped.portStartAt {n mt} : Shaped (s.portStartAt n mt) := h.ite h.setPort.setPortState

theorem Shaped.contactsOff : Shaped s.contactsOff := h.put

theorem Shaped.outputsInert {fast} : Shaped (s.outputsInert fast) := forEach_shaped (fun _ _ h' => (h'.ite h'.anaMute)) h

theorem Shaped.outputsLive : Shaped s.outputsLive := h.ite (forEach_shaped (fun _ _ h' => (h'.anaStart.ite h')) h)

theorem Shaped.changePower {p} : Shaped (s.changePower p) := h.setPower.post

theorem Shaped.failRole {zone role cause} : Shaped (s.failRole zone role cause) := h.ite h.setZone

theorem Shaped.failDests {test cause} : Shaped (s.failDests test cause) :=
  forEach_shaped (fun _ _ h' => forEach_shaped (fun _ _ h'' => by split; exacts [(h''.failRole.ite h''), h'']) h') h

theorem Shaped.failType {ty idx cause} : Shaped (s.failType ty idx cause) := h.failDests

end

/-! Machine/Raise.lean: its operations keep the sizes of the register files. -/

section
variable {s : State} (h : Shaped s)
include h

theorem Shaped.baseReact {code inst} : Shaped (s.baseReact code inst).2 := by
  unfold State.baseReact
  split
  · exact h
  · split
    · exact h.draw
    · split <;> exact h

theorem Shaped.bufferRecord {code inst react injected loc exp obs} : Shaped (s.bufferRecord code inst react injected loc exp
    obs) := h.upd.ite h.upd.bump.put.put.put.wr64

theorem Shaped.freezeAlive : Shaped s.freezeAlive := h.set.set

theorem Shaped.enterFault {code} : Shaped (s.enterFault code) :=
  Shaped.upd (forEach_shaped (fun _ _ h' => h'.portStopAt) h.put.bump.setPower.freezeAlive.wipeJobs.outputsInert.contactsOff)

theorem Shaped.migrate {v src m} : Shaped (s.migrate v src m) := by
  unfold State.migrate
  dsimp only
  split
  · exact (h.delVoice.putKmem.ite h.delVoice).setVoice
  · exact h.delVoice.setVoice

theorem Shaped.moveVoice {old new m} : Shaped (s.moveVoice old new m) := by
  unfold State.moveVoice
  split
  · exact h
  · exact Shaped.setPend (Shaped.setTaps (Shaped.upd (by split; exacts [h.migrate.setJob, h.migrate])))

theorem Shaped.takeOver {b p q} : Shaped (s.takeOver b p q) := h.set.put.set.wr.wr.put

theorem Shaped.migrateVoices {b m} : Shaped (s.migrateVoices b m) := forEach_shaped (fun _ _ h' => h'.migrate) h

theorem Shaped.excludeTwin {b m} : Shaped (s.excludeTwin b m) := h.upd

theorem Shaped.brickFail {b} : Shaped (s.brickFail b) := by
  unfold State.brickFail
  split
  · exact h
  · extract_lets -underBinder +onlyGivenNames m t old t2
    have ht : Shaped t := h.set.set.bumpSat
    have ht2 : Shaped t2 := ht.upd
    clear_value t t2
    split
    · extract_lets -underBinder +onlyGivenNames n t3 t4
      have ht3 : Shaped t3 := ht2.takeOver.migrateVoices
      have ht4 : Shaped t4 := ht3.excludeTwin.courseSend.ite ht3
      clear_value t3 t4
      exact ht4.upd
    · extract_lets -underBinder +onlyGivenNames cands gone t3 moves t4
      have ht3 : Shaped t3 := ht2.bumpSat
      have ht4 : Shaped t4 := forEach_shaped (fun _ _ h' => by split; exacts [h'.stopJob, h']) ht3
      clear_value t3 t4
      exact forEach_shaped (fun _ _ h' => h'.moveVoice) ht4

theorem Shaped.bankLost : Shaped s.bankLost := forEach_shaped (fun _ _ h' => (h'.set.ite h')) h.set.put.upd

theorem Shaped.reactTo {code inst react} : Shaped (s.reactTo code inst react) := by
  unfold State.reactTo
  split
  · exact h.upd
  · extract_lets -underBinder +onlyGivenNames t t2
    have ht : Shaped t := h.bankLost.ite h
    have ht2 : Shaped t2 := ht.enterFault.ite ht
    clear_value t t2
    exact ht2.freezeAlive.upd.ite ((ht2.brickFail.ite ht2).ite ht2)
  · extract_lets -underBinder +onlyGivenNames t t2
    have ht : Shaped t := h.bankLost.ite h
    have ht2 : Shaped t2 := ht.enterFault.ite ht
    clear_value t t2
    exact ht2.freezeAlive.upd.ite ((ht2.brickFail.ite ht2).ite ht2)
  · extract_lets -underBinder +onlyGivenNames t t2
    have ht : Shaped t := h.bankLost.ite h
    have ht2 : Shaped t2 := ht.enterFault.ite ht
    clear_value t t2
    exact ht2.freezeAlive.upd.ite ((ht2.brickFail.ite ht2).ite ht2)
  · extract_lets -underBinder +onlyGivenNames t t2
    have ht : Shaped t := h.bankLost.ite h
    have ht2 : Shaped t2 := ht.enterFault.ite ht
    clear_value t t2
    exact ht2.freezeAlive.upd.ite ((ht2.brickFail.ite ht2).ite ht2)
  · exact h

theorem Shaped.raiseWith {code inst loc exp obs react injected} : Shaped (s.raiseWith code inst loc exp obs react injected) :=
  (h.set.set.bumpSat.bufferRecord.put.ite h.set.set.bumpSat.bufferRecord).reactTo

theorem Shaped.ckptLost {b a} : Shaped (s.ckptLost b a) := h.draw.ite h.draw.upd

theorem Shaped.tapLost : Shaped s.tapLost := h.draw.upd.set.bumpSat

theorem Shaped.raise {code inst loc exp obs injected} : Shaped (s.raise code inst loc exp obs injected) :=
  ((h.baseReact.ckptLost.ite h.baseReact).tapLost.ite (h.baseReact.ckptLost.ite h.baseReact)).raiseWith

theorem Shaped.unraise {code} : Shaped (s.unraise code) := h.set

theorem Shaped.clearLatched : Shaped s.clearLatched := forEach_shaped (fun _ _ h' => (h'.set.post.ite h')) h

end

/-! Machine/Records.lean: its operations keep the sizes of the register files. -/

section
variable {s : State} (h : Shaped s)
include h

theorem Shaped.strikeAdd {p} : Shaped (s.strikeAdd p) := by
  unfold State.strikeAdd
  split
  · exact h.bumpSat.upd
  · exact h.upd

theorem Shaped.strikeTrigger {src mt} : Shaped (s.strikeTrigger src mt) := h.ite (h.courseSend.ite h).strikeAdd

theorem Shaped.noteErase {r} : Shaped (s.noteErase r) := h.draw.bumpSat

theorem Shaped.logRecord {r} : Shaped (s.logRecord r) := (h.noteErase.ite h).upd.put.set.put

theorem Shaped.logOne : Shaped s.logOne := by
  unfold State.logOne
  split
  · exact h
  · exact h.upd.logRecord.post.ite h.upd.logRecord.post.strikeTrigger

theorem Shaped.logAll : Shaped s.logAll := iter_shaped (fun _ h' => h'.logOne) h

theorem Shaped.ageAppend : Shaped s.ageAppend :=
  ((h.draw.draw.upd.noteErase.ite h.draw.draw.upd).set.ite (h.draw.draw.upd.noteErase.ite h.draw.draw.upd)).put

theorem Shaped.setUsable {n} : Shaped (s.setUsable n) := forEach_shaped (fun _ _ h' => (h'.put.ite h')) h

theorem Shaped.restore {c} : Shaped (s.restore c) :=
  Shaped.courseInit (Shaped.upd (Shaped.set (forEach_shaped (fun _ _ h' => h'.set) (Shaped.put (forEach_shaped
      (fun _ _ h' => h'.wr) h)))))

end

/-! Machine/Slab.lean: its operations keep the sizes of the register files. -/

section
variable {s : State} (h : Shaped s)
include h

theorem Shaped.setSlabWord {key v} : Shaped (s.setSlabWord key v) := h.upd

theorem Shaped.ownViol {slab agent write word} : Shaped (s.ownViol slab agent write word) :=
  (h.ite h.put.set.put).set.bumpSat.ite (h.ite h.put.set.put).set.bumpSat.post.upd

theorem Shaped.slabUncorr {slab word} : Shaped (s.slabUncorr slab word) := h.set.bumpSat.raise

theorem Shaped.slabPut {slab half mode d} : Shaped (s.slabPut slab half mode d) := h.slabUncorr.ite h.setSlabWord

theorem Shaped.slabAccess {slab g half mode d} : Shaped (s.slabAccess slab g half mode d) := by
  unfold State.slabAccess
  split
  · exact h.upd.ite h.ownViol
  · exact h.slabPut.ite h.ownViol

theorem Shaped.handover {slab writer newOwner newSub} : Shaped (s.handover slab writer newOwner newSub) :=
  h.ownViol.ite (h.set.ite (h.set.ite h.set.set.upd))

theorem Shaped.startRepairs : Shaped s.startRepairs := forEach_shaped (fun _ _ h' => (h'.upd.ite h')) h

theorem Shaped.answerHandover {k} : Shaped (s.answerHandover k) := h.reply.cmdDone.ite h.reply

theorem Shaped.answerHandovers {slab} : Shaped (s.answerHandovers slab) :=
  forEach_shaped (fun _ _ h' => h'.answerHandover) h.upd

theorem Shaped.drained {slab} : Shaped (s.drained slab) := by
  unfold State.drained
  split
  · exact h
  · exact Shaped.startRepairs (Shaped.answerHandovers (forEach_shaped (fun _ _ h' => h'.slabPut) h.put.put.set.set.upd))

theorem Shaped.repairCall {slab} : Shaped (s.repairCall slab) := h.ite h.upd.set.post.startRepairs

theorem Shaped.wantRepair {slab n} : Shaped (s.wantRepair slab n) := h.repairCall.ite h

theorem Shaped.countColumn {slab col} : Shaped (s.countColumn slab col) := (h.upd.put.put.ite h.upd).wantRepair

theorem Shaped.markBad {bank tiles isBad} : Shaped (s.markBad bank tiles isBad) := h.setBank

theorem Shaped.commandHandover {k} : Shaped (s.commandHandover k) :=
  h.screened (fun _ h' => by split; exacts [h'.reply, (h'.handover.answerHandover.ite h'.handover.upd)])

theorem Shaped.takeHandover {k} : Shaped (s.takeHandover k) := h.commandHandover.ite h.hold

theorem execSlabHandover_lands {form} : Lands (execSlabHandover form s) := .next (by split; exacts [h.handover, h.takeHandover])

theorem execHandoverDrainDone_lands {slab} : Lands (execHandoverDrainDone slab s) := .next h.drained

theorem execSlabNormalWrite_lands {slab agent half data} : Lands (execSlabNormalWrite slab agent half data s) :=
  .next h.slabAccess

theorem execSlabSetAliasWrite_lands {slab agent half data} : Lands (execSlabSetAliasWrite slab agent half data s) :=
  .next h.slabAccess

theorem execSlabClearAliasWrite_lands {slab agent half data} : Lands (execSlabClearAliasWrite slab agent half data s) :=
  .next h.slabAccess

theorem Shaped.slabWrite64 {slab word mode d} : Shaped (s.slabWrite64 slab word mode d) :=
  h.setSlabWord.upd.ite (h.slabUncorr.ite h.setSlabWord)

theorem execSlabScrubPassDone_lands {slab march corrected uncorrected} : Lands (execSlabScrubPassDone slab march corrected
    uncorrected s) := .next (h.upd.post.ite h)

theorem execFieldRepairComplete_lands {slab ok} : Lands (execFieldRepairComplete slab ok s) :=
  .next
      (by
        split
        · exact h
        · exact ((h.upd.put.ite h.upd.put).post.upd.set.post.ite (h.upd.put.ite h.upd.put).post.upd.set).ite (h.upd.put.ite
            h.upd.put).post)

theorem Shaped.scrubPass {slab word} : Shaped (s.scrubPass slab word) := h.put.ite h

theorem Shaped.scrubHour : Shaped s.scrubHour := ((h.upd.bumpSat.ite h.upd).bumpSat.ite (h.upd.bumpSat.ite h.upd)).put

theorem execScrubWord_lands {slab word error changed} : Lands (execScrubWord slab word error changed s) :=
  .next (h.ite
      (by
        split
        · exact h.scrubPass
        · exact h.scrubPass.ite h.scrubPass.bumpSat.countColumn
        · exact h.scrubPass.upd.slabUncorr.markBad.ite h.scrubPass.upd.slabUncorr))

theorem execScrubStarved_lands : Lands (execScrubStarved s) := .next h.set.raise

theorem execMarchWindow_lands {slab window outcome} : Lands (execMarchWindow slab window outcome s) :=
  .next (h.ite (by split; exacts [h.upd.put.upd.put, h.upd.put, h.upd.put.upd.put.set.raise]))

theorem execTestStarved_lands : Lands (execTestStarved s) := .next h.set.raise

theorem execVaultWordRestore_lands {slab word} : Lands (execVaultWordRestore slab word s) :=
  .next (h.ite (forEach_shaped (fun _ _ h' => h'.post) h.setSlabWord.upd.markBad.markBad))

end

theorem cmdSlabGetStatus_shaped : CmdShaped cmdSlabGetStatus := .ofAct rfl rfl fun _ _ _ h => h

theorem cmdSlabRead_shaped : CmdShaped cmdSlabRead :=
  .ofAct rfl rfl fun _ _ _ h => forEach_shaped (fun _ _ h' => h'.slabUncorr) h

theorem cmdSlabWrite_shaped : CmdShaped cmdSlabWrite :=
  .ofAct rfl rfl fun _ _ _ h => forEach_shaped (fun _ _ h' => h'.slabWrite64) h

theorem cmdSlabRepair_shaped : CmdShaped cmdSlabRepair := .ofAct rfl rfl fun _ _ _ h => h.upd

theorem cmdSlabScrub_shaped : CmdShaped cmdSlabScrub := .ofAct rfl rfl fun _ _ _ h => h.upd

/-! Machine/Power.lean: its operations keep the sizes of the register files. -/

section
variable {s : State} (h : Shaped s)
include h

omit h in
theorem Shaped.afterReset {k} (_ : Shaped s) : Shaped (s.afterReset k) := reset_shaped

theorem Shaped.resetTo {k} : Shaped (s.resetTo k) := h.afterReset.setPower.put.put.ite h.afterReset.setPower.put.put.bump

theorem Shaped.showRegion {r a b} : Shaped (s.showRegion r a b) := h.set.set.set

theorem Shaped.vaultTileBad {img n} : Shaped (s.vaultTileBad img n) := h.raise

theorem Shaped.loadVault : Shaped s.loadVault :=
  Shaped.ite (Shaped.raise (Shaped.setBank (Shaped.upd (forEach_shaped (fun _ _ h' => h'.put) h.upd)))) (forEach_shaped
      (fun _ _ h' => h'.vaultTileBad) (Shaped.setBank (Shaped.upd (forEach_shaped (fun _ _ h' => h'.put) h.upd))))

theorem Shaped.restorePlan : Shaped s.restorePlan := by
  unfold State.restorePlan
  split
  · exact h
  · exact h.wr.put.put.put.put.put

theorem Shaped.restoreImage : Shaped s.restoreImage := by
  unfold State.restoreImage
  split
  · exact h
  · exact h.set.ite (h.set.set.ite h.set.restore)

theorem Shaped.latchStraps {v} : Shaped (s.latchStraps v) := h.set.set.set.set

theorem Shaped.discover : Shaped s.discover := h.put.put.put.set.set.showRegion.showRegion.showRegion.put

theorem Shaped.boot {env} : Shaped (s.boot env) := by
  unfold State.boot
  extract_lets -underBinder +onlyGivenNames k t t2 t3 old t4 t5
  have ht : Shaped t := by
    unfold t
    split
    · exact h.upd
    · exact h
  have ht2 : Shaped t2 := ht.latchStraps.ite ht
  have ht3 : Shaped t3 := ht2.setPower
  have ht4 : Shaped t4 := ht3.upd
  have ht5 : Shaped t5 := ht4.ite ht4.discover
  clear_value t t2 t3 t4 t5
  split
  · exact ht5.freezeAlive
  · extract_lets -underBinder +onlyGivenNames t6 t7 t8 t9 t10
    have ht6 : Shaped t6 := ht5.put
    have ht7 : Shaped t7 := ht6.ite ht6.set
    have ht8 : Shaped t8 := ht7.startRepairs
    have ht9 : Shaped t9 := ht8.ite ht8.loadVault
    have ht10 : Shaped t10 := ht9.restorePlan.restoreImage
    clear_value t6 t7 t8 t9 t10
    exact ht10.upd

theorem execResetRelease_lands {env} : Lands (execResetRelease env s) := .next (h.boot.ite h)

theorem Shaped.goldenAtReset {p} : Shaped (s.goldenAtReset p) :=
  Shaped.ite (by split; exacts [h.set.set.upd.set.takeOver, h.set.set.upd.set.bumpSat]) h.set.set.upd.set.put

theorem Shaped.bootSquall : Shaped s.bootSquall := by
  unfold State.bootSquall
  dsimp only
  split
  · exact h.upd.squallTrigger
  · exact h.upd.squallTrigger.ite h.upd

theorem Shaped.becomeReady {bootMs goldenFailed} : Shaped (s.becomeReady bootMs goldenFailed) := by
  unfold State.becomeReady
  extract_lets -underBinder +onlyGivenNames t t2 fw t3 t4 t5 old t6 t7 t8 t9 t10 t11 old2 t12
  have ht : Shaped t := forEach_shaped (fun _ _ h' => h'.goldenAtReset) h
  have ht2 : Shaped t2 := ht.setUsable
  have ht3 : Shaped t3 := ht2.wr.put
  have ht4 : Shaped t4 := ht3.set.set
  have ht5 : Shaped t5 := ht4.setPower.set
  have ht6 : Shaped t6 := ht5.upd
  have ht7 : Shaped t7 := ht6.set
  have ht8 : Shaped t8 := ht7.set
  have ht9 : Shaped t9 := ht8.post
  have ht10 : Shaped t10 := ht9.logAll
  have ht11 : Shaped t11 := forEach_shaped (fun _ _ h' => (h'.post.ite (h'.post.ite (h'.post.ite h'.post)))) ht10
  have ht12 : Shaped t12 := ht11.upd
  clear_value t t2 t3 t4 t5 t6 t7 t8 t9 t10 t11 t12
  exact ht12.bootSquall

theorem execPowerOnReset_lands : Lands (execPowerOnReset s) := .next h.resetTo

theorem execPinReset_lands {lowNs} : Lands (execPinReset lowNs s) := .next ((h.draw.ite h).ite (h.draw.ite h).resetTo)

theorem execWatchdogExpiry_lands : Lands (execWatchdogExpiry s) := .next (h.ite h.raise.bumpSat.resetTo)

theorem execResetDelayExpiry_lands : Lands (execResetDelayExpiry s) := .next (by split; exacts [h, h.resetTo])

theorem execAnalogueRailLow_lands : Lands (execAnalogueRailLow s) := by
  refine .next ?_
  split
  · exact h
  · extract_lets -underBinder +onlyGivenNames old t t2
    have ht : Shaped t := h.upd
    have ht2 : Shaped t2 := forEach_shaped (fun _ _ h' => (h'.trimAbort.anaOpen.set.ite h'.trimAbort.anaOpen)) ht
    clear_value t t2
    exact ht2.post.ite ht2

theorem execAnalogueRailRestore_lands : Lands (execAnalogueRailRestore s) := by
  refine .next ?_
  split
  · exact h
  · extract_lets -underBinder +onlyGivenNames old t t2
    have ht : Shaped t := h.upd
    have ht2 : Shaped t2 := forEach_shaped (fun _ _ h' => ((h'.set.anaStart.ite h'.set.setAna).ite h'.set)) ht
    clear_value t t2
    exact ht2.post.ite ht2

theorem execLullPowerDown_lands : Lands (execLullPowerDown s) := by
  refine .next ?_
  split
  · exact h
  · extract_lets -underBinder +onlyGivenNames t t2 t3 t4 t5 old t6 t7 t8 t9 t10 t11 t12 t13
    have ht : Shaped t := h.logAll.ageAppend
    have ht2 : Shaped t2 := ht.upd
    have ht3 : Shaped t3 := ht2.changePower
    have ht4 : Shaped t4 := forEach_shaped (fun _ _ h' => (h'.ite h'.portHalt)) ht3
    have ht5 : Shaped t5 := forEach_shaped (fun _ _ h' => (h'.anaOpen.ite h')) ht4
    have ht6 : Shaped t6 := ht5.upd
    have ht7 : Shaped t7 := ht6.put
    have ht8 : Shaped t8 := forEach_shaped (fun _ _ h' => (h'.put.ite h')) ht7
    have ht9 : Shaped t9 := ht8.put
    have ht10 : Shaped t10 := ht9.set.set
    have ht11 : Shaped t11 := ht10.put
    have ht12 : Shaped t12 := forEach_shaped (fun _ _ h' => (h'.set.setTimer.ite h')) ht11
    have ht13 : Shaped t13 := ht12.bump
    clear_value t t2 t3 t4 t5 t6 t7 t8 t9 t10 t11 t12 t13
    exact ht13.upd

theorem Shaped.afterLull : Shaped s.afterLull :=
  forEach_shaped (fun _ _ h' => (h'.set.setTimer.ite h')) (forEach_shaped (fun _ _ h' => (h'.portStartAt.ite h')) h)

theorem Shaped.wakeRefs : Shaped s.wakeRefs :=
  Shaped.upd (Shaped.put (Shaped.set (Shaped.set (Shaped.put (Shaped.put (Shaped.put (forEach_shaped (fun _ _ h' => (h'.ite
      h'.put.put.put.upd)) h)))))))

theorem Shaped.wakeTime {lclk} : Shaped (s.wakeTime lclk) := (h.upd.wakeRefs.ite h.upd).upd.set

theorem Shaped.wakeCounts {src lclk wakeMs} : Shaped (s.wakeCounts src lclk wakeMs) := h.put.put.put.put.wr.upd

theorem Shaped.wakeLinks : Shaped s.wakeLinks := forEach_shaped (fun _ _ h' => (h'.put.ite h')) (h.put.put.ite h.put)

theorem Shaped.wakeFaults {bankOk} : Shaped (s.wakeFaults bankOk) :=
  forEach_shaped (fun _ _ h' => h'.baseReact.reactTo) (h.upd.ite h.upd.upd.raise)

theorem Shaped.wake {src lclk wakeMs bankOk} : Shaped (s.wake src lclk wakeMs bankOk) := by
  unfold State.wake
  extract_lets -underBinder +onlyGivenNames target t t2 t3 t4 t5 t6
  have ht : Shaped t := h.wakeTime.wakeCounts.wakeLinks
  have ht2 : Shaped t2 := ht.setPower.wakeFaults
  have ht3 : Shaped t3 := ht2.set.set
  have ht4 : Shaped t4 := ht3.post
  have ht5 : Shaped t5 := ht4.logAll
  have ht6 : Shaped t6 := ht5.outputsLive.afterLull.ite (ht5.afterLull.ite ht5)
  clear_value t t2 t3 t4 t5 t6
  exact ht6.bootSquall

end

/-! Machine/RegAccess.lean: its operations keep the sizes of the register files. -/

section
variable {s : State} (h : Shaped s)
include h

theorem Shaped.latch {p a} : Shaped (s.latch p a) := h.ite (by split <;> exact h.upd)

theorem Shaped.spiErr {f} : Shaped (s.spiErr f) := h.set.set

theorem Shaped.ring {m v} : Shaped (s.ring m v) := h.ite (h.spiErr.ite (h.put.wr.upd.squallBell.ite h.put.wr.upd.screenOpcode))

theorem Shaped.askSeqReset {m} : Shaped (s.askSeqReset m) := h.set.upd.ite h.clearSeq

theorem Shaped.ack {n} : Shaped (s.ack n) := h.put.put

theorem Shaped.clearErrCnt : Shaped s.clearErrCnt := h.put

theorem Shaped.hostWrite {a v} : Shaped (s.hostWrite a v) := by
  unfold State.hostWrite
  split
  · exact h.wr
  · split
    · exact h.ring
    · split
      · exact h.askSeqReset.ite h
      · exact h.ack.ite ((h.regWrite.clearErrCnt.ite h.regWrite).ite h.regWrite)

theorem Shaped.discardWrite {f} : Shaped (s.discardWrite f) := Shaped.upd (Shaped.bumpSat (by split; exacts [h.spiErr, h]))

theorem Shaped.spiWrite {rest extraBits} : Shaped (s.spiWrite rest extraBits) :=
  h.discardWrite.ite (h.discardWrite.ite (h.discardWrite.ite (h.discardWrite.ite (Shaped.upd (forEach_shaped
      (fun _ _ h' => h'.hostWrite) h)))))

theorem Shaped.shiftStatus : Shaped s.shiftStatus := h.upd

theorem execSpiWriteTransaction_lands {wire extraBits} : Lands (execSpiWriteTransaction wire extraBits s) :=
  .next
      (by
        split
        · exact h
        · exact h.shiftStatus.ite (h.shiftStatus.spiErr.ite (h.shiftStatus.discardWrite.ite h.shiftStatus.spiWrite)))

theorem Shaped.readWords {a n} : Shaped (s.readWords a n).2 := by
  induction n generalizing s a with
  | zero => exact h
  | succ n ih => exact ih h.latch

theorem execSpiReadTransaction_lands {addr words} : Lands (execSpiReadTransaction addr words s) := by
  unfold execSpiReadTransaction
  dsimp only
  exact .next (Shaped.upd (by split; exacts [h.shiftStatus.readWords, h.shiftStatus]))

theorem execRegisterWrite_lands {addr value} : Lands (execRegisterWrite addr value s) :=
  .next (h.ite (h.regWrite.ite (h.hostWrite.ite h.regWrite)))

theorem execRegisterReadClear_lands {addr} : Lands (execRegisterReadClear addr s) := .next (h.clearRc.ite h)

theorem execMtLoRead_lands {path addr} : Lands (execMtLoRead path addr s) := .next h.latch

theorem execSeqReset_lands {m} : Lands (execSeqReset m s) := .next h.askSeqReset

theorem execEvqAck_lands {n} : Lands (execEvqAck n s) := .next h.ack

theorem execSpiErrCntClr_lands : Lands (execSpiErrCntClr s) := .next h.clearErrCnt

end

/-! Machine/Uart.lean: its operations keep the sizes of the register files. -/

section
variable {s : State} (h : Shaped s)
include h

theorem Shaped.sendXoff {n} : Shaped (s.sendXoff n) := h.setUart.bumpSat.uartKick

theorem Shaped.matchOver : Shaped s.matchOver := h.setUart.sendXoff.ite h.setUart

theorem Shaped.squallMatch {ch bad idle} : Shaped (s.squallMatch ch bad idle) :=
  (h.setUart.ite h).ite ((h.matchOver.squallTrigger.ite h.setUart).ite (h.matchOver.setUart.ite h.matchOver))

theorem Shaped.storeChar {n ch fe pe brk} : Shaped (s.storeChar n ch fe pe brk) :=
  (((h.set.bumpSat.ite h).set.bumpSat.ite (h.set.bumpSat.ite h)).set.bumpSat.ite ((h.set.bumpSat.ite h).set.bumpSat.ite
      (h.set.bumpSat.ite h))).wr.bump

theorem execUartCharReceived_lands {n ch fe pe brk idleChars} : Lands (execUartCharReceived n ch fe pe brk idleChars s) :=
  .next (h.ite ((h.squallMatch.ite h).set.bumpSat.ite ((h.squallMatch.ite h).set.uartKick.ite (h.squallMatch.ite h).storeChar)))

theorem execSquallSequenceTimeout_lands : Lands (execSquallSequenceTimeout s) := .next (h.ite h.matchOver)

theorem Shaped.ringPush {n ch bad} : Shaped (s.ringPush n ch bad) := h.setUart.ite (h.setUart.post.setUart.ite h.setUart)

theorem execUartRxdRead_lands {n} : Lands (execUartRxdRead n s) :=
  .next ((h.set.ringPush.ite h.set).setUart.setUart.uartKick.ite (h.set.ringPush.ite h.set).setUart)

theorem execUartTxdWrite_lands {n ch} : Lands (execUartTxdWrite n ch s) := .next (h.ite h.setUart.set.uartKick)

theorem execUartCharSent_lands {n} : Lands (execUartCharSent n s) := .next (h.ite h.setUart.set.bump.uartKick)

theorem execXoffGenerate_lands {n} : Lands (execXoffGenerate n s) := .next (h.ite (h.setUart.ite h.sendXoff))

theorem execDeRelease_lands : Lands (execDeRelease s) := .next (h.ite h.setUart)

theorem execUartBreakDetect_lands {n} : Lands (execUartBreakDetect n s) := .next (h.ite h.set.set.bumpSat.set.setUart.post)

theorem Shaped.contactClear : Shaped s.contactClear := h.ite h.unraise

theorem execUartLineStuckDetect_lands {n} : Lands (execUartLineStuckDetect n s) := .next (h.ite h.set.set.post.setUart.raise)

theorem execUartFalseStart_lands {n} : Lands (execUartFalseStart n s) := .next (h.set.bumpSat.ite h)

theorem execUartLineReturnToIdle_lands {n} : Lands (execUartLineReturnToIdle n s) := .next h.set.setUart.contactClear

theorem execUartWakeEdge_lands {n} : Lands (execUartWakeEdge n s) := .next (h.ite (h.setUart.set.ite h.setUart))

theorem execUartKcpFrame_lands {wire damaged} : Lands (execUartKcpFrame wire damaged s) :=
  .next (h.ite (by split; exacts [h.bumpSat, (h.bumpSat.ite (h.upd.ite (h.respond.ite h.upd.screenOpcode)))]))

theorem execUartFrameGapTimeout_lands : Lands (execUartFrameGapTimeout s) := .next (h.bumpSat.ite h)

theorem Shaped.uartEnable {n en} : Shaped (s.uartEnable n en) := (h.ite h.set.setUart).ite h.set.set.set.setUart

end

theorem cmdUartConfig_shaped : CmdShaped cmdUartConfig := .ofAct rfl rfl fun _ _ _ h => h.writeImage.set.set

theorem cmdUartEnable_shaped : CmdShaped cmdUartEnable := .ofAct rfl rfl fun _ _ _ h => h.uartEnable

theorem cmdUartSend_shaped : CmdShaped cmdUartSend := .ofAct rfl rfl fun _ _ _ h => h.setUart.uartKick

theorem cmdUartRecv_shaped : CmdShaped cmdUartRecv := .ofAct rfl rfl fun _ _ _ h => h.setUart

theorem cmdUartSetFramed_shaped : CmdShaped cmdUartSetFramed := .ofAct rfl rfl fun _ _ _ h => h.set.set

theorem cmdUartGetStatus_shaped : CmdShaped cmdUartGetStatus := .ofAct rfl rfl fun _ _ _ h => h

/-! Machine/Timer.lean: its operations keep the sizes of the register files. -/

section
variable {s : State} (h : Shaped s)
include h

theorem Shaped.timReach {n} : Shaped (s.timReach n) := h.put

theorem Shaped.timArm {n c on} : Shaped (s.timArm n c on) := h.put

theorem Shaped.timLoad0 {n} : Shaped (s.timLoad0 n) := h.put.set.timReach

theorem Shaped.timStart {n} : Shaped (s.timStart n) := h.ite h.set.put.setTimer

theorem Shaped.timStop {n} : Shaped (s.timStop n) := h.set

theorem Shaped.timDue {n a} : Shaped (s.timDue n a) := h.setTimer

theorem Shaped.timOutput {n e} : Shaped (s.timOutput n e) := h.ite (h.set.setTimer.ite h.set)

theorem Shaped.timPost {n} : Shaped (s.timPost n) := h.ite h.post.setTimer

theorem Shaped.timEvent {n e} : Shaped (s.timEvent n e) := by
  unfold State.timEvent
  extract_lets -underBinder +onlyGivenNames t t2 t3 t4 t5 t6
  have ht : Shaped t := h.set.ite h.put
  have ht2 : Shaped t2 := ht.timOutput
  have ht3 : Shaped t3 := forEach_shaped (fun _ _ h' => (h'.timDue.ite h')) ht2
  have ht4 : Shaped t4 := ht3.trigAll
  have ht5 : Shaped t5 := ht4.strikeTrigger.ite ht4
  clear_value t t2 t3 t4 t5
  exact ht5.setTimer.timPost.ite ht5

theorem Shaped.timAdd {n c} : Shaped (s.timAdd n c) := h.put.timArm.ite h.put.timReach

theorem Shaped.timMatch {n c} : Shaped (s.timMatch n c) := by
  unfold State.timMatch
  dsimp only
  split
  · exact h.timEvent.setTimer
  · exact h.timEvent.timDue
  · exact h.timEvent.timAdd
  · exact h.timEvent.timAdd.timDue
  · exact h.timEvent

theorem Shaped.timCount {n} : Shaped (s.timCount n) := by
  unfold State.timCount
  extract_lets -underBinder +onlyGivenNames t count wrap t2
  have ht2 : Shaped t2 := h.setTimer
  clear_value t2
  split
  · extract_lets -underBinder +onlyGivenNames t3 t4
    have ht3 : Shaped t3 := ht2.set.ite ht2
    have ht4 : Shaped t4 := ht3.timLoad0.timEvent
    clear_value t3 t4
    exact ht4.ite (forEach_shaped (fun _ _ h' => h'.timMatch) ht4)
  · exact ht2.timLoad0.set.timEvent.ite (ht2.timLoad0.ite (forEach_shaped (fun _ _ h' => h'.timMatch) ht2.put))

theorem Shaped.timGate {n} : Shaped (s.timGate n).2 := h.draw.ite h

theorem Shaped.timPrescale {n k} : Shaped (s.timPrescale n k).2 := by
  unfold State.timPrescale
  dsimp only
  split
  · exact h.timGate.set
  · exact h.timGate.set.setTimer

theorem Shaped.timClock {n} : Shaped (s.timClock n) := h.ite (iter_shaped (fun _ h' => h'.timCount) h.timPrescale)

theorem Shaped.timJump {n ticks} : Shaped (s.timJump n ticks) :=
  h.ite (Shaped.ite (iter_shaped (fun _ h' => h'.timCount) h.timPrescale) (forEach_shaped (fun _ _ h' => h'.timMatch)
      (h.timPrescale.timLoad0.timEvent.ite h.timPrescale).put))

theorem Shaped.timLink {n a} : Shaped (s.timLink n a) := by
  unfold State.timLink
  split
  · exact h.timLoad0
  · exact h.timStart
  · exact h.timStop
  · exact h.timClock
  · exact h

theorem Shaped.timCmpWrite {n c v} : Shaped (s.timCmpWrite n c v) := h.put.timArm.timReach

theorem Shaped.timPeriodWrite {n v} : Shaped (s.timPeriodWrite n v) :=
  h.setTimer.put.set.ite (h.put.set.timReach.setTimer.ite h.put.set.timReach.setTimer)

theorem execTimCmpWrite_lands {n c value} : Lands (execTimCmpWrite n c value s) := .next h.timCmpWrite

theorem execTimPeriodWrite_lands {n value} : Lands (execTimPeriodWrite n value s) := .next h.timPeriodWrite

theorem execTimerClock_lands {n} : Lands (execTimerClock n s) := .next (h.ite h.timClock)

theorem execTimerLinkAction_lands {n} : Lands (execTimerLinkAction n s) :=
  .next (forEach_shaped (fun _ _ h' => h'.timLink) h.setTimer)

theorem execTimerPulseEnd_lands {n} : Lands (execTimerPulseEnd n s) := .next (h.setTimer.set.ite h)

theorem Shaped.atTimStart {p} : Shaped (s.atTimStart p) := forEach_shaped (fun _ _ h' => h'.timStart) h

theorem Shaped.atTimStop {p} : Shaped (s.atTimStop p) := forEach_shaped (fun _ _ h' => h'.timStop) h

end

theorem cmdTimConfig_shaped : CmdShaped cmdTimConfig :=
  .ofAct rfl rfl fun _ _ _ h => forEach_shaped (fun _ _ h' => h'.wr.timCmpWrite) h.writeImage.writeImage.timPeriodWrite

theorem cmdTimStart_shaped : CmdShaped cmdTimStart := .ofAct rfl rfl fun _ _ _ h => h

theorem cmdTimStop_shaped : CmdShaped cmdTimStop := .ofAct rfl rfl fun _ _ _ h => h

theorem cmdTimSetCmp_shaped : CmdShaped cmdTimSetCmp := .ofAct rfl rfl fun _ _ _ h => h.wr.timCmpWrite

theorem cmdTimGet_shaped : CmdShaped cmdTimGet := .ofAct rfl rfl fun _ _ _ h => h

/-! Machine/Contact.lean: its operations keep the sizes of the register files. -/

section
variable {s : State} (h : Shaped s)
include h

theorem Shaped.setContactClass {n c} : Shaped (s.setContactClass n c) := h.wr

theorem Shaped.ctPost {n} : Shaped (s.ctPost n) := h.ite h.post.setContact

theorem Shaped.ctEdits {n old} : Shaped (s.ctEdits n old) := forEach_shaped (fun _ _ h' => h'.editVoice) h.noteContact

theorem Shaped.ctTake {n new} : Shaped (s.ctTake n new) := by
  unfold State.ctTake
  extract_lets -underBinder +onlyGivenNames old fault t t2 t3 t4 t5 mine s2 s3 t6 c
  have ht : Shaped t := h.setContactClass.bump
  have ht2 : Shaped t2 := ht.put.put.put
  have ht3 : Shaped t3 := ht2.put
  have ht4 : Shaped t4 := ht3.put.bumpSat.raise.ite ht3.contactClear
  have ht5 : Shaped t5 := ht4.ctEdits
  have ht6 : Shaped t6 := (ht5.trigAll.squallTrigger.ite ht5.trigAll).ite ((ht5.trigAll.squallStop.ite ht5.trigAll).ite ht5)
  clear_value t t2 t3 t4 t5 t6
  exact ht6.setContact

theorem Shaped.ctRead {n code} : Shaped (s.ctRead n code) :=
  (h.setContactClass.put.contactClear.ite h.setContactClass.put).ite (h.put.put.ite ((h.put.put.ctTake.ite h.put.put).ite
      h.put.put.put))

theorem execContactSenseWindow_lands {codes} : Lands (execContactSenseWindow codes s) :=
  .next (h.ite (forEach_shaped (fun _ _ h' => h'.ctRead.ctPost) h.bump))

theorem Shaped.atContactOut {p} : Shaped (s.atContactOut p) := h.ite h.put

end

theorem cmdContactConfig_shaped : CmdShaped cmdContactConfig := .ofAct rfl rfl fun _ _ _ h => h.wr.wr.wr

theorem cmdContactSetOut_shaped : CmdShaped cmdContactSetOut := .ofAct rfl rfl fun _ _ _ h => h

theorem cmdContactGet_shaped : CmdShaped cmdContactGet := .ofAct rfl rfl fun _ _ _ h => h

/-! Machine/Port.lean: its operations keep the sizes of the register files. -/

section
variable {s : State} (h : Shaped s)
include h

theorem Shaped.writeFrame {n i ws} : Shaped (s.writeFrame n i ws) := forEach_shaped (fun _ _ h' => h'.slabAccess) h

theorem Shaped.showTag {n} : Shaped (s.showTag n) := h.wr64

theorem Shaped.portResync {n count lenChange} : Shaped (s.portResync n count lenChange) := h.set.put.bumpSat.post

theorem Shaped.advanceWr {n} : Shaped (s.advanceWr n) :=
  h.put.ite (h.put.ite ((h.put.put.put.put.setPort.setPort.set.portResync.ite h.put.put.put.put.setPort.showTag).ite
      (h.put.put.put.set.ite h.put.put.put.setPort)))

theorem Shaped.passRd {n} : Shaped (s.passRd n) := (h.setPort.put.set.ite h.setPort.put).showTag

theorem Shaped.portSkip {n m} : Shaped (s.portSkip n m) := iter_shaped (fun _ h' => h'.passRd) h

theorem Shaped.portWriteOut {n block src} : Shaped (s.portWriteOut n block src) :=
  h.ite (forEach_shaped (fun _ _ h' => h'.writeFrame.setPort.showTag.advanceWr) (h.portSkip.ite h))

theorem Shaped.portConsume {n block} : Shaped (s.portConsume n block) := h.ite h.portSkip

theorem Shaped.portPins {n clocks ws} : Shaped (s.portPins n clocks ws) := h.setPort

theorem Shaped.zeroFrame {n clocks} : Shaped (s.zeroFrame n clocks) := h.setPort.portPins

theorem Shaped.dataFrame {n clocks i} : Shaped (s.dataFrame n clocks i) := by
  unfold State.dataFrame
  dsimp only
  split
  · exact h.portPins
  · exact h.portPins.setPort.set.portResync.ite h.portPins.setPort.portResync.post

theorem Shaped.portSend {n clocks m} : Shaped (s.portSend n clocks m) := by
  unfold State.portSend
  extract_lets -underBinder +onlyGivenNames i t
  have ht : Shaped t := h.set.bumpSat.zeroFrame
  clear_value t
  split
  · exact ht
  · split
    · exact h.dataFrame.passRd
    · split
      · exact ht
      · extract_lets -underBinder +onlyGivenNames skipped t2 j t3
        have ht2 : Shaped t2 := iter_shaped (fun _ h' => h'.passRd) h
        have ht3 : Shaped t3 := ht2.dataFrame.passRd.ite ht2.zeroFrame
        clear_value t2 t3
        exact ht3.portResync

theorem Shaped.frameNote {n bad} : Shaped (s.frameNote n bad) := (h.set.bumpSat.ite h).setPort

theorem Shaped.edgeFrame {n stopping} : Shaped (s.edgeFrame n stopping) := h.setPort.setPortState.ite h.setPort

theorem execAportFrameBoundary_lands {n bitClocks} : Lands (execAportFrameBoundary n bitClocks s) :=
  .next (h.ite (h.frameNote.ite (h.frameNote.edgeFrame.zeroFrame.ite ((h.frameNote.ite
      h.frameNote.edgeFrame.zeroFrame.portSkip).ite h.frameNote.portSend))))

theorem execAportInputFrame_lands {n slots bitClocks} : Lands (execAportInputFrame n slots bitClocks s) := by
  refine .next ?_
  extract_lets -underBinder +onlyGivenNames st m
  split
  · exact h
  · extract_lets -underBinder +onlyGivenNames bad p t
    have ht : Shaped t := h.frameNote
    clear_value t
    split
    · exact ht
    · split
      · exact ht.edgeFrame
      · split
        · exact ht.edgeFrame
        · split
          · exact ht
          · extract_lets -underBinder +onlyGivenNames tag old t2
            have ht2 : Shaped t2 := ht.setPort.post.ite ht
            clear_value t2
            split
            · exact ht2.portResync
            · extract_lets -underBinder +onlyGivenNames gap old2 t3 t4 w
              have ht3 : Shaped t3 := ht2.setPort
              have ht4 : Shaped t4 := ht3.ite ht3.portResync
              clear_value t3 t4
              exact ht4.set.bumpSat.ite ht4.writeFrame.setPort.showTag.advanceWr

theorem execAportDataStart_lands {n} : Lands (execAportDataStart n s) := .next (h.setPortState.portSkip.ite h)

theorem execAportStopDone_lands {n} : Lands (execAportStopDone n s) := .next (h.portHalt.ite h)

theorem Shaped.portLost {n} : Shaped (s.portLost n) :=
  h.ite (h.setPortState.set.setPort.post.ite h.setPortState.set.setPort.post.failType)

theorem execAportFsTimeout_lands {n} : Lands (execAportFsTimeout n s) :=
  .next (h.ite (Shaped.ite (forEach_shaped (fun _ _ h' => h'.portLost) h) h.portLost))

theorem execAportClockBack_lands {n} : Lands (execAportClockBack n s) := .next (h.ite h.setPort.put.put.showTag.setPortState)

theorem Shaped.portsRebase : Shaped s.portsRebase :=
  forEach_shaped (fun _ _ h' => (h'.setPort.ite h'.setPort.put.put.showTag)) h

theorem execAportRateMeasure_lands {n aclkCycles} : Lands (execAportRateMeasure n aclkCycles s) :=
  .next (h.ite (h.put.setPort.put.ite (h.put.setPort.set.post.put.ite h.put.setPort)))

theorem Shaped.setGroupOf {n member leader g} : Shaped (s.setGroupOf n member leader g) := h.set.set.put

theorem Shaped.leaders : Shaped s.leaders := forEach_shaped (fun _ _ h' => h'.set) h

end

theorem cmdPortConfig_shaped : CmdShaped cmdPortConfig := .ofAct rfl rfl fun _ _ _ h => h.setPort.writeImage

theorem cmdPortStart_shaped : CmdShaped cmdPortStart := .ofAct rfl rfl fun _ _ _ h => h.put.put.portStartAt

theorem cmdPortStop_shaped : CmdShaped cmdPortStop := .ofAct rfl rfl fun _ _ _ h => h.portStopAt

theorem cmdPortSetGroup_shaped : CmdShaped cmdPortSetGroup :=
  .ofAct rfl rfl fun _ _ _ h => Shaped.leaders (forEach_shaped (fun _ _ h' => h'.setGroupOf) (forEach_shaped
      (fun _ _ h' => h'.setGroupOf) h))

theorem cmdPortSetLength_shaped : CmdShaped cmdPortSetLength := .ofAct rfl rfl fun _ _ _ h => by
  dsimp only [cmdPortSetLength]
  split
  · exact h.put
  · exact h.put.set

theorem cmdPortGetStatus_shaped : CmdShaped cmdPortGetStatus := .ofAct rfl rfl fun _ _ _ h => h

/-! Machine/Ana.lean: its operations keep the sizes of the register files. -/

section
variable {s : State} (h : Shaped s)
include h

theorem Shaped.carryStep {n} : Shaped (s.carryStep n) :=
  h.setChan.ite (h.setChan.set.ite
      (by split; exacts [h.setChan.set, (h.setChan.set.bumpSat.post.ite (h.setChan.setChan.anaMute.ite h.setChan))]))

theorem Shaped.testStep {n} : Shaped (s.testStep n) := h.setChan

theorem execAnaUpdate_lands {n outside} : Lands (execAnaUpdate n outside s) :=
  .next (h.ite (h.setChan.testStep.setChan.ite (Shaped.ite (by split <;> exact h.setChan.testStep.setChan)
      (h.setChan.testStep.carryStep.ite h.setChan.testStep))))

theorem Shaped.anaEnter {n} : Shaped (s.anaEnter n) := h.setChan.setAna.ite h.setChan.setAna

theorem execAnaSettleDone_lands {n} : Lands (execAnaSettleDone n s) := .next (h.setChan.anaEnter.ite h)

theorem execAnaMuteRampDone_lands {n} : Lands (execAnaMuteRampDone n s) :=
  .next (h.ite (by split; exacts [h, h.anaOpen, h.put.setChan, h.setChan]))

theorem Shaped.anaTick {n xs later} : Shaped (s.anaTick n xs later) := by
  unfold State.anaTick
  extract_lets -underBinder +onlyGivenNames st t c has
  have ht : Shaped t := by
    unfold t
    split
    · exact h.setChan.ite h.setChan
    · exact h.setChan
  split
  · split
    · exact ht.setChan.ite ht.setChan.anaMute
    · exact ht.setChan.setAna.ite (ht.ite ht.setChan.setAna)
  · exact (ht.setChan.ite ht).ite (ht.setChan.setAna.ite (ht.setChan.setAna.ite ht))

theorem Shaped.anaClear : Shaped s.anaClear := h.ite h.unraise

theorem execAnaComplianceDetect_lands {n} : Lands (execAnaComplianceDetect n s) :=
  .next (h.ite h.set.set.bumpSat.post.failType.raise)

theorem execAnaComplianceClear_lands {n} : Lands (execAnaComplianceClear n s) := .next (h.set.anaClear.ite h)

theorem execAnaLoadWindow_lands {n ohms} : Lands (execAnaLoadWindow n ohms s) :=
  .next (h.ite (h.setChan.ite (h.setChan.put.put.set.post.raise.ite h.setChan.put.put.set.post.anaClear)))

theorem Shaped.trimNext : Shaped s.trimNext := by
  unfold State.trimNext
  split
  · exact h
  · split
    · exact h.setAna
    · exact h.upd.post

theorem Shaped.trimGiveUp {n} : Shaped (s.trimGiveUp n) :=
  h.trimAbort.ite (h.trimAbort.setChan.anaEnter.ite h.trimAbort.setAna).trimNext

theorem execAnaTrimChannelDone_lands {n errors} : Lands (execAnaTrimChannelDone n errors s) := by
  refine .next ?_
  split
  · exact h
  · split
    · exact h
    · extract_lets -underBinder +onlyGivenNames limited c new drift t t2 t' t3 due old t4 t5
      have ht : Shaped t := h.setChan
      have ht2 : Shaped t2 := ht.set.ite ht
      have ht3 : Shaped t3 := ht2.upd
      have ht4 : Shaped t4 := ht3.upd.set.ite ht3
      have ht5 : Shaped t5 := ht4.anaStart.ite ht4.setAna
      clear_value t t2 t3 t4 t5
      exact ht5.trimNext

theorem Shaped.atAnaConfig {p} : Shaped (s.atAnaConfig p) :=
  (h.writeImage.ite h.writeImage.put.setChan.anaClear).anaMute.ite ((h.writeImage.ite
      h.writeImage.put.setChan.anaClear).setChan.setAna.ite (h.writeImage.ite h.writeImage.put.setChan.anaClear))

theorem Shaped.atAnaEnable {p} : Shaped (s.atAnaEnable p) :=
  (h.set.ite (h.set.trimGiveUp.ite (h.set.anaStart.ite (h.set.setChan.ite h.set)))).ite (h.set.setAna.set.ite
      (h.set.anaOpen.ite h.set.anaMute))

theorem Shaped.atAnaRange {p} : Shaped (s.atAnaRange p) :=
  h.put.ite (by split; exacts [h.setChan, h.put, (h.setChan.ite (h.ite h.anaMute))])

end

theorem cmdAnaConfig_shaped : CmdShaped cmdAnaConfig := .ofAct rfl rfl fun _ _ _ h => h

theorem cmdAnaEnable_shaped : CmdShaped cmdAnaEnable := .ofAct rfl rfl fun _ _ _ h => h

theorem cmdAnaSetRange_shaped : CmdShaped cmdAnaSetRange := .ofAct rfl rfl fun _ _ _ h => h

theorem cmdAnaTrim_shaped : CmdShaped cmdAnaTrim where
  act _ _ _ h := h.upd
  after _ _ h := h.trimNext
  refused _ _ _ h := h

theorem cmdAnaGetStatus_shaped : CmdShaped cmdAnaGetStatus := .ofAct rfl rfl fun _ _ _ h => h

/-! Machine/Supv.lean: its operations keep the sizes of the register files. -/

section
variable {s : State} (h : Shaped s)
include h

theorem Shaped.setPilotRun {r} : Shaped (s.setPilotRun r) := h.upd

theorem Shaped.pilotShow {z} : Shaped (s.pilotShow z) := h.wr.set

theorem Shaped.pilotDeclare {z p level} : Shaped (s.pilotDeclare z p level) := by
  unfold State.pilotDeclare
  extract_lets -underBinder +onlyGivenNames t t2
  have ht : Shaped t := h.pilotShow.bumpSat
  have ht2 : Shaped t2 := ht.post
  clear_value t t2
  split
  · exact ht2.raise
  · exact (ht2.failRole.ite ht2).raise
  · exact (ht2.failRole.ite ht2).raise

theorem Shaped.pilotClear {z p} : Shaped (s.pilotClear z p) :=
  (h.pilotShow.post.ite h.pilotShow.post.unraise).ite (h.pilotShow.post.ite h.pilotShow.post.unraise).unraise

theorem execPilotWindowEnd_lands {zone point level} : Lands (execPilotWindowEnd zone point level s) :=
  .next (h.ite ((h.setPilotRun.pilotClear.ite h.setPilotRun).ite (h.setPilotRun.pilotDeclare.ite h.setPilotRun)))

theorem Shaped.baselineEnd : Shaped s.baselineEnd := h.post.upd

theorem Shaped.baselineCheck : Shaped s.baselineCheck := h.baselineEnd.ite h

theorem execAvuHop_lands {path refLevel confidence energy delay inverted tilt} : Lands (execAvuHop path refLevel confidence
    energy delay inverted tilt s) := .next (h.ite (h.setPath.upd.baselineCheck.ite h.setPath))

theorem Shaped.pathShow {n on} : Shaped (s.pathShow n on) := h.wr

theorem execAvuPathFault_lands {path} : Lands (execAvuPathFault path s) := .next (h.ite h.setPath.pathShow.bumpSat.post.raise)

theorem execAvuPathOk_lands {path} : Lands (execAvuPathOk path s) :=
  .next (h.ite (h.setPath.pathShow.post.ite h.setPath.pathShow.post.unraise))

theorem execAvuPathChange_lands {path} : Lands (execAvuPathChange path s) := .next (h.ite h.setPath.post)

theorem execBaselineTimeout_lands : Lands (execBaselineTimeout s) := .next (h.baselineEnd.ite h)

theorem Shaped.dewBegin {d} : Shaped (s.dewBegin d) := by
  unfold State.dewBegin
  extract_lets -underBinder +onlyGivenNames d t
  have ht : Shaped t := h.setDewZone
  clear_value t
  split
  · exact ht.bump
  · split
    · extract_lets -underBinder +onlyGivenNames n
      exact ht.setDewZone
    · split
      · exact forEach_shaped (fun _ _ h' => h'.setChan) ht
      · exact (ht.ite (by split; exacts [ht.upd.trimNext, ht.upd])).ite ht

theorem Shaped.dewStop {z count} : Shaped (s.dewStop z count) :=
  Shaped.ite (forEach_shaped (fun _ _ h' => h'.trimGiveUp) (forEach_shaped (fun _ _ h' => (h'.setChan.ite h')) h.setDewZone))
      (forEach_shaped (fun _ _ h' => (h'.setChan.ite h')) h.setDewZone)

theorem Shaped.dewYield : Shaped s.dewYield := h.ite (forEach_shaped (fun _ _ h' => (h'.dewStop.ite h')) h)

theorem Shaped.dewAdvance : Shaped s.dewAdvance := h.set.put.ite h.wr64.put

theorem Shaped.dewClose : Shaped s.dewClose :=
  h.ite (Shaped.post (Shaped.dewAdvance (Shaped.set (Shaped.upd (forEach_shaped (fun _ _ h' => (h'.dewStop.ite h')) h)))))

theorem execDewWindowOpen_lands : Lands (execDewWindowOpen s) :=
  .next (h.ite (Shaped.ite (Shaped.dewAdvance (forEach_shaped (fun _ _ h' => h'.setDewZone) h)) (forEach_shaped
      (fun _ _ h' => h'.dewBegin) h.upd.set.put.put.put.post)))

theorem Shaped.dewBaseline {d} : Shaped (s.dewBaseline d).1 := forEach_shaped (fun _ _ h' => h'.setPath) h

theorem Shaped.dewRecord {d m} : Shaped (s.dewRecord d m).1 := by
  unfold State.dewRecord
  dsimp only
  split
  · exact h.dewBaseline
  · split
    · exact h
    · split
      · exact h
      · split
        · exact h
        · split <;> exact h

theorem execDewStepDone_lands {zone m} : Lands (execDewStepDone zone m s) :=
  .next (h.ite (Shaped.dewBegin (Shaped.ite (forEach_shaped (fun _ _ h' => h'.setChan) h.dewRecord) h.dewRecord)))

theorem execDewRestart_lands {zone} : Lands (execDewRestart zone s) := .next (h.ite h.dewBegin)

theorem execDewWindowClose_lands : Lands (execDewWindowClose s) := .next h.dewClose

end

theorem cmdSupvSetPilot_shaped : CmdShaped cmdSupvSetPilot := .ofAct rfl rfl fun _ _ _ h => by
  dsimp only [cmdSupvSetPilot]
  split
  · exact h.writeImage
  · exact h.setReturns.upd

theorem cmdSupvSetPath_shaped : CmdShaped cmdSupvSetPath := .ofAct rfl rfl fun _ _ _ h => by
  dsimp only [cmdSupvSetPath]
  split
  · exact h.setPath
  · exact h.setPath.pathShow.ite (h.setPath.pathShow.unraise.ite h.setPath.pathShow)

theorem cmdSupvBaseline_shaped : CmdShaped cmdSupvBaseline :=
  .ofAct rfl rfl fun _ _ _ h => Shaped.upd (forEach_shaped (fun _ _ h' => h'.setPath) h)

theorem cmdSupvGetPaths_shaped : CmdShaped cmdSupvGetPaths := .ofAct rfl rfl fun _ _ _ h => h

theorem cmdSupvSetDew_shaped : CmdShaped cmdSupvSetDew := .ofAct rfl rfl fun _ _ _ h => h.dewClose.set.put.put.wr64.put.upd

theorem cmdSupvGetDew_shaped : CmdShaped cmdSupvGetDew := .ofAct rfl rfl fun _ _ _ h => h

/-! Machine/Age.lean: its operations keep the sizes of the register files. -/

section
variable {s : State} (h : Shaped s)
include h

theorem Shaped.voltageStep : Shaped s.voltageStep := (h.put.bumpSat.set.put.ite h.put.bumpSat.set).post.upd

theorem Shaped.clockStep : Shaped s.clockStep := h.put.setUsable.put.set.set.post.upd

theorem Shaped.planExhausted : Shaped s.planExhausted := h.ite h.put.post

theorem Shaped.planStep : Shaped s.planStep :=
  h.upd.ite (h.ite (h.clockStep.ite (h.ite (h.voltageStep.ite (h.clockStep.ite h.planExhausted)))))

theorem Shaped.driftCheck : Shaped s.driftCheck :=
  Shaped.ite (forEach_shaped (fun _ _ h' => (h'.draw.setChan.upd.ite h'.draw.setChan)) h) (Shaped.post (Shaped.set
      (forEach_shaped (fun _ _ h' => (h'.draw.setChan.upd.ite h'.draw.setChan)) h)))

theorem Shaped.trimDueNow : Shaped s.trimDueNow := h.ite h.upd.trimNext

theorem execAgeHour_lands : Lands (execAgeHour s) := by
  refine .next ?_
  split
  · exact h
  · extract_lets -underBinder +onlyGivenNames t t2 daily t3 t4 t5 old t6
    have ht : Shaped t := h.wr
    have ht2 : Shaped t2 := ht.planStep.ite ht
    have ht3 : Shaped t3 := ht2.driftCheck.ite ht2
    have ht4 : Shaped t4 := ht3.trimDueNow.startRepairs.ite ht3
    have ht5 : Shaped t5 := ht4.ageAppend.scrubHour
    have ht6 : Shaped t6 := ht5.upd
    clear_value t t2 t3 t4 t5 t6
    exact ht6.upd.ite ht6

theorem execDerateRelease_lands : Lands (execDerateRelease s) :=
  .next (by split; exacts [h, forEach_shaped (fun _ _ h' => by split; exacts [(h'.stopJob.ite h'), h']) h])

theorem execEclkChange_lands : Lands (execEclkChange s) := .next (by split; exacts [h, (h.ite h.put.put.upd)])

theorem execAvsReadback_lands {ack voutMv status} : Lands (execAvsReadback ack voutMv status s) :=
  .next (h.ite ((h.put.put.ite h).upd.set.post.raise.ite (h.put.put.ite h).upd))

theorem Shaped.second : Shaped s.second := ((h.bumpSat.bumpSat.ite h.bumpSat).bumpSat.ite (h.bumpSat.bumpSat.ite h.bumpSat)).upd

theorem execRingSensorRead_lands {slacks} : Lands (execRingSensorRead slacks s) :=
  .next (h.ite (h.second.ite (Shaped.upd (forEach_shaped (fun _ _ h' => h'.put.put) h.second))))

theorem execThermalRead_lands {temps} : Lands (execThermalRead temps s) :=
  .next (h.ite (Shaped.ite (Shaped.raise (Shaped.upd (forEach_shaped (fun _ _ h' => h'.put.put) h))) (Shaped.ite
      (Shaped.unraise (Shaped.upd (forEach_shaped (fun _ _ h' => h'.put.put) h))) (Shaped.upd (forEach_shaped
      (fun _ _ h' => h'.put.put) h)))))

theorem execCanaryRead_lands {failed} : Lands (execCanaryRead failed s) :=
  .next (h.ite ((h.put.ite h.put.set).upd.ite (forEach_shaped (fun _ _ h' => h'.repairCall) (h.put.ite h.put.set).upd)))

theorem Shaped.logFrom {first n} : Shaped (s.logFrom first n).2 := by
  induction n generalizing s first with
  | zero => exact h
  | succ n ih => exact ih (by split; exacts [h, h.drawWords])

end

theorem cmdAgeGetPlan_shaped : CmdShaped cmdAgeGetPlan := .ofAct rfl rfl fun _ _ _ h => h

theorem cmdAgeGetLog_shaped : CmdShaped cmdAgeGetLog := .ofAct rfl rfl fun _ _ _ h => h.logFrom

theorem cmdAgeSetLimits_shaped : CmdShaped cmdAgeSetLimits := .ofAct rfl rfl fun _ _ _ h => h.writeImage.startRepairs

theorem cmdAgeGetSensors_shaped : CmdShaped cmdAgeGetSensors := .ofAct rfl rfl fun _ _ _ h => h

/-! Machine/Strike.lean: its operations keep the sizes of the register files. -/

section
variable {s : State} (h : Shaped s)
include h

theorem Shaped.strikeShow : Shaped s.strikeShow := forEach_shaped (fun _ _ h' => h'.wr.wr64.put) h.set

theorem Shaped.strikeLags : Shaped s.strikeLags.2 :=
  List.foldlRecOn _ _ (motive := fun a : List (Nat × Nat × Bool) × State => Shaped a.2) h fun _ ha _ _ => by
    dsimp only
    split
    · exact ha
    · exact ha.draw.draw

theorem Shaped.latchStrike {p} : Shaped (s.latchStrike p) :=
  ((h.bumpSat.ite h).put.bump.set.ite (h.bumpSat.ite h).put.bump).strikeLags.upd.strikeShow

theorem execStrikeLatch_lands : Lands (execStrikeLatch s) := .next (by split; exacts [h, (h.latchStrike.ite h)])

theorem settleWindow_shaped {cut as bs} : Shaped (settleWindow cut as bs s).2 := by
  induction as generalizing bs s with
  | nil => exact h
  | cons a as ih =>
    cases bs with
    | nil => exact h
    | cons b bs =>
      unfold settleWindow
      split
      next w t e =>
      have ht : Shaped t := by
        obtain rfl : _ = t := congrArg Prod.snd e
        split
        · exact h
        · exact h.draw
      split
      next w' u e' =>
      have hu : Shaped u := by
        obtain rfl : _ = u := congrArg Prod.snd e'
        split
        · exact ht.draw
        · exact ht
      exact ih hu

theorem execStrikeComplete_lands {partialCopy} : Lands (execStrikeComplete partialCopy s) :=
  .next (by split; exacts [h, Shaped.postAt (Shaped.strikeShow (Shaped.upd (settleWindow_shaped h)))])

theorem execStrikeInEdge_lands {lowNs} : Lands (execStrikeInEdge lowNs s) := .next (h.set.ite h.set.bump.strikeTrigger)

theorem Shaped.strikeMatch : Shaped s.strikeMatch := h.upd.strikeTrigger.ite h

end

theorem cmdSnapStrike_shaped : CmdShaped cmdSnapStrike := .ofAct rfl rfl fun _ _ _ h => h.strikeTrigger

theorem cmdSnapSetSources_shaped : CmdShaped cmdSnapSetSources :=
  .ofAct rfl rfl fun _ _ _ h => (h.put.put.put.wr64.set.ite h.put.put.put.wr64).upd.strikeMatch

theorem cmdSnapRead_shaped : CmdShaped cmdSnapRead := .ofAct rfl rfl fun _ _ _ h => by
  dsimp only [cmdSnapRead]
  split <;> exact h

theorem cmdSnapGetStatus_shaped : CmdShaped cmdSnapGetStatus := .ofAct rfl rfl fun _ _ _ h => h

/-! Machine/Safe.lean: its operations keep the sizes of the register files. -/

section
variable {s : State} (h : Shaped s)
include h

theorem execSafetyDetection_lands {code inst loc expected observed} : Lands (execSafetyDetection code inst loc expected
    observed s) := .next (h.ite (h.set.bumpSat.ite h).raise)

theorem execFaultLogWrite_lands : Lands (execFaultLogWrite s) := .next (h.logOne.ite h)

theorem execSafeAliveToggle_lands {heartbeat} : Lands (execSafeAliveToggle heartbeat s) :=
  .next (h.ite (h.set.set.bump.upd.ite h.freezeAlive))

theorem execInjectedFaultHoldExpiry_lands {code} : Lands (execInjectedFaultHoldExpiry code s) :=
  .next (h.ite (h.upd.ite h.upd.unraise))

theorem Shaped.injectPath {code inst} : Shaped (s.injectPath code inst) := h.failType.ite (h.failRole.failRole.ite h)

theorem Shaped.faultsFrom {first n} : Shaped (s.faultsFrom first n).2 := by
  induction n generalizing s first with
  | zero => exact h
  | succ n ih => exact ih (by split; exacts [h, h.drawWords])

theorem Shaped.recoverConfig : Shaped s.recoverConfig := Shaped.setUsable (forEach_shaped (fun _ _ h' => h'.wr.set) h.upd)

theorem Shaped.recover : Shaped s.recover := h.recoverConfig.logAll.clearLatched.changePower.put.upd.set.set

theorem execSafeUpdateImageComplete_lands {norOk} : Lands (execSafeUpdateImageComplete norOk s) :=
  .next
      (by
        split
        · exact h
        · exact h.ite ((h.upd.ite h.upd.upd).ite ((h.upd.ite h.upd.upd).set.ite (h.upd.ite
            h.upd.upd).upd.noteErase.showRegion.showRegion)).post)

end

theorem cmdSafeInject_shaped : CmdShaped cmdSafeInject where
  act _ _ _ h := h.put.put
  after _ _ h := (h.upd.ite h).injectPath.raise
  refused _ _ _ h := h

theorem cmdSafeGetStatus_shaped : CmdShaped cmdSafeGetStatus := .ofAct rfl rfl fun _ _ _ h => h

theorem cmdSafeGetFaults_shaped : CmdShaped cmdSafeGetFaults := .ofAct rfl rfl fun _ _ _ h => h.faultsFrom

theorem cmdSafeAckFaults_shaped : CmdShaped cmdSafeAckFaults := .ofAct rfl rfl fun _ _ _ h => h.upd.put.clearLatched

theorem cmdSafeSetLock_shaped : CmdShaped cmdSafeSetLock := .ofAct rfl rfl fun _ _ _ h => h.wr

theorem cmdSafeProvision_shaped : CmdShaped cmdSafeProvision := .ofAct rfl rfl fun _ _ _ h => h.upd

theorem cmdSafeDebugUnlock_shaped : CmdShaped cmdSafeDebugUnlock := .ofAct rfl rfl fun _ _ _ h => by
  dsimp only [cmdSafeDebugUnlock]
  split
  · exact h.upd.set
  · exact h.upd

theorem cmdSafeRecover_shaped : CmdShaped cmdSafeRecover where
  after _ _ h := h.recover
  act _ _ _ h := h
  refused _ _ _ h := h

theorem cmdSafeUpdate_shaped : CmdShaped cmdSafeUpdate := .ofAct rfl rfl fun _ _ _ h => (h.upd.ite h.upd.upd)

theorem cmdSafeUpdateWrite_shaped : CmdShaped cmdSafeUpdateWrite := .ofAct rfl rfl fun _ _ _ h => by
  dsimp only [cmdSafeUpdateWrite]
  split
  · exact h.upd
  · exact h

/-! Machine/Time.lean: its operations keep the sizes of the register files. -/

section
variable {s : State} (h : Shaped s)
include h

theorem Shaped.refTo {n st} : Shaped (s.refTo n st) := h.ite h.put.put

theorem Shaped.refRequalify {n} : Shaped (s.refRequalify n) := h.refTo.put.upd

theorem Shaped.refNoQual {n} : Shaped (s.refNoQual n) := h.upd.put

theorem Shaped.lockCheck : Shaped s.lockCheck := h.ite (h.put.upd.ite h.put)

theorem Shaped.toHoldover : Shaped s.toHoldover := h.put.put.set.refTo.put.put.upd

theorem Shaped.refLose {n mis} : Shaped (s.refLose n mis) := by
  unfold State.refLose
  extract_lets -underBinder +onlyGivenNames st
  split
  · exact h
  · extract_lets -underBinder +onlyGivenNames was t old t2 t3 t4
    have ht : Shaped t := h.refTo.bumpSat.refNoQual
    have ht2 : Shaped t2 := ht.upd
    have ht3 : Shaped t3 := ht2.toHoldover.ite ht2
    have ht4 : Shaped t4 := ht3.set.post.ite (ht3.set.post.ite ht3)
    clear_value t t2 t3 t4
    exact ht4.raise

theorem Shaped.slewPhase : Shaped s.slewPhase := h.set

theorem Shaped.noteStep {x} : Shaped (s.noteStep x) := h.set.put

theorem Shaped.tellTime {c} : Shaped (s.tellTime c) := h.courseSend.ite h

theorem Shaped.phaseStep {n x} : Shaped (s.phaseStep n x) :=
  h.ite (h.slewPhase.ite (h.noteStep.slewPhase.post.ite (h.noteStep.set.post.upd.ite (h.noteStep.ite
      (h.noteStep.set.upd.tellTime.slewPhase.ite h.noteStep.set.upd.tellTime)))))

theorem Shaped.phaseFollow {n x} : Shaped (s.phaseFollow n x) := h.phaseStep.ite (h.phaseStep.ite h.upd.phaseStep)

theorem Shaped.measure {n x} : Shaped (s.measure n x) :=
  h.put.ite (h.put.upd.phaseStep.lockCheck.ite (h.put.phaseFollow.lockCheck.ite h.put))

theorem Shaped.edgeMean {n p} : Shaped (s.edgeMean n p) := h.upd.ite (h.upd.put.put.upd.put.ite h.upd.put.put)

theorem Shaped.goodEdge {n p} : Shaped (s.goodEdge n p) := h.put.edgeMean.upd.refRequalify.ite h.put.edgeMean.upd

theorem Shaped.badEdge {n p} : Shaped (s.badEdge n p) :=
  (h.upd.bumpSat.put.refRequalify.ite h.upd.bumpSat.put).ite (h.upd.bumpSat.put.refRequalify.ite h.upd.bumpSat.put).refLose

theorem Shaped.edge {n p good x} : Shaped (s.edge n p good x) := h.ite ((h.goodEdge.measure.ite h.goodEdge).ite h.badEdge)

theorem execRefEdge_lands {n period offset} : Lands (execRefEdge n period offset s) := .next h.edge

theorem execRefEdgeTimeout_lands {n} : Lands (execRefEdgeTimeout n s) := .next (h.ite h.refLose)

theorem execRefQualified_lands {n} : Lands (execRefQualified n s) := .next (h.refTo.refNoQual.ite h)

theorem execSlewDone_lands : Lands (execSlewDone s) := .next (h.set.lockCheck.ite h)

theorem execTimeMessage_lands {mt frame crcOk} : Lands (execTimeMessage mt frame crcOk s) :=
  .next (h.ite (by dsimp only; split; exacts [h.upd, h.upd.draw.edge]))

theorem Shaped.followRef {n} : Shaped (s.followRef n) :=
  h.ite ((h.refTo.ite h).toHoldover.ite (h.refTo.ite h).refTo.put.set.upd.put)

theorem Shaped.takeRefs : Shaped s.takeRefs := by
  unfold State.takeRefs
  split
  · exact h
  · exact h.writeImage.upd.set

theorem Shaped.refTick : Shaped s.refTick :=
  Shaped.lockCheck (Shaped.followRef (forEach_shaped (fun _ _ h' => (h'.refRequalify.ite ((h'.refTo.refNoQual.toHoldover.ite
      h'.refTo.refNoQual).ite (h'.upd.put.ite h')))) h.takeRefs))

theorem execMpllLossOfLock_lands : Lands (execMpllLossOfLock s) := .next (h.set.set.lockCheck.ite h)

theorem execMpllRelockDone_lands {us} : Lands (execMpllRelockDone us s) := .next (h.ite h.set.bumpSat.put.upd.lockCheck)

theorem Shaped.dropEpoch : Shaped s.dropEpoch := by
  unfold State.dropEpoch
  split
  · exact h.post.ite h
  · exact h

theorem Shaped.remap {f} : Shaped (s.remap f) := h

theorem Shaped.shiftTime {d} : Shaped (s.shiftTime d) := h.remap

theorem Shaped.loadEpoch {e} : Shaped (s.loadEpoch e) := h.shiftTime.upd.set.postAt

theorem Shaped.epochAtPps {e} : Shaped (s.epochAtPps e) := h.upd.tellTime.ite h.loadEpoch

theorem execEpochArm_lands : Lands (execEpochArm s) := .next (h.dropEpoch.set.upd.tellTime.ite h.dropEpoch.set.upd)

theorem execPpsEdge_lands {good offset} : Lands (execPpsEdge good offset s) := by
  refine .next ?_
  split
  · exact h
  · extract_lets -underBinder +onlyGivenNames back old t t2
    have ht : Shaped t := h.upd
    have ht2 : Shaped t2 := by
      unfold t2
      split
      · exact ht.epochAtPps.ite ht
      · exact ht
    exact (ht2.put.phaseStep.lockCheck.ite ht2.measure).ite ht2

theorem execPpsLoss_lands : Lands (execPpsLoss s) := .next (h.set.upd.ite h)

theorem Shaped.rateBegin : Shaped s.rateBegin := by
  unfold State.rateBegin
  split
  · exact h
  · exact h.ite (Shaped.ite (forEach_shaped (fun _ _ h' => by split; exacts [h'.stopJob, h']) h.set.upd.dewClose)
      h.set.upd.dewClose)

theorem execRateChangeStart_lands : Lands (execRateChangeStart s) := .next (by split; exacts [(h.rateBegin.ite h), h])

theorem Shaped.planRate {code a} : Shaped (s.planRate code a) := h.upd

theorem Shaped.atSetRa {p} : Shaped (s.atSetRa p) := h.upd

theorem Shaped.timeChange {c} : Shaped (s.timeChange c) := by
  unfold State.timeChange
  split
  · exact h.set.upd
  · exact h.planRate
  · exact h.upd
  · exact h.upd
  · exact h.put.put

end

theorem cmdTimeGet_shaped : CmdShaped cmdTimeGet := .ofAct rfl rfl fun _ _ _ h => h

theorem cmdTimeSetEpoch_shaped : CmdShaped cmdTimeSetEpoch :=
  .ofAct rfl rfl fun _ _ _ h => (h.dropEpoch.wr64.put.set.upd.ite h.dropEpoch.wr64.put.set.upd.tellTime)

theorem cmdTimeSetRate_shaped : CmdShaped cmdTimeSetRate := .ofAct rfl rfl fun _ _ _ h => h.planRate.tellTime

theorem cmdTimeSetRefs_shaped : CmdShaped cmdTimeSetRefs := .ofAct rfl rfl fun _ _ _ h => h.upd

theorem cmdTimeGetRefs_shaped : CmdShaped cmdTimeGetRefs := .ofAct rfl rfl fun _ _ _ h => h

theorem cmdTimeSetRa_shaped : CmdShaped cmdTimeSetRa := .ofAct rfl rfl fun _ _ _ h => h.tellTime

/-! Machine/Mix.lean: its operations keep the sizes of the register files. -/

section
variable {s : State} (h : Shaped s)
include h

theorem Shaped.acceptRecs {mt rs} : Shaped (s.acceptRecs mt rs) := h.setPend

theorem Shaped.noteFull {mt rs} : Shaped (s.noteFull mt rs) := by
  unfold State.noteFull
  dsimp only
  split
  · exact h.set.bumpSat.ite h
  · exact (h.set.bumpSat.ite h).set.bumpSat.put.set

theorem Shaped.takeRecs {mt rs} : Shaped (s.takeRecs mt rs) := h.acceptRecs.tapsNote

theorem Shaped.atMixClear {mt p} : Shaped (s.atMixClear mt p) := forEach_shaped (fun _ _ h' => h'.tapSet) h

theorem Shaped.atSetClass {p} : Shaped (s.atSetClass p) := forEach_shaped (fun _ _ h' => h'.upd) h

theorem Shaped.atSetGen {mt p} : Shaped (s.atSetGen mt p) := h.upd

theorem Shaped.atRouteAux {mt p} : Shaped (s.atRouteAux mt p) := h.upd

end

theorem cmdMixSetTaps_shaped : CmdShaped cmdMixSetTaps where
  act _ _ _ h := h.takeRecs
  refused _ _ _ h := h.noteFull.ite h
  after _ _ h := h

theorem cmdMixStageTaps_shaped : CmdShaped cmdMixStageTaps := .ofAct rfl rfl fun _ _ _ h => h.upd

theorem cmdMixClear_shaped : CmdShaped cmdMixClear := .ofAct rfl rfl fun _ _ _ h => h

theorem cmdMixGetTaps_shaped : CmdShaped cmdMixGetTaps := .ofAct rfl rfl fun _ _ _ h => h

theorem cmdMixGetBitmap_shaped : CmdShaped cmdMixGetBitmap := .ofAct rfl rfl fun _ _ _ h => h

theorem cmdMixGetClip_shaped : CmdShaped cmdMixGetClip := .ofAct rfl rfl fun _ _ _ h => by
  dsimp only [cmdMixGetClip]
  split
  · exact forEach_shaped (fun _ _ h' => (h'.wr.ite h')) h.upd
  · exact h

theorem cmdMixGetStats_shaped : CmdShaped cmdMixGetStats := .ofAct rfl rfl fun _ _ _ h => h

theorem cmdMixOpenSet_shaped : CmdShaped cmdMixOpenSet := .ofAct rfl rfl fun _ _ _ h => h.upd

theorem cmdMixCommitSet_shaped : CmdShaped cmdMixCommitSet where
  act _ _ _ h := h.takeRecs.upd
  refused _ _ _ h := by
    dsimp only [cmdMixCommitSet]
    split
    · exact h.noteFull.ite h
    · exact h
  after _ _ h := h

theorem cmdMixCancelSet_shaped : CmdShaped cmdMixCancelSet := .ofAct rfl rfl fun _ _ _ h => h.upd

theorem cmdMixSetClass_shaped : CmdShaped cmdMixSetClass := .ofAct rfl rfl fun _ _ _ h => h

theorem cmdMixSetGen_shaped : CmdShaped cmdMixSetGen := .ofAct rfl rfl fun _ _ _ h => h

theorem cmdMixRouteAux_shaped : CmdShaped cmdMixRouteAux := .ofAct rfl rfl fun _ _ _ h => h

/-! Machine/Zone.lean: its operations keep the sizes of the register files. -/

section
variable {s : State} (h : Shaped s)
include h

theorem Shaped.zoneCut {n mt} : Shaped (s.zoneCut n mt) := h.setZone.set.set

theorem Shaped.zoneReset {n mt} : Shaped (s.zoneReset n mt) := h.setZone

theorem Shaped.atZoneEnable {mt p} : Shaped (s.atZoneEnable mt p) :=
  (h.ite h.setZone.set.set).ite (h.ite (h.setZone.set.set.ite h.zoneCut))

theorem execZoneDrainDone_lands {zone} : Lands (execZoneDrainDone zone s) := .next (h.zoneCut.ite h)

theorem Shaped.atZoneInputs {mt p} : Shaped (s.atZoneInputs mt p) := h.setZone

theorem Shaped.atZoneGate {mt p} : Shaped (s.atZoneGate mt p) := h.setZone.writeImage

theorem Shaped.atZoneAmbient {mt p} : Shaped (s.atZoneAmbient mt p) := h.setZone.set

theorem Shaped.ambientEdits {zone code} : Shaped (s.ambientEdits zone code) :=
  forEach_shaped (fun _ _ h' => h'.editVoice) h.noteAmbient

theorem execAmbientEstimate_lands {zone} : Lands (execAmbientEstimate zone s) := .next (h.ite h.setZone.put.ambientEdits)

theorem Shaped.atZoneEq {mt p} : Shaped (s.atZoneEq mt p) := h.setZone

theorem Shaped.atZoneFir {mt p} : Shaped (s.atZoneFir mt p) := h.setZone

theorem Shaped.atZoneDyn {mt p} : Shaped (s.atZoneDyn mt p) := h.setZone.set.set

theorem Shaped.atZoneDelay {mt p} : Shaped (s.atZoneDelay mt p) := h.setZone.set

theorem Shaped.atZoneGain {mt p} : Shaped (s.atZoneGain mt p) := h.setZone

theorem Shaped.atZonePilot {mt p} : Shaped (s.atZonePilot mt p) := h.setZone.set.put

theorem Shaped.atZoneOutputs {mt p} : Shaped (s.atZoneOutputs mt p) :=
  ((h.setZone.ite h.setZone.set).ite (h.setZone.ite h.setZone.set).set).set.set

theorem execFallbackSwitch_lands {zone roleB} : Lands (execFallbackSwitch zone roleB s) := by
  unfold execFallbackSwitch
  dsimp only
  exact .next (by split; exacts [h, by split; exacts [h, (h.ite h.setZone.set.post)]])

theorem Shaped.restoreRole {n role mt} : Shaped (s.restoreRole n role mt) := h.ite h.setZone.set

theorem execFallbackAutoRestore_lands {zone roleB} : Lands (execFallbackAutoRestore zone roleB s) := .next (h.restoreRole.ite h)

theorem Shaped.atZoneRestore {mt p} : Shaped (s.atZoneRestore mt p) := h.restoreRole

theorem Shaped.atSetGroup {mt p} : Shaped (s.atSetGroup mt p) := Shaped.setGroup (forEach_shaped (fun _ _ h' => h'.setZone) h)

end

theorem cmdZoneEnable_shaped : CmdShaped cmdZoneEnable := .ofAct rfl rfl fun _ _ _ h => h

theorem cmdZoneSetInputs_shaped : CmdShaped cmdZoneSetInputs := .ofAct rfl rfl fun _ _ _ h => h

theorem cmdZoneSetGate_shaped : CmdShaped cmdZoneSetGate := .ofAct rfl rfl fun _ _ _ h => h

theorem cmdZoneSetAmbient_shaped : CmdShaped cmdZoneSetAmbient := .ofAct rfl rfl fun _ _ _ h => h

theorem cmdZoneSetEq_shaped : CmdShaped cmdZoneSetEq := .ofAct rfl rfl fun _ _ _ h => h

theorem cmdZoneLoadFir_shaped : CmdShaped cmdZoneLoadFir := .ofAct rfl rfl fun _ _ _ h => h.setZone

theorem cmdZoneSetFir_shaped : CmdShaped cmdZoneSetFir := .ofAct rfl rfl fun _ _ _ h => by
  dsimp only [cmdZoneSetFir]
  split <;> exact h

theorem cmdZoneSetDyn_shaped : CmdShaped cmdZoneSetDyn := .ofAct rfl rfl fun _ _ _ h => h

theorem cmdZoneSetDelay_shaped : CmdShaped cmdZoneSetDelay := .ofAct rfl rfl fun _ _ _ h => h

theorem cmdZoneSetGain_shaped : CmdShaped cmdZoneSetGain := .ofAct rfl rfl fun _ _ _ h => h

theorem cmdZoneSetPilot_shaped : CmdShaped cmdZoneSetPilot := .ofAct rfl rfl fun _ _ _ h => h

theorem cmdZoneSetOutputs_shaped : CmdShaped cmdZoneSetOutputs := .ofAct rfl rfl fun _ _ _ h => h

theorem cmdZoneRestore_shaped : CmdShaped cmdZoneRestore := .ofAct rfl rfl fun _ _ _ h => h

theorem cmdZoneSetGroup_shaped : CmdShaped cmdZoneSetGroup := .ofAct rfl rfl fun _ _ _ h => h

theorem cmdZoneGetConfig_shaped : CmdShaped cmdZoneGetConfig := .ofAct rfl rfl fun _ _ _ h => h

theorem cmdZoneGetStatus_shaped : CmdShaped cmdZoneGetStatus := .ofAct rfl rfl fun _ _ _ h => h

/-! Machine/Tiles.lean: its operations keep the sizes of the register files. -/

section
variable {s : State} (h : Shaped s)
include h

theorem Shaped.tileBad {bank tile cause} : Shaped (s.tileBad bank tile cause) := h.post

theorem Shaped.mapImage {n gen f} : Shaped (s.mapImage n gen f) := h.setBank

theorem Shaped.tileMarkBad {n gen tile cause} : Shaped (s.tileMarkBad n gen tile cause) := h.mapImage.tileBad

theorem Shaped.checkTile {n gen tile} : Shaped (s.checkTile n gen tile) := by
  unfold State.checkTile
  split
  · exact h
  · exact h.ite (h.mapImage.ite h.tileMarkBad)

theorem Shaped.beforeTile {n gen tile} : Shaped (s.beforeTile n gen tile) := by
  unfold State.beforeTile
  split
  · exact h
  · exact h.checkTile.ite h

end

/-! Machine/Queue.lean: its operations keep the sizes of the register files. -/

section
variable {s : State} (h : Shaped s)
include h

theorem Shaped.setShare {br x} : Shaped (s.setShare br x) := h.upd

theorem Shaped.spendFront {br n} : Shaped (s.spendFront br n) := h.setShare

theorem Shaped.useReserve {br n} : Shaped (s.useReserve br n) := h.setShare

theorem Shaped.rollbackLost {v e} : Shaped (s.rollbackLost v e) := h.post.setVoice

theorem Shaped.restoreVoice {v e} : Shaped (s.restoreVoice v e) := by
  unfold State.restoreVoice
  split
  · exact h.rollbackLost
  · exact h.setVoice

theorem Shaped.mismatch {src} : Shaped (s.mismatch src) := h.set.raise

end

/-! Machine/Call.lean: its operations keep the sizes of the register files. -/

section
variable {s : State} (h : Shaped s)
include h

theorem Shaped.prefetch {v} : Shaped (s.prefetch v) :=
  Shaped.setVoice (Shaped.putKmem (by split; exacts [(h.ite h.beforeTile), h]))

theorem Shaped.callBegin {v} : Shaped (s.callBegin v) := by
  unfold State.callBegin
  split
  · exact h
  · exact ⟨rfl, rfl, rfl, rfl, rfl, rfl, rfl, rfl, rfl, rfl⟩

theorem Shaped.callRestore {v e} : Shaped (s.callRestore v e) := by
  unfold State.callRestore
  extract_lets -underBinder +onlyGivenNames t t2
  have ht : Shaped t := by
    unfold t
    split
    · exact h.putKmem
    · exact h
  have ht2 : Shaped t2 := ht.restoreVoice
  clear_value t t2
  split
  · exact ht2.prefetch.ite ht2
  · exact ht2

theorem Shaped.callFrom {n} : Shaped (s.callFrom n) := by
  induction n generalizing s with
  | zero => exact h
  | succ n ih =>
    unfold State.callFrom
    split
    · exact h
    split
    · exact h
    split
    · exact h.callBegin
    dsimp only
    split
    · split
      · exact h.callRestore.callBegin
      · exact ih h.callRestore
    · exact ih h.callRestore

theorem Shaped.callNext : Shaped s.callNext := h.callFrom

theorem Shaped.rowBack {v b} : Shaped (s.rowBack v b) := by
  unfold State.rowBack
  split
  · exact h.putKmem
  · exact h

theorem Shaped.callEnd {ok} : Shaped (s.callEnd ok) := by
  unfold State.callEnd
  extract_lets -underBinder d p t d' u
  have hu : Shaped u := h
  clear_value u
  split
  · exact hu.callNext
  extract_lets -underBinder w
  have hw : Shaped w := hu.spendFront.ite hu.useReserve
  clear_value w
  split
  · exact hw.callNext
  · exact Shaped.callNext (Shaped.ite hw.setVoice.prefetch.rowBack.mismatch hw.setVoice.prefetch.rowBack)

theorem Shaped.callIllegal {pc} : Shaped (s.callIllegal pc) := (h.set.put.ite h.set.put.post.upd).callEnd

theorem Shaped.callCut {pc} : Shaped (s.callCut pc) := (h.set.bumpSat.put.ite h.set.bumpSat.put.post.upd).callEnd

theorem execKernelBudgetExpiry_lands {src pc} : Lands (execKernelBudgetExpiry src pc s) := .next (h.callCut.ite h)

theorem execIllegalWord_lands {src pc} : Lands (execIllegalWord src pc s) := .next (h.callIllegal.ite h)

end

/-! Machine/Kernel.lean: its operations keep the sizes of the register files. -/

section
variable {s : State} (h : Shaped s)
include h

theorem Shaped.kstore {d first a v} : Shaped (s.kstore d first a v) := by
  unfold State.kstore
  dsimp only
  split
  · exact h.set.post
  split
  · exact h.setKmem
  · exact Datapath.Sized.flag h

theorem Shaped.kmove {before first m v} : Shaped (s.kmove before first m v) := by
  unfold State.kmove
  extract_lets -underBinder a ok t
  have ht : Shaped t := by
    unfold t
    split
    · exact h
    · exact Shaped.withDp (Datapath.Sized.moveIn h).flag
    · exact Shaped.withDp (Datapath.Sized.flag h.kstore)
  clear_value t
  split
  · exact ht
  · exact Shaped.withDp (Datapath.Sized.flag ht).setPt

theorem Shaped.kstep {m1 m2 f} (hf : ∀ d : Datapath, d.Sized → (f d).Sized) : Shaped (s.kstep m1 m2 f) := by
  have hs : Shaped { s with dp := f { s.dp with pc := (s.dp.pc + 1) % 8192 } } := hf _ h
  obtain ⟨-, -, hp, hs', hl, hh, -⟩ := h
  exact Datapath.Sized.seen hs.kmove.kmove
    ((Datapath.nextPtM_length ..).trans ((Datapath.nextPtM_length ..).trans hp)) hs' hl hh

theorem Shaped.kinstr {m1 m2 cost f} (hf : ∀ d : Datapath, d.Sized → (f d).Sized) : Shaped (s.kinstr m1 m2 cost f) := by
  unfold State.kinstr
  dsimp only
  split
  · exact h
  split
  · exact Shaped.withDp (Datapath.Sized.upd (h.kstep hf))
  · exact Shaped.withDp (Datapath.Sized.upd
      (iter_shaped (fun _ ht => Shaped.kstep (Shaped.withDp (Datapath.Sized.upd ht)) hf) h))

theorem kop_lands {m1 m2 f} (hf : ∀ d : Datapath, d.Sized → (f d).Sized) : Lands (kop m1 m2 f s) := .next (h.kinstr hf)

theorem execNop_lands {m1 m2} : Lands (execNop m1 m2 s) := kop_lands h (fun _ hd => hd)

theorem execMul_lands {wd ci si neg m1 m2} : Lands (execMul wd ci si neg m1 m2 s) := kop_lands h (fun _ hd => hd.setW)

theorem execMad_lands {wd ci si neg m1 m2} : Lands (execMad wd ci si neg m1 m2 s) := kop_lands h (fun _ hd => hd.setW)

theorem execMul4_lands {neg m1 m2} : Lands (execMul4 neg m1 m2 s) := kop_lands h (fun _ hd => hd.lanes)

theorem execMad4_lands {neg m1 m2} : Lands (execMad4 neg m1 m2 s) := kop_lands h (fun _ hd => hd.lanes)

theorem execFir4_lands {neg m1 m2} : Lands (execFir4 neg m1 m2 s) := kop_lands h (fun _ hd => hd.lanes.shiftS)

theorem execZero4_lands {m1 m2} : Lands (execZero4 m1 m2 s) := kop_lands h (fun _ hd => hd.lanes)

theorem execAddw_lands {wd ws os m1 m2} : Lands (execAddw wd ws os m1 m2 s) := kop_lands h (fun _ hd => hd.setW)

theorem execSubw_lands {wd ws os m1 m2} : Lands (execSubw wd ws os m1 m2 s) := kop_lands h (fun _ hd => hd.setW)

theorem execNegw_lands {wd ws os m1 m2} : Lands (execNegw wd ws os m1 m2 s) := kop_lands h (fun _ hd => hd.setW)

theorem execAbsw_lands {wd ws os m1 m2} : Lands (execAbsw wd ws os m1 m2 s) := kop_lands h (fun _ hd => hd.setW)

theorem execZeroW_lands {wd ws os m1 m2} : Lands (execZeroW wd ws os m1 m2 s) := kop_lands h (fun _ hd => hd.setW)

theorem execWld_lands {wd ws os m1 m2} : Lands (execWld wd ws os m1 m2 s) := kop_lands h (fun _ hd => hd.setW)

theorem execWst_lands {wd ws os m1 m2} : Lands (execWst wd ws os m1 m2 s) := kop_lands h (fun _ hd => hd.setO.flag)

theorem execRndw_lands {wd ws os m1 m2} : Lands (execRndw wd ws os m1 m2 s) := kop_lands h (fun _ hd => hd.setW)

theorem execShw_lands {wd imm m1 m2} : Lands (execShw wd imm m1 m2 s) := kop_lands h (fun _ hd => hd.setW)

theorem execAddwi_lands {wd imm m1 m2} : Lands (execAddwi wd imm m1 m2 s) := kop_lands h (fun _ hd => hd.setW)

theorem execAndOp_lands {od os imm m1 m2} : Lands (execAndOp od os imm m1 m2 s) := kop_lands h (fun _ hd => hd.setO)

theorem execOrOp_lands {od os imm m1 m2} : Lands (execOrOp od os imm m1 m2 s) := kop_lands h (fun _ hd => hd.setO)

theorem execXorOp_lands {od os imm m1 m2} : Lands (execXorOp od os imm m1 m2 s) := kop_lands h (fun _ hd => hd.setO)

theorem execLsh_lands {od os imm m1 m2} : Lands (execLsh od os imm m1 m2 s) := kop_lands h (fun _ hd => hd.setO)

theorem execAmov_lands {ad as m1 m2} : Lands (execAmov ad as m1 m2 s) := kop_lands h (fun _ hd => (hd.setA.ite hd.setA))

theorem execPadd_lands {pt imm m1 m2} : Lands (execPadd pt imm m1 m2 s) := kop_lands h (fun _ hd => hd.setA.flag)

theorem execSetcfg_lands {imm m1 m2} : Lands (execSetcfg imm m1 m2 s) := kop_lands h (fun _ hd => hd.upd)

theorem execRdfl_lands {od os imm m1 m2} : Lands (execRdfl od os imm m1 m2 s) := kop_lands h (fun _ hd => hd.setO)

theorem execClrfl_lands {imm m1 m2} : Lands (execClrfl imm m1 m2 s) := kop_lands h (fun _ hd => hd.upd)

theorem Shaped.kalone {m1 m2 cost illegal f} (hf : ∀ d : Datapath, d.Sized → (f d).Sized) :
    Shaped (s.kalone m1 m2 cost illegal f) := by
  unfold State.kalone
  dsimp only
  split
  · exact h
  split
  · exact Shaped.withDp h
  · exact h.callIllegal
  · exact h.callIllegal.ite (h.kinstr hf)

theorem execLdo_lands {od imm} : Lands (execLdo od imm s) := .next (h.kalone (fun _ hd => hd.setO))

theorem execLda_lands {ad imm} : Lands (execLda ad imm s) := .next (h.kalone (fun _ hd => hd.setA))

theorem execJmp_lands {target m1 m2} : Lands (execJmp target m1 m2 s) := .next (h.kalone (fun _ hd => hd.go))

theorem Shaped.kbranch {wn test t m1 m2} : Shaped (s.kbranch wn test t m1 m2) := h.kalone (fun _ hd => (hd.go.ite hd))

theorem execJeq_lands {wn target m1 m2} : Lands (execJeq wn target m1 m2 s) := .next h.kbranch

theorem execJne_lands {wn target m1 m2} : Lands (execJne wn target m1 m2 s) := .next h.kbranch

theorem execJlt_lands {wn target m1 m2} : Lands (execJlt wn target m1 m2 s) := .next h.kbranch

theorem execJge_lands {wn target m1 m2} : Lands (execJge wn target m1 m2 s) := .next h.kbranch

theorem execJle_lands {wn target m1 m2} : Lands (execJle wn target m1 m2 s) := .next h.kbranch

theorem execJgt_lands {wn target m1 m2} : Lands (execJgt wn target m1 m2 s) := .next h.kbranch

theorem execCntb_lands {pt target m1 m2} : Lands (execCntb pt target m1 m2 s) :=
  .next (h.kalone (fun _ hd => (hd.setA.go.ite hd.setA)))

theorem execRpn_lands {count m1 m2} : Lands (execRpn count m1 m2 s) := .next (h.kalone (fun _ hd => hd.upd))

theorem execRpni_lands {pt m1 m2} : Lands (execRpni pt m1 m2 s) := .next (h.kalone (fun _ hd => hd.upd.flag))

theorem execJsr_lands {target m1 m2} : Lands (execJsr target m1 m2 s) := .next (h.kalone (fun _ hd => hd.upd.go))

theorem execRet_lands {m1 m2} : Lands (execRet m1 m2 s) := .next (h.kalone (fun _ hd => hd.upd))

theorem execDoneOp_lands {m1 m2} : Lands (execDoneOp m1 m2 s) := by
  refine .next ?_
  dsimp only
  split
  · exact h
  split
  · exact Shaped.withDp h
  · exact h.callIllegal
  · exact (h.kinstr fun _ hd => hd).callEnd

end

/-! Machine/KernelMgmt.lean: its operations keep the sizes of the register files. -/

section
variable {s : State} (h : Shaped s)
include h

theorem Shaped.setKernel {k} : Shaped (s.setKernel k) := h.upd

theorem execKernelImageComplete_lands : Lands (execKernelImageComplete s) :=
  .next (by split; exacts [h, (h.ite (h.setKernel.ite h.setKernel.upd).post)])

theorem Shaped.closeBricks {bricks closed} : Shaped (s.closeBricks bricks closed) :=
  forEach_shaped (fun _ _ h' => by split; exacts [h'.set, h']) h

theorem Shaped.kernelPend {bricks image block} : Shaped (s.kernelPend bricks image block) := h.closeBricks.setKernel

theorem Shaped.kernelEmpty {bricks} : Shaped (s.kernelEmpty bricks) := h.setKernel.post.ite h

theorem Shaped.kernelTick : Shaped s.kernelTick := h.setKernel

theorem Shaped.brickKernel {b image} : Shaped (s.brickKernel b image) := by
  unfold State.brickKernel
  dsimp only
  split
  · exact h.setKernel
  · split
    · exact h.setKernel.set.wr
    · exact h.setKernel.set.set.put.put

theorem execKernelBrickLoad_lands {brick} : Lands (execKernelBrickLoad brick s) :=
  .next (by split; exacts [h, (h.ite (h.setKernel.brickKernel.post.ite h.setKernel.brickKernel))])

end

theorem cmdKernelStage_shaped : CmdShaped cmdKernelStage := .ofAct rfl rfl fun _ _ _ h => (h.setKernel.ite h.setKernel.upd)

theorem cmdKernelWrite_shaped : CmdShaped cmdKernelWrite := .ofAct rfl rfl fun _ _ _ h => by
  dsimp only [cmdKernelWrite]
  split
  · exact h.setKernel
  · exact h

theorem cmdKernelLoad_shaped : CmdShaped cmdKernelLoad where
  act _ _ _ h := h.kernelPend
  after _ _ h := h.kernelEmpty
  refused _ _ _ h := h

theorem cmdKernelRestoreStd_shaped : CmdShaped cmdKernelRestoreStd where
  act _ _ _ h := h.kernelPend
  after _ _ h := h.kernelEmpty
  refused _ _ _ h := h

theorem cmdKernelCancel_shaped : CmdShaped cmdKernelCancel where
  after _ _ h := forEach_shaped (fun _ _ h' => h'.post) (Shaped.setKernel (forEach_shaped (fun _ _ h' => h'.closeBricks) h))
  act _ _ _ h := h
  refused _ _ _ h := h

theorem cmdKernelGetInfo_shaped : CmdShaped cmdKernelGetInfo := .ofAct rfl rfl fun _ _ _ h => h

/-! Machine/Bank.lean: its operations keep the sizes of the register files. -/

section
variable {s : State} (h : Shaped s)
include h

theorem Shaped.bankDone {n result detail} : Shaped (s.bankDone n result detail) := h.post

theorem Shaped.freeVc1 {l} : Shaped (s.freeVc1 l) := h.ite h.upd

theorem Shaped.loadArrived {n} : Shaped (s.loadArrived n) := h.setBank.ite h

theorem Shaped.abandonLoad {n} : Shaped (s.abandonLoad n) := Shaped.bankDone (Shaped.setBank (by split; exacts [h.freeVc1, h]))

theorem execBankImageComplete_lands {bank} : Lands (execBankImageComplete bank s) :=
  .next
      (by
        dsimp only
        split
        · exact h
        · exact h.ite ((h.freeVc1.upd.setBank.ite h.freeVc1.upd.setBank).ite h.freeVc1.setBank).bankDone)

theorem Shaped.stopBound {vs} : Shaped (s.stopBound vs) := forEach_shaped (fun _ _ h' => by split; exacts [h'.stopJob, h']) h

theorem Shaped.banksTick : Shaped s.banksTick :=
  forEach_shaped (fun _ _ h' => (h'.setBank.setBank.ite
      (by split; exacts [h'.setBank, (h'.setBank.setBank.stopBound.ite h'.setBank.setBank)]))) h

theorem execBankVerifyDone_lands {bank} : Lands (execBankVerifyDone bank s) :=
  .next (by dsimp only; split; exacts [h, (h.ite (Shaped.bankDone (forEach_shaped (fun _ _ h' => h'.tileBad) h.setBank)))])

theorem execTileCrcCheckDone_lands {bank tile} : Lands (execTileCrcCheckDone bank tile s) :=
  .next (Shaped.ite (forEach_shaped (fun _ _ h' => h'.checkTile) h) h)

theorem Shaped.stopTile {bank gen tile} : Shaped (s.stopTile bank gen tile) :=
  h.ite (forEach_shaped (fun _ _ h' => h'.setVoice.editVoice) h.tileMarkBad)

theorem Shaped.pageError {bank gen page uncorr} : Shaped (s.pageError bank gen page uncorr) := by
  unfold State.pageError
  split
  · exact h
  · exact Shaped.ite (forEach_shaped (fun _ _ h' => h'.stopTile) h.mapImage) h.mapImage

theorem Shaped.patrolled {page} : Shaped (s.patrolled page) := (h.put.ite h).upd

theorem execBankPatrolRead_lands {page error} : Lands (execBankPatrolRead page error s) := by
  refine .next ?_
  split
  · exact h
  split
  · exact h.patrolled
  extract_lets -underBinder uncorr
  split
  next x t e =>
  have ht : Shaped t := by
    obtain rfl : _ = t := congrArg Prod.snd e
    exact h.patrolled.draw
  extract_lets -underBinder +onlyGivenNames l hit u w
  have hu : Shaped u := ht.bumpSat.set.put.set.ite ht.bumpSat
  have hw : Shaped w := by
    unfold w hit
    split
    · exact hu.pageError
    · exact hu.setZone.set.ite hu
    · exact hu
  exact hw.ite (hw.upd.raise.raise.ite hw.upd.raise)

theorem execBankRetrain_lands {ok} : Lands (execBankRetrain ok s) :=
  .next (h.ite (h.bumpSat.upd.ite (Shaped.upd (forEach_shaped (fun _ _ h' => h'.abandonLoad) h.bumpSat.upd))))

theorem execBankAvailable_lands : Lands (execBankAvailable s) :=
  .next (h.ite (Shaped.post (Shaped.set (Shaped.unraise (forEach_shaped (fun _ _ h' => h'.set) h.upd.set.put)))))

end

theorem cmdBankLoad_shaped : CmdShaped cmdBankLoad := .ofAct rfl rfl fun _ _ _ h => (h.setBank.ite h.setBank.upd)

theorem cmdBankWrite_shaped : CmdShaped cmdBankWrite := .ofAct rfl rfl fun _ _ _ h => by
  dsimp only [cmdBankWrite]
  split
  · exact h.setBank.loadArrived
  · exact h

theorem cmdBankUnload_shaped : CmdShaped cmdBankUnload := .ofAct rfl rfl fun _ _ _ h => by
  dsimp only [cmdBankUnload]
  split
  · exact h.abandonLoad
  · exact h.abandonLoad
  · exact (h.abandonLoad.ite h).setBank.stopBound
  · exact (h.abandonLoad.ite h).setBank.stopBound
  · exact h

theorem cmdBankVerify_shaped : CmdShaped cmdBankVerify := .ofAct rfl rfl fun _ _ _ h => h.setBank

theorem cmdBankGetInfo_shaped : CmdShaped cmdBankGetInfo := .ofAct rfl rfl fun _ _ _ h => h

theorem cmdBankList_shaped : CmdShaped cmdBankList := .ofAct rfl rfl fun _ _ _ h => h

/-! Machine/Script.lean: its operations keep the sizes of the register files. -/

section
variable {s : State} (h : Shaped s)
include h

theorem Shaped.takeTile {src record c prev at_ w ref osc hi} : Shaped (s.takeTile src record c prev at_ w ref osc hi).1 := by
  unfold State.takeTile
  split
  · exact h
  extract_lets tailOf quiet
  split
  · exact h.setVoice
  extract_lets t
  have ht : Shaped t := h.beforeTile
  clear_value t
  dsimp only
  split
  · exact ht.setVoice
  split
  · split <;> exact ht.setVoice
  · exact ht.setVoice

theorem Shaped.setSeq {v q} : Shaped (s.setSeq v q) := h.setVoice

theorem Shaped.scriptFault {v index w} : Shaped (s.scriptFault v index w) := h.post

theorem Shaped.seqCut {v at_ e} : Shaped (s.seqCut v at_ e) := h.setSeq

theorem Shaped.seqEnd {v at_} : Shaped (s.seqEnd v at_) := by
  unfold State.seqEnd
  split
  · exact h.seqCut
  · exact h.setVoice

theorem Shaped.seqTimed {src record at_ ws cur next} : Shaped (s.seqTimed src record at_ ws cur next) := by
  unfold State.seqTimed
  dsimp only
  split
  · exact h
  · split
    · split <;> exact h.setSeq
    · exact h.setSeq
    · exact h.setSeq
    · exact h.seqEnd

theorem Shaped.startCompanion {w at_ dur} : Shaped (s.startCompanion w at_ dur) := h.setVoice

theorem Shaped.seqTone {record at_ w} : Shaped (s.seqTone record at_ w) := by
  unfold State.seqTone
  split
  · split
    · exact h.setVoice
    · exact h
  · split
    · exact h.ite h.startCompanion
    · exact h.toneEdit.ite h
    · exact h.toneEdit.ite h

theorem Shaped.seqAct {src record at_ ws} : Shaped (s.seqAct src record at_ ws) :=
  h.seqTone.ite (Shaped.ite (by split; exacts [h.setVoice, h]) h)

theorem Shaped.decideAt {v at_ osc hi} : Shaped (s.decideAt v at_ osc hi) := by
  unfold State.decideAt
  extract_lets -underBinder q due
  split
  extract_lets -underBinder ops ws tile
  split
  next t next prev e =>
  have ht : Shaped t := by
    obtain rfl : _ = t := congrArg Prod.fst e
    split
    · exact h.takeTile
    · exact h
  split
  · exact ht
  · exact ht.setSeq

theorem Shaped.boundary {v at_} : Shaped (s.boundary v at_) := by
  unfold State.boundary
  split
  · exact h
  · extract_lets -underBinder +onlyGivenNames q t t2 x t3
    have ht : Shaped t := h.setSeq
    have ht2 : Shaped t2 := forEach_shaped (fun _ _ h' => h'.seqAct) ht
    have ht3 : Shaped t3 := ht2.scriptFault.ite ht2
    clear_value t t2 t3
    exact ht3.seqTimed

theorem Shaped.seqOp {src record ws osc hi} : Shaped (s.seqOp src record ws osc hi) := by
  unfold State.seqOp
  split
  · exact h
  · extract_lets -underBinder +onlyGivenNames q at2
    split
    · exact h.seqEnd.ite h.scriptFault.seqEnd
    · extract_lets -underBinder +onlyGivenNames cur
      exact h.setSeq.seqAct.ite (h.seqTimed.ite (Shaped.seqTimed (by split; exacts [h.takeTile.setSeq, h.takeTile])))

theorem Shaped.seqGo {v at_} : Shaped (s.seqGo v at_) := h.setSeq

theorem Shaped.seqStep {src record osc lo hi t} (e : s.seqStep src record osc lo hi = some t) : Shaped t := by
  unfold State.seqStep at e
  split at e
  · cases e
  split at e
  · cases e
  split at e
  · cases e
    exact h.seqCut
  split at e
  · cases e
  cases e
  split
  · exact h.seqOp
  · split
    · exact h.decideAt
    · exact h.boundary
  · exact h.seqGo

theorem Shaped.seqRun {src record osc lo hi n} : Shaped (s.seqRun src record osc lo hi n) := by
  induction n generalizing s with
  | zero => exact h
  | succ n ih =>
    unfold State.seqRun
    split
    · exact h
    next e => exact ih (h.seqStep e)

theorem Shaped.seqBlock {src record osc lo hi} : Shaped (s.seqBlock src record osc lo hi) := by
  unfold State.seqBlock
  split
  · exact h
  · exact forEach_shaped (fun _ _ h' => by split; exacts [h', h'.setVoice.seqRun]) h.setSeq

theorem Shaped.seqRow {src ws} : Shaped (s.seqRow src ws) := by
  unfold State.seqRow
  dsimp only
  split
  · exact h
  · split
    · exact h
    · exact h.setSeq.seqOp

theorem Shaped.decideRow {src} : Shaped (s.decideRow src) := by
  unfold State.decideRow
  split
  · exact h
  · split
    · exact h.ite h.decideAt
    · exact h

theorem execTileDecisionPoint_lands {src} : Lands (execTileDecisionPoint src s) := .next h.decideRow

theorem execTileBoundary_lands {src} : Lands (execTileBoundary src s) := by
  unfold execTileBoundary
  dsimp only
  exact .next (by split; exacts [h.decideRow, by split; exacts [h.decideRow.boundary, h.decideRow]])

theorem execEndOp_lands {src} : Lands (execEndOp src s) := .next h.seqRow

theorem execTileOp_lands {src trim ref} : Lands (execTileOp src trim ref s) := .next h.seqRow

theorem execGap_lands {src dur} : Lands (execGap src dur s) := .next h.seqRow

theorem execJoinOp_lands {src kind persist equalPower periods len} : Lands (execJoinOp src kind persist equalPower periods len
    s) := .next h.seqRow

theorem execPitch_lands {src scale} : Lands (execPitch src scale s) := .next h.seqRow

theorem execTempo_lands {src scale} : Lands (execTempo src scale s) := .next h.seqRow

theorem execLevelOp_lands {src code} : Lands (execLevelOp src code s) := .next h.seqRow

theorem execTone_lands {src voice action dur} : Lands (execTone src voice action dur s) := .next h.seqRow

theorem execSync_lands {src kind level contact value mt} : Lands (execSync src kind level contact value mt s) := .next h.seqRow

theorem execSyncSatisfied_lands {src timeout} : Lands (execSyncSatisfied src timeout s) :=
  .next (by split; exacts [h, by split; exacts [h, h.seqGo]])

theorem execLoopOp_lands {src count back} : Lands (execLoopOp src count back s) := .next h.seqRow

theorem execLang_lands {src bank tbase} : Lands (execLang src bank tbase s) := .next h.seqRow

theorem Shaped.seqTick : Shaped s.seqTick := h.upd

end

/-! Machine/Synth.lean: its operations keep the sizes of the register files. -/

section
variable {s : State} (h : Shaped s)
include h

theorem Shaped.takeSource {src record t} : Shaped (s.takeSource src record t) := by
  unfold State.takeSource
  split
  · exact h
  · exact h.ite (h.setVoice.ite (by split; exacts [h.setVoice, h.beforeTile.setVoice]))

theorem Shaped.stretch {src record c lo hi r} : Shaped (s.stretch src record c lo hi r).1 := by
  unfold State.stretch
  dsimp only
  split
  · exact h.takeSource
  · exact h.takeSource.setVoice

theorem Shaped.passBlock {v b} : Shaped (s.passBlock v b).1 :=
  List.foldlRecOn _ _ (motive := fun a : State × Rendered => Shaped a.1) h.setVoice.seqBlock fun _ ha _ _ => ha.stretch

theorem Shaped.passes {v b n} : Shaped (s.passes v b n).1 := by
  induction n generalizing v with
  | zero => exact h.passBlock
  | succ n ih =>
    unfold State.passes
    split
    next t r e =>
    obtain rfl : _ = t := congrArg Prod.fst e
    split
    · exact h.passBlock
    extract_lets -underBinder w
    split
    · exact h.passBlock
    split
    · exact h.passBlock.setVoice
    · exact ih

theorem Shaped.renderBlock {v} : Shaped (s.renderBlock v) := by
  unfold State.renderBlock
  dsimp only
  split
  · exact h
  · exact ((h.ite h.setVoice.passes).setVoice.mismatch.ite (h.ite h.setVoice.passes).setVoice).ite ((h.ite
      h.setVoice.passes).setVoice.mismatch.ite (h.ite h.setVoice.passes).setVoice).followEnd

end

/-! Machine/VoiceCmd.lean: its operations keep the sizes of the register files. -/

section
variable {s : State} (h : Shaped s)
include h

theorem Shaped.atVoiceStop {mt p} : Shaped (s.atVoiceStop mt p) := by
  unfold State.atVoiceStop
  split
  · exact h
  · split
    · exact h
    · exact h.stopVoice

end

theorem cmdVoiceSetParam_shaped : CmdShaped cmdVoiceSetParam := .ofAct rfl rfl fun _ _ _ h => by
  dsimp only [cmdVoiceSetParam]
  split
  · exact h
  · exact forEach_shaped (fun _ _ h' => h'.editVoice) h

theorem cmdVoiceGetParams_shaped : CmdShaped cmdVoiceGetParams := .ofAct rfl rfl fun _ _ _ h => by
  dsimp only [cmdVoiceGetParams]
  split <;> exact h

theorem cmdVoiceRelease_shaped : CmdShaped cmdVoiceRelease := .ofAct rfl rfl fun _ _ _ h => by
  dsimp only [cmdVoiceRelease]
  split
  · exact h
  · exact h.editVoice

theorem cmdVoiceStop_shaped : CmdShaped cmdVoiceStop := .ofAct rfl rfl fun _ _ _ h => h

theorem cmdVoiceGetLevels_shaped : CmdShaped cmdVoiceGetLevels := .ofAct rfl rfl fun _ _ _ h => h

theorem cmdVoiceGetStatus_shaped : CmdShaped cmdVoiceGetStatus := .ofAct rfl rfl fun _ _ _ h => by
  dsimp only [cmdVoiceGetStatus]
  split <;> exact h

/-! Machine/JobCmd.lean: its operations keep the sizes of the register files. -/

section
variable {s : State} (h : Shaped s)
include h

theorem Shaped.siteInsert {x block site d} : Shaped (s.siteInsert x block site d) := by
  unfold State.siteInsert
  split
  · exact h
  · split
    · exact h.partDone.ite h.courseSend
    · exact h.insertJob

theorem Shaped.atJobAbort {mt p} : Shaped (s.atJobAbort mt p) := by
  unfold State.atJobAbort
  split
  · exact h
  · exact Shaped.ite (by split; exacts [h.stopJob, h]) (h.ite h.stopJob)

theorem Shaped.releaseJob {j mt} : Shaped (s.releaseJob j mt) := by
  unfold State.releaseJob
  split
  · exact forEach_shaped (fun _ _ h' => h'.editVoice) h
  · exact forEach_shaped (fun _ _ h' => h'.editVoice) h
  · exact h.setJob
  · exact h.setJob
  · exact h.setJob
  · exact h

theorem execMaxWaitExpiry_lands {record} : Lands (execMaxWaitExpiry record s) := .next (by split; exacts [h, (h.finish.ite h)])

theorem Shaped.atSetPolicy {p} : Shaped (s.atSetPolicy p) := h.writeImage

end

theorem cmdJobSubmit_shaped : CmdShaped cmdJobSubmit where
  act _ _ _ h := by
    dsimp only [cmdJobSubmit]
    split
    · exact h
    · split
      · exact h.insertJob
      · exact (h.setJob.courseSend.ite h.setJob).siteInsert.finishOwn.ite (h.setJob.courseSend.ite h.setJob).siteInsert
  refused _ _ _ h := h.set.ite h
  after _ _ h := h

theorem cmdJobAbort_shaped : CmdShaped cmdJobAbort := .ofAct rfl rfl fun _ _ _ h => by
  dsimp only [cmdJobAbort]
  split
  · exact h
  · split
    · exact h.courseSend.ite h
    · split
      · exact h.finish
      · exact h

theorem cmdJobRelease_shaped : CmdShaped cmdJobRelease := .ofAct rfl rfl fun _ _ _ h => by
  dsimp only [cmdJobRelease]
  split
  · exact h
  · split
    · split
      · exact (h.courseSend.ite h).releaseJob
      · exact h.courseSend.ite h
    · exact h.releaseJob

theorem cmdJobGetStatus_shaped : CmdShaped cmdJobGetStatus := .ofAct rfl rfl fun _ _ _ h => by
  dsimp only [cmdJobGetStatus]
  split <;> exact h

theorem cmdJobList_shaped : CmdShaped cmdJobList := .ofAct rfl rfl fun _ _ _ h => h

theorem cmdJobGetStats_shaped : CmdShaped cmdJobGetStats := .ofAct rfl rfl fun _ _ _ h => h

theorem cmdJobSetPolicy_shaped : CmdShaped cmdJobSetPolicy := .ofAct rfl rfl fun _ _ _ h => h.upd

theorem cmdJobScriptEdit_shaped : CmdShaped cmdJobScriptEdit := .ofAct rfl rfl fun _ _ _ h => by
  dsimp only [cmdJobScriptEdit]
  split
  · exact h
  · exact h.upd.editVoice

theorem cmdJobSquall_shaped : CmdShaped cmdJobSquall := .ofAct rfl rfl fun _ _ _ h => by
  dsimp only [cmdJobSquall]
  split
  · exact h
  · exact h.squallCommand

theorem cmdJobSquallEnd_shaped : CmdShaped cmdJobSquallEnd := .ofAct rfl rfl fun _ _ _ h => h.squallStop

theorem cmdJobArm_shaped : CmdShaped cmdJobArm := .ofAct rfl rfl fun _ _ _ h => h.upd.put.put.put.set

theorem cmdJobDisarm_shaped : CmdShaped cmdJobDisarm := .ofAct rfl rfl fun _ _ _ h => h.upd.set

theorem cmdJobSetSquall_shaped : CmdShaped cmdJobSetSquall := .ofAct rfl rfl fun _ _ _ h => h.writeImage

section
variable {s : State} (h : Shaped s)
include h

theorem Shaped.takeSquall {k} : Shaped (s.takeSquall k) :=
  (h.squallBell.ite h).hold.ite (Shaped.ite (Shaped.upd (kcpExec_shaped (h.squallBell.ite h) cmdJobSquall_shaped))
      (kcpExec_shaped (h.squallBell.ite h) cmdJobSquall_shaped))

theorem execJobSquall_lands {k} : Lands (execJobSquall k s) := .next h.takeSquall

end

/-! Machine/Course.lean: its operations keep the sizes of the register files. -/

section
variable {s : State} (h : Shaped s)
include h

theorem Shaped.setCourse {c} : Shaped (s.setCourse c) := h.upd

theorem Shaped.setPeer {p} : Shaped (s.setPeer p) := h.setCourse

theorem Shaped.ringUpdate : Shaped s.ringUpdate := h.put.set.post.ite h.put

theorem Shaped.showTopo : Shaped s.showTopo := h.put.put.put.put

theorem Shaped.measureRing : Shaped s.measureRing := by
  unfold State.measureRing
  split
  · exact h
  · extract_lets -underBinder +onlyGivenNames east west key lat t t2
    have ht : Shaped t := h.put
    have ht2 : Shaped t2 := forEach_shaped (fun _ _ h' => h'.put) ht
    clear_value t t2
    exact ht2.ite (ht2.put.put.set.ite ht2.put.put)

theorem Shaped.setCport {p st lanes} : Shaped (s.setCport p st lanes) := h.put.ite h.put.put.post

theorem Shaped.sendTopo : Shaped s.sendTopo := h.courseSend

theorem Shaped.cportDown {p} : Shaped (s.cportDown p) :=
  h.setCport.ringUpdate.sendTopo.failType.ite h.setCport.ringUpdate.sendTopo

theorem execCoursePortDown_lands {port} : Lands (execCoursePortDown port s) := .next (h.cportDown.ite h)

theorem execCoursePortUp_lands {port} : Lands (execCoursePortUp port s) :=
  .next (h.setCport.ringUpdate.sendTopo.measureRing.ite h)

theorem execCourseLaneAlignmentLoss_lands {port lane} : Lands (execCourseLaneAlignmentLoss port lane s) :=
  .next (h.ite (h.setCport.ite (h.cportDown.ite h)))

theorem execCourseFrameSend_lands : Lands (execCourseFrameSend s) := .next (h.ite (h.courseSend.ite h).bump.setCourse)

theorem Shaped.placeInput {chan n mt xs} : Shaped (s.placeInput chan n mt xs) := by
  induction n generalizing s mt xs with
  | zero => exact h
  | succ n ih =>
    unfold State.placeInput
    split
    · exact h
    · exact ih (h.ite h.upd)

theorem Shaped.hear {port f o} : Shaped (s.hear port f o) := h.setPeer.setPeer.showTopo

theorem Shaped.claim {chan o} : Shaped (s.claim chan o).2 := by
  unfold State.claim
  split
  · exact h.setCourse
  · split
    · exact h.setCourse
    · split
      · exact h.set.setCourse
      · exact h.set

theorem Shaped.keystoneFrame {c} : Shaped (s.keystoneFrame c) :=
  (h.set.set.put.post.ite h).ite (((h.put.setCourse.ite h.put.setCourse.refRequalify).post.ite (h.put.setCourse.ite
      h.put.setCourse.refRequalify)).ite h.setCourse)

theorem Shaped.takeFrame {f o} : Shaped (s.takeFrame f o) := by
  unfold State.takeFrame
  extract_lets -underBinder +onlyGivenNames key t c t2 t3 t4 old t5 t6
  have ht : Shaped t := h.bumpSat.ite h
  have ht2 : Shaped t2 := ht.bump.wr
  have ht3 : Shaped t3 := ht2.set.put
  have ht4 : Shaped t4 := ht3.set.ite ht3
  have ht5 : Shaped t5 := ht4.setCourse
  have ht6 : Shaped t6 := ht5.keystoneFrame.ite ht5
  clear_value t t2 t3 t4 t5 t6
  exact ht6.ite (forEach_shaped (fun _ _ h' => (h'.claim.placeInput.ite h'.claim)) ht6)

theorem execCourseFrameReceived_lands {port f} : Lands (execCourseFrameReceived port f s) := by
  refine .next ?_
  split
  · exact h
  · extract_lets -underBinder +onlyGivenNames o
    split
    · extract_lets -underBinder +onlyGivenNames t old t2
      have ht : Shaped t := h.bumpSat
      have ht2 : Shaped t2 := ht.setCourse
      clear_value t t2
      exact ht2.raise
    · extract_lets -underBinder +onlyGivenNames t t2 partner
      have ht : Shaped t := h.bump
      have ht2 : Shaped t2 := ht.setCport.ringUpdate.ite ht
      clear_value t t2
      split
      · exact ht2
      · split
        · extract_lets -underBinder +onlyGivenNames t3 key
          have ht3 : Shaped t3 := ht2.set
          clear_value t3
          exact ht3.ite ht3.setCourse
        · extract_lets -underBinder +onlyGivenNames t3 t4
          have ht3 : Shaped t3 := ht2.hear
          have ht4 : Shaped t4 := ht3.set.ite ht3
          clear_value t3 t4
          exact ht4.ite (ht4.takeFrame.ite ht4.takeFrame.setCourse)

theorem Shaped.courseTick : Shaped s.courseTick := by
  unfold State.courseTick
  split
  · exact h
  · extract_lets -underBinder +onlyGivenNames old t gone old2 t2 t3 t4
    have ht : Shaped t := h.setCourse
    have ht2 : Shaped t2 := ht.setCourse
    have ht3 : Shaped t3 := forEach_shaped (fun _ _ h' => (h'.set.ite h'.set.set.put)) ht2
    have ht4 : Shaped t4 := ht3.ite ht3.showTopo.ringUpdate
    clear_value t t2 t3 t4
    exact ht4.set

theorem Shaped.countLost {block} : Shaped (s.countLost block) := h.ite h.bumpSat

theorem Shaped.message {m f} (hf : ∀ t, Shaped t → Shaped (f t)) : Shaped (s.message m f) := h.ite (hf _ h.setCourse)

theorem execCourseMsgStatus_lands {x pstate variant twin eastNs westNs} : Lands (execCourseMsgStatus x pstate variant twin
    eastNs westNs s) := by
  refine .next ?_
  exact h.message
      (fun _ h' => by
        dsimp only
        split
        · exact h'
        · exact (((h'.setPeer.put.ite h'.setPeer).put.ite (h'.setPeer.put.ite h'.setPeer)).put.put.ite ((h'.setPeer.put.ite
            h'.setPeer).put.ite (h'.setPeer.put.ite h'.setPeer)).put).measureRing)

theorem execCourseMsgTopo_lands {x down ring} : Lands (execCourseMsgTopo x down ring s) :=
  .next (h.message (fun _ h' => by split; exacts [h', h'.setPeer.ringUpdate.measureRing]))

theorem execCourseMsgTime_lands {x change} : Lands (execCourseMsgTime x change s) :=
  .next (h.message (fun _ h' => (h'.timeChange.ite h')))

theorem execCourseMsgSquall_lands {x squall} : Lands (execCourseMsgSquall x squall s) :=
  .next (h.message (fun _ h' => Shaped.ite
      (by split; exacts [h'.squallRelease, (h'.ite (h'.bumpSat.ite (h'.runFrom.ite h').squallInsert))])
      (by split; exacts [(h'.squallTrigger.ite h'), h'])))

theorem execCourseMsgSiteJob_lands {x handle startBlock site descriptor} : Lands (execCourseMsgSiteJob x handle startBlock site
    descriptor s) := .next (h.message (fun _ h' => (h'.ite (h'.courseSend.ite h'.siteInsert))))

theorem execCourseMsgSiteCmd_lands {x handle release mt} : Lands (execCourseMsgSiteCmd x handle release mt s) :=
  .next (h.message (fun _ h' => (h'.ite (by split; exacts [h', (h'.releaseJob.ite (h'.finish.ite h'.upd))]))))

theorem Shaped.mapSite {site groups} : Shaped (s.mapSite site groups) :=
  Shaped.setCourse (forEach_shaped (fun _ _ h' => (h'.setGroup.ite (h'.setGroup.ite h'))) h)

theorem execCourseMsgGroupMap_lands {x site groups} : Lands (execCourseMsgGroupMap x site groups s) :=
  .next (h.message (fun _ h' => (h'.mapSite.ite h')))

theorem execCourseMsgStrike_lands {x seq sample} : Lands (execCourseMsgStrike x seq sample s) :=
  .next (h.message (fun _ h' => (h'.ite h'.strikeAdd)))

theorem execCourseMsgPartDone_lands {x handle reason} : Lands (execCourseMsgPartDone x handle reason s) :=
  .next (h.message (fun _ h' => (h'.partDone.ite h')))

theorem execCourseMsgMigrate_lands {x m brick} : Lands (execCourseMsgMigrate x m brick s) :=
  .next (h.message (fun _ h' => (h'.excludeTwin.ite h')))

theorem Shaped.compareSigs {block mine theirs} : Shaped (s.compareSigs block mine theirs) :=
  (h.bumpSat.put.ite h.bumpSat).ite
      (by
        split
        · exact h.put.bumpSat.post.raise.ite (h.put.bumpSat.post.raise.put.ite h.put.bumpSat.post.raise.setCourse)
        · exact h.put.bumpSat.post.raise.setCourse)

theorem Shaped.compareAll : Shaped s.compareAll := forEach_shaped (fun _ _ h' => h'.compareSigs) h.setCourse

theorem execCourseMsgSig_lands {x block sigs} : Lands (execCourseMsgSig x block sigs s) :=
  .next (h.message (fun _ h' => (h'.ite h'.setCourse.compareAll)))

theorem execTwinCheckDone_lands {failed} : Lands (execTwinCheckDone failed s) :=
  .next (h.ite (h.setCourse.put.raiseWith.ite (h.setCourse.put.ite h.setCourse.put.set.bumpSat.post)))

theorem execTwinTakeoverStart_lands : Lands (execTwinTakeoverStart s) :=
  .next (h.ite (h.setCourse.put.outputsLive.ite h.setCourse.put).postAt)

theorem execKeystoneLost_lands : Lands (execKeystoneLost s) :=
  .next (h.ite (h.setCourse.set.put.refLose.ite h.setCourse.set.put.refLose.set.set.put.setCourse.post))

end

theorem cmdCourseConfig_shaped : CmdShaped cmdCourseConfig :=
  .ofAct rfl rfl fun _ _ _ h => (h.put.set.set.courseInit.ite h.put.set.set.courseInit.put.put)

theorem cmdCourseGetStatus_shaped : CmdShaped cmdCourseGetStatus := .ofAct rfl rfl fun _ _ _ h => h

theorem cmdCourseSetOffset_shaped : CmdShaped cmdCourseSetOffset := .ofAct rfl rfl fun _ _ _ h => h.timeChange.tellTime

theorem cmdCourseMapGroup_shaped : CmdShaped cmdCourseMapGroup :=
  .ofAct rfl rfl fun _ _ _ h => (h.mapSite.courseSend.ite h.mapSite)

theorem cmdCourseSetTwin_shaped : CmdShaped cmdCourseSetTwin := .ofAct rfl rfl fun _ _ _ h => h.set.set.courseInit

/-! Machine/Stream.lean: its operations keep the sizes of the register files. -/

section
variable {s : State} (h : Shaped s)
include h

theorem Shaped.setStream {x} : Shaped (s.setStream x) := h.upd

theorem Shaped.noCredits : Shaped s.noCredits := forEach_shaped (fun _ _ h' => h'.wr) h

theorem Shaped.setLanes {lanes failed} : Shaped (s.setLanes lanes failed) :=
  forEach_shaped (fun _ _ h' => h'.set.set.set) h.put.put

theorem Shaped.vc1Flit {bs eom ok} : Shaped (s.vc1Flit bs eom ok) := by
  unfold State.vc1Flit
  split
  · exact h.setBank.loadArrived
  · exact h.setKernel
  · exact h.upd
  · exact h

theorem Shaped.loseFlight : Shaped s.loseFlight := h.noCredits.setStream.vc1Flit.ite h.noCredits.setStream

theorem Shaped.strmDown {cause} : Shaped (s.strmDown cause) := h.put.put.set.noCredits.setStream.post.failType

theorem Shaped.takeGrants : Shaped s.takeGrants := forEach_shaped (fun _ _ h' => h'.put) h

theorem Shaped.trainStart : Shaped s.trainStart := h.loseFlight.put.setLanes

theorem Shaped.strmOn {lanes} : Shaped (s.strmOn lanes) := h.setLanes.takeGrants.put.ite h.setLanes.takeGrants.put.set

theorem execStreamTrainingDone_lands {result lanes us grants} : Lands (execStreamTrainingDone result lanes us grants s) :=
  .next (h.ite (h.put.put.post.strmDown.ite (h.put.put.setStream.strmOn.post.ite h.put.put.setStream.strmOn.post.draw.post)))

theorem execStreamLaneFail_lands {lane trained} : Lands (execStreamLaneFail lane trained s) :=
  .next (h.ite (h.set.put.strmDown.ite (h.set.put.trainStart.bumpSat.draw.put.draw.put.strmDown.ite
      h.set.put.trainStart.bumpSat.draw.put.put.strmOn.put.post)))

theorem execStreamClockAbsent_lands : Lands (execStreamClockAbsent s) := .next (h.put.post.strmDown.ite (h.strmDown.ite h))

theorem execStreamAudioFrameRx_lands {mt n len words} : Lands (execStreamAudioFrameRx mt n len words s) :=
  .next (h.ite (h.bump.bumpSat.ite (forEach_shaped (fun _ _ h' => h'.placeInput) h.bump)))

theorem execStreamAudioFrameTx_lands : Lands (execStreamAudioFrameTx s) :=
  .next (h.ite (h.bumpSat.ite h.put.bump.bump.setStream))

theorem Shaped.returnCredits : Shaped s.returnCredits := h.ite h.put

theorem Shaped.owe2 : Shaped s.owe2 := h.put

theorem Shaped.vc2Done : Shaped s.vc2Done := h.setStream.ite h.setStream.put.upd.screenOpcode

theorem Shaped.vc2Flit {payload som eom ok} : Shaped (s.vc2Flit payload som eom ok) :=
  (h.setStream.bumpSat.ite (h.setStream.vc2Done.ite h.setStream)).ite (h.ite (h.setStream.vc2Done.ite h.setStream))

theorem Shaped.badFlit {payload vc ty som eom} : Shaped (s.badFlit payload vc ty som eom) := by
  unfold State.badFlit
  extract_lets -underBinder +onlyGivenNames t t2 lanes old t3 t4 t5
  have ht : Shaped t := h.bumpSat.set
  have ht2 : Shaped t2 := ht.raise
  have ht3 : Shaped t3 := ht2.setStream
  have ht4 : Shaped t4 := forEach_shaped (fun _ _ h' => h'.bumpSat) ht3
  have ht5 : Shaped t5 := ht4.ite (by split; exacts [ht4.vc1Flit, ht4.owe2.vc2Flit.returnCredits, ht4])
  clear_value t t2 t3 t4 t5
  exact ht5.strmDown.ite ht5

theorem execStreamFlitReceived_lands {payload control crcOk} : Lands (execStreamFlitReceived payload control crcOk s) :=
  .next (h.ite (h.badFlit.ite (h.bumpSat.ite (h.ite (h.put.ite
      (by split; exacts [h.put.bump.vc1Flit, h.put.bump.owe2.vc2Flit.returnCredits, h.put.bump]))))))

theorem Shaped.streamTick : Shaped s.streamTick := Shaped.returnCredits (Shaped.setStream (by split; exacts [h.put.put, h]))

end

theorem cmdStreamConfig_shaped : CmdShaped cmdStreamConfig :=
  .ofAct rfl rfl fun _ _ _ h => (h.writeImage.ite h.writeImage.loseFlight.put.setLanes.failType)

theorem cmdStreamTrain_shaped : CmdShaped cmdStreamTrain := .ofAct rfl rfl fun _ _ _ h => h.trainStart

theorem cmdStreamGetStatus_shaped : CmdShaped cmdStreamGetStatus := .ofAct rfl rfl fun _ _ _ h => h

theorem cmdStreamMap_shaped : CmdShaped cmdStreamMap := .ofAct rfl rfl fun _ _ _ h => h.setStream

/-! Machine/Sys.lean: its operations keep the sizes of the register files. -/

section
variable {s : State} (h : Shaped s)
include h

theorem Shaped.softReset : Shaped s.softReset := h.resetTo.upd

theorem Shaped.zeroSlabs {owner sub} : Shaped (s.zeroSlabs owner sub) := h.upd

theorem Shaped.resetChan {n} : Shaped (s.resetChan n) := h.atAnaEnable.clearRegs

theorem Shaped.resetCourse : Shaped s.resetCourse := h.clearRegs.courseInit.upd.put.put

theorem Shaped.resetStream : Shaped s.resetStream := h.loseFlight.clearRegs.setStream.failType

theorem Shaped.resetMix : Shaped s.resetMix := h.setTaps.setPend.upd.tapsNote

theorem Shaped.resetBrick {b mt} : Shaped (s.resetBrick b mt) := by
  unfold State.resetBrick
  exact Shaped.brickKernel
      (by split; exacts [Shaped.wr (forEach_shaped (fun _ _ h' => h'.stopJob) h), forEach_shaped (fun _ _ h' => h'.stopJob) h])

theorem Shaped.atBlockReset {mt p} : Shaped (s.atBlockReset mt p) := by
  unfold State.atBlockReset
  dsimp only
  split
  · exact Shaped.clearRegs (Shaped.zoneReset (by split; exacts [(h.bump.ite h.bump.zeroSlabs), h.bump]))
  · exact Shaped.leaders (Shaped.upd (Shaped.clearRegs (Shaped.portHalt
      (by split; exacts [(h.bump.ite h.bump.zeroSlabs), h.bump]))))
  · exact Shaped.resetChan (by split; exacts [(h.bump.ite h.bump.zeroSlabs), h.bump])
  · exact Shaped.ite (by split; exacts [(h.bump.ite h.bump.zeroSlabs), h.bump]) (Shaped.upd (Shaped.clearRegs
      (by split; exacts [(h.bump.ite h.bump.zeroSlabs), h.bump])))
  · exact Shaped.setUart (by split; exacts [(h.bump.ite h.bump.zeroSlabs), h.bump])
  · exact Shaped.resetStream (by split; exacts [(h.bump.ite h.bump.zeroSlabs), h.bump])
  · exact Shaped.resetCourse (by split; exacts [(h.bump.ite h.bump.zeroSlabs), h.bump])
  · exact Shaped.resetBrick (by split; exacts [(h.bump.ite h.bump.zeroSlabs), h.bump])
  · exact Shaped.resetMix (by split; exacts [(h.bump.ite h.bump.zeroSlabs), h.bump])

theorem Shaped.abortAll {mt} : Shaped (s.abortAll mt) := forEach_shaped (fun _ _ h' => h'.stopJob) h

theorem Shaped.lullBegin {mt} : Shaped (s.lullBegin mt) :=
  Shaped.upd (forEach_shaped (fun _ _ h' => (h'.ite h'.portStopAt.setPort)) h.abortAll.outputsInert)

theorem Shaped.atSetState {mt p} : Shaped (s.atSetState mt p) := by
  unfold State.atSetState
  split
  · exact h.changePower.outputsLive
  · exact h.abortAll.outputsInert.changePower
  · exact h.lullBegin
  · exact h.lullBegin
  · exact h

theorem Shaped.configDone {ok} : Shaped (s.configDone ok) := (h.set.put.showRegion.set.ite h.set.put.showRegion.set.set).post

theorem execNorRegionUpdateDone_lands {region ok} : Lands (execNorRegionUpdateDone region ok s) :=
  .next (by split; exacts [h, (h.ite (h.noteErase.upd.upd.ite h.noteErase.upd).configDone)])

theorem execConfigEraseDone_lands {ok} : Lands (execConfigEraseDone ok s) :=
  .next (h.ite (h.noteErase.upd.upd.ite h.noteErase.upd).configDone)

end

theorem cmdSysGetCaps_shaped : CmdShaped cmdSysGetCaps := .ofAct rfl rfl fun _ _ _ h => h

theorem cmdSysGetStatus_shaped : CmdShaped cmdSysGetStatus := .ofAct rfl rfl fun _ _ _ h => h

theorem cmdSysEcho_shaped : CmdShaped cmdSysEcho := .ofAct rfl rfl fun _ _ _ h => h

theorem cmdSoftReset_shaped : CmdShaped cmdSoftReset where
  after _ _ h := h.softReset
  act _ _ _ h := h
  refused _ _ _ h := h

theorem cmdBlockReset_shaped : CmdShaped cmdBlockReset := .ofAct rfl rfl fun _ _ _ h => h

theorem cmdSysSetState_shaped : CmdShaped cmdSysSetState := .ofAct rfl rfl fun _ _ _ h => by
  dsimp only [cmdSysSetState]
  split
  · exact h
  · exact h.upd

theorem cmdSysConfigBuild_shaped : CmdShaped cmdSysConfigBuild := .ofAct rfl rfl fun _ _ _ h => h.upd

theorem cmdSysConfigCommit_shaped : CmdShaped cmdSysConfigCommit where
  act _ _ _ h := by
    dsimp only [cmdSysConfigCommit]
    split
    · exact h
    · split
      · exact h
      · exact h.upd.set.put
  after _ _ h := h.ite h.post
  refused _ _ _ h := h

theorem cmdSysConfigErase_shaped : CmdShaped cmdSysConfigErase := .ofAct rfl rfl fun _ _ _ h => h.upd.set.put

/-! Machine/Audio.lean: its operations keep the sizes of the register files. -/

section
variable {s : State} (h : Shaped s)
include h

theorem Shaped.noteLive {rets b} : Shaped (s.noteLive rets b) := h.upd

theorem Shaped.duckTaps {b} : Shaped (s.duckTaps b) := h.setTaps

theorem Shaped.zoneStages {z b jump} : Shaped (s.zoneStages z b jump) := (h.setZone.set.ite h.setZone).set.put

theorem Shaped.zoneBlock {b jump n} : Shaped (s.zoneBlock b jump n) :=
  (h.ite h.set.put).zoneStages.ite ((h.ite h.set.put).ite (h.ite h.set.put).setZone)

theorem Shaped.zoneAll {b jump} : Shaped (s.zoneAll b jump) := forEach_shaped (fun _ _ h' => h'.zoneBlock) h

end

/-! Machine/Render.lean: its operations keep the sizes of the register files. -/

section
variable {s : State} (h : Shaped s)
include h

theorem Shaped.serveFront {br n} : Shaped (s.serveFront br n) := by
  induction n generalizing s with
  | zero => exact h
  | succ n ih =>
    unfold State.serveFront
    split
    · exact h
    · exact ih h.renderBlock.spendFront

theorem Shaped.serveQueue {br goal n} : Shaped (s.serveQueue br goal n) := by
  induction n generalizing s with
  | zero => exact h
  | succ n ih =>
    unfold State.serveQueue
    split
    · exact h
    split
    · exact h
    split
    · exact ih h.restoreVoice
    dsimp only
    split
    · exact h
    · exact ih h.renderBlock.useReserve

theorem Shaped.serveAll : Shaped s.serveAll := forEach_shaped (fun _ _ h' => (h'.serveQueue.ite h')) h

theorem Shaped.renderPeriod : Shaped s.renderPeriod := Shaped.serveAll (forEach_shaped (fun _ _ h' => (h'.serveFront.ite h')) h)

theorem Shaped.noteStart {j} : Shaped (s.noteStart j) := h.ite (by split; exacts [h, h.postAt.setJob])

theorem Shaped.noteStarts : Shaped s.noteStarts := forEach_shaped (fun _ _ h' => h'.noteStart) h

theorem execRollbackRerender_lands {src} : Lands (execRollbackRerender src s) := .next (h.serveQueue.ite h.callNext)

end

/-! Machine/Outlet.lean: its operations keep the sizes of the register files. -/

section
variable {s : State} (h : Shaped s)
include h

theorem Shaped.toStream {b} : Shaped (s.toStream b) := h.setStream

theorem Shaped.toCourse {b} : Shaped (s.toCourse b) := h.setCourse

theorem Shaped.toPorts {b} : Shaped (s.toPorts b) := forEach_shaped (fun _ _ h' => (h'.set.ite h').portWriteOut) h

theorem Shaped.toAna : Shaped s.toAna := forEach_shaped (fun _ _ h' => h'.anaTick) h

theorem Shaped.transport : Shaped s.transport := h.toStream.toCourse.toPorts.toAna.upd

theorem Shaped.busClips {bus b} : Shaped (s.busClips bus b) := h.wr.upd.post.ite h.wr.upd

theorem Shaped.showLive {b} : Shaped (s.showLive b) := forEach_shaped (fun _ _ h' => h'.wr) h

theorem Shaped.mixBuses {rets b} : Shaped (s.mixBuses rets b) := forEach_shaped (fun _ _ h' => (h'.busClips.ite h')) h.upd

theorem Shaped.countLate {v} : Shaped (s.countLate v) := by
  unfold State.countLate
  dsimp only
  split
  · exact Shaped.setJob (by split; exacts [h.bump.setVoice, h.bump])
  · split
    · exact h.bump.setVoice
    · exact h.bump

theorem Shaped.commitVoice {v b muted} : Shaped (s.commitVoice v b muted) := by
  unfold State.commitVoice
  split
  · exact h
  · extract_lets -underBinder +onlyGivenNames t v
    have ht : Shaped t := by
      unfold t
      split
      · exact h.setJob.ite h
      · exact h
    clear_value t
    split
    · exact ht.upd.setVoice
    · exact ht.setVoice.ite ht.setVoice.countLate

theorem Shaped.rest {v} : Shaped (s.rest v) := h.setVoice.ite h

theorem Shaped.lateEvents {b} : Shaped (s.lateEvents b) := forEach_shaped (fun _ _ h' => h'.post) h

theorem Shaped.shiftCycles : Shaped s.shiftCycles := h.upd

theorem Shaped.shiftReserve : Shaped s.shiftReserve := h.upd

theorem Shaped.commitVoices {b muted} : Shaped (s.commitVoices b muted) :=
  Shaped.upd (forEach_shaped (fun _ _ h' => (h'.ite h'.rest).commitVoice) (h.ite h.lateEvents))

theorem Shaped.sendPass {ahead rets} : Shaped (s.sendPass ahead rets) :=
  h.ite (forEach_shaped (fun _ _ h' => h'.countLate) h.upd.upd)

end

/-! Machine/Jump.lean: its operations keep the sizes of the register files. -/

section
variable {s : State} (h : Shaped s)
include h

theorem Shaped.jumpTimes {d} : Shaped (s.jumpTimes d) := h

theorem Shaped.makeJump {j} : Shaped (s.makeJump j) := by
  unfold State.makeJump
  extract_lets -underBinder +onlyGivenNames t old t2 t3 t4 t5
  have ht : Shaped t := h.jumpTimes
  have ht2 : Shaped t2 := ht.upd
  have ht3 : Shaped t3 := ht2.set.set
  have ht4 : Shaped t4 := ht3.ite ht3.set
  have ht5 : Shaped t5 := by
    unfold t5
    split
    · exact ht4.post
    · exact ht4
  clear_value t t2 t3 t4 t5
  exact forEach_shaped (fun _ _ h' => by split; exacts [h'.timJump, h'.timJump, h']) ht5

theorem Shaped.rebaseVoice {oldHz newHz newBl g v} : Shaped (s.rebaseVoice oldHz newHz newBl g v) := by
  unfold State.rebaseVoice
  split
  extract_lets -underBinder begun f u u' t t'
  have ht : Shaped t' := h.setVoice.putKmem.ite h.setVoice
  clear_value t'
  split
  · exact Shaped.withDp (Datapath.Sized.upd ht)
  · exact ht

theorem Shaped.rateEnds {r} : Shaped (s.rateEnds r) := h.ite (forEach_shaped (fun _ _ h' => by split; exacts [h'.finish, h']) h)

theorem Shaped.rebase {r} : Shaped (s.rebase r) := by
  unfold State.rebase
  extract_lets -underBinder +onlyGivenNames oldHz newHz oldBl newBl m g t mt t2 t3 old t4 t5 family old2 t6 t7 old3 old4 old5
      t8 on t9 t10 old6 t11
  have ht : Shaped t := h.rateEnds
  have ht2 : Shaped t2 := forEach_shaped (fun _ _ h' => h'.rebaseVoice) ht
  have ht3 : Shaped t3 := ht.remap
  have ht4 : Shaped t4 := ht2.upd
  have ht5 : Shaped t5 := ht4.put.put
  have ht6 : Shaped t6 := ht5.upd
  have ht7 : Shaped t7 := ht6.put
  have ht8 : Shaped t8 := ht7.upd
  have ht9 : Shaped t9 := ht8.post
  have ht10 : Shaped t10 := ht9.portsRebase.setUsable
  have ht11 : Shaped t11 := ht10.upd
  clear_value t t2 t3 t4 t5 t6 t7 t8 t9 t10 t11
  exact ht11.set.ite ht11

theorem Shaped.muteTick : Shaped s.muteTick := by
  unfold State.muteTick
  split
  · exact h
  · exact h.ite (h.upd.ite h.upd.set.post)

end

/-! Machine/Tick.lean: its operations keep the sizes of the register files. -/

section
variable {s : State} (h : Shaped s)
include h

theorem Shaped.applyTimed {t mt} : Shaped (s.applyTimed t mt) := by
  unfold State.applyTimed
  extract_lets -underBinder +onlyGivenNames p
  split
  · exact h.atBlockReset
  · exact h.atSetState
  · exact h.atVoiceStop
  · exact h.atJobAbort
  · exact h.atSetPolicy
  · exact h.flushTaps
  · exact h.flushTaps
  · exact h.atMixClear
  · exact h.atSetClass
  · exact h.atSetGen
  · exact h.atRouteAux
  · exact h.atZoneEnable
  · exact h.atZoneInputs
  · exact h.atZoneGate
  · exact h.atZoneAmbient
  · exact h.atZoneEq
  · exact h.atZoneFir
  · exact h.atZoneDyn
  · exact h.atZoneDelay
  · exact h.atZoneGain
  · exact h.atZonePilot
  · exact h.atZoneOutputs
  · exact h.atZoneRestore
  · exact h.atSetGroup
  · exact h.atAnaConfig
  · exact h.atAnaEnable
  · exact h.atAnaRange
  · exact h.atTimStart
  · exact h.atTimStop
  · exact h.atContactOut
  · exact h.atSetRa
  · exact h.post.bump
  · exact h

theorem Shaped.runTimed {t} : Shaped (s.runTimed t) := h.upd.applyTimed.cmdDone.ite h.upd.applyTimed

theorem Shaped.flushTimed : Shaped s.flushTimed := Shaped.flushTaps (forEach_shaped (fun _ _ h' => h'.runTimed) h)

theorem execCommandApply_lands : Lands (execCommandApply s) := .next (h.ite (by split; exacts [h, h.runTimed]))

theorem Shaped.advance : Shaped s.advance.1 := by
  unfold State.advance
  extract_lets -underBinder go t u w
  have hg : Shaped go.1 := by
    unfold go
    split
    · exact h.rebase
    split
    · dsimp only
      exact h.makeJump
    · exact h.upd
  have ht : Shaped t := hg
  clear_value t
  have hu : Shaped u := by
    unfold u
    split
    · exact ht.loadEpoch
    · exact ht
  clear_value u
  have hw : Shaped w := by
    unfold w
    split
    · exact hu.rateBegin.ite hu
    · exact hu
  exact hw

theorem Shaped.twinSigs {b} : Shaped (s.twinSigs b) := h.ite h.courseSend.setCourse.compareAll

theorem Shaped.noteLoad {load top x c} : Shaped (s.noteLoad load top x c) := h.put.put

theorem Shaped.loads {c} : Shaped (s.loads c) :=
  Shaped.noteLoad (Shaped.noteLoad (forEach_shaped (fun _ _ h' => (h'.ite h'.noteLoad.put)) h))

theorem Shaped.mapCrc {c} : Shaped (s.mapCrc c) := h.ite h.wr

theorem Shaped.goldenMiss {p c sig again} : Shaped (s.goldenMiss p c sig again) :=
  h.set.setKernel.ite (h.set.set.put.ite h.set).raise

theorem Shaped.goldenTick {c} : Shaped (s.goldenTick c) :=
  forEach_shaped (fun _ _ h' => ((h'.put.ite h'.put.goldenMiss).ite h')) h.setKernel

theorem Shaped.endVoices {c} : Shaped (s.endVoices c) :=
  forEach_shaped (fun _ _ h' => by split; exacts [h', (h'.endVoice.ite h')]) h

theorem Shaped.mixTick {rets} : Shaped (s.mixTick rets) := by
  unfold State.mixTick
  extract_lets -underBinder +onlyGivenNames c t t2 muted old t3 t4 t5 t6 t7 t8 t9
  have ht : Shaped t := h.shiftCycles
  have ht2 : Shaped t2 := ht.noteLive.showLive.duckTaps
  have ht3 : Shaped t3 := ht2.upd.ite ht2.mixBuses
  have ht4 : Shaped t4 := ht3.sendPass.ite ht3
  have ht5 : Shaped t5 := ht4.commitVoices
  have ht6 : Shaped t6 := ht5.countLost
  have ht7 : Shaped t7 := forEach_shaped (fun _ _ h' => h'.portConsume) ht6
  have ht8 : Shaped t8 := ht7.tapsFree.mapCrc.loads
  have ht9 : Shaped t9 := ht8.endVoices
  clear_value t t2 t3 t4 t5 t6 t7 t8 t9
  exact ht9.setCourse

theorem Shaped.raTick {grown} : Shaped (s.raTick grown) := h.put

theorem Shaped.releasingJobs : Shaped s.releasingJobs := forEach_shaped (fun _ _ h' => (h'.setJob.ite h')) h

theorem Shaped.countGood : Shaped s.countGood := forEach_shaped (fun _ _ h' => (h'.ite h'.setZone)) h

theorem Shaped.blockEvents : Shaped s.blockEvents :=
  Shaped.upd (Shaped.strikeMatch (forEach_shaped (fun _ _ h' => h'.ctPost.timPost) h))

theorem Shaped.blockTick : Shaped s.blockTick :=
  (h.serveAll.set.shiftReserve.advance.zoneAll.twinSigs.dewYield.transport.refTick.freeReported.flushTimed.raTick
    |>.waitTick.dispatch.banksTick.kernelTick.seqTick.streamTick.courseTick.blockEvents.releasingJobs
    |>.renderPeriod.noteStarts.mixTick.muteTick.countGood.goldenTick.callNext)

theorem execBlockTick_lands : Lands (execBlockTick s) := .next (h.blockTick.ite h)

end

/-! Machine/Waiting.lean: its operations keep the sizes of the register files. -/

theorem catalogue_shaped {k} : ∀ c ∈ catalogue k, CmdShaped c := by
  unfold catalogue
  simp only [List.forall_mem_cons]
  exact ⟨cmdSysGetCaps_shaped, cmdSysGetStatus_shaped, by split; exacts [cmdBlockReset_shaped, cmdSoftReset_shaped],
    cmdSysSetState_shaped, cmdSysConfigBuild_shaped, cmdSysConfigCommit_shaped, cmdSysConfigErase_shaped, cmdSysEcho_shaped,
    cmdSafeGetStatus_shaped, cmdSafeGetFaults_shaped, cmdSafeAckFaults_shaped, cmdSafeSetLock_shaped,
    cmdSafeProvision_shaped, cmdSafeRecover_shaped, cmdSafeInject_shaped, cmdSafeUpdate_shaped, cmdSafeUpdateWrite_shaped,
    cmdSafeDebugUnlock_shaped, cmdSnapStrike_shaped, cmdSnapSetSources_shaped, cmdSnapRead_shaped, cmdSnapGetStatus_shaped,
    cmdSlabGetStatus_shaped, cmdSlabRead_shaped, cmdSlabWrite_shaped, cmdSlabRepair_shaped, cmdSlabScrub_shaped,
    cmdTimeGet_shaped, cmdTimeSetEpoch_shaped, cmdTimeSetRate_shaped, cmdTimeSetRefs_shaped, cmdTimeGetRefs_shaped,
    cmdTimeSetRa_shaped, cmdVoiceSetParam_shaped, cmdVoiceGetParams_shaped, cmdVoiceRelease_shaped, cmdVoiceStop_shaped,
    cmdVoiceGetLevels_shaped, cmdVoiceGetStatus_shaped, cmdBankLoad_shaped, cmdBankWrite_shaped, cmdBankUnload_shaped,
    cmdBankVerify_shaped, cmdBankGetInfo_shaped, cmdBankList_shaped, cmdJobSubmit_shaped, cmdJobAbort_shaped,
    cmdJobRelease_shaped, cmdJobGetStatus_shaped, cmdJobList_shaped, cmdJobGetStats_shaped, cmdJobSetPolicy_shaped,
    cmdJobScriptEdit_shaped, cmdJobSquallEnd_shaped, cmdJobArm_shaped, cmdJobDisarm_shaped, cmdJobSetSquall_shaped,
    by split; exacts [cmdMixSetTaps_shaped, cmdMixStageTaps_shaped], cmdMixClear_shaped, cmdMixGetTaps_shaped,
    cmdMixGetBitmap_shaped, cmdMixOpenSet_shaped, cmdMixCommitSet_shaped, cmdMixCancelSet_shaped, cmdMixSetClass_shaped,
    cmdMixSetGen_shaped, cmdMixRouteAux_shaped, cmdMixGetClip_shaped, cmdMixGetStats_shaped, cmdZoneEnable_shaped,
    cmdZoneSetInputs_shaped, cmdZoneSetGate_shaped, cmdZoneSetAmbient_shaped, cmdZoneSetEq_shaped, cmdZoneLoadFir_shaped,
    cmdZoneSetFir_shaped, cmdZoneSetDyn_shaped, cmdZoneSetDelay_shaped, cmdZoneSetGain_shaped, cmdZoneSetPilot_shaped,
    cmdZoneSetOutputs_shaped, cmdZoneRestore_shaped, cmdZoneSetGroup_shaped, cmdZoneGetConfig_shaped,
    cmdZoneGetStatus_shaped, cmdKernelStage_shaped, cmdKernelWrite_shaped, cmdKernelLoad_shaped, cmdKernelRestoreStd_shaped,
    cmdKernelCancel_shaped, cmdKernelGetInfo_shaped, cmdPortConfig_shaped, cmdPortStart_shaped, cmdPortStop_shaped,
    cmdPortSetGroup_shaped, cmdPortSetLength_shaped, cmdPortGetStatus_shaped, cmdAnaConfig_shaped, cmdAnaEnable_shaped,
    cmdAnaSetRange_shaped, cmdAnaTrim_shaped, cmdAnaGetStatus_shaped, cmdTimConfig_shaped, cmdTimStart_shaped,
    cmdTimStop_shaped, cmdTimSetCmp_shaped, cmdTimGet_shaped, cmdUartConfig_shaped, cmdUartEnable_shaped, cmdUartSend_shaped,
    cmdUartRecv_shaped, cmdUartSetFramed_shaped, cmdUartGetStatus_shaped, cmdContactConfig_shaped, cmdContactSetOut_shaped,
    cmdContactGet_shaped, cmdSupvSetPilot_shaped, cmdSupvSetPath_shaped, cmdSupvBaseline_shaped, cmdSupvGetPaths_shaped,
    cmdSupvSetDew_shaped, cmdSupvGetDew_shaped, cmdAgeGetPlan_shaped, cmdAgeGetLog_shaped, cmdAgeSetLimits_shaped,
    cmdAgeGetSensors_shaped, cmdCourseConfig_shaped, cmdCourseGetStatus_shaped, cmdCourseSetOffset_shaped,
    cmdCourseMapGroup_shaped, cmdCourseSetTwin_shaped, cmdStreamConfig_shaped, cmdStreamTrain_shaped,
    cmdStreamGetStatus_shaped, cmdStreamMap_shaped, fun _ e => nomatch e⟩

section
variable {s : State} (h : Shaped s)
include h

theorem Shaped.takeOp {op k} : Shaped (s.takeOp op k) := by
  unfold State.takeOp
  split
  · exact h.takeSquall
  split
  · exact h.takeHandover
  split
  next e => exact kcpExec_shaped h (catalogue_shaped _ (List.mem_of_find?_eq_some e))
  · exact h.takeUnknown

theorem Shaped.takeWaiting : Shaped s.takeWaiting := forEach_shaped (fun _ _ h' => (h'.takeOp.ite h')) h.upd

theorem execReadyRise_lands {bootMs goldenFailed} : Lands (execReadyRise bootMs goldenFailed s) :=
  .next (h.becomeReady.takeWaiting.ite h)

theorem execLullWake_lands {source lclk wakeMs tcmOk bankOk} : Lands (execLullWake source lclk wakeMs tcmOk bankOk s) :=
  .next (h.ite (h.resetTo.ite h.wake.takeWaiting))

end

/-! Machine/Step.lean: its operations keep the sizes of the register files. -/

section
variable {s : State} (h : Shaped s)
include h

theorem Shaped.withPending {q} : Shaped (s.withPending q) := h.upd

end

/-! Every command, and every step. -/

/-- The meaning of every command leaves the register files their sizes. -/
theorem exec_lands {s : State} : ∀ c : Instr, Shaped s → Lands (exec c s)
  | .powerOnReset, h => execPowerOnReset_lands h
  | .pinReset _, h => execPinReset_lands h
  | .resetRelease _, h => execResetRelease_lands h
  | .readyRise _ _, h => execReadyRise_lands h
  | .watchdogExpiry, h => execWatchdogExpiry_lands h
  | .resetDelayExpiry, h => execResetDelayExpiry_lands h
  | .analogueRailLow, h => execAnalogueRailLow_lands h
  | .analogueRailRestore, h => execAnalogueRailRestore_lands h
  | .lullPowerDown, h => execLullPowerDown_lands h
  | .lullWake _ _ _ _ _, h => execLullWake_lands h
  | .spiWriteTransaction _ _, h => execSpiWriteTransaction_lands h
  | .spiReadTransaction _ _, h => execSpiReadTransaction_lands h
  | .registerWrite _ _, h => execRegisterWrite_lands h
  | .registerReadClear _, h => execRegisterReadClear_lands h
  | .mtLoRead _ _, h => execMtLoRead_lands h
  | .seqReset _, h => execSeqReset_lands h
  | .evqAck _, h => execEvqAck_lands h
  | .spiErrCntClr, h => execSpiErrCntClr_lands h
  | .epochArm, h => execEpochArm_lands h
  | .slabHandover _, h => execSlabHandover_lands h
  | .handoverDrainDone _, h => execHandoverDrainDone_lands h
  | .slabNormalWrite _ _ _ _, h => execSlabNormalWrite_lands h
  | .slabSetAliasWrite _ _ _ _, h => execSlabSetAliasWrite_lands h
  | .slabClearAliasWrite _ _ _ _, h => execSlabClearAliasWrite_lands h
  | .uartTxdWrite _ _, h => execUartTxdWrite_lands h
  | .uartRxdRead _, h => execUartRxdRead_lands h
  | .timCmpWrite _ _ _, h => execTimCmpWrite_lands h
  | .timPeriodWrite _ _, h => execTimPeriodWrite_lands h
  | .sysGetCaps _, h => .next (kcpExec_shaped h cmdSysGetCaps_shaped)
  | .sysGetStatus _, h => .next (kcpExec_shaped h cmdSysGetStatus_shaped)
  | .sysReset _, h => .next (kcpExec_shaped h (by split; exacts [cmdBlockReset_shaped, cmdSoftReset_shaped]))
  | .sysSetState _, h => .next (kcpExec_shaped h cmdSysSetState_shaped)
  | .sysConfigBuild _, h => .next (kcpExec_shaped h cmdSysConfigBuild_shaped)
  | .sysConfigCommit _, h => .next (kcpExec_shaped h cmdSysConfigCommit_shaped)
  | .sysConfigErase _, h => .next (kcpExec_shaped h cmdSysConfigErase_shaped)
  | .norRegionUpdateDone _ _, h => execNorRegionUpdateDone_lands h
  | .sysEcho _, h => .next (kcpExec_shaped h cmdSysEcho_shaped)
  | .safeGetStatus _, h => .next (kcpExec_shaped h cmdSafeGetStatus_shaped)
  | .safeGetFaults _, h => .next (kcpExec_shaped h cmdSafeGetFaults_shaped)
  | .safeAckFaults _, h => .next (kcpExec_shaped h cmdSafeAckFaults_shaped)
  | .safeSetLock _, h => .next (kcpExec_shaped h cmdSafeSetLock_shaped)
  | .safeProvision _, h => .next (kcpExec_shaped h cmdSafeProvision_shaped)
  | .safeRecover _, h => .next (kcpExec_shaped h cmdSafeRecover_shaped)
  | .safeInject _, h => .next (kcpExec_shaped h cmdSafeInject_shaped)
  | .safeUpdate _, h => .next (kcpExec_shaped h cmdSafeUpdate_shaped)
  | .safeUpdateWrite _, h => .next (kcpExec_shaped h cmdSafeUpdateWrite_shaped)
  | .safeUpdateImageComplete _, h => execSafeUpdateImageComplete_lands h
  | .safeDebugUnlock _, h => .next (kcpExec_shaped h cmdSafeDebugUnlock_shaped)
  | .snapStrike _, h => .next (kcpExec_shaped h cmdSnapStrike_shaped)
  | .snapSetSources _, h => .next (kcpExec_shaped h cmdSnapSetSources_shaped)
  | .snapRead _, h => .next (kcpExec_shaped h cmdSnapRead_shaped)
  | .snapGetStatus _, h => .next (kcpExec_shaped h cmdSnapGetStatus_shaped)
  | .slabGetStatus _, h => .next (kcpExec_shaped h cmdSlabGetStatus_shaped)
  | .slabRead _, h => .next (kcpExec_shaped h cmdSlabRead_shaped)
  | .slabWrite _, h => .next (kcpExec_shaped h cmdSlabWrite_shaped)
  | .slabRepair _, h => .next (kcpExec_shaped h cmdSlabRepair_shaped)
  | .slabScrub _, h => .next (kcpExec_shaped h cmdSlabScrub_shaped)
  | .slabScrubPassDone _ _ _ _, h => execSlabScrubPassDone_lands h
  | .timeGet _, h => .next (kcpExec_shaped h cmdTimeGet_shaped)
  | .timeSetEpoch _, h => .next (kcpExec_shaped h cmdTimeSetEpoch_shaped)
  | .timeSetRate _, h => .next (kcpExec_shaped h cmdTimeSetRate_shaped)
  | .timeSetRefs _, h => .next (kcpExec_shaped h cmdTimeSetRefs_shaped)
  | .timeGetRefs _, h => .next (kcpExec_shaped h cmdTimeGetRefs_shaped)
  | .timeSetRa _, h => .next (kcpExec_shaped h cmdTimeSetRa_shaped)
  | .timeMessage _ _ _, h => execTimeMessage_lands h
  | .refEdge _ _ _, h => execRefEdge_lands h
  | .refEdgeTimeout _, h => execRefEdgeTimeout_lands h
  | .refQualified _, h => execRefQualified_lands h
  | .slewDone, h => execSlewDone_lands h
  | .ppsEdge _ _, h => execPpsEdge_lands h
  | .ppsLoss, h => execPpsLoss_lands h
  | .blockTick, h => execBlockTick_lands h
  | .rateChangeStart, h => execRateChangeStart_lands h
  | .mpllRelockDone _, h => execMpllRelockDone_lands h
  | .maxWaitExpiry _, h => execMaxWaitExpiry_lands h
  | .ambientEstimate _, h => execAmbientEstimate_lands h
  | .fallbackSwitch _ _, h => execFallbackSwitch_lands h
  | .fallbackAutoRestore _ _, h => execFallbackAutoRestore_lands h
  | .zoneDrainDone _, h => execZoneDrainDone_lands h
  | .tileCrcCheckDone _ _, h => execTileCrcCheckDone_lands h
  | .rollbackRerender _, h => execRollbackRerender_lands h
  | .kernelBudgetExpiry _ _, h => execKernelBudgetExpiry_lands h
  | .illegalWord _ _, h => execIllegalWord_lands h
  | .nop _ _, h => execNop_lands h
  | .mul _ _ _ _ _ _, h => execMul_lands h
  | .mad _ _ _ _ _ _, h => execMad_lands h
  | .mul4 _ _ _, h => execMul4_lands h
  | .mad4 _ _ _, h => execMad4_lands h
  | .fir4 _ _ _, h => execFir4_lands h
  | .zero4 _ _, h => execZero4_lands h
  | .addw _ _ os _ _, h => execAddw_lands (os := os) h
  | .subw _ _ os _ _, h => execSubw_lands (os := os) h
  | .negw _ ws os _ _, h => execNegw_lands (ws := ws) (os := os) h
  | .absw _ ws os _ _, h => execAbsw_lands (ws := ws) (os := os) h
  | .zeroW _ ws os _ _, h => execZeroW_lands (ws := ws) (os := os) h
  | .wld _ ws _ _ _, h => execWld_lands (ws := ws) h
  | .wst _ ws _ _ _, h => execWst_lands (ws := ws) h
  | .rndw _ ws os _ _, h => execRndw_lands (ws := ws) (os := os) h
  | .shw _ _ _ _, h => execShw_lands h
  | .addwi _ _ _ _, h => execAddwi_lands h
  | .andOp _ _ imm _ _, h => execAndOp_lands (imm := imm) h
  | .orOp _ _ imm _ _, h => execOrOp_lands (imm := imm) h
  | .xorOp _ _ imm _ _, h => execXorOp_lands (imm := imm) h
  | .lsh _ os _ _ _, h => execLsh_lands (os := os) h
  | .amov _ _ _ _, h => execAmov_lands h
  | .padd _ _ _ _, h => execPadd_lands h
  | .setcfg _ _ _, h => execSetcfg_lands h
  | .rdfl _ os imm _ _, h => execRdfl_lands (os := os) (imm := imm) h
  | .clrfl _ _ _, h => execClrfl_lands h
  | .ldo _ _, h => execLdo_lands h
  | .lda _ _, h => execLda_lands h
  | .jmp _ _ _, h => execJmp_lands h
  | .jeq _ _ _ _, h => execJeq_lands h
  | .jne _ _ _ _, h => execJne_lands h
  | .jlt _ _ _ _, h => execJlt_lands h
  | .jge _ _ _ _, h => execJge_lands h
  | .jle _ _ _ _, h => execJle_lands h
  | .jgt _ _ _ _, h => execJgt_lands h
  | .cntb _ _ _ _, h => execCntb_lands h
  | .rpn _ _ _, h => execRpn_lands h
  | .rpni _ _ _, h => execRpni_lands h
  | .jsr _ _ _, h => execJsr_lands h
  | .ret _ _, h => execRet_lands h
  | .doneOp _ _, h => execDoneOp_lands h
  | .endOp _, h => execEndOp_lands h
  | .tileOp _ _ _, h => execTileOp_lands h
  | .gap _ _, h => execGap_lands h
  | .joinOp _ _ _ _ _ _, h => execJoinOp_lands h
  | .pitch _ _, h => execPitch_lands h
  | .tempo _ _, h => execTempo_lands h
  | .levelOp _ _, h => execLevelOp_lands h
  | .tone _ _ _ _, h => execTone_lands h
  | .sync _ _ _ _ _ _, h => execSync_lands h
  | .syncSatisfied _ _, h => execSyncSatisfied_lands h
  | .loopOp _ _ _, h => execLoopOp_lands h
  | .lang _ _ _, h => execLang_lands h
  | .tileDecisionPoint _, h => execTileDecisionPoint_lands h
  | .tileBoundary _, h => execTileBoundary_lands h
  | .commandApply, h => execCommandApply_lands h
  | .voiceSetParam _, h => .next (kcpExec_shaped h cmdVoiceSetParam_shaped)
  | .voiceGetParams _, h => .next (kcpExec_shaped h cmdVoiceGetParams_shaped)
  | .voiceRelease _, h => .next (kcpExec_shaped h cmdVoiceRelease_shaped)
  | .voiceStop _, h => .next (kcpExec_shaped h cmdVoiceStop_shaped)
  | .voiceGetLevels _, h => .next (kcpExec_shaped h cmdVoiceGetLevels_shaped)
  | .voiceGetStatus _, h => .next (kcpExec_shaped h cmdVoiceGetStatus_shaped)
  | .bankLoad _, h => .next (kcpExec_shaped h cmdBankLoad_shaped)
  | .bankWrite _, h => .next (kcpExec_shaped h cmdBankWrite_shaped)
  | .bankImageComplete _, h => execBankImageComplete_lands h
  | .bankUnload _, h => .next (kcpExec_shaped h cmdBankUnload_shaped)
  | .bankVerify _, h => .next (kcpExec_shaped h cmdBankVerify_shaped)
  | .bankVerifyDone _, h => execBankVerifyDone_lands h
  | .bankGetInfo _, h => .next (kcpExec_shaped h cmdBankGetInfo_shaped)
  | .bankList _, h => .next (kcpExec_shaped h cmdBankList_shaped)
  | .jobSubmit _, h => .next (kcpExec_shaped h cmdJobSubmit_shaped)
  | .jobAbort _, h => .next (kcpExec_shaped h cmdJobAbort_shaped)
  | .jobRelease _, h => .next (kcpExec_shaped h cmdJobRelease_shaped)
  | .jobGetStatus _, h => .next (kcpExec_shaped h cmdJobGetStatus_shaped)
  | .jobList _, h => .next (kcpExec_shaped h cmdJobList_shaped)
  | .jobGetStats _, h => .next (kcpExec_shaped h cmdJobGetStats_shaped)
  | .jobSetPolicy _, h => .next (kcpExec_shaped h cmdJobSetPolicy_shaped)
  | .jobScriptEdit _, h => .next (kcpExec_shaped h cmdJobScriptEdit_shaped)
  | .jobSquall _, h => execJobSquall_lands h
  | .jobSquallEnd _, h => .next (kcpExec_shaped h cmdJobSquallEnd_shaped)
  | .jobArm _, h => .next (kcpExec_shaped h cmdJobArm_shaped)
  | .jobDisarm _, h => .next (kcpExec_shaped h cmdJobDisarm_shaped)
  | .jobSetSquall _, h => .next (kcpExec_shaped h cmdJobSetSquall_shaped)
  | .mixSetTaps _, h => .next (kcpExec_shaped h (by split; exacts [cmdMixSetTaps_shaped, cmdMixStageTaps_shaped]))
  | .mixClear _, h => .next (kcpExec_shaped h cmdMixClear_shaped)
  | .mixGetTaps _, h => .next (kcpExec_shaped h cmdMixGetTaps_shaped)
  | .mixGetBitmap _, h => .next (kcpExec_shaped h cmdMixGetBitmap_shaped)
  | .mixOpenSet _, h => .next (kcpExec_shaped h cmdMixOpenSet_shaped)
  | .mixCommitSet _, h => .next (kcpExec_shaped h cmdMixCommitSet_shaped)
  | .mixCancelSet _, h => .next (kcpExec_shaped h cmdMixCancelSet_shaped)
  | .mixSetClass _, h => .next (kcpExec_shaped h cmdMixSetClass_shaped)
  | .mixSetGen _, h => .next (kcpExec_shaped h cmdMixSetGen_shaped)
  | .mixRouteAux _, h => .next (kcpExec_shaped h cmdMixRouteAux_shaped)
  | .mixGetClip _, h => .next (kcpExec_shaped h cmdMixGetClip_shaped)
  | .mixGetStats _, h => .next (kcpExec_shaped h cmdMixGetStats_shaped)
  | .zoneEnable _, h => .next (kcpExec_shaped h cmdZoneEnable_shaped)
  | .zoneSetInputs _, h => .next (kcpExec_shaped h cmdZoneSetInputs_shaped)
  | .zoneSetGate _, h => .next (kcpExec_shaped h cmdZoneSetGate_shaped)
  | .zoneSetAmbient _, h => .next (kcpExec_shaped h cmdZoneSetAmbient_shaped)
  | .zoneSetEq _, h => .next (kcpExec_shaped h cmdZoneSetEq_shaped)
  | .zoneLoadFir _, h => .next (kcpExec_shaped h cmdZoneLoadFir_shaped)
  | .zoneSetFir _, h => .next (kcpExec_shaped h cmdZoneSetFir_shaped)
  | .zoneSetDyn _, h => .next (kcpExec_shaped h cmdZoneSetDyn_shaped)
  | .zoneSetDelay _, h => .next (kcpExec_shaped h cmdZoneSetDelay_shaped)
  | .zoneSetGain _, h => .next (kcpExec_shaped h cmdZoneSetGain_shaped)
  | .zoneSetPilot _, h => .next (kcpExec_shaped h cmdZoneSetPilot_shaped)
  | .zoneSetOutputs _, h => .next (kcpExec_shaped h cmdZoneSetOutputs_shaped)
  | .zoneRestore _, h => .next (kcpExec_shaped h cmdZoneRestore_shaped)
  | .zoneSetGroup _, h => .next (kcpExec_shaped h cmdZoneSetGroup_shaped)
  | .zoneGetConfig _, h => .next (kcpExec_shaped h cmdZoneGetConfig_shaped)
  | .zoneGetStatus _, h => .next (kcpExec_shaped h cmdZoneGetStatus_shaped)
  | .kernelStage _, h => .next (kcpExec_shaped h cmdKernelStage_shaped)
  | .kernelWrite _, h => .next (kcpExec_shaped h cmdKernelWrite_shaped)
  | .kernelImageComplete, h => execKernelImageComplete_lands h
  | .kernelLoad _, h => .next (kcpExec_shaped h cmdKernelLoad_shaped)
  | .kernelRestoreStd _, h => .next (kcpExec_shaped h cmdKernelRestoreStd_shaped)
  | .kernelBrickLoad _, h => execKernelBrickLoad_lands h
  | .kernelCancel _, h => .next (kcpExec_shaped h cmdKernelCancel_shaped)
  | .kernelGetInfo _, h => .next (kcpExec_shaped h cmdKernelGetInfo_shaped)
  | .portConfig _, h => .next (kcpExec_shaped h cmdPortConfig_shaped)
  | .portStart _, h => .next (kcpExec_shaped h cmdPortStart_shaped)
  | .portStop _, h => .next (kcpExec_shaped h cmdPortStop_shaped)
  | .portSetGroup _, h => .next (kcpExec_shaped h cmdPortSetGroup_shaped)
  | .portSetLength _, h => .next (kcpExec_shaped h cmdPortSetLength_shaped)
  | .portGetStatus _, h => .next (kcpExec_shaped h cmdPortGetStatus_shaped)
  | .aportFrameBoundary _ _, h => execAportFrameBoundary_lands h
  | .aportInputFrame _ _ _, h => execAportInputFrame_lands h
  | .aportDataStart _, h => execAportDataStart_lands h
  | .aportStopDone _, h => execAportStopDone_lands h
  | .aportFsTimeout _, h => execAportFsTimeout_lands h
  | .aportClockBack _, h => execAportClockBack_lands h
  | .aportRateMeasure _ _, h => execAportRateMeasure_lands h
  | .anaConfig _, h => .next (kcpExec_shaped h cmdAnaConfig_shaped)
  | .anaEnable _, h => .next (kcpExec_shaped h cmdAnaEnable_shaped)
  | .anaSetRange _, h => .next (kcpExec_shaped h cmdAnaSetRange_shaped)
  | .anaTrim _, h => .next (kcpExec_shaped h cmdAnaTrim_shaped)
  | .anaGetStatus _, h => .next (kcpExec_shaped h cmdAnaGetStatus_shaped)
  | .anaUpdate _ _, h => execAnaUpdate_lands h
  | .anaSettleDone _, h => execAnaSettleDone_lands h
  | .anaMuteRampDone _, h => execAnaMuteRampDone_lands h
  | .anaComplianceDetect _, h => execAnaComplianceDetect_lands h
  | .anaComplianceClear _, h => execAnaComplianceClear_lands h
  | .anaLoadWindow _ _, h => execAnaLoadWindow_lands h
  | .anaTrimChannelDone _ _, h => execAnaTrimChannelDone_lands h
  | .timConfig _, h => .next (kcpExec_shaped h cmdTimConfig_shaped)
  | .timStart _, h => .next (kcpExec_shaped h cmdTimStart_shaped)
  | .timStop _, h => .next (kcpExec_shaped h cmdTimStop_shaped)
  | .timSetCmp _, h => .next (kcpExec_shaped h cmdTimSetCmp_shaped)
  | .timGet _, h => .next (kcpExec_shaped h cmdTimGet_shaped)
  | .timerClock _, h => execTimerClock_lands h
  | .timerLinkAction _, h => execTimerLinkAction_lands h
  | .timerPulseEnd _, h => execTimerPulseEnd_lands h
  | .uartConfig _, h => .next (kcpExec_shaped h cmdUartConfig_shaped)
  | .uartEnable _, h => .next (kcpExec_shaped h cmdUartEnable_shaped)
  | .uartSend _, h => .next (kcpExec_shaped h cmdUartSend_shaped)
  | .uartRecv _, h => .next (kcpExec_shaped h cmdUartRecv_shaped)
  | .uartSetFramed _, h => .next (kcpExec_shaped h cmdUartSetFramed_shaped)
  | .uartGetStatus _, h => .next (kcpExec_shaped h cmdUartGetStatus_shaped)
  | .uartCharReceived _ _ _ _ _ _, h => execUartCharReceived_lands h
  | .xoffGenerate _, h => execXoffGenerate_lands h
  | .uartCharSent _, h => execUartCharSent_lands h
  | .deRelease, h => execDeRelease_lands h
  | .uartBreakDetect _, h => execUartBreakDetect_lands h
  | .uartLineStuckDetect _, h => execUartLineStuckDetect_lands h
  | .uartWakeEdge _, h => execUartWakeEdge_lands h
  | .uartKcpFrame _ _, h => execUartKcpFrame_lands h
  | .uartFrameGapTimeout, h => execUartFrameGapTimeout_lands h
  | .contactConfig _, h => .next (kcpExec_shaped h cmdContactConfig_shaped)
  | .contactSetOut _, h => .next (kcpExec_shaped h cmdContactSetOut_shaped)
  | .contactGet _, h => .next (kcpExec_shaped h cmdContactGet_shaped)
  | .contactSenseWindow _, h => execContactSenseWindow_lands h
  | .supvSetPilot _, h => .next (kcpExec_shaped h cmdSupvSetPilot_shaped)
  | .supvSetPath _, h => .next (kcpExec_shaped h cmdSupvSetPath_shaped)
  | .supvBaseline _, h => .next (kcpExec_shaped h cmdSupvBaseline_shaped)
  | .baselineTimeout, h => execBaselineTimeout_lands h
  | .supvGetPaths _, h => .next (kcpExec_shaped h cmdSupvGetPaths_shaped)
  | .supvSetDew _, h => .next (kcpExec_shaped h cmdSupvSetDew_shaped)
  | .supvGetDew _, h => .next (kcpExec_shaped h cmdSupvGetDew_shaped)
  | .pilotWindowEnd _ _ _, h => execPilotWindowEnd_lands h
  | .avuHop _ _ _ _ _ _ _, h => execAvuHop_lands h
  | .avuPathFault _, h => execAvuPathFault_lands h
  | .avuPathOk _, h => execAvuPathOk_lands h
  | .avuPathChange _, h => execAvuPathChange_lands h
  | .dewWindowOpen, h => execDewWindowOpen_lands h
  | .dewStepDone _ _, h => execDewStepDone_lands h
  | .dewRestart _, h => execDewRestart_lands h
  | .dewWindowClose, h => execDewWindowClose_lands h
  | .ageGetPlan _, h => .next (kcpExec_shaped h cmdAgeGetPlan_shaped)
  | .ageGetLog _, h => .next (kcpExec_shaped h cmdAgeGetLog_shaped)
  | .ageSetLimits _, h => .next (kcpExec_shaped h cmdAgeSetLimits_shaped)
  | .ageGetSensors _, h => .next (kcpExec_shaped h cmdAgeGetSensors_shaped)
  | .ageHour, h => execAgeHour_lands h
  | .derateRelease, h => execDerateRelease_lands h
  | .eclkChange, h => execEclkChange_lands h
  | .avsReadback _ _ _, h => execAvsReadback_lands h
  | .ringSensorRead _, h => execRingSensorRead_lands h
  | .thermalRead _, h => execThermalRead_lands h
  | .canaryRead _, h => execCanaryRead_lands h
  | .courseConfig _, h => .next (kcpExec_shaped h cmdCourseConfig_shaped)
  | .courseGetStatus _, h => .next (kcpExec_shaped h cmdCourseGetStatus_shaped)
  | .courseSetOffset _, h => .next (kcpExec_shaped h cmdCourseSetOffset_shaped)
  | .courseMapGroup _, h => .next (kcpExec_shaped h cmdCourseMapGroup_shaped)
  | .courseSetTwin _, h => .next (kcpExec_shaped h cmdCourseSetTwin_shaped)
  | .courseFrameSend, h => execCourseFrameSend_lands h
  | .courseFrameReceived _ _, h => execCourseFrameReceived_lands h
  | .courseMsgStatus _ _ _ _ _ _, h => execCourseMsgStatus_lands h
  | .courseMsgTopo _ _ ring, h => execCourseMsgTopo_lands (ring := ring) h
  | .courseMsgTime _ _, h => execCourseMsgTime_lands h
  | .courseMsgSquall _ _, h => execCourseMsgSquall_lands h
  | .courseMsgSiteJob _ _ _ _ _, h => execCourseMsgSiteJob_lands h
  | .courseMsgSiteCmd _ _ _ _, h => execCourseMsgSiteCmd_lands h
  | .courseMsgGroupMap _ _ _, h => execCourseMsgGroupMap_lands h
  | .courseMsgStrike _ _ _, h => execCourseMsgStrike_lands h
  | .courseMsgSig _ _ _, h => execCourseMsgSig_lands h
  | .courseMsgPartDone _ _ _, h => execCourseMsgPartDone_lands h
  | .courseMsgMigrate _ _ _, h => execCourseMsgMigrate_lands h
  | .coursePortDown _, h => execCoursePortDown_lands h
  | .coursePortUp _, h => execCoursePortUp_lands h
  | .keystoneLost, h => execKeystoneLost_lands h
  | .twinCheckDone _, h => execTwinCheckDone_lands h
  | .twinTakeoverStart, h => execTwinTakeoverStart_lands h
  | .streamConfig _, h => .next (kcpExec_shaped h cmdStreamConfig_shaped)
  | .streamTrain _, h => .next (kcpExec_shaped h cmdStreamTrain_shaped)
  | .streamTrainingDone _ _ _ _, h => execStreamTrainingDone_lands h
  | .streamGetStatus _, h => .next (kcpExec_shaped h cmdStreamGetStatus_shaped)
  | .streamMap _, h => .next (kcpExec_shaped h cmdStreamMap_shaped)
  | .streamFlitReceived _ _ _, h => execStreamFlitReceived_lands h
  | .streamAudioFrameRx _ _ _ _, h => execStreamAudioFrameRx_lands h
  | .streamAudioFrameTx, h => execStreamAudioFrameTx_lands h
  | .streamLaneFail _ _, h => execStreamLaneFail_lands h
  | .streamClockAbsent, h => execStreamClockAbsent_lands h
  | .strikeInEdge _, h => execStrikeInEdge_lands h
  | .strikeLatch, h => execStrikeLatch_lands h
  | .strikeComplete _, h => execStrikeComplete_lands h
  | .safetyDetection _ _ _ _ _, h => execSafetyDetection_lands h
  | .faultLogWrite, h => execFaultLogWrite_lands h
  | .safeAliveToggle _, h => execSafeAliveToggle_lands h
  | .bankRetrain _, h => execBankRetrain_lands h
  | .bankAvailable, h => execBankAvailable_lands h
  | .vaultWordRestore _ _, h => execVaultWordRestore_lands h
  | .scrubWord _ _ _ _, h => execScrubWord_lands h
  | .scrubStarved, h => execScrubStarved_lands h
  | .marchWindow _ _ _, h => execMarchWindow_lands h
  | .testStarved, h => execTestStarved_lands h
  | .bankPatrolRead _ _, h => execBankPatrolRead_lands h
  | .mpllLossOfLock, h => execMpllLossOfLock_lands h
  | .courseLaneAlignmentLoss _ _, h => execCourseLaneAlignmentLoss_lands h
  | .uartFalseStart _, h => execUartFalseStart_lands h
  | .uartLineReturnToIdle _, h => execUartLineReturnToIdle_lands h
  | .squallSequenceTimeout, h => execSquallSequenceTimeout_lands h
  | .injectedFaultHoldExpiry _, h => execInjectedFaultHoldExpiry_lands h
  | .fieldRepairComplete _ _, h => execFieldRepairComplete_lands h
  | .configEraseDone _, h => execConfigEraseDone_lands h

theorem step_lands {s : State} (h : Shaped s) : Lands (step s) := by
  unfold step
  split
  · exact .next h
  · exact exec_lands _ h.withPending

/-- Settles O41: reset makes the register files with their sizes, and no command changes the sizes. -/
theorem kernelRegistersShape : Obligations.KernelRegistersShape := by
  unfold Obligations.KernelRegistersShape
  rintro _ rfl
  exact ⟨reset_shaped, fun s t h e => step_lands (s := s) h t e⟩

end Sys2Proof.Machine
end

/-! SUPPORT and CERTIFICATES. Every command completes; and the reset of a mailbox's sequence space: at once, behind the response of a
busy mailbox, and at every reset. -/

section
namespace Sys2Proof.Machine

/-- Settles O2: what the lemma about each command's meaning says of the queue and the variant. -/
theorem everyCommandCompletes : Obligations.EveryCommandCompletes := by
  intro c s
  obtain ⟨t, ht, hvariant, hpending, -⟩ := exec_keeps c (Keeps.refl (!movesMediaTime c) s)
  exact ⟨t, ht, hpending, hvariant⟩

/-! The reset of a sequence space (R278, R279). -/

/-- The host block's record with the sequence space of a channel reset. -/
def HostSt.seqCleared (h : HostSt) (m : Nat) : HostSt :=
  { h with caches := h.caches.filter fun p => p.1 ≠ m, seqReset := h.seqReset.filter fun x => x ≠ m }

theorem State.clearSeq_host (s : State) (m : Nat) : (s.clearSeq m).host = s.host.seqCleared m := by
  unfold State.clearSeq
  dsimp only
  split <;> rfl

/-- The caches after a reset of a channel's sequence space: none of its own, and those of the other channels. -/
theorem State.clearSeq_cacheOf (s : State) (m c : Nat) : (s.clearSeq m).cacheOf c = if c = m then [] else s.cacheOf c := by
  rw [State.cacheOf, State.clearSeq_host, HostSt.seqCleared, List.filter_filter]
  split
  · next e =>
    subst e
    rw [List.filter_eq_nil_iff.2 (by simp), List.map_nil]
  · next hc =>
    rw [State.cacheOf]
    congr 1
    refine List.filter_congr fun p _ => ?_
    by_cases hp : p.1 = c <;> simp [hp, hc]

/-- A mailbox's LAST and its request for a reset are clear behind the reset of its sequence space, and nothing else is written. -/
theorem State.clearSeq_stores (s : State) {m : Nat} (h : m < 4) :
    onlyStores [(F.MB_SEQ_LAST m, 0), (F.MB_SEQ_LAST_VALID m, 0), (F.MB_CTRL_SEQ_RESET m, 0)] { s with host := s.host.seqCleared m }
      (s.clearSeq m) := by
  have hw : s.clearSeq m = ((({ s with host := s.host.seqCleared m }.put (F.MB_SEQ_LAST m) 0).set (F.MB_SEQ_LAST_VALID m)
    false).set (F.MB_CTRL_SEQ_RESET m) false) := if_pos h
  rw [hw]
  exact ((onlyStores.one _ (F.MB_SEQ_LAST m) 0 0 (by simp [F.MB_SEQ_LAST]) rfl).set (F.MB_SEQ_LAST_VALID m) false
    (by simp [F.MB_SEQ_LAST_VALID]) rfl (by simp [F.MB_SEQ_LAST, F.MB_SEQ_LAST_VALID])).set (F.MB_CTRL_SEQ_RESET m) false
    (by simp [F.MB_CTRL_SEQ_RESET]) rfl (by
      simp [F.MB_SEQ_LAST, F.MB_SEQ_LAST_VALID, F.MB_CTRL_SEQ_RESET, R.MB_SEQ, R.MB_CTRL])

theorem exec_seqReset_of_idle {s : State} {m : Fin 4} (h : s.get (F.MB_STAT_STATE m) ≠ 1) :
    exec (.seqReset m) s = .next (s.clearSeq m) := congrArg Host.Outcome.next (if_neg h)

theorem exec_seqReset_of_busy {s : State} {m : Fin 4} (h : s.get (F.MB_STAT_STATE m) = 1) : exec (.seqReset m) s =
    .next { s.set (F.MB_CTRL_SEQ_RESET m) with
      host := { s.host with seqReset := m.val :: s.host.seqReset.filter fun x => x ≠ m.val } } :=
  congrArg Host.Outcome.next (if_pos h)

/-- A response on a channel whose reset waits makes the reset behind it. -/
theorem State.respond_of_seqReset {s : State} {r : Response} (h : r.chan ∈ s.host.seqReset) :
    s.respond r = (State.deliver { s with host := s.host.responding r } r).clearSeq r.chan := by
  obtain ⟨l, hl⟩ := State.deliver_host { s with host := s.host.responding r } r
  rw [State.respond_eq, if_pos (by rw [hl]; simpa [HostSt.responding] using h)]

/-- No kind keeps the sequence register of a mailbox (R487). -/
theorem State.keptWord_seq {s : State} {k : ResetKind} {m : Nat} (h : m < 4) (w : Nat) : s.keptWord k (R.MB_SEQ m) w = none := by
  obtain rfl | rfl | rfl | rfl : m = 0 ∨ m = 1 ∨ m = 2 ∨ m = 3 := by omega
  all_goals simp +decide [State.keptWord]

/-- After a reset no mailbox shows a recorded sequence number. -/
theorem State.resetTo_last (s : State) (k : ResetKind) {m : Nat} (h : m < 4) : (s.resetTo k).get (F.MB_SEQ_LAST_VALID m) = 0 := by
  have hapart : ∀ f ∈ [F.HOST_STATUS_PSTATE, F.SYS_STATE_PSTATE, F.HOST_STATUS_RESET_KIND, F.SYS_STATE_RESET_KIND],
      f.addr ≠ R.MB_SEQ m := by
    simp only [List.forall_mem_cons, F.HOST_STATUS_PSTATE, F.SYS_STATE_PSTATE, F.HOST_STATUS_RESET_KIND, F.SYS_STATE_RESET_KIND,
      R.HOST_STATUS, R.SYS_STATE, R.MB_SEQ]
    exact ⟨by omega, by omega, by omega, by omega, fun _ h => nomatch h⟩
  rw [State.resetTo_get (.inl (by simp only [F.MB_SEQ_LAST_VALID, R.MB_SEQ]; omega)),
    (s.resetShown_stores k).2.2.get _ fun f hf => .inl (hapart f hf)]
  refine (congrArg (bits · _ _) (State.afterReset_rd_of_reset (State.keptWord_seq h))).trans ?_
  show bits (regReset s.variant (R.MB_SEQ m)) 16 1 = 0
  obtain rfl | rfl | rfl | rfl : m = 0 ∨ m = 1 ∨ m = 2 ∨ m = 3 := by omega
  all_goals cases s.variant <;> decide

/-- Settles O12: a reset of a sequence space at once, behind the response of a busy mailbox, and by a reset of the device. -/
theorem sequenceReset : Obligations.SequenceReset := by
  unfold Obligations.SequenceReset
  refine ⟨fun s m => ⟨fun h => ?_, fun h => ?_⟩, fun s r h hr => ?_, fun s k => ⟨?_, fun m h => s.resetTo_last k h⟩⟩
  · refine ⟨_, exec_seqReset_of_idle h, ?_, fun c hc => ?_, ?_, ?_⟩
    · rw [State.clearSeq_cacheOf, if_pos rfl]
    · rw [State.clearSeq_cacheOf, if_neg hc]
    · rw [State.clearSeq_host]
      rfl
    · rw [State.clearSeq_host]
      exact s.clearSeq_stores m.isLt
  · exact ⟨_, exec_seqReset_of_busy h, List.mem_cons_self, rfl,
      .oneSet { s with host := _ } (F.MB_CTRL_SEQ_RESET m) true (by simp [F.MB_CTRL_SEQ_RESET]) rfl⟩
  · rw [State.respond_of_seqReset hr]
    refine ⟨?_, ?_, ?_⟩
    · rw [State.clearSeq_cacheOf, if_pos rfl]
    · exact (State.clearSeq_stores _ h).2.1 (F.MB_SEQ_LAST_VALID r.chan, 0) (by simp)
    · simp [State.clearSeq_host, HostSt.seqCleared]
  · rw [State.resetTo_frame]
    rfl

end Sys2Proof.Machine
end

/-! SUPPORT and CERTIFICATES. A command of the protocol that is not executed: it waits, is answered from the cache, as a duplicate or
with the first failing check; and a command that waited is found by its opcode. -/

section
namespace Sys2Proof.Machine

/-! The catalogue by opcode (R293–R318). -/

/-- The entry of a row stands in the catalogue. -/
theorem mem_catalogue {i : Instr} {c : Cmd} {k : Kcp} (h : commandOf i = some (c, k)) : c ∈ catalogue k := by
  rw [catalogue]
  cases i <;> cases h <;> simp only [List.mem_cons, true_or, or_true]

theorem resetEntry_opcode (p : Prop) [Decidable p] : (if p then cmdBlockReset else cmdSoftReset).opcode = 0x0103 := by
  split <;> rfl

theorem tapsEntry_opcode (p : Prop) [Decidable p] : (if p then cmdMixSetTaps else cmdMixStageTaps).opcode = cmdMixSetTaps.opcode := by
  split <;> rfl

/-- No two entries of the catalogue have one opcode. -/
theorem catalogue_opcodes_nodup (k : Kcp) : ((catalogue k).map Cmd.opcode).Nodup := by
  simp only [catalogue, List.map_cons, resetEntry_opcode, tapsEntry_opcode]
  decide +kernel

/-- JOB.SQUALL and SLAB.HANDOVER have no entry. -/
theorem catalogue_opcode_ne {k : Kcp} {c : Cmd} (h : c ∈ catalogue k) : c.opcode ≠ 0x0420 ∧ c.opcode ≠ 0x1201 := by
  have hnot : 0x0420 ∉ (catalogue k).map Cmd.opcode ∧ 0x1201 ∉ (catalogue k).map Cmd.opcode := by
    simp only [catalogue, List.map_cons, resetEntry_opcode, tapsEntry_opcode]
    decide
  exact ⟨fun e => hnot.1 (e ▸ List.mem_map_of_mem h), fun e => hnot.2 (e ▸ List.mem_map_of_mem h)⟩

/-- Where no two elements have one key, a search by the key of an element finds that element. -/
theorem find?_of_nodup_map {α : Type} {key : α → Nat} {l : List α} (hl : (l.map key).Nodup) {x : α} (hx : x ∈ l) :
    l.find? (fun y => decide (key y = key x)) = some x := by
  induction l with
  | nil => exact absurd hx List.not_mem_nil
  | cons y l ih =>
    obtain ⟨hy, hl⟩ := List.nodup_cons.1 hl
    rcases List.mem_cons.1 hx with rfl | hx
    · simp
    · rw [List.find?_cons_of_neg, ih hl hx]
      simpa using fun e : key y = key x => hy (e ▸ List.mem_map_of_mem hx)

/-- A command that waited is taken as its row takes it. -/
theorem State.takeOp_of_mem {c : Cmd} {k : Kcp} (s : State) (h : c ∈ catalogue k) : s.takeOp c.opcode k = kcpExec c k s := by
  obtain ⟨hsquall, hhandover⟩ := catalogue_opcode_ne h
  rw [State.takeOp, if_neg hsquall, if_neg hhandover, find?_of_nodup_map (catalogue_opcodes_nodup k) h]

/-! Commands that are not executed (R263, R276–R278). -/

section
variable {c : Cmd} {k : Kcp} {s n : State}

theorem kcpExec_of_lost (ht : s.taking = false) (hw : s.waits = false) : kcpExec c k s = s := by
  simp [kcpExec, State.hold, ht, hw]

theorem kcpExec_of_waits (ht : s.taking = false) (hw : s.waits = true) :
    kcpExec c k s = { s with host := { s.host with waiting := s.host.waiting ++ [(c.opcode, k)] } } := by
  simp [kcpExec, State.hold, ht, hw]

theorem kcpExec_of_badCrc (hn : n = s.countTaken k.chan) (ht : s.taking = true) (hcrc : k.crcOk = false) :
    kcpExec c k s = n.reply c.opcode ⟨k.chan, St.crcError, k.seq, false, false, false, 0, []⟩ := by
  subst hn
  simp [kcpExec, Cmd.take, State.screened, refusal, ht, hcrc]

theorem kcpExec_of_cached (hn : n = s.countTaken k.chan) (ht : s.taking = true) (hcrc : k.crcOk = true) {r : Cached}
    (hr : n.cachedAnswer k.chan k.seq c.opcode = some r) :
    kcpExec c k s = n.respond ⟨k.chan, r.status, k.seq, bit r.flags 14, bit r.flags 13, true, r.mt, r.payload⟩ := by
  subst hn
  simp [kcpExec, Cmd.take, State.screened, ht, hcrc, hr]

theorem kcpExec_of_duplicate (hn : n = s.countTaken k.chan) (ht : s.taking = true) (hcrc : k.crcOk = true)
    (hr : n.cachedAnswer k.chan k.seq c.opcode = none) (hd : n.isDuplicate k.chan k.seq = true) :
    kcpExec c k s = n.reply c.opcode ⟨k.chan, St.duplicate, k.seq, false, false, false, 0, []⟩ := by
  subst hn
  simp [kcpExec, Cmd.take, State.screened, refusal, ht, hcrc, hr, hd]

theorem kcpExec_of_strictLate (hn : n = s.countTaken k.chan) (ht : s.taking = true) (hcrc : k.crcOk = true)
    (hr : n.cachedAnswer k.chan k.seq c.opcode = none) (hd : n.isDuplicate k.chan k.seq = false) (hc : c.check k n = none)
    (hl : c.strictLate k n = true) :
    kcpExec c k s = n.reply c.opcode ⟨k.chan, St.late, k.seq, true, false, false, n.soonest, []⟩ := by
  subst hn
  simp [kcpExec, Cmd.take, State.screened, refusal, ht, hcrc, hr, hd, hc, hl]

/-- What a refused command's response carries: nothing, the offset of what is out of range, or a hint when to try again (R277). -/
theorem Cmd.check_payload {st : Nat} {p : List W32} (h : c.check k s = some (st, p)) :
    p = [] ∨ (st = St.badArg ∧ ∃ off, p = [w32 off]) ∨ (st = St.busy ∧ ∃ h, 1 ≤ h ∧ h ≤ 1500 ∧ p = [w32 h]) := by
  have hhint : ∀ i, 1 ≤ (clampI 1 1500 i).toNat ∧ (clampI 1 1500 i).toNat ≤ 1500 := fun i => by
    unfold clampI
    omega
  rw [Cmd.check] at h
  split at h
  · cases h
    exact .inr (.inl ⟨rfl, hdrOff, rfl⟩)
  split at h
  · cases h
    exact .inl rfl
  split at h
  · cases h
    exact .inl rfl
  split at h
  · cases h
    exact .inr (.inl ⟨rfl, _, rfl⟩)
  split at h
  · cases h
    exact .inl rfl
  split at h
  · cases h
    exact .inl rfl
  split at h
  · cases h
    exact .inr (.inr ⟨rfl, _, (hhint _).1, (hhint _).2, rfl⟩)
  · cases h

end

/-! What an answer changes (R271, R284, R285). -/

/-- A response on a mailbox makes it DONE and shows the status (R271). -/
theorem State.deliver_mailbox (s : State) {r : Response} (h : r.chan < 4) (hst : r.status < 2 ^ 16) :
    (s.deliver r).get (F.MB_STAT_STATE r.chan) = 2 ∧ (s.deliver r).get (F.MB_STAT_LAST_STATUS r.chan) = r.status := by
  have hne : R.MB_STAT r.chan ≠ R.HOST_IRQ_STAT := by rw [R.MB_STAT, R.HOST_IRQ_STAT]; omega
  rw [State.deliver, if_pos h]
  dsimp only
  generalize s.wrList (mbBuf r.chan) (respHeader r ++ r.payload) = t
  constructor
  · refine (congrArg (bits · _ _) (State.rd_wr_ne _ _ hne)).trans ?_
    exact (State.get_put_apart _ _ _ _ (.inr ⟨.inr (by simp [F.MB_STAT_STATE, F.MB_STAT_LAST_STATUS]),
      by simp [F.MB_STAT_STATE]⟩)).trans (State.get_put_self _ (F.MB_STAT_STATE r.chan) 2 (by simp [F.MB_STAT_STATE]))
  · refine (congrArg (bits · _ _) (State.rd_wr_ne _ _ hne)).trans ?_
    exact (State.get_put_self _ (F.MB_STAT_LAST_STATUS r.chan) r.status (by simp [F.MB_STAT_LAST_STATUS])).trans
      (Nat.mod_eq_of_lt hst)

/-- An answer on a channel with no sequence reset waiting is the delivery of its response behind its record. -/
theorem State.reply_eq_deliver {s : State} {r : Response} (op : Nat) (h : r.chan ∉ s.host.seqReset) :
    ∃ t : State, s.reply op r = t.deliver r := by
  have hrec : ∀ t : State, t.host.seqReset = s.host.seqReset → ∃ u : State, t.respond r = u.deliver r := fun t ht => by
    obtain ⟨l, hl⟩ := State.deliver_host { t with host := t.host.responding r } r
    refine ⟨{ t with host := t.host.responding r }, ?_⟩
    rw [State.respond_eq, if_neg (by rw [hl]; simpa [HostSt.responding, ht] using h)]
  rw [State.reply_eq]
  split
  · exact hrec _ (s.record_newest r.chan (r.recordOf op)).2
  · exact hrec s rfl

/-- Settles O8: the cases of the command's meaning one by one, and what an answer may write. -/
theorem kcpRefused : Obligations.KcpRefused := by
  unfold Obligations.KcpRefused
  refine ⟨fun i c k s n hcmd hn => ?_, fun s op r => ?_⟩
  · rw [exec_of_commandOf hcmd s]
    refine ⟨?_, fun ht hw => ?_, fun ht hw => ?_, fun ht hcrc => ?_, fun ht hcrc r hr => ?_, fun ht hcrc hr =>
      ⟨fun hd => ?_, fun hd => ⟨fun st p hc => ⟨?_, Cmd.check_payload hc⟩, fun hc hl => ?_⟩⟩⟩
    · rw [s.takeOp_of_mem (mem_catalogue hcmd)]
    · rw [kcpExec_of_lost ht hw]
    · rw [kcpExec_of_waits ht hw]
    · rw [kcpExec_of_badCrc hn ht hcrc]
    · rw [kcpExec_of_cached hn ht hcrc hr]
    · rw [kcpExec_of_duplicate hn ht hcrc hr hd]
    · subst hn
      rw [kcpExec_of_check ht hcrc hr hd hc]
    · rw [kcpExec_of_strictLate hn ht hcrc hr hd hc hl]
  · have hanswer := (Answered.refl r s).reply op
    refine ⟨hanswer.frame, hanswer.uarts, s.reply_response op r, fun hc hreset hst => ?_, fun hp w hw hcr htx hu =>
      hanswer.rd w (not_answerWord_of_window hw hcr htx (fun h5 => hu.resolve_left (by omega)) hp)⟩
    obtain ⟨t, ht⟩ := State.reply_eq_deliver op hreset
    rw [ht]
    exact t.deliver_mailbox hc hst

end Sys2Proof.Machine
end

/-! SUPPORT and CERTIFICATES. Writes of the host block: what an address of it is, a doorbell by the state of its mailbox, the flags of
HOST_SPI_ERR, and the acknowledgement of events. -/

section
namespace Sys2Proof.Machine

/-! What an address of the host block is (R270). -/

theorem bufferOf_eq_some {a m : Nat} (h : bufferOf a = some m) : m < 4 ∧ mbBuf m ≤ a ∧ a < mbBuf m + 1040 := by
  have hm := List.mem_of_find?_eq_some h
  have hp := List.find?_some h
  simp only [List.mem_range, decide_eq_true_eq] at hm hp
  exact ⟨hm, hp⟩

/-- The registers of the host block lie below the mailbox buffers. -/
theorem bufferOf_of_lt {a : Nat} (h : a < 0x100) : bufferOf a = none := by
  cases hb : bufferOf a with
  | none => rfl
  | some m =>
    obtain ⟨-, hlo, -⟩ := bufferOf_eq_some hb
    rw [mbBuf] at hlo
    omega

theorem State.hostWrite_buffer (s : State) {a m : Nat} (v : W32) (h : bufferOf a = some m) : s.hostWrite a v = s.wr a v := by
  simp only [State.hostWrite, h]

theorem State.hostWrite_doorbell (s : State) (m : Fin 4) (v : W32) : s.hostWrite (R.MB_DOORBELL m) v = s.ring m v := by
  have hbell : doorbellOf (R.MB_DOORBELL m) = some m.val := by decide +revert
  simp only [State.hostWrite, bufferOf_of_lt (show R.MB_DOORBELL m < 0x100 by rw [R.MB_DOORBELL]; omega), hbell]

theorem State.hostWrite_mbCtrl (s : State) (m : Fin 4) (v : W32) :
    s.hostWrite (R.MB_CTRL m) v = if bit v 0 then s.askSeqReset m else s := by
  have hbell : doorbellOf (R.MB_CTRL m) = none := by decide +revert
  have hctrl : ((List.range 4).find? fun n => decide (R.MB_CTRL m = R.MB_CTRL n)) = some m.val := by decide +revert
  simp only [State.hostWrite, bufferOf_of_lt (show R.MB_CTRL m < 0x100 by rw [R.MB_CTRL]; omega), hbell, hctrl]

theorem State.hostWrite_evqAck (s : State) (v : W32) : s.hostWrite R.EVQ_ACK v = s.ack (v.toNat % 512) := rfl

/-! The flags of HOST_SPI_ERR (R266, R271). -/

/-- A flag of HOST_SPI_ERR is set, and the interrupt flag with it. -/
theorem State.spiErr_stores (s : State) {f : Fld} (haddr : f.addr = R.HOST_SPI_ERR) (hfit : f.lo + f.width ≤ 32)
    (hone : f.width = 1) : onlyStores [(f, 1), (F.HOST_IRQ_STAT_SPI_ERR, 1)] s (s.spiErr f) :=
  (onlyStores.oneSet s f true hfit hone).set F.HOST_IRQ_STAT_SPI_ERR true (by decide) rfl
    (List.forall_mem_singleton.2 ⟨hfit, .inl (haddr ▸ by decide)⟩)

/-! A doorbell (R271). -/

/-- One bit of a word cleared. -/
theorem clearBit_eq_setBits (w : W32) {m : Nat} (_h : m < 32) : w &&& ~~~ w32 (2 ^ m) = setBits w m 1 0 := by
  refine BitVec.eq_of_getLsbD_eq fun i hi => ?_
  rw [setBits_getLsbD _ _ _ _ _ hi, BitVec.getLsbD_and, BitVec.getLsbD_not, BitVec.getLsbD_ofNat, Nat.testBit_two_pow]
  by_cases hm : m = i
  · rw [if_pos (by omega)]
    simp [hm, hi]
  · rw [if_neg (by omega)]
    simp [hm, hi]

/-- The state with the mailbox of a doorbell BUSY. -/
def State.rung (s : State) (m : Nat) (v : W32) : State :=
  { (s.put (F.MB_STAT_STATE m) 1).wr R.HOST_IRQ_STAT ((s.put (F.MB_STAT_STATE m) 1).rd R.HOST_IRQ_STAT &&& ~~~ w32 (2 ^ m)) with
    host := { s.host with rung := s.host.rung ++ [(m, bits v 16 16, bit v 1)] } }

theorem State.rung_stores (s : State) (m : Fin 4) (v : W32) :
    onlyStores [(F.MB_STAT_STATE m, 1), (⟨R.HOST_IRQ_STAT, m, 1⟩, 0)]
      { s with host := { s.host with rung := s.host.rung ++ [(m.val, bits v 16 16, v.getLsbD 1)] } } (s.rung m v) := by
  have happ : R.MB_STAT m ≠ R.HOST_IRQ_STAT := by rw [R.MB_STAT, R.HOST_IRQ_STAT]; omega
  rw [State.rung, clearBit_eq_setBits _ (by omega)]
  exact (onlyStores.one { s with host := _ } (F.MB_STAT_STATE m) 1 1 (by simp [F.MB_STAT_STATE]) rfl).put ⟨R.HOST_IRQ_STAT, m, 1⟩
    0 0 (by show m.val + 1 ≤ 32; omega) rfl (List.forall_mem_singleton.2 ⟨by simp [F.MB_STAT_STATE], .inl happ⟩)

theorem State.ring_of_clear {s : State} {m : Nat} {v : W32} (h : v.getLsbD 0 = false) : s.ring m v = s := by
  rw [State.ring, bit, h]
  rfl

theorem State.ring_of_busy {s : State} {m : Nat} {v : W32} (h : v.getLsbD 0 = true) (hbusy : s.get (F.MB_STAT_STATE m) = 1) :
    s.ring m v = s.spiErr F.HOST_SPI_ERR_MB_BUSY := by
  rw [State.ring, bit, h, if_neg (by decide), if_pos hbusy]

/-- A doorbell of a mailbox that is not BUSY: JOB.SQUALL on MB0 triggers, and an opcode that the catalogue does not list is answered. -/
theorem State.ring_of_idle {s : State} {m : Fin 4} {v : W32} {ws : List W32} (h : v.getLsbD 0 = true)
    (hidle : s.get (F.MB_STAT_STATE m) ≠ 1) (hws : ws = (s.rung m v).rdList (mbBuf m) 260) :
    s.ring m v = if m = 0 ∧ bits (s.rd (mbBuf 0)) 16 16 = 0x0420 then (s.rung m v).squallBell
      else (s.rung m v).screenOpcode (Fin.ofNat 6 m) (v.getLsbD 1 = false ∨
        crc16 ((ws.flatMap wordBytes).take (16 + min 1024 (bits (ws.getD 1 0) 20 12))) = v.extractLsb' 16 16) ws := by
  subst hws
  have hbuf : (s.rung m v).rd (mbBuf 0) = s.rd (mbBuf 0) := (s.rung_stores m v).2.2.rd (by
    simp only [List.map_cons, List.map_nil, List.forall_mem_cons, F.MB_STAT_STATE, R.MB_STAT, R.HOST_IRQ_STAT, mbBuf]
    exact ⟨by omega, by omega, fun _ h => nomatch h⟩)
  rw [State.ring, bit, h, if_neg (by decide), if_neg hidle, ← hbuf]
  simp only [← Bool.not_eq_true, ← Fin.val_eq_zero_iff]
  rfl

/-- Settles O24: what each address of the host block does with a word, by the lemma about it. -/
theorem hostBlockWrites : Obligations.HostBlockWrites := by
  unfold Obligations.HostBlockWrites
  refine ⟨fun s a m v h => s.hostWrite_buffer v h, fun s m v => ?_, fun s n => ?_, State.hostWrite_evqAck, fun s =>
    ⟨_, rfl, .one s _ _ _ (by decide) rfl⟩⟩
  · rw [State.hostWrite_doorbell, State.hostWrite_mbCtrl]
    refine ⟨State.ring_of_clear, fun h hbusy => ?_, fun h hidle => ⟨s.rung m v, _, s.rung_stores m v, rfl,
      State.ring_of_idle h hidle rfl⟩, fun h => ?_, fun h => if_neg (by rw [bit, h]; decide)⟩
    · rw [State.ring_of_busy h hbusy]
      exact s.spiErr_stores rfl (by decide) rfl
    · rw [if_pos (show bit v 0 = true from h)]
      rfl
  · have hused : s.get F.EVQ_STATUS_USED < 2 ^ 9 := bits_lt _ _ _
    exact ⟨_, rfl, (onlyStores.one s F.EVQ_STATUS_RD _ _ (by decide) (Nat.mod_mod _ _)).put F.EVQ_STATUS_USED _ _ (by decide)
      (Nat.mod_eq_of_lt (Nat.lt_of_le_of_lt (Nat.sub_le _ _) hused)) (by simp +decide)⟩

end Sys2Proof.Machine
end

/-! SUPPORT and CERTIFICATES. Write transactions on the host SPI: what the bytes on the wire spell, what is discarded and with which
cause, and the words of an applied one. -/

section
namespace Sys2Proof.Machine

/-! The bytes on the wire (R265, R267). -/

/-- The bytes of an address, most significant first. -/
def addrWire (addr : BitVec 24) : List Byte := [addr.extractLsb' 16 8, addr.extractLsb' 8 8, addr.extractLsb' 0 8]

theorem addrWire_value (addr : BitVec 24) : (addrWire addr).foldl (fun n b => n * 256 + b.toNat) 0 = addr.toNat := by
  have := addr.isLt
  simp only [addrWire, List.foldl_cons, List.foldl_nil, BitVec.extractLsb'_toNat, Nat.shiftRight_eq_div_pow]
  omega

theorem wordsWire_cons (w : W32) (ws : List W32) : wordsWire (w :: ws) = w.extractLsb' 24 8 :: w.extractLsb' 16 8 ::
    w.extractLsb' 8 8 :: w.extractLsb' 0 8 :: wordsWire ws := rfl

theorem wordsWire_length (ws : List W32) : (wordsWire ws).length = 4 * ws.length := by
  induction ws with
  | nil => rfl
  | cons w ws ih =>
    rw [wordsWire_cons]
    simp only [List.length_cons, ih]
    omega

/-- The bytes of a word, most significant first, spell it. -/
theorem append_wordBytes (w : W32) :
    w.extractLsb' 24 8 ++ w.extractLsb' 16 8 ++ w.extractLsb' 8 8 ++ w.extractLsb' 0 8 = w := by
  refine BitVec.eq_of_getLsbD_eq fun i hi => ?_
  simp only [BitVec.getLsbD_append, BitVec.getLsbD_extractLsb']
  split_ifs <;> rw [decide_eq_true (by omega), Bool.true_and] <;> congr 1 <;> omega

theorem wireWords_wordsWire (ws : List W32) : wireWords (wordsWire ws) = ws := by
  induction ws with
  | nil => rfl
  | cons w ws ih => rw [wordsWire_cons, wireWords, ih, append_wordBytes]

theorem wireWords_length (l : List Byte) : (wireWords l).length = l.length / 4 := by
  induction l using wireWords.induct with
  | case1 a b c d r ih => simp only [wireWords, List.length_cons, ih]; omega
  | case2 l h =>
    match l, h with
    | [], _ | [_], _ | [_, _], _ | [_, _, _], _ => simp [wireWords]
    | a :: b :: c :: d :: r, h => exact (h a b c d r rfl).elim

/-- The addresses of the words of a transaction. -/
def wireTargets (a n : Nat) : List Nat := (List.range n).map fun i => a + 4 * i

theorem wireTargets_succ (a n : Nat) : wireTargets a (n + 1) = a :: wireTargets (a + 4) n := by
  simp only [wireTargets, List.range_succ_eq_map, List.map_cons, List.map_map, Nat.mul_zero, Nat.add_zero]
  exact congrArg _ (List.map_congr_left fun i _ => by show a + 4 * (i + 1) = a + 4 + 4 * i; omega)

/-- The writable addresses of the host block are its registers below 0x80 and the mailbox buffers. -/
theorem all_writable_iff (l : List Nat) :
    l.all (fun a => a < 0x80 ∨ (bufferOf a).isSome) = true ↔ ∀ a ∈ l, a < 0x80 ∨ bufferOf a ≠ none := by
  simp [List.all_eq_true, Option.isSome_iff_ne_none]

theorem any_busy_iff (s : State) (l : List Nat) :
    (l.any fun a => (bufferOf a).any fun m => s.get (F.MB_STAT_STATE m) = 1) = true ↔
      ∃ a ∈ l, ∃ m, bufferOf a = some m ∧ s.get (F.MB_STAT_STATE m) = 1 := by
  simp [List.any_eq_true, Option.any_eq_true]

/-! What is discarded, and with which cause (R266). -/

section
variable {s : State} {ws : List W32} {crc : Byte} {addr : BitVec 24}

theorem State.discardWrite_stores (s : State) {f : Fld} (haddr : f.addr = R.HOST_SPI_ERR) (hlo : f.lo < 16) (hone : f.width = 1) :
    onlyStores [(f, 1), (F.HOST_IRQ_STAT_SPI_ERR, 1), (F.HOST_SPI_ERR_ERR_CNT, min 65535 (s.get F.HOST_SPI_ERR_ERR_CNT + 1))]
      { s with host := { s.host with lastWrOk := false, lastWrErr := true } } (s.discardWrite (some f)) := by
  have hflags := State.spiErr_stores { s with host := { s.host with lastWrOk := false, lastWrErr := true } } haddr (by omega) hone
  exact hflags.bumpSat F.HOST_SPI_ERR_ERR_CNT (by decide) (by
    simp only [List.forall_mem_cons, F.HOST_SPI_ERR_ERR_CNT, haddr]
    exact ⟨⟨by omega, .inr (.inr (by omega))⟩, by decide, fun _ h => nomatch h⟩)

theorem State.discardWrite_none_stores (s : State) :
    onlyStores [(F.HOST_SPI_ERR_ERR_CNT, min 65535 (s.get F.HOST_SPI_ERR_ERR_CNT + 1))]
      { s with host := { s.host with lastWrOk := false, lastWrErr := true } } (s.discardWrite none) :=
  (onlyStores.nil { s with host := { s.host with lastWrOk := false, lastWrErr := true } }).bumpSat F.HOST_SPI_ERR_ERR_CNT (by decide)
    fun _ h => absurd h List.not_mem_nil

/-- A transaction that does not end one byte after its last whole word, or has no word or too many. -/
theorem State.spiWrite_of_badFrame {rest : List Byte} {extra : Nat}
    (h : extra ≠ 0 ∨ rest.length % 4 ≠ 0 ∨ rest.length < 8 ∨ 1060 < rest.length) :
    s.spiWrite rest extra = s.discardWrite (some F.HOST_SPI_ERR_FRAME) := by
  rw [State.spiWrite]
  dsimp only
  rw [if_pos]
  simp only [wireWords_length, List.length_dropLast, List.length_drop]
  omega

/-- A transaction in a whole frame, by what its bytes spell. -/
theorem State.spiWrite_of_frame (h1 : 1 ≤ ws.length) (h264 : ws.length ≤ 264) :
    s.spiWrite (addrWire addr ++ wordsWire ws ++ [crc]) 0 =
      if crc8 (0x02 :: (addrWire addr ++ wordsWire ws)) ≠ crc then s.discardWrite (some F.HOST_SPI_ERR_CRC)
      else if addr.toNat % 4 ≠ 0 ∨ ¬ (wireTargets addr.toNat ws.length).all (fun a => a < 0x80 ∨ (bufferOf a).isSome) then
        s.discardWrite (some F.HOST_SPI_ERR_RANGE)
      else if (wireTargets addr.toNat ws.length).any fun a => (bufferOf a).any fun m => s.get (F.MB_STAT_STATE m) = 1 then
        s.discardWrite (some F.HOST_SPI_ERR_MB_BUSY)
      else
        { forEach ((wireTargets addr.toNat ws.length).zip ws) s fun x s => s.hostWrite x.1 x.2 with
          host := { (forEach ((wireTargets addr.toNat ws.length).zip ws) s fun x s => s.hostWrite x.1 x.2).host with
            lastWrOk := true, lastWrErr := false } } := by
  have hbody : (addrWire addr ++ wordsWire ws ++ [crc]).drop 3 = wordsWire ws ++ [crc] := rfl
  have haddr : (addrWire addr ++ wordsWire ws ++ [crc]).take 3 = addrWire addr := rfl
  have hlen : (addrWire addr).length = 3 := rfl
  rw [State.spiWrite]
  simp only [hbody, haddr, addrWire_value, List.dropLast_concat, wireWords_wordsWire, List.getLastD_concat]
  rw [if_neg (by simp only [List.length_append, hlen, wordsWire_length, List.length_singleton]; omega)]
  rfl

theorem State.spiWrite_of_badCrc (h1 : 1 ≤ ws.length) (h264 : ws.length ≤ 264)
    (hcrc : crc ≠ crc8 (0x02 :: (addrWire addr ++ wordsWire ws))) :
    s.spiWrite (addrWire addr ++ wordsWire ws ++ [crc]) 0 = s.discardWrite (some F.HOST_SPI_ERR_CRC) := by
  rw [State.spiWrite_of_frame h1 h264, if_pos hcrc.symm]

theorem State.spiWrite_of_badRange (h1 : 1 ≤ ws.length) (h264 : ws.length ≤ 264)
    (hcrc : crc = crc8 (0x02 :: (addrWire addr ++ wordsWire ws)))
    (h : addr.toNat % 4 ≠ 0 ∨ ∃ a ∈ wireTargets addr.toNat ws.length, 0x80 ≤ a ∧ bufferOf a = none) :
    s.spiWrite (addrWire addr ++ wordsWire ws ++ [crc]) 0 = s.discardWrite (some F.HOST_SPI_ERR_RANGE) := by
  have hall : addr.toNat % 4 ≠ 0 ∨ ¬ (wireTargets addr.toNat ws.length).all (fun a => a < 0x80 ∨ (bufferOf a).isSome) = true :=
    h.imp_right fun ⟨a, ha, hlo, hnone⟩ hall => by
      rcases (all_writable_iff _).1 hall a ha with hlt | hsome
      · omega
      · exact hsome hnone
  rw [State.spiWrite_of_frame h1 h264, if_neg (not_not.2 hcrc.symm), if_pos hall]

theorem State.spiWrite_of_busy (h1 : 1 ≤ ws.length) (h264 : ws.length ≤ 264)
    (hcrc : crc = crc8 (0x02 :: (addrWire addr ++ wordsWire ws))) (halign : addr.toNat % 4 = 0)
    (hin : ∀ a ∈ wireTargets addr.toNat ws.length, a < 0x80 ∨ bufferOf a ≠ none)
    (hbusy : ∃ a ∈ wireTargets addr.toNat ws.length, ∃ m, bufferOf a = some m ∧ s.get (F.MB_STAT_STATE m) = 1) :
    s.spiWrite (addrWire addr ++ wordsWire ws ++ [crc]) 0 = s.discardWrite (some F.HOST_SPI_ERR_MB_BUSY) := by
  rw [State.spiWrite_of_frame h1 h264, if_neg (not_not.2 hcrc.symm), if_neg (by simp only [all_writable_iff]; tauto),
    if_pos ((any_busy_iff s _).2 hbusy)]

theorem State.spiWrite_applied (h1 : 1 ≤ ws.length) (h264 : ws.length ≤ 264)
    (hcrc : crc = crc8 (0x02 :: (addrWire addr ++ wordsWire ws))) (halign : addr.toNat % 4 = 0)
    (hin : ∀ a ∈ wireTargets addr.toNat ws.length, (a < 0x80 ∧ bufferOf a = none) ∨
      ∃ m, bufferOf a = some m ∧ s.get (F.MB_STAT_STATE m) ≠ 1) :
    s.spiWrite (addrWire addr ++ wordsWire ws ++ [crc]) 0 =
      { forEach ((wireTargets addr.toNat ws.length).zip ws) s fun x s => s.hostWrite x.1 x.2 with
        host := { (forEach ((wireTargets addr.toNat ws.length).zip ws) s fun x s => s.hostWrite x.1 x.2).host with
          lastWrOk := true, lastWrErr := false } } := by
  have hwritable : ∀ a ∈ wireTargets addr.toNat ws.length, a < 0x80 ∨ bufferOf a ≠ none := fun a ha =>
    (hin a ha).imp And.left fun ⟨m, hm, _⟩ e => nomatch hm.symm.trans e
  have hfree : ¬ ∃ a ∈ wireTargets addr.toNat ws.length, ∃ m, bufferOf a = some m ∧ s.get (F.MB_STAT_STATE m) = 1 := by
    rintro ⟨a, ha, m, hm, hbusy⟩
    rcases hin a ha with ⟨-, hnone⟩ | ⟨m', hm', hidle⟩
    · exact nomatch hm.symm.trans hnone
    · cases hm.symm.trans hm'
      exact hidle hbusy
  rw [State.spiWrite_of_frame h1 h264, if_neg (not_not.2 hcrc.symm), if_neg (by simp only [all_writable_iff]; tauto),
    if_neg (mt (any_busy_iff s _).1 hfree)]

end

/-! The words of an applied transaction. -/

/-- Words that all lie in mailbox buffers are stored one after another. -/
theorem forEach_hostWrite_buffers {ws : List W32} {s : State} {a : Nat} (h : ∀ t ∈ wireTargets a ws.length, bufferOf t ≠ none) :
    forEach ((wireTargets a ws.length).zip ws) s (fun x s => s.hostWrite x.1 x.2) = s.wrList a ws := by
  induction ws generalizing s a with
  | nil => rfl
  | cons w ws ih =>
    rw [List.length_cons, wireTargets_succ] at h ⊢
    obtain ⟨ha, hrest⟩ := List.forall_mem_cons.1 h
    obtain ⟨m, hm⟩ := Option.ne_none_iff_exists'.1 ha
    refine Eq.trans ?_ (ih hrest)
    rw [← s.hostWrite_buffer w hm]
    rfl

theorem State.wrList_eq (s : State) (a : Nat) (l : List W32) : s.wrList a l = { s with regs := (s.wrList a l).regs } := by
  induction l generalizing s a with
  | nil => rfl
  | cons w l ih => exact ih _ _

/-- A word that a list of stores does not reach. -/
theorem State.rd_wrList_of_ne {l : List W32} {s : State} {a b : Nat} (h : ∀ i < l.length, b ≠ a + 4 * i) :
    (s.wrList a l).rd b = s.rd b := by
  induction l generalizing s a with
  | nil => rfl
  | cons w l ih =>
    refine (ih fun i hi => ?_).trans (State.rd_wr_ne _ _ (h 0 (Nat.zero_lt_succ _)))
    have := h (i + 1) (Nat.succ_lt_succ hi)
    omega

/-- The words of a list that is stored. -/
theorem State.rd_wrList {l : List W32} {s : State} {a i : Nat} (hi : i < l.length) : (s.wrList a l).rd (a + 4 * i) = l[i] := by
  induction l generalizing s a i with
  | nil => exact absurd hi (Nat.not_lt_zero _)
  | cons w l ih =>
    cases i with
    | zero =>
      show ((s.wr a w).wrList (a + 4) l).rd (a + 4 * 0) = w
      exact (State.rd_wrList_of_ne fun j _ => by omega).trans (s.rd_wr_self a w)
    | succ i =>
      rw [show a + 4 * (i + 1) = a + 4 + 4 * i by omega]
      exact ih (Nat.lt_of_succ_lt_succ hi)

/-! The rows of a transaction by its command byte (R264, R265). -/

section
variable {s : State} {rest : List Byte} {extra : Nat}

theorem exec_spiWriteTransaction_write (hready : s.ready = true) :
    exec (.spiWriteTransaction (0x02 :: rest) extra) s = .next (s.shiftStatus.spiWrite rest extra) := by
  show Host.Outcome.next (if (0x02 : Byte) = 0x0B then _ else if (0x02 : Byte) ≠ 0x02 then _ else if ¬ s.ready = true then _ else _) = _
  rw [if_neg (by decide), if_neg (by decide), if_neg (by simp [hready])]

theorem exec_spiWriteTransaction_not_ready (hready : s.ready = false) :
    exec (.spiWriteTransaction (0x02 :: rest) extra) s = .next (s.shiftStatus.discardWrite none) := by
  show Host.Outcome.next (if (0x02 : Byte) = 0x0B then _ else if (0x02 : Byte) ≠ 0x02 then _ else if ¬ s.ready = true then _ else _) = _
  rw [if_neg (by decide), if_neg (by decide), if_pos (by simp [hready])]

theorem exec_spiWriteTransaction_other {c : Byte} (hr : c ≠ 0x0B) (hw : c ≠ 0x02) :
    exec (.spiWriteTransaction (c :: rest) extra) s = .next (s.shiftStatus.spiErr F.HOST_SPI_ERR_CMD) := by
  show Host.Outcome.next (if c = 0x0B then _ else if c ≠ 0x02 then _ else _) = _
  rw [if_neg hr, if_pos hw]

end

/-- The status byte: READY, the interrupt, and how the last write transaction ended (R264). -/
theorem State.spiStatus_bits (s : State) : s.spiStatus.getLsbD 7 = s.flag F.HOST_STATUS_READY ∧ s.spiStatus.getLsbD 6 = s.irq ∧
    s.spiStatus.getLsbD 5 = s.host.lastWrOk ∧ s.spiStatus.getLsbD 4 = s.host.lastWrErr ∧
    ∀ i, i < 4 → s.spiStatus.getLsbD i = false := by
  have hbits : ∀ r q o e : Bool, (BitVec.ofNat 8 (b2n r * 128 + b2n q * 64 + b2n o * 32 + b2n e * 16)).getLsbD 7 = r ∧
      (BitVec.ofNat 8 (b2n r * 128 + b2n q * 64 + b2n o * 32 + b2n e * 16)).getLsbD 6 = q ∧
      (BitVec.ofNat 8 (b2n r * 128 + b2n q * 64 + b2n o * 32 + b2n e * 16)).getLsbD 5 = o ∧
      (BitVec.ofNat 8 (b2n r * 128 + b2n q * 64 + b2n o * 32 + b2n e * 16)).getLsbD 4 = e ∧
      ∀ i, i < 4 → (BitVec.ofNat 8 (b2n r * 128 + b2n q * 64 + b2n o * 32 + b2n e * 16)).getLsbD i = false := by decide
  exact hbits _ _ _ _

/-- Settles O21: the status byte, the command byte, the causes in the order of R266, and the words of an applied transaction. -/
theorem spiWriteTransaction : Obligations.SpiWriteTransaction := by
  unfold Obligations.SpiWriteTransaction
  refine ⟨fun s => ⟨rfl, s.spiStatus_bits⟩, ?_, ?_, ?_⟩
  · rintro s b extra c rest rfl
    exact ⟨rfl, rfl, fun hr hw => ⟨_, exec_spiWriteTransaction_other hr hw, s.shiftStatus.spiErr_stores rfl (by decide) rfl⟩,
      fun h => ⟨_, exec_spiWriteTransaction_not_ready h, s.shiftStatus.discardWrite_none_stores⟩,
      fun h hframe => ⟨_, exec_spiWriteTransaction_write h, by
        rw [State.spiWrite_of_badFrame hframe]
        exact s.shiftStatus.discardWrite_stores rfl (by decide) rfl⟩⟩
  · rintro s b addr ws crc head wire targets cause rfl hready h1 h264 rfl rfl rfl hcause
    refine ⟨_, exec_spiWriteTransaction_write (rest := addrWire addr ++ wordsWire ws ++ [crc]) hready, ?_⟩
    rcases hcause with ⟨hcrc, rfl⟩ | ⟨hcrc, rfl, hrange⟩ | ⟨hcrc, rfl, halign, hin, hbusy⟩
    · rw [State.spiWrite_of_badCrc h1 h264 hcrc]
      exact s.shiftStatus.discardWrite_stores rfl (by decide) rfl
    · rw [State.spiWrite_of_badRange h1 h264 hcrc hrange]
      exact s.shiftStatus.discardWrite_stores rfl (by decide) rfl
    · rw [State.spiWrite_of_busy (s := s.shiftStatus) h1 h264 hcrc halign hin hbusy]
      exact s.shiftStatus.discardWrite_stores rfl (by decide) rfl
  · rintro s b addr ws head targets rfl hready h1 h264 halign rfl rfl hin
    refine ⟨_, (exec_spiWriteTransaction_write (rest := addrWire addr ++ wordsWire ws ++ [crc8 (0x02 :: (addrWire addr ++
      wordsWire ws))]) hready).trans (congrArg Host.Outcome.next (State.spiWrite_applied h1 h264 rfl halign hin)), ?_, fun hbuf => ?_⟩
    · rintro v rfl
      rfl
    · rw [forEach_hostWrite_buffers hbuf]
      exact ⟨fun i hi => State.rd_wrList hi, State.wrList_eq _ _ _, fun a ha => State.rd_wrList_of_ne fun i hi e =>
        ha (List.mem_map.2 ⟨i, List.mem_range.2 hi, e.symm⟩)⟩

end Sys2Proof.Machine
end

/-! SUPPORT and CERTIFICATES. An idle flit whose CRC fails and whose pattern shows the lane: it does not count towards the run of
failures that takes the stream link down. -/

section
namespace Sys2Proof.Machine

/-- A reaction of REPORT, for a mechanism that is neither the loss of the bank memory nor a clock, leaves the state. -/
theorem State.reactTo_report {s : State} {code inst : Nat} (hp : s.power = .run)
    (hbank : code ≠ Mech.bankUnavail) (hclock : code ≠ Mech.clock) : s.reactTo code inst React.report = s := by
  rw [State.reactTo, hp]
  simp [hbank, hclock, React.report, React.reset, React.degrade]

theorem State.bufferRecord_frame (s : State) (code inst react : Nat) (injected : Bool) (loc exp obs : W32) :
    (s.bufferRecord code inst react injected loc exp obs).power = s.power ∧
      (s.bufferRecord code inst react injected loc exp obs).stream = s.stream := by
  unfold State.bufferRecord
  dsimp only
  split
  · exact ⟨rfl, rfl⟩
  · simp only [State.wr64, State.wr_power, State.wr_stream, State.put_power, State.put_stream, State.bump_power, State.bump_stream,
      and_self]

/-- A link mechanism that reports leaves the stream port's record. -/
theorem State.raise_link_stream {s : State} {inst : Nat} {loc exp obs : W32} (hp : s.power = .run)
    (hreact : s.get (F.SAFE_MECH_CFG_REACT Mech.link) = React.report) (hesc : s.flag (F.SAFE_MECH_CFG_ESCALATE Mech.link) = false) :
    (s.raise Mech.link inst loc exp obs).stream = s.stream := by
  have hraise : s.raise Mech.link inst loc exp obs =
      s.raiseWith Mech.link inst loc exp obs (s.escalated Mech.link (s.get (F.SAFE_MECH_CFG_REACT Mech.link))) false := rfl
  rw [hraise, hreact, State.escalated, hesc, State.raiseWith]
  simp only [Bool.false_eq_true, false_and, if_false]
  rw [if_neg (by decide)]
  generalize hlatched : State.bumpSat _ _ _ = t
  obtain ⟨hpower, hstream⟩ := t.bufferRecord_frame Mech.link inst React.report false loc exp obs
  rw [State.reactTo_report (by rw [hpower, ← hlatched]; exact hp) (by decide) (by decide), hstream, ← hlatched]
  rfl

/-- Counting the errors of lanes leaves the stream port's record. -/
theorem State.countLanes_stream (s : State) (lanes : List Nat) :
    (forEach lanes s fun l s => s.bumpSat (F.STRM_LANE_RX_ERR_CNT l)).stream = s.stream :=
  forEach_invariant (P := fun t => t.stream = s.stream) rfl fun _ _ h => h

/-- A link that is UP in RUN. -/
def State.linkUp : State := { State.reset with power := .run }.put F.STRM_STATUS_STATE 2

/-- The model's run of failures after an idle flit of zeros. -/
theorem badIdleFlit_crcRun : (State.linkUp.badFlit [] 0 1 false false).stream.crcRun = 0 := by
  decide +kernel

/-- Refutes O59: an idle flit of zeros, whose CRC fails and which shows every lane in error, leaves the run of CRC failures at 0 (R321,
R329), where the statement counts it before it looks at the lanes. -/
theorem not_streamPort : ¬ Obligations.StreamPort := by
  unfold Obligations.StreamPort
  rintro ⟨-, -, -, -, -, -, -, -, -, hbad, -⟩
  obtain ⟨t, b, c, ht, hb, hc, -, hflit⟩ := hbad State.linkUp [] 0 1 false false (badLanes []) rfl
  obtain ⟨hframe, -, hkept⟩ := ht
  have hget : ∀ f : Fld, f.addr = R.SAFE_MECH_CFG Mech.link → t.get f = State.linkUp.get f := fun f hf =>
    hkept.get f (by simp +decide [hf])
  have hpower : t.power = .run := by rw [hframe]; rfl
  have hrun : t.stream.crcRun = 1 := by rw [hframe]; rfl
  have hb1 : b.stream.crcRun = 1 := by
    rw [hb, State.countLanes_stream, State.raise_link_stream hpower ((hget _ rfl).trans (by decide))
      (by rw [State.flag, hget _ rfl]; decide), hrun]
  have hcb : c = b := hc
  have hzero : (1 : Nat) = 0 := by
    calc 1 = c.stream.crcRun := by rw [hcb, hb1]
      _ = (State.linkUp.badFlit [] 0 1 false false).stream.crcRun := by rw [hflit, if_neg (by rw [hcb, hb1]; decide)]
      _ = 0 := badIdleFlit_crcRun
  exact absurd hzero (by decide)

end Sys2Proof.Machine
end

/-! SUPPORT and CERTIFICATES. A key slot that is written keeps its key through every step. -/

section
namespace Sys2Proof.Machine

/-- Settles O5: the lemma about each command's meaning, on the state with the queue's rest. -/
theorem keySlotsKept : Obligations.KeySlotsKept := by
  intro s t h
  unfold step at h
  split at h
  · cases h
    exact fun _ _ hkey => hkey
  · next c q _ =>
    obtain ⟨u, hu, -, -, hkeys, -⟩ := exec_keeps c (Keeps.refl (!movesMediaTime c) (s.withPending q))
    obtain rfl : t = u := by simpa [h] using hu
    exact hkeys

end Sys2Proof.Machine
end

/-! SUPPORT and CERTIFICATES. Updates of a state that have nothing to do with the register store, and stores made
before or after them. -/

section
namespace Sys2Proof.Machine

/-- An update of a state that neither reads nor writes the register store, and leaves the variant. -/
def Aside (u : State → State) : Prop :=
  ∀ (s : State) r, u { s with regs := r } = { u s with regs := r } ∧ (u s).variant = s.variant ∧ (u s).regs = s.regs

theorem Aside.rd {u : State → State} (hu : Aside u) (s : State) (a : Nat) : (u s).rd a = s.rd a := by
  obtain ⟨-, hvariant, hregs⟩ := hu s []
  rw [State.rd, State.rd, hvariant, hregs]

/-- It may come after the stores, or before them. -/
theorem onlyStores.aside {l : List (Fld × Nat)} {s t : State} {u : State → State} (h : onlyStores l s t) (hu : Aside u) :
    onlyStores l (u s) (u t) := by
  obtain ⟨hframe, hvals, hkept⟩ := h
  refine ⟨?_, fun p hp => (State.get_of_rd (hu.rd t) p.1).trans (hvals p hp), fun a i hi => ?_⟩
  · calc u t = u { s with regs := t.regs } := congrArg u hframe
      _ = { u s with regs := t.regs } := (hu s t.regs).1
      _ = { u s with regs := (u t).regs } := by rw [(hu t []).2.2]
  · rw [hu.rd, hu.rd]
    exact hkept a i hi

end Sys2Proof.Machine
end

/-! SUPPORT and CERTIFICATES. Chains of field stores: under a condition, of a field that keeps its
value, in another order, and in a loop. -/

section
namespace Sys2Proof.Machine

/-- Two fields within their registers that share no bit. -/
abbrev Fld.apart (g f : Fld) : Prop :=
  g.lo + g.width ≤ 32 ∧ (g.addr ≠ f.addr ∨ f.lo + f.width ≤ g.lo ∨ g.lo + g.width ≤ f.lo)

/-- The same fields with the same values in another order. -/
theorem onlyStores.perm {l m : List (Fld × Nat)} {s t : State} (h : onlyStores l s t) (hp : l.Perm m) : onlyStores m s t := by
  obtain ⟨hframe, hvals, hkept⟩ := h
  exact ⟨hframe, fun p hm => hvals p (hp.mem_iff.2 hm), hkept.mono fun f hf => (hp.map Prod.fst).mem_iff.1 hf⟩

/-- A field apart from the stored ones is as it was. -/
theorem onlyStores.get {l : List (Fld × Nat)} {s t : State} (h : onlyStores l s t) (f : Fld) (hap : ∀ p ∈ l, p.1.apart f) :
    t.get f = s.get f :=
  h.2.2.get f fun g hg => by
    obtain ⟨p, hp, rfl⟩ := List.mem_map.1 hg
    rcases (hap p hp).2 with h | h | h
    exacts [.inl h, .inr (.inr h), .inr (.inl h)]

theorem onlyStores.flag {l : List (Fld × Nat)} {s t : State} (h : onlyStores l s t) (f : Fld) (hap : ∀ p ∈ l, p.1.apart f) :
    t.flag f = s.flag f := by
  rw [State.flag, State.flag, h.get f hap]

/-- A field apart from the stored ones may be named with the value that it keeps. -/
theorem onlyStores.keep {l : List (Fld × Nat)} {s t : State} (h : onlyStores l s t) (f : Fld) {w : Nat} (hw : s.get f = w)
    (hap : ∀ p ∈ l, p.1.apart f) : onlyStores (l ++ [(f, w)]) s t := by
  have hget := h.get f hap
  obtain ⟨hframe, hvals, hkept⟩ := h
  refine ⟨hframe, fun p hp => ?_, hkept.mono fun g hg => by rw [List.map_append]; exact List.mem_append_left _ hg⟩
  rcases List.mem_append.1 hp with hp | hp
  · exact hvals p hp
  · rw [List.mem_singleton.1 hp, hget, hw]

/-- Stores that are made under a condition. -/
theorem onlyStores.cond {l m : List (Fld × Nat)} {s t u : State} (c : Prop) [Decidable c] (h : onlyStores l s t)
    (hc : c → onlyStores (l ++ m) s u) : onlyStores (l ++ if c then m else []) s (if c then u else t) := by
  split
  · next h' => exact hc h'
  · rwa [List.append_nil]

theorem forEach_append {α : Type} (l m : List α) (s : State) (f : α → State → State) :
    forEach (l ++ m) s f = forEach m (forEach l s f) f := List.foldl_append

/-- A loop over the numbers below n whose rounds each store fields of their own. -/
theorem onlyStores.range {s : State} {f : Nat → State → State} {fs : Nat → List (Fld × Nat)} (n : Nat)
    (hf : ∀ k < n, ∀ t, onlyStores ((List.range k).flatMap fs) s t → onlyStores ((List.range k).flatMap fs ++ fs k) s (f k t)) :
    onlyStores ((List.range n).flatMap fs) s (forEach (List.range n) s f) := by
  induction n with
  | zero => exact onlyStores.nil s
  | succ n ih =>
    rw [List.range_succ, List.flatMap_append, List.flatMap_singleton, forEach_append]
    exact hf n n.lt_succ_self _ (ih fun k hk => hf k (hk.trans n.lt_succ_self))

/-- A loop over registers that stores a low and a high half of each, where the high half may depend on what stood there. -/
theorem onlyStores.halfwords {s : State} {f : Nat → State → State} {a x y : Nat → Nat} (n : Nat) (ha : ∀ i k, i < k → a i ≠ a k)
    (hx : ∀ k, x k < 2 ^ 16) (hy : ∀ k, y k < 2 ^ 16)
    (hf : ∀ k t, t.get ⟨a k, 16, 16⟩ = s.get ⟨a k, 16, 16⟩ → f k t = (t.put ⟨a k, 0, 16⟩ (x k)).put ⟨a k, 16, 16⟩ (y k)) :
    onlyStores ((List.range n).flatMap fun k => [(⟨a k, 0, 16⟩, x k), (⟨a k, 16, 16⟩, y k)]) s (forEach (List.range n) s f) := by
  refine onlyStores.range n fun k _ t h => ?_
  have hap : ∀ g : Fld, g.addr = a k →
      ∀ p ∈ (List.range k).flatMap fun k => [((⟨a k, 0, 16⟩ : Fld), x k), (⟨a k, 16, 16⟩, y k)], p.1.apart g := by
    intro g hg p hp
    obtain ⟨i, hi, hp⟩ := List.mem_flatMap.1 hp
    have hne : a i ≠ g.addr := hg ▸ ha i k (List.mem_range.1 hi)
    simp only [List.mem_cons, List.not_mem_nil, or_false] at hp
    rcases hp with rfl | rfl <;> exact ⟨Nat.le_of_ble_eq_true rfl, .inl hne⟩
  have hlow := h.put ⟨a k, 0, 16⟩ _ _ (Nat.le_of_ble_eq_true rfl) (Nat.mod_eq_of_lt (hx k)) (hap _ rfl)
  rw [hf k t (h.get _ (hap _ rfl)), List.append_cons]
  refine hlow.put ⟨a k, 16, 16⟩ _ _ (Nat.le_of_ble_eq_true rfl) (Nat.mod_eq_of_lt (hy k)) ?_
  exact List.forall_mem_append.2 ⟨hap ⟨a k, 16, 16⟩ rfl, List.forall_mem_singleton.2
    ⟨Nat.le_of_ble_eq_true rfl, .inr (.inr (Nat.le_of_ble_eq_true rfl))⟩⟩

end Sys2Proof.Machine
end

/-! SUPPORT and CERTIFICATES. A handover request of a slab by its cases, and the end of its drain. -/

section
namespace Sys2Proof.Machine

/-! A handover request, case by case (R433). -/

theorem State.handover_of_stranger {s : State} {slab : Nat} {g : Agent} {no ns : Nat} (h : s.owns slab g = false)
    (hg : g.code.val ≠ 1) : s.handover slab g no ns = s.ownViol slab g.code true 0 :=
  if_pos (by simp [h, hg])

theorem State.handover_of_barred {s : State} {slab : Nat} {g : Agent} {no ns : Nat} (h : s.owns slab g = true ∨ g.code.val = 1)
    (hbar : 9 ≤ no ∨ s.get (F.SLAB_OWNER_OWNER slab) = 9 ∨ (s.slabs.draining.any fun x => x.1 = slab) = true) :
    s.handover slab g no ns = s.set (F.SLAB_STATUS_HO_REJECT slab) :=
  (if_neg (not_not_intro h)).trans (if_pos hbar)

theorem State.handover_of_same {s : State} {slab : Nat} {g : Agent} {no ns sub : Nat} (h : s.owns slab g = true ∨ g.code.val = 1)
    (hopen : ¬ (9 ≤ no ∨ s.get (F.SLAB_OWNER_OWNER slab) = 9 ∨ (s.slabs.draining.any fun x => x.1 = slab) = true))
    (hsub : sub = if no = 4 then ns else 0)
    (hsame : no = s.get (F.SLAB_OWNER_OWNER slab) ∧ sub = s.get (F.SLAB_OWNER_OWNER_SUB slab)) :
    s.handover slab g no ns = s.set (F.SLAB_STATUS_HANDOVER_DONE slab) := by
  subst hsub
  exact (if_neg (not_not_intro h)).trans ((if_neg hopen).trans (if_pos hsame))

/-- The slab begins to drain towards a new owner. -/
def State.drainFor (slab no sub : Nat) (s : State) : State :=
  { s with slabs := { s.slabs with draining := s.slabs.draining ++ [(slab, no, sub)] } }

theorem State.handover_of_other {s : State} {slab : Nat} {g : Agent} {no ns sub : Nat} (h : s.owns slab g = true ∨ g.code.val = 1)
    (hopen : ¬ (9 ≤ no ∨ s.get (F.SLAB_OWNER_OWNER slab) = 9 ∨ (s.slabs.draining.any fun x => x.1 = slab) = true))
    (hsub : sub = if no = 4 then ns else 0)
    (hother : ¬ (no = s.get (F.SLAB_OWNER_OWNER slab) ∧ sub = s.get (F.SLAB_OWNER_OWNER_SUB slab))) :
    s.handover slab g no ns =
      ((s.set (F.SLAB_STATUS_HANDOVER_DONE slab) false).set (F.SLAB_STATUS_DRAINING slab)).drainFor slab no sub := by
  subst hsub
  exact (if_neg (not_not_intro h)).trans ((if_neg hopen).trans (if_neg hother))

/-! A handover's completion (R433). -/

/-- Neither the handover of a slab nor the accesses that it held are on record any longer. -/
def State.drainOver (slab : Nat) (s : State) : State :=
  { s with slabs := { s.slabs with
    draining := s.slabs.draining.filter (fun x => x.1 ≠ slab), held := s.slabs.held.filter (fun h => h.1 / 131072 ≠ slab) } }

/-- The slab with its new owner. -/
def State.handedOver (s : State) (slab code sub : Nat) : State :=
  ((((s.put (F.SLAB_OWNER_OWNER slab) code).put (F.SLAB_OWNER_OWNER_SUB slab) sub).set (F.SLAB_STATUS_DRAINING slab) false).set
    (F.SLAB_STATUS_HANDOVER_DONE slab)).drainOver slab

theorem State.handedOver_stores (s : State) {slab code sub : Nat} (hcode : code < 16) (hsub : sub < 16) :
    onlyStores [(F.SLAB_OWNER_OWNER slab, code), (F.SLAB_OWNER_OWNER_SUB slab, sub), (F.SLAB_STATUS_DRAINING slab, 0),
        (F.SLAB_STATUS_HANDOVER_DONE slab, 1)] (s.drainOver slab) (s.handedOver slab code sub) :=
  have hregs : R.SLAB_OWNER slab ≠ R.SLAB_STATUS slab := by rw [R.SLAB_OWNER, R.SLAB_STATUS]; omega
  ((((onlyStores.one s (F.SLAB_OWNER_OWNER slab) _ _ (Nat.le_of_ble_eq_true rfl) (Nat.mod_eq_of_lt hcode)).put
    (F.SLAB_OWNER_OWNER_SUB slab) _ _ (Nat.le_of_ble_eq_true rfl) (Nat.mod_eq_of_lt hsub)
    (by simp [F.SLAB_OWNER_OWNER, F.SLAB_OWNER_OWNER_SUB])).set (F.SLAB_STATUS_DRAINING slab) false (Nat.le_of_ble_eq_true rfl) rfl
    (by simp [F.SLAB_OWNER_OWNER, F.SLAB_OWNER_OWNER_SUB, F.SLAB_STATUS_DRAINING, hregs])).set
    (F.SLAB_STATUS_HANDOVER_DONE slab) true (Nat.le_of_ble_eq_true rfl) rfl
    (by simp [F.SLAB_OWNER_OWNER, F.SLAB_OWNER_OWNER_SUB, F.SLAB_STATUS_DRAINING, F.SLAB_STATUS_HANDOVER_DONE, hregs])).aside
    fun _ _ => ⟨rfl, rfl, rfl⟩

theorem State.drained_of_idle {s : State} {slab : Nat} (h : (s.slabs.draining.find? fun x => x.1 = slab) = none) :
    s.drained slab = s := by
  unfold State.drained
  rw [h]

theorem State.drained_of_draining {s : State} {slab code sub : Nat}
    (h : (s.slabs.draining.find? fun x => x.1 = slab) = some (slab, code, sub)) :
    s.drained slab = State.startRepairs (State.answerHandovers
      (forEach (s.slabs.held.filter fun h => h.1 / 131072 = slab) (s.handedOver slab code sub)
        fun h s => s.slabPut slab (h.1 % 131072) h.2.1 h.2.2.1) slab) := by
  unfold State.drained
  rw [h]
  rfl

/-- Settles O26: the request by the lemma of its case, and the drain's end by its two. -/
theorem slabHandover : Obligations.SlabHandover := by
  unfold Obligations.SlabHandover
  refine ⟨fun s slab g no ns sub hsub => ?_, fun s slab h => congrArg Host.Outcome.next (State.drained_of_idle h),
    fun s slab code sub h hcode hsub => ⟨_, s.handedOver_stores hcode hsub,
      congrArg Host.Outcome.next (State.drained_of_draining h)⟩⟩
  have hexec : exec (.slabHandover (.register slab g no ns)) s = .next (s.handover slab g no ns) := rfl
  have hno : no = 4 ↔ no.val = 4 := Fin.ext_iff
  have hcode : g.code = 1 ↔ g.code.val = 1 := Fin.ext_iff
  simp only [hno] at hsub
  rw [hexec]
  split_ifs with hstranger hbar hsame
  · rw [State.handover_of_stranger hstranger.1 fun e => hstranger.2 (hcode.2 e)]
  all_goals
    have howns : s.owns slab g = true ∨ g.code.val = 1 := by
      rwa [not_and_or, Bool.not_eq_false, not_not, hcode] at hstranger
  · exact ⟨_, congrArg Host.Outcome.next (State.handover_of_barred howns hbar),
      .oneSet s (F.SLAB_STATUS_HO_REJECT slab) true (Nat.le_of_ble_eq_true rfl) rfl⟩
  · exact ⟨_, congrArg Host.Outcome.next (State.handover_of_same howns hbar hsub hsame),
      .oneSet s (F.SLAB_STATUS_HANDOVER_DONE slab) true (Nat.le_of_ble_eq_true rfl) rfl⟩
  · exact ⟨_, congrArg Host.Outcome.next (State.handover_of_other howns hbar hsub hsame),
      ((onlyStores.oneSet s (F.SLAB_STATUS_HANDOVER_DONE slab) false (Nat.le_of_ble_eq_true rfl) rfl).set
        (F.SLAB_STATUS_DRAINING slab) true (Nat.le_of_ble_eq_true rfl) rfl
        (by simp [F.SLAB_STATUS_HANDOVER_DONE, F.SLAB_STATUS_DRAINING])).aside fun _ _ => ⟨rfl, rfl, rfl⟩⟩

end Sys2Proof.Machine
end

/-! SUPPORT and CERTIFICATES. The weathering monitor's sensors: a second, the rings, the diodes, and the canaries. -/

section
namespace Sys2Proof.Machine

/-! A second (R34, R423, R424, R432). -/

/-- What is limited to once in a second begins afresh, and the seconds since the reset count. -/
def State.afresh (s : State) : State :=
  { s with
    age := { s.age with sinceReset := s.age.sinceReset + 1 }, safe := { s.safe with thisSecond := [] },
    slabs := { s.slabs with violThisSecond := [] }, banks := { s.banks with uncorrThisSecond := 0 } }

theorem State.second_stores (s : State) : onlyStores
    ([(F.SYS_UPTIME_SECONDS, min (2 ^ F.SYS_UPTIME_SECONDS.width - 1) (s.get F.SYS_UPTIME_SECONDS + 1))] ++
      (if s.power = .run then
        [(F.SYS_RUN_SECS_COUNT, min (2 ^ F.SYS_RUN_SECS_COUNT.width - 1) (s.get F.SYS_RUN_SECS_COUNT + 1))] else []) ++
      (if s.get F.TIME_STATUS_MODE = 3 then
        [(F.TIME_HOLDOVER_SECONDS, min (2 ^ F.TIME_HOLDOVER_SECONDS.width - 1) (s.get F.TIME_HOLDOVER_SECONDS + 1))] else []))
    s.afresh s.second := by
  have hup := (onlyStores.nil s).bumpSat F.SYS_UPTIME_SECONDS (k := 1) (by decide) (by simp)
  have hrun := hup.cond (s.power = .run) fun _ => hup.bumpSat F.SYS_RUN_SECS_COUNT (k := 1) (by decide) (by simp +decide)
  have hmode := hrun.get F.TIME_STATUS_MODE (by simp only [List.nil_append, List.forall_mem_append]; split <;> simp +decide)
  have hhold := hrun.cond (s.get F.TIME_STATUS_MODE = 3) fun _ =>
    hrun.bumpSat F.TIME_HOLDOVER_SECONDS (k := 1) (by decide)
      (by simp only [List.nil_append, List.forall_mem_append]; split <;> simp +decide)
  rw [← hmode] at hhold ⊢
  exact hhold.aside (u := State.afresh) fun _ _ => ⟨rfl, rfl, rfl⟩

theorem State.second_power (s : State) : s.second.power = s.power := by rw [s.second_stores.1]; rfl

/-- A second leaves the registers above those of the system, of media time and of the dispatcher. -/
theorem State.second_get (s : State) {f : Fld} (h : 0x20000 ≤ f.addr) : s.second.get f = s.get f := by
  have hlow : ∀ g ∈ [F.SYS_UPTIME_SECONDS, F.SYS_RUN_SECS_COUNT, F.TIME_HOLDOVER_SECONDS], g.addr < 0x20000 := by decide
  refine s.second_stores.get f fun p hp => ?_
  have hp : p.1 ∈ [F.SYS_UPTIME_SECONDS, F.SYS_RUN_SECS_COUNT, F.TIME_HOLDOVER_SECONDS] ∧ p.1.lo + p.1.width ≤ 32 := by
    revert p
    simp only [List.forall_mem_append]
    refine ⟨⟨by simp +decide, ?_⟩, ?_⟩ <;> split <;> simp +decide
  exact ⟨hp.2, .inl fun e => by have := hlow p.1 hp.1; omega⟩

theorem State.second_ageOn (s : State) : s.second.ageOn = (s.flag F.AGE_CTRL_EN && s.running) := by
  rw [State.ageOn, State.flag, s.second_get (by decide), State.running, State.second_power, Bool.decide_and, Bool.decide_eq_true,
    Bool.decide_eq_true]
  rfl

/-! The rings (R494). -/

/-- The reading of a ring, and the least one of the hour with it. -/
def State.ringShown (s : State) (x k m : Nat) : State := (s.put (F.AGE_RING_SLACK k) x).put (F.AGE_RING_SLACK_MIN k) m

/-- The readings of all rings, the first of an hour or a later one. -/
def State.ringsShown (s : State) (x : Nat → Nat) (first : Bool) : State :=
  forEach (List.range 32) s fun k s => s.ringShown (x k) k (if first then x k else min (x k) (s.get (F.AGE_RING_SLACK_MIN k)))

/-- Each ring's least slack is read before that ring's is stored. -/
theorem State.ringsShown_stores (s : State) (x : Nat → Nat) (first : Bool) (hx : ∀ k, x k < 2 ^ 16) :
    onlyStores ((List.range 32).flatMap fun k => [(F.AGE_RING_SLACK k, x k),
        (F.AGE_RING_SLACK_MIN k, if first then x k else min (x k) (s.get (F.AGE_RING_SLACK_MIN k)))]) s
      (s.ringsShown x first) := by
  refine onlyStores.halfwords (a := R.AGE_RING) 32 (fun i k _ => by rw [R.AGE_RING, R.AGE_RING]; omega) hx (fun k => ?_)
    fun k t h => ?_
  · have := hx k
    split <;> omega
  · have hget : t.get (F.AGE_RING_SLACK_MIN k) = s.get (F.AGE_RING_SLACK_MIN k) := h
    rw [hget]
    rfl

theorem forEach_zipIdx {α : Type} (n : Nat) (g : Nat → α) (s : State) (f : α × Nat → State → State) :
    forEach ((List.range n).map g).zipIdx s f = forEach (List.range n) s fun k => f (g k, k) := by
  have hidx : ((List.range n).map g).zipIdx = (List.range n).map fun k => (g k, k) :=
    List.ext_getElem (by simp) fun i _ _ => by simp
  rw [hidx]
  exact List.foldl_map

theorem exec_ringSensorRead_of_off {s : State} (slacks : List Nat) (h : s.running = false) :
    exec (.ringSensorRead slacks) s = .next s :=
  congrArg Host.Outcome.next (if_pos (by simp [h]))

theorem exec_ringSensorRead_of_unmonitored {s : State} (slacks : List Nat) (h : s.running = true)
    (hen : s.flag F.AGE_CTRL_EN = false) : exec (.ringSensorRead slacks) s = .next s.second :=
  congrArg Host.Outcome.next ((if_neg (by simp [h])).trans (if_pos (by simp [State.second_ageOn, hen])))

theorem exec_ringSensorRead_of_monitored {s t : State} {slacks : List Nat} {x : Nat → Nat} (h : s.running = true)
    (hen : s.flag F.AGE_CTRL_EN = true) (hx : x = fun k => min 65535 (slacks.getD k 65535))
    (ht : t = s.second.ringsShown x (decide (s.second.age.slackN = 0))) :
    exec (.ringSensorRead slacks) s = .next { t with age := { t.age with
      slackSum := t.age.slackSum + ((List.range 32).map x).sum, slackN := t.age.slackN + 32 } } := by
  rw [State.ringsShown, ← forEach_zipIdx 32 x s.second fun p t =>
    t.ringShown p.1 p.2 (if decide (s.second.age.slackN = 0) then p.1 else min p.1 (t.get (F.AGE_RING_SLACK_MIN p.2)))] at ht
  subst hx ht
  exact congrArg Host.Outcome.next ((if_neg (by simp [h])).trans (if_neg (by simp [State.second_ageOn, hen, h])))

/-- A reading of the rings shows each, keeps the least of the hour, and adds to the hour's sum (R494). -/
theorem exec_ringSensorRead_stores {s : State} {slacks : List Nat} (h : s.running = true) (hen : s.flag F.AGE_CTRL_EN = true) :
    ∃ t, onlyStores ((List.range 32).flatMap fun k => [(F.AGE_RING_SLACK k, min 65535 (slacks.getD k 65535)),
        (F.AGE_RING_SLACK_MIN k, if s.age.slackN = 0 then min 65535 (slacks.getD k 65535)
          else min (min 65535 (slacks.getD k 65535)) (s.get (F.AGE_RING_SLACK_MIN k)))]) s.second t ∧
      exec (.ringSensorRead slacks) s = .next { t with age := { t.age with
        slackSum := s.age.slackSum + ((List.range 32).map fun k => min 65535 (slacks.getD k 65535)).sum,
        slackN := s.age.slackN + 32 } } := by
  obtain ⟨x, hx⟩ : ∃ x, x = fun k => min 65535 (slacks.getD k 65535) := ⟨_, rfl⟩
  obtain ⟨t, ht⟩ : ∃ t, t = s.second.ringsShown x (decide (s.second.age.slackN = 0)) := ⟨_, rfl⟩
  have hstores := s.second.ringsShown_stores x (decide (s.second.age.slackN = 0)) fun k => by
    rw [hx]
    exact Nat.lt_succ_of_le (Nat.min_le_left _ _)
  rw [← ht] at hstores
  have hexec := exec_ringSensorRead_of_monitored h hen hx ht
  have hage : t.age = { s.age with sinceReset := s.age.sinceReset + 1 } := by
    rw [hstores.1, s.second_stores.1]
    rfl
  have hfirst : s.second.age.slackN = s.age.slackN := by rw [s.second_stores.1]; rfl
  have hget : ∀ k, s.second.get (F.AGE_RING_SLACK_MIN k) = s.get (F.AGE_RING_SLACK_MIN k) := fun k =>
    s.second_get (show 0x20000 ≤ R.AGE_RING k by rw [R.AGE_RING]; omega)
  refine ⟨t, ?_, hexec.trans ?_⟩
  · simpa only [hfirst, hget, decide_eq_true_eq, hx] using hstores
  · rw [hage, hx]

/-! The diodes (R412, R494). -/

theorem unsigned_lt_two_pow (n : Nat) (i : Int) : unsigned n i < 2 ^ n := by
  have hpos : (0 : Int) < (2 ^ n : Nat) := by exact_mod_cast Nat.two_pow_pos n
  have := Int.emod_lt_of_pos i hpos
  have := Int.emod_nonneg i hpos.ne'
  rw [unsigned]
  omega

/-- The temperatures of the 16 diodes, two to a register. -/
def State.diodesShown (s : State) (x : Nat → Int) : State :=
  forEach (List.range 8) s fun k s =>
    (s.put (F.AGE_THERM_TJ_EVEN k) (unsigned 16 (x (2 * k)))).put (F.AGE_THERM_TJ_ODD k) (unsigned 16 (x (2 * k + 1)))

theorem State.diodesShown_stores (s : State) (x : Nat → Int) :
    onlyStores ((List.range 8).flatMap fun k => [(F.AGE_THERM_TJ_EVEN k, unsigned 16 (x (2 * k))),
      (F.AGE_THERM_TJ_ODD k, unsigned 16 (x (2 * k + 1)))]) s (s.diodesShown x) :=
  onlyStores.halfwords (a := R.AGE_THERM) 8 (fun i k _ => by rw [R.AGE_THERM, R.AGE_THERM]; omega)
    (fun _ => unsigned_lt_two_pow 16 _) (fun _ => unsigned_lt_two_pow 16 _) fun _ _ _ => rfl

/-- The hour's sum and greatest of the temperatures with 16 more. -/
def State.tempsSummed (xs : List Int) (s : State) : State :=
  { s with age := { s.age with
    tjSum := s.age.tjSum + xs.sum, tjN := s.age.tjN + 16,
    tjMax := if s.age.tjN = 0 then xs.foldl max (xs.headD 0) else max s.age.tjMax (xs.foldl max (xs.headD 0)) } }

theorem exec_thermalRead_of_off {s : State} (temps : List Int)
    (h : s.flag F.AGE_CTRL_EN = false ∨ s.running = false ∧ s.power ≠ .lull) : exec (.thermalRead temps) s = .next s :=
  congrArg Host.Outcome.next (if_pos (by simpa using h))

theorem exec_thermalRead_of_monitored {s t : State} {temps xs : List Int} (hen : s.flag F.AGE_CTRL_EN = true)
    (h : s.running = true ∨ s.power = .lull) (hxs : xs = (List.range 16).map fun k => clampI (-32768) 32767 (temps.getD k 0))
    (ht : t = (s.diodesShown fun k => xs.getD k 0).tempsSummed xs) :
    exec (.thermalRead temps) s = .next (
      if t.tooHot = true ∧ s.tooHot = false then t.raise Mech.supply 0xFFFF 0 0 0
      else if s.tooHot = true ∧ t.tooHot = false then t.unraise Mech.supply else t) := by
  simp only [← Bool.not_eq_true]
  subst hxs ht
  refine congrArg Host.Outcome.next (if_neg ?_)
  rcases h with h | h <;> simp [hen, h]

/-- A reading of the diodes shows each; passing 110 °C raises SUPPLY, and falling below ends its condition (R412, R494). -/
theorem exec_thermalRead_stores {s : State} {temps : List Int} (hen : s.flag F.AGE_CTRL_EN = true)
    (h : s.running = true ∨ s.power = .lull) : ∃ (t : State) (age : AgeSt),
      onlyStores ((List.range 8).flatMap fun k =>
          [(F.AGE_THERM_TJ_EVEN k, unsigned 16 (clampI (-32768) 32767 (temps.getD (2 * k) 0))),
            (F.AGE_THERM_TJ_ODD k, unsigned 16 (clampI (-32768) 32767 (temps.getD (2 * k + 1) 0)))]) { s with age := age } t ∧
      age = { s.age with tjSum := age.tjSum, tjN := s.age.tjN + 16, tjMax := age.tjMax } ∧
      exec (.thermalRead temps) s = .next (
        if t.tooHot = true ∧ s.tooHot = false then t.raise Mech.supply 0xFFFF 0 0 0
        else if s.tooHot = true ∧ t.tooHot = false then t.unraise Mech.supply else t) := by
  obtain ⟨xs, hxs⟩ : ∃ xs, xs = (List.range 16).map fun k => clampI (-32768) 32767 (temps.getD k 0) := ⟨_, rfl⟩
  have hstores := (s.diodesShown_stores fun k => xs.getD k 0).aside (u := State.tempsSummed xs) fun _ _ => ⟨rfl, rfl, rfl⟩
  have hget : ∀ i < 16, xs.getD i 0 = clampI (-32768) 32767 (temps.getD i 0) := fun i hi => by
    simp [hxs, List.getD_eq_getElem?_getD, hi]
  have hlist : ((List.range 8).flatMap fun k => [(F.AGE_THERM_TJ_EVEN k, unsigned 16 (xs.getD (2 * k) 0)),
      (F.AGE_THERM_TJ_ODD k, unsigned 16 (xs.getD (2 * k + 1) 0))]) =
    (List.range 8).flatMap fun k => [(F.AGE_THERM_TJ_EVEN k, unsigned 16 (clampI (-32768) 32767 (temps.getD (2 * k) 0))),
      (F.AGE_THERM_TJ_ODD k, unsigned 16 (clampI (-32768) 32767 (temps.getD (2 * k + 1) 0)))] :=
    List.flatMap_congr fun k hk => by
      have := List.mem_range.1 hk
      rw [hget _ (by omega), hget _ (by omega)]
  rw [hlist] at hstores
  exact ⟨_, (s.tempsSummed xs).age, hstores, rfl, exec_thermalRead_of_monitored hen h hxs rfl⟩

/-! The canaries, and the call for a repair (R494, R498). -/

/-- The record of a read of the canaries. -/
def State.canariesCounted (bad : List Nat) (runs : List (Nat × Nat)) (s : State) : State :=
  { s with age := { s.age with
    canaryRuns := runs.map fun x => (x.1, min 3 x.2), canaryFails := s.age.canaryFails + bad.length } }

/-- The number of canaries that failed, and CANARY where one did. -/
def State.canariesShown (s : State) (bad : List Nat) : State :=
  if bad ≠ [] then (s.put F.AGE_STATUS_CANARY_FAIL bad.length).set F.AGE_STATUS_CANARY
  else s.put F.AGE_STATUS_CANARY_FAIL bad.length

theorem State.canariesShown_stores (s : State) {bad : List Nat} (h : bad.length < 256) :
    onlyStores ([(F.AGE_STATUS_CANARY_FAIL, bad.length)] ++ (if bad ≠ [] then [(F.AGE_STATUS_CANARY, 1)] else [])) s
      (s.canariesShown bad) :=
  have hfail := onlyStores.one s F.AGE_STATUS_CANARY_FAIL bad.length _ (by decide) (Nat.mod_eq_of_lt h)
  hfail.cond (bad ≠ []) fun _ => hfail.set F.AGE_STATUS_CANARY true (by decide) rfl (by simp +decide)

theorem exec_canaryRead_of_off {s : State} (failed : List Bool) (h : s.ageOn = false) : exec (.canaryRead failed) s = .next s :=
  congrArg Host.Outcome.next (if_pos (by simp [h]))

theorem exec_canaryRead_of_on {s t : State} {failed : List Bool} {bad : List Nat} {runs : List (Nat × Nat)}
    (hbad : bad = (List.range 32).filter fun n => failed.getD n false)
    (hruns : runs = bad.map fun n => (n, (kget s.age.canaryRuns n).getD 0 + 1)) (h : s.ageOn = true)
    (ht : t = (s.canariesShown bad).canariesCounted bad runs) : exec (.canaryRead failed) s = .next (
      if t.flag F.AGE_CTRL_REPAIR_EN = true then forEach (runs.filter fun x => x.2 = 3) t fun x s => s.repairCall x.1 else t) := by
  subst ht
  rw [State.canariesShown, ite_not, ← ite_not (p := _ = true)]
  subst hruns hbad
  exact congrArg Host.Outcome.next (if_neg (by simp [h]))

/-- A read of the canaries shows how many failed, and each one's third failure in a row calls for a repair (R494, R498). -/
theorem exec_canaryRead_stores {s : State} {failed : List Bool} {bad : List Nat} {runs : List (Nat × Nat)}
    (hbad : bad = (List.range 32).filter fun n => failed.getD n false)
    (hruns : runs = bad.map fun n => (n, (kget s.age.canaryRuns n).getD 0 + 1)) (h : s.ageOn = true) :
    ∃ t, onlyStores ([(F.AGE_STATUS_CANARY_FAIL, bad.length)] ++ (if bad = [] then [] else [(F.AGE_STATUS_CANARY, 1)]))
        { s with age := { s.age with
          canaryRuns := runs.map fun x => (x.1, min 3 x.2), canaryFails := s.age.canaryFails + bad.length } } t ∧
      exec (.canaryRead failed) s = .next (
        if s.flag F.AGE_CTRL_REPAIR_EN = true then forEach (runs.filter fun x => x.2 = 3) t fun x s => s.repairCall x.1
        else t) := by
  have hlen : bad.length < 256 := by
    have := (List.length_filter_le (fun n => failed.getD n false) (List.range 32)).trans_eq List.length_range
    rw [hbad]
    omega
  have hstores := s.canariesShown_stores hlen
  have hflag := hstores.flag F.AGE_CTRL_REPAIR_EN (by
    simp only [List.forall_mem_append]
    split <;> simp +decide)
  have hexec := exec_canaryRead_of_on hbad hruns h rfl
  rw [show (State.canariesCounted bad runs _).flag F.AGE_CTRL_REPAIR_EN = _ from hflag] at hexec
  rw [ite_not] at hstores
  exact ⟨_, hstores.aside (u := State.canariesCounted bad runs) fun _ _ => ⟨rfl, rfl, rfl⟩, hexec⟩

theorem State.repairCall_of_called {s : State} {slab : Nat}
    (h : slab ∈ s.age.repairDue ∨ s.get (F.SLAB_REPAIR_COL_B slab) ≠ 0xFF) : s.repairCall slab = s :=
  if_pos (by simpa using h)

/-- A slab is due for a repair, of the column with the most corrections where one has been counted. -/
def State.repairNoted (s : State) (slab col : Nat) : State :=
  { s with age := { s.age with
    repairDue := s.age.repairDue ++ [slab], repairCols := if col = 255 then s.age.repairCols else kput s.age.repairCols slab col } }

theorem State.repairCall_stores {s : State} {slab : Nat} (h : slab ∉ s.age.repairDue)
    (hfree : s.get (F.SLAB_REPAIR_COL_B slab) = 0xFF) : ∃ t, onlyStores [(F.AGE_STATUS_REPAIR_DUE, 1)]
        { s with age := { s.age with
          repairDue := s.age.repairDue ++ [slab],
          repairCols := if s.get (F.SLAB_REPAIR_WORST_COL slab) = 255 then s.age.repairCols
            else kput s.age.repairCols slab (s.get (F.SLAB_REPAIR_WORST_COL slab)) } } t ∧
      s.repairCall slab = (t.post 0x0E05 0xFFFF [w32 (slab + s.get (F.SLAB_REPAIR_WORST_COL slab) * 256)]).startRepairs :=
  ⟨_, .oneSet (s.repairNoted slab (s.get (F.SLAB_REPAIR_WORST_COL slab))) F.AGE_STATUS_REPAIR_DUE true (by decide) rfl,
    if_neg (by simp [h, hfree])⟩

end Sys2Proof.Machine
end

/-! SUPPORT and CERTIFICATES. The plan of the weathering monitor: the regulator's read-back, voltage and clock steps, and the end
of a clock step. -/

section
namespace Sys2Proof.Machine

/-! The regulator's read-back (R495). -/

theorem State.avsBad_iff (s : State) (ack : Bool) (mv : Nat) (status : BitVec 16) : s.avsBad ack mv status = true ↔
    ack = false ∨ s.get F.AGE_VDD_TARGET_MV + 10 < mv ∨ mv + 10 < s.get F.AGE_VDD_TARGET_MV ∨ status.getLsbD 15 = true ∨
      status.getLsbD 14 = true ∨ status.getLsbD 2 = true ∨ status.getLsbD 1 = true := by
  rw [State.avsBad, decide_eq_true_eq, Bool.not_eq_true]

/-- What the regulator answered. -/
def State.pmbusShown (s : State) (ack : Bool) (mv : Nat) (status : BitVec 16) : State :=
  if ack then (s.put F.AGE_PMBUS_STATUS_WORD status.toNat).put F.AGE_PMBUS_VOUT_MV (min 4095 mv) else s

theorem State.pmbusShown_stores (s : State) (ack : Bool) (mv : Nat) (status : BitVec 16) :
    onlyStores ([] ++ if ack then [(F.AGE_PMBUS_STATUS_WORD, status.toNat), (F.AGE_PMBUS_VOUT_MV, min 4095 mv)] else []) s
      (s.pmbusShown ack mv status) :=
  (onlyStores.nil s).cond (ack = true) fun _ =>
    (onlyStores.one s F.AGE_PMBUS_STATUS_WORD _ _ (by decide) (Nat.mod_eq_of_lt status.isLt)).put F.AGE_PMBUS_VOUT_MV _ _
      (by decide) (Nat.mod_eq_of_lt (Nat.lt_succ_of_le (Nat.min_le_left _ _))) (by simp +decide)

/-- The write is over, and the plan is held where its read-back failed. -/
def State.avsOver (bad : Bool) (s : State) : State := { s with age := { s.age with avsBusy := false, avsHold := bad } }

theorem exec_avsReadback_of_idle {s : State} (ack : Bool) (mv : Nat) (status : BitVec 16) (h : s.age.avsBusy = false) :
    exec (.avsReadback ack mv status) s = .next s :=
  congrArg Host.Outcome.next (if_pos (by simp [h]))

theorem exec_avsReadback_of_busy {s t : State} {ack bad : Bool} {mv : Nat} {status : BitVec 16} (h : s.age.avsBusy = true)
    (ht : t = s.pmbusShown ack mv status) (hbad : bad = t.avsBad ack mv status) :
    exec (.avsReadback ack mv status) s = .next (if bad then
      (((t.avsOver bad).set F.AGE_STATUS_AVS_ERR).post 0x0E04 0xFFFF [w32 status.toNat, w32 mv]).raise Mech.supply 0xFFFF 0 0 0
      else t.avsOver bad) := by
  have hexec : exec (.avsReadback ack mv status) s = execAvsReadback ack mv status s := rfl
  rw [hexec, execAvsReadback, if_neg (by simp [h]), ← State.pmbusShown, ← ht, hbad]
  rfl

/-- A read-back that fails shows it, raises SUPPLY and holds the plan (R495). -/
theorem exec_avsReadback_stores {s : State} {ack : Bool} {mv target : Nat} {status : BitVec 16}
    (htarget : target = s.get F.AGE_VDD_TARGET_MV) (h : s.age.avsBusy = true) : ∃ (t : State) (bad : Bool),
      (bad = true ↔ ack = false ∨ target + 10 < mv ∨ mv + 10 < target ∨ status.getLsbD 15 = true ∨ status.getLsbD 14 = true ∨
        status.getLsbD 2 = true ∨ status.getLsbD 1 = true) ∧
      onlyStores ((if ack then [(F.AGE_PMBUS_STATUS_WORD, status.toNat), (F.AGE_PMBUS_VOUT_MV, min 4095 mv)] else []) ++
          (if bad then [(F.AGE_STATUS_AVS_ERR, 1)] else []))
        { s with age := { s.age with avsBusy := false, avsHold := bad } } t ∧
      exec (.avsReadback ack mv status) s = .next (
        if bad then (t.post 0x0E04 0xFFFF [w32 status.toNat, w32 mv]).raise Mech.supply 0xFFFF 0 0 0 else t) := by
  obtain ⟨u, hu⟩ : ∃ u, u = s.pmbusShown ack mv status := ⟨_, rfl⟩
  obtain ⟨bad, hbad⟩ : ∃ bad, bad = u.avsBad ack mv status := ⟨_, rfl⟩
  have hshown := s.pmbusShown_stores ack mv status
  rw [← hu, List.nil_append] at hshown
  have hget : u.get F.AGE_VDD_TARGET_MV = s.get F.AGE_VDD_TARGET_MV := hshown.get _ (by split <;> simp +decide)
  have hover := hshown.aside (u := State.avsOver bad) fun _ _ => ⟨rfl, rfl, rfl⟩
  have hstores := hover.cond (bad = true) fun _ => hover.set F.AGE_STATUS_AVS_ERR true (by decide) rfl (by split <;> simp +decide)
  refine ⟨_, bad, ?_, hstores, (exec_avsReadback_of_busy h hu hbad).trans ?_⟩
  · rw [hbad, State.avsBad_iff, hget, htarget]
  · by_cases hb : bad = true
    · rw [if_pos hb, if_pos hb, if_pos hb]
    · rw [if_neg hb, if_neg hb, if_neg hb]

/-! The steps of the plan (R495–R497). -/

theorem State.voltageDone_eq (s : State) : s.voltageDone = !(s.flag F.AGE_CTRL_AVS_EN &&
    decide (s.get F.AGE_VDD_TARGET_MV + 5 ≤ s.get F.AGE_VDD_INITIAL_MV + 60) && decide (s.get F.AGE_VDD_TARGET_MV + 5 ≤ 840)) := by
  rw [State.voltageDone, Bool.eq_iff_iff]
  cases s.flag F.AGE_CTRL_AVS_EN <;> simp
  omega

theorem State.planStep_cases {s : State} {v : Bool} (hv : v = !s.voltageDone) : s.planStep =
    if s.age.avsHold = true ∧ s.flag F.AGE_CTRL_AVS_EN = true then { s with age := { s.age with avsBusy := true } }
    else if s.age.closing.isSome then s
    else if s.get F.AGE_PLAN_ECLK_STEPS < min 4 (s.get F.AGE_CTRL_DERATE_MIN) then s.clockStep
    else if s.age.slackN = 0 ∨ s.get F.AGE_LIMITS_MARGIN_LOW ≤ s.slackMin then s
    else if v then s.voltageStep
    else if s.get F.AGE_PLAN_ECLK_STEPS < 4 then s.clockStep
    else s.planExhausted := by
  rw [hv, State.planStep]
  simp only [Bool.not_eq_true, Bool.not_eq_true']

/-- The target of a voltage step, its count and its flag. -/
def State.voltageRaised (s : State) : State :=
  ((s.put F.AGE_VDD_TARGET_MV (s.get F.AGE_VDD_TARGET_MV + 5)).bumpSat F.AGE_PLAN_VDD_STEPS).set F.AGE_STATUS_VSTEP_EVT

/-- A voltage step begins the plan where it has not begun. -/
def State.voltageShown (s : State) : State :=
  if s.voltageRaised.get F.AGE_STATUS_PLAN_STATE = 0 then s.voltageRaised.put F.AGE_STATUS_PLAN_STATE 1 else s.voltageRaised

theorem State.voltageShown_stores (s : State) : onlyStores [(F.AGE_VDD_TARGET_MV, (s.get F.AGE_VDD_TARGET_MV + 5) % 4096),
    (F.AGE_PLAN_VDD_STEPS, min 255 (s.get F.AGE_PLAN_VDD_STEPS + 1)), (F.AGE_STATUS_VSTEP_EVT, 1),
    (F.AGE_STATUS_PLAN_STATE, max 1 (s.get F.AGE_STATUS_PLAN_STATE))] s s.voltageShown := by
  have hraised : onlyStores _ s s.voltageRaised :=
    ((onlyStores.one s F.AGE_VDD_TARGET_MV _ _ (by decide) rfl).bumpSat F.AGE_PLAN_VDD_STEPS (by decide) (by simp +decide)).set
      F.AGE_STATUS_VSTEP_EVT true (by decide) rfl (by simp +decide)
  have hget := hraised.get F.AGE_STATUS_PLAN_STATE (by simp +decide)
  rw [State.voltageShown, hget]
  split
  · next h =>
    rw [h]
    exact hraised.put F.AGE_STATUS_PLAN_STATE 1 1 (by decide) rfl (by simp +decide)
  · next h => exact hraised.keep F.AGE_STATUS_PLAN_STATE (by omega) (by simp +decide)

theorem State.voltageStep_eq (s : State) : s.voltageStep =
    { s.voltageShown.post 0x0E01 0xFFFF [w32 (s.get F.AGE_VDD_TARGET_MV + 5)] with age := { s.age with avsBusy := true } } := by
  have hage : (s.voltageShown.post 0x0E01 0xFFFF [w32 (s.get F.AGE_VDD_TARGET_MV + 5)]).age = s.age := by
    rw [State.post_eq, s.voltageShown_stores.1]
  rw [← hage]
  rfl

theorem State.planExhausted_of_shown {s : State} (h : s.get F.AGE_STATUS_PLAN_STATE = 4) : s.planExhausted = s := if_pos h

theorem State.planExhausted_of_not {s : State} (h : s.get F.AGE_STATUS_PLAN_STATE ≠ 4) :
    s.planExhausted = (s.put F.AGE_STATUS_PLAN_STATE 4).post 0x0E03 0xFFFF [w32 s.slackMin] := if_neg h

/-! A clock step (R497). -/

/-- The usable slots of the bricks are shown in their own registers. -/
theorem State.setUsable_frame (s : State) (n : Nat) : RegsOnly s (s.setUsable n) ∧
    ∀ f : Fld, (f.addr < 0x20000 ∨ 0x30000 ≤ f.addr) → (s.setUsable n).get f = s.get f := by
  have hbricks : s.variant.bricks + s.variant.spares ≤ 66 := by cases s.variant <;> decide
  refine List.foldlRecOn _ _
    (motive := fun t => RegsOnly s t ∧ ∀ f : Fld, (f.addr < 0x20000 ∨ 0x30000 ≤ f.addr) → t.get f = s.get f)
    ⟨RegsOnly.refl s, fun _ _ => rfl⟩ fun t ht b hb => ?_
  have hlt := List.mem_range.1 hb
  dsimp only
  split
  · refine ⟨ht.1.put _ _, fun f hf => (State.get_put_apart _ _ _ _ (.inl ?_)).trans (ht.2 f hf)⟩
    show f.addr ≠ R.BRICK_VOICES b
    rw [R.BRICK_VOICES]
    omega
  · exact ht

/-- A clock step counts. -/
def State.clockCounted (s : State) : State := s.put F.AGE_PLAN_ECLK_STEPS (s.get F.AGE_PLAN_ECLK_STEPS + 1)

theorem State.clockCounted_get (s : State) (h : s.get F.AGE_PLAN_ECLK_STEPS < 4) :
    s.clockCounted.get F.AGE_PLAN_ECLK_STEPS = s.get F.AGE_PLAN_ECLK_STEPS + 1 :=
  (State.get_put_self _ _ _ (by decide)).trans (Nat.mod_eq_of_lt (show _ < 256 by omega))

/-- Slots close to placement. -/
def State.clockPlanned (s : State) : State :=
  s.clockCounted.setUsable (slotsFor s.clockCounted.plannedMhz s.clockCounted.rate)

def State.clockShown (s : State) : State :=
  ((s.clockPlanned.put F.AGE_STATUS_PLAN_STATE 2).set F.DISP_STATUS_DERATED).set F.AGE_STATUS_DERATED_EVT

theorem State.clockShown_stores (s : State) : onlyStores [(F.AGE_STATUS_PLAN_STATE, 2), (F.DISP_STATUS_DERATED, 1),
    (F.AGE_STATUS_DERATED_EVT, 1)] s.clockPlanned s.clockShown :=
  ((onlyStores.one s.clockPlanned F.AGE_STATUS_PLAN_STATE 2 2 (by decide) rfl).set F.DISP_STATUS_DERATED true (by decide) rfl
    (by simp +decide)).set F.AGE_STATUS_DERATED_EVT true (by decide) rfl (by simp +decide)

theorem State.clockStep_eq (s : State) : s.clockStep =
    { s.clockShown.post 0x0E02 0xFFFF [w32 s.clockShown.usableVoices, w32 s.clockShown.plannedMhz] with
      age := { s.clockShown.age with closing := some (slotsFor s.clockCounted.plannedMhz s.clockCounted.rate) } } := by
  have hage : (s.clockShown.post 0x0E02 0xFFFF [w32 s.clockShown.usableVoices, w32 s.clockShown.plannedMhz]).age =
      s.clockShown.age := by rw [State.post_eq]
  rw [← hage]
  rfl

theorem State.clockPlanned_frame (s : State) : RegsOnly s s.clockPlanned ∧ s.clockPlanned.rate = s.rate ∧
    (s.get F.AGE_PLAN_ECLK_STEPS < 4 → s.clockPlanned.get F.AGE_PLAN_ECLK_STEPS = s.get F.AGE_PLAN_ECLK_STEPS + 1) := by
  obtain ⟨hregs, hget⟩ := s.clockCounted.setUsable_frame (slotsFor s.clockCounted.plannedMhz s.clockCounted.rate)
  exact ⟨hregs.trans rfl, (hget F.TIME_RATE_RATE (by decide)).trans (State.get_put_apart _ _ _ _ (by decide)),
    fun h => (hget F.AGE_PLAN_ECLK_STEPS (by decide)).trans (s.clockCounted_get h)⟩

/-- The slots that a clock step leaves, the figures of its event, and what it shows (R497). -/
theorem State.clockStep_shows (s : State) (h : s.get F.AGE_PLAN_ECLK_STEPS < 4) :
    ∃ (t : State) (n : Nat), n = slotsFor (775 - 25 * s.get F.AGE_PLAN_ECLK_STEPS) s.rate ∧
      t.get F.AGE_STATUS_PLAN_STATE = 2 ∧ t.flag F.DISP_STATUS_DERATED = true ∧ t.flag F.AGE_STATUS_DERATED_EVT = true ∧
      t.get F.AGE_PLAN_ECLK_STEPS = s.get F.AGE_PLAN_ECLK_STEPS + 1 ∧
      s.clockStep = { t.post 0x0E02 0xFFFF [w32 (n * s.variant.bricks), w32 (775 - 25 * s.get F.AGE_PLAN_ECLK_STEPS)] with
        age := { s.age with closing := some n } } := by
  obtain ⟨hregs, hrate, hsteps⟩ := s.clockPlanned_frame
  obtain ⟨hshown, hvals, -⟩ := s.clockShown_stores
  simp only [List.forall_mem_cons] at hvals
  obtain ⟨hplan, hderated, hevt, -⟩ := hvals
  have hcounted : slotsFor s.clockCounted.plannedMhz s.clockCounted.rate =
      slotsFor (775 - 25 * s.get F.AGE_PLAN_ECLK_STEPS) s.rate := by
    rw [State.plannedMhz, s.clockCounted_get h, show s.clockCounted.rate = s.rate from State.get_put_apart _ _ _ _ (by decide)]
    congr 1
    omega
  have hget : s.clockShown.get F.AGE_PLAN_ECLK_STEPS = s.get F.AGE_PLAN_ECLK_STEPS + 1 :=
    (s.clockShown_stores.get _ (by simp +decide)).trans (hsteps h)
  have hmhz : s.clockShown.plannedMhz = 775 - 25 * s.get F.AGE_PLAN_ECLK_STEPS := by
    rw [State.plannedMhz, hget]
    omega
  have hslots : s.clockShown.usableVoices =
      slotsFor (775 - 25 * s.get F.AGE_PLAN_ECLK_STEPS) s.rate * s.variant.bricks := by
    rw [State.usableVoices, hmhz, show s.clockShown.rate = s.rate from (s.clockShown_stores.get _ (by simp +decide)).trans hrate,
      hshown, hregs]
  have hage : s.clockShown.age = s.age := by rw [hshown, hregs]
  refine ⟨s.clockShown, _, rfl, hplan, ?_, ?_, hget, ?_⟩
  · rw [State.flag, hderated]; rfl
  · rw [State.flag, hevt]; rfl
  · rw [s.clockStep_eq, hcounted, hslots, hmhz, hage]

/-! The end of a clock step (R497). -/

theorem exec_derateRelease_of_none {s : State} (h : s.age.closing = none) : exec .derateRelease s = .next s := by
  show execDerateRelease s = _
  rw [execDerateRelease, h]

/-- The jobs of classes 3 to 15 that hold a closed slot are stopped. -/
theorem exec_derateRelease_of_some {s : State} {n : Nat} (h : s.age.closing = some n) : exec .derateRelease s =
    .next (forEach ((s.disp.voices.filter fun v => n ≤ v.src % 128).map Voice.record).dedup s
      fun r s => match s.job? r with
        | some j => if 3 ≤ j.descr.cls then s.stopJob j s.soonest 0x0A else s
        | none => s) := by
  show execDerateRelease s = _
  rw [execDerateRelease, h]
  rfl

theorem exec_eclkChange_of_none {s : State} (h : s.age.closing = none) : exec .eclkChange s = .next s := by
  show execEclkChange s = _
  rw [execEclkChange, h]

theorem State.voicesAbove_ne_nil {s : State} {n : Nat} : s.voicesAbove n ≠ [] ↔ ∃ v ∈ s.disp.voices, n ≤ v.src % 128 := by
  rw [State.voicesAbove, Ne, List.filter_eq_nil_iff]
  simp

/-- No clock step is under way. -/
def State.eclkDone (s : State) : State := { s with age := { s.age with closing := none } }

theorem exec_eclkChange_of_some {s : State} {n : Nat} (h : s.age.closing = some n) : exec .eclkChange s =
    .next (if ∃ v ∈ s.disp.voices, n ≤ v.src % 128 then s
      else ((s.put F.AGE_PLAN_ECLK_MHZ s.plannedMhz).put F.AGE_STATUS_PLAN_STATE 3).eclkDone) := by
  show execEclkChange s = _
  rw [execEclkChange, h]
  simp only [State.voicesAbove_ne_nil]
  rfl

theorem State.eclkChanged_stores (s : State) : onlyStores
    [(F.AGE_PLAN_ECLK_MHZ, 800 - 25 * s.get F.AGE_PLAN_ECLK_STEPS), (F.AGE_STATUS_PLAN_STATE, 3)] s.eclkDone
    ((s.put F.AGE_PLAN_ECLK_MHZ s.plannedMhz).put F.AGE_STATUS_PLAN_STATE 3).eclkDone := by
  have hmhz : s.plannedMhz < 65536 := by rw [State.plannedMhz]; omega
  exact ((onlyStores.one s F.AGE_PLAN_ECLK_MHZ _ _ (by decide) (Nat.mod_eq_of_lt hmhz)).put F.AGE_STATUS_PLAN_STATE 3 3 (by decide)
    rfl (by simp +decide)).aside (u := State.eclkDone) fun _ _ => ⟨rfl, rfl, rfl⟩

end Sys2Proof.Machine
end

/-! SUPPORT and CERTIFICATES. The end of an hour of the weathering monitor, with its record and the hours of the memory tests. -/

section
namespace Sys2Proof.Machine

/-! The hours of the memory tests (R437, R438, R441). -/

/-- An hour more for the march test. -/
def State.hourPassed (s : State) : State := { s with slabs := { s.slabs with hours := s.slabs.hours + 1 } }

theorem State.scrubHour_stores (s : State) :
    onlyStores ([(F.MEMIF_SCRUB_MARCH_HOURS, min 255 s.hourPassed.marchHours)] ++
      (if s.flag F.MEMIF_CTRL_SCRUB_EN then [(F.MEMIF_SCRUB_SLAB_HOURS,
        min (2 ^ F.MEMIF_SCRUB_SLAB_HOURS.width - 1) (s.get F.MEMIF_SCRUB_SLAB_HOURS + 1))] else []) ++
      (if s.flag F.MEMIF_CTRL_BANK_SCRUB_EN then [(F.MEMIF_SCRUB_BANK_HOURS,
        min (2 ^ F.MEMIF_SCRUB_BANK_HOURS.width - 1) (s.get F.MEMIF_SCRUB_BANK_HOURS + 1))] else [])) s.hourPassed s.scrubHour := by
  obtain ⟨u, hu⟩ : ∃ u, u = if s.hourPassed.flag F.MEMIF_CTRL_SCRUB_EN then s.hourPassed.bumpSat F.MEMIF_SCRUB_SLAB_HOURS
    else s.hourPassed := ⟨_, rfl⟩
  obtain ⟨v, hv⟩ : ∃ v, v = if u.flag F.MEMIF_CTRL_BANK_SCRUB_EN then u.bumpSat F.MEMIF_SCRUB_BANK_HOURS else u := ⟨_, rfl⟩
  have hslab := (onlyStores.nil s.hourPassed).cond (s.hourPassed.flag F.MEMIF_CTRL_SCRUB_EN = true) fun _ =>
    (onlyStores.nil s.hourPassed).bumpSat F.MEMIF_SCRUB_SLAB_HOURS (k := 1) (by decide) (by simp)
  rw [← hu] at hslab
  have hbank := hslab.cond (u.flag F.MEMIF_CTRL_BANK_SCRUB_EN = true) fun _ =>
    hslab.bumpSat F.MEMIF_SCRUB_BANK_HOURS (k := 1) (by decide) (by split <;> simp +decide)
  rw [← hv, hslab.flag F.MEMIF_CTRL_BANK_SCRUB_EN (by split <;> simp +decide)] at hbank
  have hmarch := hbank.put F.MEMIF_SCRUB_MARCH_HOURS (min 255 v.marchHours) _ (by decide)
    (Nat.mod_eq_of_lt (Nat.lt_succ_of_le (Nat.min_le_left _ _)))
    (by simp only [List.nil_append, List.forall_mem_append]; constructor <;> split <;> simp +decide)
  have hhours : v.marchHours = s.hourPassed.marchHours := by rw [hbank.1]; rfl
  have hmodel : s.scrubHour = v.put F.MEMIF_SCRUB_MARCH_HOURS (min 255 v.marchHours) := by rw [hv, hu]; rfl
  rw [hmodel]
  rw [hhours] at hmarch ⊢
  exact hmarch.perm ((List.perm_append_comm ..).trans (.of_eq (List.append_assoc ..).symm))

/-! An ageing record (R499). -/

theorem State.noteErase_stores (s : State) (r : Nat) : ∃ x, x ≤ 1 ∧
    onlyStores [(F.MEMIF_REGION_STAT_ERASE_CNT r, min 65535 (s.get (F.MEMIF_REGION_STAT_ERASE_CNT r) + x))] s.draw.2
      (s.noteErase r) :=
  ⟨s.draw.1 % 2, by omega,
    (onlyStores.nil s.draw.2).bumpSat (F.MEMIF_REGION_STAT_ERASE_CNT r) (Nat.le_of_ble_eq_true rfl) (by simp)⟩

theorem State.ageRecord_length (s : State) (droops iout : Nat) : (s.ageRecord droops iout).length = 16 := rfl

theorem State.ageRecord_hours (s : State) (droops iout : Nat) : (s.ageRecord droops iout).getD 1 0 = s.rd R.AGE_HOURS := rfl

/-- A record is put before the others of the log, which holds 131,072. -/
def State.ageLogged (r : AgeRec) (s : State) : State := { s with age := { s.age with log := (r :: s.age.log).take 131072 } }

/-- The erase of a sector of the log where the next record begins one, and WRAPPED after the last. -/
def State.ageSector (s : State) (next : Nat) : State :=
  if next + 1 = 131072 then (if next % 64 = 0 then s.noteErase 5 else s).set F.AGE_LOG_WRAPPED
  else if next % 64 = 0 then s.noteErase 5 else s

theorem State.ageSector_age (s : State) (next : Nat) : (s.ageSector next).age = s.age := by
  unfold State.ageSector
  split_ifs <;> rfl

theorem State.ageAppend_eq (s : State) : s.ageAppend =
    ((s.draw.2.draw.2.ageLogged (s.draw.2.draw.2.ageRecord s.draw.1 s.draw.2.draw.1)).ageSector (s.get F.AGE_LOG_NEXT)).put
      F.AGE_LOG_NEXT ((s.get F.AGE_LOG_NEXT + 1) % 131072) := rfl

/-- A record comes first in the log, and AGE_LOG.NEXT moves on (R499). -/
theorem State.ageAppend_record (s : State) : ∃ r : AgeRec, s.ageAppend.age.log = (r :: s.age.log).take 131072 ∧ r.length = 16 ∧
    r.getD 1 0 = s.rd R.AGE_HOURS ∧ s.ageAppend.get F.AGE_LOG_NEXT = (s.get F.AGE_LOG_NEXT + 1) % 131072 := by
  refine ⟨s.draw.2.draw.2.ageRecord s.draw.1 s.draw.2.draw.1, ?_, State.ageRecord_length _ _ _, State.ageRecord_hours _ _ _, ?_⟩
  · rw [s.ageAppend_eq, State.put_age, State.ageSector_age]
    rfl
  · rw [s.ageAppend_eq, State.get_put_self _ _ _ (by decide)]
    exact Nat.mod_mod _ _

/-! The end of an hour (R496, R498, R499). -/

/-- The sums of the hour begin again. -/
def State.hourCleared (s : State) : State :=
  { s with age := { s.age with
    slackSum := 0, slackN := 0, tjSum := 0, tjN := 0, tjMax := 0, canaryFails := 0, resetsHour := 0, lullMinutes := 0 } }

theorem exec_ageHour_of_off {s : State} (h : s.running = false) : exec .ageHour s = .next s :=
  congrArg Host.Outcome.next (if_pos (by simp [h]))

theorem exec_ageHour_of_running {s a b c d t : State} (h : s.running = true)
    (ha : a = s.wr R.AGE_HOURS (w32 ((s.rd R.AGE_HOURS).toNat + 1))) (hb : b = if a.ageOn then a.planStep else a)
    (hc : c = if (b.rd R.AGE_HOURS).toNat % 24 = 0 ∧ b.ageOn = true ∧ b.flag F.AGE_CTRL_TRIM_EN = true then b.driftCheck else b)
    (hd : d = if c.ageOn then c.trimDueNow.startRepairs else c) (ht : t = d.ageAppend.scrubHour) :
    exec .ageHour s = .next { t with
      age := t.hourCleared.age,
      slabs := if (b.rd R.AGE_HOURS).toNat % 24 = 0 then { t.slabs with columns := [] } else t.slabs } := by
  show execAgeHour s = _
  rw [execAgeHour, if_neg (by simp [h]), ← ha]
  extract_lets _ b' daily c' d' t'
  have hb' : b' = b := hb.symm
  have hc' : c' = c := by
    rw [hc, ← hb']
    simp only [c', daily, decide_eq_true_eq]
  have hd' : d' = d := by rw [hd, ← hc']
  have ht' : t' = t := by rw [ht, ← hd']
  clear_value t'
  subst ht'
  by_cases hday : (b.rd R.AGE_HOURS).toNat % 24 = 0
  · rw [if_pos hday, if_pos (show daily = true by simp only [daily, hb', hday, decide_true])]
    rfl
  · rw [if_neg hday, if_neg (show ¬ daily = true by simp only [daily, hb', hday, decide_false, Bool.false_eq_true, not_false_iff])]
    rfl

end Sys2Proof.Machine
end

/-! SUPPORT and CERTIFICATES. The ends of NOR updates: which copy is installed, what the region then shows, and the
results of an update image. -/

section
namespace Sys2Proof.Machine

/-! The copies of a region (R445). -/

theorem pickCopy_first {a b : NorCopy} (ha : a.valid = true) (h : b.valid = false ∨ b.seq ≤ a.seq) :
    pickCopy a b = some (false, a) :=
  if_pos (by simpa [ha] using h)

theorem pickCopy_second {a b : NorCopy} (hb : b.valid = true) (h : a.valid = false ∨ a.seq < b.seq) :
    pickCopy a b = some (true, b) :=
  (if_neg (by rcases h with h | h <;> simp [h, hb])).trans (if_pos hb)

theorem pickCopy_none {a b : NorCopy} (ha : a.valid = false) (hb : b.valid = false) : pickCopy a b = none :=
  (if_neg (by simp [ha])).trans (if_neg (by simp [hb]))

/-- A new copy takes the place of the one that is not in use. -/
theorem install_cases (a b : NorCopy) (bs : List Byte) (v : W32) (c : NorCopy) (hc : c = ⟨true, max a.seq b.seq + 1, v, bs⟩) :
    (a.valid = true → b.valid = false ∨ b.seq ≤ a.seq → install a b bs v = (a, c)) ∧
    (b.valid = true → a.valid = false ∨ a.seq < b.seq → install a b bs v = (c, b)) ∧
    (a.valid = false → b.valid = false → install a b bs v = (c, b)) := by
  subst hc
  refine ⟨fun ha h => ?_, fun hb h => ?_, fun ha hb => ?_⟩
  · rw [install, pickCopy_first ha h]; rfl
  · rw [install, pickCopy_second hb h]; rfl
  · rw [install, pickCopy_none ha hb]; rfl

/-! The end of a write or an erase of the configuration region (R297, R301). -/

/-- What the region shows at the end. -/
def State.configShown (s : State) : State :=
  (((s.set (F.MEMIF_REGION_STAT_WRITING 3) false).put F.MEMIF_STATUS_NOR_STATE 1).showRegion 3 s.nor.flash.cfgA
    s.nor.flash.cfgB).set F.SYS_STATE_CONFIG_VALID (s.nor.flash.cfgA.valid ∨ s.nor.flash.cfgB.valid)

theorem State.configShown_stores (s : State) : onlyStores
    [(F.MEMIF_REGION_STAT_WRITING 3, 0), (F.MEMIF_STATUS_NOR_STATE, 1), (F.MEMIF_REGION_STAT_VALID_A 3, b2n s.nor.flash.cfgA.valid),
      (F.MEMIF_REGION_STAT_VALID_B 3, b2n s.nor.flash.cfgB.valid),
      (F.MEMIF_REGION_STAT_ACTIVE 3, b2n ((pickCopy s.nor.flash.cfgA s.nor.flash.cfgB).any Prod.fst)),
      (F.SYS_STATE_CONFIG_VALID, b2n (s.nor.flash.cfgA.valid ∨ s.nor.flash.cfgB.valid))] s s.configShown :=
  (((((onlyStores.oneSet s (F.MEMIF_REGION_STAT_WRITING 3) false (by decide) rfl).put F.MEMIF_STATUS_NOR_STATE 1 1 (by decide) rfl
    (by simp +decide)).set (F.MEMIF_REGION_STAT_VALID_A 3) _ (by decide) rfl (by simp +decide)).set
    (F.MEMIF_REGION_STAT_VALID_B 3) _ (by decide) rfl (by simp +decide)).set (F.MEMIF_REGION_STAT_ACTIVE 3) _ (by decide) rfl
    (by simp +decide)).set F.SYS_STATE_CONFIG_VALID _ (by decide) rfl (by simp +decide)

theorem State.configDone_eq (s : State) (ok : Bool) : s.configDone ok =
    (if ok then s.configShown else s.configShown.set F.MEMIF_STATUS_NOR_ERR).post 0x0103 0xFFFF [if ok then 0 else 0x04] := rfl

/-- The end shows the two copies, and NOR_ERR where it failed (R297, R301). -/
theorem State.configDone_stores (s : State) (ok : Bool) : ∃ t,
    onlyStores ([(F.MEMIF_REGION_STAT_WRITING 3, 0), (F.MEMIF_STATUS_NOR_STATE, 1),
        (F.MEMIF_REGION_STAT_VALID_A 3, b2n s.nor.flash.cfgA.valid),
        (F.MEMIF_REGION_STAT_VALID_B 3, b2n s.nor.flash.cfgB.valid),
        (F.MEMIF_REGION_STAT_ACTIVE 3, b2n ((pickCopy s.nor.flash.cfgA s.nor.flash.cfgB).any Prod.fst)),
        (F.SYS_STATE_CONFIG_VALID, b2n (s.nor.flash.cfgA.valid || s.nor.flash.cfgB.valid))] ++
      (if ok then [] else [(F.MEMIF_STATUS_NOR_ERR, 1)])) s t ∧
    s.configDone ok = t.post 0x0103 0xFFFF [if ok then 0 else 0x04] := by
  have hstores := s.configShown_stores.cond (ok = false) fun _ =>
    s.configShown_stores.set F.MEMIF_STATUS_NOR_ERR true (by decide) rfl (by simp +decide)
  refine ⟨_, ?_, s.configDone_eq ok⟩
  simp only [Bool.decide_or, Bool.decide_eq_true, ← Bool.not_eq_true, ite_not] at hstores ⊢
  exact hstores

theorem exec_norRegionUpdateDone_of_none {s : State} {region : Fin 4} (ok : Bool)
    (h : ∀ c, s.nor.writing ≠ some (region.val, c)) : exec (.norRegionUpdateDone region ok) s = .next s := by
  show execNorRegionUpdateDone region ok s = _
  unfold execNorRegionUpdateDone
  split
  · rfl
  · next r c hw => rw [if_pos fun e : r = region.val => h c (e ▸ hw)]

theorem exec_norRegionUpdateDone_of_writing {s e : State} {region : Fin 4} {ok : Bool} {c : NorCopy} {p : NorCopy × NorCopy}
    (h : s.nor.writing = some (region.val, c)) (he : e = s.noteErase 3)
    (hp : p = install s.nor.flash.cfgA s.nor.flash.cfgB c.bytes 0) :
    exec (.norRegionUpdateDone region ok) s = .next (State.configDone { e with nor := { e.nor with
      writing := none, flash := if ok then { e.nor.flash with cfgA := p.1, cfgB := p.2 } else e.nor.flash } } ok) := by
  have hnor : e.nor = s.nor := by rw [he]; rfl
  show execNorRegionUpdateDone region ok s = _
  rw [execNorRegionUpdateDone, h]
  dsimp only
  rw [if_neg (not_not_intro rfl), ← he, hnor, ← hp]
  cases ok <;> rfl

theorem exec_configEraseDone_of_none {s : State} (ok : Bool) (h : s.nor.erasing = false) : exec (.configEraseDone ok) s = .next s :=
  congrArg Host.Outcome.next (if_pos (by simp [h]))

theorem exec_configEraseDone_of_erasing {s e : State} {ok : Bool} (h : s.nor.erasing = true) (he : e = s.noteErase 3) :
    exec (.configEraseDone ok) s = .next (State.configDone { e with nor := { e.nor with
      erasing := false,
      flash := if ok then { e.nor.flash with cfgA := norCopyBlank, cfgB := norCopyBlank } else e.nor.flash } } ok) := by
  show execConfigEraseDone ok s = _
  rw [execConfigEraseDone, if_neg (by simp [h]), ← he]
  cases ok <;> rfl

/-! An update image (R301). -/

theorem exec_safeUpdateImageComplete_of_none {s : State} (norOk : Bool) (h : s.safe.update = none ∨ s.running = false) :
    exec (.safeUpdateImageComplete norOk) s = .next s := by
  show execSafeUpdateImageComplete norOk s = _
  unfold execSafeUpdateImageComplete
  split
  · rfl
  · next r l hu =>
    have hrun : s.running = false := h.resolve_left (by simp [hu])
    rw [if_pos (.inr (by simp [hrun]))]

theorem exec_safeUpdateImageComplete_of_incomplete {s : State} {r : Nat} {l : Load} (norOk : Bool)
    (hu : s.safe.update = some (r, l)) (hl : l.complete = false) : exec (.safeUpdateImageComplete norOk) s = .next s := by
  show execSafeUpdateImageComplete norOk s = _
  rw [execSafeUpdateImageComplete, hu]
  exact congrArg Host.Outcome.next (if_pos (.inl (by simp [hl])))

/-- The load has ended, and VC1 is free again where it carried it. -/
def State.updateOver (l : Load) (s : State) : State :=
  { s with safe := { s.safe with update := none }, banks := if l.mailbox then s.banks else { s.banks with vc1 := 0 } }

/-- The model's end of an update image that has arrived. -/
theorem exec_safeUpdateImageComplete_of_some {s a : State} {r : Nat} {l : Load} {res : Nat} (norOk : Bool)
    (hu : s.safe.update = some (r, l)) (hrun : s.running = true) (hl : l.complete = true) (hres : res = s.updateResult r l)
    (ha : a = s.updateOver l) : exec (.safeUpdateImageComplete norOk) s = .next (
      (if res ≠ 0 then a
        else if ¬ norOk then a.set F.MEMIF_STATUS_NOR_ERR
        else
          let f := norUpdate a.nor.flash r (bytesAt l.bytes 0 l.len)
          let b := State.noteErase { a with nor := { a.nor with flash := f } } (r + 1)
          (b.showRegion 1 f.fwA f.fwB).showRegion 2 f.vaultA f.vaultB).post 0x0C01 r
        [w32 (if res = 0 ∧ ¬ norOk then 0x04 else res)]) := by
  show execSafeUpdateImageComplete norOk s = _
  rw [execSafeUpdateImageComplete, hu]
  dsimp only
  rw [if_neg (by simp [hrun, hl]), ← hres]
  subst ha
  unfold State.updateOver
  cases l.mailbox <;> rfl

/-- An image that arrives whole: refused with its result, installed and shown, or lost to the NOR (R301). -/
theorem exec_safeUpdateImageComplete_results {s a b : State} {r : Nat} {l : Load} {res : Nat} {f : NorImage} (norOk : Bool)
    (hu : s.safe.update = some (r, l)) (hrun : s.running = true) (hl : l.complete = true) (hres : res = s.updateResult r l)
    (hf : f = norUpdate s.nor.flash r (bytesAt l.bytes 0 l.len)) (ha : a = s.updateOver l)
    (hb : b = State.noteErase { a with nor := { a.nor with flash := f } } (r + 1)) :
    (res ≠ 0 → exec (.safeUpdateImageComplete norOk) s = .next (a.post 0x0C01 r [w32 res])) ∧
    (res = 0 → norOk = true → exec (.safeUpdateImageComplete norOk) s =
      .next (((b.showRegion 1 f.fwA f.fwB).showRegion 2 f.vaultA f.vaultB).post 0x0C01 r [w32 0])) ∧
    (res = 0 → norOk = false → exec (.safeUpdateImageComplete norOk) s =
      .next ((a.set F.MEMIF_STATUS_NOR_ERR).post 0x0C01 r [w32 0x04])) := by
  have hnor : a.nor = s.nor := by rw [ha]; rfl
  rw [exec_safeUpdateImageComplete_of_some norOk hu hrun hl hres ha]
  refine ⟨fun hbad => ?_, fun hgood hok => ?_, fun hgood hok => ?_⟩
  · rw [if_pos hbad, if_neg fun h => hbad h.1]
  · rw [if_neg (not_not_intro hgood), if_neg (not_not_intro hok), if_neg fun h => h.2 hok, hnor, ← hf, hgood]
    dsimp only
    rw [← hnor, ← hb]
  · have hfail : ¬ norOk = true := by simp [hok]
    rw [if_neg (not_not_intro hgood), if_pos hfail, if_pos ⟨hgood, hfail⟩]

end Sys2Proof.Machine
end

/-! SUPPORT and CERTIFICATES. The weathering monitor and the NOR's regions: the rows by their lemmas. -/

section
namespace Sys2Proof.Machine

/-- Settles O57: each row and each operation of the plan by the lemmas about its cases. -/
theorem ageingAndNorRegions : Obligations.AgeingAndNorRegions := by
  unfold Obligations.AgeingAndNorRegions
  refine ⟨State.second_stores,
    fun s slacks => ⟨exec_ringSensorRead_of_off slacks, exec_ringSensorRead_of_unmonitored slacks, exec_ringSensorRead_stores⟩,
    fun s temps => ⟨exec_thermalRead_of_off temps, exec_thermalRead_stores⟩,
    fun s failed bad runs hbad hruns => ⟨exec_canaryRead_of_off failed, exec_canaryRead_stores hbad hruns⟩,
    fun s slab => ⟨State.repairCall_of_called, State.repairCall_stores⟩,
    fun s ack mv target status htarget => ⟨exec_avsReadback_of_idle ack mv status, exec_avsReadback_stores htarget⟩,
    fun s v hv => State.planStep_cases (by rw [hv, State.voltageDone_eq, Bool.not_not]),
    fun s => ⟨_, s.voltageShown_stores, s.voltageStep_eq⟩,
    fun s => ⟨State.planExhausted_of_shown, fun h =>
      ⟨_, .one s F.AGE_STATUS_PLAN_STATE 4 4 (by decide) rfl, State.planExhausted_of_not h⟩⟩,
    State.clockStep_shows,
    fun s n => ⟨fun h => ⟨exec_derateRelease_of_none h, exec_eclkChange_of_none h⟩, fun h => ⟨exec_derateRelease_of_some h, ?_⟩⟩,
    fun s a b c d t ha hb hc hd ht => ⟨exec_ageHour_of_off, fun h => exec_ageHour_of_running h ha hb hc hd ht⟩,
    fun s b hb => hb ▸ s.scrubHour_stores, State.ageAppend_record, State.noteErase_stores, State.configDone_stores, install_cases,
    fun s region ok => ⟨exec_norRegionUpdateDone_of_none ok, fun c e p => exec_norRegionUpdateDone_of_writing,
      exec_configEraseDone_of_none ok, fun e => exec_configEraseDone_of_erasing⟩,
    fun s norOk => ⟨exec_safeUpdateImageComplete_of_none norOk, fun r l res a b f hu hrun hres hf ha hb =>
      ⟨exec_safeUpdateImageComplete_of_incomplete norOk hu, fun hl => ?_, fun hl => ?_, fun hl hgood hok =>
        ⟨_, .oneSet a F.MEMIF_STATUS_NOR_ERR true (by decide) rfl, ?_⟩⟩⟩⟩
  · rw [exec_eclkChange_of_some h]
    split
    · rfl
    · exact ⟨_, rfl, s.eclkChanged_stores⟩
  all_goals obtain ⟨hrefused, hinstalled, hlost⟩ := exec_safeUpdateImageComplete_results norOk hu hrun hl hres hf ha hb
  · exact hrefused
  · exact hinstalled
  · exact hlost hgood hok

end Sys2Proof.Machine
end

/-! SUPPORT and CERTIFICATES. A detection that bank memory is unavailable loses bank memory besides its reaction. -/

section
namespace Sys2Proof.Machine

/-- The device in RUN, as it is after a reset otherwise. -/
def State.inRun : State := { State.reset with power := .run }

/-- The entry to FAULT alone leaves bank memory available. -/
theorem inRun_enterFault_available : (State.inRun.enterFault Mech.bankUnavail).banks.available = true := by
  decide +kernel

/-- The reaction MUTE of BANK_UNAVAIL loses bank memory as well (R424). -/
theorem inRun_reactTo_available : (State.inRun.reactTo Mech.bankUnavail 0xFFFF React.mute).banks.available = false := by
  decide +kernel

/-- Refutes O60: BANK_UNAVAIL in RUN with the reaction MUTE, as ESCALATE makes of its DEGRADE (R415), also makes bank memory
unavailable, whatever the reaction (R424), where the statement has every such reaction do nothing but enter FAULT. -/
theorem not_safetyAndStrikes : ¬ Obligations.SafetyAndStrikes := by
  unfold Obligations.SafetyAndStrikes
  rintro ⟨-, -, -, -, hreact, -⟩
  obtain ⟨-, -, -, hmute, -⟩ := hreact State.inRun Mech.bankUnavail 0xFFFF React.mute
  obtain ⟨hfault, -⟩ := hmute (.inr rfl) rfl
  have habsurd : true = false := by
    calc true = (State.inRun.enterFault Mech.bankUnavail).banks.available := inRun_enterFault_available.symm
      _ = (State.inRun.reactTo Mech.bankUnavail 0xFFFF React.mute).banks.available := by rw [hfault]
      _ = false := inRun_reactTo_available
  exact Bool.noConfusion habsurd

end Sys2Proof.Machine
end

/-! SUPPORT and CERTIFICATES. A record written twice, and what stores leave alone: the clock, the ports' records, other words. -/

section
namespace Sys2Proof.Machine

/-- A record written twice under one number: the last one stands. -/
theorem upsert_upsert {α : Type} (num : α → Nat) {x y : α} (h : num x = num y) (l : List α) :
    upsert num y (upsert num x l) = upsert num y l := by
  have hkeep : ∀ p q : Bool, (p && (q && (p && q))) = (p && q) := by decide
  have hlow : ∀ p q : Bool, (p && (q && (!p && q))) = false := by decide
  have hhigh : ∀ p q : Bool, (!p && (q && (p && q))) = false := by decide
  simp [upsert, List.filter_filter, h, hkeep, hlow, hhigh, -not_lt, -Nat.not_lt]

theorem State.setPort_setPort (s : State) {p q : PortSt} (h : p.n = q.n) : (s.setPort p).setPort q = s.setPort q :=
  congrArg (fun l => { s with ports := l }) (upsert_upsert PortSt.n h s.ports)

theorem State.port_setPort_self (s : State) {p : PortSt} {n : Nat} (h : p.n = n) : (s.setPort p).port n = p := by
  rw [State.port_setPort, if_pos h.symm]

theorem onlyStores.port {l : List (Fld × Nat)} {s t : State} (h : onlyStores l s t) (n : Nat) : t.port n = s.port n := by
  rw [h.1]
  rfl

/-- A word that holds none of the stored fields is as it was. -/
theorem onlyStores.rd {l : List (Fld × Nat)} {s t : State} (h : onlyStores l s t) {a : Nat} (ha : ∀ p ∈ l, p.1.addr ≠ a) :
    t.rd a = s.rd a :=
  h.2.2.rd fun f hf => by
    obtain ⟨p, hp, rfl⟩ := List.mem_map.1 hf
    exact ha p hp

/-- Stores above the registers of TIME leave the clock alone. -/
theorem onlyStores.clockKept {l : List (Fld × Nat)} {s t : State} (h : onlyStores l s t) (hl : ∀ p ∈ l, 0x12000 ≤ p.1.addr) :
    ClockKept s t := by
  have hframe := h.1
  refine ⟨by rw [hframe], by rw [hframe], fun a _ ha => h.rd fun p hp => ?_⟩
  have := hl p hp
  omega

/-- A whole word as a field. -/
theorem State.wr_eq_put (s : State) (a v : Nat) : s.wr a (w32 v) = s.put ⟨a, 0, 32⟩ v := by
  refine congrArg (s.wr a) (BitVec.eq_of_getLsbD_eq fun i hi => ?_)
  rw [setBits_getLsbD _ _ _ _ _ hi, if_pos ⟨Nat.zero_le i, by simpa using hi⟩, w32, BitVec.getLsbD_ofNat]
  simp [hi]

/-- A number of 64 bits stored in two words. -/
theorem onlyStores.wr64 {l : List (Fld × Nat)} {s t : State} (h : onlyStores l s t) (lo hi v : Nat) (hne : lo ≠ hi)
    (hap : ∀ p ∈ l, p.1.lo + p.1.width ≤ 32 ∧ p.1.addr ≠ lo ∧ p.1.addr ≠ hi) :
    onlyStores (l ++ [(⟨lo, 0, 32⟩, v % 2 ^ 32), (⟨hi, 0, 32⟩, v / 2 ^ 32 % 2 ^ 32)]) s (t.wr64 lo hi v) := by
  rw [State.wr64, lo32, hi32, State.wr_eq_put, State.wr_eq_put, Nat.shiftRight_eq_div_pow, List.append_cons]
  refine (h.put ⟨lo, 0, 32⟩ v _ le_rfl rfl fun p hp => ⟨(hap p hp).1, .inl (hap p hp).2.1⟩).put ⟨hi, 0, 32⟩ _ _ le_rfl rfl
    (List.forall_mem_append.2 ⟨fun p hp => ⟨(hap p hp).1, .inl (hap p hp).2.2⟩, ?_⟩)
  exact List.forall_mem_singleton.2 ⟨le_rfl, .inl hne⟩

end Sys2Proof.Machine
end

/-! SUPPORT and CERTIFICATES. What the frames of an audio port do: a frame noted, zero and data frames, and what they store. -/

section
namespace Sys2Proof.Machine

/-! A frame noted (R361, R362). -/

/-- The stores of a frame error. -/
def State.frameErr (s : State) (n : Nat) (bad : Bool) : State :=
  if bad then (s.set (F.APORT_STATUS_FRAME_ERR n)).bumpSat (F.APORT_GROUP_FRAME_ERR_CNT n) else s

/-- The record of a port with one frame more. -/
def State.countedPort (s : State) (n : Nat) (bad : Bool) : PortSt :=
  { s.port n with
    sub := (s.port n).sub + 1, fsSeen := true,
    goodFrames := if s.get (F.APORT_STATUS_STATE n) = 4 ∧ bad = false then (s.port n).goodFrames + 1 else 0 }

theorem State.frameErr_stores (s : State) (n : Nat) (bad : Bool) :
    onlyStores (if bad then [(F.APORT_STATUS_FRAME_ERR n, 1),
      (F.APORT_GROUP_FRAME_ERR_CNT n, min 65535 (s.get (F.APORT_GROUP_FRAME_ERR_CNT n) + 1))] else []) s (s.frameErr n bad) := by
  cases bad with
  | false => exact .nil s
  | true =>
    exact (onlyStores.oneSet s (F.APORT_STATUS_FRAME_ERR n) true (Nat.le_of_ble_eq_true rfl) rfl).bumpSat
      (F.APORT_GROUP_FRAME_ERR_CNT n) (Nat.le_of_ble_eq_true rfl)
      (by simp [F.APORT_STATUS_FRAME_ERR, F.APORT_GROUP_FRAME_ERR_CNT, R.APORT_STATUS, R.APORT_GROUP])

/-- What a frame error stores lies in two registers of its port. -/
theorem State.frameErr_fields {s : State} {n : Nat} {bad : Bool} {P : Fld → Prop} (hstatus : P (F.APORT_STATUS_FRAME_ERR n))
    (hcount : P (F.APORT_GROUP_FRAME_ERR_CNT n)) :
    ∀ p ∈ if bad then [(F.APORT_STATUS_FRAME_ERR n, 1),
      (F.APORT_GROUP_FRAME_ERR_CNT n, min 65535 (s.get (F.APORT_GROUP_FRAME_ERR_CNT n) + 1))] else [], P p.1 := by
  cases bad <;> simp [hstatus, hcount]

theorem State.frameNote_eq (s : State) (n : Nat) (bad : Bool) :
    s.frameNote n bad = (s.frameErr n bad).setPort (s.countedPort n bad) := by
  have hport := (s.frameErr_stores n bad).port n
  have hstate : (s.frameErr n bad).get (F.APORT_STATUS_STATE n) = s.get (F.APORT_STATUS_STATE n) :=
    (s.frameErr_stores n bad).get _ (State.frameErr_fields (P := fun f => f.apart (F.APORT_STATUS_STATE n))
      ⟨Nat.le_of_ble_eq_true rfl, .inr (.inr (Nat.le_of_ble_eq_true rfl))⟩
      ⟨Nat.le_of_ble_eq_true rfl, .inl (by simp [F.APORT_GROUP_FRAME_ERR_CNT, F.APORT_STATUS_STATE, R.APORT_STATUS, R.APORT_GROUP])⟩)
  show (s.frameErr n bad).setPort { (s.frameErr n bad).port n with
    sub := ((s.frameErr n bad).port n).sub + 1, fsSeen := true,
    goodFrames := if (s.frameErr n bad).get (F.APORT_STATUS_STATE n) = 4 then
      (if bad then 0 else ((s.frameErr n bad).port n).goodFrames + 1) else 0 } = _
  rw [hport, hstate, State.countedPort]
  cases bad <;> simp

theorem State.frameNote_stores (s : State) (n : Nat) (bad : Bool) :
    onlyStores (if bad then [(F.APORT_STATUS_FRAME_ERR n, 1),
        (F.APORT_GROUP_FRAME_ERR_CNT n, min 65535 (s.get (F.APORT_GROUP_FRAME_ERR_CNT n) + 1))] else [])
      (s.setPort (s.countedPort n bad)) (s.frameNote n bad) := by
  rw [State.frameNote_eq]
  exact (s.frameErr_stores n bad).setPort _

theorem State.frameNote_port (s : State) (n : Nat) (bad : Bool) : (s.frameNote n bad).port n = s.countedPort n bad := by
  rw [(s.frameNote_stores n bad).port n]
  exact s.port_setPort_self (s.port_n n)

theorem State.frameNote_clockKept (s : State) (n : Nat) (bad : Bool) : ClockKept s (s.frameNote n bad) :=
  (ClockKept.refl s).setPort.trans ((s.frameNote_stores n bad).clockKept
    (State.frameErr_fields (P := fun f => 0x12000 ≤ f.addr) (Nat.le_add_right_of_le (by decide)) (Nat.le_add_right_of_le (by decide))))

/-- A register of the port other than its status and its group's is as it was. -/
theorem State.frameNote_rd (s : State) (n : Nat) (bad : Bool) {a : Nat} (hstatus : R.APORT_STATUS n ≠ a)
    (hgroup : R.APORT_GROUP n ≠ a) : (s.frameNote n bad).rd a = s.rd a :=
  (s.frameNote_stores n bad).rd (State.frameErr_fields (P := fun f => f.addr ≠ a) hstatus hgroup)

theorem State.frameNote_get (s : State) (n : Nat) (bad : Bool) {f : Fld} (hstatus : R.APORT_STATUS n ≠ f.addr)
    (hgroup : R.APORT_GROUP n ≠ f.addr) : (s.frameNote n bad).get f = s.get f := by
  rw [State.get, s.frameNote_rd n bad hstatus hgroup]
  rfl

theorem State.frameBad_eq (s : State) (n bc : Nat) : s.frameBad n bc =
    (!s.portMaster (s.portLeader n) && decide (bc ≠ frameBits (s.rd (R.APORT_FRAME n)))) := by
  simp [State.frameBad]

/-! Frames on the pins (R350, R352, R361). -/

theorem toSlot_zero (width : Nat) : toSlot width 0 = 0 := by
  unfold toSlot
  split_ifs <;> decide

theorem State.cutSlot_zero (s : State) (n clocks slot : Nat) : s.cutSlot n clocks slot 0 = 0 := by
  simp [State.cutSlot]

/-- A slot's lower bits that the frame has no clocks for are not sent. -/
theorem State.cutSlot_getLsbD {s : State} {n clocks slot start width : Nat} {w : W32}
    (hwidth : width = widthBits (s.rd (R.APORT_FRAME n))) (hstart : start = s.slotStart n slot) (k : Nat) :
    (s.cutSlot n clocks slot w).getLsbD k = (w.getLsbD k && decide (width ≤ k + (clocks - start))) := by
  subst hwidth hstart
  unfold State.cutSlot
  generalize widthBits (s.rd (R.APORT_FRAME n)) = width, clocks - s.slotStart n slot = carried
  rw [BitVec.getLsbD_shiftLeft, BitVec.getLsbD_ushiftRight]
  by_cases hk : k < 32
  · by_cases hgone : k < width - min width carried
    · simp [hgone, show ¬ width ≤ k + carried by omega]
    · simp [hk, hgone, show width ≤ k + carried by omega, Nat.add_sub_of_le (Nat.not_lt.1 hgone)]
  · simp [hk, BitVec.getLsbD_of_ge w k (Nat.not_lt.1 hk)]

theorem State.slotStart_eq (s : State) (n slot : Nat) : s.slotStart n slot =
    if s.get (F.APORT_CTRL_FORMAT n) = 0 then slot * (frameBits (s.rd (R.APORT_FRAME n)) / 2) + 1
    else if s.get (F.APORT_CTRL_FORMAT n) = 1 then slot * (frameBits (s.rd (R.APORT_FRAME n)) / 2)
    else slot * widthBits (s.rd (R.APORT_FRAME n)) + s.get (F.APORT_FRAME_FS_DELAY n) := by
  unfold State.slotStart
  split
  · next h => rw [if_pos h]
  · next h => rw [h]; rfl
  · next h0 h1 => rw [if_neg h0, if_neg h1]

/-- The record of a port that has sent a frame's words, as far as the clocks of the frame carry them. -/
def State.sentPort (s : State) (n clocks : Nat) (ws : List W32) : PortSt :=
  { s.port n with
    sent := (ws.map fun w => toSlot (widthBits (s.rd (R.APORT_FRAME n))) (wordSample w)).zipIdx.map fun x =>
      if s.portMaster (s.portLeader n) then x.1
      else s.cutSlot n clocks (x.2 % slotsPerPin (s.rd (R.APORT_CTRL n)) (s.rd (R.APORT_FRAME n))) x.1 }

theorem State.portPins_eq (s : State) (n clocks : Nat) (ws : List W32) : s.portPins n clocks ws = s.setPort (s.sentPort n clocks ws) := by
  unfold State.portPins State.sentPort
  cases s.portMaster (s.portLeader n)
  · rfl
  · simp [List.zipIdx_map_fst]

/-- A frame of zeros leaves the pins as zeros, however few clocks it has. -/
theorem State.portPins_zero (s : State) (n clocks k : Nat) :
    s.portPins n clocks (List.replicate k 0) = s.setPort { s.port n with sent := List.replicate k 0 } := by
  rw [State.portPins_eq, State.sentPort]
  refine congrArg (fun l => s.setPort { s.port n with sent := l }) (List.eq_replicate_iff.2 ⟨by simp, fun w hw => ?_⟩)
  obtain ⟨⟨x, i⟩, hx, rfl⟩ := List.mem_map.1 hw
  obtain ⟨y, hy, rfl⟩ := List.mem_map.1 (List.fst_mem_of_mem_zipIdx hx)
  have hzero : toSlot (widthBits (s.rd (R.APORT_FRAME n))) (wordSample y) = 0 := by
    rw [List.eq_of_mem_replicate hy]
    exact toSlot_zero _
  rw [hzero, State.cutSlot_zero, ite_self]

/-- The record of a port after a zero frame: it counts the frame while it rejoins. -/
def PortSt.zeroSent (p : PortSt) (channels : Nat) : PortSt :=
  { p with sent := List.replicate channels 0, rejoin := p.rejoin.map fun r => (r.1, r.2 + 1) }

theorem State.zeroFrame_eq (s : State) (n clocks : Nat) : s.zeroFrame n clocks = s.setPort ((s.port n).zeroSent (s.portCh n)) := by
  rw [State.zeroFrame, State.portPins_zero, State.port_setPort_self, State.setPort_setPort]
  · rfl
  · rfl
  · exact s.port_n n

theorem State.setPort_zeroFrame (s : State) {n : Nat} {p : PortSt} (clocks : Nat) (h : p.n = n) :
    (s.setPort p).zeroFrame n clocks = s.setPort (p.zeroSent (s.portCh n)) := by
  rw [State.zeroFrame_eq, State.port_setPort_self _ h, s.setPort_setPort (p := p) (q := p.zeroSent _) rfl]
  rfl

/-- A zero frame after stores that leave the port's format alone. -/
theorem onlyStores.zeroFrame {l : List (Fld × Nat)} {s t : State} (h : onlyStores l s t) (n clocks : Nat)
    (hap : ∀ p ∈ l, p.1.addr ≠ R.APORT_CTRL n ∧ p.1.addr ≠ R.APORT_FRAME n) :
    onlyStores l (s.setPort ((s.port n).zeroSent (s.portCh n))) (t.zeroFrame n clocks) := by
  have hch : t.portCh n = s.portCh n := by
    rw [State.portCh, h.rd fun p hp => (hap p hp).1, h.rd fun p hp => (hap p hp).2]
    rfl
  rw [State.zeroFrame_eq, hch, h.port n]
  exact h.setPort _

theorem onlyStores.setPort_zeroFrame {l : List (Fld × Nat)} {s t : State} {p : PortSt} {n : Nat} (h : onlyStores l (s.setPort p) t)
    (hn : p.n = n) (clocks : Nat) (hap : ∀ x ∈ l, x.1.addr ≠ R.APORT_CTRL n ∧ x.1.addr ≠ R.APORT_FRAME n) :
    onlyStores l (s.setPort (p.zeroSent (s.portCh n))) (t.zeroFrame n clocks) := by
  have hzero := h.zeroFrame n clocks hap
  rwa [State.port_setPort_self _ hn, s.setPort_setPort (p := p) (q := p.zeroSent _) rfl] at hzero

/-- The frames that a port skips do not depend on the zero frame before. -/
theorem State.setPort_zeroFrame_portSkip (s : State) {n : Nat} {p : PortSt} (clocks m : Nat) (h : p.n = n) :
    ((s.setPort p).zeroFrame n clocks).portSkip n m =
      iter (fun s => s.passRd n) (p.tags.filter fun x => x.2 < m).length (s.setPort (p.zeroSent (s.portCh n))) := by
  rw [State.setPort_zeroFrame s clocks h, State.portSkip, s.port_setPort_self (p := p.zeroSent _) h]
  rfl

theorem State.dataFrame_of_joined {s : State} {n : Nat} (clocks i : Nat) (h : (s.port n).rejoin = none) :
    s.dataFrame n clocks i = s.portPins n clocks (s.readFrame n i) := by
  have hport : ((s.portPins n clocks (s.readFrame n i)).port n).rejoin = none := by
    rw [State.portPins_eq, State.port_setPort_self]
    · exact h
    · exact s.port_n n
  unfold State.dataFrame
  dsimp only
  rw [hport]

/-! RD passes a frame (R356, R365). -/

theorem State.nextRd_lt (s : State) {n i : Nat} (h : (s.port n).oldLen = none) : s.nextRd n i < 2 ^ 16 := by
  have hlen : s.get (F.APORT_LENGTH_LENGTH n) < 2 ^ 16 := bits_lt _ _ _
  rw [State.nextRd, h, Option.getD_none]
  split <;> omega

theorem onlyStores.showTag {l : List (Fld × Nat)} {s t : State} (h : onlyStores l s t) (n : Nat)
    (hap : ∀ p ∈ l, p.1.lo + p.1.width ≤ 32 ∧ p.1.addr ≠ R.APORT_MT_LO n ∧ p.1.addr ≠ R.APORT_MT_HI n) :
    onlyStores (l ++ [(F.APORT_MT_LO_MT_LO n, (kget (t.port n).tags (t.get (F.APORT_RD_RD n))).getD 0 % 2 ^ 32),
      (F.APORT_MT_HI_MT_HI n, (kget (t.port n).tags (t.get (F.APORT_RD_RD n))).getD 0 / 2 ^ 32 % 2 ^ 32)]) s (t.showTag n) :=
  h.wr64 _ _ _ (by simp [R.APORT_MT_LO, R.APORT_MT_HI]) hap

/-- The record of a port that RD has passed a frame of. -/
def PortSt.passed (p : PortSt) (i : Nat) : PortSt := { p with tags := kdel p.tags i }

/-- RD passes a frame while no old length is in force: its tag goes, and the tag of the next one shows. -/
theorem State.setPort_passRd_stores {s : State} {p : PortSt} {n i j mt : Nat} (hn : p.n = n) (hlen : p.oldLen = none)
    (hi : i = s.get (F.APORT_RD_RD n)) (hj : j = (s.setPort p).nextRd n i) (hmt : mt = (kget (kdel p.tags i) j).getD 0) :
    onlyStores [(F.APORT_RD_RD n, j), (F.APORT_MT_LO_MT_LO n, mt % 2 ^ 32), (F.APORT_MT_HI_MT_HI n, mt / 2 ^ 32 % 2 ^ 32)]
      (s.setPort (p.passed i)) ((s.setPort p).passRd n) := by
  have hport := s.port_setPort_self hn
  have hpass : (s.setPort p).passRd n = ((s.setPort (p.passed i)).put (F.APORT_RD_RD n) j).showTag n := by
    rw [← s.setPort_setPort (p := p) (q := p.passed i) rfl]
    subst hi hj
    simp [State.passRd, PortSt.passed, hport, hlen]
  have hfit : j % 2 ^ 16 = j := Nat.mod_eq_of_lt (hj ▸ (s.setPort p).nextRd_lt (hport.symm ▸ hlen))
  have hrd : onlyStores [(F.APORT_RD_RD n, j)] (s.setPort (p.passed i)) ((s.setPort (p.passed i)).put (F.APORT_RD_RD n) j) :=
    .one _ _ _ _ (Nat.le_of_ble_eq_true rfl) hfit
  have hshow := hrd.showTag n (by simp [F.APORT_RD_RD, R.APORT_RD, R.APORT_MT_LO, R.APORT_MT_HI])
  rw [hrd.port n, s.port_setPort_self (p := p.passed i) hn, hrd.2.1 _ (List.mem_singleton_self _), PortSt.passed, ← hmt] at hshow
  rwa [hpass]

/-! What frames store (R356–R359, R365). -/

/-- The stores of an underrun. -/
def State.underrun (s : State) (n : Nat) : State := (s.set (F.APORT_STATUS_UNDERRUN n)).bumpSat (F.APORT_XRUN_UNDER_CNT n)

theorem State.underrun_stores (s : State) (n : Nat) : onlyStores [(F.APORT_STATUS_UNDERRUN n, 1),
    (F.APORT_XRUN_UNDER_CNT n, min 65535 (s.get (F.APORT_XRUN_UNDER_CNT n) + 1))] s
      (s.underrun n) :=
  (onlyStores.oneSet s (F.APORT_STATUS_UNDERRUN n) true (Nat.le_of_ble_eq_true rfl) rfl).bumpSat (F.APORT_XRUN_UNDER_CNT n)
    (Nat.le_of_ble_eq_true rfl) (by simp [F.APORT_STATUS_UNDERRUN, F.APORT_XRUN_UNDER_CNT, R.APORT_STATUS, R.APORT_XRUN])

/-- The stores of an overrun. -/
def State.overrun (s : State) (n : Nat) : State := (s.set (F.APORT_STATUS_OVERRUN n)).bumpSat (F.APORT_XRUN_OVER_CNT n)

theorem State.overrun_stores (s : State) (n : Nat) : onlyStores [(F.APORT_STATUS_OVERRUN n, 1),
    (F.APORT_XRUN_OVER_CNT n, min 65535 (s.get (F.APORT_XRUN_OVER_CNT n) + 1))] s (s.overrun n) :=
  (onlyStores.oneSet s (F.APORT_STATUS_OVERRUN n) true (Nat.le_of_ble_eq_true rfl) rfl).bumpSat (F.APORT_XRUN_OVER_CNT n)
    (Nat.le_of_ble_eq_true rfl) (by simp [F.APORT_STATUS_OVERRUN, F.APORT_XRUN_OVER_CNT, R.APORT_STATUS, R.APORT_XRUN])

/-- A stopping port's frame: it shows STOPPING and counts a POST frame. -/
theorem State.edgeFrame_stopping_stores (s : State) (n : Nat) : onlyStores [(F.APORT_STATUS_STATE n, 3)]
    (s.setPort { s.port n with postLeft := (s.port n).postLeft - 1 }) (s.edgeFrame n true) :=
  .one _ _ _ _ (Nat.le_of_ble_eq_true rfl) rfl

/-- The stores of a RESYNC, before its event. -/
def State.resyncShown (s : State) (n k : Nat) : State :=
  ((s.set (F.APORT_STATUS_RESYNC n)).put (F.APORT_RESYNC_LAST n) (min 65535 k)).bumpSat (F.APORT_RESYNC_CNT n)

theorem State.resyncShown_stores (s : State) (n k : Nat) : onlyStores [(F.APORT_STATUS_RESYNC n, 1),
    (F.APORT_RESYNC_LAST n, min 65535 k), (F.APORT_RESYNC_CNT n, min 65535 (s.get (F.APORT_RESYNC_CNT n) + 1))] s
      (s.resyncShown n k) :=
  ((onlyStores.oneSet s (F.APORT_STATUS_RESYNC n) true (Nat.le_of_ble_eq_true rfl) rfl).put (F.APORT_RESYNC_LAST n) _ _
    (Nat.le_of_ble_eq_true rfl) (Nat.mod_eq_of_lt (Nat.lt_succ_of_le (Nat.min_le_left _ _)))
    (by simp [F.APORT_STATUS_RESYNC, F.APORT_RESYNC_LAST, R.APORT_STATUS, R.APORT_RESYNC])).bumpSat (F.APORT_RESYNC_CNT n)
      (Nat.le_of_ble_eq_true rfl)
      (by simp [F.APORT_STATUS_RESYNC, F.APORT_RESYNC_LAST, F.APORT_RESYNC_CNT, R.APORT_STATUS, R.APORT_RESYNC])

theorem State.advanceWr_moves {s : State} {n : Nat} (h : s.get (F.APORT_WR_WR n) + 1 < s.get (F.APORT_LENGTH_LENGTH n)) :
    onlyStores [(F.APORT_WR_WR n, s.get (F.APORT_WR_WR n) + 1)] s (s.advanceWr n) := by
  have hlen : s.get (F.APORT_LENGTH_LENGTH n) < 2 ^ 16 := bits_lt _ _ _
  rw [State.advanceWr, if_pos h]
  exact .one _ _ _ _ (Nat.le_of_ble_eq_true rfl) (Nat.mod_eq_of_lt (show _ < 2 ^ 16 by omega))

theorem State.advanceWr_wraps {s : State} {n : Nat} (h : s.get (F.APORT_LENGTH_LENGTH n) ≤ s.get (F.APORT_WR_WR n) + 1)
    (hpend : s.flag (F.APORT_STATUS_LEN_PEND n) = false) : onlyStores [(F.APORT_WR_WR n, 0)] s (s.advanceWr n) := by
  have hwrap : onlyStores [(F.APORT_WR_WR n, 0)] s (s.put (F.APORT_WR_WR n) 0) := .one _ _ _ _ (Nat.le_of_ble_eq_true rfl) rfl
  have hflag : (s.put (F.APORT_WR_WR n) 0).flag (F.APORT_STATUS_LEN_PEND n) = false :=
    (hwrap.flag _ (by simp [Fld.apart, F.APORT_WR_WR, F.APORT_STATUS_LEN_PEND, R.APORT_WR, R.APORT_STATUS])).trans hpend
  rw [State.advanceWr, if_neg (Nat.not_lt.2 h), if_pos (.inl (by simp [hflag]))]
  exact hwrap

/-! The frame an output sends (R356, R361, R362). -/

theorem State.portSend_underrun {s : State} {n m : Nat} (clocks : Nat)
    (h : ∀ x, kget (s.port n).tags (s.get (F.APORT_RD_RD n)) = some x → m < x) :
    s.portSend n clocks m = (s.underrun n).zeroFrame n clocks := by
  unfold State.portSend
  dsimp only
  split
  · rfl
  · next x hx =>
    have hlate := h x hx
    rw [if_neg (by omega), if_pos hlate]
    rfl

theorem State.portSend_due {s : State} {n m : Nat} (clocks : Nat)
    (h : kget (s.port n).tags (s.get (F.APORT_RD_RD n)) = some m) :
    s.portSend n clocks m = (s.dataFrame n clocks (s.get (F.APORT_RD_RD n))).passRd n := by
  unfold State.portSend
  dsimp only
  rw [h]
  exact if_pos rfl

/-- Frames whose time has gone are passed, and the frame due, if it is there, is sent. -/
theorem State.portSend_skips {s v : State} {n m x skipped : Nat} (clocks : Nat)
    (h : kget (s.port n).tags (s.get (F.APORT_RD_RD n)) = some x) (hx : x < m)
    (hskipped : skipped = ((s.port n).tags.filter fun y => y.2 < m).length) (hv : v = iter (fun s => s.passRd n) skipped s) :
    s.portSend n clocks m = (if kget (v.port n).tags (v.get (F.APORT_RD_RD n)) = some m then
      (v.dataFrame n clocks (v.get (F.APORT_RD_RD n))).passRd n else v.zeroFrame n clocks).portResync n skipped false := by
  subst hv hskipped
  unfold State.portSend
  dsimp only
  rw [h]
  dsimp only
  rw [if_neg (by omega), if_neg (by omega)]

/-- The frame due, sent and passed by a port that neither rejoins nor holds an old length. -/
theorem State.portSend_stores {s : State} {n m i : Nat} (clocks : Nat) (hi : i = s.get (F.APORT_RD_RD n))
    (hdue : kget (s.port n).tags i = some m) (hjoined : (s.port n).rejoin = none) (hlen : (s.port n).oldLen = none) :
    onlyStores [(F.APORT_RD_RD n, s.nextRd n i),
        (F.APORT_MT_LO_MT_LO n, (kget (kdel (s.port n).tags i) (s.nextRd n i)).getD 0 % 2 ^ 32),
        (F.APORT_MT_HI_MT_HI n, (kget (kdel (s.port n).tags i) (s.nextRd n i)).getD 0 / 2 ^ 32 % 2 ^ 32)]
      (s.setPort ((s.sentPort n clocks (s.readFrame n i)).passed i)) (s.portSend n clocks m) := by
  have hsent : s.portSend n clocks m = (s.setPort (s.sentPort n clocks (s.readFrame n i))).passRd n := by
    rw [State.portSend_due clocks (hi ▸ hdue), State.dataFrame_of_joined _ _ hjoined, State.portPins_eq, hi]
  have hnext : (s.setPort (s.sentPort n clocks (s.readFrame n i))).nextRd n i = s.nextRd n i := by
    rw [State.nextRd, s.port_setPort_self (p := s.sentPort n clocks (s.readFrame n i)) (s.port_n n)]
    rfl
  rw [hsent, ← hnext]
  exact State.setPort_passRd_stores (s.port_n n) hlen hi rfl rfl

end Sys2Proof.Machine
end

/-! SUPPORT and CERTIFICATES. The frames of an audio port: the frame of an output and of an input by the state of the port. -/

section
namespace Sys2Proof.Machine

theorem exec_aportFrameBoundary_of_idle {s : State} {n : Fin 8} (bc : Nat)
    (h : s.portIn n = true ∨ s.get (F.APORT_STATUS_STATE n) = 0) : exec (.aportFrameBoundary n bc) s = .next s :=
  congrArg Host.Outcome.next (if_pos h)

theorem exec_aportInputFrame_of_idle {s : State} {n : Fin 8} (slots : List W32) (bc : Nat)
    (h : s.portIn n = false ∨ s.get (F.APORT_STATUS_STATE n) = 0) : exec (.aportInputFrame n slots bc) s = .next s :=
  congrArg Host.Outcome.next (if_pos (h.imp (by simp [·]) id))

/-- A frame of an output port that is not STOPPED, by the port's state. -/
theorem exec_aportFrameBoundary_of_output {s t : State} {n : Fin 8} {bc m st : Nat} {p : PortSt} (hout : s.portIn n = false)
    (hst : st = s.get (F.APORT_STATUS_STATE n)) (hon : st ≠ 0) (hm : m = s.time.mt + min (s.port n).sub (s.bl - 1))
    (ht : t = s.frameNote n (!s.portMaster (s.portLeader n) && decide (bc ≠ frameBits (s.rd (R.APORT_FRAME n))))) (hp : p = t.port n) :
    exec (.aportFrameBoundary n bc) s = .next (
      if st = 4 then t
      else if p.stopping m = true then (t.edgeFrame n true).zeroFrame n bc
      else if st = 1 then
        if s.portMaster n = true ∧ m + s.get (F.APORT_EDGES_PRE n) < p.startAt then t
        else ((t.edgeFrame n false).zeroFrame n bc).portSkip n (m + 1)
      else t.portSend n bc m) := by
  have hmaster : t.portMaster n = s.portMaster n := by
    rw [ht, State.portMaster, State.flag, State.frameNote_get]
    · rfl
    all_goals simp [F.APORT_CTRL_MASTER, R.APORT_CTRL, R.APORT_STATUS, R.APORT_GROUP]
  have hpre : t.get (F.APORT_EDGES_PRE n) = s.get (F.APORT_EDGES_PRE n) := by
    rw [ht, State.frameNote_get]
    all_goals simp [F.APORT_EDGES_PRE, R.APORT_EDGES, R.APORT_STATUS, R.APORT_GROUP]
  rw [← State.frameBad_eq] at ht
  rw [ht, State.frameNote_port] at hp
  rw [← hmaster, ← hpre]
  subst hst hm hp ht
  exact congrArg Host.Outcome.next (if_neg (not_or.2 ⟨by simp [hout], hon⟩))

/-- A captured frame written at WR with its tag, and WR moved on. -/
def State.captured (s : State) (n tag : Nat) (slots : List W32) : State :=
  let w := s.get (F.APORT_WR_WR n)
  let d := s.writeFrame n w ((List.range (s.portCh n)).map fun k =>
    sampleWord (fromSlot (widthBits (s.rd (R.APORT_FRAME n))) (slots.getD k 0)))
  ((d.setPort { d.port n with tags := kput (d.port n).tags w tag }).showTag n).advanceWr n

/-- A frame of an input port that is not STOPPED, by the port's state and the frame's tag. -/
theorem exec_aportInputFrame_of_input {s t b c : State} {n : Fin 8} {slots : List W32} {bc m st tag gap : Nat} {p : PortSt} {bad : Bool}
    (hin : s.portIn n = true) (hst : st = s.get (F.APORT_STATUS_STATE n)) (hon : st ≠ 0)
    (hm : m = s.time.mt + min (s.port n).sub (s.bl - 1))
    (hbad : bad = (!s.portMaster (s.portLeader n) && decide (bc ≠ frameBits (s.rd (R.APORT_FRAME n)))))
    (ht : t = s.frameNote n bad) (hp : p = t.port n) (htag : tag = m + (s.latency + 2) * s.bl)
    (hb : b = if p.rejoin.isSome then (t.setPort { p with rejoin := none }).post 0x0702 n [0] else t)
    (hgap : gap = (p.lastTag.map fun x => tag - x - 1).getD 0)
    (hc : c = if gap = 0 then b.setPort { b.port n with lastTag := some tag }
      else (b.setPort { b.port n with lastTag := some tag }).portResync n gap false) :
    exec (.aportInputFrame n slots bc) s = .next (
      if st = 4 then t
      else if p.stopping m = true then t.edgeFrame n true
      else if st = 1 then t.edgeFrame n false
      else if bad = true then t
      else if p.lastTag = some tag then b.portResync n 1 false
      else if (kget (c.port n).tags (c.get (F.APORT_WR_WR n))).isSome then c.overrun n
      else c.captured n tag slots) := by
  have hclock : ClockKept s t := ht ▸ s.frameNote_clockKept n bad
  have hlatency : t.latency = s.latency := by
    rw [State.latency, State.pOff, State.get, hclock.rd (by decide) (by decide)]
    rfl
  rw [← hlatency, ← hclock.bl] at htag
  rw [← State.frameBad_eq] at hbad
  have hcount : p = s.countedPort n bad := by rw [hp, ht, State.frameNote_port]
  refine congrArg Host.Outcome.next ((if_neg (not_or.2 ⟨by simp [hin], fun h => hon (hst.trans h)⟩)).trans ?_)
  extract_lets bad' q t' tag' portT b' gap' portB noted c' w width words d portD
  have hbad' : bad' = bad := hbad.symm
  have ht' : t' = t := by rw [ht, ← hbad']
  have hstop : q.stopping (s.portNow n) = p.stopping m := by rw [hcount, hm]; rfl
  have hlast : q.lastTag = p.lastTag := by rw [hcount]; rfl
  have htag' : tag' = tag := by rw [htag, hm, ← ht']; rfl
  have hb' : b' = b := by
    rw [hb, show p.rejoin = q.rejoin by rw [hcount]; rfl, hp, ← ht']
  have hgap' : gap' = gap := by
    rw [hgap, ← hlast, ← htag']
    unfold gap'
    cases q.lastTag <;> rfl
  have hc' : c' = c := by rw [hc, ← hgap', ← hb', ← htag']
  have hcaptured : (State.showTag (d.setPort { portD with tags := kput portD.tags w tag' }) n).advanceWr n = c.captured n tag slots := by
    rw [← hc', ← htag']
    rfl
  rw [hcaptured, hbad', ht', hstop, hlast, htag', hb']
  refine if_congr (by rw [hst]; rfl) rfl (if_congr Iff.rfl rfl (if_congr (by rw [hst]; rfl) rfl (if_congr Iff.rfl rfl
    (if_congr Iff.rfl rfl (if_congr (by rw [← hc']) (by rw [hc']; rfl) rfl)))))

/-- Settles O52: each frame by the state of its port, and a running port's by whether the frame due is there. -/
theorem portFrames : Obligations.PortFrames := by
  unfold Obligations.PortFrames
  refine ⟨fun s n slots bc => ⟨exec_aportFrameBoundary_of_idle bc, exec_aportInputFrame_of_idle slots bc⟩,
    State.frameNote_stores, ?_, ?_, ?_, fun s n k len => ⟨_, rfl, s.resyncShown_stores n k⟩,
    fun s n => ⟨State.advanceWr_moves, State.advanceWr_wraps⟩⟩
  · intro s t n bc m st i p zeros hout hst hon hm ht hp hi hzeros
    have hexec := exec_aportFrameBoundary_of_output hout hst hon hm ht hp
    subst hp hi hzeros
    refine ⟨fun h => ?lost, fun h hstop => ?stopping, fun h hstop => ?starting, fun h h' hstop => ⟨fun hdue hjoined hlen => ?due,
      fun hunder => ?under, fun x skipped v hx hlt hskipped hv => ?skips⟩⟩
    case lost => rw [hexec, if_pos h]
    case stopping =>
      have hstores := (t.edgeFrame_stopping_stores n).setPort_zeroFrame (t.port_n n) bc
        (by simp [F.APORT_STATUS_STATE, R.APORT_STATUS, R.APORT_CTRL, R.APORT_FRAME])
      exact ⟨_, by rw [hexec, if_neg h, if_pos hstop], hstores⟩
    case starting =>
      rw [hexec, if_neg (by omega), if_neg (by simp [hstop]), if_pos h]
      refine congrArg Host.Outcome.next (if_congr Iff.rfl rfl ?_)
      exact t.setPort_zeroFrame_portSkip bc (m + 1) (t.port_n n)
    case due =>
      exact ⟨_, _, by rw [hexec, if_neg h, if_neg (by simp [hstop]), if_neg h'], rfl, State.portSend_stores bc rfl hdue hjoined hlen⟩
    case under =>
      exact ⟨_, by rw [hexec, if_neg h, if_neg (by simp [hstop]), if_neg h', State.portSend_underrun bc hunder],
        (t.underrun_stores n).zeroFrame n bc
          (by simp [F.APORT_STATUS_UNDERRUN, F.APORT_XRUN_UNDER_CNT, R.APORT_STATUS, R.APORT_XRUN, R.APORT_CTRL, R.APORT_FRAME])⟩
    case skips =>
      rw [hexec, if_neg h, if_neg (by simp [hstop]), if_neg h', State.portSend_skips bc hx hlt hskipped hv]
  · intro s n clocks slot start width w hwidth hstart
    exact State.cutSlot_getLsbD hwidth (by rw [hstart, hwidth, State.slotStart_eq])
  · intro s t b c n slots bc m st tag gap w p bad hin hst hon hm hbad ht hp htag hb hgap hc hw
    have hexec := exec_aportInputFrame_of_input (slots := slots) hin hst hon hm hbad ht hp htag hb hgap hc
    subst hp hw
    refine ⟨fun h => ?lost, fun h hstop => ⟨_, ?stopping, t.edgeFrame_stopping_stores n⟩, fun h hstop => ?starting,
      fun h h' hstop => ⟨fun hbad => ?short, fun hgood hlast => ?again, fun hgood hlast hfull => ⟨_, ?overrun, c.overrun_stores n⟩,
        fun hgood hlast hfree d hd => ?captured⟩⟩
    case lost => rw [hexec, if_pos h]
    case stopping => rw [hexec, if_neg h, if_pos hstop]
    case starting =>
      rw [hexec, if_neg (by omega), if_neg (by simp [hstop]), if_pos h]
      rfl
    all_goals rw [hexec, if_neg h, if_neg (by simp [hstop]), if_neg h']
    case short => rw [if_pos hbad]
    case again => rw [if_neg (by simp [hgood]), if_pos hlast]
    case overrun => rw [if_neg (by simp [hgood]), if_neg hlast, if_pos hfull]
    case captured =>
      rw [if_neg (by simp [hgood]), if_neg hlast, if_neg (by simp [hfree]), hd]
      rfl

end Sys2Proof.Machine
end

/-! SUPPORT and CERTIFICATES. An audio port's data begins, its stop ends, its clock is lost and comes back, and its rate is measured. -/

section
namespace Sys2Proof.Machine

/-! Data begins, and a stop ends (R358, R359). -/

theorem State.setPortState_stores (s : State) {n st : Nat} (h : st < 16) :
    onlyStores [(F.APORT_STATUS_STATE n, st)] s (s.setPortState n st) :=
  .one _ _ _ _ (Nat.le_of_ble_eq_true rfl) (Nat.mod_eq_of_lt h)

/-- No frame is tagged before the beginning. -/
theorem State.portSkip_zero (s : State) (n : Nat) : s.portSkip n 0 = s := by
  rw [State.portSkip, List.filter_eq_nil_iff.2 (by simp)]
  rfl

theorem exec_aportDataStart {s : State} {n : Fin 8} {p : PortSt} {m : Nat} (hp : p = s.port n)
    (hm : m = s.time.mt + min p.sub (s.bl - 1)) : exec (.aportDataStart n) s = .next (
      if s.get (F.APORT_STATUS_STATE n) = 1 ∧ p.startAt ≤ m ∧ (s.portMaster n = true ∨ p.fsSeen = true ∧ p.preLeft = 0) ∧
        p.stopping m = false then
        if s.portIn n = true then s.setPortState n 2
        else iter (fun s => s.passRd n) ((p.tags.filter fun x => x.2 < m).length) (s.setPortState n 2)
      else s) := by
  subst hp hm
  refine congrArg Host.Outcome.next (if_congr ?_ ?_ rfl)
  · refine and_congr Iff.rfl (and_congr Iff.rfl (and_congr ?_ (Bool.not_eq_true _).to_iff))
    cases s.portMaster n <;> simp
  · by_cases hin : s.portIn n = true
    · rw [if_pos hin, if_pos hin, State.portSkip_zero]
      rfl
    · rw [if_neg hin, if_neg hin]
      rfl

/-- The record of a port whose stop has ended; `kept` says that its buffer stays. -/
def PortSt.halted (p : PortSt) (kept : Prop) [Decidable kept] : PortSt :=
  { (if kept then p else { p with tags := [], lastTag := none, oldLen := none }) with
    stopAt := none, preLeft := 0, postLeft := 0, fsSeen := false, goodFrames := 0 }

theorem exec_aportStopDone {s : State} {n : Fin 8} {p : PortSt} {m : Nat} (hp : p = s.port n)
    (hm : m = s.time.mt + min p.sub (s.bl - 1)) : exec (.aportStopDone n) s = .next (
      if s.get (F.APORT_STATUS_STATE n) ≠ 0 ∧ p.postLeft = 0 ∧ p.stopping m = true then
        (s.setPort (p.halted (s.portIn n = true ∧ s.get (F.APORT_STATUS_STATE n) ≠ 4))).setPortState n 0
      else s) := by
  subst hp hm
  rfl

/-! The clock (R361, R362). -/

/-- The record of a port whose clock is back: its buffer goes, and it rejoins by tag. -/
def PortSt.rejoining (p : PortSt) : PortSt := { p.flush with rejoin := some (false, 0), goodFrames := 0 }

/-- An empty buffer from its first frame on. -/
def State.rewound (s : State) (n : Nat) (p : PortSt) : State :=
  ((s.setPort p.rejoining).put (F.APORT_RD_RD n) 0).put (F.APORT_WR_WR n) 0

theorem State.rewound_stores (s : State) (n : Nat) (p : PortSt) :
    onlyStores [(F.APORT_RD_RD n, 0), (F.APORT_WR_WR n, 0)] (s.setPort p.rejoining) (s.rewound n p) :=
  (onlyStores.one (s.setPort p.rejoining) (F.APORT_RD_RD n) 0 0 (Nat.le_of_ble_eq_true rfl) rfl).put (F.APORT_WR_WR n) 0 0
    (Nat.le_of_ble_eq_true rfl) rfl (by simp [F.APORT_RD_RD, F.APORT_WR_WR, R.APORT_RD, R.APORT_WR])

theorem State.rewound_showTag_stores (s : State) {n : Nat} {p : PortSt} (h : p.n = n) :
    onlyStores [(F.APORT_RD_RD n, 0), (F.APORT_WR_WR n, 0), (F.APORT_MT_LO_MT_LO n, 0), (F.APORT_MT_HI_MT_HI n, 0)]
      (s.setPort p.rejoining) ((s.rewound n p).showTag n) := by
  have hshow := (s.rewound_stores n p).showTag n
    (by simp [F.APORT_RD_RD, F.APORT_WR_WR, R.APORT_RD, R.APORT_WR, R.APORT_MT_LO, R.APORT_MT_HI])
  have hempty : ∀ i, kget p.rejoining.tags i = none := fun _ => rfl
  rw [(s.rewound_stores n p).port n, s.port_setPort_self (p := p.rejoining) h, hempty] at hshow
  exact hshow

theorem State.rewound_portNow (s : State) {n : Nat} {p : PortSt} (h : p.n = n) :
    (s.rewound n p).portNow n = s.time.mt + min p.sub (s.bl - 1) := by
  have hstores := s.rewound_stores n p
  have hclock : ClockKept s (s.rewound n p) := (ClockKept.refl s).setPort.trans (hstores.clockKept (by
    simp [F.APORT_RD_RD, F.APORT_WR_WR, R.APORT_RD, R.APORT_WR]
    omega))
  rw [State.portNow, hstores.port n, s.port_setPort_self (p := p.rejoining) h, hclock.bl, hclock.1]
  rfl

theorem exec_aportClockBack {s : State} {n : Fin 8} {p : PortSt} {m : Nat} (hp : p = s.port n)
    (hm : m = s.time.mt + min p.sub (s.bl - 1)) : exec (.aportClockBack n) s = .next (
      if s.get (F.APORT_STATUS_STATE n) = 4 ∧ 4 ≤ p.goodFrames then
        ((s.rewound n p).showTag n).setPortState n (if p.startAt ≤ m then 2 else 1)
      else s) := by
  have hidle : (s.get (F.APORT_STATUS_STATE n) ≠ 4 ∨ p.goodFrames < 4) ↔
      ¬ (s.get (F.APORT_STATUS_STATE n) = 4 ∧ 4 ≤ p.goodFrames) := by omega
  rw [hm, ← s.rewound_portNow (n := n) (p := p) (hp ▸ s.port_n n)]
  subst hp
  exact congrArg Host.Outcome.next ((if_congr hidle rfl rfl).trans (ite_not _ _ _))

theorem exec_aportFsTimeout_of_idle {s : State} {n : Fin 8}
    (h : s.portMaster n = true ∨ s.get (F.APORT_STATUS_STATE n) = 0 ∨ s.portLeader n ≠ n) : exec (.aportFsTimeout n) s = .next s :=
  congrArg Host.Outcome.next (if_pos h)

theorem exec_aportFsTimeout_of_leader {s : State} {n : Fin 8} (hslave : s.portMaster n = false)
    (hon : s.get (F.APORT_STATUS_STATE n) ≠ 0) (hleader : s.portLeader n = n) : exec (.aportFsTimeout n) s = .next (
      if s.flag (F.APORT_GROUP_IN_GROUP n) = true then
        forEach ((List.range 8).filter fun m => s.flag (F.APORT_GROUP_IN_GROUP m) ∧
          s.get (F.APORT_GROUP_GROUP m) = s.get (F.APORT_GROUP_GROUP n)) s fun m s => s.portLost m
      else s.portLost n) := by
  have hact : ¬ (s.portMaster n = true ∨ s.portState n = Port.stopped ∨ s.portLeader n ≠ n) := by
    rintro (h | h | h)
    · simp [hslave] at h
    · exact hon h
    · exact h hleader
  exact congrArg Host.Outcome.next (if_neg hact)

theorem State.portMoves_iff (s : State) (n : Nat) :
    s.portMoves n = true ↔ 1 ≤ s.get (F.APORT_STATUS_STATE n) ∧ s.get (F.APORT_STATUS_STATE n) ≤ 3 := decide_eq_true_iff

theorem State.portLost_of_still {s : State} {n : Nat} (h : s.get (F.APORT_STATUS_STATE n) = 0 ∨ 4 ≤ s.get (F.APORT_STATUS_STATE n)) :
    s.portLost n = s := by
  rw [State.portLost, if_pos]
  rw [State.portMoves_iff]
  omega

/-- What a lost clock shows, and the run of good frames begun anew. -/
def State.clockLost (s : State) (n : Nat) : State :=
  let t := (s.setPortState n 4).set (F.APORT_STATUS_CLK_LOST_EVT n)
  t.setPort { t.port n with goodFrames := 0 }

theorem State.clockLost_stores (s : State) (n : Nat) : onlyStores [(F.APORT_STATUS_STATE n, 4), (F.APORT_STATUS_CLK_LOST_EVT n, 1)]
    (s.setPort { s.port n with goodFrames := 0 }) (s.clockLost n) :=
  ((s.setPortState_stores (by decide)).set (F.APORT_STATUS_CLK_LOST_EVT n) true (Nat.le_of_ble_eq_true rfl) rfl
    (by simp [F.APORT_STATUS_STATE, F.APORT_STATUS_CLK_LOST_EVT])).setPort _

/-- Posting an event writes no port's configuration. -/
theorem eventWord_portCtrl (n : Nat) : eventWord (R.APORT_CTRL n) = false := by
  simp only [eventWord, Bool.or_eq_false_iff, decide_eq_false_iff_not]
  simp only [R.APORT_CTRL, R.EVQ_STATUS, R.EVQ_LOST_TOTAL, R.HOST_IRQ_STAT, R.STRM_VC_CREDIT, R.STRM_VC_TXCNT]
  omega

theorem State.portLost_of_moves {s : State} {n : Nat} (h : 1 ≤ s.get (F.APORT_STATUS_STATE n))
    (h' : s.get (F.APORT_STATUS_STATE n) ≤ 3) : s.portLost n =
      if s.portIn n then (s.clockLost n).post 0x0701 n [lo32 s.blockNow]
      else ((s.clockLost n).post 0x0701 n [lo32 s.blockNow]).failType 2 (fun i => i / 32 = n) 2 := by
  have hclock : ClockKept s (s.clockLost n) := (ClockKept.refl s).setPort.trans ((s.clockLost_stores n).clockKept (by
    simp [F.APORT_STATUS_STATE, F.APORT_STATUS_CLK_LOST_EVT, R.APORT_STATUS]
    omega))
  have hin : ((s.clockLost n).post 0x0701 n [lo32 (s.clockLost n).blockNow]).portIn n = s.portIn n := by
    rw [State.portIn, State.flag, State.get_post _ _ _ _ (eventWord_portCtrl n), ← State.flag, (s.clockLost_stores n).flag]
    · rfl
    · simp [Fld.apart, F.APORT_STATUS_STATE, F.APORT_STATUS_CLK_LOST_EVT, F.APORT_CTRL_DIR, R.APORT_STATUS, R.APORT_CTRL]
  rw [← hclock.blockNow, ← hin, State.portLost, if_neg (not_not_intro ((s.portMoves_iff n).2 ⟨h, h'⟩))]
  rfl

/-! The rate (R363). -/

theorem exec_aportRateMeasure_of_idle {s : State} {n : Fin 8} {cycles : Nat}
    (h : s.get (F.APORT_STATUS_STATE n) = 0 ∨ cycles = 0) : exec (.aportRateMeasure n cycles) s = .next s :=
  congrArg Host.Outcome.next (if_pos h)

/-- A measurement stored. -/
def State.rateShown (s : State) (n r : Nat) : State := (s.setPort { s.port n with measured := true }).put (F.APORT_RATE_RATE n) r

theorem State.rateShown_stores (s : State) (n r : Nat) : onlyStores [(F.APORT_RATE_RATE n, r % 2 ^ 24)]
    (s.setPort { s.port n with measured := true }) (s.rateShown n r) := .one _ _ _ _ (Nat.le_of_ble_eq_true rfl) rfl

theorem exec_aportRateMeasure_of_on {s : State} {n : Fin 8} {cycles r ref thr : Nat} (hon : s.get (F.APORT_STATUS_STATE n) ≠ 0)
    (hcycles : 0 < cycles) (hr : r = 4096 * 64 * aclkHz s.rate / cycles) (href : ref = s.get (F.APORT_RATE_REF_REF n))
    (hthr : thr = s.get (F.APORT_RATE_CFG_THR n)) : exec (.aportRateMeasure n cycles) s = .next (
      if (s.port n).measured = false then (s.rateShown n r).put (F.APORT_RATE_REF_REF n) r
      else if thr ≠ 0 ∧ ref * thr < ((r : Int) - ref).natAbs * 1000000 then
        (((s.rateShown n r).set (F.APORT_STATUS_RATE_CHG n)).post 0x0704 n [w32 r, w32 ref]).put (F.APORT_RATE_REF_REF n) r
      else s.rateShown n r) := by
  have hrefKept : (s.rateShown n r).get (F.APORT_RATE_REF_REF n) = ref := by
    rw [href]
    exact (s.rateShown_stores n r).get _ (by simp [Fld.apart, F.APORT_RATE_RATE, F.APORT_RATE_REF_REF, R.APORT_RATE, R.APORT_RATE_REF])
  have hthrKept : (s.rateShown n r).get (F.APORT_RATE_CFG_THR n) = thr := by
    rw [hthr]
    exact (s.rateShown_stores n r).get _ (by simp [Fld.apart, F.APORT_RATE_RATE, F.APORT_RATE_CFG_THR, R.APORT_RATE, R.APORT_RATE_CFG])
  have hact : ¬ (s.portState n = Port.stopped ∨ cycles = 0) := not_or.2 ⟨hon, by omega⟩
  rw [← hrefKept, ← hthrKept]
  clear hrefKept hthrKept href hthr
  subst hr
  exact congrArg Host.Outcome.next ((if_neg hact).trans (if_congr (by simp) rfl rfl))

/-- Settles O53: each row by whether its conditions hold, and a lost clock by the direction of its port. -/
theorem portClocksAndRate : Obligations.PortClocksAndRate := by
  unfold Obligations.PortClocksAndRate
  refine ⟨fun s n p m hp hm => ⟨?start, ?stop, ?back⟩,
    fun s n => ⟨exec_aportFsTimeout_of_idle, exec_aportFsTimeout_of_leader⟩,
    fun s n => ⟨State.portLost_of_still, fun h h' => ⟨_, s.clockLost_stores n, State.portLost_of_moves h h'⟩⟩,
    fun s n cycles r => ⟨exec_aportRateMeasure_of_idle, fun hon hcycles hr =>
      ⟨fun hfirst => ?first, fun ref thr hlater href hthr => ?later⟩⟩⟩
  case start =>
    rw [exec_aportDataStart hp hm]
    split
    · exact ⟨_, s.setPortState_stores (by decide), rfl⟩
    · rfl
  case stop =>
    rw [exec_aportStopDone hp hm]
    split
    · exact ⟨_, rfl, State.setPortState_stores _ (by decide)⟩
    · rfl
  case back =>
    rw [exec_aportClockBack hp hm]
    split
    · refine ⟨_, rfl, (s.rewound_showTag_stores (hp ▸ s.port_n n)).put (F.APORT_STATUS_STATE n) _ _
        (Nat.le_of_ble_eq_true rfl) ?_ ?_⟩
      · split <;> rfl
      · simp [F.APORT_RD_RD, F.APORT_WR_WR, F.APORT_MT_LO_MT_LO, F.APORT_MT_HI_MT_HI, F.APORT_STATUS_STATE, R.APORT_RD, R.APORT_WR,
          R.APORT_MT_LO, R.APORT_MT_HI, R.APORT_STATUS]
    · rfl
  case first =>
    refine ⟨_, by rw [exec_aportRateMeasure_of_on hon hcycles hr rfl rfl, if_pos hfirst], (s.rateShown_stores n r).put _ _ _
      (Nat.le_of_ble_eq_true rfl) rfl (by simp [F.APORT_RATE_RATE, F.APORT_RATE_REF_REF, R.APORT_RATE, R.APORT_RATE_REF])⟩
  case later =>
    have hexec := exec_aportRateMeasure_of_on hon hcycles hr href hthr
    rw [if_neg (show ¬ (s.port n).measured = false by simp [hlater])] at hexec
    by_cases hchanged : thr ≠ 0 ∧ ref * thr < ((r : Int) - ref).natAbs * 1000000
    · rw [if_pos hchanged] at hexec ⊢
      exact ⟨_, _, (s.rateShown_stores n r).set (F.APORT_STATUS_RATE_CHG n) true (Nat.le_of_ble_eq_true rfl) rfl
        (by simp [F.APORT_RATE_RATE, F.APORT_STATUS_RATE_CHG, R.APORT_RATE, R.APORT_STATUS]), hexec,
        .one _ _ _ _ (Nat.le_of_ble_eq_true rfl) rfl⟩
    · rw [if_neg hchanged] at hexec ⊢
      exact ⟨_, hexec, s.rateShown_stores n r⟩

end Sys2Proof.Machine
end
